-- ==== Sys2Proof/Word.lean ====
section
/-!
DEFINITION. The bit-vector widths the manual names (R12, R17, R19, R230) and nothing else.
-/

namespace Sys2Proof

/-- One byte of memory (R12). -/
abbrev Byte := BitVec 8

/-- A 32-bit value: one FP32 word, one element of a 32-bit format. -/
abbrev Word32 := BitVec 32

/-- A 64-bit value: a register of BAR0 (R17), a scalar register (R230). -/
abbrev Word64 := BitVec 64

/-- A vector register (R81, R230). -/
abbrev VecWord := BitVec 4096

/-- The anchored register (R135). -/
abbrev AccWord := BitVec 136

end Sys2Proof
end

