-- ==== Sys2Proof/Syntax.lean ====
section
/-!
DEFINITION. The commands of the block: one constructor of `Instr` per row of spec/opcode_table.json, with the
operands the spec gives that row, and the small types its operands use.  Most rows are events or host commands
rather than program instructions; a row that is a slot instruction of a core program carries, as its first operand,
the logical core that issues it.
-/

namespace Sys2Proof

/-- A logical core of a pen's job: the pen (1 to 12) and the logical core id (R49, R261). -/
structure CoreRef where
  pen : Nat
  logical : Nat
  deriving DecidableEq, Repr

/-- Scalar register number (R230). -/
abbrev SReg := Fin 64
/-- Vector register number (R230). -/
abbrev VReg := Fin 32
/-- Predicate register number (R230). -/
abbrev PReg := Fin 8
/-- Descriptor slot number (R230). -/
abbrev DSlot := Fin 16
/-- Update-microprogram register number (R441). -/
abbrev UReg := Fin 32
/-- Mover number (R198). -/
abbrev MoverIx := Fin 4
/-- The predicate a vector instruction runs under; `none` is the control field's bit 15 clear (R245). -/
abbrev PredCtl := Option PReg
/-- A pen number; the pens of a module are 1 to 12 (R572). -/
abbrev Pen := Nat
/-- A bay number (R48). -/
abbrev Bay := Fin 12
/-- A link port number; port n belongs to bay n (R342). -/
abbrev Port := Fin 12
/-- A PCIe function: 0 is PF0, p is the virtual function of pen p (R615). -/
abbrev Func := Fin 13
/-- A command ring number (R618). -/
abbrev Ring := Fin 4096

/-- The eight element formats (R74). -/
inductive Fmt where
  | fp32 | bf16 | fp16 | e4m3 | e5m2 | int8 | int16 | int32
  deriving DecidableEq, Repr

/-- The rounding options (R86). -/
inductive Rm where
  | rne | rz | sr | ru | rd | rna
  deriving DecidableEq, Repr

/-- The branch conditions (R242). -/
inductive BrCond where
  | eq | ne | lt | ge | ltu | geu
  deriving DecidableEq, Repr

/-- The vector compare conditions (R245). -/
inductive VCond where
  | eq | ne | lt | le
  deriving DecidableEq, Repr

/-- The form of an anchored reduction (R127). -/
inductive Form where
  | product | sum | squares
  deriving DecidableEq, Repr

/-- The row-wise functions of a fused drain (R170). -/
inductive RowFn where
  | none | expSub | exp | sigmoid | tanh | erf | gelu
  deriving DecidableEq, Repr

/-- Which kind of unit holds a late item (R214, R215): a port or a bay's refresh. -/
inductive LateHolder where
  | port (p : Port)
  | bay (b : Bay)
  deriving DecidableEq, Repr

/-- The outcome of the ECC decoding of a 32-byte sector (R314 to R316): good, corrected, found uncorrectable, or an error that passes
undetected as the data given. -/
inductive SecEcc where
  | good
  | corrected
  | uncorrectable
  | undetected (data : List Byte)
  deriving DecidableEq, Repr

/-- The outcomes of the two sectors of a line (R314). -/
structure EccOut where
  lo : SecEcc
  hi : SecEcc
  deriving DecidableEq, Repr

/-- An RS(544,514) codeword as it arrives on a lane (R341, R343): the 514 payload symbols that were sent, and the symbols of the 544 that
are in error, each with the bits that differ. -/
structure Codeword where
  payload : List (BitVec 10)
  errs : List (Nat × BitVec 10)
  deriving DecidableEq, Repr

/-- What an access covers of a register (R17): its 8 bytes, or the 4 bytes of bits [31:0] or [63:32]. -/
inductive RegPart where
  | whole
  | low
  | high
  deriving DecidableEq, Repr

/-- The part of HBM_WIN_DATA that an access reaches (R338): the first or the second register, whole or by halves. -/
structure WinReg where
  second : Bool
  part : RegPart
  deriving DecidableEq, Repr

/-- A function's access to a register, whole or by halves. -/
structure FuncPart where
  fn : Func
  part : RegPart
  deriving DecidableEq, Repr

/-- A command that runs on a mover: the mover, and the command's place among those that run there, oldest first (R205, R289). -/
structure RunRef where
  m : MoverIx
  k : Nat
  deriving DecidableEq, Repr

/-- A register access: a read, or a write of a value. -/
inductive RegAcc where
  | read
  | write (value : Word64)
  deriving DecidableEq, Repr

/-- A memory access of a function: a read of some bytes, or a write of bytes. -/
inductive MemAcc where
  | read (len : Nat)
  | write (bytes : List Byte)
  deriving DecidableEq, Repr

/-- The payload line of a vote message (R446). -/
structure Vote where
  step : Nat
  attempt : Nat
  nonfinite : Nat
  status : Word64
  digests : List Word64
  deriving DecidableEq, Repr

/-- Where a vote message comes from: a child of the tree, by rank, or the parent (R446). -/
inductive VoteSrc where
  | child (rank : Nat)
  | parent
  deriving DecidableEq, Repr

/-- What a vote message carries: a payload on its way to rank 0 or the outcome on its way down (R446), or a resync
payload, which holds only step and attempt (R449). -/
inductive VotePayload where
  | vote (v : Vote)
  | resync (step attempt : Nat)
  deriving DecidableEq, Repr

/-- What another member of a shard group contributes to the clip rounds of one record (R438): its crest and its long
form. -/
structure ClipPeer where
  record : Nat
  member : Nat
  crest : BitVec 8
  v : AccWord
  anchor : Int
  flags : BitVec 8
  deriving DecidableEq, Repr

/-- A link message: the header fields of R356, the data slots as they travel, 64 bytes each, and the tag. -/
structure LinkMsg where
  mtype : Nat
  last : Bool := false
  sigDone : Bool := false
  sigBlk : Bool := false
  vote : Bool := false
  group : Nat := 0x7F
  jobTag : BitVec 16
  srcDev : BitVec 16
  dstDev : BitVec 16
  srcPort : Nat
  target : Nat := 0
  doneCtr : Nat := 0
  blkCtr : Nat := 0
  hop : Nat := 0
  alt : Bool := false
  grpCharge : Nat := 0
  charge : Nat := 0
  dstVa : Nat := 0
  ctr : Nat := 0
  xfer : BitVec 32 := 0#32
  doneAdd : BitVec 32 := 0#32
  mask : Word64 := 0#64
  lines : List (List Byte) := []
  tag : List Byte := []
  deriving DecidableEq, Repr

/-- A credit return (R354): hop class, kind code, group and slots. -/
structure Credit where
  cls : Nat
  kind : Nat
  group : Nat
  slots : Nat
  deriving DecidableEq, Repr

/-- A port's identity as an IDENTITY flit carries it (R350). -/
structure LinkIdentity where
  devId : BitVec 16
  idValid : Bool
  port : Nat
  part : BitVec 16
  serial : Word64
  deriving DecidableEq, Repr

/-- The operation of a CONTROL flit (R350). -/
inductive Ctl where
  | identity (i : LinkIdentity)
  | lanes (good : BitVec 8) (fseq : BitVec 32)
  | retrain
  deriving DecidableEq, Repr

/-- A message slot of a flit (R346, R348): a header, with the header fields only, or a data line. -/
inductive Slot where
  | empty
  | header (m : LinkMsg) (nlines : Nat)
  | data (line : List Byte)
  deriving DecidableEq, Repr

/-- The kind of a flit (R346). -/
inductive FlitKind where
  | idle
  | normal
  | control (c : Ctl)
  deriving DecidableEq, Repr

/-- The fields of a flit (R346). -/
structure Flit where
  kind : FlitKind
  nak : Option (BitVec 32)
  replayed : Bool := false
  fseq : BitVec 32 := 0#32
  ackSeq : BitVec 32
  slots : List Slot := []
  credits : List Credit := []
  deriving DecidableEq, Repr

/-- The sender of an order: the operator or the authority (R595). -/
inductive Master where
  | operator
  | authority
  deriving DecidableEq, Repr

/-- A member's tuple for one record in the exchange of R557. -/
structure DedupTuple where
  member : Nat
  record : Nat
  indexBase : Nat
  elems : Nat
  dParam : Word64
  dM1 : Word64
  dM2 : Word64
  deriving DecidableEq, Repr

/-- How an authority order reached the device (R591): the mailbox, whose accepted record the device holds, or a record
over the management port or the SMBus. -/
inductive OrderFrom where
  | mailbox
  | network (record : List Byte)
  | smbus (record : List Byte)
  deriving DecidableEq, Repr

/-- An MCTP endpoint of the SPDM responder (R600). -/
inductive SpdmEp where
  | pcie (fn : Func)
  | smbus
  deriving DecidableEq, Repr

/-- The algorithms a requester offers (R600). -/
structure SpdmAlgs where
  ecdsaP384 : Bool
  sha384 : Bool
  secp384r1 : Bool
  aes256gcm : Bool
  deriving DecidableEq, Repr

/-- The tamper sensors (R603). -/
inductive TamperSensor where
  | voltage | clock | temp | enclosure
  deriving DecidableEq, Repr

/-- What a start-up stage found (R662, R664): the milliseconds since power-good, whether the PLLs locked, the bays whose
stacks failed, and the sites that failed their test. -/
structure StageRes where
  ms : Nat
  pllLocked : Bool
  failedBays : BitVec 12
  failedSites : List Nat
  deriving DecidableEq, Repr

/-- What a compute reset ends with (R673): the milliseconds it took and the sites that failed the test of its order 5. -/
structure ResetRes where
  ms : Nat
  failedSites : List Nat
  deriving DecidableEq, Repr

/-- The commands of the block, one constructor per row of the opcode table. -/
inductive Instr where
  /-- NOP (R239). -/
  | nop (u : CoreRef)
  /-- END (R265). -/
  | endProg (u : CoreRef)
  /-- CORE_ENDED (R265). -/
  | coreEnded (u : CoreRef)
  /-- LI (R239). -/
  | li (u : CoreRef) (rd : SReg) (imm : BitVec 32)
  /-- LIH (R239). -/
  | lih (u : CoreRef) (rd : SReg) (ra : SReg) (imm : BitVec 32)
  /-- ADDI (R239). -/
  | addi (u : CoreRef) (rd : SReg) (ra : SReg) (imm : BitVec 32)
  /-- ADD (R239). -/
  | add (u : CoreRef) (rd : SReg) (ra : SReg) (rb : SReg)
  /-- SUB (R239). -/
  | sub (u : CoreRef) (rd : SReg) (ra : SReg) (rb : SReg)
  /-- MUL (R239). -/
  | mul (u : CoreRef) (rd : SReg) (ra : SReg) (rb : SReg)
  /-- MULHU (R239). -/
  | mulhu (u : CoreRef) (rd : SReg) (ra : SReg) (rb : SReg)
  /-- AND (R239). -/
  | andS (u : CoreRef) (rd : SReg) (ra : SReg) (rb : SReg)
  /-- OR (R239). -/
  | orS (u : CoreRef) (rd : SReg) (ra : SReg) (rb : SReg)
  /-- XOR (R239). -/
  | xorS (u : CoreRef) (rd : SReg) (ra : SReg) (rb : SReg)
  /-- SHL (R239). -/
  | shl (u : CoreRef) (rd : SReg) (ra : SReg) (rb : SReg)
  /-- SHR (R239). -/
  | shr (u : CoreRef) (rd : SReg) (ra : SReg) (rb : SReg)
  /-- SRA (R239). -/
  | sra (u : CoreRef) (rd : SReg) (ra : SReg) (rb : SReg)
  /-- MIN (R239). -/
  | minS (u : CoreRef) (rd : SReg) (ra : SReg) (rb : SReg)
  /-- MAX (R239). -/
  | maxS (u : CoreRef) (rd : SReg) (ra : SReg) (rb : SReg)
  /-- MINU (R239). -/
  | minu (u : CoreRef) (rd : SReg) (ra : SReg) (rb : SReg)
  /-- MAXU (R239). -/
  | maxu (u : CoreRef) (rd : SReg) (ra : SReg) (rb : SReg)
  /-- SLT (R239). -/
  | slt (u : CoreRef) (rd : SReg) (ra : SReg) (rb : SReg)
  /-- SLTU (R239). -/
  | sltu (u : CoreRef) (rd : SReg) (ra : SReg) (rb : SReg)
  /-- SEL (R239). -/
  | sel (u : CoreRef) (rd : SReg) (ra : SReg) (rb : SReg) (rc : SReg)
  /-- SLD (R239). -/
  | sld (u : CoreRef) (rd : SReg) (ra : SReg) (imm : BitVec 32)
  /-- SLD_W (R239). -/
  | sldW (u : CoreRef) (rd : SReg) (ra : SReg) (imm : BitVec 32)
  /-- SST (R239). -/
  | sst (u : CoreRef) (rd : SReg) (ra : SReg) (imm : BitVec 32)
  /-- SST_W (R239). -/
  | sstW (u : CoreRef) (rd : SReg) (ra : SReg) (imm : BitVec 32)
  /-- BR (R239). -/
  | br (u : CoreRef) (target : BitVec 32)
  /-- BC (R239). -/
  | bc (u : CoreRef) (cond : BrCond) (ra : SReg) (rb : SReg) (target : BitVec 32)
  /-- LBEG (R240). -/
  | lbeg (u : CoreRef) (dslot : DSlot) (sd : SReg) (sb : SReg) (len : BitVec 16)
  /-- SIG_ADD (R241). -/
  | sigAdd (u : CoreRef) (self : Bool) (ctr : BitVec 8) (rt : SReg) (imm : BitVec 32)
  /-- WAIT_GE (R242). -/
  | waitGe (u : CoreRef) (ctr : BitVec 8) (ra : SReg) (imm : BitVec 32)
  /-- WAIT_EQ (R242). -/
  | waitEq (u : CoreRef) (ctr : BitVec 8) (ra : SReg) (imm : BitVec 32)
  /-- WAIT_RELEASE (R242). -/
  | waitRelease (u : CoreRef)
  /-- SYNC_FENCE (R290). -/
  | syncFence (u : CoreRef)
  /-- FENCE_RELEASE (R290). -/
  | fenceRelease (u : CoreRef)
  /-- CSRR (R239). -/
  | csrr (u : CoreRef) (rd : SReg) (csr : BitVec 12)
  /-- CSRW (R239). -/
  | csrw (u : CoreRef) (ra : SReg) (csr : BitVec 12)
  /-- CSRC (R239). -/
  | csrc (u : CoreRef) (ra : SReg) (csr : BitVec 12)
  /-- VADD (R244). -/
  | vadd (u : CoreRef) (fmt : Fmt) (rm : Rm) (sat : Bool) (pq : PredCtl) (vd : VReg) (va : VReg) (vb : VReg)
  /-- VSUB (R244). -/
  | vsub (u : CoreRef) (fmt : Fmt) (rm : Rm) (sat : Bool) (pq : PredCtl) (vd : VReg) (va : VReg) (vb : VReg)
  /-- VMUL (R244). -/
  | vmul (u : CoreRef) (fmt : Fmt) (rm : Rm) (pq : PredCtl) (vd : VReg) (va : VReg) (vb : VReg)
  /-- VFMA (R244). -/
  | vfma (u : CoreRef) (fmt : Fmt) (rm : Rm) (pq : PredCtl) (vd : VReg) (va : VReg) (vb : VReg) (vc : VReg)
  /-- VMIN (R244). -/
  | vmin (u : CoreRef) (fmt : Fmt) (pq : PredCtl) (vd : VReg) (va : VReg) (vb : VReg)
  /-- VMAX (R244). -/
  | vmax (u : CoreRef) (fmt : Fmt) (pq : PredCtl) (vd : VReg) (va : VReg) (vb : VReg)
  /-- VABS (R244). -/
  | vabs (u : CoreRef) (fmt : Fmt) (pq : PredCtl) (vd : VReg) (va : VReg)
  /-- VNEG (R244). -/
  | vneg (u : CoreRef) (fmt : Fmt) (pq : PredCtl) (vd : VReg) (va : VReg)
  /-- VCOPYSIGN (R244). -/
  | vcopysign (u : CoreRef) (fmt : Fmt) (pq : PredCtl) (vd : VReg) (va : VReg) (vb : VReg)
  /-- VDIV (R244). -/
  | vdiv (u : CoreRef) (rm : Rm) (pq : PredCtl) (vd : VReg) (va : VReg) (vb : VReg)
  /-- VRECIP (R244). -/
  | vrecip (u : CoreRef) (rm : Rm) (pq : PredCtl) (vd : VReg) (va : VReg)
  /-- VSQRT (R244). -/
  | vsqrt (u : CoreRef) (rm : Rm) (pq : PredCtl) (vd : VReg) (va : VReg)
  /-- VRSQRT (R244). -/
  | vrsqrt (u : CoreRef) (rm : Rm) (pq : PredCtl) (vd : VReg) (va : VReg)
  /-- VEXP (R114). -/
  | vexp (u : CoreRef) (pq : PredCtl) (vd : VReg) (va : VReg)
  /-- VEXP2 (R114). -/
  | vexp2 (u : CoreRef) (pq : PredCtl) (vd : VReg) (va : VReg)
  /-- VLOG (R115). -/
  | vlog (u : CoreRef) (pq : PredCtl) (vd : VReg) (va : VReg)
  /-- VTANH (R116). -/
  | vtanh (u : CoreRef) (pq : PredCtl) (vd : VReg) (va : VReg)
  /-- VSIGMOID (R116). -/
  | vsigmoid (u : CoreRef) (pq : PredCtl) (vd : VReg) (va : VReg)
  /-- VERF (R117). -/
  | verf (u : CoreRef) (pq : PredCtl) (vd : VReg) (va : VReg)
  /-- VGELU (R117). -/
  | vgelu (u : CoreRef) (pq : PredCtl) (vd : VReg) (va : VReg)
  /-- VAND (R244). -/
  | vand (u : CoreRef) (fmt : Fmt) (pq : PredCtl) (vd : VReg) (va : VReg) (vb : VReg)
  /-- VOR (R244). -/
  | vor (u : CoreRef) (fmt : Fmt) (pq : PredCtl) (vd : VReg) (va : VReg) (vb : VReg)
  /-- VXOR (R244). -/
  | vxor (u : CoreRef) (fmt : Fmt) (pq : PredCtl) (vd : VReg) (va : VReg) (vb : VReg)
  /-- VSHL (R244). -/
  | vshl (u : CoreRef) (fmt : Fmt) (pq : PredCtl) (vd : VReg) (va : VReg) (vb : VReg)
  /-- VSHR (R244). -/
  | vshr (u : CoreRef) (fmt : Fmt) (pq : PredCtl) (vd : VReg) (va : VReg) (vb : VReg)
  /-- VSRA (R244). -/
  | vsra (u : CoreRef) (fmt : Fmt) (pq : PredCtl) (vd : VReg) (va : VReg) (vb : VReg)
  /-- VCMP (R246). -/
  | vcmp (u : CoreRef) (fmt : Fmt) (cond : VCond) (pq : PredCtl) (pd : PReg) (va : VReg) (vb : VReg)
  /-- VSEL (R244). -/
  | vsel (u : CoreRef) (fmt : Fmt) (p : PReg) (vd : VReg) (va : VReg) (vb : VReg)
  /-- VMOV (R244). -/
  | vmov (u : CoreRef) (fmt : Fmt) (pq : PredCtl) (vd : VReg) (va : VReg)
  /-- VBCAST (R244). -/
  | vbcast (u : CoreRef) (fmt : Fmt) (pq : PredCtl) (vd : VReg) (sx : SReg)
  /-- VEXT (R244). -/
  | vext (u : CoreRef) (fmt : Fmt) (pq : PredCtl) (sd : SReg) (va : VReg) (sx : SReg)
  /-- VROT (R244). -/
  | vrot (u : CoreRef) (pq : PredCtl) (vd : VReg) (va : VReg) (sx : SReg)
  /-- VCVT (R247). -/
  | vcvt (u : CoreRef) (dfmt : Fmt) (sfmt : Fmt) (rm : Rm) (sat : Bool) (part : BitVec 2) (useCode : BitVec 16) (six : SReg) (sst : SReg) (pq : PredCtl) (vd : VReg) (va : VReg)
  /-- VCREST (R103). -/
  | vcrest (u : CoreRef) (fmt : Fmt) (pq : PredCtl) (sd : SReg) (va : VReg)
  /-- VLD (R245). -/
  | vld (u : CoreRef) (off : BitVec 12) (sstr : SReg) (sb : SReg) (pq : PredCtl) (vd : VReg)
  /-- VST (R245). -/
  | vst (u : CoreRef) (off : BitVec 12) (sstr : SReg) (sb : SReg) (pq : PredCtl) (vd : VReg)
  /-- VRED (R248). -/
  | vred (u : CoreRef) (init : Bool) (pq : PredCtl) (sspec : SReg) (saddr : SReg) (vcr : VReg) (vb : VReg) (va : VReg) (seg : Nat) (form : Form) (fmt : Fmt)
  /-- VLF_COMB (R249). -/
  | vlfComb (u : CoreRef) (n : BitVec 16) (sb : SReg) (sa : SReg) (sd : SReg) (wide : Bool)
  /-- VLF_DRAIN (R249). -/
  | vlfDrain (u : CoreRef) (fmt : Fmt) (sat : Bool) (wide : Bool) (sa : SReg) (vd : VReg)
  /-- PAND (R244). -/
  | pand (u : CoreRef) (pq : PredCtl) (pd : PReg) (pa : PReg) (pb : PReg)
  /-- POR (R244). -/
  | por (u : CoreRef) (pq : PredCtl) (pd : PReg) (pa : PReg) (pb : PReg)
  /-- PXOR (R244). -/
  | pxor (u : CoreRef) (pq : PredCtl) (pd : PReg) (pa : PReg) (pb : PReg)
  /-- PNOT (R244). -/
  | pnot (u : CoreRef) (pq : PredCtl) (pd : PReg) (pa : PReg)
  /-- PSET (R244). -/
  | pset (u : CoreRef) (pq : PredCtl) (pd : PReg) (sx : SReg)
  /-- MANC (R165). -/
  | manc (u : CoreRef) (spec : SReg) (vr : VReg) (fb : Fmt) (fa : Fmt)
  /-- MANC_CHAIN (R176). -/
  | mancChain (u : CoreRef) (spec : SReg) (vr : VReg) (fb : Fmt)
  /-- MTILE (R166). -/
  | mtile (u : CoreRef) (n : BitVec 16) (sb : SReg) (sa : SReg) (fb : Fmt) (fa : Fmt)
  /-- MTILE_FIRST (R162). -/
  | mtileFirst (u : CoreRef) (n : BitVec 16) (sb : SReg) (sa : SReg) (fb : Fmt) (fa : Fmt)
  /-- MTILE_FIRST_SWAP (R168). -/
  | mtileFirstSwap (u : CoreRef) (n : BitVec 16) (sb : SReg) (sa : SReg) (fb : Fmt) (fa : Fmt)
  /-- MTILE_X3_FP32 (R178). -/
  | mtileX3 (u : CoreRef) (n : BitVec 16) (sb : SReg) (sa : SReg)
  /-- MTILE_X3_FIRST_FP32 (R178). -/
  | mtileX3First (u : CoreRef) (n : BitVec 16) (sb : SReg) (sa : SReg)
  /-- MTILE_X3_FIRST_SWAP_FP32 (R178). -/
  | mtileX3FirstSwap (u : CoreRef) (n : BitVec 16) (sb : SReg) (sa : SReg)
  /-- MSWAP (R168). -/
  | mswap (u : CoreRef)
  /-- TILE_PASS (R168). -/
  | tilePass (u : CoreRef)
  /-- STRICT_RERUN (R180). -/
  | strictRerun (u : CoreRef)
  /-- MLOAD_LF (R169). -/
  | mloadLf (u : CoreRef) (ssrc : SReg)
  /-- MLOAD_WLF (R169). -/
  | mloadWlf (u : CoreRef) (ssrc : SReg)
  /-- MDRAIN (R170). -/
  | mdrain (u : CoreRef) (srsum : Option SReg) (srmax : Option SReg) (smask : SReg) (causal : Bool) (vrow : VReg) (fn : RowFn) (sdst : Option SReg) (sat : Bool) (fmt : Fmt)
  /-- MDRAIN_LF (R174). -/
  | mdrainLf (u : CoreRef) (sdst : SReg)
  /-- MDRAIN_WLF (R182). -/
  | mdrainWlf (u : CoreRef) (sdst : SReg)
  /-- DRAIN_COMPLETE (R170). -/
  | drainComplete (u : CoreRef)
  /-- MCHAIN (R175). -/
  | mchain (u : CoreRef) (rsumEn : Bool) (causal : Bool) (vrow : VReg) (fn : RowFn) (n1m1 : BitVec 3) (nt : BitVec 16) (sb : SReg) (first : Bool) (fc : Fmt) (fb : Fmt) (fa : Fmt)
  /-- MXFER (R199). -/
  | mxfer (u : CoreRef) (sSig : SReg) (sCtl : SReg) (sDst : SReg) (sSrc : SReg) (ddst : DSlot) (dsrc : DSlot) (m : MoverIx)
  /-- MSCAN_CREST (R103). -/
  | mscanCrest (u : CoreRef) (fmt : Fmt) (sSig : SReg) (sCtl : SReg) (sBase : SReg) (cslot : DSlot) (dwalk : DSlot) (m : MoverIx)
  /-- MSCAN_CMAX (R212). -/
  | mscanCmax (u : CoreRef) (sSig : SReg) (sCtl : SReg) (sDst : SReg) (sSrc : SReg) (ddst : DSlot) (dsrc : DSlot) (m : MoverIx)
  /-- MSTOP (R207). -/
  | mstop (u : CoreRef) (m : MoverIx)
  /-- DLD (R252). -/
  | dld (u : CoreRef) (imm : BitVec 32) (sa : SReg) (dslot : DSlot)
  /-- DST (R252). -/
  | dst (u : CoreRef) (imm : BitVec 32) (sa : SReg) (dslot : DSlot)
  /-- DSET (R252). -/
  | dset (u : CoreRef) (k : BitVec 3) (sa : SReg) (dslot : DSlot)
  /-- MOVER_COMMAND_START (R196). -/
  | moverCommandStart (u : CoreRef) (m : MoverIx)
  /-- MOVER_READ_RETURN (R206). -/
  | moverReadReturn (u : CoreRef) (m : MoverIx)
  /-- MOVER_UNIT_WRITE (R203): commands that do not overlap write in any order (R289). -/
  | moverUnitWrite (u : CoreRef) (r : RunRef)
  /-- MOVER_GATE_OPEN (R202). -/
  | moverGateOpen (u : CoreRef) (r : RunRef)
  /-- ATTACHED_SIGNAL_APPLY (R281). -/
  | attachedSignalApply (u : CoreRef) (r : RunRef)
  /-- MOVER_SQUASH_DONE (R207). -/
  | moverSquashDone (u : CoreRef) (m : MoverIx)
  /-- CRESTED_GROUP_WRITE (R211). -/
  | crestedGroupWrite (u : CoreRef) (r : RunRef)
  /-- PACKET_ARRIVE (R273). -/
  | packetArrive (ix : Nat)
  /-- PACKET_INJECT (R272). -/
  | packetInject (u : CoreRef)
  /-- BALANCE_CHECK (R287). -/
  | balanceCheck (pen : Pen)
  /-- LATE_ITEM_STOP (R214). -/
  | lateItemStop (pen : Pen) (holder : LateHolder)
  /-- LATE_ITEM_RESTART (R214). -/
  | lateItemRestart (pen : Pen)
  /-- TURN_END (R61). -/
  | turnEnd (pen : Pen)
  /-- QUIESCE_END (R61). -/
  | quiesceEnd (pen : Pen)
  /-- EXCHANGE_END (R63). -/
  | exchangeEnd (pen : Pen)
  /-- STEP_T0 (R434). -/
  | stepT0 (pen : Pen)
  /-- ENTRY_BUNDLE (R264). -/
  | entryBundle (pen : Pen)
  /-- GATE_RAISE (R433). -/
  | gateRaise (pen : Pen)
  /-- SWEEP_START (R436). -/
  | sweepStart (pen : Pen) (peers : List ClipPeer)
  /-- SWEEP_COMPLETE (R445). -/
  | sweepComplete (pen : Pen)
  /-- UNOP (R442). -/
  | unop (b : Bay)
  /-- UADD (R442). -/
  | uadd (b : Bay) (rd : UReg) (ra : UReg) (rb : UReg)
  /-- USUB (R442). -/
  | usub (b : Bay) (rd : UReg) (ra : UReg) (rb : UReg)
  /-- UMUL (R442). -/
  | umul (b : Bay) (rd : UReg) (ra : UReg) (rb : UReg)
  /-- UFMA (R442). -/
  | ufma (b : Bay) (rd : UReg) (ra : UReg) (rb : UReg) (rc : UReg)
  /-- UMIN (R442). -/
  | umin (b : Bay) (rd : UReg) (ra : UReg) (rb : UReg)
  /-- UMAX (R442). -/
  | umax (b : Bay) (rd : UReg) (ra : UReg) (rb : UReg)
  /-- UABS (R442). -/
  | uabs (b : Bay) (rd : UReg) (ra : UReg)
  /-- UNEG (R442). -/
  | uneg (b : Bay) (rd : UReg) (ra : UReg)
  /-- UCOPYSIGN (R442). -/
  | ucopysign (b : Bay) (rd : UReg) (ra : UReg) (rb : UReg)
  /-- UDIV (R442). -/
  | udiv (b : Bay) (rd : UReg) (ra : UReg) (rb : UReg)
  /-- URECIP (R442). -/
  | urecip (b : Bay) (rd : UReg) (ra : UReg)
  /-- USQRT (R442). -/
  | usqrt (b : Bay) (rd : UReg) (ra : UReg)
  /-- URSQRT (R442). -/
  | ursqrt (b : Bay) (rd : UReg) (ra : UReg)
  /-- UEXP (R442). -/
  | uexp (b : Bay) (rd : UReg) (ra : UReg)
  /-- UEXP2 (R442). -/
  | uexp2 (b : Bay) (rd : UReg) (ra : UReg)
  /-- ULOG (R442). -/
  | ulog (b : Bay) (rd : UReg) (ra : UReg)
  /-- UTANH (R442). -/
  | utanh (b : Bay) (rd : UReg) (ra : UReg)
  /-- USIGMOID (R442). -/
  | usigmoid (b : Bay) (rd : UReg) (ra : UReg)
  /-- UERF (R442). -/
  | uerf (b : Bay) (rd : UReg) (ra : UReg)
  /-- UGELU (R442). -/
  | ugelu (b : Bay) (rd : UReg) (ra : UReg)
  /-- ULT (R442). -/
  | ult (b : Bay) (rd : UReg) (ra : UReg) (rb : UReg)
  /-- USEL (R442). -/
  | usel (b : Bay) (rd : UReg) (ra : UReg) (rb : UReg) (rc : UReg)
  /-- ULDK (R442). -/
  | uldk (b : Bay) (rd : UReg) (imm : BitVec 4)
  /-- USIGN (R442). -/
  | usign (b : Bay) (rd : UReg) (ra : UReg)
  /-- UBSUM (R443). -/
  | ubsum (b : Bay) (rd : UReg) (ra : UReg)
  /-- UBMAX (R443). -/
  | ubmax (b : Bay) (rd : UReg) (ra : UReg)
  /-- VOTE_RECEIVE (R446). -/
  | voteReceive (pen : Pen) (src : VoteSrc) (pay : VotePayload)
  /-- SEND_DRAIN_COMPLETE (R449). -/
  | sendDrainComplete (pen : Pen)
  /-- RESYNC_DONE (R449). -/
  | resyncDone (pen : Pen)
  /-- VOTE_TIMEOUT (R519). -/
  | voteTimeout (pen : Pen)
  /-- MEM_READ (R316). -/
  | memRead (b : Bay) (line : Nat) (ecc : EccOut)
  /-- MEM_WRITE (R317). -/
  | memWrite (b : Bay) (line : Nat) (off : Nat) (data : List Byte) (poison : Bool) (ecc : EccOut)
  /-- REFRESH (R324). -/
  | refresh (b : Bay)
  /-- STACK_TEMP_CHANGE (R324). -/
  | stackTempChange (b : Bay) (celsius : Int)
  /-- PATROL (R326). -/
  | patrol (b : Bay) (ecc : EccOut)
  /-- BOUNDARY_WORK (R330). -/
  | boundaryWork (pen : Pen) (rereads : List EccOut)
  /-- WINDOW_COMMIT (R309). -/
  | windowCommit (fn : Func)
  /-- COMMIT_CHECK_DONE (R310). -/
  | commitCheckDone (pen : Pen)
  /-- WIN_DATA_ACCESS (R338). -/
  | winDataAccess (fn : Func) (reg : WinReg) (acc : RegAcc)
  /-- CODEWORD_RECEIVE (R343): the payload symbols that were sent, and the symbols in error with the bits that differ. -/
  | codewordReceive (p : Port) (lane : Nat) (payload : List (BitVec 10)) (errs : List (Nat × BitVec 10))
  /-- LOSS_OF_LOCK (R343). -/
  | lossOfLock (p : Port) (lane : Nat)
  /-- FLIT_RECEIVE (R349): the flit of a logical lane of the frame being taken. -/
  | flitReceive (p : Port) (logical : Nat)
  /-- RETRY_BUDGET_EXHAUSTED (R352). -/
  | retryBudgetExhausted (p : Port)
  /-- RETRAIN_DONE (R352). -/
  | retrainDone (p : Port) (failedLanes : BitVec 8)
  /-- IDENTITY (R350). -/
  | identity (p : Port) (idn : LinkIdentity)
  /-- LANES (R350). -/
  | lanes (p : Port) (goodMask : BitVec 8) (fseq : BitVec 32)
  /-- RETRAIN (R350). -/
  | retrain (p : Port)
  /-- MESSAGE_SEND (R355). -/
  | messageSend (p : Port)
  /-- WRITE (R358). -/
  | write (p : Port) (msg : LinkMsg)
  /-- SIGNAL (R357). -/
  | signal (p : Port) (msg : LinkMsg)
  /-- ACK (R359). -/
  | ack (p : Port) (msg : LinkMsg)
  /-- ACK_TIMER (R359). -/
  | ackTimer (p : Port) (srcDev : BitVec 16) (srcPort : Nat)
  /-- MESSAGE_FORWARD (R364). -/
  | messageForward (p : Port) (msg : LinkMsg)
  /-- ALT_ROUTE_TIMEOUT (R364). -/
  | altRouteTimeout (p : Port)
  /-- LINK_LOST (R359). -/
  | linkLost (p : Port)
  /-- LANE_WINDOW_END (R371): of the lanes given. -/
  | laneWindowEnd (p : Port) (lanes : BitVec 8)
  /-- LANE_RETIRE (R372). -/
  | laneRetire (p : Port) (tx : Bool) (lane : Nat)
  /-- SYNTH_LOCK (R375). -/
  | synthLock (p : Port)
  /-- SYNTH_TIMEOUT (R375). -/
  | synthTimeout (p : Port)
  /-- TRAINING_ATTEMPT (R376). -/
  | trainingAttempt (p : Port)
  /-- TRAINING_COMPLETE (R377): the lanes that have locked, each lane's skew in codewords, and the lanes that precode. -/
  | trainingComplete (p : Port) (locked : BitVec 8) (skews : List Nat) (precoded : BitVec 8)
  /-- BER_WINDOW_END (R379): with the lanes that were measured. -/
  | berWindowEnd (p : Port) (lanes : BitVec 8)
  /-- CENSUS_CLOSE (R378). -/
  | censusClose
  /-- PARTNER_REMOVED (R378). -/
  | partnerRemoved (p : Port)
  /-- LINK_STAGE_BEGIN (R662). -/
  | linkStageBegin
  /-- LINK_STAGE_END (R380). -/
  | linkStageEnd
  /-- TRAIN (R386). -/
  | train (p : Nat) (master : Master)
  /-- IDLE (R386). -/
  | idle (p : Nat) (master : Master)
  /-- CLEAR_COUNTS (R386). -/
  | clearCounts (p : Nat) (master : Master)
  /-- CLOSE_DEADLINE (R410). -/
  | closeDeadline (pen : Pen) (group : Nat)
  /-- SITE_FENCE (R509). -/
  | siteFence (site : Nat) (detector : Nat)
  /-- ADOPTION_DONE (R511). -/
  | adoptionDone (pen : Pen)
  /-- REPLAY_DONE (R511). -/
  | replayDone (pen : Pen)
  /-- FAULT_DETECT (R515). -/
  | faultDetect (b : Bay) (detector : Nat) (dev : BitVec 16)
  /-- YOKE_CHECK_MISMATCH (R67). -/
  | yokeCheckMismatch (pen : Pen) (logical : Nat)
  /-- SITE_TEST_RESULT (R524). -/
  | siteTestResult (site : Nat) (pass : Bool) (pattern : Nat) (ms : Nat)
  /-- WX_BUCKET (R527). -/
  | wxBucket
  /-- INJ_ARM (R531). -/
  | injArm (fn : Func)
  /-- INJ_CANCEL (R532). -/
  | injCancel (fn : Func)
  /-- NOISE_WINDOW (R461). -/
  | noiseWindow (samples : List Bool)
  /-- RNG_STARTUP_TEST (R460). -/
  | rngStartupTest (samples : List Bool)
  /-- RNG_RETRY (R462). -/
  | rngRetry (samples : List Bool)
  /-- CMD_NOP (R628). -/
  | cmdNop (ring : Ring)
  /-- DMA_H2D (R629). -/
  | dmaH2d (ring : Ring)
  /-- DMA_D2H (R629). -/
  | dmaD2h (ring : Ring)
  /-- JOB_LOAD (R641). -/
  | jobLoad (ring : Ring)
  /-- JOB_UNLOAD (R628). -/
  | jobUnload (ring : Ring)
  /-- JOB_ABORT (R644). -/
  | jobAbort (ring : Ring)
  /-- STEP_RELEASE (R643). -/
  | stepRelease (ring : Ring)
  /-- SEED_SET (R465). -/
  | seedSet (ring : Ring)
  /-- SEED_DRAW (R466). -/
  | seedDraw (ring : Ring)
  /-- YOKE_CHECK (R68). -/
  | yokeCheck (ring : Ring)
  /-- SNAPSHOT (R453). -/
  | snapshot (ring : Ring)
  /-- CKPT_ARM (R550). -/
  | ckptArm (ring : Ring)
  /-- BUDDY_RECEIVE (R559). -/
  | buddyReceive (ring : Ring)
  /-- RESTORE (R563). -/
  | restore (ring : Ring)
  /-- RESTORE_FINISH (R564). -/
  | restoreFinish (ring : Ring) (peers : List (BitVec 64))
  /-- LEDGER_IMPORT (R497): the ring, and the entries imported on rank 0, with which check 3 compares. -/
  | ledgerImport (ring : Ring) (rankZero : List (List (BitVec 8)))
  /-- JOURNAL_EXPORT (R628). -/
  | journalExport (ring : Ring)
  /-- FTP_LOAD (R521). -/
  | ftpLoad (ring : Ring)
  /-- CKPT_WRITE (R553). -/
  | ckptWrite (pen : Pen) (peers : List DedupTuple)
  /-- CKPT_COMPLETE (R560). -/
  | ckptComplete (pen : Pen)
  /-- CKPT_BUDDY_TIMEOUT (R560). -/
  | ckptBuddyTimeout (pen : Pen)
  /-- DOORBELL (R621). -/
  | doorbell (fn : Func) (ring : Ring) (value : BitVec 64)
  /-- COMMAND_FETCH (R622). -/
  | commandFetch (ring : Ring)
  /-- EVENT_POST (R624). -/
  | eventPost (fn : Func)
  /-- INTERRUPT (R623). -/
  | interrupt (ring : Ring)
  /-- RING_ENABLE (R620). -/
  | ringEnable (fn : Func) (ring : Ring)
  /-- BAR4_ACCESS (R618). -/
  | bar4Access (fn : Func) (off : Nat) (acc : MemAcc)
  /-- STEP_LIMIT_EXPIRY (R644). -/
  | stepLimitExpiry (pen : Pen)
  /-- AUTH_MAILBOX_GO (R645). -/
  | authMailboxGo
  /-- LOAD_DEVICE_SECTION (R638). -/
  | loadDeviceSection (o : OrderFrom)
  /-- RING_ALLOCATION (R619). -/
  | ringAllocation (o : OrderFrom)
  /-- SET_AUTHORITY (R593). -/
  | setAuthority (o : OrderFrom)
  /-- TAKE_OWNERSHIP (R594). -/
  | takeOwnership (o : OrderFrom)
  /-- RELEASE_OWNERSHIP (R594). -/
  | releaseOwnership (o : OrderFrom)
  /-- FW_WRITE (R598). -/
  | fwWrite (o : OrderFrom)
  /-- FW_ACTIVATE (R598). -/
  | fwActivate (o : OrderFrom)
  /-- FW_COMMIT (R599). -/
  | fwCommit (o : OrderFrom)
  /-- MGMT_RESTART (R593). -/
  | mgmtRestart (o : OrderFrom)
  /-- WRITE_POLICY (R593). -/
  | writePolicy (o : OrderFrom)
  /-- CLEAR_LEDGER_ENTRY (R669). -/
  | clearLedgerEntry (o : OrderFrom)
  /-- CLEAR_BAY_ACT (R593). -/
  | clearBayAct (o : OrderFrom)
  /-- CLEAR_TAMPER_LOG (R593). -/
  | clearTamperLog (o : OrderFrom)
  /-- AUTH_FTP_LOAD (R521). -/
  | authFtpLoad (o : OrderFrom)
  /-- CLAIM_WINDOW_END (R594). -/
  | claimWindowEnd
  /-- GET_VERSION (R600). -/
  | getVersion (ep : SpdmEp)
  /-- GET_CAPABILITIES (R600). -/
  | getCapabilities (ep : SpdmEp) (minor : Nat)
  /-- NEGOTIATE_ALGORITHMS (R600). -/
  | negotiateAlgorithms (ep : SpdmEp) (offered : SpdmAlgs)
  /-- GET_DIGESTS (R600). -/
  | getDigests (ep : SpdmEp)
  /-- GET_CERTIFICATE (R601). -/
  | getCertificate (ep : SpdmEp) (slot : Nat) (off : Nat) (len : Nat)
  /-- CHALLENGE (R600). -/
  | challenge (ep : SpdmEp) (slot : Nat) (nonce : List Byte)
  /-- GET_MEASUREMENTS (R602). -/
  | getMeasurements (ep : SpdmEp) (index : Nat)
  /-- KEY_EXCHANGE (R585). -/
  | keyExchange (ep : SpdmEp) (slot : Nat) (exData : List Byte) (mutualAuth : Bool)
  /-- FINISH (R600). -/
  | finish (ep : SpdmEp) (verifyData : List Byte)
  /-- KEY_UPDATE (R600). -/
  | keyUpdate (ep : SpdmEp) (allKeys : Bool)
  /-- HEARTBEAT (R600). -/
  | heartbeat (ep : SpdmEp)
  /-- END_SESSION (R600). -/
  | endSession (ep : SpdmEp)
  /-- PEN_RESET (R634). -/
  | penReset (fn : Func) (pen : Pen)
  /-- TEARDOWN_QUIESCE_DONE (R577). -/
  | teardownQuiesceDone (pen : Pen)
  /-- SCRUB_DONE (R578). -/
  | scrubDone (pen : Pen)
  /-- CRYPTO_ERASE_DONE (R577). -/
  | cryptoEraseDone (pen : Pen)
  /-- PEN_CREATE (R580). -/
  | penCreate (pen : Pen)
  /-- TAMPER_ALARM (R604). -/
  | tamperAlarm (sensor : TamperSensor) (keyOp : Bool)
  /-- POWER_GOOD (R693). -/
  | powerGood (slotId : BitVec 5) (authSel : Bool)
  /-- INPUT_LOSS (R693). -/
  | inputLoss
  /-- OVERVOLTAGE (R692). -/
  | overvoltage (mv : Nat) (ms : Nat)
  /-- PERST_ASSERT (R672). -/
  | perstAssert
  /-- PERST_DEASSERT (R707). -/
  | perstDeassert
  /-- SMBUS_WAKE (R700). -/
  | smbusWake
  /-- STARTUP_STAGE_DONE (R662). -/
  | startupStageDone (res : StageRes)
  /-- STAGE_TIMEOUT (R664). -/
  | stageTimeout
  /-- COMPUTE_RESET (R673). -/
  | computeReset (fn : Func)
  /-- COMPUTE_RESET_DONE (R673). -/
  | computeResetDone (res : ResetRes)
  /-- KEEP_REQUEST (R675). -/
  | keepRequest (fn : Func)
  /-- KEEP_WRITE_DONE (R670). -/
  | keepWriteDone
  /-- THERMAL_SAMPLE (R660). -/
  | thermalSample (west : Int) (east : Int)
  /-- THERMAL_EMERGENCY_END (R660). -/
  | thermalEmergencyEnd
  /-- PLL_LOCK_LOSS (R659). -/
  | pllLockLoss (east : Bool)
  /-- POWER_AVERAGE (R679). -/
  | powerAverage (mv : Nat) (tenMa : Nat) (watts : Nat)
  /-- FNTAB_READ (R125). -/
  | fntabRead (acc : FuncPart)
  /-- JOURNAL_ACK (R505). -/
  | journalAck (fn : Func) (pen : Pen) (value : BitVec 32)
  /-- RWK_WRITE (R14). -/
  | rwkWrite (fn : Func) (off : Nat) (len : Nat) (value : BitVec 64)
  /-- REGISTER_WRITE (R17). -/
  | registerWrite (fn : Func) (off : Nat) (len : Nat) (value : BitVec 64)
  /-- UNDEFINED_OFFSET_ACCESS (R17). -/
  | undefinedOffsetAccess (fn : Func) (off : Nat) (len : Nat)
  /-- SIGNAL_DETECT (R374). -/
  | signalDetect (p : Port)
  /-- FRAME_TRANSMIT (R349). -/
  | frameTransmit (p : Port)
  /-- HOT_RESET (R672). -/
  | hotReset
  /-- ALERT_RESPONSE_ADDRESS_READ (R703). -/
  | alertResponseAddressRead
  /-- ALWAYS_ON_DOMAIN_UP (R704). -/
  | alwaysOnDomainUp
  /-- CHAIN_END (R175). -/
  | chainEnd (u : CoreRef)
  /-- COMMAND_COMPLETION (R622). -/
  | commandCompletion (ring : Ring) (hostError : Bool)
  deriving DecidableEq, Repr

end Sys2Proof
end

