-- ==== Sys2Proof/Decode.lean ====
section
/-!
DEFINITION. Reading a command from a word.  The opcode table gives no row any bits (commands come from outside, and a
slot instruction's word reaches the device only inside a program image, which the loader decodes), so no word spells a
command.
-/

namespace Sys2Proof

/-- The command that a word of `nbits` bits spells by the bits of spec/opcode_table.json: none, since no row of the
table has bits. -/
def decodeTableWord (_nbits _w : Nat) : Option Instr := none

end Sys2Proof
end

