-- ==== Sys2Proof/Config.lean ====
section
/-!
DEFINITION. What an implementation fixes and the spec leaves open: the free values.  Each is an opaque constant, so a
statement that mentions one holds whatever its value.
-/

namespace Sys2Proof.Config

/-- The stream of free 64-bit values: the n-th value that the spec leaves open (timing counts, random bits, keys drawn
from the DRBG).  A step takes the value at `State.fresh` and advances that counter (DESIGN CHOICE, log entry 3). -/
opaque freeBits : Nat → BitVec 64

/-- What a byte of device memory reads as before anything is written to it, by the number of key changes of its bay and
its physical address: undefined data (R313, R672). -/
opaque unwrittenByte : Nat → Nat → Byte

/-- Whether a line nothing has written since the key of its bay changed reads as poisoned (R313). -/
opaque unwrittenPoison : Nat → Nat → Bool

/-- The bytes of a wide file in its spill region (R181), whose layout there the spec does not state: by the number of free
values drawn and the offset. -/
opaque spillByte : Nat → Nat → Byte

/-- What a byte of host memory holds that nothing in the model has written. -/
opaque hostByte : Nat → Byte

/-- The module serial number (R350, R463), fixed at the factory. -/
opaque serial : BitVec 64

/-- The SHA-384 of Kwaong's firmware and field-test verifying keys (R581), fused at the factory; and those keys as the
public points the boot flash presents. -/
opaque firmwareKey : Nat × Nat
opaque fieldTestKey : Nat × Nat

/-- The factory field test pack's verdict is not modelled; its measurement and that of the boot ROM (R602) are fixed at
the factory. -/
opaque bootRomHash : List Byte

/-- The SHA-384 of the firmware image that the module was delivered with (R596, R602). -/
opaque factoryFirmwareHash : List Byte

/-- The certificate chains of slots 0 and 1 (R601). -/
opaque certChain : Nat → List Byte

/-- What SPDM computes over the transcript that DSP0274 defines (R585, R600), which the spec does not state: the signature of a
response, the export master secret of a session, and the verify data that its FINISH must carry. -/
opaque spdmSignature : List Byte → List Byte
opaque spdmExportSecret : List Byte → List Byte
opaque spdmFinishData : List Byte → List Byte

end Sys2Proof.Config
end

