-- ==== Sys2Proof/Machine/Crypto.lean ====
section
/-!
DEFINITION. The published functions the spec names for digests, keys and tags: CRC-64 (R347, R481), SHA-256 and SHA-384
(FIPS 180-4), AES-256 (FIPS 197) with CMAC, KW and GCM, the KDFs of R360, R583 and R585, and ECDSA and ECDH over P-384.
-/

namespace Sys2Proof.Machine

/-! ### CRC-64 -/

/-- One step of `crc_byte` of R481: the register shifted by one bit. -/
def crcBit (c : Word64) : Word64 :=
  if c.getLsbD 63 then (c <<< 1) ^^^ 0x42F0E1EBA9EA3693#64 else c <<< 1

/-- `crc_byte` of R481. -/
def crcByte (c : Word64) (b : Byte) : Word64 :=
  Nat.iterate crcBit 8 (c ^^^ ((b.setWidth 64) <<< 56))

/-- The CRC of a list of bytes, started and finished as R347 and R481 state. -/
def crc64 (bs : List Byte) : Word64 :=
  bs.foldl crcByte 0xFFFFFFFFFFFFFFFF#64 ^^^ 0xFFFFFFFFFFFFFFFF#64

/-- A number as `n` bytes, least significant first. -/
def le (n x : Nat) : List Byte := (List.range n).map (fun i => BitVec.ofNat 8 (x / 256 ^ i))

/-- A number as `n` bytes, most significant first. -/
def be (n x : Nat) : List Byte := (le n x).reverse

/-- The number that bytes spell, least significant first. -/
def leNum (bs : List Byte) : Nat := bs.foldr (fun b n => b.toNat + 256 * n) 0

/-- The number that bytes spell, most significant first. -/
def beNum (bs : List Byte) : Nat := bs.foldl (fun n b => 256 * n + b.toNat) 0

/-- `n` zero bytes. -/
def zeros (n : Nat) : List Byte := List.replicate n 0#8

/-- A list of bytes cut or filled with zeros to `n` bytes. -/
def fit (n : Nat) (bs : List Byte) : List Byte := (bs ++ zeros n).take n

/-- Bytes `off` to `off + n - 1` of a list; bytes beyond its end read as zero. -/
def slice (bs : List Byte) (off n : Nat) : List Byte := fit n (bs.drop off)

/-- A little-endian field of `n` bytes at an offset. -/
def fieldAt (bs : List Byte) (off n : Nat) : Nat := leNum (slice bs off n)

/-- Bytes with a field replaced. -/
def patch (bs : List Byte) (off : Nat) (new : List Byte) : List Byte :=
  bs.take off ++ new ++ bs.drop (off + new.length)

/-- The XOR of two lists of bytes, as long as the shorter. -/
def xorBytes (a b : List Byte) : List Byte := List.zipWith (fun x y => x ^^^ y) a b

/-- A list cut into pieces of `n` (the last may be shorter), by fuel. -/
def chunksAux {α : Type} (n : Nat) : Nat → List α → List (List α)
  | 0, _ => []
  | k + 1, xs => if xs.isEmpty then [] else xs.take n :: chunksAux n k (xs.drop n)

/-- A list cut into pieces of `n` elements, the last perhaps shorter. -/
def chunks {α : Type} (n : Nat) (xs : List α) : List (List α) := chunksAux n xs.length xs

/-- `block_digest` of R481. -/
def blockDigest (lbi : Nat) (bs : List Byte) : Word64 := crc64 (le 8 lbi ++ bs)

/-- `range_digest` of R481 over the blocks of a list of bytes. -/
def rangeDigestAux (base : Nat) : List (List Byte) → Word64
  | [] => 0#64
  | b :: t => blockDigest base b ^^^ rangeDigestAux (base + 1) t

/-- `range_digest` of R481. -/
def rangeDigest (base : Nat) (bs : List Byte) : Word64 := rangeDigestAux base (chunks 2048 bs)

/-- The roles of a logical block index (R482). -/
def roleParam : Nat := 0
def roleMoment1 : Nat := 1
def roleMoment2 : Nat := 2
def roleMetric : Nat := 3
def roleScalar : Nat := 4
def roleLedger : Nat := 8
def roleInput : Nat := 10
def roleRange : Nat := 15

/-- The logical block index of a block, role and record (R482). -/
def blockIndex (record role block : Nat) : Nat := record * 2 ^ 52 + role * 2 ^ 48 + block % 2 ^ 48

/-- The RANGE digest of bytes that start at a block (R483). -/
def rangeDigestAt (block : Nat) (bs : List Byte) : Word64 := rangeDigest (blockIndex 0 roleRange block) bs

/-! ### SHA-2 -/

/-- Integer square and cube roots, bit by bit from the top. -/
def rootBits (k x : Nat) : Nat → Nat → Nat
  | 0, r => r
  | b + 1, r => rootBits k x b (if (r + 2 ^ b) ^ k ≤ x then r + 2 ^ b else r)

/-- A number has no divisor from `d` on, by fuel. -/
def noDivisor (n : Nat) : Nat → Nat → Bool
  | 0, _ => true
  | f + 1, d => if n < d * d then true else if n % d = 0 then false else noDivisor n f (d + 1)

/-- The first `n` primes. -/
def primes (n : Nat) : List Nat :=
  ((List.range 410).filter (fun p => decide (2 ≤ p) && noDivisor p 21 2)).take n

/-- The first `w` bits of the fraction of the k-th root of a number: what FIPS 180-4 makes its constants of. -/
def rootFrac (k w x : Nat) : Nat := rootBits k (x * 2 ^ (k * w)) (w + 5) 0 % 2 ^ w

/-- The round constants of SHA-256 (cube roots of the first 64 primes). -/
def k256 : List Nat := (primes 64).map (rootFrac 3 32)

/-- The round constants of SHA-384 (cube roots of the first 80 primes). -/
def k512 : List Nat := (primes 80).map (rootFrac 3 64)

/-- The initial value of SHA-256 (square roots of the first 8 primes). -/
def h256 : List Nat := (primes 8).map (rootFrac 2 32)

/-- The initial value of SHA-384 (square roots of the ninth to sixteenth primes). -/
def h384 : List Nat := ((primes 16).drop 8).map (rootFrac 2 64)

/-- The parts of the SHA-2 round that depend on the word width. -/
structure Sha (w : Nat) where
  s0 : BitVec w → BitVec w
  s1 : BitVec w → BitVec w
  e0 : BitVec w → BitVec w
  e1 : BitVec w → BitVec w
  ks : List Nat

/-- The functions of SHA-256. -/
def sha256Fns : Sha 32 where
  s0 x := x.rotateRight 7 ^^^ x.rotateRight 18 ^^^ (x >>> 3)
  s1 x := x.rotateRight 17 ^^^ x.rotateRight 19 ^^^ (x >>> 10)
  e0 x := x.rotateRight 2 ^^^ x.rotateRight 13 ^^^ x.rotateRight 22
  e1 x := x.rotateRight 6 ^^^ x.rotateRight 11 ^^^ x.rotateRight 25
  ks := k256

/-- The functions of SHA-384. -/
def sha512Fns : Sha 64 where
  s0 x := x.rotateRight 1 ^^^ x.rotateRight 8 ^^^ (x >>> 7)
  s1 x := x.rotateRight 19 ^^^ x.rotateRight 61 ^^^ (x >>> 6)
  e0 x := x.rotateRight 28 ^^^ x.rotateRight 34 ^^^ x.rotateRight 39
  e1 x := x.rotateRight 14 ^^^ x.rotateRight 18 ^^^ x.rotateRight 41
  ks := k512

/-- The message schedule, newest word first. -/
def Sha.extend {w : Nat} (f : Sha w) : Nat → List (BitVec w) → List (BitVec w)
  | 0, ws => ws
  | n + 1, ws =>
    let g i := ws.getD i 0#w
    Sha.extend f n ((f.s1 (g 1) + g 6 + f.s0 (g 14) + g 15) :: ws)

/-- One round on the eight working words. -/
def Sha.round {w : Nat} (f : Sha w) (v : List (BitVec w)) (kw : Nat × BitVec w) : List (BitVec w) :=
  match v with
  | [a, b, c, d, e, g, h, i] =>
    let t1 := i + f.e1 e + ((e &&& g) ^^^ (~~~e &&& h)) + BitVec.ofNat w kw.1 + kw.2
    let t2 := f.e0 a + ((a &&& b) ^^^ (a &&& c) ^^^ (b &&& c))
    [t1 + t2, a, b, c, d + t1, e, g, h]
  | _ => v

/-- The compression of one block of 16 words. -/
def Sha.block {w : Nat} (f : Sha w) (hv : List (BitVec w)) (ws : List (BitVec w)) : List (BitVec w) :=
  let sched := (Sha.extend f (f.ks.length - 16) ws.reverse).reverse
  List.zipWith (fun x y => x + y) hv ((f.ks.zip sched).foldl f.round hv)

/-- The padded message of FIPS 180-4 for blocks of `16 * n` bytes. -/
def shaPad (n : Nat) (bs : List Byte) : List Byte :=
  let blk := 16 * n
  let used := (bs.length + 1 + 2 * n) % blk
  bs ++ [0x80#8] ++ zeros ((blk - used) % blk) ++ be (2 * n) (8 * bs.length)

/-- A SHA-2 digest with words of `n` bytes. -/
def Sha.digest {w : Nat} (f : Sha w) (n : Nat) (h0 : List Nat) (bs : List Byte) : List Byte :=
  let blocks := (chunks (16 * n) (shaPad n bs)).map (fun b => (chunks n b).map (fun x => BitVec.ofNat w (beNum x)))
  (blocks.foldl f.block (h0.map (BitVec.ofNat w))).flatMap (fun x => be n x.toNat)

/-- SHA-256. -/
def sha256 (bs : List Byte) : List Byte := sha256Fns.digest 4 h256 bs

/-- SHA-384. -/
def sha384 (bs : List Byte) : List Byte := (sha512Fns.digest 8 h384 bs).take 48

/-- HMAC with SHA-384. -/
def hmac384 (key msg : List Byte) : List Byte :=
  let k := fit 128 (if 128 < key.length then sha384 key else key)
  sha384 (k.map (fun b => b ^^^ 0x5C#8) ++ sha384 (k.map (fun b => b ^^^ 0x36#8) ++ msg))

/-- HKDF-Expand (RFC 5869) with SHA-384, for at most one block of output. -/
def hkdfExpand384 (prk info : List Byte) (len : Nat) : List Byte := (hmac384 prk (info ++ [1#8])).take len

/-! ### AES-256 -/

/-- Multiplication by x in the field of AES. -/
def xtime (b : Byte) : Byte := if b.getLsbD 7 then (b <<< 1) ^^^ 0x1B#8 else b <<< 1

/-- Multiplication in the field of AES: the sum of the shifts of one factor at the other's bits. -/
def gmul (a b : Byte) : Byte :=
  (List.range 8).foldl (fun acc i => if b.getLsbD i then acc ^^^ Nat.iterate xtime i a else acc) 0#8

/-- The inverse in the field of AES: the 254th power. -/
def ginv (a : Byte) : Byte :=
  let sq x := gmul x x
  let a2 := sq a
  let a4 := sq a2
  let a8 := sq a4
  let a16 := sq a8
  let a32 := sq a16
  let a64 := sq a32
  let a128 := sq a64
  gmul a2 (gmul a4 (gmul a8 (gmul a16 (gmul a32 (gmul a64 a128)))))

/-- The S-box of AES at a byte. -/
def sboxAt (a : Byte) : Byte :=
  let b := ginv a
  b ^^^ b.rotateLeft 1 ^^^ b.rotateLeft 2 ^^^ b.rotateLeft 3 ^^^ b.rotateLeft 4 ^^^ 0x63#8

/-- The S-box. -/
def sboxTable : List Byte := (List.range 256).map (fun i => sboxAt (BitVec.ofNat 8 i))

/-- The S-box, looked up. -/
def sbox (a : Byte) : Byte := sboxTable.getD a.toNat 0#8

/-- The inverse S-box. -/
def invSbox (a : Byte) : Byte := BitVec.ofNat 8 (sboxTable.idxOf a)

/-- The key schedule of AES-256: words of four bytes, newest first. -/
def aesExpand : Nat → Nat → Byte → List (List Byte) → List (List Byte)
  | 0, _, _, ws => ws
  | n + 1, i, rc, ws =>
    let t := ws.getD 0 []
    let t' :=
      if i % 8 = 0 then xorBytes ((t.drop 1 ++ t.take 1).map sbox) [rc, 0#8, 0#8, 0#8]
      else if i % 8 = 4 then t.map sbox else t
    aesExpand n (i + 1) (if i % 8 = 0 then xtime rc else rc) (xorBytes (ws.getD 7 []) t' :: ws)

/-- The fifteen round keys of a 256-bit key. -/
def aesKeys (key : List Byte) : List (List Byte) :=
  chunks 16 ((aesExpand 52 8 1#8 (chunks 4 (fit 32 key)).reverse).reverse.flatten)

/-- The row shift: column c, row r comes from column c + r. -/
def shiftRows (st : List Byte) (inv : Bool) : List Byte :=
  (List.range 16).map (fun i =>
    let c := i / 4
    let r := i % 4
    st.getD (4 * ((if inv then c + 4 - r else c + r) % 4) + r) 0#8)

/-- The column mix with the factors of the first row. -/
def mixColumns (m : List Byte) (st : List Byte) : List Byte :=
  (chunks 4 st).flatMap (fun col =>
    (List.range 4).map (fun r =>
      (List.range 4).foldl (fun acc k => acc ^^^ gmul (col.getD k 0#8) (m.getD ((k + 4 - r) % 4) 0#8)) 0#8))

/-- AES-256 encryption of a block. -/
def aesEnc (key : List Byte) (blk : List Byte) : List Byte :=
  let ks := aesKeys key
  let first := xorBytes blk (ks.getD 0 [])
  let mid := ((ks.drop 1).take 13).foldl
    (fun st k => xorBytes (mixColumns [2#8, 3#8, 1#8, 1#8] (shiftRows (st.map sbox) false)) k) first
  xorBytes (shiftRows (mid.map sbox) false) (ks.getD 14 [])

/-- AES-256 decryption of a block. -/
def aesDec (key : List Byte) (blk : List Byte) : List Byte :=
  let ks := aesKeys key
  let first := (shiftRows (xorBytes blk (ks.getD 14 [])) true).map invSbox
  let mid := ((ks.drop 1).take 13).reverse.foldl
    (fun st k => (shiftRows (mixColumns [14#8, 11#8, 13#8, 9#8] (xorBytes st k)) true).map invSbox) first
  xorBytes mid (ks.getD 0 [])

/-- Doubling in the field of CMAC. -/
def cmacDbl (b : List Byte) : List Byte :=
  let n := beNum b
  be 16 (if 2 ^ 127 ≤ n then (2 * n % 2 ^ 128) ^^^ 0x87 else 2 * n)

/-- AES-256-CMAC. -/
def aesCmac (key msg : List Byte) : List Byte :=
  let k1 := cmacDbl (aesEnc key (zeros 16))
  let bs := chunks 16 msg
  let lastB := bs.getLastD []
  let lastB' := if lastB.length = 16 then xorBytes lastB k1
    else xorBytes (fit 16 (lastB ++ [0x80#8])) (cmacDbl k1)
  (bs.dropLast ++ [lastB']).foldl (fun x b => aesEnc key (xorBytes x b)) (zeros 16)

/-- The KDF of SP 800-108 in counter mode with AES-256-CMAC and a 256-bit output: counter, label, a zero byte, the
context and the length in bits (R360). -/
def kdfCounter (key label context : List Byte) : List Byte :=
  [1, 2].flatMap (fun i => aesCmac key (be 4 i ++ label ++ [0#8] ++ context ++ be 4 256))

/-- Multiplication in the field of GCM, on numbers whose top bit is the coefficient of 1. -/
def ghMul (x y : Nat) : Nat :=
  ((List.range 128).foldl (fun (zv : Nat × Nat) i =>
    let z := if x.testBit (127 - i) then zv.1 ^^^ zv.2 else zv.1
    (z, if zv.2 % 2 = 1 then (zv.2 / 2) ^^^ (0xE1 * 2 ^ 120) else zv.2 / 2)) (0, y)).1

/-- GHASH over whole blocks. -/
def ghash (h : Nat) (bs : List Byte) : Nat :=
  (chunks 16 bs).foldl (fun acc b => ghMul (acc ^^^ beNum (fit 16 b)) h) 0

/-- The key stream of GCM from a counter block on. -/
def gcmStream (key iv : List Byte) : Nat → Nat → List Byte
  | 0, _ => []
  | n + 1, c => aesEnc key (iv ++ be 4 c) ++ gcmStream key iv n (c + 1)

/-- AES-256-GCM's cipher: encryption and decryption are the same. -/
def gcmCrypt (key iv text : List Byte) : List Byte :=
  xorBytes text (gcmStream key iv ((text.length + 15) / 16) 2)

/-- Bytes filled with zeros to whole blocks. -/
def padBlock (bs : List Byte) : List Byte := bs ++ zeros ((16 - bs.length % 16) % 16)

/-- The tag of AES-256-GCM over the associated data and the ciphertext, for a 96-bit IV. -/
def gcmTag (key iv aad ct : List Byte) : List Byte :=
  let h := beNum (aesEnc key (zeros 16))
  xorBytes (be 16 (ghash h (padBlock aad ++ padBlock ct ++ be 8 (8 * aad.length) ++ be 8 (8 * ct.length))))
    (aesEnc key (iv ++ be 4 1))

/-- AES-256-GCM opened: the plain text when the tag verifies. -/
def gcmOpen (key iv aad ct tag : List Byte) : Option (List Byte) :=
  if gcmTag key iv aad ct = tag then some (gcmCrypt key iv ct) else none

/-- One step of the unwrap of SP 800-38F: the register A and the list of 8-byte halves. -/
def kwStep (key : List Byte) (n : Nat) (st : List Byte × List (List Byte)) (t : Nat) : List Byte × List (List Byte) :=
  let i := (t - 1) % n
  let blk := aesDec key (xorBytes st.1 (be 8 t) ++ st.2.getD i [])
  (blk.take 8, st.2.set i (blk.drop 8))

/-- AES-256 KW unwrap (SP 800-38F): the key when the integrity check passes. -/
def kwUnwrap (key wrapped : List Byte) : Option (List Byte) :=
  let n := wrapped.length / 8 - 1
  let r := ((List.range (6 * n)).map (fun i => 6 * n - i)).foldl (kwStep key n)
    (wrapped.take 8, chunks 8 (wrapped.drop 8))
  if r.1 = List.replicate 8 0xA6#8 then some r.2.flatten else none

/-! ### P-384 -/

/-- The prime of P-384. -/
def p384 : Nat := 2 ^ 384 - 2 ^ 128 - 2 ^ 96 + 2 ^ 32 - 1

/-- The order of P-384's base point. -/
def n384 : Nat :=
  0xFFFFFFFFFFFFFFFFFFFFFFFFFFFFFFFFFFFFFFFFFFFFFFFFC7634D81F4372DDF581A0DB248B0A77AECEC196ACCC52973

/-- The coefficient b of P-384. -/
def b384 : Nat :=
  0xB3312FA7E23EE7E4988E056BE3F82D19181D9C6EFE8141120314088F5013875AC656398D8A2ED19D2A85C8EDD3EC2AEF

/-- The base point of P-384. -/
def g384 : Nat × Nat :=
  (0xAA87CA22BE8B05378EB1C71EF320AD746E1D3B628BA79B9859F741E082542A385502F25DBF55296C3A545E3872760AB7,
   0x3617DE4A96262C6F5D9E98BF9292DC29F8F41DBD289A147CE9DA3113B5F0B8C00A60B1CE1D7E819D7A431D7C90EA0E5F)

/-- A power modulo a number, over the exponent's low `n` bits. -/
def powMod (m b e : Nat) : Nat → Nat
  | 0 => 1 % m
  | n + 1 =>
    let h := powMod m b (e / 2) n
    h * h % m * (if e % 2 = 1 then b else 1) % m

/-- The inverse modulo a prime. -/
def invMod (m x : Nat) : Nat := powMod m (x % m) (m - 2) 384

/-- The sum of two points; `none` is the point at infinity. -/
def ecAdd : Option (Nat × Nat) → Option (Nat × Nat) → Option (Nat × Nat)
  | none, q => q
  | p, none => p
  | some (x1, y1), some (x2, y2) =>
    let sub (a b : Nat) : Nat := (a + p384 - b % p384) % p384
    if x1 = x2 ∧ (y1 + y2) % p384 = 0 then none
    else
      let l := if x1 = x2 then (3 * x1 * x1 + p384 - 3) % p384 * invMod p384 (2 * y1) % p384
        else sub y2 y1 * invMod p384 (sub x2 x1) % p384
      let x3 := sub (sub (l * l % p384) x1) x2
      some (x3, sub (l * sub x1 x3 % p384) y1)

/-- A multiple of a point, over the scalar's low `n` bits. -/
def ecMul (k : Nat) (p : Option (Nat × Nat)) : Nat → Option (Nat × Nat)
  | 0 => none
  | n + 1 =>
    let h := ecMul (k / 2) p n
    let d := ecAdd h h
    if k % 2 = 1 then ecAdd d p else d

/-- A point lies on the curve. -/
def onCurve (q : Nat × Nat) : Bool :=
  decide (q.1 < p384) && decide (q.2 < p384) &&
  decide (q.2 * q.2 % p384 = (q.1 * q.1 * q.1 + (p384 - 3) * q.1 + b384) % p384)

/-- A point from its uncompressed form: 04, X, Y (R583, R635). -/
def pointOf (bs : List Byte) : Option (Nat × Nat) :=
  if bs.length = 97 ∧ bs.getD 0 0#8 = 4#8 then
    let q := (beNum (slice bs 1 48), beNum (slice bs 49 48))
    if onCurve q then some q else none
  else none

/-- The uncompressed form of a point. -/
def pointBytes (q : Nat × Nat) : List Byte := 4#8 :: (be 48 q.1 ++ be 48 q.2)

/-- ECDSA over P-384 with SHA-384: whether r and s, 48 bytes each, sign a message under a public key. -/
def ecdsaVerify (q : Nat × Nat) (msg sig : List Byte) : Bool :=
  let r := beNum (slice sig 0 48)
  let sv := beNum (slice sig 48 48)
  let z := beNum (sha384 msg)
  let w := invMod n384 sv
  onCurve q && decide (0 < r) && decide (r < n384) && decide (0 < sv) && decide (sv < n384) &&
  (match ecAdd (ecMul (z * w % n384) (some g384) 384) (ecMul (r * w % n384) (some q) 384) with
   | none => false
   | some pt => decide (pt.1 % n384 = r))

/-- The public key of a private scalar. -/
def ecPublic (d : Nat) : Nat × Nat := (ecMul (d % n384) (some g384) 384).getD (0, 0)

/-- The key-encryption key of R583: the one-step KDF of SP 800-56C with SHA-384 over the ECDH shared secret, the bytes
"AEJK", the job tag and the pen, cut to 256 bits. -/
def jobKek (d : Nat) (eph : Nat × Nat) (tag pen : Nat) : List Byte :=
  let z := ((ecMul (d % n384) (some eph) 384).getD (0, 0)).1
  (sha384 (be 4 1 ++ be 48 z ++ [0x41#8, 0x45#8, 0x4A#8, 0x4B#8] ++ le 2 tag ++ le 1 pen)).take 32

end Sys2Proof.Machine
end

