-- ==== Sys2Proof/Machine/Flags.lean ====
section
/-!
DEFINITION. The two flag words of the arithmetic: the sticky exception flags of R89 and the flag byte of an anchored
reduction (R137).
-/

namespace Sys2Proof.Machine

/-- The sticky exception flags (R89): invalid, divide-by-zero, overflow, underflow, inexact at bits 0 to 4. -/
abbrev ExcFlags := BitVec 5

def ExcFlags.none : ExcFlags := 0#5
def ExcFlags.invalid : ExcFlags := 1#5
def ExcFlags.divZero : ExcFlags := 2#5
def ExcFlags.overflow : ExcFlags := 4#5
def ExcFlags.underflow : ExcFlags := 8#5
def ExcFlags.inexact : ExcFlags := 16#5

/-- A flag when a condition holds, no flag otherwise. -/
def ExcFlags.when (c : Bool) (f : ExcFlags) : ExcFlags := if c then f else 0#5

/-- The flag byte of an anchored reduction (R137). -/
abbrev RedFlags := BitVec 8

def RedFlags.ovf : RedFlags := 1#8
def RedFlags.rnd : RedFlags := 2#8
def RedFlags.nan : RedFlags := 4#8
def RedFlags.pinf : RedFlags := 8#8
def RedFlags.ninf : RedFlags := 16#8
def RedFlags.poison : RedFlags := 32#8
def RedFlags.amix : RedFlags := 64#8
def RedFlags.expl : RedFlags := 128#8

/-- A flag when a condition holds. -/
def RedFlags.when (c : Bool) (f : RedFlags) : RedFlags := if c then f else 0#8

/-- Some flag of a set is set. -/
def RedFlags.has (fl m : RedFlags) : Bool := (fl &&& m) != 0#8

end Sys2Proof.Machine
end

