-- ==== Sys2Proof/Machine/Fp.lean ====
section
/-!
DEFINITION. Number formats, rounding, the Strict and Fast arithmetic of R83 to R89, the conversions of R90 to R93 and
crests (R96).  An element is held as the low bits of a 32-bit word.  Every operation is computed exactly on integers
and narrowed once by `roundMag`, the rounding of R91 on a significand of any size.
-/

namespace Sys2Proof.Machine

/-- One element of any format, zero-extended to 32 bits. -/
abbrev Elem := BitVec 32

/-- The format code of R74. -/
def Fmt.code : Fmt → Nat
  | .fp32 => 0 | .bf16 => 1 | .fp16 => 2 | .e4m3 => 3 | .e5m2 => 4 | .int8 => 8 | .int16 => 9 | .int32 => 10

/-- The format a code names; the reserved codes name none (R74). -/
def Fmt.ofCode (c : Nat) : Option Fmt :=
  match c with
  | 0 => some .fp32 | 1 => some .bf16 | 2 => some .fp16 | 3 => some .e4m3 | 4 => some .e5m2
  | 8 => some .int8 | 9 => some .int16 | 10 => some .int32
  | _ => none

/-- The width in bits (R75, R80). -/
def Fmt.width : Fmt → Nat
  | .fp32 => 32 | .bf16 => 16 | .fp16 => 16 | .e4m3 => 8 | .e5m2 => 8 | .int8 => 8 | .int16 => 16 | .int32 => 32

/-- The element size in bytes. -/
def Fmt.bytes (f : Fmt) : Nat := Fmt.width f / 8

/-- An integer format (R80). -/
def Fmt.isInt : Fmt → Bool
  | .int8 => true | .int16 => true | .int32 => true | _ => false

/-- An FP8 format. -/
def Fmt.isFp8 : Fmt → Bool
  | .e4m3 => true | .e5m2 => true | _ => false

/-- The precision p of R75 (1 for an integer format, where it is not used). -/
def Fmt.prec : Fmt → Nat
  | .fp32 => 24 | .bf16 => 8 | .fp16 => 11 | .e4m3 => 4 | .e5m2 => 3 | _ => 1

/-- The bias of R75; 1 for an integer format (R97). -/
def Fmt.bias : Fmt → Int
  | .fp32 => 127 | .bf16 => 127 | .fp16 => 15 | .e4m3 => 7 | .e5m2 => 15 | _ => 1

/-- emin of R75. -/
def Fmt.emin : Fmt → Int
  | .fp32 => -126 | .bf16 => -126 | .fp16 => -14 | .e4m3 => -6 | .e5m2 => -14 | _ => 0

/-- emax of R75. -/
def Fmt.emax : Fmt → Int
  | .fp32 => 127 | .bf16 => 127 | .fp16 => 15 | .e4m3 => 8 | .e5m2 => 15 | _ => 0

/-- The number of exponent bits (R75). -/
def Fmt.expBits : Fmt → Nat
  | .fp32 => 8 | .bf16 => 8 | .fp16 => 5 | .e4m3 => 4 | .e5m2 => 5 | _ => 0

/-- d.qmax of R91: the largest significand of the top binade. -/
def Fmt.qmax : Fmt → Nat
  | .e4m3 => 14
  | f => 2 ^ Fmt.prec f - 1

/-- d.qemax of R91. -/
def Fmt.qemax (f : Fmt) : Int := Fmt.emax f - (Fmt.prec f - 1)

/-- The format has an infinity (R76). -/
def Fmt.hasInf : Fmt → Bool
  | .fp32 => true | .bf16 => true | .fp16 => true | .e5m2 => true | _ => false

/-- The positive infinity pattern of R76. -/
def Fmt.infBits : Fmt → Nat
  | .fp32 => 0x7F800000 | .bf16 => 0x7F80 | .fp16 => 0x7C00 | .e5m2 => 0x7C | _ => 0

/-- The positive canonical NaN of R76. -/
def Fmt.nanBits : Fmt → Nat
  | .fp32 => 0x7FC00000 | .bf16 => 0x7FC0 | .fp16 => 0x7E00 | .e4m3 => 0x7F | .e5m2 => 0x7E | _ => 0

/-- The sign bit of a word of a format, as a number. -/
def Fmt.signBit (f : Fmt) (s : Bool) : Nat := if s then 2 ^ (Fmt.width f - 1) else 0

/-- A floating-point value with its sign: a NaN with its trailing significand, an infinity, or the exact magnitude
`m * 2 ^ e` (zero when `m` is 0). -/
inductive FVal where
  | nan (s : Bool) (t : Nat)
  | inf (s : Bool)
  | fin (s : Bool) (m : Nat) (e : Int)
  deriving DecidableEq, Repr

def FVal.sign : FVal → Bool
  | .nan s _ => s | .inf s => s | .fin s _ _ => s

def FVal.isNan : FVal → Bool
  | .nan _ _ => true | _ => false

def FVal.isInf : FVal → Bool
  | .inf _ => true | _ => false

def FVal.isZero : FVal → Bool
  | .fin _ m _ => m == 0 | _ => false

/-- The signed integer an integer element holds (R80). -/
def intOf (f : Fmt) (w : Elem) : Int :=
  let u := w.toNat % 2 ^ Fmt.width f
  if u < 2 ^ (Fmt.width f - 1) then (u : Int) else (u : Int) - (2 ^ Fmt.width f : Nat)

/-- The source decode of R91 (R75, R76). -/
def decodeF (f : Fmt) (w : Elem) : FVal :=
  if Fmt.isInt f then
    let x := intOf f w
    .fin (decide (x < 0)) x.natAbs 0
  else
    let u := w.toNat % 2 ^ Fmt.width f
    let tb := Fmt.prec f - 1
    let s := decide (u / 2 ^ (Fmt.width f - 1) = 1)
    let t := u % 2 ^ tb
    let eb := (u / 2 ^ tb) % 2 ^ Fmt.expBits f
    let top := 2 ^ Fmt.expBits f - 1
    if f = .e4m3 then
      if eb = top ∧ t = 7 then .nan s t
      else if eb = 0 then .fin s t (Fmt.emin f - tb)
      else .fin s (2 ^ tb + t) ((eb : Int) - Fmt.bias f - tb)
    else if eb = top then (if t = 0 then .inf s else .nan s t)
    else if eb = 0 then .fin s t (Fmt.emin f - tb)
    else .fin s (2 ^ tb + t) ((eb : Int) - Fmt.bias f - tb)

/-- A signalling NaN: FP8 NaNs are all quiet (R77). -/
def isSignalling (f : Fmt) (w : Elem) : Bool :=
  if Fmt.isFp8 f then false
  else match decodeF f w with
    | .nan _ t => decide (t < 2 ^ (Fmt.prec f - 2))
    | _ => false

/-- A word with its quiet bit set. -/
def quieten (f : Fmt) (w : Elem) : Elem :=
  if Fmt.isFp8 f then w else w ||| BitVec.ofNat 32 (2 ^ (Fmt.prec f - 2))

/-- msb_index of R91; 0 for 0. -/
def msbIndex (m : Nat) : Nat := Nat.log2 m

/-- The discarded fraction below an ulp: the rounding decision of R91 on an exact remainder `r` of `2 ^ sh`. -/
def roundUp (rm : Rm) (s : Bool) (q r sh u : Nat) : Bool :=
  let half := 2 ^ (sh - 1)
  match rm with
  | .rne => decide (r > half) || (decide (r = half) && decide (q % 2 = 1))
  | .rz => false
  | .ru => !s && decide (r ≠ 0)
  | .rd => s && decide (r ≠ 0)
  | .rna => decide (r ≥ half)
  | .sr => decide (r * 2 ^ 16 / 2 ^ sh + u ≥ 2 ^ 16)

/-- `m * 2 ^ e` on the grid of ulp `2 ^ qe`: the rounded count and whether it was exact (R91). -/
def roundGrid (rm : Rm) (s : Bool) (m : Nat) (e qe : Int) (u : Nat) : Nat × Bool :=
  if qe ≤ e then (m * 2 ^ (e - qe).toNat, true)
  else
    let sh := (qe - e).toNat
    let q := m / 2 ^ sh
    let r := m % 2 ^ sh
    (if roundUp rm s q r sh u then q + 1 else q, decide (r = 0))

/-- The exponent of the ulp for a floating-point destination (R91). -/
def ulpExp (d : Fmt) (m : Nat) (e : Int) : Int :=
  let ex := (msbIndex m : Int) + e
  (if Fmt.emin d < ex then ex else Fmt.emin d) - (Fmt.prec d - 1)

/-- pack of R91: `q * 2 ^ qe` is representable. -/
def packF (d : Fmt) (s : Bool) (q : Nat) (qe : Int) : Elem :=
  let p1 := Fmt.prec d - 1
  if q < 2 ^ p1 then BitVec.ofNat 32 (Fmt.signBit d s + q)
  else
    let eb := (qe + p1 + Fmt.bias d).toNat
    BitVec.ofNat 32 (Fmt.signBit d s + eb * 2 ^ p1 + (q - 2 ^ p1))

/-- The infinity of a sign, or the NaN of that sign where the format has none (R92). -/
def infElem (d : Fmt) (s : Bool) : Elem :=
  BitVec.ofNat 32 (Fmt.signBit d s + (if Fmt.hasInf d then Fmt.infBits d else Fmt.nanBits d))

/-- The largest finite value of a sign (R76). -/
def maxFinite (d : Fmt) (s : Bool) : Elem := packF d s (Fmt.qmax d) (Fmt.qemax d)

/-- The positive canonical NaN of a format, or zero for an integer format (R76, R141). -/
def canonNan (d : Fmt) : Elem := BitVec.ofNat 32 (Fmt.nanBits d)

/-- The canonical NaN with a sign (R77). -/
def signedNan (d : Fmt) (s : Bool) : Elem := BitVec.ofNat 32 (Fmt.signBit d s + Fmt.nanBits d)

/-- A zero of a sign. -/
def zeroElem (d : Fmt) (s : Bool) : Elem := BitVec.ofNat 32 (Fmt.signBit d s)

/-- The result of rounding an exact magnitude to a floating-point destination: to_float of R91 together with the
overflow, underflow and inexact flags, tininess judged before rounding (R79, R89). -/
structure Rounded where
  w : Elem
  fl : ExcFlags
  subnormal : Bool
  deriving DecidableEq, Repr

/-- to_float of R91 on a magnitude `m * 2 ^ e` with `m > 0`. -/
def toFloat (d : Fmt) (rm : Rm) (sat : Bool) (u : Nat) (s : Bool) (m : Nat) (e : Int) : Rounded :=
  let qe0 := ulpExp d m e
  let (q0, exact) := roundGrid rm s m e qe0 u
  let carry := decide (q0 = 2 ^ Fmt.prec d)
  let q := if carry then q0 / 2 else q0
  let qe := if carry then qe0 + 1 else qe0
  let ovr := decide (qe > Fmt.qemax d) || (decide (qe = Fmt.qemax d) && decide (q > Fmt.qmax d))
  let tiny := decide ((msbIndex m : Int) + e < Fmt.emin d)
  if ovr then
    let toMax := sat || decide (rm = .rz) || (decide (rm = .ru) && s) || (decide (rm = .rd) && !s)
    { w := if toMax then maxFinite d s else infElem d s
      fl := ExcFlags.overflow ||| ExcFlags.inexact
      subnormal := false }
  else
    { w := packF d s q qe
      fl := ExcFlags.when (tiny && !exact) ExcFlags.underflow ||| ExcFlags.when (!exact) ExcFlags.inexact
      subnormal := decide (0 < q) && decide (q < 2 ^ (Fmt.prec d - 1)) }

/-- The lowest and highest value of an integer format (R80). -/
def Fmt.intLo (f : Fmt) : Int := -((2 ^ (Fmt.width f - 1) : Nat) : Int)
def Fmt.intHi (f : Fmt) : Int := ((2 ^ (Fmt.width f - 1) : Nat) : Int) - 1

/-- The element of an integer format that holds an integer (narrowing keeps the low bits, R19). -/
def intElem (f : Fmt) (x : Int) : Elem := BitVec.ofNat 32 (x % (2 ^ Fmt.width f : Nat)).toNat

/-- An integer clamped to a format's range. -/
def clampInt (f : Fmt) (x : Int) : Int := max (Fmt.intLo f) (min (Fmt.intHi f) x)

/-- to_int of R91 on a magnitude: the clamped integer, and whether it stayed in range and was exact. -/
def toInt (d : Fmt) (rm : Rm) (u : Nat) (s : Bool) (m : Nat) (e : Int) : Int × Bool × Bool :=
  if m = 0 then (0, true, true)
  else if (msbIndex m : Int) + e ≥ 32 then (if s then Fmt.intLo d else Fmt.intHi d, false, false)
  else
    let (q, exact) := roundGrid rm s m e 0 u
    let v : Int := if s then -(q : Int) else q
    (clampInt d v, decide (clampInt d v = v), exact)

/-! ### Arithmetic (R84 to R89) -/

/-- What an arithmetic instruction computes under: the program's arithmetic mode (R83) and a rounding option. -/
structure FpMode where
  strict : Bool
  rm : Rm
  deriving DecidableEq, Repr

/-- Round to nearest even in a mode: the internal arithmetic of R105 keeps subnormals, as Strict does. -/
def FpMode.internal : FpMode := ⟨true, .rne⟩

/-- DAZ of R87: under Fast arithmetic a subnormal input becomes a zero of its sign. -/
def dazIn (md : FpMode) (f : Fmt) (w : Elem) : Elem :=
  if md.strict then w
  else match decodeF f w with
    | .fin s m _ => if m < 2 ^ (Fmt.prec f - 1) then zeroElem f s else w
    | _ => w

/-- FTZ of R87 on a rounded result. -/
def ftzOut (md : FpMode) (f : Fmt) (r : Rounded) : Elem × ExcFlags :=
  if md.strict then (r.w, r.fl)
  else
    (match decodeF f r.w with
      | .fin s m _ => if m < 2 ^ (Fmt.prec f - 1) then zeroElem f s else r.w
      | _ => r.w, 0#5)

/-- The NaN result of R88 from the operands in order, and its flags: Strict keeps the first NaN, quieted; Fast gives
the positive canonical NaN and records nothing. -/
def nanResult (md : FpMode) (f : Fmt) (ops : List Elem) (invalidOp : Bool) : Elem × ExcFlags :=
  if md.strict then
    let sig := ops.any (isSignalling f)
    match ops.find? (fun w => FVal.isNan (decodeF f w)) with
    | some w => (quieten f w, ExcFlags.when (sig || invalidOp) ExcFlags.invalid)
    | none => (canonNan f, ExcFlags.invalid)
  else (canonNan f, 0#5)

/-- An infinity is a format's infinity pattern of a sign. -/
def infOut (f : Fmt) (s : Bool) : Elem × ExcFlags := (infElem f s, 0#5)

/-- The result of an exact signed sum `x * 2 ^ e`; an exact zero takes the sign `zs`. -/
def roundSigned (md : FpMode) (f : Fmt) (zs : Bool) (x : Int) (e : Int) : Elem × ExcFlags :=
  if x = 0 then (zeroElem f zs, 0#5)
  else ftzOut md f (toFloat f (if md.strict then md.rm else .rne) false 0 (decide (x < 0)) x.natAbs e)

/-- A signed integer from a sign and a magnitude. -/
def signedNat (s : Bool) (m : Nat) : Int := if s then -(m : Int) else m

/-- The exact sum of two signed values with exponents, as an integer at the smaller exponent. -/
def alignAdd (sa : Bool) (ma : Nat) (ea : Int) (sb : Bool) (mb : Nat) (eb : Int) : Int × Int :=
  let e := min ea eb
  (signedNat sa (ma * 2 ^ (ea - e).toNat) + signedNat sb (mb * 2 ^ (eb - e).toNat), e)

/-- The sign of an exact zero sum (IEEE 754-2019): the common sign, else plus, else minus under RD. -/
def zeroSumSign (md : FpMode) (sa sb : Bool) : Bool :=
  if sa = sb then sa else (md.strict && decide (md.rm = .rd))

/-- add of R84. -/
def fpAdd (md : FpMode) (f : Fmt) (a0 b0 : Elem) : Elem × ExcFlags :=
  let a := dazIn md f a0
  let b := dazIn md f b0
  match decodeF f a, decodeF f b with
  | .nan _ _, _ => nanResult md f [a, b] false
  | _, .nan _ _ => nanResult md f [a, b] false
  | .inf sa, .inf sb => if sa = sb then infOut f sa else nanResult md f [a, b] true
  | .inf sa, _ => infOut f sa
  | _, .inf sb => infOut f sb
  | .fin sa ma ea, .fin sb mb eb =>
    let (x, e) := alignAdd sa ma ea sb mb eb
    roundSigned md f (zeroSumSign md sa sb) x e

/-- The sign-bit operations of R84: exact, no NaN altered. -/
def fpNeg (f : Fmt) (a : Elem) : Elem := a ^^^ BitVec.ofNat 32 (2 ^ (Fmt.width f - 1))
def fpAbs (f : Fmt) (a : Elem) : Elem := a &&& BitVec.ofNat 32 (2 ^ (Fmt.width f - 1) - 1)
def fpCopysign (f : Fmt) (a b : Elem) : Elem :=
  fpAbs f a ||| (b &&& BitVec.ofNat 32 (2 ^ (Fmt.width f - 1)))

/-- sub of R84: the NaN rules see the operands as written, so only a number is negated. -/
def fpSub (md : FpMode) (f : Fmt) (a b : Elem) : Elem × ExcFlags :=
  if FVal.isNan (decodeF f b) then nanResult md f [a, b] false
  else fpAdd md f a (fpNeg f b)

/-- mul of R84. -/
def fpMul (md : FpMode) (f : Fmt) (a0 b0 : Elem) : Elem × ExcFlags :=
  let a := dazIn md f a0
  let b := dazIn md f b0
  match decodeF f a, decodeF f b with
  | .nan _ _, _ => nanResult md f [a, b] false
  | _, .nan _ _ => nanResult md f [a, b] false
  | .inf sa, .inf sb => infOut f (sa != sb)
  | .inf sa, .fin sb mb _ => if mb = 0 then nanResult md f [a, b] true else infOut f (sa != sb)
  | .fin sa ma _, .inf sb => if ma = 0 then nanResult md f [a, b] true else infOut f (sa != sb)
  | .fin sa ma ea, .fin sb mb eb =>
    let s := sa != sb
    roundSigned md f s (signedNat s (ma * mb)) (ea + eb)

/-- fma of R84: a * b + c rounded once; 0 * infinity is invalid even beside a quiet NaN addend (R89). -/
def fpFma (md : FpMode) (f : Fmt) (a0 b0 c0 : Elem) : Elem × ExcFlags :=
  let a := dazIn md f a0
  let b := dazIn md f b0
  let c := dazIn md f c0
  let va := decodeF f a
  let vb := decodeF f b
  let vc := decodeF f c
  let badMul := (FVal.isInf va && FVal.isZero vb) || (FVal.isZero va && FVal.isInf vb)
  if FVal.isNan va || FVal.isNan vb || FVal.isNan vc || badMul then nanResult md f [a, b, c] badMul
  else
    let sp := FVal.sign va != FVal.sign vb
    if FVal.isInf va || FVal.isInf vb then
      match vc with
      | .inf sc => if sc = sp then infOut f sp else nanResult md f [a, b, c] true
      | _ => infOut f sp
    else match va, vb, vc with
      | .fin _ ma ea, .fin _ mb eb, .fin sc mc ec =>
        let (x, e) := alignAdd sp (ma * mb) (ea + eb) sc mc ec
        roundSigned md f (zeroSumSign md sp sc) x e
      | _, _, .inf sc => infOut f sc
      | _, _, _ => nanResult md f [a, b, c] true

/-- Bits kept below the quotient or root so that one sticky bit decides every rounding. -/
def guardBits : Nat := 64

/-- div under Strict arithmetic: correctly rounded (R84), with the special cases of R108. -/
def fpDivStrict (md : FpMode) (f : Fmt) (a b : Elem) : Elem × ExcFlags :=
  match decodeF f a, decodeF f b with
  | .nan _ _, _ => nanResult md f [a, b] false
  | _, .nan _ _ => nanResult md f [a, b] false
  | .inf _, .inf _ => nanResult md f [a, b] true
  | .inf sa, .fin sb _ _ => infOut f (sa != sb)
  | .fin sa _ _, .inf sb => (zeroElem f (sa != sb), 0#5)
  | .fin sa ma ea, .fin sb mb eb =>
    let s := sa != sb
    if mb = 0 then (if ma = 0 then nanResult md f [a, b] true else (infElem f s, ExcFlags.divZero))
    else if ma = 0 then (zeroElem f s, 0#5)
    else
      let n := ma * 2 ^ guardBits
      let q := 2 * (n / mb) + (if n % mb = 0 then 0 else 1)
      roundSigned md f s (signedNat s q) (ea - eb - guardBits - 1)

/-- Integer square root by bits, from a bit index down. -/
def isqrtGo (n : Nat) : Nat → Nat → Nat
  | 0, r => r
  | k + 1, r =>
    let c := r + 2 ^ k
    isqrtGo n k (if c * c ≤ n then c else r)

/-- The integer square root. -/
def isqrt (n : Nat) : Nat := isqrtGo n (msbIndex n / 2 + 1) 0

/-- sqrt of R84: correctly rounded in both modes. -/
def fpSqrt (md : FpMode) (f : Fmt) (a0 : Elem) : Elem × ExcFlags :=
  let a := dazIn md f a0
  match decodeF f a with
  | .nan _ _ => nanResult md f [a] false
  | .inf s => if s then nanResult md f [a] true else infOut f false
  | .fin s m e =>
    if m = 0 then (a, 0#5)
    else if s then nanResult md f [a] true
    else
      let (m1, e1) := if e % 2 = 0 then (m, e) else (2 * m, e - 1)
      let n := m1 * 2 ^ (2 * guardBits)
      let r := isqrt n
      let q := 2 * r + (if r * r = n then 0 else 1)
      roundSigned md f false (q : Int) (e1 / 2 - guardBits - 1)

/-- rsqrt under Strict arithmetic: correctly rounded 1/sqrt(x) (R84), specials by R108. -/
def fpRsqrtStrict (md : FpMode) (f : Fmt) (a : Elem) : Elem × ExcFlags :=
  match decodeF f a with
  | .nan _ _ => nanResult md f [a] false
  | .inf s => if s then nanResult md f [a] true else (zeroElem f false, 0#5)
  | .fin s m e =>
    if m = 0 then (infElem f false, ExcFlags.divZero)
    else if s then nanResult md f [a] true
    else
      let (m1, e1) := if e % 2 = 0 then (m, e) else (2 * m, e - 1)
      let n := 2 ^ (4 * guardBits)
      let r := isqrt (n / m1)
      let q := 2 * r + (if r * r * m1 = n then 0 else 1)
      roundSigned md f false (q : Int) (-(e1 / 2) - 2 * guardBits - 1)

/-- The total order value that IEEE 754-2019 minimum and maximum compare by: minus zero below plus zero. -/
def orderKey (f : Fmt) (w : Elem) : Int :=
  let mag := (fpAbs f w).toNat % 2 ^ (Fmt.width f - 1)
  if FVal.sign (decodeF f w) then -(mag : Int) - 1 else mag

/-- min and max of R84: the NaN is that of the Strict rule of R88 in both modes. -/
def fpMinMax (isMax : Bool) (md : FpMode) (f : Fmt) (a b : Elem) : Elem × ExcFlags :=
  if FVal.isNan (decodeF f a) || FVal.isNan (decodeF f b) then
    let r := nanResult ⟨true, .rne⟩ f [a, b] false
    (r.1, if md.strict then r.2 else 0#5)
  else
    let aLow := decide (orderKey f a ≤ orderKey f b)
    (if aLow = isMax then b else a, 0#5)

/-- A numeric comparison; a NaN operand makes every ordering false (IEEE 754-2019). -/
inductive FOrd where
  | lt | eq | gt | un
  deriving DecidableEq, Repr

/-- How two floating-point elements compare; the two zeros are equal. -/
def fpCompare (f : Fmt) (a b : Elem) : FOrd :=
  match decodeF f a, decodeF f b with
  | .nan _ _, _ => .un
  | _, .nan _ _ => .un
  | va, vb =>
    if FVal.isZero va && FVal.isZero vb then .eq
    else if orderKey f a < orderKey f b then .lt
    else if orderKey f a = orderKey f b then .eq
    else .gt

/-! ### Conversions (R90 to R93) -/

/-- A conversion of a floating-point NaN source (R93). -/
def convNan (md : FpMode) (df sf : Fmt) (w : Elem) (s : Bool) (t : Nat) : Elem × ExcFlags :=
  let fl := ExcFlags.when (md.strict && isSignalling sf w) ExcFlags.invalid
  if Fmt.isFp8 df || Fmt.isFp8 sf || !md.strict then (signedNan df s, fl)
  else
    let ps := Fmt.prec sf - 1
    let pd := Fmt.prec df - 1
    let t' := if ps ≤ pd then t * 2 ^ (pd - ps) else t / 2 ^ (ps - pd)
    (quieten df (BitVec.ofNat 32 (Fmt.signBit df s + Fmt.infBits df + t')), fl)

/-- vcvt of one element (R90 to R93); `u` is the stochastic value of R95, used under SR only. -/
def convert (md : FpMode) (df sf : Fmt) (sat : Bool) (u : Nat) (w : Elem) : Elem × ExcFlags :=
  let fin (r : Elem × ExcFlags) : Elem × ExcFlags := (r.1, if md.strict then r.2 else 0#5)
  match decodeF sf w with
  | .nan s t =>
    if Fmt.isInt df then fin (0#32, ExcFlags.invalid) else convNan md df sf w s t
  | .inf s =>
    if Fmt.isInt df then fin (intElem df (if s then Fmt.intLo df else Fmt.intHi df), ExcFlags.invalid)
    else if sat then fin (maxFinite df s, ExcFlags.inexact)
    else fin (infElem df s, ExcFlags.when (!Fmt.hasInf df) ExcFlags.invalid)
  | .fin s m e =>
    if Fmt.isInt df then
      let (v, inRange, exact) := toInt df md.rm u s m e
      fin (intElem df v,
        if inRange then ExcFlags.when (!exact) ExcFlags.inexact else ExcFlags.invalid)
    else if m = 0 then (zeroElem df s, 0#5)
    else
      let r := toFloat df md.rm sat u s m e
      fin (r.w, r.fl)

/-! ### Crests (R96, R97, R131) -/

/-- The crest of one element (R96). -/
def crestElem (f : Fmt) (w : Elem) : Nat :=
  if Fmt.isInt f then
    let m := (intOf f w).natAbs
    if m = 0 then 0 else msbIndex m + 1
  else match decodeF f w with
    | .nan _ _ => 255
    | .inf _ => 255
    | .fin _ m _ =>
      if m = 0 then 0
      else if m < 2 ^ (Fmt.prec f - 1) then 1
      else (w.toNat / 2 ^ (Fmt.prec f - 1)) % 2 ^ Fmt.expBits f

/-- The crest of a group (R96). -/
def crestGroup (f : Fmt) (ws : List Elem) : Nat := ws.foldl (fun c w => max c (crestElem f w)) 0

/-- c_fin of R131. -/
def crestFin : Fmt → Nat
  | .fp32 => 254 | .bf16 => 254 | .fp16 => 30 | .e5m2 => 30 | .e4m3 => 15 | _ => 255

/-- The exponent bound of a crest (R131), a crest of 255 taken as the largest a finite value can have. -/
def crestBound (f : Fmt) (c : Nat) : Int :=
  ((if c = 255 then crestFin f else c : Nat) : Int) - Fmt.bias f + 1

end Sys2Proof.Machine
end

