-- ==== Sys2Proof/Machine/FastFn.lean ====
section
/-!
DEFINITION. The Fast functions of the chapter "Bit-exact definitions of the Fast functions": the tables of R110 computed
from the expressions that define them, the algorithms of R111 to R117, their special values (R108), flags (R118) and the
learning-rate schedules (R119 to R122).
-/

namespace Sys2Proof.Machine

/-! ### Tables (R106, R110), by fixed-point arithmetic with `fpBits` fraction bits -/

/-- Fraction bits of the fixed-point evaluation. -/
def fpBits : Nat := 160

/-- One in fixed point. -/
def fxOne : Int := (2 ^ fpBits : Nat)

/-- The product of two fixed-point numbers. -/
def fxMul (a b : Int) : Int := a * b / fxOne

/-- A rational in fixed point. -/
def fxRat (n d : Int) : Int := n * fxOne / d

/-- The square root of a fixed-point number. -/
def fxSqrt (a : Int) : Int := (isqrt (a.toNat * 2 ^ fpBits) : Int)

/-- RN32 of R106: the nearest FP32 value.  The fixed-point value is first taken to 2^-120, which removes the error of
the evaluation, so that an exactly representable entry comes out exact. -/
def fxRN32 (v : Int) : Elem :=
  let q := (v.natAbs + 2 ^ (fpBits - 121)) / 2 ^ (fpBits - 120)
  if q = 0 then 0#32 else (toFloat .fp32 .rne false 0 (decide (v < 0)) q (-120)).w

/-- A sum of a series whose next term is `next k term`, for `n` terms from index `k`. -/
def seriesSum (next : Nat → Int → Int) : Nat → Nat → Int → Int
  | 0, _, _ => 0
  | n + 1, k, t => t + seriesSum next n (k + 1) (next k t)

/-- e^x for a fixed-point x (Maclaurin series). -/
def fxExp (x : Int) : Int := seriesSum (fun k t => fxMul t x / ((k : Int) + 1)) 120 0 fxOne

/-- sin and cos by their Maclaurin series. -/
def fxSin (x : Int) : Int :=
  seriesSum (fun k t => -(fxMul (fxMul t x) x) / ((2 * (k : Int) + 2) * (2 * (k : Int) + 3))) 45 0 x
def fxCos (x : Int) : Int :=
  seriesSum (fun k t => -(fxMul (fxMul t x) x) / ((2 * (k : Int) + 1) * (2 * (k : Int) + 2))) 45 0 fxOne

/-- The odd part of a geometric series, the sum of z^(2k+1) / (2k+1) with sign `sg` to the k: atanh for 1, arctangent
for minus 1. -/
def fxOddSeries (sg : Int) (z : Int) : Nat → Nat → Int → Int
  | 0, _, _ => 0
  | n + 1, k, p => p / (2 * (k : Int) + 1) + fxOddSeries sg z n (k + 1) (sg * fxMul (fxMul p z) z)

/-- pi by Machin's formula. -/
def fxPi : Int :=
  4 * (4 * fxOddSeries (-1) (fxRat 1 5) 80 0 (fxRat 1 5) - fxOddSeries (-1) (fxRat 1 239) 80 0 (fxRat 1 239))

/-- ln of a fixed-point number near 1: 2 atanh((m - 1) / (m + 1)). -/
def fxLn (m : Int) : Int :=
  let z := (m - fxOne) * fxOne / (m + fxOne)
  2 * fxOddSeries 1 z 60 0 z

/-- 2^(1/2^(i+1)), by repeated square roots. -/
def fxRoot2 : Nat → Int
  | 0 => fxSqrt (2 * fxOne)
  | i + 1 => fxSqrt (fxRoot2 i)

/-- 2^(k/64) from the bits of k. -/
def fxExp2 (k : Nat) : Int :=
  (List.range 6).foldl (fun acc i => if k / 2 ^ (5 - i) % 2 = 1 then fxMul acc (fxRoot2 i) else acc) fxOne

/-- erf c as (2/sqrt(pi)) e^(-c^2) times the sum of 2^n c^(2n+1) / (1 3 5 ... (2n+1)). -/
def fxErf (c : Int) : Int :=
  let s := seriesSum (fun k t => 2 * fxMul (fxMul t c) c / (2 * (k : Int) + 3)) 130 0 c
  let e := fxOne * fxOne / fxExp (fxMul c c)
  2 * fxMul (fxMul s e) fxOne * fxOne / fxSqrt fxPi

/-- The value of an FP32 word as fixed point (positive, of moderate size). -/
def fxOfF32 (w : Elem) : Int :=
  match decodeF .fp32 w with
  | .fin s m e => signedNat s (m * 2 ^ ((fpBits : Int) + e).toNat)
  | _ => 0

def tabRCP (k : Nat) : Elem := fxRN32 (fxRat 256 (2 * (k : Int) + 257))

def tabRSQ (k : Nat) : Elem :=
  if k < 64 then fxRN32 (fxSqrt (fxRat 128 (2 * (k : Int) + 129)))
  else fxRN32 (fxSqrt (fxRat 64 (2 * ((k : Int) - 64) + 129)))

def tabEXP2T (k : Nat) : Elem := fxRN32 (fxExp2 k)

def tabEXPM1T (k : Nat) : Elem := fxRN32 (fxExp2 k - fxOne)

def tabLOGR (k : Nat) : Elem :=
  if k = 0 ∨ k = 127 then 0x3F800000#32
  else if k ≤ 63 then fxRN32 (fxRat 256 (257 + 2 * (k : Int)))
  else fxRN32 (fxRat 512 (257 + 2 * (k : Int)))

def tabLOGL (k : Nat) : Elem :=
  if k = 0 ∨ k = 127 then 0#32 else fxRN32 (-(fxLn (fxOfF32 (tabLOGR k))))

/-- ERFT: row k has centre c = (2k + 17)/32; columns ERF_E, ERF_D, ERF_A3, ERF_A4, ERF_A5. -/
def tabERFT (k col : Nat) : Elem :=
  let c := fxRat (2 * (k : Int) + 17) 32
  let c2 := fxMul c c
  match col with
  | 0 => fxRN32 (fxErf c)
  | 1 => fxRN32 (2 * fxOne * fxOne / fxSqrt fxPi * fxOne / fxExp c2)
  | 2 => fxRN32 ((2 * c2 - fxOne) / 3)
  | 3 => fxRN32 ((3 * c - 2 * fxMul c2 c) / 6)
  | _ => fxRN32 ((4 * fxMul c2 c2 - 12 * c2 + 3 * fxOne) / 30)

/-- HCOS: row k has theta = pi k / 512; columns HCOS_C, HCOS_S, HCOS_Q. -/
def tabHCOS (k col : Nat) : Elem :=
  let th := fxPi * k / 512
  match col with
  | 0 => fxRN32 ((fxOne + fxCos th) / 2)
  | 1 => fxRN32 (fxMul fxPi (fxSin th) / 2)
  | _ => fxRN32 (fxMul (fxMul fxPi fxPi) (fxCos th) / 4)

/-- The word of a table by table id and word index (R110, R124); none beyond a table. -/
def fnTabWord (t ix : Nat) : Option Elem :=
  match t with
  | 0 => if ix < 128 then some (tabRCP ix) else none
  | 1 => if ix < 128 then some (tabRSQ ix) else none
  | 2 => if ix < 64 then some (tabEXP2T ix) else none
  | 3 => if ix < 64 then some (tabEXPM1T ix) else none
  | 4 => if ix < 128 then some (tabLOGR ix) else none
  | 5 => if ix < 128 then some (tabLOGL ix) else none
  | 6 => if ix < 280 then some (tabERFT (ix / 5) (ix % 5)) else none
  | 7 => if ix < 1539 then some (tabHCOS (ix / 3) (ix % 3)) else none
  | _ => none

/-! ### Primitives and shared steps (R105, R111) -/

def fadd (a b : Elem) : Elem := (fpAdd .internal .fp32 a b).1
def fsub (a b : Elem) : Elem := (fpSub .internal .fp32 a b).1
def fmul (a b : Elem) : Elem := (fpMul .internal .fp32 a b).1
def ffma (a b c : Elem) : Elem := (fpFma .internal .fp32 a b c).1
def fneg (a : Elem) : Elem := fpNeg .fp32 a
def fabs (a : Elem) : Elem := fpAbs .fp32 a
def fcopysign (a b : Elem) : Elem := fpCopysign .fp32 a b
def flt (a b : Elem) : Bool := decide (fpCompare .fp32 a b = .lt)
def fle (a b : Elem) : Bool := flt a b || decide (fpCompare .fp32 a b = .eq)
def fIsZero (a : Elem) : Bool := FVal.isZero (decodeF .fp32 a)

/-- The constants of R109. -/
def cONE : Elem := 0x3F800000#32
def cTWO : Elem := 0x40000000#32
def cHALF : Elem := 0x3F000000#32
def cFOUR : Elem := 0x40800000#32
def cSIXTEEN : Elem := 0x41800000#32
def cINV32 : Elem := 0x3D000000#32
def cSIXTYFOUR : Elem := 0x42800000#32
def cINV64 : Elem := 0x3C800000#32
def cLN2 : Elem := 0x3F317218#32
def cLN2HI : Elem := 0x3F317200#32
def cLN2LO : Elem := 0x35BFBE8E#32
def cINVLN264 : Elem := 0x42B8AA3B#32
def cL64HI : Elem := 0x3C317200#32
def cL64LO : Elem := 0x32BFBE8E#32
def cE3 : Elem := 0x3E2AAAAB#32
def cE4 : Elem := 0x3D2AAAAB#32
def cC2 : Elem := 0xBF000000#32
def cC3 : Elem := 0x3EAAAAAB#32
def cC4 : Elem := 0xBE800000#32
def cC5 : Elem := 0x3E4CCCCD#32
def cB1 : Elem := 0xBEAAAAAB#32
def cB2 : Elem := 0x3DCCCCCD#32
def cB3 : Elem := 0xBCC30C31#32
def cB4 : Elem := 0x3B97B426#32
def cB5 : Elem := 0xBA46980C#32
def cB6 : Elem := 0x38E00E01#32
def cTWOSQRTPI : Elem := 0x3F906EBB#32
def cINVSQRT2 : Elem := 0x3F3504F3#32
def cPI26 : Elem := 0x3FD28D33#32
def cPINF : Elem := 0x7F800000#32
def cNINF : Elem := 0xFF800000#32

/-- dec of R111, with the sign. -/
def fdec (x : Elem) : Bool × Nat × Int :=
  match decodeF .fp32 x with
  | .fin s m e => (s, m, e)
  | v => (FVal.sign v, 0, 0)

/-- norm of R111: sign, exponent, 23-bit fraction, significand in [1, 2). -/
def fnorm (x : Elem) : Bool × Int × Nat × Elem :=
  let (s, m, e) := fdec x
  let k := msbIndex m
  let fr := (m * 2 ^ (23 - k)) % 2 ^ 23
  (s, e + k, fr, BitVec.ofNat 32 (0x3F800000 + fr))

/-- scale2 of R111. -/
def scale2 (y : Elem) (n : Int) : Elem :=
  if fIsZero y then y
  else
    let (s, m, e) := fdec y
    (toFloat .fp32 .rne false 0 s m (e + n)).w

/-- f2i of R111. -/
def f2i (v : Elem) (rm : Rm) : Int :=
  if fIsZero v then 0
  else
    let (s, m, e) := fdec v
    (toInt .int32 rm 0 s m e).1

/-- i2f of R111. -/
def i2f (j : Int) : Elem :=
  if j = 0 then 0#32 else (toFloat .fp32 .rne false 0 (decide (j < 0)) j.natAbs 0).w

/-! ### Reciprocal, division, reciprocal square root (R112, R113) -/

def rcpCore (mf : Elem) (fr : Nat) : Elem :=
  let y := tabRCP (fr / 2 ^ 16)
  let d := ffma (fneg mf) y cONE
  let y := ffma y d y
  let d := ffma (fneg mf) y cONE
  ffma y d y

def signOne (s : Bool) : Elem := if s then fneg cONE else cONE

def fastRecip (x : Elem) : Elem :=
  let (s, ex, fr, mf) := fnorm x
  fcopysign (scale2 (rcpCore mf fr) (-ex)) (signOne s)

def fastDiv (a b : Elem) : Elem :=
  let (sa, ea, _, ma) := fnorm a
  let (sb, eb, fb, mb) := fnorm b
  let y := rcpCore mb fb
  let q := fmul ma y
  let r := ffma (fneg mb) q ma
  let q := ffma r y q
  fcopysign (scale2 q (ea - eb)) (signOne (sa != sb))

def rsqStep (m y : Elem) : Elem :=
  let t := fmul m y
  let d := ffma (fneg t) y cONE
  ffma (fmul y d) cHALF y

def fastRsqrt (x : Elem) : Elem :=
  let (_, ex, fr, mf) := fnorm x
  let k := fr / 2 ^ 17
  let odd := decide (ex % 2 ≠ 0)
  let m := if odd then fmul mf cTWO else mf
  let k := if odd then k + 64 else k
  let ex := if odd then ex - 1 else ex
  let y := rsqStep m (rsqStep m (tabRSQ k))
  scale2 y (-(ex / 2))

/-! ### Exponentials and logarithm (R114, R115) -/

def emPoly (r : Elem) : Elem :=
  let p := ffma cE4 r cE3
  let p := ffma p r cHALF
  ffma (fmul r r) p r

/-- `j & 63` and `j >> 6` of a signed j. -/
def lowSix (j : Int) : Nat := (j % 64).toNat
def highSix (j : Int) : Int := j / 64

def expTail (j : Int) (r : Elem) : Elem :=
  let t := tabEXP2T (lowSix j)
  scale2 (ffma t (emPoly r) t) (highSix j)

def fexp (x : Elem) : Elem :=
  if flt 0x42B20000#32 x then cPINF
  else if flt x 0xC2D00000#32 then 0#32
  else
    let j := f2i (fmul x cINVLN264) .rne
    let r := ffma (i2f (-j)) cL64HI x
    let r := ffma (i2f (-j)) cL64LO r
    expTail j r

def fexp2 (x : Elem) : Elem :=
  if fle 0x43000000#32 x then cPINF
  else if flt x 0xC3170000#32 then 0#32
  else
    let j := f2i (fmul x cSIXTYFOUR) .rne
    let r := fmul (ffma (i2f (-j)) cINV64 x) cLN2
    expTail j r

def emPos (t : Elem) : Elem :=
  let j := f2i (fmul t cINVLN264) .rne
  let r := ffma (i2f (-j)) cL64HI t
  let r := ffma (i2f (-j)) cL64LO r
  let q := emPoly r
  let k := lowSix j
  if highSix j = 0 then ffma (tabEXP2T k) q (tabEXPM1T k)
  else fsub (scale2 (ffma (tabEXP2T k) q (tabEXP2T k)) (highSix j)) cONE

def flog (x : Elem) : Elem :=
  let (_, ex, fr, mf) := fnorm x
  let k := fr / 2 ^ 16
  let m := if 64 ≤ k then fmul mf cHALF else mf
  let ex := if 64 ≤ k then ex + 1 else ex
  let r := ffma m (tabLOGR k) (fneg cONE)
  let p := ffma cC5 r cC4
  let p := ffma p r cC3
  let p := ffma p r cC2
  let lp := ffma (fmul r r) p r
  let sm := fadd (tabLOGL k) lp
  let ef := i2f ex
  fadd (fmul ef cLN2HI) (ffma ef cLN2LO sm)

/-! ### tanh, sigmoid, erf, gelu (R116, R117) -/

def ftanh (x : Elem) : Elem :=
  let a := fabs x
  if flt a 0x39800000#32 then x
  else if fle 0x41200000#32 a then fcopysign cONE x
  else
    let e := emPos (fmul a cTWO)
    fcopysign (fastDiv e (fadd e cTWO)) x

def fsigmoid (x : Elem) : Elem :=
  if fle 0#32 x then fastRecip (fadd cONE (fexp (fneg x)))
  else
    let e := fexp x
    if fIsZero e then 0#32 else fastDiv e (fadd cONE e)

def ferf (x : Elem) : Elem :=
  let a := fabs x
  if fle cFOUR a then fcopysign cONE x
  else if flt a cHALF then
    let t := fmul a a
    let p := ffma cB6 t cB5
    let p := ffma p t cB4
    let p := ffma p t cB3
    let p := ffma p t cB2
    let p := ffma p t cB1
    fcopysign (fmul cTWOSQRTPI (ffma (fmul a t) p a)) x
  else
    let k := (f2i (fmul (fsub a cHALF) cSIXTEEN) .rz).toNat
    let c := fmul (i2f (2 * (k : Int) + 17)) cINV32
    let h := fsub a c
    let p := ffma (tabERFT k 4) h (tabERFT k 3)
    let p := ffma p h (tabERFT k 2)
    let p := ffma p h (fneg c)
    let w := ffma (fmul p h) h h
    fcopysign (ffma (tabERFT k 1) w (tabERFT k 0)) x

def fgelu (x : Elem) : Elem :=
  let h := fmul x cHALF
  ffma h (ferf (fmul x cINVSQRT2)) h

/-! ### The functions with their special values, DAZ and FTZ, and flags (R107, R108, R118) -/

/-- The functions of one argument that R108 lists with a published algorithm. -/
inductive FnOp where
  | exp | exp2 | log | tanh | sigmoid | erf | gelu
  deriving DecidableEq, Repr

/-- The result for an infinite input (R108); none is a NaN. -/
def FnOp.atInf : FnOp → Bool → Option Elem
  | .exp, s => some (if s then 0#32 else cPINF)
  | .exp2, s => some (if s then 0#32 else cPINF)
  | .log, s => if s then none else some cPINF
  | .tanh, s => some (signOne s)
  | .sigmoid, s => some (if s then 0#32 else cONE)
  | .erf, s => some (signOne s)
  | .gelu, s => some (if s then 0x80000000#32 else cPINF)

/-- The result for a zero of a sign (R108). -/
def FnOp.atZero : FnOp → Elem → Elem
  | .exp, _ => cONE
  | .exp2, _ => cONE
  | .log, _ => cNINF
  | .tanh, x => x
  | .sigmoid, _ => cHALF
  | .erf, x => x
  | .gelu, x => x

/-- The published algorithm on a finite non-zero input. -/
def FnOp.core : FnOp → Elem → Elem
  | .exp, x => fexp x
  | .exp2, x => fexp2 x
  | .log, x => flog x
  | .tanh, x => ftanh x
  | .sigmoid, x => fsigmoid x
  | .erf, x => ferf x
  | .gelu, x => fgelu x

/-- A result word subnormal or zero. -/
def tinyWord (w : Elem) : Bool := decide (w.toNat % 2 ^ 31 < 2 ^ 23)

/-- The value is an integer. -/
def isIntegerF32 (x : Elem) : Bool :=
  let (_, m, e) := fdec x
  decide (0 ≤ e) || decide (m % 2 ^ (-e).toNat = 0)

/-- The flags of R118 for a finite non-zero input that is in the function's domain. -/
def FnOp.flags (op : FnOp) (x r : Elem) : ExcFlags :=
  let ovr := (decide (op = .exp) || decide (op = .exp2)) && decide (r = cPINF)
  let exact : Bool := match op with
    | .exp2 => isIntegerF32 x && !tinyWord r && decide (r ≠ cPINF)
    | .log => decide (x = cONE)
    | _ => false
  if ovr then ExcFlags.overflow ||| ExcFlags.inexact
  else if exact then 0#5
  else ExcFlags.when (tinyWord r) ExcFlags.underflow ||| ExcFlags.inexact

/-- FTZ of R107 on a final result. -/
def ftzWord (md : FpMode) (w : Elem) : Elem :=
  if md.strict then w
  else match decodeF .fp32 w with
    | .fin s m _ => if m < 2 ^ 23 then zeroElem .fp32 s else w
    | _ => w

/-- A Fast function of one argument in a mode. -/
def fnEval (md : FpMode) (op : FnOp) (x0 : Elem) : Elem × ExcFlags :=
  let x := dazIn md .fp32 x0
  match decodeF .fp32 x with
  | .nan _ _ => nanResult md .fp32 [x] false
  | .inf s => match FnOp.atInf op s with
    | some r => (r, 0#5)
    | none => nanResult md .fp32 [x] true
  | .fin s m _ =>
    if m = 0 then (FnOp.atZero op x, ExcFlags.when (md.strict && decide (op = .log)) ExcFlags.divZero)
    else if op = .log ∧ s = true then nanResult md .fp32 [x] true
    else
      let r := FnOp.core op x
      (ftzWord md r, if md.strict then FnOp.flags op x r else 0#5)

/-- div in a mode (R84, R107, R108). -/
def fpDiv (md : FpMode) (a0 b0 : Elem) : Elem × ExcFlags :=
  if md.strict then fpDivStrict md .fp32 a0 b0
  else
    let a := dazIn md .fp32 a0
    let b := dazIn md .fp32 b0
    match decodeF .fp32 a, decodeF .fp32 b with
    | .fin _ ma _, .fin _ mb _ =>
      if ma = 0 ∨ mb = 0 then ((fpDivStrict md .fp32 a b).1, 0#5) else (ftzWord md (fastDiv a b), 0#5)
    | _, _ => ((fpDivStrict md .fp32 a b).1, 0#5)

/-- recip in a mode. -/
def fpRecip (md : FpMode) (x0 : Elem) : Elem × ExcFlags :=
  if md.strict then fpDivStrict md .fp32 cONE x0
  else
    let x := dazIn md .fp32 x0
    match decodeF .fp32 x with
    | .fin _ m _ => if m = 0 then ((fpDivStrict md .fp32 cONE x).1, 0#5) else (ftzWord md (fastRecip x), 0#5)
    | _ => ((fpDivStrict md .fp32 cONE x).1, 0#5)

/-- rsqrt in a mode. -/
def fpRsqrt (md : FpMode) (x0 : Elem) : Elem × ExcFlags :=
  if md.strict then fpRsqrtStrict md .fp32 x0
  else
    let x := dazIn md .fp32 x0
    match decodeF .fp32 x with
    | .fin s m _ =>
      if m = 0 ∨ s = true then ((fpRsqrtStrict md .fp32 x).1, 0#5) else (ftzWord md (fastRsqrt x), 0#5)
    | _ => ((fpRsqrtStrict md .fp32 x).1, 0#5)

/-! ### Learning-rate schedules (R119 to R122) -/

def frac24 (num den : Nat) : Nat := if den ≤ num then 2 ^ 24 else num * 2 ^ 24 / den

def fix2f (tf : Nat) : Elem := if tf = 0 then 0#32 else (toFloat .fp32 .rne false 0 false tf (-24)).w

def hcos (tf : Nat) : Elem :=
  let k := tf / 2 ^ 15
  let dl := fix2f (tf % 2 ^ 15)
  let c3 := fmul (tabHCOS k 1) cPI26
  let p := ffma c3 dl (fneg (tabHCOS k 2))
  let p := ffma p dl (fneg (tabHCOS k 1))
  ffma p dl (tabHCOS k 0)

/-- The schedule kinds (R120, R121). -/
inductive SchedKind where
  | constant | warmupLinear | cosine | piecewise
  deriving DecidableEq, Repr

/-- A schedule record (R120, R121). -/
structure Schedule where
  kind : SchedKind
  eta : Elem
  etaMin : Elem
  w : Nat
  s : Nat
  pts : List (Nat × Elem)
  deriving DecidableEq, Repr

/-- lr of R120. -/
def lrRate (k : Schedule) (step : Nat) : Elem :=
  if step < k.w then fmul k.eta (fix2f (frac24 (step + 1) k.w))
  else if k.kind = .constant then k.eta
  else
    let tf := if k.w < k.s then frac24 (step - k.w) (k.s - k.w) else 2 ^ 24
    let dt := fsub k.eta k.etaMin
    if k.kind = .warmupLinear then ffma (fneg dt) (fix2f tf) k.eta
    else ffma dt (hcos tf) k.etaMin

/-- lr_piecewise of R121, walking the points. -/
def lrWalk (step : Nat) : List (Nat × Elem) → Elem
  | [] => 0#32
  | [(_, v)] => v
  | (p0, v0) :: (p1, v1) :: t =>
    if p1 ≤ step then lrWalk step ((p1, v1) :: t)
    else ffma (fsub v1 v0) (fix2f (frac24 (step - p0) (p1 - p0))) v0

/-- lr_piecewise of R121. -/
def lrPiecewise (step : Nat) (pts : List (Nat × Elem)) : Elem :=
  match pts with
  | [] => 0#32
  | (p0, v0) :: _ => if step ≤ p0 then v0 else lrWalk step pts

/-- The rate of a schedule at a step. -/
def schedRate (k : Schedule) (step : Nat) : Elem :=
  if k.kind = .piecewise then lrPiecewise step k.pts else lrRate k step

end Sys2Proof.Machine
end

