-- ==== Sys2Proof/Machine/Anchored.lean ====
section
/-!
DEFINITION. Anchored accumulation (R126 to R157): anchor specifications, the crest anchor, the 136-bit register, long
forms and their combine, the wide form of Strict arithmetic, the drain with its flag precedence, the fused row
maximum, and A64 values.
-/

namespace Sys2Proof.Machine

/-- ANC_NULL of R132: every term of the element is zero. -/
def ancNull : Int := -32768

/-- The block anchor of a block whose agreed crest is 255 (R153). -/
def ancA64Inf : Int := 32767

/-- The largest anchor a Strict program may use (R144). -/
def ancStrictMax : Int := 472

/-- A 16-bit two's-complement number. -/
def sext16 (n : Nat) : Int := (BitVec.ofNat 16 n).toInt

/-- The source of an anchor (R129). -/
inductive AncSrc where
  | crest | explicit | block
  deriving DecidableEq, Repr

/-- An anchor specification (R129) whose fields hold no reserved value. -/
structure AncSpec where
  src : AncSrc
  form : Form
  anc : Int
  lenLog2 : Nat
  deriving DecidableEq, Repr

def formOfCode (c : Nat) : Option Form :=
  match c with
  | 0 => some .product | 1 => some .sum | 2 => some .squares | _ => none

def ancSrcOfCode (c : Nat) : Option AncSrc :=
  match c with
  | 0 => some .crest | 1 => some .explicit | 2 => some .block | _ => none

/-- The anchor specification as the hardware reads it from a register at run time: fields only. -/
def ancSpecFields (w : Word64) : AncSpec :=
  let n := w.toNat
  { src := (ancSrcOfCode (n % 4)).getD .crest
    form := (formOfCode (n / 4 % 4)).getD .product
    anc := sext16 (n / 2 ^ 8)
    lenLog2 := n / 2 ^ 24 % 64 }

/-- crest_anchor of R132. -/
def crestAnchor (form : Form) (rho : Nat) (fa : Fmt) (kap : Nat) (fb : Fmt) (lenLog2 : Nat) : Int :=
  if rho = 0 ∨ (form = .product ∧ kap = 0) then ancNull
  else
    let a := crestBound fa rho
    let a := if form = .product then a + crestBound fb kap else a
    let a := if form = .squares then 2 * a else a
    let a := if 24 < lenLog2 then a + ((lenLog2 : Int) - 24) else a
    (BitVec.ofInt 16 a).toInt

/-! ### Terms and the register (R127, R135 to R137) -/

/-- An exact term: a signed integer times a power of two, or non-finite (R136). -/
inductive Term where
  | num (m : Int) (e : Int)
  | inf (s : Bool)
  | nan
  deriving DecidableEq, Repr

/-- The exact product of two decoded operands. -/
def termMul (a b : FVal) : Term :=
  match a, b with
  | .nan _ _, _ => .nan
  | _, .nan _ _ => .nan
  | .inf sa, .inf sb => .inf (sa != sb)
  | .inf sa, .fin sb m _ => if m = 0 then .nan else .inf (sa != sb)
  | .fin sa m _, .inf sb => if m = 0 then .nan else .inf (sa != sb)
  | .fin sa ma ea, .fin sb mb eb => .num (signedNat (sa != sb) (ma * mb)) (ea + eb)

/-- A decoded operand as a term. -/
def termOne (a : FVal) : Term :=
  match a with
  | .nan _ _ => .nan
  | .inf s => .inf s
  | .fin s m e => .num (signedNat s m) e

/-- The term of a form (R127). -/
def termOf (form : Form) (fa fb : Fmt) (a b : Elem) : Term :=
  match form with
  | .product => termMul (decodeF fa a) (decodeF fb b)
  | .sum => termOne (decodeF fa a)
  | .squares => termMul (decodeF fa a) (decodeF fa a)

/-- A long form (R139). -/
structure LongForm where
  v : AccWord
  anc : Int
  flags : RedFlags
  deriving DecidableEq, Repr

/-- The empty long form: a null anchor, value zero, no flag. -/
def LongForm.null : LongForm := ⟨0#136, ancNull, 0#8⟩

/-- A long form of value zero at an anchor. -/
def LongForm.start (anc : Int) (fl : RedFlags) : LongForm := ⟨0#136, anc, fl⟩

/-- A signed integer on the grid of step `2 ^ g`, rounded to nearest even on the magnitude, and whether exact. -/
def gridRound (m : Int) (e g : Int) : Int × Bool :=
  let (q, ex) := roundGrid .rne false m.natAbs e g 0
  (if m < 0 then -(q : Int) else q, ex)

/-- term of R135 and the accumulation: one finite term into a register. -/
def accNum (l : LongForm) (m e : Int) : LongForm :=
  if m = 0 ∨ l.anc = ancNull then l
  else
    let (q, exact) := gridRound m e (l.anc - 110)
    { l with
      v := l.v + BitVec.ofInt 136 q
      flags := l.flags
        ||| RedFlags.when (decide (l.anc ≤ (msbIndex m.natAbs : Int) + e)) RedFlags.ovf
        ||| RedFlags.when (!exact) RedFlags.rnd }

/-- One term into a register; a non-finite term sets its flag and adds nothing (R136). -/
def accTerm (l : LongForm) (t : Term) : LongForm :=
  match t with
  | .num m e => accNum l m e
  | .nan => { l with flags := l.flags ||| RedFlags.nan }
  | .inf s => { l with flags := l.flags ||| (if s then RedFlags.ninf else RedFlags.pinf) }

/-- The poison flag of an operand from a poisoned line (R136). -/
def accPoison (l : LongForm) (p : Bool) : LongForm :=
  { l with flags := l.flags ||| RedFlags.when p RedFlags.poison }

/-- A register as it leaves the unit: zero under ovf or amix (R138), and zero at a null anchor (R139). -/
def LongForm.leave (l : LongForm) : LongForm :=
  if RedFlags.has l.flags (RedFlags.ovf ||| RedFlags.amix) ∨ l.anc = ancNull then { l with v := 0#136 } else l

/-- combine of R139. -/
def LongForm.combine (x y : LongForm) : LongForm :=
  let fl := x.flags ||| y.flags
  let fl := if x.anc ≠ ancNull ∧ y.anc ≠ ancNull ∧ x.anc ≠ y.anc then fl ||| RedFlags.amix else fl
  let anc := if x.anc = ancNull then y.anc else if y.anc = ancNull then x.anc else max x.anc y.anc
  let v := if x.anc = ancNull then y.v else if y.anc = ancNull then x.v else x.v + y.v
  { v := if RedFlags.has fl (RedFlags.ovf ||| RedFlags.amix) then 0#136 else v
    anc := anc
    flags := fl }

/-- Little-endian bytes of a number (R12). -/
def leBytes (n : Nat) : Nat → List Byte
  | 0 => []
  | k + 1 => BitVec.ofNat 8 n :: leBytes (n / 256) k

/-- The number little-endian bytes spell (R12). -/
def leNat : List Byte → Nat
  | [] => 0
  | b :: t => b.toNat + 256 * leNat t

/-- A long form in memory: 20 bytes (R139). -/
def LongForm.bytes (l : LongForm) : List Byte :=
  leBytes l.v.toNat 17 ++ leBytes (BitVec.ofInt 16 l.anc).toNat 2 ++ leBytes l.flags.toNat 1

/-- The long form 20 bytes hold (R139). -/
def LongForm.ofBytes (bs : List Byte) : LongForm :=
  { v := BitVec.ofNat 136 (leNat (bs.take 17))
    anc := sext16 (leNat ((bs.drop 17).take 2))
    flags := BitVec.ofNat 8 (leNat ((bs.drop 19).take 1)) }

/-! ### The wide form (R142, R143) -/

/-- A wide form: limbs L_0 to L_6, the ordinary register first. -/
abbrev WideForm := List LongForm

/-- The number of limbs (R142). -/
def wideLimbs : Nat := 7

/-- The anchor of limb n: A - 110 n, null when A is. -/
def limbAnchor (a : Int) (n : Nat) : Int := if a = ancNull then ancNull else a - 110 * (n : Int)

/-- An empty wide form at an anchor. -/
def WideForm.start (anc : Int) (fl : RedFlags) : WideForm :=
  (List.range wideLimbs).map (fun n => LongForm.start (limbAnchor anc n) (if n = 0 then fl else 0#8))

/-- The residue of an exact value after rounding at an anchor, at the value's own exponent. -/
def residue (m e : Int) (anc : Int) : Int :=
  let (q, exact) := gridRound m e (anc - 110)
  if exact then 0 else m - q * (2 ^ ((anc - 110) - e).toNat : Nat)

/-- A finite term into the limbs from limb n on: each limb rounds and passes its residue on (R142). -/
def accLimbs : WideForm → Int → Int → WideForm
  | [], _, _ => []
  | l :: ls, m, e =>
    if m = 0 ∨ l.anc = ancNull then l :: ls
    else accNum l m e :: accLimbs ls (residue m e l.anc) e

/-- A term into a wide form. -/
def accWide (w : WideForm) (t : Term) : WideForm :=
  match t with
  | .num m e => accLimbs w m e
  | _ => match w with
    | [] => []
    | l :: ls => accTerm l t :: ls

/-- The OR of the limbs' flags. -/
def WideForm.flags (w : WideForm) : RedFlags := w.foldl (fun f l => f ||| l.flags) 0#8

/-- Limb-by-limb combine (R143). -/
def WideForm.combine (x y : WideForm) : WideForm := List.zipWith LongForm.combine x y

/-- A wide form as it leaves a unit. -/
def WideForm.leave (w : WideForm) : WideForm := w.map LongForm.leave

/-- A wide form in memory: seven long forms, 140 bytes (R182). -/
def WideForm.bytes (w : WideForm) : List Byte := w.flatMap LongForm.bytes

/-- The wide form 140 bytes hold. -/
def WideForm.ofBytes (bs : List Byte) : WideForm :=
  (List.range wideLimbs).map (fun n => LongForm.ofBytes ((bs.drop (20 * n)).take 20))

/-- The exact value of a wide form in units of 2^(A - 770). -/
def WideForm.exact : WideForm → Nat → Int
  | [], _ => 0
  | l :: ls, k => l.v.toInt * ((2 ^ (110 * (k - 1)) : Nat) : Int) + WideForm.exact ls (k - 1)

/-! ### Drain (R140, R141, R145) -/

/-- A drained element: its bits, the sticky flags it sets, and whether it is written poisoned. -/
structure Drained where
  w : Elem
  fl : ExcFlags
  poison : Bool
  deriving DecidableEq, Repr

/-- An exact value `x * 2 ^ e` lies outside the range of an integer format (R145). -/
def outsideInt (d : Fmt) (x e : Int) : Bool :=
  let up : Int := (2 ^ e.toNat : Nat)
  let dn : Int := (2 ^ (-e).toNat : Nat)
  decide (Fmt.intHi d * dn < x * up) || decide (x * up < Fmt.intLo d * dn)

/-- The drain of an exact value `x * 2 ^ e` under the flag precedence of R141; `strict` records the flags of R145. -/
def drainValue (strict : Bool) (d : Fmt) (sat : Bool) (fl : RedFlags) (x e : Int) : Drained :=
  let poison := RedFlags.has fl RedFlags.poison
  let pinf := RedFlags.has fl RedFlags.pinf
  let ninf := RedFlags.has fl RedFlags.ninf
  let rec1 (w : Elem) (f : ExcFlags) : Drained := ⟨w, if strict then f else 0#5, poison⟩
  if RedFlags.has fl (RedFlags.ovf ||| RedFlags.amix) then rec1 (canonNan d) 0#5
  else if RedFlags.has fl RedFlags.nan ∨ (pinf && ninf) = true then rec1 (canonNan d) ExcFlags.invalid
  else if pinf || ninf then
    if Fmt.isInt d then rec1 (intElem d (if ninf then Fmt.intLo d else Fmt.intHi d)) ExcFlags.invalid
    else if sat then rec1 (maxFinite d ninf) ExcFlags.inexact
    else rec1 (infElem d ninf) (ExcFlags.when (!Fmt.hasInf d) ExcFlags.invalid)
  else if x = 0 then rec1 0#32 0#5
  else if Fmt.isInt d then
    let (v, _, exact) := toInt d .rne 0 (decide (x < 0)) x.natAbs e
    rec1 (intElem d v) (if outsideInt d x e then ExcFlags.invalid else ExcFlags.when (!exact) ExcFlags.inexact)
  else
    let r := toFloat d .rne sat 0 (decide (x < 0)) x.natAbs e
    rec1 r.w r.fl

/-- The drain of a long form (R140, R141). -/
def drainLong (strict : Bool) (d : Fmt) (sat : Bool) (l : LongForm) : Drained :=
  drainValue strict d sat l.flags (if l.anc = ancNull then 0 else l.v.toInt) (l.anc - 110)

/-- The drain of a wide form (R143). -/
def drainWide (strict : Bool) (d : Fmt) (sat : Bool) (w : WideForm) : Drained :=
  match w with
  | [] => ⟨0#32, 0#5, false⟩
  | l :: _ =>
    drainValue strict d sat (WideForm.flags w) (if l.anc = ancNull then 0 else WideForm.exact w wideLimbs) (l.anc - 770)

/-- An anchored reduction of a list of terms with their poison, as a wide form; the register is its first limb. -/
def reduceTerms (anc : Int) (fl : RedFlags) (ts : List (Term × Bool)) : WideForm :=
  ts.foldl (fun w t =>
    match accWide w t.1 with
    | [] => []
    | l :: ls => accPoison l t.2 :: ls) (WideForm.start anc fl)

/-- What a unit hands on: under Fast arithmetic, and when L_0 ends with rnd clear, the later limbs are zero (R143). -/
def WideForm.settle (strict : Bool) (w : WideForm) : WideForm :=
  match w with
  | [] => []
  | l :: ls =>
    if strict ∧ RedFlags.has l.flags RedFlags.rnd = true then l :: ls
    else l :: ls.map (fun m => LongForm.start m.anc 0#8)

/-! ### Row maximum (R147) -/

/-- The fused row maximum of FP32 words: any NaN gives the positive canonical NaN.  The running value starts at minus
infinity, the identity of the maximum. -/
def rowMax (xs : List Elem) : Elem :=
  if xs.any (fun w => FVal.isNan (decodeF .fp32 w)) then canonNan .fp32
  else xs.foldl (fun m w => (fpMinMax true .internal .fp32 m w).1) cNINF

/-! ### A64 (R151 to R154) -/

/-- The 64-bit A64 value of a long form in a block of anchor `ab`, with the flags the check sets (R151). -/
def a64Value (l : LongForm) (ab : Int) : Word64 × RedFlags :=
  if l.anc = ancNull ∨ ab = ancA64Inf then (0#64, l.flags)
  else if ab = ancNull ∨ l.anc ≠ ab + 48 then (0#64, l.flags ||| RedFlags.amix)
  else if RedFlags.has l.flags (RedFlags.ovf ||| RedFlags.amix) then (0#64, l.flags)
  else
    let x := l.v.toInt
    if x < 2 ^ 63 ∧ -(2 ^ 63) < x then (BitVec.ofInt 64 x, l.flags) else (0#64, l.flags ||| RedFlags.ovf)

/-- A long form of an A64-bound reduction as it is written (R151, R152): where its value does not fit 64 bits, ovf is set and the value
leaves as zero (R138). -/
def LongForm.asA64 (l : LongForm) : LongForm :=
  if l.anc = ancNull then l else { l with flags := (a64Value l (l.anc - 48)).2 }

/-- A wide form of an A64-bound reduction as it is written: the check is that of its first limb, whose low bytes are the value. -/
def WideForm.asA64 (w : WideForm) : WideForm := match w with | [] => [] | l :: ls => l.asA64 :: ls

/-- The long form an A64 sum drains as (R154); a block of anchor 32,767 drains as a NaN (R153). -/
def a64Long (q : Word64) (ab : Int) (fl : RedFlags) : LongForm :=
  if ab = ancA64Inf then ⟨0#136, ancNull, fl ||| RedFlags.nan⟩
  else if ab = ancNull then ⟨0#136, ancNull, fl⟩
  else ⟨BitVec.ofInt 136 q.toInt, ab + 48, fl⟩

/-- The block anchor for values: the bound of the agreed block crest plus 16 (R152, R153). -/
def a64ValueAnchor (f : Fmt) (crest : Nat) : Int :=
  if crest = 0 then ancNull else if crest = 255 then ancA64Inf else crestBound f crest + 16

/-- The anchor a block anchor read from a register gives its row, and whether every term is a NaN term (R153, R162). -/
def blockAnchor (ab : Int) : Int × Bool :=
  if ab = ancNull then (ancNull, false) else if ab = ancA64Inf then (ancNull, true) else (ab + 48, false)

/-- A term of a block: in a block whose anchor is 32,767 every term is a NaN term (R153, R162). -/
def Term.inBlock (special : Bool) (t : Term) : Term := if special then .nan else t

end Sys2Proof.Machine
end

