-- ==== Sys2Proof/Machine/Map.lean ====
section
/-!
DEFINITION. Sparse tables as plain data: a list of key and value pairs in one canonical form (keys strictly
rising, no pair equal to what an unlisted key reads as).  Registers, scratchpads, device memory, host memory and
the per-core and per-pen tables are all held this way, so that equal tables are equal data.
-/

namespace Sys2Proof.Machine

/-- A sparse table from natural-number keys. -/
abbrev SMap (β : Type) := List (Nat × β)

/-- The value listed at a key. -/
def SMap.find {β : Type} : SMap β → Nat → Option β
  | [], _ => none
  | (k', v) :: t, k => if k' = k then some v else SMap.find t k

/-- The value read at a key; an unlisted key reads as the table's default at that key. -/
def SMap.get {β : Type} (d : Nat → β) (m : SMap β) (k : Nat) : β :=
  (SMap.find m k).getD (d k)

/-- The table without a key. -/
def SMap.erase {β : Type} : SMap β → Nat → SMap β
  | [], _ => []
  | (k', v) :: t, k => if k' = k then SMap.erase t k else (k', v) :: SMap.erase t k

/-- The table with a pair listed, keys kept in rising order. -/
def SMap.put {β : Type} : SMap β → Nat → β → SMap β
  | [], k, v => [(k, v)]
  | (k', v') :: t, k, v =>
    if k < k' then (k, v) :: (k', v') :: t
    else if k = k' then (k, v) :: t
    else (k', v') :: SMap.put t k v

/-- The table after a write.  Writing what an unlisted key reads as removes the pair. -/
def SMap.set {β : Type} [DecidableEq β] (d : Nat → β) (m : SMap β) (k : Nat) (v : β) : SMap β :=
  if v = d k then SMap.erase m k else SMap.put m k v

/-- Keys strictly rising, all above a bound. -/
def SMap.sortedFrom {β : Type} : Option Nat → SMap β → Bool
  | _, [] => true
  | none, (k, _) :: t => SMap.sortedFrom (some k) t
  | some b, (k, _) :: t => decide (b < k) && SMap.sortedFrom (some k) t

/-- The canonical form: keys strictly rising and no pair equal to the default. -/
def SMap.wf {β : Type} [DecidableEq β] (d : Nat → β) (m : SMap β) : Bool :=
  SMap.sortedFrom none m && m.all (fun kv => decide (kv.2 ≠ d kv.1))

/-- The table with every pair whose key fails a test removed (those keys read as the default again). -/
def SMap.keep {β : Type} (p : Nat → Bool) (m : SMap β) : SMap β :=
  m.filter (fun kv => p kv.1)

/-- Writes a list of values at consecutive keys. -/
def SMap.setList {β : Type} [DecidableEq β] (d : Nat → β) (m : SMap β) (k : Nat) : List β → SMap β
  | [] => m
  | v :: vs => SMap.setList d (SMap.set d m k v) (k + 1) vs

/-- Reads `n` values at consecutive keys. -/
def SMap.getList {β : Type} (d : Nat → β) (m : SMap β) (k : Nat) : Nat → List β
  | 0 => []
  | n + 1 => SMap.get d m k :: SMap.getList d m (k + 1) n

end Sys2Proof.Machine
end

