-- ==== Sys2Proof/Machine/Regs.lean ====
section
/-!
DEFINITION. The registers of BAR0 (R17, R617): one name per register or register array, with the offset, the number of
entries, the reset value and the access of its fields as the owning chapter's table states them.  A register's value is
held once, under its key; a register that each function has for itself has one key per function.
-/

namespace Sys2Proof.Machine

/-- The registers, in the order of their blocks. -/
inductive RegName where
  | devIdent | devMode | devFntabAddr | devFntabData
  | coreSiteState | corePenGrid | corePenProg | coreFaultLast
  | netDieCut | netPenSlot | netPenTraffic | netPenFault | netImbalLast | netCtrSel | netCtrData
  | hbmBayStatus | hbmEccCount | hbmPoisonLast | hbmRefreshStat | hbmRetireCfg
  | hbmWinAddr | hbmWinData0 | hbmWinData1 | hbmWinCtl
  | xglDeviceId | xglPolicy | xglCmd | xglPortStatus | xglPartner | xglPartnerSn | xglLanes | xglErrCount
  | xglStepStat | xglE2eCount | xglGroupStat | xglDigestLast
  | updJob | updStep | updStatus | updCount | updPhase | updDiscard | updSnap | updUnit
  | updJournal | updJrnAck | updLedger | updCkpt | updCkptStat
  | rngStatus | rngHealth | rngSeed | rngSeedInfo
  | errUndefAccess | errSilent | errPolicy | errWxThresh | errBayWx | errFtpStatus | errRotateCfg | errFenceLast
  | errSiteTest | errWxCount
  | injSel | injCtl
  | secAuth | secFw | secTamper | secArb | secTamperLog
  | penState | penTeardownLast
  | hifFunc | hifPenCfg | hifPenReset | hifPenStat | hifBar4Sel | hifAuthAddr | hifAuthCtl
  | hifRingCmdBase | hifRingCplBase | hifRingCtl | hifRingStat
  | mgtBoot | mgtReset | mgtFuseAddr | mgtFuseData | mgtStraps | mgtSideband
  | keepAddr | keepData | keepWear | keepStatus
  | pwrState | pwrDomain | pwrThermal | pwrInput
  deriving DecidableEq, Repr

/-- The register names, by block. -/
def RegName.allCore : List RegName :=
  [.devIdent, .devMode, .devFntabAddr, .devFntabData, .coreSiteState, .corePenGrid, .corePenProg, .coreFaultLast, .netDieCut, .netPenSlot, .netPenTraffic, .netPenFault, .netImbalLast, .netCtrSel, .netCtrData]

def RegName.allMem : List RegName :=
  [.hbmBayStatus, .hbmEccCount, .hbmPoisonLast, .hbmRefreshStat, .hbmRetireCfg, .hbmWinAddr, .hbmWinData0, .hbmWinData1, .hbmWinCtl, .xglDeviceId, .xglPolicy, .xglCmd, .xglPortStatus, .xglPartner, .xglPartnerSn, .xglLanes, .xglErrCount, .xglStepStat, .xglE2eCount, .xglGroupStat, .xglDigestLast]

def RegName.allUpd : List RegName :=
  [.updJob, .updStep, .updStatus, .updCount, .updPhase, .updDiscard, .updSnap, .updUnit, .updJournal, .updJrnAck, .updLedger, .updCkpt, .updCkptStat]

def RegName.allErr : List RegName :=
  [.rngStatus, .rngHealth, .rngSeed, .rngSeedInfo, .errUndefAccess, .errSilent, .errPolicy, .errWxThresh, .errBayWx, .errFtpStatus, .errRotateCfg, .errFenceLast, .errSiteTest, .errWxCount, .injSel, .injCtl]

def RegName.allSec : List RegName :=
  [.secAuth, .secFw, .secTamper, .secArb, .secTamperLog, .penState]

def RegName.allHif : List RegName :=
  [.penTeardownLast, .hifFunc, .hifPenCfg, .hifPenReset, .hifPenStat, .hifBar4Sel, .hifAuthAddr, .hifAuthCtl, .hifRingCmdBase, .hifRingCplBase, .hifRingCtl]

def RegName.allMgt : List RegName :=
  [.hifRingStat, .mgtBoot, .mgtReset, .mgtFuseAddr, .mgtFuseData, .mgtStraps, .mgtSideband, .keepAddr, .keepData, .keepWear, .keepStatus, .pwrState, .pwrDomain, .pwrThermal, .pwrInput]

/-- Every register name. -/
def RegName.all : List RegName :=
  List.append RegName.allCore (List.append RegName.allMem (List.append RegName.allUpd (List.append RegName.allErr
    (List.append RegName.allSec (List.append RegName.allHif RegName.allMgt)))))

/-- Who sees an entry of a register, and where a pen function's view differs from PF0's. -/
inductive RegView where
  /-- Pen functions read zero and their writes are ignored. -/
  | pf0
  /-- Every function reads the same value; only PF0's writes act. -/
  | shared
  /-- One entry per pen, entry p at index p - 1; a pen function reads and writes its own only. -/
  | perPen
  /-- One entry per function, index 0 for PF0. -/
  | perFuncIx
  /-- One entry per bay or port; a pen function reads those of its own bays. -/
  | perBay
  /-- One entry per core site. -/
  | perSite
  /-- A copy of its own in every function. -/
  | perFunc
  /-- One entry per command ring; only the owning function reads and writes it. -/
  | ring
  /-- Pen p's 64 groups at index 64 (p - 1) (R419). -/
  | penGroup
  /-- Pen p's nine timers at index 16 (p - 1) (R458). -/
  | penPhase
  /-- Bay b's classes at index 32 b (R545). -/
  | bayClass
  deriving DecidableEq, Repr

/-- A mask of bit ranges, each given as its low bit and its width. -/
def maskOf (fs : List (Nat × Nat)) : Word64 :=
  BitVec.ofNat 64 ((fs.map (fun p => (2 ^ p.2 - 1) * 2 ^ p.1)).foldl Nat.lor 0)

/-- What the register tables state of a register. -/
structure RegRow where
  off : Nat
  count : Nat
  stride : Nat
  view : RegView
  reset : Word64
  /-- Bits a write stores (RW and RWK). -/
  rw : Word64
  /-- Bits a write of one clears (W1C). -/
  w1c : Word64
  /-- Bits a write of one sets (W1S). -/
  w1s : Word64
  /-- The stored bits persist in the keep store (RWK). -/
  rwk : Bool
  /-- Writes from PF0 are ignored. -/
  noPf0 : Bool

/-- The row of each register, its columns in the order of `RegRow` (R5, R36, R70, R123 and the register tables of every chapter). -/
def RegName.row : RegName → RegRow
  | .devIdent => .mk 0x0 1 8 .shared (0x0000011200000000#64 ||| 0x0FFF7768#64) 0#64 0#64 0#64 false false
  | .devMode => .mk 0x8 1 8 .shared 0x100#64 0#64 (maskOf [(4, 1)]) 0#64 false false
  | .devFntabAddr => .mk 0x10 1 8 .pf0 0#64 (maskOf [(0, 4), (8, 16), (31, 1)]) 0#64 0#64 false false
  | .devFntabData => .mk 0x18 1 8 .pf0 0#64 0#64 0#64 0#64 false false
  | .coreSiteState => .mk 0x200000 168 8 .perSite 0xFFFF00#64 0#64 0#64 0#64 false false
  | .corePenGrid => .mk 0x200600 12 8 .perPen 0#64 0#64 0#64 0#64 false false
  | .corePenProg => .mk 0x201000 12 8 .perPen 0#64 0#64 0#64 0#64 false false
  | .coreFaultLast => .mk 0x201080 12 8 .perPen 0#64 0#64 (maskOf [(63, 1)]) 0#64 false false
  | .netDieCut => .mk 0x300000 1 8 .shared 0x1F1F#64 0#64 0#64 0#64 false false
  | .netPenSlot => .mk 0x300100 12 8 .perPen 0#64 0#64 0#64 0#64 false false
  | .netPenTraffic => .mk 0x300180 12 8 .perPen 0#64 0#64 0#64 0#64 false false
  | .netPenFault => .mk 0x300200 12 8 .perPen 0#64 0#64 0#64 0#64 false false
  | .netImbalLast => .mk 0x300280 12 8 .perPen 0#64 0#64 (maskOf [(17, 1)]) 0#64 false false
  | .netCtrSel => .mk 0x300300 1 8 .perFunc 0#64 (maskOf [(0, 20)]) 0#64 0#64 false false
  | .netCtrData => .mk 0x300308 1 8 .perFunc 0#64 0#64 0#64 0#64 false false
  | .hbmBayStatus => .mk 0x400000 12 8 .perBay 0x800000001#64 0#64 0#64 0#64 false false
  | .hbmEccCount => .mk 0x400080 12 8 .perBay 0#64 0#64 0#64 0#64 false false
  | .hbmPoisonLast => .mk 0x400100 12 8 .perBay 0#64 0#64 (maskOf [(63, 1)]) 0#64 false false
  | .hbmRefreshStat => .mk 0x400180 12 8 .perBay 0#64 0#64 0#64 0#64 false false
  | .hbmRetireCfg => .mk 0x400200 1 8 .pf0 3#64 (maskOf [(0, 4)]) 0#64 0#64 true false
  | .hbmWinAddr => .mk 0x400300 1 8 .perFunc 0#64 (maskOf [(0, 18)]) 0#64 0#64 false false
  | .hbmWinData0 => .mk 0x400308 1 8 .perFunc 0#64 0#64 0#64 0#64 false true
  | .hbmWinData1 => .mk 0x400310 1 8 .perFunc 0#64 0#64 0#64 0#64 false true
  | .hbmWinCtl => .mk 0x400318 1 8 .perFunc 0#64 0#64 0#64 0#64 false true
  | .xglDeviceId => .mk 0x500000 1 8 .shared 0#64 0#64 0#64 0#64 false false
  | .xglPolicy => .mk 0x500008 1 8 .pf0 0x75304#64 (maskOf [(0, 20)]) 0#64 0#64 true false
  | .xglCmd => .mk 0x500010 1 8 .pf0 0#64 (maskOf [(0, 6)]) 0#64 (maskOf [(6, 1)]) false false
  | .xglPortStatus => .mk 0x500100 12 8 .perBay 1#64 0#64 0#64 0#64 false false
  | .xglPartner => .mk 0x500180 12 8 .perBay 0#64 0#64 (maskOf [(18, 1)]) 0#64 false false
  | .xglPartnerSn => .mk 0x500200 12 8 .perBay 0#64 0#64 0#64 0#64 false false
  | .xglLanes => .mk 0x500280 12 8 .perBay 0#64 0#64 0#64 0#64 false false
  | .xglErrCount => .mk 0x500300 12 8 .perBay 0#64 0#64 0#64 0#64 false false
  | .xglStepStat => .mk 0x500380 12 8 .perBay 0#64 0#64 0#64 0#64 false false
  | .xglE2eCount => .mk 0x500400 12 8 .perBay 0#64 0#64 0#64 0#64 false false
  | .xglGroupStat => .mk 0x501000 768 8 .penGroup 0#64 0#64 0#64 0#64 false false
  | .xglDigestLast => .mk 0x502800 12 8 .perPen 0#64 0#64 (maskOf [(63, 1)]) 0#64 false false
  | .updJob => .mk 0x600000 12 8 .perPen 0#64 0#64 0#64 0#64 false false
  | .updStep => .mk 0x600080 12 8 .perPen 0#64 0#64 0#64 0#64 false false
  | .updStatus => .mk 0x600100 12 8 .perPen 0#64 0#64 0#64 0#64 false false
  | .updCount => .mk 0x600180 12 8 .perPen 0#64 0#64 0#64 0#64 false false
  | .updPhase => .mk 0x600400 185 8 .penPhase 0#64 0#64 0#64 0#64 false false
  | .updDiscard => .mk 0x600A00 12 8 .perPen 0#64 0#64 0#64 0#64 false false
  | .updSnap => .mk 0x600A80 12 8 .perPen 0#64 0#64 0#64 0#64 false false
  | .updUnit => .mk 0x600C00 12 8 .perBay 0#64 0#64 0#64 0#64 false false
  | .updJournal => .mk 0x600D00 12 8 .perPen 0#64 0#64 0#64 0#64 false false
  | .updJrnAck => .mk 0x600D80 12 8 .perPen 0#64 (maskOf [(0, 32)]) 0#64 0#64 false true
  | .updLedger => .mk 0x600E00 12 8 .perPen 0#64 0#64 0#64 0#64 false false
  | .updCkpt => .mk 0x600F00 12 8 .perPen 0#64 0#64 0#64 0#64 false false
  | .updCkptStat => .mk 0x600F80 12 8 .perPen 0#64 0#64 (maskOf [(8, 1)]) 0#64 false false
  | .rngStatus => .mk 0x700000 1 8 .pf0 0#64 0#64 (maskOf [(3, 1)]) 0#64 false false
  | .rngHealth => .mk 0x700008 1 8 .pf0 0#64 0#64 0#64 0#64 false false
  | .rngSeed => .mk 0x700100 12 8 .perPen 0#64 0#64 0#64 0#64 false false
  | .rngSeedInfo => .mk 0x700180 12 8 .perPen 0#64 0#64 0#64 0#64 false false
  | .errUndefAccess => .mk 0x800000 1 8 .pf0 0#64 0#64 (maskOf [(63, 1)]) 0#64 false false
  | .errSilent => .mk 0x800008 1 8 .pf0 0#64 0#64 (maskOf [(0, 1)]) 0#64 false false
  | .errPolicy => .mk 0x800010 1 8 .pf0 0x1E03#64 (maskOf [(0, 4), (8, 8)]) 0#64 0#64 true false
  | .errWxThresh => .mk 0x800100 23 8 .pf0 0#64 (maskOf [(0, 54)]) 0#64 0#64 true false
  | .errBayWx => .mk 0x800200 12 8 .pf0 0#64 0#64 (maskOf [(0, 1)]) 0#64 false true
  | .errFtpStatus => .mk 0x800300 1 8 .pf0 0x100000000#64 0#64 0#64 0#64 false false
  | .errRotateCfg => .mk 0x800400 12 8 .perPen 0x10400#64 (maskOf [(0, 20)]) 0#64 0#64 false false
  | .errFenceLast => .mk 0x800500 12 8 .perPen 0#64 0#64 (maskOf [(63, 1)]) 0#64 false false
  | .errSiteTest => .mk 0x800800 168 8 .pf0 0#64 0#64 0#64 0#64 false false
  | .errWxCount => .mk 0x801000 375 8 .bayClass 0#64 0#64 0#64 0#64 false false
  | .injSel => .mk 0x900000 1 8 .pf0 0#64 (maskOf [(0, 12), (16, 8), (32, 16)]) 0#64 0#64 false false
  | .injCtl => .mk 0x900008 1 8 .pf0 0#64 0#64 0#64 (maskOf [(0, 2)]) false false
  | .secAuth => .mk 0xA00000 1 8 .pf0 0#64 0#64 0#64 0#64 false false
  | .secFw => .mk 0xA00008 1 8 .pf0 0#64 0#64 0#64 0#64 false false
  | .secTamper => .mk 0xA00010 1 8 .pf0 0#64 0#64 0#64 0#64 false false
  | .secArb => .mk 0xA00018 1 8 .pf0 0#64 0#64 (maskOf [(63, 1)]) 0#64 false false
  | .secTamperLog => .mk 0xA00100 16 8 .pf0 0#64 0#64 0#64 0#64 false false
  | .penState => .mk 0xB00000 12 8 .perPen 0#64 0#64 0#64 0#64 false false
  | .penTeardownLast => .mk 0xB00080 12 8 .perPen 0#64 0#64 (maskOf [(63, 1)]) 0#64 false false
  | .hifFunc => .mk 0xC00000 1 8 .perFunc 0#64 0#64 0#64 0#64 false false
  | .hifPenCfg => .mk 0xC00100 13 8 .perFuncIx 1#64 (maskOf [(0, 32)]) 0#64 0#64 false false
  | .hifPenReset => .mk 0xC00180 12 8 .perPen 0#64 0#64 0#64 (maskOf [(0, 1)]) false false
  | .hifPenStat => .mk 0xC00200 13 8 .perFuncIx 0#64 0#64 0#64 0#64 false false
  | .hifBar4Sel => .mk 0xC00300 1 8 .perFunc 0#64 (maskOf [(0, 22)]) (maskOf [(63, 1)]) 0#64 false false
  | .hifAuthAddr => .mk 0xC00400 1 8 .pf0 0#64 (maskOf [(0, 64)]) 0#64 0#64 false false
  | .hifAuthCtl => .mk 0xC00408 1 8 .pf0 0#64 (maskOf [(0, 32)]) 0#64 (maskOf [(32, 1)]) false false
  | .hifRingCmdBase => .mk 0xC10000 4096 32 .ring 0#64 (maskOf [(0, 64)]) 0#64 0#64 false false
  | .hifRingCplBase => .mk 0xC10008 4096 32 .ring 0#64 (maskOf [(0, 64)]) 0#64 0#64 false false
  | .hifRingCtl => .mk 0xC10010 4096 32 .ring 0#64 (maskOf [(0, 14)]) (maskOf [(20, 1)]) 0#64 false false
  | .hifRingStat => .mk 0xC10018 4096 32 .ring 0#64 0#64 0#64 0#64 false false
  | .mgtBoot => .mk 0xD00000 1 8 .pf0 0#64 0#64 0#64 0#64 false false
  | .mgtReset => .mk 0xD00008 1 8 .pf0 0#64 0#64 0#64 (maskOf [(0, 1)]) false false
  | .mgtFuseAddr => .mk 0xD00010 1 8 .pf0 0#64 (maskOf [(0, 8)]) 0#64 0#64 false false
  | .mgtFuseData => .mk 0xD00018 1 8 .pf0 0#64 0#64 0#64 0#64 false false
  | .mgtStraps => .mk 0xD00020 1 8 .pf0 0x4000#64 0#64 0#64 0#64 false false
  | .mgtSideband => .mk 0xD00028 1 8 .pf0 0#64 0#64 0#64 0#64 false false
  | .keepAddr => .mk 0xE00000 1 8 .pf0 0#64 (maskOf [(0, 10)]) 0#64 0#64 false false
  | .keepData => .mk 0xE00008 1 8 .pf0 0#64 0#64 0#64 0#64 false false
  | .keepWear => .mk 0xE00010 1 8 .pf0 0#64 0#64 0#64 0#64 false false
  | .keepStatus => .mk 0xE00018 1 8 .pf0 0#64 0#64 0#64 0#64 false false
  | .pwrState => .mk 0xF00000 1 8 .pf0 2#64 0#64 0#64 (maskOf [(2, 1)]) false false
  | .pwrDomain => .mk 0xF00010 4 8 .pf0 0#64 0#64 0#64 0#64 false false
  | .pwrThermal => .mk 0xF00030 1 8 .pf0 0#64 0#64 (maskOf [(18, 1)]) 0#64 false false
  | .pwrInput => .mk 0xF00038 1 8 .pf0 0#64 0#64 (maskOf [(48, 1)]) 0#64 false false

/-- An entry of an array that exists: arrays whose index space has holes list theirs. -/
def RegName.has (n : RegName) (ix : Nat) : Bool :=
  decide (ix < n.row.count) &&
  (match n with
   | .updPhase => decide (ix % 16 < 9)
   | .errWxThresh => decide (1 ≤ ix)
   | .errWxCount => decide (1 ≤ ix % 32) && decide (ix % 32 ≤ 22)
   | _ => true)

/-- The BAR0 offset of an entry. -/
def RegName.offset (n : RegName) (ix : Nat) : Nat := n.row.off + n.row.stride * ix

/-- The factory-blank thresholds of a weather class (R530). -/
def wxThreshReset (c : Nat) : Word64 :=
  let w (a b d m : Nat) : Word64 := BitVec.ofNat 64 (a + b * 2 ^ 16 + d * 2 ^ 32 + m * 2 ^ 48)
  if c = 1 then w 4 16 64 60
  else if (2 ≤ c ∧ c ≤ 8) ∨ c = 22 then w 1 2 3 60
  else if c = 9 ∨ c = 10 then w 1 2 4 60
  else if c = 11 then w 64 1024 16384 60
  else if c = 12 then w 1 2 4 60
  else if c = 13 then w 4096 32768 0 10
  else if c = 14 then w 16 256 4096 10
  else if c = 15 then w 1 2 0 60
  else if 16 ≤ c ∧ c ≤ 18 then w 1 1 2 60
  else w 1 0 0 60

/-- The span of one function's keys: the 64 MiB of BAR0 (R616). -/
def funcSpan : Nat := 2 ^ 26

/-- The key a register entry is stored under; a per-function register has one key per function. -/
def RegName.key (n : RegName) (fn ix : Nat) : Nat :=
  RegName.offset n ix + (if n.row.view = .perFunc then fn * funcSpan else 0)

/-- The register and entry at a BAR0 offset that is a multiple of 8, searching a list of names. -/
def regAtIn : List RegName → Nat → Option (RegName × Nat)
  | [], _ => none
  | n :: ns, o =>
    let r := n.row
    if r.off ≤ o ∧ (o - r.off) % r.stride = 0 ∧ RegName.has n ((o - r.off) / r.stride) = true then
      some (n, (o - r.off) / r.stride)
    else regAtIn ns o

/-- The register and entry at a BAR0 offset. -/
def regAt (o : Nat) : Option (RegName × Nat) := regAtIn RegName.all o

/-- The reset value of an entry. -/
def RegName.resetAt (n : RegName) (fn ix : Nat) : Word64 :=
  match n with
  | .errWxThresh => wxThreshReset ix
  | .hifFunc => BitVec.ofNat 64 fn
  | _ => n.row.reset

/-- What an unlisted register key reads as: the reset value of the register at that key. -/
def regDefault (k : Nat) : Word64 :=
  match regAt (k % funcSpan) with
  | some (n, ix) => RegName.resetAt n (k / funcSpan) ix
  | none => 0#64

/-- The bits of a word from `lo`, `w` of them, as a number. -/
def getBits (x : Word64) (lo w : Nat) : Nat := x.toNat / 2 ^ lo % 2 ^ w

/-- A word with the bits from `lo`, `w` of them, replaced. -/
def putBits (x : Word64) (lo w v : Nat) : Word64 :=
  (x &&& ~~~(maskOf [(lo, w)])) ||| BitVec.ofNat 64 (v % 2 ^ w * 2 ^ lo)

/-- A counter field's next value: it saturates at its width. -/
def satAdd (w x d : Nat) : Nat := min (2 ^ w - 1) (x + d)

end Sys2Proof.Machine
end

