-- ==== Sys2Proof/Machine/State.lean ====
section
/-!
DEFINITION. The state of the module as plain data, its reset value, and the reasons a step can stop.
-/

namespace Sys2Proof.Machine

/-! ### Cores -/

/-- A declared region of a program (R254): the space code, the permissions, the spill mark, base and size. -/
structure Region where
  space : Nat
  rd : Bool
  wr : Bool
  spill : Bool
  base : Nat
  size : Nat
  deriving DecidableEq, Repr

/-- What the loader gives a logical core: its place in the grid and what its program image declares. -/
structure CoreCfg where
  strict : Bool := false
  wide : Bool := false
  row : Nat := 0
  col : Nat := 0
  rows : Nat := 0
  rank : Nat := 0
  ranksM1 : Nat := 0
  entry : Nat := 0
  bundleCount : Nat := 0
  regions : List Region := []
  consts : List Word64 := []
  /-- The program's counter table: number and start value (R254). -/
  counters : List (Nat × Word32) := []
  /-- The counters the Comb image grants the core (R280). -/
  granted : List Nat := []
  /-- The program image the core runs, by its number in the job. -/
  image : Nat := 0
  deriving DecidableEq, Repr

/-- A running hardware loop (R240): the first bundle and length of the body, the copied descriptor and base, the
register that walks, the iteration and the total. -/
structure LoopFrame where
  body : Nat
  len : Nat
  desc : BitVec 512
  base : Word64
  sd : SReg
  iter : Nat
  total : Nat
  deriving DecidableEq, Repr

/-- What a core's sequencer is doing. -/
inductive CoreRun where
  /-- No program is running: before the entry bundle, or after a fault. -/
  | idle
  /-- Bundles issue. -/
  | running
  /-- A wait holds its bundle: the counter, wait.eq or wait.ge, and the value (R242). -/
  | waiting (ctr : Nat) (isEq : Bool) (val : Word32)
  /-- A fence holds its bundle (R290). -/
  | fencing
  /-- `end` has issued; work already issued completes (R265). -/
  | ending
  /-- The core counts as ended (R265). -/
  | ended
  deriving DecidableEq, Repr

/-- An anchor latch (R162, R165): the two formats, the specification word, the 512 bytes of crests or block anchors, and the
poison of their lanes (R101). -/
structure AncLatch where
  fa : Fmt
  fb : Fmt
  spec : Word64
  bytes : VecWord
  bad : BitVec 128 := 0#128
  deriving DecidableEq, Repr

/-- One accumulation of a Strict tile, kept for the rerun (R180): panel bases, slice count, formats, split-FP32. -/
structure TileRec where
  aBase : Nat
  bBase : Nat
  n : Nat
  fa : Fmt
  fb : Fmt
  x3 : Bool
  deriving DecidableEq, Repr

/-- An accumulator set (R161): per element the register with its anchor and flags; the six further limbs where they are
not zero (R142, R181); the record of a Strict tile; and whether an `mchain` left it. -/
structure Tile where
  /-- The tile's anchors are block anchors: its long forms are A64 values (R151). -/
  a64 : Bool := false
  elems : SMap LongForm := []
  limbs : SMap (List LongForm) := []
  recs : List TileRec := []
  byChain : Bool := false
  deriving DecidableEq, Repr

/-- An instruction waiting in the array queue or the drain queue (R163), with the register values it read at issue. -/
inductive MxCmd where
  | tile (first swap x3 : Bool) (fa fb : Fmt) (aBase bBase n : Nat)
  | swap
  | load (wide : Bool) (src : Nat)
  | drain (fmt : Fmt) (sat : Bool) (dst : Option Nat) (fn : RowFn) (rows : VecWord) (rowsPoison : BitVec 128)
      (mask : Option (Nat × Nat)) (rmax : Option Nat) (rsum : Option (Nat × Int))
  | drainLf (wide : Bool) (dst : Nat)
  | chain (fa fb fc : Fmt) (first : Bool) (q k v kc : Nat) (nt n1 : Nat) (fn : RowFn) (rows : VecWord)
      (rowsPoison : BitVec 128) (mask : Option (Nat × Nat)) (rsum : Option (Nat × Int))
  deriving DecidableEq, Repr

/-- A queued matrix instruction with the bundle that issued it (for a fault's report). -/
structure MxEntry where
  cmd : MxCmd
  bundle : Nat
  deriving DecidableEq, Repr

/-- The matrix engine of a core. -/
structure Mx where
  live : Option Tile := none
  shadow : Option Tile := none
  /-- A tile on its way from the live to the shadow set (R168), its Strict rerun done or not (R180). -/
  passing : Option (Tile × Bool) := none
  pendingLatch : Option AncLatch := none
  activeLatch : Option AncLatch := none
  chainLatch : Option AncLatch := none
  arrayQ : List MxEntry := []
  drainQ : List MxEntry := []
  /-- A drain has read the shadow set and its rows are on their way (R170). -/
  draining : Bool := false
  /-- An `mchain` runs: its row sums' destination and values, written when it ends (R175). -/
  chain : Option (Option Nat × List LongForm) := none
  wideBusy : Bool := false
  flagsOr : BitVec 8 := 0#8
  rerunSticky : Bool := false
  tiles : Nat := 0
  slices : Nat := 0
  reruns : Nat := 0
  /-- An instruction has entered a queue in this step. -/
  worked : Bool := false
  /-- clk spent in reruns (R190), and clk that queue heads waited and that bank conflicts cost (R191). -/
  rerunClk : Nat := 0
  stall : Nat × Nat := (0, 0)
  deriving DecidableEq, Repr

/-- The kind of a mover command (R198). -/
inductive MovKind where
  | xfer
  | crest (fmt : Fmt)
  | cmax
  deriving DecidableEq, Repr

/-- A mover command with the scalars it copied at issue (R199) and its place in the core's issue order (R204). -/
structure MovCmd where
  kind : MovKind
  src : Word64
  dst : Word64
  ctl : Word64
  sig : Word64
  dsrc : DSlot
  ddst : DSlot
  cslot : DSlot
  seq : Nat
  bundle : Nat
  /-- The transfer ordinal of a REMOTE command (R357). -/
  ord : Nat
  deriving DecidableEq, Repr

/-- A deferred fault: the translation cause and the virtual address (R206, R308). -/
structure FaultTag where
  cause : Nat
  va : Nat
  deriving DecidableEq, Repr

/-- A byte on its way through a mover: its value, its poison, its deferred tag (R205, R206, R208). -/
structure WinByte where
  val : Byte
  bad : Bool
  tag : Option FaultTag
  deriving DecidableEq, Repr

/-- A signal waiting for the bytes it covers (R201, R281): the last walk position it covers, the owner core, the counter
and the value; the done signal ends its command. -/
structure PendSig where
  pos : Nat
  owner : Nat
  ctr : Nat
  add : Word32
  isDone : Bool
  deriving DecidableEq, Repr

/-- A byte of a crested group held until the group's last byte arrives (R211). -/
structure HeldByte where
  pos : Nat
  addr : Nat
  val : Byte
  bad : Bool
  deriving DecidableEq, Repr

/-- The message that a REMOTE transfer is cutting, and the transfer so far (R357, R401): the message's first address and
lines with their poison, the chunk's bytes and index, the digest, the transfer's name, and the messages cut. -/
structure OutMsg where
  va : Nat := 0
  lines : List (List Byte × Bool) := []
  chunk : List Byte := []
  chunkIx : Nat := 0
  digest : Word64 := 0#64
  xfer : Nat := 0
  /-- The transfer is in the acknowledged-transfer record of a replay: nothing is sent (R370). -/
  suppress : Bool := false
  deriving DecidableEq, Repr

/-- A running mover command (R198 to R212): the positions of its source and destination walks, the units read and written,
the units in the run-ahead window. -/
structure MovRun where
  cmd : MovCmd
  srcTotal : Nat
  total : Nat
  reads : Nat := 0
  written : Nat := 0
  window : List (List WinByte) := []
  /-- The blocks whose gate has been satisfied (R202), and whether the command waits at the next one's gate. -/
  opened : Nat := 0
  gated : Bool := false
  held : List HeldByte := []
  sigs : List PendSig := []
  /-- A PEER unit held for the signals it carries: its address and bytes (R281). -/
  peer : Option (Nat × List WinByte) := none
  out : OutMsg := {}
  deriving DecidableEq, Repr

/-- A mover: its queue, its running commands, oldest first (R205, R289), a squash. -/
structure Mover where
  queue : List MovCmd := []
  running : List MovRun := []
  squashing : Bool := false
  deriving DecidableEq, Repr

/-- The registers of a core that instructions name (R230), with their poison (R233). -/
structure RegFile where
  s : SMap Word64 := []
  sPoison : Word64 := 0#64
  v : SMap VecWord := []
  vPoison : SMap (BitVec 128) := []
  p : SMap (BitVec 128) := []
  pPoison : BitVec 8 := 0#8
  d : SMap (BitVec 512) := []
  deriving DecidableEq, Repr

/-- A logical core of a job (R230 to R262). -/
structure Core where
  cfg : CoreCfg := {}
  run : CoreRun := .idle
  /-- The bundle that issues or issued last, the next one, and the last slot of the bundle that has acted (R228): 0 control,
  1 matrix, 2 vector, 3 move; 3 when the bundle is complete. -/
  pc : Nat := 0
  npc : Nat := 0
  slot : Nat := 3
  /-- The slot whose instruction waits on an interlock and holds its bundle (R229). -/
  held : Option Nat := none
  loops : List LoopFrame := []
  issued : Nat := 0
  /-- The registers, and the registers as the bundle's instructions see them: as the bundles before left them (R228). -/
  rf : RegFile := {}
  rf0 : RegFile := {}
  flags : ExcFlags := 0#5
  /-- Scratchpad bytes, and poison and deferred tags per 64-byte line. -/
  spad : SMap Byte := []
  spadPoison : SMap Bool := []
  spadTag : SMap (Option FaultTag) := []
  ctr : SMap Word32 := []
  /-- The counters that a signal reached after the core had ended (R287). -/
  lateSigs : List Nat := []
  mx : Mx := {}
  mov : SMap Mover := []
  movSeq : Nat := 0
  /-- CORE_SEQ_STALL, CORE_SEQ_WAIT and MOV_STALL, low and high half (R222, R262); a wait or fence has held a bundle in this step. -/
  seqStall : Nat × Nat := (0, 0)
  seqWait : Nat × Nat := (0, 0)
  movStall : Nat × Nat := (0, 0)
  waited : Bool := false
  movDone : Nat := 0
  movSquashed : Nat := 0
  movUnconsumed : Nat := 0
  movLastCause : Nat := 0
  /-- The core's transfer ordinal of the step (R357). -/
  xferOrd : Nat := 0
  deriving DecidableEq, Repr

/-- A packet in the on-die network (R273). -/
inductive PktBody where
  /-- Bytes for a scratchpad address of the destination core, with their poison. -/
  | spad (addr : Nat) (bytes : List (Byte × Bool))
  /-- Only a signal. -/
  | signal
  deriving DecidableEq, Repr

/-- An output port that a packet takes (R268 to R270): of the core router of a bay and column, of a bay's hub, or of a die's hub switch
towards a bay's hub. -/
inductive NetPort where
  | router (bay col out : Nat)
  | hub (bay out : Nat)
  | switch (die bay : Nat)
  deriving DecidableEq, Repr

/-- A packet: the injecting core, the destination core, the body, an attached signal, whether it asks for an acknowledgement, whether it
has left the injecting router, and then the route it takes (R272, R273). -/
structure Packet where
  pen : Nat
  src : Nat
  dst : Nat
  body : PktBody
  sig : Option (Nat × Word32)
  ack : Bool := true
  injected : Bool
  route : List NetPort := []
  deriving DecidableEq, Repr

/-! ### Memory, events and jobs -/

/-- A bay's memory-side state (R315, R320, R321, R311, R213, R324, R326). -/
structure Bay where
  /-- The memory log: lines by stack offset / 64; true where the line is to be marked poisoned. -/
  log : List (Nat × Bool) := []
  /-- Lines whose MEM_POISON_CREATED the running step has raised (R316). -/
  raised : List Nat := []
  /-- The row tracker: row key and count of corrected events. -/
  rows : List (Nat × Nat) := []
  /-- Rows due for retirement, in the order they became due. -/
  due : List Nat := []
  /-- Retired rows: row key and the spares used for it, the latest first. -/
  retired : SMap (List Nat) := []
  /-- The crest cache's lines, most recently used first. -/
  crestCache : List Nat := []
  /-- The window cache's entries, most recently used first. -/
  winCache : List Nat := []
  /-- The bank the refresh rotation has reached. -/
  refreshBank : Nat := 0
  /-- The line the patrol has reached. -/
  patrolLine : Nat := 0
  tempC : Int := 0
  /-- Clk of stops that the bay's refresh has held in the step, and its refreshes in the step (R336). -/
  heldClk : Nat := 0
  refreshes : Nat := 0
  /-- How often the bay's key was replaced: what an unwritten byte reads as depends on it (R313). -/
  erases : Nat := 0
  deriving DecidableEq, Repr

/-- A field of an event: 8 bytes or 32 bytes (R626). -/
inductive EvField where
  | w (x : Word64)
  | d (bs : List Byte)
  deriving DecidableEq, Repr

/-- An event on its way to a function's event ring (R624, R626). -/
structure Event where
  code : Nat
  step : Word64
  fields : List EvField
  deriving DecidableEq, Repr

/-- The doubling sequence of a pen grid (R61). -/
inductive TurnPhase where
  | aTurn | quiesceA | exchangeA | bTurn | quiesceB | exchangeB
  deriving DecidableEq, Repr

/-- A tensor record of the update plan (R429). -/
structure TensorRec where
  isMetric : Bool
  opt : Nat
  pfmt : Fmt
  mfmt : Fmt
  gfmt : Fmt
  clip : Bool
  decay : Bool
  srParam : Bool
  srMoment : Bool
  fpOwner : Bool
  sched : Nat
  group : Nat
  elems : Nat
  indexBase : Nat
  stream : Word32
  micro : Nat
  lenLog2 : Nat
  paramVa : Nat × Nat
  mVa : Nat × Nat
  vVa : Nat × Nat
  gradVa : Nat × Nat
  beta1 : Word32
  beta2 : Word32
  eps : Word32
  wd : Word32
  clipC : Word32
  gcrestVa : Nat
  deriving DecidableEq, Repr

/-- The update plan (R427). -/
structure Plan where
  startStep : Nat := 0
  headerVa : Nat := 0
  gateCtr : Nat := 0
  scheds : List Schedule := []
  recs : List TensorRec := []
  scalarVa : Nat × Nat := (0, 0)
  deriving DecidableEq, Repr

/-- An update microprogram (R440). -/
structure MicroProg where
  strict : Bool
  instrs : List Word64
  consts : List Word64
  deriving DecidableEq, Repr

/-- The phases of an attempt (R432). -/
inductive StepPhase where
  | start | forward | backward | sweepWait | sweep | voteWait
  deriving DecidableEq, Repr

/-- One attempt of a step (R422, R432, R444). -/
structure Attempt where
  step : Nat
  attempt : Nat
  phase : StepPhase := .start
  status : Word64 := 0#64
  nonfinite : Nat := 0
  /-- The component digests: parameter, optimiser state, metrics, ledger (R446). -/
  digests : List Word64 := [0#64, 0#64, 0#64, 0#64]
  /-- The gate of the attempt has been raised (R433). -/
  gateRaised : Bool := false
  /-- The logical cores past the gate (R433). -/
  pastGate : List Nat := []
  /-- The payloads of the module's children, by rank (R446). -/
  kids : List (Nat × Vote) := []
  wordSent : Bool := false
  /-- Fences in the attempt (R514). -/
  fences : Nat := 0
  /-- The result has gone to the parent, and waits for the outcome (R446). -/
  sentUp : Bool := false
  /-- Ledger entries the attempt has made, without padding, the offset of the first, and the head of the ledger area before it
  (R39, R493 to R495). -/
  ledger : List (List Byte) := []
  ledgerOff : Nat := 0
  ledgerStart : Nat := 0
  /-- Imported entries the attempt has consumed (R40). -/
  consumed : Nat := 0
  /-- The journal record has been written unsealed (R491). -/
  recorded : Bool := false
  /-- The phase timers as the record holds them (R452, R491). -/
  timers : List Word64 := []
  /-- CORE_SITE_STATE digest at step start, and thermal_half seen (R491). -/
  siteMap : Word64 := 0#64
  halfSeen : Bool := false
  fenced : Bool := false
  deriving DecidableEq, Repr

/-! ### Links and collectives -/

/-- A receive lane of a port: uncorrectable codewords in a row (R343), uncorrectable codewords in the running error
window, windows in a row above threshold, and whether the lane is due for retirement (R371, R529). -/
structure Lane where
  unlockRun : Nat := 0
  windowUe : Nat := 0
  /-- The bits corrected in the running error window (R371), and those of the error-rate measurement, with 160 for each uncorrectable
  codeword (R379). -/
  windowBits : Nat := 0
  berBits : Nat := 0
  aboveRun : Nat := 0
  due : Bool := false
  deriving DecidableEq, Repr

/-- A port's link layer: sequence numbers and the replay buffer (R349), CONTROL copies (R350), credits (R354, R355),
queues and their service (R367), reception, lanes, and the acknowledged-transfer record (R368). -/
structure XPort where
  txSeq : Nat := 0
  /-- Sent NORMAL flits that are not acknowledged, oldest first: fseq and slots. -/
  replay : List (Nat × List Slot) := []
  /-- Flits to resend, oldest first (R349). -/
  resend : List (Nat × List Slot) := []
  /-- Slots of messages that have their credits and wait for a flit (R348). -/
  stream : List Slot := []
  rxExpect : Nat := 0
  rxAny : Bool := false
  nakDue : Bool := false
  /-- A NAK went out and NORMAL flits are discarded until the expected one (R349). -/
  discarding : Bool := false
  /-- The fseq of the last NAK accepted and how many came in a row (R352). -/
  nakFseq : Nat := 0
  nakRun : Nat := 0
  /-- CONTROL operations to send, with the copies left (R350). -/
  ctlOut : List (Ctl × Nat) := []
  /-- The CONTROL operations received, with the codeword counts of their first copies (R350), and those received and not yet
  acted on. -/
  ctlSeen : List (Ctl × Nat) := []
  ctlIn : List Ctl := []
  /-- Credits to return (R354). -/
  creditOut : List Credit := []
  /-- Slots charged at the receiver and not returned: pool, DATA by class, GROUP by 64·class + group, ACK, VOTE. -/
  poolUsed : Nat := 0
  dataUsed : SMap Nat := []
  groupUsed : SMap Nat := []
  ackUsed : SMap Nat := []
  voteUsed : SMap Nat := []
  voteQ : List LinkMsg := []
  ackQ : List LinkMsg := []
  /-- The 65 DATA queues: 0 to 63 by group, 64 ungrouped (R367). -/
  dataQ : SMap (List LinkMsg) := []
  deficit : SMap Nat := []
  rrNext : Nat := 0
  rrGranted : Bool := false
  rxPart : Option (LinkMsg × Nat) := none
  /-- Messages received whole and not yet performed or passed on (R354). -/
  rxBuf : List LinkMsg := []
  lanes : SMap Lane := []
  /-- Codeword count of the latest codeword of each lane (R344). -/
  cwCount : SMap Nat := []
  /-- Flits delivered and not yet taken: codeword count, logical lane, and the bytes, or none where the codeword was uncorrectable; and the
  count and the lane of the next one in stream order (R344). -/
  rxCw : List (Nat × Nat × Option (List Byte)) := []
  rxAt : Option (Nat × Nat) := none
  /-- The codeword count of the next frame sent (R343). -/
  txCw : Nat := 0
  /-- An XGL_CMD request, and a training attempt, held until lock (R375). -/
  held : Option Master := none
  attempt : Bool := false
  /-- Training steps 1 to 5 are under way (R377); a partner answers; the training is the one retrain for the error rate
  (R379). -/
  training : Bool := false
  partnerSeen : Bool := false
  berRound : Bool := false
  /-- The good receive lanes that steps 2 and 3 of the training or retrain under way have found; they are reported, and its LANES and
  IDENTITY are awaited (R377). -/
  locked : Option (BitVec 8) := none
  /-- The partner's identity as received in this training (R377), and its latest good-lane mask. -/
  idIn : Option LinkIdentity := none
  lanesIn : Option (BitVec 8) := none
  /-- The good physical lanes of each direction as training left them. -/
  txGood : BitVec 8 := 0#8
  rxGood : BitVec 8 := 0#8
  /-- A width change of a direction that applies from this fseq, with its good lanes (R350, R372). -/
  widthFrom : Option (Nat × BitVec 8) := none
  rxWidthFrom : Option (Nat × BitVec 8) := none
  /-- The latest frame sent: the payload symbols of the codeword on each logical lane (R343, R344). -/
  frame : List (List (BitVec 10)) := []
  /-- The acknowledged-transfer record: xfer, destination, digest (R368). -/
  ackRecord : List (Nat × Nat × Word64) := []
  stopClk : Word64 := 0#64
  overflow : Bool := false
  deriving DecidableEq, Repr

/-- A sending key of a job (R360): its next counter and the messages sent and not acknowledged (R359). -/
structure TxKey where
  next : Nat := 0
  open_ : List (Nat × LinkMsg) := []
  deriving DecidableEq, Repr

/-- A receiving key of a job: every counter below `cum` is performed; those of `seen` above it too; messages performed
since the last ACK (R359, R361). -/
structure RxKey where
  cum : Nat := 0
  seen : List Nat := []
  sinceAck : Nat := 0
  deriving DecidableEq, Repr

/-- An outgoing REMOTE transfer (R357): its port queue, the number of its messages, its
digest, and whether every message has been cut; whether one of its messages took the alternate route (R364). -/
structure Xfer where
  xfer : Nat
  dst : Nat
  port : Nat
  msgs : Nat := 0
  digest : Word64 := 0#64
  cut : Bool := false
  /-- The command was squashed before its last unit: no further message of the transfer comes (R207). -/
  dropped : Bool := false
  usedAlt : Bool := false
  deriving DecidableEq, Repr

/-- The reception of a transfer (R401, R403): chunks done, and the bytes of each message since the last chunk ended. -/
structure RxXfer where
  srcDev : Nat
  xfer : Nat
  chunk : Nat := 0
  msgs : List (List Byte) := []
  deriving DecidableEq, Repr

/-- A group record of the collective section (R395). -/
structure GroupRec where
  valid : Bool := false
  fpReduce : Bool := false
  a64Reduce : Bool := false
  crossesL3 : Bool := false
  arrivalFold : Bool := false
  deadline : Bool := false
  policyNext : Bool := false
  chunkLog2 : Nat := 14
  rankBase : Nat := 0
  rankStride : Nat := 1
  membersM1 : Nat := 0
  expect : Nat := 0
  deadlineUs : Nat := 0
  closeCore : Nat := 0
  closeCtr : Nat := 0
  closeVa : Nat := 0
  deriving DecidableEq, Repr

/-- What a group has received (R410, R412, R419): complete chunks per member of the step that has not closed, the order in
which members completed, whether the step's close is done and which members it listed as carried; the chunks that members
owe for steps that have closed, the members late at the last close, those whose late contribution has completed since; the
chunks of the step; and, while the vote of the step before is outstanding, the members which that step's close listed as
carried. -/
structure GroupRx where
  chunks : SMap Nat := []
  order : List Nat := []
  closed : Bool := false
  carriedIn : List Nat := []
  owed : SMap Nat := []
  late : List Nat := []
  carriedNext : List Nat := []
  /-- The policy of the latest close was NEXT (R412). -/
  next : Bool := false
  total : Nat := 0
  prevIn : Option (List Nat) := none
  deriving DecidableEq, Repr

/-! ### Jobs -/

/-- A ledger entry held for replay (R497): its step, type and bytes. -/
structure ImportedEntry where
  step : Nat
  kind : Nat
  bytes : List Byte
  deriving DecidableEq, Repr

/-- An installed seed (R465): its first step, its value, and the drawn flag. -/
structure SeedEntry where
  first : Nat
  seed : Word64
  drawn : Bool
  deriving DecidableEq, Repr

/-- An armed checkpoint (R550). -/
structure CkptArm where
  step : Nat
  buddy : Bool
  buddyDev : Nat
  dedup : Nat
  narrow : Bool
  ring : Nat := 0
  buffers : List (Nat × Nat) := []
  deriving DecidableEq, Repr

/-- A checkpoint being written: its bytes, its identifier, its status and what remains unacknowledged (R553, R560). -/
structure CkptRun where
  arm : CkptArm
  ckptId : List Byte
  status : Nat
  bytes : Nat
  dataRecords : Nat
  deriving DecidableEq, Repr

/-- An armed snapshot (R453): step, address, peer device. -/
structure SnapArm where
  step : Nat
  va : Nat
  peer : Option Nat
  written : Bool := false
  deriving DecidableEq, Repr

/-- A restore under way (R563, R564): restored elements per record, and what every file so far carried. -/
structure Restore where
  counts : SMap Nat := []
  ckptId : List Byte := []
  nextStep : Nat := 0
  stateFp : List Byte := []
  narrow : Bool := false
  mixed : Bool := false
  used : Nat := 0
  deriving DecidableEq, Repr

/-- The tables of a program image the job keeps for adoption and for its checks: its bytes (R253, R510). -/
abbrev ImageBytes := List Byte

/-- A loaded job of a pen. -/
structure Job where
  tag : Nat := 0
  rank : Nat := 0
  ranksM1 : Nat := 0
  /-- The grid (R56): rows, columns, the turn length, the doubling and rotation policy, and the yokes. -/
  rows : Nat := 0
  cols : Nat := 12
  bays : List Nat := []
  yokeWide : List Nat := []
  yokeCheck : List Nat := []
  yokeCheckNext : Option (List Nat) := none
  /-- The pairs whose YOKE_CHECK_SUSPENDED stands (R66). -/
  yokeSuspended : List Nat := []
  turnLog2 : Nat := 0
  allowDoubling : Bool := false
  allowBorrow : Bool := false
  rotateTest : Bool := false
  spareWatch : Nat := 0
  /-- Where each logical core lives: its sites. -/
  place : SMap (List Nat) := []
  /-- Logical cores that share a doubled site: the second identity (R61). -/
  doubled : List (Nat × Nat) := []
  turn : Option TurnPhase := none
  /-- The B contexts are resident at the doubled sites (R61, R63). -/
  inB : Bool := false
  images : List ImageBytes := []
  coreImage : SMap Nat := []
  /-- Where the images lie in host memory, and the SHA-256 of the bytes there (R510). -/
  imageAddrs : List (Nat × Nat) := []
  imageHashes : List (List Byte) := []
  micros : List MicroProg := []
  plan : Plan := {}
  combHash : List Byte := []
  logicalCombHash : List Byte := []
  programHash : List Byte := []
  class_ : Nat := 0
  observe : Bool := false
  strictAny : Bool := false
  /-- Route section: per device ID the two nibbles, the group of a done counter, use_alt (R362). -/
  route : SMap Nat := []
  groupOf : SMap Nat := []
  useAlt : Bool := false
  groups : SMap GroupRec := []
  /-- The COUNTERS section (R637). -/
  counters : List Byte := []
  rankDev : List Nat := []
  linkKey : Option (List Byte) := none
  tx : SMap TxKey := []
  rx : SMap RxKey := []
  xfers : List Xfer := []
  rxXfers : List RxXfer := []
  /-- Messages performed whose signals wait for an earlier message of their transfer (R358). -/
  rxHeld : List LinkMsg := []
  groupRx : SMap GroupRx := []
  /-- Sums of remote signals per logical core and counter (R369), keyed 256·core + counter. -/
  sigSums : SMap Word32 := []
  /-- Status bits set while no attempt computes: they join the next (R444). -/
  statusNext : Word64 := 0#64
  /-- Slot tables and reserved regions of the Comb image (R278, R327). -/
  slotTables : List Byte := []
  /-- Every region of the reserved-regions section; the JOURNAL and the BUDDY region: bay mask, first frame, frames per bay (R327). -/
  regions : List (Nat × Nat × Nat) := []
  journal : Nat × Nat × Nat := (0, 0, 0)
  buddy : Option (Nat × Nat × Nat) := none
  journalL : Nat := 0
  journalN : Nat := 0
  /-- The highest seq that a record has had (R493). -/
  journalTop : Nat := 0
  /-- The attempt being computed, and an earlier one whose vote is outstanding (R434). -/
  cur : Option Attempt := none
  voting : Option Attempt := none
  decided : Nat := 0
  /-- T0s passed per step counter value: the number of the next attempt of each (R422). -/
  attempts : SMap Nat := []
  nextStep : Nat := 0
  boundaryDue : Bool := false
  draining : Bool := false
  resync : Bool := false
  resyncKids : List Nat := []
  resyncSelf : Bool := false
  resyncSent : Bool := false
  resyncOut : Bool := false
  /-- Payloads that children sent for the next attempt before its T0 here (R422). -/
  earlyKids : List (Nat × Vote) := []
  stopped : Option LateHolder := none
  /-- Stops held by late items beyond the first (R214). -/
  lateHeld : Nat := 0
  /-- The cause of the job's end and its own fields (R515, R535). -/
  cause : Nat := 0
  causeFields : List EvField := []
  aborting : Bool := false
  rewinds : Nat := 0
  startFp : List Byte := []
  seeds : List SeedEntry := []
  inputDigests : SMap Word64 := []
  imported : List ImportedEntry := []
  /-- A ledger has been imported: the job consumes it (R40, R500); entries that decided steps have consumed. -/
  replay : Bool := false
  usedImports : Nat := 0
  lineage : Option (List Byte) := none
  /-- A fence has stopped the units and the replay has not begun (R509, R511); the logical cores that wait for a site with
  the site; the replay runs, since its entry bundle. -/
  fenceHold : Bool := false
  adopting : List (Nat × Nat) := []
  replayRun : Bool := false
  /-- The per-record digests of the sweep (R498). -/
  sweepRows : List (List Word64) := []
  ckpt : Option CkptArm := none
  ckptRun : Option CkptRun := none
  holdRound : Bool := false
  snap : Option SnapArm := none
  restore : Option Restore := none
  buddyFrom : Option Nat := none
  buddySlot : Nat := 0
  stalledPosted : Bool := false
  /-- The figures of an attempt whose outcome is outstanding, once the next has begun: per bay HBM_REFRESH_STAT, XGL_STEP_STAT and
  UPD_UNIT, and the chunks per group (R336, R391, R419, R459). -/
  figures : Option (List (Nat × Word64 × Word64 × Word64) × List (Nat × Nat)) := none
  suppressed : Nat := 0
  sentReplay : Nat := 0
  deriving DecidableEq, Repr

/-! ### Pens and the host -/

/-- A host session of a confidential pen (R585, R587): its three keys and its counters per ring. -/
structure HostSession where
  h2d : List Byte
  d2h : List Byte
  cmd : List Byte
  lastH2d : SMap Nat := []
  nextD2h : SMap Nat := []
  cmdIndex : SMap Nat := []
  cplIndex : SMap Nat := []
  deriving DecidableEq, Repr

/-- A pen: what the crypto block and the hub keep for it beside its registers. -/
structure PenS where
  /-- The pen exists in the layout in force (R572). -/
  present : Bool := false
  confidential : Bool := false
  bays : BitVec 12 := 0#12
  ownerKey : Option (List Byte) := none
  importPriv : Nat := 0
  memKey : BitVec 512 := 0#512
  active : SMap (Word64 × Word64) := []
  staging : SMap (Word64 × Word64) := []
  /-- A commit check runs; it has passed and waits for the boundary; its result and the activations (R309, R310, R340). -/
  checkRunning : Bool := false
  activatePending : Bool := false
  winStatus : Nat := 0
  winFail : Nat := 0
  activations : Nat := 0
  released : Option Nat := none
  /-- The RESERVED_REGIONS section of the latest job (R674). -/
  regionsBody : List Byte := []
  session : Option HostSession := none
  teardownCause : Option Nat := none
  createPending : Bool := false
  /-- The entry of a new layout that the pen takes once it is torn down (R574): present, confidential, bays. -/
  next : Option (Bool × Bool × BitVec 12) := none
  job : Option Job := none
  deriving DecidableEq, Repr

/-- A command that has been fetched and not completed (R622): the entry as read (decrypted in a confidential pen), the
parameter block, and the result once known. -/
structure Inflight where
  index : Nat
  fn : Nat
  pen : Nat
  opcode : Nat
  flags : Nat
  aux : Nat
  len : Nat
  cookie : Word64
  body : List Byte
  params : List Byte := []
  /-- The bytes of its transfer moved so far (R632). -/
  moved : Nat := 0
  done : Option (Nat × List Byte) := none
  deriving DecidableEq, Repr

/-- A ring's indices beyond its registers (R621, R622). -/
structure RingS where
  cmdTail : Nat := 0
  cplHead : Nat := 0
  inflight : List Inflight := []
  /-- An error has stopped fetching until the ring is disabled and enabled (R621). -/
  stopped : Bool := false
  intDue : Bool := false
  deriving DecidableEq, Repr

/-- An accepted authority order that waits to be performed (R591). -/
structure Order where
  opcode : Nat
  body : List Byte
  deriving DecidableEq, Repr

/-- The state of an SPDM connection (R600). -/
structure SpdmConn where
  /-- 0 none, 1 version given, 2 capabilities given, 3 algorithms agreed. -/
  stage : Nat := 0
  minor : Nat := 0
  session : Nat := 0
  /-- 0 no session, 1 handshake, 2 open. -/
  sessionStage : Nat := 0
  secret : List Byte := []
  mutualAuth : Bool := false
  reqKeyGen : Nat := 0
  rspKeyGen : Nat := 0
  /-- The latest response: its code and its bytes. -/
  respCode : Nat := 0
  resp : List Byte := []
  deriving DecidableEq, Repr

/-- The power states (R675). -/
inductive Power where
  | off | keep | idle | run
  deriving DecidableEq, Repr

/-- What a firmware slot of the boot flash holds (R596): nothing, the image the module was delivered with, or one written since. -/
inductive FwSlot where
  | empty
  | factory
  | image (bs : List Byte)
  deriving DecidableEq, Repr

/-- An armed injection (R531): detector, bay, unit, events left. -/
structure Injection where
  detector : Nat
  bay : Nat
  unit : Nat
  left : Nat
  deriving DecidableEq, Repr

/-- The lanes of a bay's update unit while a block of elements is in work (R441, R443): the number of elements, the
registers keyed 32·element + register, the arithmetic, the constants. -/
structure UnitS where
  count : Nat := 0
  strict : Bool := false
  consts : List Word64 := []
  regs : SMap Word32 := []
  /-- Elements and non-finite elements swept in the step (R459). -/
  elements : Nat := 0
  nonfinite : Nat := 0
  deriving DecidableEq, Repr
/-! ### The module -/

/-- The state of the module: everything the spec gives it, as plain data. -/
structure State where
  /-- The commands that wait, first in, first out. -/
  pending : List Instr := []
  /-- The model's own: how many free values have been drawn (DESIGN CHOICE, log entry 3). -/
  fresh : Nat := 0
  /-- Every register of BAR0 (R617), by its key. -/
  regs : SMap Word64 := []
  /-- Written bytes of device memory by device physical address, bay·2^36 + offset (R301 to R303). -/
  hbm : SMap Byte := []
  /-- Poison marks of written lines and uncorrectable lines, by device physical address / 64 (R314, R316, R317). -/
  poison : SMap Bool := []
  badLines : SMap Bool := []
  bays : SMap Bay := []
  units : SMap UnitS := []
  /-- Logical cores, keyed 256·pen + logical id; a context that is not resident keeps its record here, which is its slot image
  (R62, R63; DESIGN CHOICE, log entry 15). -/
  cores : SMap Core := []
  /-- Packets in the on-die network (R272, R273). -/
  packets : List Packet := []
  /-- The slot clock of a pen's slot tables and their rotation pointers (R274, R276). -/
  slotClk : SMap Nat := []
  pens : SMap PenS := []
  ports : SMap XPort := []
  /-- The link stage of start-up has begun and has ended (R374, R380); the census takes partners (R378). -/
  linkStage : Bool := false
  linkDone : Bool := false
  censusOpen : Bool := false
  /-- Host memory (outside the device): what commands read and completions write. -/
  hostMem : SMap Byte := []
  rings : SMap RingS := []
  /-- What each function has used of the round under way (R632): command fetches, bytes to the device, bytes to the host; and the ring
  after the one of it last served. -/
  hifUsed : SMap (Nat × Nat × Nat) := []
  ringNext : SMap Nat := []
  /-- Event queues of the functions (R624), and whether the next delivered event carries flag lost. -/
  evq : SMap (List Event) := []
  evLost : SMap Bool := []
  /-- MSI-X messages sent (R623), keyed 64·function + vector. -/
  msix : SMap Nat := []
  /-- PCIe fetching is paused for a compute reset (R673). -/
  fetchPaused : Bool := false
  /-- An authority order accepted by the mailbox and not yet performed (R645). -/
  order : Option Order := none
  /-- The answer code of the latest order that came over the management port or the SMBus (R607, R645). -/
  lastAnswer : Nat := 0
  /-- The bytes that the latest read of a register, of BAR4 or of a line returned, and whether that line was poisoned. -/
  lastRead : List Byte := []
  lastPoison : Bool := false
  /-- The noise source (R460 to R463): failed windows in a row, and the latest sample with the length of its run (R460). -/
  rngFails : Nat := 0
  rngRun : Nat × Bool := (0, false)
  /-- Weather buckets (R527), newest first, keyed 32·bay + class: the unit of each event; injected events apart; and the
  thresholds in force since the last bucket (R528), by class. -/
  wx : SMap (List (List Nat)) := []
  wxInj : SMap (List Nat) := []
  wxThr : SMap Word64 := []
  /-- ACT actions due at the next boundary (R529): bay and class. -/
  actDue : List (Nat × Nat) := []
  /-- Fences per site since READY (R525), and the detector of the last one. -/
  fences : SMap Nat := []
  fenceDet : SMap Nat := []
  /-- The logical core last rotated out of a bay (R523). -/
  rotated : SMap (Option Nat) := []
  injection : Option Injection := none
  /-- Keep store (R668 to R671): words, wear counters, waiting writes, retirements held unrecorded. -/
  keep : SMap Word64 := []
  wear : SMap Nat := []
  keepQ : List (Nat × Word64) := []
  heldRetire : List Word64 := []
  /-- The factory fuse map (R667). -/
  fuses : SMap Word64 := []
  /-- The boot flash (R596, R521): firmware slots, the slot marked as trial and the active one (true for B), the field-test slot. -/
  fwA : FwSlot := .factory
  fwB : FwSlot := .empty
  fwTrial : Option Bool := none
  fwActive : Bool := false
  ftp : List Byte := []
  /-- The device key, which the crypto block holds for bays of no pen (R312, R581). -/
  deviceKey : BitVec 512 := 0#512
  /-- The owner key or certificate in force, and the one kept beside the owner hash for the next cold start (R591, R594). -/
  ownerPub : List Byte := []
  ownerKeep : List Byte := []
  /-- The place of the tamper log that the next alarm takes (R605). -/
  tamperHead : Nat := 0
  /-- SPDM connections, 0 to 12 over PCIe by function, 13 over SMBus (R600). -/
  spdm : SMap SpdmConn := []
  power : Power := .off
  /-- The input is in range since power-good (R662, R675); the always-on domain is up (R704). -/
  powerGood : Bool := false
  /-- PERST_N is asserted (low), and has been deasserted since the cold start (R707). -/
  perst : Bool := true
  perstReleased : Bool := false
  aonUp : Bool := false
  /-- The module holds an SMBus message for the SMBus host (R703). -/
  smbusMsg : Bool := false
  /-- A wake from Keep runs in place of a cold start (R662). -/
  waking : Bool := false
  recovery : Bool := false
  /-- Both dies are stopped after a loss of lock (R659). -/
  diesStopped : Bool := false
  computeReset : Bool := false
  /-- The thermal emergency's end condition is met; it ends at the next step boundary of a job (R660). -/
  emergencyOver : Bool := false
  deriving DecidableEq, Repr

/-- Why the machine stops with a fault. -/
inductive Fault where
  /-- Raised by MEM_READ and MEM_WRITE for a line beyond the 1,073,741,824 lines of a stack (R301): the address does not
  exist.  Safe: the device has no such access. -/
  | noSuchLine
  deriving DecidableEq, Repr

/-- Why an instruction is refused. -/
inductive Refusal where
  /-- Raised by the dispatch for a command that has no meaning yet.  Safe. -/
  | notModelled (mnemonic : String)
  deriving DecidableEq, Repr

/-- The module right after reset: off, before power-good, every register at the value of its Reset column (R12 and the
register tables), every store empty (DESIGN CHOICE, log entries 1, 2 and 4). -/
def State.reset : State := {}

end Sys2Proof.Machine
end

