-- ==== Sys2Proof/Machine/Ops.lean ====
section
/-!
DEFINITION. The named operations over the state that the meanings share: registers, cores, pens, ports, device and host
memory, window translation, and the posting of events.
-/

namespace Sys2Proof.Machine

/-- The first bit, the bits and the bytes of a part of a register (R17). -/
def partLo (part : RegPart) : Nat := match part with | .high => 32 | _ => 0
def partBits (part : RegPart) : Nat := match part with | .whole => 64 | _ => 32
def partLen (part : RegPart) : Nat := match part with | .whole => 8 | _ => 4

/-- What a read of a part of a register answers, and the register after a write of the part (R17). -/
def partRead (part : RegPart) (x : Word64) : List Byte := le (partLen part) (getBits x (partLo part) (partBits part))
def partWrite (part : RegPart) (x v : Word64) : Word64 := putBits x (partLo part) (partBits part) v.toNat

/-- The outcome of a step. -/
abbrev Out := Host.Outcome State Fault Refusal

/-- Takes effect when a condition holds and leaves the state unchanged when it does not: an event whose condition does
not hold does not come about, and an instruction that cannot issue waits (DESIGN CHOICE, log entry 6). -/
def whenOk (c : Bool) (s : State) (t : State) : Out := .next (if c then t else s)

/-! ### Free values -/

/-- The next free value and the state that has drawn it. -/
def State.draw (s : State) : BitVec 64 × State :=
  (Config.freeBits s.fresh, { s with fresh := s.fresh + 1 })

/-- A number drawn below `2^w`, for a field of `w` bits. -/
def State.drawNat (s : State) (w : Nat) : Nat × State :=
  let r := s.draw
  (r.1.toNat % 2 ^ w, r.2)

/-- `n` free 64-bit values, joined into one number. -/
def State.drawWide : Nat → State → Nat × State
  | 0, s => (0, s)
  | n + 1, s =>
    let r := s.draw
    let q := State.drawWide n r.2
    (r.1.toNat + 2 ^ 64 * q.1, q.2)

/-! ### Registers -/

/-- A register entry. -/
def State.reg (s : State) (n : RegName) (ix : Nat := 0) (fn : Nat := 0) : Word64 :=
  SMap.get regDefault s.regs (n.key fn ix)

/-- The state with a register entry set. -/
def State.setReg (s : State) (n : RegName) (x : Word64) (ix : Nat := 0) (fn : Nat := 0) : State :=
  { s with regs := SMap.set regDefault s.regs (n.key fn ix) x }

/-- A field of a register entry. -/
def State.fld (s : State) (n : RegName) (lo w : Nat) (ix : Nat := 0) (fn : Nat := 0) : Nat :=
  getBits (s.reg n ix fn) lo w

/-- The state with a field of a register entry set. -/
def State.setFld (s : State) (n : RegName) (lo w v : Nat) (ix : Nat := 0) (fn : Nat := 0) : State :=
  s.setReg n (putBits (s.reg n ix fn) lo w v) ix fn

/-- Adds to a counter field, which saturates at its width. -/
def State.bump (s : State) (n : RegName) (lo w : Nat) (ix : Nat := 0) (d : Nat := 1) (fn : Nat := 0) : State :=
  s.setFld n lo w (satAdd w (s.fld n lo w ix fn) d) ix fn

/-- Adds a free value to a counter field of clk, which saturates (DESIGN CHOICE, log entry 3). -/
def State.bumpFree (s : State) (n : RegName) (lo w : Nat) (ix : Nat := 0) : State :=
  let r := s.drawNat w
  r.2.bump n lo w ix r.1

/-- Sets a counter field of clk to a free value. -/
def State.setFree (s : State) (n : RegName) (lo w : Nat) (ix : Nat := 0) : State :=
  let r := s.drawNat w
  r.2.setFld n lo w r.1 ix

/-! ### Named parts -/

/-- The key of a logical core of a pen. -/
def coreKey (pen logical : Nat) : Nat := 256 * pen + logical

/-- The key of a core reference. -/
def refKey (u : CoreRef) : Nat := coreKey u.pen u.logical

/-- A logical core. -/
def State.core (s : State) (k : Nat) : Core := SMap.get (fun _ => {}) s.cores k

/-- The state with a logical core set. -/
def State.setCore (s : State) (k : Nat) (c : Core) : State :=
  { s with cores := SMap.set (fun _ => {}) s.cores k c }

/-- The state with a logical core changed. -/
def State.onCore (s : State) (k : Nat) (f : Core → Core) : State := s.setCore k (f (s.core k))

/-- A pen. -/
def State.pen (s : State) (p : Nat) : PenS := SMap.get (fun _ => {}) s.pens p

/-- The state with a pen set. -/
def State.setPen (s : State) (p : Nat) (x : PenS) : State := { s with pens := SMap.set (fun _ => {}) s.pens p x }

/-- The state with a pen changed. -/
def State.onPen (s : State) (p : Nat) (f : PenS → PenS) : State := s.setPen p (f (s.pen p))

/-- The job of a pen. -/
def State.job (s : State) (p : Nat) : Option Job := (s.pen p).job

/-- The state with a pen's job set. -/
def State.setJob (s : State) (p : Nat) (j : Option Job) : State := s.onPen p (fun x => { x with job := j })

/-- The state with a pen's job changed, when there is one. -/
def State.onJob (s : State) (p : Nat) (f : Job → Job) : State :=
  s.onPen p (fun x => { x with job := x.job.map f })

/-- The job of a pen, or an empty one. -/
def State.jobD (s : State) (p : Nat) : Job := ((s.pen p).job).getD {}

/-- A port. -/
def State.port (s : State) (p : Nat) : XPort := SMap.get (fun _ => {}) s.ports p

/-- The state with a port set. -/
def State.setPort (s : State) (p : Nat) (x : XPort) : State := { s with ports := SMap.set (fun _ => {}) s.ports p x }

/-- The state with a port changed. -/
def State.onPort (s : State) (p : Nat) (f : XPort → XPort) : State := s.setPort p (f (s.port p))

/-- A bay. -/
def State.bay (s : State) (b : Nat) : Bay := SMap.get (fun _ => {}) s.bays b

/-- The state with a bay set. -/
def State.setBay (s : State) (b : Nat) (x : Bay) : State := { s with bays := SMap.set (fun _ => {}) s.bays b x }

/-- The state with a bay changed. -/
def State.onBay (s : State) (b : Nat) (f : Bay → Bay) : State := s.setBay b (f (s.bay b))

/-- An update unit. -/
def State.unit (s : State) (b : Nat) : UnitS := SMap.get (fun _ => {}) s.units b

/-- The state with an update unit set. -/
def State.setUnit (s : State) (b : Nat) (x : UnitS) : State := { s with units := SMap.set (fun _ => {}) s.units b x }

/-- A ring. -/
def State.ring (s : State) (r : Nat) : RingS := SMap.get (fun _ => {}) s.rings r

/-- The state with a ring set. -/
def State.setRing (s : State) (r : Nat) (x : RingS) : State := { s with rings := SMap.set (fun _ => {}) s.rings r x }

/-- The state with a ring changed. -/
def State.onRing (s : State) (r : Nat) (f : RingS → RingS) : State := s.setRing r (f (s.ring r))

/-- The pen that owns a bay, 0 for none (R572). -/
def State.penOfBay (s : State) (b : Nat) : Nat :=
  (((List.range 12).map (· + 1)).find? (fun p => (s.pen p).present && (s.pen p).bays.getLsbD b)).getD 0

/-- The bays of a pen, ascending. -/
def State.baysOf (s : State) (p : Nat) : List Nat := (List.range 12).filter (fun b => (s.pen p).bays.getLsbD b)

/-- The bay of a physical site: fourteen sites to a bay (R48). -/
def bayOfSite (site : Nat) : Nat := site / 14

/-- The bay exists on the grade (R1): DEV_IDENT.bay_mask. -/
def State.bayPresent (s : State) (b : Nat) : Bool := decide (s.fld .devIdent (16 + b) 1 = 1) && decide (b < 12)

/-! ### Events -/

/-- The capacity of a function's event queue (R624). -/
def evqMax : Nat := 1024

/-- Posts an event to a function: it waits in the function's queue; with a full queue it is counted and discarded, and the
next one delivered carries flag lost (R624). -/
def State.post (s : State) (fn code : Nat) (step : Nat) (fields : List EvField) : State :=
  let q := SMap.get (fun _ => []) s.evq fn
  if q.length < evqMax then
    { s with evq := SMap.set (fun _ => []) s.evq fn (q ++ [{ code := code, step := BitVec.ofNat 64 step, fields := fields }]) }
  else
    { (s.bump .hifPenStat 32 16 fn) with evLost := SMap.set (fun _ => false) s.evLost fn true }

/-- An 8-byte field of an event. -/
def ef (n : Nat) : EvField := .w (BitVec.ofNat 64 n)

/-- Posts an event to a pen, when it is one, and to PF0. -/
def State.postBoth (s : State) (pen code step : Nat) (fields : List EvField) : State :=
  let s := if 1 ≤ pen ∧ pen ≤ 12 then s.post pen code step fields else s
  s.post 0 code step fields

/-- Posts an event to a pen only. -/
def State.postPen (s : State) (pen code step : Nat) (fields : List EvField) : State :=
  if 1 ≤ pen ∧ pen ≤ 12 then s.post pen code step fields else s

/-! ### Host memory -/

/-- A byte of host memory. -/
def State.hostByte (s : State) (a : Nat) : Byte := (SMap.find s.hostMem a).getD (Config.hostByte a)

/-- Bytes of host memory. -/
def State.hostRead (s : State) (a n : Nat) : List Byte := (List.range n).map (fun i => s.hostByte (a + i))

/-- Writes bytes at consecutive keys of a table that lists everything written. -/
def putList : SMap Byte → Nat → List Byte → SMap Byte
  | m, _, [] => m
  | m, a, b :: bs => putList (SMap.put m a b) (a + 1) bs

/-- The state with bytes of host memory written. -/
def State.hostWrite (s : State) (a : Nat) (bs : List Byte) : State := { s with hostMem := putList s.hostMem a bs }

/-! ### Device memory by physical address -/

/-- The span of a stack in the physical address (R302). -/
def stackSpan : Nat := 2 ^ 36

/-- The lines of a stack (R301). -/
def stackLines : Nat := 2 ^ 30

/-- A byte of device memory as stored. -/
def State.hbmByte (s : State) (dpa : Nat) : Byte :=
  (SMap.find s.hbm dpa).getD (Config.unwrittenByte (s.bay (dpa / stackSpan)).erases dpa)

/-- Whether a line reads as poisoned by its mark; a line nothing has written reads unmarked until its bay's key was
replaced (R313). -/
def State.linePoison (s : State) (line : Nat) : Bool :=
  match SMap.find s.poison line with
  | some b => b
  | none =>
    let e := (s.bay (line / stackLines)).erases
    if e = 0 then false else Config.unwrittenPoison e line

/-- Whether a line holds a sector that cannot be corrected and is not yet marked (R316). -/
def State.lineBad (s : State) (line : Nat) : Bool := SMap.get (fun _ => false) s.badLines line

/-- The 64 bytes and the poison with which a read of a line answers (R316, R317). -/
def State.readLine (s : State) (line : Nat) : List Byte × Bool :=
  if s.lineBad line then (zeros 64, true)
  else ((List.range 64).map (fun i => s.hbmByte (64 * line + i)), s.linePoison line)

/-- A byte of device memory as a read returns it. -/
def State.devByte (s : State) (dpa : Nat) : Byte :=
  if s.lineBad (dpa / 64) then 0#8 else s.hbmByte dpa

/-- Whether a read of an address answers poisoned. -/
def State.devPoison (s : State) (dpa : Nat) : Bool := s.lineBad (dpa / 64) || s.linePoison (dpa / 64)

/-- Sets a line's poison mark. -/
def State.markLine (s : State) (line : Nat) (p : Bool) : State := { s with poison := SMap.put s.poison line p }

/-- Sets stored bytes of device memory. -/
def State.setBytes (s : State) (dpa : Nat) (bs : List Byte) : State := { s with hbm := putList s.hbm dpa bs }

/-- Sets whether a line holds a sector that cannot be corrected. -/
def State.setBad (s : State) (line : Nat) (b : Bool) : State :=
  { s with badLines := SMap.set (fun _ => false) s.badLines line b }

/-- Writes part of one line (R317).  A whole line that is not poisoned clears the mark; a part of a poisoned line leaves it
poisoned; a part of an unreadable line stores the line with its mark, every other byte zero. -/
def State.writeLine (s : State) (line off : Nat) (bs : List Byte) (poison : Bool) : State :=
  let whole := decide (64 ≤ bs.length)
  let bad := s.lineBad line && !whole
  let p := poison || (!whole && (s.linePoison line || bad))
  let s := if bad then s.setBytes (64 * line) (zeros 64) else s
  ((s.setBad line false).setBytes (64 * line + off) bs).markLine line p

/-- Writes bytes by physical address, line by line, by fuel. -/
def State.devWriteAux : Nat → State → Nat → List Byte → Bool → State
  | 0, s, _, _, _ => s
  | n + 1, s, dpa, bs, poison =>
    if bs.isEmpty then s
    else
      let k := 64 - dpa % 64
      State.devWriteAux n (s.writeLine (dpa / 64) (dpa % 64) (bs.take k) poison) (dpa + (bs.take k).length) (bs.drop k) poison

/-- Writes bytes by physical address. -/
def State.devWrite (s : State) (dpa : Nat) (bs : List Byte) (poison : Bool := false) : State :=
  State.devWriteAux (bs.length / 64 + 2) s dpa bs poison

/-! ### Windows -/

/-- A window entry read by its fields (R306). -/
structure WinEntry where
  valid : Bool
  big : Bool
  rd : Bool
  wr : Bool
  stripe : Bool
  mask : Nat
  vaPage : Nat
  frame : Nat
  deriving DecidableEq, Repr

/-- The fields of an entry's two words. -/
def winEntry (w : Word64 × Word64) : WinEntry where
  valid := w.1.getLsbD 0
  big := w.1.getLsbD 1
  rd := w.1.getLsbD 2
  wr := w.1.getLsbD 3
  stripe := w.1.getLsbD 4
  mask := getBits w.1 8 12
  vaPage := getBits w.1 32 27
  frame := getBits w.2 0 15

/-- The page size of an entry. -/
def WinEntry.page (e : WinEntry) : Nat := if e.big then 2 ^ 30 else 2 ^ 21

/-- The stripe size of an entry. -/
def WinEntry.stripeSize (e : WinEntry) : Nat := if e.stripe then 0x10000 else 0x1000

/-- The bays of a mask, ascending. -/
def maskBays (m : Nat) : List Nat := (List.range 12).filter (fun b => m.testBit b)

/-- The first address of an entry. -/
def WinEntry.lo (e : WinEntry) : Nat := e.vaPage * 2 ^ 21

/-- The length of an entry's range. -/
def WinEntry.span (e : WinEntry) : Nat := (maskBays e.mask).length * e.page

/-- An entry covers an address. -/
def WinEntry.covers (e : WinEntry) (va : Nat) : Bool :=
  e.valid && decide (e.lo ≤ va) && decide (va < e.lo + e.span)

/-- The physical address of a byte of a region striped over bays: stripe i lies in the (i mod n)-th bay (R307). -/
def stripeDpa (bays : List Nat) (base stripeSize off : Nat) : Nat :=
  let st := off / stripeSize
  let n := bays.length
  bays.getD (st % n) 0 * stackSpan + (base + st / n * stripeSize + off % stripeSize)

/-- The causes of R308. -/
def causeWindowMiss : Nat := 1
def causeWindowPerm : Nat := 2

/-- The translation of R307 over a list of entries in ascending index: the first that covers the address decides. -/
def translateIn (isWrite : Bool) (va : Nat) : List (Nat × (Word64 × Word64)) → Except Nat Nat
  | [] => .error causeWindowMiss
  | (_, w) :: t =>
    let e := winEntry w
    if e.covers va then
      if (if isWrite then e.wr else e.rd) then
        .ok (stripeDpa (maskBays e.mask) (e.frame * 2 ^ 21) e.stripeSize (va - e.lo))
      else .error causeWindowPerm
    else translateIn isWrite va t

/-- The translation of a pen's virtual address: the physical address, or a cause of R308. -/
def State.translate (s : State) (pen : Nat) (isWrite : Bool) (va : Nat) : Except Nat Nat :=
  translateIn isWrite (va % 2 ^ 48) (s.pen pen).active

/-- Whether a range of virtual addresses translates throughout; the cause at its first failure.  Translation is constant
on 4 KiB stripes, so one test per stripe suffices. -/
def State.rangeCauseAux (s : State) (pen : Nat) (isWrite : Bool) (hi : Nat) : Nat → Nat → Option Nat
  | 0, _ => none
  | n + 1, va =>
    if hi ≤ va then none
    else
      match s.translate pen isWrite va with
      | .error c => some c
      | .ok _ => State.rangeCauseAux s pen isWrite hi n ((va / 0x1000 + 1) * 0x1000)

/-- Whether a range of virtual addresses translates throughout; the cause at its first failure. -/
def State.rangeCause (s : State) (pen : Nat) (isWrite : Bool) (va n : Nat) : Option Nat :=
  if 2 ^ 48 < va + n then some causeWindowMiss
  else State.rangeCauseAux s pen isWrite (va + n) (n / 0x1000 + 2) va

/-- A byte and its poison by virtual address; a failed translation reads as zero (the caller has tested it). -/
def State.vaByte (s : State) (pen va : Nat) : Byte × Bool :=
  match s.translate pen false va with
  | .ok d => (s.devByte d, s.devPoison d)
  | .error _ => (0#8, false)

/-- Bytes by virtual address. -/
def State.vaRead (s : State) (pen va n : Nat) : List Byte := (List.range n).map (fun i => (s.vaByte pen (va + i)).1)

/-- Whether any line of a range reads poisoned. -/
def State.vaPoison (s : State) (pen va n : Nat) : Bool :=
  (List.range (n / 64 + 2)).any (fun i =>
    let a := if i = 0 then va else (va / 64 + i) * 64
    decide (a < va + n) && (s.vaByte pen a).2)

/-- A range of bytes cut at the lines of 64, by fuel. -/
def linePiecesAux {α : Type} : Nat → Nat → List α → List (Nat × List α)
  | 0, _, _ => []
  | n + 1, a, xs =>
    if xs.isEmpty then []
    else
      let k := 64 - a % 64
      (a, xs.take k) :: linePiecesAux n (a + k) (xs.drop k)

/-- A range of bytes cut at the lines of 64. -/
def linePieces {α : Type} (a : Nat) (xs : List α) : List (Nat × List α) := linePiecesAux (xs.length / 64 + 2) a xs

/-- The entry that decides a virtual address: the first that covers it (R307). -/
def State.deciding (s : State) (pen va : Nat) : Option Nat :=
  ((s.pen pen).active.find? (fun kv => (winEntry kv.2).covers (va % 2 ^ 48))).map Prod.fst

/-- The window cache after a translated access (R311): in the bay of the line, the entry that decided becomes the most recently used of
64 (DEDUCED, log entry 29). -/
def State.touchVa (s : State) (pen : Nat) (isWrite : Bool) (va : Nat) : State :=
  match s.deciding pen va, s.translate pen isWrite va with
  | some i, .ok d => s.onBay (d / stackSpan) (fun x => { x with winCache := (i :: x.winCache.filter (fun k => decide (k ≠ i))).take 64 })
  | _, _ => s

/-- Writes bytes by virtual address, line by line, by fuel; a line whose translation fails is not written. -/
def State.vaWriteAux (pen : Nat) (poison : Bool) : Nat → State → Nat → List Byte → State
  | 0, s, _, _ => s
  | n + 1, s, va, bs =>
    if bs.isEmpty then s
    else
      let k := 64 - va % 64
      let piece := bs.take k
      let s' := match s.translate pen true va with
        | .ok d => (s.touchVa pen true va).writeLine (d / 64) (d % 64) piece poison
        | .error _ => s
      State.vaWriteAux pen poison n s' (va + piece.length) (bs.drop k)

/-- Writes bytes by virtual address. -/
def State.vaWrite (s : State) (pen va : Nat) (bs : List Byte) (poison : Bool := false) : State :=
  State.vaWriteAux pen poison (bs.length / 64 + 2) s va bs

end Sys2Proof.Machine
end

