-- ==== Sys2Proof/Machine/Journal.lean ====
section
/-!
DEFINITION. The journal region: its layout (R489), the load record (R490), journal records (R491 to R493), the run ledger
(R494, R495) and the digest tables (R498).
-/

namespace Sys2Proof.Machine

/-! ### Reserved regions -/

/-- The physical address of a byte of a reserved region: 4 KiB stripes over the bays of its mask (R327). -/
def regionDpa (r : Nat × Nat × Nat) (off : Nat) : Nat := stripeDpa (maskBays r.1) (r.2.1 * 2 ^ 21) 0x1000 off

/-- The bytes of a reserved region. -/
def regionSize (r : Nat × Nat × Nat) : Nat := (maskBays r.1).length * (r.2.2 * 2 ^ 21)

/-- Reads bytes of a region. -/
def State.regionRead (s : State) (r : Nat × Nat × Nat) (off n : Nat) : List Byte :=
  (List.range n).map (fun i => s.devByte (regionDpa r (off + i)))

/-- Writes bytes of a region, stripe by stripe, by fuel. -/
def State.regionWriteAux (r : Nat × Nat × Nat) : Nat → State → Nat → List Byte → State
  | 0, s, _, _ => s
  | n + 1, s, off, bs =>
    if bs.isEmpty then s
    else
      let k := 0x1000 - off % 0x1000
      State.regionWriteAux r n (s.devWrite (regionDpa r off) (bs.take k)) (off + (bs.take k).length) (bs.drop k)

/-- Writes bytes of a region; these writes of the device itself judge no line that they merge with (DESIGN CHOICE, log entry 130). -/
def State.regionWrite (s : State) (r : Nat × Nat × Nat) (off : Nat) (bs : List Byte) : State :=
  State.regionWriteAux r (bs.length / 0x1000 + 2) s off bs

/-- Offsets of the journal region (R489). -/
def jrnLoad : Nat := 0x1000
def jrnTables : Nat := 0x4000
def jrnLedger : Nat := 0x204000

/-- The size of the ledger area for a region: an eighth of what follows the tables, in whole 4 KiB (R489). -/
def journalLedgerSize (size : Nat) : Nat := (size - jrnLedger) / 8 / 0x1000 * 0x1000

/-- The records that fit after the ledger area (R489). -/
def journalRecords (size : Nat) : Nat := (size - jrnLedger - journalLedgerSize size) / 0x1000

/-- The offset of the slot of the record with a sequence number (R493). -/
def recordSlot (j : Job) (seq : Nat) : Nat := jrnLedger + j.journalL + 0x1000 * ((seq - 1) % j.journalN)

/-- Writes the region header: magic, tag, rank, L, N and the ring pointers (R489).  The header's layout beyond that list is
the model's (DESIGN CHOICE, log entry 12). -/
def State.writeJournalHeader (s : State) (pen : Nat) : State :=
  match s.job pen with
  | none => s
  | some j =>
    s.regionWrite j.journal 0
      (fit 64 (le 4 0x48524541 ++ le 2 j.tag ++ le 2 j.rank ++ le 8 j.journalL ++ le 8 j.journalN ++
        le 8 (s.fld .updJournal 0 32 (pen - 1)) ++ le 8 (s.fld .updLedger 0 32 (pen - 1))))

/-- The load record (R490). -/
def loadRecord (coreImage : List Byte) (hashes : List (List Byte)) : List Byte :=
  fit 256 (le 4 0x4C4A4541 ++ le 2 1 ++ le 2 hashes.length ++ zeros 8 ++ fit 144 coreImage) ++
  (hashes.map (fit 32)).flatten

/-! ### Run ledger -/

/-- A ledger entry: its header (R494) and its body, filled to a multiple of 8 bytes. -/
def ledgerEntry (kind scope step : Nat) (body : List Byte) : List Byte :=
  let n := (16 + body.length + 7) / 8 * 8
  fit n (le 2 kind ++ le 1 scope ++ [0#8] ++ le 4 n ++ le 8 step ++ body)

/-- The scope of an entry (R494). -/
def entryScope (e : List Byte) : Nat := fieldAt e 2 1

/-- Appends an entry to the ledger area: a PAD entry fills the area to its end when the entry would cross it (R493), and
the current attempt records the entry (R495). -/
def State.ledgerAppend (s : State) (pen : Nat) (e : List Byte) : State :=
  match s.job pen with
  | none => s
  | some j =>
    match j.cur with
    | none => s
    | some a =>
      let head := s.fld .updLedger 0 32 (pen - 1)
      let cross := decide (j.journalL < head + e.length)
      let s := if cross then
          s.regionWrite j.journal (jrnLedger + head)
            (fit (j.journalL - head) (le 2 0 ++ [0#8, 0#8] ++ le 4 (j.journalL - head) ++ le 8 a.step))
        else s
      let at_ := if cross then 0 else head
      let s := s.regionWrite j.journal (jrnLedger + at_) e
      let s := s.setFld .updLedger 0 32 ((at_ + e.length) % j.journalL) (pen - 1)
      (s.onJob pen (fun j => { j with cur := j.cur.map (fun a =>
        { a with ledger := a.ledger ++ [e], ledgerOff := if a.ledger.isEmpty then at_ else a.ledgerOff,
                 ledgerStart := if a.ledger.isEmpty then head else a.ledgerStart }) })).writeJournalHeader pen

/-- The ledger component digest of an attempt (R486): its entries in order; those of scope JOB only on rank 0. -/
def ledgerDigest (rank : Nat) (a : Attempt) : Word64 :=
  rangeDigest (blockIndex 0 roleLedger 0)
    (a.ledger.filter (fun e => decide (entryScope e = 0) || decide (rank = 0))).flatten

/-! ### Journal records -/

/-- The seed in force at a step: the one installed with the largest first step not above it, the later in order replacing
an equal one (R465, R476). -/
def seedAt (j : Job) (step : Nat) : Option SeedEntry :=
  j.seeds.foldl (fun acc e =>
    if e.first ≤ step then
      match acc with
      | none => some e
      | some b => if b.first ≤ e.first then some e else some b
    else acc) none

/-- A bit of a byte. -/
def bitIf (b : Bool) (i : Nat) : Nat := if b then 2 ^ i else 0

/-- The clk of stops that a bay's refresh and a port have held in the step (R336, R391). -/
def State.heldClk (s : State) (b : Nat) : Nat := min (2 ^ 32 - 1) (s.bay b).heldClk
def State.stopClk (s : State) (p : Nat) : Nat := min (2 ^ 32 - 1) (s.port p).stopClk.toNat

/-- The journal record of an attempt as written unsealed when its sweep completes (R491): the outcome fields are zero; the figures of the
pen's own bays and ports are those of this step. -/
def recordBytes (s : State) (pen : Nat) (j : Job) (a : Attempt) (seq : Nat) : List Byte :=
  let mode := s.reg .devMode
  let sealed_ := mode.getLsbD 0
  let seed := (seedAt j a.step).getD { first := 0, seed := 0#64, drawn := false }
  let slot (i : Nat) := SMap.find j.inputDigests (16 * a.step + i)
  let flags := bitIf (a.status.getLsbD 5) 0 + bitIf sealed_ 1 + bitIf (mode.getLsbD 1) 2 + bitIf (mode.getLsbD 2) 3 +
    bitIf j.strictAny 4 + bitIf a.halfSeen 5 + bitIf a.fenced 6 +
    bitIf (match j.snap with | some x => decide (x.step = a.step) | none => false) 7
  fit 0x1000
    (le 4 0x524A4541 ++ le 2 1 ++ [0#8] ++ le 1 flags ++ zeros 8 ++ le 4 a.attempt ++ le 1 j.class_ ++
      le 1 (s.fld .devMode 8 8) ++ le 2 j.rank ++ le 2 j.ranksM1 ++ le 2 j.tag ++ le 4 seq ++
      le 8 seed.seed.toNat ++ le 8 seed.first ++ fit 32 j.combHash ++ fit 32 j.programHash ++ fit 32 j.startFp ++
      zeros 32 ++ zeros 32 ++ zeros 8 ++ zeros 4 ++ le 4 j.rewinds ++
      fit 72 (a.timers.flatMap (fun t => le 8 t.toNat)) ++
      zeros 8 ++ zeros 4 ++ zeros 4 ++
      le 2 ((List.range 16).foldl (fun m i => m + bitIf (slot i).isSome i) 0) ++ zeros 6 ++
      (List.range 16).flatMap (fun i => le 8 ((slot i).getD 0#64).toNat) ++
      (List.range 12).flatMap (fun b => le 4 (if (s.pen pen).bays.getLsbD b then s.heldClk b else s.fld .hbmRefreshStat 0 32 b)) ++
      (List.range 12).flatMap (fun p => le 4 (if (s.pen pen).bays.getLsbD p then s.stopClk p else s.fld .xglStepStat 0 32 p)) ++
      le 8 a.siteMap.toNat ++
      (List.range 12).flatMap (fun p => le 1 (s.fld .xglPortStatus 4 8 p)) ++
      fit 32 j.logicalCombHash)

/-- Writes the record of an attempt unsealed (R491): the next sequence number, the ring slot, and the loss of an
unacknowledged record, once for the slot (R493). -/
def State.writeRecord (s : State) (pen : Nat) (a : Attempt) : State :=
  match s.job pen with
  | none => s
  | some j =>
    let seq := s.fld .updJournal 0 32 (pen - 1) + 1
    let lost := decide (j.journalN < seq) && decide (j.journalTop < seq) && decide (s.fld .updJrnAck 0 32 (pen - 1) < seq - j.journalN)
    let s := s.regionWrite j.journal (recordSlot j seq) (recordBytes s pen j a seq)
    let s := s.onJob pen (fun j => { j with journalTop := max j.journalTop seq })
    let s := s.setFld .updJournal 0 32 seq (pen - 1)
    let s := s.setFld .updJournal 48 1 1 (pen - 1)
    let s := if lost then (s.bump .updJournal 32 16 (pen - 1)).postPen pen 327 a.step [ef seq] else s
    s.writeJournalHeader pen

/-- The outcome fields of a record put into its bytes. -/
def sealFields (bs : List Byte) (a : Attempt) (v : Vote) (fp : List Byte) (timers : List Byte) : List Byte :=
  let bs := patch bs 0x008 (le 8 a.step)
  let bs := patch bs 0x090 fp
  let bs := patch bs 0x0B0 (fit 32 (a.digests.flatMap (fun d => le 8 d.toNat)))
  let bs := patch bs 0x0D0 (le 8 v.status.toNat)
  let bs := patch bs 0x0D8 (le 4 v.nonfinite)
  let bs := patch bs 0x0E0 timers
  let bs := patch bs 0x128 (le 8 a.ledgerOff)
  let bs := patch bs 0x130 (le 4 a.ledger.length)
  patch bs 0x134 (le 4 a.ledger.flatten.length)

/-- The fingerprint of an outcome payload (R487). -/
def fingerprint (v : Vote) : List Byte := fit 32 (v.digests.flatMap (fun d => le 8 d.toNat))

/-- The timers of the latest completed step as the record stores them (R452). -/
def State.timerBytes (s : State) (pen : Nat) : List Byte :=
  (List.range 9).flatMap (fun i => le 8 (s.fld .updPhase 0 64 (16 * (pen - 1) + i)))

/-- Completes the latest record at a cap (1) or a skip (2): outcome fields, state, seal (R492). -/
def State.sealRecord (s : State) (pen st : Nat) (a : Attempt) (v : Vote) : State :=
  match s.job pen with
  | none => s
  | some j =>
    let at_ := recordSlot j (s.fld .updJournal 0 32 (pen - 1))
    let bs := sealFields (s.regionRead j.journal at_ 0x1000) a v (fingerprint v) (s.timerBytes pen)
    let bs := (patch bs 0x006 (le 1 st)).take 0xFE0
    let s := s.regionWrite j.journal at_ (bs ++ sha256 bs)
    s.setFld .updJournal 48 1 0 (pen - 1)

/-- Leaves the latest record UNSEALED with its status filled in, at the end of a job (R492). -/
def State.endRecord (s : State) (pen : Nat) (a : Attempt) (v : Vote) : State :=
  match s.job pen with
  | none => s
  | some j =>
    if a.recorded then
      let at_ := recordSlot j (s.fld .updJournal 0 32 (pen - 1))
      s.regionWrite j.journal at_
        (patch (patch (s.regionRead j.journal at_ 0x1000) 0x008 (le 8 a.step)) 0x0D0 (le 8 v.status.toNat))
    else s

/-- Rolls the ledger area, and the record when it was written, back to the attempt's start (R39, R492). -/
def State.rollback (s : State) (pen : Nat) (a : Attempt) : State :=
  let s := if a.ledger.isEmpty then s else s.setFld .updLedger 0 32 a.ledgerStart (pen - 1)
  let s := if a.recorded then
      (s.setFld .updJournal 0 32 (s.fld .updJournal 0 32 (pen - 1) - 1) (pen - 1)).setFld .updJournal 48 1 0 (pen - 1)
    else s
  s.writeJournalHeader pen

/-- Writes a module's per-record digests into the digest table of a step (R498). -/
def State.writeTable (s : State) (pen step : Nat) (rows : List (List Word64)) : State :=
  match s.job pen with
  | none => s
  | some j =>
    s.regionWrite j.journal (jrnTables + 0x20000 * (step % 16))
      (fit 0x20000 (rows.flatMap (fun r => fit 32 (r.flatMap (fun d => le 8 d.toNat)))))

end Sys2Proof.Machine
end

