-- ==== Sys2Proof/Machine/Pins.lean ====
section
/-!
DEFINITION. What follows from the state at the module's boundary: the sideband outputs (R703, R704, R710) and the power
state and domains (R675 to R677, R686).
-/

namespace Sys2Proof.Machine

/-- Site states (R71). -/
def siteAbsent : Nat := 0
def siteFusedBad : Nat := 1
def siteRetired : Nat := 2
def siteSpare : Nat := 3
def siteActive : Nat := 4
def siteDoubled : Nat := 5
def siteUnderTest : Nat := 6
def siteFenced : Nat := 7
def siteIdle : Nat := 8

/-- The state of a site. -/
def State.site (s : State) (n : Nat) : Nat := s.fld .coreSiteState 0 4 n

/-- The stages of MGT_BOOT (R683). -/
def stageManagement : Nat := 0
def stageClocks : Nat := 1
def stageMemory : Nat := 2
def stageLinks : Nat := 3
def stageCompute : Nat := 4
def stageReady : Nat := 5
def stageFailed : Nat := 6
def stageComputeReset : Nat := 7

/-- The start-up stage. -/
def State.stage (s : State) : Nat := s.fld .mgtBoot 0 4

/-- The device is powered and past start-up (R666). -/
def State.atReady (s : State) : Bool :=
  decide (s.stage = stageReady) && (decide (s.power = .idle) || decide (s.power = .run))

/-- The tamper lock (R604). -/
def State.locked (s : State) : Bool := decide (s.fld .secTamper 7 1 = 1)

/-- READY is asserted (R703). -/
def State.readyOut (s : State) : Bool := s.atReady && !s.diesStopped && !s.locked && !s.computeReset

/-- FAULT_N is asserted (R703). -/
def State.faultOut (s : State) : Bool :=
  s.recovery || decide (s.stage = stageFailed) || decide (s.fld .pwrThermal 18 1 = 1) || s.locked

/-- The module drives its sideband outputs (R704): the always-on domain is up and PERST_N is not asserted. -/
def State.driving (s : State) : Bool := s.aonUp && !s.perst

/-- MGT_SIDEBAND brought up to date (R703, R704, R710).  An output of this module that is not low leaves its net high: no
other module pulls it (DESIGN CHOICE, log entry 13). -/
def State.refreshPins (s : State) : State :=
  let d := s.driving
  let ready := d && s.readyOut
  let fault := d && s.faultOut
  let alert := d && (decide (s.fld .pwrInput 48 1 = 1) || s.smbusMsg)
  let therm := d && decide (s.fld .pwrThermal 16 1 = 1)
  let silent := d && decide (s.fld .errSilent 0 1 = 1)
  let b (x : Bool) (i : Nat) : Nat := if x then 2 ^ i else 0
  s.setReg .mgtSideband (BitVec.ofNat 64
    (b ready 0 + b fault 1 + b alert 2 + b therm 3 + b silent 4 +
     b (ready || !d) 8 + b (!fault) 9 + b (!alert) 10 + b (!therm) 11 + b (!silent) 12 + b (!s.perst) 16))

/-- A pen's job is running (R675): between its first T0 and its end. -/
def State.penRuns (s : State) (p : Nat) : Bool := decide (s.fld .updJob 0 2 (p - 1) = 2)

/-- The bay that a power domain serves (R676). -/
def domainBay (d : Nat) : Nat :=
  if d < 168 then bayOfSite d else if d < 180 then d - 168 else if d < 192 then d - 180 else d - 192

/-- A power domain is on by the state of the module (R676, R677). -/
def State.domainOn (s : State) (d : Nat) : Bool :=
  let up := decide (s.power = .idle) || decide (s.power = .run)
  let bay := domainBay d
  let runs := s.penRuns (s.penOfBay bay) && decide (s.penOfBay bay ≠ 0)
  up && (if d < 168 then
      runs && (decide (s.site d = siteActive) || decide (s.site d = siteDoubled) || decide (s.site d = siteSpare) ||
        decide (s.site d = siteUnderTest))
    else if d < 180 then s.bayPresent bay
    else if d < 192 then runs && s.bayPresent bay
    else if d < 204 then s.bayPresent bay
    else true)

/-- A domain of a core site or an update unit of a running job, which switches only at a step boundary, load or unload of that
job (R44, R677). -/
def State.domainHeld (s : State) (boundary d : Nat) : Bool :=
  let p := s.penOfBay (domainBay d)
  (decide (d < 168) || (decide (180 ≤ d) && decide (d < 192))) && decide (p ≠ 0) && decide (p ≠ boundary) && s.penRuns p &&
  (decide (s.power = .idle) || decide (s.power = .run))

/-- A domain after the update: one that is held keeps, every other is as R677 says. -/
def State.domainNext (s : State) (boundary d : Nat) : Bool :=
  if s.domainHeld boundary d then decide (s.fld .pwrDomain (d % 64) 1 (d / 64) = 1) else s.domainOn d

/-- PWR_STATE and PWR_DOMAIN brought up to date (R675, R677, R686); `boundary` is the pen whose job is at a step boundary, a load
or an unload, 0 for none. -/
def State.refreshPower (s : State) (boundary : Nat := 0) : State :=
  let running := (List.range 12).any (fun i => s.penRuns (i + 1))
  let s := if s.power = .idle ∧ running then { s with power := .run }
    else if s.power = .run ∧ !running then { s with power := .idle } else s
  let mask := (List.range 12).foldl (fun m b =>
    m + (if s.penOfBay b ≠ 0 ∧ s.penRuns (s.penOfBay b) then 2 ^ b else 0)) 0
  let s := s.setFld .pwrState 0 2 (if s.power = .run then 3 else 2)
  let s := s.setFld .pwrState 16 12 mask
  (List.range 4).foldl (fun s i =>
    s.setReg .pwrDomain (BitVec.ofNat 64 ((List.range 64).foldl (fun m j =>
      m + (if 64 * i + j < 208 ∧ s.domainNext boundary (64 * i + j) then 2 ^ j else 0)) 0)) i) s

end Sys2Proof.Machine
end

