-- ==== Sys2Proof/Machine/LinkOps.lean ====
section
/-!
DEFINITION. The operations of the link layer that several families share: port states and widths (R345, R388), the keys of
a job (R360), the queues of a port (R367) and the wire form of a header (R356).
-/

namespace Sys2Proof.Machine

/-- Bits of the status word (R444). -/
def stNonfinite : Word64 := 1#64
def stOverflow : Word64 := 2#64
def stDigest : Word64 := 4#64
def stFault : Word64 := 8#64
def stPoison : Word64 := 16#64
def stStraggler : Word64 := 32#64
def stTerminal : Word64 := 64#64

/-- Status bits join the attempt that computes; while none does, or once its word is sent, they wait for the next (R444, R445;
DEDUCED, log entry 65). -/
def Job.addStatus (j : Job) (bits : Word64) : Job :=
  match j.cur with
  | some a => if a.wordSent then { j with statusNext := j.statusNext ||| bits } else { j with cur := some { a with status := a.status ||| bits } }
  | none => { j with statusNext := j.statusNext ||| bits }

/-- Sets bits of the status word of a pen's attempt (R444). -/
def State.orStatus (s : State) (pen : Nat) (bits : Word64) : State := s.onJob pen (fun j => j.addStatus bits)

/-- Port states (R388). -/
def portAbsent : Nat := 0
def portQuiet : Nat := 1
def portSettling : Nat := 2
def portTraining : Nat := 3
def portChecking : Nat := 4
def portUp : Nat := 5
def portRetraining : Nat := 6
def portDown : Nat := 7
def portIdle : Nat := 8

/-- The state of a port. -/
def State.portState (s : State) (p : Nat) : Nat := s.fld .xglPortStatus 0 4 p

/-- The state with a port's state set. -/
def State.setPortState (s : State) (p st : Nat) : State := s.setFld .xglPortStatus 0 4 st p

/-- The width that a set of good lanes gives: the largest of 8, 4 and 2 not above their number, else 0 (R345). -/
def widthOf (mask : BitVec 8) : Nat :=
  let n := ((List.range 8).filter (fun i => mask.getLsbD i)).length
  if 8 ≤ n then 8 else if 4 ≤ n then 4 else if 2 ≤ n then 2 else 0

/-- The lanes in use: the lowest good ones, as many as the width (R345). -/
def lanesInUse (mask : BitVec 8) : BitVec 8 :=
  let used := ((List.range 8).filter (fun i => mask.getLsbD i)).take (widthOf mask)
  BitVec.ofNat 8 (used.foldl (fun m i => m + 2 ^ i) 0)

/-- The pen that owns a port: the pen of its bay (R342). -/
def State.penOfPort (s : State) (p : Nat) : Nat := s.penOfBay p

/-- The ports of a pen that a loaded Comb image names are in use (R388). -/
def State.nameLinks (s : State) (pen : Nat) (named : List Nat) : State :=
  (s.baysOf pen).foldl (fun s p => s.setFld .xglPortStatus 14 1 (if named.contains p then 1 else 0) p) s

/-- The identity that a port sends (R350). -/
def State.ownIdentity (s : State) (p : Nat) : LinkIdentity :=
  { devId := BitVec.ofNat 16 (s.fld .xglDeviceId 0 16), idValid := decide (s.fld .xglDeviceId 16 1 = 1), port := p,
    part := BitVec.ofNat 16 (s.fld .devIdent 0 16), serial := Config.serial }

/-- A CONTROL operation joins those to send, with three copies (R350). -/
def State.sendCtl (s : State) (p : Nat) (c : Ctl) : State :=
  s.onPort p (fun x => { x with ctlOut := x.ctlOut ++ [(c, 3)] })

/-- A change of this module's device ID: every port that is UP sends a new IDENTITY (R377). -/
def State.announceId (s : State) : State :=
  (List.range 12).foldl (fun s p => if s.portState p = portUp then s.sendCtl p (.identity (s.ownIdentity p)) else s) s

/-- Posts a link event to PF0 and to the pen that owns the port (R392). -/
def State.postLink (s : State) (p code : Nat) (fields : List EvField) : State := s.postBoth (s.penOfPort p) code 0 (ef p :: fields)

/-- A job's route entry for a device: both nibbles; 0xFF for none (R362). -/
def routeOf (j : Job) (dev : Nat) : Nat := SMap.get (fun _ => 0xFF) j.route dev

/-- The primary and the alternate nibble of a route entry. -/
def routePrimary (r : Nat) : Nat := r % 16
def routeAlt (r : Nat) : Nat := r / 16 % 16

/-- This module's device ID. -/
def State.devId (s : State) : Nat := s.fld .xglDeviceId 0 16

/-- The port by which a message of a job leaves for a device, and whether that is the alternate route (R364): the
alternate only in Ledgered mode, with use_alt, and when the primary port is not UP. -/
def State.routeChoice (s : State) (j : Job) (dev : Nat) : Option (Nat × Bool) :=
  let r := routeOf j dev
  let pr := routePrimary r
  let al := routeAlt r
  if pr < 12 then
    if s.fld .devMode 1 1 = 1 ∧ j.useAlt ∧ s.portState pr ≠ portUp ∧ al < 12 then some (al, true) else some (pr, false)
  else none

/-- The DATA queue a message joins: its group's, or queue 64 (R367). -/
def dataQueue (m : LinkMsg) : Nat := if m.group < 64 then m.group else 64

/-- The slots of a message: its header and its data (R348). -/
def msgSlots (m : LinkMsg) : Nat := 1 + m.lines.length

/-- Puts a message at the end of its queue on a port (R367). -/
def XPort.enqueue (x : XPort) (m : LinkMsg) : XPort :=
  if m.vote then { x with voteQ := x.voteQ ++ [m] }
  else if m.mtype = 3 then { x with ackQ := x.ackQ ++ [m] }
  else
    let q := dataQueue m
    { x with dataQ := SMap.set (fun _ => []) x.dataQ q (SMap.get (fun _ => []) x.dataQ q ++ [m]) }

/-- A message of this module's own has no route (R364, R515): it is discarded with ROUTE_MISSING at the pen's lowest port, and the job's cause
and its fault and terminal bits are set. -/
def State.routeMissing (s : State) (pen dev : Nat) : State :=
  let p := (s.baysOf pen).headD 0
  (s.postLink p 378 [ef dev]).onJob pen (fun j =>
    let j := j.addStatus (stFault ||| stTerminal)
    if j.cause = 0 then { j with cause := 378, causeFields := [ef p, ef dev] } else j)

/-- Queues a message of this module's job for a device (R353: hop class 0). -/
def State.queueMsg (s : State) (pen dev : Nat) (m : LinkMsg) : State :=
  match s.job pen with
  | none => s
  | some j =>
    match s.routeChoice j dev with
    | none => s.routeMissing pen dev
    | some (p, alt) =>
      s.onPort p (fun x => x.enqueue { m with
        jobTag := BitVec.ofNat 16 j.tag, srcDev := BitVec.ofNat 16 s.devId, dstDev := BitVec.ofNat 16 dev,
        srcPort := p, alt := alt, hop := 0 })

/-- The key of a sending key: its port and its destination (R360). -/
def txKeyIx (port dev : Nat) : Nat := port * 65536 + dev

/-- The key of a receiving key: the sending device and its port (R360). -/
def rxKeyIx (dev port : Nat) : Nat := dev * 16 + port

/-- The message key of a direction: the KDF of R360 over the job's link key. -/
def msgKey (link : List Byte) (tag srcDev srcPort dstDev : Nat) : List Byte :=
  kdfCounter link [0x58#8, 0x47#8, 0x4C#8, 0x31#8] (le 2 tag ++ le 2 srcDev ++ le 1 srcPort ++ le 2 dstDev)

/-- The 48 bytes of associated data of a header (R356, R360): bytes 0x0D and 0x0F taken as zero. -/
def msgAad (m : LinkMsg) : List Byte :=
  le 1 m.mtype ++ le 1 m.lines.length ++
  le 1 (bitIfB m.last 0 + bitIfB m.sigDone 1 + bitIfB m.sigBlk 2 + bitIfB m.vote 3) ++ le 1 m.group ++
  le 2 m.jobTag.toNat ++ le 2 m.srcDev.toNat ++ le 2 m.dstDev.toNat ++ le 1 m.srcPort ++ le 1 m.target ++
  le 1 m.doneCtr ++ [0#8] ++ le 1 m.blkCtr ++ [0#8] ++ le 8 m.dstVa ++ le 8 m.ctr ++ le 4 m.xfer.toNat ++
  le 4 m.doneAdd.toNat ++ le 8 m.mask.toNat
where
  bitIfB (b : Bool) (i : Nat) : Nat := if b then 2 ^ i else 0

/-- The initialisation vector of a message: four zero bytes and the counter (R360). -/
def msgIv (m : LinkMsg) : List Byte := zeros 4 ++ le 8 m.ctr

/-- A message encrypted and tagged under a key (R360). -/
def msgSeal (m : LinkMsg) (key : List Byte) : LinkMsg :=
  let ct := gcmCrypt key (msgIv m) m.lines.flatten
  { m with lines := chunks 64 ct, tag := gcmTag key (msgIv m) (msgAad m) ct }

/-- The plain lines of a message whose tag verifies under a key. -/
def msgOpen (m : LinkMsg) (key : List Byte) : Option (List (List Byte)) :=
  (gcmOpen key (msgIv m) (msgAad m) m.lines.flatten m.tag).map (chunks 64)

/-- The rank's children in the radix-8 tree of m ranks, and its parent (R409). -/
def treeKids (r m : Nat) : List Nat := ((List.range 8).map (fun i => 8 * r + 1 + i)).filter (fun k => decide (k < m))
def treeParent (r : Nat) : Nat := (r - 1) / 8

/-- The device of a rank. -/
def rankDevOf (j : Job) (r : Nat) : Nat := j.rankDev.getD r 0

/-- The payload line of a vote (R446). -/
def voteLine (v : Vote) : List Byte :=
  fit 64 (le 8 v.step ++ le 4 v.attempt ++ le 4 v.nonfinite ++ le 8 v.status.toNat ++
    fit 32 (v.digests.flatMap (fun d => le 8 d.toNat)))

/-- Queues a vote message to a rank (R446): a WRITE of one line with flags.vote, ungrouped, to address 0. -/
def State.sendVote (s : State) (pen rank : Nat) (line : List Byte) : State :=
  match s.job pen with
  | none => s
  | some j =>
    s.queueMsg pen (rankDevOf j rank)
      { mtype := 1, vote := true, last := true, group := 0x7F, jobTag := 0#16, srcDev := 0#16, dstDev := 0#16,
        srcPort := 0, lines := [line] }

end Sys2Proof.Machine
end

