-- ==== Sys2Proof/Machine/Vote.lean ====
section
/-!
DEFINITION. The step status word and the commit vote as operations the families share: setting status bits (R444, R515),
faults of a program (R266), sending the word (R445), combining payloads (R446), and the outcomes cap, skip, rewind and end
(R447 to R450, R516 to R518).
-/

namespace Sys2Proof.Machine

/-- Cause and event codes (R535, R631). -/
def evJobEnded : Nat := 260
def evStepRewound : Nat := 259
def evStepCapped : Nat := 320
def evStepSkipped : Nat := 321
def evProgramFault : Nat := 322
def evLedgerMismatch : Nat := 323
def evSeedMissing : Nat := 324
def evUpdateWindow : Nat := 325
def evPoisonConsumed : Nat := 326
def evGridExhausted : Nat := 341
def evLinkLost : Nat := 374
def evModuleLost : Nat := 496
def evAdoptImageFail : Nat := 497
def evRewindLimit : Nat := 498
def evPenReset : Nat := 499
def evAborted : Nat := 500
def evCkptDone : Nat := 272

/-- The step of a pen's attempt, for the events. -/
def State.stepOf (s : State) (pen : Nat) : Nat :=
  match s.job pen with
  | some j => match j.cur with
    | some a => a.step
    | none => match j.voting with | some a => a.step | none => j.nextStep
  | none => 0

/-- The cores of a job: those with a program image. -/
def State.jobCores (s : State) (pen : Nat) : List Nat :=
  match s.job pen with
  | some j => (List.range 144).filter (fun c => decide (SMap.get (fun _ => 0xFF) j.coreImage c ≠ 0xFF))
  | none => []

/-- Stops every unit of a pen's job and discards its work in flight (R509, R518): sequencers, movers, matrix engines,
packets. -/
def State.stopUnits (s : State) (pen : Nat) : State :=
  let s := (s.jobCores pen).foldl (fun s c => s.onCore (coreKey pen c) (fun x =>
    { x with run := .idle, mx := {}, mov := [], loops := [] })) s
  { s with packets := s.packets.filter (fun p => decide (p.pen ≠ pen)) }

/-- Removes a job's messages from a port's queues. -/
def XPort.purge (x : XPort) (tag : Nat) : XPort :=
  let keep (m : LinkMsg) := decide (m.jobTag.toNat ≠ tag)
  { x with voteQ := x.voteQ.filter keep, ackQ := x.ackQ.filter keep,
           dataQ := (x.dataQ.map (fun kv => (kv.1, kv.2.filter keep))).filter (fun kv => !kv.2.isEmpty) }

/-- Removes a job's messages that are queued and not sent from the pen's ports (R370, R516). -/
def State.purgePorts (s : State) (pen tag : Nat) : State :=
  (s.baysOf pen).foldl (fun s p => s.onPort p (fun x => x.purge tag)) s

/-- Removes the DATA messages of a job that this module has queued and not sent. -/
def XPort.purgeOwn (x : XPort) (tag dev : Nat) : XPort :=
  { x with dataQ := (x.dataQ.map (fun kv => (kv.1, kv.2.filter (fun m =>
      decide (m.jobTag.toNat ≠ tag) || decide (m.srcDev.toNat ≠ dev))))).filter (fun kv => !kv.2.isEmpty) }

/-- Removes the DATA messages of this module's job that its ports have queued and not sent. -/
def State.purgeOwnData (s : State) (pen : Nat) : State :=
  (s.baysOf pen).foldl (fun s b => s.onPort b (fun x => x.purgeOwn (s.jobD pen).tag s.devId)) s

/-- A discarded attempt's collective state goes (R415): members that its close listed as carried are to be carried again. -/
def GroupRx.discard (x : GroupRx) : GroupRx :=
  { x with chunks := [], order := [], closed := false, total := 0,
           owed := if x.closed then [] else x.owed, late := if x.closed then [] else x.late,
           carriedNext := if x.closed then x.carriedIn else x.carriedNext, carriedIn := [] }

/-- The same for the attempt before a discarded run-ahead attempt. -/
def GroupRx.discardPrev (x : GroupRx) : GroupRx :=
  match x.prevIn with
  | some l => { x with owed := [], late := [], carriedNext := l, prevIn := none }
  | none => x

/-- A step starts: groups may close again (R410). -/
def GroupRx.begin (x : GroupRx) : GroupRx :=
  if x.closed then { x with closed := false, carriedIn := [], prevIn := some x.carriedIn } else { x with prevIn := none }

/-- Every group's reception of a pen's job changed. -/
def State.onGroups (s : State) (pen : Nat) (f : GroupRx → GroupRx) : State :=
  s.onJob pen (fun j => { j with
    groupRx := (j.groupRx.map (fun kv => (kv.1, f kv.2))).filter (fun kv => decide (kv.2 ≠ {})) })

/-- UPD_LEDGER.imported: the imported entries that no attempt has consumed (R506). -/
def State.importedReg (s : State) (pen : Nat) : State :=
  let j := s.jobD pen
  let used (o : Option Attempt) : Nat := (o.map Attempt.consumed).getD 0
  s.setFld .updLedger 32 16 (min 65535 (j.imported.length - j.usedImports - used j.cur - used j.voting)) (pen - 1)

/-- DEV_MODE.replay: some job on the device consumes a ledger (R36). -/
def State.replayReg (s : State) : State :=
  s.setFld .devMode 2 1 (if ((List.range 12).any (fun i => (s.jobD (i + 1)).replay)) then 1 else 0)

/-- UPD_JOB and UPD_STEP brought up to date (R456, R457). -/
def State.jobRegs (s : State) (pen : Nat) : State :=
  match s.job pen with
  | none => s
  | some j =>
    let s := if j.replay then s.importedReg pen else s
    let s := s.setFld .updJob 3 1 (if j.voting.isSome ∧ j.cur.isSome then 1 else 0) (pen - 1)
    let s := s.setFld .updJob 7 1 (if j.resync then 1 else 0) (pen - 1)
    let s := s.setFld .updJob 32 32 ((j.cur.map Attempt.attempt).getD (s.fld .updJob 32 32 (pen - 1))) (pen - 1)
    match j.cur with
    | some a => s.setFld .updStep 0 64 a.step (pen - 1)
    | none => s

/-- CKPT_DONE: step, ckpt_id, status, bytes written (R567). -/
def State.postCkptDone (s : State) (pen step status bytes : Nat) (id : List Byte) : State :=
  (s.postPen pen evCkptDone step [ef step, .d (fit 32 id), ef status, ef bytes]).setFld .updCkptStat 0 8 status (pen - 1)

/-- The end of a job on this module (R518): its units stop, the record stays UNSEALED, an armed checkpoint is cancelled
(R549), the collectives' state and the ledger entries of its attempts go (R415), the job link key ends (R581), JOB_ENDED is posted with the
cause and its own fields. -/
def State.jobEnd (s : State) (pen cause : Nat) (fields : List EvField) (a : Option Attempt) (status : Word64) : State :=
  match s.job pen with
  | none => s
  | some j =>
    let s := s.stopUnits pen
    let s := match a with
      | some a => s.endRecord pen a { step := a.step, attempt := a.attempt, nonfinite := 0, status := status, digests := [] }
      | none => s
    let step := (a.map Attempt.step).getD j.nextStep
    let s := match j.ckpt with
      | some c => (s.postCkptDone pen c.step 3 0 []).setFld .updCkpt 0 2 0 (pen - 1)
      | none => s
    let s := s.purgePorts pen j.tag
    let s := [j.cur, j.voting].foldl (fun s o => match o with
      | some x => if x.ledger.isEmpty then s else (s.setFld .updLedger 0 32 x.ledgerStart (pen - 1)).writeJournalHeader pen
      | none => s) s
    let s := s.onJob pen (fun j => { j with groupRx := [], figures := none, cur := none, voting := none, linkKey := none, ckpt := none, ckptRun := none, replay := false,
                                            draining := false, resync := false, resyncSelf := false, resyncSent := false, resyncOut := false, resyncKids := [],
                                            earlyKids := [], turn := none, stopped := none,
                                            holdRound := false, fenceHold := false, adopting := [], replayRun := false })
    let s := s.setFld .updJob 0 2 3 (pen - 1)
    let s := s.setFld .updJob 3 1 0 (pen - 1)
    let s := s.setFld .updJob 4 3 4 (pen - 1)
    let s := s.setFld .updJob 7 1 0 (pen - 1)
    let s := s.setFld .corePenProg 0 2 1 (pen - 1)
    let s := s.postBoth pen evJobEnded step (ef step :: ef cause :: fields)
    s.replayReg.refreshPower

/-! ### The outcome -/

/-- Raises the vote gate of the attempt being computed: +1 to gate_ctr of every logical core of the job, once its entry
bundle has issued and no earlier vote is outstanding (R433, R449). -/
def State.raiseGate (s : State) (pen : Nat) : State :=
  match s.job pen with
  | none => s
  | some j =>
    match j.cur, j.voting with
    | some a, none =>
      if a.phase ≠ .start ∧ !a.gateRaised ∧ !a.wordSent then
        let g := j.plan.gateCtr
        let s := (s.jobCores pen).foldl (fun s c => s.onCore (coreKey pen c) (fun x =>
          { x with ctr := SMap.set (fun _ => 0#32) x.ctr g (SMap.get (fun _ => 0#32) x.ctr g + 1#32) })) s
        s.onJob pen (fun j => { j with cur := j.cur.map (fun a => { a with gateRaised := true }) })
      else s
    | _, _ => s

/-- The attempt whose vote runs: the outstanding one, else the one being computed once its word is sent. -/
def votingAttempt (j : Job) : Option Attempt :=
  match j.voting with
  | some a => some a
  | none => match j.cur with
    | some a => if a.wordSent then some a else none
    | none => none

/-- The job with the voted attempt gone. -/
def dropVoting (j : Job) : Job :=
  match j.voting with
  | some _ => { j with voting := none }
  | none => { j with cur := none }

/-- The job with the attempt of the vote changed. -/
def onVoting (j : Job) (f : Attempt → Attempt) : Job :=
  match j.voting with
  | some a => { j with voting := some (f a) }
  | none => { j with cur := j.cur.map f }

/-- The phase timers as an attempt's sweep is complete: free counts (R452; DESIGN CHOICE, log entry 3). -/
def State.sweepTimers (s : State) (pen : Nat) : State :=
  let r := (List.range 9).foldl (fun (acc : State × List Word64) _ => let d := acc.1.draw; (d.2, acc.2 ++ [d.1])) (s, [])
  r.1.onJob pen (fun j => { j with cur := j.cur.map (fun a => { a with timers := r.2 }) })

/-- Sets the nine phase timers of a step that has completed, capped or skipped: the phases that had ended with its
sweep keep their counts, the others are free counts (R452; DESIGN CHOICE, log entry 3). -/
def State.setTimers (s : State) (pen : Nat) (a : Attempt) : State :=
  (List.range 9).foldl (fun s i =>
    match (if i ≤ 3 then a.timers[i]? else none) with
    | some t => s.setReg .updPhase t (16 * (pen - 1) + i)
    | none => s.setFree .updPhase 0 64 (16 * (pen - 1) + i)) s

/-- The bytes of an element format (R74). -/
def fmtSize : Fmt → Nat
  | .fp32 | .int32 => 4
  | .bf16 | .fp16 | .int16 => 2
  | .e4m3 | .e5m2 | .int8 => 1

/-- The end of a snapshot's data: every fp_owner PARAM record, each from a 4 KiB boundary (R453). -/
def snapDataEnd (p : Plan) : Nat :=
  (p.recs.filter (fun r => !r.isMetric && r.fpOwner)).foldl
    (fun off r => (off + 0xFFF) / 0x1000 * 0x1000 + r.elems * fmtSize r.pfmt) 0

/-- The offset of a snapshot's trailer: the next whole line (R453; DEDUCED, log entry 14). -/
def snapTrailerOff (p : Plan) : Nat := (snapDataEnd p + 63) / 64 * 64

/-- Bytes as whole lines of 64, each poisoned when one of its bytes is. -/
def linesOf (bs : List (Byte × Bool)) : List (List Byte × Bool) := (chunks 64 bs).map (fun l => (fit 64 (l.map Prod.fst), l.any Prod.snd))

/-- The bits of a mask word, line 0 first. -/
def maskBits (bs : List Bool) : Word64 :=
  BitVec.ofNat 64 (bs.foldr (fun b n => (if b then 1 else 0) + 2 * n) 0)

/-- Writes bytes to a peer module by ungrouped WRITE messages of at most 64 lines, with the poison of each line (R318, R453, R559). -/
def State.remoteWrite (s : State) (pen dev va : Nat) (bs : List (Byte × Bool)) : State :=
  let parts := chunks 64 (linesOf bs)
  (parts.zip (List.range parts.length)).foldl (fun s (pl : List (List Byte × Bool) × Nat) =>
    s.queueMsg pen dev
      { mtype := 1, last := decide (pl.2 + 1 = parts.length), group := 0x7F, jobTag := 0#16,
        srcDev := 0#16, dstDev := 0#16, srcPort := 0, dstVa := va + 4096 * pl.2,
        mask := maskBits (pl.1.map Prod.snd), lines := pl.1.map Prod.fst }) s

/-- Writes whole lines of a snapshot to its destination (R453). -/
def State.snapWrite (s : State) (pen : Nat) (sn : SnapArm) (off : Nat) (bs : List Byte) : State :=
  match sn.peer with
  | none => s.vaWrite pen (sn.va + off) bs
  | some dev => s.remoteWrite pen dev (sn.va + off) (bs.map (fun b => (b, false)))

/-- The snapshot trailer of a step: step, attempt, state byte, fingerprint (R453; DEDUCED, log entry 14), and what follows: a cap
ends the snapshot, a skip arms it for the next step. -/
def State.snapOutcome (s : State) (pen st : Nat) (a : Attempt) (v : Vote) : State :=
  match s.job pen with
  | none => s
  | some j =>
    match j.snap with
    | none => s
    | some sn =>
      if sn.step = a.step ∧ sn.written then
        let s := s.snapWrite pen sn (snapTrailerOff j.plan)
          (fit 64 (le 8 a.step ++ le 4 a.attempt ++ le 1 st ++ fingerprint v))
        if st = 1 then
          (s.onJob pen (fun j => { j with snap := none })).setReg .updSnap
            (BitVec.ofNat 64 (2 + 4 + 256 * (a.step % 2 ^ 56))) (pen - 1)
        else
          (s.onJob pen (fun j => { j with snap := some { sn with step := a.step + 1, written := false } })).setReg .updSnap
            (BitVec.ofNat 64 (1 + 256 * ((a.step + 1) % 2 ^ 56))) (pen - 1)
      else s

/-- Discards a run-ahead attempt (R449 order 3, R450): units stop, its ledger entries go, its clk are counted. -/
def State.discardRunAhead (s : State) (pen : Nat) (afterSkip : Bool) : State :=
  match s.job pen with
  | none => s
  | some j =>
    match j.cur with
    | none => s
    | some a =>
      let s := ((s.stopUnits pen).purgeOwnData pen).onGroups pen GroupRx.discard
      let s := s.rollback pen a
      let s := (s.setFree .updDiscard 0 32 (pen - 1)).setFld .corePenProg 0 2 1 (pen - 1)
      let s := if afterSkip then s.bump .updDiscard 32 16 (pen - 1) else s
      s.onJob pen (fun j => { j with cur := none, nextStep := a.step, boundaryDue := true,
                                     cause := if j.aborting then j.cause else 0, causeFields := if j.aborting then j.causeFields else [] })

/-- The figures of the step that runs or ran last (R336, R391, R419, R459). -/
def State.figuresNow (s : State) (pen : Nat) : List (Nat × Word64 × Word64 × Word64) × List (Nat × Nat) :=
  ((s.baysOf pen).map (fun b =>
    let q := s.port b
    let u := s.unit b
    (b, BitVec.ofNat 64 (s.heldClk b + 2 ^ 32 * min (2 ^ 32 - 1) (s.bay b).refreshes),
      BitVec.ofNat 64 (s.stopClk b + 2 ^ 32 * (q.ackRecord.length % 2 ^ 17) + bitIf q.overflow 49),
      BitVec.ofNat 64 (min (2 ^ 32 - 1) u.elements + 2 ^ 32 * min (2 ^ 16 - 1) u.nonfinite))),
   (List.range 64).map (fun g => (g, min (2 ^ 32 - 1) (SMap.get (fun _ => ({} : GroupRx)) (s.jobD pen).groupRx g).total)))

/-- The attempt whose word is out gives its figures over: the next one counts from zero. -/
def State.keepFigures (s : State) (pen : Nat) : State :=
  let f := s.figuresNow pen
  (s.onGroups pen (fun x => { x with total := 0 })).onJob pen (fun j => { j with figures := some f })

/-- A step has completed: its figures take their registers, with the traffic of its network (R297, R336, R391, R419, R459). -/
def State.stepFigures (s : State) (pen : Nat) : State :=
  let s := if (s.jobD pen).figures.isSome then s else s.keepFigures pen
  let f := (s.jobD pen).figures.getD ([], [])
  let s := f.1.foldl (fun s x => ((s.setReg .hbmRefreshStat x.2.1 x.1).setReg .xglStepStat x.2.2.1 x.1).setReg .updUnit x.2.2.2 x.1) s
  let s := f.2.foldl (fun s x => s.setFld .xglGroupStat 0 32 x.2 (64 * (pen - 1) + x.1)) s
  ((s.setFree .netPenTraffic 0 32 (pen - 1)).setFree .netPenTraffic 32 32 (pen - 1)).onJob pen (fun j => { j with figures := none })

/-- What a cap and a skip share: the step is decided (R421), a checkpoint armed for it holds the next T0 (R553). -/
def State.decideStep (s : State) (pen : Nat) (a : Attempt) : State :=
  s.onJob pen (fun j => { (dropVoting j) with decided := a.step + 1, rewinds := 0, usedImports := j.usedImports + a.consumed,
                                              holdRound := match j.ckpt with | some c => decide (c.step = a.step) | none => j.holdRound })

/-- The capped outcome, in the order of R448. -/
def State.applyCap (s : State) (pen : Nat) (a : Attempt) (v : Vote) : State :=
  let s := (s.setTimers pen a).setFld .updJob 2 1 (1 - s.fld .updJob 2 1 (pen - 1)) (pen - 1)
  let s := s.sealRecord pen 1 a v
  let s := s.snapOutcome pen 1 a v
  let s := (s.stepFigures pen).decideStep pen a
  let s := s.onJob pen (fun j => { j with startFp := fingerprint v })
  let s := s.raiseGate pen
  let s := s.setFld .updJob 4 3 1 (pen - 1)
  (s.postPen pen evStepCapped a.step
    [ef a.step, ef a.attempt, .d (fingerprint v), ef (if v.status &&& stStraggler = 0#64 then 0 else 1)]).jobRegs pen

/-- The skipped outcome (R449): bank kept, record sealed, run-ahead work discarded, the drain begins. -/
def State.applySkip (s : State) (pen : Nat) (a : Attempt) (v : Vote) : State :=
  let ahead := match s.job pen with | some j => j.voting.isSome && j.cur.isSome | none => false
  let s := (s.setTimers pen a).sealRecord pen 2 a v
  let s := (s.snapOutcome pen 2 a v).stepFigures pen
  let s := if ahead then s.discardRunAhead pen true else s
  let s := if ahead then s.onJob pen (fun j => { j with voting := none }) else s.onJob pen dropVoting
  let s := s.onJob pen (fun j => { j with decided := a.step + 1, rewinds := 0, usedImports := j.usedImports + a.consumed, draining := true,
                                          holdRound := match j.ckpt with | some c => decide (c.step = a.step) | none => j.holdRound })
  let s := s.setFld .updJob 4 3 2 (pen - 1)
  (s.postPen pen evStepSkipped a.step [ef a.step, ef a.attempt, .d (fingerprint v)]).jobRegs pen

/-- The group rewind (R450, R516), or the end at the fourth (R517). -/
def State.applyRewind (s : State) (pen : Nat) (a : Attempt) (v : Vote) : State :=
  match s.job pen with
  | none => s
  | some j =>
    if 3 ≤ j.rewinds then s.jobEnd pen evRewindLimit [] (some a) v.status
    else
      let s := s.postBoth pen evStepRewound a.step [ef a.step, ef a.attempt, ef v.status.toNat]
      let ahead := j.voting.isSome && j.cur.isSome
      let s := if ahead then s.discardRunAhead pen false else s
      let s := ((s.stopUnits pen).purgeOwnData pen).onGroups pen (if ahead then GroupRx.discardPrev else GroupRx.discard)
      let s := (s.rollback pen a).setFld .corePenProg 0 2 1 (pen - 1)
      let s := s.bump .updDiscard 48 16 (pen - 1)
      let s := s.onJob pen (fun j => { j with cur := none, voting := none, nextStep := a.step, rewinds := j.rewinds + 1, figures := none,
                                              draining := true, snap := j.snap.map (fun x => { x with written := false }) })
      let s := (s.setFld .updJob 4 3 3 (pen - 1)).setFld .updSnap 1 1 (if j.snap.isSome then 0 else s.fld .updSnap 1 1 (pen - 1)) (pen - 1)
      s.jobRegs pen

/-- Applies the combined payload of a vote: the first row of R447 that matches; a module whose abort came after its word
ends here (R644).  The cause of an end that another module called is not in the payload: a free value (DESIGN CHOICE, log entry
3). -/
def State.applyOutcome (s : State) (pen : Nat) (v : Vote) : State :=
  match s.job pen with
  | none => s
  | some j =>
    match votingAttempt j with
    | none => s
    | some a =>
      let s := s.setReg .updStatus v.status (pen - 1)
      let s := s.setFld .updCount 0 32 v.nonfinite (pen - 1)
      let s := s.setFld .updCount 32 32 (min a.nonfinite 0xFFFFFFFF) (pen - 1)
      let has (b : Word64) : Bool := decide (v.status &&& b ≠ 0#64)
      if has stTerminal || j.aborting then
        if j.cause = 0 then
          let r := s.drawNat 16
          r.2.jobEnd pen r.1 [] (some a) v.status
        else s.jobEnd pen j.cause j.causeFields (some a) v.status
      else if has stPoison then
        (s.postBoth pen evPoisonConsumed a.step [ef a.step]).jobEnd pen evPoisonConsumed [] (some a) v.status
      else if has stFault || has stDigest then s.applyRewind pen a v
      else if has stNonfinite || has stOverflow then s.applySkip pen a v
      else s.applyCap pen a v

/-! ### The vote -/

/-- This module's own payload (R446). -/
def ownVote (a : Attempt) : Vote :=
  { step := a.step, attempt := a.attempt, nonfinite := min a.nonfinite 0xFFFFFFFF, status := a.status,
    digests := a.digests }

/-- Two payloads combined (R446): sums saturate, status words OR, digests XOR. -/
def combineVote (x y : Vote) : Vote :=
  { x with nonfinite := min (x.nonfinite + y.nonfinite) 0xFFFFFFFF, status := x.status ||| y.status,
           digests := List.zipWith (fun a b => a ^^^ b) x.digests y.digests }

/-- Sends the outcome to the module's children (R446). -/
def State.forwardOutcome (s : State) (pen : Nat) (j : Job) (line : List Byte) : State :=
  (treeKids j.rank (j.ranksM1 + 1)).foldl (fun s r => s.sendVote pen r line) s

/-- The vote moves on when this module's word and every child's payload are in: rank 0 has the outcome, any other rank
sends the combination to its parent (R446). -/
def State.voteOnce (s : State) (pen : Nat) : State :=
  match s.job pen with
  | none => s
  | some j =>
    match votingAttempt j with
    | none => s
    | some a =>
      let kids := treeKids j.rank (j.ranksM1 + 1)
      if a.wordSent ∧ !a.sentUp ∧ kids.all (fun k => a.kids.any (fun q => decide (q.1 = k))) then
        let v := a.kids.foldl (fun v q => combineVote v q.2) (ownVote a)
        if j.rank = 0 then (s.forwardOutcome pen j (voteLine v)).applyOutcome pen v
        else
          let s := s.sendVote pen (treeParent j.rank) (voteLine v)
          s.onJob pen (fun j => onVoting j (fun a => { a with sentUp := true }))
      else s

/-- The vote moves on; after an outcome the next attempt's word may be waiting already. -/
def State.voteMove (s : State) (pen : Nat) : State := (s.voteOnce pen).voteOnce pen

/-- Sends the status word of the attempt being computed (R445). -/
def State.sendWord (s : State) (pen : Nat) : State :=
  let s := s.onJob pen (fun j => { j with boundaryDue := true,
                                          cur := j.cur.map (fun a => { a with wordSent := true, phase := .voteWait }) })
  s.voteMove pen

/-! ### Faults -/

/-- A cause that ends the job (R515): fault and terminal bits, the units stop, the word is sent at once (R445).  A module
that has already sent its word ends at the outcome (R644); a job with no attempt ends at once. -/
def State.terminal (s : State) (pen cause : Nat) (fields : List EvField) : State :=
  match s.job pen with
  | none => s
  | some j =>
    let j1 := if j.cause = 0 then { j with cause := cause, causeFields := fields } else j
    let s := s.setJob pen (some j1)
    match j.cur, j.voting with
    | none, none => s.jobEnd pen j1.cause j1.causeFields none (stFault ||| stTerminal)
    | none, some _ => s.onJob pen (fun j => { j with aborting := true })
    | some a, _ =>
      if a.wordSent then s.onJob pen (fun j => { j with aborting := true })
      else ((s.orStatus pen (stFault ||| stTerminal)).stopUnits pen).sendWord pen

/-- The slot of a fault (R267). -/
def slotControl : Nat := 0
def slotMatrix : Nat := 1
def slotVector : Nat := 2
def slotMove : Nat := 3

/-- PROGRAM_FAULT of a cause (R266, R267): CORE_FAULT_LAST, the event with logical core, bundle, slot and cause, and the
end of the job (R515). -/
def State.progFault (s : State) (pen logical bundle slot cause : Nat) (extra : List EvField := []) : State :=
  let s := s.setReg .coreFaultLast
    (BitVec.ofNat 64 (cause % 256 + logical % 256 * 2 ^ 8 + bundle % 2 ^ 14 * 2 ^ 16 + slot % 4 * 2 ^ 30 + 2 ^ 63)) (pen - 1)
  let fields := [ef logical, ef bundle, ef slot, ef cause] ++ extra
  let s := s.postBoth pen evProgramFault (s.stepOf pen) fields
  s.terminal pen evProgramFault fields

/-- A silent error (R508): ERR_SILENT, its event, and SILENT_ERR_N. -/
def State.silentError (s : State) (detector bay dev pen who : Nat) : State :=
  let s := s.setFld .errSilent 0 1 1
  let s := s.setFld .errSilent 8 8 detector
  let s := s.setFld .errSilent 16 4 bay
  let s := s.setFld .errSilent 32 16 dev
  let s := s.bump .errSilent 48 16
  (s.postBoth pen 269 (s.stepOf pen) [ef detector, ef bay, ef who]).refreshPins

end Sys2Proof.Machine
end

