-- ==== Sys2Proof/Machine/Keep.lean ====
section
/-!
DEFINITION. The keep store (R668 to R671): its words, its writes, which wait their turn, and the retirement ledger.
-/

namespace Sys2Proof.Machine

/-- What a word of a factory-blank keep store holds (R668): the reset values of the registers it keeps, else 0. -/
def keepDefault (w : Nat) : Word64 :=
  if w = 0xA then RegName.xglPolicy.resetAt 0 0
  else if w = 0xB then RegName.hbmRetireCfg.resetAt 0 0
  else if w = 0xC then RegName.errPolicy.resetAt 0 0
  else if 0x10 ≤ w ∧ w ≤ 0x25 then RegName.errWxThresh.resetAt 0 (w - 0xF)
  else 0#64

/-- A word of the keep store. -/
def State.keepWord (s : State) (w : Nat) : Word64 := SMap.get keepDefault s.keep w

/-- A word as it will be when every waiting write is done. -/
def State.keepNext (s : State) (w : Nat) : Word64 :=
  match s.keepQ.reverse.find? (fun q => decide (q.1 = w)) with
  | some q => q.2
  | none => s.keepWord w

/-- The writes after which a word is read-only (R671). -/
def wearMax : Nat := 100000

/-- The writes a word has had, and whether it is worn out. -/
def State.wearOf (s : State) (w : Nat) : Nat := SMap.get (fun _ => 0) s.wear w
def State.worn (s : State) (w : Nat) : Bool := decide (wearMax ≤ s.wearOf w)

/-- A write of a word joins the queue (R670). -/
def State.keepWrite (s : State) (w : Nat) (x : Word64) : State := { s with keepQ := s.keepQ ++ [(w, x)] }

/-- The write at the head of the queue is done (R670, R671): one that changes nothing is not performed; one to a worn word
raises KEEP_WORN. -/
def State.keepDone (s : State) : State :=
  match s.keepQ with
  | [] => s
  | (w, x) :: t =>
    let s := { s with keepQ := t }
    if s.keepWord w = x then s
    else if s.worn w then s.post 0 401 0 [ef w]
    else { s with keep := SMap.set keepDefault s.keep w x, wear := SMap.set (fun _ => 0) s.wear w (s.wearOf w + 1) }

/-- The words of the ledger (R668). -/
def ledgerBase : Nat := 0x100
def ledgerWords : Nat := 768

/-- The boot count (R668). -/
def State.bootCount (s : State) : Nat := (s.keepNext 0).toNat

/-- A ledger entry: its kind and fields, with the boot count (R669). -/
def State.ledgerWord (s : State) (fields : Nat) : Word64 := BitVec.ofNat 64 (fields % 2 ^ 48 + s.bootCount % 2 ^ 16 * 2 ^ 48)

/-- The ledger holds an entry with given fields, whatever its boot count. -/
def State.inLedger (s : State) (fields : Nat) : Bool :=
  (List.range ledgerWords).any (fun i => decide ((s.keepNext (ledgerBase + i)).toNat % 2 ^ 48 = fields)) ||
  s.heldRetire.any (fun x => decide (x.toNat % 2 ^ 48 = fields))

/-- A retirement is written into the lowest empty word that is not worn, unless the ledger holds it; with no such word it is
held, and LEDGER_FULL names it (R669). -/
def State.ledgerRetire (s : State) (fields : Nat) (names : List Nat) : State :=
  let x := s.ledgerWord fields
  let held := (List.range ledgerWords).any (fun i => decide (s.keepNext (ledgerBase + i) = x))
  if held then s
  else match (List.range ledgerWords).find? (fun i => decide (s.keepNext (ledgerBase + i) = 0#64) && !s.worn (ledgerBase + i)) with
    | some i => s.keepWrite (ledgerBase + i) x
    | none => { s with heldRetire := s.heldRetire ++ [x] }.post 0 400 0 (names.map ef)

/-- The fields of the three kinds of entry (R669). -/
def siteEntry (site det : Nat) : Nat := 1 + site * 2 ^ 8 + det * 2 ^ 16
def rowEntry (bay pc bank row spare : Nat) : Nat := 2 + bay * 2 ^ 8 + pc * 2 ^ 12 + bank * 2 ^ 18 + row * 2 ^ 24 + spare * 2 ^ 38
def laneEntry (port dir lane : Nat) : Nat := 3 + port * 2 ^ 8 + dir * 2 ^ 12 + lane * 2 ^ 13

/-- Retires a site in the ledger. -/
def State.ledgerSite (s : State) (site det : Nat) : State := s.ledgerRetire (siteEntry site det) [1, site, det]

/-- Retires a lane in the ledger. -/
def State.ledgerLane (s : State) (port dir lane : Nat) : State := s.ledgerRetire (laneEntry port dir lane) [3, port, dir, lane]

/-- The fuse map (R667), and the places it marks. -/
def State.fuse (s : State) (w : Nat) : Word64 := SMap.get (fun _ => 0#64) s.fuses w
def State.fusedSite (s : State) (n : Nat) : Bool := (s.fuse (n / 64)).getLsbD (n % 64)
def State.fusedLane (s : State) (port dir lane : Nat) : Bool :=
  let b := 2 * port + dir
  (s.fuse (3 + b / 8)).getLsbD (8 * (b % 8) + lane)

/-- The ledger lists a site; a lane (R54, R372). -/
def State.ledgerHasSite (s : State) (n : Nat) : Bool :=
  ((List.range ledgerWords).map (fun i => s.keepNext (ledgerBase + i)) ++ s.heldRetire).any (fun x =>
    decide (getBits x 0 4 = 1) && decide (getBits x 8 8 = n))
def State.ledgerHasLane (s : State) (port dir lane : Nat) : Bool := s.inLedger (laneEntry port dir lane)

end Sys2Proof.Machine
end

