-- ==== Sys2Proof/Machine/Operands.lean ====
section
/-!
DEFINITION. Every operand form of a core's instructions: registers, elements of vector registers, predicates, scratchpad
accesses with their regions, descriptors and their walks; and the issue of an instruction in its bundle (R228, R235).
-/

namespace Sys2Proof.Machine

/-! ### Registers -/

/-- A scalar register; s0 reads as zero (R230). -/
def RegFile.sGet (r : RegFile) (i : SReg) : Word64 := if i.val = 0 then 0#64 else SMap.get (fun _ => 0#64) r.s i.val

/-- The poison bit of a scalar register (R233). -/
def RegFile.sBad (r : RegFile) (i : SReg) : Bool := i.val ≠ 0 && r.sPoison.getLsbD i.val

/-- A bit of a word set to a value. -/
def setBit {w : Nat} (x : BitVec w) (i : Nat) (b : Bool) : BitVec w :=
  if b then x ||| BitVec.ofNat w (2 ^ i) else x &&& ~~~(BitVec.ofNat w (2 ^ i))

/-- A scalar register written: writes to s0 are discarded and no instruction writes s48 to s63 (R230). -/
def RegFile.sSet (r : RegFile) (i : SReg) (x : Word64) (bad : Bool) : RegFile :=
  if i.val = 0 ∨ 48 ≤ i.val then r
  else { r with s := SMap.set (fun _ => 0#64) r.s i.val x, sPoison := setBit r.sPoison i.val bad }

/-- A vector register and the poison of its lanes. -/
def RegFile.vGet (r : RegFile) (i : VReg) : VecWord := SMap.get (fun _ => 0#4096) r.v i.val
def RegFile.vBad (r : RegFile) (i : VReg) : BitVec 128 := SMap.get (fun _ => 0#128) r.vPoison i.val

/-- A vector register written, with the poison of its lanes. -/
def RegFile.vSet (r : RegFile) (i : VReg) (x : VecWord) (bad : BitVec 128) : RegFile :=
  { r with v := SMap.set (fun _ => 0#4096) r.v i.val x, vPoison := SMap.set (fun _ => 0#128) r.vPoison i.val bad }

/-- A predicate register and its poison. -/
def RegFile.pGet (r : RegFile) (i : PReg) : BitVec 128 := SMap.get (fun _ => 0#128) r.p i.val
def RegFile.pBad (r : RegFile) (i : PReg) : Bool := r.pPoison.getLsbD i.val

/-- A predicate register written. -/
def RegFile.pSet (r : RegFile) (i : PReg) (x : BitVec 128) (bad : Bool) : RegFile :=
  { r with p := SMap.set (fun _ => 0#128) r.p i.val x, pPoison := setBit r.pPoison i.val bad }

/-- A descriptor slot and its write. -/
def RegFile.dGet (r : RegFile) (i : DSlot) : BitVec 512 := SMap.get (fun _ => 0#512) r.d i.val
def RegFile.dSet (r : RegFile) (i : DSlot) (x : BitVec 512) : RegFile :=
  { r with d := SMap.set (fun _ => 0#512) r.d i.val x }

/-- Sign extension of an immediate to 64 bits. -/
def sext64 (imm : BitVec 32) : Word64 := imm.signExtend 64

/-! ### Elements of vector registers (R231) -/

/-- The bits of an element. -/
def fmtBits (f : Fmt) : Nat := 8 * fmtSize f

/-- The elements of a register in a format. -/
def fmtElems (f : Fmt) : Nat := 4096 / fmtBits f

/-- Element i of a register. -/
def elemGet (f : Fmt) (x : VecWord) (i : Nat) : Elem := BitVec.ofNat 32 (x.toNat / 2 ^ (fmtBits f * i) % 2 ^ fmtBits f)

/-- All elements of a register, element 0 first. -/
def elemsOf (f : Fmt) (x : VecWord) : List Elem := (List.range (fmtElems f)).map (elemGet f x)

/-- A register from its elements, element 0 first. -/
def ofElems (f : Fmt) (es : List Elem) : VecWord :=
  BitVec.ofNat 4096 (es.foldr (fun e n => e.toNat % 2 ^ fmtBits f + 2 ^ fmtBits f * n) 0)

/-- The lane of an element (R231). -/
def laneOf (f : Fmt) (i : Nat) : Nat := i * fmtBits f / 32

/-- The lanes a predicated instruction acts on (R232). -/
def activeLanes (r : RegFile) (pq : PredCtl) : BitVec 128 :=
  match pq with
  | none => ~~~0#128
  | some p => r.pGet p

/-- The poison a predicate brings to every result (R233). -/
def predBad (r : RegFile) (pq : PredCtl) : Bool :=
  match pq with
  | none => false
  | some p => r.pBad p

/-- The bits of the active lanes of one register over another's (R232). -/
def mergeLanes (act : BitVec 128) (new old : VecWord) : VecWord :=
  BitVec.ofNat 4096 ((List.range 128).foldr (fun l n =>
    ((if act.getLsbD l then new else old).toNat / 2 ^ (32 * l)) % 2 ^ 32 + 2 ^ 32 * n) 0)

/-- The 512 bytes of a register, byte 0 first. -/
def vecBytes (x : VecWord) : List Byte := le 512 x.toNat

/-- A register from 512 bytes. -/
def vecOfBytes (bs : List Byte) : VecWord := BitVec.ofNat 4096 (leNum bs)

/-! ### Scratchpad (R234, R239) -/

/-- A byte of the scratchpad. -/
def Core.spadByte (c : Core) (a : Nat) : Byte := SMap.get (fun _ => 0#8) c.spad a

/-- Bytes of the scratchpad. -/
def Core.spadRead (c : Core) (a n : Nat) : List Byte := (List.range n).map (fun i => c.spadByte (a + i))

/-- The poison of a line of the scratchpad, and its deferred tag. -/
def Core.lineBad (c : Core) (line : Nat) : Bool := SMap.get (fun _ => false) c.spadPoison line
def Core.lineTag (c : Core) (line : Nat) : Option FaultTag := SMap.get (fun _ => none) c.spadTag line

/-- The lines that a range of bytes touches. -/
def linesTouched (a n : Nat) : List Nat := (List.range ((a + n + 63) / 64 - a / 64)).map (fun i => a / 64 + i)

/-- Some line of a range is poisoned. -/
def Core.rangeBad (c : Core) (a n : Nat) : Bool := (linesTouched a n).any c.lineBad

/-- The first deferred tag in a range. -/
def Core.rangeTag (c : Core) (a n : Nat) : Option FaultTag := (linesTouched a n).findSome? c.lineTag

/-- Bytes within one line written: a whole line takes the poison and the tag given, and a tag that stood there is discarded unconsumed
(R206, R223); a part keeps a poisoned line poisoned and a tagged line tagged. -/
def Core.spadWriteLine (c : Core) (a : Nat) (bs : List Byte) (bad : Bool) (tag : Option FaultTag) : Core :=
  let line := a / 64
  let whole := decide (64 ≤ bs.length)
  { c with spad := SMap.setList (fun _ => 0#8) c.spad a bs,
           spadPoison := SMap.set (fun _ => false) c.spadPoison line (bad || (!whole && c.lineBad line)),
           spadTag := SMap.set (fun _ => none) c.spadTag line (if whole then tag else tag <|> c.lineTag line),
           movUnconsumed := if whole && (c.lineTag line).isSome then c.movUnconsumed + 1 else c.movUnconsumed }

/-- Bytes written line by line, by fuel. -/
def Core.spadWriteAux (bad : Bool) (tag : Option FaultTag) : Nat → Core → Nat → List Byte → Core
  | 0, c, _, _ => c
  | n + 1, c, a, bs =>
    if bs.isEmpty then c
    else
      let k := 64 - a % 64
      Core.spadWriteAux bad tag n (c.spadWriteLine a (bs.take k) bad tag) (a + (bs.take k).length) (bs.drop k)

/-- Bytes of the scratchpad written. -/
def Core.spadWrite (c : Core) (a : Nat) (bs : List Byte) (bad : Bool := false) (tag : Option FaultTag := none) : Core :=
  Core.spadWriteAux bad tag (bs.length / 64 + 2) c a bs

/-- The lowest-index region of a space that contains an extent (R254). -/
def Core.region (c : Core) (space lo n : Nat) : Option Region :=
  c.cfg.regions.find? (fun r => decide (r.space = space) && decide (r.base ≤ lo) && decide (lo + n ≤ r.base + r.size))

/-- The address spaces of R199. -/
def spaceSpad : Nat := 0
def spaceDev : Nat := 1
def spacePeer : Nat := 2
def spaceRemote : Nat := 3

/-- An access lies in a declared SPAD region that grants it (R239). -/
def Core.spadOk (c : Core) (a n : Nat) (isWrite : Bool) : Bool :=
  match c.region spaceSpad a n with
  | some r => if isWrite then r.wr else r.rd
  | none => false

/-- The causes of R266. -/
def causeSpadBounds : Nat := 8
def causeSpadAlign : Nat := 9
def causeLoopDesc : Nat := 10
def causePoisonControl : Nat := 11
def causeSigTarget : Nat := 12

/-- The causes of R186. -/
def causeNoLatch : Nat := 1
def causeLatchMismatch : Nat := 2
def causeEmptyDrain : Nat := 3
def causeRerunDepth : Nat := 4
def causeChainState : Nat := 5
def causeAnchorRange : Nat := 6

/-- The mover causes of R218, and those of R287 and R285. -/
def causeDescInvalid : Nat := 32
def causeMovShape : Nat := 33
def causeMovBounds : Nat := 34
def causeMovSpace : Nat := 35
def causeMovAlign : Nat := 36
def causeCrestPartial : Nat := 37
def causeMovDeferred : Nat := 38
def causeMovTarget : Nat := 39
def causeReserved : Nat := 40

/-- The cause of an access: alignment first, then bounds (R239; DEDUCED, log entry 16). -/
def Core.accessCause (c : Core) (a n align : Nat) (isWrite : Bool) : Option Nat :=
  if a % align ≠ 0 then some causeSpadAlign
  else if c.spadOk a n isWrite then none else some causeSpadBounds

/-! ### Descriptors (R194 to R197) -/

/-- A loop descriptor read by its fields. -/
structure Desc where
  nlev : Nat
  tier : Nat
  kind : Nat
  bounds : List Nat
  strides : List Int
  ords : List Nat
  deriving DecidableEq, Repr

/-- `n` bytes of a slot at an offset, as a number. -/
def slotField (d : BitVec 512) (off n : Nat) : Nat := d.toNat / 2 ^ (8 * off) % 2 ^ (8 * n)

/-- A number of `w` bits read as two's complement. -/
def signedOf (w x : Nat) : Int := if 2 ^ (w - 1) ≤ x then (x : Int) - 2 ^ w else x

/-- The fields of a slot; the levels beyond nlev are left out. -/
def descOf (d : BitVec 512) : Desc :=
  let ctl := slotField d 0x3C 4
  let n := ctl % 8
  { nlev := n, tier := ctl / 8 % 4, kind := ctl / 32 % 4,
    bounds := (List.range n).map (fun l => slotField d (10 * l) 4),
    strides := (List.range n).map (fun l => signedOf 40 (slotField d (10 * l + 4) 5)),
    ords := (List.range n).map (fun l => slotField d (10 * l + 9) 1 % 8) }

/-- Some reserved field of a loop descriptor is not zero: bits of ord and ctl, and the unused levels (R194). -/
def descReserved (d : BitVec 512) : Bool :=
  let ctl := slotField d 0x3C 4
  let n := ctl % 8
  decide (ctl / 128 ≠ 0) ||
  (List.range 6).any (fun l =>
    if l < n then decide (slotField d (10 * l + 9) 1 / 8 ≠ 0)
    else decide (slotField d (10 * l) 10 ≠ 0))

/-- The positions of a walk (R195). -/
def Desc.total (d : Desc) : Nat := d.bounds.foldl (fun a b => a * b) 1

/-- The check of a loop descriptor in the order of R196; the tier is the caller's. -/
def descCause (d : BitVec 512) : Option Nat :=
  let x := descOf d
  if x.kind ≠ 0 then some causeDescInvalid
  else if x.nlev = 0 ∨ x.nlev = 7 then some causeDescInvalid
  else if descReserved d then some causeReserved
  else if !(List.range x.nlev).all (fun o => x.ords.contains o) then some causeDescInvalid
  else if 2 ^ 40 ≤ x.total then some causeDescInvalid
  else none

/-- The check of a loop descriptor with the tier it must have (R196). -/
def descCauseTier (d : BitVec 512) (tier : Nat) : Option Nat :=
  match descCause d with
  | some c => some c
  | none => if (descOf d).tier = tier then none else some causeMovSpace

/-- `walk_offset` of R195 from an order position on, by fuel. -/
def walkFrom (d : Desc) : Nat → Nat → Nat → Int
  | 0, _, _ => 0
  | f + 1, o, n =>
    let l := d.ords.idxOf o
    let b := d.bounds.getD l 1
    ((n % b : Nat) : Int) * d.strides.getD l 0 + walkFrom d f (o + 1) (n / b)

/-- `walk_offset` of R195. -/
def walkOffset (d : Desc) (n : Nat) : Int := walkFrom d d.nlev 0 n

/-- The lowest and the highest offset of a walk, without the unit (R197). -/
def walkExtent (d : Desc) : Int × Int :=
  (d.bounds.zip d.strides).foldl (fun e bs =>
    let x : Int := ((bs.1 : Int) - 1) * bs.2
    (e.1 + min 0 x, e.2 + max 0 x)) (0, 0)

/-- The extent of a walk from a base with a unit, as a first address and a length; none below address 0 (R197).  A bound
of 0 can make the range empty or reversed; its length is then at least the unit's (DEDUCED, log entry 17). -/
def extentOf (d : Desc) (base unit : Nat) : Option (Nat × Nat) :=
  let e := walkExtent d
  let lo : Int := base + e.1
  let hi : Int := base + e.2 + unit
  if lo < 0 then none else some (lo.toNat, (hi - lo).toNat)

/-- The address of a position of a walk. -/
def walkAddr (d : Desc) (base n : Nat) : Nat := ((base : Int) + walkOffset d n).toNat

/-! ### Issue -/

/-- The bundle boundary: the next bundle starts with the registers as they stand; at the end of a loop body the loop goes
round or ends (R228, R240). -/
def Core.advanceAux : Nat → Core → Core
  | 0, c => c
  | n + 1, c =>
    match c.loops with
    | [] => c
    | f :: t =>
      if c.npc = f.body + f.len then
        if f.iter + 1 < f.total then
          let x := f.base + BitVec.ofInt 64 (walkOffset (descOf f.desc) (f.iter + 1))
          { c with npc := f.body, loops := { f with iter := f.iter + 1 } :: t, rf := c.rf.sSet f.sd x false }
        else Core.advanceAux n { c with loops := t }
      else c

/-- The core with its next bundle begun. -/
def Core.advance (c : Core) : Core :=
  let c := Core.advanceAux 5 c
  { c with pc := c.npc, npc := c.npc + 1, issued := min (2 ^ 32) (c.issued + 1), rf0 := c.rf }

/-- The core as an instruction of a slot finds it: in the bundle that runs when that bundle has not reached the slot, else
in the next bundle (DEDUCED, log entry 7). -/
def Core.begin (c : Core) (slot : Nat) : Core :=
  { (if c.slot < slot then c else c.advance) with slot := slot, held := none }

/-- The doubled pair of a logical core, if any. -/
def pairOf (j : Job) (logical : Nat) : Option (Nat × Nat) :=
  j.doubled.find? (fun q => decide (q.1 = logical) || decide (q.2 = logical))

/-- The turn of the doubling sequence lets a core issue (R61). -/
def turnAllows (j : Job) (logical : Nat) : Bool :=
  match j.turn with
  | none => true
  | some .aTurn => match pairOf j logical with
    | some q => decide (q.1 = logical)
    | none => true
  | some .bTurn => match pairOf j logical with
    | some q => decide (q.2 = logical)
    | none => false
  | some _ => false

/-- The work that a core has in flight may go on: in its context's turn and in the quiesce after it (R61, R209). -/
def turnFinishes (j : Job) (logical : Nat) : Bool :=
  match j.turn with
  | some .quiesceA => turnAllows { j with turn := some .aTurn } logical
  | some .quiesceB => turnAllows { j with turn := some .bTurn } logical
  | _ => turnAllows j logical

/-- The units of a pen's job run: no late item, no thermal stop of the dies (R214, R659). -/
def State.unitsRun (s : State) (pen : Nat) : Bool :=
  match s.job pen with
  | some j => j.stopped.isNone && !s.diesStopped && !j.fenceHold
  | none => false

/-- The units of a core may go on with work in flight: its job's units run and its context's turn and quiesce have not
ended (R61). -/
def State.coreRuns (s : State) (u : CoreRef) : Bool := s.unitsRun u.pen && turnFinishes (s.jobD u.pen) u.logical

/-- Every core of a pen's job has ended. -/
def State.allEnded (s : State) (pen : Nat) : Bool :=
  (s.jobCores pen).all (fun c => decide ((s.core (coreKey pen c)).run = .ended))

/-- A core fault before the instruction changes any state (R266). -/
def State.faultAt (s : State) (u : CoreRef) (c : Core) (slot cause : Nat) : State :=
  s.progFault u.pen u.logical c.pc slot cause

/-- The core's registers changed. -/
def Core.onRf (c : Core) (f : RegFile → RegFile) : Core := { c with rf := f c.rf }

end Sys2Proof.Machine
end

