-- ==== Sys2Proof/Machine/Philox.lean ====
section
/-!
DEFINITION. The counter-based generator Philox4x32-10 and the draw that stochastic rounding uses (R469 to R471).
-/

namespace Sys2Proof.Machine

/-- The four words of a counter or an output. -/
structure Philox where
  x0 : Word32
  x1 : Word32
  x2 : Word32
  x3 : Word32
  deriving DecidableEq, Repr

/-- The high and low halves of a 32 by 32 product. -/
def mulHiLo (a b : Word32) : Word32 × Word32 :=
  let p := a.toNat * b.toNat
  (BitVec.ofNat 32 (p / 2 ^ 32), BitVec.ofNat 32 p)

/-- One round (R469). -/
def Philox.round (k0 k1 : Word32) (x : Philox) : Philox :=
  let p0 := mulHiLo 0xD2511F53#32 x.x0
  let p1 := mulHiLo 0xCD9E8D57#32 x.x2
  { x0 := p1.1 ^^^ x.x1 ^^^ k0, x1 := p1.2, x2 := p0.1 ^^^ x.x3 ^^^ k1, x3 := p0.2 }

/-- The rounds with the key schedule (R469). -/
def philoxRounds : Nat → Word32 → Word32 → Philox → Philox
  | 0, _, _, x => x
  | n + 1, k0, k1, x => philoxRounds n (k0 + 0x9E3779B9#32) (k1 + 0xBB67AE85#32) (Philox.round k0 k1 x)

/-- Philox4x32-10 (R469). -/
def philox (k0 k1 : Word32) (c : Philox) : Philox := philoxRounds 10 k0 k1 c

/-- The counter of a draw (R470). -/
def drawCounter (stream step : Word32) (index use : Nat) : Philox :=
  { x0 := BitVec.ofNat 32 (index % 2 ^ 16 * 2 ^ 16 + use % 2 ^ 16), x1 := BitVec.ofNat 32 (index / 2 ^ 16),
    x2 := step, x3 := stream }

/-- The 16-bit value of a draw (R95, R470). -/
def drawU (seed : Word64) (stream : Word32) (step index use : Nat) : Nat :=
  (philox (seed.setWidth 32) (BitVec.ofNat 32 (seed.toNat / 2 ^ 32))
    (drawCounter stream (BitVec.ofNat 32 step) index use)).x0.toNat % 2 ^ 16

/-- The job seed in force at the step a pen computes (R465). -/
def State.seedNow (s : State) (pen : Nat) : Word64 :=
  match seedAt (s.jobD pen) (s.stepOf pen) with
  | some e => e.seed
  | none => 0#64

end Sys2Proof.Machine
end

