-- ==== Sys2Proof/Machine/Grid.lean ====
section
/-!
DEFINITION. The grid of a pen's job: where its logical cores live (R48 to R58), fences and adoptions (R509 to R512), the
mapping changes of a step boundary (R60, R66, R522 to R525), and the registers that show them (R70 to R72).
-/

namespace Sys2Proof.Machine

/-! ### Sites -/

/-- Sets what a site shows: state, owner, contexts, yoke (R70). -/
def State.setSite (s : State) (n st la lb yoke : Nat) : State :=
  let s := s.setFld .coreSiteState 0 4 st n
  let s := s.setFld .coreSiteState 8 8 la n
  let s := s.setFld .coreSiteState 16 8 lb n
  s.setFld .coreSiteState 24 2 yoke n

/-- The contexts and the yoke of a site. -/
def State.siteA (s : State) (n : Nat) : Nat := s.fld .coreSiteState 8 8 n
def State.siteB (s : State) (n : Nat) : Nat := s.fld .coreSiteState 16 8 n
def State.siteYoke (s : State) (n : Nat) : Nat := s.fld .coreSiteState 24 2 n

/-- The yoke codes of R70. -/
def yokeNone : Nat := 0
def yokeWide : Nat := 1
def yokeRunner : Nat := 2
def yokeChecker : Nat := 3

/-- The sites of a bay (R48). -/
def baySites (b : Nat) : List Nat := (List.range 14).map (fun i => 14 * b + i)

/-- The sites of a pen's bays, ascending. -/
def State.penSites (s : State) (p : Nat) : List Nat := (s.baysOf p).flatMap baySites

/-- The die of a bay (R48). -/
def dieOf (b : Nat) : Nat := b / 6

/-- The home bay of a logical core (R52). -/
def homeBay (j : Job) (l : Nat) : Nat :=
  let r := l / 12
  let n := j.bays.length
  j.bays.getD (if r < n then r else r - n) 0

/-- A logical core is of a guest row; the native core that it shares a site with; the guest of a native core (R52). -/
def isGuest (j : Job) (l : Nat) : Bool := decide (j.bays.length ≤ l / 12)
def hasCore (j : Job) (l : Nat) : Bool := decide (SMap.get (fun _ => 0xFF) j.coreImage l ≠ 0xFF)
def guestOf (j : Job) (l : Nat) : Option Nat :=
  let g := l + 12 * j.bays.length
  if !isGuest j l ∧ g / 12 < j.rows ∧ hasCore j g then some g else none

/-- A logical core is yoke-wide (R65). -/
def isWide (j : Job) (l : Nat) : Bool := j.yokeWide.contains l

/-- The sites of a logical core. -/
def placeOf (j : Job) (l : Nat) : List Nat := SMap.get (fun _ => []) j.place l

/-- A free spare of a bay: a site, or a pair for a yoke-wide core (R58). -/
def State.spareIn (s : State) (wide : Bool) (b : Nat) : Option (List Nat) :=
  let free (n : Nat) := decide (s.site n = siteSpare)
  if wide then ((List.range 7).find? (fun k => free (14 * b + 2 * k) && free (14 * b + 2 * k + 1))).map (fun k => [14 * b + 2 * k, 14 * b + 2 * k + 1])
  else ((baySites b).find? free).map (fun n => [n])

/-- A site, or a pair, of a bay that hosts exactly one core of the kind: the one of the lowest logical id (R58). -/
def State.singleIn (s : State) (wide : Bool) (b : Nat) : Option (List Nat) :=
  let y := if wide then yokeWide else yokeNone
  let cand := (baySites b).filter (fun n => decide (s.site n = siteActive) && decide (s.siteYoke n = y) && (!wide || decide (n % 2 = 0)))
  (cand.foldl (fun (best : Option Nat) n =>
    match best with
    | none => some n
    | some m => if s.siteA n < s.siteA m then some n else some m) none).map (fun n => if wide then [n, n + 1] else [n])

/-- The bays of a pen by distance from a home bay: the home bay, the same die, the other die (R58). -/
def State.bayOrder (s : State) (p home : Nat) : List Nat :=
  let others := (s.baysOf p).filter (fun b => decide (b ≠ home))
  home :: (others.filter (fun b => decide (dieOf b = dieOf home)) ++ others.filter (fun b => decide (dieOf b ≠ dieOf home)))

/-- A spare by options 1 and 2 of R58. -/
def State.findSpare (s : State) (p : Nat) (j : Job) (l : Nat) : Option (List Nat) :=
  (if j.allowBorrow then s.bayOrder p (homeBay j l) else [homeBay j l]).findSome? (s.spareIn (isWide j l))

/-- A site to double onto, by option 3 of R58. -/
def State.findDouble (s : State) (p : Nat) (j : Job) (l : Nat) : Option (List Nat) :=
  if j.allowDoubling ∧ (guestOf j l).isNone then (s.bayOrder p (homeBay j l)).findSome? (s.singleIn (isWide j l)) else none

/-- A logical core takes sites, alone or doubled with the core that is there (R55, R58).  Each taking counts in `adoptions`, the
placement at a load included, and a native core and its guest placed together count twice (R70; DESIGN CHOICE, log entry 117). -/
def State.hostCore (s : State) (p l : Nat) (sites : List Nat) (dbl : Bool) : State :=
  let j := s.jobD p
  let other := s.siteA (sites.headD 0)
  let y := if isWide j l then yokeWide else yokeNone
  let s := sites.foldl (fun s n =>
    let s := if dbl then s.setSite n siteDoubled (min l other) (max l other) y else s.setSite n siteActive l 0xFF y
    s.bump .coreSiteState 32 16 n) s
  s.onJob p (fun j => { j with place := SMap.put j.place l sites,
                               doubled := if dbl then j.doubled ++ [(min l other, max l other)] else j.doubled })

/-- A logical core leaves its sites: a doubled site keeps the other context; a site it had alone goes to a state. -/
def State.unhost (s : State) (p l st : Nat) : State :=
  let j := s.jobD p
  let s := (placeOf j l).foldl (fun s n =>
    if s.site n = siteDoubled then
      let other := if s.siteA n = l then s.siteB n else s.siteA n
      s.setSite n siteActive other 0xFF (s.siteYoke n)
    else s.setSite n st 0xFF 0xFF yokeNone) s
  s.onJob p (fun j => { j with place := SMap.erase j.place l,
                               doubled := j.doubled.filter (fun q => decide (q.1 ≠ l) && decide (q.2 ≠ l)) })

/-- The sites of a pen in a state. -/
def State.sitesIn (s : State) (p st : Nat) : List Nat := (s.penSites p).filter (fun n => decide (s.site n = st))

/-- The checker site of a yoke-check pair (R66). -/
def State.checkerOf (s : State) (p l : Nat) : Option Nat :=
  (s.penSites p).find? (fun n => decide (s.siteYoke n = yokeChecker) && decide (s.siteA n = l))

/-- CORE_PEN_GRID and NET_PEN_SLOT.suspended brought up to date (R72, R277); SPARES_LOW when the free spares fall below the
watch, or are below it when the job is loaded (R56).  The power domains keep (R677). -/
def State.refreshGrid (s : State) (p : Nat) : State :=
  match s.job p with
  | none =>
    ((s.setReg .corePenGrid (BitVec.ofNat 64 ((s.sitesIn p siteSpare).length * 2 ^ 8)) (p - 1)).setFld .netPenSlot 16 1 0 (p - 1))
  | some j =>
    let was := s.fld .corePenGrid 8 8 (p - 1)
    let before := s.fld .corePenGrid 0 4 (p - 1)
    let free := (s.sitesIn p siteSpare).length
    let dbl := (s.sitesIn p siteDoubled).length
    let checked := ((s.penSites p).filter (fun n => decide (s.siteYoke n = yokeChecker))).length
    let borrowed := (j.place.filter (fun kv => kv.2.any (fun n => decide (bayOfSite n ≠ homeBay j kv.1)))).length
    let s := s.setReg .corePenGrid (BitVec.ofNat 64 (j.rows + free * 2 ^ 8 + dbl * 2 ^ 16 + j.turnLog2 * 2 ^ 24 + checked * 2 ^ 32 + borrowed * 2 ^ 40)) (p - 1)
    let s := if 0 < dbl then s.setFld .netPenSlot 16 1 1 (p - 1) else s
    if free < j.spareWatch ∧ (j.spareWatch ≤ was ∨ before = 0) then s.postPen p 340 (s.stepOf p) [ef free] else s

/-! ### Adoption (R58, R510) -/

/-- The image of a logical core is unchanged in its host buffer (R510). -/
def State.imageGood (s : State) (j : Job) (l : Nat) : Bool :=
  let i := SMap.get (fun _ => 0xFF) j.coreImage l
  match j.imageAddrs[i]?, j.imageHashes[i]? with
  | some a, some h => decide (sha256 (s.hostRead a.1 a.2) = h)
  | _, _ => false

/-- A logical core takes a site found for it, and its guest goes with it (R58): CORE_ADOPTED, and CORE_DOUBLED for a
doubled site; a bad image ends the job.  A guest that moves with its native core posts CORE_ADOPTED of its own and no
CORE_DOUBLED (R72; DESIGN CHOICE, log entry 119). -/
def State.adoptOn (s : State) (p l oldSite : Nat) (sites : List Nat) (dbl : Bool) : State :=
  let j := s.jobD p
  if !s.imageGood j l || (guestOf j l).any (fun g => !s.imageGood j g) then s.terminal p evAdoptImageFail []
  else
    let s := s.hostCore p l sites dbl
    let s := s.postPen p 257 (s.stepOf p) [ef oldSite, ef (sites.headD 0), ef l]
    let s := if dbl then s.postPen p 336 (s.stepOf p) [ef (sites.headD 0), ef l] else s
    match guestOf j l with
    | none => s
    | some g =>
      let s := s.hostCore p g sites true
      s.postPen p 257 (s.stepOf p) [ef oldSite, ef (sites.headD 0), ef g]

/-- A logical core without a site takes one by R58; with none GRID_EXHAUSTED is posted and the job ends with it (R56, R72). -/
def State.adopt (s : State) (p l oldSite : Nat) : State :=
  let j := s.jobD p
  if isGuest j l ∧ placeOf j l ≠ [] then s
  else if isGuest j l then s
  else match s.findSpare p j l with
    | some sites => s.adoptOn p l oldSite sites false
    | none => match s.findDouble p j l with
      | some sites => s.adoptOn p l oldSite sites true
      | none => (s.postPen p evGridExhausted (s.stepOf p) [ef l]).terminal p evGridExhausted []

/-! ### Fences (R509) -/

/-- The logical cores that a site hosts; a checker hosts none. -/
def State.hosted (s : State) (p n : Nat) : List Nat :=
  if s.siteYoke n = yokeChecker then []
  else ((s.jobD p).place.filter (fun kv => kv.2.contains n)).map Prod.fst

/-- A site enters its test (R522): an injection armed on it is cancelled (R532). -/
def State.startTest (s : State) (n : Nat) : State :=
  let s := s.setSite n siteUnderTest 0xFF 0xFF yokeNone
  let s := s.setFld .errSiteTest 0 2 3 n
  let s := s.setFld .errSiteTest 48 16 (s.fld .errFtpStatus 0 16) n
  match s.injection with
  | some i =>
    if (1 ≤ i.detector ∧ i.detector ≤ 8 ∨ i.detector = 22) ∧ 14 * i.bay + i.unit = n then
      ({ s with injection := none }.setFld .injCtl 0 1 0).setFld .injCtl 8 8 4
    else s
  | none => s

/-- A site is retired: its state, the ledger, SITE_RETIRED with a cause: 0 test, 1 fence_max, 2 ACT (R525, R529, R535). -/
def State.retireSite (s : State) (p n det cause : Nat) : State :=
  let s := s.setSite n siteRetired 0xFF 0xFF yokeNone
  let s := s.ledgerSite n det
  (s.postPen p 263 0 [ef n, ef cause]).post 0 263 0 [ef n, ef cause]

/-- The state of one site as a fence takes it: retired when it has been fenced fence_max times before, else FENCED; with no
job it goes to test at once (R522, R525). -/
def State.fenceOne (s : State) (p n det : Nat) : State :=
  let k := SMap.get (fun _ => 0) s.fences n
  let lim := s.fld .errPolicy 0 4
  let s := { s with fences := SMap.set (fun _ => 0) s.fences n (k + 1), fenceDet := SMap.set (fun _ => 0) s.fenceDet n det }
  if lim ≠ 0 ∧ lim ≤ k then s.retireSite p n det 1
  else
    let s := s.setSite n siteFenced 0xFF 0xFF yokeNone
    if (s.job p).isNone then s.startTest n else s

/-- A released checker becomes a spare, and the runner runs unchecked (R66). -/
def State.dropChecker (s : State) (p l : Nat) : State :=
  match s.checkerOf p l with
  | some n =>
    let s := s.setSite n siteSpare 0xFF 0xFF yokeNone
    (placeOf (s.jobD p) l).foldl (fun s m => s.setFld .coreSiteState 24 2 yokeNone m) s
  | none => s

/-- An acknowledgement that is discarded unsent leaves its messages unacknowledged: their timer runs on (R359). -/
def State.unackAgain (s : State) (p tag : Nat) (m : LinkMsg) : State :=
  if m.jobTag.toNat ≠ tag ∨ m.srcDev.toNat ≠ s.devId then s
  else s.onJob p (fun j => { j with rx := j.rx.map (fun kv =>
    if kv.1 / 16 = m.dstDev.toNat then (kv.1, { kv.2 with sinceAck := max 1 kv.2.sinceAck }) else kv) })

/-- The units of the job stop and their state goes; ports begin order 1 of R370 (R509): every message of the job that is queued and not sent
is discarded.  Transfers with messages not sent are forgotten: the replay sends them again. -/
def State.fenceHoldJob (s : State) (p : Nat) : State :=
  let j := s.jobD p
  let queued (x : Xfer) := (s.baysOf p).any (fun b => (s.port b).dataQ.any (fun kv => kv.2.any (fun m =>
    decide (m.jobTag.toNat = j.tag) && decide (m.xfer.toNat = x.xfer) && decide (m.dstDev.toNat = x.dst) && decide (m.srcDev.toNat = s.devId))))
  let keep := j.xfers.filter (fun x => x.cut && !queued x)
  let s := (s.stopUnits p).onJob p (fun j => { j with fenceHold := true, replayRun := false, turn := none, stopped := none, lateHeld := 0, xfers := keep })
  let s := ((s.baysOf p).flatMap (fun b => (s.port b).ackQ)).foldl (fun s m => s.unackAgain p j.tag m) s
  s.purgePorts p j.tag

/-- The attempt runs on its cores and they have not all ended (R514). -/
def State.replayDue (s : State) (p : Nat) : Bool :=
  match (s.jobD p).cur with
  | some a => (decide (a.phase = .forward) || decide (a.phase = .backward)) && !s.allEnded p
  | none => false

/-- A permanent detector fences sites of a pen (R509, R514): registers and events; the cores they hosted wait for adoption; a
step whose cores run is replayed, and the fifth fence of an attempt sends it to a rewind. -/
def State.fenceSites (s : State) (p det : Nat) (sites : List Nat) : State :=
  let j0 := s.jobD p
  let due := s.replayDue p
  let step := s.stepOf p
  let att := (j0.cur.map Attempt.attempt).getD 0
  let lost := (sites.flatMap (fun n => (s.hosted p n).map (fun l => (l, n)))).foldl (fun acc x =>
    if acc.any (fun y => decide (y.1 = x.1)) then acc else acc ++ [x]) []
  let runsCore := !lost.isEmpty
  let n1 := (j0.cur.map Attempt.fences).getD 0 + 1
  let s := sites.reverse.foldl (fun s n =>
    let l := (s.hosted p n).headD 0xFF
    let s := s.setReg .errFenceLast (BitVec.ofNat 64 (n + l * 2 ^ 8 + det * 2 ^ 16 + min 255 n1 * 2 ^ 24 + step % 2 ^ 31 * 2 ^ 32 + 2 ^ 63)) (p - 1)
    s.postBoth p 256 step [ef n, ef l, ef det, ef step, ef att]) s
  let checked := (sites.filter (fun n => decide (s.siteYoke n = yokeChecker))).map s.siteA
  let s := (lost.map Prod.fst ++ checked).foldl (fun s l => s.dropChecker p l) s
  let s := lost.foldl (fun s x => s.onJob p (fun j => { j with
    place := SMap.erase j.place x.1, doubled := j.doubled.filter (fun q => decide (q.1 ≠ x.1) && decide (q.2 ≠ x.1)) })) s
  let s := sites.foldl (fun s n => s.fenceOne p n det) s
  match s.job p with
  | none => s.refreshGrid p
  | some _ =>
    let s := s.onJob p (fun j => { j with
      adopting := j.adopting ++ lost, cur := j.cur.map (fun a => { a with fences := n1, fenced := a.fenced || runsCore }) })
    let s := if runsCore ∧ due then
        if 5 ≤ n1 then (((s.fenceHoldJob p).onJob p (fun j => { j with fenceHold := false })).orStatus p stFault).sendWord p
        else s.fenceHoldJob p
      else s
    s.refreshGrid p

/-! ### Mapping changes at a step boundary (R60) -/

/-- Order 1: fenced sites go to test, and sites that have passed become spares (R522, R524). -/
def State.boundarySites (s : State) (p : Nat) : State :=
  (s.penSites p).foldl (fun s n =>
    if s.site n = siteUnderTest ∧ s.fld .errSiteTest 0 2 n = 1 then s.setSite n siteSpare 0xFF 0xFF yokeNone
    else if s.site n = siteFenced then s.startTest n else s) s

/-- Order 2: a doubled core moves to a free spare; guest rows stay doubled. -/
def State.undouble (s : State) (p : Nat) : State :=
  (List.range 144).foldl (fun s l =>
    let j := s.jobD p
    match pairOf j l with
    | none => s
    | some q =>
      if isGuest j q.1 || isGuest j q.2 then s
      else match s.findSpare p j l with
        | none => s
        | some sites =>
          if !s.imageGood j l then s.terminal p evAdoptImageFail []
          else
            let old := (placeOf j l).headD 0
            let s := (s.unhost p l siteSpare).hostCore p l sites false
            s.postPen p 337 (s.stepOf p) [ef old, ef (sites.headD 0), ef l]) s

/-- The runner and the checker of a pair marked (R66).  A checker site shows ACTIVE with logical_a = 2k and no logical_b (R70;
DESIGN CHOICE, log entry 118). -/
def State.markPair (s : State) (p l checker : Nat) : State :=
  let s := (placeOf (s.jobD p) l).foldl (fun s n => s.setFld .coreSiteState 24 2 yokeRunner n) s
  let s := (s.setSite checker siteActive l 0xFF yokeChecker).bump .coreSiteState 32 16 checker
  s.onJob p (fun j => { j with yokeSuspended := j.yokeSuspended.filter (fun k => decide (k ≠ l)) })

/-- A pair takes its checker (R66): the odd core's site when that core is alone on one, and the odd core moves to a spare;
with no odd core, a spare of its own.  A pair whose core 2k has no program is one that cannot be checked (DESIGN CHOICE, log
entry 116).  A pair that cannot runs unchecked, and YOKE_CHECK_SUSPENDED says so once until the pair is
checked again (DEDUCED, log entry 19). -/
def State.takeChecker (s : State) (p l : Nat) : State :=
  let j := s.jobD p
  let susp := if j.yokeSuspended.contains l then s
    else (s.postPen p 338 (s.stepOf p) [ef l]).onJob p (fun j => { j with yokeSuspended := j.yokeSuspended ++ [l] })
  if (pairOf j l).isSome || (pairOf j (l + 1)).isSome || (placeOf j l).isEmpty then susp
  else if hasCore j (l + 1) then
    match s.findSpare p j (l + 1), (placeOf j (l + 1)).head? with
    | some sites, some n =>
      if !s.imageGood j (l + 1) then s.terminal p evAdoptImageFail []
      else
        let s := (s.unhost p (l + 1) siteSpare).hostCore p (l + 1) sites false
        (s.postPen p 257 (s.stepOf p) [ef n, ef (sites.headD 0), ef (l + 1)]).markPair p l n
    | _, _ => susp
  else match s.findSpare p j l with
    | some sites => s.markPair p l (sites.headD 0)
    | none => susp

/-- Order 3: the requested set takes effect, pairs no longer named release their checkers, and every pair without a checker
tries again (R66, R68). -/
def State.boundaryYoke (s : State) (p : Nat) : State :=
  let j := s.jobD p
  let want := j.yokeCheckNext.getD j.yokeCheck
  let s := (j.yokeCheck.filter (fun l => !want.contains l)).foldl (fun s l => s.dropChecker p l) s
  let s := s.onJob p (fun j => { j with yokeCheck := want, yokeCheckNext := none, yokeSuspended := j.yokeSuspended.filter want.contains })
  want.foldl (fun s l => if (s.checkerOf p l).isSome then s else s.takeChecker p l) s

/-- The logical core that rotation takes next in a bay (R523). -/
def State.rotateNext (s : State) (b : Nat) : Option Nat :=
  let live := ((baySites b).filter (fun n => decide (s.site n = siteActive) && decide (s.siteYoke n = yokeNone))).map (fun n => s.siteA n)
  let lowest (xs : List Nat) := xs.foldl (fun (m : Option Nat) x => match m with | none => some x | some y => some (min x y)) none
  match SMap.get (fun _ => none) s.rotated b with
  | none => lowest live
  | some r => lowest (live.filter (fun l => decide (r < l))) <|> lowest live

/-- Order 4: one rotation in each bay that has spares to give (R523); the boundary's counter is that of the step that begins (DEDUCED,
log entry 43). -/
def State.boundaryRotate (s : State) (p : Nat) : State :=
  let j := s.jobD p
  let interval := s.fld .errRotateCfg 0 16 (p - 1)
  let keep := s.fld .errRotateCfg 16 4 (p - 1)
  if j.rotateTest ∧ interval ≠ 0 ∧ s.stepOf p % interval = 0 then
    (s.baysOf p).foldl (fun s b =>
      let spares := (baySites b).filter (fun n => decide (s.site n = siteSpare))
      let testing := (baySites b).any (fun n => decide (s.site n = siteUnderTest))
      match spares.head?, s.rotateNext b with
      | some n, some l =>
        if keep < spares.length ∧ !testing then
          let j := s.jobD p
          if !s.imageGood j l then s.terminal p evAdoptImageFail []
          else
            let old := (placeOf j l).headD 0
            let s := (s.unhost p l siteSpare).hostCore p l [n] false
            let s := (s.postPen p 257 (s.stepOf p) [ef old, ef n, ef l]).startTest old
            { s with rotated := SMap.set (fun _ => none) s.rotated b (some l) }
        else s
      | _, _ => s) s
  else s

/-- The mapping changes of R60, in order; the slot tables come back when no site is doubled (R277), and the pen's power domains
switch (R677). -/
def State.mappingChanges (s : State) (p : Nat) : State :=
  let s := (((s.boundarySites p).undouble p).boundaryYoke p).boundaryRotate p
  let s := s.setFld .netPenSlot 16 1 0 (p - 1)
  (s.refreshGrid p).refreshPower p

end Sys2Proof.Machine
end

