-- ==== Sys2Proof/Machine/Weather.lean ====
section
/-!
DEFINITION. Error weather (R527 to R530): the counts of detector events per bay and class, their levels, and the actions of
ACT; and the firing of armed injections (R531).
-/

namespace Sys2Proof.Machine

/-- The key of a bay and a class. -/
def wxKey (b c : Nat) : Nat := 32 * b + c

/-- The thresholds in force for a class (R528, R541). -/
def State.wxThreshold (s : State) (c : Nat) : Word64 := SMap.get wxThreshReset s.wxThr c

/-- The buckets that a class sums (R541): 1 to 60, other values read as 60. -/
def wxWindow (t : Word64) : Nat :=
  let w := getBits t 48 6
  if 1 ≤ w ∧ w ≤ 60 then w else 60

/-- The events of the window: the unit of each. -/
def State.wxUnits (s : State) (b c : Nat) : List Nat :=
  ((SMap.get (fun _ => []) s.wx (wxKey b c)).take (wxWindow (s.wxThreshold c))).flatten

/-- The injected events of the window. -/
def State.wxInjected (s : State) (b c : Nat) : Nat :=
  ((SMap.get (fun _ => []) s.wxInj (wxKey b c)).take (wxWindow (s.wxThreshold c))).sum

/-- The threshold of a level: 1 WATCH, 2 WARN, 3 ACT. -/
def levelThreshold (t : Word64) (lv : Nat) : Nat := getBits t (16 * (lv - 1)) 16

/-- The unit with the most entries in a list; ties go to the lowest (R529). -/
def mostFrequent (xs : List Nat) : Option Nat :=
  let best := xs.foldl (fun (m : Option Nat) x =>
    match m with
    | none => some x
    | some y => if xs.count y < xs.count x ∨ (xs.count y = xs.count x ∧ x < y) then some x else some y) none
  best

/-- The classes whose ACT retires a site, and those whose ACT retires a lane (R529). -/
def siteClass (c : Nat) : Bool := (decide (2 ≤ c) && decide (c ≤ 8)) || decide (c = 22)
def laneClass (c : Nat) : Bool := decide (13 ≤ c) && decide (c ≤ 15)

/-- A site of a bay is fenced and retired without a test (R529): a live core takes a spare.  The event is ACT's: no detector fenced the
site, so no CORE_FENCED and no ERR_FENCE_LAST (DESIGN CHOICE, log entry 133). -/
def State.actSite (s : State) (b c n : Nat) : State :=
  let p := s.penOfBay b
  let lost := s.hosted p n
  let s := lost.foldl (fun s l => (s.dropChecker p l).unhost p l siteFenced) s
  let s := s.retireSite p n c 2
  let s := lost.foldl (fun s l => s.adopt p l n) s
  if p = 0 then s else s.refreshGrid p

/-- The action of ACT for a class of a bay (R529).  A lane due for retirement is marked on its port (R372). -/
def State.actNow (s : State) (b c : Nat) : State :=
  if siteClass c then
    match mostFrequent (s.wxUnits b c) with
    | some u => if s.site (14 * b + u % 14) = siteRetired then s else s.actSite b c (14 * b + u % 14)
    | none => s
  else if laneClass c then
    match mostFrequent (s.wxUnits b c) with
    | some l => s.onPort b (fun x => { x with lanes := SMap.set (fun _ => {}) x.lanes l { (SMap.get (fun _ => {}) x.lanes l) with due := true } })
    | none => s
  else s.setFld .errBayWx 0 1 1 b

/-- The number that a WX_ACT event gives its action: 1 site, 2 lane, 3 bay (DESIGN CHOICE, log entry 24). -/
def actCode (c : Nat) : Nat := if siteClass c then 1 else if laneClass c then 2 else 3

/-- Shows the window of a class in ERR_WX_COUNT (R545). -/
def State.wxShow (s : State) (b c : Nat) : State :=
  let s := s.setFld .errWxCount 0 32 (min (2 ^ 32 - 1) (s.wxUnits b c).length) (wxKey b c)
  s.setFld .errWxCount 32 16 (min 65535 (s.wxInjected b c)) (wxKey b c)

/-- Raises the level of a class one step at a time while the sum reaches the next threshold that is enabled (R528). -/
def State.wxRise (s : State) (b c : Nat) : State :=
  let t := s.wxThreshold c
  let sum := (s.wxUnits b c).length
  let level := s.fld .errWxCount 48 2 (wxKey b c)
  [1, 2, 3].foldl (fun s lv =>
    let thr := levelThreshold t lv
    if level < lv ∧ thr ≠ 0 ∧ thr ≤ sum then
      let s := s.setFld .errWxCount 48 2 lv (wxKey b c)
      let s := s.postBoth (s.penOfBay b) (263 + lv) 0 ([ef b, ef c, ef sum] ++ (if lv = 3 then [ef (actCode c)] else []))
      if lv = 3 then
        (if (s.job (s.penOfBay b)).isNone then s.actNow b c else { s with actDue := s.actDue ++ [(b, c)] })
      else s
    else s) s

/-- The bay to which an event counts: its own, or the module's lowest when it has none (R527). -/
def State.lowestBay (s : State) : Nat := ((List.range 12).find? s.bayPresent).getD 0

/-- Counts an event of a detector in its bay and class, with the unit that it names (R527). -/
def State.countEvent (s : State) (b c unit : Nat) (injected : Bool) : State :=
  let k := wxKey b c
  if injected then
    let bs := SMap.get (fun _ => []) s.wxInj k
    { s with wxInj := SMap.put s.wxInj k ((bs.headD 0 + 1) :: bs.tail) }.wxShow b c
  else
    let bs := SMap.get (fun _ => []) s.wx k
    (({ s with wx := SMap.put s.wx k ((bs.headD [] ++ [unit]) :: bs.tail) }.wxShow b c)).wxRise b c

/-- Every class begins a bucket, and thresholds written since take effect (R527, R528). -/
def State.wxShift (s : State) : State :=
  { s with
    wx := (s.wx.map (fun kv => (kv.1, ([] :: kv.2).take 60))).filter (fun kv => kv.2.any (fun x => !x.isEmpty)),
    wxInj := (s.wxInj.map (fun kv => (kv.1, (0 :: kv.2).take 60))).filter (fun kv => kv.2.any (fun x => decide (x ≠ 0))),
    wxThr := (List.range 23).foldl (fun m c => if c = 0 then m else SMap.set wxThreshReset m c (s.reg .errWxThresh c)) s.wxThr }

/-- A minute ends (R527, R528): every class begins a bucket; a level falls by one when its sum is below half its threshold; one fall a
minute (DESIGN CHOICE, log entry 133). -/
def State.wxTick (s : State) : State :=
  (List.range 12).foldl (fun s b => (List.range 23).foldl (fun s c =>
    if c = 0 then s
    else
      let s := s.wxShow b c
      let level := s.fld .errWxCount 48 2 (wxKey b c)
      let thr := levelThreshold (s.wxThreshold c) level
      if level ≠ 0 ∧ 2 * (s.wxUnits b c).length < thr then s.setFld .errWxCount 48 2 (level - 1) (wxKey b c)
      else s.wxRise b c) s) s.wxShift

def execWxBucket (s : State) : Out := .next s.wxTick

/-- The ACT actions that are due in a pen's bays are taken at its step boundary (R529). -/
def State.actBoundary (s : State) (p : Nat) : State :=
  let due := s.actDue.filter (fun x => decide (s.penOfBay x.1 = p))
  let s := { s with actDue := s.actDue.filter (fun x => decide (s.penOfBay x.1 ≠ p)) }
  due.foldl (fun s x => s.actNow x.1 x.2) s

/-- An armed injection fires at a detector's opportunity in its unit (R531): INJ_FIRED, and it disarms after its last event.
The answer says whether it fired. -/
def State.fireInjection (s : State) (det bay unit : Nat) : State × Bool :=
  match s.injection with
  | none => (s, false)
  | some i =>
    if i.detector = det ∧ i.bay = bay ∧ i.unit = unit then
      let left := i.left - 1
      let s := s.bump .injCtl 16 16
      let s := s.postBoth (s.penOfBay bay) 267 0 [ef det, ef unit, ef left]
      if left = 0 then (({ s with injection := none }.setFld .injCtl 0 1 0).setFld .injCtl 8 8 0, true)
      else ({ s with injection := some { i with left := left } }, true)
    else (s, false)

/-- An armed injection of a detector fires in a bay, whatever its unit. -/
def State.fireOnPort (s : State) (det p : Nat) : State × Bool :=
  match s.injection with
  | some i => if i.bay = p then s.fireInjection det p i.unit else (s, false)
  | none => (s, false)

end Sys2Proof.Machine
end

