-- ==== Sys2Proof/Machine/Ecc.lean ====
section
/-!
DEFINITION. Device memory below its commands: rows and their retirement (R303, R320 to R322), the decoding of a line (R314 to R317), and
accesses by virtual address with what they do beside their data (R311, R316, R317, R319).
-/

namespace Sys2Proof.Machine

/-! ### Rows (R303, R320, R321) -/

/-- The pseudo-channel, the bank and the row of a line of a stack (R303). -/
def linePch (l : Nat) : Nat := l % 64
def lineBank (l : Nat) : Nat := l / 2 ^ 10 % 64
def lineRow (l : Nat) : Nat := l / 2 ^ 16

/-- The key of a row, and of the row that holds a line. -/
def rowKey (pch bank row : Nat) : Nat := (row * 64 + bank) * 64 + pch
def rowOfLine (l : Nat) : Nat := rowKey (linePch l) (lineBank l) (lineRow l)

/-- The sixteen lines of a row. -/
def rowLines (k : Nat) : List Nat :=
  (List.range 16).map (fun col => k / 4096 * 2 ^ 16 + k / 64 % 64 * 2 ^ 10 + col * 2 ^ 6 + k % 64)

/-- The spares of a row's bank that are in use; the spares that a row retired more than once had before stay used (R320, R322). -/
def Bay.sparesUsed (x : Bay) (k : Nat) : List Nat :=
  x.retired.flatMap (fun kv => if kv.1 % 4096 = k % 4096 then kv.2 else [])

/-- A row remapped to a spare of its bank, the latest first. -/
def Bay.remap (x : Bay) (k sp : Nat) : Bay :=
  { x with retired := SMap.put x.retired k (sp :: ((SMap.find x.retired k).getD []).filter (fun y => decide (y ≠ sp))) }

/-- The lowest spare of a row's bank that is not in use. -/
def Bay.spareOf (x : Bay) (k : Nat) : Option Nat := (List.range 8).find? (fun i => !(x.sparesUsed k).contains i)

/-- The fewest spares left in a bank (R333). -/
def Bay.sparesMin (x : Bay) : Nat := 8 - (x.retired.map (fun kv => (x.sparesUsed kv.1).length)).foldl max 0

/-- HBM_BAY_STATUS brought up to date with the remaps (R333). -/
def State.rowRegs (s : State) (b : Nat) : State :=
  let x := s.bay b
  (s.setFld .hbmBayStatus 8 16 (min 65535 x.retired.length) b).setFld .hbmBayStatus 32 4 x.sparesMin b

/-- A line that cannot be corrected is stored with 64 zero bytes and its poison mark (R317, R330). -/
def State.zeroMark (s : State) (line : Nat) : State :=
  let s := (s.setBytes (64 * line) (zeros 64)).setBad line false
  s.markLine line true

/-- A row is copied through the corrector into a spare of its bank and remapped (R320 to R322): the ledger entry,
MEM_ROW_RETIRED, and MEM_BANK_SPARES_EXHAUSTED with the last spare.  A bank without a spare retires no row.  A line that the copy
cannot correct is stored marked. -/
def State.retireRow (s : State) (b k : Nat) : State :=
  let x := s.bay b
  match x.spareOf k with
  | none => s
  | some sp =>
    let s := (rowLines k).foldl (fun s l =>
      if s.lineBad (b * stackLines + l) then s.zeroMark (b * stackLines + l) else s) s
    let s := s.onBay b (fun x => { x.remap k sp with rows := x.rows.filter (fun r => decide (r.1 ≠ k)) })
    let s := s.rowRegs b
    let held := s.heldRetire.length
    let s := s.ledgerRetire (rowEntry b (k % 64) (k / 64 % 64) (k / 4096) sp) [2, b, k % 64, k / 64 % 64, k / 4096, sp]
    let s := if held < s.heldRetire.length then s.setFld .hbmBayStatus 3 1 1 b else s
    let s := s.postBoth (s.penOfBay b) 353 0 [ef b, ef (k % 64), ef (k / 64 % 64), ef (k / 4096), ef sp]
    if (s.bay b).spareOf k = none then s.postBoth (s.penOfBay b) 354 0 [ef b, ef (k % 64), ef (k / 64 % 64)] else s

/-- The device holds no job of the pen that owns a bay. -/
def State.bayIdle (s : State) (b : Nat) : Bool := (s.job (s.penOfBay b)).isNone

/-- Due retirements are applied, at most a number of them, in the order they became due (R321). -/
def State.retireDue : Nat → State → Nat → State
  | 0, s, _ => s
  | n + 1, s, b =>
    match (s.bay b).due with
    | [] => s
    | k :: t => State.retireDue n ((s.onBay b (fun x => { x with due := t })).retireRow b k) b

/-- A row becomes due (R321); with no job in the bay's pen it is retired at once. -/
def State.rowDue (s : State) (b k : Nat) : State :=
  let s := if (s.bay b).due.contains k || ((s.bay b).spareOf k).isNone then s
    else s.onBay b (fun x => { x with due := x.due ++ [k] })
  if s.bayIdle b then State.retireDue (s.bay b).due.length s b else s

/-- The index of the tracker's entry with the lowest count, the lowest index first (R321). -/
def lowestRow (rows : List (Nat × Nat)) : Nat :=
  let m := (rows.map Prod.snd).foldl min (2 ^ 64)
  (rows.findIdx? (fun r => decide (r.2 = m))).getD 0

/-- The tracker with one more corrected event of a row (R321). -/
def trackRow (rows : List (Nat × Nat)) (k : Nat) : List (Nat × Nat) :=
  if rows.any (fun r => decide (r.1 = k)) then rows.map (fun r => if r.1 = k then (r.1, r.2 + 1) else r)
  else if rows.length < 256 then rows ++ [(k, 1)]
  else rows.set (lowestRow rows) (k, 1)

/-- A corrected sector of a row is tracked; a row whose count reaches the threshold becomes due (R321). -/
def State.countRow (s : State) (b k : Nat) : State :=
  let s := s.onBay b (fun x => { x with rows := trackRow x.rows k })
  let t := s.fld .hbmRetireCfg 0 4
  if t ≠ 0 ∧ (s.bay b).rows.any (fun r => decide (r.1 = k) && decide (t ≤ r.2)) then s.rowDue b k else s

/-! ### Decoding (R314 to R317) -/

/-- A line enters the memory log once; beyond 256 lines it is counted as dropped (R315). -/
def State.logLine (s : State) (b l : Nat) (mark : Bool) : State :=
  let x := s.bay b
  if x.log.any (fun e => decide (e.1 = l)) then
    s.setBay b { x with log := x.log.map (fun e => if e.1 = l then (e.1, e.2 || mark) else e) }
  else if x.log.length < 256 then s.setBay b { x with log := x.log ++ [(l, mark)] }
  else s.bump .hbmEccCount 48 16 b

/-- A read of a line finds a sector that cannot be corrected (R316): once per line and step it is counted and raises
MEM_POISON_CREATED. -/
def State.lineUe (s : State) (b l : Nat) (injected : Bool) : State :=
  let s := s.setBad (b * stackLines + l) true
  if (s.bay b).raised.contains l then s
  else
    let p := s.penOfBay b
    let s := s.onBay b (fun x => { x with raised := x.raised ++ [l] })
    let s := s.logLine b l true
    let s := s.bump .hbmEccCount 32 16 b
    let s := s.setReg .hbmPoisonLast (BitVec.ofNat 64 (64 * l + p * 2 ^ 36 + 2 ^ 63)) b
    let s := s.postBoth p 352 (s.stepOf p) [ef b, ef (64 * l)]
    (s.countEvent b 12 (linePch l) injected).rowDue b (rowOfLine l)

/-- A read of a line corrects some of its sectors (R315): each counts, and the line is logged once. -/
def State.lineCe (s : State) (b l sectors : Nat) (injected : Bool) : State :=
  let s := (List.range sectors).foldl (fun s _ =>
    ((s.bump .hbmEccCount 0 32 b).countRow b (rowOfLine l)).countEvent b 11 (linePch l) injected) s
  if sectors = 0 then s else s.logLine b l false

/-- The sectors of a line that its decoding corrects. -/
def eccCorrections (e : EccOut) : Nat := (if e.lo = .corrected then 1 else 0) + (if e.hi = .corrected then 1 else 0)

/-- A line holds a sector that its decoding cannot correct. -/
def eccFails (e : EccOut) : Bool := decide (e.lo = .uncorrectable) || decide (e.hi = .uncorrectable)

/-- The state with the bytes of a sector that an undetected error has changed (R314): they pass as the line's data. -/
def State.passSector (s : State) (dpa : Nat) (e : SecEcc) : State :=
  match e with
  | .undetected bs => s.setBytes dpa (fit 32 bs)
  | _ => s

/-- The controller decodes a line it reads (R314 to R316).  A line already found unreadable is unreadable again; a line stored
with its poison mark decodes as poisoned, which is no error and never correctable (R317); an armed injection decides in place of the
decoder (R531). -/
def State.decodeLine (s : State) (b l : Nat) (ecc : EccOut) : State :=
  let d := b * stackLines + l
  let f11 := s.fireInjection 11 b (linePch l)
  let f12 := f11.1.fireInjection 12 b (linePch l)
  let s := f12.1
  if f12.2 then s.lineUe b l true
  else if s.lineBad d then s.lineUe b l false
  else if f11.2 then s.lineCe b l 1 true
  else if s.linePoison d then s
  else
    let s := s.lineCe b l (eccCorrections ecc) false
    if eccFails ecc then s.lineUe b l false
    else (s.passSector (64 * d) ecc.lo).passSector (64 * d + 32) ecc.hi

/-! ### Accesses by virtual address -/

/-- A line is read again: one that cannot be corrected is found so again (R316). -/
def State.noteLine (s : State) (line : Nat) : State :=
  if s.lineBad line then s.lineUe (line / stackLines) (line % stackLines) false else s

/-- The bytes of a reserved region are read (R316), and the poison of each. -/
def State.noteRegion (s : State) (r : Nat × Nat × Nat) (off n : Nat) : State :=
  (List.range ((off + n + 63) / 64 - off / 64)).foldl (fun s i => s.noteLine (regionDpa r (64 * (off / 64 + i)) / 64)) s
def State.regionBad (s : State) (r : Nat × Nat × Nat) (off n : Nat) : List Bool :=
  (List.range n).map (fun i => s.linePoison (regionDpa r (off + i) / 64))

/-- A range is read by virtual address (R311, R316): its window entries are touched, and its unreadable lines found. -/
def State.noteVa (s : State) (pen va n : Nat) : State :=
  (linePieces va (List.range n)).foldl (fun s p =>
    match s.translate pen false p.1 with
    | .ok d => (s.touchVa pen false p.1).noteLine (d / 64)
    | .error _ => s) s

/-- Two ranges: bank 0 or 1 of a pair of addresses. -/
def bankVa (p : Nat × Nat) (b : Nat) : Nat := if b = 0 then p.1 else p.2

/-- A record stores second moments, reads moments (R429). -/
def usesV (t : TensorRec) : Bool := decide (t.opt = 1) || decide (t.opt = 3)

/-- The ranges that consume poison when a poisoned line is written there (R319): the pending bank of the parameters, the optimiser
state, and the metrics tensors. -/
def consumedRanges (p : Plan) (pend : Nat) : List (Nat × Nat) :=
  (p.recs.zip (List.range p.recs.length)).flatMap (fun ti =>
    let t := ti.1
    if t.isMetric then [(t.paramVa.1, t.elems * fmtSize t.pfmt)]
    else (bankVa t.paramVa pend, t.elems * fmtSize t.pfmt) ::
      [0, 1].flatMap (fun b => [(bankVa t.mVa b, t.elems * fmtSize t.mfmt), (bankVa p.scalarVa b + 16 * ti.2, 16)] ++
        (if usesV t then [(bankVa t.vVa b, t.elems * fmtSize t.mfmt)] else [])))

/-- A line of device memory belongs to a range of virtual addresses of a pen. -/
def State.lineInRange (s : State) (pen line : Nat) (r : Nat × Nat) : Bool :=
  (linePieces r.1 (List.range r.2)).any (fun p =>
    match s.translate pen true p.1 with
    | .ok d => decide (d / 64 = line)
    | .error _ => false)

/-- The bank to which the sweep of the step under way will write (R425): the other one than the step reads. -/
def State.pendingBank (s : State) (pen : Nat) : Nat :=
  (s.fld .updJob 2 1 (pen - 1) + (if (s.jobD pen).voting.isSome then 1 else 0) + 1) % 2

/-- A line that is written by virtual address (R288, R311, R317, R319): a part of it is merged with what a read of the line finds, and a
line that is left poisoned where a step consumes poison sets the poison bit. -/
def State.storePiece (s : State) (pen : Nat) (p : Nat × List (Byte × Bool)) : State :=
  match s.translate pen true p.1 with
  | .error _ => s
  | .ok d =>
    let s := s.touchVa pen true p.1
    let s := if p.2.length < 64 then s.noteLine (d / 64) else s
    let s := s.writeLine (d / 64) (d % 64) (p.2.map Prod.fst) (p.2.any Prod.snd)
    if s.linePoison (d / 64) && (consumedRanges (s.jobD pen).plan (s.pendingBank pen)).any (s.lineInRange pen (d / 64)) then
      s.orStatus pen stPoison
    else s

/-- Writes bytes by virtual address, each line poisoned when one of its bytes is; a line whose translation fails is not written. -/
def State.vaStoreBad (s : State) (pen va : Nat) (bs : List (Byte × Bool)) : State :=
  (linePieces va bs).foldl (fun s p => s.storePiece pen p) s

/-- Writes bytes by virtual address, all clean or all poisoned. -/
def State.vaStore (s : State) (pen va : Nat) (bs : List Byte) (poison : Bool := false) : State :=
  s.vaStoreBad pen va (bs.map (fun b => (b, poison)))

end Sys2Proof.Machine
end

