-- ==== Sys2Proof/Machine/Scoreboard.lean ====
section
/-!
DEFINITION. The interlocks of a core (R235, R204): the scratchpad bytes that queued and running matrix instructions and
mover commands have still to read or write; the crest context that a mover command names (R210); and the application of
signals to counters (R280, R283, R287).
-/

namespace Sys2Proof.Machine

/-- Scratchpad bytes that outstanding work reads or writes. -/
structure Access where
  write : Bool
  lo : Nat
  len : Nat
  deriving DecidableEq, Repr

/-- Two ranges share a 64-byte line (R235). -/
def linesMeet (a n b m : Nat) : Bool :=
  decide (0 < n) && decide (0 < m) && decide (a / 64 ≤ (b + m - 1) / 64) && decide (b / 64 ≤ (a + n - 1) / 64)

/-! ### Matrix instructions -/

/-- The columns of the array (R158, R183). -/
def Core.cols (c : Core) : Nat := if c.cfg.wide then 256 else 128

/-- The bytes of a slice of an A panel and of a B panel (R160, R183). -/
def sliceA (f : Fmt) : Nat := 128 * 128 * fmtSize f
def sliceB (cols : Nat) (f : Fmt) : Nat := 128 * cols * fmtSize f

/-- The elements of the tile, and the bytes of its long forms and wide long forms (R174, R182, R183). -/
def Core.tileElems (c : Core) : Nat := 128 * c.cols
def Core.lfBytes (c : Core) (wide : Bool) : Nat := c.tileElems * (if wide then 140 else 20)

/-- The panels of one accumulation. -/
def tileReads (cols : Nat) (fa fb : Fmt) (a b n : Nat) : List Access :=
  [⟨false, a, n * sliceA fa⟩, ⟨false, b, n * sliceB cols fb⟩]

/-- The panels of an `mchain` (R167); the V panel has the chain latch's format. -/
def chainReads (cols : Nat) (fa fb fv : Fmt) (q k v kc nt n1 : Nat) : List Access :=
  [⟨false, q, n1 * sliceA fa⟩, ⟨false, k, nt * n1 * sliceB cols fb⟩, ⟨false, v, nt * sliceB cols fv⟩, ⟨false, kc, cols * nt⟩]

/-- What a matrix instruction reads and writes. -/
def Core.mxAccess (c : Core) (m : MxCmd) : List Access :=
  let out (a : Option Nat) (n : Nat) : List Access := match a with | some x => [⟨true, x, n⟩] | none => []
  match m with
  | .tile _ _ _ fa fb a b n => tileReads c.cols fa fb a b n
  | .swap => []
  | .load wide src => [⟨false, src, c.lfBytes wide⟩]
  | .drain fmt _ dst _ _ _ _ rmax rsum =>
    out dst (c.tileElems * fmtSize fmt) ++ out rmax 512 ++ out (rsum.map Prod.fst) 2560
  | .drainLf wide dst => [⟨true, dst, c.lfBytes wide⟩]
  | .chain fa fb _ _ q k v kc nt n1 _ _ _ _ rsum =>
    chainReads c.cols fa fb ((c.mx.chainLatch.map AncLatch.fb).getD fb) q k v kc nt n1 ++ out (rsum.map Prod.fst) 2560

/-- Everything the matrix engine has outstanding, the panels of a Strict tile that has not passed included (R180). -/
def Core.mxAccesses (c : Core) : List Access :=
  (c.mx.arrayQ ++ c.mx.drainQ).flatMap (fun e => c.mxAccess e.cmd) ++
  (match c.mx.chain with | some (some a, _) => [⟨true, a, 2560⟩] | _ => []) ++
  (if c.cfg.strict then
    ((c.mx.live.map Tile.recs).getD [] ++ (c.mx.passing.map (fun t => t.1.recs)).getD []).flatMap
      (fun r => tileReads c.cols r.fa r.fb r.aBase r.bBase r.n)
  else [])

/-! ### Mover commands -/

/-- A crest context read by its fields (R210). -/
structure CrestCtx where
  base : Nat
  pitch : Nat
  n : Nat
  fmtCode : Nat
  crestBase : Nat
  kind : Nat
  deriving DecidableEq, Repr

/-- The crest context of a slot. -/
def crestCtxOf (d : BitVec 512) : CrestCtx where
  base := slotField d 0x00 6
  pitch := slotField d 0x08 5
  n := slotField d 0x10 4
  fmtCode := slotField d 0x14 1
  crestBase := slotField d 0x18 6
  kind := slotField d 0x3C 4 / 32 % 4

/-- The crest bytes of a row: one for each 64 elements (R98). -/
def CrestCtx.groups (x : CrestCtx) : Nat := (x.n + 63) / 64

/-- The element size of the context's format. -/
def CrestCtx.esize (x : CrestCtx) : Nat := match Fmt.ofCode x.fmtCode with | some f => fmtSize f | none => 1

/-- The row and the element that hold the byte at an offset (R211). -/
def CrestCtx.rowOf (x : CrestCtx) (o : Nat) : Nat := o / x.pitch
def CrestCtx.elemOf (x : CrestCtx) (o : Nat) : Nat := o % x.pitch / x.esize

/-- The address of the crest byte of a group (R98, R211). -/
def CrestCtx.crestAddr (x : CrestCtx) (row group : Nat) : Nat := x.crestBase + row * x.groups + group

/-- The fields of the control word (R200). -/
def ctlSrc (w : Word64) : Nat := getBits w 0 3
def ctlDst (w : Word64) : Nat := getBits w 3 3
def ctlUnitLog (w : Word64) : Nat := getBits w 6 4
def ctlCrested (w : Word64) : Bool := w.getLsbD 10
def ctlCslot (w : Word64) : DSlot := ⟨getBits w 12 4, by unfold getBits; exact Nat.mod_lt _ (by decide)⟩
def ctlTarget (w : Word64) : Nat := getBits w 16 8
def ctlDevice (w : Word64) : Nat := getBits w 24 16
def ctlGateCtr (w : Word64) : Nat := getBits w 40 8
def ctlGated (w : Word64) : Bool := w.getLsbD 48
def ctlGbase (w : Word64) : Int := signedOf 15 (getBits w 49 15)

/-- The fields of the signal word (R201). -/
def sigDoneCtr (w : Word64) : Nat := getBits w 0 8
def sigDoneEn (w : Word64) : Bool := w.getLsbD 8
def sigBlkEn (w : Word64) : Bool := w.getLsbD 9
def sigBlkOrd (w : Word64) : Nat := getBits w 10 3
def sigBlkCtr (w : Word64) : Nat := getBits w 16 8
def sigDoneAdd (w : Word64) : Word32 := BitVec.ofNat 32 (getBits w 32 32)

/-- The unit of a command: that of its control word; one byte for `mscan.cmax` (R200, R212); a scan reads elements. -/
def MovCmd.unit (m : MovCmd) : Nat :=
  match m.kind with
  | .xfer => 2 ^ ctlUnitLog m.ctl
  | .crest f => fmtSize f
  | .cmax => 1

/-- The base addresses of a command. -/
def MovCmd.srcBase (m : MovCmd) : Nat := m.src.toNat
def MovCmd.dstBase (m : MovCmd) : Nat := m.dst.toNat

/-- The descriptor slots a command names (R207). -/
def MovCmd.slots (m : MovCmd) : List DSlot :=
  match m.kind with
  | .xfer => [m.dsrc, m.ddst] ++ (if ctlCrested m.ctl then [ctlCslot m.ctl] else [])
  | .crest _ => [m.dsrc, m.cslot]
  | .cmax => [m.dsrc, m.ddst]

/-- The crest context slot of a command that writes crest bytes. -/
def MovCmd.crestSlot (m : MovCmd) : Option DSlot :=
  match m.kind with
  | .xfer => if ctlCrested m.ctl then some (ctlCslot m.ctl) else none
  | .crest _ => some m.cslot
  | .cmax => none

/-- The extent of one side of a command. -/
def Core.sideExtent (c : Core) (slot : DSlot) (base unit : Nat) : Option (Nat × Nat) :=
  extentOf (descOf (c.rf.dGet slot)) base unit

/-- The crest bytes that a walk over a range of data addresses can write. -/
def crestExtent (x : CrestCtx) (e : Nat × Nat) : Option (Nat × Nat) :=
  if x.pitch = 0 then none
  else
    let lo := (e.1 - x.base) / x.pitch
    let hi := (e.1 + e.2 - 1 - x.base) / x.pitch
    some (x.crestBase + lo * x.groups, (hi + 1 - lo) * x.groups)

/-- The key of an address space: that of a PEER target and a REMOTE device beside the code (R199). -/
def spaceKey (ctl : Word64) (sp : Nat) : Nat :=
  if sp = spacePeer then sp + 8 * ctlTarget ctl else if sp = spaceRemote then sp + 8 * ctlDevice ctl else sp

/-- The extents of a mover command with the keys of their address spaces: source and destination (R197), and the crest
bytes. -/
def Core.movExtents (c : Core) (m : MovCmd) : List (Nat × Access) :=
  let src := c.sideExtent m.dsrc m.srcBase m.unit
  let dst := match m.kind with | .crest _ => none | _ => c.sideExtent m.ddst m.dstBase m.unit
  let srcSpace := ctlSrc m.ctl
  let dstSpace := match m.kind with | .crest _ => srcSpace | _ => spaceKey m.ctl (ctlDst m.ctl)
  let one (sp : Nat) (w : Bool) (e : Option (Nat × Nat)) : List (Nat × Access) :=
    match e with | some (a, n) => [(sp, ⟨w, a, n⟩)] | none => []
  let data := match m.kind with | .crest _ => src | _ => dst
  let crest := match m.crestSlot, data with
    | some k, some e => crestExtent (crestCtxOf (c.rf.dGet k)) e
    | _, _ => none
  one srcSpace false src ++ one dstSpace true dst ++ one dstSpace true crest

/-- The scratchpad accesses of a mover command. -/
def Core.movAccess (c : Core) (m : MovCmd) : List Access :=
  ((c.movExtents m).filter (fun p => decide (p.1 = spaceSpad))).map Prod.snd

/-- The number of runs of equal entries of a list. -/
def runCount : List Nat → Nat
  | [] => 0
  | [_] => 1
  | x :: y :: t => (if x = y then 0 else 1) + runCount (y :: t)

/-- The source units of one destination position (R203, R212). -/
def MovRun.per (r : MovRun) : Nat := r.srcTotal / r.total

/-- The source lines that the window of a run holds: those of the units read and not yet written; units at consecutive positions in one
line share it (R203, R205). -/
def Core.runLines (c : Core) (r : MovRun) : Nat :=
  let d := descOf (c.rf.dGet r.cmd.dsrc)
  let from_ := r.per * r.written
  runCount ((List.range (r.reads - from_)).flatMap (fun i =>
    (List.range ((r.cmd.unit + 63) / 64)).map (fun k => walkAddr d r.cmd.srcBase (from_ + i) / 64 + k)))

/-- The lines in the window of a mover. -/
def Core.windowLines (c : Core) (rs : List MovRun) : Nat := rs.foldl (fun n r => n + c.runLines r) 0

/-- The bytes in the window of a mover. -/
def windowBytes (rs : List MovRun) : Nat := rs.foldl (fun n r => n + r.cmd.unit * (r.reads - r.per * r.written)) 0

/-- The walk positions that a run has written; bytes held for their group are not written yet (R211, R220). -/
def MovRun.shown (r : MovRun) : Nat := r.written - (r.held.map HeldByte.pos).eraseDups.length

/-- A mover of a core. -/
def Core.mover (c : Core) (m : Nat) : Mover := SMap.get (fun _ => {}) c.mov m

/-- The core with a mover set. -/
def Core.setMover (c : Core) (m : Nat) (x : Mover) : Core := { c with mov := SMap.set (fun _ => {}) c.mov m x }

/-- Every command of a core's movers that has not completed. -/
def Core.movCmds (c : Core) : List MovCmd :=
  (List.range 4).flatMap (fun m => (c.mover m).running.map MovRun.cmd ++ (c.mover m).queue)

/-- Everything outstanding in a core's scratchpad. -/
def Core.accesses (c : Core) : List Access := c.mxAccesses ++ c.movCmds.flatMap c.movAccess

/-- A range conflicts with outstanding work: one of the two writes (R235). -/
def Core.busy (c : Core) (write : Bool) (a n : Nat) : Bool :=
  c.accesses.any (fun x => (write || x.write) && linesMeet a n x.lo x.len)

/-! ### Signals -/

/-- The state with a signal applied to a counter of a core; one that reaches a core after it has ended is recorded for the
balance check (R280, R284, R287). -/
def State.applySignal (s : State) (pen logical ctr : Nat) (add : Word32) : State :=
  s.onCore (coreKey pen logical) (fun c =>
    { c with ctr := SMap.set (fun _ => 0#32) c.ctr ctr (SMap.get (fun _ => 0#32) c.ctr ctr + add),
             lateSigs := if c.run = .ended then ctr :: c.lateSigs else c.lateSigs })

/-- The value of a counter. -/
def Core.counter (c : Core) (k : Nat) : Word32 := SMap.get (fun _ => 0#32) c.ctr k

/-- A logical core of a job that a signal or a PEER command can name: it has a program, and is not the odd id of a
yoke-wide pair (R65, R241). -/
def targetOk (j : Job) (t : Nat) : Bool :=
  decide (SMap.get (fun _ => 0xFF) j.coreImage t ≠ 0xFF) && !(decide (t % 2 = 1) && j.yokeWide.contains (t - 1))

/-- A counter is granted to a core by the Comb image's allocation (R280). -/
def State.granted (s : State) (pen t ctr : Nat) : Bool := (s.core (coreKey pen t)).cfg.granted.contains ctr

/-- A counter is granted to a core by the COUNTERS section of the job's Comb image (R637). -/
def grantedIn (j : Job) (t ctr : Nat) : Bool := (fieldAt j.counters (32 * t + ctr / 8) 1).testBit (ctr % 8)

/-- The state with the core of a reference stored. -/
def State.put (s : State) (u : CoreRef) (c : Core) : State := s.setCore (refKey u) c

/-- A fault that a consumed deferred tag raises: MOV_DEFERRED with the original cause and address (R206). -/
def State.faultTag (s : State) (u : CoreRef) (c : Core) (slot : Nat) (t : FaultTag) : State :=
  s.progFault u.pen u.logical c.pc slot causeMovDeferred [ef t.cause, ef t.va]

end Sys2Proof.Machine
end

