-- ==== Sys2Proof/Machine/Transfer.lean ====
section
/-!
DEFINITION. How a mover's data leaves its core: packets on the die (R273) and the cutting of a REMOTE transfer into link
messages (R357, R401), with the suppression of a replay (R370).
-/

namespace Sys2Proof.Machine

/-- The state with a packet of a core waiting at its router (R273). -/
def State.sendPacket (s : State) (pen src dst : Nat) (body : PktBody) (sig : Option (Nat × Word32)) : State :=
  { s with packets := s.packets ++ [{ pen := pen, src := src, dst := dst, body := body, sig := sig, injected := false }] }

/-- The collective group of a done counter, 0x7F for none (R362, R395). -/
def groupOfCtr (j : Job) (ctr : Nat) : Nat :=
  let g := SMap.get (fun _ => 0xFF) j.groupOf ctr
  if g < 64 then g else 0x7F

/-- A group's record. -/
def groupRec (j : Job) (g : Nat) : GroupRec := SMap.get (fun _ => {}) j.groups g

/-- The chunk size of a transfer of a group; an ungrouped transfer has no chunks (R401). -/
def chunkSize (j : Job) (g : Nat) : Option Nat := if g < 64 then some (2 ^ (groupRec j g).chunkLog2) else none

/-- The digest of the chunk that a transfer has gathered (R483). -/
def chunkDigest (j : Job) (g : Nat) (o : OutMsg) : Word64 :=
  rangeDigestAt (o.chunkIx * ((chunkSize j g).getD 0 / 2048)) o.chunk

/-- The digest slot of a chunk (R401). -/
def digestSlot (dig : Word64) (ix : Nat) : List Byte := fit 64 (le 8 dig.toNat ++ le 4 ix)

/-- The header fields that the messages of a transfer share (R356). -/
def xferMsg (m : MovCmd) (g : Nat) (o : OutMsg) : LinkMsg :=
  { mtype := 2, group := g, jobTag := 0#16, srcDev := 0#16, dstDev := 0#16, srcPort := 0, target := ctlTarget m.ctl,
    doneCtr := sigDoneCtr m.sig, blkCtr := sigBlkCtr m.sig, dstVa := o.va, xfer := BitVec.ofNat 32 o.xfer }

/-- The record of an outgoing transfer with one message more. -/
def noteXfer (j : Job) (xfer dst port : Nat) (alt : Bool) : Job :=
  if j.xfers.any (fun x => decide (x.xfer = xfer) && decide (x.dst = dst)) then
    { j with xfers := j.xfers.map (fun x =>
        if x.xfer = xfer ∧ x.dst = dst then { x with msgs := x.msgs + 1, usedAlt := x.usedAlt || alt } else x) }
  else { j with xfers := j.xfers ++ [{ xfer := xfer, dst := dst, port := port, msgs := 1, usedAlt := alt }] }

/-- The record of a transfer whose messages are all cut, with its digest (R368). -/
def closeXfer (j : Job) (xfer dst : Nat) (digest : Word64) : Job :=
  { j with xfers := j.xfers.map (fun x =>
      if x.xfer = xfer ∧ x.dst = dst then { x with cut := true, digest := digest } else x) }

/-- Cuts the message that a transfer has gathered (R357, R401): it joins its port's queue unless the transfer is
suppressed. -/
def State.cutMessage (s : State) (u : CoreRef) (m : MovCmd) (o : OutMsg) (last sigBlk chunkEnd : Bool) :
    State × OutMsg :=
  let j := s.jobD u.pen
  let g := groupOfCtr j (sigDoneCtr m.sig)
  let dig := chunkDigest j g o
  let slot := if chunkEnd ∧ g < 64 ∧ !o.lines.isEmpty then [digestSlot dig o.chunkIx] else []
  let done := last && sigDoneEn m.sig
  let msg : LinkMsg := { (xferMsg m g o) with
    mtype := if o.lines.isEmpty then 2 else 1, last := last, sigBlk := sigBlk, sigDone := done,
    doneAdd := if done then sigDoneAdd m.sig else 0#32,
    mask := maskBits (o.lines.map Prod.snd), lines := o.lines.map Prod.fst ++ slot }
  let dev := ctlDevice m.ctl
  let s1 := if o.suppress then s
    else match s.routeChoice j dev with
      | none => s
      | some (p, alt) => (s.queueMsg u.pen dev msg).onJob u.pen (fun j => noteXfer j o.xfer dev p alt)
  (s1, if chunkEnd then { o with lines := [], chunk := [], chunkIx := o.chunkIx + 1, digest := o.digest ^^^ dig }
       else { o with lines := [] })

/-- The end of a transfer (R370 order 4): a suppressed one is compared with the record, where detector 18 looks (R507); any other
is closed. -/
def State.endTransfer (s : State) (u : CoreRef) (m : MovCmd) (o : OutMsg) : State :=
  let dev := ctlDevice m.ctl
  let j := s.jobD u.pen
  if o.suppress then
    let p := routePrimary (routeOf j dev)
    let recs := (s.baysOf u.pen).flatMap (fun b => (s.port b).ackRecord)
    let f := s.fireOnPort 18 p
    let s := f.1
    if !f.2 && recs.any (fun r => decide (r.1 = o.xfer) && decide (r.2.1 = dev) && decide (r.2.2 = o.digest)) then
      (s.bump .xglE2eCount 48 16 p).onJob u.pen (fun j => { j with suppressed := j.suppressed + 1 })
    else
      (((s.countEvent p 18 0 f.2).silentError 18 p s.devId u.pen dev).postLink p 379 [ef dev, ef o.xfer]).orStatus u.pen stFault
  else s.onJob u.pen (fun j =>
    { (closeXfer j o.xfer dev o.digest) with sentReplay := if j.replayRun then j.sentReplay + 1 else j.sentReplay })

/-- The last message of a transfer, and the transfer's end (R357, R370). -/
def State.remoteLast (s : State) (u : CoreRef) (m : MovCmd) (o : OutMsg) (sigBlk : Bool) : State :=
  let r := s.cutMessage u m o true sigBlk true
  r.1.endTransfer u m r.2

/-- A line joins the transfer's message: a message ends where the walk jumps, at 64 lines, after a signalled block, and
at the end of a chunk, whose final message has at most 63 lines (R357, R401).  The last message waits for the done signal that goes with
it. -/
def State.remoteLine (s : State) (u : CoreRef) (m : MovCmd) (o : OutMsg) (addr : Nat) (line : List Byte × Bool)
    (blkEnd xferEnd : Bool) : State × OutMsg :=
  let j := s.jobD u.pen
  let g := groupOfCtr j (sigDoneCtr m.sig)
  let n := o.lines.length
  let chunkEnd := xferEnd || decide (chunkSize j g = some (o.chunk.length + 64))
  let full := decide (64 ≤ n) || decide (addr ≠ o.va + 64 * n) || (chunkEnd && decide (g < 64) && decide (63 ≤ n))
  let r := if 0 < n ∧ full then s.cutMessage u m o false false false else (s, o)
  let o := { r.2 with va := if r.2.lines.isEmpty then addr else r.2.va, lines := r.2.lines ++ [line],
                      chunk := r.2.chunk ++ line.1 }
  let sigBlk := blkEnd && sigBlkEn m.sig
  if xferEnd then (if sigDoneEn m.sig then r.1 else r.1.remoteLast u m o sigBlk, o)
  else if chunkEnd || sigBlk then r.1.cutMessage u m o false sigBlk chunkEnd
  else (r.1, o)

/-- The lines of a unit join the transfer one by one; the last carries what ends with the unit. -/
def State.remoteLines (u : CoreRef) (m : MovCmd) (blkEnd xferEnd : Bool) :
    List (List Byte × Bool) → Nat → State → OutMsg → State × OutMsg
  | [], _, s, o => (s, o)
  | l :: t, addr, s, o =>
    let r := s.remoteLine u m o addr l (blkEnd && t.isEmpty) (xferEnd && t.isEmpty)
    State.remoteLines u m blkEnd xferEnd t (addr + 64) r.1 r.2

/-- The transfer of a REMOTE command as it starts: its name (R356), and whether a replay suppresses it (R370). -/
def State.newOut (s : State) (u : CoreRef) (m : MovCmd) : OutMsg :=
  let x := (m.ord % 2 ^ 24) * 256 + u.logical % 256
  { xfer := x,
    suppress := (s.jobD u.pen).replayRun &&
      (s.baysOf u.pen).any (fun b => (s.port b).ackRecord.any (fun r => decide (r.1 = x) && decide (r.2.1 = ctlDevice m.ctl))) }

end Sys2Proof.Machine
end

