-- ==== Sys2Proof/Machine/Collective.lean ====
section
/-!
DEFINITION. Collective groups at a receiver (R395, R410 to R415): the count of complete chunks, the close of a group with a
deadline or an arrival fold, and the decisions that a replay takes from its ledger (R40, R41, R414).
-/

namespace Sys2Proof.Machine

/-- The rank of member i of a group (R395). -/
def GroupRec.rankOf (g : GroupRec) (i : Nat) : Nat := g.rankBase + i * g.rankStride

/-- The member index of a rank, when it is a member. -/
def GroupRec.memberOf (g : GroupRec) (rank : Nat) : Option Nat :=
  if g.rankBase ≤ rank ∧ (rank - g.rankBase) % max 1 g.rankStride = 0 ∧
      (rank - g.rankBase) / max 1 g.rankStride ≤ g.membersM1 then
    some ((rank - g.rankBase) / max 1 g.rankStride)
  else none

/-- A group that is closed once per step on this module: a valid one with a deadline or an arrival fold that the module is a
member of (R410). -/
def GroupRec.closing (g : GroupRec) : Bool := g.valid && (g.deadline || g.arrivalFold)

/-- A group's reception. -/
def groupRxOf (j : Job) (g : Nat) : GroupRx := SMap.get (fun _ => {}) j.groupRx g

/-- The job with a group's reception changed. -/
def onGroupRx (j : Job) (g : Nat) (f : GroupRx → GroupRx) : Job :=
  { j with groupRx := SMap.set (fun _ => {}) j.groupRx g (f (groupRxOf j g)) }

/-- The other members of a group. -/
def otherMembers (g : GroupRec) (own : Nat) : List Nat := (List.range (g.membersM1 + 1)).filter (fun i => decide (i ≠ own))

/-- What a member owes for steps that have closed; its complete chunks of the step that has not. -/
def GroupRx.owes (x : GroupRx) (m : Nat) : Nat := SMap.get (fun _ => 0) x.owed m
def GroupRx.has (x : GroupRx) (m : Nat) : Nat := SMap.get (fun _ => 0) x.chunks m

/-- A member has arrived (R410). -/
def GroupRx.arrived (x : GroupRx) (g : GroupRec) (m : Nat) : Bool := decide (x.owes m = 0) && decide (g.expect ≤ x.has m)

/-- Whether the lines of the chunk that a member sends now are written (R412): those of a step that has closed only in a NEXT
group, and only of the latest such step. -/
def GroupRx.writes (x : GroupRx) (g : GroupRec) (m : Nat) : Bool :=
  decide (x.owes m = 0) || (x.next && decide (x.owes m ≤ g.expect))

/-- A chunk of a member is complete (R410, R412). -/
def GroupRx.count (x : GroupRx) (g : GroupRec) (m : Nat) : GroupRx :=
  let x := { x with total := x.total + 1 }
  if !g.closing then x
  else if 0 < x.owes m then
    let x := { x with owed := SMap.set (fun _ => 0) x.owed m (x.owes m - 1) }
    if x.owes m = 0 ∧ x.late.contains m then
      { x with late := x.late.filter (fun y => decide (y ≠ m)),
               carriedNext := if x.next then x.carriedNext ++ [m] else x.carriedNext }
    else x
  else
    let x := { x with chunks := SMap.set (fun _ => 0) x.chunks m (x.has m + 1) }
    if 0 < g.expect ∧ x.has m % g.expect = 0 then { x with order := x.order ++ [m] } else x

/-- The reception after a close that lists members as late (R412): an arrived member's further chunks belong to the next step;
a late one owes the rest, and the members that have run ahead keep the order in which they did (R408). -/
def GroupRx.close (x : GroupRx) (g : GroupRec) (others late carried : List Nat) : GroupRx :=
  let owed := others.foldl (fun o m =>
    if x.arrived g m then o else SMap.set (fun _ => 0) o m (x.owes m + (g.expect - x.has m))) x.owed
  let chunks := others.foldl (fun c m => SMap.set (fun _ => 0) c m (x.has m - g.expect)) x.chunks
  let early := late.filter (fun m => x.arrived g m)
  { x with owed := owed, chunks := chunks, late := late.filter (fun m => !x.arrived g m),
           carriedNext := if g.policyNext then early else [], next := g.policyNext, carriedIn := carried, closed := true,
           order := others.foldl (fun o m => if x.arrived g m then o.erase m else o) x.order }

/-- A bitmap of 65,536 members (R413). -/
def memberMap (ms : List Nat) : List Byte :=
  (List.range 8192).map (fun i => BitVec.ofNat 8 ((List.range 8).foldl (fun n b => n + (if ms.contains (8 * i + b) then 2 ^ b else 0)) 0))

/-- Ascending order without repeats, for member lists. -/
def ascending (ms : List Nat) (n : Nat) : List Nat := (List.range n).filter (fun i => ms.contains i)

/-- The close record of a group of `n` members (R413). -/
def closeRecord (step n : Nat) (late carried order : List Nat) : List Byte :=
  le 8 step ++ le 4 late.length ++ le 4 carried.length ++ memberMap late ++ memberMap carried ++ fit (2 * n) (order.flatMap (le 2))

/-- The body of a CLOSE entry (R494). -/
def closeBody (g : Nat) (r : GroupRec) (own : Nat) (late carried order : List Nat) : List Byte :=
  le 1 g ++ le 1 (bitIf r.policyNext 0 + bitIf r.arrivalFold 1) ++ le 2 own ++ le 4 late.length ++ le 4 carried.length ++
  le 4 order.length ++ (late ++ carried ++ order).flatMap (le 2)

/-- A signal that the network did not carry from a core of this module: it counts among the remote signals (R369, R415). -/
def State.remoteSignal (s : State) (pen core ctr : Nat) (add : Word32) : State :=
  let k := 256 * core + ctr
  (s.applySignal pen core ctr add).onJob pen (fun j =>
    { j with sigSums := SMap.set (fun _ => 0#32) j.sigSums k (SMap.get (fun _ => 0#32) j.sigSums k + add) })

/-! ### Replay from a ledger (R40, R41) -/

/-- The pen's job consumes a ledger (R40, R500). -/
def State.replayMode (s : State) (pen : Nat) : Bool := (s.jobD pen).replay

/-- The imported entries of a step in order, those consumed left out (R40). -/
def importedLeft (j : Job) (a : Attempt) : List ImportedEntry :=
  (j.imported.filter (fun e => decide (e.step = a.step))).drop a.consumed

/-- The next imported entry is consumed. -/
def State.consume (s : State) (pen : Nat) : State :=
  (s.onJob pen (fun j => { j with cur := j.cur.map (fun a => { a with consumed := a.consumed + 1 }) })).importedReg pen

/-- LEDGER_MISMATCH with the index of the entry (R41, R515). -/
def State.ledgerMismatch (s : State) (pen : Nat) : State :=
  let ix := ((s.jobD pen).cur.map Attempt.consumed).getD 0
  (s.postBoth pen evLedgerMismatch (s.stepOf pen) [ef ix]).terminal pen evLedgerMismatch [ef ix]

/-- A decision whose entry is already known, made at an attempt: a replay compares it with the ledger's (R40, R41), and the
entry joins the run ledger (R38). -/
def State.ledgerDecision (s : State) (pen : Nat) (e : List Byte) : State :=
  match (s.jobD pen).cur with
  | none => s
  | some a =>
    if s.replayMode pen then
      match importedLeft (s.jobD pen) a with
      | i :: _ => if i.bytes = e then (s.consume pen).ledgerAppend pen e else s.ledgerMismatch pen
      | [] => s.ledgerMismatch pen
    else s.ledgerAppend pen e

/-! ### The close (R410 to R414) -/

/-- Closes a group with the policy and the lists of its decision, in the order of R411. -/
def State.closeWith (s : State) (pen g : Nat) (r : GroupRec) (own : Nat) (late carried order : List Nat) (recorded : Option (List Byte)) : State :=
  let step := s.stepOf pen
  let others := otherMembers r own
  let s := s.onJob pen (fun j => onGroupRx j g (fun x => x.close r others late carried))
  let s := s.vaStore pen r.closeVa (closeRecord step (r.membersM1 + 1) late carried order)
  let s := if s.fld .devMode 1 1 = 1 ∧ (late ≠ [] ∨ carried ≠ [] ∨ r.arrivalFold) then
      s.ledgerAppend pen (recorded.getD (ledgerEntry 2 0 step (closeBody g r own late carried order)))
    else s
  let s := if late.isEmpty then s
    else ((s.orStatus pen stStraggler).bump .xglGroupStat 48 16 (64 * (pen - 1) + g)).postPen pen 328 step
      [ef g, ef late.length, ef carried.length]
  s.remoteSignal pen r.closeCore r.closeCtr 1#32

/-- The lists of a CLOSE entry: late, carried, order. -/
def closeLists (e : List Byte) : List Nat × List Nat × List Nat :=
  let nl := fieldAt e 0x14 4
  let nc := fieldAt e 0x18 4
  let no := fieldAt e 0x1C 4
  let at_ (i : Nat) := fieldAt e (0x20 + 2 * i) 2
  ((List.range nl).map at_, (List.range nc).map (fun i => at_ (nl + i)), (List.range no).map (fun i => at_ (nl + nc + i)))

/-- Closes a group from what has arrived (R410, R412, R413). -/
def State.closeNow (s : State) (pen g own : Nat) : State :=
  let j := s.jobD pen
  let r := groupRec j g
  let x := groupRxOf j g
  let n := r.membersM1 + 1
  let late := (otherMembers r own).filter (fun m => !x.arrived r m)
  s.closeWith pen g r own late (ascending x.carriedNext n) (if r.arrivalFold then own :: x.order.eraseDups else []) none

/-- Closes a group whose members have all arrived, in a replay (R414): the next entry of the ledger decides when it names the
group, with the policy that it records; an entry of another type, or one that is not this module's close of such a group, is a mismatch
(R41); a group that a later entry names waits for its turn; one that none names made no entry, which an arrival fold must have made. -/
def State.closeReplay (s : State) (pen g own : Nat) (a : Attempt) : State :=
  let j := s.jobD pen
  let r := groupRec j g
  let names (e : ImportedEntry) := decide (fieldAt e.bytes 0x10 1 = g)
  match importedLeft j a with
  | e :: t =>
    if e.kind ≠ 2 then s.ledgerMismatch pen
    else if names e then
      let l := closeLists e.bytes
      let how := fieldAt e.bytes 0x11 1
      if fieldAt e.bytes 0x12 2 = own ∧ how.testBit 1 = r.arrivalFold then
        (s.consume pen).closeWith pen g { r with policyNext := how.testBit 0 } own l.1 l.2.1 l.2.2 (some e.bytes)
      else s.ledgerMismatch pen
    else if t.any (fun e => decide (e.kind = 2) && names e) then s
    else if r.arrivalFold then s.ledgerMismatch pen
    else s.closeWith pen g r own [] [] [] none
  | [] => if r.arrivalFold then s.ledgerMismatch pen else s.closeWith pen g r own [] [] [] none

/-- A group may close: it is a closing group that has not closed in the attempt, and the module is its member. -/
def mayClose (j : Job) (g : Nat) : Option (Attempt × Nat) :=
  match j.cur, (groupRec j g).memberOf j.rank with
  | some a, some own =>
    if (groupRec j g).closing ∧ !(groupRxOf j g).closed ∧ !a.wordSent then some (a, own) else none
  | _, _ => none

/-- Closes a group when every other member has arrived (R410). -/
def State.tryClose (s : State) (pen g : Nat) : State :=
  let j := s.jobD pen
  match mayClose j g with
  | some (a, own) =>
    if (otherMembers (groupRec j g) own).all (fun m => (groupRxOf j g).arrived (groupRec j g) m) then
      (if s.replayMode pen then s.closeReplay pen g own a else s.closeNow pen g own)
    else s
  | none => s

/-- Closes every group that can, as often as a replay's order lets one follow another. -/
def State.tryCloseAll (s : State) (pen : Nat) : State :=
  (List.range (if s.replayMode pen then 64 else 1)).foldl (fun s _ => (List.range 64).foldl (fun s g => s.tryClose pen g) s) s

/-- A complete chunk of a rank reaches a group (R410, R419). -/
def State.chunkDone (s : State) (pen g rank : Nat) : State :=
  let r := groupRec (s.jobD pen) g
  let s := s.onJob pen (fun j => onGroupRx j g (fun x => x.count r ((r.memberOf rank).getD 0)))
  if s.replayMode pen then s.tryCloseAll pen else s.tryClose pen g

/-- The deadline of a group passes (R410): it closes on what has arrived; a replay never closes at a deadline (R414). -/
def execCloseDeadline (pen : Pen) (g : Nat) (s : State) : Out :=
  match mayClose (s.jobD pen) g with
  | some (_, own) => whenOk ((s.job pen).isSome && (groupRec (s.jobD pen) g).deadline && !s.replayMode pen) s (s.closeNow pen g own)
  | none => .next s

end Sys2Proof.Machine
end

