-- ==== Sys2Proof/Machine/SlotDecode.lean ====
section
/-!
DEFINITION. The decoder of a bundle's slots: which instruction the word of a slot is, its opcode and its fields read by the tables of
R238 and R239 (control), R250 (matrix), R243, R244 and R246 (vector) and R252 (move).  The loader's checks of the words stand in
BundleDecode; a word that they refuse has no instruction here, or is read by its listed fields alone.
-/

namespace Sys2Proof.Machine

/-! ### Fields -/

/-- Bits of a slot word. -/
def wbits (w lo n : Nat) : Nat := w / 2 ^ lo % 2 ^ n

/-- Fields that name a register, a descriptor slot or a mover. -/
def fldS (w lo : Nat) : SReg := ⟨wbits w lo 6, Nat.mod_lt _ (by decide)⟩
def fldV (w lo : Nat) : VReg := ⟨wbits w lo 5, Nat.mod_lt _ (by decide)⟩
def fldP (w lo : Nat) : PReg := ⟨wbits w lo 3, Nat.mod_lt _ (by decide)⟩
def fldD (w lo : Nat) : DSlot := ⟨wbits w lo 4, Nat.mod_lt _ (by decide)⟩
def fldM (w lo : Nat) : MoverIx := ⟨wbits w lo 2, Nat.mod_lt _ (by decide)⟩

/-- A field of bits, and a field of one bit. -/
def fldB (w lo n : Nat) : BitVec n := BitVec.ofNat n (wbits w lo n)
def fld1 (w lo : Nat) : Bool := decide (wbits w lo 1 = 1)

/-- Predicate control (R243): bit 3 enables, bits 2 to 0 name the register. -/
def fldPq (w lo : Nat) : PredCtl := if fld1 w (lo + 3) then some (fldP w lo) else none

/-- The rounding options (R86). -/
def rmOfCode (c : Nat) : Option Rm := [Rm.rne, .rz, .sr, .ru, .rd, .rna][c]?

/-- The branch conditions (R239) and the conditions of `vcmp` (R246). -/
def brCondOfCode (c : Nat) : Option BrCond := [BrCond.eq, .ne, .lt, .ge, .ltu, .geu][c]?
def vCondOfCode (c : Nat) : Option VCond := [VCond.eq, .ne, .lt, .le][c]?

/-- The forms of a reduction (R127) and the row-wise functions (R171). -/
def vredFormOfCode (c : Nat) : Option Form := [Form.product, .sum, .squares][c]?
def rowFnOfCode (c : Nat) : Option RowFn := [RowFn.none, .expSub, .exp, .sigmoid, .tanh, .erf, .gelu][c]?

/-! ### The control slot (R238, R239) -/

/-- An instruction of format CR by its opcode. -/
def crInstr (u : CoreRef) (op : Nat) (rd ra rb rc : SReg) : Option Instr :=
  [Instr.add u rd ra rb, .sub u rd ra rb, .mul u rd ra rb, .mulhu u rd ra rb, .andS u rd ra rb, .orS u rd ra rb, .xorS u rd ra rb,
   .shl u rd ra rb, .shr u rd ra rb, .sra u rd ra rb, .minS u rd ra rb, .maxS u rd ra rb, .minu u rd ra rb, .maxu u rd ra rb,
   .slt u rd ra rb, .sltu u rd ra rb, .sel u rd ra rb rc][op - 0x08]?

/-- The instruction of a control-slot word. -/
def controlInstr (u : CoreRef) (w : Nat) : Option Instr :=
  let op := wbits w 0 8
  let rd := fldS w 8
  let ra := fldS w 14
  let imm := fldB w 32 32
  if op = 0x00 then some (.nop u)
  else if op = 0x01 then some (.endProg u)
  else if op = 0x02 then some (.li u rd imm)
  else if op = 0x03 then some (.lih u rd ra imm)
  else if op = 0x04 then some (.addi u rd ra imm)
  else if 0x08 ≤ op ∧ op ≤ 0x18 then crInstr u op rd ra (fldS w 20) (fldS w 26)
  else if op = 0x20 then some (.sld u rd ra imm)
  else if op = 0x21 then some (.sldW u rd ra imm)
  else if op = 0x22 then some (.sst u rd ra imm)
  else if op = 0x23 then some (.sstW u rd ra imm)
  else if op = 0x28 then some (.br u imm)
  else if op = 0x29 then (brCondOfCode (wbits w 8 4)).map (fun k => .bc u k (fldS w 12) (fldS w 18) imm)
  else if op = 0x2C then some (.lbeg u (fldD w 8) (fldS w 12) (fldS w 18) (fldB w 24 16))
  else if op = 0x30 then some (.sigAdd u (fld1 w 22) (fldB w 8 8) (fldS w 16) imm)
  else if op = 0x31 then some (.waitGe u (fldB w 8 8) (fldS w 16) imm)
  else if op = 0x32 then some (.waitEq u (fldB w 8 8) (fldS w 16) imm)
  else if op = 0x33 then some (.syncFence u)
  else if op = 0x38 then some (.csrr u rd (fldB w 20 12))
  else if op = 0x39 then some (.csrw u ra (fldB w 20 12))
  else if op = 0x3A then some (.csrc u ra (fldB w 20 12))
  else none

/-! ### The matrix slot (R250) -/

/-- The instruction of a matrix-slot word; none for a `nop`. -/
def matrixInstr (u : CoreRef) (w : Nat) : Option Instr :=
  let op := wbits w 0 8
  let n := fldB w 32 16
  let sb := fldS w 22
  let sa := fldS w 16
  match Fmt.ofCode (wbits w 8 4), Fmt.ofCode (wbits w 12 4) with
  | some fa, some fb =>
    if op = 0x01 then some (.manc u (fldS w 21) (fldV w 16) fb fa)
    else if op = 0x02 then some (.mancChain u (fldS w 21) (fldV w 16) fb)
    else if op = 0x08 then some (.mtile u n sb sa fb fa)
    else if op = 0x09 then some (.mtileFirst u n sb sa fb fa)
    else if op = 0x0A then some (.mtileFirstSwap u n sb sa fb fa)
    else if op = 0x0C then some (.mtileX3 u n sb sa)
    else if op = 0x0D then some (.mtileX3First u n sb sa)
    else if op = 0x0E then some (.mtileX3FirstSwap u n sb sa)
    else if op = 0x20 then
      match Fmt.ofCode (wbits w 16 4), rowFnOfCode (wbits w 46 4) with
      | some fc, some fn =>
        some (.mchain u (fld1 w 57) (fld1 w 55) (fldV w 50) fn (fldB w 43 3) (fldB w 27 16) (fldS w 21) (fld1 w 20) fc fb fa)
      | _, _ => none
    else none
  | _, _ => none

/-- The instruction of a matrix-slot word that has no pair of operand formats: a swap, a load or a drain (R250, R251). -/
def drainInstr (u : CoreRef) (w : Nat) : Option Instr :=
  let op := wbits w 0 8
  if op = 0x10 then some (.mswap u)
  else if op = 0x11 then some (.mloadLf u (fldS w 16))
  else if op = 0x12 then some (.mloadWlf u (fldS w 16))
  else if op = 0x19 then some (.mdrainLf u (fldS w 14))
  else if op = 0x1A then some (.mdrainWlf u (fldS w 14))
  else if op = 0x18 then
    match Fmt.ofCode (wbits w 8 4), rowFnOfCode (wbits w 20 4) with
    | some fmt, some fn =>
      some (.mdrain u (if fld1 w 44 then some (fldS w 45) else none) (if fld1 w 37 then some (fldS w 38) else none) (fldS w 31)
        (fld1 w 29) (fldV w 24) fn (if fld1 w 13 then some (fldS w 14) else none) (fld1 w 12) fmt)
    | _, _ => none
  else none

/-! ### The vector slot (R243 to R249) -/

/-- An arithmetic instruction of format VA by its opcode (R244): 0x01 to 0x0D. -/
def vaInstr (u : CoreRef) (op : Nat) (f : Fmt) (rm : Rm) (sat : Bool) (pq : PredCtl) (vd va vb vc : VReg) : Option Instr :=
  [Instr.vadd u f rm sat pq vd va vb, .vsub u f rm sat pq vd va vb, .vmul u f rm pq vd va vb, .vfma u f rm pq vd va vb vc,
   .vmin u f pq vd va vb, .vmax u f pq vd va vb, .vabs u f pq vd va, .vneg u f pq vd va, .vcopysign u f pq vd va vb,
   .vdiv u rm pq vd va vb, .vrecip u rm pq vd va, .vsqrt u rm pq vd va, .vrsqrt u rm pq vd va][op - 0x01]?

/-- A Fast function by its opcode: 0x10 to 0x16. -/
def vfInstr (u : CoreRef) (op : Nat) (pq : PredCtl) (vd va : VReg) : Option Instr :=
  [Instr.vexp u pq vd va, .vexp2 u pq vd va, .vlog u pq vd va, .vtanh u pq vd va, .vsigmoid u pq vd va, .verf u pq vd va,
   .vgelu u pq vd va][op - 0x10]?

/-- A bitwise operation or a shift by its opcode: 0x18 to 0x1D. -/
def vbInstr (u : CoreRef) (op : Nat) (f : Fmt) (pq : PredCtl) (vd va vb : VReg) : Option Instr :=
  [Instr.vand u f pq vd va vb, .vor u f pq vd va vb, .vxor u f pq vd va vb, .vshl u f pq vd va vb, .vshr u f pq vd va vb,
   .vsra u f pq vd va vb][op - 0x18]?

/-- A predicate instruction by its opcode: 0x40 to 0x44. -/
def vpInstr (u : CoreRef) (op : Nat) (pq : PredCtl) (pd pa pb : PReg) (sx : SReg) : Option Instr :=
  [Instr.pand u pq pd pa pb, .por u pq pd pa pb, .pxor u pq pd pa pb, .pnot u pq pd pa, .pset u pq pd sx][op - 0x40]?

/-- A comparison, a selection, a move or a crest of format VA: 0x20 to 0x25 and 0x29. -/
def vmInstr (u : CoreRef) (w : Nat) (f : Fmt) : Option Instr :=
  let op := wbits w 0 8
  let pq := fldPq w 36
  let vd := fldV w 16
  let va := fldV w 21
  let vb := fldV w 26
  let sx := fldS w 40
  if op = 0x20 then (vCondOfCode (wbits w 12 3)).map (fun k => .vcmp u f k pq (fldP w 16) va vb)
  else if op = 0x21 then some (.vsel u f (fldP w 36) vd va vb)
  else if op = 0x22 then some (.vmov u f pq vd va)
  else if op = 0x23 then some (.vbcast u f pq vd sx)
  else if op = 0x24 then some (.vext u f pq (fldS w 46) va sx)
  else if op = 0x25 then some (.vrot u pq vd va sx)
  else if op = 0x29 then some (.vcrest u f pq (fldS w 46) va)
  else none

/-- An instruction of format VC, VM, VR or VL: 0x28, 0x30, 0x31, 0x38 to 0x3A. -/
def vxInstr (u : CoreRef) (w : Nat) : Option Instr :=
  let op := wbits w 0 8
  if op = 0x28 then
    match Fmt.ofCode (wbits w 8 4), Fmt.ofCode (wbits w 12 4), rmOfCode (wbits w 16 3) with
    | some d, some f, some rm =>
      some (.vcvt u d f rm (fld1 w 19) (fldB w 20 2) (fldB w 48 16) (fldS w 42) (fldS w 36) (fldPq w 32) (fldV w 22) (fldV w 27))
    | _, _, _ => none
  else if op = 0x30 then some (.vld u (fldB w 52 12) (fldS w 46) (fldS w 40) (fldPq w 36) (fldV w 16))
  else if op = 0x31 then some (.vst u (fldB w 52 12) (fldS w 46) (fldS w 40) (fldPq w 36) (fldV w 16))
  else if op = 0x38 then
    match Fmt.ofCode (wbits w 8 4), vredFormOfCode (wbits w 12 2) with
    | some f, some k =>
      some (.vred u (fld1 w 48) (fldPq w 44) (fldS w 38) (fldS w 32) (fldV w 27) (fldV w 22) (fldV w 17) (wbits w 14 3) k f)
    | _, _ => none
  else if op = 0x39 then some (.vlfComb u (fldB w 39 16) (fldS w 33) (fldS w 27) (fldS w 21) (fld1 w 13))
  else if op = 0x3A then
    (Fmt.ofCode (wbits w 8 4)).map (fun f => .vlfDrain u f (fld1 w 12) (fld1 w 13) (fldS w 27) (fldV w 16))
  else none

/-- The instruction of a vector-slot word; none for a `nop`. -/
def vectorInstr (u : CoreRef) (w : Nat) : Option Instr :=
  let op := wbits w 0 8
  let pq := fldPq w 36
  let vd := fldV w 16
  let va := fldV w 21
  let vb := fldV w 26
  if 0x40 ≤ op then vpInstr u op pq (fldP w 16) (fldP w 21) (fldP w 26) (fldS w 40)
  else if op = 0x28 ∨ 0x30 ≤ op then vxInstr u w
  else match Fmt.ofCode (wbits w 8 4) with
  | none => none
  | some f =>
    if 0x20 ≤ op then vmInstr u w f
    else if 0x18 ≤ op then vbInstr u op f pq vd va vb
    else if 0x10 ≤ op then vfInstr u op pq vd va
    else if op = 0 then none
    else match rmOfCode (wbits w 12 3) with
      | some rm => vaInstr u op f rm (fld1 w 15) pq vd va vb (fldV w 31)
      | none => none

/-! ### The move slot (R252) -/

/-- The instruction of a move-slot word; none for a `nop`. -/
def moveInstr (u : CoreRef) (w : Nat) : Option Instr :=
  let op := wbits w 0 8
  let m := fldM w 8
  if op = 0x01 then some (.mxfer u (fldS w 36) (fldS w 30) (fldS w 24) (fldS w 18) (fldD w 14) (fldD w 10) m)
  else if op = 0x02 then
    (Fmt.ofCode (wbits w 36 4)).map (fun f => .mscanCrest u f (fldS w 30) (fldS w 24) (fldS w 18) (fldD w 14) (fldD w 10) m)
  else if op = 0x03 then some (.mscanCmax u (fldS w 36) (fldS w 30) (fldS w 24) (fldS w 18) (fldD w 14) (fldD w 10) m)
  else if op = 0x04 then some (.mstop u m)
  else if op = 0x08 then some (.dld u (fldB w 32 32) (fldS w 12) (fldD w 8))
  else if op = 0x09 then some (.dst u (fldB w 32 32) (fldS w 12) (fldD w 8))
  else if op = 0x0A then some (.dset u (fldB w 20 3) (fldS w 12) (fldD w 8))
  else none

/-- The instruction of a slot's word: 0 control, 1 matrix, 2 vector, 3 move (R227). -/
def slotInstr (u : CoreRef) (slot w : Nat) : Option Instr :=
  match slot with
  | 0 => controlInstr u w
  | 1 => matrixInstr u w <|> drainInstr u w
  | 2 => vectorInstr u w
  | 3 => moveInstr u w
  | _ => none

end Sys2Proof.Machine
end

