-- ==== Sys2Proof/Machine/Interlock.lean ====
section
/-!
DEFINITION. The interlocks of R235 and the issue of a bundle as a unit (R228, R229): what a matrix instruction enters into its queue,
the scratchpad bytes that an instruction reads or writes at issue, whether its unit accepts it, and when its bundle issues.
-/

namespace Sys2Proof.Machine

/-! ### Matrix instructions as queue entries (R163, R250, R251) -/

/-- All lanes poisoned, or none. -/
def allLanes (b : Bool) : BitVec 128 := if b then ~~~0#128 else 0#128

/-- The entries of a queue (R163). -/
def mxQueueSize : Nat := 4

/-- An address of R251: the low 24 bits of a register. -/
def addr24 (x : Word64) : Nat := getBits x 0 24

/-- The mask word of a drain or chain (R172). -/
def maskWord (causal : Bool) (x : Word64) : Option (Nat × Nat) := if causal then some (getBits x 0 24, getBits x 24 24) else none

/-- The row-sum word (R251): the address and the explicit anchor. -/
def rsumWord (x : Word64) : Nat × Int := (addr24 x, sext16 (getBits x 32 16))

/-- The poison that the row operands and the mask bring to each row (R233): the operand of row i by EXP_SUB, the mask to
every row. -/
def rowsPoison (r : RegFile) (vrow : VReg) (fn : RowFn) (maskBad : Bool) : BitVec 128 :=
  (if fn = .expSub then r.vBad vrow else 0#128) ||| allLanes maskBad

/-- A scalar register a number of places after another (R251). -/
def regAfter (sb : SReg) (k : Nat) : SReg := ⟨(sb.val + k) % 64, Nat.mod_lt _ (by decide)⟩

/-- An accumulation with its panels' addresses from two registers (R166). -/
def tileCmd (c : Core) (first swap x3 : Bool) (n : BitVec 16) (sb sa : SReg) (fb fa : Fmt) : MxCmd :=
  .tile first swap x3 fa fb (c.rf0.sGet sa).toNat (c.rf0.sGet sb).toNat n.toNat

/-- A fused or direct drain with its operands read (R170, R251). -/
def drainCmd (c : Core) (srsum srmax : Option SReg) (smask : SReg) (causal : Bool) (vrow : VReg) (fn : RowFn) (sdst : Option SReg)
    (sat : Bool) (fmt : Fmt) : MxCmd :=
  .drain fmt sat (sdst.map (fun i => addr24 (c.rf0.sGet i))) fn (c.rf0.vGet vrow)
    (rowsPoison c.rf0 vrow fn (causal && c.rf0.sBad smask)) (maskWord causal (c.rf0.sGet smask))
    (srmax.map (fun i => addr24 (c.rf0.sGet i))) (srsum.map (fun i => rsumWord (c.rf0.sGet i)))

/-- A chained product with its six parameter registers read (R175, R251). -/
def chainCmd (c : Core) (rsumEn causal : Bool) (vrow : VReg) (fn : RowFn) (n1m1 : BitVec 3) (nt : BitVec 16) (sb : SReg) (first : Bool)
    (fc fb fa : Fmt) : MxCmd :=
  let g (k : Nat) : Word64 := c.rf0.sGet (regAfter sb k)
  .chain fa fb fc first (g 0).toNat (g 1).toNat (g 2).toNat (g 3).toNat nt.toNat (n1m1.toNat + 1) fn (c.rf0.vGet vrow)
    (rowsPoison c.rf0 vrow fn (causal && c.rf0.sBad (regAfter sb 4))) (maskWord causal (g 4))
    (if rsumEn then some (rsumWord (g 5)) else none)

/-- The entry that an instruction puts into the array queue (R164). -/
def arrayCmd (c : Core) (i : Instr) : Option MxCmd :=
  match i with
  | .mtile _ n sb sa fb fa => some (tileCmd c false false false n sb sa fb fa)
  | .mtileFirst _ n sb sa fb fa => some (tileCmd c true false false n sb sa fb fa)
  | .mtileFirstSwap _ n sb sa fb fa => some (tileCmd c true true false n sb sa fb fa)
  | .mtileX3 _ n sb sa => some (tileCmd c false false true n sb sa .fp32 .fp32)
  | .mtileX3First _ n sb sa => some (tileCmd c true false true n sb sa .fp32 .fp32)
  | .mtileX3FirstSwap _ n sb sa => some (tileCmd c true true true n sb sa .fp32 .fp32)
  | .mswap _ => some .swap
  | .mloadLf _ ssrc => some (.load false (c.rf0.sGet ssrc).toNat)
  | .mloadWlf _ ssrc => some (.load true (c.rf0.sGet ssrc).toNat)
  | .mchain _ rsumEn causal vrow fn n1m1 nt sb first fc fb fa =>
    some (chainCmd c rsumEn causal vrow fn n1m1 nt sb first fc fb fa)
  | _ => none

/-- The entry that an instruction puts into the drain queue (R164). -/
def drainQCmd (c : Core) (i : Instr) : Option MxCmd :=
  match i with
  | .mdrain _ srsum srmax smask causal vrow fn sdst sat fmt => some (drainCmd c srsum srmax smask causal vrow fn sdst sat fmt)
  | .mdrainLf _ sdst => some (.drainLf false (addr24 (c.rf0.sGet sdst)))
  | .mdrainWlf _ sdst => some (.drainLf true (addr24 (c.rf0.sGet sdst)))
  | _ => none

/-! ### Scratchpad bytes of an instruction (R235) -/

/-- The size of an element of a long-form array. -/
def lfSize (wide : Bool) : Nat := if wide then 140 else 20

/-- The base and the stride of `vld` and `vst` (R245): 64 when the stride register is s0. -/
def vmBase (c : Core) (off : BitVec 12) (sb : SReg) : Nat := (c.rf0.sGet sb + (off.signExtend 64) * 64#64).toNat
def vmStride (c : Core) (sstr : SReg) : Int := if sstr.val = 0 then 64 else (c.rf0.sGet sstr).toInt

/-- The address of line i. -/
def vmLine (base : Nat) (stride : Int) (i : Nat) : Nat := ((base : Int) + stride * i).toNat

/-- The eight lines of `vld` and `vst`. -/
def vmAccesses (c : Core) (write : Bool) (off : BitVec 12) (sstr sb : SReg) : List Access :=
  (List.range 8).map (fun i => ⟨write, vmLine (vmBase c off sb) (vmStride c sstr) i, 64⟩)

/-- The address of a scalar or slot access: a register and an immediate (R239, R252). -/
def immAddr (c : Core) (ra : SReg) (imm : BitVec 32) : Nat := (c.rf0.sGet ra + sext64 imm).toNat

/-- The scratchpad bytes that an instruction reads or writes; those of a queued matrix instruction are reserved from its entry on. -/
def Core.instrAccess (c : Core) (i : Instr) : List Access :=
  match i with
  | .sld _ _ ra imm => [⟨false, immAddr c ra imm, 8⟩]
  | .sldW _ _ ra imm => [⟨false, immAddr c ra imm, 4⟩]
  | .sst _ _ ra imm => [⟨true, immAddr c ra imm, 8⟩]
  | .sstW _ _ ra imm => [⟨true, immAddr c ra imm, 4⟩]
  | .vld _ off sstr sb _ _ => vmAccesses c false off sstr sb
  | .vst _ off sstr sb _ _ => vmAccesses c true off sstr sb
  | .vred _ _ _ _ saddr _ _ _ seg _ _ => [⟨true, (c.rf0.sGet saddr).toNat, 2 ^ seg * lfSize c.cfg.strict⟩]
  | .vlfComb _ n sb sa sd wide =>
    [⟨false, (c.rf0.sGet sa).toNat, n.toNat * lfSize wide⟩, ⟨false, (c.rf0.sGet sb).toNat, n.toNat * lfSize wide⟩,
     ⟨true, (c.rf0.sGet sd).toNat, n.toNat * lfSize wide⟩]
  | .vlfDrain _ fmt _ wide sa _ => [⟨false, (c.rf0.sGet sa).toNat, fmtElems fmt * lfSize wide⟩]
  | .dld _ imm sa _ => [⟨false, immAddr c sa imm, 64⟩]
  | .dst _ imm sa _ => [⟨true, immAddr c sa imm, 64⟩]
  | _ => ((arrayCmd c i <|> drainQCmd c i).map c.mxAccess).getD []

/-- A line that the instruction reads or writes has an outstanding access that conflicts (R235). -/
def Core.spadHeld (c : Core) (i : Instr) : Bool := (c.instrAccess i).any (fun x => c.busy x.write x.lo x.len)

/-! ### Units (R163, R164, R177, R198, R237) -/

/-- A drain to a format has not ended: it sets flags under Strict arithmetic (R145, R237). -/
def Core.flagsInFlight (c : Core) : Bool :=
  c.cfg.strict && (c.mx.draining || c.mx.drainQ.any (fun e => match e.cmd with | .drain .. => true | _ => false))

/-- The unit of an instruction does not accept it: a full queue, a latch in use, an `mchain` that owns the drain pipe while a Fast
function is named (R163, R164, R177, R198); and `csrr` of CORE_FLAGS waits for the flags in flight (R237). -/
def Core.unitHeld (c : Core) (i : Instr) : Bool :=
  match i with
  | .manc .. => c.mx.pendingLatch.isSome
  | .mancChain .. => c.mx.chain.isSome
  | .vexp .. => c.mx.chain.isSome
  | .vexp2 .. => c.mx.chain.isSome
  | .vlog .. => c.mx.chain.isSome
  | .vtanh .. => c.mx.chain.isSome
  | .vsigmoid .. => c.mx.chain.isSome
  | .verf .. => c.mx.chain.isSome
  | .vgelu .. => c.mx.chain.isSome
  | .vdiv .. => !c.cfg.strict && c.mx.chain.isSome
  | .vrecip .. => !c.cfg.strict && c.mx.chain.isSome
  | .vrsqrt .. => !c.cfg.strict && c.mx.chain.isSome
  | .mxfer _ _ _ _ _ _ _ m => decide (8 ≤ (c.mover m.val).queue.length)
  | .mscanCrest _ _ _ _ _ _ _ m => decide (8 ≤ (c.mover m.val).queue.length)
  | .mscanCmax _ _ _ _ _ _ _ m => decide (8 ≤ (c.mover m.val).queue.length)
  | .csrr _ _ csr => decide (csr.toNat = 2) && c.flagsInFlight
  | _ =>
    ((arrayCmd c i).isSome && decide (mxQueueSize ≤ c.mx.arrayQ.length)) ||
    ((drainQCmd c i).isSome && decide (mxQueueSize ≤ c.mx.drainQ.length))

/-- An instruction does not meet its interlock conditions (R235). -/
def Core.interlocked (c : Core) (i : Instr) : Bool := c.unitHeld i || c.spadHeld i

/-! ### Bundles (R227 to R229) -/

/-- The slot words of a bundle of the program that a core runs; none without an image. -/
def State.bundleAt (s : State) (u : CoreRef) (pc : Nat) : List Nat :=
  match (s.jobD u.pen).images[(s.core (refKey u)).cfg.image]? with
  | some b => if pc < (s.core (refKey u)).cfg.bundleCount then (chunks 8 (slice b (fieldAt b 0x1C 4 + 32 * pc) 32)).map leNum else []
  | none => []

/-- Another slot of the bundle holds an instruction that does not meet its interlock conditions. -/
def State.bundleHeld (s : State) (u : CoreRef) (c : Core) (slot : Nat) : Bool :=
  let ws := s.bundleAt u c.pc
  (List.range 4).any (fun k => decide (k ≠ slot) &&
    (match slotInstr u k (ws.getD k 0) with
     | some i => c.interlocked i
     | none => false))

/-- The core of a bundle may issue at all: its units run, its turn has come, its program has not ended beyond this slot (R61, R214,
R265), and no other slot of its bundle is held. -/
def State.canIssue (s : State) (u : CoreRef) (slot : Nat) : Bool :=
  let c := s.core (refKey u)
  s.unitsRun u.pen && turnAllows (s.jobD u.pen) u.logical &&
  (decide (c.run = .running) || (decide (c.run = .ending) && decide (c.slot < slot))) &&
  (c.held.isNone || decide (c.held = some slot))

/-- The instruction meets its interlock conditions, and when it is the first of its bundle so do those of the other slots: the bundle
issues as a unit or not at all (R228, R229). -/
def State.ready (s : State) (i : Instr) (u : CoreRef) (slot : Nat) : Bool :=
  let c := s.core (refKey u)
  !(c.begin slot).interlocked i && (decide (c.slot < slot) || !s.bundleHeld u (c.begin slot) slot)

/-- A core may issue an instruction of a slot. -/
def State.mayIssue (s : State) (i : Instr) (u : CoreRef) (slot : Nat) : Bool := s.canIssue u slot && s.ready i u slot

/-- An instruction of a slot issues: its meaning takes the core as the instruction finds it.  An interlock holds the bundle, and with it
every later one (R229): the core records the slot that waits, and takes the instructions of other slots only after that slot's has
issued (DEDUCED, log entry 7). -/
def State.issue (s : State) (i : Instr) (u : CoreRef) (slot : Nat) (body : Core → State) : Out :=
  let c := s.core (refKey u)
  if !s.canIssue u slot then .next s
  else if s.ready i u slot then .next (body (c.begin slot))
  else .next (s.setCore (refKey u) { c with held := some slot })

/-- Issues an instruction of a slot when it is one that a loaded program can hold; the loader refuses any other
(R263). -/
def State.issueIf (s : State) (ok : Bool) (i : Instr) (u : CoreRef) (slot : Nat) (body : Core → State) : Out :=
  if ok then s.issue i u slot body else .next s

end Sys2Proof.Machine
end

