-- ==== Sys2Proof/Machine/Routes.lean ====
section
/-!
DEFINITION. The route of a packet (R268 to R272) and the check of its pen tag (R285).
-/

namespace Sys2Proof.Machine

/-- The place of a site: its bay and its mesh column (R48). -/
def siteCol (site : Nat) : Nat := site % 14

/-- The output ports of a core router and of a hub (R278). -/
def outN : Nat := 0
def outS : Nat := 1
def outE : Nat := 2
def outW : Nat := 3
def outCore : Nat := 4
def outStack : Nat := 5
def outSwitch : Nat := 14
def outBridge : Nat := 15
def outMem : Nat := 16
def outUnit : Nat := 17
def outLink : Nat := 18

/-- The mesh row of a bay on its die (R48, R268). -/
def meshRow (b : Nat) : Nat := b % 6

/-- The output ports along a mesh row, from one column to another (R272 rule 1). -/
def rowPath (b c1 c2 : Nat) : List NetPort :=
  if c1 ≤ c2 then (List.range (c2 - c1)).map (fun i => .router b (c1 + i) outE)
  else (List.range (c1 - c2)).map (fun i => .router b (c1 - i) outW)

/-- The output ports along a mesh column of a die, from one row to another; row 0 lies at the north edge (R268). -/
def colPath (b1 b2 col : Nat) : List NetPort :=
  if b1 ≤ b2 then (List.range (b2 - b1)).map (fun i => .router (b1 + i) col outS)
  else (List.range (b1 - b2)).map (fun i => .router (b1 - i) col outN)

/-- Every vertical link between the rows of two bays of one die is open (R271, R272). -/
def State.linksOpen (s : State) (b1 b2 : Nat) : Bool :=
  decide (dieOf b1 = dieOf b2) &&
  (List.range (max b1 b2 - min b1 b2)).all (fun i =>
    decide (s.fld .netDieCut (8 * dieOf b1 + meshRow (min b1 b2 + i)) 1 = 0))

/-- The hub path (R270, R272 rule 3): from one bay's hub through the hub switch of its die, or over its bay's bridge channel and through the
hub switch of the other die. -/
def hubPath (b1 b2 : Nat) : List NetPort :=
  if b1 = b2 then []
  else if dieOf b1 = dieOf b2 then [.hub b1 outSwitch, .switch (dieOf b1) b2]
  else [.hub b1 outBridge, .switch (dieOf b2) b2]

/-- The route to a core's router (R272). -/
def State.routeToCore (s : State) (src dst : Nat) : List NetPort :=
  let b1 := bayOfSite src
  let b2 := bayOfSite dst
  if b1 = b2 then rowPath b1 (siteCol src) (siteCol dst) ++ [.router b2 (siteCol dst) outCore]
  else if s.linksOpen b1 b2 then
    colPath b1 b2 (siteCol src) ++ rowPath b2 (siteCol src) (siteCol dst) ++ [.router b2 (siteCol dst) outCore]
  else [.router b1 (siteCol src) outStack] ++ hubPath b1 b2 ++ [.hub b2 (siteCol dst), .router b2 (siteCol dst) outCore]

/-- The route to a unit at a bay's hub: its memory controller, update unit or link port (R272). -/
def State.routeToUnit (s : State) (src b2 out : Nat) : List NetPort :=
  let b1 := bayOfSite src
  if b1 ≠ b2 ∧ s.linksOpen b1 b2 then colPath b1 b2 (siteCol src) ++ [.router b2 (siteCol src) outStack, .hub b2 out]
  else [.router b1 (siteCol src) outStack] ++ hubPath b1 b2 ++ [.hub b2 out]

/-- The bay where a logical core lives, 0 for none. -/
def State.coreBay (s : State) (pen logical : Nat) : Nat := ((placeOf (s.jobD pen) logical).head?.map bayOfSite).getD 0

/-- NET_CROSS_PEN (R294). -/
def causeCrossPen : Nat := 17

/-- The injecting router's check of a packet of any kind (R285): a destination in another pen's bay, or an injection of detector 19 (R507,
R531), discards the packet and faults the sending core.  The answer is the state after the fault, or none where the packet may go. -/
def State.crossPen (s : State) (u : CoreRef) (bundle slot : Nat) (bays : List Nat) : Option State :=
  let b0 := s.coreBay u.pen u.logical
  let f := s.fireOnPort 19 b0
  if f.2 || bays.any (fun b => decide (s.penOfBay b ≠ u.pen)) then
    some (((f.1.countEvent b0 19 0 f.2).bump .netPenFault 0 16 (u.pen - 1)).progFault u.pen u.logical bundle slot causeCrossPen)
  else none

/-- The slot clock of a pen at a network event: clk have passed that the model does not count, unless the job is stopped (R274; DESIGN CHOICE,
log entry 3). -/
def State.passSlots (s : State) (pen : Nat) : State :=
  let r := s.drawNat 32
  { r.2 with slotClk := SMap.put r.2.slotClk pen ((SMap.find s.slotClk pen).getD 0 + r.1) }

end Sys2Proof.Machine
end

