-- ==== Sys2Proof/Machine/Mover.lean ====
section
/-!
DEFINITION. The move slot and the movers: transfers, scans, squashes and descriptor slots (R198 to R213, R252), and the
movers' events.
-/

namespace Sys2Proof.Machine

/-! ### Commands -/

/-- The move slot gives a mover a command (R198, R199, R252): a full queue holds the bundle; a poisoned scalar faults
(R233); a REMOTE transfer takes the next ordinal (R357). -/
def moverPush (i : Instr) (kind : MovKind) (u : CoreRef) (m : MoverIx) (sSrc sDst sCtl sSig : SReg) (dsrc ddst cslot : DSlot) (s : State) : Out :=
  s.issue i u slotMove (fun c =>
    let r := c.rf0
    let mv := c.mover m.val
    if r.sBad sSrc || r.sBad sDst || r.sBad sCtl || r.sBad sSig then s.faultAt u c slotMove causePoisonControl
    else
      let cmd : MovCmd := { kind := kind, src := r.sGet sSrc, dst := r.sGet sDst, ctl := r.sGet sCtl, sig := r.sGet sSig,
                            dsrc := dsrc, ddst := ddst, cslot := cslot, seq := c.movSeq, bundle := c.pc, ord := c.xferOrd }
      let remote := decide (kind = .xfer) && decide (ctlDst cmd.ctl = spaceRemote)
      s.put u { (c.setMover m.val { mv with queue := mv.queue ++ [cmd] }) with
                movSeq := c.movSeq + 1, xferOrd := if remote then c.xferOrd + 1 else c.xferOrd })

def execMxfer (u : CoreRef) (sSig sCtl sDst sSrc : SReg) (ddst dsrc : DSlot) (m : MoverIx) (s : State) : Out :=
  moverPush (.mxfer u sSig sCtl sDst sSrc ddst dsrc m) .xfer u m sSrc sDst sCtl sSig dsrc ddst 0 s

/-- `mscan.crest` (R252): the walk dwalk at s_base, the crest context cslot. -/
def execMscanCrest (u : CoreRef) (fmt : Fmt) (sSig sCtl sBase : SReg) (cslot dwalk : DSlot) (m : MoverIx) (s : State) : Out :=
  moverPush (.mscanCrest u fmt sSig sCtl sBase cslot dwalk m) (.crest fmt) u m sBase 0 sCtl sSig dwalk dwalk cslot s

def execMscanCmax (u : CoreRef) (sSig sCtl sDst sSrc : SReg) (ddst dsrc : DSlot) (m : MoverIx) (s : State) : Out :=
  moverPush (.mscanCmax u sSig sCtl sDst sSrc ddst dsrc m) .cmax u m sSrc sDst sCtl sSig dsrc ddst 0 s

/-! ### Squashes -/

/-- The tagged lines of a window (R223). -/
def MovRun.tagged (r : MovRun) : Nat := runCount (r.window.flatten.filterMap (fun b => b.tag.map (fun t => t.va / 64)))

/-- The mover without the commands that a test names: outstanding reads, tags and signals not yet applied go with them
(R207). -/
def Core.squashMover (c : Core) (p : MovCmd → Bool) (m : Nat) : Core :=
  let mv := c.mover m
  let gone := mv.running.filter (fun r => p r.cmd)
  let n := gone.length + (mv.queue.filter p).length
  if n = 0 then c
  else { (c.setMover m { queue := mv.queue.filter (fun q => !p q), running := mv.running.filter (fun r => !p r.cmd), squashing := true }) with
         movSquashed := c.movSquashed + n,
         movUnconsumed := c.movUnconsumed + gone.foldl (fun k r => k + r.tagged) 0 }

/-- What a squashed run has written and not sent goes out without the done signal: a PEER unit held for its signals, and the lines
gathered for a REMOTE message; the transfer has no further message (R207, R217; DEDUCED, log entry 48). -/
def State.flushRun (s : State) (u : CoreRef) (r : MovRun) : State :=
  let m := { r.cmd with sig := r.cmd.sig &&& ~~~0x100#64 }
  match r.peer with
  | some w => s.sendPacket u.pen u.logical (ctlTarget m.ctl) (.spad w.1 (w.2.map (fun b => (b.val, b.bad)))) none
  | none =>
    if m.kind = .xfer ∧ ctlDst m.ctl = spaceRemote then
      if r.written = r.total then s.remoteLast u m r.out false
      else
        let s := if r.out.lines.isEmpty then s else (s.cutMessage u m r.out false false false).1
        s.onJob u.pen (fun j => { j with xfers := j.xfers.map (fun x =>
          if x.xfer = r.out.xfer ∧ x.dst = ctlDevice m.ctl then { x with dropped := true } else x) })
    else s

/-- The commands of some movers that a test names are squashed (R207), the core being `c`. -/
def State.squash (s : State) (u : CoreRef) (c : Core) (p : MovCmd → Bool) (ms : List Nat) : State :=
  let gone := ms.flatMap (fun m => (c.mover m).running.filter (fun r => p r.cmd))
  (gone.foldl (fun s r => s.flushRun u r) s).put u (ms.foldl (fun c m => c.squashMover p m) c)

/-- The commands of every mover that name a descriptor slot are squashed: the slot is written (R207). -/
def State.squashSlot (s : State) (u : CoreRef) (c : Core) (d : DSlot) : State :=
  s.squash u c (fun q => q.slots.contains d) (List.range 4)

def execMstop (u : CoreRef) (m : MoverIx) (s : State) : Out :=
  s.issue (.mstop u m) u slotMove (fun c => s.squash u c (fun _ => true) [m.val])

def execMoverSquashDone (u : CoreRef) (m : MoverIx) (s : State) : Out :=
  let c := s.core (refKey u)
  let mv := c.mover m.val
  whenOk (s.coreRuns u && mv.squashing) s (s.put u (c.setMover m.val { mv with squashing := false }))

/-! ### Descriptor slots (R252) -/

/-- `dld`: a slot from 64 bytes of scratchpad; the write squashes the commands that name the slot (R207).  A poisoned line
faults as poison used as control (R233; DEDUCED, log entry 22). -/
def execDld (u : CoreRef) (imm : BitVec 32) (sa : SReg) (dslot : DSlot) (s : State) : Out :=
  s.issue (.dld u imm sa dslot) u slotMove (fun c =>
    let a := immAddr c sa imm
    if c.rf0.sBad sa then s.faultAt u c slotMove causePoisonControl
    else match c.accessCause a 64 64 false with
      | some k => s.faultAt u c slotMove k
      | none =>
        match c.rangeTag a 64 with
        | some t => s.faultTag u c slotMove t
        | none =>
            if c.rangeBad a 64 then s.faultAt u c slotMove causePoisonControl
            else s.squashSlot u (c.onRf (fun r => r.dSet dslot (BitVec.ofNat 512 (leNum (c.spadRead a 64))))) dslot)

def execDst (u : CoreRef) (imm : BitVec 32) (sa : SReg) (dslot : DSlot) (s : State) : Out :=
  s.issue (.dst u imm sa dslot) u slotMove (fun c =>
    let a := immAddr c sa imm
    if c.rf0.sBad sa then s.faultAt u c slotMove causePoisonControl
    else match c.accessCause a 64 64 true with
      | some k => s.faultAt u c slotMove k
      | none => s.put u (c.spadWrite a (le 64 (c.rf0.dGet dslot).toNat)))

/-- `dset`: eight bytes of a slot from a scalar register. -/
def execDset (u : CoreRef) (k : BitVec 3) (sa : SReg) (dslot : DSlot) (s : State) : Out :=
  s.issue (.dset u k sa dslot) u slotMove (fun c =>
    if c.rf0.sBad sa then s.faultAt u c slotMove causePoisonControl
    else
      let old := c.rf.dGet dslot
      let bs := patch (le 64 old.toNat) (8 * k.toNat) (le 8 (c.rf0.sGet sa).toNat)
      s.squashSlot u (c.onRf (fun r => r.dSet dslot (BitVec.ofNat 512 (leNum bs)))) dslot)

/-! ### The start of a command -/

/-- The tier that a space's descriptor has (R199). -/
def spaceTier (sp : Nat) : Nat := if sp = spaceDev then 2 else if sp = spaceRemote then 3 else 1

/-- The check of a crest context (R210): its kind, its reserved fields, its numbers. -/
def crestCause (d : BitVec 512) : Option Nat :=
  let x := crestCtxOf d
  if x.kind ≠ 1 then some causeDescInvalid
  else if slotField d 0x06 2 ≠ 0 ∨ slotField d 0x0D 3 ≠ 0 ∨ slotField d 0x15 3 ≠ 0 ∨ slotField d 0x1E 2 ≠ 0 ∨
      slotField d 0x20 28 ≠ 0 ∨ slotField d 0x3C 4 ≠ 32 ∨ (Fmt.ofCode x.fmtCode).isNone then some causeReserved
  else if x.n = 0 ∨ x.pitch = 0 ∨ x.pitch < x.n * x.esize then some causeDescInvalid
  else none

/-- The bytes of a walk in walk order: their number in the walk and their address. -/
def walkBytes (d : Desc) (base unit : Nat) : List (Nat × Nat) :=
  (List.range d.total).flatMap (fun n => (List.range unit).map (fun i => (n * unit + i, walkAddr d base n + i)))

/-- An address holds a byte of an element of the tensor (R211). -/
def CrestCtx.inRow (x : CrestCtx) (a : Nat) : Bool :=
  decide (x.base ≤ a) && decide (x.elemOf (a - x.base) < x.n)

/-- The row and the group of an address (R211). -/
def CrestCtx.groupAt (x : CrestCtx) (a : Nat) : Nat × Nat := (x.rowOf (a - x.base), x.elemOf (a - x.base) / 64)

/-- The first address and the bytes of a group (R98). -/
def CrestCtx.groupRange (x : CrestCtx) (g : Nat × Nat) : Nat × Nat :=
  (x.base + g.1 * x.pitch + 64 * g.2 * x.esize, min 64 (x.n - 64 * g.2) * x.esize)

/-- The cases of CREST_PARTIAL (R211) over the bytes of a walk. -/
def crestPartial (x : CrestCtx) (ws : List (Nat × Nat)) : Bool :=
  ws.any (fun w => !x.inRow w.2) ||
  ws.any (fun w =>
    let r := x.groupRange (x.groupAt w.2)
    !((List.range r.2).all (fun i => ws.any (fun v => decide (v.2 = r.1 + i)))) ||
    ws.any (fun v => decide (x.groupAt v.2 = x.groupAt w.2) && decide (w.1 + 4096 < v.1)))

/-- A cause when a check fails. -/
def causeIf (b : Bool) (k : Nat) : Option Nat := if b then some k else none

/-- The reserved fields of the command words (R200, R201); of the control word of `mscan.crest` only src_space is used
(R252). -/
def movReserved (m : MovCmd) : Bool :=
  decide (getBits m.sig 13 3 ≠ 0) || decide (getBits m.sig 24 8 ≠ 0) ||
  (match m.kind with
   | .crest _ => decide (getBits m.ctl 3 61 ≠ 0)
   | _ => m.ctl.getLsbD 11 || decide (13 ≤ ctlUnitLog m.ctl))

/-- The source bound that `mscan.cmax` folds: that of the level with ord 0 (R212). -/
def innerBound (d : Desc) : Nat := d.bounds.getD (d.ords.idxOf 0) 0

/-- A side of a command lies in a declared region with the permission (R197, R254). -/
def Core.sideOk (c : Core) (space : Nat) (wr : Bool) (d : Desc) (base unit : Nat) : Bool :=
  match extentOf d base unit with
  | none => false
  | some e => match c.region space e.1 e.2 with
    | none => false
    | some r => if wr then r.wr else r.rd

/-- A base and its strides are multiples of a step (R203). -/
def alignedWalk (d : Desc) (base step : Nat) : Bool := decide (base % step = 0) && d.strides.all (fun x => decide (x % (step : Int) = 0))

/-- The checks of a command's start, in order: descriptors (R196, R210), reserved fields, spaces and tiers (R199), targets,
shape (R203, R212), alignment (R203, R357), bounds (R197), signal counters (R280), whole groups (R211).  R711 orders the checks within
one item; the order over the several items of a command (the slots before the control and the signal word, the tiers after these) is the
model's (DESIGN CHOICE, log entry 122), as is CREST_PARTIAL for a `mscan.crest` whose walk splits a group, which R211 and R100 state
for a crested store only (DESIGN CHOICE, log entry 126).  The target core of a REMOTE command is judged by this module's COUNTERS
section (DEDUCED, log entry 127). -/
def State.movStartCause (s : State) (u : CoreRef) (c : Core) (m : MovCmd) : Option Nat :=
  let j := s.jobD u.pen
  let scan := match m.kind with | .crest _ => true | _ => false
  let dS := c.rf.dGet m.dsrc
  let dD := c.rf.dGet m.ddst
  let src := descOf dS
  let dst := if scan then src else descOf dD
  let sp := ctlSrc m.ctl
  let dp := if scan then sp else ctlDst m.ctl
  let un := m.unit
  let base := if scan then m.srcBase else m.dstBase
  let step := min un 64
  let own := if dp = spacePeer then ctlTarget m.ctl else u.logical
  let bad (en : Bool) (k : Nat) := en && !(if dp = spaceRemote then grantedIn j (ctlTarget m.ctl) k else s.granted u.pen own k)
  descCause dS <|> (if scan then none else descCause dD) <|>
  (match m.crestSlot with
   | none => none
   | some k => crestCause (c.rf.dGet k) <|>
      (match m.kind with
       | .crest f => causeIf (decide (Fmt.ofCode (crestCtxOf (c.rf.dGet k)).fmtCode ≠ some f)) causeDescInvalid
       | _ => none)) <|>
  causeIf (movReserved m) causeReserved <|>
  causeIf (decide (2 ≤ sp) || decide (4 ≤ dp) || decide (src.tier ≠ spaceTier sp) || decide (dst.tier ≠ spaceTier dp) ||
    (decide (m.kind = .xfer) && ctlCrested m.ctl && decide (2 ≤ dp))) causeMovSpace <|>
  causeIf (decide (dp = spacePeer) && !targetOk j (ctlTarget m.ctl)) causeMovTarget <|>
  causeIf (decide (dp = spaceRemote) && decide (12 ≤ routePrimary (routeOf j (ctlDevice m.ctl)))) causeMovTarget <|>
  (match m.kind with
   | .xfer => causeIf (decide (src.total ≠ dst.total)) causeMovShape
   | .cmax => causeIf (decide (dst.total * innerBound src ≠ src.total) || (decide (src.total = 0) && decide (dst.total ≠ 0))) causeMovShape
   | .crest _ => none) <|>
  causeIf (!(alignedWalk src m.srcBase step && alignedWalk dst base step)) causeMovAlign <|>
  causeIf (decide (dp = spaceRemote) && (decide (un < 64) || !alignedWalk dst base 64)) causeMovAlign <|>
  causeIf (!(c.sideOk sp false src m.srcBase un && (scan || c.sideOk dp true dst base un))) causeMovBounds <|>
  causeIf (bad (sigDoneEn m.sig) (sigDoneCtr m.sig) || bad (sigBlkEn m.sig) (sigBlkCtr m.sig)) causeSigTarget <|>
  (match m.crestSlot with
   | none => none
   | some k => causeIf (crestPartial (crestCtxOf (c.rf.dGet k)) (walkBytes dst base un)) causeCrestPartial)

/-- A command's extents meet those of an earlier command that has not completed, or outstanding matrix work (R204). -/
def Core.movWaits (c : Core) (m : MovCmd) : Bool :=
  let mine := c.movExtents m
  (c.movCmds.filter (fun q => decide (q.seq < m.seq))).any (fun q =>
    (c.movExtents q).any (fun y => mine.any (fun x =>
      decide (x.1 = y.1) && (x.2.write || y.2.write) && linesMeet x.2.lo x.2.len y.2.lo y.2.len))) ||
  (c.movAccess m).any (fun x => c.mxAccesses.any (fun y => (x.write || y.write) && linesMeet x.lo x.len y.lo y.len))

/-- The core of a mover goes on issuing (R209). -/
def State.moverOn (s : State) (u : CoreRef) : Bool := s.unitsRun u.pen && turnAllows (s.jobD u.pen) u.logical

/-- The done signal of a command that moves nothing (R201). -/
def State.doneAtOnce (s : State) (u : CoreRef) (m : MovCmd) (o : OutMsg) : State :=
  let ctr := sigDoneCtr m.sig
  let dp := match m.kind with | .crest _ => spaceSpad | _ => ctlDst m.ctl
  if dp = spaceRemote then s.remoteLast u m o false
  else if !sigDoneEn m.sig then s
  else if dp = spacePeer then s.sendPacket u.pen u.logical (ctlTarget m.ctl) .signal (some (ctr, sigDoneAdd m.sig))
  else s.applySignal u.pen u.logical ctr (sigDoneAdd m.sig)

/-- The command at the head of a mover's queue starts: when the commands before it have issued their reads (R205) and the
waits of R204 are over, its checks are made; with nothing to move it completes at once (R201). -/
def execMoverCommandStart (u : CoreRef) (m : MoverIx) (s : State) : Out :=
  let c := s.core (refKey u)
  let mv := c.mover m.val
  match mv.queue with
  | [] => .next s
  | cmd :: rest =>
    let ahead := match mv.running.getLast? with | none => true | some r => decide (r.reads = r.srcTotal)
    whenOk (s.moverOn u && !mv.squashing && ahead && !c.movWaits cmd) s
      (match s.movStartCause u c cmd with
       | some k => s.progFault u.pen u.logical cmd.bundle slotMove k
       | none =>
         let src := descOf (c.rf.dGet cmd.dsrc)
         let dst := match cmd.kind with | .crest _ => src | _ => descOf (c.rf.dGet cmd.ddst)
         let o := s.newOut u cmd
         if dst.total = 0 then
           (s.put u { (c.setMover m.val { mv with queue := rest }) with movDone := c.movDone + 1 }).doneAtOnce u cmd o
         else
           let r : MovRun := { cmd := cmd, srcTotal := src.total, total := dst.total, out := o }
           s.put u (c.setMover m.val { mv with queue := rest, running := mv.running ++ [r] }))

/-- The bays that the packets of an access by virtual address go to (R272, R285). -/
def State.accessBays (s : State) (pen : Nat) (isWrite : Bool) (a n : Nat) : List Nat :=
  (linePieces a (List.range n)).filterMap (fun p =>
    match s.translate pen isWrite p.1 with | .ok d => some (d / stackSpan) | .error _ => none)

/-- The injecting router's check of the packets that an access of a mover makes in device memory or at a port (R285). -/
def State.moverCross (s : State) (u : CoreRef) (m : MovCmd) (bays : List Nat) : Option State :=
  if bays.isEmpty then none else s.crossPen u m.bundle slotMove bays

/-! ### Reads -/

/-- The crest cache of a bay after an access to a line: most recently used first, 128 lines (R213). -/
def State.touchCrest (s : State) (line : Nat) : State :=
  s.onBay (line / stackLines) (fun b => { b with crestCache := (line :: b.crestCache.filter (fun l => decide (l ≠ line))).take 128 })

/-- A byte as a mover reads it: from the scratchpad, or through the window table, where a failed translation leaves a tag
(R206, R208). -/
def State.moverByte (s : State) (pen : Nat) (c : Core) (space a : Nat) : WinByte :=
  if space = spaceSpad then { val := c.spadByte a, bad := c.lineBad (a / 64), tag := none }
  else match s.translate pen false a with
    | .ok d => { val := s.devByte d, bad := s.devPoison d, tag := none }
    | .error k => { val := 0#8, bad := false, tag := some { cause := k, va := a } }

/-- The unsigned maximum of two crest bytes, poisoned and tagged when one is (R212). -/
def maxByte (x y : WinByte) : WinByte :=
  { val := if x.val.toNat < y.val.toNat then y.val else x.val, bad := x.bad || y.bad, tag := x.tag <|> y.tag }

/-- A run with the unit it has read: a new unit of the window; for `mscan.cmax`, the maximum so far of the units of one
destination position (R212). -/
def MovRun.take (r : MovRun) (w : List WinByte) (q : Nat) : MovRun :=
  let fold := decide (r.cmd.kind = .cmax) && decide (r.reads % q ≠ 0)
  { r with reads := r.reads + 1,
           window := if fold then r.window.dropLast ++ [List.zipWith maxByte (r.window.getLast?.getD w) w] else r.window ++ [w] }

/-- The runs with the first that still reads replaced. -/
def replaceReader (f : MovRun → MovRun) : List MovRun → List MovRun
  | [] => []
  | r :: t => if r.reads < r.srcTotal then f r :: t else r :: replaceReader f t

/-- The next read of a mover returns into its window of 64 lines and 4 KiB (R205).  A deferred tag in the scratchpad is consumed and
faults; a failed translation tags the unit (R206). -/
def execMoverReadReturn (u : CoreRef) (m : MoverIx) (s : State) : Out :=
  let c := s.core (refKey u)
  let mv := c.mover m.val
  match mv.running.find? (fun r => decide (r.reads < r.srcTotal)) with
  | none => .next s
  | some r =>
    let un := r.cmd.unit
    let after := replaceReader (fun r => { r with reads := r.reads + 1 }) mv.running
    let d := descOf (c.rf.dGet r.cmd.dsrc)
    let a := walkAddr d r.cmd.srcBase r.reads
    let sp := ctlSrc r.cmd.ctl
    if !(s.moverOn u && decide (c.windowLines after ≤ 64) && decide (windowBytes after ≤ 4096)) then .next s
    else match (if sp = spaceSpad then c.rangeTag a un else none) with
      | some t => .next (s.progFault u.pen u.logical r.cmd.bundle slotMove causeMovDeferred [ef t.cause, ef t.va])
      | none => match (if sp = spaceDev then s.moverCross u r.cmd (s.accessBays u.pen false a un) else none) with
      | some t => .next t
      | none =>
        let w := (List.range un).map (fun i => s.moverByte u.pen c sp (a + i))
        let cause := match w.findSome? WinByte.tag with | some t => t.cause | none => c.movLastCause
        let s0 := if sp = spaceDev then s.noteVa u.pen a un else s
        let s1 := if r.cmd.kind = .cmax ∧ sp = spaceDev then
            (match s.translate u.pen false a with | .ok p => s0.touchCrest (p / 64) | .error _ => s0) else s0
        .next (s1.put u { (c.setMover m.val { mv with running := replaceReader (fun r => r.take w (innerBound d)) mv.running }) with
                          movLastCause := cause })

/-! ### Writes -/

/-- The core with bytes of a mover in its scratchpad, line by line: a line takes the poison and the tag of its bytes
(R206, R208).  Bytes beyond the scratchpad are not stored (DEDUCED, log entry 18). -/
def Core.moverStore (c : Core) (a : Nat) (w : List WinByte) : Core :=
  (linePieces a w).foldl (fun c p =>
    if p.1 + p.2.length ≤ (if c.cfg.wide then 2 ^ 24 else 2 ^ 23) then
      c.spadWriteLine p.1 (p.2.map WinByte.val) (p.2.any WinByte.bad) (p.2.findSome? WinByte.tag)
    else c) c

/-- The first failure of the translation of a range for writing (R308). -/
def State.writeTag (s : State) (pen a n : Nat) : Option FaultTag :=
  (linePieces a (List.range n)).findSome? (fun p =>
    match s.translate pen true p.1 with | .error k => some { cause := k, va := p.1 } | .ok _ => none)

/-- Bytes of a mover in device memory, line by line (R288, R317). -/
def State.moverDev (s : State) (pen a : Nat) (w : List WinByte) : State := s.vaStoreBad pen a (w.map (fun b => (b.val, b.bad)))

/-- The positions of a destination block (R201). -/
def blockLen (d : Desc) (blkOrd : Nat) : Nat :=
  (d.bounds.zip d.ords).foldl (fun n bo => if bo.2 < blkOrd then n * bo.1 else n) 1

/-- The signals attached to a unit of a command: the block's, and the done signal (R201). -/
def sigsAt (m : MovCmd) (d : Desc) (total pos : Nat) : List (Bool × Nat × Word32) :=
  (if sigBlkEn m.sig ∧ (pos + 1) % blockLen d (sigBlkOrd m.sig) = 0 then [(false, sigBlkCtr m.sig, 1#32)] else []) ++
  (if sigDoneEn m.sig ∧ pos + 1 = total then [(true, sigDoneCtr m.sig, sigDoneAdd m.sig)] else [])

/-- The core after an event of run k of a mover: a run with nothing left to write or signal has completed (R221). -/
def Core.finishRun (c : Core) (m k : Nat) (r : MovRun) : Core :=
  let mv := c.mover m
  if r.written = r.total ∧ r.held.isEmpty ∧ r.sigs.isEmpty then
    { (c.setMover m { mv with running := mv.running.eraseIdx k }) with movDone := c.movDone + 1 }
  else c.setMover m { mv with running := mv.running.set k r }

/-- The gate of a block is satisfied (R202). -/
def Core.gateOk (c : Core) (m : MovCmd) (b : Nat) : Bool :=
  decide (ctlGbase m.ctl + b ≤ ((c.counter (ctlGateCtr m.ctl)).toNat : Int))

/-- The state after a mover fault on consumed tagged data (R206). -/
def State.moverDeferred (s : State) (u : CoreRef) (m : MovCmd) (t : FaultTag) : State :=
  s.progFault u.pen u.logical m.bundle slotMove causeMovDeferred [ef t.cause, ef t.va]

/-- The descriptor and the base of a run's destination walk; a crest scan walks the data it reads (R103). -/
def Core.dstWalk (c : Core) (m : MovCmd) : Desc × Nat :=
  match m.kind with
  | .crest _ => (descOf (c.rf.dGet m.dsrc), m.srcBase)
  | _ => (descOf (c.rf.dGet m.ddst), m.dstBase)

/-- A unit of run k of a mover is written to its destination (R203, R206, R208): `r` is the run with the unit counted, `pos` its
position.  A PEER unit that signals go with is held until they are applied (R281), and a REMOTE transfer's last message until its done
signal is. -/
def State.writeUnit (s : State) (u : CoreRef) (m k : Nat) (c : Core) (r : MovRun) (pos : Nat) (w : List WinByte) : State :=
  let cmd := r.cmd
  let hold := cmd.crestSlot.isSome
  let wk := c.dstWalk cmd
  let a := walkAddr wk.1 wk.2 pos
  let dp := ctlDst cmd.ctl
  let sigs := (sigsAt cmd wk.1 r.total pos).map (fun g => ({ pos := pos, owner := u.logical, ctr := g.2.1, add := g.2.2, isDone := g.1 } : PendSig))
  let r1 : MovRun := { r with sigs := r.sigs ++ sigs }
  match w.findSome? WinByte.tag with
  | some t =>
    if cmd.kind = .xfer ∧ !hold ∧ dp = spaceSpad then s.put u ((c.moverStore a w).finishRun m k r1)
    else s.moverDeferred u cmd t
  | none =>
    if hold then
      let hs := (w.zip (List.range w.length)).map (fun b => ({ pos := pos, addr := a + b.2, val := b.1.val, bad := b.1.bad } : HeldByte))
      s.put u (c.finishRun m k { r1 with held := r1.held ++ hs })
    else if dp = spaceSpad then s.put u ((c.moverStore a w).finishRun m k r1)
    else if dp = spaceDev then
      match s.writeTag u.pen a w.length with
      | some t => s.moverDeferred u cmd t
      | none => (s.moverCross u cmd (s.accessBays u.pen true a w.length)).getD ((s.moverDev u.pen a w).put u (c.finishRun m k r1))
    else if dp = spacePeer then
      if sigs.isEmpty then
        (s.put u (c.finishRun m k r)).sendPacket u.pen u.logical (ctlTarget cmd.ctl) (.spad a (w.map (fun b => (b.val, b.bad)))) none
      else s.put u (c.finishRun m k { r1 with peer := some (a, w) })
    else
      let ls := (chunks 64 w).map (fun l => (l.map WinByte.val, l.any WinByte.bad))
      let q := State.remoteLines u cmd (decide ((pos + 1) % blockLen wk.1 (sigBlkOrd cmd.sig) = 0)) (decide (pos + 1 = r.total)) ls a s r.out
      (s.moverCross u cmd [routePrimary (routeOf (s.jobD u.pen) (ctlDevice cmd.ctl))]).getD
        (q.1.put u (c.finishRun m k { r with out := q.2, sigs := sigs.filter PendSig.isDone }))

/-- A run of a mover writes its next unit, in walk order (R203), when its block's gate is satisfied (R202).  Commands of one mover
that do not overlap write in any order (R289). -/
def execMoverUnitWrite (u : CoreRef) (rr : RunRef) (s : State) : Out :=
  let c := s.core (refKey u)
  let mv := c.mover rr.m.val
  match mv.running[rr.k]? with
  | none => .next s
  | some r =>
    let b := r.written / blockLen (c.dstWalk r.cmd).1 (sigBlkOrd r.cmd.sig)
    if !(s.coreRuns u && r.peer.isNone && decide (r.written < r.total) && decide (r.per * (r.written + 1) ≤ r.reads)) then .next s
    else match r.window with
      | [] => .next s
      | w :: ws =>
        if ctlGated r.cmd.ctl ∧ r.opened ≤ b ∧ !c.gateOk r.cmd b then
          .next (s.put u (c.setMover rr.m.val { mv with running := mv.running.set rr.k { r with gated := true } }))
        else
          .next (s.writeUnit u rr.m.val rr.k c { r with window := ws, written := r.written + 1, opened := max r.opened (b + 1), gated := false }
            r.written w)

/-- The counter that holds a command at its gate satisfies it (R202). -/
def execMoverGateOpen (u : CoreRef) (rr : RunRef) (s : State) : Out :=
  let c := s.core (refKey u)
  let mv := c.mover rr.m.val
  match mv.running[rr.k]? with
  | none => .next s
  | some r =>
    let b := r.written / blockLen (c.dstWalk r.cmd).1 (sigBlkOrd r.cmd.sig)
    whenOk (s.coreRuns u && r.gated && c.gateOk r.cmd b) s
      (s.put u (c.setMover rr.m.val { mv with running := mv.running.set rr.k { r with gated := false, opened := max r.opened (b + 1) } }))

/-- A signal of a run is applied: at the issuing core for SPAD and DEV; with the held unit's packet, or behind it, for PEER (R273);
with the last message of a REMOTE transfer, which carries the block signal of its block too (R357). -/
def State.applyAttached (s : State) (u : CoreRef) (c : Core) (r : MovRun) (g : PendSig) : State :=
  let cmd := r.cmd
  let dp := match cmd.kind with | .crest _ => spaceSpad | _ => ctlDst cmd.ctl
  if dp = spacePeer then
    s.sendPacket u.pen u.logical (ctlTarget cmd.ctl)
      (match r.peer with | some w => .spad w.1 (w.2.map (fun b => (b.val, b.bad))) | none => .signal) (some (g.ctr, g.add))
  else if dp = spaceRemote then
    s.remoteLast u cmd r.out (sigBlkEn cmd.sig && decide (r.total % blockLen (c.dstWalk cmd).1 (sigBlkOrd cmd.sig) = 0))
  else s.applySignal u.pen g.owner g.ctr g.add

/-- The next attached signal of a command is applied, once every byte it covers is written (R201, R281). -/
def execAttachedSignalApply (u : CoreRef) (rr : RunRef) (s : State) : Out :=
  let c := s.core (refKey u)
  match (c.mover rr.m.val).running[rr.k]? with
  | none => .next s
  | some r =>
    match r.sigs with
    | [] => .next s
    | g :: gs =>
      whenOk (s.coreRuns u && r.held.all (fun h => decide (g.pos < h.pos))) s
        ((s.put u (c.finishRun rr.m.val rr.k { r with sigs := gs, peer := none })).applyAttached u c r g)

/-! ### Crested groups (R211) -/

/-- The latest held byte of an address. -/
def heldAt (hs : List HeldByte) (a : Nat) : Option HeldByte := (hs.reverse).find? (fun h => decide (h.addr = a))

/-- A walk puts a byte into a group at some position from one on. -/
def CrestCtx.walkMeets (x : CrestCtx) (d : Desc) (base unit from_ total : Nat) (g : Nat × Nat) : Bool :=
  (List.range (total - from_)).any (fun i =>
    (List.range unit).any (fun b => decide (x.groupAt (walkAddr d base (from_ + i) + b) = g)))

/-- The first held group whose last byte has arrived: every byte of it is held and the walk has no later one (R211). -/
def Core.wholeGroup (c : Core) (x : CrestCtx) (r : MovRun) : Option (Nat × Nat) :=
  let wk := c.dstWalk r.cmd
  (r.held.map (fun h => x.groupAt h.addr)).find? (fun g =>
    let rg := x.groupRange g
    (List.range rg.2).all (fun i => (heldAt r.held (rg.1 + i)).isSome) && !x.walkMeets wk.1 wk.2 r.cmd.unit r.written r.total g)

/-- The crest of a group's bytes (R96). -/
def bytesCrest (f : Fmt) (bs : List Byte) : Byte :=
  BitVec.ofNat 8 (crestGroup f ((chunks (fmtSize f) bs).map (fun e => BitVec.ofNat 32 (leNum e))))

/-- A whole group is written with its crest byte as one update; `mscan.crest` writes only the crest byte (R99, R211). -/
def execCrestedGroupWrite (u : CoreRef) (rr : RunRef) (s : State) : Out :=
  let c := s.core (refKey u)
  match (c.mover rr.m.val).running[rr.k]? with
  | none => .next s
  | some r =>
    match r.cmd.crestSlot with
    | none => .next s
    | some d =>
      let x := crestCtxOf (c.rf.dGet d)
      match c.wholeGroup x r with
      | none => .next s
      | some g =>
        if !s.coreRuns u then .next s
        else
          let rg := x.groupRange g
          let w := (List.range rg.2).map (fun i =>
            match heldAt r.held (rg.1 + i) with
            | some h => ({ val := h.val, bad := h.bad, tag := none } : WinByte)
            | none => { val := 0#8, bad := false, tag := none })
          let cb : WinByte := { val := bytesCrest ((Fmt.ofCode x.fmtCode).getD .fp32) (w.map WinByte.val), bad := w.any WinByte.bad, tag := none }
          let ca := x.crestAddr g.1 g.2
          let scan := decide (r.cmd.kind ≠ .xfer)
          let space := if scan then ctlSrc r.cmd.ctl else ctlDst r.cmd.ctl
          let r1 := { r with held := r.held.filter (fun h => decide (x.groupAt h.addr ≠ g)) }
          if space = spaceSpad then
            let c1 := if scan then c else c.moverStore rg.1 w
            .next (s.put u ((c1.moverStore ca [cb]).finishRun rr.m.val rr.k r1))
          else
            match (if scan then none else s.writeTag u.pen rg.1 rg.2) <|> s.writeTag u.pen ca 1 with
            | some t => .next (s.moverDeferred u r.cmd t)
            | none => match s.moverCross u r.cmd ((if scan then [] else s.accessBays u.pen true rg.1 rg.2) ++ s.accessBays u.pen true ca 1) with
            | some t => .next t
            | none =>
              let s1 := if scan then s else s.moverDev u.pen rg.1 w
              let s2 := s1.moverDev u.pen ca [cb]
              let s3 := match s.translate u.pen true ca with | .ok p => s2.touchCrest (p / 64) | .error _ => s2
              .next (s3.put u (c.finishRun rr.m.val rr.k r1))

end Sys2Proof.Machine
end

