-- ==== Sys2Proof/Machine/Network.lean ====
section
/-!
DEFINITION. The on-die network and the doubling sequence as commands: packets (R272, R273, R285), the balance of a step (R287),
late items (R214), turns, quiesces and exchanges (R61, R181).
-/

namespace Sys2Proof.Machine

/-! ### Packets -/

/-- SIG_IMBALANCE (R294). -/
def causeImbalance : Nat := 16

/-- The packets without the first that a test names. -/
def dropFirst (p : Packet → Bool) : List Packet → List Packet
  | [] => []
  | x :: t => if p x then t else x :: dropFirst p t

/-- The packets with the first that a test names injected on its route. -/
def injectFirst (p : Packet → Bool) (route : List NetPort) : List Packet → List Packet
  | [] => []
  | x :: t => if p x then { x with injected := true, route := route } :: t else x :: injectFirst p route t

/-- The site where a packet's destination lives, when it lives anywhere. -/
def State.packetSite (s : State) (k : Packet) : Option Nat := (placeOf (s.jobD k.pen) k.dst).head?

/-- The next packet of a core enters its router and takes its route (R272), when its pen tag allows (R285). -/
def execPacketInject (u : CoreRef) (s : State) : Out :=
  let mine (k : Packet) := decide (k.pen = u.pen) && decide (k.src = u.logical) && !k.injected
  match s.packets.find? mine with
  | none => .next s
  | some k =>
    if !s.unitsRun u.pen then .next s
    else match s.crossPen u (s.core (refKey u)).pc slotControl ((s.packetSite k).map bayOfSite).toList with
      | some t => .next { t with packets := dropFirst mine t.packets }
      | none =>
        let route := match (placeOf (s.jobD u.pen) u.logical).head?, s.packetSite k with
          | some a, some b => s.routeToCore a b
          | _, _ => []
        .next { (s.passSlots u.pen) with packets := injectFirst mine route s.packets }

/-- A packet before it in the list goes from the same core to the same core: they arrive in order (R273). -/
def State.firstOfRoute (s : State) (ix : Nat) (k : Packet) : Bool :=
  !(s.packets.take ix).any (fun q => decide (q.pen = k.pen) && decide (q.src = k.src) && decide (q.dst = k.dst))

/-- A packet arrives (R273, R281, R284): its bytes are written, then its signal is applied; a context that is not resident takes
both in its slot image. -/
def execPacketArrive (ix : Nat) (s : State) : Out :=
  match s.packets[ix]? with
  | none => .next s
  | some k =>
    let key := coreKey k.pen k.dst
    let s0 := { (s.passSlots k.pen) with packets := s.packets.eraseIdx ix }
    let s1 := match k.body with
      | .spad a bs => s0.onCore key (fun c => c.moverStore a (bs.map (fun b => { val := b.1, bad := b.2, tag := none })))
      | .signal => s0
    whenOk (k.injected && s.unitsRun k.pen && s.firstOfRoute ix k) s
      (match k.sig with
       | some g => s1.applySignal k.pen k.dst g.1 g.2
       | none => s1)

/-! ### The balance of a step (R287) -/

/-- The start value of a counter (R254). -/
def startOf (c : Core) (k : Nat) : Word32 := ((c.cfg.counters.find? (fun x => decide (x.1 = k))).map Prod.snd).getD 0#32

/-- The first imbalance of a core: the lowest counter that is off its start value or took a late signal, with the late mark. -/
def Core.imbalance (c : Core) : Option (Nat × Bool) :=
  ((List.range 256).find? (fun k =>
    (c.cfg.counters.any (fun x => decide (x.1 = k)) && decide (c.counter k ≠ startOf c k)) || c.lateSigs.contains k)).map
    (fun k => (k, c.lateSigs.contains k))

/-- The first imbalance of a job: the lowest logical id first. -/
def State.imbalance (s : State) (pen : Nat) : Option (Nat × Nat × Bool) :=
  (s.jobCores pen).findSome? (fun l => ((s.core (coreKey pen l)).imbalance).map (fun x => (l, x.1, x.2)))

/-- The balance check, once every core has ended and every signal is applied (R287): an imbalance ends the job; else the compute
phase is over (R432) and the doubling sequence stops (R61). -/
def execBalanceCheck (pen : Pen) (s : State) : Out :=
  match s.job pen with
  | none => .next s
  | some j =>
    let due := match j.cur with
      | some a => decide (a.phase = .forward) || decide (a.phase = .backward)
      | none => false
    if !(due && s.unitsRun pen && s.allEnded pen && !s.packets.any (fun k => decide (k.pen = pen))) then .next s
    else match s.imbalance pen with
      | some (l, k, late) =>
        let c := s.core (coreKey pen l)
        let delta := (c.counter k - startOf c k).toNat
        let s := s.setReg .netImbalLast (BitVec.ofNat 64 (k + l % 256 * 2 ^ 8 + bitIf late 16 + 2 ^ 17 + delta * 2 ^ 32)) (pen - 1)
        let s := s.bump .netPenFault 16 16 (pen - 1)
        .next (s.progFault pen l c.pc slotControl causeImbalance)
      | none =>
        .next (s.onJob pen (fun j => { j with turn := none, cur := j.cur.map (fun a => { a with phase := .sweepWait }) }))

/-! ### Late items (R214, R215) -/

/-- The bay of a late item's holder. -/
def holderBay : LateHolder → Nat
  | .port p => p.val
  | .bay b => b.val

/-- A late item stops every unit of its job (R214); a further one is held beside it.  The clk of the stop count to the bay's
refresh or to the port (R215): a free value (DESIGN CHOICE, log entry 3). -/
def execLateItemStop (pen : Pen) (holder : LateHolder) (s : State) : Out :=
  match s.job pen with
  | none => .next s
  | some j =>
    whenOk (j.cur.isSome && decide (s.penOfBay (holderBay holder) = pen)) s
      (let s := s.onJob pen (fun j =>
         if j.stopped.isSome then { j with lateHeld := j.lateHeld + 1 } else { j with stopped := some holder })
       let r := s.drawNat 32
       match holder with
       | .bay b => r.2.onBay b.val (fun x => { x with heldClk := x.heldClk + r.1 })
       | .port p => r.2.onPort p.val (fun x => { x with stopClk := x.stopClk + BitVec.ofNat 64 r.1 }))

/-- The last held item completes and the units restart together (R214). -/
def execLateItemRestart (pen : Pen) (s : State) : Out :=
  match s.job pen with
  | none => .next s
  | some j =>
    whenOk j.stopped.isSome s
      (s.onJob pen (fun j =>
        if 0 < j.lateHeld then { j with lateHeld := j.lateHeld - 1 } else { j with stopped := none }))

/-! ### The doubling sequence (R61) -/

/-- The wide file of a context that is quiesced is written to its spill region (R181).  Its layout there is not stated: the bytes
are free values (DESIGN CHOICE, log entry 25). -/
def State.spillWide (s : State) (key : Nat) : State :=
  let c := s.core key
  match c.cfg.regions.find? (fun r => r.spill) with
  | none => s
  | some r =>
    if c.mx.wideBusy then
      let n := if c.cfg.wide then 3342336 else 1671168
      ({ s with fresh := s.fresh + 1 }).setCore key
        (c.spadWrite r.base ((List.range n).map (fun i => Config.spillByte s.fresh i)))
    else s

/-- The doubled contexts whose turn a phase is. -/
def turnContexts (j : Job) (ph : TurnPhase) : List Nat :=
  match ph with
  | .aTurn => j.doubled.map Prod.fst
  | .bTurn => j.doubled.map Prod.snd
  | _ => []

/-- A turn ends: the pen grid quiesces (R61), and an occupied wide file of a doubled site is spilled. -/
def execTurnEnd (pen : Pen) (s : State) : Out :=
  match s.job pen with
  | none => .next s
  | some j =>
    let go (next : TurnPhase) (ph : TurnPhase) : State :=
      (turnContexts j ph).foldl (fun s l => s.spillWide (coreKey pen l)) (s.onJob pen (fun j => { j with turn := some next }))
    if !s.unitsRun pen then .next s
    else match j.turn with
      | some .aTurn => .next (go .quiesceA .aTurn)
      | some .bTurn => .next (go .quiesceB .bTurn)
      | _ => .next s

/-- The work in flight of a core is complete: no drain under way, and no mover has a unit that it may write or a signal to
apply (R61, R209). -/
def Core.quiet (c : Core) : Bool :=
  !c.mx.draining && (List.range 4).all (fun m => (c.mover m).running.all (fun r =>
    r.sigs.isEmpty && (r.gated || decide (r.reads < r.per * (r.written + 1)) || decide (r.total ≤ r.written))))

/-- A quiesce ends with every drain, mover write and packet complete, and the exchange begins (R61). -/
def execQuiesceEnd (pen : Pen) (s : State) : Out :=
  match s.job pen with
  | none => .next s
  | some j =>
    let quiet := !s.packets.any (fun k => decide (k.pen = pen)) &&
      (s.jobCores pen).all (fun l => !turnFinishes j l || (s.core (coreKey pen l)).quiet)
    let go (next : TurnPhase) : State := s.onJob pen (fun j => { j with turn := some next })
    if !(s.unitsRun pen && quiet) then .next s
    else match j.turn with
      | some .quiesceA => .next (go .exchangeA)
      | some .quiesceB => .next (go .exchangeB)
      | _ => .next s

/-- An exchange ends: the contexts have changed places and the next turn begins (R61, R63; DESIGN CHOICE, log entry 15). -/
def execExchangeEnd (pen : Pen) (s : State) : Out :=
  match s.job pen with
  | none => .next s
  | some j =>
    let go (next : TurnPhase) (b : Bool) : State := s.onJob pen (fun j => { j with turn := some next, inB := b })
    if !s.unitsRun pen then .next s
    else match j.turn with
      | some .exchangeA => .next (go .bTurn true)
      | some .exchangeB => .next (go .aTurn false)
      | _ => .next s

end Sys2Proof.Machine
end

