-- ==== Sys2Proof/Machine/Private.lean ====
section
/-!
DEFINITION. The private area of a stack (R304): the window tables of the pen whose lowest bay it is, the acknowledged-transfer record of
its port (R368), and the slots that hold the contexts which are not resident (R62, R63).  The device keeps these in its own state, and a
read of the area shows them as they lie in memory (DESIGN CHOICE, log entry 15).
-/

namespace Sys2Proof.Machine

/-! ### Layout (R304, R368) -/

/-- The first byte past the allocatable area of a stack, and the parts of the private area behind it. -/
def allocEnd : Nat := 0xFF8000000
def offActive : Nat := 0xFF8000000
def offStaging : Nat := 0xFF8010000
def offRecord : Nat := 0xFF8020000
def offRecordEnd : Nat := 0xFF81A0000
def offSlots : Nat := 0xFF8200000
def slotSize : Nat := 0x900000

/-- Sixteen bytes of a window table (R306). -/
def tableBytes (t : SMap (Word64 × Word64)) (i : Nat) : List Byte :=
  let w := SMap.get (fun _ => (0#64, 0#64)) t i
  le 8 w.1.toNat ++ le 8 w.2.toNat

/-- Sixteen bytes of an entry of the acknowledged-transfer record (R368). -/
def recordEntryBytes (r : Nat × Nat × Word64) : List Byte := le 4 r.1 ++ le 2 r.2.1 ++ zeros 2 ++ le 8 r.2.2.toNat

/-! ### Context images (R63) -/

/-- The ranges of a list in ascending order, without what an earlier one covers: first byte and length, from an address on. -/
def packed : Nat → List (Nat × Nat) → List (Nat × Nat)
  | _, [] => []
  | from_, r :: t =>
    let lo := max r.1 from_
    let hi := r.1 + r.2
    if lo < hi then (lo, hi - lo) :: packed hi t else packed from_ t

/-- The union of a core's declared scratchpad regions. -/
def Core.imageRanges (c : Core) : List (Nat × Nat) :=
  packed 0 (((c.cfg.regions.filter (fun r => decide (r.space = spaceSpad))).map (fun r => (r.base, r.size))).insertionSort
    (fun a b => a.1 ≤ b.1))

/-- The bytes of the union, and those of the image's first part: rounded up to 64 KiB. -/
def Core.imageData (c : Core) : Nat := (c.imageRanges.map Prod.snd).sum
def Core.imagePad (c : Core) : Nat := (c.imageData + 0xFFFF) / 0x10000 * 0x10000

/-- The scratchpad address of a byte of an image: the ranges follow one another, ascending. -/
def imageAddr : List (Nat × Nat) → Nat → Option Nat
  | [], _ => none
  | r :: t, o => if o < r.2 then some (r.1 + o) else imageAddr t (o - r.2)

/-- The context whose image a site's slot holds, and the first byte of the image there: the one of a doubled pair that is not resident.
A yoke-wide pair uses the slots of both its sites. -/
def State.slotContext (s : State) (n : Nat) : Option (Nat × Nat) :=
  let pen := s.penOfBay (bayOfSite n)
  match s.job pen with
  | none => none
  | some j => j.doubled.findSome? (fun q =>
      let sites := placeOf j q.1
      if sites.contains n then some (coreKey pen (if j.inB then q.1 else q.2), slotSize * sites.idxOf n) else none)

/-- Where a line lies in a context image: the context and the offset of the line's first byte. -/
def State.imageLine (s : State) (b l : Nat) : Option (Nat × Nat) :=
  if 64 * l < offSlots then none
  else
    let o := 64 * l - offSlots
    if 14 * slotSize ≤ o then none
    else (s.slotContext (14 * b + o / slotSize)).map (fun x => (x.1, x.2 + o % slotSize))

/-- The scratchpad addresses of the bytes of a line of an image. -/
def Core.imageAddrs (c : Core) (o : Nat) : List (Option Nat) := (List.range 64).map (fun i => imageAddr c.imageRanges (o + i))

/-- A line of an image lies in the state block, whose layout is left open (R63; log entry 15). -/
def Core.inStateBlock (c : Core) (o : Nat) : Bool := decide (c.imagePad ≤ o) && decide (o < c.imagePad + 0x100000)

/-- A line of an image is poisoned: one of its scratchpad lines is (R318). -/
def Core.imagePoison (c : Core) (o : Nat) : Bool :=
  (c.imageAddrs o).any (fun a => match a with | some a => c.lineBad (a / 64) | none => false)

/-- The scratchpad of a context with bytes of an image line replaced (R62), from an offset in the line on. -/
def Core.setImage (c : Core) (o off : Nat) (bs : List Byte) (poison : Bool) : Core :=
  (((c.imageAddrs o).drop off).zip bs).foldl (fun c x =>
    match x.1 with
    | some a => c.spadWriteLine a [x.2] poison none
    | none => c) c

/-- The scratchpad of a context with a whole image line replaced: its mark is cleared or set with it. -/
def Core.setImageLine (c : Core) (o : Nat) (bs : List Byte) (poison : Bool) : Core :=
  let clean := (c.imageAddrs o).foldl (fun c a =>
    match a with
    | some a => { c with spadPoison := SMap.set (fun _ => false) c.spadPoison (a / 64) false }
    | none => c) c
  clean.setImage o 0 bs poison

/-! ### The area as it reads -/

/-- A line of the tables or of the record; what the record does not fill reads as stored. -/
def State.deviceLine (s : State) (b l : Nat) : Option (List Byte) :=
  let o := 64 * l
  let pen := s.penOfBay b
  let lowest := decide (pen ≠ 0) && decide ((s.baysOf pen).head? = some b)
  if offActive ≤ o ∧ o < offStaging ∧ lowest then
    some ((List.range 4).flatMap (fun i => tableBytes (s.pen pen).active ((o - offActive) / 16 + i)))
  else if offStaging ≤ o ∧ o < offRecord ∧ lowest then
    some ((List.range 4).flatMap (fun i => tableBytes (s.pen pen).staging ((o - offStaging) / 16 + i)))
  else if offRecord ≤ o ∧ o < offRecordEnd then
    some ((List.range 4).flatMap (fun i =>
      match (s.port b).ackRecord[(o - offRecord) / 16 + i]? with
      | some r => recordEntryBytes r
      | none => (List.range 16).map (fun k => s.hbmByte (b * stackSpan + o + 16 * i + k))))
  else none

/-- The bytes and the poison with which a read of a line of a stack answers (R316, R317): those of the image of a context, whose state
block is free bytes, of the device's tables and record, and what is stored everywhere else. -/
def State.answerLine (s : State) (b l : Nat) : State × List Byte × Bool :=
  let d := b * stackLines + l
  if s.lineBad d then (s, zeros 64, true)
  else match s.imageLine b l with
    | some x =>
      let c := s.core x.1
      if c.inStateBlock x.2 then
        let r := State.drawWide 8 s
        (r.2, le 64 r.1, false)
      else
        (s, ((c.imageAddrs x.2).zip (List.range 64)).map (fun p =>
              match p.1 with | some a => c.spadByte a | none => s.hbmByte (64 * d + p.2)), c.imagePoison x.2)
    | none =>
      match s.deviceLine b l with
      | some bs => (s, bs, false)
      | none => (s, s.readLine d)

/-- What the decoding of a line of an image leaves in it: an unreadable line is the context's data lost, zero and poisoned (R316, R318);
an undetected error its changed data (R314). -/
def State.settleImage (s : State) (b l : Nat) (ecc : EccOut) : State :=
  let d := b * stackLines + l
  match s.imageLine b l with
  | none => s
  | some x =>
    if (s.core x.1).inStateBlock x.2 then s
    else if s.lineBad d then (s.setBad d false).onCore x.1 (fun c => c.setImageLine x.2 (zeros 64) true)
    else
      let part (c : Core) (off : Nat) (e : SecEcc) : Core :=
        match e with | .undetected bs => c.setImage x.2 off (fit 32 bs) false | _ => c
      s.onCore x.1 (fun c => part (part c 0 ecc.lo) 32 ecc.hi)

/-- A line of a context image that is poisoned decodes so (R317). -/
def State.imageMarked (s : State) (b l : Nat) : Bool :=
  match s.imageLine b l with
  | some x => (s.core x.1).imagePoison x.2
  | none => false

/-- Bytes written into a line of a stack at the hub (R62, R317): a line of a context image is the context's scratchpad, and the lines of
the tables and of the record are as the device keeps them. -/
def State.hubWrite (s : State) (b l off : Nat) (bs : List Byte) (poison : Bool) : State :=
  match s.imageLine b l with
  | some x =>
    if 64 ≤ bs.length then s.onCore x.1 (fun c => c.setImageLine x.2 bs poison) else s.onCore x.1 (fun c => c.setImage x.2 off bs poison)
  | none => if (s.deviceLine b l).isSome then s else s.writeLine (b * stackLines + l) off bs poison

end Sys2Proof.Machine
end

