-- ==== Sys2Proof/Machine/Micro.lean ====
section
/-!
DEFINITION. The instructions of the update units' microprograms (R440 to R443): each acts on every element of the block in the
unit's lanes.
-/

namespace Sys2Proof.Machine

/-- The key of a register of an element. -/
def unitKey (e r : Nat) : Nat := 32 * e + r

/-- A register of an element (R441). -/
def UnitS.get (x : UnitS) (e r : Nat) : Word32 := SMap.get (fun _ => 0#32) x.regs (unitKey e r)

/-- A register of an element set. -/
def UnitS.put (x : UnitS) (e r : Nat) (w : Word32) : UnitS :=
  { x with regs := SMap.set (fun _ => 0#32) x.regs (unitKey e r) w }

/-- The arithmetic of the loaded microprogram: rounding is RNE (R442). -/
def UnitS.mode (x : UnitS) : FpMode := ⟨x.strict, .rne⟩

/-- A register of every element set to a function of the element's registers. -/
def UnitS.each (x : UnitS) (rd : Nat) (f : Nat → Word32) : UnitS :=
  (List.range x.count).foldl (fun y e => y.put e rd (f e)) x

/-- Operations of one, two and three operands on every element. -/
def UnitS.op1 (x : UnitS) (rd ra : UReg) (f : FpMode → Word32 → Word32) : UnitS :=
  x.each rd (fun e => f x.mode (x.get e ra))
def UnitS.op2 (x : UnitS) (rd ra rb : UReg) (f : FpMode → Word32 → Word32 → Word32) : UnitS :=
  x.each rd (fun e => f x.mode (x.get e ra) (x.get e rb))
def UnitS.op3 (x : UnitS) (rd ra rb rc : UReg) (f : FpMode → Word32 → Word32 → Word32 → Word32) : UnitS :=
  x.each rd (fun e => f x.mode (x.get e ra) (x.get e rb) (x.get e rc))

/-- `fsign` of R439. -/
def fsign (a : Word32) : Word32 :=
  if FVal.isNan (decodeF .fp32 a) then canonNan .fp32 else if fIsZero a then 0#32 else fcopysign cONE a

/-- `ult` and `usel` (R442). -/
def ultWord (a b : Word32) : Word32 := if flt a b then cONE else 0#32
def uselWord (a b c : Word32) : Word32 := if fIsZero a then c else b

/-- A constant of the microprogram (R442). -/
def UnitS.const (x : UnitS) (imm : BitVec 4) : Word32 := (x.consts.getD imm.toNat 0#64).setWidth 32

/-- The values of a register over the block. -/
def UnitS.values (x : UnitS) (ra : UReg) : List Word32 := (List.range x.count).map (fun e => x.get e ra)

/-- The anchored sum of a block (R443). -/
def blockSum (xs : List Word32) : Word32 :=
  let anc := crestAnchor .sum (crestGroup .fp32 xs) .fp32 0 .fp32 8
  let l := xs.foldl (fun l w => accTerm l (termOf .sum .fp32 .fp32 w 0#32)) (LongForm.start anc 0#8)
  (drainLong true .fp32 false l.leave).w

/-- The update unit of a bay runs: no stop holds the job that it serves (R214, R659). -/
def State.unitOn (s : State) (b : Nat) : Bool :=
  match s.job (s.penOfBay b) with
  | some _ => s.unitsRun (s.penOfBay b)
  | none => !s.diesStopped

/-- The unit after an operation on every element; a stopped unit does nothing. -/
def unitDo (b : Fin 12) (f : UnitS → UnitS) (s : State) : Out := whenOk (s.unitOn b.val) s (s.setUnit b.val (f (s.unit b.val)))

def execUnop (b : Fin 12) (s : State) : Out := unitDo b id s
def execUadd (b : Fin 12) (rd ra rb : UReg) (s : State) : Out := unitDo b (fun x => x.op2 rd ra rb (fun m p q => (fpAdd m .fp32 p q).1)) s
def execUsub (b : Fin 12) (rd ra rb : UReg) (s : State) : Out := unitDo b (fun x => x.op2 rd ra rb (fun m p q => (fpSub m .fp32 p q).1)) s
def execUmul (b : Fin 12) (rd ra rb : UReg) (s : State) : Out := unitDo b (fun x => x.op2 rd ra rb (fun m p q => (fpMul m .fp32 p q).1)) s
def execUfma (b : Fin 12) (rd ra rb rc : UReg) (s : State) : Out :=
  unitDo b (fun x => x.op3 rd ra rb rc (fun m p q r => (fpFma m .fp32 p q r).1)) s
def execUmin (b : Fin 12) (rd ra rb : UReg) (s : State) : Out :=
  unitDo b (fun x => x.op2 rd ra rb (fun m p q => (fpMinMax false m .fp32 p q).1)) s
def execUmax (b : Fin 12) (rd ra rb : UReg) (s : State) : Out :=
  unitDo b (fun x => x.op2 rd ra rb (fun m p q => (fpMinMax true m .fp32 p q).1)) s
def execUabs (b : Fin 12) (rd ra : UReg) (s : State) : Out := unitDo b (fun x => x.op1 rd ra (fun _ p => fabs p)) s
def execUneg (b : Fin 12) (rd ra : UReg) (s : State) : Out := unitDo b (fun x => x.op1 rd ra (fun _ p => fneg p)) s
def execUcopysign (b : Fin 12) (rd ra rb : UReg) (s : State) : Out := unitDo b (fun x => x.op2 rd ra rb (fun _ p q => fcopysign p q)) s
def execUdiv (b : Fin 12) (rd ra rb : UReg) (s : State) : Out := unitDo b (fun x => x.op2 rd ra rb (fun m p q => (fpDiv m p q).1)) s
def execUrecip (b : Fin 12) (rd ra : UReg) (s : State) : Out := unitDo b (fun x => x.op1 rd ra (fun m p => (fpRecip m p).1)) s
def execUsqrt (b : Fin 12) (rd ra : UReg) (s : State) : Out := unitDo b (fun x => x.op1 rd ra (fun m p => (fpSqrt m .fp32 p).1)) s
def execUrsqrt (b : Fin 12) (rd ra : UReg) (s : State) : Out := unitDo b (fun x => x.op1 rd ra (fun m p => (fpRsqrt m p).1)) s
def execUexp (b : Fin 12) (rd ra : UReg) (s : State) : Out := unitDo b (fun x => x.op1 rd ra (fun m p => (fnEval m .exp p).1)) s
def execUexp2 (b : Fin 12) (rd ra : UReg) (s : State) : Out := unitDo b (fun x => x.op1 rd ra (fun m p => (fnEval m .exp2 p).1)) s
def execUlog (b : Fin 12) (rd ra : UReg) (s : State) : Out := unitDo b (fun x => x.op1 rd ra (fun m p => (fnEval m .log p).1)) s
def execUtanh (b : Fin 12) (rd ra : UReg) (s : State) : Out := unitDo b (fun x => x.op1 rd ra (fun m p => (fnEval m .tanh p).1)) s
def execUsigmoid (b : Fin 12) (rd ra : UReg) (s : State) : Out := unitDo b (fun x => x.op1 rd ra (fun m p => (fnEval m .sigmoid p).1)) s
def execUerf (b : Fin 12) (rd ra : UReg) (s : State) : Out := unitDo b (fun x => x.op1 rd ra (fun m p => (fnEval m .erf p).1)) s
def execUgelu (b : Fin 12) (rd ra : UReg) (s : State) : Out := unitDo b (fun x => x.op1 rd ra (fun m p => (fnEval m .gelu p).1)) s
def execUlt (b : Fin 12) (rd ra rb : UReg) (s : State) : Out := unitDo b (fun x => x.op2 rd ra rb (fun _ p q => ultWord p q)) s
def execUsel (b : Fin 12) (rd ra rb rc : UReg) (s : State) : Out := unitDo b (fun x => x.op3 rd ra rb rc (fun _ p q r => uselWord p q r)) s
def execUldk (b : Fin 12) (rd : UReg) (imm : BitVec 4) (s : State) : Out := unitDo b (fun x => x.each rd (fun _ => x.const imm)) s
def execUsign (b : Fin 12) (rd ra : UReg) (s : State) : Out := unitDo b (fun x => x.op1 rd ra (fun _ p => fsign p)) s
def execUbsum (b : Fin 12) (rd ra : UReg) (s : State) : Out := unitDo b (fun x => x.each rd (fun _ => blockSum (x.values ra))) s
def execUbmax (b : Fin 12) (rd ra : UReg) (s : State) : Out := unitDo b (fun x => x.each rd (fun _ => rowMax (x.values ra))) s

/-- A register field of a microinstruction. -/
def uregAt (w : Word64) (lo : Nat) : UReg := ⟨getBits w lo 5, Nat.mod_lt _ (by decide)⟩

/-- One microinstruction in a unit, by the encoding of R442; an opcode of no row is refused at load. -/
def microStep (b : Fin 12) (w : Word64) (s : State) : Out :=
  let rd := uregAt w 8
  let ra := uregAt w 13
  let rb := uregAt w 18
  let rc := uregAt w 23
  match getBits w 0 8 with
  | 0x01 => execUadd b rd ra rb s
  | 0x02 => execUsub b rd ra rb s
  | 0x03 => execUmul b rd ra rb s
  | 0x04 => execUfma b rd ra rb rc s
  | 0x05 => execUmin b rd ra rb s
  | 0x06 => execUmax b rd ra rb s
  | 0x07 => execUabs b rd ra s
  | 0x08 => execUneg b rd ra s
  | 0x09 => execUcopysign b rd ra rb s
  | 0x0A => execUdiv b rd ra rb s
  | 0x0B => execUrecip b rd ra s
  | 0x0C => execUsqrt b rd ra s
  | 0x0D => execUrsqrt b rd ra s
  | 0x10 => execUexp b rd ra s
  | 0x11 => execUexp2 b rd ra s
  | 0x12 => execUlog b rd ra s
  | 0x13 => execUtanh b rd ra s
  | 0x14 => execUsigmoid b rd ra s
  | 0x15 => execUerf b rd ra s
  | 0x16 => execUgelu b rd ra s
  | 0x18 => execUlt b rd ra rb s
  | 0x19 => execUsel b rd ra rb rc s
  | 0x1A => execUldk b rd (BitVec.ofNat 4 (getBits w 32 4)) s
  | 0x1B => execUsign b rd ra s
  | 0x20 => execUbsum b rd ra s
  | 0x21 => execUbmax b rd ra s
  | _ => execUnop b s

/-- The state of a next outcome; a microinstruction has no other. -/
def nextOr (s : State) (o : Out) : State :=
  match o with
  | .next t => t
  | _ => s

/-- A microprogram runs in a unit (R441). -/
def State.runMicro (s : State) (b : Fin 12) (m : MicroProg) : State :=
  m.instrs.foldl (fun s w => nextOr s (microStep b w s)) s

end Sys2Proof.Machine
end

