-- ==== Sys2Proof/Machine/Sweep.lean ====
section
/-!
DEFINITION. The update sweep (R436 to R443): clipping, the fixed-function optimisers and microprograms element by element, the
stores to the pending bank, the component digests (R484 to R486), the scalar state (R430), and snapshots (R453).
-/

namespace Sys2Proof.Machine

/-! ### The arithmetic of R439 -/

/-- A NaN as the positive canonical NaN. -/
def canonF (w : Word32) : Word32 := if FVal.isNan (decodeF .fp32 w) then canonNan .fp32 else w

/-- A finite value other than zero. -/
def plainF (w : Word32) : Bool :=
  match decodeF .fp32 w with
  | .fin _ m _ => decide (m ≠ 0)
  | _ => false

/-- `fast_div` and `fast_recip` with the special values of R108, nothing flushed. -/
def updDiv (a b : Word32) : Word32 :=
  if plainF a && plainF b then canonF (fastDiv a b) else canonF (fpDivStrict .internal .fp32 a b).1
def updRecip (x : Word32) : Word32 :=
  if plainF x then canonF (fastRecip x) else canonF (fpDivStrict .internal .fp32 cONE x).1

/-- `fsqrt`. -/
def updSqrt (x : Word32) : Word32 := canonF (fpSqrt .internal .fp32 x).1

/-- The per-tensor values of a step (R439). -/
structure StepVals where
  lr : Word32
  dk : Word32
  k : Word32
  c1 : Word32
  c2 : Word32
  deriving DecidableEq, Repr

/-- An element's parameter, moments and clipped gradient. -/
structure ElemVals where
  p : Word32
  m : Word32
  v : Word32
  g : Word32
  deriving DecidableEq, Repr

/-- `step_element` of R439. -/
def stepElement (t : TensorRec) (x : StepVals) (e : ElemVals) : ElemVals :=
  let g := fmul e.g x.k
  let p := if t.decay then ffma (fneg x.dk) e.p e.p else e.p
  let r : ElemVals :=
    if t.opt = 0 then
      let m := ffma t.beta1 e.m g
      { p := ffma (fneg x.lr) m p, m := m, v := e.v, g := g }
    else if t.opt = 1 then
      let m := ffma t.beta1 e.m (fmul (fsub cONE t.beta1) g)
      let v := ffma t.beta2 e.v (fmul (fsub cONE t.beta2) (fmul g g))
      let den := fadd (updSqrt (fmul v x.c2)) t.eps
      { p := ffma (fneg x.lr) (updDiv (fmul m x.c1) den) p, m := m, v := v, g := g }
    else
      let c := ffma t.beta1 e.m (fmul (fsub cONE t.beta1) g)
      { p := ffma (fneg x.lr) (fsign c) p, m := ffma t.beta2 e.m (fmul (fsub cONE t.beta2) g), v := e.v, g := g }
  { p := canonF r.p, m := canonF r.m, v := canonF r.v, g := canonF r.g }

/-! ### Streams of elements in memory -/

/-- An element of a stream: its bits, and whether its line read poisoned. -/
abbrev SElem := Elem × Bool

/-- The elements of a stream. -/
def State.readStream (s : State) (pen va : Nat) (f : Fmt) (n : Nat) : List SElem :=
  (List.range n).map (fun i =>
    (BitVec.ofNat 32 (leNum (s.vaRead pen (va + i * fmtSize f) (fmtSize f))), (s.vaByte pen (va + i * fmtSize f)).2))

/-- The bytes of a stream. -/
def streamBytes (f : Fmt) (xs : List SElem) : List Byte := xs.flatMap (fun x => le (fmtSize f) x.1.toNat)

/-- Writes a stream, each line poisoned when one of its elements is (R318). -/
def State.writeStream (s : State) (pen va : Nat) (f : Fmt) (xs : List SElem) : State :=
  s.vaStoreBad pen va (xs.flatMap (fun x => (le (fmtSize f) x.1.toNat).map (fun b => (b, x.2))))

/-- A NaN of a format as the positive canonical NaN (R437). -/
def canonElem (f : Fmt) (w : Elem) : Elem := if FVal.isNan (decodeF f w) then canonNan f else w

/-- An element as FP32 (R437 step 1): exact; a NaN that the conversion produces is the positive canonical one. -/
def loadF (f : Fmt) (w : Elem) : Word32 := if f = .fp32 then w else canonElem .fp32 (convert ⟨true, .rne⟩ .fp32 f false 0 w).1

/-- An FP32 value as stored (R437 step 3): RNE, or SR with a draw; a NaN that the conversion produces is the positive canonical
one. -/
def storeF (f : Fmt) (sr : Option Nat) (w : Word32) : Elem :=
  if f = .fp32 then w
  else match sr with
    | some u => canonElem f (convert ⟨true, .sr⟩ f .fp32 false u w).1
    | none => canonElem f (convert ⟨true, .rne⟩ f .fp32 false 0 w).1

/-- A NaN or an infinity of a format. -/
def nonFinite (f : Fmt) (w : Elem) : Bool :=
  match decodeF f w with
  | .fin _ _ _ => false
  | _ => true

/-- The tensor digest of a record's values in a role (R484). -/
def tensorDigest (ix role : Nat) (t : TensorRec) (f : Fmt) (bs : List Byte) : Word64 :=
  rangeDigest (blockIndex ix role (t.indexBase * fmtSize f / 2048)) bs

/-! ### What the sweep gathers -/

/-- A sweep as it goes on: digests per record, poison, overflow, the non-finite count, and the record whose translation
failed (R319, R437, R455, R498). -/
structure SweepAcc where
  rows : List (List Word64) := []
  poison : Bool := false
  overflow : Bool := false
  nonfinite : Nat := 0
  failed : Option Nat := none
  deriving DecidableEq, Repr

/-- The ranges that a record's sweep touches: write or read, address and length. -/
def recRanges (p : Plan) (ix : Nat) (t : TensorRec) (cap step : Nat) : List (Bool × Nat × Nat) :=
  let n := t.elems
  let pend := 1 - cap
  if t.isMetric then [(false, t.paramVa.1, n * fmtSize t.pfmt)]
  else
    [(false, bankVa t.paramVa cap, n * fmtSize t.pfmt), (true, bankVa t.paramVa pend, n * fmtSize t.pfmt),
     (false, bankVa t.mVa cap, n * fmtSize t.mfmt), (true, bankVa t.mVa pend, n * fmtSize t.mfmt),
     (false, bankVa t.gradVa (step % 2), n * fmtSize t.gfmt),
     (false, bankVa p.scalarVa cap + 16 * ix, 16), (true, bankVa p.scalarVa pend + 16 * ix, 16)] ++
    (if usesV t then [(false, bankVa t.vVa cap, n * fmtSize t.mfmt), (true, bankVa t.vVa pend, n * fmtSize t.mfmt)] else []) ++
    (if t.clip then [(false, t.gcrestVa + step % 2 * ((n + 63) / 64), (n + 63) / 64)] else [])

/-- The reads of a record's sweep (R311, R316). -/
def State.noteRec (s : State) (pen : Nat) (p : Plan) (ix : Nat) (t : TensorRec) (cap step : Nat) : State :=
  ((recRanges p ix t cap step).filter (fun r => !r.1)).foldl (fun s r => s.noteVa pen r.2.1 r.2.2) s

/-- Every range of a record translates (R455). -/
def State.recTranslates (s : State) (pen : Nat) (p : Plan) (ix : Nat) (t : TensorRec) (cap step : Nat) : Bool :=
  (recRanges p ix t cap step).all (fun r => (s.rangeCause pen r.1 r.2.1 r.2.2).isNone)

/-! ### Clipping (R438) -/

/-- The group of a clipped record in which this module has peers. -/
def clipGroup (j : Job) (t : TensorRec) : Option GroupRec := if t.group < 64 then some (groupRec j t.group) else none

/-- Every other member of every clipped record's group has contributed to the rounds. -/
def clipReady (j : Job) (peers : List ClipPeer) : Bool :=
  (j.plan.recs.zip (List.range j.plan.recs.length)).all (fun ti =>
    if ti.1.clip && !ti.1.isMetric then
      match clipGroup j ti.1 with
      | none => true
      | some g => (otherMembers g ((g.memberOf j.rank).getD 0)).all (fun m =>
          peers.any (fun q => decide (q.record = ti.2) && decide (q.member = m)))
    else true)

/-- The scale of a clipped record from its gradients: k, a NaN norm, the overflow bit (R438). -/
def State.clipScale (s : State) (pen : Nat) (ix : Nat) (t : TensorRec) (step : Nat) (grads : List SElem)
    (peers : List ClipPeer) : Word32 × Bool × Bool :=
  let mine := peers.filter (fun q => decide (q.record = ix))
  let crests := (s.vaRead pen (t.gcrestVa + step % 2 * ((t.elems + 63) / 64)) ((t.elems + 63) / 64)).map BitVec.toNat
  let rho := (crests ++ mine.map (fun q => q.crest.toNat)).foldl max 0
  let anc := crestAnchor .squares rho t.gfmt 0 t.gfmt t.lenLog2
  let own := (grads.foldl (fun l g => accPoison (accTerm l (termOf .squares t.gfmt t.gfmt g.1 0#32)) g.2) (LongForm.start anc 0#8)).leave
  let l := mine.foldl (fun l q => l.combine ⟨q.v, q.anchor, q.flags⟩) own
  let nrm := updSqrt (drainLong true .fp32 false l).w
  let ovf := RedFlags.has l.flags (RedFlags.ovf ||| RedFlags.amix)
  if FVal.isNan (decodeF .fp32 nrm) then (cONE, true, ovf)
  else if flt t.clipC nrm then (updDiv t.clipC nrm, false, ovf)
  else (cONE, false, ovf)

/-! ### Elements -/

/-- The bay whose stack holds the line of a record's element that decides its unit (R436). -/
def State.elemBay (s : State) (pen : Nat) (t : TensorRec) (step i : Nat) : Nat :=
  let va := if t.isMetric then t.paramVa.1 + i * fmtSize t.pfmt else bankVa t.gradVa (step % 2) + i * fmtSize t.gfmt
  match s.translate pen false va with
  | .ok d => d / stackSpan
  | .error _ => 0

/-- The microprogram registers of an element as it starts (R441). -/
def microStart (t : TensorRec) (x : StepVals) (e : ElemVals) : List Word32 :=
  [e.p, e.g, e.m, e.v, x.lr, x.dk, x.c1, x.c2, t.beta1, t.beta2, t.eps]

/-- A block of elements in a unit, ready for its microprogram. -/
def unitLoad (x : UnitS) (m : MicroProg) (t : TensorRec) (v : StepVals) (es : List ElemVals) : UnitS :=
  let regs := (es.zip (List.range es.length)).foldl (fun r ei =>
    SMap.setList (fun _ => 0#32) r (unitKey ei.2 0) (microStart t v ei.1)) ([] : SMap Word32)
  { x with count := es.length, strict := m.strict, consts := m.consts, regs := regs }

/-- A microprogram over one block of a bay's unit: the state with the unit as it ends, and the elements. -/
def State.microBlock (s : State) (b : Fin 12) (m : MicroProg) (t : TensorRec) (v : StepVals) (es : List ElemVals) :
    State × List ElemVals :=
  let s := (s.setUnit b.val (unitLoad (s.unit b.val) m t v es)).runMicro b m
  let u := s.unit b.val
  (s, (List.range es.length).map (fun e => { p := u.get e 0, g := u.get e 1, m := u.get e 2, v := u.get e 3 }))

/-- The elements of a record cut into the blocks of R443: those with the same ⌊(index_base + i)/256⌋, by fuel. -/
def blocksOf {α : Type} (base : Nat) : Nat → Nat → List α → List (Nat × List α)
  | 0, _, _ => []
  | f + 1, i, xs =>
    if xs.isEmpty then []
    else
      let n := 256 - (base + i) % 256
      (i, xs.take n) :: blocksOf base f (i + n) (xs.drop n)

/-- A microprogram over every block of a record (R441, R443). -/
def State.microRecord (s : State) (pen step : Nat) (m : MicroProg) (t : TensorRec) (v : StepVals) (es : List ElemVals) :
    State × List ElemVals :=
  (blocksOf t.indexBase es.length 0 es).foldl (fun (acc : State × List ElemVals) blk =>
    let bay := acc.1.elemBay pen t step blk.1
    let r := acc.1.microBlock (Fin.ofNat 12 bay) m t v blk.2
    (r.1, acc.2 ++ r.2)) (s, [])

/-- The elements of a record, counted to the units that swept them (R459). -/
def State.countElems (s : State) (pen step : Nat) (t : TensorRec) (bad : List Bool) : State :=
  (bad.zip (List.range bad.length)).foldl (fun s (bi : Bool × Nat) =>
    let b := s.elemBay pen t step bi.2
    let u := s.unit b
    s.setUnit b { u with elements := u.elements + 1, nonfinite := u.nonfinite + (if bi.1 then 1 else 0) }) s

/-- The draw of a stochastic rounding of the sweep (R437). -/
def sweepDraw (seed : Word64) (t : TensorRec) (step use i : Nat) : Nat := drawU seed t.stream step (t.indexBase + i) use

/-! ### Records -/

/-- A METRIC record is read and digested (R437, R486). -/
def State.sweepMetric (s : State) (pen step ix : Nat) (t : TensorRec) (acc : SweepAcc) : State × SweepAcc :=
  let xs := s.readStream pen t.paramVa.1 t.pfmt t.elems
  let d := if t.fpOwner then tensorDigest ix roleMetric t t.pfmt (streamBytes t.pfmt xs) else 0#64
  (s.countElems pen step t (xs.map (fun _ => false)),
   { acc with rows := acc.rows ++ [[0#64, 0#64, 0#64, d]], poison := acc.poison || xs.any Prod.snd })

/-- The scalar state of a record after its update (R430): pw1, pw2, count. -/
def scalarNext (t : TensorRec) (bs : List Byte) : Word32 × Word32 × Nat :=
  (canonF (fmul (BitVec.ofNat 32 (fieldAt bs 0 4)) t.beta1), canonF (fmul (BitVec.ofNat 32 (fieldAt bs 4 4)) t.beta2),
   (fieldAt bs 8 8 + 1) % 2 ^ 64)

/-- The values of a record before and after its update, and whether an input was poisoned. -/
def State.sweepValues (s : State) (pen step cap : Nat) (t : TensorRec) (x : StepVals) (grads : List SElem) :
    State × List ElemVals × List Bool :=
  let j := s.jobD pen
  let micro := j.micros[t.micro]?
  let ps := s.readStream pen (bankVa t.paramVa cap) t.pfmt t.elems
  let ms := s.readStream pen (bankVa t.mVa cap) t.mfmt t.elems
  let vs := if usesV t then s.readStream pen (bankVa t.vVa cap) t.mfmt t.elems else ps.map (fun _ => (0#32, false))
  let es := (List.range t.elems).map (fun i =>
    let g := grads.getD i (0#32, false)
    ({ p := loadF t.pfmt (ps.getD i (0#32, false)).1, m := loadF t.mfmt (ms.getD i (0#32, false)).1,
       v := loadF t.mfmt (vs.getD i (0#32, false)).1, g := loadF t.gfmt g.1 } : ElemVals))
  let bad := (List.range t.elems).map (fun i => (ps.getD i (0#32, false)).2 || (ms.getD i (0#32, false)).2 ||
    (vs.getD i (0#32, false)).2 || (grads.getD i (0#32, false)).2)
  if t.opt = 3 then
    match micro with
    | none => (s, es, bad)
    | some m =>
      let es := es.map (fun e => if t.clip then { e with g := canonF (fmul e.g x.k) } else e)
      let r := s.microRecord pen step m t x es
      (r.1, r.2, bad)
  else (s, es.map (stepElement t x), bad)

/-- Stores a record's new values, digests them, and writes its scalar state, poisoned when it was read poisoned (R318, R430, R437,
R486). -/
def State.sweepStore (s : State) (pen step cap ix : Nat) (t : TensorRec) (sc : (Word32 × Word32 × Nat) × Bool)
    (es : List ElemVals) (bad : List Bool) (acc : SweepAcc) : State × SweepAcc :=
  let j := s.jobD pen
  let seed := s.seedNow pen
  let pend := 1 - cap
  let ixs := List.range es.length
  let conv (f : Fmt) (sr : Bool) (use : Nat) (get : ElemVals → Word32) : List SElem :=
    ixs.map (fun i =>
      let e := es.getD i { p := 0#32, m := 0#32, v := 0#32, g := 0#32 }
      (storeF f (if sr then some (sweepDraw seed t step use i) else none) (get e), bad.getD i false))
  let ps := conv t.pfmt t.srParam 0x0101 ElemVals.p
  let ms := conv t.mfmt t.srMoment 0x0102 ElemVals.m
  let vs := if usesV t then conv t.mfmt t.srMoment 0x0103 ElemVals.v else []
  let s := (s.writeStream pen (bankVa t.paramVa pend) t.pfmt ps).writeStream pen (bankVa t.mVa pend) t.mfmt ms
  let s := if usesV t then s.writeStream pen (bankVa t.vVa pend) t.mfmt vs else s
  let scBytes := le 4 sc.1.1.toNat ++ le 4 sc.1.2.1.toNat ++ le 8 sc.1.2.2
  let s := s.vaStore pen (bankVa j.plan.scalarVa pend + 16 * ix) scBytes sc.2
  let nf := ixs.map (fun i =>
    nonFinite .fp32 (es.getD i { p := 0#32, m := 0#32, v := 0#32, g := 0#32 }).g ||
    nonFinite t.pfmt (ps.getD i (0#32, false)).1 || nonFinite t.mfmt (ms.getD i (0#32, false)).1 ||
    (usesV t && nonFinite t.mfmt (vs.getD i (0#32, false)).1))
  let dm2 := if usesV t then tensorDigest ix roleMoment2 t t.mfmt (streamBytes t.mfmt vs) else 0#64
  let dsc := if t.indexBase = 0 then rangeDigest (blockIndex ix roleScalar 0) scBytes else 0#64
  let row := if t.fpOwner then
      [tensorDigest ix roleParam t t.pfmt (streamBytes t.pfmt ps),
       tensorDigest ix roleMoment1 t t.mfmt (streamBytes t.mfmt ms) ^^^ dsc, dm2, 0#64]
    else [0#64, 0#64, 0#64, 0#64]
  (s.countElems pen step t nf,
   { acc with rows := acc.rows ++ [row], poison := acc.poison || bad.any id,
              nonfinite := acc.nonfinite + (nf.filter id).length })

/-- A PARAM record. -/
def State.sweepParam (s : State) (pen step cap ix : Nat) (t : TensorRec) (peers : List ClipPeer) (acc : SweepAcc) :
    State × SweepAcc :=
  let plan := (s.jobD pen).plan
  let scVa := bankVa plan.scalarVa cap + 16 * ix
  let scBad := s.vaPoison pen scVa 16
  let sc := scalarNext t (s.vaRead pen scVa 16)
  let lr := match plan.scheds[t.sched]? with | some k => schedRate k step | none => 0#32
  let grads := s.readStream pen (bankVa t.gradVa (step % 2)) t.gfmt t.elems
  let clip := if t.clip then s.clipScale pen ix t step grads peers else (cONE, false, false)
  let crestBad := t.clip && s.vaPoison pen (t.gcrestVa + step % 2 * ((t.elems + 63) / 64)) ((t.elems + 63) / 64)
  let x : StepVals := { lr := lr, dk := canonF (fmul lr t.wd), k := clip.1,
                        c1 := updRecip (fsub cONE sc.1), c2 := updRecip (fsub cONE sc.2.1) }
  let r := s.sweepValues pen step cap t x grads
  let acc := { acc with nonfinite := acc.nonfinite + (if clip.2.1 then 1 else 0), overflow := acc.overflow || clip.2.2,
                        poison := acc.poison || crestBad || scBad }
  r.1.sweepStore pen step cap ix t (sc, scBad) r.2.1 r.2.2 acc

/-- The records of a plan in order; a record whose translation fails ends the sweep (R455). -/
def State.sweepRecords (pen step cap : Nat) (peers : List ClipPeer) :
    List (TensorRec × Nat) → State → SweepAcc → State × SweepAcc
  | [], s, acc => (s, acc)
  | (t, ix) :: ts, s, acc =>
    if s.recTranslates pen (s.jobD pen).plan ix t cap step then
      let s := s.noteRec pen (s.jobD pen).plan ix t cap step
      let r := if t.isMetric then s.sweepMetric pen step ix t acc else s.sweepParam pen step cap ix t peers acc
      State.sweepRecords pen step cap peers ts r.1 r.2
    else (s, { acc with failed := some ix })

/-! ### Snapshots (R453) -/

/-- The offset of a record's data in a snapshot. -/
def snapOffset (p : Plan) (ix : Nat) : Nat :=
  let before : Plan := { p with recs := p.recs.take ix }
  (snapDataEnd before + 0xFFF) / 0x1000 * 0x1000

/-- Writes data with its poison to a snapshot's destination (R318, R453). -/
def State.snapData (s : State) (pen : Nat) (sn : SnapArm) (off : Nat) (bs : List (Byte × Bool)) : State :=
  match sn.peer with
  | none => s.vaStoreBad pen (sn.va + off) bs
  | some dev => s.remoteWrite pen dev (sn.va + off) bs

/-- Writes every fp_owner PARAM record's new values to the destination of the snapshot armed for the step. -/
def State.snapSweep (s : State) (pen step cap : Nat) : State :=
  match s.job pen with
  | none => s
  | some j =>
    match j.snap with
    | none => s
    | some sn =>
      if sn.step = step then
        let s := (j.plan.recs.zip (List.range j.plan.recs.length)).foldl (fun s (ti : TensorRec × Nat) =>
          if ti.1.isMetric || !ti.1.fpOwner then s
          else
            let va := bankVa ti.1.paramVa (1 - cap)
            let n := ti.1.elems * fmtSize ti.1.pfmt
            (s.noteVa pen va n).snapData pen sn (snapOffset j.plan ti.2) ((List.range n).map (fun i => s.vaByte pen (va + i)))) s
        (s.onJob pen (fun j => { j with snap := some { sn with written := true } })).setFld .updSnap 1 1 1 (pen - 1)
      else s

/-! ### The sweep as commands -/

/-- The XOR of a column of the digest rows. -/
def xorColumn (rows : List (List Word64)) (c : Nat) : Word64 := rows.foldl (fun d r => d ^^^ r.getD c 0#64) 0#64

/-- The parameter, optimiser-state and metrics component digests of a sweep's rows (R486, R498). -/
def rowDigests (rows : List (List Word64)) : List Word64 :=
  [xorColumn rows 0, xorColumn rows 1 ^^^ xorColumn rows 2, xorColumn rows 3]

/-- The sweep begins once backward is over, the outcome of the step before is known and every clip contribution is in (R432,
R433, R438); the update units then sweep every record. -/
def execSweepStart (pen : Pen) (peers : List ClipPeer) (s : State) : Out :=
  match s.job pen with
  | none => .next s
  | some j =>
    match j.cur, j.voting with
    | some a, none =>
      if a.phase = .sweepWait ∧ !j.replayRun ∧ !a.wordSent ∧ s.unitsRun pen ∧ clipReady j peers then
        let cap := s.fld .updJob 2 1 (pen - 1)
        let recs := j.plan.recs.zip (List.range j.plan.recs.length)
        let s := (s.baysOf pen).foldl (fun s b => s.setUnit b { (s.unit b) with elements := 0, nonfinite := 0 }) s
        let r := State.sweepRecords pen a.step cap peers recs s {}
        let s := r.1.onJob pen (fun j => { j with
          sweepRows := r.2.rows,
          cur := j.cur.map (fun a => { a with phase := .sweep, nonfinite := r.2.nonfinite,
                                              digests := rowDigests r.2.rows ++ [0#64] }) })
        let s := if r.2.poison then s.orStatus pen stPoison else s
        let s := if r.2.overflow then s.orStatus pen stOverflow else s
        let s := if 0 < r.2.nonfinite then s.orStatus pen stNonfinite else s
        match r.2.failed with
        | some ix => .next ((s.postPen pen evUpdateWindow a.step [ef ix]).terminal pen evUpdateWindow [ef ix])
        | none => .next (s.snapSweep pen a.step cap)
      else .next s
    | _, _ => .next s

/-- The sweep is complete in every unit (R436, R445): the ledger digest joins the others, the digest table and the unsealed
journal record are written (R491, R498), and the word is sent. -/
def execSweepComplete (pen : Pen) (s : State) : Out :=
  match s.job pen with
  | none => .next s
  | some j =>
    match j.cur with
    | some a =>
      if a.phase = .sweep ∧ !a.wordSent ∧ s.unitsRun pen then
        let a := { a with digests := a.digests.take 3 ++ [ledgerDigest j.rank a] }
        let s := (s.onJob pen (fun j => { j with cur := some a })).sweepTimers pen
        let s := s.writeTable pen a.step j.sweepRows
        let s := s.writeRecord pen ((s.jobD pen).cur.getD a)
        let s := s.onJob pen (fun j => { j with cur := j.cur.map (fun a => { a with recorded := true }) })
        .next (s.sendWord pen)
      else .next s
    | none => .next s

end Sys2Proof.Machine
end

