-- ==== Sys2Proof/Machine/StepSeq.lean ====
section
/-!
DEFINITION. The step sequence as commands (R421 to R435): T0 of an attempt with its mapping changes, header and clear (R60, R264,
R424), the entry bundle of an attempt and of a replay (R264, R511), and the vote gate (R433); with the thermal emergency, which a
step boundary can begin or end (R531, R660).
-/

namespace Sys2Proof.Machine

/-! ### Thermal emergency (R44, R660, R661) -/

/-- The functions that a device-wide event goes to: PF0 and every pen (DEDUCED, log entry 26). -/
def State.everyone (s : State) : List Nat := 0 :: ((List.range 12).map (· + 1)).filter (fun p => (s.pen p).present)

/-- Posts an event to PF0 and every pen. -/
def State.postAll (s : State) (code : Nat) (fields : List EvField) : State :=
  s.everyone.foldl (fun s f => s.post f code 0 fields) s

/-- The pens with a loaded job. -/
def State.loadedPens (s : State) : List Nat := ((List.range 12).map (· + 1)).filter (fun p => (s.job p).isSome)

/-- A thermal emergency begins (R36, R660, R687): the clock of both dies halves; running attempts mark their records (R491). -/
def State.emergency (s : State) (injected : Bool) : State :=
  if s.fld .devMode 3 1 = 1 then s
  else
    let s := (s.setFld .devMode 3 1 1).setFld .devMode 4 1 1
    let s := (s.setFld .pwrThermal 17 1 1).bump .pwrThermal 32 16
    let s := s.loadedPens.foldl (fun s p => s.onJob p (fun j => { j with cur := j.cur.map (fun a => { a with halfSeen := true }) })) s
    let s := { s with emergencyOver := false }
    (s.postAll 385 []).countEvent s.lowestBay 20 0 injected

/-- The emergency ends: the clock returns to full rate (R660). -/
def State.emergencyEnd (s : State) : State :=
  { ((s.setFld .devMode 3 1 0).setFld .pwrThermal 17 1 0) with emergencyOver := false }

/-- An injection of detector 20 fires at a step boundary (R531). -/
def State.injectThermal (s : State) : State :=
  match s.injection with
  | some i =>
    if i.detector = 20 then
      let r := s.fireInjection 20 i.bay i.unit
      if r.2 then r.1.emergency true else r.1
    else s
  | none => s

/-! ### T0 (R434) -/

/-- The bytes of the step header (R424). -/
def stepHeader (p : Plan) (step bank : Nat) : List Byte :=
  fit 64 (le 8 step ++ le 1 bank ++ le 1 (step % 2) ++ zeros 6 ++
    fit 32 (p.scheds.flatMap (fun k => le 4 (schedRate k step).toNat)))

/-- A logical core as a step starts (R59, R264): everything clear, constant registers loaded, counters at their start values. -/
def Core.clear (c : Core) : Core :=
  let consts := SMap.setList (fun _ => 0#64) ([] : SMap Word64) 48 (c.cfg.consts.take 16)
  { cfg := c.cfg, rf := { s := consts }, rf0 := { s := consts }, npc := c.cfg.entry,
    ctr := c.cfg.counters.foldl (fun m x => SMap.set (fun _ => 0#32) m x.1 x.2) [] }

/-- Every core of a job is cleared (R264 order 2). -/
def State.clearCores (s : State) (pen : Nat) : State :=
  let s := (s.jobCores pen).foldl (fun s l => s.onCore (coreKey pen l) Core.clear) s
  { s with packets := s.packets.filter (fun k => decide (k.pen ≠ pen)) }

/-- RNG_SEED and RNG_SEED_INFO show the seed in force at a step (R479, R480). -/
def State.seedRegs (s : State) (pen step : Nat) : State :=
  match s.job pen with
  | none => (s.setReg .rngSeed 0#64 (pen - 1)).setReg .rngSeedInfo 0#64 (pen - 1)
  | some j =>
    let later := j.seeds.any (fun e => decide (step < e.first))
    match seedAt j step with
    | some e =>
      (s.setReg .rngSeed e.seed (pen - 1)).setReg .rngSeedInfo
        (BitVec.ofNat 64 (1 + bitIf e.drawn 1 + bitIf later 2 + e.first % 2 ^ 56 * 2 ^ 8)) (pen - 1)
    | none => (s.setReg .rngSeed 0#64 (pen - 1)).setReg .rngSeedInfo (BitVec.ofNat 64 (bitIf later 2)) (pen - 1)

/-- The job may pass T0 of its next step (R434, R514, R553, R564, R643). -/
def State.t0Ready (s : State) (pen : Nat) (j : Job) : Bool :=
  (match j.cur with
   | none => true
   | some a => a.wordSent && j.voting.isNone) &&
  (match j.cur, j.ckpt with
   | some a, some c => decide (c.step ≠ a.step)
   | _, _ => true) &&
  !j.boundaryDue && !j.draining && !j.resync && !j.holdRound && !j.fenceHold && j.adopting.isEmpty && !j.aborting &&
  j.restore.isNone && !s.diesStopped && !s.computeReset &&
  (decide (s.fld .updJob 0 2 (pen - 1) = 1) || decide (s.fld .updJob 0 2 (pen - 1) = 2)) &&
  (match (s.pen pen).released with
   | some r => decide (j.nextStep ≤ r)
   | none => false)

/-- The attempt of the next step begins: its number (R422), the earlier one's vote outstanding (R434), the registers that show it. -/
def State.beginAttempt (s : State) (pen : Nat) (j : Job) : State :=
  let step := j.nextStep
  let n := SMap.get (fun _ => 0) j.attempts step
  let kids := j.earlyKids.filter (fun q => decide (q.2.step = step) && decide (q.2.attempt = n))
  let a : Attempt := { step := step, attempt := n, status := j.statusNext, halfSeen := decide (s.fld .devMode 3 1 = 1), kids := kids }
  let s := s.setJob pen (some { j with
    cur := some a, statusNext := 0#64, voting := j.cur <|> j.voting, attempts := SMap.set (fun _ => 0) j.attempts step (n + 1), nextStep := step + 1,
    cause := 0, causeFields := [], turn := none, stopped := none, lateHeld := 0, replayRun := false, suppressed := 0, sentReplay := 0,
    xfers := [], sigSums := [], stalledPosted := false, earlyKids := [],
    groupRx := (j.groupRx.map (fun kv => (kv.1, kv.2.begin))).filter (fun kv => decide (kv.2 ≠ {})) })
  let s := s.setFld .updJob 0 2 2 (pen - 1)
  let s := (s.setFld .corePenProg 0 2 2 (pen - 1)).bump .corePenProg 32 32 (pen - 1)
  (s.jobRegs pen).seedRegs pen step

/-- The ports and bays of a pen as a step starts: service order (R367), the acknowledged-transfer record (R368), the crest cache
(R213), the step's figures. -/
def State.beginPorts (s : State) (pen : Nat) : State :=
  (s.baysOf pen).foldl (fun s b =>
    (s.onPort b (fun x => { x with deficit := [], rrNext := 0, rrGranted := false, ackRecord := [], overflow := false, stopClk := 0#64 })).onBay b
      (fun x => { x with crestCache := [], heldClk := 0, refreshes := 0 })) s

/-- The seed entry of the first step of a drawn seed (R466), and the lineage entry of the first step after a narrow restore
(R561); a replay that has not restored so takes the recorded one over (R40; DEDUCED, log entry 77). -/
def State.beginLedger (s : State) (pen : Nat) (step : Nat) : State :=
  let j := s.jobD pen
  let s := match seedAt j step with
    | some e =>
      if e.drawn ∧ (e.first = step ∨ step = j.plan.startStep) then
        s.ledgerDecision pen (ledgerEntry 1 1 step (le 8 e.seed.toNat ++ le 8 e.first))
      else s
    | none => s
  let recorded := match (s.jobD pen).cur with
    | some a => if s.replayMode pen then (importedLeft (s.jobD pen) a).head?.filter (fun (e : ImportedEntry) => decide (e.kind = 3)) else none
    | none => none
  match j.lineage, recorded with
  | some fp, _ => if step = j.plan.startStep then s.ledgerDecision pen (ledgerEntry 3 1 step (fit 32 fp ++ le 4 1 ++ zeros 4)) else s
  | none, some e => (s.consume pen).ledgerAppend pen e.bytes
  | none, none => s

/-- T0 of an attempt (R434): the mapping changes (R60) and due ACT actions (R529), the clear (R264), the step header (R424); a
step without a seed ends the job (R465). -/
def execStepT0 (pen : Pen) (s : State) : Out :=
  match s.job pen with
  | none => .next s
  | some j =>
    if !s.t0Ready pen j then .next s
    else
      let s := if s.emergencyOver then s.emergencyEnd else s
      let s := s.injectThermal
      let s := if j.cur.isSome then s.keepFigures pen else s
      let bank := (s.fld .updJob 2 1 (pen - 1) + (if j.cur.isSome then 1 else 0)) % 2
      let s := s.beginAttempt pen j
      if (seedAt j j.nextStep).isNone then
        .next ((s.postPen pen evSeedMissing j.nextStep [ef j.nextStep]).terminal pen evSeedMissing [ef j.nextStep])
      else
        let s := (s.actBoundary pen).mappingChanges pen
        let dig := rangeDigestAt 0 ((List.range 168).flatMap (fun n => le 8 (s.reg .coreSiteState n).toNat))
        let s := s.onJob pen (fun j => { j with cur := j.cur.map (fun a => { a with siteMap := dig }) })
        let s := (s.clearCores pen).beginPorts pen
        let s := (s.beginLedger pen j.nextStep).vaStore pen j.plan.headerVa (stepHeader j.plan j.nextStep bank)
        .next (s.tryCloseAll pen)

/-! ### The entry bundle (R264, R511) -/

/-- Every core of a job issues its entry bundle in the same clk (R264 order 3); with a doubled site the first turn begins (R61); the
slot clock is set to 0 (R274). -/
def State.enterCores (s : State) (pen : Nat) : State :=
  let s := (s.jobCores pen).foldl (fun s l => s.onCore (coreKey pen l) (fun c => { c with run := .running, slot := 3 })) s
  let s := s.onJob pen (fun j => { j with
    turn := if j.doubled.isEmpty then none else some .aTurn, inB := false,
    cur := j.cur.map (fun a => { a with phase := .forward, gateRaised := false, pastGate := [] }) })
  { s with slotClk := SMap.put s.slotClk pen 0 }

/-- Counters at their start values plus the remote signals of the step (R370 order 3). -/
def State.replayCounters (s : State) (pen : Nat) : State :=
  (s.jobD pen).sigSums.foldl (fun s kv => s.onCore (coreKey pen (kv.1 / 256)) (fun c =>
    { c with ctr := SMap.set (fun _ => 0#32) c.ctr (kv.1 % 256) (c.counter (kv.1 % 256) + kv.2) })) s

/-- Every message that the module sent for the job is acknowledged (R370 order 2, R449). -/
def drained (j : Job) : Bool := j.tx.all (fun kv => kv.2.open_.isEmpty)

/-- A replay starts (R511 orders 6 and 7) unless a port's record overflowed, which sends the step to a rewind (R370 order 5). -/
def State.enterReplay (s : State) (pen : Nat) : State :=
  if (s.baysOf pen).any (fun b => (s.port b).overflow) then
    let s := (s.baysOf pen).foldl (fun s b => if (s.port b).overflow then s.postLink b 380 [] else s) s
    let s := s.onJob pen (fun j => { j with fenceHold := false })
    (s.orStatus pen stFault).sendWord pen
  else
    let s := ((s.clearCores pen).replayCounters pen).onJob pen (fun j => { j with fenceHold := false, replayRun := true, suppressed := 0, sentReplay := 0 })
    (s.enterCores pen).setFld .corePenProg 0 2 2 (pen - 1)

/-- The entry bundle of an attempt, or of a replay once its cores have sites and its messages are acknowledged. -/
def execEntryBundle (pen : Pen) (s : State) : Out :=
  match s.job pen with
  | none => .next s
  | some j =>
    match j.cur with
    | none => .next s
    | some a =>
      if a.wordSent || s.diesStopped || !j.adopting.isEmpty then .next s
      else if j.fenceHold then whenOk (drained j) s (s.enterReplay pen)
      else whenOk (decide (a.phase = .start)) s (s.enterCores pen)

/-- The vote gate (R433). -/
def execGateRaise (pen : Pen) (s : State) : Out := whenOk (s.unitsRun pen) s (s.raiseGate pen)

end Sys2Proof.Machine
end

