-- ==== Sys2Proof/Machine/Memory.lean ====
section
/-!
DEFINITION. Device memory as commands: reads and writes of a line at its controller (R314 to R319), row retirement (R320 to R322),
refresh and temperature (R324), patrol (R326), the boundary work (R330), and the commit of a window table (R309, R310).
-/

namespace Sys2Proof.Machine

/-! ### Reads and writes of a line -/

/-- The stack of a bay works: present, trained and not in self-refresh (R323, R324). -/
def State.stackUp (s : State) (b : Nat) : Bool :=
  s.bayPresent b && decide (s.fld .hbmBayStatus 1 1 b = 1) && (decide (s.power = .idle) || decide (s.power = .run)) && !s.computeReset

/-- A line is decoded, and what its decoding leaves. -/
def State.decodeAt (s : State) (b l : Nat) (ecc : EccOut) : State :=
  if s.imageMarked b l then s.decodeLine b l ⟨.good, .good⟩ else (s.decodeLine b l ecc).settleImage b l ecc

/-- A read of a line completes (R314 to R316): the state holds its bytes and its poison. -/
def execMemRead (b : Fin 12) (line : Nat) (ecc : EccOut) (s : State) : Out :=
  if stackLines ≤ line then .fault .noSuchLine
  else
    let r := (s.decodeAt b.val line ecc).answerLine b.val line
    whenOk (s.stackUp b.val) s { r.1 with lastRead := r.2.1, lastPoison := r.2.2 }

/-- A write of up to 64 bytes within one line is performed at the hub (R288, R317): a partial write reads the line first. -/
def execMemWrite (b : Fin 12) (line off : Nat) (data : List Byte) (poison : Bool) (ecc : EccOut) (s : State) : Out :=
  if stackLines ≤ line then .fault .noSuchLine
  else
    let t := if data.length < 64 then s.decodeAt b.val line ecc else s
    whenOk (s.stackUp b.val && !data.isEmpty && decide (off + data.length ≤ 64)) s (t.hubWrite b.val line off data poison)

/-! ### Refresh and patrol -/

/-- The refresh rotation refreshes its next bank (R324): the banks of a stack in a fixed rotation. -/
def execRefresh (b : Fin 12) (s : State) : Out :=
  whenOk (s.stackUp b.val) s
    (s.onBay b.val (fun x => { x with refreshBank := (x.refreshBank + 1) % 64, refreshes := x.refreshes + 1 }))

/-- The stack temperature changes (R324): from 85 °C the refresh rate doubles, below 80 °C it halves again. -/
def execStackTempChange (b : Fin 12) (celsius : Int) (s : State) : Out :=
  let hot := decide (s.fld .hbmBayStatus 2 1 b.val = 1)
  let t := s.onBay b.val (fun x => { x with tempC := celsius })
  whenOk (s.stackUp b.val) s
    (if 85 ≤ celsius ∧ !hot then (t.setFld .hbmBayStatus 2 1 1 b.val).postBoth (t.penOfBay b.val) 355 0 [ef b.val]
     else if celsius < 80 ∧ hot then t.setFld .hbmBayStatus 2 1 0 b.val
     else t)

/-- The patrol of a stack whose pen has no job reads its next line and corrects, marks and retires as at a boundary (R326). -/
def execPatrol (b : Fin 12) (ecc : EccOut) (s : State) : Out :=
  let l := (s.bay b.val).patrolLine
  let t := s.decodeLine b.val l ecc
  let t := if t.lineBad (b.val * stackLines + l) then t.zeroMark (b.val * stackLines + l) else t
  whenOk (s.stackUp b.val && s.bayIdle b.val) s
    (t.onBay b.val (fun x => { x with patrolLine := (l + 1) % stackLines, raised := [],
                                      log := x.log.filter (fun e => decide (e.1 ≠ l)) }))

/-! ### Windows (R309, R310, R311) -/

/-- The window caches of a pen's bays are emptied (R311). -/
def State.emptyWindows (s : State) (pen : Nat) : State :=
  (s.baysOf pen).foldl (fun s b => s.onBay b (fun x => { x with winCache := [] })) s

/-- A passed commit becomes the active table (R310, R340). -/
def State.activateWindows (s : State) (pen : Nat) : State :=
  (s.onPen pen (fun x => { x with active := x.staging, activatePending := false,
                                  activations := satAdd 32 x.activations 1 })).emptyWindows pen

/-- A reserved region overlaps the frames of an entry in some bay of its mask (R309). -/
def regionHits (e : WinEntry) (r : Nat × Nat × Nat) : Bool :=
  decide (e.mask &&& r.1 ≠ 0) && decide (e.frame < r.2.1 + r.2.2) && decide (r.2.1 < e.frame + e.page / 2 ^ 21)

/-- The result of the check of one staging entry (R309). -/
def State.entryStatus (s : State) (pen : Nat) (w : Word64 × Word64) : Nat :=
  let e := winEntry w
  let regions := match s.job pen with
    | some j => j.regions
    | none => []
  if w.1 &&& maskOf [(5, 3), (20, 12), (59, 5)] ≠ 0#64 ∨ w.2 &&& maskOf [(15, 49)] ≠ 0#64 then 5
  else if e.mask = 0 ∨ (maskBays e.mask).any (fun b => !(s.pen pen).bays.getLsbD b) then 1
  else if e.big ∧ (e.vaPage % 512 ≠ 0 ∨ e.frame % 512 ≠ 0) then 2
  else if allocEnd < e.frame * 2 ^ 21 + e.page ∨ 2 ^ 48 < e.lo + e.span then 3
  else if regions.any (regionHits e) then 4
  else 0

/-- The first staging entry that fails, with its status (R309). -/
def State.commitFail (s : State) (pen : Nat) : Option (Nat × Nat) :=
  (s.pen pen).staging.findSome? (fun kv =>
    if (winEntry kv.2).valid ∧ s.entryStatus pen kv.2 ≠ 0 then some (kv.1, s.entryStatus pen kv.2) else none)

/-- A commit of a pen is pending (R310, R340). -/
def PenS.commitPending (x : PenS) : Bool := x.checkRunning || x.activatePending

/-- HBM_WIN_CTL.commit (R309, R310, R340): ignored from PF0 and while a commit is pending. -/
def execWindowCommit (fn : Func) (s : State) : Out :=
  whenOk (decide (fn.val ≠ 0) && (s.pen fn.val).present && !(s.pen fn.val).commitPending) s
    (s.onPen fn.val (fun x => { x with checkRunning := true }))

/-- The check of a commit ends (R309, R310): a table that passes waits for the step boundary, or becomes active at once without a
job. -/
def execCommitCheckDone (pen : Pen) (s : State) : Out :=
  if !(s.pen pen).checkRunning then .next s
  else match s.commitFail pen with
    | some f => .next (s.onPen pen (fun x => { x with checkRunning := false, winStatus := f.2, winFail := f.1 }))
    | none =>
      let s := s.onPen pen (fun x => { x with checkRunning := false, winStatus := 0, winFail := 0, activatePending := true })
      .next (if (s.job pen).isNone then s.activateWindows pen else s)

/-- The pen that a function's window registers name (R338, R339): none when PF0 names none that exists. -/
def State.winPen (s : State) (fn : Nat) : Option Nat :=
  let p := if fn = 0 then s.fld .hbmWinAddr 12 4 0 0 else fn
  if (s.pen p).present ∧ 1 ≤ p ∧ p ≤ 12 then some p else none

/-- HBM_WIN_DATA0 and HBM_WIN_DATA1 (R339). -/
def State.winData (s : State) (fn : Nat) (second : Bool) : Word64 :=
  match s.winPen fn with
  | none => 0#64
  | some p =>
    let x := s.pen p
    let w := SMap.get (fun _ => (0#64, 0#64)) (if s.fld .hbmWinAddr 17 1 0 fn = 1 then x.active else x.staging) (s.fld .hbmWinAddr 0 12 0 fn)
    if second then w.2 else w.1

/-- An access to HBM_WIN_DATA0 or HBM_WIN_DATA1, of the whole register or of a half (R17, R338, R339): a 4-byte access is an access to
the register too, so it steps the index (DEDUCED, log entry 121). -/
def execWinDataAccess (fn : Func) (reg : WinReg) (acc : RegAcc) (s : State) : Out :=
  let second := reg.second
  let part := reg.part
  let ix := s.fld .hbmWinAddr 0 12 0 fn.val
  let s1 := match acc with
    | .read => { s with lastRead := partRead part (s.winData fn.val second) }
    | .write v =>
      if fn.val ≠ 0 ∧ (s.pen fn.val).present ∧ s.fld .hbmWinAddr 17 1 0 fn.val = 0 ∧ !(s.pen fn.val).commitPending then
        s.onPen fn.val (fun x =>
          let w := SMap.get (fun _ => (0#64, 0#64)) x.staging ix
          { x with staging := SMap.set (fun _ => (0#64, 0#64)) x.staging ix (if second then (w.1, partWrite part w.2 v) else (partWrite part w.1 v, w.2)) })
      else s
  .next (if second ∧ s.fld .hbmWinAddr 16 1 0 fn.val = 1 then s1.setFld .hbmWinAddr 0 12 (ix + 1) 0 fn.val else s1)

/-! ### The boundary (R330) -/

/-- A logged line is read and decoded again (R330 order 1): an unreadable line is stored marked; a correctable one is written back
and a clean one left alone, neither of which changes what it holds. -/
def State.rereadLine (s : State) (b l : Nat) (ecc : EccOut) : State :=
  let d := b * stackLines + l
  if s.lineBad d then s.zeroMark d
  else if s.linePoison d then s
  else if eccFails ecc then s.zeroMark d
  else (s.passSector (64 * d) ecc.lo).passSector (64 * d + 32) ecc.hi

/-- The logged lines of a pen's bays, bay by bay. -/
def State.logged (s : State) (pen : Nat) : List (Nat × Nat) :=
  (s.baysOf pen).flatMap (fun b => (s.bay b).log.map (fun e => (b, e.1)))

/-- The memory boundary work of a pen's bays, in the order of R330. -/
def execBoundaryWork (pen : Pen) (rereads : List EccOut) (s : State) : Out :=
  match s.job pen with
  | none => .next s
  | some j =>
    if !j.boundaryDue then .next s
    else
      let ls := s.logged pen
      let s := ((List.range ls.length).zip ls).foldl (fun s x => s.rereadLine x.2.1 x.2.2 (rereads.getD x.1 ⟨.good, .good⟩)) s
      let s := (s.baysOf pen).foldl (fun s b => State.retireDue 4 s b) s
      let s := if (s.pen pen).activatePending then s.activateWindows pen else s
      let s := s.emptyWindows pen
      let s := (s.baysOf pen).foldl (fun s b => s.onBay b (fun x => { x with log := [], raised := [] })) s
      .next (s.onJob pen (fun j => { j with boundaryDue := false }))

end Sys2Proof.Machine
end

