-- ==== Sys2Proof/Machine/Random.lean ====
section
/-!
DEFINITION. The noise source (R460 to R462) and the requests to the DRBG (R463, R464), whose output is a free value: the order in
which samples enter it is not stated (DESIGN CHOICE, log entry 30).
-/

namespace Sys2Proof.Machine

/-- The states of the noise source (R477). -/
def rngStarting : Nat := 0
def rngOk : Nat := 1
def rngFailed : Nat := 2

/-- The state of the noise source. -/
def State.rngState (s : State) : Nat := s.fld .rngStatus 0 2

/-- The run of equal samples after one more. -/
def runStep (r : Nat × Bool) (x : Bool) : Nat × Bool := if r.1 ≠ 0 ∧ r.2 = x then (r.1 + 1, x) else (1, x)

/-- The repetition count test over samples (R460): the run at the end, and whether 41 consecutive samples were equal. -/
def repetition (r : Nat × Bool) (xs : List Bool) : (Nat × Bool) × Bool :=
  xs.foldl (fun a x => let r := runStep a.1 x; (r, a.2 || decide (41 ≤ r.1))) (r, false)

/-- The adaptive proportion test fails on a window (R460). -/
def proportionFails (xs : List Bool) : Bool := decide (794 ≤ xs.count (xs.headD false)) && !xs.isEmpty

/-- Some window of 1,024 samples fails the adaptive proportion test. -/
def windowsFail (xs : List Bool) : Bool :=
  (List.range (xs.length / 1024)).any (fun i => proportionFails ((xs.drop (1024 * i)).take 1024))

/-- The start-up test over the first 4,096 samples (R460). -/
def startupPasses (xs : List Bool) : Bool := !(repetition (0, false) xs).2 && !windowsFail xs

/-- The noise source enters FAILED (R462): RNG_FAIL, and the DRBG's error state. -/
def State.rngFail (s : State) : State :=
  let s := ((s.setFld .rngStatus 0 2 rngFailed).setFld .rngStatus 2 1 0).setFld .rngStatus 3 1 1
  { s with rngFails := 0 }.post 0 384 0 []

/-- The start-up test has passed (R462, R463): the source is OK and the DRBG is instantiated. -/
def State.rngPass (s : State) : State :=
  let s := ((s.setFld .rngStatus 0 2 rngOk).setFld .rngStatus 2 1 1).setFld .rngStatus 32 32 0
  { s with rngFails := 0, rngRun := (0, false) }

/-- A window of 1,024 samples passes the continuous tests or is discarded (R460 to R462). -/
def execNoiseWindow (samples : List Bool) (s : State) : Out :=
  if s.rngState ≠ rngOk then .next s
  else
    let f := match s.injection with
      | some i => s.fireInjection 21 i.bay i.unit
      | none => (s, false)
    let s := f.1
    let rct := repetition s.rngRun samples
    let apt := proportionFails samples
    let s := { s with rngRun := rct.1 }
    let s := if rct.2 || f.2 then s.bump .rngHealth 0 16 else s
    let s := if apt then s.bump .rngHealth 16 16 else s
    if rct.2 || apt || f.2 then
      let s : State := { s.countEvent s.lowestBay 21 0 (f.2 && !rct.2 && !apt) with rngFails := s.rngFails + 1 }
      .next (if 3 ≤ s.rngFails then s.rngFail else s)
    else .next { s with rngFails := 0 }

/-- The start-up test at power-good (R460, R462). -/
def execRngStartupTest (samples : List Bool) (s : State) : Out :=
  if !(s.powerGood && decide (s.rngState = rngStarting)) then .next s
  else if startupPasses samples then .next s.rngPass
  else .next (s.bump .rngHealth 32 16).rngFail

/-- A retry of the start-up test while the source is FAILED (R462). -/
def execRngRetry (samples : List Bool) (s : State) : Out :=
  if s.rngState ≠ rngFailed then .next s
  else if startupPasses samples then .next s.rngPass
  else .next (s.bump .rngHealth 32 16)

/-! ### Requests -/

/-- The DRBG serves requests (R463). -/
def State.drbgReady (s : State) : Bool := decide (s.fld .rngStatus 2 1 = 1)

/-- A generate request, after a reseed or not (R463): the count since the last reseed, which 2^20 requests end. -/
def State.generate (s : State) (reseed : Bool) : State :=
  let n := s.fld .rngStatus 32 32
  s.setFld .rngStatus 32 32 (if reseed ∨ 2 ^ 20 ≤ n then 1 else n + 1)

end Sys2Proof.Machine
end

