-- ==== Sys2Proof/Machine/HostOps.lean ====
section
/-!
DEFINITION. The host's rings (R619 to R630): doorbell indices, completion entries, the fetch of a command with its checks, bounce
units of a confidential pen (R586 to R588), and the serving of a fetched command.
-/

namespace Sys2Proof.Machine

/-! ### Status values (R630) -/

def rsOk : Nat := 0
def rsPreempted : Nat := 1
def rsReserved : Nat := 2
def rsOpcode : Nat := 3
def rsNotPermitted : Nat := 4
def rsLength : Nat := 5
def rsNoJob : Nat := 6
def rsJobPresent : Nat := 7
def rsPenReset : Nat := 8
def rsHostDma : Nat := 9
def rsWindowMiss : Nat := 10
def rsWindowPerm : Nat := 11
def rsTamperLocked : Nat := 13
def rsTamperAbort : Nat := 14
def rsConfRequired : Nat := 16
def rsConfNoSession : Nat := 17
def rsConfCounter : Nat := 18
def rsConfTag : Nat := 19
def rsSealed : Nat := 20
def rsModeBusy : Nat := 21
def rsSeedLate : Nat := 22
def rsEntropy : Nat := 23
def rsReplay : Nat := 24
def rsSnapLate : Nat := 25
def rsImport : Nat := 26
def rsInputOffset : Nat := 27
def rsInputLate : Nat := 28
def rsYokeConflict : Nat := 56
def rsBayAct : Nat := 64
def rsJobRunning : Nat := 68

/-- The status of a checkpoint or restore command (R566, R630). -/
def rsCkpt (v : Nat) : Nat := if v = 0 then 0 else 0x100 + v

/-! ### Ring registers (R656) -/

/-- The function that owns a ring, its size, and whether it is enabled. -/
def State.ringOwner (s : State) (r : Nat) : Nat := s.fld .hifRingCtl 16 4 r
def State.ringSize (s : State) (r : Nat) : Nat := 2 ^ s.fld .hifRingCtl 1 5 r
def State.ringOn (s : State) (r : Nat) : Bool := decide (s.fld .hifRingCtl 0 1 r = 1)

/-- The device's indices: commands fetched and completion entries written. -/
def State.cmdHead (s : State) (r : Nat) : Nat := s.fld .hifRingStat 0 32 r
def State.cplTail (s : State) (r : Nat) : Nat := s.fld .hifRingStat 32 32 r

/-- The distance between two free-running 32-bit indices (R621). -/
def wrapSub (a b : Nat) : Nat := (a + 2 ^ 32 - b % 2 ^ 32) % 2 ^ 32

/-- Completion slots that neither an entry nor a fetched command takes (R622, R624). -/
def State.freeSlots (s : State) (r : Nat) : Nat :=
  s.ringSize r - wrapSub (s.cplTail r) (s.ring r).cplHead - (s.ring r).inflight.length

/-- RING_ERROR to a function (R621): its count, and the event. -/
def State.ringErrorTo (s : State) (fn r : Nat) : State := (s.bump .hifPenStat 48 16 fn).post fn 386 0 [ef r]

/-- A ring error of the ring's own function: the error bit is set and fetching stops. -/
def State.ringError (s : State) (fn r : Nat) : State :=
  ((s.setFld .hifRingCtl 20 1 1 r).onRing r (fun x => { x with stopped := true })).ringErrorTo fn r

/-- A ring returned to its reset state, its owner kept (R619, R634). -/
def State.ringReset (s : State) (r : Nat) : State :=
  let own := s.ringOwner r
  let s := (s.setReg .hifRingCmdBase 0#64 r).setReg .hifRingCplBase 0#64 r
  let s := (s.setReg .hifRingCtl (BitVec.ofNat 64 (own * 2 ^ 16)) r).setReg .hifRingStat 0#64 r
  s.setRing r {}

/-- The rings of a function. -/
def State.ringsOf (s : State) (fn : Nat) : List Nat := (List.range 4096).filter (fun r => decide (s.ringOwner r = fn))

/-! ### Confidential pens (R586 to R588) -/

/-- A function serves a confidential pen. -/
def State.confFn (s : State) (fn : Nat) : Bool := decide (fn ≠ 0) && (s.pen fn).confidential

/-- The initialisation vector of R587. -/
def hostIv (pen dir ring ctr : Nat) : List Byte := le 1 pen ++ le 1 dir ++ le 2 ring ++ le 8 ctr

/-- The associated data of a bounce unit (R587). -/
def hostAad (va len dir : Nat) : List Byte := le 8 va ++ le 4 len ++ le 1 dir ++ zeros 3

/-- The session of a pen changed. -/
def State.onSession (s : State) (p : Nat) (f : HostSession → HostSession) : State :=
  s.onPen p (fun x => { x with session := x.session.map f })

/-- The bytes between two bounce units in host memory (R627). -/
def bounceStride : Nat := 4120

/-- A host-to-device bounce unit is taken (R587): counter, then tag; a refused one has no effect. -/
def State.takeUnit (s : State) (pen ring host va len : Nat) : State × Except Nat (List Byte) :=
  match (s.pen pen).session with
  | none => (s, .error rsConfNoSession)
  | some ses =>
    let raw := s.hostRead host (8 + len + 16)
    let ctr := leNum (raw.take 8)
    if ctr < SMap.get (fun _ => 0) ses.lastH2d ring ∨ 2 ^ 32 ≤ ctr then (s, .error rsConfCounter)
    else match gcmOpen ses.h2d (hostIv pen 0 ring ctr) (hostAad va len 0) ((raw.drop 8).take len) (raw.drop (8 + len)) with
      | none => (s, .error rsConfTag)
      | some d => (s.onSession pen (fun x => { x with lastH2d := SMap.set (fun _ => 0) x.lastH2d ring (ctr + 1) }), .ok d)

/-- A transfer of bounce units from the host, by fuel: each unit's bytes go to `put` with their offset; the status. -/
def State.bounceIn (pen ring host : Nat) (vaOf : Nat → Nat) (len : Nat) (put : State → Nat → List Byte → State) :
    Nat → State → Nat → State × Nat
  | 0, s, _ => (s, rsOk)
  | n + 1, s, k =>
    let off := 4096 * k
    if len ≤ off then (s, rsOk)
    else
      let r := s.takeUnit pen ring (host + bounceStride * k) (vaOf off) (min 4096 (len - off))
      match r.2 with
      | .error e => (r.1, e)
      | .ok d => State.bounceIn pen ring host vaOf len put n (put r.1 off d) (k + 1)

/-- A device-to-host bounce unit (R587): the device numbers units per ring and session. -/
def State.giveUnit (s : State) (pen ring host va : Nat) (bs : List Byte) : State × Nat :=
  match (s.pen pen).session with
  | none => (s, rsConfNoSession)
  | some ses =>
    let ctr := SMap.get (fun _ => 0) ses.nextD2h ring
    if 2 ^ 32 ≤ ctr then (s, rsConfCounter)
    else
      let iv := hostIv pen 1 ring ctr
      let ct := gcmCrypt ses.d2h iv bs
      let s := s.hostWrite host (le 8 ctr ++ ct ++ gcmTag ses.d2h iv (hostAad va bs.length 1) ct)
      (s.onSession pen (fun x => { x with nextD2h := SMap.set (fun _ => 0) x.nextD2h ring (ctr + 1) }), rsOk)

/-- Bytes given to the host in bounce units, unit by unit while each is accepted; units without a virtual address carry 0 (DEDUCED, log
entry 37). -/
def State.bounceOut (pen ring host : Nat) (va : Option Nat) : List (List Byte) → State → Nat → State × Nat
  | [], s, _ => (s, rsOk)
  | d :: t, s, k =>
    let r := s.giveUnit pen ring (host + bounceStride * k) ((va.map (fun a => a + 4096 * k)).getD 0) d
    if r.2 = rsOk then State.bounceOut pen ring host va t r.1 (k + 1) else r

/-- Bytes written to the host for a ring's function: plain, or in bounce units of a confidential pen (R586, R627). -/
def State.toHost (s : State) (fn ring host : Nat) (va : Option Nat) (bs : List Byte) : State × Nat :=
  if s.confFn fn then State.bounceOut fn ring host va (chunks 4096 bs) s 0 else (s.hostWrite host bs, rsOk)

/-- Bytes read from the host for a ring's function: plain, or from bounce units, whose address field is zero (R627). -/
def State.fromHost (s : State) (fn ring host len : Nat) : State × Except Nat (List Byte) :=
  if s.confFn fn then
    let units := List.range ((len + 4095) / 4096)
    units.foldl (fun acc k =>
      match acc.2 with
      | .error e => (acc.1, .error e)
      | .ok bs =>
        let r := acc.1.takeUnit fn ring (host + bounceStride * k) 0 (min 4096 (len - 4096 * k))
        match r.2 with
        | .error e => (r.1, .error e)
        | .ok d => (r.1, .ok (bs ++ d))) (s, .ok [])
  else (s, .ok (s.hostRead host len))

/-! ### Completion entries (R622, R623, R626) -/

/-- The tag of a completion entry: of a confidential pen with its session open, unless none is asked for (R588, R634). -/
def State.cplTag (s : State) (fn r : Nat) (head : List Byte) (tagged : Bool) : State × List Byte :=
  match s.confFn fn && tagged, (s.pen fn).session with
  | true, some ses =>
    let ix := SMap.get (fun _ => 0) ses.cplIndex r
    (s.onSession fn (fun x => { x with cplIndex := SMap.set (fun _ => 0) x.cplIndex r (ix + 1) }),
     gcmTag ses.cmd (hostIv fn 3 r ix) head [])
  | _, _ => (s, zeros 16)

/-- Writes one entry into the next slot of a completion ring, with its phase bit; an interrupt becomes due (R623). -/
def State.putCpl (s : State) (r code kind flags status : Nat) (cookie : Word64) (payload : List Byte) (tagged : Bool := true) : State :=
  let fn := s.ringOwner r
  let ix := s.cplTail r
  let phase := 1 - ix / s.ringSize r % 2
  let head := le 2 code ++ le 1 kind ++ le 1 (phase + flags) ++ le 2 status ++ le 1 fn ++ [0#8] ++ le 8 cookie.toNat ++ fit 32 payload
  let t := s.cplTag fn r head tagged
  let s := t.1.hostWrite ((t.1.reg .hifRingCplBase r).toNat + 64 * (ix % s.ringSize r)) (head ++ t.2)
  let s := s.setFld .hifRingStat 32 32 ((ix + 1) % 2 ^ 32) r
  if s.fld .hifRingCtl 7 1 r = 1 then s.onRing r (fun x => { x with intDue := true }) else s

/-! ### Fetch (R622, R625, R627 to R629, R647) -/

/-- The first step T0 of which has not passed is above a step: its T0 has passed on the module (R465, R629). -/
def t0Passed (j : Job) (step : Nat) : Bool := j.attempts.any (fun kv => decide (step ≤ kv.1))

/-- The parameter block of an opcode (R628): JOB_LOAD, CKPT_ARM to the host, RESTORE from the host, LEDGER_IMPORT, FTP_LOAD. -/
def hasParams (op aux : Nat) : Bool :=
  decide (op = 3) || (decide (op = 11) && decide (aux % 2 = 0)) || (decide (op = 13) && decide (aux % 4096 = 0)) ||
  decide (op = 15) || decide (op = 17)

/-- The opcodes that move data between host and device (R586). -/
def movesData (op : Nat) : Bool := decide (op = 1) || decide (op = 2)

/-- The 64 bytes of an entry and, in a confidential pen, what its tag opens (R588). -/
def State.openEntry (s : State) (fn r : Nat) (e : List Byte) : State × Except Nat (List Byte) :=
  if !s.confFn fn then (s, .ok e)
  else match (s.pen fn).session with
    | none => (s, .error rsConfNoSession)
    | some ses =>
      let ix := SMap.get (fun _ => 0) ses.cmdIndex r
      let s := s.onSession fn (fun x => { x with cmdIndex := SMap.set (fun _ => 0) x.cmdIndex r (ix + 1) })
      match gcmOpen ses.cmd (hostIv fn 2 r ix) [] (e.take 0x30) (e.drop 0x30) with
      | none => (s, .error rsConfTag)
      | some d => (s, .ok (d ++ zeros 16))

/-- The command of an entry's bytes: the pen is the function's own, or the one PF0 names (R628). -/
def entryCmd (fn ix : Nat) (e : List Byte) : Inflight :=
  let op := fieldAt e 0 1
  let aux := fieldAt e 2 2
  { index := ix, fn := fn, pen := if fn ≠ 0 then fn else if op = 1 ∨ op = 2 ∨ op = 5 then aux / 4096 else 0,
    opcode := op, flags := fieldAt e 1 1, aux := aux % 4096, len := fieldAt e 4 4,
    cookie := BitVec.ofNat 64 (fieldAt e 8 8), body := slice e 0x10 32 }

/-- A word of a command's body, at an offset of the entry. -/
def Inflight.word (c : Inflight) (off : Nat) : Nat := fieldAt c.body (off - 0x10) 8

/-- The checks of an entry itself (R711): opcode, reserved fields, who may issue it, the pen that PF0 names. -/
def entryRefusal (c : Inflight) (auxTop : Nat) (tag : List Byte) : Option Nat :=
  if 17 < c.opcode then some rsOpcode
  else if 4 ≤ c.flags ∨ tag.any (fun b => decide (b ≠ 0#8)) ∨ (auxTop ≠ 0 ∧ (c.fn ≠ 0 ∨ c.opcode = 0 ∨ c.opcode = 17)) then some rsReserved
  else if c.fn = 0 ∧ ¬(c.opcode ≤ 2 ∨ c.opcode = 5 ∨ c.opcode = 17) then some rsNotPermitted
  else if c.fn ≠ 0 ∧ c.opcode = 17 then some rsNotPermitted
  else if c.fn = 0 ∧ (c.opcode = 1 ∨ c.opcode = 2 ∨ c.opcode = 5) ∧ (c.pen = 0 ∨ 12 < c.pen) then some rsNotPermitted
  else none

/-- The checks of a DMA at its fetch (R629, R647). -/
def State.dmaRefusal (s : State) (c : Inflight) : Option Nat :=
  if c.fn = 0 ∧ (s.pen c.pen).confidential then
    some (if (s.pen c.pen).session.isSome then rsConfRequired else rsConfNoSession)
  else if c.len = 0 then none
  else match s.rangeCause c.pen (decide (c.opcode = 1)) (c.word 0x18) c.len with
    | some k => some (if k = causeWindowMiss then rsWindowMiss else rsWindowPerm)
    | none =>
      if c.opcode = 1 ∧ c.flags / 2 % 2 = 1 then
        if c.word 0x20 % 2048 ≠ 0 then some rsInputOffset
        else if t0Passed (s.jobD c.pen) (c.word 0x28) then some rsInputLate
        else none
      else none

/-- The size of a command's parameter block is refused (R640). -/
def paramTooLong (c : Inflight) : Bool := decide (c.opcode = 3) && decide (65536 < c.len)

/-- A fetched command with its checks made and its parameter block read: refused ones have their status already. -/
def State.admitCmd (s : State) (r : Nat) (e : List Byte) (ix : Nat) : State × Inflight :=
  let fn := s.ringOwner r
  let o := s.openEntry fn r e
  match o.2 with
  | .error st => (o.1, { entryCmd fn ix e with done := some (st, []) })
  | .ok d =>
    let s := o.1
    let c := entryCmd fn ix d
    let refuse (st : Nat) : State × Inflight := (s, { c with done := some (st, []) })
    if s.locked then refuse rsTamperLocked
    else match entryRefusal c (fieldAt d 2 2 / 4096) (d.drop 0x30) with
      | some st => refuse st
      | none =>
        if movesData c.opcode then
          match s.dmaRefusal c with
          | some st => refuse st
          | none => (s, c)
        else if hasParams c.opcode c.aux then
          if paramTooLong c then refuse rsLength
          else
            let p := s.fromHost fn r (c.word 0x10) c.len
            match p.2 with
            | .error st => (p.1, { c with done := some (st, []) })
            | .ok bs => (p.1, { c with params := bs })
        else (s, c)

/-- A command may be fetched from a ring (R620 to R622, R634, R673). -/
def State.mayFetch (s : State) (r : Nat) : Bool :=
  s.ringOn r && !(s.ring r).stopped && !s.fetchPaused && (s.pen (s.ringOwner r)).teardownCause.isNone &&
  decide ((s.ring r).cmdTail ≠ s.cmdHead r) && decide (0 < s.freeSlots r)

/-! ### Serving a fetched command -/

/-- The command that is to start next on a ring, with its place: commands start in ring order, and a fence waits until every
earlier one has completed (R622, R625). -/
def State.nextCmd (s : State) (r : Nat) : Option (Nat × Inflight) :=
  let q := (s.ring r).inflight
  match q.findIdx? (fun c => c.done.isNone) with
  | none => none
  | some i => match q[i]? with
    | some c => if c.flags % 2 = 1 ∧ i ≠ 0 then none else some (i, c)
    | none => none

/-- A command's result is known. -/
def State.finishCmd (s : State) (r i st : Nat) (payload : List Byte) : State :=
  s.onRing r (fun x => { x with inflight := (x.inflight.zip (List.range x.inflight.length)).map (fun ci =>
    if ci.2 = i then { ci.1 with done := some (st, payload) } else ci.1) })

/-- Serves the next command of a ring, when it has an opcode: `f` answers the state, the status and the payload. -/
def State.serve (s : State) (r op : Nat) (f : Inflight → State → State × Nat × List Byte) : Out :=
  match s.nextCmd r with
  | some (i, c) =>
    if c.opcode = op then
      let x := f c s
      .next (x.1.finishCmd r i x.2.1 x.2.2)
    else .next s
  | none => .next s

/-! ### Weighted round-robin (R632) -/

/-- The directions of payload: to the device and to the host. -/
def dirIn : Nat := 1
def dirOut : Nat := 2

/-- The direction of an opcode's payload. -/
def opDir (op : Nat) : Nat := if op = 1 then dirIn else if op = 2 ∨ op = 16 then dirOut else 0

/-- A function's weight; a value of 0 acts as 1 (R652). -/
def State.hifWeight (s : State) (fn : Nat) : Nat := max 1 (s.fld .hifPenCfg 0 8 fn)

/-- What a function has used of the round. -/
def State.hifUse (s : State) (fn : Nat) : Nat × Nat × Nat := SMap.get (fun _ => (0, 0, 0)) s.hifUsed fn

/-- The command fetches and the payload bytes of a direction that the round still gives a function. -/
def State.fetchesLeft (s : State) (fn : Nat) : Nat := s.hifWeight fn - (s.hifUse fn).1
def State.bytesLeft (s : State) (fn dir : Nat) : Nat :=
  s.hifWeight fn * 65536 - (if dir = dirIn then (s.hifUse fn).2.1 else (s.hifUse fn).2.2)

/-- The part of a transfer that moves at once: the rest, or the whole 4,096-byte units that the round leaves it (DESIGN CHOICE, log entry
93). -/
def roundPart (left rest : Nat) : Nat := if rest ≤ left then rest else left / 4096 * 4096

/-- The next command of a ring moves payload in a direction. -/
def State.movesNext (s : State) (dir r : Nat) : Bool :=
  match s.nextCmd r with
  | some (_, c) => decide (opDir c.opcode = dir)
  | none => false

/-- A function still has work that the round lets it do: a command to fetch, or payload of a direction. -/
def State.roundWork (s : State) (fn : Nat) : Bool :=
  (decide (0 < s.fetchesLeft fn) && (s.ringsOf fn).any s.mayFetch) ||
  [dirIn, dirOut].any (fun d => decide (4096 ≤ s.bytesLeft fn d) && (s.ringsOf fn).any (s.movesNext d))

/-- The round is over: no function has work that it still lets it do. -/
def State.roundOver (s : State) : Bool := (List.range 13).all (fun fn => !s.roundWork fn)

/-- A new round begins where the one under way gives a function nothing more and is over. -/
def State.roundFor (s : State) (spent : Bool) : State := if spent && s.roundOver then { s with hifUsed := [] } else s

/-- A ring is the one that its function's visits come to next: none between the ring after the one last served and it has a command to
fetch. -/
def State.ringTurn (s : State) (r : Nat) : Bool :=
  let fn := s.ringOwner r
  let start := SMap.get (fun _ => 0) s.ringNext fn
  (List.range ((r + 4096 - start) % 4096)).all (fun i =>
    let q := (start + i) % 4096
    !(decide (s.ringOwner q = fn) && s.mayFetch q))

/-- A fetch is counted, and the visits go on after its ring. -/
def State.noteFetch (s : State) (r : Nat) : State :=
  let fn := s.ringOwner r
  let u := s.hifUse fn
  { s with hifUsed := SMap.set (fun _ => (0, 0, 0)) s.hifUsed fn (u.1 + 1, u.2), ringNext := SMap.set (fun _ => 0) s.ringNext fn ((r + 1) % 4096) }

/-- Payload is counted. -/
def State.noteBytes (s : State) (fn dir n : Nat) : State :=
  let u := s.hifUse fn
  let v := if dir = dirIn then (u.1, u.2.1 + n, u.2.2) else (u.1, u.2.1, u.2.2 + n)
  { s with hifUsed := SMap.set (fun _ => (0, 0, 0)) s.hifUsed fn v }

/-- Moves the next part of the transfer at the head of a ring, when it has an opcode and the round gives its function payload: `f` answers
the state and the status for a part, by its offset and length. -/
def State.moveData (s : State) (r op : Nat) (f : Inflight → Nat → Nat → State → State × Nat) : Out :=
  match s.nextCmd r with
  | some (i, c) =>
    if c.opcode ≠ op then .next s
    else
      let dir := opDir op
      let rest := c.len - c.moved
      let s := s.roundFor (decide (rest ≠ 0 ∧ roundPart (s.bytesLeft c.fn dir) rest = 0))
      let n := roundPart (s.bytesLeft c.fn dir) rest
      if n = 0 ∧ rest ≠ 0 then .next s
      else
        let x := f c c.moved n s
        let t := x.1.noteBytes c.fn dir n
        if x.2 ≠ rsOk ∨ n = rest then .next (t.finishCmd r i x.2 [])
        else .next (t.onRing r (fun y => { y with inflight := y.inflight.set i { c with moved := c.moved + n } }))
  | none => .next s

/-- A result without a payload. -/
def plain (s : State) (st : Nat) : State × Nat × List Byte := (s, st, [])

/-- A command that needs a job: without one it ends with NO_JOB. -/
def withJob (c : Inflight) (s : State) (f : Job → State × Nat × List Byte) : State × Nat × List Byte :=
  match s.job c.pen with
  | none => plain s rsNoJob
  | some j => f j

end Sys2Proof.Machine
end

