-- ==== Sys2Proof/Machine/BundleDecode.lean ====
section
/-!
DEFINITION. The encoding of bundles (R227, R238 to R252, R259) as tables, with the loader's checks of one slot and of one bundle
(R263, orders 5 and 6).
-/

namespace Sys2Proof.Machine

/-! ### Load failures (R641) -/

def rsImageInvalid : Nat := 33
def rsProgramTooLarge : Nat := 34
def rsRegionInvalid : Nat := 35
def rsAnchorSpec : Nat := 36
def rsEncoding : Nat := 37
def rsModeOp : Nat := 38
def rsOperandMix : Nat := 39
def rsChainUnbounded : Nat := 40
def rsSpillMissing : Nat := 41
def rsLoopNest : Nat := 42
def rsCounterUnallocated : Nat := 43
def rsManifest : Nat := 44
def rsClassTooLow : Nat := 45
def rsRngUse : Nat := 46

/-- A failed check of a load: the status, the index of the image, record or entry, and the bundle (R641). -/
structure LoadFail where
  status : Nat
  index : Nat := 0
  bundle : Nat := 0
  deriving DecidableEq, Repr

/-- The first failure of a list of checks in order. -/
def firstOf (xs : List (Option LoadFail)) : Option LoadFail := xs.findSome? id

/-- A check that fails with a status when a condition holds. -/
def failIf (c : Bool) (st : Nat) (ix : Nat := 0) (b : Nat := 0) : Option LoadFail :=
  if c then some { status := st, index := ix, bundle := b } else none

/-! ### Fields -/

/-- What the loader asks of a field. -/
inductive FieldRule where
  /-- Every value is legal. -/
  | any
  /-- Values above the bound are reserved. -/
  | upTo (n : Nat)
  /-- A format code (R74): a code that R74 reserves is reserved, and one that is not listed is no encoding. -/
  | fmt (legal : List Nat)
  /-- The field is reserved. -/
  | zero
  /-- Predicate control (R243). -/
  | pred
  /-- The number of a predicate register in a five-bit field (R244). -/
  | preg
  deriving DecidableEq, Repr

/-- A field of an encoding: its low bit, its width and its rule. -/
structure EncField where
  lo : Nat
  width : Nat
  rule : FieldRule := .any
  deriving DecidableEq, Repr

/-- The kinds of destination register. -/
inductive DestKind where
  | scalar | vector | pred | desc
  deriving DecidableEq, Repr

/-- A row of an opcode table: the opcode, its fields, and the destination register with the field that names it. -/
structure EncRow where
  op : Nat
  fields : List EncField
  dest : Option (DestKind × Nat × Nat) := none
  deriving DecidableEq, Repr

/-- The codes of R74 that are formats, and those that are reserved. -/
def fmtAny : List Nat := [0, 1, 2, 3, 4, 8, 9, 10]

/-- The value of a field is reserved, or the field itself is (R16). -/
def EncField.reserved (f : EncField) (w : Nat) : Bool :=
  let v := wbits w f.lo f.width
  match f.rule with
  | .any => false
  | .upTo n => decide (n < v)
  | .fmt _ => !fmtAny.contains v
  | .zero => decide (v ≠ 0)
  | .pred => decide (v < 8) && decide (v ≠ 0)
  | .preg => decide (8 ≤ v)

/-- The value of a field is a format that the instruction does not take. -/
def EncField.illegal (f : EncField) (w : Nat) : Bool :=
  match f.rule with
  | .fmt legal => !legal.contains (wbits w f.lo f.width)
  | _ => false

/-- Bits of the word that the row lists, and the bits that it does not list and which are reserved (R238). -/
def EncRow.mask (r : EncRow) : Nat := r.fields.foldl (fun m f => m ||| ((2 ^ f.width - 1) * 2 ^ f.lo)) 0xFF
def EncRow.unlisted (r : EncRow) (w : Nat) : Bool := decide (w &&& (2 ^ 64 - 1 - (r.mask &&& (2 ^ 64 - 1))) ≠ 0)

/-! ### Control slot (R238, R239) -/

def cRd : EncField := { lo := 8, width := 6 }
def cRa : EncField := { lo := 14, width := 6 }
def cRb : EncField := { lo := 20, width := 6 }
def cRc : EncField := { lo := 26, width := 6 }
def cImm : EncField := { lo := 32, width := 32 }
def dRd : Option (DestKind × Nat × Nat) := some (.scalar, 8, 6)

/-- The control-slot opcodes of format CR are 0x08 to 0x18. -/
def encCR : List EncRow := (List.range 17).map (fun i => { op := 0x08 + i, fields := [cRd, cRa, cRb, cRc], dest := dRd })

def encControl : List EncRow :=
  [{ op := 0x00, fields := [] }, { op := 0x01, fields := [] },
   { op := 0x02, fields := [cRd, cRa, cImm], dest := dRd }, { op := 0x03, fields := [cRd, cRa, cImm], dest := dRd },
   { op := 0x04, fields := [cRd, cRa, cImm], dest := dRd }] ++ encCR ++
  [{ op := 0x20, fields := [cRd, cRa, cImm], dest := dRd }, { op := 0x21, fields := [cRd, cRa, cImm], dest := dRd },
   { op := 0x22, fields := [cRd, cRa, cImm] }, { op := 0x23, fields := [cRd, cRa, cImm] },
   { op := 0x28, fields := [⟨8, 4, .zero⟩, ⟨12, 6, .zero⟩, ⟨18, 6, .zero⟩, cImm] },
   { op := 0x29, fields := [⟨8, 4, .upTo 5⟩, ⟨12, 6, .any⟩, ⟨18, 6, .any⟩, cImm] },
   { op := 0x2C, fields := [⟨8, 4, .any⟩, ⟨12, 6, .any⟩, ⟨18, 6, .any⟩, ⟨24, 16, .any⟩], dest := some (.scalar, 12, 6) },
   { op := 0x30, fields := [⟨8, 8, .any⟩, ⟨16, 6, .any⟩, ⟨22, 1, .any⟩, cImm] },
   { op := 0x31, fields := [⟨8, 8, .any⟩, ⟨16, 6, .any⟩, cImm] }, { op := 0x32, fields := [⟨8, 8, .any⟩, ⟨16, 6, .any⟩, cImm] },
   { op := 0x33, fields := [] },
   { op := 0x38, fields := [cRd, cRa, ⟨20, 12, .any⟩], dest := dRd }, { op := 0x39, fields := [cRd, cRa, ⟨20, 12, .any⟩] },
   { op := 0x3A, fields := [cRd, cRa, ⟨20, 12, .any⟩] }]

/-! ### Matrix slot (R250) -/

def fmtMx : List Nat := [1, 2, 3, 4, 8]
def fmtManc : List Nat := 0 :: fmtMx
def fmtChain : List Nat := [1, 2, 3, 4]
def mtFields (rule : FieldRule) : List EncField :=
  [⟨8, 4, rule⟩, ⟨12, 4, rule⟩, ⟨16, 6, .any⟩, ⟨22, 6, .any⟩, ⟨32, 16, .any⟩]

/-- The fields of format MD for a drain to long forms: all but the destination are reserved. -/
def mdLong : List EncField :=
  [⟨8, 4, .zero⟩, ⟨12, 1, .zero⟩, ⟨13, 1, .any⟩, ⟨14, 6, .any⟩, ⟨20, 4, .zero⟩, ⟨24, 5, .zero⟩, ⟨29, 2, .zero⟩, ⟨31, 6, .zero⟩,
   ⟨37, 1, .zero⟩, ⟨38, 6, .zero⟩, ⟨44, 1, .zero⟩, ⟨45, 6, .zero⟩]

def encMatrix : List EncRow :=
  [{ op := 0x00, fields := [] },
   { op := 0x01, fields := [⟨8, 4, .fmt fmtManc⟩, ⟨12, 4, .fmt fmtManc⟩, ⟨16, 5, .any⟩, ⟨21, 6, .any⟩] },
   { op := 0x02, fields := [⟨8, 4, .zero⟩, ⟨12, 4, .fmt fmtManc⟩, ⟨16, 5, .any⟩, ⟨21, 6, .any⟩] },
   { op := 0x08, fields := mtFields (.fmt fmtMx) }, { op := 0x09, fields := mtFields (.fmt fmtMx) },
   { op := 0x0A, fields := mtFields (.fmt fmtMx) },
   { op := 0x0C, fields := mtFields .zero }, { op := 0x0D, fields := mtFields .zero }, { op := 0x0E, fields := mtFields .zero },
   { op := 0x10, fields := [] },
   { op := 0x11, fields := [⟨16, 6, .any⟩] }, { op := 0x12, fields := [⟨16, 6, .any⟩] },
   { op := 0x18, fields := [⟨8, 4, .fmt fmtAny⟩, ⟨12, 1, .any⟩, ⟨13, 1, .any⟩, ⟨14, 6, .any⟩, ⟨20, 4, .upTo 6⟩, ⟨24, 5, .any⟩,
       ⟨29, 2, .upTo 1⟩, ⟨31, 6, .any⟩, ⟨37, 1, .any⟩, ⟨38, 6, .any⟩, ⟨44, 1, .any⟩, ⟨45, 6, .any⟩] },
   { op := 0x19, fields := mdLong }, { op := 0x1A, fields := mdLong },
   { op := 0x20, fields := [⟨8, 4, .fmt fmtMx⟩, ⟨12, 4, .fmt fmtMx⟩, ⟨16, 4, .fmt fmtChain⟩, ⟨20, 1, .any⟩, ⟨21, 6, .any⟩,
       ⟨27, 16, .any⟩, ⟨43, 3, .any⟩, ⟨46, 4, .upTo 6⟩, ⟨50, 5, .any⟩, ⟨55, 2, .upTo 1⟩, ⟨57, 1, .any⟩] }]

/-! ### Vector slot (R243, R244) -/

def fmtA5 : List Nat := [0, 2, 1, 10, 9]
def fmtF3 : List Nat := [0, 2, 1]
def fmtI2 : List Nat := [10, 9]

/-- Format VA with the rules of its format field, its rounding field and its saturation bit. -/
def vaFields (fmt rm sat : FieldRule) : List EncField :=
  [⟨8, 4, fmt⟩, ⟨12, 3, rm⟩, ⟨15, 1, sat⟩, ⟨16, 5, .any⟩, ⟨21, 5, .any⟩, ⟨26, 5, .any⟩, ⟨31, 5, .any⟩, ⟨36, 4, .pred⟩,
   ⟨40, 6, .any⟩, ⟨46, 6, .any⟩]

/-- Format VA of a predicate instruction (R244). -/
def predFields : List EncField :=
  [⟨8, 4, .zero⟩, ⟨12, 3, .upTo 5⟩, ⟨15, 1, .zero⟩, ⟨16, 5, .preg⟩, ⟨21, 5, .preg⟩, ⟨26, 5, .preg⟩, ⟨31, 5, .any⟩, ⟨36, 4, .pred⟩,
   ⟨40, 6, .any⟩, ⟨46, 6, .any⟩]

def dVd : Option (DestKind × Nat × Nat) := some (.vector, 16, 5)
def dPd : Option (DestKind × Nat × Nat) := some (.pred, 16, 3)
def dSd : Option (DestKind × Nat × Nat) := some (.scalar, 46, 6)

/-- Vector instructions of consecutive opcodes with one set of formats. -/
def vaRows (op n : Nat) (fmts : List Nat) : List EncRow :=
  (List.range n).map (fun i => { op := op + i, fields := vaFields (.fmt fmts) (.upTo 5) .zero, dest := dVd })

def encVector : List EncRow :=
  [{ op := 0x00, fields := [] },
   { op := 0x01, fields := vaFields (.fmt fmtA5) (.upTo 5) .any, dest := dVd },
   { op := 0x02, fields := vaFields (.fmt fmtA5) (.upTo 5) .any, dest := dVd }] ++
  vaRows 0x03 1 fmtA5 ++ vaRows 0x04 1 fmtF3 ++ vaRows 0x05 2 fmtA5 ++ vaRows 0x07 3 fmtF3 ++ vaRows 0x0A 4 [0] ++
  vaRows 0x10 7 [0] ++ vaRows 0x18 6 fmtI2 ++
  [{ op := 0x20, fields := vaFields (.fmt [0, 10]) (.upTo 3) .zero, dest := dPd }] ++ vaRows 0x21 3 fmtAny ++
  [{ op := 0x24, fields := vaFields (.fmt fmtAny) (.upTo 5) .zero, dest := dSd },
   { op := 0x25, fields := vaFields .zero (.upTo 5) .zero, dest := dVd },
   { op := 0x28, fields := [⟨8, 4, .fmt fmtAny⟩, ⟨12, 4, .fmt fmtAny⟩, ⟨16, 3, .upTo 5⟩, ⟨19, 1, .any⟩, ⟨20, 2, .any⟩, ⟨22, 5, .any⟩,
       ⟨27, 5, .any⟩, ⟨32, 4, .pred⟩, ⟨36, 6, .any⟩, ⟨42, 6, .any⟩, ⟨48, 16, .any⟩], dest := some (.vector, 22, 5) },
   { op := 0x29, fields := vaFields (.fmt fmtAny) (.upTo 5) .zero, dest := dSd },
   { op := 0x30, fields := [⟨16, 5, .any⟩, ⟨36, 4, .pred⟩, ⟨40, 6, .any⟩, ⟨46, 6, .any⟩, ⟨52, 12, .any⟩], dest := dVd },
   { op := 0x31, fields := [⟨16, 5, .any⟩, ⟨36, 4, .pred⟩, ⟨40, 6, .any⟩, ⟨46, 6, .any⟩, ⟨52, 12, .any⟩] },
   { op := 0x38, fields := [⟨8, 4, .fmt fmtAny⟩, ⟨12, 2, .upTo 2⟩, ⟨14, 3, .any⟩, ⟨17, 5, .any⟩, ⟨22, 5, .any⟩, ⟨27, 5, .any⟩,
       ⟨32, 6, .any⟩, ⟨38, 6, .any⟩, ⟨44, 4, .pred⟩, ⟨48, 1, .any⟩] },
   { op := 0x39, fields := [⟨8, 4, .zero⟩, ⟨12, 1, .zero⟩, ⟨13, 1, .any⟩, ⟨16, 5, .any⟩, ⟨21, 6, .any⟩, ⟨27, 6, .any⟩, ⟨33, 6, .any⟩,
       ⟨39, 16, .any⟩] },
   { op := 0x3A, fields := [⟨8, 4, .fmt fmtAny⟩, ⟨12, 1, .any⟩, ⟨13, 1, .any⟩, ⟨16, 5, .any⟩, ⟨21, 6, .any⟩, ⟨27, 6, .any⟩, ⟨33, 6, .any⟩,
       ⟨39, 16, .any⟩], dest := dVd }] ++
  (List.range 5).map (fun i => { op := 0x40 + i, fields := predFields, dest := dPd })

/-! ### Move slot (R252) -/

def xtFields : List EncField :=
  [⟨8, 2, .any⟩, ⟨10, 4, .any⟩, ⟨14, 4, .any⟩, ⟨18, 6, .any⟩, ⟨24, 6, .any⟩, ⟨30, 6, .any⟩, ⟨36, 6, .any⟩]

def xdFields (imm : FieldRule) : List EncField := [⟨8, 4, .any⟩, ⟨12, 6, .any⟩, ⟨20, 3, .any⟩, ⟨32, 32, imm⟩]

def encMove : List EncRow :=
  [{ op := 0x00, fields := [] }, { op := 0x01, fields := xtFields },
   { op := 0x02, fields := [⟨8, 2, .any⟩, ⟨10, 4, .any⟩, ⟨14, 4, .any⟩, ⟨18, 6, .any⟩, ⟨24, 6, .any⟩, ⟨30, 6, .any⟩, ⟨36, 4, .fmt fmtAny⟩] },
   { op := 0x03, fields := xtFields }, { op := 0x04, fields := [⟨8, 2, .any⟩] },
   { op := 0x08, fields := xdFields .any, dest := some (.desc, 8, 4) }, { op := 0x09, fields := xdFields .any },
   { op := 0x0A, fields := xdFields .zero, dest := some (.desc, 8, 4) }]

/-- The opcode table of a slot: 0 control, 1 matrix, 2 vector, 3 move (R227). -/
def encTable (slot : Nat) : List EncRow :=
  if slot = 0 then encControl else if slot = 1 then encMatrix else if slot = 2 then encVector else encMove

/-- The row of a slot word. -/
def encRow (slot w : Nat) : Option EncRow := (encTable slot).find? (fun r => decide (r.op = wbits w 0 8))

/-! ### Order 5 of R263 -/

/-- The width in bits of a format code. -/
def codeWidth (c : Nat) : Nat := if c = 0 ∨ c = 10 then 32 else if c = 1 ∨ c = 2 ∨ c = 9 then 16 else 8

/-- What the fields' rules do not say of one instruction is reserved: saturation of a floating-point addition, the part of a
conversion, the inputs of stochastic rounding without it (R244, R247). -/
def slotReserved (slot w : Nat) : Bool :=
  let op := wbits w 0 8
  if slot ≠ 2 then false
  else if op = 1 ∨ op = 2 then decide (wbits w 15 1 = 1) && !fmtI2.contains (wbits w 8 4)
  else if op = 0x28 then
    let wd := codeWidth (wbits w 8 4)
    let ws := codeWidth (wbits w 12 4)
    decide (max wd ws / min wd ws ≤ wbits w 20 2) ||
    (decide (wbits w 16 3 ≠ 2) && (decide (wbits w 36 6 ≠ 0) || decide (wbits w 42 6 ≠ 0) || decide (wbits w 48 16 ≠ 0)))
  else false

/-- The elements of a format in a register, as a power of two. -/
def elemsLog2 (c : Nat) : Nat := if codeWidth c = 32 then 7 else if codeWidth c = 16 then 8 else 9

/-- What the fields' rules do not say of one instruction is no encoding: a body of no bundle, a drain of long forms without a
destination, a conversion of a format to itself, a select without a predicate, too many segments (R90, R240, R244, R248, R250). -/
def slotIllegal (slot w : Nat) : Bool :=
  let op := wbits w 0 8
  if slot = 0 then decide (op = 0x2C) && decide (wbits w 24 16 = 0)
  else if slot = 1 then (decide (op = 0x19) || decide (op = 0x1A)) && decide (wbits w 13 1 = 0)
  else if slot = 2 then
    (decide (op = 0x28) && decide (wbits w 8 4 = wbits w 12 4)) || (decide (op = 0x21) && decide (wbits w 36 4 < 8)) ||
    (decide (op = 0x38) && decide (elemsLog2 (wbits w 8 4) < wbits w 14 3))
  else false

/-- The status with which a slot word is refused (R711: opcode, reserved fields and values, the other rules). -/
def slotRefusal (slot w : Nat) : Option Nat :=
  match encRow slot w with
  | none => some rsEncoding
  | some r =>
    if r.unlisted w || r.fields.any (fun f => f.reserved w) || slotReserved slot w then some rsReserved
    else if r.fields.any (fun f => f.illegal w) || slotIllegal slot w then some rsEncoding
    else none

/-! ### Order 6 of R263 -/

/-- A bundle: its four slot words. -/
abbrev BundleWords := List Nat

/-- A slot's word. -/
def slotWord (b : BundleWords) (slot : Nat) : Nat := b.getD slot 0
def slotOp (b : BundleWords) (slot : Nat) : Nat := wbits (slotWord b slot) 0 8

/-- The destination registers of a bundle in slot order; s0 is none (R236). -/
def bundleDests (b : BundleWords) : List (DestKind × Nat) :=
  ((List.range 4).filterMap (fun k => (encRow k (slotWord b k)).bind (fun r => r.dest.map (fun d => (d.1, wbits (slotWord b k) d.2.1 d.2.2))))).filter
    (fun d => decide (d ≠ (.scalar, 0)))

/-- The control registers that exist (R188 to R191, R219 to R223, R259). -/
def csrExists (n : Nat) : Bool := decide (n ≤ 5) || (decide (0x100 ≤ n) && decide (n ≤ 0x103)) || (decide (0x110 ≤ n) && decide (n ≤ 0x11A))

/-- The control registers with a W1C field; none has an RW field. -/
def csrClears (n : Nat) : Bool := decide (n = 2) || decide (n = 0x100)

/-- The observational control registers (R260). -/
def csrObserves (n : Nat) : Bool := csrExists n && decide (4 ≤ n)

/-- The register that a bundle names for an anchor specification, by slot. -/
def specRegs (b : BundleWords) : List Nat :=
  (if slotOp b 1 = 1 ∨ slotOp b 1 = 2 then [wbits (slotWord b 1) 21 6] else []) ++
  (if slotOp b 2 = 0x38 then [wbits (slotWord b 2) 38 6] else [])

/-- The status of a bundle by the rules between its slots (R236, R248, R250, R251, R259, R230); `ckinds` are the kinds of the
sixteen constants. -/
def bundleRefusal (ckinds : List Nat) (b : BundleWords) : Option Nat :=
  let ds := bundleDests b
  let csr := wbits (slotWord b 0) 20 12
  if !decide ds.Nodup then some rsEncoding
  else if (specRegs b).any (fun r => decide (r < 48) || decide (ckinds.getD (r - 48) 0 ≠ 1)) then some rsAnchorSpec
  else if slotOp b 1 = 0x20 ∧ 58 < wbits (slotWord b 1) 21 6 then some rsEncoding
  else if (slotOp b 0 = 0x38 ∧ !csrExists csr) ∨ slotOp b 0 = 0x39 ∨ (slotOp b 0 = 0x3A ∧ !csrClears csr) then some rsEncoding
  else if ds.any (fun d => decide (d.1 = .scalar) && decide (48 ≤ d.2)) then some rsEncoding
  else none

/-! ### Order 7 of R263 -/

/-- The opcodes of vector arithmetic with a rounding field, and of the Fast functions.  R83 does not list its arithmetic instructions:
the model takes the element operations, absolute value, negation, sign copy, bitwise operations and shifts among them, and leaves out
`vmov`, `vsel`, `vbcast`, `vext`, `vrot`, `vcrest` and the predicate operations (DESIGN CHOICE, log entry 128). -/
def vecArith (op : Nat) : Bool := (decide (1 ≤ op) && decide (op ≤ 0x0D)) || (decide (0x10 ≤ op) && decide (op ≤ 0x16)) || (decide (0x18 ≤ op) && decide (op ≤ 0x1D))
def vecFunction (op : Nat) : Bool := decide (0x10 ≤ op) && decide (op ≤ 0x16)

/-- The status of a bundle by the program's mode and the use codes (R83, R86, R175, R244, R472). -/
def modeRefusal (strict : Bool) (b : BundleWords) : Option Nat :=
  let w := slotWord b 2
  let op := slotOp b 2
  if slotOp b 1 = 0x20 ∧ strict then some rsModeOp
  else if vecArith op ∧ (wbits w 12 3 = 2 ∨ (wbits w 12 3 ≠ 0 ∧ (!strict ∨ vecFunction op))) then some rsModeOp
  else if op = 0x28 ∧ !strict ∧ 3 ≤ wbits w 16 3 then some rsModeOp
  else if op = 0x28 ∧ wbits w 16 3 = 2 ∧ 0x100 ≤ wbits w 48 16 ∧ wbits w 48 16 ≤ 0x1FF then some rsRngUse
  else none

end Sys2Proof.Machine
end

