-- ==== Sys2Proof/Machine/ProgImage.lean ====
section
/-!
DEFINITION. Program images and update microprograms as the loader reads and checks them (R253 to R255, R263, R440, R442), and the
replay class of their manifests (R24 to R27).
-/

namespace Sys2Proof.Machine

/-! ### The header and the tables (R253, R254) -/

def imgKind (b : ImageBytes) : Nat := fieldAt b 0x06 1
def imgStrict (b : ImageBytes) : Bool := decide (fieldAt b 0x07 1 % 2 = 1)
def imgBundleCount (b : ImageBytes) : Nat := fieldAt b 0x08 4
def imgEntry (b : ImageBytes) : Nat := fieldAt b 0x0C 4
def imgRegionCount (b : ImageBytes) : Nat := fieldAt b 0x10 2
def imgManifestCount (b : ImageBytes) : Nat := fieldAt b 0x12 2
def imgCounterCount (b : ImageBytes) : Nat := fieldAt b 0x24 2
def imgSize (b : ImageBytes) : Nat := fieldAt b 0x2C 4

/-- The bytes of a table's entries. -/
def tableOf (b : ImageBytes) (off n size : Nat) : List (List Byte) := (List.range n).map (fun i => slice b (off + size * i) size)

def imgRegionBytes (b : ImageBytes) : List (List Byte) := tableOf b (fieldAt b 0x14 4) (imgRegionCount b) 16
def imgManifest (b : ImageBytes) : List (List Byte) := tableOf b (fieldAt b 0x18 4) (imgManifestCount b) 16
def imgConsts (b : ImageBytes) : List (List Byte) := tableOf b (fieldAt b 0x20 4) 16 16
def imgCounters (b : ImageBytes) : List (List Byte) := tableOf b (fieldAt b 0x28 4) (imgCounterCount b) 8

/-- The bundles of a core program, four words each, and the instructions of a microprogram (R227, R440). -/
def imgBundles (b : ImageBytes) : List BundleWords := (tableOf b (fieldAt b 0x1C 4) (imgBundleCount b) 32).map (fun x => (chunks 8 x).map leNum)
def imgInstrs (b : ImageBytes) : List Nat := (tableOf b (fieldAt b 0x1C 4) (imgBundleCount b) 8).map leNum

/-- A region of the table. -/
def regionOf (e : List Byte) : Region :=
  { base := fieldAt e 0 6, space := fieldAt e 6 1, rd := decide (fieldAt e 7 1 % 2 = 1), wr := decide (fieldAt e 7 1 / 2 % 2 = 1),
    spill := decide (fieldAt e 7 1 / 4 % 2 = 1), size := fieldAt e 8 5 }

/-- A list with each element's index. -/
def withIndex {α : Type} (xs : List α) : List (α × Nat) := xs.zip (List.range xs.length)

/-- Some byte of a field is not zero. -/
def someNonzero (b : List Byte) (off n : Nat) : Bool := (slice b off n).any (fun x => decide (x ≠ 0#8))

/-- How the job uses an image: as a microprogram, on yoke-wide cores, on plain ones, and the counters granted to its cores. -/
structure ImgUse where
  micro : Bool := false
  wide : Bool := false
  plain : Bool := true
  grants : List (List Nat) := []
  deriving DecidableEq, Repr

/-! ### Orders 1 to 4 of R263 -/

/-- The tables of an image: offset and bytes. -/
def imgTables (u : ImgUse) (b : ImageBytes) : List (Nat × Nat) :=
  [(fieldAt b 0x14 4, 16 * imgRegionCount b), (fieldAt b 0x18 4, 16 * imgManifestCount b), (fieldAt b 0x20 4, 256),
   (fieldAt b 0x28 4, 8 * imgCounterCount b), (fieldAt b 0x1C 4, (if u.micro then 8 else 32) * imgBundleCount b)]

/-- Order 1: the header, its offsets and sizes, the kind, counters listed twice. -/
def imgOrder1 (u : ImgUse) (b : ImageBytes) : Option Nat :=
  if fieldAt b 0 4 ≠ 0x47504541 ∨ fieldAt b 4 2 ≠ 1 then some rsImageInvalid
  else if imgKind b ≤ 1 ∧ imgKind b ≠ (if u.micro then 1 else 0) then some rsImageInvalid
  else if (if u.micro then 128 else 16384) < imgBundleCount b then some rsProgramTooLarge
  else if imgBundleCount b = 0 ∨ imgBundleCount b ≤ imgEntry b ∨ (u.micro ∧ imgEntry b ≠ 0) then some rsImageInvalid
  else if imgRegionCount b = 0 ∨ 64 < imgRegionCount b ∨ (if u.micro then 0 else 256) < imgCounterCount b then some rsImageInvalid
  else if (imgTables u b).any (fun t => decide (t.1 % 8 ≠ 0) || decide (imgSize b < t.1 + t.2)) || decide (fieldAt b 0x1C 4 % 32 ≠ 0) then
    some rsImageInvalid
  else if !decide ((imgCounters b).map (fun e => fieldAt e 0 1)).Nodup then some rsImageInvalid
  else none

/-- Order 2: reserved fields and values of the header and the tables. -/
def imgOrder2 (b : ImageBytes) : Option Nat :=
  if 1 < imgKind b ∨ 1 < fieldAt b 7 1 ∨ someNonzero b 0x26 2 ∨ someNonzero b 0x30 16 ∨
     (imgRegionBytes b).any (fun e => someNonzero e 0x0D 3) ∨
     (imgConsts b).any (fun e => someNonzero e 9 7 || decide (1 < fieldAt e 8 1)) ∨
     (imgCounters b).any (fun e => someNonzero e 1 3) ∨ (imgManifest b).any (fun e => someNonzero e 2 2) then some rsReserved
  else none

/-- The limit of a space's addresses: the scratchpad's for SPAD and PEER, 48-bit addresses otherwise (R254). -/
def spaceLimit (u : ImgUse) (space : Nat) : Nat :=
  if space = 0 ∨ space = 2 then (if u.wide && !u.plain then 2 ^ 24 else 2 ^ 23) else 2 ^ 48

/-- Order 3: the region table; a microprogram has one region of space DEV (R440). -/
def imgOrder3 (u : ImgUse) (b : ImageBytes) : Option Nat :=
  let rs := (imgRegionBytes b).map regionOf
  if (imgRegionBytes b).any (fun e => decide (3 < fieldAt e 6 1) || decide (8 ≤ fieldAt e 7 1)) ∨
     rs.any (fun r => decide (r.size = 0) || decide (spaceLimit u r.space < r.base + r.size)) ∨
     1 < (rs.filter Region.spill).length ∨ rs.any (fun r => r.spill && decide (r.space ≠ 0)) ∨
     (u.micro ∧ rs.map Region.space ≠ [1]) then some rsRegionInvalid
  else none

/-- The status of an anchor specification (R129, R130). -/
def specRefusal (strict : Bool) (w : Nat) : Option Nat :=
  let src := wbits w 0 2
  let anc := wbits w 8 16
  if wbits w 4 4 ≠ 0 ∨ wbits w 30 34 ≠ 0 then some rsReserved
  else if src = 3 ∨ wbits w 2 2 = 3 ∨ 40 < wbits w 24 6 ∨ (src = 1 ∧ anc = 0x8000) ∨ (src = 1 ∧ strict ∧ 472 < anc ∧ anc < 0x8000) ∨
      (src ≠ 1 ∧ anc ≠ 0) then some rsAnchorSpec
  else none

/-- Order 4: the constants that hold an anchor specification. -/
def imgOrder4 (b : ImageBytes) : Option Nat :=
  (imgConsts b).findSome? (fun e => if fieldAt e 8 1 = 1 then specRefusal (imgStrict b) (fieldAt e 0 8) else none)

/-! ### Orders 5 to 8 of R263 -/

/-- The first bundle that a check refuses. -/
def eachBundle (bs : List BundleWords) (ix : Nat) (f : BundleWords → Option Nat) : Option LoadFail :=
  (withIndex bs).findSome? (fun x => (f x.1).map (fun st => { status := st, index := ix, bundle := x.2 }))

/-- Order 5: every slot of every bundle decodes. -/
def bundleSlots (b : BundleWords) : Option Nat := (List.range 4).findSome? (fun k => slotRefusal k (slotWord b k))

/-- A latch load or a tile pairs formats that do not go together (R159). -/
def operandMix (b : BundleWords) : Bool :=
  let op := slotOp b 1
  let fa := wbits (slotWord b 1) 8 4
  let fb := wbits (slotWord b 1) 12 4
  if op = 2 then decide (fb = 0)
  else if op = 1 ∨ op = 8 ∨ op = 9 ∨ op = 10 then (decide (fa = 8) != decide (fb = 8)) || (decide (fa = 0) != decide (fb = 0))
  else false

/-- The anchor specification that a latch load names. -/
def latchSpec (consts : List (List Byte)) (b : BundleWords) : Nat := fieldAt (consts.getD (wbits (slotWord b 1) 21 6 - 48) []) 0 8

/-- A latch load whose specification is of another form than PRODUCT (R165). -/
def latchForm (consts : List (List Byte)) (b : BundleWords) : Bool :=
  (decide (slotOp b 1 = 1) || decide (slotOp b 1 = 2)) && decide (wbits (latchSpec consts b) 2 2 ≠ 0)

/-- A chained product without a bound (R176), in a program in which some chain latch has another source than EXPLICIT. -/
def chainOpen (b : BundleWords) : Bool :=
  let fn := wbits (slotWord b 1) 46 4
  decide (slotOp b 1 = 0x20) && (decide (fn = 0) || decide (fn = 2) || decide (fn = 6))
def chainImplicit (consts : List (List Byte)) (b : BundleWords) : Bool := decide (slotOp b 1 = 2) && decide (wbits (latchSpec consts b) 0 2 ≠ 1)

/-- The bytes of a spill region (R181, R254). -/
def spillNeed (wide : Bool) : Nat := if wide then 3407872 else 1703936

/-- Order 8: the matrix rules, in the order R263 names them. -/
def imgOrder8 (u : ImgUse) (b : ImageBytes) (ix : Nat) : Option LoadFail :=
  let bs := imgBundles b
  let cs := imgConsts b
  let spills := ((imgRegionBytes b).map regionOf).any (fun r => r.spill && decide (spillNeed u.wide ≤ r.size))
  firstOf [
    eachBundle bs ix (fun x => if operandMix x then some rsOperandMix else none),
    eachBundle bs ix (fun x => if latchForm cs x then some rsAnchorSpec else none),
    if bs.any (chainImplicit cs) then eachBundle bs ix (fun x => if chainOpen x then some rsChainUnbounded else none) else none,
    failIf (imgStrict b && bs.any (fun x => decide (slotOp x 1 ≠ 0)) && !spills) rsSpillMissing ix]

/-! ### Order 9: control flow (R240, R263) -/

/-- A hardware loop: the bundle of its `lbeg`, the first and the last bundle of its body. -/
def imgLoops (bs : List BundleWords) : List (Nat × Nat × Nat) :=
  (withIndex bs).filterMap (fun x => if slotOp x.1 0 = 0x2C then some (x.2, x.2 + 1, x.2 + wbits (slotWord x.1 0) 24 16) else none)

/-- A branch: its bundle and its target. -/
def imgBranches (bs : List BundleWords) : List (Nat × Nat) :=
  (withIndex bs).filterMap (fun x => if slotOp x.1 0 = 0x28 ∨ slotOp x.1 0 = 0x29 then some (x.2, wbits (slotWord x.1 0) 32 32) else none)

/-- A bundle lies in a loop's body. -/
def inBody (l : Nat × Nat × Nat) (i : Nat) : Bool := decide (l.2.1 ≤ i) && decide (i ≤ l.2.2)

/-- A loop breaks the nesting rules among all loops of the program. -/
def badLoop (n : Nat) (ls : List (Nat × Nat × Nat)) (l : Nat × Nat × Nat) : Bool :=
  let outer := ls.filter (fun o => inBody o l.1)
  decide (n ≤ l.2.2) || outer.any (fun o => decide (o.2.2 < l.2.2)) || decide (4 ≤ outer.length)

def imgOrder9 (b : ImageBytes) (ix : Nat) : Option LoadFail :=
  let bs := imgBundles b
  let ls := imgLoops bs
  let last := slotOp (bs.getLastD []) 0
  firstOf [
    ((imgBranches bs).find? (fun x => decide (bs.length ≤ x.2))).map (fun x => { status := rsLoopNest, index := ix, bundle := x.1 }),
    (ls.find? (badLoop bs.length ls)).map (fun l => { status := rsLoopNest, index := ix, bundle := l.1 }),
    ((imgBranches bs).find? (fun x => ls.any (fun l => inBody l x.1 != inBody l x.2))).map (fun x => { status := rsLoopNest, index := ix, bundle := x.1 }),
    failIf (!(decide (last = 1) || decide (last = 0x28))) rsLoopNest ix (bs.length - 1)]

/-! ### Orders 10 and 11, and the replay class -/

/-- Order 10: every counter of the table is granted to every core that runs the image (R254). -/
def imgOrder10 (u : ImgUse) (b : ImageBytes) : Option Nat :=
  if (imgCounters b).any (fun e => u.grants.any (fun g => !g.contains (fieldAt e 0 1))) then some rsCounterUnallocated else none

/-- The kind, sub and bundle of a manifest entry. -/
def manKind (e : List Byte) : Nat := fieldAt e 0 1
def manSub (e : List Byte) : Nat := fieldAt e 1 1
def manBundle (e : List Byte) : Nat := fieldAt e 4 4

/-- A manifest entry of a legal kind and sub whose bundle exists (R255). -/
def manLegal (n : Nat) (e : List Byte) : Bool :=
  decide (1 ≤ manKind e) && decide (manKind e ≤ 5) &&
  decide (manSub e ≤ (if manKind e = 1 then 3 else if manKind e = 2 then 1 else 0)) &&
  (decide (manBundle e = 0xFFFFFFFF) || decide (manBundle e < n))

/-- The replay class of a manifest (R25): a reduction off the anchored path bars SPLIT, a collective in an FP format bars COUNT. -/
def manClass (m : List (List Byte)) : Nat :=
  if m.any (fun e => decide (manKind e = 1) && decide (manSub e = 1)) then 0
  else if m.any (fun e => decide (manKind e = 1) && decide (manSub e = 3)) then 1 else 2

/-- A manifest has an entry of a kind for a bundle: at its index, or for the whole program (R255). -/
def manHas (m : List (List Byte)) (kind i : Nat) : Bool :=
  m.any (fun e => decide (manKind e = kind) && (decide (manBundle e = i) || decide (manBundle e = 0xFFFFFFFF)))

/-- The kind of entry that a bundle needs: of a split-FP32 tile, of an observational read. -/
def bundleNeeds (b : BundleWords) : List Nat :=
  (if 0x0C ≤ slotOp b 1 ∧ slotOp b 1 ≤ 0x0E then [4] else []) ++
  (if slotOp b 0 = 0x38 ∧ csrObserves (wbits (slotWord b 0) 20 12) then [5] else [])

/-- Order 11: the manifest, and the class against the minimum (R27). -/
def imgOrder11 (b : ImageBytes) (ix minClass : Nat) (missing : Option Nat) : Option LoadFail :=
  let m := imgManifest b
  firstOf [
    failIf (m.any (fun e => !manLegal (imgBundleCount b) e)) rsManifest ix,
    missing.map (fun i => { status := rsManifest, index := ix, bundle := i }),
    failIf (decide (manClass m < minClass)) rsClassTooLow ix]

/-! ### Whole images -/

/-- A status of a check of the whole image. -/
def imgFail (ix : Nat) (st : Option Nat) : Option LoadFail := st.map (fun x => { status := x, index := ix })

/-- Orders 1 to 4. -/
def imgCommon (u : ImgUse) (b : ImageBytes) (ix : Nat) : Option LoadFail :=
  firstOf [imgFail ix (imgOrder1 u b), imgFail ix (imgOrder2 b), imgFail ix (imgOrder3 u b), imgFail ix (imgOrder4 b)]

/-- The checks of a core program (R263). -/
def checkProgram (u : ImgUse) (minClass : Nat) (b : ImageBytes) (ix : Nat) : Option LoadFail :=
  match imgCommon u b ix with
  | some e => some e
  | none =>
    let bs := imgBundles b
    match eachBundle bs ix bundleSlots with
    | some e => some e
    | none =>
      let kinds := (imgConsts b).map (fun e => fieldAt e 8 1)
      firstOf [
        eachBundle bs ix (bundleRefusal kinds), eachBundle bs ix (modeRefusal (imgStrict b)), imgOrder8 u b ix, imgOrder9 b ix,
        imgFail ix (imgOrder10 u b),
        imgOrder11 b ix minClass (((withIndex bs).find? (fun x => (bundleNeeds x.1).any (fun k => !manHas (imgManifest b) k x.2))).map Prod.snd)]

/-- A microprogram's instruction word has an opcode of R442, and its reserved bits are zero. -/
def microRefusal (w : Nat) : Option Nat :=
  let op := wbits w 0 8
  if !(decide (op ≤ 0x0D) || (decide (0x10 ≤ op) && decide (op ≤ 0x16)) || (decide (0x18 ≤ op) && decide (op ≤ 0x1B)) ||
      decide (op = 0x20) || decide (op = 0x21)) then some rsEncoding
  else if wbits w 28 4 ≠ 0 ∨ (if op = 0x1A then wbits w 36 28 ≠ 0 else wbits w 32 32 ≠ 0) then some rsReserved
  else none

/-- The checks of an update microprogram (R440, R442). -/
def checkMicro (minClass : Nat) (b : ImageBytes) (ix : Nat) : Option LoadFail :=
  match imgCommon { micro := true } b ix with
  | some e => some e
  | none =>
    let is_ := withIndex (imgInstrs b)
    firstOf [
      is_.findSome? (fun x => (microRefusal x.1).map (fun st => { status := st, index := ix, bundle := x.2 })),
      imgOrder11 b ix minClass ((is_.find? (fun x => decide (wbits x.1 0 8 = 0x20) &&
        !(imgManifest b).any (fun e => decide (manKind e = 1) && decide (manSub e = 0) && decide (manBundle e = x.2)))).map Prod.snd)]

/-- What the update unit holds of a microprogram. -/
def microOf (b : ImageBytes) : MicroProg :=
  { strict := imgStrict b, instrs := (imgInstrs b).map (BitVec.ofNat 64), consts := (imgConsts b).map (fun e => BitVec.ofNat 64 (fieldAt e 0 8)) }

/-- A microprogram with block instructions (R443). -/
def microBlocks (b : ImageBytes) : Bool := (imgInstrs b).any (fun w => decide (wbits w 0 8 = 0x20) || decide (wbits w 0 8 = 0x21))

/-- What a program image declares for a core (R254); its place in the grid is added at placement. -/
def cfgOf (b : ImageBytes) : CoreCfg :=
  { strict := imgStrict b, entry := imgEntry b, bundleCount := imgBundleCount b, regions := (imgRegionBytes b).map regionOf,
    consts := (imgConsts b).map (fun e => BitVec.ofNat 64 (fieldAt e 0 8)),
    counters := (imgCounters b).map (fun e => (fieldAt e 0 1, BitVec.ofNat 32 (fieldAt e 4 4))) }

end Sys2Proof.Machine
end

