-- ==== Sys2Proof/Machine/Comb.lean ====
section
/-!
DEFINITION. The Comb image (R635 to R639) and the checks of its sections at job load (R641, orders 3 and 5 to 8): grid map (R51 to R57),
counters (R637), slot tables (R278, R279), reserved regions (R327, R328, R489, R496), routes (R362, R363), link requirements (R366)
and the collective section (R394 to R396).
-/

namespace Sys2Proof.Machine

def rsScheduleInvalid : Nat := 48
def rsPlanInvalid : Nat := 47
def rsCombSig : Nat := 49
def rsCombInvalid : Nat := 50
def rsCombForbidden : Nat := 51
def rsGridMismatch : Nat := 52
def rsGridTooLarge : Nat := 53
def rsGridExhausted : Nat := 54
def rsDoublingForbidden : Nat := 55
def rsSlotTable : Nat := 57
def rsRegionReserved : Nat := 58
def rsRoute : Nat := 59
def rsLinkReqInvalid : Nat := 60
def rsLinkReqUnmet : Nat := 61
def rsCollective : Nat := 62
def rsLinkKey : Nat := 63
def rsLayoutInvalid : Nat := 65
def rsPenBusy : Nat := 66
def rsOwnerMismatch : Nat := 67

/-! ### The image (R635, R636) -/

/-- A directory entry: section type, offset and length. -/
structure CombSec where
  kind : Nat
  off : Nat
  len : Nat
  deriving DecidableEq, Repr

def combSize (b : List Byte) : Nat := fieldAt b 0x10 4
def combCount (b : List Byte) : Nat := fieldAt b 8 2
def combSigner (b : List Byte) : Nat := fieldAt b 6 1
def combMinClass (b : List Byte) : Nat := fieldAt b 7 1
def combDir (b : List Byte) : List CombSec :=
  (tableOf b 0x90 (combCount b) 16).map (fun e => { kind := fieldAt e 0 2, off := fieldAt e 4 4, len := fieldAt e 8 4 })

/-- The body of a section. -/
def combSection (b : List Byte) (kind : Nat) : Option (List Byte) :=
  ((combDir b).find? (fun e => decide (e.kind = kind))).map (fun e => slice b e.off e.len)

/-- The section types (R636). -/
def secGrid : Nat := 1
def secSlots : Nat := 2
def secRoutes : Nat := 3
def secLinkReq : Nat := 4
def secRegions : Nat := 5
def secCounters : Nat := 6
def secCollective : Nat := 7
def secMode : Nat := 8
def secLayout : Nat := 9
def secIdentity : Nat := 10

/-- The fixed length of a section type, where it has one. -/
def secLength (k : Nat) : Option Nat :=
  if k = secGrid then some 32 else if k = secRoutes then some 131336 else if k = secLinkReq then some 96
  else if k = secCounters then some 4608 else if k = secMode then some 8 else if k = secLayout then some 96
  else if k = secIdentity then some 8 else none

/-- A directory entry is legal: its type exists, its section lies in the image and has its length. -/
def secLegal (size : Nat) (e : CombSec) : Bool :=
  decide (1 ≤ e.kind) && decide (e.kind ≤ 10) && decide (e.off % 8 = 0) && decide (e.off + e.len + 96 ≤ size) &&
  (match secLength e.kind with | some n => decide (e.len = n) | none => true)

/-- Header and directory of a Comb image, in the order of R711: what fixes the layout, then the reserved fields and values. -/
def combHeader (b : List Byte) : Option LoadFail :=
  firstOf [
    failIf (decide (fieldAt b 0 4 ≠ 0x42434541) || decide (fieldAt b 4 2 ≠ 1) || decide (combCount b = 0) || decide (16 < combCount b) ||
      decide (combSize b < 0x90 + 16 * combCount b + 96)) rsCombInvalid,
    ((withIndex (combDir b)).find? (fun e => !secLegal (combSize b) e.1 || ((combDir b).take e.2).any (fun d => decide (d.kind = e.1.kind)))).map
      (fun e => { status := rsCombInvalid, index := e.2 }),
    failIf (decide (1 < combSigner b) || decide (2 < combMinClass b) || someNonzero b 0x0A 6 || someNonzero b 0x14 12 || someNonzero b 0x81 15 ||
      (tableOf b 0x90 (combCount b) 16).any (fun e => someNonzero e 2 2 || someNonzero e 12 4)) rsReserved]

/-- The signer's key and the signature, and their check (R635). -/
def combKey (b : List Byte) : List Byte := slice b 0x20 97
def combSigned (b : List Byte) : Bool :=
  match pointOf (combKey b) with
  | some q => ecdsaVerify q (b.take (combSize b - 96)) (slice b (combSize b - 96) 96)
  | none => false

/-- The check of a job image: section set, signature and owner key (R636, R638, R639). -/
def checkJobComb (owner : Option (List Byte)) (b : List Byte) : Option LoadFail :=
  firstOf [
    combHeader b,
    failIf (decide (combSigner b = 1)) rsCombForbidden,
    ((withIndex (combDir b)).find? (fun e => decide (8 ≤ e.1.kind))).map (fun e => { status := rsCombForbidden, index := e.2 }),
    failIf ([secGrid, secRoutes, secRegions, secCounters].any (fun k => (combSection b k).isNone)) rsCombInvalid,
    failIf (!combSigned b) rsCombSig,
    failIf (match owner with | some k => decide (k ≠ combKey b) | none => false) rsOwnerMismatch]

/-- The check of an authority's image (R638): signer 1, device-wide sections only, and no key or signature (R635). -/
def checkDeviceComb (b : List Byte) : Option LoadFail :=
  firstOf [
    combHeader b,
    failIf (decide (combSigner b = 0)) rsCombForbidden,
    ((withIndex (combDir b)).find? (fun e => decide (e.1.kind < 8))).map (fun e => { status := rsCombForbidden, index := e.2 }),
    failIf (someNonzero b 0x20 97 || someNonzero b (combSize b - 96) 96) rsCombInvalid]

/-- The section's body, or zeros when the image has none. -/
def combBody (b : List Byte) (k : Nat) : List Byte := (combSection b k).getD []

/-! ### Grid map and counters (R51 to R57, R637) -/

/-- The yoke bytes of the two kinds: byte r, bit k is the pair of columns 2k and 2k + 1 of row r. -/
def gridWide (g : List Byte) (r : Nat) : Nat := fieldAt g (4 + r) 1
def gridCheck (g : List Byte) (r : Nat) : Nat := fieldAt g (16 + r) 1

/-- The logical core has a program of the job. -/
def coreUsed (cores : List Nat) (l : Nat) : Bool := decide (cores.getD l 0xFF ≠ 0xFF)

/-- The rows that the loaded programs determine (R51). -/
def rowsOf (cores : List Nat) : Nat := (List.range 12).foldl (fun m r => if (List.range 12).any (fun c => coreUsed cores (12 * r + c)) then r + 1 else m) 0

/-- The pair of a logical core is yoke-wide (R65). -/
def gridIsWide (g : List Byte) (l : Nat) : Bool := (gridWide g (l / 12)).testBit (l % 12 / 2)

/-- A row breaks a rule of R57; a program at the odd id of a yoke-wide pair breaks R65. -/
def rowConflict (g : List Byte) (cores : List Nat) (rows n r : Nat) : Bool :=
  decide (gridWide g r &&& gridCheck g r ≠ 0) || (decide (rows ≤ r) && (decide (gridWide g r ≠ 0) || decide (gridCheck g r ≠ 0))) ||
  (decide (n ≤ r) && decide (r < rows) && decide (gridWide g r ≠ gridWide g (r - n))) ||
  (List.range 6).any (fun k => (gridWide g r).testBit k && coreUsed cores (12 * r + 2 * k + 1))

/-- The grid map's check. -/
def checkGrid (g : List Byte) (cores : List Nat) (n : Nat) : Option LoadFail :=
  let rows := fieldAt g 0 1
  let turn := fieldAt g 2 1
  firstOf [
    failIf (decide (8 ≤ fieldAt g 1 1) || (List.range 12).any (fun r => decide (64 ≤ gridWide g r) || decide (64 ≤ gridCheck g r)) || someNonzero g 0x1C 4) rsReserved,
    failIf (decide (rows = 0) || decide (rows ≠ rowsOf cores)) rsGridMismatch,
    failIf (decide (2 * n < rows)) rsGridTooLarge,
    failIf (decide (turn ≠ 0) && (decide (turn < 18) || decide (24 < turn))) rsCombInvalid,
    ((List.range 12).find? (rowConflict g cores rows n)).map (fun r => { status := rsYokeConflict, index := r })]

/-- The counters granted to a logical core (R637). -/
def grantedTo (c : List Byte) (l : Nat) : List Nat := (List.range 256).filter (fun n => (fieldAt c (32 * l + n / 8) 1).testBit (n % 8))

/-- No counter is granted beyond the grid. -/
def checkCounters (c : List Byte) (rows : Nat) : Option LoadFail :=
  failIf ((c.drop (32 * 12 * rows)).any (fun b => decide (b ≠ 0#8))) rsCombInvalid

/-! ### Slot tables (R278, R279) -/

/-- A port table of the section. -/
def slotTable (b : List Byte) (i : Nat) : List Byte := slice b (8 + 1032 * i) 1032
def tablePort (t : List Byte) : Nat := fieldAt t 0 2
def tableEntry (t : List Byte) (j : Nat) : Nat := fieldAt t (8 + j) 1

/-- The ports of the unit that a port id names: a core router's or a hub's (R278). -/
def unitPorts (port : Nat) : Nat := if wbits port 8 4 < 14 then 6 else 19

/-- The bay of a port id: its die and mesh row (R48). -/
def portBay (port : Nat) : Nat := 6 * wbits port 15 1 + wbits port 12 3

/-- Two tables give one unit's input twice in an entry. -/
def tablesClash (a b : List Byte) : Bool :=
  decide (tablePort a / 256 = tablePort b / 256) && (List.range 1024).any (fun j => decide (tableEntry a j = tableEntry b j) && decide (tableEntry a j ≠ 0x1F))

/-- The status of one port table among those before it. -/
def tableRefusal (bays : BitVec 12) (before : List (List Byte)) (t : List Byte) : Option Nat :=
  let port := tablePort t
  if someNonzero t 2 6 ∨ wbits port 5 3 ≠ 0 ∨ wbits port 8 4 = 15 ∨ (List.range 1024).any (fun j => decide (32 ≤ tableEntry t j)) then some rsReserved
  else if 6 ≤ wbits port 12 3 ∨ unitPorts port ≤ wbits port 0 5 ∨ !bays.getLsbD (portBay port) ∨ before.any (fun u => decide (tablePort u = port)) ∨
      (List.range 1024).any (fun j => decide (tableEntry t j ≠ 0x1F) && (decide (unitPorts port ≤ tableEntry t j) || decide (tableEntry t j = wbits port 0 5))) ∨
      before.any (tablesClash t) then some rsSlotTable
  else none

/-- The section's check: its layout, its reserved field, then the tables in ascending index. -/
def checkSlots (bays : BitVec 12) (b : List Byte) : Option LoadFail :=
  let n := fieldAt b 0 2
  firstOf [
    failIf (decide (b.length ≠ 8 + 1032 * n)) rsSlotTable,
    failIf (someNonzero b 2 6) rsReserved,
    (List.range n).findSome? (fun i =>
      (tableRefusal bays ((List.range i).map (slotTable b)) (slotTable b i)).map (fun st => { status := st, index := i }))]

/-! ### Reserved regions (R327, R328, R489, R496) -/

/-- The entries of the section: kind and region. -/
def regionEntries (b : List Byte) : List (Nat × (Nat × Nat × Nat)) :=
  (tableOf b 8 (fieldAt b 0 2) 16).map (fun e => (fieldAt e 0 1, fieldAt e 2 2, fieldAt e 4 4, fieldAt e 8 4))

/-- Two regions share a frame of a bay. -/
def regionsMeet (a b : Nat × Nat × Nat) : Bool :=
  decide (a.1 &&& b.1 ≠ 0) && decide (a.2.1 < b.2.1 + b.2.2) && decide (b.2.1 < a.2.1 + a.2.2)

/-- A region breaks a rule of R328 on its own, or meets one before it or a valid window entry. -/
def badRegion (bays : BitVec 12) (wins : List WinEntry) (before : List (Nat × Nat × Nat)) (r : Nat × Nat × Nat) : Bool :=
  decide (r.1 = 0) || decide (r.2.2 = 0) || (maskBays r.1).any (fun b => !bays.getLsbD b) || decide (allocEnd < (r.2.1 + r.2.2) * 2 ^ 21) ||
  before.any (regionsMeet r) || wins.any (fun e => e.valid && regionHits e r)

/-- The JOURNAL region of the section, and its BUDDY region. -/
def journalOf (b : List Byte) : Nat × Nat × Nat := (((regionEntries b).find? (fun e => decide (e.1 = 1))).map Prod.snd).getD (0, 0, 0)
def buddyOf (b : List Byte) : Option (Nat × Nat × Nat) := ((regionEntries b).find? (fun e => decide (e.1 = 2))).map Prod.snd

/-- The check of the section; `bound` is the least ledger area (R496). -/
def checkRegions (x : PenS) (bound : Nat) (b : List Byte) : Option LoadFail :=
  let n := fieldAt b 0 2
  let es := regionEntries b
  let wins := (x.active ++ x.staging).map (fun kv => winEntry kv.2)
  firstOf [
    failIf (decide (n = 0) || decide (8 < n) || decide (b.length ≠ 8 + 16 * n)) rsRegionReserved,
    failIf (someNonzero b 2 6 || (tableOf b 8 n 16).any (fun e => someNonzero e 1 1 || decide (4096 ≤ fieldAt e 2 2) || someNonzero e 12 4) ||
      es.any (fun e => decide (e.1 = 0) || decide (2 < e.1))) rsReserved,
    failIf (decide ((es.filter (fun e => decide (e.1 = 1))).length ≠ 1)) rsRegionReserved,
    ((withIndex es).find? (fun e => badRegion x.bays wins ((es.take e.2).map Prod.snd) e.1.2)).map (fun e => { status := rsRegionReserved, index := e.2 }),
    failIf (decide (regionSize (journalOf b) < 2 ^ 22) || decide (journalLedgerSize (regionSize (journalOf b)) < bound)) rsRegionReserved]

/-! ### Routes and link requirements (R362, R363, R366) -/

/-- The route byte of a device. -/
def routeByte (b : List Byte) (dev : Nat) : Nat := fieldAt b (0x108 + 2 * dev) 1

/-- A nibble of a route names no port of the pen and is not 0xF. -/
def badNibble (bays : BitVec 12) (own : Bool) (v : Nat) : Bool :=
  if v = 0xF then false else if v = 0xE then !own else decide (0xC ≤ v) || !bays.getLsbD v

/-- The entry of a device breaks a rule of R363. -/
def badRoute (bays : BitVec 12) (own : Nat) (b : List Byte) (dev : Nat) : Bool :=
  let v := routeByte b dev
  if dev = own then decide (v ≠ 0xFE) else badNibble bays false (v % 16) || badNibble bays false (v / 16)

/-- The check of the route section; the device ID is assigned or not. -/
def checkRoutes (bays : BitVec 12) (own : Option Nat) (b : List Byte) : Option LoadFail :=
  firstOf [
    failIf (decide (2 ≤ fieldAt b 2 1) || someNonzero b 3 5 || (List.range 65536).any (fun d => decide (fieldAt b (0x109 + 2 * d) 1 ≠ 0))) rsReserved,
    failIf (decide (fieldAt b 0 2 = 0) || own.isNone) rsRoute,
    ((List.range 65536).find? (badRoute bays (own.getD 0) b)).map (fun d => { status := rsRoute, index := d }),
    ((List.range 256).find? (fun c => decide (64 ≤ fieldAt b (8 + c) 1) && decide (fieldAt b (8 + c) 1 ≠ 0xFF))).map (fun c => { status := rsRoute, index := c })]

/-- The route section names a port (R640). -/
def routesName (b : List Byte) : Bool := (List.range 65536).any (fun d => decide (routeByte b d % 16 < 12) || decide (routeByte b d / 16 < 12))

/-- The link requirement of a port: required, narrower allowed, width, partner device and port. -/
structure LinkReq where
  port : Nat
  narrower : Bool
  width : Nat
  dev : Nat
  pport : Nat
  deriving DecidableEq, Repr

/-- The required ports of the section. -/
def linkReqs (b : List Byte) : List LinkReq :=
  (List.range 12).filterMap (fun p => if fieldAt b (8 * p) 1 % 2 = 1 then
    some { port := p, narrower := decide (fieldAt b (8 * p) 1 / 2 % 2 = 1), width := fieldAt b (8 * p + 1) 1, dev := fieldAt b (8 * p + 2) 2,
           pport := fieldAt b (8 * p + 4) 1 } else none)

/-- The census shows the partner of a requirement, late or not, and the port is UP and wide enough (R366, R378). -/
def State.reqMet (s : State) (q : LinkReq) : Bool :=
  let need := if q.narrower then 2 else q.width
  (decide (s.fld .xglPartner 17 1 q.port = 1) || decide (s.fld .xglPortStatus 13 1 q.port = 1)) &&
  decide (s.fld .xglPartner 16 1 q.port = 1) && decide (s.fld .xglPartner 0 16 q.port = q.dev) && decide (s.fld .xglPartner 20 4 q.port = q.pport) &&
  decide (s.fld .xglPortStatus 0 4 q.port = 5) && decide (need ≤ s.fld .xglPortStatus 4 4 q.port) && decide (need ≤ s.fld .xglPortStatus 8 4 q.port)

/-- The check of the section. -/
def State.checkLinkReq (s : State) (bays : BitVec 12) (b : List Byte) : Option LoadFail :=
  firstOf [
    failIf ((List.range 12).any (fun p => decide (4 ≤ fieldAt b (8 * p) 1) || someNonzero b (8 * p + 5) 3)) rsReserved,
    ((linkReqs b).find? (fun q => !bays.getLsbD q.port || !decide (q.width = 2 ∨ q.width = 4 ∨ q.width = 8) || decide (11 < q.pport))).map
      (fun q => { status := rsLinkReqInvalid, index := q.port }),
    ((linkReqs b).find? (fun q => !s.reqMet q)).map (fun q => { status := rsLinkReqUnmet, index := q.port })]

/-! ### Collective section (R394 to R396) -/

/-- The bytes of a group record. -/
def groupBytes (b : List Byte) (g : Nat) : List Byte := slice b (8 + 64 * g) 64
def collGroups (b : List Byte) : Nat := fieldAt b 4 1
def collRanks (b : List Byte) : Nat := fieldAt b 2 2 + 1

/-- A group record by its fields. -/
def groupOfBytes (e : List Byte) : GroupRec :=
  let fl := fieldAt e 0 1
  { valid := fl.testBit 0, fpReduce := fl.testBit 1, a64Reduce := fl.testBit 2, crossesL3 := fl.testBit 3, arrivalFold := fl.testBit 4,
    deadline := fl.testBit 5, policyNext := fl.testBit 6, chunkLog2 := fieldAt e 1 1, rankBase := fieldAt e 4 2, rankStride := fieldAt e 6 2,
    membersM1 := fieldAt e 8 2, expect := fieldAt e 0x0C 4, deadlineUs := fieldAt e 0x10 4, closeCore := fieldAt e 0x14 1,
    closeCtr := fieldAt e 0x15 1, closeVa := fieldAt e 0x18 6 }

/-- The group records of the section, and the device of each rank; a job without the section has one module of rank 0 (R636). -/
def collRecords (b : Option (List Byte)) : List GroupRec :=
  match b with | some b => (List.range (collGroups b)).map (fun g => groupOfBytes (groupBytes b g)) | none => []
def collDevs (own : Nat) (b : Option (List Byte)) : List Nat :=
  match b with | some b => (List.range (collRanks b)).map (fun r => fieldAt b (8 + 64 * collGroups b + 2 * r) 2) | none => [own]

/-- The reserved fields of the section. -/
def collReserved (b : List Byte) : Bool :=
  someNonzero b 5 3 || (List.range (collGroups b)).any (fun g =>
    let e := groupBytes b g
    decide (128 ≤ fieldAt e 0 1) || someNonzero e 2 2 || someNonzero e 0x0A 2 || someNonzero e 0x16 2 || someNonzero e 0x1E 2 || someNonzero e 0x20 32)

/-- The close fields of a group are valid for a member (R396). -/
def State.closeValid (s : State) (pen : Nat) (cores : List Nat) (counters : List Byte) (g : GroupRec) : Bool :=
  decide (g.expect ≠ 0) && (!g.deadline || decide (g.deadlineUs ≠ 0)) && (s.rangeCause pen true g.closeVa 1).isNone &&
  coreUsed cores g.closeCore && (grantedTo counters g.closeCore).contains g.closeCtr

/-- A valid group record breaks a rule of R396. -/
def State.badGroup (s : State) (pen : Nat) (cores : List Nat) (counters : List Byte) (ranks rank : Nat) (g : GroupRec) : Bool :=
  g.valid && (decide (g.chunkLog2 < 14) || decide (22 < g.chunkLog2) || decide (g.rankStride = 0) || decide (ranks ≤ g.rankOf g.membersM1) ||
    ((g.arrivalFold || g.deadline) && (g.memberOf rank).isSome && !s.closeValid pen cores counters g) ||
    (g.arrivalFold && !(g.fpReduce && g.crossesL3)))

/-- The group records of closing groups that this module is in. -/
def closingGroups (b : Option (List Byte)) (own : Nat) : List GroupRec :=
  match (collDevs own b).idxOf? own with
  | some r => (collRecords b).filter (fun g => g.closing && (g.memberOf r).isSome)
  | none => []

/-- The largest number of ledger bytes of one step (R496). -/
def ledgerBound (b : Option (List Byte)) (own : Nat) : Nat :=
  let closes := (closingGroups b own).map (fun g => (32 + 6 * (g.membersM1 + 1) + 7) / 8 * 8)
  88 + closes.sum + closes.foldl max 56

/-- The collective section's check with the Sealed refusals (R37, R396); `fpCounts` are the participant counts that the manifests
declare. -/
def State.checkCollective (s : State) (pen own : Nat) (cores : List Nat) (counters routes : List Byte) (fpCounts : List Nat)
    (b : Option (List Byte)) : Option LoadFail :=
  let gs := collRecords b
  let devs := collDevs own b
  let rank := (devs.idxOf? own).getD 0
  firstOf [
    (match b with
     | some b => firstOf [
         failIf (decide (64 < collGroups b) || decide (b.length ≠ 8 + 64 * collGroups b + 2 * collRanks b)) rsCollective,
         failIf (collReserved b) rsReserved,
         failIf (decide (fieldAt b 0 2 ≠ fieldAt routes 0 2)) rsCollective]
     | none => none),
    failIf (!decide devs.Nodup || !devs.contains own) rsCollective,
    ((withIndex gs).find? (fun g => s.badGroup pen cores counters devs.length rank g.1)).map (fun g => { status := rsCollective, index := g.2 }),
    ((List.range 256).find? (fun c =>
      let g := fieldAt routes (8 + c) 1
      decide (g ≠ 0xFF) && !(match gs[g]? with | some r => r.valid | none => false))).map (fun c => { status := rsCollective, index := c }),
    failIf (fpCounts.any (fun n => !gs.any (fun g => g.valid && g.fpReduce && decide (g.membersM1 + 1 = n)))) rsCollective,
    ((withIndex gs).find? (fun g => decide (s.fld .devMode 0 1 = 1) && g.1.valid &&
      (g.1.arrivalFold || g.1.deadline || (g.1.fpReduce && g.1.crossesL3)))).map (fun g => { status := rsSealed, index := g.2 })]

end Sys2Proof.Machine
end

