-- ==== Sys2Proof/Machine/Host.lean ====
section
/-!
DEFINITION. The host interface as commands: doorbells, fetches, completions, events, interrupts, ring enabling (R620 to R624), BAR4
(R618), the step limit (R644), and the ring commands that need no other chapter (R628): NOP, DMA, STEP_RELEASE, seeds, YOKE_CHECK,
SNAPSHOT, LEDGER_IMPORT, JOURNAL_EXPORT, JOB_ABORT and JOB_UNLOAD.
-/

namespace Sys2Proof.Machine

/-! ### Rings -/

/-- A doorbell write (R621): the ring's tail and its completion consumer index.  A ring of another function is not touched: the error
is the writer's (DEDUCED, log entry 36). -/
def execDoorbell (fn : Func) (ring : Ring) (value : Word64) (s : State) : Out :=
  let r := ring.val
  let tail := value.toNat % 2 ^ 32
  let head := value.toNat / 2 ^ 32
  if s.ringOwner r ≠ fn.val then .next (s.ringErrorTo fn.val r)
  else if !s.ringOn r || decide (s.ringSize r < wrapSub tail (s.cmdHead r)) || decide (s.ringSize r < wrapSub (s.cplTail r) head) then
    .next (s.ringError fn.val r)
  else .next (s.onRing r (fun x => { x with cmdTail := tail, cplHead := head }))

/-- A command is fetched once its completion slot is reserved (R622), in the turn of its ring and within what the round gives its function
(R632). -/
def execCommandFetch (ring : Ring) (s : State) : Out :=
  let r := ring.val
  if !s.mayFetch r || !s.ringTurn r then .next s
  else if s.fetchesLeft (s.ringOwner r) = 0 ∧ !s.roundOver then .next s
  else
    let s := (s.roundFor (decide (s.fetchesLeft (s.ringOwner r) = 0))).noteFetch r
    let ix := s.cmdHead r
    let e := s.hostRead ((s.reg .hifRingCmdBase r).toNat + 64 * (ix % s.ringSize r)) 64
    let s := (s.setFld .hifRingStat 0 32 ((ix + 1) % 2 ^ 32) r).bump .hifPenStat 0 32 (s.ringOwner r)
    let a := s.admitCmd r e ix
    .next (a.1.onRing r (fun x => { x with inflight := x.inflight ++ [a.2] }))

/-- The opcodes whose data a host error can cut (R629). -/
def hostData (op : Nat) : Bool := decide (op = 1) || decide (op = 2) || decide (op = 16)

/-- The opcodes that read host memory as they are served. -/
def hostReads (op : Nat) : Bool := hostData op || decide (op = 3) || decide (op = 11) || decide (op = 13) || decide (op = 15) || decide (op = 17)

/-- The result that a command completes with: a host-side error ends a transfer that had no other failure (R629). -/
def cplResult (c : Inflight) (hostError : Bool) : Option (Nat × List Byte) :=
  match c.done with
  | some d => if hostError && hostData c.opcode && decide (d.1 = rsOk) then some (rsHostDma, []) else some d
  | none => if hostError && hostReads c.opcode then some (rsHostDma, []) else none

/-- The command at the head of a ring completes, and its entry is written (R622, R626, R629). -/
def execCommandCompletion (ring : Ring) (hostError : Bool) (s : State) : Out :=
  let r := ring.val
  match (s.ring r).inflight with
  | [] => .next s
  | c :: t =>
    match cplResult c hostError with
    | none => .next s
    | some d => .next ((s.onRing r (fun x => { x with inflight := t })).putCpl r c.opcode 0 0 d.1 c.cookie d.2)

/-- The bytes of an event's fields (R626). -/
def eventBytes (e : Event) : List Byte := e.fields.flatMap (fun f => match f with | .w x => le 8 x.toNat | .d bs => fit 32 bs)

/-- The payloads of an event's entries, 32 bytes each, at least one. -/
def eventParts (e : Event) : List (List Byte) := if (eventBytes e).isEmpty then [[]] else chunks 32 (eventBytes e)

/-- The ring that a function's events go to: the lowest one marked for them (R624). -/
def State.eventRing (s : State) (fn : Nat) : Option Nat :=
  (List.range 4096).find? (fun r => decide (s.ringOwner r = fn) && s.ringOn r && decide (s.fld .hifRingCtl 6 1 r = 1))

/-- The oldest queued event of a function is written into its event ring, when the slots it takes are free (R624, R626). -/
def execEventPost (fn : Func) (s : State) : Out :=
  match SMap.get (fun _ => []) s.evq fn.val, s.eventRing fn.val with
  | e :: t, some r =>
    let parts := eventParts e
    if parts.length ≤ s.freeSlots r then
      let lost := SMap.get (fun _ => false) s.evLost fn.val
      let s := { s with evq := SMap.set (fun _ => []) s.evq fn.val t, evLost := SMap.set (fun _ => false) s.evLost fn.val false }
      .next ((parts.zip (List.range parts.length)).foldl (fun s p =>
        s.putCpl r e.code 1 ((if p.2 + 1 = parts.length then 0 else 2) + (if lost then 4 else 0)) 0 e.step p.1) s)
    else .next s
  | _, _ => .next s

/-- A due interrupt of a ring is sent (R623): at most once per t_hif_coal, which the model does not time. -/
def execInterrupt (ring : Ring) (s : State) : Out :=
  let r := ring.val
  let k := 64 * s.ringOwner r + s.fld .hifRingCtl 8 6 r
  let sent := SMap.set (fun _ => 0) s.msix k (SMap.get (fun _ => 0) s.msix k + 1)
  let s' := s.onRing r (fun x => { x with intDue := false })
  whenOk ((s.ring r).intDue && decide (s.fld .hifRingCtl 7 1 r = 1)) s { s' with msix := sent }

/-- HIF_RING_CTL.enable is set (R620, R656, R662): both indices are reset; a size or a base that is not legal leaves it at 0 with the
error bit set; before READY it stays at 0. -/
def State.enableRing (s : State) (r : Nat) : State :=
  let size := s.fld .hifRingCtl 1 5 r
  if !s.atReady then s
  else if size = 0 ∨ 16 < size ∨ (s.reg .hifRingCmdBase r).toNat % 4096 ≠ 0 ∨ (s.reg .hifRingCplBase r).toNat % 4096 ≠ 0 then
    s.setFld .hifRingCtl 20 1 1 r
  else ((s.setReg .hifRingStat 0#64 r).setFld .hifRingCtl 0 1 1 r).setRing r {}

/-- A write of 1 to HIF_RING_CTL.enable of a disabled ring by its function. -/
def execRingEnable (fn : Func) (ring : Ring) (s : State) : Out :=
  whenOk (decide (s.ringOwner ring.val = fn.val) && !s.ringOn ring.val) s (s.enableRing ring.val)

/-! ### BAR4 (R618) -/

/-- The pen whose windows a function's BAR4 uses (R654). -/
def State.bar4Pen (s : State) (fn : Nat) : Nat := if fn = 0 then s.fld .hifBar4Sel 0 4 0 0 else fn

/-- A BAR4 access: a failed translation and a poisoned line set fault; PF0 sees nothing of a confidential pen (R586, R618). -/
def execBar4Access (fn : Func) (off : Nat) (acc : MemAcc) (s : State) : Out :=
  let p := s.bar4Pen fn.val
  let va := s.fld .hifBar4Sel 4 18 0 fn.val * 2 ^ 30 + off
  let blind := decide (p = 0) || (decide (fn.val = 0) && (s.pen p).confidential)
  let fault (s : State) : State := s.setFld .hifBar4Sel 63 1 1 0 fn.val
  match acc with
  | .read n =>
    let zero : State := { s with lastRead := List.replicate n 0#8 }
    if blind then .next zero
    else if (s.rangeCause p false va n).isSome then .next (fault zero)
    else if s.vaPoison p va n then .next (fault (zero.noteVa p va n))
    else .next { (s.noteVa p va n) with lastRead := s.vaRead p va n }
  | .write bs =>
    if blind then .next s
    else if (s.rangeCause p true va bs.length).isSome then .next (fault s)
    else .next (s.vaStore p va bs)

/-! ### NOP and DMA -/

def execCmdNop (ring : Ring) (s : State) : Out := s.serve ring.val 0 (fun _ s => plain s rsOk)

/-- Bytes of an input reach the digest of their step and slot (R488). -/
def State.addInput (s : State) (pen slot step off : Nat) (bs : List Byte) : State :=
  let k := 16 * step + slot
  let d := rangeDigest (blockIndex slot roleInput (off / 2048)) bs
  s.onJob pen (fun j => { j with inputDigests := SMap.put j.inputDigests k ((SMap.find j.inputDigests k).getD 0#64 ^^^ d) })

/-- Host bytes written into the pen, and into an input digest when the command is flagged as input. -/
def State.dmaPut (c : Inflight) (s : State) (off : Nat) (bs : List Byte) : State :=
  let s := s.vaStore c.pen (c.word 0x18 + off) bs
  if c.flags / 2 % 2 = 1 then s.addInput c.pen (c.aux % 16) (c.word 0x28) (c.word 0x20 + off) bs else s

/-- Where a byte of a transfer lies in host memory: at its offset, or in the bounce unit that holds it (R627). -/
def State.hostPlace (s : State) (c : Inflight) (off : Nat) : Nat :=
  c.word 0x10 + (if s.confFn c.fn then bounceStride * (off / 4096) else off)

/-- DMA_H2D (R627 to R629): the part of it that the round gives (R632). -/
def execDmaH2d (ring : Ring) (s : State) : Out :=
  s.moveData ring.val 1 (fun c off n s =>
    if n = 0 then (s, rsOk)
    else if s.confFn c.fn then
      State.bounceIn c.pen ring.val (s.hostPlace c off) (fun o => c.word 0x18 + off + o) n (fun s o => State.dmaPut c s (off + o)) (n / 4096 + 1) s 0
    else (State.dmaPut c s off (s.hostRead (s.hostPlace c off) n), rsOk))

/-- DMA_D2H, likewise: a poisoned line goes to the host with the bytes that its read answers. -/
def execDmaD2h (ring : Ring) (s : State) : Out :=
  s.moveData ring.val 2 (fun c off n s =>
    let va := c.word 0x18 + off
    (s.noteVa c.pen va n).toHost c.fn ring.val (s.hostPlace c off) (some va) (s.vaRead c.pen va n))

/-- JOURNAL_EXPORT (R499, R628, R647); a confidential pen's units carry address 0 (DEDUCED, log entry 37). -/
def execJournalExport (ring : Ring) (s : State) : Out :=
  s.moveData ring.val 16 (fun c off n s =>
    match s.job c.pen with
    | none => (s, rsNoJob)
    | some j =>
      if regionSize j.journal < c.word 0x18 + c.len then (s, rsLength)
      else (s.noteRegion j.journal (c.word 0x18 + off) n).toHost c.fn ring.val (s.hostPlace c off) none (s.regionRead j.journal (c.word 0x18 + off) n))

/-! ### The job's orders -/

/-- JOB_ABORT (R644). -/
def execJobAbort (ring : Ring) (s : State) : Out :=
  s.serve ring.val 5 (fun c s => withJob c s (fun _ =>
    plain (if s.fld .updJob 0 2 (c.pen - 1) = 3 then s else s.terminal c.pen evAborted []) rsOk))

/-- STEP_RELEASE (R643): the released step never decreases. -/
def execStepRelease (ring : Ring) (s : State) : Out :=
  s.serve ring.val 6 (fun c s => withJob c s (fun _ =>
    plain (s.onPen c.pen (fun x => { x with released := some (max (x.released.getD 0) (c.word 0x10)) })) rsOk))

/-- T0 of the job's first step has passed (R37, R467). -/
def firstT0 (j : Job) : Bool := !j.attempts.isEmpty

/-- SEED_SET (R465 to R467): a later installation of the same first step replaces the earlier. -/
def execSeedSet (ring : Ring) (s : State) : Out :=
  s.serve ring.val 7 (fun c s => withJob c s (fun j =>
    let drawn := decide (c.aux % 2 = 1)
    let first := c.word 0x18
    if s.fld .devMode 0 1 = 1 ∧ drawn ∧ firstT0 j then plain s rsSealed
    else if t0Passed j first then plain s rsSeedLate
    else
      let e : SeedEntry := { first := first, seed := BitVec.ofNat 64 (c.word 0x10), drawn := drawn }
      let s := s.onJob c.pen (fun j => { j with seeds := j.seeds.filter (fun x => decide (x.first ≠ first)) ++ [e] })
      plain (s.seedRegs c.pen (s.stepOf c.pen)) rsOk))

/-- SEED_DRAW (R466, R467, R475): a reseed and 64 bits of the DRBG. -/
def execSeedDraw (ring : Ring) (s : State) : Out :=
  s.serve ring.val 8 (fun c s =>
    if s.fld .devMode 0 1 = 1 ∧ firstT0 (s.jobD c.pen) then plain s rsSealed
    else if s.replayMode c.pen then plain s rsReplay
    else if !s.drbgReady then plain s rsEntropy
    else
      let s := (s.generate true).bump .rngHealth 48 16
      let d := s.draw
      (d.2, rsOk, le 8 d.1.toNat))

/-- The logical cores of the pairs that twelve yoke bytes name: bit k of byte r is the pair of columns 2k and 2k + 1 (R56, R65). -/
def yokePairs (bs : List Byte) : List Nat :=
  (List.range 12).flatMap (fun r => ((List.range 6).filter (fun k => (bs.getD r 0#8).getLsbD k)).map (fun k => 12 * r + 2 * k))

/-- YOKE_CHECK (R68): a reserved bit is refused before the job is looked for (R16, R711). -/
def execYokeCheck (ring : Ring) (s : State) : Out :=
  s.serve ring.val 9 (fun c s =>
    let want := yokePairs c.body
    if (c.body.take 12).any (fun b => decide (64 ≤ b.toNat)) then plain s rsReserved
    else withJob c s (fun j =>
      if want.any (fun l => isWide j l || decide (j.rows ≤ l / 12)) then plain s rsYokeConflict
      else plain (s.onJob c.pen (fun j => { j with yokeCheckNext := some want })) rsOk))

/-- The sweep of a step has begun, or its outcome is known (R453). -/
def sweepBegun (j : Job) (step : Nat) : Bool :=
  let swept (o : Option Attempt) : Bool := match o with
    | some a => decide (step < a.step) || (decide (a.step = step) && (decide (a.phase = .sweep) || decide (a.phase = .voteWait)))
    | none => false
  decide (step < j.decided) || swept j.voting || swept j.cur

/-- SNAPSHOT (R453). -/
def execSnapshot (ring : Ring) (s : State) : Out :=
  s.serve ring.val 10 (fun c s => withJob c s (fun j =>
    let step := c.word 0x10
    if sweepBegun j step then plain s rsSnapLate
    else
      let a : SnapArm := { step := step, va := c.word 0x18, peer := if c.aux % 2 = 1 then some (c.word 0x20 % 65536) else none }
      plain ((s.onJob c.pen (fun j => { j with snap := some a })).setReg .updSnap (BitVec.ofNat 64 (1 + step % 2 ^ 56 * 2 ^ 8)) (c.pen - 1)) rsOk))

/-! ### LEDGER_IMPORT (R497, R503) -/

/-- An entry's length field. -/
def entryLen (bs : List Byte) : Nat := fieldAt bs 4 4

/-- The length that an entry of a type must have (R494): a seed, a close by its counts, a lineage; none for another type. -/
def entryLength (e : List Byte) : Option Nat :=
  match fieldAt e 0 2 with
  | 1 => some 32
  | 2 => some (32 + (2 * (fieldAt e 0x14 4 + fieldAt e 0x18 4 + fieldAt e 0x1C 4) + 7) / 8 * 8)
  | 3 => some 56
  | _ => none

/-- The reserved fields of an entry are zero: the header's byte, the scope's other values, a close's flags and padding, a lineage's
last bytes (R494). -/
def entryReserved (e : List Byte) : Bool :=
  decide (fieldAt e 3 1 = 0) && decide (fieldAt e 2 1 ≤ 1) &&
  (match fieldAt e 0 2 with
   | 2 => decide (fieldAt e 0x11 1 ≤ 3) &&
          (e.drop (32 + 2 * (fieldAt e 0x14 4 + fieldAt e 0x18 4 + fieldAt e 0x1C 4))).all (fun b => decide (b = 0#8))
   | 3 => decide (fieldAt e 0x34 4 = 0)
   | _ => true)

/-- The entries of a record, cut by their lengths, by count; none where a type or a length is wrong (check 1 of R497). -/
def cutEntries : Nat → List Byte → Option (List (List Byte) × List Byte)
  | 0, bs => some ([], bs)
  | n + 1, bs =>
    if bs.length < 16 ∨ bs.length < entryLen bs ∨ entryLength (bs.take (entryLen bs)) ≠ some (entryLen bs) then none
    else match cutEntries n (bs.drop (entryLen bs)) with
      | some (es, rest) => some (bs.take (entryLen bs) :: es, rest)
      | none => none

/-- Check 3 of R497: on another rank than 0, the entries of scope JOB are those that rank 0 imported for the step (DEDUCED, log
entry 38). -/
def sameAsRankZero (rankZero : List (List Byte)) (j : Job) (step : Nat) (es : List (List Byte)) : Bool :=
  decide (j.rank = 0 ∨ es.filter (fun e => decide (entryScope e = 1)) =
    rankZero.filter (fun e => decide (entryScope e = 1 ∧ fieldAt e 8 8 = step)))

/-- One journal-import record (R497): its step and entries, and what follows it. -/
def importRecord (rankZero : List (List Byte)) (j : Job) (bs : List Byte) : Option (Nat × List (List Byte) × List Byte) :=
  let step := fieldAt bs 0 8
  if bs.length < 16 ∨ bs.length < 16 * fieldAt bs 8 4 then none
  else match cutEntries (fieldAt bs 8 4) (bs.drop 16) with
    | none => none
    | some (es, rest) =>
      if es.all (fun e => decide (fieldAt e 8 8 = step)) && sameAsRankZero rankZero j step es && decide (fieldAt bs 12 4 = 0) && es.all entryReserved && !t0Passed j step
      then some (step, es, rest) else none

/-- The entries of a record kept for the replay; a second import of a step replaces the first. -/
def keepImport (j : Job) (step : Nat) (es : List (List Byte)) : Job :=
  { j with replay := true,
           imported := j.imported.filter (fun e => decide (e.step ≠ step)) ++ es.map (fun e => { step := step, kind := fieldAt e 0 2, bytes := e }) }

/-- The records of a parameter block, by fuel; the first that is refused ends the command. -/
def importAll (rankZero : List (List Byte)) : Nat → Job → List Byte → Job × Nat
  | 0, j, _ => (j, rsOk)
  | n + 1, j, bs =>
    if bs.isEmpty then (j, rsOk)
    else match importRecord rankZero j bs with
      | none => (j, rsImport)
      | some (step, es, rest) => importAll rankZero n (keepImport j step es) rest

/-- LEDGER_IMPORT (R497). -/
def execLedgerImport (ring : Ring) (rankZero : List (List Byte)) (s : State) : Out :=
  s.serve ring.val 15 (fun c s => withJob c s (fun j =>
    let r := importAll rankZero (c.params.length / 16 + 1) j c.params
    plain (((s.setJob c.pen (some r.1)).importedReg c.pen).replayReg) r.2))

/-! ### JOB_UNLOAD (R628, R643) -/

/-- The sites of a pen that held its job's cores become spares, and fenced ones go to their test (R71, R522). -/
def State.freeSites (s : State) (p : Nat) : State :=
  (s.penSites p).foldl (fun s n =>
    let st := s.site n
    if st = siteActive ∨ st = siteDoubled ∨ (st = siteUnderTest ∧ s.fld .errSiteTest 0 2 n = 1) then s.setSite n siteSpare 0xFF 0xFF yokeNone
    else if st = siteFenced then s.startTest n
    else s) s

/-- A pen's cores, packets and units are empty. -/
def State.clearUnits (s : State) (p : Nat) : State :=
  { s with cores := SMap.keep (fun k => decide (k / 256 ≠ p)) s.cores, packets := s.packets.filter (fun k => decide (k.pen ≠ p)),
           slotClk := SMap.erase s.slotClk p,
           units := SMap.keep (fun b => !(s.baysOf p).contains b) s.units }

/-- A pen's job is gone: its registers return to what they read without one (R72, R267, R296, R456, R479), what waited for a step
boundary takes place (R310, R321, R529), and the released step goes (R643). -/
def State.dropJob (s : State) (p : Nat) : State :=
  match s.job p with
  | none => s
  | some _ =>
    let s := (s.setJob p none).clearUnits p
    let s := (s.freeSites p).nameLinks p []
    let s := ((s.setReg .corePenProg 0#64 (p - 1)).setReg .updJob 0#64 (p - 1)).setReg .updSnap 0#64 (p - 1)
    let s := ((s.setReg .netPenSlot 0#64 (p - 1)).setFld .updCkpt 0 5 0 (p - 1)).setFld .updCkpt 8 56 0 (p - 1)
    let s := (s.setFld .updLedger 32 16 0 (p - 1)).seedRegs p 0
    let s := s.onPen p (fun x => { x with released := none })
    let s := if s.fld .penState 0 3 (p - 1) = 2 then s.setFld .penState 0 3 1 (p - 1) else s
    let s := (s.baysOf p).foldl (fun s b => State.retireDue (s.bay b).due.length s b) s
    let s := if (s.pen p).activatePending then s.activateWindows p else s
    let s := (s.baysOf p).foldl (fun s b => s.onBay b (fun x => { x with log := [], raised := [] })) s
    (((s.actBoundary p).refreshGrid p).refreshPower p).replayReg

/-- JOB_UNLOAD: a running job ends JOB_RUNNING. -/
def execJobUnload (ring : Ring) (s : State) : Out :=
  s.serve ring.val 4 (fun c s => withJob c s (fun _ =>
    if s.fld .updJob 0 2 (c.pen - 1) = 2 then plain s rsJobRunning
    else plain (s.dropJob c.pen) rsOk))

/-! ### The step limit (R644) -/

/-- Phases 2 to 5 of an attempt have lasted longer than the limit: STEP_STALLED, once for the attempt. -/
def execStepLimitExpiry (pen : Pen) (s : State) : Out :=
  match s.job pen with
  | none => .next s
  | some j =>
    match (votingAttempt j <|> j.cur) with
    | some a =>
      whenOk (decide (s.fld .hifPenCfg 8 24 pen ≠ 0) && decide (a.phase ≠ .start) && !j.stalledPosted) s
        ((s.onJob pen (fun j => { j with stalledPosted := true })).postPen pen 330 a.step [ef a.step, ef a.attempt])
    | none => .next s

end Sys2Proof.Machine
end

