-- ==== Sys2Proof/Machine/Pens.lean ====
section
/-!
DEFINITION. Pens (R572 to R580): layouts, teardowns with their scrub and crypto-erase, creation; and tamper alarms (R603 to R605).
-/

namespace Sys2Proof.Machine

/-- The states of PEN_STATE (R609). -/
def penAbsent : Nat := 0
def penReady : Nat := 1
def penJob : Nat := 2
def penQuiescing : Nat := 3
def penScrubbing : Nat := 4
def penErasing : Nat := 5
def penLocked : Nat := 6

/-- The state of a pen, read and set. -/
def State.penSt (s : State) (p : Nat) : Nat := s.fld .penState 0 3 (p - 1)
def State.setPenSt (s : State) (p st : Nat) : State := s.setFld .penState 0 3 st (p - 1)

/-- The causes of PEN_TORN_DOWN (R608). -/
def byVf : Nat := 1
def byPf0 : Nat := 2
def byLayout : Nat := 3
def byTamper : Nat := 4

/-- The cut pattern of the vertical links (R271, R578, R580): a link is open while both its bays belong to one pen that has been
created and not yet scrubbed. -/
def State.cutLinks (s : State) (die : Nat) : Nat :=
  (List.range 5).foldl (fun m r =>
    let p := s.penOfBay (6 * die + r)
    let lives := decide (s.penSt p = penReady) || decide (s.penSt p = penJob) || decide (s.penSt p = penQuiescing)
    if p ≠ 0 ∧ p = s.penOfBay (6 * die + r + 1) ∧ lives then m else m + 2 ^ r) 0

/-- NET_DIE_CUT brought up to date (R295). -/
def State.refreshCut (s : State) : State :=
  s.setReg .netDieCut (BitVec.ofNat 64 (s.cutLinks 0 + s.cutLinks 1 * 2 ^ 8))

/-! ### Arbitration (R595) -/

/-- A preemption recorded: the losing master, 1 PF0 or 2 a pen function, and its pen (R614). -/
def State.arbLost (s : State) (loser p : Nat) : State :=
  let s := if loser = 1 then s.bump .secArb 0 16 else s.bump .secArb 16 16
  let s := s.setFld .secArb 32 4 loser
  let s := if loser = 2 then s.setFld .secArb 36 4 p else s
  s.setFld .secArb 63 1 1

/-- An order of a pen function that has been fetched and has not acted. -/
def orderWaits (c : Inflight) : Bool := c.done.isNone && decide (3 ≤ c.opcode) && decide (c.opcode ≤ 16)

/-- An entry of a pen layout section: present, confidential, bays. -/
def layoutEntry (b : List Byte) (p : Nat) : Bool × Bool × BitVec 12 :=
  let f := fieldAt b (8 * (p - 1) + 2) 1
  (f.testBit 0, f.testBit 0 && f.testBit 1, BitVec.ofNat 12 (fieldAt b (8 * (p - 1)) 2))

/-- The entry in force for a pen, or the one it is to take. -/
def State.entryOf (s : State) (p : Nat) : Bool × Bool × BitVec 12 :=
  let x := s.pen p
  match x.next with
  | some e => e
  | none => (x.present, x.confidential, x.bays)

/-- The order that the mailbox holds acts on a pen: it loads a layout that changes the pen's entry (R574, R595). -/
def State.orderOnPen (s : State) (p : Nat) : Bool :=
  match s.order with
  | some w => decide (w.opcode = 1) && (match combSection w.body secLayout with
    | some y => decide (layoutEntry y p ≠ s.entryOf p)
    | none => false)
  | none => false

/-- An order of higher rank about a pen meets the orders of the pen's function that have not acted: they end PREEMPTED (R595, R607,
R650). -/
def State.preemptPen (s : State) (p : Nat) : State :=
  (s.ringsOf p).foldl (fun s r =>
    let n := ((s.ring r).inflight.filter orderWaits).length
    let s := s.onRing r (fun x => { x with inflight := x.inflight.map (fun c =>
      if orderWaits c then { c with done := some (rsPreempted, []) } else c) })
    (List.range n).foldl (fun s _ => s.arbLost 2 p) s) s

/-! ### Teardown (R577) -/

/-- The job of a pen ends with PEN_RESET: a checkpoint or a restore that it cuts ends ABORTED_BY_PEN_RESET (R518, R566). -/
def State.cutJob (s : State) (p : Nat) : State :=
  match s.job p with
  | none => s
  | some j =>
    let s := match j.ckptRun with
      | some c => s.postCkptDone p c.arm.step 17 c.bytes c.ckptId
      | none => s
    if s.fld .updJob 0 2 (p - 1) = 3 then s.onJob p (fun j => { j with linkKey := none, ckptRun := none })
    else
      let a := j.voting <|> j.cur
      s.jobEnd p evPenReset [] a ((a.map Attempt.status).getD 0#64)

/-- Orders 1 and 2 of R577: the pen quiesces, its job ends and its link key goes.  A pen already being torn down goes on as it is
(R607). -/
def State.teardown (s : State) (p cause : Nat) : State :=
  if !(s.pen p).present || (s.pen p).teardownCause.isSome then s
  else
    let s := (s.onPen p (fun x => { x with teardownCause := some cause })).setPenSt p penQuiescing
    s.cutJob p

/-- PEN_RESET: HIF_PEN_RESET.reset of a pen written by its own function or by PF0 (R634, R652); it loses to an authority's order about
the pen that waits to act (R595). -/
def execPenReset (fn : Func) (pen : Pen) (s : State) : Out :=
  if fn.val ≠ 0 ∧ fn.val ≠ pen then .next s
  else if !(s.pen pen).present || (s.pen pen).teardownCause.isSome then .next s
  else if s.orderOnPen pen then .next (s.arbLost (if fn.val = 0 then 1 else 2) fn.val)
  else
    let s := if fn.val = 0 then s.preemptPen pen else s
    .next ((s.teardown pen (if fn.val = 0 then byPf0 else byVf)).setFld .hifPenReset 0 1 1 (pen - 1))

/-- The status that a command of a torn-down pen completes with (R634): what preempted or aborted it before, else
ABORTED_BY_PEN_RESET. -/
def cutStatus (c : Inflight) : Nat :=
  match c.done with
  | some d => if d.1 = rsPreempted ∨ d.1 = rsTamperAbort then d.1 else rsPenReset
  | none => rsPenReset

/-- Every command of a ring that has not completed completes, in ring order, without a tag (R634); a due interrupt goes out before
the ring's registers are reset. -/
def State.cutRing (s : State) (r : Nat) : State :=
  let q := (s.ring r).inflight
  let s := s.onRing r (fun x => { x with inflight := [] })
  let s := q.foldl (fun s c => s.putCpl r c.opcode 0 0 (cutStatus c) c.cookie [] false) s
  let k := 64 * s.ringOwner r + s.fld .hifRingCtl 8 6 r
  let s := if (s.ring r).intDue then { s with msix := SMap.set (fun _ => 0) s.msix k (SMap.get (fun _ => 0) s.msix k + 1) } else s
  s.ringReset r

/-- The bytes that a port holds go; its training and its sequence numbers stay (R578). -/
def XPort.empty (x : XPort) : XPort :=
  { x with replay := [], resend := [], stream := [], creditOut := [], poolUsed := 0, dataUsed := [], groupUsed := [], ackUsed := [], voteUsed := [],
           voteQ := [], ackQ := [], dataQ := [], deficit := [], rrNext := 0, rrGranted := false, rxPart := none, rxBuf := [], rxCw := [], rxAt := none, ackRecord := [],
           stopClk := 0#64, overflow := false, frame := [] }

/-- Order 3 of R577 is complete: in-flight commands have completed, port buffers have drained, the host session's keys are zeroised,
the event queue is discarded and the rings are reset (R634); the scrub begins. -/
def execTeardownQuiesceDone (pen : Pen) (s : State) : Out :=
  if !((s.pen pen).teardownCause.isSome && decide (s.penSt pen = penQuiescing)) then .next s
  else
    let s := (s.ringsOf pen).foldl State.cutRing s
    let s := (s.baysOf pen).foldl (fun s b => s.onPort b XPort.empty) s
    let s := (s.onPen pen (fun x => { x with session := none })).setFld .penState 4 1 0 (pen - 1)
    let c := SMap.get (fun _ => {}) s.spdm pen
    let s : State := { s with spdm := SMap.set (fun _ => {}) s.spdm pen { c with session := 0, sessionStage := 0, secret := [] } }
    let s : State := { s with evq := SMap.set (fun _ => []) s.evq pen [], evLost := SMap.set (fun _ => false) s.evLost pen false }
    .next (s.setPenSt pen penScrubbing)

/-- The per-pen register entries of other chapters, which a scrub resets (R578): those of a pen's entry, its copies of the registers
each function has, its groups and its timers. -/
def penEntries (p : Nat) : List (RegName × Nat × Nat) :=
  (([.corePenGrid, .corePenProg, .coreFaultLast, .netPenSlot, .netPenTraffic, .netPenFault, .netImbalLast, .xglDigestLast,
     .updJob, .updStep, .updStatus, .updCount, .updDiscard, .updSnap, .updJournal, .updJrnAck, .updLedger, .updCkpt, .updCkptStat,
     .rngSeed, .rngSeedInfo, .errRotateCfg, .errFenceLast] : List RegName).map (fun n => (n, p - 1, 0))) ++
  (([.netCtrSel, .hbmWinAddr, .hifBar4Sel] : List RegName).map (fun n => (n, 0, p))) ++
  [(.hifPenCfg, p, 0), (.hifPenStat, p, 0)] ++
  (List.range 64).map (fun g => (.xglGroupStat, 64 * (p - 1) + g, 0)) ++ (List.range 9).map (fun i => (.updPhase, 16 * (p - 1) + i, 0))

/-- A register entry at its reset value. -/
def State.resetReg (s : State) (n : RegName) (ix fn : Nat) : State := s.setReg n (n.resetAt fn ix) ix fn

/-- The scrub (R578): the job's cores, packets, units, ports and caches are empty, and the per-pen registers are reset. -/
def State.scrub (s : State) (p : Nat) : State :=
  let s := (s.dropJob p).clearUnits p
  let s := (s.baysOf p).foldl (fun s b => (s.onPort b XPort.empty).onBay b (fun x => { x with crestCache := [], winCache := [], log := [], raised := [] })) s
  (penEntries p).foldl (fun s e => s.resetReg e.1 e.2.1 e.2.2) s

/-- Order 4 of R577 is complete and the crypto-erase begins. -/
def execScrubDone (pen : Pen) (s : State) : Out :=
  if !((s.pen pen).teardownCause.isSome && decide (s.penSt pen = penScrubbing)) then .next s
  else .next (((s.scrub pen).setPenSt pen penErasing).refreshCut.refreshPower)

/-! ### Creation (R580) -/

/-- The bytes of a bay become undefined (R313). -/
def State.eraseBay (s : State) (b : Nat) : State :=
  let lineIn (l : Nat) : Bool := decide (l / stackLines ≠ b)
  let s : State := { s with hbm := SMap.keep (fun a => decide (a / stackSpan ≠ b)) s.hbm, poison := SMap.keep lineIn s.poison,
                            badLines := SMap.keep lineIn s.badLines }
  s.onBay b (fun x => { x with erases := x.erases + 1 })

/-- The sites of a pen's bays take its number; good ones outside any pen become spares (R70, R71). -/
def State.claimSites (s : State) (p : Nat) : State :=
  (s.penSites p).foldl (fun s n =>
    let s := s.setFld .coreSiteState 4 4 p n
    if s.site n = siteIdle then s.setSite n siteSpare 0xFF 0xFF yokeNone else s) s

/-- The sites of a pen that goes are in no pen. -/
def State.releaseSites (s : State) (p : Nat) : State :=
  (s.penSites p).foldl (fun s n =>
    let s := s.setFld .coreSiteState 4 4 0 n
    if s.site n = siteSpare then s.setSite n siteIdle 0xFF 0xFF yokeNone else s) s

/-- A pen is created (R580): a memory key and an import key pair from the DRBG after a reseed, an empty window table, PEN_CREATED. -/
def State.createPen (s : State) (p : Nat) (conf : Bool) (bays : BitVec 12) : State :=
  let s := (s.generate true).generate false
  let k := s.drawWide 8
  let d := k.2.drawWide 6
  let s := d.2
  let s := s.setPen p { present := true, confidential := conf, bays := bays, memKey := BitVec.ofNat 512 k.1, importPriv := d.1 % (n384 - 1) + 1 }
  let s := s.setFld .hifFunc 4 1 (bitIf conf 0) 0 p
  let s := (s.setPenSt p penReady).setFld .penState 3 1 (bitIf conf 0) (p - 1)
  let s := (s.setFld .penState 8 12 bays.toNat (p - 1)).bump .penState 32 16 (p - 1)
  let s := ((s.claimSites p).refreshGrid p).refreshCut
  s.postBoth p 288 0 [ef p, ef bays.toNat]

/-- PEN_CREATE: a pen that waits is created once every teardown of a layout change is over, its bays are free and a key can be drawn
(R574, R580, R604). -/
def execPenCreate (pen : Pen) (s : State) : Out :=
  let x := s.pen pen
  let free := (List.range 12).all (fun b => decide (s.penOfBay b = 0) || !((x.next.map (fun e => e.2.2)).getD 0#12).getLsbD b)
  let quiet := (List.range 12).all (fun i => (s.pen (i + 1)).next.isNone || (s.pen (i + 1)).teardownCause.isNone)
  match x.next with
  | some e =>
    if x.createPending && !x.present && !s.locked && s.drbgReady && s.atReady && free && quiet then .next (s.createPen pen e.2.1 e.2.2)
    else .next s
  | none => .next s

/-- A pen is gone: its sites are in no pen, and PEN_STATE shows none. -/
def State.dropPen (s : State) (p st : Nat) : State :=
  let s := s.releaseSites p
  let s := s.setPen p {}
  let s := (s.setFld .hifFunc 4 1 0 0 p).setPenSt p st
  let s := (s.setFld .penState 3 1 0 (p - 1)).setFld .penState 8 12 0 (p - 1)
  ((s.resetReg .corePenGrid (p - 1) 0).refreshCut).refreshPower

/-- Orders 5 and 6 of R577 are complete (R313, R578, R610): the bays read as undefined data, PEN_TORN_DOWN is posted, and the pen is
created anew, waits for its creation, or is gone. -/
def execCryptoEraseDone (pen : Pen) (s : State) : Out :=
  let x := s.pen pen
  match x.teardownCause with
  | none => .next s
  | some cause =>
    if s.penSt pen ≠ penErasing then .next s
    else
      let s := (s.baysOf pen).foldl State.eraseBay s
      let s := ((s.setFree .penTeardownLast 0 16 (pen - 1)).setFree .penTeardownLast 16 16 (pen - 1)).setFree .penTeardownLast 32 16 (pen - 1)
      let s := (s.setFld .penTeardownLast 48 8 cause (pen - 1)).setFld .penTeardownLast 63 1 1 (pen - 1)
      let s := (s.bump .penState 48 16 (pen - 1)).setFld .hifPenReset 0 1 0 (pen - 1)
      let s := s.post 0 289 0 [ef pen, ef cause]
      let e := x.next.getD (true, x.confidential, x.bays)
      let s := s.dropPen pen (if s.locked then penLocked else penAbsent)
      if s.locked || !e.1 then .next s
      else if x.next.isNone && s.drbgReady then .next (s.createPen pen e.2.1 e.2.2)
      else .next (s.onPen pen (fun y => { y with createPending := true, next := some e }))

/-! ### Layouts (R572 to R574) -/

/-- An entry breaks R573 or R665: present without bays or bays without a pen, a bay that is absent, failed, or in a lower pen's mask. -/
def State.badEntry (s : State) (b : List Byte) (p : Nat) : Bool :=
  let e := layoutEntry b p
  decide (e.1 = decide (e.2.2 = 0#12)) ||
  (List.range 12).any (fun y => e.2.2.getLsbD y && (!s.bayPresent y || decide (s.fld .mgtBoot (16 + y) 1 = 1) ||
    ((List.range (p - 1)).any (fun q => (layoutEntry b (q + 1)).2.2.getLsbD y))))

/-- The numbers of the pens. -/
def penNumbers : List Nat := (List.range 12).map (· + 1)

/-- The pens whose entry a layout changes. -/
def State.changedPens (s : State) (b : List Byte) : List Nat := penNumbers.filter (fun p => decide (layoutEntry b p ≠ s.entryOf p))

/-- A layout takes force (R574, R595, R607, R312): pens whose entry is unchanged go on; the others are torn down, and the new entries are
created after them; the device key is replaced, so that bays of no pen read as undefined data. -/
def State.setLayout (s : State) (b : List Byte) : State :=
  let changed := s.changedPens b
  let k := ((if s.drbgReady then s.generate false else s)).drawWide 8
  let s : State := { k.2 with deviceKey := BitVec.ofNat 512 k.1 }
  let s := ((List.range 12).filter (fun y => decide (s.penOfBay y = 0))).foldl State.eraseBay s
  changed.foldl (fun s p =>
    let e := layoutEntry b p
    if (s.pen p).present then
      ((s.preemptPen p).teardown p byLayout).onPen p (fun x => { x with next := some e })
    else s.onPen p (fun x => { x with createPending := e.1, next := if e.1 then some e else none })) s

/-! ### Tamper (R603 to R605) -/

/-- The code of a sensor (R613). -/
def sensorCode : TamperSensor → Nat
  | .voltage => 1
  | .clock => 2
  | .temp => 3
  | .enclosure => 4

/-- The state in which an alarm finds the device (R604, R613): none while it is off. -/
def State.alarmState (s : State) (keyOp : Bool) : Option Nat :=
  match s.power with
  | .off => none
  | .keep => some 4
  | .idle => some (if s.stage < stageReady ∨ s.stage = stageFailed then 0 else if keyOp then 3 else if s.computeReset then 2 else 1)
  | .run => some (if keyOp then 3 else 2)

/-- An entry joins the tamper log (R605, R613): in order of arrival, over the oldest when the log is full; its seconds are a free
value. -/
def State.logAlarm (s : State) (sensor st : Nat) : State :=
  let t := s.drawNat 24
  let i := t.2.tamperHead
  let x : Word64 := BitVec.ofNat 64 (sensor + st * 2 ^ 4 + t.1 * 2 ^ 8 + t.2.bootCount % 2 ^ 16 * 2 ^ 32)
  let s : State := { t.2.keepWrite (0x40 + i) x with tamperHead := (i + 1) % 16 }
  let s := s.setReg .secTamperLog x i
  let s := (s.setFld .secTamper 0 4 sensor).setFld .secTamper 4 3 st
  s.setFld .secTamper 8 8 (min 16 (s.fld .secTamper 8 8 + 1))

/-- Every volatile key is zeroised (R604): what the stacks hold can no longer be read. -/
def State.zeroise (s : State) : State :=
  let s := penNumbers.foldl (fun s p => (s.onPen p (fun x => { x with memKey := 0#512, importPriv := 0, session := none })).onJob p
    (fun j => { j with linkKey := none })) s
  let s : State := { (s.setFld .rngStatus 2 1 0) with deviceKey := 0#512, spdm := [] }
  (List.range 12).foldl State.eraseBay s

/-- A key operation that a tamper alarm finds under way is aborted, and the load that asked for it ends TAMPER_ABORT (R604). -/
def State.abortKeyOps (s : State) : State :=
  { s with rings := s.rings.map (fun kv => (kv.1, { kv.2 with inflight := kv.2.inflight.map (fun c =>
    if c.opcode = 3 ∧ c.done.isNone then { c with done := some (rsTamperAbort, []) } else c) })) }

/-- The response of Idle and Run (R604): keys zeroised, the device locked, every pen torn down. -/
def State.lockDown (s : State) : State :=
  let s := (s.zeroise).setFld .secTamper 7 1 1
  let s := penNumbers.foldl (fun s p => s.teardown p byTamper) s
  penNumbers.foldl (fun s p => if (s.pen p).present then s else (s.onPen p (fun x => { x with createPending := false, next := none })).setPenSt p penLocked) s

/-- The response of start-up (R604, R664): it halts locked, with fail code TAMPER, and no transmitter speaks. -/
def State.haltLocked (s : State) : State :=
  let s := s.setFld .secTamper 7 1 1
  let s := if s.stage = stageFailed then s
    else ((s.setFld .mgtBoot 4 4 s.stage).setFld .mgtBoot 8 8 2).setFld .mgtBoot 0 4 stageFailed
  (List.range 12).foldl (fun s p => if s.bayPresent p then s.setPortState p portQuiet else s) { s with linkStage := false, censusOpen := false }

/-- TAMPER_ALARM (R604, R607): one response however many sensors fire, and a log entry for each. -/
def execTamperAlarm (sensor : TamperSensor) (keyOp : Bool) (s : State) : Out :=
  match s.alarmState keyOp with
  | none => .next s
  | some st =>
    let up := s.atReady && !s.perst
    let s := s.logAlarm (sensorCode sensor) st
    let s :=
      if s.locked then s
      else if st = 0 then s.haltLocked
      else if st = 4 then s.zeroise
      else (if st = 3 then s.abortKeyOps else s).lockDown
    .next ((if up then s.post 0 290 0 [ef (sensorCode sensor), ef st] else s).refreshPins)

end Sys2Proof.Machine
end

