-- ==== Sys2Proof/Machine/RegOps.lean ====
section
/-!
DEFINITION. Register accesses of the host (R14 to R17): which entry a BAR0 access reaches, which function sees and writes it, how a
write of 4 or 8 bytes merges, and the registers that persist in the keep store (R668).
-/

namespace Sys2Proof.Machine

/-- A function sees an entry of a register (R69, R267, R295, R333, R384, R419, R456, R477, R538, R609, R651 to R656, R683). -/
def State.sees (s : State) (fn : Nat) (n : RegName) (ix : Nat) : Bool :=
  decide (fn = 0 ∧ n.row.view ≠ .ring) ||
  (match n.row.view with
   | .pf0 => false
   | .shared => true
   | .perPen => decide (ix + 1 = fn)
   | .perFuncIx => decide (ix = fn)
   | .perBay => (s.pen fn).bays.getLsbD ix
   | .perSite => (s.pen fn).bays.getLsbD (bayOfSite ix)
   | .perFunc => true
   | .ring => decide (s.fld .hifRingCtl 16 4 ix = fn)
   | .penGroup => decide (ix / 64 + 1 = fn)
   | .penPhase => decide (ix / 16 + 1 = fn)
   | .bayClass => false)

/-- A function's write to an entry acts: it sees it, a shared register takes PF0's writes only, and some take none of PF0's. -/
def State.writes (s : State) (fn : Nat) (n : RegName) (ix : Nat) : Bool :=
  s.sees fn n ix && !(decide (n.row.view = .shared) && decide (fn ≠ 0)) && !(n.row.noPf0 && decide (fn = 0))

/-- An access of 4 or 8 bytes, aligned to its length, within one register: the register's offset and the access's first bit (R17). -/
def regAccess (off len : Nat) : Option (Nat × Nat) :=
  if len = 8 ∧ off % 8 = 0 then some (off, 0)
  else if len = 4 ∧ off % 4 = 0 then some (off - off % 8, 8 * (off % 8))
  else none

/-- The register entry that an access reaches, with the first bit and the number of bits it covers; none is an undefined offset. -/
def regReach (off len : Nat) : Option (RegName × Nat × Nat × Nat) :=
  match regAccess off len with
  | none => none
  | some (o, lo) => (regAt o).map (fun n => (n.1, n.2, lo, 8 * len))

/-- The bits that a write covers, and the written bits in their places. -/
def coverMask (lo bits : Nat) : Word64 := maskOf [(lo, bits)]
def coverBits (lo bits : Nat) (v : Word64) : Word64 := BitVec.ofNat 64 (v.toNat % 2 ^ bits * 2 ^ lo)

/-- A register after a write: stored fields take the covered bits, write-one-to-clear bits clear (R14, R15, R17). -/
def writeInto (n : RegName) (old : Word64) (lo bits : Nat) (v : Word64) : Word64 :=
  let c := coverMask lo bits
  let w := coverBits lo bits v
  let st := n.row.rw &&& c
  ((old &&& ~~~st) ||| (w &&& st)) &&& ~~~(w &&& n.row.w1c &&& c)

/-- A write sets a bit. -/
def writesOne (lo bits : Nat) (v : Word64) (bit : Nat) : Bool := (coverBits lo bits v).getLsbD bit && (coverMask lo bits).getLsbD bit

/-- The keep-store word of a register that persists (R668). -/
def rwkWord (n : RegName) (ix : Nat) : Option Nat :=
  match n with
  | .xglPolicy => some 0xA
  | .hbmRetireCfg => some 0xB
  | .errPolicy => some 0xC
  | .errWxThresh => some (0xF + ix)
  | _ => none

/-- A persistent register takes a value (R14, R670, R671): its word is written; a worn word keeps its value, and so does the
register. -/
def State.writeRwk (s : State) (n : RegName) (ix : Nat) (v : Word64) : State :=
  match rwkWord n ix with
  | none => s
  | some w =>
    let t := s.keepWrite w v
    if s.worn w then t else t.setReg n v ix

end Sys2Proof.Machine
end

