-- ==== Sys2Proof/Machine/Authority.lean ====
section
/-!
DEFINITION. The authority (R590 to R594): its orders as they reach the device (R591, R592, R645), the orders themselves (R593), firmware
slots (R596 to R599), and field test packs (R520, R521).
-/

namespace Sys2Proof.Machine

/-! ### Answers (R645) -/

def auOk : Nat := 0
def auReserved : Nat := 2
def auSig : Nat := 3
def auNonce : Nat := 4
def auNotAuthority : Nat := 5
def auMgmtBusy : Nat := 6
def auFwSig : Nat := 7
def auFwStepping : Nat := 8
def auFwRollback : Nat := 9
def auFwSize : Nat := 10
def auFwNotVerified : Nat := 11
def auFwNotRunning : Nat := 12
def auFwSlotBusy : Nat := 13
def auTamperLocked : Nat := 14
def auRingStatus : Nat := 15

/-- The result of an order: an answer of R645, or a ring status of R630 for the answer record. -/
inductive OrderEnd where
  | answer (a : Nat)
  | ring (st : Nat)
  deriving DecidableEq, Repr

/-- The accepted end. -/
def OrderEnd.ok : OrderEnd := .answer auOk

/-- The value of HIF_AUTH_CTL.answer, and of the answer record (R645). -/
def OrderEnd.code : OrderEnd → Nat
  | .answer a => a
  | .ring _ => auRingStatus
def OrderEnd.record : OrderEnd → Nat
  | .answer a => a
  | .ring st => 256 + st

/-! ### Authentication (R590 to R592) -/

/-- The authority in force: 1 NETWORK, 2 ROT (R611). -/
def State.authority (s : State) : Nat := s.fld .secAuth 3 2

/-- The channels of R592: 1 the management port, 2 the mailbox and the SMBus. -/
def netChannel : Nat := 1
def rotChannel : Nat := 2

/-- The fields of an order record (R591). -/
def orderOp (r : List Byte) : Nat := fieldAt r 4 2
def orderBody (r : List Byte) : List Byte := slice r 0x20 (fieldAt r 0x10 4)

/-- The record has the magic and exactly the length that its body and the channel's signature make (R591). -/
def orderWhole (ch : Nat) (r : List Byte) : Bool :=
  decide (0x20 ≤ r.length) && decide (fieldAt r 0 4 = 0x4F414541) &&
  decide (r.length = 0x20 + fieldAt r 0x10 4 + (if ch = rotChannel then 96 else 0))

/-- The order is authentic (R591, R594): on the ROT channel the owner key signs it, or the key that TAKE_OWNERSHIP carries; on the
NETWORK channel the client has proved itself to TLS, which needs an owner certificate or the one that TAKE_OWNERSHIP carries. -/
def State.authentic (s : State) (ch : Nat) (r : List Byte) : Bool :=
  let key := if orderOp r = 4 then orderBody r else s.ownerPub
  orderWhole ch r &&
  (if ch = rotChannel then
    (match pointOf key with
     | some q => ecdsaVerify q (r.take (r.length - 96)) (r.drop (r.length - 96))
     | none => false)
   else !key.isEmpty)

/-- The nonce that the next order must carry, and the one an order carries. -/
def State.nonce (s : State) : Nat := s.fld .secAuth 8 56
def orderNonce (r : List Byte) : Nat := fieldAt r 8 7

/-- Reserved fields and values of a record (R591, R593). -/
def orderReserved (r : List Byte) : Bool :=
  someNonzero r 6 2 || someNonzero r 0xF 1 || someNonzero r 0x14 12 || decide (orderOp r = 0) || decide (14 < orderOp r)

/-- Recovery accepts FW_WRITE and FW_ACTIVATE only (R597). -/
def State.orderBarred (s : State) (r : List Byte) : Bool := s.recovery && !(decide (orderOp r = 6) || decide (orderOp r = 7))

/-- The check of an order: lock, channel, signature, nonce, reserved fields, recovery (R591, R592, R597, R604). -/
def State.orderRefusal (s : State) (ch : Nat) (r : List Byte) : Option Nat :=
  if s.locked then some auTamperLocked
  else if s.authority ≠ ch then some auNotAuthority
  else if !s.authentic ch r then some auSig
  else if orderNonce r ≠ s.nonce then some auNonce
  else if orderReserved r then some auReserved
  else if s.orderBarred r then some auNotAuthority
  else none

/-- The management core runs (R662, R675). -/
def State.mgmtUp (s : State) : Bool := (decide (s.power = .idle) || decide (s.power = .run)) && (decide (stageManagement < s.stage) || s.recovery)

/-! ### Answering -/

/-- The bytes from an order record to its answer record (R655). -/
def roundUp64 (n : Nat) : Nat := (n + 63) / 64 * 64

/-- An order that came by the mailbox is answered in the register and in the answer record (R645, R655). -/
def State.mailAnswer (s : State) (e : OrderEnd) : State :=
  let at_ := (s.reg .hifAuthAddr).toNat + roundUp64 (s.fld .hifAuthCtl 0 32)
  let s := (s.hostWrite at_ (le 8 e.record)).setFld .hifAuthCtl 32 1 0
  { s.setFld .hifAuthCtl 40 8 e.code with order := none }

/-- An order ends: an accepted one raises the nonce (R591); the answer goes back the way the order came, and an SMBus answer waits
for the SMBus host (R703). -/
def State.orderEnds (s : State) (o : OrderFrom) (e : OrderEnd) : State :=
  let s := if e.code = auOk then s.setFld .secAuth 8 56 (s.nonce + 1) else s
  let s := match o with
    | .mailbox => s.mailAnswer e
    | .network _ => s
    | .smbus _ => { s with smbusMsg := true }.refreshPins
  { s with lastAnswer := e.record }

/-- AUTH_MAILBOX_GO (R645): the record is fetched and checked; one that passes waits to be performed. -/
def execAuthMailboxGo (s : State) : Out :=
  if !s.mgmtUp || s.perst || s.order.isSome then .next s
  else
    let r := s.hostRead (s.reg .hifAuthAddr).toNat (s.fld .hifAuthCtl 0 32)
    let s := s.setFld .hifAuthCtl 32 1 1
    match s.orderRefusal rotChannel r with
    | some a => .next (s.orderEnds .mailbox (.answer a))
    | none => .next { s with order := some { opcode := orderOp r, body := orderBody r } }

/-- Performs an order of an opcode: the one the mailbox holds, or a record that arrives over another channel and passes its check. -/
def State.perform (s : State) (o : OrderFrom) (op : Nat) (f : List Byte → State → State × OrderEnd) : Out :=
  let run (body : List Byte) : Out :=
    let r := f body s
    .next (r.1.orderEnds o r.2)
  let arrive (ch : Nat) (r : List Byte) : Out :=
    if !s.mgmtUp || decide (orderOp r ≠ op) then .next s
    else match s.orderRefusal ch r with
      | some a => .next (s.orderEnds o (.answer a))
      | none => run (orderBody r)
  match o with
  | .mailbox => match s.order with
    | none => .next s
    | some w => if w.opcode ≠ op then .next s else if s.locked then .next (s.orderEnds o (.answer auTamperLocked)) else run w.body
  | .network r => arrive netChannel r
  | .smbus r => arrive rotChannel r

/-! ### Device-wide sections (R572, R636, R638) -/

/-- The mode bit of a MODE section differs from the mode in force (R34, R35). -/
def State.modeChanges (s : State) (m : List Byte) : Bool :=
  let want := if fieldAt m 0 1 % 2 = 1 then 1 else 2
  decide (s.fld .devMode 0 2 ≠ want)

/-- The checks of the sections of an authority's image, in the order of their types (R34, R573, R636, R711). -/
def State.checkSections (s : State) (b : List Byte) : Option LoadFail :=
  let mode := combSection b secMode
  let lay := combSection b secLayout
  let idn := combSection b secIdentity
  firstOf [
    failIf (match mode with | some m => decide (2 ≤ fieldAt m 0 8) | none => false) rsReserved,
    failIf (match mode with | some m => s.modeChanges m && !s.loadedPens.isEmpty | none => false) rsModeBusy,
    failIf (match lay with
      | some y => (List.range 12).any (fun i => decide (4096 ≤ fieldAt y (8 * i) 2) || decide (4 ≤ fieldAt y (8 * i + 2) 1) || someNonzero y (8 * i + 3) 5)
      | none => false) rsReserved,
    (match lay with
      | some y => (penNumbers.find? (s.badEntry y)).map (fun p => { status := rsLayoutInvalid, index := p - 1 })
      | none => none),
    (match lay with
      | some y => ((s.changedPens y).find? (fun p => (s.job p).isSome)).map (fun p => { status := rsPenBusy, index := p - 1 })
      | none => none),
    failIf (match idn with | some i => decide (65536 ≤ fieldAt i 0 8) | none => false) rsReserved]

/-- A checked image takes force: mode, identity, layout (R34, R362, R574). -/
def State.applySections (s : State) (b : List Byte) : State :=
  let s := match combSection b secMode with
    | some m => s.setFld .devMode 0 2 (if fieldAt m 0 1 % 2 = 1 then 1 else 2)
    | none => s
  let s := match combSection b secIdentity with
    | some i =>
      let old := s.reg .xglDeviceId
      let s := (s.setFld .xglDeviceId 0 16 (fieldAt i 0 2)).setFld .xglDeviceId 16 1 1
      if s.reg .xglDeviceId = old then s else s.announceId
    | none => s
  match combSection b secLayout with
  | some y => s.setLayout y
  | none => s

/-- LOAD_DEVICE_SECTION (R638): the body is the image. -/
def execLoadDeviceSection (o : OrderFrom) (s : State) : Out :=
  s.perform o 1 (fun body s =>
    let fits := decide (body.length < 240) || decide (body.length < combSize body)
    match failIf fits rsLength <|> checkDeviceComb body <|> s.checkSections body with
    | some e => (s, .ring e.status)
    | none => (s.applySections body, .ok))

/-! ### Ring allocation (R619) -/

/-- HIF_FUNC.rings of every function (R651). -/
def State.countRings (s : State) : State :=
  (List.range 13).foldl (fun s f => s.setFld .hifFunc 16 13 (s.ringsOf f).length 0 f) s

/-- RING_ALLOCATION: byte r names the owner of ring r; a ring that changes owner is reset. -/
def execRingAllocation (o : OrderFrom) (s : State) : Out :=
  s.perform o 2 (fun body s =>
    let moved := (List.range 4096).filter (fun r => decide ((body.getD r 0#8).toNat ≠ s.ringOwner r))
    if body.length ≠ 4096 then (s, .ring rsLength)
    else if body.any (fun b => decide (12 < b.toNat)) then (s, .answer auReserved)
    else if moved.any (fun r => !(s.ring r).inflight.isEmpty) then (s, .ring rsPenBusy)
    else
      let s := moved.foldl (fun s r => (s.ringReset r).setFld .hifRingCtl 16 4 (body.getD r 0#8).toNat r) s
      (s.countRings, .ok))

/-! ### Selection and ownership (R593, R594) -/

/-- The keep-store words 1 to 7 take a selection and the hash of an owner key or certificate, which is kept beside them; an empty key
has no hash (R668, DESIGN CHOICE, log entry 39). -/
def State.keepOwner (s : State) (sel : Nat) (key : List Byte) : State :=
  let h := if key.isEmpty then zeros 48 else sha384 key
  let s := s.keepWrite 1 (BitVec.ofNat 64 sel)
  let s := (List.range 6).foldl (fun s i => s.keepWrite (2 + i) (BitVec.ofNat 64 (fieldAt h (8 * i) 8))) s
  { s with ownerKeep := key }

/-- SET_AUTHORITY: the selection in byte 0, seven reserved bytes, the owner key or certificate (DESIGN CHOICE, log entry 39); all in force at the
next cold start. -/
def execSetAuthority (o : OrderFrom) (s : State) : Out :=
  s.perform o 3 (fun body s =>
    if body.length < 8 ∨ someNonzero body 1 7 ∨ 2 < fieldAt body 0 1 then (s, .answer auReserved)
    else (s.keepOwner (fieldAt body 0 1) (body.drop 8), .ok))

/-- TAKE_OWNERSHIP: only with no owner and in the claim window; the selection written is the authority in force (DESIGN CHOICE, log entry 39). -/
def execTakeOwnership (o : OrderFrom) (s : State) : Out :=
  s.perform o 4 (fun body s =>
    if s.fld .secAuth 6 1 = 0 then (s, .answer auNotAuthority)
    else
      let s := s.keepOwner s.authority body
      let s := (s.setFld .secAuth 0 2 s.authority).setFld .secAuth 5 2 1
      ({ s with ownerPub := body }, .ok))

/-- RELEASE_OWNERSHIP: blank at the next cold start. -/
def execReleaseOwnership (o : OrderFrom) (s : State) : Out := s.perform o 5 (fun _ s => (s.keepOwner 0 [], .ok))

/-- t_sec_claim has passed since the cold start. -/
def execClaimWindowEnd (s : State) : Out := whenOk (decide (s.fld .secAuth 6 1 = 1)) s (s.setFld .secAuth 6 1 0)

/-! ### Firmware (R596 to R599) -/

/-- The bytes of a boot-flash slot (R596). -/
def fwSlotSize : Nat := 8 * 2 ^ 20

/-- The fields of an image. -/
def fwSvn (b : List Byte) : Nat := fieldAt b 8 2
def fwBodyEnd (b : List Byte) : Nat := 0x40 + fieldAt b 0x10 4

/-- An image has its magic, its version and the length its header states. -/
def fwWhole (b : List Byte) : Bool :=
  decide (0xA0 ≤ b.length) && decide (fieldAt b 0 4 = 0x57464541) && decide (fieldAt b 4 2 = 1) && decide (b.length = fwBodyEnd b + 96)

/-- Kwaong's firmware key signs the image. -/
def fwSigned (b : List Byte) : Bool := fwWhole b && ecdsaVerify Config.firmwareKey (b.take (fwBodyEnd b)) (b.drop (fwBodyEnd b))

/-- The stepping of the module (R5). -/
def State.stepping (s : State) : Nat := s.fld .devIdent 32 8

/-- The anti-rollback counter of the keep store. -/
def State.fwCounter (s : State) : Nat := (s.keepWord 8).toNat

/-- The first refusal of an image (R597, R598); reserved fields last, as R521 orders them. -/
def State.fwRefusal (s : State) (b : List Byte) : Option Nat :=
  if !fwSigned b then some auFwSig
  else if fieldAt b 0xA 1 ≠ s.stepping then some auFwStepping
  else if fwSvn b < s.fwCounter then some auFwRollback
  else if fwSlotSize < b.length then some auFwSize
  else if someNonzero b 0xB 5 || someNonzero b 0x14 44 then some auReserved
  else none

/-- The svn of what a slot holds; the delivered image has 0 (DESIGN CHOICE, log entry 40). -/
def slotSvn : FwSlot → Nat
  | .image b => fwSvn b
  | _ => 0

/-- A slot verifies (R597). -/
def State.slotGood (s : State) : FwSlot → Bool
  | .empty => false
  | .factory => decide (s.fwCounter = 0)
  | .image b => fwSigned b && decide (fieldAt b 0xA 1 = s.stepping) && decide (s.fwCounter ≤ fwSvn b)

/-- The slot of a number, 0 A and 1 B. -/
def State.fwSlot (s : State) (b : Bool) : FwSlot := if b then s.fwB else s.fwA

/-- The slot that runs. -/
def State.fwRuns (s : State) : Bool := decide (s.fld .secFw 0 1 = 1)

/-- SEC_FW as a boot from a slot leaves it (R612). -/
def State.fwRegs (s : State) (run trial : Bool) : State :=
  let svn := slotSvn (s.fwSlot run)
  s.setReg .secFw (BitVec.ofNat 64 (bitIf run 0 + bitIf trial 1 + bitIf (s.slotGood s.fwA) 2 + bitIf (s.slotGood s.fwB) 3 +
    bitIf (decide (s.fwCounter < svn)) 4 + svn * 2 ^ 32 + s.fwCounter % 2 ^ 16 * 2 ^ 48))

/-- The boot ROM's choice (R597): the trial slot when one is set, else the active one; the other when it fails; recovery when both do.
The mark of a trial is used up. -/
def State.bootFw (s : State) : State :=
  let first := s.fwTrial.getD s.fwActive
  let s1 : State := { s with fwTrial := none }
  if s.slotGood (s.fwSlot first) then s1.fwRegs first s.fwTrial.isSome
  else if s.slotGood (s.fwSlot !first) then s1.fwRegs (!first) false
  else { s1.setReg .secFw (BitVec.ofNat 64 (s.fwCounter % 2 ^ 16 * 2 ^ 48)) with recovery := true }

/-- The running trial becomes the active slot (R598 order 3). -/
def State.trialGood (s : State) : State :=
  if s.fld .secFw 1 1 = 1 then { s.setFld .secFw 1 1 0 with fwActive := s.fwRuns } else s

/-- FW_WRITE: the slot's number in byte 0, seven reserved bytes, the image (DESIGN CHOICE, log entry 40); the slot that runs is busy (R607). -/
def execFwWrite (o : OrderFrom) (s : State) : Out :=
  s.perform o 6 (fun body s =>
    let slot := decide (fieldAt body 0 1 = 1)
    let img := body.drop 8
    if body.length < 8 ∨ someNonzero body 1 7 ∨ 1 < fieldAt body 0 1 then (s, .answer auReserved)
    else if slot = s.fwRuns ∧ !s.recovery then (s, .answer auFwSlotBusy)
    else match s.fwRefusal img with
      | some a => (s, .answer a)
      | none =>
        let s : State := { s.setFld .secFw (if slot then 3 else 2) 1 1 with fwTrial := none }
        (if slot then { s with fwB := .image img } else { s with fwA := .image img }, .ok))

/-- FW_ACTIVATE: the slot that does not run is marked as trial, when it verifies; in recovery, the one that does. -/
def execFwActivate (o : OrderFrom) (s : State) : Out :=
  s.perform o 7 (fun _ s =>
    let slot := if s.recovery then !s.slotGood s.fwA else !s.fwRuns
    if s.slotGood (s.fwSlot slot) then ({ s with fwTrial := some slot }, .ok) else (s, .answer auFwNotVerified))

/-- Every waiting keep-store write is done, in order. -/
def State.keepAll (s : State) : State := (List.range s.keepQ.length).foldl (fun s _ => s.keepDone) s

/-- FW_COMMIT: the counter rises to the running svn, in the keep store before the order completes (R599). -/
def execFwCommit (o : OrderFrom) (s : State) : Out :=
  s.perform o 8 (fun _ s =>
    if s.fld .secFw 1 1 = 1 then (s, .answer auFwNotRunning)
    else
      let svn := s.fld .secFw 32 16
      let s := (if s.fwCounter < svn then s.keepWrite 8 (BitVec.ofNat 64 svn) else s).keepAll
      ((s.setFld .secFw 48 16 s.fwCounter).setFld .secFw 4 1 (bitIf (decide (s.fwCounter < svn)) 0), .ok))

/-- MGMT_RESTART: the management core boots again, with no job loaded; a trial that boots runs in a module that is READY, and becomes
active (R593, R598, R672). -/
def execMgmtRestart (o : OrderFrom) (s : State) : Out :=
  s.perform o 9 (fun _ s =>
    if !s.loadedPens.isEmpty then (s, .answer auMgmtBusy)
    else
      let s := s.bootFw
      ((if s.atReady then s.trialGood else s).refreshPins, .ok))

/-! ### Policies, ledger, logs (R593) -/

/-- The entries of a WRITE_POLICY body: a BAR0 offset and a value, 8 bytes each (DESIGN CHOICE, log entry 39). -/
def policyEntries (b : List Byte) : List (Nat × Nat) := (chunks 16 b).map (fun e => (fieldAt e 0 8, fieldAt e 8 8))

/-- A policy entry names a persistent register. -/
def policyReg (e : Nat × Nat) : Option (RegName × Nat) :=
  match regAt e.1 with
  | some r => if r.1.row.rwk then some r else none
  | none => none

/-- WRITE_POLICY. -/
def execWritePolicy (o : OrderFrom) (s : State) : Out :=
  s.perform o 10 (fun body s =>
    let es := policyEntries body
    if body.isEmpty ∨ body.length % 16 ≠ 0 ∨ es.any (fun e => (policyReg e).isNone) then (s, .answer auReserved)
    else (es.foldl (fun s e => match policyReg e with
      | some r => s.writeRwk r.1 r.2 (BitVec.ofNat 64 e.2 &&& r.1.row.rw)
      | none => s) s, .ok))

/-- CLEAR_LEDGER_ENTRY: the body is the number of a ledger word, 8 bytes (R668, R669, DESIGN CHOICE, log entry 39). -/
def execClearLedgerEntry (o : OrderFrom) (s : State) : Out :=
  s.perform o 11 (fun body s =>
    let w := fieldAt body 0 8
    if body.length ≠ 8 ∨ w < ledgerBase ∨ ledgerBase + ledgerWords ≤ w then (s, .answer auReserved)
    else (s.keepWrite w 0#64, .ok))

/-- CLEAR_BAY_ACT: the body is the number of a bay, 8 bytes (R529, DESIGN CHOICE, log entry 39). -/
def execClearBayAct (o : OrderFrom) (s : State) : Out :=
  s.perform o 12 (fun body s =>
    let b := fieldAt body 0 8
    if body.length ≠ 8 ∨ 12 ≤ b then (s, .answer auReserved) else (s.setFld .errBayWx 0 1 0 b, .ok))

/-- CLEAR_TAMPER_LOG (R605, R613). -/
def execClearTamperLog (o : OrderFrom) (s : State) : Out :=
  s.perform o 13 (fun _ s =>
    let s := (List.range 16).foldl (fun s i => (s.keepWrite (0x40 + i) 0#64).setReg .secTamperLog 0#64 i) s
    let s := (s.setFld .secTamper 0 7 0).setFld .secTamper 8 8 0
    ({ s with tamperHead := 0 }, .ok))

/-! ### Field test packs (R520, R521) -/

def rsFtpSig : Nat := 29
def rsFtpStepping : Nat := 30
def rsFtpRollback : Nat := 31
def rsFtpBudget : Nat := 32

/-- The fields of a pack. -/
def ftpSeq (b : List Byte) : Nat := fieldAt b 8 4
def ftpEnd (b : List Byte) : Nat := 0x40 + fieldAt b 0xC 4

/-- A pack has its magic, version, a legal body size and its length. -/
def ftpWhole (b : List Byte) : Bool :=
  decide (0x40 ≤ b.length) && decide (fieldAt b 0 4 = 0x50464541) && decide (fieldAt b 4 2 = 1) && decide (64 ≤ fieldAt b 0xC 4) &&
  decide (fieldAt b 0xC 4 ≤ 8388608) && decide (ftpEnd b + 96 ≤ b.length)

/-- Kwaong's field-test key signs the pack. -/
def ftpSigned (b : List Byte) : Bool := ftpWhole b && ecdsaVerify Config.fieldTestKey (b.take (ftpEnd b)) (slice b (ftpEnd b) 96)

/-- The checks of R521, in their order. -/
def State.ftpStatus (s : State) (b : List Byte) : Nat :=
  if !ftpSigned b then rsFtpSig
  else if fieldAt b 6 1 ≠ s.stepping then rsFtpStepping
  else if ftpSeq b < (s.keepWord 9).toNat then rsFtpRollback
  else if 150000 < fieldAt b 0x10 4 then rsFtpBudget
  else if someNonzero b 7 1 || someNonzero b 0x20 32 || decide (ftpSeq b = 0) then rsReserved
  else rsOk

/-- A pack that passes goes into the flash and the counter takes its seq (R521, R546). -/
def State.takePack (s : State) (b : List Byte) : State :=
  let s : State := { s.keepWrite 9 (BitVec.ofNat 64 (ftpSeq b)) with ftp := b.take (ftpEnd b + 96) }
  let s := s.setReg .errFtpStatus (BitVec.ofNat 64 (ftpSeq b))
  s.post 0 268 0 [ef (fieldAt b 0x18 8), ef (ftpSeq b)]

/-- AUTH_FTP_LOAD: a refusal is a ring status in the answer record. -/
def execAuthFtpLoad (o : OrderFrom) (s : State) : Out :=
  s.perform o 14 (fun body s =>
    let st := s.ftpStatus body
    if st = rsOk then (s.takePack body, .ok) else (s, .ring st))

/-- FTP_LOAD: the operator's ring command (R628). -/
def execFtpLoad (ring : Ring) (s : State) : Out :=
  s.serve ring.val 17 (fun c s =>
    let st := s.ftpStatus c.params
    plain (if st = rsOk then s.takePack c.params else s) st)

end Sys2Proof.Machine
end

