-- ==== Sys2Proof/Machine/Faults.lean ====
section
/-!
DEFINITION. Faults and field testing as commands: fences, adoption and in-step replay (R509 to R514), detectors that set status bits
(R515), the yoke-check (R67), test results (R524), and the injection of faults (R531, R532).
-/

namespace Sys2Proof.Machine

/-- The site detectors whose response is a fence (R507). -/
def fencing (det : Nat) : Bool := decide (2 ≤ det) && decide (det ≤ 8)

/-- The site partner of a yoke-wide pair: both are fenced (R509). -/
def State.fenceSet (s : State) (n : Nat) : List Nat :=
  if s.siteYoke n = yokeWide then [n / 2 * 2, n / 2 * 2 + 1] else [n]

/-- A site is in service in its pen: it is live, doubled or a spare. -/
def State.inService (s : State) (n : Nat) : Bool :=
  decide (n < 168) && (decide (s.site n = siteActive) || decide (s.site n = siteDoubled) || decide (s.site n = siteSpare))

/-- The pack that a test ran: its seq, of which ERR_SITE_TEST keeps the low half (R545). -/
def State.packSeq (s : State) (n : Nat) : Nat :=
  let now := s.fld .errFtpStatus 0 32
  if now % 65536 = s.fld .errSiteTest 48 16 n then now else s.fld .errSiteTest 48 16 n

/-- The result of a failed test (R524, R545): SITE_TEST_FAIL, SITE_RETIRED, the class of the error weather. -/
def State.testFail (s : State) (p n pattern ms : Nat) (injected : Bool) : State :=
  let seq := s.packSeq n
  let s := (s.setFld .errSiteTest 0 2 2 n).setFld .errSiteTest 16 16 (min 65535 ms) n
  let s := (s.postPen p 262 0 [ef n, ef seq, ef ms, ef pattern]).post 0 262 0 [ef n, ef seq, ef ms, ef pattern]
  (s.retireSite p n 22 0).countEvent (bayOfSite n) 22 (n % 14) injected

/-- A permanent detector of a core site fires (R507, R509); one of the silent-error class also raises a silent error (R508).  The
failed-test detector fires on a live site only when it is injected (R531): the site is fenced and retired. -/
def execSiteFence (site detector : Nat) (s : State) : Out :=
  let p := s.penOfBay (bayOfSite site)
  let r := s.fireInjection detector (bayOfSite site) (site % 14)
  if !s.inService site || decide (p = 0) then .next s
  else if fencing detector then
    let s := r.1.countEvent (bayOfSite site) detector (site % 14) r.2
    let s := if detector = 5 ∨ detector = 8 then s.silentError detector (bayOfSite site) 0 p site else s
    .next (s.fenceSites p detector (s.fenceSet site))
  else if detector = 22 ∧ r.2 then
    let s := r.1.fenceSites p 22 (r.1.fenceSet site)
    .next ((s.testFail p site 0 0 true).refreshPower)
  else .next s

/-- The logical cores that wait for a site take one each, in ascending id (R58, R510, R511 order 5). -/
def execAdoptionDone (pen : Pen) (s : State) : Out :=
  match s.job pen with
  | none => .next s
  | some j =>
    if j.adopting.isEmpty then .next s
    else
      let s := (List.range 144).foldl (fun s l =>
        match (s.jobD pen).adopting.find? (fun x => decide (x.1 = l)) with
        | some x => if (s.job pen).isSome then s.adopt pen x.1 x.2 else s
        | none => s) s
      .next ((s.onJob pen (fun j => { j with adopting := [] })).refreshGrid pen)

/-- The end of an in-step replay, after its balance check (R511 order 9). -/
def execReplayDone (pen : Pen) (s : State) : Out :=
  match s.job pen with
  | none => .next s
  | some j =>
    match j.cur with
    | some a =>
      if j.replayRun ∧ a.phase = .sweepWait then
        let r := s.drawNat 64
        let s := r.2.postPen pen 258 a.step [ef a.step, ef r.1, ef j.suppressed, ef j.sentReplay]
        .next (s.onJob pen (fun j => { j with replayRun := false }))
      else .next s
    | none => .next s

/-- A detector that takes nothing out of service fires (R507, R515): NOC_PARITY, UPD_PARITY, XGL_AUTH and REPLAY_DIGEST set the
fault bit, DIGEST the digest bit, SPAD_CE is counted only. -/
def execFaultDetect (b : Fin 12) (detector : Nat) (dev : BitVec 16) (s : State) : Out :=
  let p := s.penOfBay b.val
  let r := match s.injection with
    | some i => if i.bay = b.val then s.fireInjection detector b.val i.unit else (s, false)
    | none => (s, false)
  let count (t : State) := t.countEvent b.val detector 0 r.2
  if detector = 1 then .next (count r.1)
  else if detector = 9 ∨ detector = 10 ∨ detector = 16 then .next ((count r.1).orStatus p stFault)
  else if detector = 17 then .next (((count r.1).silentError 17 b.val dev.toNat p dev.toNat).orStatus p stDigest)
  else if detector = 18 then .next (((count r.1).silentError 18 b.val dev.toNat p dev.toNat).orStatus p stFault)
  else .next s

/-- The two copies of a yoke-check pair differ (R67): both sites are fenced. -/
def execYokeCheckMismatch (pen : Pen) (logical : Nat) (s : State) : Out :=
  match (placeOf (s.jobD pen) logical).head?, s.checkerOf pen logical with
  | some n, some c =>
    let r := s.fireInjection 8 (bayOfSite n) (n % 14)
    let s := r.1.countEvent (bayOfSite n) 8 (n % 14) r.2
    let s := s.postPen pen 339 (s.stepOf pen) [ef n, ef c]
    let s := s.silentError 8 (bayOfSite n) 0 pen n
    .next (s.fenceSites pen 8 [n, c])
  | _, _ => .next s

/-- The result of a site's field test (R524). -/
def execSiteTestResult (site : Nat) (pass : Bool) (pattern ms : Nat) (s : State) : Out :=
  let p := s.penOfBay (bayOfSite site)
  if !(decide (site < 168) && decide (s.site site = siteUnderTest) && decide (s.fld .errSiteTest 0 2 site = 3)) then .next s
  else
    let s :=
      if pass then
        let seq := s.packSeq site
        let s := (s.setFld .errSiteTest 0 2 1 site).setFld .errSiteTest 16 16 (min 65535 ms) site
        let s := s.bump .errSiteTest 32 16 site
        let s := (s.postPen p 261 0 [ef site, ef seq, ef ms]).post 0 261 0 [ef site, ef seq, ef ms]
        if p = 0 then s.setSite site siteIdle 0xFF 0xFF yokeNone
        else if (s.job p).isNone then s.setSite site siteSpare 0xFF 0xFF yokeNone
        else s
      else s.testFail p site pattern ms false
    .next (if p = 0 then s.refreshPower else s.refreshGrid p)

/-! ### Injection (R531, R532) -/

/-- The detectors that name a site; a lane; a pseudo-channel. -/
def siteDetector (d : Nat) : Bool := (decide (1 ≤ d) && decide (d ≤ 8)) || decide (d = 22)
def laneDetector (d : Nat) : Bool := decide (13 ≤ d) && decide (d ≤ 15)
def memDetector (d : Nat) : Bool := decide (d = 11) || decide (d = 12)

/-- The unit that an injection names exists on the grade. -/
def State.unitExists (s : State) (d b u : Nat) : Bool :=
  s.bayPresent b &&
  (if siteDetector d then decide (u < 14) && decide (s.site (14 * b + u) ≠ siteAbsent)
   else if laneDetector d then decide (u < 8)
   else if memDetector d then decide (u < 64)
   else true)

/-- INJ_CTL.arm (R532, R547): the first refusal that applies; a count of 0 completes at once. -/
def execInjArm (fn : Func) (s : State) : Out :=
  let d := s.fld .injSel 0 8
  let b := s.fld .injSel 8 4
  let u := s.fld .injSel 16 8
  let n := s.fld .injSel 32 16
  let status (c : Nat) : Out := .next (s.setFld .injCtl 8 8 c)
  if fn.val ≠ 0 then .next s
  else if s.injection.isSome then status 1
  else if d = 0 ∨ 22 < d then status 2
  else if !s.unitExists d b u then status 3
  else if siteDetector d && decide (s.site (14 * b + u) = siteUnderTest) then status 4
  else
    let s := (s.setFld .injCtl 8 8 0).setFld .injCtl 16 16 0
    if n = 0 then .next s
    else .next { (s.setFld .injCtl 0 1 1) with injection := some { detector := d, bay := b, unit := u, left := n } }

/-- INJ_CTL.cancel (R532). -/
def execInjCancel (fn : Func) (s : State) : Out :=
  whenOk (decide (fn.val = 0) && s.injection.isSome) s
    { ((s.setFld .injCtl 0 1 0).setFld .injCtl 8 8 5) with injection := none }

end Sys2Proof.Machine
end

