-- ==== Sys2Proof/Machine/VoteEvents.lean ====
section
/-!
DEFINITION. The vote and the resync round as commands (R422, R446, R449, R519, R553).
-/

namespace Sys2Proof.Machine

/-! ### Votes (R446) -/

/-- A payload's step and attempt are those of an attempt. -/
def votesOn (a : Attempt) (v : Vote) : Bool := decide (a.step = v.step) && decide (a.attempt = v.attempt)

/-- A child's payload joins an attempt; a second one changes nothing. -/
def Attempt.addKid (a : Attempt) (rank : Nat) (v : Vote) : Attempt :=
  if a.kids.any (fun q => decide (q.1 = rank)) then a else { a with kids := a.kids ++ [(rank, v)] }

/-- A payload arrives from a child (R422, R446): it joins the attempt that it names, which may be one whose T0 has not passed
here; any other is discarded. -/
def State.voteUp (s : State) (pen rank : Nat) (v : Vote) : State :=
  match s.job pen with
  | none => s
  | some j =>
    if !(treeKids j.rank (j.ranksM1 + 1)).contains rank then s
    else
      let hit (o : Option Attempt) := match o with | some a => votesOn a v | none => false
      if hit j.voting then
        (s.onJob pen (fun j => { j with voting := j.voting.map (fun a => a.addKid rank v) })).voteMove pen
      else if hit j.cur then
        (s.onJob pen (fun j => { j with cur := j.cur.map (fun a => a.addKid rank v) })).voteMove pen
      else if v.step = j.nextStep ∧ v.attempt = SMap.get (fun _ => 0) j.attempts j.nextStep then
        s.onJob pen (fun j => { j with earlyKids := (j.earlyKids.filter (fun q => decide (q.1 ≠ rank))) ++ [(rank, v)] })
      else s

/-- The outcome arrives from the parent: it goes to the children first (R446). -/
def State.voteDown (s : State) (pen : Nat) (v : Vote) : State :=
  match s.job pen with
  | none => s
  | some j =>
    match votingAttempt j with
    | some a => if votesOn a v ∧ a.sentUp then ((s.forwardOutcome pen j (voteLine v)).applyOutcome pen v).voteMove pen else s
    | none => s

/-! ### The resync round (R449) -/

/-- The line of a resync payload: step and attempt. -/
def resyncLine (step attempt : Nat) : List Byte := fit 64 (le 8 step ++ le 4 attempt)

/-- The payload of this module: the step to come and its attempt number. -/
def ownResync (j : Job) : List Byte := resyncLine j.nextStep (SMap.get (fun _ => 0) j.attempts j.nextStep)

/-- The round moves on when this module has joined and every child's payload is in. -/
def State.resyncMove (s : State) (pen : Nat) : State :=
  match s.job pen with
  | none => s
  | some j =>
    if j.resyncSelf ∧ !j.resyncSent ∧ (treeKids j.rank (j.ranksM1 + 1)).all j.resyncKids.contains then
      let s := s.onJob pen (fun j => { j with resyncSent := true })
      if j.rank = 0 then
        (s.forwardOutcome pen j (ownResync j)).onJob pen (fun j => { j with resyncOut := true })
      else s.sendVote pen (treeParent j.rank) (ownResync j)
    else s

/-- Joins the round once nothing holds the module back: its messages are acknowledged and its shard file is written (R449,
R553). -/
def State.joinResync (s : State) (pen : Nat) : State :=
  match s.job pen with
  | none => s
  | some j =>
    if j.draining ∨ j.resyncSelf ∨ (j.holdRound ∧ (j.ckpt.isSome ∨ j.ckptRun.isSome)) then s
    else
      ((s.onJob pen (fun j => { j with resync := true, resyncSelf := true })).setFld .updJob 7 1 1 (pen - 1)).resyncMove pen

/-- A resync payload of a child. -/
def State.resyncUp (s : State) (pen rank : Nat) : State :=
  match s.job pen with
  | none => s
  | some j =>
    if (treeKids j.rank (j.ranksM1 + 1)).contains rank ∧ !j.resyncKids.contains rank then
      (s.onJob pen (fun j => { j with resyncKids := j.resyncKids ++ [rank] })).resyncMove pen
    else s

/-- The round's outcome from the parent. -/
def State.resyncDown (s : State) (pen : Nat) : State :=
  match s.job pen with
  | none => s
  | some j =>
    if j.resyncSent ∧ !j.resyncOut then
      (s.forwardOutcome pen j (ownResync j)).onJob pen (fun j => { j with resyncOut := true })
    else s

/-- A vote message reaches the update controller (R446). -/
def State.voteIn (s : State) (pen : Nat) (src : VoteSrc) (pay : VotePayload) : State :=
  match src, pay with
  | .child r, .vote v => s.voteUp pen r v
  | .parent, .vote v => s.voteDown pen v
  | .child r, .resync _ _ => s.resyncUp pen r
  | .parent, .resync _ _ => s.resyncDown pen

def execVoteReceive (pen : Pen) (src : VoteSrc) (pay : VotePayload) (s : State) : Out := .next (s.voteIn pen src pay)

/-- The drain of a skip or a rewind is complete: every message sent for the job is acknowledged (R449 orders 4 and 5). -/
def execSendDrainComplete (pen : Pen) (s : State) : Out :=
  match s.job pen with
  | none => .next s
  | some j =>
    whenOk (j.draining && drained j) s ((s.onJob pen (fun j => { j with draining := false })).joinResync pen)

/-- The round is over (R449 order 6): a new attempt may start.  What discarded attempts had sent counts nowhere (R415), their early
chunks included. -/
def execResyncDone (pen : Pen) (s : State) : Out :=
  match s.job pen with
  | none => .next s
  | some j =>
    whenOk j.resyncOut s
      (let s := s.onGroups pen (fun x => { x with chunks := [], order := [], total := 0 })
       let s := s.onJob pen (fun j => { j with resync := false, resyncSelf := false, resyncSent := false, resyncOut := false,
                                               resyncKids := [], rxXfers := [], rxHeld := [], holdRound := false, statusNext := 0#64 })
       s.setFld .updJob 7 1 0 (pen - 1))

/-- The rank that a module waits for: its first child whose payload is missing, else its parent (R519). -/
def awaitedRank (j : Job) (a : Attempt) : Nat :=
  ((treeKids j.rank (j.ranksM1 + 1)).find? (fun k => !a.kids.any (fun q => decide (q.1 = k)))).getD (treeParent j.rank)

/-- The vote has run out of time (R519): the job ends with MODULE_LOST and the rank it waited for. -/
def execVoteTimeout (pen : Pen) (s : State) : Out :=
  match s.job pen with
  | none => .next s
  | some j =>
    match votingAttempt j with
    | some a =>
      whenOk (decide (s.fld .errPolicy 8 8 ≠ 0)) s
        (s.jobEnd pen evModuleLost [ef (awaitedRank j a)] (some a) (a.status ||| stFault ||| stTerminal))
    | none => .next s

end Sys2Proof.Machine
end

