-- ==== Sys2Proof/Machine/Checkpoint.lean ====
section
/-!
DEFINITION. Checkpoint and restore (R548 to R571): arming, the shard file and its writing, its end, buddy receives, and the restore
of shard files into bank 0.
-/

namespace Sys2Proof.Machine

/-! ### Arming (R550, R551) -/

/-- The module has sent its status word for a step, or gone past it. -/
def wordGone (j : Job) (step : Nat) : Bool :=
  let past (o : Option Attempt) : Bool := match o with
    | some a => decide (step < a.step) || (decide (a.step = step) && a.wordSent)
    | none => false
  decide (step < j.decided) || past j.voting || past j.cur

/-- The pairs of address and length in a parameter block (R628). -/
def bufferList (bs : List Byte) : List (Nat × Nat) :=
  (List.range (bs.length / 16)).map (fun i => (fieldAt bs (16 * i) 8, fieldAt bs (16 * i + 8) 8))

/-- CKPT_ARM (R550, R551). -/
def execCkptArm (ring : Ring) (s : State) : Out :=
  s.serve ring.val 11 (fun c s => withJob c s (fun j =>
    let step := c.word 0x18
    let buddy := decide (c.aux % 2 = 1)
    let narrow := decide (c.aux / 2 % 2 = 1)
    if s.fld .updJob 0 2 (c.pen - 1) = 3 then plain s (rsCkpt 3)
    else if wordGone j step then plain s (rsCkpt 1)
    else if j.ckptRun.isSome || (match j.ckpt with | some a => decide (a.step ≠ step) | none => false) then plain s (rsCkpt 2)
    else
      let a : CkptArm := { step := step, buddy := buddy, buddyDev := fieldAt c.body 0x10 2, dedup := fieldAt c.body 0x12 1,
                           narrow := narrow, ring := ring.val, buffers := bufferList c.params }
      let s := s.onJob c.pen (fun j => { j with ckpt := some a })
      let s := (s.setFld .updCkpt 0 2 1 (c.pen - 1)).setFld .updCkpt 2 1 (if buddy then 1 else 0) (c.pen - 1)
      plain ((s.setFld .updCkpt 3 1 (if narrow then 1 else 0) (c.pen - 1)).setFld .updCkpt 8 56 step (c.pen - 1)) rsOk))

/-- BUDDY_RECEIVE (R559): refused while a valid window entry reaches VA 2^47; a module without a BUDDY region has no room. -/
def execBuddyReceive (ring : Ring) (s : State) : Out :=
  s.serve ring.val 12 (fun c s => withJob c s (fun j =>
    if j.buddy.isNone then plain s (rsCkpt 6)
    else if (s.pen c.pen).active.any (fun kv => let e := winEntry kv.2; e.valid && decide (2 ^ 47 < e.lo + e.span)) then plain s (rsCkpt 8)
    else
      let dev := fieldAt c.body 0 2
      plain ((s.onJob c.pen (fun j => { j with buddyFrom := some dev })).setFld .updCkpt 4 1 1 (c.pen - 1)) rsOk))

/-! ### The shard file (R554 to R556) -/

/-- Bytes filled with zeros to a multiple of 4 KiB. -/
def pageFill (bs : List Byte) : List Byte := bs ++ zeros ((4096 - bs.length % 4096) % 4096)

/-- The moment format as stored (R561). -/
def storedFmt (narrow : Bool) (t : TensorRec) : Fmt := if narrow && decide (t.mfmt = .fp32) then .bf16 else t.mfmt

/-- A moment as stored: narrowed by to_float with RNE and without saturation (R561). -/
def narrowElem (w : Elem) : Elem := (convert { strict := true, rm := .rne } .bf16 .fp32 false 0 w).1

/-- The values of a moment bank as stored. -/
def State.savedMoments (s : State) (pen va : Nat) (narrow : Bool) (t : TensorRec) : List Byte :=
  let xs := s.readStream pen va t.mfmt t.elems
  if narrow && decide (t.mfmt = .fp32) then streamBytes .bf16 (xs.map (fun x => (narrowElem x.1, x.2))) else streamBytes t.mfmt xs

/-- What a PARAM record saves from a bank: parameters, first moments, second moments or nothing. -/
def State.savedRecord (s : State) (pen bank : Nat) (narrow : Bool) (t : TensorRec) : List Byte × List Byte × List Byte :=
  (streamBytes t.pfmt (s.readStream pen (bankVa t.paramVa bank) t.pfmt t.elems),
   s.savedMoments pen (bankVa t.mVa bank) narrow t,
   if usesV t then s.savedMoments pen (bankVa t.vVa bank) narrow t else [])

/-- The poison of the bytes that a stream of elements of a size saves, filled to whole pages (R318). -/
def pageBad (size : Nat) (xs : List SElem) : List Bool :=
  let bs := xs.flatMap (fun x => List.replicate size x.2)
  bs ++ List.replicate ((4096 - bs.length % 4096) % 4096) false

/-- The poison of the bytes that a PARAM record saves from a bank. -/
def State.savedBad (s : State) (pen bank : Nat) (narrow : Bool) (t : TensorRec) : List Bool :=
  let sz := if narrow && decide (t.mfmt = .fp32) then 2 else fmtSize t.mfmt
  pageBad (fmtSize t.pfmt) (s.readStream pen (bankVa t.paramVa bank) t.pfmt t.elems) ++
  pageBad sz (s.readStream pen (bankVa t.mVa bank) t.mfmt t.elems) ++
  (if usesV t then pageBad sz (s.readStream pen (bankVa t.vVa bank) t.mfmt t.elems) else [])

/-- The reads of a record that a checkpoint saves (R311, R316). -/
def State.noteSaved (s : State) (pen bank : Nat) (ti : TensorRec × Nat) : State :=
  let t := ti.1
  let sc := bankVa (s.jobD pen).plan.scalarVa bank + 16 * ti.2
  if t.isMetric then s.noteVa pen sc 16
  else
    let s := ((s.noteVa pen (bankVa t.paramVa bank) (t.elems * fmtSize t.pfmt)).noteVa pen (bankVa t.mVa bank) (t.elems * fmtSize t.mfmt))
    (if usesV t then s.noteVa pen (bankVa t.vVa bank) (t.elems * fmtSize t.mfmt) else s).noteVa pen sc 16

/-- The tuple of a record in the exchange of R557. -/
def recTuple (ix : Nat) (narrow : Bool) (t : TensorRec) (d : List Byte × List Byte × List Byte) : DedupTuple :=
  let f := storedFmt narrow t
  { member := 0, record := ix, indexBase := t.indexBase, elems := t.elems, dParam := tensorDigest ix roleParam t t.pfmt d.1,
    dM1 := tensorDigest ix roleMoment1 t f d.2.1, dM2 := if usesV t then tensorDigest ix roleMoment2 t f d.2.2 else 0#64 }

/-- Two tuples are equal in what R557 compares; they are of one shard. -/
def sameTuple (a b : DedupTuple) : Bool :=
  decide (a.indexBase = b.indexBase) && decide (a.elems = b.elems) && decide (a.dParam = b.dParam) && decide (a.dM1 = b.dM1) && decide (a.dM2 = b.dM2)
def sameShard (a b : DedupTuple) : Bool := decide (a.indexBase = b.indexBase) && decide (a.elems = b.elems)

/-- The dedup group of a checkpoint with this module's member index, when the group is valid and the module is in it (R557). -/
def dedupGroup (j : Job) (c : CkptArm) : Option (GroupRec × Nat) :=
  let g := groupRec j c.dedup
  if c.dedup < 64 ∧ g.valid then (g.memberOf j.rank).map (fun m => (g, m)) else none

/-- The rank that a record refers to: that of the lowest member below this one with an equal tuple (R557). -/
def refRank (g : GroupRec) (own : Nat) (peers : List DedupTuple) (t : DedupTuple) : Option Nat :=
  ((List.range own).find? (fun m => peers.any (fun q => decide (q.member = m) && decide (q.record = t.record) && sameTuple q t))).map g.rankOf

/-- The members whose tuples for a record differ from this module's for the same shard. -/
def differing (peers : List DedupTuple) (t : DedupTuple) : List Nat :=
  (peers.filter (fun q => decide (q.record = t.record) && sameShard q t && !sameTuple q t)).map DedupTuple.member

/-- Every other member has sent its tuple for every PARAM record. -/
def dedupReady (j : Job) (c : CkptArm) (peers : List DedupTuple) : Bool :=
  match dedupGroup j c with
  | none => true
  | some (g, own) => (otherMembers g own).all (fun m => (j.plan.recs.zip (List.range j.plan.recs.length)).all (fun ti =>
      ti.1.isMetric || peers.any (fun q => decide (q.member = m) && decide (q.record = ti.2))))

/-- A record entry (R555): index, form, formats, reference, range, data offset, digests, scalar state. -/
def recEntry (ix form : Nat) (narrow : Bool) (t : TensorRec) (ref dataOff : Nat) (d : DedupTuple) (scalar : List Byte) : List Byte :=
  fit 80 (le 2 ix ++ le 1 form ++ le 1 (Fmt.code t.pfmt + 16 * (if t.isMetric then 0 else Fmt.code (storedFmt narrow t))) ++ le 2 ref ++
    zeros 2 ++ le 8 t.indexBase ++ le 8 t.elems ++ le 8 dataOff ++ le 8 d.dParam.toNat ++ le 8 d.dM1.toNat ++ le 8 d.dM2.toNat ++ fit 16 scalar)

/-- A shard file as it is put together: its entries, its data from the first data page on with the poison of each byte, the DATA records, the records whose
replicas differ. -/
structure Shard where
  entries : List (List Byte) := []
  data : List Byte := []
  bad : List Bool := []
  dataRecords : Nat := 0
  diverged : List (Nat × List Nat) := []
  deriving DecidableEq, Repr

/-- One record joins the file (R555, R557). -/
def State.shardRecord (s : State) (pen bank base : Nat) (c : CkptArm) (peers : List DedupTuple) (x : Shard) (ti : TensorRec × Nat) : Shard :=
  let j := s.jobD pen
  let t := ti.1
  let scalar := s.vaRead pen (bankVa j.plan.scalarVa bank + 16 * ti.2) 16
  if t.isMetric then
    let none_ : DedupTuple := { member := 0, record := ti.2, indexBase := 0, elems := 0, dParam := 0#64, dM1 := 0#64, dM2 := 0#64 }
    { x with entries := x.entries ++ [recEntry ti.2 3 c.narrow t 0 0 none_ scalar] }
  else
    let d := s.savedRecord pen bank c.narrow t
    let tup := recTuple ti.2 c.narrow t d
    let ref := match dedupGroup j c with | some (g, own) => refRank g own peers tup | none => none
    let div := match dedupGroup j c with
      | some (g, _) => (differing peers tup).map g.rankOf
      | none => []
    let x := if div.isEmpty then x else { x with diverged := x.diverged ++ [(ti.2, div)] }
    match ref with
    | some r => { x with entries := x.entries ++ [recEntry ti.2 2 c.narrow t r 0 tup scalar] }
    | none =>
      let off := base + x.data.length
      { x with entries := x.entries ++ [recEntry ti.2 1 c.narrow t 0 off tup scalar],
               data := x.data ++ pageFill d.1 ++ pageFill d.2.1 ++ pageFill d.2.2,
               bad := x.bad ++ s.savedBad pen bank c.narrow t, dataRecords := x.dataRecords + 1 }

/-- The identifier of a checkpoint (R556). -/
def ckptIdOf (next : Nat) (fp : List Byte) (narrow : Bool) : List Byte := sha256 (le 8 next ++ fit 32 fp ++ le 1 (bitIf narrow 0))

/-- The header of a shard file (R554). -/
def shardHeader (j : Job) (c : CkptArm) (count : Nat) : List Byte :=
  let n := c.step + 1
  let seed := (seedAt j n).getD { first := 0, seed := 0#64, drawn := false }
  fit 256 (le 4 0x53434541 ++ le 2 1 ++ le 1 (bitIf c.narrow 0) ++ [0#8] ++ le 8 n ++ fit 32 j.startFp ++ ckptIdOf n j.startFp c.narrow ++
    fit 32 j.programHash ++ le 2 j.rank ++ le 2 j.ranksM1 ++ le 2 count ++ zeros 2 ++ le 8 seed.seed.toNat ++ le 8 seed.first)

/-- The bytes of header, record table and seal, filled to the first data page (R555). -/
def shardBase (count : Nat) : Nat := (256 + 80 * count + 32 + 4095) / 4096 * 4096

/-- The whole file, and what its making showed. -/
def State.shardFile (s : State) (pen : Nat) (c : CkptArm) (peers : List DedupTuple) : List Byte × Shard :=
  let j := s.jobD pen
  let n := j.plan.recs.length
  let bank := s.fld .updJob 2 1 (pen - 1)
  let x := (j.plan.recs.zip (List.range n)).foldl (s.shardRecord pen bank (shardBase n) c peers) {}
  let head := shardHeader j c n ++ x.entries.flatten
  (fit (shardBase n) (head ++ sha256 head) ++ x.data, x)

/-! ### Writing (R553, R557 to R559) -/

/-- A checkpoint ends on this module with a status: CKPT_DONE, the registers of the latest checkpoint (R567, R570, R571), and the
resync round (R553). -/
def State.ckptEnd (s : State) (pen : Nat) (c : CkptArm) (status bytes : Nat) (id : List Byte) (records : Nat) : State :=
  let s := s.postCkptDone pen c.step status bytes id
  let s := ((s.setFld .updCkpt 0 2 0 (pen - 1)).setFld .updCkptStat 16 16 records (pen - 1)).setFree .updCkptStat 32 32 (pen - 1)
  (s.onJob pen (fun j => { j with ckpt := none, ckptRun := none })).joinResync pen

/-- A close of the checkpoint's step lists a member that the policy carries into the next (R549). -/
def carries (j : Job) : Bool :=
  j.groupRx.any (fun kv => kv.2.next && kv.2.closed && (!kv.2.late.isEmpty || !kv.2.carriedNext.isEmpty))

/-- Bytes written into a list of host buffers in file order, plain or in bounce units. -/
def State.toBuffers (fn ring : Nat) : List (Nat × Nat) → State → List Byte → State
  | [], s, _ => s
  | b :: t, s, bs => State.toBuffers fn ring t (s.toHost fn ring b.1 none (bs.take b.2)).1 (bs.drop b.2)

/-- The outcome of a checkpoint's step is known and nothing has been written yet. -/
def ckptDue (j : Job) : Option CkptArm :=
  match j.ckpt with
  | some c => if c.step < j.decided ∧ j.ckptRun.isNone ∧ j.cur.isNone then some c else none
  | none => none

/-- The shard file is written after the outcome of its step (R553, R557 to R559): a carried contribution or a file without room ends
the checkpoint before any byte moves.  The header goes last. -/
def execCkptWrite (pen : Pen) (peers : List DedupTuple) (s : State) : Out :=
  match s.job pen with
  | none => .next s
  | some j =>
    match ckptDue j with
    | none => .next s
    | some c =>
      if carries j then .next (s.ckptEnd pen c 4 0 [] 0)
      else if !dedupReady j c peers then .next s
      else
        let f := s.shardFile pen c peers
        let marks := List.replicate (f.1.length - f.2.data.length) false ++ f.2.bad
        let room := if c.buddy then (match j.buddy with | some r => regionSize r / 2 | none => 0) else (c.buffers.map Prod.snd).sum
        if room < f.1.length then .next (s.ckptEnd pen c 6 0 [] 0)
        else
          let s := (j.plan.recs.zip (List.range j.plan.recs.length)).foldl (fun s ti => s.noteSaved pen (s.fld .updJob 2 1 (pen - 1)) ti) s
          let s := f.2.diverged.foldl (fun s d => s.postPen pen 273 c.step (ef d.1 :: d.2.map ef)) s
          let s := if f.2.diverged.isEmpty then s else s.setFld .updCkptStat 8 1 1 (pen - 1)
          let s := if c.buddy then
              let va := 2 ^ 47 + j.buddySlot * room
              let bs := f.1.zip marks
              (s.remoteWrite pen c.buddyDev (va + 4096) (bs.drop 4096)).remoteWrite pen c.buddyDev va (bs.take 4096)
            else State.toBuffers pen c.ring c.buffers s f.1
          let run : CkptRun := { arm := c, ckptId := ckptIdOf (c.step + 1) j.startFp c.narrow, status := if f.2.diverged.isEmpty then 0 else 5,
                                 bytes := f.1.length, dataRecords := f.2.dataRecords }
          let s := s.onJob pen (fun j => { j with ckptRun := some run, buddySlot := if c.buddy then 1 - j.buddySlot else j.buddySlot })
          .next (s.setFld .updCkpt 0 2 2 (pen - 1))

/-- Every byte of the checkpoint is performed at its destination (R560). -/
def execCkptComplete (pen : Pen) (s : State) : Out :=
  match s.job pen with
  | none => .next s
  | some j =>
    match j.ckptRun with
    | none => .next s
    | some r => whenOk (!r.arm.buddy || drained j) s (s.ckptEnd pen r.arm r.status r.bytes r.ckptId r.dataRecords)

/-- A buddy that does not acknowledge within t_xgl_e2e (R560): the job continues. -/
def execCkptBuddyTimeout (pen : Pen) (s : State) : Out :=
  match s.job pen with
  | none => .next s
  | some j =>
    match j.ckptRun with
    | none => .next s
    | some r => whenOk (r.arm.buddy && !drained j) s (s.ckptEnd pen r.arm 7 r.bytes r.ckptId r.dataRecords)

/-! ### Restore (R562 to R564) -/

/-- A record entry of a file, read by its fields (R555). -/
structure FileRec where
  index : Nat
  form : Nat
  pfmt : Nat
  mfmt : Nat
  indexBase : Nat
  elems : Nat
  dataOff : Nat
  /-- The file offset of its scalar entry. -/
  scalarOff : Nat
  deriving DecidableEq, Repr

def fileRec (bs : List Byte) (i : Nat) : FileRec :=
  let o := 256 + 80 * i
  { index := fieldAt bs o 2, form := fieldAt bs (o + 2) 1, pfmt := fieldAt bs (o + 3) 1 % 16, mfmt := fieldAt bs (o + 3) 1 / 16,
    indexBase := fieldAt bs (o + 8) 8, elems := fieldAt bs (o + 0x10) 8, dataOff := fieldAt bs (o + 0x18) 8, scalarOff := o + 0x38 }

/-- The file's record count, and its seal verifies (R555, R563). -/
def fileCount (bs : List Byte) : Nat := fieldAt bs 0x74 2
def fileSealed (bs : List Byte) : Bool :=
  let n := 256 + 80 * fileCount bs
  decide (n + 32 ≤ bs.length) && decide (fieldAt bs 0 4 = 0x53434541) && decide (fieldAt bs 4 2 = 1) && decide (sha256 (bs.take n) = slice bs n 32)

/-- The file is narrow. -/
def fileNarrow (bs : List Byte) : Bool := decide (fieldAt bs 6 1 % 2 = 1)

/-- The DATA entries whose index names a PARAM record of the plan. -/
def fileUses (p : Plan) (bs : List Byte) : List (FileRec × TensorRec) :=
  ((List.range (fileCount bs)).map (fileRec bs)).filterMap (fun e =>
    match p.recs[e.index]? with
    | some t => if e.form = 1 ∧ !t.isMetric then some (e, t) else none
    | none => none)

/-- The formats of an entry fit its record (R563). -/
def formatFits (narrow : Bool) (e : FileRec) (t : TensorRec) : Bool :=
  decide (e.pfmt = Fmt.code t.pfmt) &&
  (decide (e.mfmt = Fmt.code t.mfmt) || (narrow && decide (e.mfmt = Fmt.code .bf16) && decide (t.mfmt = .fp32)))

/-- The logical elements that an entry and a record share: first and end. -/
def shared (e : FileRec) (t : TensorRec) : Nat × Nat := (max e.indexBase t.indexBase, min (e.indexBase + e.elems) (t.indexBase + t.elems))
def sharedLen (e : FileRec) (t : TensorRec) : Nat := (shared e t).2 - (shared e t).1

/-- The restored counts with an entry added; none where a count would pass the record's elements (R563). -/
def addCount (acc : Option (SMap Nat)) (et : FileRec × TensorRec) : Option (SMap Nat) :=
  match acc with
  | none => none
  | some m =>
    let n := SMap.get (fun _ => 0) m et.1.index + sharedLen et.1 et.2
    if et.2.elems < n then none else some (SMap.set (fun _ => 0) m et.1.index n)

/-- The size of an array of an entry's elements in the file, in whole pages. -/
def fileArray (elems size : Nat) : Nat := (elems * size + 4095) / 4096 * 4096

/-- A part of a file with the poison of its bytes; bytes past its end are zero. -/
def filePart (bs : List (Byte × Bool)) (off n : Nat) : List (Byte × Bool) :=
  let p := (bs.drop off).take n
  p ++ List.replicate (n - p.length) (0#8, false)

/-- The shared moments of an entry from a file offset, widened where they are narrow (R561). -/
def fileMoments (bs : List (Byte × Bool)) (e : FileRec) (t : TensorRec) (off : Nat) : List (Byte × Bool) :=
  let sz := if e.mfmt = Fmt.code t.mfmt then fmtSize t.mfmt else 2
  let raw := filePart bs (off + ((shared e t).1 - e.indexBase) * sz) (sharedLen e t * sz)
  if e.mfmt = Fmt.code t.mfmt then raw
  else (chunks 2 raw).flatMap (fun c => List.replicate 2 (0#8, c.any Prod.snd) ++ c)

/-- One entry is written into bank 0, and its scalar entry copied, with the poison of what was read (R318, R563). -/
def State.restoreEntry (s : State) (pen : Nat) (bs : List (Byte × Bool)) (et : FileRec × TensorRec) : State :=
  let e := et.1
  let t := et.2
  let at_ := (shared e t).1 - t.indexBase
  let psz := fmtSize t.pfmt
  let msz := fmtSize t.mfmt
  let stored := if e.mfmt = Fmt.code t.mfmt then msz else 2
  let mOff := e.dataOff + fileArray e.elems psz
  let vOff := mOff + fileArray e.elems stored
  let s := s.vaStoreBad pen (t.paramVa.1 + at_ * psz) (filePart bs (e.dataOff + ((shared e t).1 - e.indexBase) * psz) (sharedLen e t * psz))
  let s := s.vaStoreBad pen (t.mVa.1 + at_ * msz) (fileMoments bs e t mOff)
  let s := if usesV t then s.vaStoreBad pen (t.vVa.1 + at_ * msz) (fileMoments bs e t vOff) else s
  s.vaStoreBad pen ((s.jobD pen).plan.scalarVa.1 + 16 * e.index) (filePart bs e.scalarOff 16)

/-- The ranges of bank 0 that an entry is written to translate. -/
def State.restoreCause (s : State) (pen : Nat) (et : FileRec × TensorRec) : Option Nat :=
  let t := et.2
  s.rangeCause pen true t.paramVa.1 (t.elems * fmtSize t.pfmt) <|> s.rangeCause pen true t.mVa.1 (t.elems * fmtSize t.mfmt) <|>
  (if usesV t then s.rangeCause pen true t.vVa.1 (t.elems * fmtSize t.mfmt) else none)

/-- The bytes of a restore's source, each with its poison: the host buffers in order, or a valid BUDDY slot (R318, R563). -/
def State.restoreSource (s : State) (c : Inflight) (ring : Nat) (j : Job) : State × Except Nat (List (Byte × Bool)) :=
  if c.aux = 0 then
    (bufferList c.params).foldl (fun acc b =>
      match acc.2 with
      | .error e => (acc.1, .error e)
      | .ok bs =>
        let r := acc.1.fromHost c.fn ring b.1 b.2
        match r.2 with
        | .error e => (r.1, .error e)
        | .ok d => (r.1, .ok (bs ++ d.map (fun b => (b, false))))) (s, .ok [])
  else match j.buddy with
    | some r =>
      let off := (c.aux - 1) * (regionSize r / 2)
      let n := regionSize r / 2
      if s.fld .updCkpt (4 + c.aux) 1 (c.pen - 1) = 1 then
        (s.noteRegion r off n, .ok ((s.regionRead r off n).zip (s.regionBad r off n)))
      else (s, .error (rsCkpt 10))
    | none => (s, .error (rsCkpt 10))

/-- What a restore has gathered with one more file. -/
def Restore.addFile (x : Restore) (bs : List Byte) (counts : SMap Nat) : Restore :=
  let id := slice bs 0x30 32
  let next := fieldAt bs 8 8
  { counts := counts, ckptId := id, nextStep := next, stateFp := slice bs 0x10 32, narrow := fileNarrow bs, used := x.used + 1,
    mixed := x.mixed || (decide (x.used ≠ 0) && (decide (x.ckptId ≠ id) || decide (x.nextStep ≠ next))) }

/-- RESTORE (R562, R563): a reserved source is refused before the job is looked for (R16, R711). -/
def execRestore (ring : Ring) (s : State) : Out :=
  s.serve ring.val 13 (fun c s => if 2 < c.aux then plain s rsReserved else withJob c s (fun j =>
    if firstT0 j then plain s (rsCkpt 9)
    else
      let r := s.restoreSource c ring.val j
      match r.2 with
      | .error e => plain r.1 e
      | .ok src =>
        let s := r.1
        let bs := src.map Prod.fst
        let x := j.restore.getD {}
        if !fileSealed bs then plain s (rsCkpt 10)
        else
          let uses := fileUses j.plan bs
          if uses.any (fun et => !formatFits (fileNarrow bs) et.1 et.2) then plain s (rsCkpt 11)
          else match uses.foldl addCount (some x.counts) with
            | none => plain s (rsCkpt 12)
            | some counts =>
              match uses.findSome? (s.restoreCause c.pen) with
              | some k => plain s (if k = causeWindowMiss then rsWindowMiss else rsWindowPerm)
              | none =>
                let s := uses.foldl (fun s et => s.restoreEntry c.pen src et) s
                let s := s.onJob c.pen (fun j => { j with restore := some (x.addFile bs counts) })
                plain (s.setFld .updCkpt 0 2 3 (c.pen - 1)) rsOk))

/-- The parameter and the optimiser-state digest of bank 0 (R486, R564). -/
def State.bankDigests (s : State) (pen : Nat) (p : Plan) : Word64 × Word64 :=
  (p.recs.zip (List.range p.recs.length)).foldl (fun acc ti =>
    let t := ti.1
    if t.isMetric || !t.fpOwner then acc
    else
      let d := s.savedRecord pen 0 false t
      let u := recTuple ti.2 false t d
      let sc := if t.indexBase = 0 then rangeDigest (blockIndex ti.2 roleScalar 0) (s.vaRead pen (p.scalarVa.1 + 16 * ti.2) 16) else 0#64
      (acc.1 ^^^ u.dParam, acc.2 ^^^ u.dM1 ^^^ u.dM2 ^^^ sc)) (0#64, 0#64)

/-- RESTORE_FINISH (R564).  The words of the other modules' digests come as pairs of a parameter and an optimiser-state word. -/
def execRestoreFinish (ring : Ring) (peers : List Word64) (s : State) : Out :=
  s.serve ring.val 14 (fun c s => withJob c s (fun j =>
    let x := j.restore.getD {}
    if firstT0 j then plain s (rsCkpt 9)
    else if (j.plan.recs.zip (List.range j.plan.recs.length)).any (fun ti =>
        !ti.1.isMetric && decide (SMap.get (fun _ => 0) x.counts ti.2 ≠ ti.1.elems)) then plain s (rsCkpt 13)
    else if x.mixed ∨ x.nextStep ≠ j.plan.startStep then plain s (rsCkpt 14)
    else if fit 32 j.startFp ≠ (if x.narrow then x.ckptId else x.stateFp) then plain s (rsCkpt 15)
    else
      let own := s.bankDigests c.pen j.plan
      let pick (k : Nat) (w : Word64) : Word64 := ((peers.zip (List.range peers.length)).filter (fun q => decide (q.2 % 2 = k))).foldl (fun a q => a ^^^ q.1) w
      if (pick 0 own.1).toNat ≠ fieldAt x.stateFp 0 8 ∨ (!x.narrow ∧ (pick 1 own.2).toNat ≠ fieldAt x.stateFp 8 8) then plain s (rsCkpt 16)
      else
        let s := s.onJob c.pen (fun j => { j with restore := none, lineage := if x.narrow then some x.stateFp else j.lineage })
        let s := (s.setFld .updJob 2 1 0 (c.pen - 1)).setFld .updCkpt 0 2 0 (c.pen - 1)
        plain (s.postPen c.pen 274 x.nextStep [ef x.nextStep, .d x.ckptId, ef (bitIf x.narrow 0)]) rsOk))

end Sys2Proof.Machine
end

