-- ==== Sys2Proof/Machine/Control.lean ====
section
/-!
DEFINITION. The rest of the control slot: branches and hardware loops (R239, R240), signals, waits and fences (R241, R242,
R290), control registers (R259 to R262, R188 to R191, R219 to R223) and the end of a program (R265).
-/

namespace Sys2Proof.Machine

/-! ### Branches and loops -/

def execBr (u : CoreRef) (target : BitVec 32) (s : State) : Out :=
  s.issue (.br u target) u slotControl (fun c => s.put u { c with npc := target.toNat })

/-- The branch conditions (R239). -/
def condHolds (k : BrCond) (a b : Word64) : Bool :=
  match k with
  | .eq => decide (a = b)
  | .ne => decide (a ≠ b)
  | .lt => a.slt b
  | .ge => !a.slt b
  | .ltu => a.ult b
  | .geu => !a.ult b

def execBc (u : CoreRef) (cond : BrCond) (ra rb : SReg) (target : BitVec 32) (s : State) : Out :=
  s.issue (.bc u cond ra rb target) u slotControl (fun c =>
    if c.rf0.sBad ra || c.rf0.sBad rb then s.faultAt u c slotControl causePoisonControl
    else if condHolds cond (c.rf0.sGet ra) (c.rf0.sGet rb) then s.put u { c with npc := target.toNat }
    else s.put u c)

/-- `lbeg` (R240): the copy of the descriptor is checked, tier L1; with no position the body is skipped; else the loop starts
with iteration 0.  The loader refuses a length of 0 and a fifth nested loop. -/
def execLbeg (u : CoreRef) (dslot : DSlot) (sd sb : SReg) (len : BitVec 16) (s : State) : Out :=
  s.issueIf (decide (len ≠ 0#16) && decide (sd.val < 48)) (.lbeg u dslot sd sb len) u slotControl (fun c =>
    let d := c.rf0.dGet dslot
    let base := c.rf0.sGet sb
    if c.rf0.sBad sb then s.faultAt u c slotControl causePoisonControl
    else if descCauseTier d 1 ≠ none then s.faultAt u c slotControl causeLoopDesc
    else if (descOf d).total = 0 then s.put u { c with npc := c.pc + 1 + len.toNat }
    else
      let f : LoopFrame := { body := c.pc + 1, len := len.toNat, desc := d, base := base, sd := sd, iter := 0,
                             total := (descOf d).total }
      let c := { c with loops := f :: c.loops }
      s.put u (c.onRf (fun rf => rf.sSet sd (base + BitVec.ofInt 64 (walkOffset (descOf d) 0)) false)))

/-! ### Signals, waits and fences -/

/-- `sig.add` (R241, R280): to the core itself the counter changes at once; to another core a packet goes into the network
(R282; DEDUCED, log entry 21). -/
def execSigAdd (u : CoreRef) (self : Bool) (ctr : BitVec 8) (rt : SReg) (imm : BitVec 32) (s : State) : Out :=
  s.issue (.sigAdd u self ctr rt imm) u slotControl (fun c =>
    let t := if self then u.logical else (c.rf0.sGet rt).toNat
    if !self && c.rf0.sBad rt then s.faultAt u c slotControl causePoisonControl
    else if !(targetOk (s.jobD u.pen) t && s.granted u.pen t ctr.toNat) then s.faultAt u c slotControl causeSigTarget
    else
      let s := s.put u c
      if t = u.logical then s.applySignal u.pen t ctr.toNat imm
      else { s with packets := s.packets ++
        [{ pen := u.pen, src := u.logical, dst := t, body := .signal, sig := some (ctr.toNat, imm), injected := false }] })

/-- A core has passed its vote gate: a `wait.ge` on the plan's gate counter has issued (R433); with the last core of the job the
backward phase begins (R432). -/
def State.passGate (s : State) (u : CoreRef) (ctr : Nat) (isEq : Bool) : State :=
  if !isEq && decide (ctr = (s.jobD u.pen).plan.gateCtr) then
    s.onJob u.pen (fun j => { j with cur := j.cur.map (fun a =>
      let past := if a.pastGate.contains u.logical then a.pastGate else a.pastGate ++ [u.logical]
      { a with pastGate := past,
               phase := if a.phase = .forward ∧ (s.jobCores u.pen).all past.contains then .backward else a.phase }) })
  else s

/-- The condition of a wait (R242). -/
def Core.waitHolds (c : Core) (ctr : Nat) (isEq : Bool) (val : Word32) : Bool :=
  if isEq then decide (c.counter ctr = val) else decide (val.toNat ≤ (c.counter ctr).toNat)

/-- `wait.ge` and `wait.eq` (R242): the bundle issues when the condition holds, else it is held. -/
def waitOn (i : Instr) (isEq : Bool) (u : CoreRef) (ctr : BitVec 8) (ra : SReg) (imm : BitVec 32) (s : State) : Out :=
  s.issue i u slotControl (fun c =>
    let val := (c.rf0.sGet ra + sext64 imm).setWidth 32
    if c.rf0.sBad ra then s.faultAt u c slotControl causePoisonControl
    else if c.waitHolds ctr.toNat isEq val then (s.put u c).passGate u ctr.toNat isEq
    else s.put u { c with run := .waiting ctr.toNat isEq val, waited := true })

def execWaitGe (u : CoreRef) (ctr : BitVec 8) (ra : SReg) (imm : BitVec 32) (s : State) : Out := waitOn (.waitGe u ctr ra imm) false u ctr ra imm s

def execWaitEq (u : CoreRef) (ctr : BitVec 8) (ra : SReg) (imm : BitVec 32) (s : State) : Out := waitOn (.waitEq u ctr ra imm) true u ctr ra imm s

/-- A held wait's condition holds: its bundle issues (R242).  A context whose turn it is not is tested from its next turn
on (R284). -/
def execWaitRelease (u : CoreRef) (s : State) : Out :=
  let c := s.core (refKey u)
  match c.run with
  | .waiting ctr isEq val =>
    whenOk (s.unitsRun u.pen && turnAllows (s.jobD u.pen) u.logical && c.waitHolds ctr isEq val &&
        !s.bundleHeld u c slotControl) s
      ((s.put u { c with run := .running }).passGate u ctr isEq)
  | _ => .next s

/-- A packet of a core is still on its way. -/
def State.packetsFrom (s : State) (pen logical : Nat) : Bool :=
  s.packets.any (fun p => decide (p.pen = pen) && decide (p.src = logical) && p.ack)

/-- Every mover command of a core has completed, signals included. -/
def Core.moversIdle (c : Core) : Bool :=
  (List.range 4).all (fun m => (c.mover m).queue.isEmpty && (c.mover m).running.isEmpty)

/-- No matrix instruction is queued, passing a tile, draining or chaining. -/
def Core.mxIdle (c : Core) : Bool :=
  c.mx.arrayQ.isEmpty && c.mx.drainQ.isEmpty && c.mx.passing.isNone && !c.mx.draining && c.mx.chain.isNone

/-- The conditions of a fence (R290): every earlier mover command with its signals and every earlier drain, store and
`sig.add` is performed. -/
def State.fenceHolds (s : State) (u : CoreRef) : Bool :=
  let c := s.core (refKey u)
  c.moversIdle && c.mx.drainQ.isEmpty && !c.mx.draining && c.mx.chain.isNone &&
  !(c.mx.arrayQ.any (fun e => match e.cmd with | .chain .. => true | _ => false)) && !s.packetsFrom u.pen u.logical &&
  (s.jobD u.pen).xfers.all (fun x => decide (x.xfer % 256 ≠ u.logical))

/-- `sync.fence` holds its bundle until the conditions of R290 are met. -/
def execSyncFence (u : CoreRef) (s : State) : Out :=
  s.issue (.syncFence u) u slotControl (fun c =>
    if s.fenceHolds u then s.put u c else s.put u { c with run := .fencing, waited := true })

/-- The last condition of a held fence is performed: its bundle issues (R290). -/
def execFenceRelease (u : CoreRef) (s : State) : Out :=
  whenOk (s.unitsRun u.pen && turnAllows (s.jobD u.pen) u.logical &&
      decide ((s.core (refKey u)).run = .fencing) && s.fenceHolds u && !s.bundleHeld u (s.core (refKey u)) slotControl) s
    (s.onCore (refKey u) (fun c => { c with run := .running }))

/-! ### Control registers -/

/-- A bit at a place. -/
def bitAt (b : Bool) (i : Nat) : Nat := if b then 2 ^ i else 0

/-- CORE_ID (R261). -/
def coreIdOf (u : CoreRef) (g : CoreCfg) : Word64 :=
  BitVec.ofNat 64 (u.logical % 256 + g.row % 16 * 2 ^ 8 + g.col % 16 * 2 ^ 12 + g.rows % 16 * 2 ^ 16 + bitAt g.wide 20 +
    g.rank % 2 ^ 16 * 2 ^ 32 + g.ranksM1 % 2 ^ 16 * 2 ^ 48)

/-- CORE_SEQ_STATUS (R262): the bundles issued exclude the one that holds the `csrr`. -/
def seqStatusOf (c : Core) : Word64 := BitVec.ofNat 64 (c.loops.length % 8 + min (2 ^ 32 - 1) (c.issued - 1) * 2 ^ 32)

/-- CORE_MX_STATUS (R188); a tile is in the live set until it passes. -/
def mxStatusOf (m : Mx) : Word64 :=
  BitVec.ofNat 64 (bitAt (m.live.isSome || m.passing.isSome) 0 + bitAt m.shadow.isSome 1 + bitAt m.pendingLatch.isSome 2 +
    bitAt m.activeLatch.isSome 3 + bitAt m.chainLatch.isSome 4 + bitAt m.wideBusy 5 + bitAt m.chain.isSome 6 +
    m.flagsOr.toNat * 2 ^ 8 + bitAt m.rerunSticky 16 + m.arrayQ.length % 8 * 2 ^ 17 + m.drainQ.length % 8 * 2 ^ 20)

/-- MOV_STATUS (R219). -/
def movStatusOf (c : Core) (m : Mover) : Word64 :=
  BitVec.ofNat 64 (bitAt (!m.running.isEmpty) 0 + bitAt (m.running.any MovRun.gated) 1 +
    bitAt m.squashing 2 + min 8 m.queue.length * 2 ^ 4 + min 64 (c.windowLines m.running) * 2 ^ 8)

/-- A control register exists (R259). -/
def csrKnown (k : Nat) : Bool := decide (k ≤ 5) || (decide (0x100 ≤ k) && decide (k ≤ 0x103)) || (decide (0x110 ≤ k) && decide (k ≤ 0x11A))

/-- The counts of clk of the sequencer and the movers, which grow by times that the model leaves open (R222, R262; DESIGN CHOICE, log
entry 3). -/
def csrIsTime (k : Nat) : Bool := decide (k = 4) || decide (k = 5) || decide (k = 0x119)

/-- A count of clk at a read: it has grown by a time since the last one when something could have waited, and saturates (R222, R262). -/
def clkNow (could : Bool) (old t : Nat) : Nat := if could then satAdd 32 old (t % 2 ^ 32) else old

/-- The core with the counts of clk of a control register brought up to a read of it, by two times in the word `t`: no bundle has waited
before the first, no wait without a `wait` or `sync.fence`, no mover without a command. -/
def Core.withClk (c : Core) (t : Word64) (k : Nat) : Core :=
  let lo := t.toNat
  let hi := t.toNat / 2 ^ 32
  let ran := decide (1 < c.issued)
  if k = 4 then { c with seqStall := (clkNow ran c.seqStall.1 lo, clkNow ran c.seqStall.2 hi) }
  else if k = 5 then { c with seqWait := (clkNow c.waited c.seqWait.1 lo, clkNow ran c.seqWait.2 hi) }
  else if k = 0x119 then { c with movStall := (clkNow (c.movSeq ≠ 0) c.movStall.1 lo, clkNow (c.movSeq ≠ 0) c.movStall.2 hi) }
  else c

/-- Two counts of 32 bits as a word. -/
def pairWord (p : Nat × Nat) : Word64 := BitVec.ofNat 64 (p.1 % 2 ^ 32 + p.2 % 2 ^ 32 * 2 ^ 32)

/-- The value of a control register (R259 to R262, R188 to R191, R219 to R223). -/
def csrValue (s : State) (u : CoreRef) (c : Core) (k : Nat) : Word64 :=
  if k = 0 then coreIdOf u c.cfg
  else if k = 1 then BitVec.ofNat 64 (s.stepOf u.pen)
  else if k = 2 then c.flags.setWidth 64
  else if k = 3 then seqStatusOf c
  else if k = 4 then pairWord c.seqStall
  else if k = 5 then pairWord c.seqWait
  else if k = 0x100 then mxStatusOf c.mx
  else if k = 0x101 then BitVec.ofNat 64 (c.mx.tiles % 2 ^ 32 + min c.mx.slices (2 ^ 32 - 1) * 2 ^ 32)
  else if k = 0x102 then pairWord (c.mx.reruns, c.mx.rerunClk)
  else if k = 0x103 then pairWord c.mx.stall
  else if k = 0x119 then pairWord c.movStall
  else if k < 0x114 then movStatusOf c (c.mover (k - 0x110))
  else if k < 0x118 then
    BitVec.ofNat 64 ((((c.mover (k - 0x114)).running.head?.map MovRun.shown).getD 0) % 2 ^ 40)
  else if k = 0x118 then BitVec.ofNat 64 (min c.movDone (2 ^ 32 - 1) + min c.movSquashed (2 ^ 32 - 1) * 2 ^ 32)
  else BitVec.ofNat 64 (min c.movUnconsumed (2 ^ 32 - 1) + c.movLastCause % 256 * 2 ^ 32)

def execCsrr (u : CoreRef) (rd : SReg) (csr : BitVec 12) (s : State) : Out :=
  s.issueIf (csrKnown csr.toNat && decide (rd.val < 48)) (.csrr u rd csr) u slotControl (fun c =>
    let t := if csrIsTime csr.toNat then s.draw else (0#64, s)
    let c := c.withClk t.1 csr.toNat
    t.2.put u (c.onRf (fun rf => rf.sSet rd (csrValue s u c csr.toNat) false)))

/-- `csrw` (R239, R259): no control register has an RW field, so no field changes; a poisoned value faults (R233). -/
def execCsrw (u : CoreRef) (ra : SReg) (csr : BitVec 12) (s : State) : Out :=
  s.issueIf (csrKnown csr.toNat) (.csrw u ra csr) u slotControl (fun c =>
    if c.rf0.sBad ra then s.faultAt u c slotControl causePoisonControl else s.put u c)

/-- `csrc` (R239): clears the W1C bits of CORE_FLAGS or CORE_MX_STATUS that are 1 in ra. -/
def execCsrc (u : CoreRef) (ra : SReg) (csr : BitVec 12) (s : State) : Out :=
  s.issueIf (decide (csr.toNat = 2) || decide (csr.toNat = 0x100)) (.csrc u ra csr) u slotControl (fun c =>
    let x := c.rf0.sGet ra
    if c.rf0.sBad ra then s.faultAt u c slotControl causePoisonControl
    else if csr.toNat = 2 then s.put u { c with flags := c.flags &&& ~~~(x.setWidth 5) }
    else s.put u { c with mx := { c.mx with flagsOr := c.mx.flagsOr &&& ~~~(BitVec.ofNat 8 (getBits x 8 8)),
                                            rerunSticky := c.mx.rerunSticky && !x.getLsbD 16 } })

/-! ### The end of a program -/

/-- `end` (R265): no later bundle issues; loop state is discarded (R240). -/
def execEnd (u : CoreRef) (s : State) : Out :=
  s.issue (.endProg u) u slotControl (fun c => s.put u { c with run := .ending, loops := [] })

/-- The core's outstanding work is complete and it counts as ended (R265); CORE_PEN_PROG.state says when the last has
(R267). -/
def execCoreEnded (u : CoreRef) (s : State) : Out :=
  let c := s.core (refKey u)
  let s1 := s.put u { c with run := .ended }
  whenOk (s.unitsRun u.pen && decide (c.run = .ending) && c.moversIdle && c.mxIdle) s
    (if s1.allEnded u.pen then s1.setFld .corePenProg 0 2 3 (u.pen - 1) else s1)

end Sys2Proof.Machine
end

