-- ==== Sys2Proof/Machine/FlitWire.lean ====
section
/-!
DEFINITION. What a lane carries (R341, R343, R346, R347, R350, R354, R356): the bytes of a message header, of a flit and of its control slot
with its CRC, and the codeword that holds a lane header and a flit.
-/

namespace Sys2Proof.Machine

/-! ### Message headers (R356) -/

/-- A header slot: the associated data with the transit and the charge byte in their places, and the tag.  `n` data slots follow. -/
def headerSlot (m : LinkMsg) (n : Nat) : List Byte :=
  let aad := patch (msgAad m) 1 (le 1 n)
  let transit := m.hop % 8 + (if m.alt then 8 else 0) + m.grpCharge % 4 * 16
  patch (patch aad 0x0D (le 1 transit)) 0x0F (le 1 (m.charge % 128)) ++ fit 16 m.tag

/-- The header that a slot holds, with the number of its data slots. -/
def headerOf (b : List Byte) : LinkMsg × Nat :=
  let f := fieldAt b 2 1
  let t := fieldAt b 0x0D 1
  ({ mtype := fieldAt b 0 1, last := f.testBit 0, sigDone := f.testBit 1, sigBlk := f.testBit 2, vote := f.testBit 3, group := fieldAt b 3 1,
     jobTag := BitVec.ofNat 16 (fieldAt b 4 2), srcDev := BitVec.ofNat 16 (fieldAt b 6 2), dstDev := BitVec.ofNat 16 (fieldAt b 8 2),
     srcPort := fieldAt b 0x0A 1 % 16, target := fieldAt b 0x0B 1, doneCtr := fieldAt b 0x0C 1, blkCtr := fieldAt b 0x0E 1,
     hop := t % 8, alt := t.testBit 3, grpCharge := t / 16 % 4, charge := fieldAt b 0x0F 1 % 128, dstVa := fieldAt b 0x10 6,
     ctr := fieldAt b 0x18 8, xfer := BitVec.ofNat 32 (fieldAt b 0x20 4), doneAdd := BitVec.ofNat 32 (fieldAt b 0x24 4),
     mask := BitVec.ofNat 64 (fieldAt b 0x28 8), lines := [], tag := slice b 0x30 16 }, fieldAt b 1 1)

/-! ### Flits (R346, R347, R350, R354) -/

/-- The kind of a message slot, and its bytes. -/
def slotKind : Slot → Nat
  | .empty => 0
  | .header _ _ => 1
  | .data _ => 2
def slotBytes : Slot → List Byte
  | .empty => zeros 64
  | .header m n => headerSlot m n
  | .data l => fit 64 l

/-- A slot read by its kind; kind 3 is reserved and carries nothing. -/
def slotOf (kind : Nat) (b : List Byte) : Slot :=
  if kind = 1 then .header (headerOf b).1 (headerOf b).2 else if kind = 2 then .data b else .empty

/-- A credit return. -/
def creditBytes (c : Credit) : List Byte := le 1 (c.cls % 8 + c.kind % 8 * 8) ++ le 1 (if c.kind = 2 then c.group else 0) ++ le 1 c.slots
def creditOf (b : List Byte) : Credit :=
  { cls := fieldAt b 0 1 % 8, kind := fieldAt b 0 1 / 8 % 8, group := fieldAt b 1 1, slots := fieldAt b 2 1 }

/-- A CONTROL payload (R350). -/
def ctlBytes : Ctl → List Byte
  | .identity i => fit 16 (le 1 1 ++ le 2 i.devId.toNat ++ le 1 (if i.idValid then 1 else 0) ++ le 1 i.port ++ le 2 i.part.toNat ++ zeros 1 ++ le 8 i.serial.toNat)
  | .lanes g q => fit 16 (le 1 2 ++ le 1 g.toNat ++ zeros 2 ++ le 4 q.toNat)
  | .retrain => fit 16 (le 1 3)
def ctlOf (b : List Byte) : Option Ctl :=
  match fieldAt b 0 1 with
  | 1 => some (.identity { devId := BitVec.ofNat 16 (fieldAt b 1 2), idValid := (fieldAt b 3 1).testBit 0, port := fieldAt b 4 1,
                           part := BitVec.ofNat 16 (fieldAt b 5 2), serial := BitVec.ofNat 64 (fieldAt b 8 8) })
  | 2 => some (.lanes (BitVec.ofNat 8 (fieldAt b 1 1)) (BitVec.ofNat 32 (fieldAt b 4 4)))
  | 3 => some .retrain
  | _ => none

/-- The control slot of a flit as far as its CRC. -/
def controlSlot (f : Flit) : List Byte :=
  let kind := match f.kind with | .idle => 0 | .normal => 1 | .control _ => 2
  let kinds := (f.slots.zip (List.range 9)).foldl (fun n x => n + slotKind x.1 * 4 ^ x.2) 0
  le 1 kind ++ le 1 ((if f.nak.isSome then 1 else 0) + (if f.replayed then 2 else 0)) ++ zeros 2 ++ le 4 f.fseq.toNat ++ le 4 f.ackSeq.toNat ++
  le 4 ((f.nak.map BitVec.toNat).getD 0) ++ le 4 kinds ++ fit 12 (f.credits.flatMap creditBytes) ++
  (match f.kind with | .control c => ctlBytes c | _ => zeros 16) ++ zeros 8

/-- The CRC of a flit's bytes (R347): bytes 0x000 to 0x037 and 0x040 to 0x27F. -/
def flitCrc (b : List Byte) : Word64 := crc64 (slice b 0 0x38 ++ slice b 0x40 0x240)

/-- The 640 bytes of a flit. -/
def flitBytes (f : Flit) : List Byte :=
  let head := controlSlot f
  let body := fit 576 (f.slots.flatMap slotBytes)
  head ++ le 8 (crc64 (head ++ body)).toNat ++ body

/-- The CRC of received bytes is right. -/
def flitGood (b : List Byte) : Bool := decide (fieldAt b 0x38 8 = (flitCrc b).toNat)

/-- A flit read from its bytes.  A reserved fkind or CONTROL operation carries nothing beside its acknowledgements and credits (DESIGN
CHOICE, log entry 131). -/
def flitOf (b : List Byte) : Flit :=
  let kinds := fieldAt b 0x10 4
  { kind := match fieldAt b 0 1 with
      | 1 => .normal
      | 2 => (match ctlOf (slice b 0x20 16) with | some c => .control c | none => .idle)
      | _ => .idle,
    nak := if (fieldAt b 1 1).testBit 0 then some (BitVec.ofNat 32 (fieldAt b 0x0C 4)) else none,
    replayed := (fieldAt b 1 1).testBit 1,
    fseq := BitVec.ofNat 32 (fieldAt b 4 4),
    ackSeq := BitVec.ofNat 32 (fieldAt b 8 4),
    slots := (List.range 9).map (fun i => slotOf (kinds / 4 ^ i % 4) (slice b (0x40 + 64 * i) 64)),
    credits := ((List.range 4).map (fun i => creditOf (slice b (0x14 + 3 * i) 3))).filter (fun c => decide (c.slots ≠ 0)) }

/-! ### Codewords (R341, R343) -/

/-- The 5,140 payload bits of a codeword as 514 symbols, least significant bit first: the lane header, then the flit. -/
def cwPayload (lane count : Nat) (flit : List Byte) : List (BitVec 10) :=
  let n := lane % 8 + count % 4096 * 8 + leNum (fit 640 flit) * 2 ^ 20
  (List.range 514).map (fun i => BitVec.ofNat 10 (n / 2 ^ (10 * i)))

/-- The number that payload symbols spell. -/
def cwNum (p : List (BitVec 10)) : Nat := p.foldr (fun x n => x.toNat + 1024 * n) 0

/-- The lane, the count and the flit that a payload holds. -/
def cwLane (p : List (BitVec 10)) : Nat := cwNum p % 8
def cwCountOf (p : List (BitVec 10)) : Nat := cwNum p / 8 % 4096
def cwFlit (p : List (BitVec 10)) : List Byte := le 640 (cwNum p / 2 ^ 20)

/-- The symbols in error of a codeword that RS(544,514) corrects: 15 (R341). -/
def rsLimit : Nat := 15

/-- The symbols of a received codeword that are in error, and the bits that their correction changes. -/
def cwErrors (c : Codeword) : Nat := (c.errs.filter (fun e => decide (e.1 < 544) && decide (e.2 ≠ 0#10))).length
def cwBits (c : Codeword) : Nat :=
  (c.errs.filter (fun e => decide (e.1 < 544))).foldl (fun n e => n + ((List.range 10).filter (fun i => e.2.getLsbD i)).length) 0

end Sys2Proof.Machine
end

