-- ==== Sys2Proof/Machine/LinkPhy.lean ====
section
/-!
DEFINITION. The lanes and the training of a port (R341 to R345, R371 to R380), its retrains (R352), and the commands of XGL_CMD (R386,
R387).
-/

namespace Sys2Proof.Machine

/-! ### Lanes -/

/-- The state of a physical receive lane. -/
def XPort.lane (x : XPort) (l : Nat) : Lane := SMap.get (fun _ => {}) x.lanes l

/-- The port with a lane changed. -/
def XPort.onLane (x : XPort) (l : Nat) (f : Lane → Lane) : XPort :=
  { x with lanes := SMap.set (fun _ => {}) x.lanes l (f (x.lane l)) }

/-- The retired lanes of a direction, 0 transmit and 1 receive (R390). -/
def State.retiredLanes (s : State) (p dir : Nat) : BitVec 8 := BitVec.ofNat 8 (s.fld .xglLanes (8 * dir) 8 p)

/-- XGL_LANES shows the lanes that the ledger and the fuse map retire (R372, R390). -/
def State.loadLanes (s : State) (p : Nat) : State :=
  let m (d : Nat) := ((List.range 8).filter (fun l => s.ledgerHasLane p d l || s.fusedLane p d l)).foldl (fun n l => n + 2 ^ l) 0
  (s.setFld .xglLanes 0 8 (m 0) p).setFld .xglLanes 8 8 (m 1) p

/-- The width and the lanes of a direction follow from its good lanes (R345). -/
def State.setWidth (s : State) (p dir : Nat) (good : BitVec 8) : State :=
  (s.setFld .xglPortStatus (4 + 4 * dir) 4 (widthOf good) p).setFld .xglPortStatus (16 + 8 * dir) 8 (lanesInUse good).toNat p

/-- The width of a direction. -/
def State.widthNow (s : State) (p dir : Nat) : Nat := s.fld .xglPortStatus (4 + 4 * dir) 4 p

/-- A port carries codewords: it is UP, or its error rate is measured. -/
def State.portRuns (s : State) (p : Nat) : Bool := decide (s.portState p = portUp) || decide (s.portState p = portChecking)

/-- A partner is removed, or its port goes DOWN (R378). -/
def State.partnerGone (s : State) (p : Nat) : State :=
  ((s.setFld .xglPartner 18 1 1 p).postLink p 373 [])

/-- A port has a partner: it runs or retrains with one, or the census holds one that is not removed (R378). -/
def State.hasPartner (s : State) (p : Nat) : Bool :=
  s.portRuns p || decide (s.portState p = portRetraining) || (decide (s.fld .xglPartner 17 1 p = 1) && decide (s.fld .xglPartner 18 1 p = 0))

/-- A port goes DOWN: no lanes, LINK_DOWN; the partner that it had is removed (R378). -/
def State.portGoDown (s : State) (p : Nat) : State :=
  let had := s.hasPartner p
  let s := s.onPort p (fun x => { x with training := false, locked := none, widthFrom := none, rxWidthFrom := none })
  let s := (((s.setPortState p portDown).setWidth p 0 0#8).setWidth p 1 0#8).postLink p 369 []
  if had then s.partnerGone p else s

/-- A port with a direction of fewer than two good lanes is DOWN (R345). -/
def State.checkDown (s : State) (p : Nat) : State :=
  if s.widthNow p 0 = 0 ∨ s.widthNow p 1 = 0 then s.portGoDown p else s

/-- A new width of a direction takes effect: LINK_WIDTH (R372). -/
def State.changeWidth (s : State) (p dir : Nat) (good : BitVec 8) : State :=
  let s := s.onPort p (fun x => if dir = 0 then { x with txGood := good } else { x with rxGood := good })
  let s := s.setWidth p dir good
  (s.postLink p 371 [ef (s.widthNow p 0), ef (s.widthNow p 1)]).checkDown p

/-- A lane is retired (R372): the ledger and LANE_RETIRED. -/
def State.retireLane (s : State) (p dir l : Nat) : State :=
  let s := s.setFld .xglLanes (8 * dir) 8 (s.retiredLanes p dir ||| BitVec.ofNat 8 (2 ^ l)).toNat p
  (s.ledgerLane p dir l).postLink p 375 [ef dir, ef l]

/-- The lanes of a mask, ascending. -/
def maskLanes (m : BitVec 8) : List Nat := (List.range 8).filter (fun l => m.getLsbD l)

/-! ### The end of a training (R345, R352, R377, R378) -/

/-- XGL_PARTNER and XGL_PARTNER_SN take an identity (R389). -/
def State.recordPartner (s : State) (p : Nat) (i : LinkIdentity) : State :=
  let s := (s.setFld .xglPartner 0 16 i.devId.toNat p).setFld .xglPartner 16 1 (if i.idValid then 1 else 0) p
  let s := (s.setFld .xglPartner 20 4 i.port p).setFld .xglPartner 24 16 i.part.toNat p
  s.setReg .xglPartnerSn i.serial p

/-- The port comes UP: LINK_UP. -/
def State.linkUp (s : State) (p : Nat) : State :=
  (s.setPortState p portUp).postLink p 368 [ef (s.widthNow p 0), ef (s.widthNow p 1)]

/-- A partner reaches step 6 (R378): within the census window it is recorded; after it, it is late. -/
def State.census (s : State) (p : Nat) (i : LinkIdentity) : State :=
  let s := s.recordPartner p i
  if s.censusOpen then s.setFld .xglPartner 17 1 1 p
  else (s.setFld .xglPortStatus 13 1 1 p).postLink p 372 [ef i.devId.toNat]

/-- Steps 4 and 5 of a training begin: the port reports its good receive lanes and its identity (R345, R350, R377). -/
def State.reportLanes (s : State) (p : Nat) (good : BitVec 8) (fseq : Nat) : State :=
  ((s.onPort p (fun x => { x with locked := some good })).sendCtl p (.lanes good (BitVec.ofNat 32 fseq))).sendCtl p
    (.identity (s.ownIdentity p))

/-- Steps 1 to 5 of a training are finished once the partner's LANES and IDENTITY are in (R345, R377): the widths follow from the good
lanes, and the port is CHECKING, or UP when no check is made. -/
def State.finishTraining (s : State) (p : Nat) : State :=
  let x := s.port p
  match x.locked, x.idIn, x.lanesIn with
  | some rx, some i, some m =>
    if !x.training ∨ s.portState p ≠ portTraining then s
    else
      let tx := m &&& ~~~(s.retiredLanes p 0)
      let s := s.onPort p (fun x => { x with training := false, locked := none, txGood := tx, rxGood := rx })
      let s := (s.setWidth p 0 tx).setWidth p 1 rx
      if widthOf rx = 0 ∨ widthOf tx = 0 then s.portGoDown p
      else
        let s := if x.berRound then s.recordPartner p i else s.census p i
        if s.fld .xglPolicy 12 4 = 0 then s.linkUp p else s.setPortState p portChecking
  | _, _, _ => s

/-- A retrain is finished once the partner's LANES and IDENTITY are in (R352, R372): lanes that the partner has left out are retired, the
widths follow, and the sender resumes from the first unacknowledged fseq. -/
def State.finishRetrain (s : State) (p : Nat) : State :=
  let x := s.port p
  match x.locked, x.idIn, x.lanesIn with
  | some rx, some i, some m =>
    if s.portState p ≠ portRetraining then s
    else
      let txBad := x.txGood &&& ~~~m
      let s := (maskLanes txBad).foldl (fun s l => s.retireLane p 0 l) s
      let s := (s.setPortState p portUp).recordPartner p i
      let s := s.onPort p (fun x => { x with resend := x.replay, nakDue := false, discarding := false, locked := none })
      let s := if rx = x.rxGood then s else s.changeWidth p 1 rx
      if txBad = 0#8 then s else s.changeWidth p 0 (x.txGood &&& m)
  | _, _, _ => s

/-! ### Codewords and retrains (R341, R343, R344, R352) -/

/-- A port retrains from step 2 of its training on: LINK_RETRAIN, the replay buffer and every queued message kept. -/
def State.startRetrain (s : State) (p : Nat) : State :=
  let s := s.onPort p (fun x => { x with
    nakRun := 0, idIn := none, lanesIn := none, locked := none, rxCw := [], rxAt := none,
    lanes := (x.lanes.map (fun kv => (kv.1, { kv.2 with unlockRun := 0 }))).filter (fun kv => decide (kv.2 ≠ {})) })
  let s := s.bump .xglPortStatus 32 16 p
  (s.setPortState p portRetraining).postLink p 370 []

/-- The physical receive lanes in use: those of the width in force, or the good ones of a training that has locked. -/
def State.rxLanes (s : State) (p : Nat) : BitVec 8 :=
  match (s.port p).locked with
  | some g => lanesInUse g
  | none => BitVec.ofNat 8 (s.fld .xglPortStatus 24 8 p)

/-- Codewords arrive from the end of step 3 of a training on. -/
def State.cwArrive (s : State) (p : Nat) : Bool := s.portRuns p || (s.port p).locked.isSome

/-- A codeword joins those that a port has received: the flit of a corrected one with its lane header, or the loss of one that is
not, which follows the codeword before it on its lane. -/
def XPort.takeCw (x : XPort) (mask : BitVec 8) (lane : Nat) (cw : Codeword) (lost : Bool) : XPort :=
  let count := if lost then (SMap.get (fun _ => 0) x.cwCount lane + 1) % 4096 else cwCountOf cw.payload
  let place := if lost then ((maskLanes mask).idxOf lane) else cwLane cw.payload
  let x := { x with cwCount := SMap.put x.cwCount lane count,
                    rxCw := x.rxCw ++ [(count, place, if lost then none else some (cwFlit cw.payload))] }
  x.onLane lane (fun l =>
    if lost then { l with unlockRun := l.unlockRun + 1, windowUe := l.windowUe + 1, berBits := l.berBits + 160 }
    else { l with unlockRun := 0, windowBits := l.windowBits + cwBits cw, berBits := l.berBits + cwBits cw })

/-- A lane delivers a codeword (R341, R343): one with at most 15 symbols in error is corrected, and counted when it had any; any other is
uncorrectable: it is counted, loses its flit, and counts towards loss of lock. -/
def execCodewordReceive (p : Port) (lane : Nat) (payload : List (BitVec 10)) (errs : List (Nat × BitVec 10)) (s : State) : Out :=
  let cw : Codeword := ⟨payload, errs⟩
  if !(s.cwArrive p.val && decide (lane < 8) && (s.rxLanes p.val).getLsbD lane) then .next s
  else
    let mask := s.rxLanes p.val
    let f13 := s.fireInjection 13 p.val lane
    let f14 := f13.1.fireInjection 14 p.val lane
    let lost := decide (rsLimit < cwErrors cw) || f14.2
    let fixed := decide (cwErrors cw ≠ 0) || f13.2
    let s := f14.1.onPort p.val (fun x => x.takeCw mask lane cw lost)
    if lost then .next ((s.bump .xglErrCount 32 16 p.val).countEvent p.val 14 lane f14.2)
    else .next (if fixed then (s.bump .xglErrCount 0 32 p.val).countEvent p.val 13 lane f13.2 else s)

/-- Eight consecutive uncorrectable codewords on a lane: both ends retrain at once (R343, R352). -/
def execLossOfLock (p : Port) (lane : Nat) (s : State) : Out :=
  whenOk (s.portRuns p.val && decide (8 ≤ ((s.port p.val).lane lane).unlockRun)) s ((s.startRetrain p.val).sendCtl p.val .retrain)

/-- The NAKs that a port accepts in a row for one fseq (R352, R385). -/
def State.retryBudget (s : State) : Nat := s.fld .xglPolicy 16 4 + 1

/-- The retry budget is exhausted: both ends retrain at once (R352). -/
def execRetryBudgetExhausted (p : Port) (s : State) : Out :=
  whenOk (decide (s.portState p.val = portUp) && decide (s.retryBudget ≤ (s.port p.val).nakRun)) s
    ((s.startRetrain p.val).sendCtl p.val .retrain)

/-- The partner starts a retrain (R350, R352). -/
def execRetrain (p : Port) (s : State) : Out :=
  let s := s.onPort p.val (fun x => { x with ctlIn := x.ctlIn.erase .retrain })
  .next (if s.portRuns p.val then s.startRetrain p.val else s)

/-- Steps 2 and 3 of a retrain complete (R352, R372, R376): lanes that failed are retired at once, and the port reports the others; traffic
resumes with the partner's LANES and IDENTITY. -/
def execRetrainDone (p : Port) (failedLanes : BitVec 8) (s : State) : Out :=
  let x := s.port p.val
  let rx := x.rxGood &&& ~~~failedLanes
  let t := (maskLanes (x.rxGood &&& failedLanes)).foldl (fun s l => s.retireLane p.val 1 l) s
  whenOk (decide (s.portState p.val = portRetraining) && x.locked.isNone) s ((t.reportLanes p.val rx x.rxExpect).finishRetrain p.val)

/-! ### CONTROL operations (R350) -/

/-- A port takes no notice of what it receives: it is absent, quiet (R374), or in electrical idle (R386). -/
def State.portDeaf (s : State) (p : Nat) : Bool :=
  decide (s.portState p = portAbsent) || decide (s.portState p = portQuiet) || decide (s.portState p = portIdle)

/-- The partner's identity arrives (R350, R377): a training or retrain waits for it; while the port is UP it replaces the
one recorded. -/
def execIdentity (p : Port) (idn : LinkIdentity) (s : State) : Out :=
  let t := s.onPort p.val (fun x => { x with ctlIn := x.ctlIn.erase (.identity idn), idIn := some idn })
  whenOk (!s.portDeaf p.val) s
    (if s.portRuns p.val then t.recordPartner p.val idn else (t.finishTraining p.val).finishRetrain p.val)

/-- A width change of the transmit direction that is due takes effect (R350): the next fseq has reached its own. -/
def State.txWidthDue (s : State) (p : Nat) : State :=
  let x := s.port p
  match x.widthFrom with
  | some w => if (x.txSeq + 2 ^ 32 - w.1) % 2 ^ 32 < 2 ^ 31 then
      (s.onPort p (fun x => { x with widthFrom := none })).changeWidth p 0 w.2 else s
  | none => s

/-- The same for the receive direction. -/
def State.rxWidthDue (s : State) (p : Nat) : State :=
  let x := s.port p
  match x.rxWidthFrom with
  | some w => if (x.rxExpect + 2 ^ 32 - w.1) % 2 ^ 32 < 2 ^ 31 then
      (s.onPort p (fun x => { x with rxWidthFrom := none })).changeWidth p 1 w.2 else s
  | none => s

/-- The partner reports its good receive lanes (R345, R350, R372): while the port is UP the transmit direction narrows from the
stated fseq; a training or retrain waits for them. -/
def execLanes (p : Port) (goodMask : BitVec 8) (fseq : BitVec 32) (s : State) : Out :=
  let t := s.onPort p.val (fun x => { x with ctlIn := x.ctlIn.erase (.lanes goodMask fseq), lanesIn := some goodMask })
  whenOk (!s.portDeaf p.val) s
    (if s.portRuns p.val then
      (t.onPort p.val (fun x => { x with widthFrom := some (fseq.toNat, x.txGood &&& goodMask) })).txWidthDue p.val
    else (t.finishTraining p.val).finishRetrain p.val)

/-! ### Lane error windows (R371, R372) -/

/-- A lane's window is above threshold (R371). -/
def State.windowAbove (s : State) (l : Lane) : Bool :=
  let ue := s.fld .xglPolicy 0 8
  let be := s.fld .xglPolicy 12 4
  (decide (ue ≠ 0) && decide (ue ≤ l.windowUe)) || (decide (be ≠ 0) && decide (2125000000 < l.windowBits * 10 ^ be))

/-- A 10 ms window of some lanes ends (R371): each of them that is in use for reception is judged; one above threshold in enough windows in
a row is due for retirement, which detector 15 reports. -/
def execLaneWindowEnd (p : Port) (lanes : BitVec 8) (s : State) : Out :=
  if s.portState p.val ≠ portUp then .next s
  else
    let judged := maskLanes (lanes &&& BitVec.ofNat 8 (s.fld .xglPortStatus 24 8 p.val))
    let need := s.fld .xglPolicy 8 4
    let above := judged.filter (fun l => s.windowAbove ((s.port p.val).lane l))
    let kept := BitVec.ofNat 8 (s.fld .xglLanes 16 8 p.val) &&& ~~~lanes
    let s := s.setFld .xglLanes 16 8 (kept.toNat + above.foldl (fun n l => n + 2 ^ l) 0) p.val
    .next (judged.foldl (fun s l =>
      let f := s.fireInjection 15 p.val l
      let run := if above.contains l then ((s.port p.val).lane l).aboveRun + 1 else 0
      let due := (decide (need ≠ 0) && decide (need ≤ run))
      let was := ((s.port p.val).lane l).due
      let s := f.1.onPort p.val (fun x => x.onLane l (fun y => { y with windowUe := 0, windowBits := 0, aboveRun := run, due := y.due || due || f.2 }))
      if (due || f.2) && !was then s.countEvent p.val 15 l (f.2 && !due) else s) s)

/-- A lane that is due may be retired now (R372): at the step boundary of the pen's job, or at once without one. -/
def State.laneMoment (s : State) (p : Nat) : Bool :=
  match s.job (s.penOfPort p) with
  | none => true
  | some j => match j.cur with | some a => a.wordSent | none => true

/-- A lane is retired (R372).  The receiver of a due lane sends LANES, and the direction narrows 512 flits on, past every flit that
can be on its way (DEDUCED, log entry 33); the sender of a lane that the partner's LANES has left out records it. -/
def execLaneRetire (p : Port) (tx : Bool) (lane : Nat) (s : State) : Out :=
  let x := s.port p.val
  if 8 ≤ lane ∨ s.portState p.val ≠ portUp then .next s
  else if tx then
    whenOk (match x.lanesIn with
      | some m => !m.getLsbD lane && !(s.retiredLanes p.val 0).getLsbD lane
      | none => false) s (s.retireLane p.val 0 lane)
  else if !((x.lane lane).due && s.laneMoment p.val) then .next s
  else
    let good := x.rxGood &&& ~~~(BitVec.ofNat 8 (2 ^ lane))
    let at_ := (x.rxExpect + 512) % 2 ^ 32
    let s := s.retireLane p.val 1 lane
    let s := s.onPort p.val (fun x => { (x.onLane lane (fun l => { l with due := false, aboveRun := 0 })) with
      rxWidthFrom := some (at_, good), rxGood := good })
    .next (s.sendCtl p.val (.lanes good (BitVec.ofNat 32 at_)))

/-! ### Synthesisers and training (R374 to R380) -/

/-- The link stage begins (R662, R375, R378): once memory is done, every present port powers its synthesiser and the census
window opens. -/
def execLinkStageBegin (s : State) : Out :=
  if s.stage ≠ stageLinks ∨ s.linkStage ∨ s.power = .off ∨ s.power = .keep then .next s
  else
    let s := { s with linkStage := true, linkDone := false, censusOpen := true }
    .next ((List.range 12).foldl (fun s p =>
      if s.bayPresent p then ((s.setPortState p portSettling).loadLanes p) else s) s)

/-- The ports that are in step 2 of a training or of a retrain (R352, R376). -/
def State.inStep2 (s : State) : Nat :=
  ((List.range 12).filter (fun p => (s.port p).locked.isNone &&
    (((s.port p).training && (s.port p).partnerSeen && decide (s.portState p = portTraining)) || decide (s.portState p = portRetraining)))).length

/-- A training of a port begins (R377): its link layer starts afresh; queued messages stay. -/
def State.beginTraining (s : State) (p : Nat) : State :=
  let s := (s.loadLanes p).setPortState p portTraining
  s.onPort p (fun x => { x with
    training := true, partnerSeen := false, idIn := none, lanesIn := none, locked := none, attempt := false, widthFrom := none, rxWidthFrom := none,
    rxCw := [], rxAt := none, txCw := 0,
    txSeq := 0, replay := [], resend := [], stream := [], rxExpect := 0, rxAny := false, nakDue := false, discarding := false,
    nakFseq := 0, nakRun := 0, ctlOut := [], ctlSeen := [], ctlIn := [], creditOut := [], poolUsed := 0, dataUsed := [],
    groupUsed := [], ackUsed := [], voteUsed := [], rxPart := none, lanes := [], cwCount := [], berRound := false })

/-- An XGL_CMD command ends with a status (R386, R387). -/
def State.xglStatus (s : State) (st : Nat) : State := (s.setFld .xglCmd 6 1 0).setFld .xglCmd 8 8 st

/-- A synthesiser locks and a held request proceeds (R375). -/
def execSynthLock (p : Port) (s : State) : Out :=
  if s.portState p.val ≠ portSettling then .next s
  else
    let x := s.port p.val
    let s := (s.setFld .xglPortStatus 12 1 1 p.val).setPortState p.val portTraining
    let s := if x.held.isSome || x.attempt then s.beginTraining p.val else s
    .next (if x.held.isSome then (s.onPort p.val (fun x => { x with held := none })).xglStatus 0 else s)

/-- No lock within t_xgl_hold (R375): the held request fails and the port goes DOWN. -/
def execSynthTimeout (p : Port) (s : State) : Out :=
  if s.portState p.val ≠ portSettling then .next s
  else
    let s := match (s.port p.val).held with
      | some _ => (s.onPort p.val (fun x => { x with held := none })).xglStatus 2
      | none => s
    .next ((s.onPort p.val (fun x => { x with attempt := false })).portGoDown p.val)

/-- A port makes a training attempt (R376, R380); one that reaches a settling port is held until lock (R375). -/
def execTrainingAttempt (p : Port) (s : State) : Out :=
  let x := s.port p.val
  if s.linkStage ∧ s.portState p.val = portSettling then .next (s.onPort p.val (fun x => { x with attempt := true }))
  else whenOk (s.linkStage && decide (s.fld .xglPortStatus 12 1 p.val = 1) &&
      (decide (s.portState p.val = portTraining) || decide (s.portState p.val = portDown)) &&
      !(x.training && x.partnerSeen)) s
    ((s.beginTraining p.val).onPort p.val (fun y => { y with berRound := x.training && x.berRound }))

/-- A partner's signalling appears (R374 to R376): while the port is quiet it only sets quiet_seen; a settling port holds the attempt until
lock; a port that trains or may train answers it, with at most six ports in step 2. -/
def execSignalDetect (p : Port) (s : State) : Out :=
  let st := s.portState p.val
  if st = portQuiet then .next (s.setFld .xglPortStatus 15 1 1 p.val)
  else if st = portSettling ∧ s.linkStage then .next (s.onPort p.val (fun x => { x with attempt := true }))
  else if (st = portTraining ∨ st = portDown) ∧ s.linkStage ∧ s.fld .xglPortStatus 12 1 p.val = 1 ∧ s.inStep2 < 6 then
    let s := if (s.port p.val).training ∧ st = portTraining then s else s.beginTraining p.val
    .next (s.onPort p.val (fun x => { x with partnerSeen := true }))
  else .next s

/-- The lanes of a training that have codeword lock with a skew of at most four codewords behind the earliest (R344). -/
def deskewed (locked : BitVec 8) (skews : List Nat) : BitVec 8 :=
  let first := ((maskLanes locked).map (fun l => skews.getD l 0)).foldl min (2 ^ 64)
  BitVec.ofNat 8 (((maskLanes locked).filter (fun l => decide (skews.getD l 0 ≤ first + 4))).foldl (fun m l => m + 2 ^ l) 0)

/-- Steps 2 and 3 of a training finish (R341, R344, R377): with the skew of each lane that has locked, and the lanes that precode.  The port
reports its good lanes and its identity, and goes on when its partner's are in. -/
def execTrainingComplete (p : Port) (locked : BitVec 8) (skews : List Nat) (precoded : BitVec 8) (s : State) : Out :=
  let x := s.port p.val
  let good := deskewed locked skews &&& ~~~(s.retiredLanes p.val 1)
  let t := s.setFld .xglLanes 24 8 precoded.toNat p.val
  whenOk (x.training && x.partnerSeen && x.locked.isNone && decide (s.portState p.val = portTraining)) s
    (if widthOf good = 0 then t.portGoDown p.val else (t.reportLanes p.val good 0).finishTraining p.val)

/-- The error-rate measurement of the lanes in use ends (R379): a lane above the threshold has the port retrained once; one still above it
is retired.  The retraining waits while six ports are in step 2 (R376). -/
def execBerWindowEnd (p : Port) (lanes : BitVec 8) (s : State) : Out :=
  if s.portState p.val ≠ portChecking ∨ lanes ≠ lanesInUse (s.port p.val).rxGood then .next s
  else
    let x := s.port p.val
    let be := s.fld .xglPolicy 12 4
    let above := (maskLanes lanes).filter (fun l => decide (be ≠ 0) && decide (106250000000 < (x.lane l).berBits * 10 ^ be))
    let s := s.onPort p.val (fun x => (maskLanes 0xFF#8).foldl (fun x l => x.onLane l (fun y => { y with berBits := 0 })) x)
    if above.isEmpty then .next (s.linkUp p.val)
    else if !x.berRound then
      let room := decide (s.inStep2 < 6)
      .next ((s.beginTraining p.val).onPort p.val (fun x => { x with berRound := true, partnerSeen := room }))
    else
      let good := above.foldl (fun m l => m &&& ~~~(BitVec.ofNat 8 (2 ^ l))) x.rxGood
      let s := above.foldl (fun s l => s.retireLane p.val 1 l) s
      let s := (s.changeWidth p.val 1 good).sendCtl p.val (.lanes good (BitVec.ofNat 32 x.rxExpect))
      .next (if s.portState p.val = portDown then s else s.linkUp p.val)

/-- The census window closes (R378). -/
def execCensusClose (s : State) : Out := whenOk s.censusOpen s { s with censusOpen := false }

/-- A partner is removed, or its port goes DOWN (R378). -/
def execPartnerRemoved (p : Port) (s : State) : Out :=
  whenOk (s.portRuns p.val || decide (s.portState p.val = portRetraining)) s (s.portGoDown p.val)

/-- A port is at rest for the end of the link stage: UP, DOWN, absent or without a partner (R380). -/
def State.portSettled (s : State) (p : Nat) : Bool :=
  let st := s.portState p
  decide (st = portUp) || decide (st = portDown) || decide (st = portAbsent) || decide (st = portIdle) ||
  (decide (st = portTraining) && !(s.port p).partnerSeen)

/-- The link stage ends (R380). -/
def execLinkStageEnd (s : State) : Out :=
  whenOk (s.linkStage && !s.linkDone && (List.range 12).all s.portSettled) s { s with linkDone := true }

/-! ### XGL_CMD (R386, R387) -/

/-- The refusals of a command, in the order of the model (DESIGN CHOICE, log entry 34): a command of the authority ends a held one of the operator
with PREEMPTED; any other command is BUSY while one is held. -/
def State.xglRefused (s : State) (p : Nat) (master : Master) (jobs : Bool) : Option Nat :=
  if (List.range 12).any (fun q => match (s.port q).held with
      | some m => !(decide (m = .operator) && decide (master = .authority))
      | none => false) then some 1
  else if !s.bayPresent p then some 4
  else if !s.linkStage then some 3
  else if jobs ∧ (s.job (s.penOfPort p)).isSome then some 5
  else none

/-- A command of the authority takes precedence over a held one of the operator (R382). -/
def State.preempts (s : State) (master : Master) : Bool :=
  decide (master = .authority) && (List.range 12).any (fun q => decide ((s.port q).held = some .operator))

/-- The operator's held request ends with PREEMPTED. -/
def State.preempt (s : State) (master : Master) : State :=
  if s.preempts master then
    ((List.range 12).foldl (fun s q => if (s.port q).held = some .operator then s.onPort q (fun x => { x with held := none }) else s) s).xglStatus 6
  else s

/-- A command that took effect has ended; one that preempted the operator's leaves it its status (R382, R387; DESIGN CHOICE, log entry
34). -/
def State.xglOk (s : State) (pre : Bool) : State := if pre then s.setFld .xglCmd 6 1 0 else s.xglStatus 0

/-- A command that is refused: BUSY leaves the held one running. -/
def State.xglRefuse (s : State) (st : Nat) : State := if st = 1 then s.setFld .xglCmd 8 8 1 else s.xglStatus st

/-- TRAIN (R386): held while the synthesiser settles (R375). -/
def execTrain (p : Nat) (master : Master) (s : State) : Out :=
  match s.xglRefused p master true with
  | some st => .next (s.xglRefuse st)
  | none =>
    let pre := s.preempts master
    let s := s.preempt master
    if s.portState p = portSettling then .next ((s.onPort p (fun x => { x with held := some master })).setFld .xglCmd 6 1 1)
    else if s.fld .xglPortStatus 12 1 p = 0 then
      .next (((s.setPortState p portSettling).onPort p (fun x => { x with held := some master })).setFld .xglCmd 6 1 1)
    else .next (((if s.portRuns p || decide (s.portState p = portRetraining) then s.portGoDown p else s).beginTraining p).xglOk pre)

/-- IDLE (R386): electrical idle until the next TRAIN. -/
def execIdle (p : Nat) (master : Master) (s : State) : Out :=
  match s.xglRefused p master true with
  | some st => .next (s.xglRefuse st)
  | none =>
    let pre := s.preempts master
    let s := s.preempt master
    let s := if s.portRuns p || decide (s.portState p = portRetraining) then s.portGoDown p
      else s.onPort p (fun x => { x with training := false, locked := none })
    .next ((s.setPortState p portIdle).xglOk pre)

/-- CLEAR_COUNTS (R386, R391). -/
def execClearCounts (p : Nat) (master : Master) (s : State) : Out :=
  match s.xglRefused p master false with
  | some st => .next (s.xglRefuse st)
  | none => .next (((s.preempt master).setReg .xglErrCount 0#64 p).xglOk (s.preempts master))

end Sys2Proof.Machine
end

