-- ==== Sys2Proof/Machine/LinkFlit.lean ====
section
/-!
DEFINITION. Flits and credits of a port (R346 to R350, R354, R355): frames sent, flits received, and the choice of the next message
(R364, R367).
-/

namespace Sys2Proof.Machine

/-! ### Credits (R354, R355) -/

/-- The credit kinds. -/
def credPool : Nat := 0
def credData : Nat := 1
def credGroup : Nat := 2
def credAck : Nat := 3
def credVote : Nat := 4

/-- The reserves of a receive buffer (R354). -/
def poolSlots : Nat := 13952
def dataReserve : Nat := 128
def groupReserve : Nat := 2
def ackReserve : Nat := 32
def voteReserve : Nat := 16

/-- A count of a table. -/
def used (m : SMap Nat) (k : Nat) : Nat := SMap.get (fun _ => 0) m k

/-- A count of a table raised or lowered. -/
def usedAdd (m : SMap Nat) (k n : Nat) : SMap Nat := SMap.set (fun _ => 0) m k (used m k + n)
def usedSub (m : SMap Nat) (k n : Nat) : SMap Nat := SMap.set (fun _ => 0) m k (used m k - n)

/-- A port takes a credit return (R354). -/
def XPort.takeCredit (x : XPort) (c : Credit) : XPort :=
  if c.kind = credPool then { x with poolUsed := x.poolUsed - c.slots }
  else if c.kind = credData then { x with dataUsed := usedSub x.dataUsed c.cls c.slots }
  else if c.kind = credGroup then { x with groupUsed := usedSub x.groupUsed (64 * c.cls + c.group) c.slots }
  else if c.kind = credAck then { x with ackUsed := usedSub x.ackUsed c.cls c.slots }
  else if c.kind = credVote then { x with voteUsed := usedSub x.voteUsed c.cls c.slots }
  else x

/-- The port with the credits of a whole message taken, its charges written into it (R355); none when they do not cover
it. -/
def XPort.charge (x : XPort) (m : LinkMsg) : Option (XPort × LinkMsg) :=
  let n := msgSlots m
  let c := m.hop
  if m.vote then
    if used x.voteUsed c + n ≤ voteReserve then some ({ x with voteUsed := usedAdd x.voteUsed c n }, { m with grpCharge := 0, charge := 0 })
    else none
  else if m.mtype = 3 then
    if used x.ackUsed c + n ≤ ackReserve then some ({ x with ackUsed := usedAdd x.ackUsed c n }, { m with grpCharge := 0, charge := 0 })
    else none
  else
    let g := if m.group < 64 then min n (groupReserve - used x.groupUsed (64 * c + m.group)) else 0
    let d := min (n - g) (dataReserve - used x.dataUsed c)
    let r := n - g - d
    if x.poolUsed + r ≤ poolSlots then
      some ({ x with groupUsed := usedAdd x.groupUsed (64 * c + m.group) g, dataUsed := usedAdd x.dataUsed c d, poolUsed := x.poolUsed + r },
        { m with grpCharge := g, charge := d })
    else none

/-- The credit returns of a message that the receiver frees (R355). -/
def creditsOf (m : LinkMsg) : List Credit :=
  let n := msgSlots m
  let all : List Credit :=
    if m.vote then [{ cls := m.hop, kind := credVote, group := 0, slots := n }]
    else if m.mtype = 3 then [{ cls := m.hop, kind := credAck, group := 0, slots := n }]
    else [{ cls := m.hop, kind := credGroup, group := m.group, slots := m.grpCharge },
          { cls := m.hop, kind := credData, group := 0, slots := m.charge },
          { cls := m.hop, kind := credPool, group := 0, slots := n - m.grpCharge - m.charge }]
  all.filter (fun c => decide (c.slots ≠ 0))

/-- A message leaves the receive buffer and its slots are returned (R354). -/
def XPort.free (x : XPort) (m : LinkMsg) : XPort :=
  if x.rxBuf.contains m then { x with rxBuf := x.rxBuf.erase m, creditOut := x.creditOut ++ creditsOf m } else x

/-! ### Reception (R349) -/

/-- The flits up to an acknowledged one are freed. -/
def ackedThrough (seq : Nat) (l : List (Nat × List Slot)) : List (Nat × List Slot) :=
  if l.any (fun e => decide (e.1 = seq)) then (l.dropWhile (fun e => decide (e.1 ≠ seq))).drop 1 else l

/-- The flits from a sequence number on. -/
def flitsFrom (seq : Nat) (l : List (Nat × List Slot)) : List (Nat × List Slot) := l.dropWhile (fun e => decide (e.1 ≠ seq))

/-- A port takes a slot (R348): a header opens its message, a data slot fills it. -/
def XPort.takeSlot (x : XPort) : Slot → XPort
  | .empty => x
  | .header m n => if n = 0 then { x with rxBuf := x.rxBuf ++ [{ m with lines := [] }] } else { x with rxPart := some ({ m with lines := [] }, n) }
  | .data l =>
    match x.rxPart with
    | none => x
    | some (m, n) =>
      let m := { m with lines := m.lines ++ [l] }
      if n ≤ 1 then { x with rxPart := none, rxBuf := x.rxBuf ++ [m] } else { x with rxPart := some (m, n - 1) }

/-- A port takes what a flit says of the other direction: acknowledgements, a NAK within the budget, credits (R349, R352,
R354). -/
def XPort.takeControl (x : XPort) (f : Flit) (budget : Nat) : XPort :=
  let x := { x with replay := ackedThrough f.ackSeq.toNat x.replay, resend := ackedThrough f.ackSeq.toNat x.resend }
  let x := match f.nak with
    | none => x
    | some n =>
      let run := if x.nakRun ≠ 0 ∧ x.nakFseq = n.toNat then x.nakRun else 0
      if run < budget then { x with nakFseq := n.toNat, nakRun := run + 1, resend := flitsFrom n.toNat x.replay } else x
  f.credits.foldl (fun x c => x.takeCredit c) x

/-- A NORMAL flit is accepted in order, and any other is discarded until the expected one arrives (R349). -/
def XPort.takeNormal (x : XPort) (f : Flit) : XPort :=
  if f.fseq.toNat = x.rxExpect then
    f.slots.foldl (fun x sl => x.takeSlot sl)
      { x with rxExpect := (x.rxExpect + 1) % 2 ^ 32, rxAny := true, discarding := false }
  else if x.discarding ∨ 2 ^ 31 ≤ (f.fseq.toNat + 2 ^ 32 - x.rxExpect) % 2 ^ 32 then x
  else { x with nakDue := true, discarding := true }

/-- A port acts on the first copy of a CONTROL operation and ignores the copies of the next two frames, whatever operations come between
them (R350). -/
def XPort.takeCtl (x : XPort) (count : Nat) (c : Ctl) : XPort :=
  let seen := x.ctlSeen.filter (fun q => decide ((count + 4096 - q.2) % 4096 ≤ 2))
  if seen.any (fun q => decide (q.1 = c)) then { x with ctlSeen := seen }
  else { x with ctlSeen := seen ++ [(c, count)], ctlIn := x.ctlIn ++ [c] }

/-- A port takes flits from training on. -/
def State.portHears (s : State) (p : Nat) : Bool :=
  s.portRuns p || decide (s.portState p = portTraining) || decide (s.portState p = portRetraining)

/-- The place of the next flit in stream order: its codeword count and its logical lane (R344). -/
def XPort.nextPlace (x : XPort) : Option (Nat × Nat) := x.rxAt <|> x.rxCw.head?.map (fun e => (e.1, 0))

/-- The flit at a place, when it has come, with the port past it: within the skew of four codewords it is waited for, and beyond it it has
not come (R344).  `w` is the width. -/
def XPort.takePlace (x : XPort) (w : Nat) (at_ : Nat × Nat) : Option (Option (List Byte) × XPort) :=
  let next := if at_.2 + 1 < w then (at_.1, at_.2 + 1) else ((at_.1 + 1) % 4096, 0)
  let left := if next.2 = 0 then x.rxCw.filter (fun e => decide (e.1 ≠ at_.1)) else x.rxCw
  match x.rxCw.find? (fun e => decide (e.1 = at_.1) && decide (e.2.1 = at_.2)) with
  | some e => some (e.2.2, { x with rxAt := some next, rxCw := left.erase e })
  | none =>
    if x.rxCw.any (fun e => decide (4 < (e.1 + 4096 - at_.1) % 4096) && decide ((e.1 + 4096 - at_.1) % 4096 < 2048)) then
      some (none, { x with rxAt := some next, rxCw := left })
    else none

/-- A flit is lost: the next one sent carries a NAK, and NORMAL flits are discarded until the expected one arrives (R349). -/
def XPort.loseFlit (x : XPort) : XPort := { x with nakDue := true, discarding := true }

/-- What a flit with a right CRC does at a port (R349). -/
def State.takeFlit (s : State) (p count : Nat) (f : Flit) : State :=
  let s := s.onPort p (fun x => x.takeControl f s.retryBudget)
  match f.kind with
  | .idle => s
  | .normal => s.onPort p (fun x => x.takeNormal f)
  | .control c => s.onPort p (fun x => x.takeCtl count c)

/-- The next flit in stream order is accepted or lost (R344, R347, R349): that of an uncorrectable codeword, and one with a wrong CRC, are
lost.  A width change of the receive direction takes effect between frames. -/
def execFlitReceive (p : Port) (logical : Nat) (s : State) : Out :=
  if !s.portHears p.val then .next s
  else match (s.port p.val).nextPlace with
    | none => .next s
    | some at_ =>
      if at_.2 ≠ logical then .next s
      else match (s.port p.val).takePlace (widthOf (s.rxLanes p.val)) at_ with
      | none => .next s
      | some (b, x) =>
        let s := s.setPort p.val x
        let s := match b with
          | none => s.onPort p.val XPort.loseFlit
          | some b =>
            if flitGood b then s.takeFlit p.val at_.1 (flitOf b)
            else (s.onPort p.val XPort.loseFlit).countEvent p.val 14 at_.2 false
        .next (if (x.rxAt.map Prod.snd) = some 0 then s.rxWidthDue p.val else s)

/-! ### Transmission (R344, R348 to R350) -/

/-- The flit that a port sends next, and the port after it: CONTROL operations first, then resends, then new flits while fewer than
512 are unacknowledged and the fseq of a width change is not reached, else IDLE.  The first flit carries the NAK that is due. -/
def XPort.nextFlit (x : XPort) (up : Bool) (ctl : Option Ctl) : Flit × XPort :=
  let nak := if x.nakDue then some (BitVec.ofNat 32 x.rxExpect) else none
  let base : Flit :=
    { kind := .idle, nak := nak, ackSeq := if x.rxAny then BitVec.ofNat 32 (x.rxExpect + 2 ^ 32 - 1) else 0xFFFFFFFF#32,
      credits := x.creditOut.take 4 }
  let x := { x with nakDue := false, creditOut := x.creditOut.drop 4 }
  match ctl with
  | some c => ({ base with kind := .control c }, x)
  | none =>
    if !up then (base, x)
    else match x.resend with
      | r :: t => ({ base with kind := .normal, replayed := true, fseq := BitVec.ofNat 32 r.1, slots := r.2 }, { x with resend := t })
      | [] =>
        if x.stream.isEmpty ∨ 512 ≤ x.replay.length ∨ (x.widthFrom.map Prod.fst) = some x.txSeq then (base, x)
        else
          let sl := x.stream.take 9
          ({ base with kind := .normal, fseq := BitVec.ofNat 32 x.txSeq, slots := sl ++ List.replicate (9 - sl.length) .empty },
           { x with stream := x.stream.drop 9, txSeq := (x.txSeq + 1) % 2 ^ 32, replay := x.replay ++ [(x.txSeq, sl ++ List.replicate (9 - sl.length) .empty)] })

/-- The flits of a frame of w lanes. -/
def XPort.frameOf (up : Bool) : Nat → List Ctl → XPort → List Flit × XPort
  | 0, _, x => ([], x)
  | w + 1, cs, x =>
    let r := x.nextFlit up cs.head?
    let q := XPort.frameOf up w cs.tail r.2
    (r.1 :: q.1, q.2)

/-- The width of a frame sent: that in force, or, in steps 4 and 5 of a training, that of the lanes which are not retired (DESIGN CHOICE,
log entry 131). -/
def State.txWidth (s : State) (p : Nat) : Nat :=
  if s.portState p = portTraining then widthOf (~~~(s.retiredLanes p 0)) else s.widthNow p 0

/-- A port sends a frame (R343, R344, R349, R350): one codeword with a flit on every lane in use, all with the same count, and each CONTROL
operation once per frame for three frames.  A NAK that goes out is a link replay (R391). -/
def execFrameTransmit (p : Port) (s : State) : Out :=
  if !(s.cwArrive p.val || decide (s.portState p.val = portRetraining)) then .next s
  else
    let s := s.txWidthDue p.val
    let x := s.port p.val
    let w := s.txWidth p.val
    let cs := (x.ctlOut.map Prod.fst).take w
    let r := XPort.frameOf (decide (s.portState p.val = portUp)) w cs x
    let left := (x.ctlOut.take w).filterMap (fun c => if c.2 ≤ 1 then none else some (c.1, c.2 - 1))
    let s := if x.nakDue ∧ w ≠ 0 then s.bump .xglErrCount 48 16 p.val else s
    .next (s.setPort p.val { r.2 with
      frame := (r.1.zip (List.range w)).map (fun f => cwPayload f.2 x.txCw (flitBytes f.1)), txCw := (x.txCw + 1) % 4096,
      ctlOut := left ++ x.ctlOut.drop w })

/-! ### The next message (R364, R367) -/

/-- A DATA queue of a port. -/
def XPort.queue (x : XPort) (q : Nat) : List LinkMsg := SMap.get (fun _ => []) x.dataQ q

/-- The port with a DATA queue set. -/
def XPort.setQueue (x : XPort) (q : Nat) (l : List LinkMsg) : XPort := { x with dataQ := SMap.set (fun _ => []) x.dataQ q l }

/-- A message is this module's own: it has made no hop (R353). -/
def ownMsg (s : State) (m : LinkMsg) : Bool := decide (m.hop = 0) && decide (m.srcDev.toNat = s.devId)

/-- The last message of a transfer with a message on the alternate route waits until every earlier one is acknowledged
(R364). -/
def State.heldLast (s : State) (j : Job) (m : LinkMsg) : Bool :=
  let same (n : LinkMsg) := decide (n.xfer = m.xfer) && decide (n.dstDev = m.dstDev) && decide (n.jobTag = m.jobTag) && ownMsg s n && decide (n ≠ m)
  ownMsg s m && m.last && !m.vote && decide (m.mtype ≠ 3) &&
  j.xfers.any (fun x => decide (x.xfer = m.xfer.toNat) && decide (x.dst = m.dstDev.toNat) && x.usedAlt) &&
  (j.tx.any (fun kv => kv.2.open_.any (fun o => same o.2)) ||
   (List.range 12).any (fun p => (s.port p).dataQ.any (fun kv => kv.2.any same)))

/-- A message may be sent now: its credits are there and nothing holds it. -/
def State.sendable (s : State) (j : Job) (x : XPort) (m : LinkMsg) : Bool := (x.charge m).isSome && !s.heldLast j m

/-- The DATA queue that deficit round-robin serves next (R367; DESIGN CHOICE, log entry 35), by fuel: the queue, and the port's deficits and pointer
as the visit leaves them. -/
def State.drr (s : State) (j : Job) : Nat → XPort → Option (Nat × LinkMsg × XPort)
  | 0, _ => none
  | n + 1, x =>
    let q := x.rrNext
    match x.queue q with
    | [] => State.drr s j n { x with deficit := SMap.erase x.deficit q, rrNext := (q + 1) % 65, rrGranted := false }
    | m :: _ =>
      let d := used x.deficit q + (if x.rrGranted then 0 else 65)
      let x := { x with deficit := SMap.set (fun _ => 0) x.deficit q d, rrGranted := true }
      if msgSlots m ≤ d ∧ s.sendable j x m then
        some (q, m, { x with deficit := SMap.set (fun _ => 0) x.deficit q (d - msgSlots m) })
      else State.drr s j n { x with rrNext := (q + 1) % 65, rrGranted := false }

/-- The message that a port sends next, with the port without it: VOTE, then ACK, then DATA (R367). -/
def State.pickMsg (s : State) (j : Job) (x : XPort) : Option (LinkMsg × XPort) :=
  match x.voteQ, x.ackQ with
  | m :: t, _ => if (x.charge m).isSome then some (m, { x with voteQ := t }) else pickAck s j x
  | [], _ => pickAck s j x
where
  /-- The choice after VOTE. -/
  pickAck (s : State) (j : Job) (x : XPort) : Option (LinkMsg × XPort) :=
    match x.ackQ with
    | m :: t => if (x.charge m).isSome then some (m, { x with ackQ := t }) else pickData s j x
    | [] => pickData s j x
  /-- The choice among the DATA queues. -/
  pickData (s : State) (j : Job) (x : XPort) : Option (LinkMsg × XPort) :=
    (s.drr j 66 x).map (fun r => (r.2.1, r.2.2.setQueue r.1 ((x.queue r.1).drop 1)))

/-- The slots of a message as they travel (R348). -/
def wireSlots (m : LinkMsg) : List Slot := .header { m with lines := [] } m.lines.length :: m.lines.map Slot.data

/-- A message of this module takes the next counter of its key and is encrypted (R360); an acknowledgement keeps the counter that it
reports (DEDUCED, log entry 31). -/
def sealOwn (j : Job) (p : Nat) (m : LinkMsg) : Job × LinkMsg :=
  match j.linkKey with
  | none => (j, m)
  | some lk =>
    let key := msgKey lk m.jobTag.toNat m.srcDev.toNat p m.dstDev.toNat
    let k := txKeyIx p m.dstDev.toNat
    let t := SMap.get (fun _ => {}) j.tx k
    if m.mtype = 3 then (j, msgSeal { m with srcPort := p } key)
    else
      let m := { m with srcPort := p, ctr := t.next }
      ({ j with tx := SMap.set (fun _ => {}) j.tx k { next := t.next + 1, open_ := t.open_ ++ [(t.next, m)] } }, msgSeal m key)

/-- A queued message takes its credits and its header is sent (R348, R355, R367). -/
def execMessageSend (p : Port) (s : State) : Out :=
  let pen := s.penOfPort p.val
  match s.job pen with
  | none => .next s
  | some j =>
    if s.portState p.val ≠ portUp ∨ s.fld .xglPortStatus 13 1 p.val = 1 then .next s
    else match s.pickMsg j (s.port p.val) with
      | none => .next s
      | some (m, x) =>
        match x.charge m with
        | none => .next s
        | some (x, m) =>
          let r := if ownMsg s m then sealOwn j p.val m else (j, m)
          .next ((s.setPort p.val { x with stream := x.stream ++ wireSlots r.2 }).setJob pen (some r.1))

/-- The heads of a port's queues, in the order in which they are served: VOTE, ACK, then DATA from the round-robin pointer. -/
def XPort.heads (x : XPort) : List LinkMsg :=
  x.voteQ.take 1 ++ x.ackQ.take 1 ++ (List.range 65).flatMap (fun i => (x.queue ((x.rrNext + i) % 65)).take 1)

/-- The port without the head of the queue that a message stands in. -/
def XPort.dropHead (x : XPort) (m : LinkMsg) : XPort :=
  if m.vote then { x with voteQ := x.voteQ.drop 1 }
  else if m.mtype = 3 then { x with ackQ := x.ackQ.drop 1 }
  else x.setQueue (dataQueue m) ((x.queue (dataQueue m)).drop 1)

/-- The first waiting head of a queue has waited 4,096 clk for its credits, or its port is not UP: it takes the alternate route where that
is allowed (R364). -/
def execAltRouteTimeout (p : Port) (s : State) : Out :=
  let pen := s.penOfPort p.val
  let x := s.port p.val
  match s.job pen with
  | none => .next s
  | some j =>
    let may (m : LinkMsg) : Bool :=
      let r := routeOf j m.dstDev.toNat
      !m.alt && (decide (s.portState p.val ≠ portUp) || (x.charge m).isNone) && decide (routePrimary r = p.val) && decide (routeAlt r < 12)
    match x.heads.find? may with
    | none => .next s
    | some m =>
      let q := routeAlt (routeOf j m.dstDev.toNat)
      let t := s.onPort p.val (fun x => x.dropHead m)
      let t := t.onPort q (fun x => x.enqueue { m with alt := true, srcPort := if ownMsg s m then q else m.srcPort })
      whenOk (decide (s.fld .devMode 1 1 = 1) && j.useAlt) s
        (if ownMsg s m then
          t.onJob pen (fun j => { j with xfers := j.xfers.map (fun y =>
            if y.xfer = m.xfer.toNat ∧ y.dst = m.dstDev.toNat then { y with usedAlt := true } else y) })
        else t)

end Sys2Proof.Machine
end

