-- ==== Sys2Proof/Machine/LinkMsgs.lean ====
section
/-!
DEFINITION. Messages at a receiving port (R353, R358 to R364, R401 to R403, R412, R413, R559): writes, signals, acknowledgements,
forwarding, and the loss of a link.
-/

namespace Sys2Proof.Machine

/-! ### Acceptance (R361) -/

/-- A message is discarded for order 1 or 2 of R361. -/
def State.unknownJob (s : State) (p : Nat) : State := s.bump .xglE2eCount 32 16 p

/-- The pen whose job a message at a port names, by orders 1 and 2 of R361.  A pen that is being torn down has no job for messages: its
keys are destroyed (R361, R416, R577). -/
def State.msgPen (s : State) (p : Nat) (m : LinkMsg) : Option Nat :=
  let pen := s.penOfPort p
  match s.job pen with
  | some j => if j.tag = m.jobTag.toNat ∧ (s.pen pen).teardownCause.isNone ∧ s.fld .xglPortStatus 13 1 p = 0 then some pen else none
  | none => none

/-- A receiving key. -/
def rxKeyOf (j : Job) (m : LinkMsg) : RxKey := SMap.get (fun _ => {}) j.rx (rxKeyIx m.srcDev.toNat m.srcPort)

/-- The counter of a message is inside the window and not seen (R361 order 4); an acknowledgement has none of its own (DEDUCED, log entry
31). -/
def ctrFresh (j : Job) (m : LinkMsg) : Bool :=
  let k := rxKeyOf j m
  decide (m.mtype = 3) || (decide (k.cum ≤ m.ctr) && decide (m.ctr < k.cum + 1024) && !k.seen.contains m.ctr)

/-- A tag that does not verify (R361 order 3): counted, E2E_AUTH_FAIL, the fault bit; detector 16. -/
def State.authFail (s : State) (p pen : Nat) (m : LinkMsg) (injected : Bool) : State :=
  let s := (s.bump .xglE2eCount 0 16 p).postLink p 376 [ef m.srcDev.toNat]
  (s.countEvent p 16 0 injected).orStatus pen stFault

/-- A port tests a message in the order of R361: the pen, its job and the plain lines of one it accepts. -/
def State.admitMsg (s : State) (p : Nat) (m : LinkMsg) : State × Option (Nat × Job × List (List Byte)) :=
  match s.msgPen p m with
  | none => (s.unknownJob p, none)
  | some pen =>
    let j := s.jobD pen
    let f := s.fireOnPort 16 p
    let s := f.1
    let open_ := match j.linkKey with
      | some lk => msgOpen m (msgKey lk m.jobTag.toNat m.srcDev.toNat m.srcPort m.dstDev.toNat)
      | none => none
    match open_ with
    | none => (s.authFail p pen m false, none)
    | some ls =>
      if f.2 then (s.authFail p pen m true, none)
      else if !ctrFresh j m then (s.bump .xglE2eCount 16 16 p, none)
      else (s, some (pen, j, ls))

/-! ### Acknowledgement (R359) -/

/-- A receiving key after a counter is performed. -/
def RxKey.perform (k : RxKey) (c : Nat) : RxKey :=
  let seen := k.seen ++ [c]
  let cum := (List.range (seen.length + 1)).foldl (fun n _ => if seen.contains n then n + 1 else n) k.cum
  { cum := cum, seen := seen.filter (fun x => decide (cum ≤ x)), sinceAck := k.sinceAck + 1 }

/-- The ACK message of a key (R356, R359): the highest counter up to which all are performed, and the bitmap above it. -/
def ackMsg (s : State) (j : Job) (p dev : Nat) (k : RxKey) : LinkMsg :=
  { mtype := 3, last := true, group := 0x7F, jobTag := BitVec.ofNat 16 j.tag, srcDev := BitVec.ofNat 16 s.devId,
    dstDev := BitVec.ofNat 16 dev, srcPort := p, ctr := (k.cum + 2 ^ 64 - 1) % 2 ^ 64,
    mask := maskBits ((List.range 64).map (fun i => k.seen.contains (k.cum + i))) }

/-- Sends the ACK of a key by the port at which its messages arrive. -/
def State.sendAck (s : State) (p pen dev srcPort : Nat) : State :=
  let j := s.jobD pen
  let ix := rxKeyIx dev srcPort
  let k := SMap.get (fun _ => {}) j.rx ix
  let s := s.onPort p (fun x => x.enqueue (ackMsg s j p dev k))
  s.onJob pen (fun j => { j with rx := SMap.set (fun _ => {}) j.rx ix { k with sinceAck := 0 } })

/-- The signals that a message carries (R358); a closing group's transfers apply none (R413), and a counter that is not granted
cannot be signalled (R280). -/
def State.msgSignals (s : State) (pen : Nat) (m : LinkMsg) : State :=
  let j := s.jobD pen
  if (m.group < 64 ∧ (groupRec j m.group).closing) ∨ !targetOk j m.target then s
  else
    let s := if m.sigBlk ∧ s.granted pen m.target m.blkCtr then s.remoteSignal pen m.target m.blkCtr 1#32 else s
    if m.sigDone ∧ s.granted pen m.target m.doneCtr then s.remoteSignal pen m.target m.doneCtr m.doneAdd else s

/-- An earlier message of the same transfer has arrived and is not performed (R358; DESIGN CHOICE, log entry 131: the messages of a key on one
route arrive in order, so an earlier one that is still to be performed stands in a receive buffer). -/
def State.earlierWaits (s : State) (m : LinkMsg) : Bool :=
  let earlier (n : LinkMsg) := decide (n.srcDev = m.srcDev) && decide (n.srcPort = m.srcPort) && decide (n.jobTag = m.jobTag) &&
    decide (n.xfer = m.xfer) && decide (n.mtype ≠ 3) && decide (n.ctr < m.ctr)
  (List.range 12).any (fun p => (s.port p).rxBuf.any earlier)

/-- The signals of performed messages whose transfers have no earlier message left to perform are applied, in the order in which those
messages were performed (R358). -/
def State.releaseSignals (s : State) (pen : Nat) : State :=
  let j := s.jobD pen
  let free (m : LinkMsg) := !s.earlierWaits m
  (j.rxHeld.filter free).foldl (fun s m => s.msgSignals pen m)
    (s.onJob pen (fun j => { j with rxHeld := j.rxHeld.filter (fun m => !free m) }))

/-- The counter of a message performed is noted, and every sixteenth is acknowledged (R359). -/
def State.noteCounter (s : State) (p pen : Nat) (m : LinkMsg) : State :=
  if (s.job pen).isNone then s
  else
    let k := (rxKeyOf (s.jobD pen) m).perform m.ctr
    let s := s.onJob pen (fun j => { j with rx := SMap.set (fun _ => {}) j.rx (rxKeyIx m.srcDev.toNat m.srcPort) k })
    if 16 ≤ k.sinceAck then s.sendAck p pen m.srcDev.toNat m.srcPort else s

/-- A message is performed: its signals come once every earlier message of its transfer is performed too (R358), and its counter is
acknowledged (R359). -/
def State.performed (s : State) (p pen : Nat) (m : LinkMsg) : State :=
  ((s.onJob pen (fun j => { j with rxHeld := j.rxHeld ++ [m] })).releaseSignals pen).noteCounter p pen m

/-- 512 clk have passed since the oldest message performed and not acknowledged (R359). -/
def execAckTimer (p : Port) (srcDev : BitVec 16) (srcPort : Nat) (s : State) : Out :=
  let pen := s.penOfPort p.val
  let k := SMap.get (fun _ => {}) (s.jobD pen).rx (rxKeyIx srcDev.toNat srcPort)
  whenOk ((s.job pen).isSome && decide (0 < k.sinceAck)) s (s.sendAck p.val pen srcDev.toNat srcPort)

/-- A counter that an ACK reports as performed. -/
def ackCovers (m : LinkMsg) (c : Nat) : Bool :=
  let n := (m.ctr + 1) % 2 ^ 64
  decide (c < n) || (decide (c < n + 64) && m.mask.getLsbD (c - n))

/-- The sending key that an ACK at a port concerns: the port's own towards the device, else the lowest of the pen's ports that has one
(DEDUCED, log entry 31). -/
def State.ackedKey (s : State) (j : Job) (p pen dev : Nat) : Option Nat :=
  ((p :: s.baysOf pen).map (fun q => txKeyIx q dev)).find? (fun k => (SMap.find j.tx k).isSome)

/-- A message of a transfer is queued on some port or not acknowledged. -/
def State.xferBusy (s : State) (j : Job) (x : Xfer) : Bool :=
  let of (m : LinkMsg) := decide (m.xfer.toNat = x.xfer) && decide (m.dstDev.toNat = x.dst) && decide (m.jobTag.toNat = j.tag) &&
    decide (m.srcDev.toNat = s.devId) && !m.vote
  j.tx.any (fun kv => kv.2.open_.any (fun o => of o.2)) ||
  (List.range 12).any (fun p => (s.port p).dataQ.any (fun kv => kv.2.any of))

/-- A transfer whose messages are all acknowledged enters its port's record (R368). -/
def State.recordXfer (s : State) (x : Xfer) : State :=
  s.onPort x.port (fun y =>
    if y.ackRecord.length < 98304 then { y with ackRecord := y.ackRecord ++ [(x.xfer, x.dst, x.digest)] } else { y with overflow := true })

/-- The transfers that are complete leave the job's list for the record; one that was dropped leaves it unrecorded. -/
def State.completeXfers (s : State) (pen : Nat) : State :=
  let j := s.jobD pen
  let done (x : Xfer) := (x.cut || x.dropped) && !s.xferBusy j x
  ((j.xfers.filter (fun x => x.cut && done x)).foldl (fun s x => s.recordXfer x) s).onJob pen
    (fun j => { j with xfers := j.xfers.filter (fun x => !done x) })

/-- An ACK message frees acknowledged messages (R359, R368). -/
def execAck (p : Port) (msg : LinkMsg) (s : State) : Out :=
  if s.portDeaf p.val ∨ msg.mtype ≠ 3 ∨ msg.dstDev.toNat ≠ s.devId then .next s
  else
    let s := s.onPort p.val (fun x => x.free msg)
    match s.admitMsg p.val msg with
    | (s, none) => .next s
    | (s, some (pen, j, _)) =>
      match s.ackedKey j p.val pen msg.srcDev.toNat with
      | none => .next s
      | some k =>
        let t : TxKey := SMap.get (fun _ => {}) j.tx k
        let s := s.onJob pen (fun j => { j with
          tx := SMap.set (fun _ => {}) j.tx k { t with open_ := t.open_.filter (fun o => !ackCovers msg o.1) } })
        .next (s.completeXfers pen)

/-! ### Chunks (R401 to R403) -/

/-- The reception of a transfer. -/
def rxXferOf (j : Job) (m : LinkMsg) : RxXfer :=
  (j.rxXfers.find? (fun x => decide (x.srcDev = m.srcDev.toNat) && decide (x.xfer = m.xfer.toNat))).getD
    { srcDev := m.srcDev.toNat, xfer := m.xfer.toNat }

/-- The job with a transfer's reception replaced, or gone with the transfer's last message. -/
def putRxXfer (j : Job) (x : RxXfer) (gone : Bool) : Job :=
  let rest := j.rxXfers.filter (fun y => !(decide (y.srcDev = x.srcDev) && decide (y.xfer = x.xfer)))
  { j with rxXfers := if gone then rest else rest ++ [x] }

/-- Every suffix of a list. -/
def suffixes {α : Type} : List α → List (List α)
  | [] => [[]]
  | x :: t => (x :: t) :: suffixes t

/-- A digest slot's bytes past its fields are zero (R401). -/
def slotLike (l : List Byte) : Bool := decide (l.drop 12 = zeros 52)

/-- A message of a grouped transfer ends a chunk (R401): it is the transfer's last, or with what came before it makes a whole chunk
and a slot. -/
def endsChunk (size : Nat) (x : RxXfer) (m : LinkMsg) : Bool :=
  m.last || (slotLike (m.lines.getLastD []) &&
    (suffixes x.msgs).any (fun ms => decide (ms.flatten.length + 64 * (m.lines.length - 1) = size)))

/-- The digest of the slot is that of the chunk (R403). -/
def chunkMatches (size : Nat) (x : RxXfer) (m : LinkMsg) : Bool :=
  let slot := m.lines.getLastD []
  (suffixes x.msgs).any (fun ms =>
    decide ((rangeDigestAt (fieldAt slot 8 4 * (size / 2048)) (ms.flatten ++ m.lines.dropLast.flatten)).toNat = fieldAt slot 0 8))

/-- A chunk's digest differs (R403): the digest bit, DIGEST_MISMATCH, XGL_DIGEST_LAST and the count; detector 17. -/
def State.digestMismatch (s : State) (p pen : Nat) (m : LinkMsg) (injected : Bool) : State :=
  let dev := m.srcDev.toNat
  let x := m.xfer.toNat
  let ix := fieldAt (m.lines.getLastD []) 8 4
  let s := s.orStatus pen stDigest
  let s := s.postBoth pen 329 (s.stepOf pen) [ef dev, ef (x % 256), ef m.group, ef (x / 256), ef ix]
  let s := s.setReg .xglDigestLast (BitVec.ofNat 64 (dev + x % 256 * 2 ^ 16 + m.group % 64 * 2 ^ 24 + x / 256 * 2 ^ 32 + 2 ^ 63)) (pen - 1)
  let s := s.bump .xglGroupStat 32 16 (64 * (pen - 1) + m.group)
  (s.countEvent p 17 0 injected).silentError 17 p dev pen dev

/-! ### WRITE (R358) -/

/-- The lines of a message written through the window table, each with its poison bit. -/
def State.writeLines (s : State) (pen va : Nat) (mask : Word64) (lines : List (List Byte)) : State :=
  (lines.zip (List.range lines.length)).foldl (fun s l => s.vaStore pen (va + 64 * l.2) l.1 (mask.getLsbD l.2)) s

/-- A failed translation of a REMOTE write (R358, R383): PROGRAM_FAULT, XGL_REMOTE_WINDOW. -/
def State.remoteWindow (s : State) (pen : Nat) (m : LinkMsg) : State :=
  s.progFault pen (m.xfer.toNat % 256) 0 slotMove 48 [ef m.srcDev.toNat, ef (m.xfer.toNat % 256)]

/-- A WRITE of data is performed: chunk and digest, lines, signals, the count of chunks (R358, R401 to R403, R410, R412). -/
def State.dataWrite (s : State) (p pen : Nat) (m : LinkMsg) : State :=
  let j := s.jobD pen
  let r := groupRec j m.group
  let grouped := decide (m.group < 64)
  let size := 2 ^ r.chunkLog2
  let x := rxXferOf j m
  let ends := grouped && endsChunk size x m
  let lines := if ends then m.lines.dropLast else m.lines
  if (s.rangeCause pen true m.dstVa (64 * lines.length)).isSome then s.remoteWindow pen m
  else
    let rank := j.rankDev.findIdx (fun d => decide (d = m.srcDev.toNat))
    let keep := !(grouped && r.closing) || (groupRxOf j m.group).writes r ((r.memberOf rank).getD 0)
    let s := if keep then s.writeLines pen m.dstVa m.mask lines else s
    if !grouped then s.performed p pen m
    else
      let ix := fieldAt (m.lines.getLastD []) 8 4
      let f := if ends then s.fireOnPort 17 p else (s, false)
      let s := f.1
      let bad := ends && (!chunkMatches size x m || f.2)
      let s := if bad then s.digestMismatch p pen m (f.2 && chunkMatches size x m) else s
      let y : RxXfer := if ends then { x with msgs := [], chunk := max x.chunk (ix + 1) } else { x with msgs := x.msgs ++ [lines.flatten] }
      let s := s.onJob pen (fun j => putRxXfer j y m.last)
      let s := s.performed p pen m
      if ends ∧ x.chunk ≤ ix then s.chunkDone pen m.group rank else s

/-- A buddy write (R559): untranslated, into the BUDDY region; the slot it falls into becomes invalid, and valid with its header,
which ends the validity of the other. -/
def State.buddyWrite (s : State) (p pen : Nat) (r : Nat × Nat × Nat) (m : LinkMsg) : State :=
  let off := m.dstVa - 2 ^ 47
  let half := regionSize r / 2
  let s := (m.lines.zip (List.range m.lines.length)).foldl (fun s l =>
    if off + 64 * l.2 + 64 ≤ regionSize r then s.devWrite (regionDpa r (off + 64 * l.2)) l.1 (m.mask.getLsbD l.2) else s) s
  let k := if off < half then 0 else 1
  let s := s.setFld .updCkpt (5 + k) 1 (if off % half = 0 then 1 else 0) (pen - 1)
  let s := if off % half = 0 then s.setFld .updCkpt (6 - k) 1 0 (pen - 1) else s
  s.performed p pen m

/-- A message is a buddy write of the armed receive (R559). -/
def isBuddyWrite (j : Job) (m : LinkMsg) : Bool :=
  decide (m.group = 0x7F) && decide (2 ^ 47 ≤ m.dstVa) && decide (j.buddyFrom = some m.srcDev.toNat) && j.buddy.isSome

/-- Where a vote message comes from in the tree (R446). -/
def voteSrc (j : Job) (dev : Nat) : Option VoteSrc :=
  match (treeKids j.rank (j.ranksM1 + 1)).find? (fun r => decide (rankDevOf j r = dev)) with
  | some r => some (.child r)
  | none => if j.rank ≠ 0 ∧ rankDevOf j (treeParent j.rank) = dev then some .parent else none

/-- What a vote line carries (R446, R449): a resync payload while the module is on its way to a round. -/
def votePayload (j : Job) (l : List Byte) : VotePayload :=
  if (j.draining ∨ j.resync ∨ j.holdRound) ∧ !j.resyncOut then .resync (fieldAt l 0 8) (fieldAt l 8 4)
  else .vote { step := fieldAt l 0 8, attempt := fieldAt l 8 4, nonfinite := fieldAt l 12 4,
               status := BitVec.ofNat 64 (fieldAt l 16 8),
               digests := (List.range 4).map (fun i => BitVec.ofNat 64 (fieldAt l (24 + 8 * i) 8)) }

/-- A vote message reaches the update controller (R446). -/
def State.voteWrite (s : State) (p pen : Nat) (m : LinkMsg) : State :=
  let j := s.jobD pen
  let s := s.performed p pen m
  match voteSrc j m.srcDev.toNat with
  | some src => s.voteIn pen src (votePayload j (m.lines.headD []))
  | none => s

/-- A WRITE message for this device is checked and performed (R358, R361); a port that is absent, quiet or in electrical idle receives
nothing (R374). -/
def execWrite (p : Port) (msg : LinkMsg) (s : State) : Out :=
  if s.portDeaf p.val ∨ msg.mtype ≠ 1 ∨ msg.dstDev.toNat ≠ s.devId then .next s
  else
    let s := s.onPort p.val (fun x => x.free msg)
    match s.admitMsg p.val msg with
    | (s, none) => .next s
    | (s, some (pen, j, ls)) =>
      let m := { msg with lines := ls }
      if m.vote then .next (s.voteWrite p.val pen m)
      else if isBuddyWrite j m then .next (s.buddyWrite p.val pen (j.buddy.getD (0, 0, 0)) m)
      else .next (s.dataWrite p.val pen m)

/-- A SIGNAL message of an empty transfer applies its signals (R357, R358). -/
def execSignal (p : Port) (msg : LinkMsg) (s : State) : Out :=
  if s.portDeaf p.val ∨ msg.mtype ≠ 2 ∨ msg.dstDev.toNat ≠ s.devId then .next s
  else
    let s := s.onPort p.val (fun x => x.free msg)
    match s.admitMsg p.val msg with
    | (s, none) => .next s
    | (s, some (pen, _, _)) => .next (s.performed p.val pen msg)

/-! ### Forwarding and loss -/

/-- A message for another device is forwarded by the route table of its job (R353, R364); one that cannot be ends the job
(R515). -/
def execMessageForward (p : Port) (msg : LinkMsg) (s : State) : Out :=
  if s.portDeaf p.val ∨ msg.dstDev.toNat = s.devId then .next s
  else
    let s := s.onPort p.val (fun x => x.free msg)
    match s.msgPen p.val msg with
    | none => .next (s.unknownJob p.val)
    | some pen =>
      if 7 ≤ msg.hop then .next ((s.postLink p.val 377 [ef msg.dstDev.toNat]).terminal pen 377 [ef p.val, ef msg.dstDev.toNat])
      else match s.routeChoice (s.jobD pen) msg.dstDev.toNat with
        | none => .next ((s.postLink p.val 378 [ef msg.dstDev.toNat]).terminal pen 378 [ef p.val, ef msg.dstDev.toNat])
        | some (q, alt) => .next (s.onPort q (fun x => x.enqueue { msg with hop := msg.hop + 1, alt := msg.alt || alt }))

/-- A sending key belongs to a port. -/
def keyOfPort (p k : Nat) : Bool := decide (k / 65536 = p)

/-- A port that is not UP holds messages of this module for a job (R378). -/
def State.ownWaits (s : State) (p : Nat) (j : Job) : Bool :=
  let x := s.port p
  let own (m : LinkMsg) := ownMsg s m && decide (m.jobTag.toNat = j.tag)
  decide (s.portState p ≠ portUp) && (x.voteQ.any own || x.ackQ.any own || x.dataQ.any (fun kv => kv.2.any own))

/-- No acknowledgement within t_xgl_e2e (R359), or of messages that wait for a port which is down (R378, R382): LINK_LOST, which ends the
job (R449, R515); what waits for acknowledgement on the port is given up. -/
def execLinkLost (p : Port) (s : State) : Out :=
  let pen := s.penOfPort p.val
  match s.job pen with
  | none => .next s
  | some j =>
    whenOk (j.tx.any (fun kv => keyOfPort p.val kv.1 && !kv.2.open_.isEmpty) || s.ownWaits p.val j) s
      (let s := (s.postLink p.val 374 []).onJob pen (fun j => { j with tx := j.tx.map (fun kv => if keyOfPort p.val kv.1 then (kv.1, { kv.2 with open_ := [] }) else kv) })
       s.terminal pen evLinkLost [ef p.val])

end Sys2Proof.Machine
end

