-- ==== Sys2Proof/Machine/PlanLoad.lean ====
section
/-!
DEFINITION. The update plan as the loader reads and checks it (R426 to R431, R122, R443, R485).
-/

namespace Sys2Proof.Machine

/-! ### The plan's bytes (R427 to R429) -/

def planSize (b : List Byte) : Nat := fieldAt b 0x1C 4
def planScheds (b : List Byte) : List (List Byte) := tableOf b 0x40 (fieldAt b 0x19 1) 800
def planTensors (b : List Byte) : List (List Byte) := tableOf b (0x40 + 800 * fieldAt b 0x19 1) (fieldAt b 0x1A 2) 128

/-- The kind of a schedule record; the points that it uses. -/
def schedKind (e : List Byte) : SchedKind :=
  if fieldAt e 0 1 = 0 then .constant else if fieldAt e 0 1 = 1 then .warmupLinear else if fieldAt e 0 1 = 2 then .cosine else .piecewise
def schedPoints (e : List Byte) : List (Nat × Elem) :=
  (List.range (fieldAt e 1 1)).map (fun i => (fieldAt e (0x20 + 8 * i) 8, BitVec.ofNat 32 (fieldAt e (0x220 + 4 * i) 4)))
def schedOf (e : List Byte) : Schedule :=
  { kind := schedKind e, eta := BitVec.ofNat 32 (fieldAt e 0x18 4), etaMin := BitVec.ofNat 32 (fieldAt e 0x1C 4), w := fieldAt e 8 8,
    s := fieldAt e 0x10 8, pts := schedPoints e }

/-- A 48-bit address field. -/
def vaField (e : List Byte) (off : Nat) : Nat := fieldAt e off 6
def vaPair (e : List Byte) (off : Nat) : Nat × Nat := (vaField e off, vaField e (off + 8))

/-- A format code of a record, FP32 where it names none. -/
def recFmt (c : Nat) : Fmt := (Fmt.ofCode c).getD .fp32

/-- A tensor record by its fields. -/
def tensorOf (e : List Byte) : TensorRec :=
  let fl := fieldAt e 5 1
  { isMetric := decide (fieldAt e 0 1 = 2), opt := fieldAt e 1 1, pfmt := recFmt (fieldAt e 2 1), mfmt := recFmt (fieldAt e 3 1),
    gfmt := recFmt (fieldAt e 4 1), clip := fl.testBit 0, decay := fl.testBit 1, srParam := fl.testBit 2, srMoment := fl.testBit 3,
    fpOwner := fl.testBit 4, sched := fieldAt e 6 1, group := fieldAt e 7 1, elems := fieldAt e 8 5, indexBase := fieldAt e 0x10 6,
    stream := BitVec.ofNat 32 (fieldAt e 0x18 4), micro := fieldAt e 0x1C 1, lenLog2 := fieldAt e 0x1D 1, paramVa := vaPair e 0x20,
    mVa := vaPair e 0x30, vVa := vaPair e 0x40, gradVa := vaPair e 0x50, beta1 := BitVec.ofNat 32 (fieldAt e 0x60 4),
    beta2 := BitVec.ofNat 32 (fieldAt e 0x64 4), eps := BitVec.ofNat 32 (fieldAt e 0x68 4), wd := BitVec.ofNat 32 (fieldAt e 0x6C 4),
    clipC := BitVec.ofNat 32 (fieldAt e 0x70 4), gcrestVa := vaField e 0x78 }

/-- The plan. -/
def planOf (b : List Byte) : Plan :=
  { startStep := fieldAt b 8 8, headerVa := vaField b 0x10, gateCtr := fieldAt b 0x18 1, scheds := (planScheds b).map schedOf,
    recs := (planTensors b).map tensorOf, scalarVa := (vaField b 0x20, vaField b 0x28) }

/-! ### The checks (R431) -/

/-- Order 1: the header; its records lie in the plan. -/
def planOrder1 (b : List Byte) : Option LoadFail :=
  failIf (decide (fieldAt b 0 4 ≠ 0x50554541) || decide (fieldAt b 4 2 ≠ 1) || decide (8 < fieldAt b 0x19 1) || decide (fieldAt b 0x1A 2 = 0) ||
    decide (4096 < fieldAt b 0x1A 2) || decide (planSize b < 0x40 + 800 * fieldAt b 0x19 1 + 128 * fieldAt b 0x1A 2) ||
    decide (vaField b 0x10 % 64 ≠ 0)) rsPlanInvalid

/-- The top sixteen bits of an address field are not zero. -/
def vaReserved (e : List Byte) (off : Nat) : Bool := someNonzero e (off + 6) 2

/-- The reserved fields and values of a tensor record (R429). -/
def tensorReserved (e : List Byte) : Bool :=
  let metric := decide (fieldAt e 0 1 = 2)
  let opt := fieldAt e 1 1
  decide (fieldAt e 0 1 = 0) || decide (2 < fieldAt e 0 1) || decide (32 ≤ fieldAt e 5 1) || someNonzero e 0x0D 3 || someNonzero e 0x1E 2 ||
  someNonzero e 0x74 4 || [0x10, 0x20, 0x28, 0x30, 0x38, 0x40, 0x48, 0x50, 0x58, 0x78].any (vaReserved e) ||
  (if metric then
    decide (opt ≠ 0) || someNonzero e 3 2 || decide (fieldAt e 5 1 % 16 ≠ 0) || someNonzero e 6 1 || someNonzero e 0x18 6 || someNonzero e 0x28 56 ||
    someNonzero e 0x60 20 || someNonzero e 0x78 8
   else decide (3 < opt) || ((decide (opt = 0) || decide (opt = 2)) && someNonzero e 0x40 16))

/-- Order 2: reserved fields and values; the index counts schedule records, then tensor records, which R641 does not say (DESIGN CHOICE,
log entry 132). -/
def planOrder2 (b : List Byte) : Option LoadFail :=
  firstOf [
    failIf (someNonzero b 6 2 || vaReserved b 0x10 || vaReserved b 0x20 || vaReserved b 0x28 || someNonzero b 0x30 16) rsReserved,
    ((withIndex (planScheds b)).find? (fun e => someNonzero e.1 2 6)).map (fun e => { status := rsReserved, index := e.2 }),
    ((withIndex (planTensors b)).find? (fun e => tensorReserved e.1)).map (fun e => { status := rsReserved, index := (planScheds b).length + e.2 })]

/-- An FP32 word is infinite or NaN. -/
def notFinite (w : Elem) : Bool := decide (w.toNat / 2 ^ 23 % 256 = 255)

/-- The rates that a schedule's kind uses (R122). -/
def schedRates (k : Schedule) : List Elem :=
  match k.kind with
  | .constant => [k.eta]
  | .warmupLinear | .cosine => [k.eta, k.etaMin]
  | .piecewise => k.pts.map Prod.snd

/-- Adjacent points ascend strictly, by less than 2^40. -/
def pointsAscend (ps : List Nat) : Bool := (ps.zip (ps.drop 1)).all (fun q => decide (q.1 < q.2) && decide (q.2 - q.1 < 2 ^ 40))

/-- A schedule record is refused (R122, R428). -/
def schedBad (e : List Byte) : Bool :=
  let k := schedOf e
  let np := fieldAt e 1 1
  decide (3 < fieldAt e 0 1) || (decide (fieldAt e 0 1 ≠ 3) && decide (np ≠ 0)) || (decide (fieldAt e 0 1 = 3) && (decide (np = 0) || decide (64 < np))) ||
  someNonzero e (0x20 + 8 * np) (8 * (64 - np)) || someNonzero e (0x220 + 4 * np) (4 * (64 - np)) || decide (2 ^ 40 ≤ k.w) || decide (2 ^ 40 ≤ k.s) ||
  !pointsAscend (k.pts.map Prod.fst) || (schedRates k).any notFinite

/-- Order 3. -/
def planOrder3 (b : List Byte) : Option LoadFail :=
  ((withIndex (planScheds b)).find? (fun e => schedBad e.1)).map (fun e => { status := rsScheduleInvalid, index := e.2 })

/-- The format codes of a parameter or gradient, and of a moment (R429). -/
def fmt3 (c : Nat) : Bool := decide (c ≤ 2)
def fmt2 (c : Nat) : Bool := decide (c ≤ 1)

/-- An FP32 clipping threshold is greater than 0. -/
def clipPositive (w : Elem) : Bool := decide (0 < w.toNat) && decide (w.toNat ≤ 0x7F800000)

/-- A tensor record is refused at order 4 (R429, R431, R443, R485); a record of no elements and a clipping threshold that is not greater
than 0 are refused there too (DESIGN CHOICE, log entry 132). -/
def tensorBad (micros : List ImageBytes) (groups : List GroupRec) (rank scheds : Nat) (e : List Byte) : Bool :=
  let t := tensorOf e
  let owner := t.fpOwner && (decide (t.indexBase * fmtSize t.pfmt % 2048 ≠ 0) || (!t.isMetric && decide (t.indexBase * fmtSize t.mfmt % 2048 ≠ 0)))
  !fmt3 (fieldAt e 2 1) || decide (t.elems = 0) || owner ||
  (if t.isMetric then decide (t.group ≠ 0x7F)
   else !fmt2 (fieldAt e 3 1) || !fmt3 (fieldAt e 4 1) || decide (scheds ≤ t.sched) ||
     (decide (t.group ≠ 0x7F) && !(match groups[t.group]? with | some g => g.valid && (g.memberOf rank).isSome | none => false)) ||
     (decide (t.opt = 3) && (match micros[t.micro]? with
       | some m => microBlocks m && decide (t.indexBase % 256 ≠ 0)
       | none => true)) ||
     (t.clip && !clipPositive t.clipC))

/-- Order 4. -/
def planOrder4 (micros : List ImageBytes) (groups : List GroupRec) (rank : Nat) (b : List Byte) : Option LoadFail :=
  ((withIndex (planTensors b)).find? (fun e => tensorBad micros groups rank (planScheds b).length e.1)).map
    (fun e => { status := rsPlanInvalid, index := (planScheds b).length + e.2 })

/-- Every address range of a record with the permissions that the sweep needs over both banks: address, bytes, read, write (R437,
R438). -/
def recSpans (t : TensorRec) : List (Nat × Nat × Bool × Bool) :=
  let n := t.elems
  let two (p : Nat × Nat) (sz : Nat) (w : Bool) : List (Nat × Nat × Bool × Bool) := [(p.1, sz, true, w), (p.2, sz, true, w)]
  if t.isMetric then [(t.paramVa.1, n * fmtSize t.pfmt, true, false)]
  else two t.paramVa (n * fmtSize t.pfmt) true ++ two t.mVa (n * fmtSize t.mfmt) true ++ two t.gradVa (n * fmtSize t.gfmt) false ++
    (if usesV t then two t.vVa (n * fmtSize t.mfmt) true else []) ++
    (if t.clip then [(t.gcrestVa, 2 * ((n + 63) / 64), true, false)] else [])

/-- A range lies in valid window entries with its permissions. -/
def State.spanOk (s : State) (pen : Nat) (x : Nat × Nat × Bool × Bool) : Bool :=
  (!x.2.2.1 || (s.rangeCause pen false x.1 x.2.1).isNone) && (!x.2.2.2 || (s.rangeCause pen true x.1 x.2.1).isNone)

/-- A record's ranges lie in the region of its microprogram (R440). -/
def microCovers (micros : List ImageBytes) (t : TensorRec) : Bool :=
  if t.isMetric || decide (t.opt ≠ 3) then true
  else match micros[t.micro]? with
    | some m => match ((imgRegionBytes m).map regionOf).head? with
      | some r => (recSpans t).all (fun x => decide (r.base ≤ x.1) && decide (x.1 + x.2.1 ≤ r.base + r.size))
      | none => false
    | none => false

/-- Order 5. -/
def State.planOrder5 (s : State) (pen : Nat) (micros : List ImageBytes) (b : List Byte) : Option LoadFail :=
  let p := planOf b
  let n := 16 * p.recs.length
  firstOf [
    failIf ([(p.headerVa, 64, false, true), (p.scalarVa.1, n, true, true), (p.scalarVa.2, n, true, true)].any (fun x => !s.spanOk pen x)) rsPlanInvalid,
    ((withIndex p.recs).find? (fun t => !(recSpans t.1).all (s.spanOk pen) || !microCovers micros t.1)).map
      (fun t => { status := rsPlanInvalid, index := p.scheds.length + t.2 })]

/-- Order 6: the gate counter is in the counter table of every core program (R433). -/
def planOrder6 (progs : List ImageBytes) (b : List Byte) : Option LoadFail :=
  failIf (progs.any (fun x => !(imgCounters x).any (fun e => decide (fieldAt e 0 1 = fieldAt b 0x18 1)))) rsCounterUnallocated

/-- The plan's check in the orders of R431. -/
def State.checkPlan (s : State) (pen : Nat) (progs micros : List ImageBytes) (groups : List GroupRec) (rank : Nat) (b : List Byte) : Option LoadFail :=
  firstOf [planOrder1 b, planOrder2 b, planOrder3 b, planOrder4 micros groups rank b, s.planOrder5 pen micros b, planOrder6 progs b]

end Sys2Proof.Machine
end

