-- ==== Sys2Proof/Machine/Loader.lean ====
section
/-!
DEFINITION. JOB_LOAD (R640 to R642): the parameter block, the checks of R641 in their order, the placement of R55, and what a
successful load sets up.
-/

namespace Sys2Proof.Machine

/-! ### The parameter block (R640) -/

def loadProgs (p : List Byte) : Nat := fieldAt p 0x0C 2
def loadMicros (p : List Byte) : Nat := fieldAt p 0x0E 1
def loadCores (p : List Byte) : List Nat := (slice p 0xD0 144).map BitVec.toNat

/-- Address and buffer bytes of an image of the list: core images first, then microprograms. -/
def loadEntry (p : List Byte) (i : Nat) : Nat × Nat := (fieldAt p (0x160 + 16 * i) 8, fieldAt p (0x168 + 16 * i) 4)

/-- The parameter block itself: its length, its reserved fields, its counts and the image of each core. -/
def checkParams (p : List Byte) : Option LoadFail :=
  let n := loadProgs p + loadMicros p
  failIf (decide (p.length < 0x160 + 16 * n)) rsLength <|>
  failIf (decide (2 ≤ fieldAt p 0x0F 1) || someNonzero p 0x1C 4 || someNonzero p 0xCC 4 ||
    (List.range n).any (fun i => someNonzero p (0x16C + 16 * i) 4)) rsReserved <|>
  failIf (decide (loadProgs p = 0) || decide (144 < loadProgs p) || decide (16 < loadMicros p)) rsImageInvalid <|>
  ((withIndex (loadCores p)).find? (fun c => decide (c.1 ≠ 0xFF) && decide (loadProgs p ≤ c.1))).map (fun c => { status := rsImageInvalid, index := c.2 })

/-- A buffer of the host: address, bytes, the offset of the image's total_size field and the bytes of its header. -/
structure LoadBuf where
  addr : Nat
  len : Nat
  sizeAt : Nat
  least : Nat
  deriving DecidableEq, Repr

def combBuf (p : List Byte) : LoadBuf := { addr := fieldAt p 0 8, len := fieldAt p 8 4, sizeAt := 0x10, least := 240 }
def planBuf (p : List Byte) : LoadBuf := { addr := fieldAt p 0x10 8, len := fieldAt p 0x18 4, sizeAt := 0x1C, least := 64 }
def imageBuf (p : List Byte) (i : Nat) : LoadBuf := { addr := (loadEntry p i).1, len := (loadEntry p i).2, sizeAt := 0x2C, least := 64 }

/-- The size that an image states. -/
def State.bufSize (s : State) (b : LoadBuf) : Nat := fieldAt (s.hostRead (b.addr + b.sizeAt) 4) 0 4

/-- An image does not fit its buffer (order 2). -/
def State.tooLong (s : State) (b : LoadBuf) : Bool := decide (b.len < b.least) || decide (b.len < s.bufSize b)

/-- The bytes of an image. -/
def State.bufBytes (s : State) (b : LoadBuf) : List Byte := s.hostRead b.addr (max b.least (s.bufSize b))

/-- What a load reads from the host. -/
structure LoadIn where
  comb : List Byte
  plan : List Byte
  progs : List ImageBytes
  micros : List ImageBytes
  deriving DecidableEq, Repr

def State.loadIn (s : State) (p : List Byte) : LoadIn :=
  { comb := s.bufBytes (combBuf p), plan := s.bufBytes (planBuf p),
    progs := (List.range (loadProgs p)).map (fun i => s.bufBytes (imageBuf p i)),
    micros := (List.range (loadMicros p)).map (fun i => s.bufBytes (imageBuf p (loadProgs p + i))) }

/-! ### The checks (R641) -/

/-- Order 1. -/
def State.loadOrder1 (s : State) (pen : Nat) : Option LoadFail :=
  if (s.job pen).isSome then some { status := rsJobPresent }
  else failIf (!decide (s.fld .penState 0 3 (pen - 1) = 1)) rsNoJob <|>
    ((s.baysOf pen).find? (fun b => decide (s.fld .errBayWx 0 1 b = 1))).map (fun b => { status := rsBayAct, index := b })

/-- Order 2. -/
def State.loadOrder2 (s : State) (p : List Byte) : Option LoadFail :=
  failIf (s.tooLong (combBuf p) || s.tooLong (planBuf p)) rsLength <|>
  ((List.range (loadProgs p + loadMicros p)).find? (fun i => s.tooLong (imageBuf p i))).map (fun i => { status := rsLength, index := i })

/-- How the job uses a core image. -/
def useOf (cores : List Nat) (comb : List Byte) (i : Nat) : ImgUse :=
  let users := (List.range 144).filter (fun l => decide (cores.getD l 0xFF = i))
  let wide (l : Nat) := gridIsWide (combBody comb secGrid) l
  { wide := users.any wide, plain := users.isEmpty || users.any (fun l => !wide l), grants := users.map (grantedTo (combBody comb secCounters)) }

/-- Order 4. -/
def loadOrder4 (cores : List Nat) (x : LoadIn) : Option LoadFail :=
  let least := combMinClass x.comb
  ((withIndex x.progs).findSome? (fun b => checkProgram (useOf cores x.comb b.2) least b.1 b.2)) <|>
  ((withIndex x.micros).findSome? (fun b => checkMicro least b.1 (x.progs.length + b.2)))

/-- The device ID, when one is assigned (R362). -/
def State.ownId (s : State) : Option Nat := if s.fld .xglDeviceId 16 1 = 1 then some s.devId else none

/-- The participant counts that the manifests declare for FP-format collectives (R255). -/
def fpCounts (x : LoadIn) : List Nat :=
  (x.progs ++ x.micros).flatMap (fun b => ((imgManifest b).filter (fun e => decide (manKind e = 1) && decide (manSub e = 3))).map (fun e => fieldAt e 8 8))

/-- Orders 5 to 8. -/
def State.loadSections (s : State) (pen : Nat) (cores : List Nat) (x : LoadIn) : Option LoadFail :=
  let bays := (s.pen pen).bays
  let grid := combBody x.comb secGrid
  let counters := combBody x.comb secCounters
  let routes := combBody x.comb secRoutes
  let coll := combSection x.comb secCollective
  checkGrid grid cores (s.baysOf pen).length <|> checkCounters counters (fieldAt grid 0 1) <|>
  ((combSection x.comb secSlots).bind (checkSlots bays)) <|>
  checkRegions (s.pen pen) (ledgerBound coll s.devId) (combBody x.comb secRegions) <|>
  checkRoutes bays s.ownId routes <|> ((combSection x.comb secLinkReq).bind (s.checkLinkReq bays)) <|>
  s.checkCollective pen s.devId cores counters routes (fpCounts x) coll

/-- The rank of this module in the job. -/
def loadRank (own : Nat) (x : LoadIn) : Nat := ((collDevs own (combSection x.comb secCollective)).idxOf? own).getD 0

/-- The job link key from the blob (R583): the ephemeral key on the curve, the three zero bytes, the unwrapping. -/
def linkKeyOf (priv pen : Nat) (tag : Nat) (p : List Byte) : Option (List Byte) :=
  if someNonzero p 0xA1 3 then none
  else (pointOf (slice p 0x40 97)).bind (fun q => kwUnwrap (jobKek priv q tag pen) (slice p 0xA4 40))

/-- Order 10. -/
def State.loadKey (s : State) (pen : Nat) (p : List Byte) (x : LoadIn) : Option LoadFail :=
  let routes := combBody x.comb secRoutes
  if fieldAt p 0x0F 1 % 2 = 1 then failIf (linkKeyOf (s.pen pen).importPriv pen (fieldAt routes 0 2) p).isNone rsLinkKey
  else failIf (routesName routes) rsLinkKey

/-- Orders 1 to 10. -/
def State.loadCheck (s : State) (pen : Nat) (p : List Byte) : Option LoadFail :=
  s.loadOrder1 pen <|> checkParams p <|> s.loadOrder2 p <|>
  (let x := s.loadIn p
   let cores := loadCores p
   checkJobComb (s.pen pen).ownerKey x.comb <|> loadOrder4 cores x <|> s.loadSections pen cores x <|>
   s.checkPlan pen x.progs x.micros (collRecords (combSection x.comb secCollective)) (loadRank s.devId x) x.plan <|>
   s.loadKey pen p x)

/-! ### Placement (R55) -/

/-- The cores of a row that the job has, the yoke-wide ones or the others. -/
def rowCores (j : Job) (r : Nat) (wide : Bool) : List Nat :=
  ((List.range 12).map (fun c => 12 * r + c)).filter (fun l => hasCore j l && (isWide j l == wide))

/-- Steps 1 and 2 for a core: the lowest free site or pair of its home bay, when there is one. -/
def State.placeHome (p : Nat) (s : State) (l : Nat) : State :=
  let j := s.jobD p
  match s.spareIn (isWide j l) (homeBay j l) with
  | some sites => s.hostCore p l sites false
  | none => s

/-- The guest of a core goes where the core is. -/
def State.placeGuest (p : Nat) (s : State) (l : Nat) : State :=
  let j := s.jobD p
  match guestOf j l with
  | some g => if placeOf j l = [] then s else s.hostCore p g (placeOf j l) true
  | none => s

/-- Steps 1 to 3 for one native row. -/
def State.placeRow (p : Nat) (s : State) (r : Nat) : State :=
  let j := s.jobD p
  let s := (rowCores j r true).foldl (State.placeHome p) s
  let s := (rowCores j r false).foldl (State.placeHome p) s
  (rowCores j r true ++ rowCores j r false).foldl (State.placeGuest p) s

/-- Step 4 for a core: a spare, else doubling where it may; the failures of R55 and R56. -/
def State.placeLate (p : Nat) (acc : State × Option LoadFail) (l : Nat) : State × Option LoadFail :=
  let s := acc.1
  let j := s.jobD p
  if acc.2.isSome || !(placeOf j l).isEmpty then acc
  else match s.findSpare p j l with
    | some sites => (State.placeGuest p (s.hostCore p l sites false) l, none)
    | none => match s.findDouble p j l with
      | some sites => (s.hostCore p l sites true, none)
      | none =>
        if (s.findDouble p { j with allowDoubling := true } l).isSome then (s, some { status := rsDoublingForbidden, index := l })
        else (s, some { status := rsGridExhausted, index := l })

/-- Every core gets its site, or the load fails: a guest without a native core has none. -/
def State.place (s : State) (p : Nat) : State × Option LoadFail :=
  let j := s.jobD p
  let n := j.bays.length
  let natives := (List.range (min n j.rows)).flatMap (fun r => (List.range 12).map (fun c => 12 * r + c))
  let s := (List.range (min n j.rows)).foldl (State.placeRow p) s
  let r := (natives.filter (hasCore j)).foldl (State.placeLate p) (s, none)
  match r.2 with
  | some e => (r.1, some e)
  | none =>
    (r.1, ((List.range 144).find? (fun l => hasCore j l && (placeOf (r.1.jobD p) l).isEmpty)).map (fun l => { status := rsGridExhausted, index := l }))

/-! ### A successful load (R642) -/

/-- What a core's configuration takes from its place in the grid, its image and its grants. -/
def loadCfg (rows rank ranksM1 : Nat) (x : LoadIn) (cores : List Nat) (l : Nat) : CoreCfg :=
  let i := cores.getD l 0xFF
  let base := cfgOf (x.progs.getD i [])
  { base with wide := gridIsWide (combBody x.comb secGrid) l, row := l / 12, col := l % 12, rows := rows, rank := rank, ranksM1 := ranksM1,
              granted := grantedTo (combBody x.comb secCounters) l, image := i }

/-- The load record's bytes of the cores: the hash entry of each core's image, after the plan's (R490). -/
def hashIndex (cores : List Nat) : List Byte := cores.map (fun i => BitVec.ofNat 8 (if i = 0xFF then 0xFF else i + 1))

/-- The eight bytes of the MODE section in force (R491, R636). -/
def State.modeBytes (s : State) : List Byte := le 8 (s.fld .devMode 0 1)

/-- The job that a checked parameter block describes, not yet placed. -/
def State.loadJob (s : State) (pen : Nat) (p : List Byte) (x : LoadIn) : Job :=
  let cores := loadCores p
  let g := combBody x.comb secGrid
  let routes := combBody x.comb secRoutes
  let coll := combSection x.comb secCollective
  let jr := journalOf (combBody x.comb secRegions)
  let devs := collDevs s.devId coll
  let tag := fieldAt routes 0 2
  let hashes := (x.plan :: (x.progs ++ x.micros)).map sha256
  let classes := (x.progs ++ x.micros).map (fun b => manClass (imgManifest b))
  let table (n : Nat) (f : Nat → Nat) : SMap Nat := ((List.range n).map (fun k => (k, f k))).filter (fun kv => decide (kv.2 ≠ 0xFF))
  let recs := collRecords coll
  { tag := tag, rank := loadRank s.devId x, ranksM1 := devs.length - 1, rows := fieldAt g 0 1, bays := s.baysOf pen,
    yokeWide := yokePairs (slice g 4 12), yokeCheck := yokePairs (slice g 16 12),
    turnLog2 := if fieldAt g 2 1 = 0 then 22 else fieldAt g 2 1, allowDoubling := (fieldAt g 1 1).testBit 1,
    allowBorrow := (fieldAt g 1 1).testBit 0, rotateTest := (fieldAt g 1 1).testBit 2, spareWatch := fieldAt g 3 1,
    images := x.progs, coreImage := table 144 (fun l => cores.getD l 0xFF),
    imageAddrs := (x.progs.zip (List.range x.progs.length)).map (fun bi => ((loadEntry p bi.2).1, bi.1.length)),
    imageHashes := x.progs.map sha256, micros := x.micros.map microOf, plan := planOf x.plan, combHash := sha256 x.comb,
    logicalCombHash := sha256 (slice g 4 12 ++ s.modeBytes), programHash := sha256 (loadRecord (hashIndex cores) hashes),
    class_ := classes.foldl min 2,
    observe := (x.progs ++ x.micros).any (fun b => (imgManifest b).any (fun e => decide (manKind e = 5))),
    strictAny := (x.progs ++ x.micros).any imgStrict,
    route := table 65536 (routeByte routes), groupOf := table 256 (fun c => fieldAt routes (8 + c) 1), useAlt := (fieldAt routes 2 1).testBit 0,
    groups := ((recs.zip (List.range recs.length)).map (fun q => (q.2, q.1))).filter (fun kv => decide (kv.2 ≠ {})),
    rankDev := devs, linkKey := if (fieldAt p 0x0F 1).testBit 0 then linkKeyOf (s.pen pen).importPriv pen tag p else none,
    slotTables := combBody x.comb secSlots, counters := combBody x.comb secCounters, journal := jr, regions := (regionEntries (combBody x.comb secRegions)).map Prod.snd, buddy := buddyOf (combBody x.comb secRegions),
    journalL := journalLedgerSize (regionSize jr), journalN := journalRecords (regionSize jr),
    decided := (planOf x.plan).startStep, nextStep := (planOf x.plan).startStep, startFp := slice p 0x20 32 }

/-- The registers of a pen whose job has just been loaded (R71, R267, R296, R456, R504, R506), and the start of its bays' rotation
(R523). -/
def State.loadRegs (s : State) (pen : Nat) (j : Job) : State :=
  let prog := 1 + j.class_ * 2 ^ 2 + bitIf j.observe 4 + bitIf j.strictAny 5 + j.images.eraseDups.length * 2 ^ 8
  let s := ((s.setReg .corePenProg (BitVec.ofNat 64 prog) (pen - 1)).setReg .updJob 1#64 (pen - 1)).setReg .updJournal 0#64 (pen - 1)
  let s := ((s.setReg .updLedger 0#64 (pen - 1)).setFld .updDiscard 32 32 0 (pen - 1)).setFld .netPenSlot 0 16 (fieldAt j.slotTables 0 2) (pen - 1)
  let s := { s with rotated := (s.baysOf pen).foldl (fun m b => SMap.erase m b) s.rotated }
  s.setFld .penState 0 3 2 (pen - 1)

/-- The record and the region header of the load (R489, R490), and the BUDDY slots: they keep their validity under the same
RESERVED_REGIONS section (R674). -/
def State.loadRegions (s : State) (pen : Nat) (p : List Byte) (x : LoadIn) (j : Job) : State :=
  let body := combBody x.comb secRegions
  let hashes := (x.plan :: (x.progs ++ x.micros)).map sha256
  let s := s.regionWrite j.journal jrnLoad (loadRecord (hashIndex (loadCores p)) hashes)
  let s := s.writeJournalHeader pen
  let s := if (s.pen pen).regionsBody = body then s else s.setFld .updCkpt 5 2 0 (pen - 1)
  s.onPen pen (fun q => { q with regionsBody := body })

/-- The ports that the image names are in use, and the late flags of their partners are cleared (R378, R388, R641). -/
def State.loadLinks (s : State) (pen : Nat) (x : LoadIn) : State :=
  let qs := ((combSection x.comb secLinkReq).map linkReqs).getD []
  qs.foldl (fun s q => s.setFld .xglPortStatus 13 1 0 q.port) (s.nameLinks pen (qs.map LinkReq.port))

/-- Cores that live outside their home bay (R72). -/
def borrowedOf (j : Job) : Nat := (j.place.filter (fun kv => kv.2.any (fun n => decide (bayOfSite n ≠ homeBay j kv.1)))).length

/-- A placed job is installed: its cores, regions, registers, the owner key; the completion's payload. -/
def State.install (s : State) (pen : Nat) (p : List Byte) (x : LoadIn) (j : Job) : State × Nat × List Byte :=
  let cores := loadCores p
  let s := ((List.range 144).filter (coreUsed cores)).foldl (fun s l =>
    s.setCore (coreKey pen l) { cfg := loadCfg j.rows j.rank j.ranksM1 x cores l }) s
  let s := (s.loadRegs pen j).loadRegions pen p x j
  let s := (((s.loadLinks pen x).onPen pen (fun q => { q with ownerKey := some (combKey x.comb), released := none })).refreshGrid pen).refreshPower pen
  let s := (s.seedRegs pen j.nextStep).importedReg pen
  let dbl := (s.sitesIn pen siteDoubled).length
  (s, rsOk, le 1 j.class_ ++ le 1 (bitIf j.observe 0) ++ le 1 dbl ++ le 1 (borrowedOf (s.jobD pen)) ++ j.programHash.take 12)

/-- The payload of a refused load (R641). -/
def failPayload (e : LoadFail) : List Byte := le 8 e.index ++ le 8 e.bundle

/-- With no mode in force, a load first puts Sealed mode in force (R35). -/
def State.ensureMode (s : State) : State := if s.fld .devMode 0 2 = 0 then s.setFld .devMode 0 1 1 else s

/-- A load after its orders 1 to 10: the placement, and on success the job. -/
def State.loadPlace (s : State) (pen : Nat) (p : List Byte) : State × Nat × List Byte :=
  let x := s.loadIn p
  let j := s.loadJob pen p x
  let r := (s.setJob pen (some j)).place pen
  match r.2 with
  | some e => (s, e.status, failPayload e)
  | none => r.1.install pen p x j

/-- JOB_LOAD (R641, R642). -/
def execJobLoad (ring : Ring) (s : State) : Out :=
  s.serve ring.val 3 (fun c s =>
    let s := s.ensureMode
    match s.loadCheck c.pen c.params with
    | some e => (s, e.status, failPayload e)
    | none => s.loadPlace c.pen c.params)

end Sys2Proof.Machine
end

