-- ==== Sys2Proof/Machine/Vector.lean ====
section
/-!
DEFINITION. The vector slot (R243 to R247): elementwise arithmetic, the Fast functions, comparisons, moves, conversions, crests
and predicate instructions.
-/

namespace Sys2Proof.Machine

/-! ### Legality (R244; the loader refuses anything else) -/

/-- The formats of packed arithmetic, of its floating-point part, and of the integer operations (R244). -/
def fmtArith (f : Fmt) : Bool := [Fmt.fp32, .fp16, .bf16, .int32, .int16].contains f
def fmtFloat (f : Fmt) : Bool := [Fmt.fp32, .fp16, .bf16].contains f
def fmtLogic (f : Fmt) : Bool := [Fmt.int32, .int16].contains f

/-- The arithmetic mode of a core's program. -/
def State.strictOf (s : State) (u : CoreRef) : Bool := (s.core (refKey u)).cfg.strict

/-- A rounding option of an arithmetic instruction: RNE under Fast, never SR (R83, R86). -/
def rmOk (strict : Bool) (rm : Rm) : Bool := if strict then decide (rm ≠ .sr) else decide (rm = .rne)

/-! ### Writing a vector register -/

/-- The destination written under a predicate (R232): inactive lanes keep their elements and poison; a poisoned predicate
poisons every lane (R233; DEDUCED, log entry 22). -/
def Core.vecWrite (c : Core) (pq : PredCtl) (vd : VReg) (new : VecWord) (bad : BitVec 128) : Core :=
  let act := activeLanes c.rf0 pq
  let bad := if predBad c.rf0 pq then ~~~0#128 else (act &&& bad) ||| (~~~act &&& c.rf.vBad vd)
  c.onRf (fun r => r.vSet vd (mergeLanes act new (c.rf.vGet vd)) bad)

/-- The active elements of a format, by index. -/
def activeElems (r : RegFile) (pq : PredCtl) (f : Fmt) : List Nat :=
  (List.range (fmtElems f)).filter (fun i => (activeLanes r pq).getLsbD (laneOf f i))

/-- The flags that active elements raise, recorded under Strict arithmetic (R89). -/
def Core.raise (c : Core) (fl : List ExcFlags) : Core :=
  if c.cfg.strict then { c with flags := fl.foldl (fun a b => a ||| b) c.flags } else c

/-- An elementwise operation on the source registers. -/
def Core.elementwise (c : Core) (f : Fmt) (pq : PredCtl) (vd : VReg) (srcs : List VReg)
    (op : List Elem → Elem × ExcFlags) : Core :=
  let words := srcs.map c.rf0.vGet
  let at_ (i : Nat) := op (words.map (fun w => elemGet f w i))
  let bad := srcs.foldl (fun b v => b ||| c.rf0.vBad v) 0#128
  let fl := (activeElems c.rf0 pq f).map (fun i => (at_ i).2)
  (c.vecWrite pq vd (ofElems f ((List.range (fmtElems f)).map (fun i => (at_ i).1))) bad).raise fl

/-- An elementwise vector instruction, when it is legal. -/
def vecOp (i : Instr) (ok : Bool) (u : CoreRef) (f : Fmt) (pq : PredCtl) (vd : VReg) (srcs : List VReg)
    (op : Bool → List Elem → Elem × ExcFlags) (s : State) : Out :=
  s.issueIf ok i u slotVector (fun c => s.put u (c.elementwise f pq vd srcs (op c.cfg.strict)))

/-- Operands of a list. -/
def arg (xs : List Elem) (i : Nat) : Elem := xs.getD i 0#32

/-! ### Arithmetic -/

/-- An integer result that wraps or saturates (R244). -/
def intResult (f : Fmt) (sat : Bool) (x : Int) : Elem := if sat then intElem f (clampInt f x) else intElem f x

/-- Arithmetic of two operands in a format: the floating-point operation in the program's mode, or the integer one. -/
def arith2 (f : Fmt) (rm : Rm) (sat : Bool) (fp : FpMode → Fmt → Elem → Elem → Elem × ExcFlags) (int : Int → Int → Int)
    (strict : Bool) (xs : List Elem) : Elem × ExcFlags :=
  if Fmt.isInt f then (intResult f sat (int (intOf f (arg xs 0)) (intOf f (arg xs 1))), 0#5)
  else fp ⟨strict, rm⟩ f (arg xs 0) (arg xs 1)

/-- Legality of `vadd` and `vsub`: sat only for integers (R244). -/
def addOk (s : State) (u : CoreRef) (f : Fmt) (rm : Rm) (sat : Bool) : Bool :=
  fmtArith f && rmOk (s.strictOf u) rm && (!sat || Fmt.isInt f)

def execVadd (u : CoreRef) (fmt : Fmt) (rm : Rm) (sat : Bool) (pq : PredCtl) (vd va vb : VReg) (s : State) : Out :=
  vecOp (.vadd u fmt rm sat pq vd va vb) (addOk s u fmt rm sat) u fmt pq vd [va, vb] (arith2 fmt rm sat fpAdd (fun a b => a + b)) s

def execVsub (u : CoreRef) (fmt : Fmt) (rm : Rm) (sat : Bool) (pq : PredCtl) (vd va vb : VReg) (s : State) : Out :=
  vecOp (.vsub u fmt rm sat pq vd va vb) (addOk s u fmt rm sat) u fmt pq vd [va, vb] (arith2 fmt rm sat fpSub (fun a b => a - b)) s

def execVmul (u : CoreRef) (fmt : Fmt) (rm : Rm) (pq : PredCtl) (vd va vb : VReg) (s : State) : Out :=
  vecOp (.vmul u fmt rm pq vd va vb) (fmtArith fmt && rmOk (s.strictOf u) rm) u fmt pq vd [va, vb] (arith2 fmt rm false fpMul (fun a b => a * b)) s

def execVfma (u : CoreRef) (fmt : Fmt) (rm : Rm) (pq : PredCtl) (vd va vb vc : VReg) (s : State) : Out :=
  vecOp (.vfma u fmt rm pq vd va vb vc) (fmtFloat fmt && rmOk (s.strictOf u) rm) u fmt pq vd [va, vb, vc]
    (fun st xs => fpFma ⟨st, rm⟩ fmt (arg xs 0) (arg xs 1) (arg xs 2)) s

def execVmin (u : CoreRef) (fmt : Fmt) (pq : PredCtl) (vd va vb : VReg) (s : State) : Out :=
  vecOp (.vmin u fmt pq vd va vb) (fmtArith fmt) u fmt pq vd [va, vb] (arith2 fmt .rne false (fpMinMax false) min) s

def execVmax (u : CoreRef) (fmt : Fmt) (pq : PredCtl) (vd va vb : VReg) (s : State) : Out :=
  vecOp (.vmax u fmt pq vd va vb) (fmtArith fmt) u fmt pq vd [va, vb] (arith2 fmt .rne false (fpMinMax true) max) s

def execVabs (u : CoreRef) (fmt : Fmt) (pq : PredCtl) (vd va : VReg) (s : State) : Out :=
  vecOp (.vabs u fmt pq vd va) (fmtFloat fmt) u fmt pq vd [va] (fun _ xs => (fpAbs fmt (arg xs 0), 0#5)) s

def execVneg (u : CoreRef) (fmt : Fmt) (pq : PredCtl) (vd va : VReg) (s : State) : Out :=
  vecOp (.vneg u fmt pq vd va) (fmtFloat fmt) u fmt pq vd [va] (fun _ xs => (fpNeg fmt (arg xs 0), 0#5)) s

def execVcopysign (u : CoreRef) (fmt : Fmt) (pq : PredCtl) (vd va vb : VReg) (s : State) : Out :=
  vecOp (.vcopysign u fmt pq vd va vb) (fmtFloat fmt) u fmt pq vd [va, vb] (fun _ xs => (fpCopysign fmt (arg xs 0) (arg xs 1), 0#5)) s

def execVdiv (u : CoreRef) (rm : Rm) (pq : PredCtl) (vd va vb : VReg) (s : State) : Out :=
  vecOp (.vdiv u rm pq vd va vb) (rmOk (s.strictOf u) rm) u .fp32 pq vd [va, vb] (fun st xs => fpDiv ⟨st, rm⟩ (arg xs 0) (arg xs 1)) s

def execVrecip (u : CoreRef) (rm : Rm) (pq : PredCtl) (vd va : VReg) (s : State) : Out :=
  vecOp (.vrecip u rm pq vd va) (rmOk (s.strictOf u) rm) u .fp32 pq vd [va] (fun st xs => fpRecip ⟨st, rm⟩ (arg xs 0)) s

def execVsqrt (u : CoreRef) (rm : Rm) (pq : PredCtl) (vd va : VReg) (s : State) : Out :=
  vecOp (.vsqrt u rm pq vd va) (rmOk (s.strictOf u) rm) u .fp32 pq vd [va] (fun st xs => fpSqrt ⟨st, rm⟩ .fp32 (arg xs 0)) s

def execVrsqrt (u : CoreRef) (rm : Rm) (pq : PredCtl) (vd va : VReg) (s : State) : Out :=
  vecOp (.vrsqrt u rm pq vd va) (rmOk (s.strictOf u) rm) u .fp32 pq vd [va] (fun st xs => fpRsqrt ⟨st, rm⟩ (arg xs 0)) s

/-- A Fast function of one argument on every element (R107, R108); it waits while an `mchain` runs (R177, `Core.unitHeld`). -/
def vecFn (i : Instr) (op : FnOp) (u : CoreRef) (pq : PredCtl) (vd va : VReg) (s : State) : Out :=
  vecOp i true u .fp32 pq vd [va] (fun st xs => fnEval ⟨st, .rne⟩ op (arg xs 0)) s

def execVexp (u : CoreRef) (pq : PredCtl) (vd va : VReg) (s : State) : Out := vecFn (.vexp u pq vd va) .exp u pq vd va s
def execVexp2 (u : CoreRef) (pq : PredCtl) (vd va : VReg) (s : State) : Out := vecFn (.vexp2 u pq vd va) .exp2 u pq vd va s
def execVlog (u : CoreRef) (pq : PredCtl) (vd va : VReg) (s : State) : Out := vecFn (.vlog u pq vd va) .log u pq vd va s
def execVtanh (u : CoreRef) (pq : PredCtl) (vd va : VReg) (s : State) : Out := vecFn (.vtanh u pq vd va) .tanh u pq vd va s
def execVsigmoid (u : CoreRef) (pq : PredCtl) (vd va : VReg) (s : State) : Out := vecFn (.vsigmoid u pq vd va) .sigmoid u pq vd va s
def execVerf (u : CoreRef) (pq : PredCtl) (vd va : VReg) (s : State) : Out := vecFn (.verf u pq vd va) .erf u pq vd va s
def execVgelu (u : CoreRef) (pq : PredCtl) (vd va : VReg) (s : State) : Out := vecFn (.vgelu u pq vd va) .gelu u pq vd va s

/-! ### Bitwise operations and shifts -/

def execVand (u : CoreRef) (fmt : Fmt) (pq : PredCtl) (vd va vb : VReg) (s : State) : Out :=
  vecOp (.vand u fmt pq vd va vb) (fmtLogic fmt) u fmt pq vd [va, vb] (fun _ xs => (arg xs 0 &&& arg xs 1, 0#5)) s

def execVor (u : CoreRef) (fmt : Fmt) (pq : PredCtl) (vd va vb : VReg) (s : State) : Out :=
  vecOp (.vor u fmt pq vd va vb) (fmtLogic fmt) u fmt pq vd [va, vb] (fun _ xs => (arg xs 0 ||| arg xs 1, 0#5)) s

def execVxor (u : CoreRef) (fmt : Fmt) (pq : PredCtl) (vd va vb : VReg) (s : State) : Out :=
  vecOp (.vxor u fmt pq vd va vb) (fmtLogic fmt) u fmt pq vd [va, vb] (fun _ xs => (arg xs 0 ^^^ arg xs 1, 0#5)) s

/-- The amount of an element's shift: the low 5 or 4 bits (R244). -/
def elemShift (f : Fmt) (b : Elem) : Nat := b.toNat % fmtBits f

def execVshl (u : CoreRef) (fmt : Fmt) (pq : PredCtl) (vd va vb : VReg) (s : State) : Out :=
  vecOp (.vshl u fmt pq vd va vb) (fmtLogic fmt) u fmt pq vd [va, vb] (fun _ xs => (arg xs 0 <<< elemShift fmt (arg xs 1), 0#5)) s

def execVshr (u : CoreRef) (fmt : Fmt) (pq : PredCtl) (vd va vb : VReg) (s : State) : Out :=
  vecOp (.vshr u fmt pq vd va vb) (fmtLogic fmt) u fmt pq vd [va, vb] (fun _ xs => (arg xs 0 >>> elemShift fmt (arg xs 1), 0#5)) s

def execVsra (u : CoreRef) (fmt : Fmt) (pq : PredCtl) (vd va vb : VReg) (s : State) : Out :=
  vecOp (.vsra u fmt pq vd va vb) (fmtLogic fmt) u fmt pq vd [va, vb]
    (fun _ xs => (intElem fmt (intOf fmt (arg xs 0) / (2 ^ elemShift fmt (arg xs 1) : Nat)), 0#5)) s

/-! ### Comparisons and predicates -/

/-- A comparison of two lanes and the flag it raises under Strict arithmetic (R246). -/
def cmpLane (f : Fmt) (k : VCond) (a b : Elem) : Bool × ExcFlags :=
  if Fmt.isInt f then
    let x := intOf f a
    let y := intOf f b
    (match k with
     | .eq => decide (x = y)
     | .ne => decide (x ≠ y)
     | .lt => decide (x < y)
     | .le => decide (x ≤ y), 0#5)
  else
    let o := fpCompare f a b
    let nan := FVal.isNan (decodeF f a) || FVal.isNan (decodeF f b)
    let sig := isSignalling f a || isSignalling f b
    match k with
    | .eq => (decide (o = .eq), ExcFlags.when sig ExcFlags.invalid)
    | .ne => (decide (o ≠ .eq), ExcFlags.when sig ExcFlags.invalid)
    | .lt => (decide (o = .lt), ExcFlags.when nan ExcFlags.invalid)
    | .le => (decide (o = .lt) || decide (o = .eq), ExcFlags.when nan ExcFlags.invalid)

/-- A predicate register written under a predicate (R232, R233): inactive bits keep; the register's one poison bit stays when
some bit keeps. -/
def Core.predWrite (c : Core) (pq : PredCtl) (pd : PReg) (new : BitVec 128) (bad : Bool) : Core :=
  let act := activeLanes c.rf0 pq
  let keepsBad := decide (act ≠ ~~~0#128) && c.rf.pBad pd
  c.onRf (fun r => r.pSet pd ((act &&& new) ||| (~~~act &&& c.rf.pGet pd)) (bad || predBad c.rf0 pq || keepsBad))

/-- 128 bits from a test of each lane. -/
def laneBits (f : Nat → Bool) : BitVec 128 :=
  BitVec.ofNat 128 ((List.range 128).foldl (fun n l => n + (if f l then 2 ^ l else 0)) 0)

def execVcmp (u : CoreRef) (fmt : Fmt) (cond : VCond) (pq : PredCtl) (pd : PReg) (va vb : VReg) (s : State) : Out :=
  s.issueIf (decide (fmt = .fp32) || decide (fmt = .int32)) (.vcmp u fmt cond pq pd va vb) u slotVector (fun c =>
    let act := activeLanes c.rf0 pq
    let at_ (l : Nat) := cmpLane fmt cond (elemGet fmt (c.rf0.vGet va) l) (elemGet fmt (c.rf0.vGet vb) l)
    let bad := decide (act &&& (c.rf0.vBad va ||| c.rf0.vBad vb) ≠ 0#128)
    let fl := ((List.range 128).filter (fun l => act.getLsbD l)).map (fun l => (at_ l).2)
    s.put u ((c.predWrite pq pd (laneBits (fun l => (at_ l).1)) bad).raise fl))

/-- A predicate instruction of two sources. -/
def predOp (i : Instr) (f : BitVec 128 → BitVec 128 → BitVec 128) (u : CoreRef) (pq : PredCtl) (pd pa pb : PReg) (s : State) : Out :=
  s.issue i u slotVector (fun c =>
    s.put u (c.predWrite pq pd (f (c.rf0.pGet pa) (c.rf0.pGet pb)) (c.rf0.pBad pa || c.rf0.pBad pb)))

def execPand (u : CoreRef) (pq : PredCtl) (pd pa pb : PReg) (s : State) : Out := predOp (.pand u pq pd pa pb) (fun a b => a &&& b) u pq pd pa pb s
def execPor (u : CoreRef) (pq : PredCtl) (pd pa pb : PReg) (s : State) : Out := predOp (.por u pq pd pa pb) (fun a b => a ||| b) u pq pd pa pb s
def execPxor (u : CoreRef) (pq : PredCtl) (pd pa pb : PReg) (s : State) : Out := predOp (.pxor u pq pd pa pb) (fun a b => a ^^^ b) u pq pd pa pb s

def execPnot (u : CoreRef) (pq : PredCtl) (pd pa : PReg) (s : State) : Out :=
  s.issue (.pnot u pq pd pa) u slotVector (fun c => s.put u (c.predWrite pq pd (~~~c.rf0.pGet pa) (c.rf0.pBad pa)))

def execPset (u : CoreRef) (pq : PredCtl) (pd : PReg) (sx : SReg) (s : State) : Out :=
  s.issue (.pset u pq pd sx) u slotVector (fun c =>
    s.put u (c.predWrite pq pd (if c.rf0.sGet sx ≠ 0#64 then ~~~0#128 else 0#128) (c.rf0.sBad sx)))

/-! ### Moves -/

/-- vd ← lane bit ? va : vb (R244): every lane is a result, poisoned as the lane it takes is, or by the predicate. -/
def execVsel (u : CoreRef) (_fmt : Fmt) (p : PReg) (vd va vb : VReg) (s : State) : Out :=
  s.issue (.vsel u _fmt p vd va vb) u slotVector (fun c =>
    let m := c.rf0.pGet p
    let bad := if c.rf0.pBad p then ~~~0#128 else (m &&& c.rf0.vBad va) ||| (~~~m &&& c.rf0.vBad vb)
    s.put u (c.onRf (fun r => r.vSet vd (mergeLanes m (c.rf0.vGet va) (c.rf0.vGet vb)) bad)))

def execVmov (u : CoreRef) (_fmt : Fmt) (pq : PredCtl) (vd va : VReg) (s : State) : Out :=
  s.issue (.vmov u _fmt pq vd va) u slotVector (fun c => s.put u (c.vecWrite pq vd (c.rf0.vGet va) (c.rf0.vBad va)))

def execVbcast (u : CoreRef) (fmt : Fmt) (pq : PredCtl) (vd : VReg) (sx : SReg) (s : State) : Out :=
  s.issue (.vbcast u fmt pq vd sx) u slotVector (fun c =>
    let x : Elem := (c.rf0.sGet sx).setWidth 32
    s.put u (c.vecWrite pq vd (ofElems fmt (List.replicate (fmtElems fmt) x)) (allLanes (c.rf0.sBad sx))))

/-- sd ← element (sx mod elements) of va, zero-extended (R244).  A scalar result has no lanes: of the predicate only its
poison counts (DEDUCED, log entry 22). -/
def execVext (u : CoreRef) (fmt : Fmt) (pq : PredCtl) (sd : SReg) (va : VReg) (sx : SReg) (s : State) : Out :=
  s.issueIf (decide (sd.val < 48)) (.vext u fmt pq sd va sx) u slotVector (fun c =>
    let i := (c.rf0.sGet sx).toNat % fmtElems fmt
    let bad := (c.rf0.vBad va).getLsbD (laneOf fmt i) || c.rf0.sBad sx || predBad c.rf0 pq
    s.put u (c.onRf (fun r => r.sSet sd ((elemGet fmt (c.rf0.vGet va) i).setWidth 64) bad)))

/-- Lane l of vd ← lane (l + sx) mod 128 of va (R244). -/
def execVrot (u : CoreRef) (pq : PredCtl) (vd va : VReg) (sx : SReg) (s : State) : Out :=
  s.issue (.vrot u pq vd va sx) u slotVector (fun c =>
    let k := (c.rf0.sGet sx).toNat % 128
    let bad := laneBits (fun l => (c.rf0.vBad va).getLsbD ((l + k) % 128)) ||| allLanes (c.rf0.sBad sx)
    s.put u (c.vecWrite pq vd
      (ofElems .int32 ((List.range 128).map (fun l => elemGet .int32 (c.rf0.vGet va) ((l + k) % 128)))) bad))

/-! ### Conversions and crests -/

/-- A conversion is legal (R90, R247, R83, R472): distinct formats, a part that exists, an option the mode has; SR names its
draw outside the device's use codes, any other option leaves those fields 0. -/
def cvtOk (strict : Bool) (d f : Fmt) (rm : Rm) (part : BitVec 2) (use : BitVec 16) (six sst : SReg) : Bool :=
  let ratio := max (fmtBits d) (fmtBits f) / min (fmtBits d) (fmtBits f)
  decide (d ≠ f) && decide (part.toNat < ratio) &&
  (strict || decide (rm = .rne) || decide (rm = .rz) || decide (rm = .sr)) &&
  (if rm = .sr then decide (use.toNat < 256) || decide (512 ≤ use.toNat)
   else decide (six.val = 0) && decide (sst.val = 0) && decide (use = 0#16))

/-- `vcvt` (R247): N elements, those of the wider format; the part names which part of the narrower register takes part. -/
def execVcvt (u : CoreRef) (dfmt sfmt : Fmt) (rm : Rm) (sat : Bool) (part : BitVec 2) (useCode : BitVec 16) (six sst : SReg)
    (pq : PredCtl) (vd va : VReg) (s : State) : Out :=
  s.issueIf (cvtOk (s.strictOf u) dfmt sfmt rm part useCode six sst) (.vcvt u dfmt sfmt rm sat part useCode six sst pq vd va) u slotVector (fun c =>
    let n := min (fmtElems dfmt) (fmtElems sfmt)
    let so := if n < fmtElems sfmt then part.toNat * n else 0
    let d0 := if n < fmtElems dfmt then part.toNat * n else 0
    let seed := s.seedNow u.pen
    let stream := (c.rf0.sGet sst).setWidth 32
    let index (j : Nat) := ((c.rf0.sGet six).toNat + j) % 2 ^ 64
    let draw (j : Nat) : Nat := if rm = .sr then drawU seed stream (s.stepOf u.pen) (index j) useCode.toNat else 0
    let at_ (j : Nat) := convert ⟨c.cfg.strict, rm⟩ dfmt sfmt sat (draw j) (elemGet sfmt (c.rf0.vGet va) (so + j))
    let old := c.rf.vGet vd
    let new := ofElems dfmt ((List.range (fmtElems dfmt)).map (fun i =>
      if d0 ≤ i ∧ i < d0 + n then (at_ (i - d0)).1 else elemGet dfmt old i))
    let srcBad := decide (rm = .sr) && (c.rf0.sBad six || c.rf0.sBad sst)
    let lanesBad := laneBits (fun l => (List.range n).any (fun j =>
      decide (laneOf dfmt (d0 + j) = l) && ((c.rf0.vBad va).getLsbD (laneOf sfmt (so + j)) || srcBad)))
    let taken := laneBits (fun l => (List.range n).any (fun j => decide (laneOf dfmt (d0 + j) = l)))
    let fl := ((List.range n).filter (fun j => (activeLanes c.rf0 pq).getLsbD (laneOf dfmt (d0 + j)))).map (fun j => (at_ j).2)
    s.put u ((c.vecWrite pq vd new (lanesBad ||| (~~~taken &&& c.rf.vBad vd))).raise fl))

/-- sd ← the group crests of va in its low bytes (R103, R96); poisoned when a grouped element is (R101).  The elements of inactive lanes
count too: no rule says what a predicate does here (DESIGN CHOICE, log entry 129). -/
def execVcrest (u : CoreRef) (fmt : Fmt) (pq : PredCtl) (sd : SReg) (va : VReg) (s : State) : Out :=
  s.issueIf (decide (sd.val < 48)) (.vcrest u fmt pq sd va) u slotVector (fun c =>
    let crests := (chunks 64 (elemsOf fmt (c.rf0.vGet va))).map (crestGroup fmt)
    let x := crests.foldr (fun k n => k + 256 * n) 0
    let bad := decide (c.rf0.vBad va ≠ 0#128) || predBad c.rf0 pq
    s.put u (c.onRf (fun r => r.sSet sd (BitVec.ofNat 64 x) bad)))

end Sys2Proof.Machine
end

