-- ==== Sys2Proof/Machine/VectorMem.lean ====
section
/-!
DEFINITION. The vector slot's scratchpad instructions: loads and stores (R245), anchored reductions (R248) and long forms
(R249).
-/

namespace Sys2Proof.Machine

/-! ### Loads and stores -/

/-- The cause of `vld` and `vst`: alignment, then the extent in one region (R245, R197). -/
def vmCause (c : Core) (base : Nat) (stride : Int) (write : Bool) : Option Nat :=
  if base % 64 ≠ 0 ∨ stride % 64 ≠ 0 then some causeSpadAlign
  else
    let lo : Int := (base : Int) + min 0 (7 * stride)
    if lo < 0 then some causeSpadBounds
    else if c.spadOk lo.toNat ((7 * stride).natAbs + 64) write then none else some causeSpadBounds

/-- `vld` and `vst` up to their own effect: their faults. -/
def vmAccess (i : Instr) (write : Bool) (u : CoreRef) (off : BitVec 12) (sstr sb : SReg) (s : State)
    (body : Core → (Nat → Nat) → State) : Out :=
  s.issue i u slotVector (fun c =>
    let base := vmBase c off sb
    let stride := vmStride c sstr
    let line := vmLine base stride
    if c.rf0.sBad sb || (decide (sstr.val ≠ 0) && c.rf0.sBad sstr) then s.faultAt u c slotVector causePoisonControl
    else match vmCause c base stride write with
      | some k => s.faultAt u c slotVector k
      | none => body c line)

def execVld (u : CoreRef) (off : BitVec 12) (sstr sb : SReg) (pq : PredCtl) (vd : VReg) (s : State) : Out :=
  vmAccess (.vld u off sstr sb pq vd) false u off sstr sb s (fun c line =>
    match (List.range 8).findSome? (fun i => c.rangeTag (line i) 64) with
    | some t => s.faultTag u c slotVector t
    | none =>
      let bytes := (List.range 8).flatMap (fun i => c.spadRead (line i) 64)
      let bad := laneBits (fun l => c.rangeBad (line (l / 16)) 64)
      s.put u (c.vecWrite pq vd (vecOfBytes bytes) bad))

/-- The 64 bytes of one line stored under a predicate: a whole line at once, else the four bytes of each active lane. -/
def Core.storeLine (c : Core) (act bad : BitVec 128) (bytes : List Byte) (a i : Nat) : Core :=
  let lanes := (List.range 16).map (fun q => 16 * i + q)
  if lanes.all (fun l => act.getLsbD l) then
    c.spadWrite a (slice bytes (64 * i) 64) (lanes.any (fun l => bad.getLsbD l))
  else lanes.foldl (fun c l =>
    if act.getLsbD l then c.spadWrite (a + 4 * (l % 16)) (slice bytes (4 * l) 4) (bad.getLsbD l) else c) c

def execVst (u : CoreRef) (off : BitVec 12) (sstr sb : SReg) (pq : PredCtl) (vd : VReg) (s : State) : Out :=
  vmAccess (.vst u off sstr sb pq vd) true u off sstr sb s (fun c line =>
    let act := activeLanes c.rf0 pq
    let bad := c.rf0.vBad vd ||| allLanes (predBad c.rf0 pq)
    let bytes := vecBytes (c.rf0.vGet vd)
    s.put u ((List.range 8).foldl (fun c i => c.storeLine act bad bytes (line i) i) c))

/-! ### Long forms in the scratchpad -/

/-- A long form read from the scratchpad as a wide form (its first limb the long form itself), with the poison of its
lines as the poison flag (R136, R233). -/
def Core.readLf (c : Core) (wide : Bool) (a : Nat) : WideForm :=
  let bs := c.spadRead a (lfSize wide)
  let w := if wide then WideForm.ofBytes bs else [LongForm.ofBytes bs]
  match w with
  | [] => []
  | l :: ls => accPoison l (c.rangeBad a (lfSize wide)) :: ls

/-- A long form written: its line is poisoned when its poison flag is set (R138, R233). -/
def Core.writeLf (c : Core) (a : Nat) (w : WideForm) : Core :=
  let w := WideForm.leave w
  c.spadWrite a (WideForm.bytes w) (RedFlags.has (WideForm.flags w) RedFlags.poison)

/-- A written long form has ovf or amix set (R138). -/
def lfOverflow (w : WideForm) : Bool := RedFlags.has (WideForm.flags w) (RedFlags.ovf ||| RedFlags.amix)

/-- Sets the overflow bit of the step status word (R138). -/
def State.overflowIf (s : State) (pen : Nat) (b : Bool) : State := if b then s.orStatus pen stOverflow else s

/-! ### Anchored reductions (R248) -/

/-- The anchor of a segment, its starting flags, and whether its crest or block anchor is poisoned. -/
def segAnchor (sp : AncSpec) (form : Form) (f : Fmt) (bytes : List Byte) (bad : BitVec 128) (nseg i : Nat) :
    Int × RedFlags × Bool :=
  let k := i / max 1 (nseg / 256)
  let byteBad (b : Nat) : Bool := bad.getLsbD (b / 4)
  match sp.src with
  | .explicit => (sp.anc, RedFlags.expl, false)
  | .block =>
    let r := blockAnchor (sext16 (fieldAt bytes (2 * k) 2))
    (r.1, RedFlags.when r.2 RedFlags.nan, byteBad (2 * k))
  | .crest =>
    match form with
    | .product =>
      (crestAnchor form (fieldAt bytes k 1) f (fieldAt bytes (256 + k) 1) f sp.lenLog2, 0#8,
        byteBad k || byteBad (256 + k))
    | _ => (crestAnchor form (fieldAt bytes i 1) f 0 f sp.lenLog2, 0#8, byteBad i)

/-- The long form of a segment: its active terms at its anchor (R248, R142).  The form is the instruction's, also where the form field of
the anchor specification differs from it (DESIGN CHOICE, log entry 124). -/
def segForm (c : Core) (strict : Bool) (sp : AncSpec) (form : Form) (f : Fmt) (pq : PredCtl) (va vb vcr : VReg)
    (nseg i : Nat) : WideForm :=
  let size := fmtElems f / nseg
  let act := activeLanes c.rf0 pq
  let a := c.rf0.vGet va
  let b := c.rf0.vGet vb
  let isProd := decide (form = .product)
  let r := segAnchor sp form f (vecBytes (c.rf0.vGet vcr)) (c.rf0.vBad vcr) nseg i
  let ix := ((List.range size).map (fun j => size * i + j)).filter (fun j => act.getLsbD (laneOf f j))
  let special := RedFlags.has r.2.1 RedFlags.nan
  let ts := ix.map (fun j => ((termOf form f f (elemGet f a j) (elemGet f b j)).inBlock special,
    (c.rf0.vBad va).getLsbD (laneOf f j) || (isProd && (c.rf0.vBad vb).getLsbD (laneOf f j))))
  let w := reduceTerms r.1 r.2.1 ts
  WideForm.settle strict (match w with
    | [] => []
    | l :: ls => accPoison l (r.2.2 || predBad c.rf0 pq) :: ls)

/-- A block anchor read under Strict arithmetic lies above the bound (R144). -/
def segRange (c : Core) (sp : AncSpec) (vcr : VReg) (nseg i : Nat) : Bool :=
  let ab := sext16 (fieldAt (vecBytes (c.rf0.vGet vcr)) (2 * (i / max 1 (nseg / 256))) 2)
  decide (sp.src = .block) && decide (ab ≠ ancA64Inf) && decide (ab ≠ ancNull) && decide (ancStrictMax < ab + 48)

/-- The formats of `vred`: all eight (R244); the specification register is a constant register; the segments fit. -/
def vredOk (sspec : SReg) (seg : Nat) (f : Fmt) : Bool := decide (48 ≤ sspec.val) && decide (2 ^ seg ≤ fmtElems f)

/-- `vred` (R248); a reduction of src BLOCK forms A64 values (R151, R152, R406). -/
def execVred (u : CoreRef) (init : Bool) (pq : PredCtl) (sspec saddr : SReg) (vcr vb va : VReg) (seg : Nat) (form : Form)
    (fmt : Fmt) (s : State) : Out :=
  s.issueIf (vredOk sspec seg fmt) (.vred u init pq sspec saddr vcr vb va seg form fmt) u slotVector (fun c =>
    let strict := c.cfg.strict
    let nseg := 2 ^ seg
    let size := lfSize strict
    let a := (c.rf0.sGet saddr).toNat
    let sp := ancSpecFields (c.rf0.sGet sspec)
    let n := nseg * size
    if c.rf0.sBad saddr then s.faultAt u c slotVector causePoisonControl
    else match c.accessCause a n 4 true with
    | some k => s.faultAt u c slotVector k
    | none =>
      if !init && !c.spadOk a n false then s.faultAt u c slotVector causeSpadBounds
      else if strict && (List.range nseg).any (segRange c sp vcr nseg) then s.faultAt u c slotVector causeAnchorRange
      else match (if init then none else c.rangeTag a n) with
      | some t => s.faultTag u c slotVector t
      | none =>
        let one (i : Nat) : WideForm :=
          let w := segForm c strict sp form fmt pq va vb vcr nseg i
          let w := if strict then w else w.take 1
          let w := if init then w else WideForm.combine (c.readLf strict (a + size * i)) w
          if sp.src = .block then WideForm.asA64 w else w
        let ws := (List.range nseg).map one
        let c' := (ws.zip (List.range nseg)).foldl (fun c (wi : WideForm × Nat) => c.writeLf (a + size * wi.2) wi.1) c
        (s.put u c').overflowIf u.pen (ws.any lfOverflow))

/-! ### Long-form instructions (R249) -/

/-- `vlf.comb` element by element, each read before it is written; whether some result overflowed. -/
def combLoop (wide : Bool) (d a b : Nat) : Nat → Nat → Core → Bool → Core × Bool
  | 0, _, c, o => (c, o)
  | k + 1, i, c, o =>
    let z := lfSize wide
    let w := WideForm.combine (c.readLf wide (a + z * i)) (c.readLf wide (b + z * i))
    combLoop wide d a b k (i + 1) (c.writeLf (d + z * i) w) (o || lfOverflow w)

def execVlfComb (u : CoreRef) (n : BitVec 16) (sb sa sd : SReg) (wide : Bool) (s : State) : Out :=
  s.issue (.vlfComb u n sb sa sd wide) u slotVector (fun c =>
    let len := n.toNat * lfSize wide
    let a := (c.rf0.sGet sa).toNat
    let b := (c.rf0.sGet sb).toNat
    let d := (c.rf0.sGet sd).toNat
    if c.rf0.sBad sa || c.rf0.sBad sb || c.rf0.sBad sd then s.faultAt u c slotVector causePoisonControl
    else if n = 0#16 then s.put u c
    else match c.accessCause a len 4 false <|> c.accessCause b len 4 false <|> c.accessCause d len 4 true with
    | some k => s.faultAt u c slotVector k
    | none =>
      match c.rangeTag a len <|> c.rangeTag b len with
      | some t => s.faultTag u c slotVector t
      | none =>
        let r := combLoop wide d a b n.toNat 0 c false
        (s.put u r.1).overflowIf u.pen r.2)

/-- `vlf.drain` (R249): each long form drained into its element (R140, R141; R143 when wide). -/
def execVlfDrain (u : CoreRef) (fmt : Fmt) (sat wide : Bool) (sa : SReg) (vd : VReg) (s : State) : Out :=
  s.issue (.vlfDrain u fmt sat wide sa vd) u slotVector (fun c =>
    let z := lfSize wide
    let n := fmtElems fmt
    let a := (c.rf0.sGet sa).toNat
    if c.rf0.sBad sa then s.faultAt u c slotVector causePoisonControl
    else match c.accessCause a (n * z) 4 false with
    | some k => s.faultAt u c slotVector k
    | none =>
      match c.rangeTag a (n * z) with
      | some t => s.faultTag u c slotVector t
      | none =>
        let at_ (i : Nat) : Drained :=
          let w := c.readLf wide (a + z * i)
          if wide then drainWide c.cfg.strict fmt sat w
          else match w with
            | [] => ⟨0#32, 0#5, false⟩
            | l :: _ => drainLong c.cfg.strict fmt sat l
        let rs := (List.range n).map at_
        let bad := laneBits (fun l => (List.range n).any (fun i =>
          decide (laneOf fmt i = l) && (rs.getD i ⟨0#32, 0#5, false⟩).poison))
        s.put u ((c.vecWrite none vd (ofElems fmt (rs.map Drained.w)) bad).raise (rs.map Drained.fl)))

end Sys2Proof.Machine
end

