-- ==== Sys2Proof/Machine/MatrixOps.lean ====
section
/-!
DEFINITION. What the matrix engine does: tiles and their anchors (R161, R162), slices (R158, R178), the Strict rerun (R180),
the drain stages (R170 to R174, R146), the chained product (R175, R176), and the start of the queues' heads (R163).
-/

namespace Sys2Proof.Machine

/-! ### Tiles -/

/-- An element of a tile, and its six further limbs (R142, R181). -/
def Tile.elem (t : Tile) (i : Nat) : LongForm := SMap.get (fun _ => LongForm.null) t.elems i
def Tile.limbsOf (t : Tile) (i : Nat) : List LongForm :=
  match SMap.find t.limbs i with
  | some ls => ls
  | none => (WideForm.start (t.elem i).anc 0#8).drop 1

/-- The wide form of an element. -/
def Tile.wideOf (t : Tile) (i : Nat) : WideForm := t.elem i :: t.limbsOf i

/-- A table from a list of elements, elements like the empty long form left out. -/
def elemTable (es : List (Nat × LongForm)) : SMap LongForm := es.filter (fun e => decide (e.2 ≠ LongForm.null))

/-- The elements of a tile changed, each by its index. -/
def Tile.mapElems (t : Tile) (n : Nat) (f : Nat → LongForm → LongForm) : Tile :=
  { t with elems := elemTable ((List.range n).map (fun i => (i, f i (t.elem i)))) }

/-- The anchor and the starting flags that a latch gives element (i, j), with a column crest and its poison (R162). -/
def latchAnchor (l : AncLatch) (i : Nat) (kap : Nat × Bool) : Int × RedFlags :=
  let sp := ancSpecFields l.spec
  let bs := vecBytes l.bytes
  let bad (b : Nat) : Bool := l.bad.getLsbD (b / 4)
  match sp.src with
  | .explicit => (sp.anc, RedFlags.expl)
  | .block =>
    let r := blockAnchor (sext16 (fieldAt bs (2 * i) 2))
    (r.1, RedFlags.when r.2 RedFlags.nan ||| RedFlags.when (bad (2 * i)) RedFlags.poison)
  | .crest =>
    (crestAnchor .product (fieldAt bs i 1) l.fa kap.1 l.fb sp.lenLog2,
      RedFlags.when (bad i || kap.2) RedFlags.poison)

/-- The block anchor of row i is 32,767: every term of the row is a NaN term (R153, R162). -/
def latchSpecial (l : AncLatch) (i : Nat) : Bool :=
  decide ((ancSpecFields l.spec).src = .block) && (blockAnchor (sext16 (fieldAt (vecBytes l.bytes) (2 * i) 2))).2

/-- The column crest of a latch (R165). -/
def latchKappa (l : AncLatch) (j : Nat) : Nat × Bool := (fieldAt (vecBytes l.bytes) (128 + j) 1, l.bad.getLsbD ((128 + j) / 4))

/-- A new live tile: every element zero at its anchor (R162). -/
def startTile (cols : Nat) (l : AncLatch) : Tile :=
  { a64 := decide ((ancSpecFields l.spec).src = .block),
    elems := elemTable ((List.range (128 * cols)).map (fun ix =>
      let r := latchAnchor l (ix / cols) (latchKappa l (ix % cols))
      (ix, LongForm.start r.1 r.2))) }

/-! ### Slices -/

/-- An element of a panel and its poison: k-major order (R160). -/
def Core.panelElem (c : Core) (f : Fmt) (a : Nat) : Elem × Bool :=
  (BitVec.ofNat 32 (leNum (c.spadRead a (fmtSize f))), c.lineBad (a / 64))

/-- The exact split-FP32 term (R178). -/
def x3Term (a b : FVal) : Term :=
  match a, b with
  | .fin sa ma ea, .fin sb mb eb =>
    .num (signedNat (sa != sb) (ma * mb - ma % 2 ^ 12 * (mb % 2 ^ 12))) (ea + eb)
  | _, _ => termMul a b

/-- The term of one k of element (i, j), and its poison. -/
def Core.tileTerm (c : Core) (cols : Nat) (r : TileRec) (i j k : Nat) : Term × Bool :=
  let a := c.panelElem r.fa (r.aBase + (k * 128 + i) * fmtSize r.fa)
  let b := c.panelElem r.fb (r.bBase + (k * cols + j) * fmtSize r.fb)
  (if r.x3 then x3Term (decodeF r.fa a.1) (decodeF r.fb b.1) else termOf .product r.fa r.fb a.1 b.1, a.2 || b.2)

/-- A term into a register with its poison (R135, R136). -/
def addTerm (l : LongForm) (t : Term × Bool) : LongForm := accPoison (accTerm l t.1) t.2

/-- The term of one k as the element's row takes it: a NaN term in a row whose block anchor is 32,767 (R162). -/
def Core.rowTerm (c : Core) (l : AncLatch) (cols : Nat) (r : TileRec) (i j k : Nat) : Term × Bool :=
  let t := c.tileTerm cols r i j k
  (t.1.inBlock (latchSpecial l i), t.2)

/-- The slices of an accumulation added to a tile under the active latch (R158, R162, R166). -/
def Core.addSlices (c : Core) (l : AncLatch) (t : Tile) (r : TileRec) : Tile :=
  let cols := c.cols
  t.mapElems c.tileElems (fun ix e =>
    (List.range (128 * r.n)).foldl (fun e k => addTerm e (c.rowTerm l cols r (ix / cols) (ix % cols) k)) e)

/-- Some element of a tile has rnd set (R168). -/
def Tile.rounded (t : Tile) : Bool := t.elems.any (fun e => RedFlags.has e.2.flags RedFlags.rnd)

/-- A term's residue into the six further limbs of an element (R142). -/
def residueInto (anc : Int) (ls : List LongForm) (t : Term) : List LongForm :=
  match t with
  | .num m e => if anc = ancNull ∨ m = 0 then ls else accLimbs ls (residue m e anc) e
  | _ => ls

/-- The rerun of a Strict tile: every accumulation since its `.first` replayed, the residues into the further limbs
(R180). -/
def Core.rerun (c : Core) (t : Tile) : Tile :=
  let cols := c.cols
  { t with limbs := (List.range c.tileElems).map (fun ix =>
      (ix, t.recs.foldl (fun ls r =>
        (List.range (128 * r.n)).foldl (fun ls k =>
          residueInto (t.elem ix).anc ls (c.tileTerm cols r (ix / cols) (ix % cols) k).1) ls) (t.limbsOf ix))) }

/-- The clk that the rerun of a tile takes: 256 per slice, 768 per split-FP32 slice (R180). -/
def Tile.rerunTime (t : Tile) : Nat := t.recs.foldl (fun k r => k + r.n * (if r.x3 then 768 else 256)) 0

/-! ### Drain stages -/

/-- Bytes with poison, written line by line. -/
def Core.writeMarkedAux : Nat → Core → Nat → List (Byte × Bool) → Core
  | 0, c, _, _ => c
  | n + 1, c, a, bs =>
    if bs.isEmpty then c
    else
      let piece := bs.take (64 - a % 64)
      Core.writeMarkedAux n (c.spadWrite a (piece.map Prod.fst) (piece.any Prod.snd)) (a + piece.length) (bs.drop piece.length)

/-- Bytes with poison, written line by line. -/
def Core.writeMarked (c : Core) (a : Nat) (bs : List (Byte × Bool)) : Core :=
  Core.writeMarkedAux (bs.length / 64 + 2) c a bs

/-- An element drained to a format (R140, R141; R143 when it has further limbs). -/
def Tile.drained (t : Tile) (strict : Bool) (f : Fmt) (sat : Bool) (ix : Nat) : Drained :=
  if t.limbs.isEmpty then drainLong strict f sat (t.elem ix) else drainWide strict f sat (t.wideOf ix)

/-- The row-wise functions (R171). -/
def rowFn (strict : Bool) (fn : RowFn) (x r : Elem) : Elem × ExcFlags :=
  let md : FpMode := ⟨strict, .rne⟩
  match fn with
  | .none => (x, 0#5)
  | .expSub => if x = cNINF then (0#32, 0#5) else fnEval md .exp (fsub x r)
  | .exp => fnEval md .exp x
  | .sigmoid => fnEval md .sigmoid x
  | .tanh => fnEval md .tanh x
  | .erf => fnEval md .erf x
  | .gelu => fnEval md .gelu x

/-- An element of the causal mask is masked (R172). -/
def masked (mask : Option (Nat × Nat)) (i j : Nat) : Bool :=
  match mask with
  | some (row, col) => decide (row + i < col + j)
  | none => false

/-- An element after stages 1 to 3 of R146: x, y, flags and poison. -/
structure Staged where
  x : Elem
  y : Elem
  fl : ExcFlags
  bad : Bool
  deriving DecidableEq, Repr

/-- Stages 1 to 3 of R146 for an element drained to FP32, with its row operand and mask (R171, R172). -/
def stage (strict : Bool) (fn : RowFn) (rows : VecWord) (rowsBad : BitVec 128) (mask : Option (Nat × Nat)) (i j : Nat)
    (d : Drained) : Staged :=
  let x := if masked mask i j then cNINF else d.w
  let r := rowFn strict fn x (elemGet .fp32 rows i)
  { x := x, y := r.1, fl := d.fl ||| (if strict then r.2 else 0#5), bad := d.poison || rowsBad.getLsbD i }

/-- The row sum over staged elements: an anchored sum at the explicit anchor (R148). -/
def rowSum (anc : Int) (l : LongForm) (es : List Staged) : LongForm :=
  es.foldl (fun l e => addTerm l (termOne (decodeF .fp32 e.y), e.bad)) { l with anc := anc, flags := l.flags ||| RedFlags.expl }

/-- The 128 row sums as bytes with their poison. -/
def sumBytes (ls : List LongForm) : List (Byte × Bool) :=
  ls.flatMap (fun l => (LongForm.bytes l.leave).map (fun b => (b, RedFlags.has l.flags RedFlags.poison)))

/-- The OR of the flags of a tile's elements. -/
def Tile.flags (t : Tile) : RedFlags :=
  t.elems.foldl (fun f e => f ||| e.2.flags) (t.limbs.foldl (fun f e => f ||| WideForm.flags e.2) 0#8)

/-- Some flag of ovf and amix is set. -/
def badFlags (f : RedFlags) : Bool := RedFlags.has f (RedFlags.ovf ||| RedFlags.amix)

/-- The bytes of elements in a format, with poison. -/
def elemBytes (f : Fmt) (es : List (Elem × Bool)) : List (Byte × Bool) :=
  es.flatMap (fun e => (le (fmtSize f) e.1.toNat).map (fun b => (b, e.2)))

/-- Writes at an optional address. -/
def Core.writeOpt (c : Core) (a : Option Nat) (bs : List (Byte × Bool)) : Core :=
  match a with
  | some a => c.writeMarked a bs
  | none => c

/-- The fused drain (R146, R170 to R173) of a tile, whose first and last stage saturate under `.sat` (R140, R146): the core with its outputs written and its flags, and the flags of the
row sums. -/
def Core.drainFused (c : Core) (t : Tile) (fmt : Fmt) (sat : Bool) (dst : Option Nat) (fn : RowFn) (rows : VecWord)
    (rowsBad : BitVec 128) (mask : Option (Nat × Nat)) (rmax : Option Nat) (rsum : Option (Nat × Int)) : Core × RedFlags :=
  let strict := c.cfg.strict
  let cols := c.cols
  let row (i : Nat) : List Staged := (List.range cols).map (fun j =>
    stage strict fn rows rowsBad mask i j (t.drained strict .fp32 sat (cols * i + j)))
  let grid := (List.range 128).map row
  let out := grid.flatten.map (fun e =>
    let r := if fmt = .fp32 then (e.y, 0#5) else convert ⟨strict, .rne⟩ fmt .fp32 sat 0 e.y
    (r.1, r.2, e.bad))
  let sums := grid.map (rowSum ((rsum.map Prod.snd).getD 0) (LongForm.start 0 0#8))
  let c := c.writeOpt dst (elemBytes fmt (out.map (fun o => (o.1, o.2.2))))
  let c := c.writeOpt rmax (elemBytes .fp32 (grid.map (fun r => (rowMax (r.map Staged.x), r.any Staged.bad))))
  let c := c.writeOpt (rsum.map Prod.fst) (sumBytes sums)
  let fl := grid.flatten.map Staged.fl ++ (if dst.isSome then out.map (fun o => o.2.1) else [])
  (c.raise fl, if rsum.isSome then sums.foldl (fun f l => f ||| l.flags) 0#8 else 0#8)

/-- The direct drain (R146, R171): each element to the output format by R140. -/
def Core.drainDirect (c : Core) (t : Tile) (fmt : Fmt) (sat : Bool) (dst : Option Nat) : Core :=
  let ds := (List.range c.tileElems).map (t.drained c.cfg.strict fmt sat)
  (c.writeOpt dst (elemBytes fmt (ds.map (fun d => (d.w, d.poison))))).raise (ds.map Drained.fl)

/-- An element of a tile as it leaves the engine as a long form or a wide long form: an A64 value is checked (R151, R174, R182). -/
def Tile.outForm (t : Tile) (wide : Bool) (ix : Nat) : WideForm :=
  let w : WideForm := if wide then t.wideOf ix else [t.elem ix]
  if t.a64 then WideForm.asA64 w else w

/-- The flags of a tile's long forms as they leave the engine. -/
def Tile.lfFlags (t : Tile) (wide : Bool) (n : Nat) : RedFlags :=
  (List.range n).foldl (fun f ix => f ||| WideForm.flags (t.outForm wide ix)) 0#8

/-- The long forms of a tile as they leave the engine (R174, R182). -/
def Tile.lfOut (t : Tile) (wide : Bool) (n : Nat) : List (Byte × Bool) :=
  (List.range n).flatMap (fun ix =>
    let w := t.outForm wide ix
    (WideForm.bytes (WideForm.leave w)).map (fun b => (b, RedFlags.has (WideForm.flags w) RedFlags.poison)))

/-! ### The chained product -/

/-- The bound E_f of R176; none for the functions whose chain latch must be EXPLICIT. -/
def chainBound : RowFn → Option Int
  | .expSub | .sigmoid | .tanh | .erf => some 1
  | _ => none

/-- The anchor of O element (i, j) from the chain latch (R176). -/
def chainAnchor (l : AncLatch) (fn : RowFn) (i j : Nat) : Int × RedFlags :=
  let sp := ancSpecFields l.spec
  match sp.src with
  | .crest =>
    let k := latchKappa l j
    let lift : Int := if 24 < sp.lenLog2 then (sp.lenLog2 : Int) - 24 else 0
    (if k.1 = 0 then ancNull else (chainBound fn).getD 0 + crestBound l.fb k.1 + lift,
      RedFlags.when k.2 RedFlags.poison)
  | _ => latchAnchor l i (0, false)

/-- The columns of O that a chain forms: the 128 of V (R175, R183; DEDUCED, log entry 23). -/
def chainCols : Nat := 128

/-- The scores of key tile t after stages 1 and 3 (R175 steps 1 and 2): staged rows. -/
def Core.chainScores (c : Core) (act : AncLatch) (fa fb : Fmt) (q k kc n1 t : Nat) (fn : RowFn) (rows : VecWord)
    (rowsBad : BitVec 128) (mask : Option (Nat × Nat)) : List (List Staged) × RedFlags :=
  let cols := c.cols
  let r : TileRec := { aBase := q, bBase := k + t * n1 * sliceB cols fb, n := n1, fa := fa, fb := fb, x3 := false }
  let score (i j : Nat) : LongForm :=
    let a := kc + cols * t + j
    let an := latchAnchor act i ((c.spadByte a).toNat, c.lineBad (a / 64))
    (List.range (128 * n1)).foldl (fun l k => addTerm l (c.rowTerm act cols r i j k)) (LongForm.start an.1 an.2)
  let forms := (List.range 128).map (fun i => (List.range cols).map (score i))
  let mask := mask.map (fun m => (m.1, m.2 + cols * t))
  ((List.range 128).map (fun i => (List.range cols).map (fun j =>
      stage false fn rows rowsBad mask i j (drainLong false .fp32 false ((forms.getD i []).getD j LongForm.null)))),
   forms.flatten.foldl (fun f l => f ||| l.flags) 0#8)

/-- Adds P_t · V_t to O at the chain latch's anchors (R175 step 3): the partial of the tile is combined with what the shadow set holds, so
that another anchor there sets amix (R139, R156). -/
def Core.chainAdd (c : Core) (ch : AncLatch) (fn : RowFn) (o : Tile) (fc fv : Fmt) (v t : Nat) (p : List (List Staged)) : Tile :=
  let cols := c.cols
  let conv := p.map (fun r => r.map (fun e => ((convert ⟨false, .rne⟩ fc .fp32 false 0 e.y).1, e.bad)))
  o.mapElems c.tileElems (fun ix l =>
    let i := ix / cols
    let j := ix % cols
    let an := chainAnchor ch fn i j
    if chainCols ≤ j then l
    else LongForm.combine l ((List.range cols).foldl (fun l k =>
      let b := c.panelElem fv (v + t * sliceB cols fv + (k * chainCols + j) * fmtSize fv)
      let a := (conv.getD i []).getD k (0#32, false)
      addTerm l ((termOf .product fc fv a.1 b.1).inBlock (latchSpecial ch i), a.2 || b.2)) (LongForm.start an.1 an.2)))

/-- The key tiles of a chain in order: O, the row sums, and the flags of the scores. -/
def Core.chainTiles (c : Core) (act ch : AncLatch) (fa fb fc : Fmt) (q k v kc n1 : Nat) (fn : RowFn) (rows : VecWord)
    (rowsBad : BitVec 128) (mask : Option (Nat × Nat)) (anc : Int) :
    Nat → Nat → Tile × List LongForm × RedFlags → Tile × List LongForm × RedFlags
  | 0, _, x => x
  | n + 1, t, (o, sums, fl) =>
    let p := c.chainScores act fa fb q k kc n1 t fn rows rowsBad mask
    Core.chainTiles c act ch fa fb fc q k v kc n1 fn rows rowsBad mask anc n (t + 1)
      (c.chainAdd ch fn o fc ch.fb v t p.1, List.zipWith (rowSum anc) sums p.1, fl ||| p.2)

/-! ### The heads of the queues (R163, R164) -/

/-- A check of R167: each address a multiple of 64 and each extent readable; and the first deferred tag (R206). -/
def Core.readCheck (c : Core) (as_ : List Access) : Option (Nat × Option FaultTag) :=
  let as_ := as_.filter (fun a => decide (0 < a.len))
  if as_.any (fun a => decide (a.lo % 64 ≠ 0)) then some (causeSpadAlign, none)
  else if as_.any (fun a => !c.spadOk a.lo a.len false) then some (causeSpadBounds, none)
  else (as_.findSome? (fun a => c.rangeTag a.lo a.len)).map (fun t => (causeMovDeferred, some t))

/-- A fault of the matrix engine, reported with the bundle that issued the instruction (R186). -/
def State.mxFault (s : State) (pen logical bundle cause : Nat) (tag : Option FaultTag := none) : State :=
  s.progFault pen logical bundle slotMatrix cause (match tag with | some t => [ef t.cause, ef t.va] | none => [])

/-- The state with a core's matrix engine set. -/
def State.setMx (s : State) (pen logical : Nat) (c : Core) (m : Mx) : State := s.setCore (coreKey pen logical) { c with mx := m }

/-- A count of clk with clk more, which the timing decides (DESIGN CHOICE, log entry 3); it saturates at 32 bits. -/
def State.moreClk (s : State) (n : Nat) : Nat × State :=
  let r := s.draw
  (satAdd 32 n (r.1.toNat % 2 ^ 32), r.2)

/-- The clk that a read of panels loses to bank conflicts are counted (R160, R191). -/
def State.mxBank (s : State) (pen logical : Nat) : State :=
  let c := s.core (coreKey pen logical)
  let r := s.moreClk c.mx.stall.2
  r.2.setMx pen logical c { c.mx with stall := (c.mx.stall.1, r.1) }

/-- The clk that a queue's head waits on an interlock of R185 are counted (R191). -/
def State.mxWait (s : State) (pen logical : Nat) : State :=
  let c := s.core (coreKey pen logical)
  if c.mx.arrayQ.isEmpty && c.mx.drainQ.isEmpty then s
  else
    let r := s.moreClk c.mx.stall.1
    r.2.setMx pen logical c { c.mx with stall := (r.1, c.mx.stall.2) }

/-- The accumulation of an `mtile` that starts: R166, R167, R180.  With no slice a `.first` leaves the live set empty. -/
def State.startTile (s : State) (pen logical : Nat) (c : Core) (bundle : Nat) (rest : List MxEntry)
    (first swap x3 : Bool) (fa fb : Fmt) (a b n : Nat) : State :=
  let m := { c.mx with arrayQ := rest }
  match (if first then m.pendingLatch else m.activeLatch) with
  | none => s.mxFault pen logical bundle causeNoLatch
  | some l =>
    let r : TileRec := { aBase := a, bBase := b, n := n, fa := fa, fb := fb, x3 := x3 }
    if l.fa ≠ fa ∨ l.fb ≠ fb then s.mxFault pen logical bundle causeLatchMismatch
    else match c.readCheck (tileReads c.cols fa fb a b n) with
    | some (k, t) => s.mxFault pen logical bundle k t
    | none =>
      let old := if first then [] else (m.live.map Tile.recs).getD []
      if c.cfg.strict && decide (64 ≤ old.length) then s.mxFault pen logical bundle causeRerunDepth
      else
        let m := if first then
            { m with pendingLatch := none, activeLatch := some l,
                     passing := if swap then m.live.map (fun t => (t, false)) else m.passing }
          else m
        let t0 := if first then Sys2Proof.Machine.startTile c.cols l else m.live.getD (Sys2Proof.Machine.startTile c.cols l)
        let t1 := c.addSlices l t0 r
        if n = 0 then s.setMx pen logical c { m with live := none }
        else (s.setMx pen logical c { m with live := some { t1 with recs := if c.cfg.strict then old ++ [r] else [] },
                                             slices := m.slices + n }).mxBank pen logical

/-- A limb as it is loaded at the anchor of its latch (R169): it is combined with the empty partial at that anchor, whose flags the new
terms start with; a loaded anchor that is not null and differs from the latch's sets amix, a null one of the latch included (DEDUCED, log
entry 123). -/
def loadLimb (anc : Int) (fl : RedFlags) (l : LongForm) : LongForm :=
  let l := if l.anc ≠ ancNull ∧ anc = ancNull then { l with flags := l.flags ||| RedFlags.amix } else l
  LongForm.combine l (LongForm.start anc fl)

/-- `mload.lf` and `mload.wlf` (R169), limb by limb. -/
def State.startLoad (s : State) (pen logical : Nat) (c : Core) (bundle : Nat) (rest : List MxEntry) (wide : Bool) (src : Nat) :
    State :=
  match c.readCheck [⟨false, src, c.lfBytes wide⟩] with
  | some (k, t) => s.mxFault pen logical bundle k t
  | none =>
    let n := c.tileElems
    let form (ix : Nat) : WideForm :=
      let w := c.readLf wide (src + lfSize wide * ix)
      match c.mx.activeLatch with
      | none => w
      | some a =>
        let an := latchAnchor a (ix / c.cols) (latchKappa a (ix % c.cols))
        (w.zip (List.range wideLimbs)).map (fun ln => loadLimb (limbAnchor an.1 ln.2) (if ln.2 = 0 then an.2 else 0#8) ln.1)
    let t : Tile := { a64 := (c.mx.activeLatch.map (fun a => decide ((ancSpecFields a.spec).src = .block))).getD false,
                      elems := elemTable ((List.range n).map (fun ix => (ix, (form ix).headD LongForm.null))),
                      limbs := if wide then (List.range n).map (fun ix => (ix, (form ix).drop 1)) else [] }
    (s.setMx pen logical c { c.mx with arrayQ := rest, live := some t }).mxBank pen logical

/-- `mchain` (R175, R176): it needs both latches and the shadow set that its form names.  For each key tile it reads n1 slices of Q and K and
one of P and V (R189; DEDUCED, log entry 125). -/
def State.startChain (s : State) (pen logical : Nat) (c : Core) (bundle : Nat) (rest : List MxEntry) (fa fb fc : Fmt)
    (first : Bool) (q k v kc nt n1 : Nat) (fn : RowFn) (rows : VecWord) (rowsBad : BitVec 128) (mask : Option (Nat × Nat))
    (rsum : Option (Nat × Int)) : State :=
  match c.mx.activeLatch, c.mx.chainLatch with
  | some act, some ch =>
    if (if first then c.mx.shadow.isSome else !((c.mx.shadow.map Tile.byChain).getD false)) then
      s.mxFault pen logical bundle causeChainState
    else match c.readCheck (if nt = 0 then [] else chainReads c.cols fa fb ch.fb q k v kc nt n1) with
    | some (x, t) => s.mxFault pen logical bundle x t
    | none =>
      if (match rsum with | some (a, _) => !c.spadOk a 2560 true | none => false) then
        s.mxFault pen logical bundle causeSpadBounds
      else
        let cols := c.cols
        let o0 : Tile := if first then
            { elems := elemTable ((List.range c.tileElems).map (fun ix =>
                let an := chainAnchor ch fn (ix / cols) (ix % cols)
                (ix, LongForm.start an.1 an.2))) }
          else c.mx.shadow.getD {}
        let anc := (rsum.map Prod.snd).getD 0
        let sums0 := List.replicate 128 (LongForm.start anc RedFlags.expl)
        let r := c.chainTiles act ch fa fb fc q k v kc n1 fn rows rowsBad mask anc nt 0 (o0, sums0, 0#8)
        let s := s.overflowIf pen (badFlags r.2.2)
        (s.setMx pen logical c { c.mx with
          arrayQ := rest, live := none, shadow := some { r.1 with byChain := true }, chain := some (rsum.map Prod.fst, r.2.1),
          flagsOr := c.mx.flagsOr ||| r.2.2, slices := c.mx.slices + nt * (n1 + 1),
          rerunSticky := c.mx.rerunSticky || RedFlags.has r.2.2 RedFlags.rnd || r.1.rounded }).mxBank pen logical
  | _, _ => s.mxFault pen logical bundle causeNoLatch

/-- The head of the array queue starts when its conditions hold (R164); the array is not free while a tile waits to pass (R168, R180). -/
def State.mxArray (s : State) (pen logical : Nat) : Option State :=
  let c := s.core (coreKey pen logical)
  let m := c.mx
  if m.chain.isSome || m.passing.isSome then none
  else match m.arrayQ with
  | [] => none
  | e :: rest =>
    let noShadow := m.shadow.isNone
    match e.cmd with
    | .tile first swap x3 fa fb a b n =>
      if !first && decide (n = 0) then some (s.setMx pen logical c { m with arrayQ := rest })
      else if first && m.pendingLatch.isNone then none
      else if swap && !noShadow then none
      else some (s.startTile pen logical c e.bundle rest first swap x3 fa fb a b n)
    | .swap =>
      if noShadow then
        some (s.setMx pen logical c { m with arrayQ := rest, live := none, passing := m.live.map (fun t => (t, false)) })
      else none
    | .load wide src => if m.live.isNone then some (s.startLoad pen logical c e.bundle rest wide src) else none
    | .chain fa fb fc first q k v kc nt n1 fn rows rowsBad mask rsum =>
      if m.draining then none
      else some (s.startChain pen logical c e.bundle rest fa fb fc first q k v kc nt n1 fn rows rowsBad mask rsum)
    | .drain .. => none
    | .drainLf .. => none

/-- A swap or a chain is queued, so a drain with an empty shadow set waits (R185). -/
def Mx.swapComing (m : Mx) : Bool :=
  m.passing.isSome || m.chain.isSome ||
  m.arrayQ.any (fun e => match e.cmd with | .tile _ sw _ _ _ _ _ _ => sw | .swap => true | .chain .. => true | _ => false)

/-- The ranges a drain writes lie in declared regions (R251). -/
def Core.writeOk (c : Core) (as_ : List Access) : Bool :=
  (as_.filter (fun a => a.write)).all (fun a => c.spadOk a.lo a.len true)

/-- The head of the drain queue starts when the shadow set is valid and no chain holds the drain pipe (R164, R177, R185). -/
def State.mxDrain (s : State) (pen logical : Nat) : Option State :=
  let c := s.core (coreKey pen logical)
  let m := c.mx
  if m.chain.isSome || m.draining then none
  else match m.drainQ with
  | [] => none
  | e :: rest =>
    match m.shadow with
    | none => if m.swapComing then none else some (s.mxFault pen logical e.bundle causeEmptyDrain)
    | some t =>
      if !c.writeOk (c.mxAccess e.cmd) then some (s.mxFault pen logical e.bundle causeSpadBounds)
      else
        let fl := t.flags
        let done (c : Core) (sums out : RedFlags) : State :=
          (s.setMx pen logical c { c.mx with drainQ := rest, draining := true, flagsOr := c.mx.flagsOr ||| fl ||| out }).overflowIf pen
            (badFlags (fl ||| sums ||| out))
        match e.cmd with
        | .drain fmt sat dst fn rows rowsBad mask rmax rsum =>
          if c.cfg.strict && (match rsum with | some (_, a) => decide (ancStrictMax < a) | none => false) then
            some (s.mxFault pen logical e.bundle causeAnchorRange)
          else if decide (fn = .none) && mask.isNone && rmax.isNone && rsum.isNone then
            some (done (c.drainDirect t fmt sat dst) 0#8 0#8)
          else
            let r := c.drainFused t fmt sat dst fn rows rowsBad mask rmax rsum
            some (done r.1 r.2 0#8)
        | .drainLf wide dst => some (done (c.writeMarked dst (t.lfOut wide c.tileElems)) 0#8 (t.lfFlags wide c.tileElems))
        | _ => none

/-- Starts every head whose conditions hold, by fuel: drains before the array, so that a drain of the shadow set goes before
what would fill it again. -/
def State.mxRunAux (pen logical : Nat) : Nat → State → State
  | 0, s => s
  | n + 1, s =>
    match s.mxDrain pen logical with
    | some s' => State.mxRunAux pen logical n s'
    | none =>
      match s.mxArray pen logical with
      | some s' => State.mxRunAux pen logical n s'
      | none => s

/-- Starts every head of a core's queues whose conditions hold (R163): eight entries at most. -/
def State.mxRun (s : State) (pen logical : Nat) : State := (State.mxRunAux pen logical 9 s).mxWait pen logical

end Sys2Proof.Machine
end

