-- ==== Sys2Proof/Machine/Matrix.lean ====
section
/-!
DEFINITION. The matrix slot (R163 to R183, R250, R251): latch loads, entries into the two queues, and the events of the
engine: a rerun, a tile's pass, the end of a drain and of a chain.
-/

namespace Sys2Proof.Machine

/-! ### Legality -/

/-- The input formats of the array (R159). -/
def mxFloat (f : Fmt) : Bool := [Fmt.e4m3, .e5m2, .fp16, .bf16].contains f

/-- A pair of operand formats of an `mtile` (R159). -/
def mxPair (fa fb : Fmt) : Bool := (mxFloat fa && mxFloat fb) || (decide (fa = .int8) && decide (fb = .int8))

/-- A pair of formats of a `manc`: those of an `mtile`, or FP32 for both (R159). -/
def mancPair (fa fb : Fmt) : Bool := mxPair fa fb || (decide (fa = .fp32) && decide (fb = .fp32))

/-! ### Latches -/

/-- The latch that a `manc` loads (R165). -/
def latchOf (c : Core) (spec : SReg) (vr : VReg) (fa fb : Fmt) : AncLatch :=
  { fa := fa, fb := fb, spec := c.rf0.sGet spec, bytes := c.rf0.vGet vr, bad := c.rf0.vBad vr }

/-- A Strict latch holds a block anchor out of range (R144). -/
def latchRange (strict : Bool) (l : AncLatch) : Bool :=
  strict && decide ((ancSpecFields l.spec).src = .block) &&
  (List.range 128).any (fun i =>
    let ab := sext16 (fieldAt (vecBytes l.bytes) (2 * i) 2)
    decide (ab ≠ ancA64Inf) && decide (ab ≠ ancNull) && decide (ancStrictMax < ab + 48))

/-- `manc` (R165): it waits while the pending latch is full; an `mtile` with `.first` that waited for the latch may start. -/
def execManc (u : CoreRef) (spec : SReg) (vr : VReg) (fb fa : Fmt) (s : State) : Out :=
  s.issueIf (decide (48 ≤ spec.val) && mancPair fa fb) (.manc u spec vr fb fa) u slotMatrix (fun c =>
    let l := latchOf c spec vr fa fb
    if latchRange c.cfg.strict l then s.faultAt u c slotMatrix causeAnchorRange
    else (s.put u { c with mx := { c.mx with pendingLatch := some l } }).mxRun u.pen u.logical)

/-- `manc.chain` (R176): it waits while an `mchain` runs. -/
def execMancChain (u : CoreRef) (spec : SReg) (vr : VReg) (fb : Fmt) (s : State) : Out :=
  s.issueIf (decide (48 ≤ spec.val) && (mxFloat fb || decide (fb = .int8))) (.mancChain u spec vr fb) u slotMatrix (fun c =>
    let l := latchOf c spec vr fb fb
    if latchRange c.cfg.strict l then s.faultAt u c slotMatrix causeAnchorRange
    else (s.put u { c with mx := { c.mx with chainLatch := some l } }).mxRun u.pen u.logical)

/-! ### The queues -/

/-- The entry of a bundle's matrix instruction, if it has one for a queue. -/
def entriesOf (cmd : Option MxCmd) (bundle : Nat) : List MxEntry := (cmd.map (fun x => ({ cmd := x, bundle := bundle } : MxEntry))).toList

/-- The queues with entries at their ends; the engine has work (R191). -/
def Mx.enqueue (m : Mx) (a d : List MxEntry) : Mx := { m with arrayQ := m.arrayQ ++ a, drainQ := m.drainQ ++ d, worked := true }

/-- An instruction enters its queue: a poisoned address or parameter faults; a full queue or outstanding work in its lines holds the
bundle (`Core.interlocked`; R163, R233, R235); the heads that can start do. -/
def mxEnqueue (i : Instr) (ok : Bool) (u : CoreRef) (s : State) (bad : RegFile → Bool) : Out :=
  s.issueIf ok i u slotMatrix (fun c =>
    if bad c.rf0 then s.faultAt u c slotMatrix causePoisonControl
    else (s.put u { c with mx := c.mx.enqueue (entriesOf (arrayCmd c i) c.pc) (entriesOf (drainQCmd c i) c.pc) }).mxRun u.pen u.logical)

/-- An `mtile` of any form (R164, R166): poisoned panel addresses fault. -/
def mxTile (i : Instr) (ok : Bool) (u : CoreRef) (sb sa : SReg) (s : State) : Out :=
  mxEnqueue i ok u s (fun r => r.sBad sa || r.sBad sb)

def execMtile (u : CoreRef) (n : BitVec 16) (sb sa : SReg) (fb fa : Fmt) (s : State) : Out :=
  mxTile (.mtile u n sb sa fb fa) (mxPair fa fb) u sb sa s

def execMtileFirst (u : CoreRef) (n : BitVec 16) (sb sa : SReg) (fb fa : Fmt) (s : State) : Out :=
  mxTile (.mtileFirst u n sb sa fb fa) (mxPair fa fb) u sb sa s

def execMtileFirstSwap (u : CoreRef) (n : BitVec 16) (sb sa : SReg) (fb fa : Fmt) (s : State) : Out :=
  mxTile (.mtileFirstSwap u n sb sa fb fa) (mxPair fa fb) u sb sa s

def execMtileX3 (u : CoreRef) (n : BitVec 16) (sb sa : SReg) (s : State) : Out := mxTile (.mtileX3 u n sb sa) true u sb sa s

def execMtileX3First (u : CoreRef) (n : BitVec 16) (sb sa : SReg) (s : State) : Out :=
  mxTile (.mtileX3First u n sb sa) true u sb sa s

def execMtileX3FirstSwap (u : CoreRef) (n : BitVec 16) (sb sa : SReg) (s : State) : Out :=
  mxTile (.mtileX3FirstSwap u n sb sa) true u sb sa s

def execMswap (u : CoreRef) (s : State) : Out := mxEnqueue (.mswap u) true u s (fun _ => false)

def execMloadLf (u : CoreRef) (ssrc : SReg) (s : State) : Out := mxEnqueue (.mloadLf u ssrc) true u s (fun r => r.sBad ssrc)

def execMloadWlf (u : CoreRef) (ssrc : SReg) (s : State) : Out := mxEnqueue (.mloadWlf u ssrc) true u s (fun r => r.sBad ssrc)

/-- An optional address register is poisoned. -/
def optBad (r : RegFile) (x : Option SReg) : Bool := match x with | some i => r.sBad i | none => false

/-- `mdrain` (R170, R251): it may write the tile, the row maxima and the row sums. -/
def execMdrain (u : CoreRef) (srsum srmax : Option SReg) (smask : SReg) (causal : Bool) (vrow : VReg) (fn : RowFn)
    (sdst : Option SReg) (sat : Bool) (fmt : Fmt) (s : State) : Out :=
  mxEnqueue (.mdrain u srsum srmax smask causal vrow fn sdst sat fmt) true u s (fun r => optBad r srsum || optBad r srmax || optBad r sdst)

def execMdrainLf (u : CoreRef) (sdst : SReg) (s : State) : Out := mxEnqueue (.mdrainLf u sdst) true u s (fun r => r.sBad sdst)

def execMdrainWlf (u : CoreRef) (sdst : SReg) (s : State) : Out := mxEnqueue (.mdrainWlf u sdst) true u s (fun r => r.sBad sdst)

/-- The chain-buffer formats (R175). -/
def chainFmt (f : Fmt) : Bool := [Fmt.bf16, .fp16, .e4m3, .e5m2].contains f

/-- `mchain` (R175, R251): Fast programs only. -/
def execMchain (u : CoreRef) (rsumEn causal : Bool) (vrow : VReg) (fn : RowFn) (n1m1 : BitVec 3) (nt : BitVec 16) (sb : SReg)
    (first : Bool) (fc fb fa : Fmt) (s : State) : Out :=
  mxEnqueue (.mchain u rsumEn causal vrow fn n1m1 nt sb first fc fb fa)
    (decide (sb.val ≤ 58) && chainFmt fc && mxPair fa fb && !s.strictOf u) u s
    (fun r => (List.range 4).any (fun k => r.sBad (regAfter sb k)) || (rsumEn && r.sBad (regAfter sb 5)))

/-! ### The engine's events -/

/-- A rounded Strict tile is rerun before its pass (R180); the rerun waits while the wide file is occupied (R181). -/
def execStrictRerun (u : CoreRef) (s : State) : Out :=
  let c := s.core (refKey u)
  match c.mx.passing with
  | some (t, false) =>
    whenOk (s.coreRuns u && c.cfg.strict && t.rounded && !c.mx.wideBusy) s
      (s.put u { c with mx := { c.mx with passing := some (c.rerun t, true), wideBusy := true, reruns := c.mx.reruns + 1,
                                           rerunClk := satAdd 32 c.mx.rerunClk t.rerunTime } })
  | _ => .next s

/-- A tile passes to the shadow set (R168), after its rerun when it needs one; drains that wait for it start. -/
def execTilePass (u : CoreRef) (s : State) : Out :=
  let c := s.core (refKey u)
  match c.mx.passing with
  | some (t, done) =>
    whenOk (s.coreRuns u && c.mx.shadow.isNone && (done || !(c.cfg.strict && t.rounded))) s
      ((s.put u { c with mx := { c.mx with passing := none, shadow := some { t with recs := [] }, tiles := c.mx.tiles + 1,
                                           wideBusy := c.mx.wideBusy || !t.limbs.isEmpty,
                                           rerunSticky := c.mx.rerunSticky || t.rounded } }).mxRun u.pen u.logical)
  | none => .next s

/-- A drain has read every row: the shadow set and the wide file are empty (R170, R181). -/
def execDrainComplete (u : CoreRef) (s : State) : Out :=
  let c := s.core (refKey u)
  whenOk (s.coreRuns u && c.mx.draining) s
    ((s.put u { c with mx := { c.mx with draining := false, shadow := none, wideBusy := false } }).mxRun u.pen u.logical)

/-- A chain ends: its row sums are written once and the drain pipe is free (R175, R177). -/
def execChainEnd (u : CoreRef) (s : State) : Out :=
  let c := s.core (refKey u)
  match c.mx.chain with
  | some (dst, sums) =>
    let c1 := c.writeOpt dst (sumBytes sums)
    whenOk (s.coreRuns u) s
      (((s.put u { c1 with mx := { c1.mx with chain := none } }).overflowIf u.pen
        (dst.isSome && sums.any (fun l => badFlags l.flags))).mxRun u.pen u.logical)
  | none => .next s

end Sys2Proof.Machine
end

