-- ==== Sys2Proof/Machine/Spdm.lean ====
section
/-!
DEFINITION. The SPDM responder (R600 to R602) and the host sessions it opens (R585).  The spec names DSP0274 for the messages; codes,
order of requests and the fields of responses are taken from there (PRESUMED, log entry 41).
-/

namespace Sys2Proof.Machine

/-! ### Endpoints and responses -/

/-- The key of an endpoint's connection, and its pen: 0 for PF0 and the SMBus. -/
def epKey : SpdmEp → Nat
  | .pcie fn => fn.val
  | .smbus => 13
def epPen : SpdmEp → Nat
  | .pcie fn => fn.val
  | .smbus => 0

/-- A connection. -/
def State.conn (s : State) (ep : SpdmEp) : SpdmConn := SMap.get (fun _ => {}) s.spdm (epKey ep)

/-- The state with a connection changed. -/
def State.onConn (s : State) (ep : SpdmEp) (f : SpdmConn → SpdmConn) : State :=
  { s with spdm := SMap.set (fun _ => {}) s.spdm (epKey ep) (f (s.conn ep)) }

/-- Response codes (DSP0274). -/
def spVersion : Nat := 0x04
def spCapabilities : Nat := 0x61
def spAlgorithms : Nat := 0x63
def spDigests : Nat := 0x01
def spCertificate : Nat := 0x02
def spChallengeAuth : Nat := 0x03
def spMeasurements : Nat := 0x60
def spKeyExchangeRsp : Nat := 0x64
def spFinishRsp : Nat := 0x65
def spHeartbeatAck : Nat := 0x68
def spKeyUpdateAck : Nat := 0x69
def spEndSessionAck : Nat := 0x6C
def spError : Nat := 0x7F

/-- Error codes (DSP0274). -/
def seInvalidRequest : Nat := 0x01
def seBusy : Nat := 0x03
def seUnexpected : Nat := 0x04
def seUnspecified : Nat := 0x05
def seDecrypt : Nat := 0x06
def seVersion : Nat := 0x41

/-- A response: its code and its fields; over the SMBus it waits for the SMBus host (R703). -/
def State.respond (s : State) (ep : SpdmEp) (code : Nat) (bs : List Byte) : State :=
  let s := s.onConn ep (fun c => { c with respCode := code, resp := bs })
  match ep with
  | .pcie _ => s
  | .smbus => { s with smbusMsg := true }.refreshPins

/-- An error response. -/
def State.spdmError (s : State) (ep : SpdmEp) (e : Nat) : State := s.respond ep spError (le 1 e)

/-- The responder is reachable: the management core runs, and PCIe is not in reset for an endpoint there. -/
def State.epUp (s : State) (ep : SpdmEp) : Bool :=
  s.mgmtUp && !s.recovery && (match ep with | .pcie _ => !s.perst | .smbus => true)

/-- Answers a request that an endpoint takes at a stage of the connection: out of order it is unexpected. -/
def State.spdm_ (s : State) (ep : SpdmEp) (stage : Nat) (f : State → State) : Out :=
  if !s.epUp ep then .next s
  else if (s.conn ep).stage < stage then .next (s.spdmError ep seUnexpected)
  else .next (f s)

/-! ### Sessions (R585) -/

/-- The session of an endpoint ends: its keys are zeroised, with the host session of a confidential pen. -/
def State.closeSession (s : State) (ep : SpdmEp) : State :=
  let s := s.onConn ep (fun c => { c with session := 0, sessionStage := 0, secret := [], mutualAuth := false, reqKeyGen := 0, rspKeyGen := 0 })
  let p := epPen ep
  if p ≠ 0 then (s.onPen p (fun x => { x with session := none })).setFld .penState 4 1 0 (p - 1) else s

/-- The three keys of a host session from the export master secret (R585). -/
def hostKeys (secret : List Byte) : HostSession :=
  let key (suffix : List Byte) : List Byte := hkdfExpand384 secret ([0x41#8, 0x45#8, 0x42#8, 0x42#8, 0x20#8] ++ suffix) 32
  { h2d := key [0x68#8, 0x32#8, 0x64#8], d2h := key [0x64#8, 0x32#8, 0x68#8], cmd := key [0x63#8, 0x6D#8, 0x64#8] }

/-- The host session of a confidential pen opens. -/
def State.openHost (s : State) (p : Nat) (secret : List Byte) : State :=
  if p ≠ 0 ∧ (s.pen p).present ∧ (s.pen p).confidential ∧ (s.pen p).teardownCause.isNone then
    (s.onPen p (fun x => { x with session := some (hostKeys secret) })).setFld .penState 4 1 1 (p - 1)
  else s

/-! ### Connection -/

/-- GET_VERSION: versions 1.2 and 1.3; the connection starts afresh and its session ends. -/
def execGetVersion (ep : SpdmEp) (s : State) : Out :=
  s.spdm_ ep 0 (fun s => ((s.closeSession ep).onConn ep (fun _ => { stage := 1 })).respond ep spVersion (le 1 2 ++ le 2 0x1200 ++ le 2 0x1300))

/-- The capabilities that the supported messages make (R600): CERT, CHAL, signed measurements, ENCRYPT, MAC, MUT_AUTH, KEY_EX, HBEAT,
KEY_UPD. -/
def spdmCaps : Nat := 2 ^ 1 + 2 ^ 2 + 2 ^ 4 + 2 ^ 6 + 2 ^ 7 + 2 ^ 8 + 2 ^ 9 + 2 ^ 13 + 2 ^ 14

/-- GET_CAPABILITIES under version 1.2 or 1.3. -/
def execGetCapabilities (ep : SpdmEp) (minor : Nat) (s : State) : Out :=
  s.spdm_ ep 1 (fun s =>
    if minor = 2 ∨ minor = 3 then
      (s.onConn ep (fun c => { c with stage := max 2 c.stage, minor := minor })).respond ep spCapabilities (le 4 spdmCaps)
    else s.spdmError ep seVersion)

/-- NEGOTIATE_ALGORITHMS: the device's own set, or none (R600). -/
def execNegotiateAlgorithms (ep : SpdmEp) (offered : SpdmAlgs) (s : State) : Out :=
  s.spdm_ ep 2 (fun s =>
    if offered.ecdsaP384 && offered.sha384 && offered.secp384r1 && offered.aes256gcm then
      (s.onConn ep (fun c => { c with stage := 3 })).respond ep spAlgorithms (le 4 0x80 ++ le 4 0x2 ++ le 2 0x10 ++ le 2 0x2)
    else s.spdmError ep seInvalidRequest)

/-! ### Certificates (R601) -/

/-- GET_DIGESTS: slots 0 and 1. -/
def execGetDigests (ep : SpdmEp) (s : State) : Out :=
  s.spdm_ ep 3 (fun s => s.respond ep spDigests (le 1 3 ++ sha384 (Config.certChain 0) ++ sha384 (Config.certChain 1)))

/-- GET_CERTIFICATE: a portion of a slot's chain and what remains of it. -/
def execGetCertificate (ep : SpdmEp) (slot off len : Nat) (s : State) : Out :=
  s.spdm_ ep 3 (fun s =>
    let ch := Config.certChain slot
    if 1 < slot ∨ ch.length ≤ off then s.spdmError ep seInvalidRequest
    else
      let part := (ch.drop off).take len
      s.respond ep spCertificate (le 1 slot ++ le 2 part.length ++ le 2 (ch.length - off - part.length) ++ part))

/-- A nonce of 32 bytes from the DRBG. -/
def State.spdmNonce (s : State) : List Byte × State :=
  let r := (s.generate false).drawWide 4
  (le 32 r.1, r.2)

/-- CHALLENGE: the slot's digest, a nonce and a signature over the transcript. -/
def execChallenge (ep : SpdmEp) (slot : Nat) (nonce : List Byte) (s : State) : Out :=
  s.spdm_ ep 3 (fun s =>
    if 1 < slot then s.spdmError ep seInvalidRequest
    else if !s.drbgReady then s.spdmError ep seUnspecified
    else
      let n := s.spdmNonce
      let head := le 1 slot ++ sha384 (Config.certChain slot) ++ n.1
      n.2.respond ep spChallengeAuth (head ++ Config.spdmSignature (nonce ++ head)))

/-! ### Measurements (R602) -/

/-- The eight bytes of a keep-store word. -/
def State.keepBytes (s : State) (w : Nat) : List Byte := le 8 (s.keepWord w).toNat

/-- The 96 bytes of the pen layout in force. -/
def State.layoutBytes (s : State) : List Byte :=
  penNumbers.flatMap (fun p =>
    let e := s.entryOf p
    le 2 e.2.2.toNat ++ le 1 (bitIf e.1 0 + bitIf e.2.1 1) ++ zeros 5)

/-- The device-wide sections in force: mode, layout, identity. -/
def State.deviceSections (s : State) : List Byte :=
  le 8 (s.fld .devMode 0 1) ++ s.layoutBytes ++ le 8 (s.fld .xglDeviceId 0 16)

/-- The digest of the running firmware image. -/
def State.fwHash (s : State) : List Byte :=
  match s.fwSlot s.fwRuns with
  | .image b => sha384 b
  | .factory => Config.factoryFirmwareHash
  | .empty => zeros 48

/-- The bytes of a pen's measurement: bay mask, flags, import public key, the job's Comb hash and program-set hash, or zeros. -/
def State.penBytes (s : State) (p : Nat) : List Byte :=
  let x := s.pen p
  let key := if x.present then pointBytes (ecPublic x.importPriv) else zeros 97
  let hashes := match s.job p with
    | some j => fit 32 j.combHash ++ fit 32 j.programHash
    | none => zeros 64
  le 2 x.bays.toNat ++ le 1 (bitIf x.present 0 + bitIf x.confidential 1) ++ key ++ hashes

/-- The value of a measurement index; how the measured items are laid out for their digest is the model's (DESIGN CHOICE, log entry 42). -/
def State.measure (s : State) (i : Nat) : Option (List Byte) :=
  if i = 1 then some Config.bootRomHash
  else if i = 2 then some s.fwHash
  else if i = 3 then some (sha384 (le 2 (s.fld .secFw 32 16) ++ le 2 s.fwCounter))
  else if i = 4 then some (sha384 (slice s.ftp 0x18 8 ++ le 4 (s.fld .errFtpStatus 0 32)))
  else if i = 5 then some (sha384 (le 8 (s.reg .devIdent).toNat ++ (List.range 256).flatMap (fun w => le 8 (s.fuse w).toNat)))
  else if i = 6 then
    some (sha384 (([1, 2, 3, 4, 5, 6, 7, 0xA, 0xB, 0xC] ++ (List.range 22).map (· + 0x10)).flatMap s.keepBytes))
  else if i = 7 then some (sha384 s.deviceSections)
  else if 17 ≤ i ∧ i ≤ 28 then some (s.penBytes (i - 16))
  else none

/-- The indices that exist. -/
def measureIndices : List Nat := [1, 2, 3, 4, 5, 6, 7] ++ (List.range 12).map (· + 17)

/-- A measurement block: its index, whether it is raw, its size and its value. -/
def measureBlock (i : Nat) (v : List Byte) : List Byte := le 1 i ++ le 1 (if 17 ≤ i then 1 else 0) ++ le 2 v.length ++ v

/-- GET_MEASUREMENTS: index 0 asks for their number, 255 for all of them. -/
def execGetMeasurements (ep : SpdmEp) (index : Nat) (s : State) : Out :=
  s.spdm_ ep 3 (fun s =>
    let block (i : Nat) : List Byte := measureBlock i ((s.measure i).getD [])
    let blocks : Option (List Byte) :=
      if index = 0 then some (le 1 measureIndices.length)
      else if index = 255 then some (measureIndices.flatMap block)
      else (s.measure index).map (measureBlock index)
    match blocks with
    | none => s.spdmError ep seInvalidRequest
    | some b =>
      if !s.drbgReady then s.spdmError ep seUnspecified
      else
        let n := s.spdmNonce
        n.2.respond ep spMeasurements (b ++ n.1 ++ Config.spdmSignature (b ++ n.1)))

/-! ### Sessions -/

/-- KEY_EXCHANGE (R585): a session opens, and with it the host session of a confidential pen; a second one through the endpoint is
Busy. -/
def execKeyExchange (ep : SpdmEp) (slot : Nat) (exData : List Byte) (mutualAuth : Bool) (s : State) : Out :=
  s.spdm_ ep 3 (fun s =>
    if (s.conn ep).sessionStage ≠ 0 then s.spdmError ep seBusy
    else match pointOf (4#8 :: exData) with
      | none => s.spdmError ep seInvalidRequest
      | some q =>
        if 1 < slot then s.spdmError ep seInvalidRequest
        else if !s.drbgReady then s.spdmError ep seUnspecified
        else
          let d := (s.generate false).drawWide 6
          let own := pointBytes (ecPublic d.1)
          let z := be 48 ((ecMul (d.1 % n384) (some q) 384).getD (0, 0)).1
          let secret := Config.spdmExportSecret (z ++ exData ++ own.drop 1)
          let s := d.2.onConn ep (fun c => { c with session := c.session + 1, sessionStage := 1, secret := secret, mutualAuth := mutualAuth })
          (s.openHost (epPen ep) secret).respond ep spKeyExchangeRsp (own.drop 1 ++ Config.spdmSignature (exData ++ own)))

/-- FINISH: the session is open when its verify data match; else it ends. -/
def execFinish (ep : SpdmEp) (verifyData : List Byte) (s : State) : Out :=
  s.spdm_ ep 3 (fun s =>
    if (s.conn ep).sessionStage ≠ 1 then s.spdmError ep seUnexpected
    else if verifyData = Config.spdmFinishData (s.conn ep).secret then
      (s.onConn ep (fun c => { c with sessionStage := 2 })).respond ep spFinishRsp []
    else (s.closeSession ep).spdmError ep seDecrypt)

/-- A request of an open session. -/
def State.inSession (s : State) (ep : SpdmEp) (f : State → State) : Out :=
  s.spdm_ ep 3 (fun s => if (s.conn ep).sessionStage ≠ 2 then s.spdmError ep seUnexpected else f s)

/-- KEY_UPDATE: the requester's key, or both. -/
def execKeyUpdate (ep : SpdmEp) (allKeys : Bool) (s : State) : Out :=
  s.inSession ep (fun s => (s.onConn ep (fun c =>
    { c with reqKeyGen := c.reqKeyGen + 1, rspKeyGen := if allKeys then c.rspKeyGen + 1 else c.rspKeyGen })).respond ep spKeyUpdateAck [])

/-- HEARTBEAT. -/
def execHeartbeat (ep : SpdmEp) (s : State) : Out := s.inSession ep (fun s => s.respond ep spHeartbeatAck [])

/-- END_SESSION. -/
def execEndSession (ep : SpdmEp) (s : State) : Out := s.inSession ep (fun s => (s.closeSession ep).respond ep spEndSessionAck [])

end Sys2Proof.Machine
end

