-- ==== Sys2Proof/Machine/Power.lean ====
section
/-!
DEFINITION. Start-up, resets, power states, clocks and the module's boundary (R657 to R687, R692, R693, R700 to R709).
-/

namespace Sys2Proof.Machine

/-! ### Off and cold start -/

/-- A keep-store write under way when power goes is done or not: a free value says which (R670, R682); the others are lost. -/
def State.keepCut (s : State) : State :=
  if s.keepQ.isEmpty then s
  else
    let r := s.draw
    { (if r.1.getLsbD 0 then r.2.keepDone else r.2) with keepQ := [] }

/-- What outlives a loss of power: the keep store, the fuses, the boot flash (R667, R668, R672), what lies outside the module, and how
often each stack has lost its contents. -/
def State.nonVolatile (s : State) : State :=
  { pending := s.pending, fresh := s.fresh, keep := s.keep, wear := s.wear, fuses := s.fuses, fwA := s.fwA, fwB := s.fwB,
    fwTrial := s.fwTrial, fwActive := s.fwActive, ftp := s.ftp, ownerKeep := s.ownerKeep, tamperHead := s.tamperHead,
    hostMem := s.hostMem, msix := s.msix, perst := s.perst,
    bays := (List.range 12).foldl (fun m b => SMap.put m b { erases := (s.bay b).erases + 1 }) [] }

/-- The module is Off (R675, R693, R708). -/
def State.goOff (s : State) : State := (s.keepCut.nonVolatile).refreshPins

/-- The registers that the keep store holds take its words (R385, R337, R540, R541). -/
def State.keepRegs (s : State) : State :=
  let s := ((s.setReg .xglPolicy (s.keepWord 0xA)).setReg .hbmRetireCfg (s.keepWord 0xB)).setReg .errPolicy (s.keepWord 0xC)
  (List.range 22).foldl (fun s i => s.setReg .errWxThresh (s.keepWord (0x10 + i)) (i + 1)) s

/-- The selection in force: 1 NETWORK, 2 ROT; the strap decides for a blank one (R590). -/
def activeOf (sel : Nat) (strap : Bool) : Nat := if sel = 1 ∨ sel = 2 then sel else if strap then netChannel else rotChannel

/-- SEC_AUTH at a cold start (R590, R594, R611), and the owner key kept beside the hash. -/
def State.authRegs (s : State) (strap : Bool) : State :=
  let sel := (s.keepWord 1).toNat % 4
  let owned := (List.range 6).any (fun i => decide (s.keepWord (2 + i) ≠ 0#64))
  let s : State := { s with ownerPub := if owned then s.ownerKeep else [] }
  s.setReg .secAuth (BitVec.ofNat 64 (sel + bitIf strap 2 + activeOf sel strap * 2 ^ 3 + bitIf owned 5 + bitIf (!owned) 6))

/-- The tamper log's registers (R613). -/
def State.tamperRegs (s : State) : State :=
  let ws := (List.range 16).map (fun i => s.keepWord (0x40 + i))
  let s := (List.range 16).foldl (fun s i => s.setReg .secTamperLog (ws.getD i 0#64) i) s
  let last := ws.getD ((s.tamperHead + 15) % 16) 0#64
  s.setReg .secTamper (BitVec.ofNat 64 (getBits last 0 7 + (ws.filter (fun w => decide (w ≠ 0#64))).length * 2 ^ 8))

/-- The registers of the field test pack in force (R521, R546). -/
def State.packRegs (s : State) : State :=
  s.setReg .errFtpStatus (if s.ftp.isEmpty then 0x100000000#64 else BitVec.ofNat 64 (ftpSeq s.ftp))

/-- POWER_GOOD (R662, R693, R701): the cold start begins, the straps are sampled, the boot count rises, the keep store is read. -/
def execPowerGood (slotId : BitVec 5) (authSel : Bool) (s : State) : Out :=
  if s.power ≠ .off then .next s
  else
    let s : State := { s.nonVolatile with power := .idle, powerGood := true, aonUp := true }
    let s := (s.keepWrite 0 (s.keepWord 0 + 1#64)).keepAll
    let s := ((s.keepRegs.authRegs authSel).tamperRegs).packRegs
    let s := s.setReg .mgtStraps (BitVec.ofNat 64 (slotId.toNat + bitIf authSel 5 + (0x40 + slotId.toNat) * 2 ^ 8))
    let s := s.setReg .mgtBoot (BitVec.ofNat 64 (s.bootCount % 2 ^ 16 * 2 ^ 48))
    let s := (List.range 12).foldl (fun s b => if s.bayPresent b then s else (s.setReg .hbmBayStatus 0#64 b).setReg .xglPortStatus 0#64 b) s
    .next s.refreshPins

/-- INPUT_LOSS: the input has stayed below 40 V for t_mod_off, or power-good has gone. -/
def execInputLoss (s : State) : Out := whenOk (decide (s.power ≠ .off) || s.aonUp) s s.goOff

/-- OVERVOLTAGE (R692, R708): above 65 V at once, above 60 V for more than 100 ms. -/
def execOvervoltage (mv ms : Nat) (s : State) : Out :=
  whenOk ((decide (s.power ≠ .off) || s.aonUp) && (decide (65000 < mv) || (decide (60000 < mv) && decide (100 < ms)))) s s.goOff

/-- ALWAYS_ON_DOMAIN_UP (R704). -/
def execAlwaysOnDomainUp (s : State) : Out := whenOk (decide (s.power = .off) && !s.aonUp) s { s with aonUp := true }.refreshPins

/-! ### Start-up stages (R662 to R666) -/

/-- Every transmitter is in electrical idle and the link stage has not begun (R374, R662, R664). -/
def State.quietLinks (s : State) : State :=
  let s : State := { s with linkStage := false, linkDone := false, censusOpen := false }
  (List.range 12).foldl (fun s p => if s.bayPresent p then
      (((s.setPortState p portQuiet).setWidth p 0 0#8).setWidth p 1 0#8).setFld .xglPortStatus 12 1 0 p else s) s

/-- Start-up fails in a stage (R664). -/
def State.bootFails (s : State) (stage code : Nat) : State :=
  (((s.setFld .mgtBoot 0 4 stageFailed).setFld .mgtBoot 4 4 stage).setFld .mgtBoot 8 8 code).quietLinks.refreshPins

/-- A failure of start-up: a running trial image gives way to the slot before it, and the stages run again (R598); else READY is
withheld. -/
def State.startFails (s : State) (stage code : Nat) : State :=
  if s.fld .secFw 1 1 = 1 then
    let s := s.post 0 291 0 [ef (bitIf s.fwRuns 0), ef (s.fld .secFw 32 16)]
    let s := (s.setFld .secFw 1 1 0).quietLinks
    ({ s with fwTrial := none }.setFld .mgtBoot 0 4 stageManagement).refreshPins
  else s.bootFails stage code

/-- Stage 1 is done: firmware runs and the noise source has been tested; the nonce starts from the DRBG at a cold start (R591, R597). -/
def State.managementDone (s : State) : State :=
  let s := s.bootFw
  if s.recovery then s.bootFails stageManagement 1
  else
    let r := s.drawNat 56
    let s := if s.waking then s else r.2.setFld .secAuth 8 56 r.1
    s.setFld .mgtBoot 0 4 stageClocks

/-- A row remap of the fuses or of the ledger is applied (R323, R667, R669). -/
def State.applyRemap (s : State) (w : Word64) : State :=
  if getBits w 0 4 = 2 then
    s.onBay (getBits w 8 4) (fun x => x.remap (rowKey (getBits w 12 6) (getBits w 18 6) (getBits w 24 14)) (getBits w 38 3))
  else s

/-- Stage 3 is done (R323, R664): remaps applied, stacks trained or marked failed. -/
def State.memoryDone (s : State) (failed : BitVec 12) : State :=
  if s.waking then s.setFld .mgtBoot 0 4 stageLinks
  else
    let s := ((List.range 240).map (fun i => s.fuse (16 + i)) ++ (List.range ledgerWords).map (fun i => s.keepWord (ledgerBase + i))).foldl State.applyRemap s
    let present := (List.range 12).filter s.bayPresent
    let bad := present.filter (fun b => failed.getLsbD b)
    let s := present.foldl (fun s b => (s.rowRegs b).setFld .hbmBayStatus 1 1 (if failed.getLsbD b then 0 else 1) b) s
    let s := s.setFld .mgtBoot 16 12 (bad.foldl (fun m b => m + 2 ^ b) 0)
    if bad = present then s.startFails stageMemory 4 else s.setFld .mgtBoot 0 4 stageLinks

/-- A site that the compute stage leaves out: absent, fused bad, or retired (R71, R662). -/
def State.siteOut (s : State) (n : Nat) : Option Nat :=
  if !s.bayPresent (bayOfSite n) then some siteAbsent
  else if s.fusedSite n then some siteFusedBad
  else if s.ledgerHasSite n then some siteRetired
  else none

/-- A site as the compute stage leaves it: it passes its test, or is retired (R664, R669). -/
def State.siteTested (failed : List Nat) (s : State) (n : Nat) : State :=
  match s.siteOut n with
  | some st => s.setSite n st 0xFF 0xFF yokeNone
  | none =>
    if failed.contains n then (s.retireSite (s.penOfBay (bayOfSite n)) n 22 0).setFld .errSiteTest 0 2 2 n
    else
      let s := s.setFld .errSiteTest 0 2 1 n
      if s.site n = siteActive ∨ s.site n = siteDoubled then s
      else s.setSite n (if s.penOfBay (bayOfSite n) = 0 then siteIdle else siteSpare) 0xFF 0xFF yokeNone

/-- The counts that run since READY start again (R72, R334, R388, R392, R525, R539, R545, R612, R614, R687). -/
def State.countsFromReady (s : State) : State :=
  let s := (List.range 12).foldl (fun s b =>
    ((s.setReg .hbmEccCount 0#64 b).setReg .xglE2eCount 0#64 b).setFld .xglPortStatus 32 16 0 b) s
  let s := (List.range 168).foldl (fun s n => (s.setFld .coreSiteState 32 16 0 n).setFld .errSiteTest 32 16 0 n) s
  let s := (List.range 12).foldl (fun s i => s.setFld .penState 32 32 0 i) s
  { ((s.setFld .errSilent 48 16 0).setFld .secArb 0 32 0).setFld .pwrThermal 32 16 0 with fences := [] }

/-- Stage 5 is done: READY, and the device is Idle (R666); a trial image that has come this far within t_boot_ready becomes active
(R598). -/
def State.computeDone (s : State) (ms : Nat) (failed : List Nat) : State :=
  if s.fld .secFw 1 1 = 1 ∧ 9000 < ms then s.startFails stageCompute 5
  else
    let s := (List.range 168).foldl (State.siteTested failed) s
    let s := (s.setFld .mgtBoot 32 16 (min 65535 ms)).setFld .mgtBoot 0 4 stageReady
    let s : State := { s.trialGood.countsFromReady with waking := false }
    let s := penNumbers.foldl (fun s p => if (s.pen p).present then s.refreshGrid p else s) s
    s.refreshCut.refreshPower.refreshPins

/-- STARTUP_STAGE_DONE: the stage under way is finished with what it found. -/
def execStartupStageDone (res : StageRes) (s : State) : Out :=
  if s.power ≠ .idle ∨ s.locked then .next s
  else if s.stage = stageManagement then (if s.rngState = rngStarting then .next s else .next s.managementDone.refreshPins)
  else if s.stage = stageClocks then (if res.pllLocked then .next (s.setFld .mgtBoot 0 4 stageMemory) else .next (s.startFails stageClocks 3))
  else if s.stage = stageMemory then .next (s.memoryDone res.failedBays)
  else if s.stage = stageLinks then whenOk s.linkDone s (s.setFld .mgtBoot 0 4 stageCompute)
  else if s.stage = stageCompute then .next (s.computeDone res.ms res.failedSites)
  else .next s

/-- STAGE_TIMEOUT: the stage under way exceeds its maximum (R664). -/
def execStageTimeout (s : State) : Out :=
  whenOk (decide (s.power = .idle) && decide (s.stage ≤ stageCompute) && !s.locked) s (s.startFails s.stage 5)

/-! ### Resets (R672 to R674) -/

/-- Every job ends with ABORTED, those of pens being torn down apart (R659, R673, R682). -/
def State.abortJobs (s : State) : State :=
  s.loadedPens.foldl (fun s p =>
    match s.job p with
    | none => s
    | some j =>
      if (s.pen p).teardownCause.isSome || decide (s.fld .updJob 0 2 (p - 1) = 3) then s
      else
        let a := j.voting <|> j.cur
        s.jobEnd p evAborted [] a ((a.map Attempt.status).getD 0#64)) s

/-- A compute reset may begin: the device is past start-up, and no other runs. -/
def State.resettable (s : State) : Bool := s.atReady && !s.computeReset && !s.locked

/-- Order 1 of R673: fetching pauses and every job ends. -/
def State.beginCompute (s : State) : State :=
  let s := { s with fetchPaused := true, computeReset := true }.abortJobs
  let s := ((s.setFld .mgtReset 0 1 1).bump .mgtReset 8 16).setFld .mgtBoot 0 4 stageComputeReset
  s.refreshPower.refreshPins

/-- COMPUTE_RESET: MGT_RESET.compute, written by PF0 (R673, R684). -/
def execComputeReset (fn : Func) (s : State) : Out := whenOk (decide (fn.val = 0) && s.resettable) s s.beginCompute

/-- A core whose domain has been switched off and on: only what the loader configured is left (R578, R673 order 4). -/
def Core.cold (c : Core) : Core := { cfg := c.cfg }

/-- COMPUTE_RESET_DONE (R673 orders 4 to 6): the core side is empty, every site has passed its test or is retired, the clocks are locked
and fetching resumes. -/
def execComputeResetDone (res : ResetRes) (s : State) : Out :=
  if !s.computeReset then .next s
  else
    let s : State := { s with cores := s.cores.map (fun kv => (kv.1, kv.2.cold)), packets := [], units := [], slotClk := [],
                              fetchPaused := false, computeReset := false, diesStopped := false }
    let s := (List.range 12).foldl (fun s b => s.onBay b (fun x => { x with crestCache := [], winCache := [] })) s
    let s := (s.setFld .mgtReset 0 1 0).setFld .mgtBoot 0 4 stageReady
    let s := (List.range 168).foldl (State.siteTested res.failedSites) s
    let s := penNumbers.foldl (fun s p => if (s.pen p).present then s.refreshGrid p else s) s
    .next ((s.postAll 402 [ef res.ms]).refreshPower.refreshPins)

/-- The blocks of the host interface, whose registers a host reset returns to their reset values (R617, R672). -/
def hifKey (k : Nat) : Bool := decide (0xC00000 ≤ k % funcSpan) && decide (k % funcSpan < 0xD00000)

/-- Every HIF_ register and every ring is at its reset value; fetched commands are gone (R672).  HIF_FUNC still says what its function
serves. -/
def State.resetHif (s : State) : State :=
  let s : State := { s with regs := SMap.keep (fun k => !hifKey k) s.regs, rings := [], order := none }
  penNumbers.foldl (fun s p => if (s.pen p).confidential then s.setFld .hifFunc 4 1 1 0 p else s) s

/-- A host reset (R672, R708): before READY it resets only the PCIe link; a compute reset that runs already completes. -/
def State.hostReset (s : State) : State :=
  if s.resettable then s.resetHif.beginCompute
  else if s.computeReset then (s.resetHif.bump .mgtReset 8 16).refreshPins
  else s.refreshPins

/-- HOT_RESET: an in-band reset of the PCIe link. -/
def execHotReset (s : State) : Out := whenOk ((decide (s.power = .idle) || decide (s.power = .run)) && !s.perst) s s.hostReset

/-- PERST_ASSERT (R704, R707, R709): counted since the cold start; after the first release it is a host reset, but not in Keep. -/
def execPerstAssert (s : State) : Out :=
  if s.perst then .next s
  else
    let up := decide (s.power = .idle) || decide (s.power = .run)
    let s : State := { s with perst := true }
    let s := if s.power = .off then s else s.bump .mgtStraps 16 16
    .next (if up && s.perstReleased then s.hostReset else s.refreshPins)

/-- A wake from Keep (R662, R675): stages 1 to 5 run again, stage 3 only as the exit from self-refresh, with a new census. -/
def State.wake (s : State) : State :=
  let s : State := { s.quietLinks with power := .idle, waking := true }
  let s := ((s.setFld .mgtBoot 0 4 stageManagement).setFld .mgtBoot 4 12 0).setFld .rngStatus 0 3 0
  s.refreshPins

/-- PERST_DEASSERT (R675, R707). -/
def execPerstDeassert (s : State) : Out :=
  if !s.perst then .next s
  else
    let s : State := { s with perst := false, perstReleased := decide (s.power ≠ .off) }
    .next (if s.power = .keep then s.wake else s.refreshPins)

/-- SMBUS_WAKE: the wake command; ignored in any state but Keep (R700). -/
def execSmbusWake (s : State) : Out := whenOk (decide (s.power = .keep)) s s.wake

/-- KEEP_REQUEST: PWR_STATE.keep, written by PF0 while no pen has a job (R675): the links and the host interface lose their power; the
pens, their keys and the stacks keep theirs. -/
def execKeepRequest (fn : Func) (s : State) : Out :=
  whenOk (decide (fn.val = 0) && s.resettable && s.loadedPens.isEmpty) s
    (({ s.quietLinks.resetHif with power := .keep, spdm := [] }.setFld .pwrState 2 1 0).refreshPins)

/-- KEEP_WRITE_DONE (R670). -/
def execKeepWriteDone (s : State) : Out := whenOk (decide (s.power ≠ .off)) s s.keepDone

/-! ### Temperature, clocks and input (R659, R660, R679) -/

/-- A temperature as a register byte, and back. -/
def tempByte (c : Int) : Nat := (BitVec.ofInt 8 (max (-128) (min 127 c))).toNat
def State.temp (s : State) (lo : Nat) : Int := (BitVec.ofNat 8 (s.fld .pwrThermal lo 8)).toInt

/-- The actions of a sample on an operating device (R660). -/
def State.thermal (s : State) (west east : Int) : State :=
  let hot := max west east
  let s := (s.setFld .pwrThermal 0 8 (tempByte west)).setFld .pwrThermal 8 8 (tempByte east)
  let s := if 95 ≤ hot then s.setFld .pwrThermal 16 1 1 else if hot < 85 then s.setFld .pwrThermal 16 1 0 else s
  (if 110 ≤ hot then { s.emergency false with emergencyOver := false } else s).refreshPins

/-- THERMAL_SAMPLE: the hottest reading of each die; outside -25 °C to 130 °C it is a TEMP tamper alarm. -/
def execThermalSample (west east : Int) (s : State) : Out :=
  if s.power = .off then .next s
  else
    let s := if s.power = .keep then s else s.thermal west east
    if min west east < -25 ∨ 130 < max west east then execTamperAlarm .temp false s else .next s

/-- THERMAL_EMERGENCY_END: at most 100 °C for 1 s without interruption; the emergency ends now, or at the first step boundary. -/
def execThermalEmergencyEnd (s : State) : Out :=
  let cool := decide (s.temp 0 ≤ 100) && decide (s.temp 8 ≤ 100)
  let running := penNumbers.any s.penRuns
  whenOk (decide (s.fld .devMode 3 1 = 1) && cool) s (if running then { s with emergencyOver := true } else s.emergencyEnd)

/-- PLL_LOCK_LOSS (R659): both dies stop, every job ends, CLOCK_LOCK_LOST. -/
def execPllLockLoss (east : Bool) (s : State) : Out :=
  if !(s.atReady && !s.diesStopped) then .next s
  else
    let s : State := { s with diesStopped := true }
    let s := s.loadedPens.foldl (fun s p => s.post p 404 0 [ef (bitIf east 0)]) (s.post 0 404 0 [ef (bitIf east 0)])
    .next ((s.abortJobs.setFld .pwrThermal 18 1 1).refreshPower.refreshPins)

/-- The maximum sustained power of the grade in watts (R7, R692). -/
def State.maxWatts (s : State) : Nat := if s.fld .devIdent 0 16 = 0x7512 then 1050 else 1500

/-- POWER_AVERAGE (R679, R687). -/
def execPowerAverage (mv tenMa watts : Nat) (s : State) : Out :=
  if s.power = .off then .next s
  else
    let s := ((s.setFld .pwrInput 0 16 (min 65535 mv)).setFld .pwrInput 16 16 (min 65535 tenMa)).setFld .pwrInput 32 16 (min 65535 watts)
    if s.maxWatts < watts then .next (((s.setFld .pwrInput 48 1 1).post 0 403 0 [ef watts]).refreshPins) else .next s

/-- ALERT_RESPONSE_ADDRESS_READ (R703). -/
def execAlertResponseAddressRead (s : State) : Out := whenOk s.smbusMsg s { s with smbusMsg := false }.refreshPins

end Sys2Proof.Machine
end

