-- ==== Sys2Proof/Machine/Registers.lean ====
section
/-!
DEFINITION. The registers of BAR0 as the host reaches them (R14 to R17): what a read returns, for stored and for computed registers, and
the writes that have a row of their own.
-/

namespace Sys2Proof.Machine

/-! ### Reads -/

/-- DEV_FNTAB_DATA (R124). -/
def State.fntabWord (s : State) : Word64 :=
  match fnTabWord (s.fld .devFntabAddr 0 4) (s.fld .devFntabAddr 8 16) with
  | some w => BitVec.ofNat 64 (w.toNat + 2 ^ 32)
  | none => 0#64

/-- HBM_WIN_CTL (R340). -/
def State.winCtl (s : State) (fn : Nat) : Word64 :=
  match s.winPen fn with
  | none => 0#64
  | some p =>
    let x := s.pen p
    BitVec.ofNat 64 (bitIf x.commitPending 0 + x.winStatus % 256 * 2 ^ 8 + x.winFail % 4096 * 2 ^ 16 + x.activations * 2 ^ 32)

/-- NET_CTR_DATA (R300, R586): the counter of a logical core; PF0 sees nothing of a confidential pen's. -/
def State.ctrData (s : State) (fn : Nat) : Word64 :=
  let p := if fn = 0 then s.fld .netCtrSel 16 4 0 0 else fn
  let l := s.fld .netCtrSel 8 8 0 fn
  match s.job p with
  | none => 0#64
  | some j =>
    if (fn = 0 ∧ (s.pen p).confidential) ∨ !hasCore j l then 0#64
    else
      let away := match pairOf j l with
        | some q => decide (l ≠ (if j.inB then q.2 else q.1))
        | none => false
      BitVec.ofNat 64 (((s.core (coreKey p l)).counter (s.fld .netCtrSel 0 8 0 fn)).toNat + 2 ^ 32 + bitIf (!away) 33)

/-- KEEP_WEAR and KEEP_STATUS (R685). -/
def State.keepWearReg (s : State) : Word64 :=
  let w := s.fld .keepAddr 0 10
  BitVec.ofNat 64 (s.wearOf w + bitIf (s.worn w) 17)
def State.keepStatusReg (s : State) : Word64 :=
  let wornN := ((List.range 1024).filter s.worn).length
  let used := ((List.range ledgerWords).filter (fun i => decide (s.keepWord (ledgerBase + i) ≠ 0#64))).length
  BitVec.ofNat 64 (bitIf (!s.keepQ.isEmpty) 0 + min 31 (s.keepQ.length - 1) * 2 + wornN * 2 ^ 16 + used * 2 ^ 32 + bitIf (!s.heldRetire.isEmpty) 42)

/-- NET_DIE_CUT as a pen function sees it: the links that border its bays (R295). -/
def State.dieCutOf (s : State) (fn : Nat) : Word64 :=
  let mine (b : Nat) : Bool := (s.pen fn).bays.getLsbD b
  let mask (die : Nat) : Nat := (List.range 5).foldl (fun m r => if mine (6 * die + r) || mine (6 * die + r + 1) then m + 2 ^ r else m) 0
  s.reg .netDieCut &&& BitVec.ofNat 64 (mask 0 + mask 1 * 2 ^ 8)

/-- A register with a pen field reads a pen function's own pen there (R300, R338, R654). -/
def ownPen (v : Word64) (lo fn : Nat) : Word64 := if fn = 0 then v else putBits v lo 4 fn

/-- What a register entry reads as, for a function that sees it. -/
def State.regValue (s : State) (fn : Nat) (n : RegName) (ix : Nat) : Word64 :=
  match n with
  | .devFntabData => s.fntabWord
  | .hbmWinData0 => s.winData fn false
  | .hbmWinData1 => s.winData fn true
  | .hbmWinCtl => s.winCtl fn
  | .netCtrData => s.ctrData fn
  | .netCtrSel => ownPen (s.reg n ix fn) 16 fn
  | .hbmWinAddr => ownPen (s.reg n ix fn) 12 fn
  | .hifBar4Sel => ownPen (s.reg n ix fn) 0 fn
  | .netDieCut => if fn = 0 then s.reg n else s.dieCutOf fn
  | .mgtFuseData => s.fuse (s.fld .mgtFuseAddr 0 8)
  | .keepData => s.keepWord (s.fld .keepAddr 0 10)
  | .keepWear => s.keepWearReg
  | .keepStatus => s.keepStatusReg
  | _ => s.reg n ix fn

/-- A BAR0 read of a function: 4 or 8 bytes of the register it reaches, zero where there is none or the function does not see it. -/
def State.bar0Read (s : State) (fn off len : Nat) : List Byte :=
  match regReach off len with
  | none => zeros len
  | some (n, ix, lo, bits) => le len (if s.sees fn n ix then getBits (s.regValue fn n ix) lo bits else 0)

/-! ### Rows of their own -/

/-- An access to an undefined offset is counted (R17, R538). -/
def State.undefAccess (s : State) (off : Nat) : State :=
  let s := s.bump .errUndefAccess 0 32
  (s.setFld .errUndefAccess 32 26 (off % 2 ^ 26)).setFld .errUndefAccess 63 1 1

/-- UNDEFINED_OFFSET_ACCESS: it reads as zero. -/
def execUndefinedOffsetAccess (_fn : Func) (off len : Nat) (s : State) : Out :=
  whenOk (regReach off len).isNone s { s.undefAccess off with lastRead := zeros len }

/-- FNTAB_READ: a read of DEV_FNTAB_DATA, with autoinc after it (R123 to R125).  A 4-byte read of either half is a read of the register
(R17), so it steps index too (DEDUCED, log entry 121).  A pen function, which has neither register, reads zero, and the access is not
counted as one to an undefined offset (DESIGN CHOICE, log entry 120). -/
def execFntabRead (acc : FuncPart) (s : State) : Out :=
  if acc.fn.val ≠ 0 then .next { s with lastRead := zeros (partLen acc.part) }
  else
    let ix := s.fld .devFntabAddr 8 16
    let t : State := { s with lastRead := partRead acc.part s.fntabWord }
    .next (if s.fld .devFntabAddr 31 1 = 1 then t.setFld .devFntabAddr 8 16 (min 0xFFFF (ix + 1)) else t)

/-- UPD_JRN_ACK takes a seq, no higher than the latest (R503, R505). -/
def State.ackJournal (s : State) (p v : Nat) : State :=
  s.setFld .updJrnAck 0 32 (min v (s.fld .updJournal 0 32 (p - 1))) (p - 1)

/-- JOURNAL_ACK: a pen function's write of its own entry; PF0's is ignored. -/
def execJournalAck (fn : Func) (pen : Pen) (value : BitVec 32) (s : State) : Out :=
  whenOk (decide (fn.val = pen) && decide (1 ≤ pen)) s (s.ackJournal pen value.toNat)

/-- The policy order that the mailbox holds writes a register (R593, R595). -/
def State.orderOnReg (s : State) (n : RegName) (ix : Nat) : Bool :=
  match s.order with
  | some w => decide (w.opcode = 10) && (policyEntries w.body).any (fun e => decide (policyReg e = some (n, ix)))
  | none => false

/-- The operator's write of a register that persists: it loses to an authority's order about the register that waits to act (R595,
R614). -/
def State.rwkBy (s : State) (n : RegName) (ix : Nat) (v : Word64) : State :=
  if s.orderOnReg n ix then s.arbLost 1 0 else s.writeRwk n ix v

/-- RWK_WRITE: a write of a register that persists (R14, R17); one that reaches no register is an undefined access. -/
def execRwkWrite (fn : Func) (off len : Nat) (value : Word64) (s : State) : Out :=
  match regReach off len with
  | some (n, ix, lo, bits) =>
    whenOk (n.row.rwk && s.writes fn.val n ix) s (s.rwkBy n ix (writeInto n (s.reg n ix) lo bits value))
  | none => .next (s.undefAccess off)

/-! ### REGISTER_WRITE (R17) -/

/-- The state that a command leaves. -/
def after (s : State) (o : Out) : State :=
  match o with
  | .next t => t
  | _ => s

/-- XGL_CMD.go starts the operation that the register holds, for the operator (R386). -/
def State.xglGo (s : State) : State :=
  let p := s.fld .xglCmd 0 4
  match s.fld .xglCmd 4 2 with
  | 1 => after s (execTrain p .operator s)
  | 2 => after s (execIdle p .operator s)
  | 3 => after s (execClearCounts p .operator s)
  | _ => s

/-- A write of HIF_RING_CTL (R620, R656): while the ring is enabled it can only be disabled and its error cleared. -/
def State.writeRingCtl (s : State) (r lo bits : Nat) (v : Word64) : State :=
  let old := s.reg .hifRingCtl r
  let new := writeInto .hifRingCtl old lo bits v
  if s.ringOn r then s.setReg .hifRingCtl ((old &&& ~~~(1#64 ||| maskOf [(20, 1)])) ||| (new &&& (1#64 ||| maskOf [(20, 1)]))) r
  else
    let s := s.setReg .hifRingCtl (new &&& ~~~1#64) r
    if writesOne lo bits v 0 then s.enableRing r else s

/-- The bits of a register that a function's writes reach: a pen function's own pen number and weight are not its to write (R300, R338,
R652, R654). -/
def writeMask (fn : Nat) (n : RegName) : Word64 :=
  if fn = 0 then BitVec.allOnes 64
  else match n with
    | .netCtrSel => ~~~maskOf [(16, 4)]
    | .hbmWinAddr => ~~~maskOf [(12, 4)]
    | .hifBar4Sel => ~~~maskOf [(0, 4)]
    | .hifPenCfg => ~~~maskOf [(0, 8)]
    | _ => BitVec.allOnes 64

/-- A plain write: stored bits are stored, write-one-to-clear bits cleared (R14). -/
def State.plainWrite (s : State) (fn : Nat) (n : RegName) (ix lo bits : Nat) (v : Word64) : State :=
  let old := s.reg n ix fn
  let m := writeMask fn n
  (s.setReg n ((old &&& ~~~m) ||| (writeInto n old lo bits v &&& m)) ix fn).refreshPins

/-- What a write of an entry does, for a function whose writes reach it: the actions of write-one-to-set bits are those of their rows. -/
def State.writeEntry (s : State) (fn : Func) (n : RegName) (ix lo bits : Nat) (v : Word64) : State :=
  let one (b : Nat) : Bool := writesOne lo bits v b
  let old := s.reg n ix fn.val
  let part : RegPart := if bits = 64 then .whole else if lo = 0 then .low else .high
  match n with
  | .hbmWinData0 => after s (execWinDataAccess fn ⟨false, part⟩ (.write v) s)
  | .hbmWinData1 => after s (execWinDataAccess fn ⟨true, part⟩ (.write v) s)
  | .hbmWinCtl => if one 0 then after s (execWindowCommit fn s) else s
  | .xglCmd =>
    let s := s.plainWrite fn.val n ix lo bits v
    if one 6 then s.xglGo else s
  | .injCtl =>
    let s := if one 0 then after s (execInjArm fn s) else s
    if one 1 then after s (execInjCancel fn s) else s
  | .hifPenReset => if one 0 then after s (execPenReset fn (ix + 1) s) else s
  | .hifAuthCtl =>
    let s := s.plainWrite fn.val n ix lo bits v
    if one 32 then after s (execAuthMailboxGo s) else s
  | .hifRingCtl => s.writeRingCtl ix lo bits v
  | .hifRingCmdBase => if s.ringOn ix then s else s.plainWrite fn.val n ix lo bits v
  | .hifRingCplBase => if s.ringOn ix then s else s.plainWrite fn.val n ix lo bits v
  | .mgtReset => if one 0 then after s (execComputeReset fn s) else s
  | .pwrState => if one 2 then after s (execKeepRequest fn s) else s
  | .updJrnAck => if lo = 0 then s.ackJournal (ix + 1) (v.toNat % 2 ^ 32) else s
  | _ => if n.row.rwk then s.rwkBy n ix (writeInto n old lo bits v) else s.plainWrite fn.val n ix lo bits v

/-- A function's write to an entry has an effect: its data is taken, or, on HBM_WIN_DATA1, the access alone steps the index (R338). -/
def State.writeActs (s : State) (fn : Nat) (n : RegName) (ix : Nat) : Bool :=
  s.writes fn n ix || (decide (n = .hbmWinData1) && s.sees fn n ix)

/-- REGISTER_WRITE (R17): a write that no register takes is an undefined access; one of a function that does not reach the entry is
ignored. -/
def execRegisterWrite (fn : Func) (off len : Nat) (value : Word64) (s : State) : Out :=
  match regReach off len with
  | none => .next (s.undefAccess off)
  | some (n, ix, lo, bits) => whenOk (s.writeActs fn.val n ix) s (s.writeEntry fn n ix lo bits value)

end Sys2Proof.Machine
end

