-- ==== Sys2Proof/Machine/Scalar.lean ====
section
/-!
DEFINITION. The scalar arithmetic, loads and stores of the control slot (R238, R239).
-/

namespace Sys2Proof.Machine

/-- An instruction that computes a scalar register from the registers as the bundle found them (R228, R233). -/
def scalarWrite (i : Instr) (u : CoreRef) (rd : SReg) (f : RegFile → Word64 × Bool) (s : State) : Out :=
  s.issueIf (decide (rd.val < 48)) i u slotControl (fun c =>
    let r := f c.rf0
    s.put u (c.onRf (fun rf => rf.sSet rd r.1 r.2)))

/-- An instruction of two scalar sources (R239); the result is poisoned when a source is (R233). -/
def scalarOp (i : Instr) (f : Word64 → Word64 → Word64) (u : CoreRef) (rd ra rb : SReg) (s : State) : Out :=
  scalarWrite i u rd (fun r => (f (r.sGet ra) (r.sGet rb), r.sBad ra || r.sBad rb)) s

/-- The amount of a shift: the low six bits (R239). -/
def shiftAmount (b : Word64) : Nat := b.toNat % 64

def execNop (u : CoreRef) (s : State) : Out := s.issue (.nop u) u slotControl (fun c => s.put u c)

def execLi (u : CoreRef) (rd : SReg) (imm : BitVec 32) (s : State) : Out :=
  scalarWrite (.li u rd imm) u rd (fun _ => (sext64 imm, false)) s

def execLih (u : CoreRef) (rd ra : SReg) (imm : BitVec 32) (s : State) : Out :=
  scalarWrite (.lih u rd ra imm) u rd (fun r => (imm ++ (r.sGet ra).setWidth 32, r.sBad ra)) s

def execAddi (u : CoreRef) (rd ra : SReg) (imm : BitVec 32) (s : State) : Out :=
  scalarWrite (.addi u rd ra imm) u rd (fun r => (r.sGet ra + sext64 imm, r.sBad ra)) s

def execAdd (u : CoreRef) (rd ra rb : SReg) (s : State) : Out := scalarOp (.add u rd ra rb) (fun a b => a + b) u rd ra rb s

def execSub (u : CoreRef) (rd ra rb : SReg) (s : State) : Out := scalarOp (.sub u rd ra rb) (fun a b => a - b) u rd ra rb s

def execMul (u : CoreRef) (rd ra rb : SReg) (s : State) : Out := scalarOp (.mul u rd ra rb) (fun a b => a * b) u rd ra rb s

def execMulhu (u : CoreRef) (rd ra rb : SReg) (s : State) : Out :=
  scalarOp (.mulhu u rd ra rb) (fun a b => BitVec.ofNat 64 (a.toNat * b.toNat / 2 ^ 64)) u rd ra rb s

def execAnd (u : CoreRef) (rd ra rb : SReg) (s : State) : Out := scalarOp (.andS u rd ra rb) (fun a b => a &&& b) u rd ra rb s

def execOr (u : CoreRef) (rd ra rb : SReg) (s : State) : Out := scalarOp (.orS u rd ra rb) (fun a b => a ||| b) u rd ra rb s

def execXor (u : CoreRef) (rd ra rb : SReg) (s : State) : Out := scalarOp (.xorS u rd ra rb) (fun a b => a ^^^ b) u rd ra rb s

def execShl (u : CoreRef) (rd ra rb : SReg) (s : State) : Out := scalarOp (.shl u rd ra rb) (fun a b => a <<< shiftAmount b) u rd ra rb s

def execShr (u : CoreRef) (rd ra rb : SReg) (s : State) : Out := scalarOp (.shr u rd ra rb) (fun a b => a >>> shiftAmount b) u rd ra rb s

def execSra (u : CoreRef) (rd ra rb : SReg) (s : State) : Out :=
  scalarOp (.sra u rd ra rb) (fun a b => a.sshiftRight (shiftAmount b)) u rd ra rb s

def execMin (u : CoreRef) (rd ra rb : SReg) (s : State) : Out := scalarOp (.minS u rd ra rb) (fun a b => if a.slt b then a else b) u rd ra rb s

def execMax (u : CoreRef) (rd ra rb : SReg) (s : State) : Out := scalarOp (.maxS u rd ra rb) (fun a b => if a.slt b then b else a) u rd ra rb s

def execMinu (u : CoreRef) (rd ra rb : SReg) (s : State) : Out := scalarOp (.minu u rd ra rb) (fun a b => if a.ult b then a else b) u rd ra rb s

def execMaxu (u : CoreRef) (rd ra rb : SReg) (s : State) : Out := scalarOp (.maxu u rd ra rb) (fun a b => if a.ult b then b else a) u rd ra rb s

def execSlt (u : CoreRef) (rd ra rb : SReg) (s : State) : Out := scalarOp (.slt u rd ra rb) (fun a b => if a.slt b then 1#64 else 0#64) u rd ra rb s

def execSltu (u : CoreRef) (rd ra rb : SReg) (s : State) : Out := scalarOp (.sltu u rd ra rb) (fun a b => if a.ult b then 1#64 else 0#64) u rd ra rb s

/-- rd ← rc ≠ 0 ? ra : rb (R239); each of the three sources passes its poison on (DEDUCED, log entry 20). -/
def execSel (u : CoreRef) (rd ra rb rc : SReg) (s : State) : Out :=
  scalarWrite (.sel u rd ra rb rc) u rd (fun r => (if r.sGet rc ≠ 0#64 then r.sGet ra else r.sGet rb, r.sBad ra || r.sBad rb || r.sBad rc)) s

/-- A scalar load of n bytes (R239): a poisoned address, an address out of alignment or bounds and a deferred tag fault; a
line that outstanding work still writes holds the bundle (`Core.interlocked`). -/
def scalarLoad (i : Instr) (n : Nat) (u : CoreRef) (rd ra : SReg) (imm : BitVec 32) (s : State) : Out :=
  s.issueIf (decide (rd.val < 48)) i u slotControl (fun c =>
    let a := immAddr c ra imm
    if c.rf0.sBad ra then s.faultAt u c slotControl causePoisonControl
    else match c.accessCause a n n false with
      | some k => s.faultAt u c slotControl k
      | none =>
        match c.rangeTag a n with
        | some t => s.faultTag u c slotControl t
        | none => s.put u (c.onRf (fun rf => rf.sSet rd (BitVec.ofNat 64 (leNum (c.spadRead a n))) (c.rangeBad a n))))

/-- A scalar store of n bytes (R239). -/
def scalarStore (i : Instr) (n : Nat) (u : CoreRef) (rd ra : SReg) (imm : BitVec 32) (s : State) : Out :=
  s.issue i u slotControl (fun c =>
    let a := immAddr c ra imm
    if c.rf0.sBad ra then s.faultAt u c slotControl causePoisonControl
    else match c.accessCause a n n true with
      | some k => s.faultAt u c slotControl k
      | none => s.put u (c.spadWrite a (le n (c.rf0.sGet rd).toNat) (c.rf0.sBad rd)))

def execSld (u : CoreRef) (rd ra : SReg) (imm : BitVec 32) (s : State) : Out := scalarLoad (.sld u rd ra imm) 8 u rd ra imm s

def execSldW (u : CoreRef) (rd ra : SReg) (imm : BitVec 32) (s : State) : Out := scalarLoad (.sldW u rd ra imm) 4 u rd ra imm s

def execSst (u : CoreRef) (rd ra : SReg) (imm : BitVec 32) (s : State) : Out := scalarStore (.sst u rd ra imm) 8 u rd ra imm s

def execSstW (u : CoreRef) (rd ra : SReg) (imm : BitVec 32) (s : State) : Out := scalarStore (.sstW u rd ra imm) 4 u rd ra imm s

end Sys2Proof.Machine
end

