-- ==== Sys2Proof/Machine/Dispatch.lean ====
section
/-!
DEFINITION. One arm per command: each is one direct call of the command's meaning.
-/

namespace Sys2Proof.Machine

/-- The effect of one command on everything but the queue. -/
def exec (i : Instr) (s : State) : Host.Outcome State Fault Refusal :=
  match i with
  | .nop u => Sys2Proof.Machine.execNop u s
  | .endProg u => Sys2Proof.Machine.execEnd u s
  | .coreEnded u => Sys2Proof.Machine.execCoreEnded u s
  | .li u rd imm => Sys2Proof.Machine.execLi u rd imm s
  | .lih u rd ra imm => Sys2Proof.Machine.execLih u rd ra imm s
  | .addi u rd ra imm => Sys2Proof.Machine.execAddi u rd ra imm s
  | .add u rd ra rb => Sys2Proof.Machine.execAdd u rd ra rb s
  | .sub u rd ra rb => Sys2Proof.Machine.execSub u rd ra rb s
  | .mul u rd ra rb => Sys2Proof.Machine.execMul u rd ra rb s
  | .mulhu u rd ra rb => Sys2Proof.Machine.execMulhu u rd ra rb s
  | .andS u rd ra rb => Sys2Proof.Machine.execAnd u rd ra rb s
  | .orS u rd ra rb => Sys2Proof.Machine.execOr u rd ra rb s
  | .xorS u rd ra rb => Sys2Proof.Machine.execXor u rd ra rb s
  | .shl u rd ra rb => Sys2Proof.Machine.execShl u rd ra rb s
  | .shr u rd ra rb => Sys2Proof.Machine.execShr u rd ra rb s
  | .sra u rd ra rb => Sys2Proof.Machine.execSra u rd ra rb s
  | .minS u rd ra rb => Sys2Proof.Machine.execMin u rd ra rb s
  | .maxS u rd ra rb => Sys2Proof.Machine.execMax u rd ra rb s
  | .minu u rd ra rb => Sys2Proof.Machine.execMinu u rd ra rb s
  | .maxu u rd ra rb => Sys2Proof.Machine.execMaxu u rd ra rb s
  | .slt u rd ra rb => Sys2Proof.Machine.execSlt u rd ra rb s
  | .sltu u rd ra rb => Sys2Proof.Machine.execSltu u rd ra rb s
  | .sel u rd ra rb rc => Sys2Proof.Machine.execSel u rd ra rb rc s
  | .sld u rd ra imm => Sys2Proof.Machine.execSld u rd ra imm s
  | .sldW u rd ra imm => Sys2Proof.Machine.execSldW u rd ra imm s
  | .sst u rd ra imm => Sys2Proof.Machine.execSst u rd ra imm s
  | .sstW u rd ra imm => Sys2Proof.Machine.execSstW u rd ra imm s
  | .br u target => Sys2Proof.Machine.execBr u target s
  | .bc u cond ra rb target => Sys2Proof.Machine.execBc u cond ra rb target s
  | .lbeg u dslot sd sb len => Sys2Proof.Machine.execLbeg u dslot sd sb len s
  | .sigAdd u self ctr rt imm => Sys2Proof.Machine.execSigAdd u self ctr rt imm s
  | .waitGe u ctr ra imm => Sys2Proof.Machine.execWaitGe u ctr ra imm s
  | .waitEq u ctr ra imm => Sys2Proof.Machine.execWaitEq u ctr ra imm s
  | .waitRelease u => Sys2Proof.Machine.execWaitRelease u s
  | .syncFence u => Sys2Proof.Machine.execSyncFence u s
  | .fenceRelease u => Sys2Proof.Machine.execFenceRelease u s
  | .csrr u rd csr => Sys2Proof.Machine.execCsrr u rd csr s
  | .csrw u ra csr => Sys2Proof.Machine.execCsrw u ra csr s
  | .csrc u ra csr => Sys2Proof.Machine.execCsrc u ra csr s
  | .vadd u fmt rm sat pq vd va vb => Sys2Proof.Machine.execVadd u fmt rm sat pq vd va vb s
  | .vsub u fmt rm sat pq vd va vb => Sys2Proof.Machine.execVsub u fmt rm sat pq vd va vb s
  | .vmul u fmt rm pq vd va vb => Sys2Proof.Machine.execVmul u fmt rm pq vd va vb s
  | .vfma u fmt rm pq vd va vb vc => Sys2Proof.Machine.execVfma u fmt rm pq vd va vb vc s
  | .vmin u fmt pq vd va vb => Sys2Proof.Machine.execVmin u fmt pq vd va vb s
  | .vmax u fmt pq vd va vb => Sys2Proof.Machine.execVmax u fmt pq vd va vb s
  | .vabs u fmt pq vd va => Sys2Proof.Machine.execVabs u fmt pq vd va s
  | .vneg u fmt pq vd va => Sys2Proof.Machine.execVneg u fmt pq vd va s
  | .vcopysign u fmt pq vd va vb => Sys2Proof.Machine.execVcopysign u fmt pq vd va vb s
  | .vdiv u rm pq vd va vb => Sys2Proof.Machine.execVdiv u rm pq vd va vb s
  | .vrecip u rm pq vd va => Sys2Proof.Machine.execVrecip u rm pq vd va s
  | .vsqrt u rm pq vd va => Sys2Proof.Machine.execVsqrt u rm pq vd va s
  | .vrsqrt u rm pq vd va => Sys2Proof.Machine.execVrsqrt u rm pq vd va s
  | .vexp u pq vd va => Sys2Proof.Machine.execVexp u pq vd va s
  | .vexp2 u pq vd va => Sys2Proof.Machine.execVexp2 u pq vd va s
  | .vlog u pq vd va => Sys2Proof.Machine.execVlog u pq vd va s
  | .vtanh u pq vd va => Sys2Proof.Machine.execVtanh u pq vd va s
  | .vsigmoid u pq vd va => Sys2Proof.Machine.execVsigmoid u pq vd va s
  | .verf u pq vd va => Sys2Proof.Machine.execVerf u pq vd va s
  | .vgelu u pq vd va => Sys2Proof.Machine.execVgelu u pq vd va s
  | .vand u fmt pq vd va vb => Sys2Proof.Machine.execVand u fmt pq vd va vb s
  | .vor u fmt pq vd va vb => Sys2Proof.Machine.execVor u fmt pq vd va vb s
  | .vxor u fmt pq vd va vb => Sys2Proof.Machine.execVxor u fmt pq vd va vb s
  | .vshl u fmt pq vd va vb => Sys2Proof.Machine.execVshl u fmt pq vd va vb s
  | .vshr u fmt pq vd va vb => Sys2Proof.Machine.execVshr u fmt pq vd va vb s
  | .vsra u fmt pq vd va vb => Sys2Proof.Machine.execVsra u fmt pq vd va vb s
  | .vcmp u fmt cond pq pd va vb => Sys2Proof.Machine.execVcmp u fmt cond pq pd va vb s
  | .vsel u fmt p vd va vb => Sys2Proof.Machine.execVsel u fmt p vd va vb s
  | .vmov u fmt pq vd va => Sys2Proof.Machine.execVmov u fmt pq vd va s
  | .vbcast u fmt pq vd sx => Sys2Proof.Machine.execVbcast u fmt pq vd sx s
  | .vext u fmt pq sd va sx => Sys2Proof.Machine.execVext u fmt pq sd va sx s
  | .vrot u pq vd va sx => Sys2Proof.Machine.execVrot u pq vd va sx s
  | .vcvt u dfmt sfmt rm sat part useCode six sst pq vd va => Sys2Proof.Machine.execVcvt u dfmt sfmt rm sat part useCode six sst pq vd va s
  | .vcrest u fmt pq sd va => Sys2Proof.Machine.execVcrest u fmt pq sd va s
  | .vld u off sstr sb pq vd => Sys2Proof.Machine.execVld u off sstr sb pq vd s
  | .vst u off sstr sb pq vd => Sys2Proof.Machine.execVst u off sstr sb pq vd s
  | .vred u init pq sspec saddr vcr vb va seg form fmt => Sys2Proof.Machine.execVred u init pq sspec saddr vcr vb va seg form fmt s
  | .vlfComb u n sb sa sd wide => Sys2Proof.Machine.execVlfComb u n sb sa sd wide s
  | .vlfDrain u fmt sat wide sa vd => Sys2Proof.Machine.execVlfDrain u fmt sat wide sa vd s
  | .pand u pq pd pa pb => Sys2Proof.Machine.execPand u pq pd pa pb s
  | .por u pq pd pa pb => Sys2Proof.Machine.execPor u pq pd pa pb s
  | .pxor u pq pd pa pb => Sys2Proof.Machine.execPxor u pq pd pa pb s
  | .pnot u pq pd pa => Sys2Proof.Machine.execPnot u pq pd pa s
  | .pset u pq pd sx => Sys2Proof.Machine.execPset u pq pd sx s
  | .manc u spec vr fb fa => Sys2Proof.Machine.execManc u spec vr fb fa s
  | .mancChain u spec vr fb => Sys2Proof.Machine.execMancChain u spec vr fb s
  | .mtile u n sb sa fb fa => Sys2Proof.Machine.execMtile u n sb sa fb fa s
  | .mtileFirst u n sb sa fb fa => Sys2Proof.Machine.execMtileFirst u n sb sa fb fa s
  | .mtileFirstSwap u n sb sa fb fa => Sys2Proof.Machine.execMtileFirstSwap u n sb sa fb fa s
  | .mtileX3 u n sb sa => Sys2Proof.Machine.execMtileX3 u n sb sa s
  | .mtileX3First u n sb sa => Sys2Proof.Machine.execMtileX3First u n sb sa s
  | .mtileX3FirstSwap u n sb sa => Sys2Proof.Machine.execMtileX3FirstSwap u n sb sa s
  | .mswap u => Sys2Proof.Machine.execMswap u s
  | .tilePass u => Sys2Proof.Machine.execTilePass u s
  | .strictRerun u => Sys2Proof.Machine.execStrictRerun u s
  | .mloadLf u ssrc => Sys2Proof.Machine.execMloadLf u ssrc s
  | .mloadWlf u ssrc => Sys2Proof.Machine.execMloadWlf u ssrc s
  | .mdrain u srsum srmax smask causal vrow fn sdst sat fmt => Sys2Proof.Machine.execMdrain u srsum srmax smask causal vrow fn sdst sat fmt s
  | .mdrainLf u sdst => Sys2Proof.Machine.execMdrainLf u sdst s
  | .mdrainWlf u sdst => Sys2Proof.Machine.execMdrainWlf u sdst s
  | .drainComplete u => Sys2Proof.Machine.execDrainComplete u s
  | .mchain u rsumEn causal vrow fn n1m1 nt sb first fc fb fa => Sys2Proof.Machine.execMchain u rsumEn causal vrow fn n1m1 nt sb first fc fb fa s
  | .mxfer u sSig sCtl sDst sSrc ddst dsrc m => Sys2Proof.Machine.execMxfer u sSig sCtl sDst sSrc ddst dsrc m s
  | .mscanCrest u fmt sSig sCtl sBase cslot dwalk m => Sys2Proof.Machine.execMscanCrest u fmt sSig sCtl sBase cslot dwalk m s
  | .mscanCmax u sSig sCtl sDst sSrc ddst dsrc m => Sys2Proof.Machine.execMscanCmax u sSig sCtl sDst sSrc ddst dsrc m s
  | .mstop u m => Sys2Proof.Machine.execMstop u m s
  | .dld u imm sa dslot => Sys2Proof.Machine.execDld u imm sa dslot s
  | .dst u imm sa dslot => Sys2Proof.Machine.execDst u imm sa dslot s
  | .dset u k sa dslot => Sys2Proof.Machine.execDset u k sa dslot s
  | .moverCommandStart u m => Sys2Proof.Machine.execMoverCommandStart u m s
  | .moverReadReturn u m => Sys2Proof.Machine.execMoverReadReturn u m s
  | .moverUnitWrite u r => Sys2Proof.Machine.execMoverUnitWrite u r s
  | .moverGateOpen u r => Sys2Proof.Machine.execMoverGateOpen u r s
  | .attachedSignalApply u r => Sys2Proof.Machine.execAttachedSignalApply u r s
  | .moverSquashDone u m => Sys2Proof.Machine.execMoverSquashDone u m s
  | .crestedGroupWrite u r => Sys2Proof.Machine.execCrestedGroupWrite u r s
  | .packetArrive ix => Sys2Proof.Machine.execPacketArrive ix s
  | .packetInject u => Sys2Proof.Machine.execPacketInject u s
  | .balanceCheck pen => Sys2Proof.Machine.execBalanceCheck pen s
  | .lateItemStop pen holder => Sys2Proof.Machine.execLateItemStop pen holder s
  | .lateItemRestart pen => Sys2Proof.Machine.execLateItemRestart pen s
  | .turnEnd pen => Sys2Proof.Machine.execTurnEnd pen s
  | .quiesceEnd pen => Sys2Proof.Machine.execQuiesceEnd pen s
  | .exchangeEnd pen => Sys2Proof.Machine.execExchangeEnd pen s
  | .stepT0 pen => Sys2Proof.Machine.execStepT0 pen s
  | .entryBundle pen => Sys2Proof.Machine.execEntryBundle pen s
  | .gateRaise pen => Sys2Proof.Machine.execGateRaise pen s
  | .sweepStart pen peers => Sys2Proof.Machine.execSweepStart pen peers s
  | .sweepComplete pen => Sys2Proof.Machine.execSweepComplete pen s
  | .unop b => Sys2Proof.Machine.execUnop b s
  | .uadd b rd ra rb => Sys2Proof.Machine.execUadd b rd ra rb s
  | .usub b rd ra rb => Sys2Proof.Machine.execUsub b rd ra rb s
  | .umul b rd ra rb => Sys2Proof.Machine.execUmul b rd ra rb s
  | .ufma b rd ra rb rc => Sys2Proof.Machine.execUfma b rd ra rb rc s
  | .umin b rd ra rb => Sys2Proof.Machine.execUmin b rd ra rb s
  | .umax b rd ra rb => Sys2Proof.Machine.execUmax b rd ra rb s
  | .uabs b rd ra => Sys2Proof.Machine.execUabs b rd ra s
  | .uneg b rd ra => Sys2Proof.Machine.execUneg b rd ra s
  | .ucopysign b rd ra rb => Sys2Proof.Machine.execUcopysign b rd ra rb s
  | .udiv b rd ra rb => Sys2Proof.Machine.execUdiv b rd ra rb s
  | .urecip b rd ra => Sys2Proof.Machine.execUrecip b rd ra s
  | .usqrt b rd ra => Sys2Proof.Machine.execUsqrt b rd ra s
  | .ursqrt b rd ra => Sys2Proof.Machine.execUrsqrt b rd ra s
  | .uexp b rd ra => Sys2Proof.Machine.execUexp b rd ra s
  | .uexp2 b rd ra => Sys2Proof.Machine.execUexp2 b rd ra s
  | .ulog b rd ra => Sys2Proof.Machine.execUlog b rd ra s
  | .utanh b rd ra => Sys2Proof.Machine.execUtanh b rd ra s
  | .usigmoid b rd ra => Sys2Proof.Machine.execUsigmoid b rd ra s
  | .uerf b rd ra => Sys2Proof.Machine.execUerf b rd ra s
  | .ugelu b rd ra => Sys2Proof.Machine.execUgelu b rd ra s
  | .ult b rd ra rb => Sys2Proof.Machine.execUlt b rd ra rb s
  | .usel b rd ra rb rc => Sys2Proof.Machine.execUsel b rd ra rb rc s
  | .uldk b rd imm => Sys2Proof.Machine.execUldk b rd imm s
  | .usign b rd ra => Sys2Proof.Machine.execUsign b rd ra s
  | .ubsum b rd ra => Sys2Proof.Machine.execUbsum b rd ra s
  | .ubmax b rd ra => Sys2Proof.Machine.execUbmax b rd ra s
  | .voteReceive pen src pay => Sys2Proof.Machine.execVoteReceive pen src pay s
  | .sendDrainComplete pen => Sys2Proof.Machine.execSendDrainComplete pen s
  | .resyncDone pen => Sys2Proof.Machine.execResyncDone pen s
  | .voteTimeout pen => Sys2Proof.Machine.execVoteTimeout pen s
  | .memRead b line ecc => Sys2Proof.Machine.execMemRead b line ecc s
  | .memWrite b line off data poison ecc => Sys2Proof.Machine.execMemWrite b line off data poison ecc s
  | .refresh b => Sys2Proof.Machine.execRefresh b s
  | .stackTempChange b celsius => Sys2Proof.Machine.execStackTempChange b celsius s
  | .patrol b ecc => Sys2Proof.Machine.execPatrol b ecc s
  | .boundaryWork pen rereads => Sys2Proof.Machine.execBoundaryWork pen rereads s
  | .windowCommit fn => Sys2Proof.Machine.execWindowCommit fn s
  | .commitCheckDone pen => Sys2Proof.Machine.execCommitCheckDone pen s
  | .winDataAccess fn reg acc => Sys2Proof.Machine.execWinDataAccess fn reg acc s
  | .codewordReceive p lane payload errs => Sys2Proof.Machine.execCodewordReceive p lane payload errs s
  | .lossOfLock p lane => Sys2Proof.Machine.execLossOfLock p lane s
  | .flitReceive p logical => Sys2Proof.Machine.execFlitReceive p logical s
  | .retryBudgetExhausted p => Sys2Proof.Machine.execRetryBudgetExhausted p s
  | .retrainDone p failedLanes => Sys2Proof.Machine.execRetrainDone p failedLanes s
  | .identity p idn => Sys2Proof.Machine.execIdentity p idn s
  | .lanes p goodMask fseq => Sys2Proof.Machine.execLanes p goodMask fseq s
  | .retrain p => Sys2Proof.Machine.execRetrain p s
  | .messageSend p => Sys2Proof.Machine.execMessageSend p s
  | .write p msg => Sys2Proof.Machine.execWrite p msg s
  | .signal p msg => Sys2Proof.Machine.execSignal p msg s
  | .ack p msg => Sys2Proof.Machine.execAck p msg s
  | .ackTimer p srcDev srcPort => Sys2Proof.Machine.execAckTimer p srcDev srcPort s
  | .messageForward p msg => Sys2Proof.Machine.execMessageForward p msg s
  | .altRouteTimeout p => Sys2Proof.Machine.execAltRouteTimeout p s
  | .linkLost p => Sys2Proof.Machine.execLinkLost p s
  | .laneWindowEnd p lanes => Sys2Proof.Machine.execLaneWindowEnd p lanes s
  | .laneRetire p tx lane => Sys2Proof.Machine.execLaneRetire p tx lane s
  | .synthLock p => Sys2Proof.Machine.execSynthLock p s
  | .synthTimeout p => Sys2Proof.Machine.execSynthTimeout p s
  | .trainingAttempt p => Sys2Proof.Machine.execTrainingAttempt p s
  | .trainingComplete p locked skews precoded => Sys2Proof.Machine.execTrainingComplete p locked skews precoded s
  | .berWindowEnd p lanes => Sys2Proof.Machine.execBerWindowEnd p lanes s
  | .censusClose => Sys2Proof.Machine.execCensusClose s
  | .partnerRemoved p => Sys2Proof.Machine.execPartnerRemoved p s
  | .linkStageBegin => Sys2Proof.Machine.execLinkStageBegin s
  | .linkStageEnd => Sys2Proof.Machine.execLinkStageEnd s
  | .train p master => Sys2Proof.Machine.execTrain p master s
  | .idle p master => Sys2Proof.Machine.execIdle p master s
  | .clearCounts p master => Sys2Proof.Machine.execClearCounts p master s
  | .closeDeadline pen group => Sys2Proof.Machine.execCloseDeadline pen group s
  | .siteFence site detector => Sys2Proof.Machine.execSiteFence site detector s
  | .adoptionDone pen => Sys2Proof.Machine.execAdoptionDone pen s
  | .replayDone pen => Sys2Proof.Machine.execReplayDone pen s
  | .faultDetect b detector dev => Sys2Proof.Machine.execFaultDetect b detector dev s
  | .yokeCheckMismatch pen logical => Sys2Proof.Machine.execYokeCheckMismatch pen logical s
  | .siteTestResult site pass pattern ms => Sys2Proof.Machine.execSiteTestResult site pass pattern ms s
  | .wxBucket => Sys2Proof.Machine.execWxBucket s
  | .injArm fn => Sys2Proof.Machine.execInjArm fn s
  | .injCancel fn => Sys2Proof.Machine.execInjCancel fn s
  | .noiseWindow samples => Sys2Proof.Machine.execNoiseWindow samples s
  | .rngStartupTest samples => Sys2Proof.Machine.execRngStartupTest samples s
  | .rngRetry samples => Sys2Proof.Machine.execRngRetry samples s
  | .cmdNop ring => Sys2Proof.Machine.execCmdNop ring s
  | .dmaH2d ring => Sys2Proof.Machine.execDmaH2d ring s
  | .dmaD2h ring => Sys2Proof.Machine.execDmaD2h ring s
  | .jobLoad ring => Sys2Proof.Machine.execJobLoad ring s
  | .jobUnload ring => Sys2Proof.Machine.execJobUnload ring s
  | .jobAbort ring => Sys2Proof.Machine.execJobAbort ring s
  | .stepRelease ring => Sys2Proof.Machine.execStepRelease ring s
  | .seedSet ring => Sys2Proof.Machine.execSeedSet ring s
  | .seedDraw ring => Sys2Proof.Machine.execSeedDraw ring s
  | .yokeCheck ring => Sys2Proof.Machine.execYokeCheck ring s
  | .snapshot ring => Sys2Proof.Machine.execSnapshot ring s
  | .ckptArm ring => Sys2Proof.Machine.execCkptArm ring s
  | .buddyReceive ring => Sys2Proof.Machine.execBuddyReceive ring s
  | .restore ring => Sys2Proof.Machine.execRestore ring s
  | .restoreFinish ring peers => Sys2Proof.Machine.execRestoreFinish ring peers s
  | .ledgerImport ring rankZero => Sys2Proof.Machine.execLedgerImport ring rankZero s
  | .journalExport ring => Sys2Proof.Machine.execJournalExport ring s
  | .ftpLoad ring => Sys2Proof.Machine.execFtpLoad ring s
  | .ckptWrite pen peers => Sys2Proof.Machine.execCkptWrite pen peers s
  | .ckptComplete pen => Sys2Proof.Machine.execCkptComplete pen s
  | .ckptBuddyTimeout pen => Sys2Proof.Machine.execCkptBuddyTimeout pen s
  | .doorbell fn ring value => Sys2Proof.Machine.execDoorbell fn ring value s
  | .commandFetch ring => Sys2Proof.Machine.execCommandFetch ring s
  | .eventPost fn => Sys2Proof.Machine.execEventPost fn s
  | .interrupt ring => Sys2Proof.Machine.execInterrupt ring s
  | .ringEnable fn ring => Sys2Proof.Machine.execRingEnable fn ring s
  | .bar4Access fn off acc => Sys2Proof.Machine.execBar4Access fn off acc s
  | .stepLimitExpiry pen => Sys2Proof.Machine.execStepLimitExpiry pen s
  | .authMailboxGo => Sys2Proof.Machine.execAuthMailboxGo s
  | .loadDeviceSection o => Sys2Proof.Machine.execLoadDeviceSection o s
  | .ringAllocation o => Sys2Proof.Machine.execRingAllocation o s
  | .setAuthority o => Sys2Proof.Machine.execSetAuthority o s
  | .takeOwnership o => Sys2Proof.Machine.execTakeOwnership o s
  | .releaseOwnership o => Sys2Proof.Machine.execReleaseOwnership o s
  | .fwWrite o => Sys2Proof.Machine.execFwWrite o s
  | .fwActivate o => Sys2Proof.Machine.execFwActivate o s
  | .fwCommit o => Sys2Proof.Machine.execFwCommit o s
  | .mgmtRestart o => Sys2Proof.Machine.execMgmtRestart o s
  | .writePolicy o => Sys2Proof.Machine.execWritePolicy o s
  | .clearLedgerEntry o => Sys2Proof.Machine.execClearLedgerEntry o s
  | .clearBayAct o => Sys2Proof.Machine.execClearBayAct o s
  | .clearTamperLog o => Sys2Proof.Machine.execClearTamperLog o s
  | .authFtpLoad o => Sys2Proof.Machine.execAuthFtpLoad o s
  | .claimWindowEnd => Sys2Proof.Machine.execClaimWindowEnd s
  | .getVersion ep => Sys2Proof.Machine.execGetVersion ep s
  | .getCapabilities ep minor => Sys2Proof.Machine.execGetCapabilities ep minor s
  | .negotiateAlgorithms ep offered => Sys2Proof.Machine.execNegotiateAlgorithms ep offered s
  | .getDigests ep => Sys2Proof.Machine.execGetDigests ep s
  | .getCertificate ep slot off len => Sys2Proof.Machine.execGetCertificate ep slot off len s
  | .challenge ep slot nonce => Sys2Proof.Machine.execChallenge ep slot nonce s
  | .getMeasurements ep index => Sys2Proof.Machine.execGetMeasurements ep index s
  | .keyExchange ep slot exData mutualAuth => Sys2Proof.Machine.execKeyExchange ep slot exData mutualAuth s
  | .finish ep verifyData => Sys2Proof.Machine.execFinish ep verifyData s
  | .keyUpdate ep allKeys => Sys2Proof.Machine.execKeyUpdate ep allKeys s
  | .heartbeat ep => Sys2Proof.Machine.execHeartbeat ep s
  | .endSession ep => Sys2Proof.Machine.execEndSession ep s
  | .penReset fn pen => Sys2Proof.Machine.execPenReset fn pen s
  | .teardownQuiesceDone pen => Sys2Proof.Machine.execTeardownQuiesceDone pen s
  | .scrubDone pen => Sys2Proof.Machine.execScrubDone pen s
  | .cryptoEraseDone pen => Sys2Proof.Machine.execCryptoEraseDone pen s
  | .penCreate pen => Sys2Proof.Machine.execPenCreate pen s
  | .tamperAlarm sensor keyOp => Sys2Proof.Machine.execTamperAlarm sensor keyOp s
  | .powerGood slotId authSel => Sys2Proof.Machine.execPowerGood slotId authSel s
  | .inputLoss => Sys2Proof.Machine.execInputLoss s
  | .overvoltage mv ms => Sys2Proof.Machine.execOvervoltage mv ms s
  | .perstAssert => Sys2Proof.Machine.execPerstAssert s
  | .perstDeassert => Sys2Proof.Machine.execPerstDeassert s
  | .smbusWake => Sys2Proof.Machine.execSmbusWake s
  | .startupStageDone res => Sys2Proof.Machine.execStartupStageDone res s
  | .stageTimeout => Sys2Proof.Machine.execStageTimeout s
  | .computeReset fn => Sys2Proof.Machine.execComputeReset fn s
  | .computeResetDone res => Sys2Proof.Machine.execComputeResetDone res s
  | .keepRequest fn => Sys2Proof.Machine.execKeepRequest fn s
  | .keepWriteDone => Sys2Proof.Machine.execKeepWriteDone s
  | .thermalSample west east => Sys2Proof.Machine.execThermalSample west east s
  | .thermalEmergencyEnd => Sys2Proof.Machine.execThermalEmergencyEnd s
  | .pllLockLoss east => Sys2Proof.Machine.execPllLockLoss east s
  | .powerAverage mv tenMa watts => Sys2Proof.Machine.execPowerAverage mv tenMa watts s
  | .fntabRead acc => Sys2Proof.Machine.execFntabRead acc s
  | .journalAck fn pen value => Sys2Proof.Machine.execJournalAck fn pen value s
  | .rwkWrite fn off len value => Sys2Proof.Machine.execRwkWrite fn off len value s
  | .registerWrite fn off len value => Sys2Proof.Machine.execRegisterWrite fn off len value s
  | .undefinedOffsetAccess fn off len => Sys2Proof.Machine.execUndefinedOffsetAccess fn off len s
  | .signalDetect p => Sys2Proof.Machine.execSignalDetect p s
  | .frameTransmit p => Sys2Proof.Machine.execFrameTransmit p s
  | .hotReset => Sys2Proof.Machine.execHotReset s
  | .alertResponseAddressRead => Sys2Proof.Machine.execAlertResponseAddressRead s
  | .alwaysOnDomainUp => Sys2Proof.Machine.execAlwaysOnDomainUp s
  | .chainEnd u => Sys2Proof.Machine.execChainEnd u s
  | .commandCompletion ring hostError => Sys2Proof.Machine.execCommandCompletion ring hostError s

end Sys2Proof.Machine
end

