-- ==== Sys2Proof/Safety.lean ====
section
/-!
DEFINITION. What counts as a safe step, and the canonical form of the memories and registers, in the terms the statements
use.
-/

namespace Sys2Proof

/-- A command completes in a state: its meaning answers a next state. -/
def Completes (i : Instr) (s : Machine.State) : Prop := ∃ t, Machine.exec i s = .next t

/-- A step that neither faults nor refuses. -/
def SafeStep (s : Machine.State) : Prop := ∃ t, Machine.step s = .next t

namespace Machine

/-- The canonical form of device memory, its poison marks and bad lines, host memory and the registers: keys strictly
rising, and for the tables with a fixed default no pair equal to it.  A byte that nothing has written reads as a free value
(DESIGN CHOICE, log entry 3), so the memories list every byte written and no default can be removed. -/
def Memory.wf (s : State) : Bool :=
  SMap.sortedFrom none s.hbm && SMap.sortedFrom none s.poison && SMap.sortedFrom none s.hostMem &&
  SMap.wf (fun _ => false) s.badLines && SMap.wf regDefault s.regs

end Machine

end Sys2Proof
end

