-- ==== Sys2Proof/Certificates/Slice0/Terms.lean ====
section
/-!
DEFINITION. The terms the statements are written in: what a command of a family computes, taken from the spec's tables, and
the parts of a state a command leaves alone.
-/

namespace Sys2Proof.Claims

open Sys2Proof.Machine

/-! ### Cores -/

/-- An instruction of a slot may issue: its job's units run, the turn is its context's, its bundles issue, and it meets its interlock
conditions (R61, R214, R228, R235, R265; what that asks of the state is `Obligations.BundlesIssueAsUnits`). -/
def Issues (i : Instr) (s : State) (u : CoreRef) (slot : Nat) : Prop := s.mayIssue i u slot = true

/-- The core as an instruction of a slot finds it: in the running bundle or in the next one (R228; DEDUCED, log entry 7). -/
def found (s : State) (u : CoreRef) (slot : Nat) : Core := (s.core (refKey u)).begin slot

/-- Scalar registers after a write of one (R230, R233): s0 stays zero and unpoisoned, every other scalar register, and every
vector, predicate and descriptor register, keeps what it held. -/
def ScalarWritten (c c' : Core) (rd : SReg) (x : Word64) (bad : Bool) : Prop :=
  c' = { c with rf := { c.rf with s := c'.rf.s, sPoison := c'.rf.sPoison } } ∧
  ∀ r : SReg, c'.rf.sGet r = (if r = rd ∧ r.val ≠ 0 then x else c.rf.sGet r) ∧
    c'.rf.sBad r = (if r = rd ∧ r.val ≠ 0 then bad else c.rf.sBad r)

/-- What a scalar arithmetic instruction computes (R239): its core, its destination, its result from the registers as the
bundle found them, and the sources whose poison it passes on. -/
def scalarForm : Instr → Option (CoreRef × SReg × (RegFile → Word64) × List SReg)
  | .li u rd imm => some (u, rd, fun _ => BitVec.ofInt 64 imm.toInt, [])
  | .lih u rd ra imm => some (u, rd, fun r => BitVec.ofNat 64 (imm.toNat * 2 ^ 32 + (r.sGet ra).toNat % 2 ^ 32), [ra])
  | .addi u rd ra imm => some (u, rd, fun r => BitVec.ofInt 64 ((r.sGet ra).toInt + imm.toInt), [ra])
  | .add u rd ra rb => some (u, rd, fun r => BitVec.ofNat 64 ((r.sGet ra).toNat + (r.sGet rb).toNat), [ra, rb])
  | .sub u rd ra rb => some (u, rd, fun r => BitVec.ofInt 64 ((r.sGet ra).toInt - (r.sGet rb).toInt), [ra, rb])
  | .mul u rd ra rb => some (u, rd, fun r => BitVec.ofNat 64 ((r.sGet ra).toNat * (r.sGet rb).toNat), [ra, rb])
  | .mulhu u rd ra rb =>
    some (u, rd, fun r => (((r.sGet ra).setWidth 128 * (r.sGet rb).setWidth 128) >>> 64).setWidth 64, [ra, rb])
  | .andS u rd ra rb => some (u, rd, fun r => r.sGet ra &&& r.sGet rb, [ra, rb])
  | .orS u rd ra rb => some (u, rd, fun r => r.sGet ra ||| r.sGet rb, [ra, rb])
  | .xorS u rd ra rb => some (u, rd, fun r => r.sGet ra ^^^ r.sGet rb, [ra, rb])
  | .shl u rd ra rb => some (u, rd, fun r => BitVec.ofNat 64 ((r.sGet ra).toNat * 2 ^ ((r.sGet rb).toNat % 64)), [ra, rb])
  | .shr u rd ra rb => some (u, rd, fun r => BitVec.ofNat 64 ((r.sGet ra).toNat / 2 ^ ((r.sGet rb).toNat % 64)), [ra, rb])
  | .sra u rd ra rb =>
    some (u, rd, fun r => BitVec.ofInt 64 ((r.sGet ra).toInt / 2 ^ ((r.sGet rb).toNat % 64)), [ra, rb])
  | .minS u rd ra rb => some (u, rd, fun r => BitVec.ofInt 64 (min (r.sGet ra).toInt (r.sGet rb).toInt), [ra, rb])
  | .maxS u rd ra rb => some (u, rd, fun r => BitVec.ofInt 64 (max (r.sGet ra).toInt (r.sGet rb).toInt), [ra, rb])
  | .minu u rd ra rb => some (u, rd, fun r => BitVec.ofNat 64 (min (r.sGet ra).toNat (r.sGet rb).toNat), [ra, rb])
  | .maxu u rd ra rb => some (u, rd, fun r => BitVec.ofNat 64 (max (r.sGet ra).toNat (r.sGet rb).toNat), [ra, rb])
  | .slt u rd ra rb => some (u, rd, fun r => if (r.sGet ra).toInt < (r.sGet rb).toInt then 1#64 else 0#64, [ra, rb])
  | .sltu u rd ra rb => some (u, rd, fun r => if (r.sGet ra).toNat < (r.sGet rb).toNat then 1#64 else 0#64, [ra, rb])
  | .sel u rd ra rb rc =>
    some (u, rd, fun r => if r.sGet rc = 0#64 then r.sGet rb else r.sGet ra, [ra, rb, rc])
  | _ => none

/-- A scalar load of the control slot: its core, destination, base, offset and size (R239). -/
def loadForm : Instr → Option (CoreRef × SReg × SReg × BitVec 32 × Nat)
  | .sld u rd ra imm => some (u, rd, ra, imm, 8)
  | .sldW u rd ra imm => some (u, rd, ra, imm, 4)
  | _ => none

/-- A scalar store of the control slot: its core, source, base, offset and size (R239). -/
def storeForm : Instr → Option (CoreRef × SReg × SReg × BitVec 32 × Nat)
  | .sst u rd ra imm => some (u, rd, ra, imm, 8)
  | .sstW u rd ra imm => some (u, rd, ra, imm, 4)
  | _ => none

/-- The scratchpad address of a scalar load or store: ra + sext(imm) (R239). -/
def scalarAddr (c : Core) (ra : SReg) (imm : BitVec 32) : Nat := (c.rf0.sGet ra + BitVec.ofInt 64 imm.toInt).toNat

/-- A core of which only the scratchpad changed, with the count of tags that it lost unconsumed (R223). -/
def SpadOnly (c c' : Core) : Prop :=
  c' = { c with spad := c'.spad, spadPoison := c'.spadPoison, spadTag := c'.spadTag, movUnconsumed := c'.movUnconsumed }

/-- Bytes that lie in one line of the scratchpad were written: they hold, every other byte keeps; the line is poisoned when the write is,
or when it was and is not written whole (R233); a whole line loses its deferred tag, which counts as unconsumed (R206, R223); every
other line keeps both. -/
def LineStored (c c' : Core) (a : Nat) (bs : List Byte) (bad : Bool) : Prop :=
  SpadOnly c c' ∧
  (∀ i, i < bs.length → c'.spadByte (a + i) = bs.getD i 0#8) ∧
  (∀ x, x < a ∨ a + bs.length ≤ x → c'.spadByte x = c.spadByte x) ∧
  (∀ l, c'.lineBad l = if l = a / 64 then bad || (decide (bs.length < 64) && c.lineBad l) else c.lineBad l) ∧
  (∀ l, c'.lineTag l = if l = a / 64 ∧ 64 ≤ bs.length then none else c.lineTag l) ∧
  c'.movUnconsumed = c.movUnconsumed + (if 64 ≤ bs.length ∧ (c.lineTag (a / 64)).isSome = true then 1 else 0)

/-- The core and the slot of an instruction of a core (R227). -/
def slotOf : Instr → Option (CoreRef × Nat)
  | .nop u | .endProg u | .li u .. | .lih u .. | .addi u .. | .add u .. | .sub u .. | .mul u .. | .mulhu u .. | .andS u ..
  | .orS u .. | .xorS u .. | .shl u .. | .shr u .. | .sra u .. | .minS u .. | .maxS u .. | .minu u .. | .maxu u .. | .slt u ..
  | .sltu u .. | .sel u .. | .sld u .. | .sldW u .. | .sst u .. | .sstW u .. | .br u .. | .bc u .. | .lbeg u .. | .sigAdd u ..
  | .waitGe u .. | .waitEq u .. | .syncFence u | .csrr u .. | .csrw u .. | .csrc u .. => some (u, 0)
  | .manc u .. | .mancChain u .. | .mtile u .. | .mtileFirst u .. | .mtileFirstSwap u .. | .mtileX3 u .. | .mtileX3First u ..
  | .mtileX3FirstSwap u .. | .mswap u | .mloadLf u .. | .mloadWlf u .. | .mdrain u .. | .mdrainLf u .. | .mdrainWlf u ..
  | .mchain u .. => some (u, 1)
  | .vadd u .. | .vsub u .. | .vmul u .. | .vfma u .. | .vmin u .. | .vmax u .. | .vabs u .. | .vneg u .. | .vcopysign u ..
  | .vdiv u .. | .vrecip u .. | .vsqrt u .. | .vrsqrt u .. | .vexp u .. | .vexp2 u .. | .vlog u .. | .vtanh u .. | .vsigmoid u ..
  | .verf u .. | .vgelu u .. | .vand u .. | .vor u .. | .vxor u .. | .vshl u .. | .vshr u .. | .vsra u .. | .vcmp u .. | .pand u ..
  | .por u .. | .pxor u .. | .pnot u .. | .pset u .. | .vsel u .. | .vmov u .. | .vbcast u .. | .vext u .. | .vrot u .. | .vcvt u ..
  | .vcrest u .. | .vld u .. | .vst u .. | .vred u .. | .vlfComb u .. | .vlfDrain u .. => some (u, 2)
  | .mxfer u .. | .mscanCrest u .. | .mscanCmax u .. | .mstop u .. | .dld u .. | .dst u .. | .dset u .. => some (u, 3)
  | _ => none

/-- A branch condition (R239). -/
def condOf : BrCond → Word64 → Word64 → Prop
  | .eq, a, b => a = b
  | .ne, a, b => a ≠ b
  | .lt, a, b => a.toInt < b.toInt
  | .ge, a, b => b.toInt ≤ a.toInt
  | .ltu, a, b => a.toNat < b.toNat
  | .geu, a, b => b.toNat ≤ a.toNat

/-! ### The vector slot -/

/-- An elementwise vector instruction: its core, whether its options are legal (R83, R86, R244), its format, predicate,
destination and sources, and what it computes of the sources' elements with the flags it raises. -/
structure ElemForm where
  u : CoreRef
  legal : Bool
  fmt : Fmt
  pq : PredCtl
  vd : VReg
  srcs : List VReg
  op : List Elem → Elem × ExcFlags

/-- The legality and the operation of the elementwise instructions (R107, R244) in a state: `strict` is the mode of the core's
program. -/
def elemForm (s : State) : Instr → Option ElemForm
  | .vadd u f rm sat pq vd va vb =>
    some ⟨u, addOk s u f rm sat, f, pq, vd, [va, vb], arith2 f rm sat fpAdd (fun a b => a + b) (s.strictOf u)⟩
  | .vsub u f rm sat pq vd va vb =>
    some ⟨u, addOk s u f rm sat, f, pq, vd, [va, vb], arith2 f rm sat fpSub (fun a b => a - b) (s.strictOf u)⟩
  | .vmul u f rm pq vd va vb =>
    some ⟨u, fmtArith f && rmOk (s.strictOf u) rm, f, pq, vd, [va, vb], arith2 f rm false fpMul (fun a b => a * b) (s.strictOf u)⟩
  | .vfma u f rm pq vd va vb vc =>
    some ⟨u, fmtFloat f && rmOk (s.strictOf u) rm, f, pq, vd, [va, vb, vc],
      fun xs => fpFma ⟨s.strictOf u, rm⟩ f (arg xs 0) (arg xs 1) (arg xs 2)⟩
  | .vmin u f pq vd va vb => some ⟨u, fmtArith f, f, pq, vd, [va, vb], arith2 f .rne false (fpMinMax false) min (s.strictOf u)⟩
  | .vmax u f pq vd va vb => some ⟨u, fmtArith f, f, pq, vd, [va, vb], arith2 f .rne false (fpMinMax true) max (s.strictOf u)⟩
  | .vabs u f pq vd va => some ⟨u, fmtFloat f, f, pq, vd, [va], fun xs => (fpAbs f (arg xs 0), 0#5)⟩
  | .vneg u f pq vd va => some ⟨u, fmtFloat f, f, pq, vd, [va], fun xs => (fpNeg f (arg xs 0), 0#5)⟩
  | .vcopysign u f pq vd va vb =>
    some ⟨u, fmtFloat f, f, pq, vd, [va, vb], fun xs => (fpCopysign f (arg xs 0) (arg xs 1), 0#5)⟩
  | .vdiv u rm pq vd va vb =>
    some ⟨u, rmOk (s.strictOf u) rm, .fp32, pq, vd, [va, vb],
      fun xs => fpDiv ⟨s.strictOf u, rm⟩ (arg xs 0) (arg xs 1)⟩
  | .vrecip u rm pq vd va =>
    some ⟨u, rmOk (s.strictOf u) rm, .fp32, pq, vd, [va], fun xs => fpRecip ⟨s.strictOf u, rm⟩ (arg xs 0)⟩
  | .vsqrt u rm pq vd va =>
    some ⟨u, rmOk (s.strictOf u) rm, .fp32, pq, vd, [va], fun xs => fpSqrt ⟨s.strictOf u, rm⟩ .fp32 (arg xs 0)⟩
  | .vrsqrt u rm pq vd va =>
    some ⟨u, rmOk (s.strictOf u) rm, .fp32, pq, vd, [va], fun xs => fpRsqrt ⟨s.strictOf u, rm⟩ (arg xs 0)⟩
  | .vexp u pq vd va => some ⟨u, true, .fp32, pq, vd, [va], fun xs => fnEval ⟨s.strictOf u, .rne⟩ .exp (arg xs 0)⟩
  | .vexp2 u pq vd va => some ⟨u, true, .fp32, pq, vd, [va], fun xs => fnEval ⟨s.strictOf u, .rne⟩ .exp2 (arg xs 0)⟩
  | .vlog u pq vd va => some ⟨u, true, .fp32, pq, vd, [va], fun xs => fnEval ⟨s.strictOf u, .rne⟩ .log (arg xs 0)⟩
  | .vtanh u pq vd va => some ⟨u, true, .fp32, pq, vd, [va], fun xs => fnEval ⟨s.strictOf u, .rne⟩ .tanh (arg xs 0)⟩
  | .vsigmoid u pq vd va =>
    some ⟨u, true, .fp32, pq, vd, [va], fun xs => fnEval ⟨s.strictOf u, .rne⟩ .sigmoid (arg xs 0)⟩
  | .verf u pq vd va => some ⟨u, true, .fp32, pq, vd, [va], fun xs => fnEval ⟨s.strictOf u, .rne⟩ .erf (arg xs 0)⟩
  | .vgelu u pq vd va => some ⟨u, true, .fp32, pq, vd, [va], fun xs => fnEval ⟨s.strictOf u, .rne⟩ .gelu (arg xs 0)⟩
  | .vand u f pq vd va vb => some ⟨u, fmtLogic f, f, pq, vd, [va, vb], fun xs => (arg xs 0 &&& arg xs 1, 0#5)⟩
  | .vor u f pq vd va vb => some ⟨u, fmtLogic f, f, pq, vd, [va, vb], fun xs => (arg xs 0 ||| arg xs 1, 0#5)⟩
  | .vxor u f pq vd va vb => some ⟨u, fmtLogic f, f, pq, vd, [va, vb], fun xs => (arg xs 0 ^^^ arg xs 1, 0#5)⟩
  | .vshl u f pq vd va vb =>
    some ⟨u, fmtLogic f, f, pq, vd, [va, vb], fun xs => (arg xs 0 <<< ((arg xs 1).toNat % fmtBits f), 0#5)⟩
  | .vshr u f pq vd va vb =>
    some ⟨u, fmtLogic f, f, pq, vd, [va, vb], fun xs => (arg xs 0 >>> ((arg xs 1).toNat % fmtBits f), 0#5)⟩
  | .vsra u f pq vd va vb =>
    some ⟨u, fmtLogic f, f, pq, vd, [va, vb],
      fun xs => (intElem f (intOf f (arg xs 0) / 2 ^ ((arg xs 1).toNat % fmtBits f)), 0#5)⟩
  | _ => none

/-- The operands of an elementwise instruction at an element: the sources' elements there, in order. -/
def ElemForm.at_ (e : ElemForm) (c : Core) (i : Nat) : List Elem := e.srcs.map (fun v => elemGet e.fmt (c.rf0.vGet v) i)

/-- An element of a format is active under a predicate when its lane is (R231, R232). -/
def activeAt (c : Core) (pq : PredCtl) (f : Fmt) (i : Nat) : Bool := (activeLanes c.rf0 pq).getLsbD (laneOf f i)

/-- A vector register written under a predicate (R232, R233): an active element takes its result, any other element keeps;
the poison of an active lane is the result's, that of any other lane stays, a poisoned predicate poisons every lane; no other
register of any kind changes. -/
def VectorWritten (c c' : Core) (f : Fmt) (pq : PredCtl) (vd : VReg) (res : Nat → Elem) (bad : Nat → Bool) : Prop :=
  c' = { c with flags := c'.flags, rf := { c.rf with v := c'.rf.v, vPoison := c'.rf.vPoison } } ∧
  (∀ i, i < fmtElems f → elemGet f (c'.rf.vGet vd) i =
    if activeAt c pq f i then BitVec.ofNat 32 ((res i).toNat % 2 ^ fmtBits f) else elemGet f (c.rf.vGet vd) i) ∧
  (∀ l, l < 128 → (c'.rf.vBad vd).getLsbD l =
    (predBad c.rf0 pq || (if (activeLanes c.rf0 pq).getLsbD l then bad l else (c.rf.vBad vd).getLsbD l))) ∧
  (∀ v, v ≠ vd → c'.rf.vGet v = c.rf.vGet v ∧ c'.rf.vBad v = c.rf.vBad v)

/-- The flags after an instruction: under Strict arithmetic those of the active elements are added, under Fast arithmetic no
flag changes (R89). -/
def FlagsRaised (c c' : Core) (pq : PredCtl) (f : Fmt) (fl : Nat → ExcFlags) : Prop :=
  ∀ b, b < 5 → c'.flags.getLsbD b =
    (c.flags.getLsbD b || (c.cfg.strict && (List.range (fmtElems f)).any (fun i => activeAt c pq f i && (fl i).getLsbD b)))

/-- A predicate register written under a predicate (R232, R233): active bits take their results, the others keep; the register is
poisoned when a result is, when the predicate is, or when it was and some bit keeps (DEDUCED, log entry 22); no other register of any
kind changes. -/
def PredWritten (c c' : Core) (pq : PredCtl) (pd : PReg) (res : Nat → Bool) (bad : Bool) : Prop :=
  c' = { c with flags := c'.flags, rf := { c.rf with p := c'.rf.p, pPoison := c'.rf.pPoison } } ∧
  (∀ l, l < 128 → (c'.rf.pGet pd).getLsbD l =
    if (activeLanes c.rf0 pq).getLsbD l then res l else (c.rf.pGet pd).getLsbD l) ∧
  c'.rf.pBad pd = (bad || predBad c.rf0 pq || (decide (activeLanes c.rf0 pq ≠ ~~~0#128) && c.rf.pBad pd)) ∧
  (∀ p, p ≠ pd → c'.rf.pGet p = c.rf.pGet p ∧ c'.rf.pBad p = c.rf.pBad p)

/-- A predicate instruction: its core, predicate, destination, the bits it computes and the poison of its sources (R244). -/
def predForm : Instr → Option (CoreRef × PredCtl × PReg × (RegFile → Nat → Bool) × (RegFile → Bool))
  | .pand u pq pd pa pb =>
    some (u, pq, pd, fun r l => (r.pGet pa).getLsbD l && (r.pGet pb).getLsbD l, fun r => r.pBad pa || r.pBad pb)
  | .por u pq pd pa pb =>
    some (u, pq, pd, fun r l => (r.pGet pa).getLsbD l || (r.pGet pb).getLsbD l, fun r => r.pBad pa || r.pBad pb)
  | .pxor u pq pd pa pb =>
    some (u, pq, pd, fun r l => (r.pGet pa).getLsbD l != (r.pGet pb).getLsbD l, fun r => r.pBad pa || r.pBad pb)
  | .pnot u pq pd pa => some (u, pq, pd, fun r l => !(r.pGet pa).getLsbD l, fun r => r.pBad pa)
  | .pset u pq pd sx => some (u, pq, pd, fun r _ => decide (r.sGet sx ≠ 0#64), fun r => r.sBad sx)
  | _ => none

/-- The address of line i of a vector load or store (R245): the base, plus i times the stride, 64 when the stride register is
s0. -/
def vecLine (c : Core) (off : BitVec 12) (sstr sb : SReg) (i : Nat) : Nat :=
  (((c.rf0.sGet sb + BitVec.ofInt 64 (64 * off.toInt)).toNat : Int) +
    (if sstr.val = 0 then 64 else (c.rf0.sGet sstr).toInt) * i).toNat

/-- A vector load or store may act (R245, R197, R233): its scalars are not poisoned, its lines are aligned and lie in a region that
grants the access. -/
def VecAccess (c : Core) (write : Bool) (off : BitVec 12) (sstr sb : SReg) : Prop :=
  c.rf0.sBad sb = false ∧ (sstr.val = 0 ∨ c.rf0.sBad sstr = false) ∧
  vmCause c (vmBase c off sb) (vmStride c sstr) write = none

/-- The four bytes of a lane at their place in a line, as `vst` stores them (R245). -/
def vecByte (x : VecWord) (l j : Nat) : Byte := BitVec.ofNat 8 (x.toNat / 2 ^ (8 * (4 * l + j)))

/-- A lane of a store is written poisoned: it is poisoned, or the predicate is (R233). -/
def laneBad (c : Core) (pq : PredCtl) (vd : VReg) (l : Nat) : Bool := (c.rf0.vBad vd).getLsbD l || predBad c.rf0 pq

/-! ### The matrix slot -/

/-- A matrix instruction that enters a queue (R163, R250, R251): its core, whether it is legal, whether the queue is the drain
queue, the scalars whose poison faults it, and the entry with the register values it reads. -/
structure QueueForm where
  u : CoreRef
  legal : Bool
  toDrain : Bool
  srcs : List SReg
  cmd : Core → MxCmd

/-- An optional register as a list. -/
def regs? (x : Option SReg) : List SReg := x.toList

/-- The entries of the matrix instructions. -/
def queueForm (s : State) : Instr → Option QueueForm
  | .mtile u n sb sa fb fa => some ⟨u, mxPair fa fb, false, [sa, sb],
      fun c => .tile false false false fa fb (c.rf0.sGet sa).toNat (c.rf0.sGet sb).toNat n.toNat⟩
  | .mtileFirst u n sb sa fb fa => some ⟨u, mxPair fa fb, false, [sa, sb],
      fun c => .tile true false false fa fb (c.rf0.sGet sa).toNat (c.rf0.sGet sb).toNat n.toNat⟩
  | .mtileFirstSwap u n sb sa fb fa => some ⟨u, mxPair fa fb, false, [sa, sb],
      fun c => .tile true true false fa fb (c.rf0.sGet sa).toNat (c.rf0.sGet sb).toNat n.toNat⟩
  | .mtileX3 u n sb sa => some ⟨u, true, false, [sa, sb],
      fun c => .tile false false true .fp32 .fp32 (c.rf0.sGet sa).toNat (c.rf0.sGet sb).toNat n.toNat⟩
  | .mtileX3First u n sb sa => some ⟨u, true, false, [sa, sb],
      fun c => .tile true false true .fp32 .fp32 (c.rf0.sGet sa).toNat (c.rf0.sGet sb).toNat n.toNat⟩
  | .mtileX3FirstSwap u n sb sa => some ⟨u, true, false, [sa, sb],
      fun c => .tile true true true .fp32 .fp32 (c.rf0.sGet sa).toNat (c.rf0.sGet sb).toNat n.toNat⟩
  | .mswap u => some ⟨u, true, false, [], fun _ => .swap⟩
  | .mloadLf u ssrc => some ⟨u, true, false, [ssrc], fun c => .load false (c.rf0.sGet ssrc).toNat⟩
  | .mloadWlf u ssrc => some ⟨u, true, false, [ssrc], fun c => .load true (c.rf0.sGet ssrc).toNat⟩
  | .mdrain u srsum srmax smask causal vrow fn sdst sat fmt =>
    some ⟨u, true, true, regs? srsum ++ regs? srmax ++ regs? sdst,
      fun c => .drain fmt sat (sdst.map (fun i => getBits (c.rf0.sGet i) 0 24)) fn (c.rf0.vGet vrow)
        (rowsPoison c.rf0 vrow fn (causal && c.rf0.sBad smask)) (maskWord causal (c.rf0.sGet smask))
        (srmax.map (fun i => getBits (c.rf0.sGet i) 0 24)) (srsum.map (fun i => rsumWord (c.rf0.sGet i)))⟩
  | .mdrainLf u sdst => some ⟨u, true, true, [sdst], fun c => .drainLf false (getBits (c.rf0.sGet sdst) 0 24)⟩
  | .mdrainWlf u sdst => some ⟨u, true, true, [sdst], fun c => .drainLf true (getBits (c.rf0.sGet sdst) 0 24)⟩
  | .mchain u rsumEn causal vrow fn n1m1 nt sb first fc fb fa =>
    some ⟨u, decide (sb.val ≤ 58) && chainFmt fc && mxPair fa fb && !s.strictOf u, false,
      [regAfter sb 0, regAfter sb 1, regAfter sb 2, regAfter sb 3] ++ (if rsumEn then [regAfter sb 5] else []),
      fun c => .chain fa fb fc first (c.rf0.sGet (regAfter sb 0)).toNat (c.rf0.sGet (regAfter sb 1)).toNat
        (c.rf0.sGet (regAfter sb 2)).toNat (c.rf0.sGet (regAfter sb 3)).toNat nt.toNat (n1m1.toNat + 1) fn (c.rf0.vGet vrow)
        (rowsPoison c.rf0 vrow fn (causal && c.rf0.sBad (regAfter sb 4))) (maskWord causal (c.rf0.sGet (regAfter sb 4)))
        (if rsumEn then some (rsumWord (c.rf0.sGet (regAfter sb 5))) else none)⟩
  | _ => none

/-- A core with an entry at the end of a queue of its matrix engine, which has work from then on (R191). -/
def enqueued (c : Core) (toDrain : Bool) (e : MxEntry) : Core :=
  if toDrain then { c with mx := { c.mx with drainQ := c.mx.drainQ ++ [e], worked := true } }
  else { c with mx := { c.mx with arrayQ := c.mx.arrayQ ++ [e], worked := true } }

/-- The terms of a reduction taken into a register one by one, with their poison (R135, R136). -/
def reduce (l : LongForm) (ts : List (Term × Bool)) : LongForm := ts.foldl addTerm l

/-! ### The move slot -/

/-- A mover command that an instruction gives (R198, R199, R252): its core, mover, kind, the four scalars (source, destination,
control, signal) and the three slots. -/
structure MoveForm where
  u : CoreRef
  m : MoverIx
  kind : MovKind
  sSrc : SReg
  sDst : SReg
  sCtl : SReg
  sSig : SReg
  dsrc : DSlot
  ddst : DSlot
  cslot : DSlot

/-- The commands of the move slot. -/
def moveForm : Instr → Option MoveForm
  | .mxfer u sSig sCtl sDst sSrc ddst dsrc m => some ⟨u, m, .xfer, sSrc, sDst, sCtl, sSig, dsrc, ddst, 0⟩
  | .mscanCrest u fmt sSig sCtl sBase cslot dwalk m => some ⟨u, m, .crest fmt, sBase, 0, sCtl, sSig, dwalk, dwalk, cslot⟩
  | .mscanCmax u sSig sCtl sDst sSrc ddst dsrc m => some ⟨u, m, .cmax, sSrc, sDst, sCtl, sSig, dsrc, ddst, 0⟩
  | _ => none

/-- The command with the values that its instruction copies at issue (R199). -/
def MoveForm.cmd (f : MoveForm) (c : Core) : MovCmd :=
  { kind := f.kind, src := c.rf0.sGet f.sSrc, dst := c.rf0.sGet f.sDst, ctl := c.rf0.sGet f.sCtl, sig := c.rf0.sGet f.sSig,
    dsrc := f.dsrc, ddst := f.ddst, cslot := f.cslot, seq := c.movSeq, bundle := c.pc, ord := c.xferOrd }

/-- A core of which only a descriptor slot changed (R252). -/
def DescWritten (c c' : Core) (d : DSlot) (x : BitVec 512) : Prop :=
  c' = { c with rf := { c.rf with d := c'.rf.d } } ∧ ∀ e, c'.rf.dGet e = if e = d then x else c.rf.dGet e

/-- The commands of a mover that a test names. -/
def namedBy (p : MovCmd → Bool) (mv : Mover) : Nat := (mv.running.filter (fun r => p r.cmd)).length + (mv.queue.filter p).length

/-- The commands of some movers that a test names were squashed (R207): they are gone from the queue and the window, their mover squashes,
they are counted, and so are the tagged lines that they held (R223); every other mover and everything else of the core keeps. -/
def Squashed (c c' : Core) (p : MovCmd → Bool) (ms : List Nat) : Prop :=
  c' = { c with mov := c'.mov, movSquashed := c'.movSquashed, movUnconsumed := c'.movUnconsumed } ∧
  (∀ m, c'.mover m = if m ∈ ms ∧ 0 < namedBy p (c.mover m) then
      { queue := (c.mover m).queue.filter (fun q => !p q), running := (c.mover m).running.filter (fun r => !p r.cmd), squashing := true }
    else c.mover m) ∧
  c'.movSquashed = c.movSquashed + (ms.map (fun m => namedBy p (c.mover m))).sum ∧
  c'.movUnconsumed = c.movUnconsumed +
    (ms.map (fun m => (((c.mover m).running.filter (fun r => p r.cmd)).map MovRun.tagged).sum)).sum

/-- A command goes to another core or to another device, so that what it has gathered leaves with its squash (R207). -/
def leavesCore (r : MovRun) : Prop := r.peer ≠ none ∨ (r.cmd.kind = .xfer ∧ ctlDst r.cmd.ctl = 3)

/-- A unit of the walk of a run, read from the scratchpad (R205, R208). -/
def spadUnit (c : Core) (a n : Nat) : List WinByte :=
  (List.range n).map (fun i => { val := c.spadByte (a + i), bad := c.lineBad ((a + i) / 64), tag := none })

/-- A run with its next unit taken from the window, its block's gate open (R202, R203). -/
def unitTaken (r : MovRun) (ws : List (List WinByte)) (b : Nat) : MovRun :=
  { r with window := ws, written := r.written + 1, opened := max r.opened (b + 1), gated := false }

/-- The signals that go with a unit of a run (R201). -/
def sigsOf (c : Core) (u : CoreRef) (r : MovRun) : List PendSig :=
  (sigsAt r.cmd (c.dstWalk r.cmd).1 r.total r.written).map (fun g =>
    { pos := r.written, owner := u.logical, ctr := g.2.1, add := g.2.2, isDone := g.1 })

/-- The bytes of a unit as held for their crest group (R211). -/
def heldOf (pos a : Nat) (w : List WinByte) : List HeldByte :=
  (w.zip (List.range w.length)).map (fun b => { pos := pos, addr := a + b.2, val := b.1.val, bad := b.1.bad })

/-- The whole bytes of a held group, in address order (R211). -/
def groupBytes (r : MovRun) (rg : Nat × Nat) : List WinByte :=
  (List.range rg.2).map (fun i => match heldAt r.held (rg.1 + i) with
    | some h => { val := h.val, bad := h.bad, tag := none }
    | none => { val := 0#8, bad := false, tag := none })

/-- The slot clock of a pen has advanced by an unknown number of clk (R274; DESIGN CHOICE, log entry 3). -/
def SlotsPassed (s t : State) (pen : Nat) : Prop :=
  t = { s with fresh := s.fresh + 1, slotClk := t.slotClk } ∧
  SMap.find t.slotClk pen = some ((SMap.find s.slotClk pen).getD 0 + (Config.freeBits s.fresh).toNat % 2 ^ 32) ∧
  ∀ p, p ≠ pen → SMap.find t.slotClk p = SMap.find s.slotClk p

/-! ### Update units -/

/-- A microinstruction (R442, R443): its bay, its destination, and what it computes for element e of the block from the block's
registers. -/
def microForm : Instr → Option (Nat × UReg × (UnitS → Nat → Word32))
  | .uadd b rd ra rb => some (b.val, rd, fun x e => (fpAdd ⟨x.strict, .rne⟩ .fp32 (x.get e ra) (x.get e rb)).1)
  | .usub b rd ra rb => some (b.val, rd, fun x e => (fpSub ⟨x.strict, .rne⟩ .fp32 (x.get e ra) (x.get e rb)).1)
  | .umul b rd ra rb => some (b.val, rd, fun x e => (fpMul ⟨x.strict, .rne⟩ .fp32 (x.get e ra) (x.get e rb)).1)
  | .ufma b rd ra rb rc => some (b.val, rd, fun x e => (fpFma ⟨x.strict, .rne⟩ .fp32 (x.get e ra) (x.get e rb) (x.get e rc)).1)
  | .umin b rd ra rb => some (b.val, rd, fun x e => (fpMinMax false ⟨x.strict, .rne⟩ .fp32 (x.get e ra) (x.get e rb)).1)
  | .umax b rd ra rb => some (b.val, rd, fun x e => (fpMinMax true ⟨x.strict, .rne⟩ .fp32 (x.get e ra) (x.get e rb)).1)
  | .uabs b rd ra => some (b.val, rd, fun x e => x.get e ra &&& 0x7FFFFFFF#32)
  | .uneg b rd ra => some (b.val, rd, fun x e => x.get e ra ^^^ 0x80000000#32)
  | .ucopysign b rd ra rb => some (b.val, rd, fun x e => (x.get e ra &&& 0x7FFFFFFF#32) ||| (x.get e rb &&& 0x80000000#32))
  | .udiv b rd ra rb => some (b.val, rd, fun x e => (fpDiv ⟨x.strict, .rne⟩ (x.get e ra) (x.get e rb)).1)
  | .urecip b rd ra => some (b.val, rd, fun x e => (fpRecip ⟨x.strict, .rne⟩ (x.get e ra)).1)
  | .usqrt b rd ra => some (b.val, rd, fun x e => (fpSqrt ⟨x.strict, .rne⟩ .fp32 (x.get e ra)).1)
  | .ursqrt b rd ra => some (b.val, rd, fun x e => (fpRsqrt ⟨x.strict, .rne⟩ (x.get e ra)).1)
  | .uexp b rd ra => some (b.val, rd, fun x e => (fnEval ⟨x.strict, .rne⟩ .exp (x.get e ra)).1)
  | .uexp2 b rd ra => some (b.val, rd, fun x e => (fnEval ⟨x.strict, .rne⟩ .exp2 (x.get e ra)).1)
  | .ulog b rd ra => some (b.val, rd, fun x e => (fnEval ⟨x.strict, .rne⟩ .log (x.get e ra)).1)
  | .utanh b rd ra => some (b.val, rd, fun x e => (fnEval ⟨x.strict, .rne⟩ .tanh (x.get e ra)).1)
  | .usigmoid b rd ra => some (b.val, rd, fun x e => (fnEval ⟨x.strict, .rne⟩ .sigmoid (x.get e ra)).1)
  | .uerf b rd ra => some (b.val, rd, fun x e => (fnEval ⟨x.strict, .rne⟩ .erf (x.get e ra)).1)
  | .ugelu b rd ra => some (b.val, rd, fun x e => (fnEval ⟨x.strict, .rne⟩ .gelu (x.get e ra)).1)
  | .ult b rd ra rb => some (b.val, rd, fun x e => if flt (x.get e ra) (x.get e rb) then 0x3F800000#32 else 0#32)
  | .usel b rd ra rb rc =>
    some (b.val, rd, fun x e => if x.get e ra &&& 0x7FFFFFFF#32 = 0#32 then x.get e rc else x.get e rb)
  | .uldk b rd imm => some (b.val, rd, fun x _ => (x.consts.getD imm.toNat 0#64).setWidth 32)
  | .usign b rd ra => some (b.val, rd, fun x e => fsign (x.get e ra))
  | .ubsum b rd ra => some (b.val, rd, fun x _ => blockSum ((List.range x.count).map (fun e => x.get e ra)))
  | .ubmax b rd ra => some (b.val, rd, fun x _ => rowMax ((List.range x.count).map (fun e => x.get e ra)))
  | _ => none

/-! ### Links -/

/-- Of the ports only one changed, and beside it only registers and the event queues. -/
def LinkOnly (s t : State) (p : Nat) : Prop :=
  t = { s with ports := t.ports, regs := t.regs, evq := t.evq, evLost := t.evLost } ∧ ∀ q, q ≠ p → t.port q = s.port q

/-- A retrain of a port has begun (R352): its replay buffer and every queued message are kept, and it is counted. -/
def RetrainBegun (s t : State) (p : Nat) : Prop :=
  LinkOnly s t p ∧ t.portState p = portRetraining ∧ (t.port p).replay = (s.port p).replay ∧
  (t.port p).voteQ = (s.port p).voteQ ∧ (t.port p).ackQ = (s.port p).ackQ ∧ (t.port p).dataQ = (s.port p).dataQ ∧
  (t.port p).stream = (s.port p).stream ∧
  t.fld .xglPortStatus 32 16 p = min (s.fld .xglPortStatus 32 16 p + 1) (2 ^ 16 - 1)

/-- The link layer of a port as a training begins (R377): sequence numbers at zero, nothing to replay, no credits used; the queues
keep their messages. -/
def TrainingBegun (s t : State) (p : Nat) : Prop :=
  LinkOnly s t p ∧ t.portState p = portTraining ∧ (t.port p).training = true ∧ (t.port p).txSeq = 0 ∧ (t.port p).rxExpect = 0 ∧
  (t.port p).replay = [] ∧ (t.port p).poolUsed = 0 ∧ (t.port p).voteQ = (s.port p).voteQ ∧ (t.port p).ackQ = (s.port p).ackQ ∧
  (t.port p).dataQ = (s.port p).dataQ

/-- A training of a port has come to its end (R345, R377 to R379): the port, otherwise as given, keeps the lanes of both directions, its widths
follow from them, the partner is recorded, and the port is UP, or CHECKING where the error rate is measured. -/
def Trained (s t : State) (p : Nat) (x : XPort) (rx tx : BitVec 8) (i : LinkIdentity) : Prop :=
  LinkOnly s t p ∧ t.port p = { x with training := false, locked := none, txGood := tx, rxGood := rx } ∧
  t.widthNow p 0 = widthOf tx ∧ t.widthNow p 1 = widthOf rx ∧
  t.fld .xglPartner 0 16 p = i.devId.toNat ∧ t.fld .xglPartner 24 16 p = i.part.toNat ∧ t.reg .xglPartnerSn p = i.serial ∧
  t.portState p = (if s.fld .xglPolicy 12 4 = 0 then portUp else portChecking)

/-- The two CONTROL operations that end steps 2 and 3 of a training, three copies of each (R345, R350). -/
def reports (s : State) (p : Nat) (good : BitVec 8) (fseq : Nat) : List (Ctl × Nat) :=
  [(.lanes good (BitVec.ofNat 32 fseq), 3), (.identity (s.ownIdentity p), 3)]

/-- The head of a queue of a port takes the alternate route (R364): it has not yet, the port is not UP or has no credits for it, and its route
has the port as its primary and another as its alternate. -/
def mayGoRound (s : State) (p : Nat) (j : Job) (m : LinkMsg) : Prop :=
  m.alt = false ∧ (s.portState p ≠ portUp ∨ (s.port p).charge m = none) ∧ routePrimary (routeOf j m.dstDev.toNat) = p ∧
  routeAlt (routeOf j m.dstDev.toNat) < 12

/-- The receiving key of a sending device and its port, at a port. -/
def rxKeyAt (s : State) (p dev srcPort : Nat) : RxKey :=
  SMap.get (fun _ => {}) (s.jobD (s.penOfPort p)).rx (rxKeyIx dev srcPort)

/-! ### Commands of a ring -/

/-- A data command moves its next part (R627, R632): the whole rest, or the whole 4 KiB units that the round still gives its function in its
direction; nothing while the round goes on without it, and from a new round once that one is over. `f` gives what a part of a length does
and its status. -/
def MovesPart (s : State) (ring : Ring) (i : Nat) (c : Inflight) (instr : Instr) (op dir : Nat)
    (f : State → Nat → State × Nat) : Prop :=
  c.opcode = op →
    let rest := c.len - c.moved
    let none_ := rest ≠ 0 ∧ roundPart (s.bytesLeft c.fn dir) rest = 0
    let s0 : State := if none_ ∧ s.roundOver = true then { s with hifUsed := [] } else s
    let n := roundPart (s0.bytesLeft c.fn dir) rest
    let t := (f s0 n).1.noteBytes c.fn dir n
    (n = 0 → rest ≠ 0 → exec instr s = .next s0) ∧
    (¬ (n = 0 ∧ rest ≠ 0) →
      ((f s0 n).2 ≠ rsOk ∨ n = rest → exec instr s = .next (t.finishCmd ring.val i (f s0 n).2 [])) ∧
      ((f s0 n).2 = rsOk → n ≠ rest → exec instr s = .next (t.onRing ring.val (fun y => { y with
        inflight := y.inflight.set i { c with moved := c.moved + n } }))))

/-! ### Orders and requests -/

/-- An order of an opcode reaches the device and passes its checks (R591, R592, R645): the mailbox's record was checked as it was
fetched, one of another channel is checked as it arrives. -/
def Arrives (s : State) (o : OrderFrom) (op : Nat) (body : List Byte) : Prop :=
  match o with
  | .mailbox => ∃ w, s.order = some w ∧ w.opcode = op ∧ w.body = body ∧ s.locked = false
  | .network r => s.mgmtUp = true ∧ orderOp r = op ∧ s.orderRefusal netChannel r = none ∧ orderBody r = body
  | .smbus r => s.mgmtUp = true ∧ orderOp r = op ∧ s.orderRefusal rotChannel r = none ∧ orderBody r = body

/-- An SPDM request reaches the responder at a stage of its connection (R600). -/
def Reaches (s : State) (ep : SpdmEp) (stage : Nat) : Prop := s.epUp ep = true ∧ stage ≤ (s.conn ep).stage

/-- The orders of the authority (R593): how each comes and its code. -/
def orderForm : Instr → Option (OrderFrom × Nat)
  | .loadDeviceSection o => some (o, 1)
  | .ringAllocation o => some (o, 2)
  | .setAuthority o => some (o, 3)
  | .takeOwnership o => some (o, 4)
  | .releaseOwnership o => some (o, 5)
  | .fwWrite o => some (o, 6)
  | .fwActivate o => some (o, 7)
  | .fwCommit o => some (o, 8)
  | .mgmtRestart o => some (o, 9)
  | .writePolicy o => some (o, 10)
  | .clearLedgerEntry o => some (o, 11)
  | .clearBayAct o => some (o, 12)
  | .clearTamperLog o => some (o, 13)
  | .authFtpLoad o => some (o, 14)
  | _ => none

end Sys2Proof.Claims
end

