-- ==== Sys2Proof/Certificates/Slice0/Obligations.lean ====
section
/-!
DEFINITION. The statements about the model, for the provers.
-/

open Sys2Proof Sys2Proof.Machine Sys2Proof.Claims

/-! ### The block -/

/-- The block's queue: for every command c and state s, a step of s with c at the front of its queue is exec of c on s with
the queue's rest. -/
def Obligations.StepRunsTheFrontCommand : Prop :=
  ∀ (c : Instr) (rest : List Instr) (s : State),
    step { s with pending := c :: rest } = exec c { s with pending := rest }

/-- No command is refused, and only a memory access to a line beyond the stack faults (R301). -/
def Obligations.OnlyMissingLinesStop : Prop :=
  ∀ (i : Instr) (s : State),
    (∃ t, exec i s = .next t) ∨
    (exec i s = .fault .noSuchLine ∧
      ((∃ b line ecc, i = .memRead b line ecc ∧ stackLines ≤ line) ∨
       (∃ b line off data p ecc, i = .memWrite b line off data p ecc ∧ stackLines ≤ line)))

/-- With an empty queue the block idles (the model's choice, DESIGN CHOICE, log entry 5). A command changes everything but the
queue: what waits behind it is what waited. -/
def Obligations.QueueIsFirstInFirstOut : Prop :=
  (∀ s : State, s.pending = [] → step s = .next s) ∧
  (∀ (i : Instr) (s t : State), exec i s = .next t → t.pending = s.pending)

/-- Every step keeps the canonical form of the memories and registers. -/
def Obligations.EveryStepKeepsCanonicalForm : Prop :=
  ∀ s t : State, Memory.wf s = true → step s = .next t → Memory.wf t = true
/-- The issue of an instruction (R228, R229, R235): it issues when its job's units run (R214), the turn is its context's (R61), its core
runs, it meets its interlock conditions, and, as the first of its bundle, the other slots of the bundle meet theirs. An instruction of a
core that may not issue at all changes nothing, and so does one while another slot holds the bundle. One that is not ready leaves
everything as it was, but for the record that its slot holds the bundle. -/
def Obligations.BundlesIssueAsUnits : Prop :=
  ∀ (i : Instr) (s : State) (u : CoreRef) (slot : Nat), slotOf i = some (u, slot) →
    let c := s.core (refKey u)
    (∀ j, s.job u.pen = some j → j.stopped = none → s.diesStopped = false → j.fenceHold = false → turnAllows j u.logical = true →
      (c.run = .running ∨ (c.run = .ending ∧ c.slot < slot)) → (c.held = none ∨ c.held = some slot) →
      (found s u slot).interlocked i = false → (c.slot < slot ∨ s.bundleHeld u (found s u slot) slot = false) → Issues i s u slot) ∧
    (s.canIssue u slot = false → exec i s = .next s) ∧
    ((∃ k, c.held = some k ∧ k ≠ slot) → exec i s = .next s) ∧
    (s.canIssue u slot = true → s.ready i u slot = false →
      exec i s = .next s ∨ exec i s = .next (s.setCore (refKey u) { c with held := some slot }))

/-- The scalar arithmetic instructions write their result of R239 to rd, poisoned when a source is (R233), and change nothing
else; s0 discards the write (R230). -/
def Obligations.ScalarArithmeticWritesItsResult : Prop :=
  ∀ (i : Instr) (s : State) (u : CoreRef) (rd : SReg) (f : RegFile → Word64) (srcs : List SReg),
    scalarForm i = some (u, rd, f, srcs) → Issues i s u 0 → rd.val < 48 →
    ∃ c', exec i s = .next (s.setCore (refKey u) c') ∧
      ScalarWritten (found s u 0) c' rd (f (found s u 0).rf0) (srcs.any (found s u 0).rf0.sBad)

/-- A scalar load writes the bytes at ra + sext(imm), zero-extended, to rd, poisoned when their line is (R233, R239), and changes nothing
else; a deferred tag in the line faults instead (R206). A scalar store writes the low bytes of rd at ra + sext(imm); the line is poisoned
when rd is; every other byte of the scratchpad, every register and everything else keeps. Both need an address that is not poisoned,
aligned, and in a region that grants the access. -/
def Obligations.ScalarLoadsAndStores : Prop :=
  (∀ (i : Instr) (s : State) (u : CoreRef) (rd ra : SReg) (imm : BitVec 32) (n : Nat),
     loadForm i = some (u, rd, ra, imm, n) → Issues i s u 0 → rd.val < 48 →
     let c := found s u 0
     let a := scalarAddr c ra imm
     c.rf0.sBad ra = false → a % n = 0 → c.spadOk a n false = true →
     (c.lineTag (a / 64) = none →
       ∃ c', exec i s = .next (s.setCore (refKey u) c') ∧
         ScalarWritten c c' rd (BitVec.ofNat 64 (leNum (c.spadRead a n))) (c.lineBad (a / 64))) ∧
     (∀ t, c.lineTag (a / 64) = some t → exec i s = .next (s.faultTag u c 0 t))) ∧
  (∀ (i : Instr) (s : State) (u : CoreRef) (rd ra : SReg) (imm : BitVec 32) (n : Nat),
     storeForm i = some (u, rd, ra, imm, n) → Issues i s u 0 →
     let c := found s u 0
     let a := scalarAddr c ra imm
     c.rf0.sBad ra = false → a % n = 0 → c.spadOk a n true = true →
     ∃ c', exec i s = .next (s.setCore (refKey u) c') ∧ LineStored c c' a (le n (c.rf0.sGet rd).toNat) (c.rf0.sBad rd))

/-- A scalar access out of alignment faults the core with SPAD_ALIGN, an aligned one outside every region that grants it with
SPAD_BOUNDS (R239), and one whose base is poisoned with the poison cause (R233); the scratchpad is not touched. A program fault
(R266, R267) writes CORE_FAULT_LAST with cause, logical core, bundle, slot and valid, posts PROGRAM_FAULT with logical core,
bundle, slot and cause to the pen and to PF0, and then ends the job as R515 says. -/
def Obligations.ScalarFaultsAreRecorded : Prop :=
  (∀ (i : Instr) (s : State) (u : CoreRef) (rd ra : SReg) (imm : BitVec 32) (n : Nat) (isStore : Bool),
     (if isStore then storeForm i = some (u, rd, ra, imm, n) else loadForm i = some (u, rd, ra, imm, n) ∧ rd.val < 48) →
     Issues i s u 0 →
     let c := found s u 0
     let a := scalarAddr c ra imm
     (c.rf0.sBad ra = true → exec i s = .next (s.faultAt u c 0 11)) ∧
     (c.rf0.sBad ra = false → a % n ≠ 0 → exec i s = .next (s.faultAt u c 0 9)) ∧
     (c.rf0.sBad ra = false → a % n = 0 → c.spadOk a n isStore = false → exec i s = .next (s.faultAt u c 0 8))) ∧
  (∀ (s : State) (u : CoreRef) (c : Core) (slot cause : Nat),
     cause < 256 → u.logical < 256 → c.pc < 2 ^ 14 → slot < 4 →
     ∃ w : Word64, getBits w 0 8 = cause ∧ getBits w 8 8 = u.logical ∧ getBits w 16 14 = c.pc ∧ getBits w 30 2 = slot ∧
       getBits w 63 1 = 1 ∧
       s.faultAt u c slot cause = ((s.setReg .coreFaultLast w (u.pen - 1)).postBoth u.pen 322
         ((s.setReg .coreFaultLast w (u.pen - 1)).stepOf u.pen) [ef u.logical, ef c.pc, ef slot, ef cause]).terminal u.pen 322
         [ef u.logical, ef c.pc, ef slot, ef cause])

/-- nop, br and bc (R239): a nop changes no register; a branch taken makes its target the next bundle, one not taken leaves the bundle
that follows. lbeg (R240): with a valid L1 descriptor the loop starts at iteration 0 with sd ← sb + walk_offset(0); with no
position the body is skipped; a descriptor that fails its check faults the core with LOOP_DESC_INVALID. end (R265) ends the
program and discards the loop state (R240). -/
def Obligations.ControlFlowOfABundle : Prop :=
  (∀ (s : State) (u : CoreRef) (target : BitVec 32) (k : BrCond) (ra rb : SReg),
     let c := found s u 0
     (Issues (.nop u) s u 0 → exec (.nop u) s = .next (s.setCore (refKey u) c)) ∧
     (Issues (.endProg u) s u 0 → exec (.endProg u) s = .next (s.setCore (refKey u) { c with run := .ending, loops := [] })) ∧
     (Issues (.br u target) s u 0 → exec (.br u target) s = .next (s.setCore (refKey u) { c with npc := target.toNat })) ∧
     (Issues (.bc u k ra rb target) s u 0 → c.rf0.sBad ra = false → c.rf0.sBad rb = false →
       (condOf k (c.rf0.sGet ra) (c.rf0.sGet rb) →
         exec (.bc u k ra rb target) s = .next (s.setCore (refKey u) { c with npc := target.toNat })) ∧
       (¬ condOf k (c.rf0.sGet ra) (c.rf0.sGet rb) → exec (.bc u k ra rb target) s = .next (s.setCore (refKey u) c)))) ∧
  (∀ (s : State) (u : CoreRef) (d : DSlot) (sd sb : SReg) (len : BitVec 16),
     Issues (.lbeg u d sd sb len) s u 0 → 0 < len.toNat → sd.val < 48 →
     let c := found s u 0
     let x := descOf (c.rf0.dGet d)
     c.rf0.sBad sb = false →
     (descCause (c.rf0.dGet d) = none → x.tier = 1 → 0 < x.total →
       ∃ c', exec (.lbeg u d sd sb len) s = .next (s.setCore (refKey u) c') ∧
         c'.loops = { body := c.pc + 1, len := len.toNat, desc := c.rf0.dGet d, base := c.rf0.sGet sb, sd := sd, iter := 0,
                      total := x.total } :: c.loops ∧
         ScalarWritten { c with loops := c'.loops } c' sd (c.rf0.sGet sb + BitVec.ofInt 64 (walkOffset x 0)) false) ∧
     (descCause (c.rf0.dGet d) = none → x.tier = 1 → x.total = 0 →
       exec (.lbeg u d sd sb len) s = .next (s.setCore (refKey u) { c with npc := c.pc + 1 + len.toNat })) ∧
     (descCause (c.rf0.dGet d) ≠ none ∨ x.tier ≠ 1 → exec (.lbeg u d sd sb len) s = .next (s.faultAt u c 0 10)))

/-- sig.add (R241): to the core itself the counter changes at once, by imm modulo 2^32, and nothing else does; to another core a packet
with the signal joins the network; a target that is no logical core of the job, or a counter not granted to it, faults the issuing core
with SIG_TARGET. wait.ge and wait.eq (R242): with the condition met the bundle issues, else it is held; sync.fence likewise under the
conditions of a fence (R290). A held wait goes on when its condition holds, a held fence when its conditions do, and the other slots of
its bundle are not held. On a counter that is not the vote gate's nothing but the core changes. -/
def Obligations.SignalsWaitsAndFences : Prop :=
  (∀ (s : State) (u : CoreRef) (self : Bool) (ctr : BitVec 8) (rt : SReg) (imm : BitVec 32),
     Issues (.sigAdd u self ctr rt imm) s u 0 →
     let c := found s u 0
     let t := if self then u.logical else (c.rf0.sGet rt).toNat
     (self = true ∨ c.rf0.sBad rt = false) →
     (targetOk (s.jobD u.pen) t = true → s.granted u.pen t ctr.toNat = true →
       (t = u.logical →
         ∃ c', exec (.sigAdd u self ctr rt imm) s = .next (s.setCore (refKey u) c') ∧ c' = { c with ctr := c'.ctr } ∧
           ∀ k, c'.counter k = if k = ctr.toNat then c.counter k + imm else c.counter k) ∧
       (t ≠ u.logical →
         exec (.sigAdd u self ctr rt imm) s = .next { s.setCore (refKey u) c with packets := s.packets ++
           [{ pen := u.pen, src := u.logical, dst := t, body := .signal, sig := some (ctr.toNat, imm), injected := false }] })) ∧
     (targetOk (s.jobD u.pen) t = false ∨ s.granted u.pen t ctr.toNat = false →
       exec (.sigAdd u self ctr rt imm) s = .next (s.faultAt u c 0 12))) ∧
  (∀ (s : State) (u : CoreRef) (ctr : BitVec 8) (ra : SReg) (imm : BitVec 32),
     ctr.toNat ≠ (s.jobD u.pen).plan.gateCtr →
     let c := found s u 0
     let val := (c.rf0.sGet ra).toNat + imm.toNat
     let r := s.core (refKey u)
     (Issues (.waitGe u ctr ra imm) s u 0 → c.rf0.sBad ra = false →
       exec (.waitGe u ctr ra imm) s = .next (s.setCore (refKey u)
         (if val % 2 ^ 32 ≤ (c.counter ctr.toNat).toNat then c
          else { c with run := .waiting ctr.toNat false (BitVec.ofNat 32 val), waited := true }))) ∧
     (Issues (.waitEq u ctr ra imm) s u 0 → c.rf0.sBad ra = false →
       exec (.waitEq u ctr ra imm) s = .next (s.setCore (refKey u)
         (if val % 2 ^ 32 = (c.counter ctr.toNat).toNat then c
          else { c with run := .waiting ctr.toNat true (BitVec.ofNat 32 val), waited := true }))) ∧
     (Issues (.syncFence u) s u 0 →
       exec (.syncFence u) s = .next (s.setCore (refKey u) (if s.fenceHolds u then c else { c with run := .fencing, waited := true }))) ∧
     (s.unitsRun u.pen = true → turnAllows (s.jobD u.pen) u.logical = true → s.bundleHeld u r 0 = false →
       (∀ v isEq, r.run = .waiting ctr.toNat isEq v →
         (if isEq then r.counter ctr.toNat = v else v.toNat ≤ (r.counter ctr.toNat).toNat) →
         exec (.waitRelease u) s = .next (s.setCore (refKey u) { r with run := .running })) ∧
       (r.run = .fencing → s.fenceHolds u = true →
         exec (.fenceRelease u) s = .next (s.setCore (refKey u) { r with run := .running }))))

/-- Control registers (R239, R259 to R262): csrr writes the register's value to rd; for the registers that count clk of the sequencer and
the movers the counts grow by an unknown time first (log entry 3). csrw changes no field, since none is RW; csrc clears the W1C bits of
CORE_FLAGS and CORE_MX_STATUS that are 1 in ra. A core whose outstanding work is complete after `end` has ended (R265), and with the last
core of the job CORE_PEN_PROG.state says so (R267). -/
def Obligations.ControlRegisterAccess : Prop :=
  ∀ (s : State) (u : CoreRef) (rd ra : SReg) (csr : BitVec 12),
    let c := found s u 0
    let r := s.core (refKey u)
    (Issues (.csrr u rd csr) s u 0 → csrKnown csr.toNat = true → rd.val < 48 →
      (csrIsTime csr.toNat = false →
        ∃ c', exec (.csrr u rd csr) s = .next (s.setCore (refKey u) c') ∧ ScalarWritten c c' rd (csrValue s u c csr.toNat) false) ∧
      (csrIsTime csr.toNat = true →
        let c1 := c.withClk (Config.freeBits s.fresh) csr.toNat
        c1 = { c with seqStall := c1.seqStall, seqWait := c1.seqWait, movStall := c1.movStall } ∧
        ∃ c', exec (.csrr u rd csr) s = .next ({ s with fresh := s.fresh + 1 }.setCore (refKey u) c') ∧
          ScalarWritten c1 c' rd (csrValue s u c1 csr.toNat) false)) ∧
    (Issues (.csrw u ra csr) s u 0 → csrKnown csr.toNat = true → c.rf0.sBad ra = false →
      exec (.csrw u ra csr) s = .next (s.setCore (refKey u) c)) ∧
    (Issues (.csrc u ra csr) s u 0 → c.rf0.sBad ra = false →
      (csr.toNat = 2 →
        exec (.csrc u ra csr) s = .next (s.setCore (refKey u) { c with flags := c.flags &&& ~~~((c.rf0.sGet ra).setWidth 5) })) ∧
      (csr.toNat = 0x100 →
        exec (.csrc u ra csr) s = .next (s.setCore (refKey u) { c with mx := { c.mx with
          flagsOr := c.mx.flagsOr &&& ~~~(((c.rf0.sGet ra) >>> 8).setWidth 8),
          rerunSticky := c.mx.rerunSticky && !(c.rf0.sGet ra).getLsbD 16 } }))) ∧
    (s.unitsRun u.pen = true → r.run = .ending → r.moversIdle = true → r.mxIdle = true →
      let t := s.setCore (refKey u) { r with run := .ended }
      exec (.coreEnded u) s = .next (if t.allEnded u.pen = true then t.setFld .corePenProg 0 2 3 (u.pen - 1) else t))

/-! ### The vector slot -/

/-- The elementwise vector instructions, when their options are legal, give each active element its result, keep the others, and
raise the active elements' flags under Strict arithmetic. -/
def Obligations.ElementwiseResults : Prop :=
  ∀ (i : Instr) (s : State) (e : ElemForm), elemForm s i = some e → e.legal = true → Issues i s e.u 2 →
    let c := found s e.u 2
    ∃ c', exec i s = .next (s.setCore (refKey e.u) c') ∧
      VectorWritten c c' e.fmt e.pq e.vd (fun k => (e.op (e.at_ c k)).1) (fun l => e.srcs.any (fun v => (c.rf0.vBad v).getLsbD l)) ∧
      FlagsRaised c c' e.pq e.fmt (fun k => (e.op (e.at_ c k)).2)

/-- vcmp and the predicate instructions write their bits under their predicate (R232, R246); vcmp raises the flags of its active lanes
under Strict arithmetic, a predicate instruction none. -/
def Obligations.PredicateResults : Prop :=
  (∀ (i : Instr) (s : State) (u : CoreRef) (pq : PredCtl) (pd : PReg) (f : RegFile → Nat → Bool) (bad : RegFile → Bool),
    predForm i = some (u, pq, pd, f, bad) → Issues i s u 2 →
    let c := found s u 2
    ∃ c', exec i s = .next (s.setCore (refKey u) c') ∧ PredWritten c c' pq pd (f c.rf0) (bad c.rf0) ∧ c'.flags = c.flags) ∧
  (∀ (s : State) (u : CoreRef) (f : Fmt) (k : VCond) (pq : PredCtl) (pd : PReg) (va vb : VReg),
    f = .fp32 ∨ f = .int32 → Issues (.vcmp u f k pq pd va vb) s u 2 →
    let c := found s u 2
    let at_ (l : Nat) := cmpLane f k (elemGet f (c.rf0.vGet va) l) (elemGet f (c.rf0.vGet vb) l)
    ∃ c', exec (.vcmp u f k pq pd va vb) s = .next (s.setCore (refKey u) c') ∧
      PredWritten c c' pq pd (fun l => (at_ l).1)
        ((List.range 128).any (fun l => (activeLanes c.rf0 pq).getLsbD l && ((c.rf0.vBad va).getLsbD l || (c.rf0.vBad vb).getLsbD l))) ∧
      FlagsRaised c c' pq f (fun l => (at_ l).2))

/-- vmov, vbcast and vrot write lanes of a vector register; vsel takes each lane from one of two; vext and vcrest write a
scalar register (R244, R103). vcvt (R247): the elements of the named part take the converted value, every other element keeps; their
poison is that of their sources, and of the draw's registers with SR; under Strict arithmetic the active ones raise their flags. -/
def Obligations.MovesExtractsAndConversions : Prop :=
  (∀ (s : State) (u : CoreRef) (f : Fmt) (pq : PredCtl) (p : PReg) (vd va vb : VReg) (sd sx : SReg),
     let c := found s u 2
     (Issues (.vmov u f pq vd va) s u 2 → ∃ c', exec (.vmov u f pq vd va) s = .next (s.setCore (refKey u) c') ∧ c'.flags = c.flags ∧
       VectorWritten c c' .int32 pq vd (fun l => elemGet .int32 (c.rf0.vGet va) l) (fun l => (c.rf0.vBad va).getLsbD l)) ∧
     (Issues (.vbcast u f pq vd sx) s u 2 →
       ∃ c', exec (.vbcast u f pq vd sx) s = .next (s.setCore (refKey u) c') ∧ c'.flags = c.flags ∧
       VectorWritten c c' f pq vd (fun _ => (c.rf0.sGet sx).setWidth 32) (fun _ => c.rf0.sBad sx)) ∧
     (Issues (.vrot u pq vd va sx) s u 2 → ∃ c', exec (.vrot u pq vd va sx) s = .next (s.setCore (refKey u) c') ∧ c'.flags = c.flags ∧
       VectorWritten c c' .int32 pq vd (fun l => elemGet .int32 (c.rf0.vGet va) ((l + (c.rf0.sGet sx).toNat) % 128))
         (fun l => (c.rf0.vBad va).getLsbD ((l + (c.rf0.sGet sx).toNat) % 128) || c.rf0.sBad sx)) ∧
     (Issues (.vsel u f p vd va vb) s u 2 → ∃ c', exec (.vsel u f p vd va vb) s = .next (s.setCore (refKey u) c') ∧
       (∀ l, l < 128 →
         let v := if (c.rf0.pGet p).getLsbD l then va else vb
         elemGet .int32 (c'.rf.vGet vd) l = elemGet .int32 (c.rf0.vGet v) l ∧
         (c'.rf.vBad vd).getLsbD l = (c.rf0.pBad p || (c.rf0.vBad v).getLsbD l)) ∧
       c' = { c with rf := { c.rf with v := c'.rf.v, vPoison := c'.rf.vPoison } } ∧
       ∀ v, v ≠ vd → c'.rf.vGet v = c.rf.vGet v ∧ c'.rf.vBad v = c.rf.vBad v) ∧
     (Issues (.vext u f pq sd va sx) s u 2 → sd.val < 48 → ∃ c', exec (.vext u f pq sd va sx) s = .next (s.setCore (refKey u) c') ∧
       ScalarWritten c c' sd ((elemGet f (c.rf0.vGet va) ((c.rf0.sGet sx).toNat % fmtElems f)).setWidth 64)
         ((c.rf0.vBad va).getLsbD (laneOf f ((c.rf0.sGet sx).toNat % fmtElems f)) || c.rf0.sBad sx || predBad c.rf0 pq)) ∧
     (Issues (.vcrest u f pq sd va) s u 2 → sd.val < 48 → ∃ c' x, exec (.vcrest u f pq sd va) s = .next (s.setCore (refKey u) c') ∧
       ScalarWritten c c' sd x (decide (c.rf0.vBad va ≠ 0#128) || predBad c.rf0 pq) ∧ x.toNat < 256 ^ (fmtElems f / 64) ∧
       ∀ g, g < fmtElems f / 64 → x.toNat / 256 ^ g % 256 =
         crestGroup f ((List.range 64).map (fun j => elemGet f (c.rf0.vGet va) (64 * g + j))))) ∧
  (∀ (s : State) (u : CoreRef) (d f : Fmt) (rm : Rm) (sat : Bool) (part : BitVec 2) (use : BitVec 16) (six sst : SReg)
     (pq : PredCtl) (vd va : VReg),
     cvtOk (s.strictOf u) d f rm part use six sst = true → Issues (.vcvt u d f rm sat part use six sst pq vd va) s u 2 →
     let c := found s u 2
     let n := min (fmtElems d) (fmtElems f)
     let so := if n < fmtElems f then part.toNat * n else 0
     let d0 := if n < fmtElems d then part.toNat * n else 0
     let draw (j : Nat) : Nat := if rm = .sr then
       drawU (s.seedNow u.pen) ((c.rf0.sGet sst).setWidth 32) (s.stepOf u.pen) (((c.rf0.sGet six).toNat + j) % 2 ^ 64) use.toNat else 0
     let at_ (j : Nat) := convert ⟨c.cfg.strict, rm⟩ d f sat (draw j) (elemGet f (c.rf0.vGet va) (so + j))
     let drawBad := decide (rm = .sr) && (c.rf0.sBad six || c.rf0.sBad sst)
     ∃ c', exec (.vcvt u d f rm sat part use six sst pq vd va) s = .next (s.setCore (refKey u) c') ∧
       c' = { c with flags := c'.flags, rf := { c.rf with v := c'.rf.v, vPoison := c'.rf.vPoison } } ∧
       (∀ i, i < fmtElems d → elemGet d (c'.rf.vGet vd) i =
         if activeAt c pq d i = true ∧ d0 ≤ i ∧ i < d0 + n then BitVec.ofNat 32 ((at_ (i - d0)).1.toNat % 2 ^ fmtBits d)
         else elemGet d (c.rf.vGet vd) i) ∧
       (∀ l, l < 128 → (c'.rf.vBad vd).getLsbD l = (predBad c.rf0 pq ||
         (if (activeLanes c.rf0 pq).getLsbD l = true ∧ ∃ j, j < n ∧ laneOf d (d0 + j) = l then
            (List.range n).any (fun j => decide (laneOf d (d0 + j) = l) && ((c.rf0.vBad va).getLsbD (laneOf f (so + j)) || drawBad))
          else (c.rf.vBad vd).getLsbD l))) ∧
       (∀ b, b < 5 → c'.flags.getLsbD b = (c.flags.getLsbD b || (c.cfg.strict && (List.range n).any (fun j =>
         activeAt c pq d (d0 + j) && (at_ j).2.getLsbD b)))) ∧
       ∀ v, v ≠ vd → c'.rf.vGet v = c.rf.vGet v ∧ c'.rf.vBad v = c.rf.vBad v)

/-! ### Vector memory and reductions -/

/-- vld (R245) takes 16 lanes from each of its eight lines, little-endian, under its predicate; a lane is poisoned when its
line is; a deferred tag faults with MOV_DEFERRED (R206). vst (R245) stores the four bytes of every active lane at its place in the eight
lines, and at stride 0 those of the last active lane for each place; every other byte, the poison and the tag of every other line, and
everything else but the count of tags lost, keep. With a stride that is not 0, a line stored whole takes the poison of its lanes and
loses its tag; a line stored in part is also poisoned when it was, and keeps its tag. -/
def Obligations.VectorLoadsAndStores : Prop :=
  (∀ (s : State) (u : CoreRef) (off : BitVec 12) (sstr sb : SReg) (pq : PredCtl) (vd : VReg),
     Issues (.vld u off sstr sb pq vd) s u 2 →
     let c := found s u 2
     let line := vecLine c off sstr sb
     VecAccess c false off sstr sb →
     ((∀ i, i < 8 → c.lineTag (line i / 64) = none) →
       ∃ c', exec (.vld u off sstr sb pq vd) s = .next (s.setCore (refKey u) c') ∧ c'.flags = c.flags ∧
         VectorWritten c c' .int32 pq vd (fun l => BitVec.ofNat 32 (leNum (c.spadRead (line (l / 16) + 4 * (l % 16)) 4)))
           (fun l => c.lineBad (line (l / 16) / 64))) ∧
     (∀ i t, i < 8 → c.lineTag (line i / 64) = some t → (∀ k, k < i → c.lineTag (line k / 64) = none) →
       exec (.vld u off sstr sb pq vd) s = .next (s.faultTag u c 2 t))) ∧
  (∀ (s : State) (u : CoreRef) (off : BitVec 12) (sstr sb : SReg) (pq : PredCtl) (vd : VReg),
     Issues (.vst u off sstr sb pq vd) s u 2 →
     let c := found s u 2
     let line := vecLine c off sstr sb
     let act (l : Nat) : Bool := (activeLanes c.rf0 pq).getLsbD l
     let whole (i : Nat) : Bool := (List.range 16).all (fun q => act (16 * i + q))
     VecAccess c true off sstr sb →
     ∃ c', exec (.vst u off sstr sb pq vd) s = .next (s.setCore (refKey u) c') ∧ SpadOnly c c' ∧
       (∀ x, (∀ i, i < 8 → x < line i ∨ line i + 64 ≤ x) → c'.spadByte x = c.spadByte x) ∧
       (∀ k, (∀ i, i < 8 → line i / 64 ≠ k) → c'.lineBad k = c.lineBad k ∧ c'.lineTag k = c.lineTag k) ∧
       (vmStride c sstr ≠ 0 →
         (∀ l j, l < 128 → j < 4 → c'.spadByte (line (l / 16) + 4 * (l % 16) + j) =
           if act l then vecByte (c.rf0.vGet vd) l j else c.spadByte (line (l / 16) + 4 * (l % 16) + j)) ∧
         (∀ i, i < 8 → c'.lineBad (line i / 64) =
           ((List.range 16).any (fun q => act (16 * i + q) && laneBad c pq vd (16 * i + q)) || (!whole i && c.lineBad (line i / 64)))) ∧
         (∀ i, i < 8 → c'.lineTag (line i / 64) = if whole i then none else c.lineTag (line i / 64)) ∧
         c'.movUnconsumed = c.movUnconsumed +
           ((List.range 8).filter (fun i => whole i && (c.lineTag (line i / 64)).isSome)).length) ∧
       (vmStride c sstr = 0 → ∀ q j, q < 16 → j < 4 → c'.spadByte (line 0 + 4 * q + j) =
         match (List.range 8).reverse.find? (fun i => act (16 * i + q)) with
         | some i => vecByte (c.rf0.vGet vd) (16 * i + q) j
         | none => c.spadByte (line 0 + 4 * q + j)))

/-- vred (R248) writes one long form per segment at the address, each combined with what stood there unless `init` is given, and checked as
an A64 value where the anchors are block anchors (R151); every other byte of the scratchpad keeps, and so does everything else but the
overflow bit of the step's status word, which is set when one overflowed (R138). vlf.comb combines arrays of long forms element by
element, in order (R249), with the same frame; where the target shares no line with a source, every element is the combination of what
the sources held. vlf.drain writes each long form drained to its element and raises its flags under Strict arithmetic (R140, R141, R143,
R145). -/
def Obligations.ReductionsAndLongForms : Prop :=
  (∀ (s : State) (u : CoreRef) (init : Bool) (pq : PredCtl) (sspec saddr : SReg) (vcr vb va : VReg) (seg : Nat) (form : Form)
     (fmt : Fmt),
     vredOk sspec seg fmt = true → Issues (.vred u init pq sspec saddr vcr vb va seg form fmt) s u 2 →
     let c := found s u 2
     let strict := c.cfg.strict
     let size := if strict then 140 else 20
     let a := (c.rf0.sGet saddr).toNat
     let sp := ancSpecFields (c.rf0.sGet sspec)
     let seg1 (i : Nat) : WideForm := segForm c strict sp form fmt pq va vb vcr (2 ^ seg) i
     let one (i : Nat) : WideForm :=
       let w := if strict then seg1 i else (seg1 i).take 1
       let w := if init then w else WideForm.combine (c.readLf strict (a + size * i)) w
       if sp.src = .block then WideForm.asA64 w else w
     c.rf0.sBad saddr = false → a % 4 = 0 → c.spadOk a (2 ^ seg * size) true = true →
     (init = true ∨ (c.spadOk a (2 ^ seg * size) false = true ∧ c.rangeTag a (2 ^ seg * size) = none)) →
     (strict = false ∨ ∀ i, i < 2 ^ seg → segRange c sp vcr (2 ^ seg) i = false) →
     ∃ c', exec (.vred u init pq sspec saddr vcr vb va seg form fmt) s =
         .next ((s.setCore (refKey u) c').overflowIf u.pen ((List.range (2 ^ seg)).any (fun i => lfOverflow (one i)))) ∧
       c' = (List.range (2 ^ seg)).foldl (fun c i => c.writeLf (a + size * i) (one i)) c ∧ SpadOnly c c' ∧
       (∀ i, i < 2 ^ seg → c'.spadRead (a + size * i) size = WideForm.bytes (WideForm.leave (one i))) ∧
       ∀ x, x < a ∨ a + 2 ^ seg * size ≤ x → c'.spadByte x = c.spadByte x) ∧
  (∀ (s : State) (u : CoreRef) (n : BitVec 16) (sb sa sd : SReg) (wide : Bool),
     Issues (.vlfComb u n sb sa sd wide) s u 2 →
     let c := found s u 2
     let a := (c.rf0.sGet sa).toNat
     let b := (c.rf0.sGet sb).toNat
     let d := (c.rf0.sGet sd).toNat
     let z := if wide then 140 else 20
     let len := n.toNat * z
     let one (x : Core) (i : Nat) : WideForm := WideForm.combine (x.readLf wide (a + z * i)) (x.readLf wide (b + z * i))
     c.rf0.sBad sa = false → c.rf0.sBad sb = false → c.rf0.sBad sd = false →
     (n = 0#16 → exec (.vlfComb u n sb sa sd wide) s = .next (s.setCore (refKey u) c)) ∧
     (0 < n.toNat → a % 4 = 0 → b % 4 = 0 → d % 4 = 0 → c.spadOk a len false = true → c.spadOk b len false = true →
       c.spadOk d len true = true → c.rangeTag a len = none → c.rangeTag b len = none →
       let r := (List.range n.toNat).foldl (fun x i => (x.1.writeLf (d + z * i) (one x.1 i), x.2 || lfOverflow (one x.1 i))) (c, false)
       exec (.vlfComb u n sb sa sd wide) s = .next ((s.setCore (refKey u) r.1).overflowIf u.pen r.2) ∧ SpadOnly c r.1 ∧
       (∀ x, x < d ∨ d + len ≤ x → r.1.spadByte x = c.spadByte x) ∧
       (linesMeet a len d len = false → linesMeet b len d len = false →
         r.2 = (List.range n.toNat).any (fun i => lfOverflow (one c i)) ∧
         ∀ i, i < n.toNat → r.1.spadRead (d + z * i) z = WideForm.bytes (WideForm.leave (one c i))))) ∧
  (∀ (s : State) (u : CoreRef) (sa : SReg) (wide sat : Bool) (fmt : Fmt) (vd : VReg),
     Issues (.vlfDrain u fmt sat wide sa vd) s u 2 →
     let c := found s u 2
     let a := (c.rf0.sGet sa).toNat
     let z := if wide then 140 else 20
     let drained (i : Nat) : Drained := if wide then drainWide c.cfg.strict fmt sat (c.readLf true (a + z * i))
       else drainLong c.cfg.strict fmt sat ((c.readLf false (a + z * i)).headD LongForm.null)
     c.rf0.sBad sa = false → a % 4 = 0 → c.spadOk a (fmtElems fmt * z) false = true → c.rangeTag a (fmtElems fmt * z) = none →
     ∃ c', exec (.vlfDrain u fmt sat wide sa vd) s = .next (s.setCore (refKey u) c') ∧
       VectorWritten c c' fmt none vd (fun i => (drained i).w)
         (fun l => (List.range (fmtElems fmt)).any (fun i => decide (laneOf fmt i = l) && (drained i).poison)) ∧
       FlagsRaised c c' none fmt (fun i => (drained i).fl))

/-- The order of the terms of an anchored reduction does not matter: any permutation gives the same register (R135 to R137). -/
def Obligations.ReductionIsOrderFree : Prop :=
  ∀ (l : LongForm) (ts ts' : List (Term × Bool)), ts.Perm ts' → reduce l ts = reduce l ts'

/-- combine is commutative and associative on long forms whose value is zero at a null anchor (R139). A reduction split at any
point, its partials combined, gives the long form of the unsplit reduction (R139). -/
def Obligations.PartialReductionsCombine : Prop :=
  (∀ x y z : LongForm, (∀ w ∈ [x, y, z], w.anc = ancNull → w.v = 0#136) →
     x.combine y = y.combine x ∧ (x.combine y).combine z = x.combine (y.combine z)) ∧
  (∀ (anc : Int) (fl : RedFlags) (ts us : List (Term × Bool)),
     (reduce (LongForm.start anc fl) ts).combine (reduce (LongForm.start anc fl) us) =
       (reduce (LongForm.start anc fl) (ts ++ us)).leave)

/-! ### The matrix slot -/

/-- manc and manc.chain load the pending latch and the chain latch with the specification word, the crests or block anchors and
their poison (R165, R176), and then the heads that waited for the latch start; a block anchor out of range faults a Strict program
(R144). The other matrix instructions enter their queue with the register values they read, when no scalar they use is poisoned (R163,
R233); then the heads that can start do. A poisoned scalar faults the core (R233), and a full queue holds the bundle (R229, R235). -/
def Obligations.MatrixInstructionsTakeEffect : Prop :=
  (∀ (s : State) (u : CoreRef) (spec : SReg) (vr : VReg) (fa fb : Fmt), 48 ≤ spec.val →
     let c := found s u 1
     let l : AncLatch := { fa := fa, fb := fb, spec := c.rf0.sGet spec, bytes := c.rf0.vGet vr, bad := c.rf0.vBad vr }
     let lc : AncLatch := { l with fa := fb }
     (mancPair fa fb = true → Issues (.manc u spec vr fb fa) s u 1 →
       (latchRange c.cfg.strict l = false → exec (.manc u spec vr fb fa) s =
         .next ((s.setCore (refKey u) { c with mx := { c.mx with pendingLatch := some l } }).mxRun u.pen u.logical)) ∧
       (latchRange c.cfg.strict l = true → exec (.manc u spec vr fb fa) s = .next (s.faultAt u c 1 6))) ∧
     (mxFloat fb = true ∨ fb = .int8 → Issues (.mancChain u spec vr fb) s u 1 →
       (latchRange c.cfg.strict lc = false → exec (.mancChain u spec vr fb) s =
         .next ((s.setCore (refKey u) { c with mx := { c.mx with chainLatch := some lc } }).mxRun u.pen u.logical)) ∧
       (latchRange c.cfg.strict lc = true → exec (.mancChain u spec vr fb) s = .next (s.faultAt u c 1 6)))) ∧
  (∀ (i : Instr) (s : State) (q : QueueForm), queueForm s i = some q → q.legal = true →
     let c := found s q.u 1
     let len := if q.toDrain then c.mx.drainQ.length else c.mx.arrayQ.length
     (Issues i s q.u 1 → q.srcs.any c.rf0.sBad = false →
       exec i s = .next ((s.setCore (refKey q.u) (enqueued c q.toDrain { cmd := q.cmd c, bundle := c.pc })).mxRun q.u.pen q.u.logical)) ∧
     (Issues i s q.u 1 → q.srcs.any c.rf0.sBad = true → exec i s = .next (s.faultAt q.u c 1 11)) ∧
     (s.canIssue q.u 1 = true → 4 ≤ len →
       exec i s = .next (s.setCore (refKey q.u) { s.core (refKey q.u) with held := some 1 })))

/-- An accumulation takes every element of the tile through its terms, k by k, from the panels in the scratchpad (R158, R160,
R162, R166). -/
def Obligations.TileAccumulatesItsTerms : Prop :=
  ∀ (c : Core) (l : AncLatch) (t : Tile) (r : TileRec) (ix : Nat), ix < c.tileElems →
    (c.addSlices l t r).elem ix =
      reduce (t.elem ix) ((List.range (128 * r.n)).map (fun k => c.rowTerm l c.cols r (ix / c.cols) (ix % c.cols) k))

/-- The engine's events: a rerun fills the wide file and counts its clk (R180, R181, R190), a tile passes to the shadow set (R168), a
drain that has read every row empties it (R170), a chain ends, its row sums written where it has an address for them (R175). Each leaves
everything else as it was, but for the heads of the queues that may start then. -/
def Obligations.MatrixEngineEvents : Prop :=
  ∀ (s : State) (u : CoreRef),
    let c := s.core (refKey u)
    s.coreRuns u = true →
    (∀ t, c.mx.passing = some (t, false) → c.cfg.strict = true → t.rounded = true → c.mx.wideBusy = false →
      exec (.strictRerun u) s = .next (s.setCore (refKey u) { c with mx := { c.mx with
        passing := some (c.rerun t, true), wideBusy := true, reruns := c.mx.reruns + 1,
        rerunClk := satAdd 32 c.mx.rerunClk ((t.recs.map (fun r => r.n * (if r.x3 then 768 else 256))).sum) } })) ∧
    (∀ t done, c.mx.passing = some (t, done) → c.mx.shadow = none → (done = true ∨ c.cfg.strict = false ∨ t.rounded = false) →
      exec (.tilePass u) s = .next ((s.setCore (refKey u) { c with mx := { c.mx with
        passing := none, shadow := some { t with recs := [] }, tiles := c.mx.tiles + 1,
        wideBusy := c.mx.wideBusy || !t.limbs.isEmpty, rerunSticky := c.mx.rerunSticky || t.rounded } }).mxRun u.pen u.logical)) ∧
    (c.mx.draining = true →
      exec (.drainComplete u) s = .next ((s.setCore (refKey u) { c with mx := { c.mx with
        draining := false, shadow := none, wideBusy := false } }).mxRun u.pen u.logical)) ∧
    (∀ sums, c.mx.chain = some (none, sums) →
      exec (.chainEnd u) s = .next ((s.setCore (refKey u) { c with mx := { c.mx with chain := none } }).mxRun u.pen u.logical)) ∧
    (∀ a sums, c.mx.chain = some (some a, sums) → sums.length = 128 →
      ∃ c', SpadOnly c c' ∧ (∀ x, x < a ∨ a + 2560 ≤ x → c'.spadByte x = c.spadByte x) ∧
        (∀ i, i < 128 → c'.spadRead (a + 20 * i) 20 = LongForm.bytes (sums.getD i LongForm.null).leave) ∧
        exec (.chainEnd u) s = .next (((s.setCore (refKey u) { c' with mx := { c.mx with chain := none } }).overflowIf u.pen
          (sums.any (fun l => RedFlags.has l.flags (RedFlags.ovf ||| RedFlags.amix)))).mxRun u.pen u.logical))

/-! ### The move slot and the movers -/

/-- mxfer, mscan.crest and mscan.cmax give their mover the command with the scalars as they are at issue (R198, R199), and change nothing
else but the core's command and transfer ordinals; a mover with eight commands queued holds the bundle; a poisoned scalar faults the core
(R233). mstop squashes every command of its mover and the squash ends (R207); dld loads a descriptor slot from 64 bytes of scratchpad,
dset replaces eight bytes of one, and both squash the commands that name the slot; dst stores a slot, and changes nothing but its line.
A squash changes the movers and their counts only, where no command that it takes goes to another core or device; one that does first
sends what it has written. -/
def Obligations.MoveSlotTakesEffect : Prop :=
  (∀ (i : Instr) (s : State) (f : MoveForm), moveForm i = some f →
     let c := found s f.u 3
     let mv := c.mover f.m.val
     let bad := c.rf0.sBad f.sSrc || c.rf0.sBad f.sDst || c.rf0.sBad f.sCtl || c.rf0.sBad f.sSig
     (Issues i s f.u 3 → bad = false →
       ∃ c', exec i s = .next (s.setCore (refKey f.u) c') ∧
         c' = { c with mov := c'.mov, movSeq := c.movSeq + 1, xferOrd := c'.xferOrd } ∧
         c'.xferOrd = (if f.kind = .xfer ∧ getBits (c.rf0.sGet f.sCtl) 3 3 = 3 then c.xferOrd + 1 else c.xferOrd) ∧
         c'.mover f.m.val = { mv with queue := mv.queue ++ [f.cmd c] } ∧
         ∀ k, k ≠ f.m.val → c'.mover k = c.mover k) ∧
     (Issues i s f.u 3 → bad = true → exec i s = .next (s.faultAt f.u c 3 11)) ∧
     (s.canIssue f.u 3 = true → 8 ≤ mv.queue.length →
       exec i s = .next (s.setCore (refKey f.u) { s.core (refKey f.u) with held := some 3 }))) ∧
  (∀ (s : State) (u : CoreRef) (m : MoverIx) (imm : BitVec 32) (k : BitVec 3) (sa : SReg) (d : DSlot),
     let c := found s u 3
     let a := scalarAddr c sa imm
     (Issues (.mstop u m) s u 3 → exec (.mstop u m) s = .next (s.squash u c (fun _ => true) [m.val])) ∧
     (Issues (.dld u imm sa d) s u 3 → c.rf0.sBad sa = false → a % 64 = 0 → c.spadOk a 64 false = true →
       c.lineTag (a / 64) = none → c.lineBad (a / 64) = false →
       ∃ c1, DescWritten c c1 d (BitVec.ofNat 512 (leNum (c.spadRead a 64))) ∧
         exec (.dld u imm sa d) s = .next (s.squash u c1 (fun q => q.slots.contains d) [0, 1, 2, 3])) ∧
     (Issues (.dst u imm sa d) s u 3 → c.rf0.sBad sa = false → a % 64 = 0 → c.spadOk a 64 true = true →
       ∃ c', exec (.dst u imm sa d) s = .next (s.setCore (refKey u) c') ∧ LineStored c c' a (le 64 (c.rf0.dGet d).toNat) false) ∧
     (Issues (.dset u k sa d) s u 3 → c.rf0.sBad sa = false →
       ∃ c1 x, DescWritten c c1 d x ∧
         (∀ b, b < 64 → x.toNat / 256 ^ b % 256 =
           if b / 8 = k.toNat then (c.rf0.sGet sa).toNat / 256 ^ (b % 8) % 256 else (c.rf.dGet d).toNat / 256 ^ b % 256) ∧
         exec (.dset u k sa d) s = .next (s.squash u c1 (fun q => q.slots.contains d) [0, 1, 2, 3])) ∧
     (s.coreRuns u = true → ((s.core (refKey u)).mover m.val).squashing = true →
       exec (.moverSquashDone u m) s = .next (s.setCore (refKey u) ((s.core (refKey u)).setMover m.val
         { (s.core (refKey u)).mover m.val with squashing := false })))) ∧
  (∀ (s : State) (u : CoreRef) (c : Core) (p : MovCmd → Bool) (ms : List Nat), ms.Nodup →
     let gone := ms.flatMap (fun m => (c.mover m).running.filter (fun r => p r.cmd))
     ∃ c', Squashed c c' p ms ∧ s.squash u c p ms = (gone.foldl (fun s r => s.flushRun u r) s).setCore (refKey u) c' ∧
       ((∀ r ∈ gone, ¬ leavesCore r) → gone.foldl (fun s r => s.flushRun u r) s = s)) ∧
  (∀ (s : State) (u : CoreRef) (r : MovRun) (a : Nat) (w : List WinByte), r.peer = some (a, w) →
     s.flushRun u r = s.sendPacket u.pen u.logical (ctlTarget r.cmd.ctl) (.spad a (w.map (fun b => (b.val, b.bad)))) none)

/-- The command at the head of a mover's queue starts once the commands before it have issued their reads and its waits are over (R204,
R205): a check that fails faults the core with its cause (R196 to R218), a command with something to move begins to run, one with nothing
to move completes at once (R201). A mover's next read brings the next unit of its walk into the window, which holds at most 64 lines and
4 KiB (R205): from the scratchpad, or through the window table, where a failed translation leaves a tag and its cause (R206, R208); for
mscan.cmax the maximum of the units of one destination position (R212). A unit that a mover has read is written at its place of the destination walk when its block's gate is open (R202, R203): to the
scratchpad with its poison and its tag (R206, R208), to device memory through the window table, as a packet to another core, with the
lines of a link message to another device, or held until its crest group is whole (R211). Data that carry a tag fault anywhere but in a
plain write to the scratchpad (R206). A closed gate holds the command, and one that is satisfied opens (R202). An attached signal is
applied once what it covers is written (R201, R281), and a whole crested group is written with its crest byte (R211). A run with nothing
left to write or to signal completes (R221). -/
def Obligations.MoverCommandsRun : Prop :=
  (∀ (s : State) (u : CoreRef) (m : MoverIx) (cmd : MovCmd) (rest : List MovCmd),
     let c := s.core (refKey u)
     let mv := c.mover m.val
     let src := descOf (c.rf.dGet cmd.dsrc)
     let dst := (c.dstWalk cmd).1
     mv.queue = cmd :: rest → mv.squashing = false → s.moverOn u = true → c.movWaits cmd = false →
     (∀ r ∈ mv.running.getLast?, r.reads = r.srcTotal) →
     (∀ k, s.movStartCause u c cmd = some k →
       exec (.moverCommandStart u m) s = .next (s.progFault u.pen u.logical cmd.bundle 3 k)) ∧
     (s.movStartCause u c cmd = none →
       (0 < dst.total →
         let r : MovRun := { cmd := cmd, srcTotal := src.total, total := dst.total, out := s.newOut u cmd }
         exec (.moverCommandStart u m) s =
           .next (s.setCore (refKey u) (c.setMover m.val { mv with queue := rest, running := mv.running ++ [r] }))) ∧
       (dst.total = 0 →
         exec (.moverCommandStart u m) s = .next ((s.setCore (refKey u)
           { (c.setMover m.val { mv with queue := rest }) with movDone := c.movDone + 1 }).doneAtOnce u cmd (s.newOut u cmd))))) ∧
  (∀ (s : State) (u : CoreRef) (cmd : MovCmd) (o : OutMsg),
     let dp := match cmd.kind with | .crest _ => 0 | _ => ctlDst cmd.ctl
     (dp = 3 → s.doneAtOnce u cmd o = s.remoteLast u cmd o false) ∧
     (dp ≠ 3 → sigDoneEn cmd.sig = false → s.doneAtOnce u cmd o = s) ∧
     (dp = 2 → sigDoneEn cmd.sig = true → s.doneAtOnce u cmd o =
       s.sendPacket u.pen u.logical (ctlTarget cmd.ctl) .signal (some (sigDoneCtr cmd.sig, sigDoneAdd cmd.sig))) ∧
     (dp < 2 → sigDoneEn cmd.sig = true →
       s.doneAtOnce u cmd o = s.applySignal u.pen u.logical (sigDoneCtr cmd.sig) (sigDoneAdd cmd.sig))) ∧
  (∀ (s : State) (u : CoreRef) (m : MoverIx) (pre post : List MovRun) (r : MovRun),
     let c := s.core (refKey u)
     let mv := c.mover m.val
     let a := walkAddr (descOf (c.rf.dGet r.cmd.dsrc)) r.cmd.src.toNat r.reads
     let n := r.cmd.unit
     let after := pre ++ { r with reads := r.reads + 1 } :: post
     let with_ (w : List WinByte) : Mover :=
       { mv with running := pre ++ r.take w (innerBound (descOf (c.rf.dGet r.cmd.dsrc))) :: post }
     mv.running = pre ++ r :: post → (∀ q ∈ pre, q.srcTotal ≤ q.reads) → r.reads < r.srcTotal → s.moverOn u = true →
     c.windowLines after ≤ 64 → windowBytes after ≤ 4096 →
     (ctlSrc r.cmd.ctl = 0 →
       (c.rangeTag a n = none → exec (.moverReadReturn u m) s =
         .next (s.setCore (refKey u) (c.setMover m.val (with_ (spadUnit c a n))))) ∧
       (∀ t, c.rangeTag a n = some t →
         exec (.moverReadReturn u m) s = .next (s.progFault u.pen u.logical r.cmd.bundle 3 38 [ef t.cause, ef t.va]))) ∧
     (ctlSrc r.cmd.ctl = 1 → s.moverCross u r.cmd (s.accessBays u.pen false a n) = none →
       let w := (List.range n).map (fun i => s.moverByte u.pen c 1 (a + i))
       let s1 := s.noteVa u.pen a n
       let s2 := match r.cmd.kind, s.translate u.pen false a with
         | .cmax, .ok p => s1.touchCrest (p / 64)
         | _, _ => s1
       exec (.moverReadReturn u m) s = .next (s2.setCore (refKey u) { (c.setMover m.val (with_ w)) with
         movLastCause := (match w.findSome? WinByte.tag with | some t => t.cause | none => c.movLastCause) }))) ∧
  (∀ (r : MovRun) (w : List WinByte) (q : Nat),
     (r.cmd.kind ≠ .cmax ∨ r.reads % q = 0 → r.take w q = { r with reads := r.reads + 1, window := r.window ++ [w] }) ∧
     (r.cmd.kind = .cmax → r.reads % q ≠ 0 → r.take w q = { r with
       reads := r.reads + 1, window := r.window.dropLast ++ [List.zipWith maxByte (r.window.getLast?.getD w) w] })) ∧
  (∀ (s : State) (pen : Nat) (c : Core) (va : Nat),
     (∀ d, s.translate pen false va = .ok d → s.moverByte pen c 1 va = { val := s.devByte d, bad := s.devPoison d, tag := none }) ∧
     (∀ k, s.translate pen false va = .error k →
       s.moverByte pen c 1 va = { val := 0#8, bad := false, tag := some { cause := k, va := va } })) ∧
  (∀ (s : State) (u : CoreRef) (m : MoverIx) (k : Nat) (r : MovRun) (w : List WinByte) (ws : List (List WinByte)),
     let c := s.core (refKey u)
     let mv := c.mover m.val
     let d := (c.dstWalk r.cmd).1
     let a := walkAddr d (c.dstWalk r.cmd).2 r.written
     let b := r.written / blockLen d (sigBlkOrd r.cmd.sig)
     let sigs := sigsOf c u r
     let r1 := unitTaken r ws b
     let open_ := ctlGated r.cmd.ctl = false ∨ b < r.opened ∨ ctlGbase r.cmd.ctl + b ≤ ((c.counter (ctlGateCtr r.cmd.ctl)).toNat : Int)
     let plain := r.cmd.crestSlot = none
     mv.running[k]? = some r → s.coreRuns u = true → r.peer = none → r.written < r.total → r.per * (r.written + 1) ≤ r.reads →
     r.window = w :: ws →
     (¬ open_ → exec (.moverUnitWrite u ⟨m, k⟩) s =
       .next (s.setCore (refKey u) (c.setMover m.val { mv with running := mv.running.set k { r with gated := true } }))) ∧
     (open_ →
       (plain → ctlDst r.cmd.ctl = 0 → (r.cmd.kind = .xfer ∨ ∀ x ∈ w, x.tag = none) →
         exec (.moverUnitWrite u ⟨m, k⟩) s =
           .next (s.setCore (refKey u) ((c.moverStore a w).finishRun m.val k { r1 with sigs := r.sigs ++ sigs }))) ∧
       (∀ t, w.findSome? WinByte.tag = some t → ¬ (r.cmd.kind = .xfer ∧ r.cmd.crestSlot = none ∧ ctlDst r.cmd.ctl = 0) →
         exec (.moverUnitWrite u ⟨m, k⟩) s = .next (s.progFault u.pen u.logical r.cmd.bundle 3 38 [ef t.cause, ef t.va])) ∧
       ((∀ x ∈ w, x.tag = none) →
         (r.cmd.crestSlot ≠ none → exec (.moverUnitWrite u ⟨m, k⟩) s = .next (s.setCore (refKey u)
           (c.finishRun m.val k { r1 with sigs := r.sigs ++ sigs, held := r.held ++ heldOf r.written a w }))) ∧
         (plain → ctlDst r.cmd.ctl = 1 → s.writeTag u.pen a w.length = none →
           s.moverCross u r.cmd (s.accessBays u.pen true a w.length) = none →
           exec (.moverUnitWrite u ⟨m, k⟩) s = .next ((s.moverDev u.pen a w).setCore (refKey u)
             (c.finishRun m.val k { r1 with sigs := r.sigs ++ sigs }))) ∧
         (plain → ctlDst r.cmd.ctl = 2 →
           (sigs = [] → exec (.moverUnitWrite u ⟨m, k⟩) s =
             .next ((s.setCore (refKey u) (c.finishRun m.val k r1)).sendPacket u.pen u.logical (ctlTarget r.cmd.ctl)
               (.spad a (w.map (fun x => (x.val, x.bad)))) none)) ∧
           (sigs ≠ [] → exec (.moverUnitWrite u ⟨m, k⟩) s = .next (s.setCore (refKey u)
             (c.finishRun m.val k { r1 with sigs := r.sigs ++ sigs, peer := some (a, w) })))) ∧
         (plain → 3 ≤ ctlDst r.cmd.ctl →
           s.moverCross u r.cmd [routePrimary (routeOf (s.jobD u.pen) (ctlDevice r.cmd.ctl))] = none →
           let ls := (chunks 64 w).map (fun l => (l.map WinByte.val, l.any WinByte.bad))
           let q := State.remoteLines u r.cmd (decide ((r.written + 1) % blockLen d (sigBlkOrd r.cmd.sig) = 0))
             (decide (r.written + 1 = r.total)) ls a s r.out
           exec (.moverUnitWrite u ⟨m, k⟩) s =
             .next (q.1.setCore (refKey u) (c.finishRun m.val k { r1 with out := q.2, sigs := sigs.filter PendSig.isDone })))))) ∧
  (∀ (s : State) (u : CoreRef) (m : MoverIx) (k : Nat) (r : MovRun),
     let c := s.core (refKey u)
     let mv := c.mover m.val
     let b := r.written / blockLen (c.dstWalk r.cmd).1 (sigBlkOrd r.cmd.sig)
     mv.running[k]? = some r → s.coreRuns u = true →
     (r.gated = true → ctlGbase r.cmd.ctl + b ≤ ((c.counter (ctlGateCtr r.cmd.ctl)).toNat : Int) →
       exec (.moverGateOpen u ⟨m, k⟩) s = .next (s.setCore (refKey u) (c.setMover m.val { mv with running :=
         (mv.running.set k { r with gated := false, opened := max r.opened (b + 1) }) }))) ∧
     (∀ g gs, r.sigs = g :: gs → (∀ h ∈ r.held, g.pos < h.pos) →
       let s1 := s.setCore (refKey u) (c.finishRun m.val k { r with sigs := gs, peer := none })
       let dp := match r.cmd.kind with | .crest _ => 0 | _ => ctlDst r.cmd.ctl
       (dp < 2 → exec (.attachedSignalApply u ⟨m, k⟩) s = .next (s1.applySignal u.pen g.owner g.ctr g.add)) ∧
       (dp = 2 → exec (.attachedSignalApply u ⟨m, k⟩) s = .next (s1.sendPacket u.pen u.logical (ctlTarget r.cmd.ctl)
         (match r.peer with | some x => .spad x.1 (x.2.map (fun b => (b.val, b.bad))) | none => .signal) (some (g.ctr, g.add)))) ∧
       (dp = 3 → exec (.attachedSignalApply u ⟨m, k⟩) s = .next (s1.remoteLast u r.cmd r.out
         (sigBlkEn r.cmd.sig && decide (r.total % blockLen (c.dstWalk r.cmd).1 (sigBlkOrd r.cmd.sig) = 0))))) ∧
     (∀ d g, r.cmd.crestSlot = some d → c.wholeGroup (crestCtxOf (c.rf.dGet d)) r = some g →
       let x := crestCtxOf (c.rf.dGet d)
       let rg := x.groupRange g
       let ca := x.crestAddr g.1 g.2
       let w := groupBytes r rg
       let cb : WinByte := { val := bytesCrest ((Fmt.ofCode x.fmtCode).getD .fp32) (w.map WinByte.val), bad := w.any WinByte.bad, tag := none }
       let r1 := { r with held := r.held.filter (fun h => decide (x.groupAt h.addr ≠ g)) }
       (r.cmd.kind = .xfer → ctlDst r.cmd.ctl = 0 →
         exec (.crestedGroupWrite u ⟨m, k⟩) s =
           .next (s.setCore (refKey u) (((c.moverStore rg.1 w).moverStore ca [cb]).finishRun m.val k r1))) ∧
       (r.cmd.kind ≠ .xfer → ctlSrc r.cmd.ctl = 0 →
         exec (.crestedGroupWrite u ⟨m, k⟩) s = .next (s.setCore (refKey u) ((c.moverStore ca [cb]).finishRun m.val k r1))) ∧
       (r.cmd.kind = .xfer → ctlDst r.cmd.ctl = 1 → ∀ p, s.writeTag u.pen rg.1 rg.2 = none → s.translate u.pen true ca = .ok p →
         s.moverCross u r.cmd (s.accessBays u.pen true rg.1 rg.2 ++ s.accessBays u.pen true ca 1) = none →
         exec (.crestedGroupWrite u ⟨m, k⟩) s = .next ((((s.moverDev u.pen rg.1 w).moverDev u.pen ca [cb]).touchCrest (p / 64)).setCore
           (refKey u) (c.finishRun m.val k r1))) ∧
       (r.cmd.kind ≠ .xfer → ctlSrc r.cmd.ctl = 1 → ∀ p, s.translate u.pen true ca = .ok p →
         s.moverCross u r.cmd (s.accessBays u.pen true ca 1) = none →
         exec (.crestedGroupWrite u ⟨m, k⟩) s =
           .next (((s.moverDev u.pen ca [cb]).touchCrest (p / 64)).setCore (refKey u) (c.finishRun m.val k r1))))) ∧
  (∀ (c : Core) (m k : Nat) (r : MovRun),
     let mv := c.mover m
     (r.written = r.total → r.held = [] → r.sigs = [] →
       c.finishRun m k r = { (c.setMover m { mv with running := mv.running.eraseIdx k }) with movDone := c.movDone + 1 }) ∧
     (r.written ≠ r.total ∨ r.held ≠ [] ∨ r.sigs ≠ [] → c.finishRun m k r = c.setMover m { mv with running := mv.running.set k r })) ∧
  (∀ (c : Core) (a : Nat) (w : List WinByte),
     let c' := c.moverStore a w
     SpadOnly c c' ∧ (∀ x, x < a ∨ a + w.length ≤ x → c'.spadByte x = c.spadByte x) ∧
     (a + w.length ≤ (if c.cfg.wide then 2 ^ 24 else 2 ^ 23) → ∀ i, i < w.length → c'.spadByte (a + i) = (w.map WinByte.val).getD i 0#8) ∧
     ∀ l, 64 * l + 64 ≤ a ∨ a + w.length ≤ 64 * l → c'.lineBad l = c.lineBad l ∧ c'.lineTag l = c.lineTag l)

/-! ### Packets, turns and the step's balance -/

/-- The next packet of a core enters its router with its route (R272), when its pen tag allows: one to another pen's bay is discarded,
counted, and faults the core (R285). One injected arrives: its bytes are written, then its signal is applied, in the order of its route
(R273, R281). Each passes slots of the pen's clock (R274). The balance check (R287): with every core ended, no packet on its way and
every counter of a core at its start value, the compute phase is over; a counter off its start value, or a late signal, is recorded and
ends the job. -/
def Obligations.PacketsAndBalance : Prop :=
  (∀ (s : State) (u : CoreRef) (pre post : List Packet) (k : Packet),
     s.packets = pre ++ k :: post → (∀ q ∈ pre, ¬ (q.pen = u.pen ∧ q.src = u.logical ∧ q.injected = false)) →
     k.pen = u.pen → k.src = u.logical → k.injected = false → s.unitsRun u.pen = true → s.injection = none →
     ((∀ n, s.packetSite k = some n → s.penOfBay (bayOfSite n) = u.pen) →
       ∃ t, SlotsPassed s t u.pen ∧
         (∀ a b, (placeOf (s.jobD u.pen) u.logical).head? = some a → s.packetSite k = some b →
           exec (.packetInject u) s = .next { t with packets := pre ++ { k with injected := true, route := s.routeToCore a b } :: post }) ∧
         ((placeOf (s.jobD u.pen) u.logical).head? = none ∨ s.packetSite k = none →
           exec (.packetInject u) s = .next { t with packets := pre ++ { k with injected := true, route := [] } :: post })) ∧
     (∀ n, s.packetSite k = some n → s.penOfBay (bayOfSite n) ≠ u.pen →
       let b := s.coreBay u.pen u.logical
       let t := ((s.countEvent b 19 0 false).bump .netPenFault 0 16 (u.pen - 1)).progFault u.pen u.logical (s.core (refKey u)).pc 0 17
       exec (.packetInject u) s = .next { t with packets :=
         (dropFirst (fun q => decide (q.pen = u.pen) && decide (q.src = u.logical) && !q.injected) t.packets) })) ∧
  (∀ (s : State) (ix : Nat) (k : Packet), s.packets[ix]? = some k → k.injected = true → s.unitsRun k.pen = true →
     (∀ q ∈ s.packets.take ix, ¬ (q.pen = k.pen ∧ q.src = k.src ∧ q.dst = k.dst)) →
     let key := coreKey k.pen k.dst
     ∃ t, SlotsPassed s t k.pen ∧
       let t0 := { t with packets := s.packets.eraseIdx ix }
       let t1 := match k.body with
         | .spad a bs => t0.setCore key ((s.core key).moverStore a (bs.map (fun b => { val := b.1, bad := b.2, tag := none })))
         | .signal => t0
       (k.sig = none → exec (.packetArrive ix) s = .next t1) ∧
       (∀ ctr add, k.sig = some (ctr, add) → exec (.packetArrive ix) s = .next (t1.applySignal k.pen k.dst ctr add))) ∧
  (∀ (s : State) (pen l ctr : Nat) (add : Word32),
     let c := s.core (coreKey pen l)
     ∃ c', s.applySignal pen l ctr add = s.setCore (coreKey pen l) c' ∧
       c' = { c with ctr := c'.ctr, lateSigs := if c.run = .ended then ctr :: c.lateSigs else c.lateSigs } ∧
       ∀ k, c'.counter k = if k = ctr then c.counter k + add else c.counter k) ∧
  (∀ (s : State) (pen : Pen) (j : Job) (a : Attempt),
     s.job pen = some j → j.cur = some a → a.phase = .forward ∨ a.phase = .backward → s.unitsRun pen = true →
     s.allEnded pen = true → (∀ k ∈ s.packets, k.pen ≠ pen) →
     (s.imbalance pen = none → exec (.balanceCheck pen) s =
       .next (s.onJob pen (fun j => { j with turn := none, cur := some { a with phase := .sweepWait } }))) ∧
     (∀ l k late, s.imbalance pen = some (l, k, late) → l < 256 → k < 256 →
       let c := s.core (coreKey pen l)
       ∃ w : Word64, getBits w 0 8 = k ∧ getBits w 8 8 = l ∧ getBits w 16 1 = bitIf late 0 ∧ getBits w 17 15 = 1 ∧
         getBits w 32 32 = (c.counter k - startOf c k).toNat ∧
         exec (.balanceCheck pen) s = .next (((s.setReg .netImbalLast w (pen - 1)).bump .netPenFault 16 16 (pen - 1)).progFault pen l c.pc
           0 16)))

/-- A late item stops the units of its job, and the last one to complete restarts them (R214); the clk of the stop count to its bay or
port (R215; their number is unknown, log entry 3). The doubling sequence (R61): A-turn, quiesce, exchange, B-turn, quiesce, exchange; at
the end of a turn the occupied wide file of each of its contexts is spilled (R181); a quiesce ends only with no packet on its way and every
core that may finish quiet; after the first exchange the B contexts are resident, after the second the A contexts. -/
def Obligations.LateItemsAndTurns : Prop :=
  (∀ (s : State) (pen : Pen) (holder : LateHolder) (j : Job),
     s.job pen = some j →
     (j.cur ≠ none → s.penOfBay (holderBay holder) = pen →
       let s1 := s.onJob pen (fun j => match j.stopped with
         | some _ => { j with lateHeld := j.lateHeld + 1 } | none => { j with stopped := some holder })
       let n := (Config.freeBits s.fresh).toNat % 2 ^ 32
       let s2 : State := { s1 with fresh := s.fresh + 1 }
       s1.unitsRun pen = false ∧
       exec (.lateItemStop pen holder) s = .next (match holder with
         | .bay b => s2.setBay b.val { s.bay b.val with heldClk := (s.bay b.val).heldClk + n }
         | .port p => s2.setPort p.val { s.port p.val with stopClk := (s.port p.val).stopClk + BitVec.ofNat 64 n })) ∧
     (j.stopped ≠ none → 0 < j.lateHeld →
       exec (.lateItemRestart pen) s = .next (s.onJob pen (fun j => { j with lateHeld := j.lateHeld - 1 }))) ∧
     (j.stopped ≠ none → j.lateHeld = 0 →
       exec (.lateItemRestart pen) s = .next (s.onJob pen (fun j => { j with stopped := none })))) ∧
  (∀ (s : State) (pen : Pen) (j : Job), s.job pen = some j → s.unitsRun pen = true →
     let at_ (ph : TurnPhase) : State := s.onJob pen (fun j => { j with turn := some ph })
     (j.turn = some .aTurn → exec (.turnEnd pen) s =
       .next ((j.doubled.map Prod.fst).foldl (fun s l => s.spillWide (coreKey pen l)) (at_ .quiesceA))) ∧
     (j.turn = some .bTurn → exec (.turnEnd pen) s =
       .next ((j.doubled.map Prod.snd).foldl (fun s l => s.spillWide (coreKey pen l)) (at_ .quiesceB))) ∧
     ((∀ k ∈ s.packets, k.pen ≠ pen) →
       (∀ l ∈ s.jobCores pen, turnFinishes j l = true → (s.core (coreKey pen l)).quiet = true) →
       (j.turn = some .quiesceA → exec (.quiesceEnd pen) s = .next (at_ .exchangeA)) ∧
       (j.turn = some .quiesceB → exec (.quiesceEnd pen) s = .next (at_ .exchangeB))) ∧
     (j.turn = some .exchangeA →
       exec (.exchangeEnd pen) s = .next (s.onJob pen (fun j => { j with turn := some .bTurn, inB := true }))) ∧
     (j.turn = some .exchangeB →
       exec (.exchangeEnd pen) s = .next (s.onJob pen (fun j => { j with turn := some .aTurn, inB := false })))) ∧
  (∀ (s : State) (key : Nat), (s.core key).mx.wideBusy = false → s.spillWide key = s)


/-! ### The training step -/

/-- T0 (R434) begins the attempt of the next step: its number is how often T0 of the step has passed (R422), the step counter goes
on; then, in order, the ACT actions and mapping changes, the clear, the ports, the ledger entries, the step header and the closes
that are due. The figures of an attempt that waits for its outcome are kept. A step without a seed ends the job (R465). -/
def Obligations.StepBeginsAtT0 : Prop :=
  (∀ (s : State) (pen : Pen) (j : Job), s.job pen = some j → s.t0Ready pen j = true →
    let s0 := (if s.emergencyOver then s.emergencyEnd else s).injectThermal
    let s1 := if j.cur.isSome then s0.keepFigures pen else s0
    let bank := (s1.fld .updJob 2 1 (pen - 1) + (if j.cur.isSome then 1 else 0)) % 2
    let s2 := s1.beginAttempt pen j
    (seedAt j j.nextStep = none →
      exec (.stepT0 pen) s = .next ((s2.postPen pen 324 j.nextStep [ef j.nextStep]).terminal pen 324 [ef j.nextStep])) ∧
    (seedAt j j.nextStep ≠ none →
      let s3 := (s2.actBoundary pen).mappingChanges pen
      let dig := rangeDigestAt 0 ((List.range 168).flatMap (fun n => le 8 (s3.reg .coreSiteState n).toNat))
      let s4 := s3.onJob pen (fun j => { j with cur := j.cur.map (fun a => { a with siteMap := dig }) })
      exec (.stepT0 pen) s = .next (((((s4.clearCores pen).beginPorts pen).beginLedger pen j.nextStep).vaStore pen j.plan.headerVa
        (stepHeader j.plan j.nextStep bank)).tryCloseAll pen))) ∧
  (∀ (s : State) (pen : Nat) (j : Job), s.job pen = some j →
    ∃ j' a, (s.beginAttempt pen j).job pen = some j' ∧ j'.cur = some a ∧ a.step = j.nextStep ∧
      a.attempt = SMap.get (fun _ => 0) j.attempts j.nextStep ∧ a.phase = .start ∧ a.status = j.statusNext ∧
      j'.nextStep = j.nextStep + 1 ∧ SMap.get (fun _ => 0) j'.attempts j.nextStep = a.attempt + 1 ∧ j'.turn = none ∧ j'.stopped = none) ∧
  (∀ (s : State) (pen : Nat) (j : Job), s.t0Ready pen j = true →
    (∀ a, j.cur = some a → a.wordSent = true ∧ j.voting = none) ∧ j.boundaryDue = false ∧ j.draining = false ∧ j.resync = false ∧
    j.adopting = [] ∧ s.diesStopped = false ∧ ∃ r, (s.pen pen).released = some r ∧ j.nextStep ≤ r)

/-- The clear at a step's start (R59, R264): every core of the job has its registers zero but for its constant registers, no
poison, no flags, its scratchpad zero, its counters at their start values, no matrix or mover work; the pen's packets are gone
and no other core changes. The entry bundle (R264): every core of the job begins to issue, the attempt computes forward, with a doubled
site the first turn is the A-turn (R61), and the slot clock of the pen is 0 (R274); nothing else changes. After a fence a replay enters
once the module's messages are acknowledged, with the clear and the signals of the step that came from other modules (R370, R511). The
vote gate adds 1 to its counter in every core of the job once it is due (R433), and nothing else changes but its mark. -/
def Obligations.ClearAndEntryOfEveryCore : Prop :=
  (∀ (s : State) (pen : Nat),
     (∀ l, l ∈ s.jobCores pen → (s.clearCores pen).core (coreKey pen l) = (s.core (coreKey pen l)).clear) ∧
     (∀ k, (∀ l ∈ s.jobCores pen, k ≠ coreKey pen l) → (s.clearCores pen).core k = s.core k) ∧
     (s.clearCores pen).packets = s.packets.filter (fun k => decide (k.pen ≠ pen)) ∧
     ∀ c : Core, (∀ r : SReg, r.val < 48 → c.clear.rf.sGet r = 0#64) ∧ (∀ r : SReg, c.clear.rf.sBad r = false) ∧
       (∀ r : VReg, c.clear.rf.vGet r = 0#4096 ∧ c.clear.rf.vBad r = 0#128) ∧
       (∀ r : PReg, c.clear.rf.pGet r = 0#128 ∧ c.clear.rf.pBad r = false) ∧ (∀ d : DSlot, c.clear.rf.dGet d = 0#512) ∧
       (∀ r : SReg, 48 ≤ r.val → c.clear.rf.sGet r = c.cfg.consts.getD (r.val - 48) 0#64) ∧
       (∀ a, c.clear.spadByte a = 0#8) ∧ c.clear.flags = 0#5 ∧ c.clear.mx = {} ∧ c.clear.mov = [] ∧ c.clear.loops = [] ∧
       c.clear.npc = c.cfg.entry ∧ c.clear.cfg = c.cfg ∧
       ((c.cfg.counters.map Prod.fst).Nodup → ∀ kv ∈ c.cfg.counters, c.clear.counter kv.1 = kv.2)) ∧
  (∀ (s : State) (pen : Pen) (j : Job) (a : Attempt), s.job pen = some j → j.cur = some a → a.wordSent = false →
     (s.diesStopped = false → j.adopting = [] → j.fenceHold = false → a.phase = .start →
       ∃ t, exec (.entryBundle pen) s = .next t ∧ t = { s with cores := t.cores, pens := t.pens, slotClk := SMap.put s.slotClk pen 0 } ∧
         (∀ l ∈ s.jobCores pen, t.core (coreKey pen l) = { s.core (coreKey pen l) with run := .running, slot := 3 }) ∧
         (∀ k, (∀ l ∈ s.jobCores pen, k ≠ coreKey pen l) → t.core k = s.core k) ∧
         (∀ p, t.pen p = if p = pen then { s.pen pen with job := some { j with
             turn := (if j.doubled = [] then none else some .aTurn), inB := false,
             cur := some { a with phase := .forward, gateRaised := false, pastGate := [] } } } else s.pen p)) ∧
     (s.diesStopped = false → j.adopting = [] → j.fenceHold = true → (∀ kv ∈ j.tx, kv.2.open_ = []) →
       (∀ b ∈ s.baysOf pen, (s.port b).overflow = false) →
       let s1 := ((s.clearCores pen).replayCounters pen).onJob pen (fun j => { j with
         fenceHold := false, replayRun := true, suppressed := 0, sentReplay := 0 })
       exec (.entryBundle pen) s = .next ((s1.enterCores pen).setFld .corePenProg 0 2 2 (pen - 1))) ∧
     (s.unitsRun pen = true → j.voting = none → a.phase ≠ .start → a.gateRaised = false →
       ∃ t, exec (.gateRaise pen) s = .next t ∧ t = { s with cores := t.cores, pens := t.pens } ∧
         (∀ l ∈ s.jobCores pen,
           let c := s.core (coreKey pen l)
           let c' := t.core (coreKey pen l)
           c' = { c with ctr := c'.ctr } ∧ ∀ k, c'.counter k = if k = j.plan.gateCtr then c.counter k + 1#32 else c.counter k) ∧
         (∀ k, (∀ l ∈ s.jobCores pen, k ≠ coreKey pen l) → t.core k = s.core k) ∧
         ∀ p, t.pen p = if p = pen then { s.pen pen with job := some { j with cur := some { a with gateRaised := true } } } else s.pen p))

/-- Every microinstruction sets its destination in every element of the block to its result and changes no other register
(R441 to R443), while the units of its bay are not stopped (R214). -/
def Obligations.MicroinstructionsComputeEveryElement : Prop :=
  (∀ (i : Instr) (s : State) (b : Nat) (rd : UReg) (f : UnitS → Nat → Word32), microForm i = some (b, rd, f) → s.unitOn b = true →
    ∃ x', exec i s = .next (s.setUnit b x') ∧ x' = { s.unit b with regs := x'.regs } ∧
      ∀ (e : Nat) (r : UReg), x'.get e r.val =
        if r = rd ∧ e < (s.unit b).count then f (s.unit b) e else (s.unit b).get e r.val) ∧
  (∀ (s : State) (b : Fin 12), s.unitOn b.val = true → exec (.unop b) s = .next (s.setUnit b.val (s.unit b.val)))

/-- The sweep begins once its conditions hold and takes every record of the plan in order (R432, R433, R436, R438); a record whose
addresses fail to translate ends the job (R455). A completed sweep joins the ledger digest, writes the digest table and the
journal record, and sends the status word (R445, R491, R498). -/
def Obligations.SweepRunsTheUpdatePlan : Prop :=
  ∀ (s : State) (pen : Pen) (j : Job) (a : Attempt) (peers : List ClipPeer), s.job pen = some j → j.cur = some a →
    (j.voting = none → a.phase = .sweepWait → j.replayRun = false → a.wordSent = false → s.unitsRun pen = true →
      clipReady j peers = true →
      let cap := s.fld .updJob 2 1 (pen - 1)
      let s0 := (s.baysOf pen).foldl (fun s b => s.setUnit b { (s.unit b) with elements := 0, nonfinite := 0 }) s
      let r := State.sweepRecords pen a.step cap peers (j.plan.recs.zip (List.range j.plan.recs.length)) s0 {}
      let s1 := r.1.onJob pen (fun j => { j with
        sweepRows := r.2.rows,
        cur := j.cur.map (fun a => { a with
          phase := .sweep, nonfinite := r.2.nonfinite, digests := rowDigests r.2.rows ++ [0#64] }) })
      let s2 := if r.2.poison then s1.orStatus pen 16#64 else s1
      let s3 := if r.2.overflow then s2.orStatus pen 2#64 else s2
      let s4 := if 0 < r.2.nonfinite then s3.orStatus pen 1#64 else s3
      exec (.sweepStart pen peers) s = .next
        (match r.2.failed with
         | some ix => (s4.postPen pen 325 a.step [ef ix]).terminal pen 325 [ef ix]
         | none => s4.snapSweep pen a.step cap)) ∧
    (a.phase = .sweep → a.wordSent = false → s.unitsRun pen = true →
      let a1 : Attempt := { a with digests := a.digests.take 3 ++ [ledgerDigest j.rank a] }
      let s1 := (s.onJob pen (fun j => { j with cur := some a1 })).sweepTimers pen
      let s2 := s1.writeTable pen a.step j.sweepRows
      exec (.sweepComplete pen) s = .next (((s2.writeRecord pen ((s2.jobD pen).cur.getD a1)).onJob pen (fun j =>
        { j with cur := j.cur.map (fun a => { a with recorded := true }) })).sendWord pen))

/-! ### The vote -/

/-- A payload of a child joins the attempt it names, be it the voting one, the one being computed or the next, and the vote moves on (R422,
R446); any other is discarded. The outcome of the parent goes to the children and is applied. A child's payload of a resync round is
noted, its outcome passed on (R449). The drain of a skip is over once every message is acknowledged; the resync round's end frees the
next attempt, and what discarded attempts have received counts nowhere (R415, R449); the vote's timeout ends the job with the rank that
it waits for (R519). -/
def Obligations.VotesAndResyncs : Prop :=
  ∀ (s : State) (pen : Pen) (j : Job), s.job pen = some j →
    let kids := treeKids j.rank (j.ranksM1 + 1)
    let votes (a : Attempt) (v : Vote) : Prop := a.step = v.step ∧ a.attempt = v.attempt
    (∀ r v, r ∈ kids →
      (∀ a, j.voting = some a → votes a v → exec (.voteReceive pen (.child r) (.vote v)) s = .next
        ((s.onJob pen (fun j => { j with voting := some (a.addKid r v) })).voteMove pen)) ∧
      ((∀ a, j.voting = some a → ¬ votes a v) →
        (∀ a, j.cur = some a → votes a v → exec (.voteReceive pen (.child r) (.vote v)) s = .next
          ((s.onJob pen (fun j => { j with cur := some (a.addKid r v) })).voteMove pen)) ∧
        ((∀ a, j.cur = some a → ¬ votes a v) →
          (v.step = j.nextStep ∧ v.attempt = SMap.get (fun _ => 0) j.attempts j.nextStep →
            exec (.voteReceive pen (.child r) (.vote v)) s = .next (s.onJob pen (fun j => { j with
              earlyKids := (j.earlyKids.filter (fun q => decide (q.1 ≠ r))) ++ [(r, v)] }))) ∧
          (¬ (v.step = j.nextStep ∧ v.attempt = SMap.get (fun _ => 0) j.attempts j.nextStep) →
            exec (.voteReceive pen (.child r) (.vote v)) s = .next s))) ∧
      (∀ x y, r ∉ j.resyncKids → exec (.voteReceive pen (.child r) (.resync x y)) s = .next
        ((s.onJob pen (fun j => { j with resyncKids := j.resyncKids ++ [r] })).resyncMove pen))) ∧
    (∀ a v, votingAttempt j = some a →
      (votes a v → a.sentUp = true → exec (.voteReceive pen .parent (.vote v)) s = .next
        (((s.forwardOutcome pen j (voteLine v)).applyOutcome pen v).voteMove pen)) ∧
      (¬ votes a v ∨ a.sentUp = false → exec (.voteReceive pen .parent (.vote v)) s = .next s)) ∧
    (∀ x y, j.resyncSent = true → j.resyncOut = false → exec (.voteReceive pen .parent (.resync x y)) s = .next
      ((s.forwardOutcome pen j (resyncLine j.nextStep (SMap.get (fun _ => 0) j.attempts j.nextStep))).onJob pen
        (fun j => { j with resyncOut := true }))) ∧
    (j.draining = true → (∀ kv ∈ j.tx, kv.2.open_ = []) →
      exec (.sendDrainComplete pen) s = .next ((s.onJob pen (fun j => { j with draining := false })).joinResync pen)) ∧
    (j.resyncOut = true →
      exec (.resyncDone pen) s = .next (((s.onGroups pen (fun x => { x with chunks := [], order := [], total := 0 })).onJob pen (fun j =>
        { j with resync := false, resyncSelf := false, resyncSent := false, resyncOut := false, resyncKids := [], rxXfers := [],
                 rxHeld := [], holdRound := false, statusNext := 0#64 })).setFld .updJob 7 1 0 (pen - 1))) ∧
    (∀ a, votingAttempt j = some a → s.fld .errPolicy 8 8 ≠ 0 →
      let who := (kids.find? (fun k => !a.kids.any (fun q => decide (q.1 = k)))).getD (treeParent j.rank)
      exec (.voteTimeout pen) s = .next (s.jobEnd pen 496 [ef who] (some a) (a.status ||| 8#64 ||| 64#64)))

/-- The outcome is the first row of R447 that matches the combined status word: terminal, poison, rewind, skip, else cap. -/
def Obligations.OutcomeIsTheFirstMatchingRow : Prop :=
  ∀ (s : State) (pen : Nat) (j : Job) (a : Attempt) (v : Vote),
    s.job pen = some j → votingAttempt j = some a →
    let s1 := ((s.setReg .updStatus v.status (pen - 1)).setFld .updCount 0 32 v.nonfinite (pen - 1)).setFld
      .updCount 32 32 (min a.nonfinite 0xFFFFFFFF) (pen - 1)
    (v.status.getLsbD 6 = true ∨ j.aborting = true →
      (j.cause ≠ 0 → s.applyOutcome pen v = s1.jobEnd pen j.cause j.causeFields (some a) v.status) ∧
      (j.cause = 0 → s.applyOutcome pen v = (s1.drawNat 16).2.jobEnd pen (s1.drawNat 16).1 [] (some a) v.status)) ∧
    (v.status.getLsbD 6 = false → j.aborting = false →
      (v.status.getLsbD 4 = true →
        s.applyOutcome pen v = (s1.postBoth pen 326 a.step [ef a.step]).jobEnd pen 326 [] (some a) v.status) ∧
      (v.status.getLsbD 4 = false →
        (v.status.getLsbD 3 = true ∨ v.status.getLsbD 2 = true → s.applyOutcome pen v = s1.applyRewind pen a v) ∧
        (v.status.getLsbD 3 = false → v.status.getLsbD 2 = false →
          (v.status.getLsbD 0 = true ∨ v.status.getLsbD 1 = true → s.applyOutcome pen v = s1.applySkip pen a v) ∧
          (v.status.getLsbD 0 = false → v.status.getLsbD 1 = false → s.applyOutcome pen v = s1.applyCap pen a v))))

/-- Payloads combine in any order (R446): counts saturate, status words OR, digests XOR. -/
def Obligations.VotePayloadsCombineInAnyOrder : Prop :=
  ∀ (x : Vote) (ks ks' : List Vote), ks.Perm ks' →
    (∀ k ∈ ks, k.digests.length = x.digests.length) →
    ks.foldl combineVote x = ks'.foldl combineVote x


/-! ### Device memory -/

/-- A line of device memory, read and written at its controller. A read whose sectors are good answers the stored bytes and the mark and
changes nothing else (R314, R317); a corrected sector is counted and its line logged (R315); a sector that cannot be corrected makes the
read answer 64 zero bytes, poisoned, and the first such read of the line is counted and shown (R316); an undetected error passes as
data (R314). A write stores its bytes and every other byte keeps; a whole line takes its mark from the write, a part of a marked line
leaves it marked, and a part of an unreadable line leaves zeros around the part, marked (R288, R317). The device's own tables and record
read as they stand (R304), and a write leaves them (the model's choice, DESIGN CHOICE, log entry 15). A line that does not exist faults
(R301). A context that is not resident lies in the slot of its site (R62, R63, R304): a line of the slot reads as the bytes of the
context's scratchpad at the image's addresses and is poisoned when they are, and a write of a whole line is a write of that scratchpad;
the state block behind them reads as free bytes (the model's choice, DESIGN CHOICE, log entry 15). -/
def Obligations.DeviceMemoryLines : Prop :=
  (∀ (s : State) (b : Fin 12) (line off : Nat) (data : List Byte) (poison : Bool) (ecc : EccOut),
     line < stackLines → s.stackUp b.val = true → s.injection = none → s.imageLine b.val line = none →
     let d := b.val * stackLines + line
     let stored := (List.range 64).map (fun i => s.hbmByte (64 * d + i))
     (s.deviceLine b.val line = none →
       (s.lineBad d = false →
         exec (.memRead b line ⟨.good, .good⟩) s = .next { s with lastRead := stored, lastPoison := s.linePoison d }) ∧
       (s.lineBad d = false → s.linePoison d = false → eccFails ecc = false → ecc.lo = .good ∨ ecc.lo = .corrected →
         ecc.hi = .good ∨ ecc.hi = .corrected → ∃ t, exec (.memRead b line ecc) s = .next t ∧
           t.lastRead = stored ∧ t.lastPoison = false ∧
           t.fld .hbmEccCount 0 32 b.val = min (2 ^ 32 - 1) (s.fld .hbmEccCount 0 32 b.val + eccCorrections ecc) ∧
           (0 < eccCorrections ecc → (s.bay b.val).log.length < 256 → ∃ m, (line, m) ∈ (t.bay b.val).log)) ∧
       (s.lineBad d = false → s.linePoison d = false → eccFails ecc = true → ∃ t, exec (.memRead b line ecc) s = .next t ∧
         t.lastRead = zeros 64 ∧ t.lastPoison = true ∧
         (∀ i, i < 64 → t.devByte (64 * d + i) = 0#8 ∧ t.devPoison (64 * d + i) = true) ∧
         (line ∉ (s.bay b.val).raised →
           t.fld .hbmEccCount 32 16 b.val = min (2 ^ 16 - 1) (s.fld .hbmEccCount 32 16 b.val + 1) ∧
           t.reg .hbmPoisonLast b.val = BitVec.ofNat 64 (64 * line + s.penOfBay b.val * 2 ^ 36 + 2 ^ 63) ∧
           line ∈ (t.bay b.val).raised)) ∧
       (∀ bs : List Byte, s.lineBad d = false → s.linePoison d = false → bs.length = 32 →
         ∃ t, exec (.memRead b line ⟨.undetected bs, .good⟩) s = .next t ∧ t.lastRead = bs ++ stored.drop 32 ∧ t.lastPoison = false ∧
           t = { s with hbm := t.hbm, lastRead := t.lastRead, lastPoison := t.lastPoison }) ∧
       (0 < data.length → off + data.length ≤ 64 → data.length = 64 ∨ (ecc = ⟨.good, .good⟩ ∧ s.lineBad d = false) →
         ∃ t, exec (.memWrite b line off data poison ecc) s = .next t ∧
           t = { s with hbm := t.hbm, poison := t.poison, badLines := t.badLines } ∧
           (∀ i, i < data.length → t.hbmByte (64 * d + off + i) = data.getD i 0#8) ∧
           (∀ x, (x < 64 * d + off ∨ 64 * d + off + data.length ≤ x) → t.hbmByte x = s.hbmByte x) ∧
           t.linePoison d = (poison || (decide (data.length < 64) && s.linePoison d)) ∧ t.lineBad d = false ∧
           ∀ e, e ≠ d → t.linePoison e = s.linePoison e ∧ t.lineBad e = s.lineBad e) ∧
       (0 < data.length → data.length < 64 → off + data.length ≤ 64 → s.lineBad d = true →
         ∃ t, exec (.memWrite b line off data poison ecc) s = .next t ∧ t.linePoison d = true ∧ t.lineBad d = false ∧
           (∀ i, i < data.length → t.hbmByte (64 * d + off + i) = data.getD i 0#8) ∧
           (∀ i, i < 64 → i < off ∨ off + data.length ≤ i → t.hbmByte (64 * d + i) = 0#8))) ∧
     (∀ bs, s.deviceLine b.val line = some bs → s.lineBad d = false →
       exec (.memRead b line ⟨.good, .good⟩) s = .next { s with lastRead := bs, lastPoison := false } ∧
       (data.length = 64 → exec (.memWrite b line 0 data poison ecc) s = .next s))) ∧
  (∀ (s : State) (b : Fin 12) (line off : Nat) (data : List Byte) (p : Bool) (ecc : EccOut), stackLines ≤ line →
     exec (.memRead b line ecc) s = .fault .noSuchLine ∧ exec (.memWrite b line off data p ecc) s = .fault .noSuchLine) ∧
  (∀ (s : State) (b line : Nat), s.lineBad (b * stackLines + line) = true →
     s.readLine (b * stackLines + line) = (zeros 64, true) ∧
     ∀ i, i < 64 → s.devByte (64 * (b * stackLines + line) + i) = 0#8 ∧ s.devPoison (64 * (b * stackLines + line) + i) = true) ∧
  (∀ (s : State) (b : Fin 12) (line : Nat) (data : List Byte) (poison : Bool) (ecc : EccOut) (k o : Nat),
     line < stackLines → s.stackUp b.val = true → s.injection = none → s.imageLine b.val line = some (k, o) →
     s.lineBad (b.val * stackLines + line) = false →
     let c := s.core k
     (c.inStateBlock o = false → ∃ t, exec (.memRead b line ⟨.good, .good⟩) s = .next t ∧
       t = { s with cores := t.cores, lastRead := t.lastRead, lastPoison := t.lastPoison } ∧ (∀ q, t.core q = s.core q) ∧
       t.lastRead.length = 64 ∧ t.lastPoison = c.imagePoison o ∧
       ∀ i a, i < 64 → imageAddr c.imageRanges (o + i) = some a → t.lastRead.getD i 0#8 = c.spadByte a) ∧
     (c.inStateBlock o = true → ∃ t, exec (.memRead b line ⟨.good, .good⟩) s = .next t ∧
       t = { s with cores := t.cores, fresh := s.fresh + 8, lastRead := t.lastRead, lastPoison := false } ∧
       (∀ q, t.core q = s.core q) ∧ t.lastRead.length = 64) ∧
     (data.length = 64 → ∃ t, exec (.memWrite b line 0 data poison ecc) s = .next t ∧ t = { s with cores := t.cores } ∧
       (∀ q, q ≠ k → t.core q = s.core q) ∧ SpadOnly c (t.core k) ∧
       (∀ i a, i < 64 → imageAddr c.imageRanges (o + i) = some a → (t.core k).spadByte a = data.getD i 0#8) ∧
       (∀ a, (∀ i, i < 64 → imageAddr c.imageRanges (o + i) ≠ some a) → (t.core k).spadByte a = c.spadByte a) ∧
       (∀ i a, i < 64 → imageAddr c.imageRanges (o + i) = some a → (t.core k).lineBad (a / 64) = poison)))

/-- Refresh, temperature and patrol (R324, R326): a refresh takes the next bank of the rotation; at 85 °C a stack becomes hot with its
event, below 80 °C it no longer is; the patrol of an idle stack reads its line and moves on, a line that it cannot correct ends stored
marked. The boundary work of a pen (R330) in order: logged lines are read again, at most four due rows of each bay are retired, a passed
commit becomes active, the window caches and the logs are emptied; a logged line that cannot be read ends stored marked. -/
def Obligations.StackUpkeepAndBoundaries : Prop :=
  (∀ (s : State) (b : Fin 12) (c : Int) (ecc : EccOut), s.stackUp b.val = true →
     let x := s.bay b.val
     let d := b.val * stackLines + x.patrolLine
     exec (.refresh b) s = .next (s.setBay b.val { x with
       refreshBank := (x.refreshBank + 1) % 64, refreshes := x.refreshes + 1 }) ∧
     (let t := s.setBay b.val { x with tempC := c }
      exec (.stackTempChange b c) s = .next (
        if 85 ≤ c ∧ s.fld .hbmBayStatus 2 1 b.val = 0 then (t.setFld .hbmBayStatus 2 1 1 b.val).postBoth (s.penOfBay b.val) 355 0 [ef b.val]
        else if c < 80 ∧ s.fld .hbmBayStatus 2 1 b.val = 1 then t.setFld .hbmBayStatus 2 1 0 b.val
        else t)) ∧
     (s.bayIdle b.val = true → s.injection = none →
       (ecc = ⟨.good, .good⟩ → s.lineBad d = false →
         exec (.patrol b ecc) s = .next (s.setBay b.val { x with
           patrolLine := (x.patrolLine + 1) % stackLines, raised := [],
           log := x.log.filter (fun e => decide (e.1 ≠ x.patrolLine)) })) ∧
       ((s.lineBad d = true ∨ (s.linePoison d = false ∧ eccFails ecc = true)) →
         ∃ t, exec (.patrol b ecc) s = .next t ∧ t.linePoison d = true ∧ t.lineBad d = false ∧
           (∀ i, i < 64 → t.hbmByte (64 * d + i) = 0#8) ∧ (t.bay b.val).patrolLine = (x.patrolLine + 1) % stackLines))) ∧
  (∀ (s : State) (pen : Pen) (j : Job) (es : List EccOut), s.job pen = some j → j.boundaryDue = true →
     let ls := s.logged pen
     let s1 := ((List.range ls.length).zip ls).foldl (fun s x => s.rereadLine x.2.1 x.2.2 (es.getD x.1 ⟨.good, .good⟩)) s
     let s2 := (s1.baysOf pen).foldl (fun s b => State.retireDue 4 s b) s1
     let s3 := (if (s2.pen pen).activatePending then s2.activateWindows pen else s2).emptyWindows pen
     exec (.boundaryWork pen es) s = .next (((s3.baysOf pen).foldl (fun s b => s.onBay b (fun x =>
       { x with log := [], raised := [] })) s3).onJob pen (fun j => { j with boundaryDue := false })) ∧
     ∃ t, exec (.boundaryWork pen es) s = .next t ∧ t.job pen = some { j with boundaryDue := false } ∧
       (∀ b ∈ s.baysOf pen, (t.bay b).log = [] ∧ (t.bay b).raised = [] ∧ (t.bay b).winCache = [] ∧
         ∀ e ∈ (s.bay b).log, s.lineBad (b * stackLines + e.1) = true →
           t.lineBad (b * stackLines + e.1) = false ∧ t.linePoison (b * stackLines + e.1) = true ∧
           ∀ i, i < 64 → t.hbmByte (64 * (b * stackLines + e.1) + i) = 0#8) ∧
       (t.pen pen).activatePending = false ∧
       (t.pen pen).active = (if (s.pen pen).activatePending then (s.pen pen).staging else (s.pen pen).active))

/-- Window commits (R309, R310, R338 to R340): a commit starts the check of the staging table; a table that fails keeps the active
one and reports its first failing entry; one that passes becomes active at once without a job and at the boundary with one. The data
registers, whole or by halves, read the pen's table that the selector names and write its staging entry while no commit is pending; an
access to the second register steps the index where it is told to (R338; a half is an access too: DEDUCED, log entry 121). -/
def Obligations.WindowCommitIsCheckedAndActivated : Prop :=
  ∀ (s : State) (fn : Func) (pen : Pen) (second : Bool) (part : RegPart) (v : Word64),
    (fn.val ≠ 0 → (s.pen fn.val).present = true → (s.pen fn.val).commitPending = false →
      exec (.windowCommit fn) s = .next (s.onPen fn.val (fun x => { x with checkRunning := true }))) ∧
    ((s.pen pen).checkRunning = true →
      (∀ ix st, s.commitFail pen = some (ix, st) →
        exec (.commitCheckDone pen) s = .next (s.onPen pen (fun x => { x with
          checkRunning := false, winStatus := st, winFail := ix }))) ∧
      (s.commitFail pen = none → (s.job pen).isSome = true →
        exec (.commitCheckDone pen) s = .next (s.onPen pen (fun x => { x with
          checkRunning := false, winStatus := 0, winFail := 0, activatePending := true }))) ∧
      (s.commitFail pen = none → s.job pen = none →
        ∃ t, exec (.commitCheckDone pen) s = .next t ∧ t = { s with pens := t.pens, bays := t.bays } ∧
          (∀ p, t.pen p = if p = pen then { s.pen pen with
            active := (s.pen pen).staging, checkRunning := false, activatePending := false, winStatus := 0, winFail := 0,
            activations := satAdd 32 (s.pen pen).activations 1 } else s.pen p) ∧
          ∀ b, t.bay b = if b ∈ s.baysOf pen then { s.bay b with winCache := [] } else s.bay b)) ∧
    (let ix := s.fld .hbmWinAddr 0 12 0 fn.val
     let steps (t : State) : State :=
       if second = true ∧ s.fld .hbmWinAddr 16 1 0 fn.val = 1 then t.setFld .hbmWinAddr 0 12 (ix + 1) 0 fn.val else t
     let lo := partLo part
     let n := partBits part
     exec (.winDataAccess fn ⟨second, part⟩ .read) s =
       .next (steps { s with lastRead := le (n / 8) ((s.winData fn.val second).toNat / 2 ^ lo % 2 ^ n) }) ∧
     (fn.val ≠ 0 → (s.pen fn.val).present = true → (s.pen fn.val).commitPending = false → s.fld .hbmWinAddr 17 1 0 fn.val = 0 →
       ∃ t, exec (.winDataAccess fn ⟨second, part⟩ (.write v)) s = .next (steps t) ∧ t = { s with pens := t.pens } ∧
         let old := SMap.get (fun _ => (0#64, 0#64)) (s.pen fn.val).staging ix
         let w (x : Word64) : Word64 := putBits x lo n v.toNat
         SMap.get (fun _ => (0#64, 0#64)) (t.pen fn.val).staging ix = (if second then (old.1, w old.2) else (w old.1, old.2)) ∧
         (∀ k, k ≠ ix → SMap.get (fun _ => (0#64, 0#64)) (t.pen fn.val).staging k =
           SMap.get (fun _ => (0#64, 0#64)) (s.pen fn.val).staging k) ∧
         t.pen fn.val = { s.pen fn.val with staging := (t.pen fn.val).staging } ∧ ∀ p, p ≠ fn.val → t.pen p = s.pen p) ∧
     (fn.val = 0 ∨ (s.pen fn.val).present = false ∨ (s.pen fn.val).commitPending = true ∨ s.fld .hbmWinAddr 17 1 0 fn.val = 1 →
       exec (.winDataAccess fn ⟨second, part⟩ (.write v)) s = .next (steps s)))

/-- The translation of a pen's virtual address (R307): the first active entry that covers it decides, with a WINDOW_PERM where it
does not grant the access and a WINDOW_MISS where none covers it (R308). -/
def Obligations.FirstCoveringWindowDecides : Prop :=
  ∀ (s : State) (pen : Nat) (isWrite : Bool) (va : Nat), va < 2 ^ 48 →
    ((∀ kv ∈ (s.pen pen).active, (winEntry kv.2).covers va = false) → s.translate pen isWrite va = .error 1) ∧
    (∀ pre kv post, (s.pen pen).active = pre ++ kv :: post → (∀ q ∈ pre, (winEntry q.2).covers va = false) →
      (winEntry kv.2).covers va = true →
      s.translate pen isWrite va =
        if (if isWrite then (winEntry kv.2).wr else (winEntry kv.2).rd) = true then
          .ok (stripeDpa (maskBays (winEntry kv.2).mask) ((winEntry kv.2).frame * 2 ^ 21) (winEntry kv.2).stripeSize
            (va - (winEntry kv.2).lo))
        else .error 2)

/-! ### Links -/

/-- Codewords and retrains (R341, R343, R344, R352): a codeword with at most 15 symbols in error delivers its flit, and counts as corrected
when it had any; any other is counted, adds to its lane's run, and its flit is lost. Eight in a row, an exhausted budget or the partner
start a retrain that keeps every message. The lanes that failed in it are retired and the others reported; with the partner's lanes and
identity the port is UP again and resumes from the first unacknowledged flit. What a codeword's payload carries is read back from it. -/
def Obligations.CodewordsAndRetrains : Prop :=
  (∀ (s : State) (p : Port) (lane : Nat) (cw : Codeword),
    let x := s.port p.val
    let l := x.lane lane
    let got (lost : Bool) := s.setPort p.val (x.takeCw (s.rxLanes p.val) lane cw lost)
    s.cwArrive p.val = true → lane < 8 → (s.rxLanes p.val).getLsbD lane = true → s.injection = none →
    (cwErrors cw = 0 → exec (.codewordReceive p lane cw.payload cw.errs) s = .next (got false)) ∧
    (0 < cwErrors cw → cwErrors cw ≤ 15 →
      exec (.codewordReceive p lane cw.payload cw.errs) s = .next (((got false).bump .xglErrCount 0 32 p.val).countEvent p.val 13 lane false)) ∧
    (15 < cwErrors cw →
      exec (.codewordReceive p lane cw.payload cw.errs) s = .next (((got true).bump .xglErrCount 32 16 p.val).countEvent p.val 14 lane false)) ∧
    (∀ lost, let y := x.takeCw (s.rxLanes p.val) lane cw lost
      y = { x with cwCount := y.cwCount, rxCw := y.rxCw, lanes := y.lanes } ∧ (∀ k, k ≠ lane → y.lane k = x.lane k) ∧
      (lost = false → y.rxCw = x.rxCw ++ [(cwNum cw.payload / 8 % 4096, cwNum cw.payload % 8, some (le 640 (cwNum cw.payload / 2 ^ 20)))] ∧
        used y.cwCount lane = cwNum cw.payload / 8 % 4096 ∧
        y.lane lane = { l with unlockRun := 0, windowBits := l.windowBits + cwBits cw, berBits := l.berBits + cwBits cw }) ∧
      (lost = true → y.rxCw = x.rxCw ++ [((used x.cwCount lane + 1) % 4096, (maskLanes (s.rxLanes p.val)).idxOf lane, none)] ∧
        used y.cwCount lane = (used x.cwCount lane + 1) % 4096 ∧
        y.lane lane = { l with unlockRun := l.unlockRun + 1, windowUe := l.windowUe + 1, berBits := l.berBits + 160 }))) ∧
  (∀ (lane count : Nat) (flit : List Byte), lane < 8 → count < 4096 → flit.length = 640 →
    let pl := cwPayload lane count flit
    pl.length = 514 ∧ cwLane pl = lane ∧ cwCountOf pl = count ∧ cwFlit pl = flit) ∧
  (∀ (s : State) (p : Port) (lane : Nat) (bad : BitVec 8),
    let x := s.port p.val
    (s.portRuns p.val = true → 8 ≤ (x.lane lane).unlockRun →
      ∃ t, exec (.lossOfLock p lane) s = .next t ∧ RetrainBegun s t p.val ∧ (t.port p.val).ctlOut = x.ctlOut ++ [(.retrain, 3)]) ∧
    (s.portState p.val = portUp → s.retryBudget ≤ x.nakRun →
      ∃ t, exec (.retryBudgetExhausted p) s = .next t ∧ RetrainBegun s t p.val ∧
        (t.port p.val).ctlOut = x.ctlOut ++ [(.retrain, 3)]) ∧
    (s.portRuns p.val = true →
      ∃ t, exec (.retrain p) s = .next t ∧ RetrainBegun s t p.val ∧ (t.port p.val).ctlOut = x.ctlOut) ∧
    (s.portRuns p.val = false → exec (.retrain p) s = .next (s.setPort p.val { x with ctlIn := x.ctlIn.erase .retrain })) ∧
    (s.portState p.val = portRetraining → x.locked = none →
      let rx := x.rxGood &&& ~~~bad
      (x.idIn = none ∨ x.lanesIn = none →
        ∃ t, exec (.retrainDone p bad) s = .next t ∧ t.portState p.val = portRetraining ∧
          t.port p.val = { x with locked := some rx, ctlOut := x.ctlOut ++ reports s p.val rx x.rxExpect } ∧
          (x.rxGood &&& bad = 0#8 → LinkOnly s t p.val) ∧
          ∀ l, l < 8 → x.rxGood.getLsbD l = true → bad.getLsbD l = true → (t.retiredLanes p.val 1).getLsbD l = true) ∧
      (∀ i m, x.rxGood &&& bad = 0#8 → x.idIn = some i → x.lanesIn = some m → x.txGood &&& ~~~m = 0#8 →
        ∃ t, exec (.retrainDone p bad) s = .next t ∧ LinkOnly s t p.val ∧ t.portState p.val = portUp ∧
          t.port p.val = { x with
            resend := x.replay, nakDue := false, discarding := false, locked := none, ctlOut := x.ctlOut ++ reports s p.val rx x.rxExpect } ∧
          t.fld .xglPartner 0 16 p.val = i.devId.toNat)))

/-- The CONTROL operations of a partner and the windows of a lane (R350, R371, R372, R374): a port that is absent, quiet or idle takes no
notice; an identity is recorded while the port runs; a report of good lanes narrows the transmit direction from its fseq; a window below
threshold ends a lane's run, and enough windows above it in a row make the lane due; a lane that is due is retired at its moment with
LANES sent, and one that the partner left out is retired by its sender. -/
def Obligations.IdentityLanesAndRetirement : Prop :=
  ∀ (s : State) (p : Port) (lane : Nat) (i : LinkIdentity) (good : BitVec 8) (fseq : BitVec 32),
    let x := s.port p.val
    (s.portDeaf p.val = true → exec (.identity p i) s = .next s ∧ exec (.lanes p good fseq) s = .next s) ∧
    (s.portRuns p.val = true →
      ∃ t, exec (.identity p i) s = .next t ∧ LinkOnly s t p.val ∧
        t.port p.val = { x with ctlIn := x.ctlIn.erase (.identity i), idIn := some i } ∧
        t.fld .xglPartner 0 16 p.val = i.devId.toNat ∧ t.fld .xglPartner 24 16 p.val = i.part.toNat ∧
        t.reg .xglPartnerSn p.val = i.serial) ∧
    (s.portDeaf p.val = false → s.portRuns p.val = false → x.locked = none →
      exec (.identity p i) s = .next (s.setPort p.val { x with ctlIn := x.ctlIn.erase (.identity i), idIn := some i }) ∧
      exec (.lanes p good fseq) s = .next (s.setPort p.val { x with
        ctlIn := x.ctlIn.erase (.lanes good fseq), lanesIn := some good })) ∧
    (s.portRuns p.val = true →
      let y (w : Option (Nat × BitVec 8)) : XPort := { x with ctlIn := x.ctlIn.erase (.lanes good fseq), lanesIn := some good, widthFrom := w }
      ((x.txSeq + 2 ^ 32 - fseq.toNat) % 2 ^ 32 < 2 ^ 31 →
        ∃ s1, LinkOnly s s1 p.val ∧ s1.regs = s.regs ∧ s1.port p.val = y none ∧
          exec (.lanes p good fseq) s = .next (s1.changeWidth p.val 0 (x.txGood &&& good))) ∧
      (2 ^ 31 ≤ (x.txSeq + 2 ^ 32 - fseq.toNat) % 2 ^ 32 →
        ∃ t, exec (.lanes p good fseq) s = .next t ∧ LinkOnly s t p.val ∧ t.regs = s.regs ∧
          t.port p.val = y (some (fseq.toNat, x.txGood &&& good)))) ∧
    (∀ l : Lane, s.windowAbove l = true ↔ (s.fld .xglPolicy 0 8 ≠ 0 ∧ s.fld .xglPolicy 0 8 ≤ l.windowUe) ∨
      (s.fld .xglPolicy 12 4 ≠ 0 ∧ 2125000000 < l.windowBits * 10 ^ s.fld .xglPolicy 12 4)) ∧
    (s.portState p.val = portUp → s.injection = none →
      let inUse (l : Nat) := (BitVec.ofNat 8 (s.fld .xglPortStatus 24 8 p.val)).getLsbD l
      let need := s.fld .xglPolicy 8 4
      ((∀ l, l < 8 → inUse l = true → good.getLsbD l = true → s.windowAbove (x.lane l) = false) →
        ∃ t, exec (.laneWindowEnd p good) s = .next t ∧ LinkOnly s t p.val ∧
          t.fld .xglLanes 16 8 p.val = (BitVec.ofNat 8 (s.fld .xglLanes 16 8 p.val) &&& ~~~good).toNat ∧
          ∀ l, l < 8 → (t.port p.val).lane l =
            if inUse l && good.getLsbD l then { x.lane l with windowUe := 0, windowBits := 0, aboveRun := 0 } else x.lane l) ∧
      (lane < 8 → inUse lane = true → good.getLsbD lane = true → s.windowAbove (x.lane lane) = true →
        ∃ t, exec (.laneWindowEnd p good) s = .next t ∧ t.fld .xglLanes (16 + lane) 1 p.val = 1 ∧ ((t.port p.val).lane lane).aboveRun = (x.lane lane).aboveRun + 1 ∧
          ((t.port p.val).lane lane).windowUe = 0 ∧ ((t.port p.val).lane lane).windowBits = 0 ∧
          (need ≠ 0 → need ≤ (x.lane lane).aboveRun + 1 → ((t.port p.val).lane lane).due = true))) ∧
    (lane < 8 → s.portState p.val = portUp → (x.lane lane).due = true → s.laneMoment p.val = true →
      let left := x.rxGood &&& ~~~(BitVec.ofNat 8 (2 ^ lane))
      let from_ := (x.rxExpect + 512) % 2 ^ 32
      ∃ s1, exec (.laneRetire p false lane) s = .next s1 ∧ (s1.port p.val).rxGood = left ∧
        (s1.port p.val).rxWidthFrom = some (from_, left) ∧
        (s1.port p.val).ctlOut = x.ctlOut ++ [(.lanes left (BitVec.ofNat 32 from_), 3)] ∧
        ((s1.port p.val).lane lane).due = false ∧ (s1.retiredLanes p.val 1).getLsbD lane = true) ∧
    (∀ m, lane < 8 → s.portState p.val = portUp → x.lanesIn = some m → m.getLsbD lane = false →
      (s.retiredLanes p.val 0).getLsbD lane = false →
      exec (.laneRetire p true lane) s = .next (s.retireLane p.val 0 lane) ∧
        ((s.retireLane p.val 0 lane).retiredLanes p.val 0).getLsbD lane = true)

/-- Training (R374 to R380): the link stage powers every present port's synthesiser and opens the census; a lock lets a port train, a
held request then succeeds and without a lock it fails; an attempt starts the link layer afresh and waits for the lock where there is
none; a partner's signalling is answered while fewer than six ports are in step 2, or noted while the port is quiet. Steps 2 and 3 end
with the lanes that locked within a skew of four codewords, which the port reports with its identity; the training ends when the
partner's are in, UP or CHECKING, or DOWN with fewer than two lanes in a direction. No lane above the threshold brings a checked port UP;
one above it has it trained once more, and then is retired. A removed partner brings the port DOWN. -/
def Obligations.TrainingBringsAPortUp : Prop :=
  ∀ (s : State) (p : Port) (i : LinkIdentity) (m pre locked : BitVec 8) (fseq : BitVec 32) (skews : List Nat),
    let x := s.port p.val
    (s.stage = stageLinks → s.linkStage = false → s.power ≠ .off → s.power ≠ .keep →
      ∃ t, exec .linkStageBegin s = .next t ∧ t = { s with regs := t.regs, linkStage := true, linkDone := false, censusOpen := true } ∧
        ∀ q, q < 12 → s.bayPresent q = true → t.portState q = portSettling) ∧
    (s.portState p.val = portSettling →
      (x.held = none → x.attempt = false →
        exec (.synthLock p) s = .next ((s.setFld .xglPortStatus 12 1 1 p.val).setPortState p.val portTraining)) ∧
      (x.held = none → x.attempt = true →
        ∃ t, exec (.synthLock p) s = .next t ∧ TrainingBegun s t p.val ∧ t.fld .xglPortStatus 12 1 p.val = 1) ∧
      (∀ m, x.held = some m →
        (∃ t, exec (.synthLock p) s = .next t ∧ TrainingBegun s t p.val ∧ (t.port p.val).held = none ∧ t.fld .xglCmd 8 8 = 0 ∧
          t.fld .xglCmd 6 1 = 0 ∧ t.fld .xglPortStatus 12 1 p.val = 1) ∧
        (∃ t, exec (.synthTimeout p) s = .next t ∧ LinkOnly s t p.val ∧ t.portState p.val = portDown ∧ (t.port p.val).held = none ∧
          t.fld .xglCmd 8 8 = 2 ∧ t.fld .xglCmd 6 1 = 0)) ∧
      (x.held = none → ∃ t, exec (.synthTimeout p) s = .next t ∧ LinkOnly s t p.val ∧ t.portState p.val = portDown ∧
        (t.port p.val).attempt = false ∧ t.reg .xglCmd = s.reg .xglCmd) ∧
      (s.linkStage = true → exec (.trainingAttempt p) s = .next (s.setPort p.val { x with attempt := true }) ∧
        exec (.signalDetect p) s = .next (s.setPort p.val { x with attempt := true }))) ∧
    (s.linkStage = true → s.fld .xglPortStatus 12 1 p.val = 1 → s.portState p.val = portTraining ∨ s.portState p.val = portDown →
      (x.training = false ∨ x.partnerSeen = false →
        ∃ t, exec (.trainingAttempt p) s = .next t ∧ TrainingBegun s t p.val ∧ (t.port p.val).partnerSeen = false) ∧
      (s.inStep2 < 6 →
        (x.training = true → s.portState p.val = portTraining →
          exec (.signalDetect p) s = .next (s.setPort p.val { x with partnerSeen := true })) ∧
        (x.training = false ∨ s.portState p.val = portDown →
          ∃ t, exec (.signalDetect p) s = .next t ∧ TrainingBegun s t p.val ∧ (t.port p.val).partnerSeen = true)) ∧
      (6 ≤ s.inStep2 → exec (.signalDetect p) s = .next s)) ∧
    (s.portState p.val = portQuiet →
      exec (.signalDetect p) s = .next (s.setFld .xglPortStatus 15 1 1 p.val)) ∧
    ((∀ q ∈ skews, q < 2 ^ 64) → ∀ l, l < 8 →
      ((deskewed locked skews).getLsbD l = true ↔
        locked.getLsbD l = true ∧ ∀ k, k < 8 → locked.getLsbD k = true → skews.getD l 0 ≤ skews.getD k 0 + 4)) ∧
    (x.training = true → s.portState p.val = portTraining →
      let rx := deskewed locked skews &&& ~~~(s.retiredLanes p.val 1)
      let tx (m : BitVec 8) := m &&& ~~~(s.retiredLanes p.val 0)
      let sent : XPort := { x with ctlOut := x.ctlOut ++ reports s p.val rx 0 }
      (x.partnerSeen = true → x.locked = none →
        (widthOf rx = 0 → ∃ t, exec (.trainingComplete p locked skews pre) s = .next t ∧ t.portState p.val = portDown) ∧
        (widthOf rx ≠ 0 →
          (x.idIn = none ∨ x.lanesIn = none →
            ∃ t, exec (.trainingComplete p locked skews pre) s = .next t ∧ LinkOnly s t p.val ∧
              t.port p.val = { sent with locked := some rx } ∧ t.portState p.val = portTraining ∧
              t.fld .xglLanes 24 8 p.val = pre.toNat) ∧
          (x.idIn = some i → x.lanesIn = some m → widthOf (tx m) ≠ 0 →
            ∃ t, exec (.trainingComplete p locked skews pre) s = .next t ∧ Trained s t p.val sent rx (tx m) i))) ∧
      (∀ rx, x.locked = some rx → widthOf rx ≠ 0 → widthOf (tx m) ≠ 0 →
        (x.lanesIn = some m → ∃ t, exec (.identity p i) s = .next t ∧
          Trained s t p.val { x with ctlIn := x.ctlIn.erase (.identity i), idIn := some i } rx (tx m) i) ∧
        (x.idIn = some i → ∃ t, exec (.lanes p m fseq) s = .next t ∧
          Trained s t p.val { x with ctlIn := x.ctlIn.erase (.lanes m fseq), lanesIn := some m } rx (tx m) i)) ∧
      (∀ rx, x.locked = some rx → x.idIn = some i → widthOf (tx m) = 0 →
        ∃ t, exec (.lanes p m fseq) s = .next t ∧ t.portState p.val = portDown)) ∧
    (s.portState p.val = portChecking →
      let be := s.fld .xglPolicy 12 4
      let tooMany (l : Nat) := be ≠ 0 ∧ 106250000000 < (x.lane l).berBits * 10 ^ be
      (locked ≠ lanesInUse x.rxGood → exec (.berWindowEnd p locked) s = .next s) ∧
      ((∀ l, l < 8 → (lanesInUse x.rxGood).getLsbD l = true → ¬ tooMany l) →
        ∃ t, exec (.berWindowEnd p (lanesInUse x.rxGood)) s = .next t ∧ LinkOnly s t p.val ∧ t.portState p.val = portUp ∧
          ∀ l, l < 8 → (t.port p.val).lane l = { x.lane l with berBits := 0 }) ∧
      (∀ l, l < 8 → (lanesInUse x.rxGood).getLsbD l = true → tooMany l →
        (x.berRound = false → ∃ t, exec (.berWindowEnd p (lanesInUse x.rxGood)) s = .next t ∧ TrainingBegun s t p.val ∧ (t.port p.val).berRound = true ∧
          ((t.port p.val).partnerSeen = true ↔ s.inStep2 < 6)) ∧
        (x.berRound = true → ∃ t, exec (.berWindowEnd p (lanesInUse x.rxGood)) s = .next t ∧ (t.retiredLanes p.val 1).getLsbD l = true ∧
          (t.port p.val).rxGood.getLsbD l = false ∧ (t.portState p.val = portUp ∨ t.portState p.val = portDown)))) ∧
    (s.portRuns p.val = true ∨ s.portState p.val = portRetraining →
      exec (.partnerRemoved p) s = .next (s.portGoDown p.val) ∧
      (s.portGoDown p.val).portState p.val = portDown ∧ (s.portGoDown p.val).fld .xglPartner 18 1 p.val = 1) ∧
    (s.censusOpen = true → exec .censusClose s = .next { s with censusOpen := false }) ∧
    (s.linkStage = true → s.linkDone = false → (∀ q, q < 12 → s.portSettled q = true) →
      exec .linkStageEnd s = .next { s with linkDone := true })

/-- The commands of XGL_CMD (R382, R386, R387): TRAIN powers a synthesiser that is off, is held while it settles and begins a training once it has
locked; IDLE leaves the port in electrical idle; CLEAR_COUNTS clears the error counts. Each answers status 0 when it is done, and a
refused one its code; a command of the authority ends a held one of the operator with PREEMPTED. -/
def Obligations.PortCommandsTrainIdleAndClear : Prop :=
  (∀ (s : State) (p : Nat) (master : Master), s.preempts master = false →
    (s.xglRefused p master true = none →
      (s.portState p = portSettling →
        exec (.train p master) s = .next ((s.onPort p (fun x => { x with held := some master })).setFld .xglCmd 6 1 1)) ∧
      (s.portState p ≠ portSettling → s.fld .xglPortStatus 12 1 p = 0 →
        exec (.train p master) s = .next
          (((s.setPortState p portSettling).onPort p (fun x => { x with held := some master })).setFld .xglCmd 6 1 1)) ∧
      (s.portState p ≠ portSettling → s.fld .xglPortStatus 12 1 p = 1 →
        ∃ t, exec (.train p master) s = .next t ∧ TrainingBegun s t p ∧ t.fld .xglCmd 8 8 = 0 ∧ t.fld .xglCmd 6 1 = 0) ∧
      (∃ t, exec (.idle p master) s = .next t ∧ LinkOnly s t p ∧ t.portState p = portIdle ∧ (t.port p).training = false ∧
        (t.port p).locked = none ∧ t.fld .xglCmd 8 8 = 0 ∧ t.fld .xglCmd 6 1 = 0)) ∧
    (s.xglRefused p master false = none →
      ∃ t, exec (.clearCounts p master) s = .next t ∧ t = { s with regs := t.regs } ∧ t.reg .xglErrCount p = 0#64 ∧
        t.fld .xglCmd 8 8 = 0 ∧ t.fld .xglCmd 6 1 = 0)) ∧
  (∀ (s : State) (p : Nat) (master : Master) (st : Nat) (c : Instr),
    (c = .train p master ∨ c = .idle p master) ∧ s.xglRefused p master true = some st ∨
      c = .clearCounts p master ∧ s.xglRefused p master false = some st →
    ∃ t, exec c s = .next t ∧ t = { s with regs := t.regs } ∧ t.fld .xglCmd 8 8 = st ∧
      t.fld .xglCmd 6 1 = (if st = 1 then s.fld .xglCmd 6 1 else 0)) ∧
  (∀ (s : State) (p : Nat) (c : Instr), s.preempts .authority = true →
    (c = .train p .authority ∨ c = .idle p .authority) ∧ s.xglRefused p .authority true = none ∨
      c = .clearCounts p .authority ∧ s.xglRefused p .authority false = none →
    ∃ t, exec c s = .next t ∧ t.fld .xglCmd 8 8 = 6 ∧ ∀ q, q < 12 → (t.port q).held ≠ some .operator) ∧
  (∀ (s : State) (p : Nat) (master : Master) (jobs : Bool), (∀ q, q < 12 → (s.port q).held = none) →
    s.xglRefused p master jobs =
      if s.bayPresent p = false then some 4 else if s.linkStage = false then some 3
      else if jobs = true ∧ (s.job (s.penOfPort p)).isSome = true then some 5 else none)

/-- Flits (R344, R346 to R350, R354, R364, R367): the flits that have come are taken in stream order, and one more than four codewords late is
lost; a lost flit, or one with a wrong CRC, has a NAK sent; the expected NORMAL flit is accepted and any other discarded; a CONTROL
operation is taken once in three frames. A frame carries one flit for every lane in use: NORMAL flits take the next sequence numbers and
nine slots each and are kept until acknowledged, at most 512, and what was not acknowledged is resent first. A flit as it is sent has a
right CRC, and its fields are read back. A message takes its credits and its header and data follow each other in slots; a vote goes
first; a waiting head takes the alternate route. -/
def Obligations.FlitsTravelInOrder : Prop :=
  (∀ (s : State) (p : Port), s.portHears p.val = true →
    let x := s.port p.val
    let w := widthOf (s.rxLanes p.val)
    (x.nextPlace = none → ∀ l, exec (.flitReceive p l) s = .next s) ∧
    (∀ a l, x.nextPlace = some a → l ≠ a.2 → exec (.flitReceive p l) s = .next s) ∧
    (∀ a, x.nextPlace = some a →
      (x.takePlace w a = none → exec (.flitReceive p a.2) s = .next s) ∧
      (∀ o y, x.takePlace w a = some (o, y) →
        let done (t : State) : State := if y.rxAt.map Prod.snd = some 0 then t.rxWidthDue p.val else t
        let s1 := s.setPort p.val y
        (o = none → exec (.flitReceive p a.2) s = .next (done (s1.onPort p.val XPort.loseFlit))) ∧
        (∀ b, o = some b → flitGood b = false →
          exec (.flitReceive p a.2) s = .next (done ((s1.onPort p.val XPort.loseFlit).countEvent p.val 14 a.2 false))) ∧
        (∀ b, o = some b → flitGood b = true →
          let f := flitOf b
          let s2 := s1.onPort p.val (fun x => x.takeControl f s.retryBudget)
          (f.kind = .idle → exec (.flitReceive p a.2) s = .next (done s2)) ∧
          (f.kind = .normal → exec (.flitReceive p a.2) s = .next (done (s2.onPort p.val (fun x => x.takeNormal f)))) ∧
          (∀ c, f.kind = .control c → exec (.flitReceive p a.2) s = .next (done (s2.onPort p.val (fun x => x.takeCtl a.1 c)))))))) ∧
  (∀ (x : XPort) (w c l : Nat),
    let next := if l + 1 < w then (c, l + 1) else ((c + 1) % 4096, 0)
    (∀ e, x.rxCw.find? (fun e => decide (e.1 = c) && decide (e.2.1 = l)) = some e →
      ∃ y, x.takePlace w (c, l) = some (e.2.2, y) ∧ y.rxAt = some next ∧ y = { x with rxAt := y.rxAt, rxCw := y.rxCw }) ∧
    ((∀ e ∈ x.rxCw, ¬ (e.1 = c ∧ e.2.1 = l)) →
      let late := ∃ e ∈ x.rxCw, 4 < (e.1 + 4096 - c) % 4096 ∧ (e.1 + 4096 - c) % 4096 < 2048
      (late → ∃ y, x.takePlace w (c, l) = some (none, y) ∧ y.rxAt = some next ∧ y = { x with rxAt := y.rxAt, rxCw := y.rxCw }) ∧
      (¬ late → x.takePlace w (c, l) = none))) ∧
  (∀ (x : XPort) (f : Flit) (count : Nat) (c : Ctl),
    (f.fseq.toNat = x.rxExpect → x.takeNormal f = f.slots.foldl (fun x sl => x.takeSlot sl)
      { x with rxExpect := (x.rxExpect + 1) % 2 ^ 32, rxAny := true, discarding := false }) ∧
    (f.fseq.toNat ≠ x.rxExpect → x.takeNormal f = { x with
      nakDue := (x.takeNormal f).nakDue, discarding := (x.takeNormal f).discarding }) ∧
    ((∀ n, (c, n) ∈ x.ctlSeen → 2 < (count + 4096 - n) % 4096) → (x.takeCtl count c).ctlIn = x.ctlIn ++ [c]) ∧
    (∀ n, (c, n) ∈ x.ctlSeen → (count + 4096 - n) % 4096 ≤ 2 → (x.takeCtl count c).ctlIn = x.ctlIn)) ∧
  (∀ (s : State) (p : Port), s.cwArrive p.val = true ∨ s.portState p.val = portRetraining → (s.port p.val).widthFrom = none →
    let x := s.port p.val
    let w := s.txWidth p.val
    let r := XPort.frameOf (decide (s.portState p.val = portUp)) w ((x.ctlOut.map Prod.fst).take w) x
    ∃ t, exec (.frameTransmit p) s = .next t ∧ LinkOnly s t p.val ∧ r.1.length = w ∧
      (t.port p.val).frame = (r.1.zip (List.range w)).map (fun f => cwPayload f.2 x.txCw (flitBytes f.1)) ∧
      (t.port p.val).txCw = (x.txCw + 1) % 4096 ∧ (t.port p.val).replay = r.2.replay ∧ (t.port p.val).stream = r.2.stream ∧
      (t.port p.val).txSeq = r.2.txSeq ∧ (t.port p.val).resend = r.2.resend ∧
      (∀ k, k < min w x.ctlOut.length → ∀ o n, x.ctlOut[k]? = some (o, n) → ∃ f, r.1[k]? = some f ∧ f.kind = .control o) ∧
      t.regs = (if x.nakDue = true ∧ w ≠ 0 then (s.bump .xglErrCount 48 16 p.val).regs else s.regs)) ∧
  (∀ (x : XPort), x.resend = [] → x.stream ≠ [] → x.replay.length < 512 → x.widthFrom.map Prod.fst ≠ some x.txSeq →
    let sl := x.stream.take 9 ++ List.replicate (9 - (x.stream.take 9).length) Slot.empty
    let r := x.nextFlit true none
    r.1.kind = .normal ∧ r.1.fseq = BitVec.ofNat 32 x.txSeq ∧ r.1.slots = sl ∧ r.1.slots.length = 9 ∧ r.1.replayed = false ∧
      r.2.replay = x.replay ++ [(x.txSeq, sl)] ∧ r.2.txSeq = (x.txSeq + 1) % 2 ^ 32 ∧ r.2.stream = x.stream.drop 9) ∧
  (∀ (x : XPort) (q : Nat) (sl : List Slot) (rest : List (Nat × List Slot)), x.resend = (q, sl) :: rest →
    (x.nextFlit true none).1.fseq = BitVec.ofNat 32 q ∧ (x.nextFlit true none).1.slots = sl ∧
      (x.nextFlit true none).1.replayed = true ∧ (x.nextFlit true none).2.resend = rest) ∧
  (∀ (x : XPort), x.resend = [] → x.stream = [] ∨ 512 ≤ x.replay.length ∨ x.widthFrom.map Prod.fst = some x.txSeq →
    (x.nextFlit true none).1.kind = .idle) ∧
  (∀ (f : Flit), (flitBytes f).length = 640 ∧ flitGood (flitBytes f) = true ∧
    (flitOf (flitBytes f)).fseq = f.fseq ∧ (flitOf (flitBytes f)).ackSeq = f.ackSeq ∧ (flitOf (flitBytes f)).nak = f.nak ∧
    (flitOf (flitBytes f)).replayed = f.replayed) ∧
  (∀ (s : State) (p : Port) (j : Job) (m m' : LinkMsg) (x x' : XPort),
    s.job (s.penOfPort p.val) = some j → s.portState p.val = portUp → s.fld .xglPortStatus 13 1 p.val = 0 →
    s.pickMsg j (s.port p.val) = some (m, x) → x.charge m = some (x', m') →
    let r := if ownMsg s m' then sealOwn j p.val m' else (j, m')
    exec (.messageSend p) s = .next ((s.setPort p.val { x' with stream := x'.stream ++ wireSlots r.2 }).setJob (s.penOfPort p.val)
      (some r.1))) ∧
  (∀ (s : State) (j : Job) (x : XPort) (m : LinkMsg) (t : List LinkMsg), x.voteQ = m :: t → (x.charge m).isSome = true →
    s.pickMsg j x = some (m, { x with voteQ := t })) ∧
  (∀ (s : State) (p : Port) (j : Job) (pre post : List LinkMsg) (m : LinkMsg),
    let q := routeAlt (routeOf j m.dstDev.toNat)
    let t := (s.onPort p.val (fun x => x.dropHead m)).onPort q
      (fun x => x.enqueue { m with alt := true, srcPort := if ownMsg s m then q else m.srcPort })
    s.job (s.penOfPort p.val) = some j → (s.port p.val).heads = pre ++ m :: post → (∀ n ∈ pre, ¬ mayGoRound s p.val j n) →
    mayGoRound s p.val j m → s.fld .devMode 1 1 = 1 → j.useAlt = true →
    (ownMsg s m = false → exec (.altRouteTimeout p) s = .next t) ∧
    (ownMsg s m = true → exec (.altRouteTimeout p) s = .next (t.onJob (s.penOfPort p.val) (fun j => { j with xfers := j.xfers.map (fun y =>
      if y.xfer = m.xfer.toNat ∧ y.dst = m.dstDev.toNat then { y with usedAlt := true } else y) }))))

/-- Messages at a receiving port (R353, R358 to R361, R374, R401 to R403, R410, R559): a deaf port receives none; no job or no link key counts them as
unknown; one whose tag fails, or whose counter is outside its window, is counted and not performed; an ungrouped write moves its lines, a
grouped one is part of a chunk whose digest is checked at its end, a buddy write goes to the buddy region; a write that does not
translate raises PROGRAM_FAULT. The signals of a message wait for the earlier messages of its transfer. An acknowledgement frees
what it covers; a message for another device joins the queue of its route with one hop more, and one that has made seven hops or has
no route ends the job (R515); silence loses the link and ends the job; a deadline closes a group on what has arrived. -/
def Obligations.MessagesAreCheckedAndPerformed : Prop :=
  ∀ (s : State) (p : Port) (m : LinkMsg),
    let s0 := s.onPort p.val (fun x => x.free m)
    (s.portDeaf p.val = true → exec (.write p m) s = .next s ∧ exec (.signal p m) s = .next s ∧ exec (.ack p m) s = .next s ∧
      exec (.messageForward p m) s = .next s) ∧
    (s.portDeaf p.val = false → m.dstDev.toNat = s.devId →
      (s0.msgPen p.val m = none → ∀ c : Instr, (m.mtype = 1 ∧ c = .write p m) ∨ (m.mtype = 2 ∧ c = .signal p m) ∨ (m.mtype = 3 ∧ c = .ack p m) →
        exec c s = .next (s0.bump .xglE2eCount 32 16 p.val)) ∧
      (∀ s1, s0.admitMsg p.val m = (s1, none) →
        (m.mtype = 1 → exec (.write p m) s = .next s1) ∧ (m.mtype = 2 → exec (.signal p m) s = .next s1) ∧
        (m.mtype = 3 → exec (.ack p m) s = .next s1)) ∧
      (∀ s1 pen j ls, s0.admitMsg p.val m = (s1, some (pen, j, ls)) →
        let n := { m with lines := ls }
        (m.mtype = 1 → m.vote = true → exec (.write p m) s = .next (s1.voteWrite p.val pen n)) ∧
        (m.mtype = 1 → m.vote = false → isBuddyWrite j n = true →
          exec (.write p m) s = .next (s1.buddyWrite p.val pen (j.buddy.getD (0, 0, 0)) n)) ∧
        (m.mtype = 1 → m.vote = false → isBuddyWrite j n = false → 64 ≤ m.group →
          (∀ k, s1.rangeCause pen true m.dstVa (64 * ls.length) = some k → exec (.write p m) s = .next (s1.remoteWindow pen n)) ∧
          (s1.rangeCause pen true m.dstVa (64 * ls.length) = none →
            exec (.write p m) s = .next ((s1.writeLines pen m.dstVa m.mask ls).performed p.val pen n))) ∧
        (m.mtype = 1 → m.vote = false → isBuddyWrite j n = false → m.group < 64 →
          let r := groupRec (s1.jobD pen) m.group
          let size := 2 ^ r.chunkLog2
          let x := rxXferOf (s1.jobD pen) n
          let ends := endsChunk size x n
          let kept := if ends then ls.dropLast else ls
          let rank := (s1.jobD pen).rankDev.findIdx (fun d => decide (d = m.srcDev.toNat))
          let ix := fieldAt (ls.getLastD []) 8 4
          let y : RxXfer := if ends then { x with msgs := [], chunk := max x.chunk (ix + 1) } else { x with msgs := x.msgs ++ [kept.flatten] }
          s1.rangeCause pen true m.dstVa (64 * kept.length) = none →
          (r.closing = false ∨ (groupRxOf (s1.jobD pen) m.group).writes r ((r.memberOf rank).getD 0) = true) →
          let s2 := s1.writeLines pen m.dstVa m.mask kept
          let s3 := if ends = true ∧ chunkMatches size x n = false then s2.digestMismatch p.val pen n false else s2
          let s4 := (s3.onJob pen (fun j => putRxXfer j y m.last)).performed p.val pen n
          s2.injection = none →
          exec (.write p m) s = .next (if ends = true ∧ x.chunk ≤ ix then s4.chunkDone pen m.group rank else s4)) ∧
        (m.mtype = 2 → exec (.signal p m) s = .next (s1.performed p.val pen m)) ∧
        (∀ k, m.mtype = 3 → s1.ackedKey j p.val pen m.srcDev.toNat = some k →
          let k0 : TxKey := SMap.get (fun _ => {}) j.tx k
          let k1 : TxKey := { k0 with open_ := k0.open_.filter (fun o => !ackCovers m o.1) }
          exec (.ack p m) s =
            .next ((s1.onJob pen (fun j => { j with tx := SMap.set (fun _ => {}) j.tx k k1 })).completeXfers pen)))) ∧
    (∀ pen, (s.job pen).isSome = true → s.earlierWaits m = true → (∀ n ∈ (s.jobD pen).rxHeld, s.earlierWaits n = true) →
      (s.performed p.val pen m).cores = s.cores ∧ ((s.performed p.val pen m).jobD pen).rxHeld = (s.jobD pen).rxHeld ++ [m]) ∧
    (s.portDeaf p.val = false → m.dstDev.toNat ≠ s.devId →
      (s0.msgPen p.val m = none → exec (.messageForward p m) s = .next (s0.bump .xglE2eCount 32 16 p.val)) ∧
      (∀ pen, s0.msgPen p.val m = some pen →
        (∀ q alt, m.hop < 7 → s0.routeChoice (s0.jobD pen) m.dstDev.toNat = some (q, alt) →
          exec (.messageForward p m) s = .next (s0.onPort q (fun x => x.enqueue { m with hop := m.hop + 1, alt := m.alt || alt }))) ∧
        (m.hop < 7 → s0.routeChoice (s0.jobD pen) m.dstDev.toNat = none →
          exec (.messageForward p m) s =
            .next ((s0.postLink p.val 378 [ef m.dstDev.toNat]).terminal pen 378 [ef p.val, ef m.dstDev.toNat])) ∧
        (7 ≤ m.hop →
          exec (.messageForward p m) s =
            .next ((s0.postLink p.val 377 [ef m.dstDev.toNat]).terminal pen 377 [ef p.val, ef m.dstDev.toNat])))) ∧
    (∀ (dev : BitVec 16) (sp : Nat), (s.job (s.penOfPort p.val)).isSome = true →
      0 < (rxKeyAt s p.val dev.toNat sp).sinceAck →
      ∃ t, exec (.ackTimer p dev sp) s = .next t ∧
        (rxKeyAt t p.val dev.toNat sp).sinceAck = 0 ∧
        (t.port p.val).ackQ = (s.port p.val).ackQ ++ [ackMsg s (s.jobD (s.penOfPort p.val)) p.val dev.toNat
          (rxKeyAt s p.val dev.toNat sp)]) ∧
    (∀ j, s.job (s.penOfPort p.val) = some j → (∃ kv ∈ j.tx, kv.1 / 65536 = p.val ∧ kv.2.open_ ≠ []) ∨ s.ownWaits p.val j = true →
      exec (.linkLost p) s = .next (((s.postLink p.val 374 []).onJob (s.penOfPort p.val) (fun j =>
        { j with tx := j.tx.map (fun kv => if keyOfPort p.val kv.1 then (kv.1, { kv.2 with open_ := [] }) else kv) })).terminal
          (s.penOfPort p.val) 374 [ef p.val])) ∧
    (∀ pen g a own, mayClose (s.jobD pen) g = some (a, own) → (s.job pen).isSome = true → (groupRec (s.jobD pen) g).deadline = true →
      s.replayMode pen = false → exec (.closeDeadline pen g) s = .next (s.closeNow pen g own))

/-! ### Faults, weather and random numbers -/

/-- Fences, adoption, replay and tests (R507 to R515, R67, R524): a permanent detector of a site in service is counted, raises a
silent error when it is of that class, and fences the site, with its partner in a yoke-wide pair; the failed-test detector fires on such
a site only by injection (R531), and fences and retires it; adoption gives a waiting logical core its site; a replay's end is posted, with a
free duration; a detector that takes nothing out of service sets its status bit; copies that differ fence both sites; a test's
result is recorded, and a site that passes returns to service, at the boundary while its pen has a job. -/
def Obligations.FaultsFenceReplayAndTest : Prop :=
  (∀ (s : State) (n det : Nat), s.inService n = true → s.penOfBay (bayOfSite n) ≠ 0 →
    let p := s.penOfBay (bayOfSite n)
    let f := s.fireInjection det (bayOfSite n) (n % 14)
    let s1 := f.1.countEvent (bayOfSite n) det (n % 14) f.2
    let s2 := if det = 5 ∨ det = 8 then s1.silentError det (bayOfSite n) 0 p n else s1
    (2 ≤ det → det ≤ 8 → exec (.siteFence n det) s = .next (s2.fenceSites p det (s2.fenceSet n))) ∧
    (det = 22 → f.2 = true → exec (.siteFence n det) s =
      .next (((f.1.fenceSites p 22 (f.1.fenceSet n)).testFail p n 0 0 true).refreshPower)) ∧
    (det = 22 → f.2 = false → exec (.siteFence n det) s = .next s)) ∧
  (∀ (s : State) (n : Nat), (s.siteYoke n = yokeWide → s.fenceSet n = [n / 2 * 2, n / 2 * 2 + 1]) ∧
    (s.siteYoke n ≠ yokeWide → s.fenceSet n = [n])) ∧
  (∀ (s : State) (det b u : Nat),
    (s.injection = none → s.fireInjection det b u = (s, false)) ∧
    (∀ i, s.injection = some i → ¬ (i.detector = det ∧ i.bay = b ∧ i.unit = u) → s.fireInjection det b u = (s, false)) ∧
    (∀ i, s.injection = some i → i.detector = det → i.bay = b → i.unit = u → ∃ t, s.fireInjection det b u = (t, true) ∧
      t = { s with regs := t.regs, evq := t.evq, evLost := t.evLost,
                   injection := if i.left ≤ 1 then none else some { i with left := i.left - 1 } } ∧
      t.fld .injCtl 16 16 = min (2 ^ 16 - 1) (s.fld .injCtl 16 16 + 1) ∧ (i.left ≤ 1 → t.fld .injCtl 0 1 = 0 ∧ t.fld .injCtl 8 8 = 0))) ∧
  (∀ (s : State) (pen : Pen) (j : Job), s.job pen = some j →
    (j.adopting = [] → exec (.adoptionDone pen) s = .next s) ∧
    (j.adopting ≠ [] → ∃ t, exec (.adoptionDone pen) s = .next t ∧ (t.jobD pen).adopting = []) ∧
    (∀ l n, j.adopting = [(l, n)] → l < 144 → exec (.adoptionDone pen) s =
      .next (((s.adopt pen l n).onJob pen (fun j => { j with adopting := [] })).refreshGrid pen))) ∧
  (∀ (s : State) (pen : Pen) (j : Job) (a : Attempt), s.job pen = some j → j.cur = some a → j.replayRun = true →
    a.phase = .sweepWait →
    exec (.replayDone pen) s = .next (({ s with fresh := s.fresh + 1 }.postPen pen 258 a.step
      [ef a.step, .w (Config.freeBits s.fresh), ef j.suppressed, ef j.sentReplay]).onJob pen (fun j => { j with replayRun := false }))) ∧
  (∀ (s : State) (b : Fin 12) (det : Nat) (dev : BitVec 16),
    let f := match s.injection with
      | some i => if i.bay = b.val then s.fireInjection det b.val i.unit else (s, false)
      | none => (s, false)
    let s1 := f.1.countEvent b.val det 0 f.2
    let p := s.penOfBay b.val
    (det = 1 → exec (.faultDetect b det dev) s = .next s1) ∧
    (det = 9 ∨ det = 10 ∨ det = 16 → exec (.faultDetect b det dev) s = .next (s1.orStatus p stFault)) ∧
    (det = 17 → exec (.faultDetect b det dev) s = .next ((s1.silentError 17 b.val dev.toNat p dev.toNat).orStatus p stDigest)) ∧
    (det = 18 → exec (.faultDetect b det dev) s = .next ((s1.silentError 18 b.val dev.toNat p dev.toNat).orStatus p stFault))) ∧
  (∀ (s : State) (pen : Pen) (l n c : Nat), (placeOf (s.jobD pen) l).head? = some n → s.checkerOf pen l = some c →
    let f := s.fireInjection 8 (bayOfSite n) (n % 14)
    let s1 := f.1.countEvent (bayOfSite n) 8 (n % 14) f.2
    exec (.yokeCheckMismatch pen l) s = .next
      (((s1.postPen pen 339 (s1.stepOf pen) [ef n, ef c]).silentError 8 (bayOfSite n) 0 pen n).fenceSites pen 8 [n, c])) ∧
  (∀ (s : State) (n pat ms : Nat), n < 168 → s.site n = siteUnderTest → s.fld .errSiteTest 0 2 n = 3 →
    let p := s.penOfBay (bayOfSite n)
    (∃ t, exec (.siteTestResult n true pat ms) s = .next t ∧ t.fld .errSiteTest 0 2 n = 1 ∧ t.fld .errSiteTest 16 16 n = min 65535 ms ∧
      t.fld .errSiteTest 32 16 n = min (2 ^ 16 - 1) (s.fld .errSiteTest 32 16 n + 1) ∧
      t.site n = (if p = 0 then siteIdle else if s.job p = none then siteSpare else siteUnderTest)) ∧
    exec (.siteTestResult n false pat ms) s =
      .next (if p = 0 then (s.testFail p n pat ms false).refreshPower else (s.testFail p n pat ms false).refreshGrid p))

/-- Error weather and injection (R527, R528, R531, R532, R547): a minute begins a bucket of every class, its thresholds as
written take effect, and a level falls when its sum is below half its threshold; a level rises when its sum reaches an enabled threshold and
an event of its level is posted; an injection is armed with its detector, bay, unit and count, a count of 0 being done at once, refused by
the first code that applies, and cancelled. The noise source (R460 to R462): a window that passes both tests resets the count of failures;
one that fails, or is made to by injection, is counted, and the third in a row makes the source FAILED; a start-up test that passes makes
the source OK and the DRBG ready, one that fails makes it FAILED; a retry brings it back. -/
def Obligations.WeatherInjectionsAndNoise : Prop :=
  ((∀ s : State, ∃ t, exec .wxBucket s = .next t ∧ t = s.wxTick ∧
     (∀ c, 1 ≤ c → c ≤ 22 → t.wxThreshold c = s.reg .errWxThresh c) ∧
     (∀ b c, b < 12 → 1 ≤ c → c ≤ 22 →
       let lv := s.fld .errWxCount 48 2 (wxKey b c)
       lv ≠ 0 → 2 * (s.wxShift.wxUnits b c).length < levelThreshold (s.reg .errWxThresh c) lv →
       t.fld .errWxCount 48 2 (wxKey b c) = lv - 1)) ∧
   (∀ (s : State) (b c : Nat), (∀ lv, 1 ≤ lv → lv ≤ 3 → s.fld .errWxCount 48 2 (wxKey b c) < lv →
       levelThreshold (s.wxThreshold c) lv = 0 ∨ (s.wxUnits b c).length < levelThreshold (s.wxThreshold c) lv) →
     s.wxRise b c = s) ∧
   (∀ (s : State) (b c : Nat), b < 12 → 1 ≤ c → c ≤ 22 → s.fld .errWxCount 48 2 (wxKey b c) = 0 →
     levelThreshold (s.wxThreshold c) 1 ≠ 0 → levelThreshold (s.wxThreshold c) 1 ≤ (s.wxUnits b c).length →
     (levelThreshold (s.wxThreshold c) 2 = 0 ∨ (s.wxUnits b c).length < levelThreshold (s.wxThreshold c) 2) →
     (levelThreshold (s.wxThreshold c) 3 = 0 ∨ (s.wxUnits b c).length < levelThreshold (s.wxThreshold c) 3) →
     s.wxRise b c = (s.setFld .errWxCount 48 2 1 (wxKey b c)).postBoth (s.penOfBay b) 264 0 [ef b, ef c, ef (s.wxUnits b c).length]) ∧
   (∀ (s : State) (fn : Func), fn.val = 0 →
     let d := s.fld .injSel 0 8
     let b := s.fld .injSel 8 4
     let u := s.fld .injSel 16 8
     let n := s.fld .injSel 32 16
     let testing := siteDetector d = true ∧ s.site (14 * b + u) = siteUnderTest
     (s.injection ≠ none → exec (.injArm fn) s = .next (s.setFld .injCtl 8 8 1)) ∧
     (s.injection = none → (d = 0 ∨ 22 < d) → exec (.injArm fn) s = .next (s.setFld .injCtl 8 8 2)) ∧
     (s.injection = none → 1 ≤ d → d ≤ 22 → s.unitExists d b u = false → exec (.injArm fn) s = .next (s.setFld .injCtl 8 8 3)) ∧
     (s.injection = none → 1 ≤ d → d ≤ 22 → s.unitExists d b u = true → testing → exec (.injArm fn) s = .next (s.setFld .injCtl 8 8 4)) ∧
     (s.injection = none → 1 ≤ d → d ≤ 22 → s.unitExists d b u = true → ¬ testing →
       ∃ t, exec (.injArm fn) s = .next t ∧ t = { s with
           regs := t.regs, injection := if n = 0 then none else some { detector := d, bay := b, unit := u, left := n } } ∧
         t.fld .injCtl 0 1 = (if n = 0 then s.fld .injCtl 0 1 else 1) ∧ t.fld .injCtl 8 8 = 0 ∧ t.fld .injCtl 16 16 = 0) ∧
     (s.injection ≠ none →
       ∃ t, exec (.injCancel fn) s = .next t ∧ t = { s with regs := t.regs, injection := none } ∧ t.fld .injCtl 0 1 = 0 ∧
         t.fld .injCtl 8 8 = 5) ∧
     (s.injection = none → exec (.injCancel fn) s = .next s))) ∧
  (∀ (s : State) (xs : List Bool),
     let rct := repetition s.rngRun xs
     let apt := proportionFails xs
     let f := match s.injection with
       | some i => s.fireInjection 21 i.bay i.unit
       | none => (s, false)
     let s1 := { f.1 with rngRun := rct.1 }
     let s2 := if rct.2 || f.2 then s1.bump .rngHealth 0 16 else s1
     let s3 := if apt then s2.bump .rngHealth 16 16 else s2
     let s4 : State := { s3.countEvent s3.lowestBay 21 0 (f.2 && !rct.2 && !apt) with rngFails := s.rngFails + 1 }
     (s.rngState = rngOk →
       ((rct.2 || apt || f.2) = false → exec (.noiseWindow xs) s = .next { f.1 with rngRun := rct.1, rngFails := 0 }) ∧
       ((rct.2 || apt || f.2) = true → exec (.noiseWindow xs) s = .next (if 3 ≤ s.rngFails + 1 then s4.rngFail else s4)) ∧
       (s4.rngFail.rngState = rngFailed ∧ s4.rngFail.drbgReady = false ∧ s4.rngFail.fld .rngStatus 3 1 = 1)) ∧
     (s.powerGood = true → s.rngState = rngStarting →
       (startupPasses xs = true →
         ∃ t, exec (.rngStartupTest xs) s = .next t ∧ t = { s with regs := t.regs, rngFails := 0, rngRun := (0, false) } ∧
           t.rngState = rngOk ∧ t.drbgReady = true) ∧
       (startupPasses xs = false →
         ∃ t, exec (.rngStartupTest xs) s = .next t ∧ t.rngState = rngFailed ∧ t.drbgReady = false ∧
           t.fld .rngHealth 32 16 = min (s.fld .rngHealth 32 16 + 1) (2 ^ 16 - 1))) ∧
     (s.rngState = rngFailed →
       (startupPasses xs = true → ∃ t, exec (.rngRetry xs) s = .next t ∧
         t = { s with regs := t.regs, rngFails := 0, rngRun := (0, false) } ∧ t.rngState = rngOk ∧ t.drbgReady = true) ∧
       (startupPasses xs = false → exec (.rngRetry xs) s = .next (s.bump .rngHealth 32 16))))

/-! ### Rings and their commands -/

/-- Rings (R620 to R624, R626, R629, R632, R644): enabling resets both indices; a doorbell sets the tail and the consumer index, or is a
ring error; a fetch, in its ring's turn and within its function's share of the round, reserves a completion slot, advances the index and
checks the entry; a completion writes 64 bytes with its phase bit and raises an interrupt; an event goes to the function's event ring; a
due interrupt is sent once. BAR4 (R586, R618): a read answers the bytes of the pen's window and a write stores them; a failed translation
and a poisoned line set fault and answer zeros; PF0 sees nothing of a confidential pen. -/
def Obligations.RingsAndBar4 : Prop :=
  ((∀ (s : State) (fn : Func) (ring : Ring),
     let r := ring.val
     let size := s.fld .hifRingCtl 1 5 r
     let legal := 1 ≤ size ∧ size ≤ 16 ∧ (s.reg .hifRingCmdBase r).toNat % 4096 = 0 ∧ (s.reg .hifRingCplBase r).toNat % 4096 = 0
     (s.ringOwner r = fn.val → s.ringOn r = false → s.atReady = true →
       (legal → ∃ t, exec (.ringEnable fn ring) s = .next t ∧ t = { s with regs := t.regs, rings := t.rings } ∧ t.ringOn r = true ∧
         t.cmdHead r = 0 ∧ t.cplTail r = 0 ∧ t.ring r = {} ∧ t.ringSize r = s.ringSize r ∧ ∀ q, q ≠ r → t.ring q = s.ring q) ∧
       (¬ legal → exec (.ringEnable fn ring) s = .next (s.setFld .hifRingCtl 20 1 1 r))) ∧
     (s.ringOwner r ≠ fn.val ∨ s.ringOn r = true ∨ s.atReady = false → exec (.ringEnable fn ring) s = .next s)) ∧
   (∀ (s : State) (fn : Func) (ring : Ring) (v : Word64),
     let r := ring.val
     let tail := v.toNat % 2 ^ 32
     let head := v.toNat / 2 ^ 32
     let ok := s.ringOn r = true ∧ wrapSub tail (s.cmdHead r) ≤ s.ringSize r ∧ wrapSub (s.cplTail r) head ≤ s.ringSize r
     (s.ringOwner r = fn.val → ok →
       exec (.doorbell fn ring v) s = .next (s.setRing r { s.ring r with cmdTail := tail, cplHead := head })) ∧
     (s.ringOwner r = fn.val → ¬ ok → exec (.doorbell fn ring v) s = .next (s.ringError fn.val r)) ∧
     (s.ringOwner r ≠ fn.val → exec (.doorbell fn ring v) s = .next (s.ringErrorTo fn.val r))) ∧
   (∀ (s : State) (ring : Ring),
     let r := ring.val
     let ix := s.cmdHead r
     let e := s.hostRead ((s.reg .hifRingCmdBase r).toNat + 64 * (ix % s.ringSize r)) 64
     let fn := s.ringOwner r
     let fetched (s0 : State) : Out :=
       let s1 := ((s0.noteFetch r).setFld .hifRingStat 0 32 ((ix + 1) % 2 ^ 32) r).bump .hifPenStat 0 32 fn
       .next ((s1.admitCmd r e ix).1.onRing r (fun x => { x with inflight := x.inflight ++ [(s1.admitCmd r e ix).2] }))
     (s.mayFetch r = true → s.ringTurn r = true →
       (s.fetchesLeft fn ≠ 0 → exec (.commandFetch ring) s = fetched s) ∧
       (s.fetchesLeft fn = 0 → s.roundOver = true → exec (.commandFetch ring) s = fetched { s with hifUsed := [] }) ∧
       (s.fetchesLeft fn = 0 → s.roundOver = false → exec (.commandFetch ring) s = .next s)) ∧
     (s.mayFetch r = false ∨ s.ringTurn r = false → exec (.commandFetch ring) s = .next s) ∧
     (s.ringTurn r = true ↔ ∀ i, i < (r + 4096 - used s.ringNext fn) % 4096 →
       ¬ (s.ringOwner ((used s.ringNext fn + i) % 4096) = fn ∧ s.mayFetch ((used s.ringNext fn + i) % 4096) = true)) ∧
     (s.confFn fn = false →
       let c := entryCmd fn ix e
       (s.locked = true → s.admitCmd r e ix = (s, { c with done := some (rsTamperLocked, []) })) ∧
       (∀ st, s.locked = false → entryRefusal c (fieldAt e 2 2 / 4096) (e.drop 0x30) = some st →
         s.admitCmd r e ix = (s, { c with done := some (st, []) })) ∧
       (s.locked = false → entryRefusal c (fieldAt e 2 2 / 4096) (e.drop 0x30) = none → movesData c.opcode = false →
         hasParams c.opcode c.aux = false → s.admitCmd r e ix = (s, c))) ∧
     (∀ c rest, (s.ring r).inflight = c :: rest →
       let ends (st : Nat) (pl : List Byte) : Out :=
         .next ((s.onRing r (fun x => { x with inflight := rest })).putCpl r c.opcode 0 0 st c.cookie pl)
       (∀ st pl, c.done = some (st, pl) →
         exec (.commandCompletion ring false) s = ends st pl ∧
         exec (.commandCompletion ring true) s = (if hostData c.opcode = true ∧ st = rsOk then ends rsHostDma [] else ends st pl)) ∧
       (c.done = none →
         exec (.commandCompletion ring false) s = .next s ∧
         exec (.commandCompletion ring true) s = (if hostReads c.opcode = true then ends rsHostDma [] else .next s))) ∧
     ((s.ring r).intDue = true → s.fld .hifRingCtl 7 1 r = 1 →
       ∃ t, exec (.interrupt ring) s = .next t ∧ t = { s with rings := t.rings, msix := t.msix } ∧ (t.ring r).intDue = false ∧
         let k := 64 * s.ringOwner r + s.fld .hifRingCtl 8 6 r
         ∀ q, used t.msix q = used s.msix q + (if q = k then 1 else 0))) ∧
   (∀ (s : State) (r code kind flags st : Nat) (cookie : Word64) (pl : List Byte), r < 4096 →
     s.confFn (s.ringOwner r) = false →
     let base := (s.reg .hifRingCplBase r).toNat
     let ix := s.cplTail r
     let t := s.putCpl r code kind flags st cookie pl
     t.cplTail r = (ix + 1) % 2 ^ 32 ∧
     t.hostRead (base + 64 * (ix % s.ringSize r)) 64 =
       le 2 code ++ le 1 kind ++ le 1 (1 - ix / s.ringSize r % 2 + flags) ++ le 2 st ++ le 1 (s.ringOwner r) ++ [0#8] ++ le 8 cookie.toNat ++
       fit 32 pl ++ zeros 16 ∧
     (s.fld .hifRingCtl 7 1 r = 1 → (t.ring r).intDue = true)) ∧
   (∀ (s : State) (fn : Func) (r : Nat) (e : Event) (rest : List Event),
     SMap.get (fun _ => []) s.evq fn.val = e :: rest → s.eventRing fn.val = some r →
     let lost := if SMap.get (fun _ => false) s.evLost fn.val then 4 else 0
     let s1 : State := { s with
       evq := SMap.set (fun _ => []) s.evq fn.val rest, evLost := SMap.set (fun _ => false) s.evLost fn.val false }
     let n := (eventParts e).length
     (n ≤ s.freeSlots r → exec (.eventPost fn) s = .next (((eventParts e).zip (List.range n)).foldl (fun s p =>
       s.putCpl r e.code 1 ((if p.2 + 1 = n then 0 else 2) + lost) 0 e.step p.1) s1)) ∧
     (s.freeSlots r < n → exec (.eventPost fn) s = .next s)) ∧
   (∀ (s : State) (pen : Pen) (j : Job) (a : Attempt), s.job pen = some j → (votingAttempt j <|> j.cur) = some a →
     s.fld .hifPenCfg 8 24 pen ≠ 0 → a.phase ≠ .start → j.stalledPosted = false →
     exec (.stepLimitExpiry pen) s =
       .next ((s.onJob pen (fun j => { j with stalledPosted := true })).postPen pen 330 a.step [ef a.step, ef a.attempt]))) ∧
  (∀ (s : State) (fn : Func) (off n : Nat) (bs : List Byte),
     let p := s.bar4Pen fn.val
     let va := s.fld .hifBar4Sel 4 18 0 fn.val * 2 ^ 30 + off
     let zero : State := { s with lastRead := List.replicate n 0#8 }
     (p ≠ 0 → (fn.val = 0 → (s.pen p).confidential = false) →
       (s.rangeCause p false va n = none → s.vaPoison p va n = false →
         exec (.bar4Access fn off (.read n)) s = .next { (s.noteVa p va n) with lastRead := s.vaRead p va n }) ∧
       (s.rangeCause p false va n = none → s.vaPoison p va n = true →
         exec (.bar4Access fn off (.read n)) s = .next ((zero.noteVa p va n).setFld .hifBar4Sel 63 1 1 0 fn.val)) ∧
       (s.rangeCause p false va n ≠ none →
         exec (.bar4Access fn off (.read n)) s = .next (zero.setFld .hifBar4Sel 63 1 1 0 fn.val)) ∧
       (s.rangeCause p true va bs.length = none → exec (.bar4Access fn off (.write bs)) s = .next (s.vaStore p va bs)) ∧
       (s.rangeCause p true va bs.length ≠ none →
         exec (.bar4Access fn off (.write bs)) s = .next (s.setFld .hifBar4Sel 63 1 1 0 fn.val))) ∧
     (p = 0 ∨ (fn.val = 0 ∧ (s.pen p).confidential = true) →
       exec (.bar4Access fn off (.read n)) s = .next zero ∧
       exec (.bar4Access fn off (.write bs)) s = .next s))

/-- The commands of a ring (R628): the one that is to start next is served and its result noted at its place, with every other
command of the ring as it was. NOP; DMA in both directions and the journal's export, by parts of what the round gives (R627, R632), in
bounce units where the pen is confidential; loads and unloads; the job's aborts, releases, seeds and yoke checks, each with its refusals. -/
def Obligations.RingCommandsTakeEffect : Prop :=
  (∀ (s : State) (r i st : Nat) (pl : List Byte) (k : Nat), k < (s.ring r).inflight.length →
    ((s.finishCmd r i st pl).ring r).inflight[k]? =
      ((s.ring r).inflight[k]?).map (fun c => if k = i then { c with done := some (st, pl) } else c)) ∧
  (∀ (s : State) (ring : Ring) (i : Nat) (c : Inflight), s.nextCmd ring.val = some (i, c) →
    let done (t : State) (st : Nat) (pl : List Byte) : Out := .next (t.finishCmd ring.val i st pl)
    let host := c.word 0x10
    let va := c.word 0x18
    let place := host + (if s.confFn c.fn then 4120 * (c.moved / 4096) else c.moved)
    (c.opcode = 0 → exec (.cmdNop ring) s = done s rsOk []) ∧
    MovesPart s ring i c (.dmaH2d ring) 1 dirIn (fun t n =>
      if n = 0 then (t, rsOk)
      else if s.confFn c.fn then
        State.bounceIn c.pen ring.val place (fun o => va + c.moved + o) n (fun t o => State.dmaPut c t (c.moved + o)) (n / 4096 + 1) t 0
      else (State.dmaPut c t c.moved (t.hostRead place n), rsOk)) ∧
    MovesPart s ring i c (.dmaD2h ring) 2 dirOut (fun t n =>
      (t.noteVa c.pen (va + c.moved) n).toHost c.fn ring.val place (some (va + c.moved)) (t.vaRead c.pen (va + c.moved) n)) ∧
    (∀ j, s.job c.pen = some j → va + c.len ≤ regionSize j.journal →
      MovesPart s ring i c (.journalExport ring) 16 dirOut (fun t n =>
        (t.noteRegion j.journal (va + c.moved) n).toHost c.fn ring.val place none (t.regionRead j.journal (va + c.moved) n))) ∧
    (∀ (t : State) (a : Nat) (v : Option Nat) (bs : List Byte), t.confFn c.fn = false →
      t.toHost c.fn ring.val a v bs = (t.hostWrite a bs, rsOk)) ∧
    (∀ (t : State) (off : Nat) (bs : List Byte), State.dmaPut c t off bs =
      let t := t.vaStore c.pen (va + off) bs
      if c.flags / 2 % 2 = 1 then t.addInput c.pen (c.aux % 16) (c.word 0x28) (c.word 0x20 + off) bs else t) ∧
    (c.opcode = 3 →
      let s0 := s.ensureMode
      (∀ e, s0.loadCheck c.pen c.params = some e → exec (.jobLoad ring) s = done s0 e.status (failPayload e)) ∧
      (s0.loadCheck c.pen c.params = none →
        let x := s0.loadIn c.params
        let j := s0.loadJob c.pen c.params x
        (∀ t e, (s0.setJob c.pen (some j)).place c.pen = (t, some e) → exec (.jobLoad ring) s = done s0 e.status (failPayload e)) ∧
        (∀ t, (s0.setJob c.pen (some j)).place c.pen = (t, none) →
          let q := t.install c.pen c.params x j
          exec (.jobLoad ring) s = done q.1 q.2.1 q.2.2 ∧ q.2.1 = rsOk))) ∧
    (∀ j, s.job c.pen = some j →
      (c.opcode = 4 → s.fld .updJob 0 2 (c.pen - 1) ≠ 2 → exec (.jobUnload ring) s = done (s.dropJob c.pen) rsOk []) ∧
      (c.opcode = 4 → s.fld .updJob 0 2 (c.pen - 1) = 2 → exec (.jobUnload ring) s = done s rsJobRunning []) ∧
      (c.opcode = 5 → s.fld .updJob 0 2 (c.pen - 1) ≠ 3 → exec (.jobAbort ring) s = done (s.terminal c.pen evAborted []) rsOk []) ∧
      (c.opcode = 5 → s.fld .updJob 0 2 (c.pen - 1) = 3 → exec (.jobAbort ring) s = done s rsOk []) ∧
      (c.opcode = 6 → exec (.stepRelease ring) s =
        done (s.onPen c.pen (fun x => { x with released := some (max (x.released.getD 0) host) })) rsOk []) ∧
      (c.opcode = 7 →
        let sealed_ := s.fld .devMode 0 1 = 1 ∧ c.aux % 2 = 1 ∧ firstT0 j = true
        (sealed_ → exec (.seedSet ring) s = done s rsSealed []) ∧
        (¬ sealed_ → t0Passed j va = true → exec (.seedSet ring) s = done s rsSeedLate []) ∧
        (¬ sealed_ → t0Passed j va = false →
          let e : SeedEntry := { first := va, seed := BitVec.ofNat 64 host, drawn := decide (c.aux % 2 = 1) }
          let s1 := s.onJob c.pen (fun j => { j with seeds := j.seeds.filter (fun x => decide (x.first ≠ va)) ++ [e] })
          exec (.seedSet ring) s = done (s1.seedRegs c.pen (s1.stepOf c.pen)) rsOk [])) ∧
      (c.opcode = 9 → (∀ b ∈ c.body.take 12, b.toNat < 64) →
        ((∃ l ∈ yokePairs c.body, isWide j l = true ∨ j.rows ≤ l / 12) → exec (.yokeCheck ring) s = done s rsYokeConflict []) ∧
        ((∀ l ∈ yokePairs c.body, isWide j l = false ∧ l / 12 < j.rows) →
          exec (.yokeCheck ring) s = done (s.onJob c.pen (fun j => { j with yokeCheckNext := some (yokePairs c.body) })) rsOk [])) ∧
      (c.opcode = 16 → c.len ≠ 0 → c.moved = 0 → regionSize j.journal < va + c.len → 4096 ≤ s.bytesLeft c.fn dirOut →
        ∃ t, exec (.journalExport ring) s = done t rsLength [] ∧ t.hostMem = s.hostMem)) ∧
    (c.opcode = 9 → (∃ b ∈ c.body.take 12, 64 ≤ b.toNat) → exec (.yokeCheck ring) s = done s rsReserved []) ∧
    (s.job c.pen = none →
      (c.opcode = 4 → exec (.jobUnload ring) s = done s rsNoJob []) ∧ (c.opcode = 5 → exec (.jobAbort ring) s = done s rsNoJob []) ∧
      (c.opcode = 6 → exec (.stepRelease ring) s = done s rsNoJob []) ∧ (c.opcode = 7 → exec (.seedSet ring) s = done s rsNoJob []) ∧
      (c.opcode = 9 → (∀ b ∈ c.body.take 12, b.toNat < 64) → exec (.yokeCheck ring) s = done s rsNoJob [])) ∧
    (c.opcode = 8 →
      let sealed_ := s.fld .devMode 0 1 = 1 ∧ firstT0 (s.jobD c.pen) = true
      (sealed_ → exec (.seedDraw ring) s = done s rsSealed []) ∧
      (¬ sealed_ → s.replayMode c.pen = true → exec (.seedDraw ring) s = done s rsReplay []) ∧
      (¬ sealed_ → s.replayMode c.pen = false → s.drbgReady = false → exec (.seedDraw ring) s = done s rsEntropy []) ∧
      (¬ sealed_ → s.replayMode c.pen = false → s.drbgReady = true →
        let s1 := (s.generate true).bump .rngHealth 48 16
        exec (.seedDraw ring) s = done { s1 with fresh := s1.fresh + 1 } rsOk (le 8 (Config.freeBits s1.fresh).toNat))))

/-- Snapshots, imports, checkpoints and restores as commands (R453, R497, R550 to R564): each takes its effect and its status, or
the first refusal that applies. A checkpoint ends once its bytes are performed, or when its buddy is silent. -/
def Obligations.CheckpointCommandsTakeEffect : Prop :=
  (∀ (s : State) (ring : Ring) (i : Nat) (c : Inflight) (j : Job), s.nextCmd ring.val = some (i, c) → s.job c.pen = some j →
    let done (t : State) (st : Nat) : Out := .next (t.finishCmd ring.val i st [])
    let step := c.word 0x18
    (c.opcode = 10 → sweepBegun j (c.word 0x10) = true → exec (.snapshot ring) s = done s rsSnapLate) ∧
    (c.opcode = 10 → sweepBegun j (c.word 0x10) = false →
      let a : SnapArm := { step := c.word 0x10, va := c.word 0x18, peer := if c.aux % 2 = 1 then some (c.word 0x20 % 65536) else none }
      exec (.snapshot ring) s = done ((s.onJob c.pen (fun j => { j with snap := some a })).setReg .updSnap
        (BitVec.ofNat 64 (1 + c.word 0x10 % 2 ^ 56 * 2 ^ 8)) (c.pen - 1)) rsOk) ∧
    (c.opcode = 11 →
      let busy := j.ckptRun ≠ none ∨ ∃ a, j.ckpt = some a ∧ a.step ≠ step
      let ended := s.fld .updJob 0 2 (c.pen - 1) = 3
      (ended → exec (.ckptArm ring) s = done s (rsCkpt 3)) ∧
      (¬ ended → wordGone j step = true → exec (.ckptArm ring) s = done s (rsCkpt 1)) ∧
      (¬ ended → wordGone j step = false → busy → exec (.ckptArm ring) s = done s (rsCkpt 2)) ∧
      (¬ ended → wordGone j step = false → ¬ busy →
        ∃ t, exec (.ckptArm ring) s = done t rsOk ∧ t = { s with regs := t.regs, pens := t.pens } ∧
          (∀ p, p ≠ c.pen → t.pen p = s.pen p) ∧
          t.job c.pen = some { j with ckpt := some {
            step := step, buddy := decide (c.aux % 2 = 1), buddyDev := fieldAt c.body 0x10 2, dedup := fieldAt c.body 0x12 1, narrow := decide (c.aux / 2 % 2 = 1), ring := ring.val, buffers := bufferList c.params } } ∧
          t.fld .updCkpt 0 2 (c.pen - 1) = 1 ∧ t.fld .updCkpt 2 1 (c.pen - 1) = c.aux % 2 ∧
          t.fld .updCkpt 3 1 (c.pen - 1) = c.aux / 2 % 2 ∧ t.fld .updCkpt 8 56 (c.pen - 1) = step % 2 ^ 56)) ∧
    (c.opcode = 12 →
      let reaches := ∃ kv ∈ (s.pen c.pen).active, (winEntry kv.2).valid = true ∧ 2 ^ 47 < (winEntry kv.2).lo + (winEntry kv.2).span
      (j.buddy = none → exec (.buddyReceive ring) s = done s (rsCkpt 6)) ∧
      (j.buddy ≠ none → reaches → exec (.buddyReceive ring) s = done s (rsCkpt 8)) ∧
      (j.buddy ≠ none → ¬ reaches → exec (.buddyReceive ring) s =
        done ((s.onJob c.pen (fun j => { j with buddyFrom := some (fieldAt c.body 0 2) })).setFld .updCkpt 4 1 1 (c.pen - 1)) rsOk)) ∧
    (c.opcode = 13 → c.aux ≤ 2 →
      (firstT0 j = true → exec (.restore ring) s = done s (rsCkpt 9)) ∧
      (firstT0 j = false → ∀ s1,
        (∀ e, s.restoreSource c ring.val j = (s1, .error e) → exec (.restore ring) s = done s1 e) ∧
        (∀ src, s.restoreSource c ring.val j = (s1, .ok src) →
          let bs := src.map Prod.fst
          let uses := fileUses j.plan bs
          let fits := ∀ et ∈ uses, formatFits (fileNarrow bs) et.1 et.2 = true
          let sum := uses.foldl addCount (some (j.restore.getD {}).counts)
          (fileSealed bs = false → exec (.restore ring) s = done s1 (rsCkpt 10)) ∧
          (fileSealed bs = true → ¬ fits → exec (.restore ring) s = done s1 (rsCkpt 11)) ∧
          (fileSealed bs = true → fits → sum = none → exec (.restore ring) s = done s1 (rsCkpt 12)) ∧
          (∀ counts k, fileSealed bs = true → fits → sum = some counts → uses.findSome? (s1.restoreCause c.pen) = some k →
            exec (.restore ring) s = done s1 (if k = 1 then rsWindowMiss else rsWindowPerm)) ∧
          (∀ counts, fileSealed bs = true → fits → sum = some counts → uses.findSome? (s1.restoreCause c.pen) = none →
            let s2 := uses.foldl (fun s et => s.restoreEntry c.pen src et) s1
            let s3 := s2.onJob c.pen (fun j' => { j' with restore := some ((j.restore.getD {}).addFile bs counts) })
            exec (.restore ring) s = done (s3.setFld .updCkpt 0 2 3 (c.pen - 1)) rsOk)))) ∧
    (∀ peers : List Word64, c.opcode = 14 →
      let x := j.restore.getD {}
      let short := ∃ k t, (k, t) ∈ (List.range j.plan.recs.length).zip j.plan.recs ∧ t.isMetric = false ∧
        SMap.get (fun _ => 0) x.counts k ≠ t.elems
      let mixed := x.mixed = true ∨ x.nextStep ≠ j.plan.startStep
      let other := fit 32 j.startFp ≠ (if x.narrow then x.ckptId else x.stateFp)
      let own := s.bankDigests c.pen j.plan
      let sum (k : Nat) (w : Word64) := ((peers.zip (List.range peers.length)).filter (fun q => decide (q.2 % 2 = k))).foldl (fun a q => a ^^^ q.1) w
      let wrong := (sum 0 own.1).toNat ≠ fieldAt x.stateFp 0 8 ∨ (x.narrow = false ∧ (sum 1 own.2).toNat ≠ fieldAt x.stateFp 8 8)
      (firstT0 j = true → exec (.restoreFinish ring peers) s = done s (rsCkpt 9)) ∧
      (firstT0 j = false → short → exec (.restoreFinish ring peers) s = done s (rsCkpt 13)) ∧
      (firstT0 j = false → ¬ short → mixed → exec (.restoreFinish ring peers) s = done s (rsCkpt 14)) ∧
      (firstT0 j = false → ¬ short → ¬ mixed → other → exec (.restoreFinish ring peers) s = done s (rsCkpt 15)) ∧
      (firstT0 j = false → ¬ short → ¬ mixed → ¬ other → wrong → exec (.restoreFinish ring peers) s = done s (rsCkpt 16)) ∧
      (firstT0 j = false → ¬ short → ¬ mixed → ¬ other → ¬ wrong →
        let s1 := s.onJob c.pen (fun j => { j with restore := none, lineage := if x.narrow then some x.stateFp else j.lineage })
        exec (.restoreFinish ring peers) s = done (((s1.setFld .updJob 2 1 0 (c.pen - 1)).setFld .updCkpt 0 2 0 (c.pen - 1)).postPen c.pen 274
          x.nextStep [ef x.nextStep, .d x.ckptId, ef (if x.narrow then 1 else 0)]) rsOk)) ∧
    (∀ rankZero, c.opcode = 15 →
      let r := importAll rankZero (c.params.length / 16 + 1) j c.params
      exec (.ledgerImport ring rankZero) s = done (((s.setJob c.pen (some r.1)).importedReg c.pen).replayReg) r.2)) ∧
  (∀ (s : State) (ring : Ring) (i : Nat) (c : Inflight), s.nextCmd ring.val = some (i, c) →
    (c.opcode = 13 → 2 < c.aux → exec (.restore ring) s = .next (s.finishCmd ring.val i rsReserved [])) ∧
    (s.job c.pen = none → ∀ x : Instr, (c.opcode = 10 ∧ x = .snapshot ring) ∨ (c.opcode = 11 ∧ x = .ckptArm ring) ∨
      (c.opcode = 12 ∧ x = .buddyReceive ring) ∨ (c.opcode = 13 ∧ c.aux ≤ 2 ∧ x = .restore ring) ∨
      (c.opcode = 14 ∧ ∃ peers, x = .restoreFinish ring peers) ∨ (c.opcode = 15 ∧ ∃ first, x = .ledgerImport ring first) →
      exec x s = .next (s.finishCmd ring.val i rsNoJob [])) ∧
    (c.opcode = 17 → s.ftpStatus c.params = rsOk →
      exec (.ftpLoad ring) s = .next ((s.takePack c.params).finishCmd ring.val i rsOk [])) ∧
    (c.opcode = 17 → s.ftpStatus c.params ≠ rsOk →
      exec (.ftpLoad ring) s = .next (s.finishCmd ring.val i (s.ftpStatus c.params) []))) ∧
  (∀ (s : State) (pen : Pen) (j : Job) (peers : List DedupTuple), s.job pen = some j →
    (∀ c, ckptDue j = some c → carries j = true → exec (.ckptWrite pen peers) s = .next (s.ckptEnd pen c 4 0 [] 0)) ∧
    (∀ c, ckptDue j = some c → carries j = false → dedupReady j c peers = false → exec (.ckptWrite pen peers) s = .next s) ∧
    (∀ c, ckptDue j = some c → carries j = false → dedupReady j c peers = true →
      let f := s.shardFile pen c peers
      let half := match j.buddy with | some r => regionSize r / 2 | none => 0
      let room := if c.buddy then half else (c.buffers.map Prod.snd).sum
      (room < f.1.length → exec (.ckptWrite pen peers) s = .next (s.ckptEnd pen c 6 0 [] 0)) ∧
      (f.1.length ≤ room →
        let s1 := (j.plan.recs.zip (List.range j.plan.recs.length)).foldl (fun s ti => s.noteSaved pen (s.fld .updJob 2 1 (pen - 1)) ti) s
        let s2 := f.2.diverged.foldl (fun s d => s.postPen pen 273 c.step (ef d.1 :: d.2.map ef)) s1
        let s3 := if f.2.diverged = [] then s2 else s2.setFld .updCkptStat 8 1 1 (pen - 1)
        let bs := f.1.zip (List.replicate (f.1.length - f.2.data.length) false ++ f.2.bad)
        let run : CkptRun := {
          arm := c, ckptId := ckptIdOf (c.step + 1) j.startFp c.narrow, status := (if f.2.diverged = [] then 0 else 5),
          bytes := f.1.length, dataRecords := f.2.dataRecords }
        let ends (t : State) : Out := .next ((t.onJob pen (fun j => { j with
          ckptRun := some run, buddySlot := if c.buddy then 1 - j.buddySlot else j.buddySlot })).setFld .updCkpt 0 2 2 (pen - 1))
        (c.buddy = false → exec (.ckptWrite pen peers) s = ends (State.toBuffers pen c.ring c.buffers s3 f.1)) ∧
        (c.buddy = true →
          let va := 2 ^ 47 + j.buddySlot * half
          exec (.ckptWrite pen peers) s =
            ends ((s3.remoteWrite pen c.buddyDev (va + 4096) (bs.drop 4096)).remoteWrite pen c.buddyDev va (bs.take 4096))))) ∧
    (∀ r, j.ckptRun = some r →
      (r.arm.buddy = false ∨ drained j = true →
        exec (.ckptComplete pen) s = .next (s.ckptEnd pen r.arm r.status r.bytes r.ckptId r.dataRecords)) ∧
      (r.arm.buddy = true → drained j = false →
        exec (.ckptBuddyTimeout pen) s = .next (s.ckptEnd pen r.arm 7 r.bytes r.ckptId r.dataRecords))))

/-! ### The authority -/

/-- Orders are checked (R591, R592, R597, R604, R645): lock, selected authority, signature, nonce, reserved fields, recovery, in that order,
and one that passes all is accepted; the mailbox fetches its record, answers a refused one and keeps one that passes; an order of another
channel that is refused is answered without effect; an accepted order raises the nonce, and the mailbox's answer record follows the order. -/
def Obligations.OrdersAreCheckedInOrder : Prop :=
  (∀ (s : State) (ch : Nat) (r : List Byte),
    let barred := s.recovery = true ∧ orderOp r ≠ 6 ∧ orderOp r ≠ 7
    (s.locked = true → s.orderRefusal ch r = some auTamperLocked) ∧
    (s.locked = false → s.authority ≠ ch → s.orderRefusal ch r = some auNotAuthority) ∧
    (s.locked = false → s.authority = ch → s.authentic ch r = false → s.orderRefusal ch r = some auSig) ∧
    (s.locked = false → s.authority = ch → s.authentic ch r = true → orderNonce r ≠ s.nonce → s.orderRefusal ch r = some auNonce) ∧
    (s.locked = false → s.authority = ch → s.authentic ch r = true → orderNonce r = s.nonce → orderReserved r = true →
      s.orderRefusal ch r = some auReserved) ∧
    (s.locked = false → s.authority = ch → s.authentic ch r = true → orderNonce r = s.nonce → orderReserved r = false →
      (barred → s.orderRefusal ch r = some auNotAuthority) ∧ (¬ barred → s.orderRefusal ch r = none))) ∧
  (∀ s : State,
    (s.mgmtUp = true → s.perst = false → s.order = none →
      let r := s.hostRead (s.reg .hifAuthAddr).toNat (s.fld .hifAuthCtl 0 32)
      let s1 := s.setFld .hifAuthCtl 32 1 1
      (s1.orderRefusal rotChannel r = none →
        exec .authMailboxGo s = .next { s1 with order := some { opcode := orderOp r, body := orderBody r } }) ∧
      (∀ a, s1.orderRefusal rotChannel r = some a → exec .authMailboxGo s = .next (s1.orderEnds .mailbox (.answer a)))) ∧
    (s.mgmtUp = false ∨ s.perst = true ∨ s.order ≠ none → exec .authMailboxGo s = .next s)) ∧
  (∀ (i : Instr) (o : OrderFrom) (op : Nat) (s : State) (r : List Byte) (a : Nat), orderForm i = some (o, op) →
    (o = .network r → s.mgmtUp = true → orderOp r = op → s.orderRefusal netChannel r = some a → exec i s = .next (s.orderEnds o (.answer a))) ∧
    (o = .smbus r → s.mgmtUp = true → orderOp r = op → s.orderRefusal rotChannel r = some a → exec i s = .next (s.orderEnds o (.answer a))) ∧
    (o = .mailbox → s.locked = true → (∃ w, s.order = some w ∧ w.opcode = op) → exec i s = .next (s.orderEnds o (.answer auTamperLocked)))) ∧
  (∀ (s : State) (e : OrderEnd), e.code < 256 →
    let t := s.orderEnds .mailbox e
    t.order = none ∧ t.fld .hifAuthCtl 32 1 = 0 ∧ t.fld .hifAuthCtl 40 8 = e.code ∧
    t.hostRead ((s.reg .hifAuthAddr).toNat + roundUp64 (s.fld .hifAuthCtl 0 32)) 8 = le 8 e.record ∧
    t.nonce = if e.code = 0 then (s.nonce + 1) % 2 ^ 56 else s.nonce) ∧
  (∀ s : State, s.fld .secAuth 6 1 = 1 →
    ∃ t, exec .claimWindowEnd s = .next t ∧ t = { s with regs := t.regs } ∧ t.fld .secAuth 6 1 = 0)

/-- The orders themselves (R34, R372, R529, R572, R593, R594, R596 to R599, R605, R619): each that arrives takes its effect, or the first
refusal that applies, and is answered the way it came. -/
def Obligations.OrdersTakeEffect : Prop :=
  ∀ (s : State) (o : OrderFrom) (body : List Byte),
    let done (t : State) (e : OrderEnd) : Out := .next (t.orderEnds o e)
    (Arrives s o 1 body →
      let whole := 240 ≤ body.length ∧ combSize body ≤ body.length
      (¬ whole → exec (.loadDeviceSection o) s = done s (.ring rsLength)) ∧
      (whole → ∀ e, checkDeviceComb body = some e → exec (.loadDeviceSection o) s = done s (.ring e.status)) ∧
      (whole → checkDeviceComb body = none → ∀ e, s.checkSections body = some e → exec (.loadDeviceSection o) s = done s (.ring e.status)) ∧
      (whole → checkDeviceComb body = none → s.checkSections body = none →
        exec (.loadDeviceSection o) s = done (s.applySections body) .ok)) ∧
    (Arrives s o 2 body →
      let legal := ∀ b ∈ body, b.toNat ≤ 12
      let idle := ∀ r, r < 4096 → (body.getD r 0#8).toNat ≠ s.ringOwner r → (s.ring r).inflight = []
      let moved := (List.range 4096).filter (fun r => decide ((body.getD r 0#8).toNat ≠ s.ringOwner r))
      (body.length ≠ 4096 → exec (.ringAllocation o) s = done s (.ring rsLength)) ∧
      (body.length = 4096 → ¬ legal → exec (.ringAllocation o) s = done s (.answer auReserved)) ∧
      (body.length = 4096 → legal → ¬ idle → exec (.ringAllocation o) s = done s (.ring rsPenBusy)) ∧
      (body.length = 4096 → legal → idle →
        exec (.ringAllocation o) s = done (moved.foldl (fun s r =>
          (s.ringReset r).setFld .hifRingCtl 16 4 (body.getD r 0#8).toNat r) s).countRings .ok)) ∧
    (Arrives s o 3 body →
      let legal := 8 ≤ body.length ∧ someNonzero body 1 7 = false ∧ fieldAt body 0 1 ≤ 2
      (legal → exec (.setAuthority o) s = done (s.keepOwner (fieldAt body 0 1) (body.drop 8)) .ok) ∧
      (¬ legal → exec (.setAuthority o) s = done s (.answer auReserved))) ∧
    (Arrives s o 4 body → s.fld .secAuth 6 1 = 0 → exec (.takeOwnership o) s = done s (.answer auNotAuthority)) ∧
    (Arrives s o 4 body → s.fld .secAuth 6 1 = 1 →
      let s1 := s.keepOwner s.authority body
      exec (.takeOwnership o) s =
        done { (s1.setFld .secAuth 0 2 s1.authority).setFld .secAuth 5 2 1 with ownerPub := body } .ok) ∧
    (Arrives s o 5 body → exec (.releaseOwnership o) s = done (s.keepOwner 0 []) .ok) ∧
    (Arrives s o 6 body →
      let legal := 8 ≤ body.length ∧ someNonzero body 1 7 = false ∧ fieldAt body 0 1 ≤ 1
      let slot := decide (fieldAt body 0 1 = 1)
      let busy := slot = s.fwRuns ∧ s.recovery = false
      (¬ legal → exec (.fwWrite o) s = done s (.answer auReserved)) ∧
      (legal → busy → exec (.fwWrite o) s = done s (.answer auFwSlotBusy)) ∧
      (legal → ¬ busy → ∀ a, s.fwRefusal (body.drop 8) = some a → exec (.fwWrite o) s = done s (.answer a)) ∧
      (legal → ¬ busy → s.fwRefusal (body.drop 8) = none →
        let s1 : State := { s.setFld .secFw (if slot then 3 else 2) 1 1 with fwTrial := none }
        exec (.fwWrite o) s = done (if slot then { s1 with fwB := .image (body.drop 8) } else { s1 with fwA := .image (body.drop 8) })
          .ok)) ∧
    (Arrives s o 7 body →
      let slot := if s.recovery then !s.slotGood s.fwA else !s.fwRuns
      (s.slotGood (s.fwSlot slot) = true → exec (.fwActivate o) s = done { s with fwTrial := some slot } .ok) ∧
      (s.slotGood (s.fwSlot slot) = false → exec (.fwActivate o) s = done s (.answer auFwNotVerified))) ∧
    (Arrives s o 8 body →
      (s.fld .secFw 1 1 = 1 → exec (.fwCommit o) s = done s (.answer auFwNotRunning)) ∧
      (s.fld .secFw 1 1 = 0 →
        let s1 := (if s.fwCounter < s.fld .secFw 32 16 then s.keepWrite 8 (BitVec.ofNat 64 (s.fld .secFw 32 16)) else s).keepAll
        exec (.fwCommit o) s = done ((s1.setFld .secFw 48 16 s1.fwCounter).setFld .secFw 4 1
          (bitIf (decide (s1.fwCounter < s.fld .secFw 32 16)) 0)) .ok ∧ s1.keepQ = [])) ∧
    (Arrives s o 9 body →
      (s.loadedPens ≠ [] → exec (.mgmtRestart o) s = done s (.answer auMgmtBusy)) ∧
      (s.loadedPens = [] →
        exec (.mgmtRestart o) s = done (if s.bootFw.atReady then s.bootFw.trialGood else s.bootFw).refreshPins .ok)) ∧
    (Arrives s o 10 body →
      let legal := body ≠ [] ∧ body.length % 16 = 0 ∧ ∀ e ∈ policyEntries body, policyReg e ≠ none
      (¬ legal → exec (.writePolicy o) s = done s (.answer auReserved)) ∧
      (legal → exec (.writePolicy o) s = done ((policyEntries body).foldl (fun s e => match policyReg e with
        | some r => s.writeRwk r.1 r.2 (BitVec.ofNat 64 e.2 &&& r.1.row.rw)
        | none => s) s) .ok)) ∧
    (Arrives s o 11 body →
      let legal := body.length = 8 ∧ ledgerBase ≤ fieldAt body 0 8 ∧ fieldAt body 0 8 < ledgerBase + ledgerWords
      (legal → exec (.clearLedgerEntry o) s = done (s.keepWrite (fieldAt body 0 8) 0#64) .ok) ∧
      (¬ legal → exec (.clearLedgerEntry o) s = done s (.answer auReserved))) ∧
    (Arrives s o 12 body →
      let legal := body.length = 8 ∧ fieldAt body 0 8 < 12
      (legal → exec (.clearBayAct o) s = done (s.setFld .errBayWx 0 1 0 (fieldAt body 0 8)) .ok) ∧
      (¬ legal → exec (.clearBayAct o) s = done s (.answer auReserved))) ∧
    (Arrives s o 13 body → ∃ t, exec (.clearTamperLog o) s = done t .ok ∧
      t = { s with regs := t.regs, keepQ := t.keepQ, tamperHead := 0 } ∧ (∀ i, i < 16 → t.reg .secTamperLog i = 0#64) ∧
      t.keepQ = s.keepQ ++ (List.range 16).map (fun i => (0x40 + i, 0#64)) ∧ t.fld .secTamper 8 8 = 0) ∧
    (Arrives s o 14 body →
      (s.ftpStatus body = rsOk → exec (.authFtpLoad o) s = done (s.takePack body) .ok) ∧
      (s.ftpStatus body ≠ rsOk → exec (.authFtpLoad o) s = done s (.ring (s.ftpStatus body))))

/-- The SPDM responder (R585, R600 to R602): versions, capabilities, algorithms, digests, certificates, challenges and measurements are
answered in the order of a connection, and one out of order or with fields that the device does not support is answered with an error; a key
exchange opens a session and the host session of a confidential pen, a FINISH whose data match completes it, and updates, heartbeats and
the end of the session follow. The codes and the fields of the answers are those of DSP0274 (the model's reading, PRESUMED, log entry
41). -/
def Obligations.ResponderAnswersRequests : Prop :=
  (∀ (s : State) (ep : SpdmEp) (code : Nat) (bs : List Byte),
    let t := s.respond ep code bs
    t = { s with spdm := t.spdm, smbusMsg := t.smbusMsg, regs := t.regs } ∧
    (∀ e, t.conn e = if epKey e = epKey ep then { s.conn ep with respCode := code, resp := bs } else s.conn e) ∧
    (ep = .smbus → t.smbusMsg = true) ∧ (ep ≠ .smbus → t.regs = s.regs ∧ t.smbusMsg = s.smbusMsg)) ∧
  (∀ (s : State) (ep : SpdmEp),
    let c := s.conn ep
    let err (n : Nat) : Out := .next (s.respond ep spError (le 1 n))
    (s.epUp ep = false → exec (.getVersion ep) s = .next s ∧ exec (.getDigests ep) s = .next s ∧ exec (.heartbeat ep) s = .next s) ∧
    (Reaches s ep 0 → exec (.getVersion ep) s = .next (((s.closeSession ep).onConn ep (fun _ => { stage := 1 })).respond ep spVersion
      (le 1 2 ++ le 2 0x1200 ++ le 2 0x1300))) ∧
    (∀ minor, Reaches s ep 1 →
      (minor = 2 ∨ minor = 3 → exec (.getCapabilities ep minor) s =
        .next ((s.onConn ep (fun c => { c with stage := max 2 c.stage, minor := minor })).respond ep spCapabilities (le 4 spdmCaps))) ∧
      (minor ≠ 2 → minor ≠ 3 → exec (.getCapabilities ep minor) s = err seVersion)) ∧
    (∀ a, Reaches s ep 2 →
      let own : SpdmAlgs := { ecdsaP384 := true, sha384 := true, secp384r1 := true, aes256gcm := true }
      (a = own → exec (.negotiateAlgorithms ep a) s = .next ((s.onConn ep (fun c => { c with stage := 3 })).respond ep spAlgorithms
        (le 4 0x80 ++ le 4 0x2 ++ le 2 0x10 ++ le 2 0x2))) ∧
      (a ≠ own → exec (.negotiateAlgorithms ep a) s = err seInvalidRequest)) ∧
    (s.epUp ep = true → c.stage < 3 → ∀ x : Instr,
      (x = .getDigests ep ∨ (∃ a b d, x = .getCertificate ep a b d) ∨ (∃ a b, x = .challenge ep a b) ∨ (∃ a, x = .getMeasurements ep a) ∨
        (∃ a b d, x = .keyExchange ep a b d) ∨ (∃ a, x = .finish ep a) ∨ (∃ a, x = .keyUpdate ep a) ∨ x = .heartbeat ep ∨ x = .endSession ep) →
      exec x s = err seUnexpected) ∧
    (Reaches s ep 3 →
      exec (.getDigests ep) s = .next (s.respond ep spDigests (le 1 3 ++ sha384 (Config.certChain 0) ++ sha384 (Config.certChain 1))) ∧
      (∀ slot off len,
        let part := ((Config.certChain slot).drop off).take len
        (slot ≤ 1 → off < (Config.certChain slot).length → exec (.getCertificate ep slot off len) s = .next (s.respond ep spCertificate
          (le 1 slot ++ le 2 part.length ++ le 2 ((Config.certChain slot).length - off - part.length) ++ part))) ∧
        (1 < slot ∨ (Config.certChain slot).length ≤ off → exec (.getCertificate ep slot off len) s = err seInvalidRequest)) ∧
      (∀ slot nonce,
        let head := le 1 slot ++ sha384 (Config.certChain slot) ++ s.spdmNonce.1
        (slot ≤ 1 → s.drbgReady = true → exec (.challenge ep slot nonce) s =
          .next (s.spdmNonce.2.respond ep spChallengeAuth (head ++ Config.spdmSignature (nonce ++ head)))) ∧
        (slot ≤ 1 → s.drbgReady = false → exec (.challenge ep slot nonce) s = err seUnspecified) ∧
        (1 < slot → exec (.challenge ep slot nonce) s = err seInvalidRequest)) ∧
      (∀ i,
        let answer (b : List Byte) : Prop := (s.drbgReady = true → exec (.getMeasurements ep i) s =
            .next (s.spdmNonce.2.respond ep spMeasurements (b ++ s.spdmNonce.1 ++ Config.spdmSignature (b ++ s.spdmNonce.1)))) ∧
          (s.drbgReady = false → exec (.getMeasurements ep i) s = err seUnspecified)
        (i = 0 → answer (le 1 19)) ∧
        (i = 255 → answer (measureIndices.flatMap (fun k => measureBlock k ((s.measure k).getD [])))) ∧
        (∀ v, i ≠ 0 → i ≠ 255 → s.measure i = some v → answer (measureBlock i v)) ∧
        (i ≠ 0 → i ≠ 255 → s.measure i = none → exec (.getMeasurements ep i) s = err seInvalidRequest)) ∧
      (∀ slot ex ma,
        (∀ q, c.sessionStage = 0 → slot ≤ 1 → pointOf (4#8 :: ex) = some q →
          (s.drbgReady = false → exec (.keyExchange ep slot ex ma) s = err seUnspecified) ∧
          (s.drbgReady = true →
            let d := (s.generate false).drawWide 6
            let own := pointBytes (ecPublic d.1)
            let z := be 48 ((ecMul (d.1 % n384) (some q) 384).getD (0, 0)).1
            let secret := Config.spdmExportSecret (z ++ ex ++ own.drop 1)
            let s1 := d.2.onConn ep (fun c => { c with session := c.session + 1, sessionStage := 1, secret := secret, mutualAuth := ma })
            exec (.keyExchange ep slot ex ma) s = .next ((s1.openHost (epPen ep) secret).respond ep spKeyExchangeRsp
              (own.drop 1 ++ Config.spdmSignature (ex ++ own))))) ∧
        (c.sessionStage ≠ 0 → exec (.keyExchange ep slot ex ma) s = err seBusy) ∧
        (c.sessionStage = 0 → 1 < slot ∨ pointOf (4#8 :: ex) = none → exec (.keyExchange ep slot ex ma) s = err seInvalidRequest)) ∧
      (∀ v,
        (c.sessionStage = 1 → v = Config.spdmFinishData c.secret →
          exec (.finish ep v) s = .next ((s.onConn ep (fun c => { c with sessionStage := 2 })).respond ep spFinishRsp [])) ∧
        (c.sessionStage = 1 → v ≠ Config.spdmFinishData c.secret →
          exec (.finish ep v) s = .next ((s.closeSession ep).respond ep spError (le 1 seDecrypt))) ∧
        (c.sessionStage ≠ 1 → exec (.finish ep v) s = err seUnexpected)) ∧
      (c.sessionStage = 2 →
        (∀ all, exec (.keyUpdate ep all) s = .next ((s.onConn ep (fun c => { c with
          reqKeyGen := c.reqKeyGen + 1, rspKeyGen := if all then c.rspKeyGen + 1 else c.rspKeyGen })).respond ep spKeyUpdateAck [])) ∧
        exec (.heartbeat ep) s = .next (s.respond ep spHeartbeatAck []) ∧
        exec (.endSession ep) s = .next ((s.closeSession ep).respond ep spEndSessionAck [])) ∧
      (c.sessionStage ≠ 2 → (∀ all, exec (.keyUpdate ep all) s = err seUnexpected) ∧ exec (.heartbeat ep) s = err seUnexpected ∧
        exec (.endSession ep) s = err seUnexpected)) ∧
    (let t := s.closeSession ep
     t.conn ep = { c with session := 0, sessionStage := 0, secret := [], mutualAuth := false, reqKeyGen := 0, rspKeyGen := 0 } ∧
     (epPen ep ≠ 0 → (t.pen (epPen ep)).session = none ∧ t.fld .penState 4 1 (epPen ep - 1) = 0)) ∧
    (∀ secret p, 1 ≤ p → p ≤ 12 → (s.pen p).present = true → (s.pen p).confidential = true → (s.pen p).teardownCause = none →
      ((s.openHost p secret).pen p).session = some (hostKeys secret) ∧ (s.openHost p secret).fld .penState 4 1 (p - 1) = 1))

/-! ### Pens and the tamper response -/

/-- A pen's teardown (R577, R578, R580, R595, R604, R634): a reset by the pen's function or by PF0 quiesces it and ends its job, unless
an order of the authority about the pen waits, to which it loses; a pen already being torn down, and one that is not there, goes on as it
is, and another pen's function resets nothing. Once quiet its commands complete, its rings are reset, its ports are empty and its session
ends; the scrub empties its cores; after the crypto-erase its bays read as undefined data and the pen is created anew, waits for its
creation, or is gone; a pen that waits is created with its bays. An event out of its turn changes nothing. -/
def Obligations.PenTeardownInOrder : Prop :=
  ∀ (s : State) (fn : Func) (pen : Pen), 1 ≤ pen → pen ≤ 12 →
    let dying := (s.pen pen).teardownCause ≠ none
    (fn.val ≠ 0 → fn.val ≠ pen → exec (.penReset fn pen) s = .next s) ∧
    ((s.pen pen).present = false ∨ dying → exec (.penReset fn pen) s = .next s) ∧
    ((s.pen pen).present = true → ¬ dying → s.orderOnPen pen = false →
      (fn.val = pen → exec (.penReset fn pen) s = .next ((s.teardown pen byVf).setFld .hifPenReset 0 1 1 (pen - 1))) ∧
      (fn.val = 0 → exec (.penReset fn pen) s =
        .next (((s.preemptPen pen).teardown pen byPf0).setFld .hifPenReset 0 1 1 (pen - 1)))) ∧
    ((s.pen pen).present = true → ¬ dying → s.orderOnPen pen = true →
      (fn.val = pen → exec (.penReset fn pen) s = .next (s.arbLost 2 pen)) ∧
      (fn.val = 0 → exec (.penReset fn pen) s = .next (s.arbLost 1 0)) ∧
      (s.arbLost 1 0).fld .secArb 0 16 = min (s.fld .secArb 0 16 + 1) 65535 ∧ (s.arbLost 1 0).fld .secArb 63 1 = 1) ∧
    ((s.pen pen).present = true → ¬ dying → ∀ cause,
      s.teardown pen cause = ((s.onPen pen (fun x => { x with teardownCause := some cause })).setPenSt pen penQuiescing).cutJob pen ∧
      (s.job pen = none → (s.teardown pen cause).penSt pen = penQuiescing)) ∧
    (dying → s.penSt pen = penQuiescing →
      ∃ t, exec (.teardownQuiesceDone pen) s = .next t ∧
        t = { s with regs := t.regs, rings := t.rings, ports := t.ports, pens := t.pens, hostMem := t.hostMem, msix := t.msix, spdm := t.spdm,
                     evq := t.evq, evLost := t.evLost } ∧
        t.penSt pen = penScrubbing ∧ (t.pen pen).session = none ∧
        (∀ r ∈ s.ringsOf pen, t.ring r = {}) ∧ (∀ r, r < 4096 → r ∉ s.ringsOf pen → t.ring r = s.ring r) ∧
        SMap.get (fun _ => []) t.evq pen = [] ∧
        ∀ b, b < 12 → t.port b = if b ∈ s.baysOf pen then (s.port b).empty else s.port b) ∧
    (dying → s.penSt pen = penScrubbing →
      exec (.scrubDone pen) s = .next (((s.scrub pen).setPenSt pen penErasing).refreshCut.refreshPower) ∧
        (∀ k, k / 256 = pen → (s.scrub pen).core k = {}) ∧ (∀ k, k / 256 ≠ pen → (s.scrub pen).core k = s.core k)) ∧
    (∀ cause, (s.pen pen).teardownCause = some cause → s.penSt pen = penErasing →
      ∃ t, exec (.cryptoEraseDone pen) s = .next t ∧
        (∀ b, b < 12 → (b ∈ s.baysOf pen → (t.bay b).erases = (s.bay b).erases + 1 ∧ ∀ a, a / stackSpan = b → SMap.find t.hbm a = none) ∧
          (b ∉ s.baysOf pen → t.bay b = s.bay b ∧ ∀ a, a / stackSpan = b → SMap.find t.hbm a = SMap.find s.hbm a)) ∧
        (∀ e, (s.pen pen).next = some e → e.1 = true → s.locked = false →
          (t.pen pen).present = false ∧ (t.pen pen).createPending = true ∧ (t.pen pen).next = some e ∧ t.penSt pen = penAbsent) ∧
        (∀ e, (s.pen pen).next = some e → e.1 = false → s.locked = false → t.pen pen = {} ∧ t.penSt pen = penAbsent) ∧
        (s.locked = true → t.pen pen = {} ∧ t.penSt pen = penLocked) ∧
        (s.locked = false → (s.pen pen).next = none → s.drbgReady = true →
          (t.pen pen).present = true ∧ (t.pen pen).bays = (s.pen pen).bays ∧ (t.pen pen).confidential = (s.pen pen).confidential ∧
          (t.pen pen).teardownCause = none ∧ t.penSt pen = penReady)) ∧
    (¬ dying ∨ s.penSt pen ≠ penQuiescing → exec (.teardownQuiesceDone pen) s = .next s) ∧
    (¬ dying ∨ s.penSt pen ≠ penScrubbing → exec (.scrubDone pen) s = .next s) ∧
    (¬ dying ∨ s.penSt pen ≠ penErasing → exec (.cryptoEraseDone pen) s = .next s) ∧
    (∀ e, (s.pen pen).next = some e →
      let ready := (s.pen pen).createPending = true ∧ (s.pen pen).present = false ∧ s.locked = false ∧ s.drbgReady = true ∧ s.atReady = true ∧
        (∀ b, b < 12 → s.penOfBay b = 0 ∨ e.2.2.getLsbD b = false) ∧ (∀ p, 1 ≤ p → p ≤ 12 → (s.pen p).next = none ∨ (s.pen p).teardownCause = none)
      let t := s.createPen pen e.2.1 e.2.2
      (ready → exec (.penCreate pen) s = .next t ∧ (t.pen pen).present = true ∧ (t.pen pen).bays = e.2.2 ∧
        (t.pen pen).confidential = e.2.1 ∧ (t.pen pen).active = [] ∧ t.penSt pen = penReady) ∧
      (¬ ready → exec (.penCreate pen) s = .next s)) ∧
    ((s.pen pen).next = none → exec (.penCreate pen) s = .next s)

/-- A tamper alarm (R603 to R605): none while the device is off; each is logged with its sensor and the state that it found; the keys
are zeroised, the device is locked and every pen is torn down; in Keep the keys go, and start-up halts locked; an alarm on a locked
device is logged and no more. -/
def Obligations.TamperAlarmLocksTheDevice : Prop :=
  ∀ (s : State) (sensor : TamperSensor) (keyOp : Bool),
    (s.power = .off → exec (.tamperAlarm sensor keyOp) s = .next s) ∧
    (s.power ≠ .off → ∃ st, s.alarmState keyOp = some st) ∧
    (∀ st, s.alarmState keyOp = some st →
      let s1 := s.logAlarm (sensorCode sensor) st
      let s2 := if s1.locked then s1 else if st = 0 then s1.haltLocked else if st = 4 then s1.zeroise
        else (if st = 3 then s1.abortKeyOps else s1).lockDown
      exec (.tamperAlarm sensor keyOp) s =
        .next (if s.atReady && !s.perst then s2.post 0 290 0 [ef (sensorCode sensor), ef st] else s2).refreshPins ∧
      s1.fld .secTamper 0 4 = sensorCode sensor ∧ s1.fld .secTamper 4 3 = st ∧
      s1.fld .secTamper 8 8 = min 16 (s.fld .secTamper 8 8 + 1) ∧
      (s.tamperHead < 16 → s1.fld .secTamperLog 0 4 s.tamperHead = sensorCode sensor ∧ s1.fld .secTamperLog 4 4 s.tamperHead = st ∧
        s1.tamperHead = (s.tamperHead + 1) % 16)) ∧
    (∀ p, 1 ≤ p → p ≤ 12 → ((s.zeroise).pen p).memKey = 0#512 ∧ ((s.zeroise).pen p).importPriv = 0 ∧ ((s.zeroise).pen p).session = none) ∧
    (s.zeroise).deviceKey = 0#512 ∧ (s.zeroise).drbgReady = false ∧ (s.zeroise).spdm = [] ∧
    (s.lockDown).locked = true ∧ (s.haltLocked).locked = true

/-! ### Start-up, resets and power -/

/-- Power and start-up (R598, R660, R662 to R666, R675, R679, R692, R700, R703, R704, R707, R708): power-good begins a cold start with
nothing kept but the keep store, the fuses and the boot flash; the stages follow one another, each when its conditions hold, and the last
makes the device READY; a stage that takes too long withholds READY; loss of the input or an overvoltage takes the module Off. -/
def Obligations.StartUpReachesReady : Prop :=
  (∀ (s : State) (slot : BitVec 5) (strap : Bool), s.power = .off →
    ∃ t, exec (.powerGood slot strap) s = .next t ∧
      t = { s.nonVolatile with power := .idle, powerGood := true, aonUp := true, regs := t.regs, keep := t.keep, wear := t.wear, keepQ := [],
                               ownerPub := t.ownerPub, evq := t.evq, evLost := t.evLost } ∧
      t.stage = stageManagement ∧ t.reg .mgtStraps = BitVec.ofNat 64 (slot.toNat + bitIf strap 5 + (0x40 + slot.toNat) * 2 ^ 8) ∧
      (s.worn 0 = false → t.keepWord 0 = s.keepWord 0 + 1#64) ∧ (∀ w, w ≠ 0 → t.keepWord w = s.keepWord w) ∧
      t.fuses = s.fuses ∧ t.cores = [] ∧ t.pens = []) ∧
  (∀ (s : State) (slot : BitVec 5) (strap : Bool), s.power ≠ .off → exec (.powerGood slot strap) s = .next s) ∧
  (∀ (s : State) (res : StageRes),
    let go := s.power = .idle ∧ s.locked = false
    (go → s.stage = stageManagement → s.rngState ≠ rngStarting → exec (.startupStageDone res) s = .next s.managementDone.refreshPins) ∧
    (go → s.stage = stageManagement → s.rngState ≠ rngStarting → s.fwTrial = none → s.slotGood (s.fwSlot s.fwActive) = true →
      s.recovery = false → s.managementDone.stage = stageClocks) ∧
    (go → s.stage = stageClocks → res.pllLocked = true → exec (.startupStageDone res) s = .next (s.setFld .mgtBoot 0 4 stageMemory)) ∧
    (go → s.stage = stageClocks → res.pllLocked = false → exec (.startupStageDone res) s = .next (s.startFails stageClocks 3)) ∧
    (go → s.stage = stageMemory → exec (.startupStageDone res) s = .next (s.memoryDone res.failedBays)) ∧
    (go → s.stage = stageLinks → s.linkDone = true → exec (.startupStageDone res) s = .next (s.setFld .mgtBoot 0 4 stageCompute)) ∧
    (go → s.stage = stageCompute → exec (.startupStageDone res) s = .next (s.computeDone res.ms res.failedSites)) ∧
    (s.fld .secFw 1 1 = 0 ∨ res.ms ≤ 9000 →
      (s.computeDone res.ms res.failedSites).stage = stageReady ∧ (s.computeDone res.ms res.failedSites).fld .mgtBoot 32 16 = min 65535 res.ms) ∧
    (¬ go ∨ stageCompute < s.stage ∨ (s.stage = stageManagement ∧ s.rngState = rngStarting) ∨ (s.stage = stageLinks ∧ s.linkDone = false) →
      exec (.startupStageDone res) s = .next s) ∧
    (go → s.stage ≤ stageCompute → exec .stageTimeout s = .next (s.startFails s.stage 5)) ∧
    (¬ go ∨ stageCompute < s.stage → exec .stageTimeout s = .next s) ∧
    (∀ code, code < 256 → s.stage ≤ stageCompute →
      (s.fld .secFw 1 1 = 0 → (s.startFails s.stage code).stage = stageFailed ∧ (s.startFails s.stage code).fld .mgtBoot 4 4 = s.stage ∧
        (s.startFails s.stage code).fld .mgtBoot 8 8 = code) ∧
      (s.fld .secFw 1 1 = 1 → (s.startFails s.stage code).stage = stageManagement ∧ (s.startFails s.stage code).fwTrial = none))) ∧
  (∀ s : State,
    let powered := s.power ≠ .off ∨ s.aonUp = true
    (powered → exec .inputLoss s = .next s.goOff) ∧ (¬ powered → exec .inputLoss s = .next s) ∧
    s.goOff.power = .off ∧ s.goOff.fuses = s.fuses ∧ s.goOff.cores = [] ∧ s.goOff.hostMem = s.hostMem ∧ s.goOff.keepQ = [] ∧
    (∀ mv ms, (powered → 65000 < mv ∨ (60000 < mv ∧ 100 < ms) → exec (.overvoltage mv ms) s = .next s.goOff) ∧
      (¬ powered ∨ (mv ≤ 65000 ∧ (mv ≤ 60000 ∨ ms ≤ 100)) → exec (.overvoltage mv ms) s = .next s)) ∧
    (s.power = .off → s.aonUp = false → exec .alwaysOnDomainUp s = .next { s with aonUp := true }.refreshPins) ∧
    (powered → exec .alwaysOnDomainUp s = .next s))

/-- Resets (R659, R672 to R674, R684, R707, R709): a compute reset pauses fetching, ends every job and, once done, leaves the core side
empty with fetching resumed and the sites that failed their test retired; a hot reset and PERST reset the host interface too; PERST is
counted, and its release wakes a module in Keep; a loss of lock stops both dies and ends every job. -/
def Obligations.ResetsEndJobsAndRestart : Prop :=
  ∀ (s : State) (fn : Func) (ms : Nat) (failed : List Nat) (east : Bool),
    (fn.val = 0 → s.resettable = true → exec (.computeReset fn) s = .next s.beginCompute) ∧
    (fn.val ≠ 0 ∨ s.resettable = false → exec (.computeReset fn) s = .next s) ∧
    (s.beginCompute.computeReset = true ∧ s.beginCompute.fetchPaused = true ∧ s.beginCompute.stage = stageComputeReset ∧
      ∀ p, 1 ≤ p → p ≤ 12 → s.job p ≠ none → (s.pen p).teardownCause = none → s.beginCompute.fld .updJob 0 2 (p - 1) = 3) ∧
    (s.computeReset = true →
      ∃ t, exec (.computeResetDone ⟨ms, failed⟩) s = .next t ∧
        t = { s with cores := t.cores, packets := [], units := [], slotClk := [], fetchPaused := false, computeReset := false, diesStopped := false,
                     bays := t.bays, regs := t.regs, keepQ := t.keepQ, heldRetire := t.heldRetire, evq := t.evq, evLost := t.evLost,
                     power := t.power } ∧
        t.stage = stageReady ∧ (∀ k, t.core k = { cfg := (s.core k).cfg }) ∧
        ∀ n, n < 168 → n ∈ failed → s.siteOut n = none → t.site n = siteRetired) ∧
    (s.computeReset = false → exec (.computeResetDone ⟨ms, failed⟩) s = .next s) ∧
    (let up := s.power = .idle ∨ s.power = .run
     (up → s.perst = false → exec .hotReset s = .next s.hostReset) ∧ (¬ up ∨ s.perst = true → exec .hotReset s = .next s) ∧
     (s.perst = false → up → s.perstReleased = true → exec .perstAssert s = .next ({ s with perst := true }.bump .mgtStraps 16 16).hostReset) ∧
     (s.perst = false → up → s.perstReleased = false →
       exec .perstAssert s = .next ({ s with perst := true }.bump .mgtStraps 16 16).refreshPins)) ∧
    (s.perst = false → s.power = .keep → exec .perstAssert s = .next ({ s with perst := true }.bump .mgtStraps 16 16).refreshPins) ∧
    (s.perst = false → s.power = .off → exec .perstAssert s = .next { s with perst := true }.refreshPins) ∧
    (s.perst = true → exec .perstAssert s = .next s) ∧
    (s.resettable = true → s.hostReset = s.resetHif.beginCompute) ∧
    (s.resettable = false → s.computeReset = true → s.hostReset = (s.resetHif.bump .mgtReset 8 16).refreshPins) ∧
    (s.resettable = false → s.computeReset = false → s.hostReset = s.refreshPins) ∧
    (s.resetHif.rings = [] ∧ s.resetHif.order = none ∧ ∀ r, r < 4096 → s.resetHif.reg .hifRingCtl r = 0#64) ∧
    (s.perst = true →
      let s1 : State := { s with perst := false, perstReleased := decide (s.power ≠ .off) }
      (s.power = .keep → exec .perstDeassert s = .next s1.wake) ∧ (s.power ≠ .keep → exec .perstDeassert s = .next s1.refreshPins)) ∧
    (s.perst = false → exec .perstDeassert s = .next s) ∧
    (s.atReady = true → s.diesStopped = false →
      let s1 : State := { s with diesStopped := true }
      let s2 := s1.loadedPens.foldl (fun s p => s.post p 404 0 [ef (bitIf east 0)]) (s1.post 0 404 0 [ef (bitIf east 0)])
      exec (.pllLockLoss east) s = .next ((s2.abortJobs.setFld .pwrThermal 18 1 1).refreshPower.refreshPins)) ∧
    (s.atReady = false ∨ s.diesStopped = true → exec (.pllLockLoss east) s = .next s)

/-- Keep, temperature and power (R660, R670, R671, R675, R679, R687, R700, R703): Keep is entered with no job and left by the wake command;
the keep store writes its queue in order, a word that is worn keeps its value; a sample sets the temperatures, warns at 95 °C until
below 85 °C and begins the emergency at 110 °C; one outside -25 °C to 130 °C is a tamper alarm; the emergency ends at 100 °C, at a step
boundary while a job runs; an average is recorded, and one above the maximum alerts; reading the alert clears it. -/
def Obligations.KeepTemperatureAndPower : Prop :=
  ∀ (s : State) (fn : Func),
    (fn.val = 0 → s.resettable = true → s.loadedPens = [] →
      ∃ t, exec (.keepRequest fn) s = .next t ∧
        t = { s with power := .keep, spdm := [], rings := [], order := none, linkStage := false, linkDone := false, censusOpen := false,
                     regs := t.regs } ∧ t.fld .pwrState 2 1 = 0) ∧
    (fn.val ≠ 0 ∨ s.resettable = false ∨ s.loadedPens ≠ [] → exec (.keepRequest fn) s = .next s) ∧
    (s.power = .keep → exec .smbusWake s = .next s.wake ∧
      s.wake = { s with power := .idle, waking := true, linkStage := false, linkDone := false, censusOpen := false, regs := s.wake.regs } ∧
      s.wake.stage = stageManagement ∧ s.wake.rngState = rngStarting) ∧
    (s.power ≠ .keep → exec .smbusWake s = .next s) ∧
    (s.power = .off ∨ s.keepQ = [] → exec .keepWriteDone s = .next s) ∧
    (∀ w x rest, s.power ≠ .off → s.keepQ = (w, x) :: rest →
      (s.keepWord w = x → exec .keepWriteDone s = .next { s with keepQ := rest }) ∧
      (s.keepWord w ≠ x → s.worn w = false →
        ∃ t, exec .keepWriteDone s = .next t ∧ t = { s with keepQ := rest, keep := t.keep, wear := t.wear } ∧ t.keepWord w = x ∧
          (∀ v, v ≠ w → t.keepWord v = s.keepWord v ∧ t.wearOf v = s.wearOf v) ∧ t.wearOf w = s.wearOf w + 1) ∧
      (s.keepWord w ≠ x → s.worn w = true → exec .keepWriteDone s = .next ({ s with keepQ := rest }.post 0 401 0 [ef w]))) ∧
    (∀ west east : Int,
      let outside := min west east < -25 ∨ 130 < max west east
      (s.power = .off → exec (.thermalSample west east) s = .next s) ∧
      (s.power = .keep → ¬ outside → exec (.thermalSample west east) s = .next s) ∧
      (s.power = .keep → outside → exec (.thermalSample west east) s = exec (.tamperAlarm .temp false) s) ∧
      (s.power = .idle ∨ s.power = .run →
        let t := s.thermal west east
        (¬ outside → exec (.thermalSample west east) s = .next t) ∧
        (outside → exec (.thermalSample west east) s = exec (.tamperAlarm .temp false) t) ∧
        t.temp 0 = max (-128) (min 127 west) ∧ t.temp 8 = max (-128) (min 127 east) ∧
        t.fld .pwrThermal 16 1 = (if 95 ≤ max west east then 1 else if max west east < 85 then 0 else s.fld .pwrThermal 16 1) ∧
        (max west east < 110 → t = { s with regs := t.regs } ∧ t.fld .devMode 3 1 = s.fld .devMode 3 1) ∧
        (110 ≤ max west east → t.fld .devMode 3 1 = 1 ∧ t.emergencyOver = false))) ∧
    (s.fld .devMode 3 1 = 1 → s.temp 0 ≤ 100 → s.temp 8 ≤ 100 →
      ((∀ p, 1 ≤ p → p ≤ 12 → s.penRuns p = false) → exec .thermalEmergencyEnd s = .next s.emergencyEnd) ∧
      ((∃ p, 1 ≤ p ∧ p ≤ 12 ∧ s.penRuns p = true) → exec .thermalEmergencyEnd s = .next { s with emergencyOver := true })) ∧
    (s.emergencyEnd.fld .devMode 3 1 = 0 ∧ s.emergencyEnd.fld .pwrThermal 17 1 = 0) ∧
    (s.fld .devMode 3 1 = 0 ∨ 100 < s.temp 0 ∨ 100 < s.temp 8 → exec .thermalEmergencyEnd s = .next s) ∧
    (∀ mv tenMa watts,
      let s1 := ((s.setFld .pwrInput 0 16 (min 65535 mv)).setFld .pwrInput 16 16 (min 65535 tenMa)).setFld .pwrInput 32 16 (min 65535 watts)
      (s.power = .off → exec (.powerAverage mv tenMa watts) s = .next s) ∧
      (s.power ≠ .off → watts ≤ s.maxWatts → exec (.powerAverage mv tenMa watts) s = .next s1) ∧
      (s.power ≠ .off → s.maxWatts < watts →
        exec (.powerAverage mv tenMa watts) s = .next (((s1.setFld .pwrInput 48 1 1).post 0 403 0 [ef watts]).refreshPins))) ∧
    (s.smbusMsg = true → exec .alertResponseAddressRead s = .next { s with smbusMsg := false }.refreshPins) ∧
    (s.smbusMsg = false → exec .alertResponseAddressRead s = .next s)

/-! ### Registers -/

/-- Register accesses (R14, R15, R17, R123 to R125, R338, R493, R505, R595, R671): a write reaches the register whose eight bytes hold it,
stores the bits its fields store and clears those it writes as one, as far as it covers them; an action bit does what its own command does;
one of a function that does not reach the entry is ignored; an access that no register takes is counted and reads as zero; a persistent
register's word is written, unless a policy order of the authority that names the register waits; an acknowledgement never passes the
latest record; a read of the function table answers the word, or its half, and steps the index. That a pen function's read of the table is
zero and uncounted is the model's choice (log entry 120), and that a read of either half steps the index is its reading (log entry 121). -/
def Obligations.RegisterAccessesReachTheirFields : Prop :=
  (∀ (s : State) (fn : Func) (off len : Nat) (v : Word64),
    (regReach off len = none → exec (.registerWrite fn off len v) s = .next (s.undefAccess off) ∧
      exec (.rwkWrite fn off len v) s = .next (s.undefAccess off) ∧
      exec (.undefinedOffsetAccess fn off len) s = .next { s.undefAccess off with lastRead := zeros len } ∧
      (s.undefAccess off).fld .errUndefAccess 0 32 = min (s.fld .errUndefAccess 0 32 + 1) (2 ^ 32 - 1) ∧
      (s.undefAccess off).fld .errUndefAccess 32 26 = off % 2 ^ 26 ∧
      (s.undefAccess off).fld .errUndefAccess 63 1 = 1 ∧ s.bar0Read fn.val off len = zeros len) ∧
    (regReach off len ≠ none → exec (.undefinedOffsetAccess fn off len) s = .next s) ∧
    (∀ n ix lo bits, regReach off len = some (n, ix, lo, bits) →
      let w := exec (.registerWrite fn off len v) s
      let one (b : Nat) : Prop := writesOne lo bits v b = true
      let x := writeInto n (s.reg n ix fn.val) lo bits v
      (s.writes fn.val n ix = false → n ≠ .hbmWinData1 → w = .next s) ∧
      (s.sees fn.val n ix = false → w = .next s) ∧
      (n.row.rwk = false ∨ s.writes fn.val n ix = false → exec (.rwkWrite fn off len v) s = .next s) ∧
      (s.writes fn.val n ix = true → n.row.rwk = true →
        (s.orderOnReg n ix = true → w = .next (s.arbLost 1 0) ∧ exec (.rwkWrite fn off len v) s = .next (s.arbLost 1 0)) ∧
        (s.orderOnReg n ix = false → w = .next (s.writeRwk n ix x) ∧
          exec (.rwkWrite fn off len v) s = .next (s.writeRwk n ix (writeInto n (s.reg n ix) lo bits v)))) ∧
      (s.writes fn.val n ix = true → n ∈ ([.devFntabAddr, .injSel, .hifAuthAddr, .keepAddr, .coreFaultLast] : List RegName) →
        w = .next ((s.setReg n x ix fn.val).refreshPins)) ∧
      (s.writes fn.val n ix = true → n = .netCtrSel ∨ n = .hbmWinAddr ∨ n = .hifBar4Sel ∨ n = .hifPenCfg →
        w = .next (s.plainWrite fn.val n ix lo bits v) ∧
        (fn.val = 0 → s.plainWrite fn.val n ix lo bits v = (s.setReg n x ix fn.val).refreshPins)) ∧
      (s.writes fn.val n ix = true →
        (n = .hbmWinCtl → w = if writesOne lo bits v 0 then exec (.windowCommit fn) s else .next s) ∧
        (n = .injCtl → one 0 → ¬ one 1 → w = exec (.injArm fn) s) ∧ (n = .injCtl → ¬ one 0 → one 1 → w = exec (.injCancel fn) s) ∧
        (n = .hifPenReset → w = if writesOne lo bits v 0 then exec (.penReset fn (ix + 1)) s else .next s) ∧
        (n = .mgtReset → w = if writesOne lo bits v 0 then exec (.computeReset fn) s else .next s) ∧
        (n = .pwrState → w = if writesOne lo bits v 2 then exec (.keepRequest fn) s else .next s) ∧
        (n = .hifAuthCtl → one 32 → w = exec .authMailboxGo (s.plainWrite fn.val n ix lo bits v)) ∧
        (n = .hifRingCmdBase ∨ n = .hifRingCplBase →
          w = if s.ringOn ix then .next s else .next (s.setReg n x ix fn.val).refreshPins)) ∧
      (s.sees fn.val n ix = true → n = .hbmWinData1 →
        w = exec (.winDataAccess fn ⟨true, if bits = 64 then .whole else if lo = 0 then .low else .high⟩ (.write v)) s) ∧
      s.bar0Read fn.val off len = le len (if s.sees fn.val n ix then getBits (s.regValue fn.val n ix) lo bits else 0))) ∧
  (∀ (n : RegName) (old v : Word64) (lo bits i : Nat), lo = 0 ∧ bits = 64 ∨ lo = 0 ∧ bits = 32 ∨ lo = 32 ∧ bits = 32 → i < 64 →
    (writeInto n old lo bits v).getLsbD i =
      if lo ≤ i ∧ i < lo + bits then
        (((if n.row.rw.getLsbD i then v.getLsbD (i - lo) else old.getLsbD i)) && !(v.getLsbD (i - lo) && n.row.w1c.getLsbD i))
      else old.getLsbD i) ∧
  (∀ (s : State) (n : RegName) (ix : Nat) (x : Word64) (k : Nat), rwkWord n ix = some k →
    (s.worn k = false → s.writeRwk n ix x = { s with keepQ := s.keepQ ++ [(k, x)], regs := (s.setReg n x ix).regs }) ∧
    (s.worn k = true → s.writeRwk n ix x = { s with keepQ := s.keepQ ++ [(k, x)] })) ∧
  (∀ (s : State) (fn : Func) (pen : Pen) (v : BitVec 32),
    (fn.val = pen → 1 ≤ pen → ∃ t, exec (.journalAck fn pen v) s = .next t ∧ t = { s with regs := t.regs } ∧
      t.fld .updJrnAck 0 32 (pen - 1) = min v.toNat (s.fld .updJournal 0 32 (pen - 1))) ∧
    (fn.val ≠ pen ∨ pen = 0 → exec (.journalAck fn pen v) s = .next s)) ∧
  (∀ (s : State) (fn : Func) (part : RegPart),
    (fn.val ≠ 0 → exec (.fntabRead ⟨fn, part⟩) s = .next { s with lastRead := zeros (if part = .whole then 8 else 4) }) ∧
    (fn.val = 0 →
      let x := s.fntabWord.toNat
      let answer := if part = .whole then le 8 x else if part = .low then le 4 (x % 2 ^ 32) else le 4 (x / 2 ^ 32)
      (s.fld .devFntabAddr 31 1 = 0 → exec (.fntabRead ⟨fn, part⟩) s = .next { s with lastRead := answer }) ∧
      (s.fld .devFntabAddr 31 1 = 1 →
        ∃ t, exec (.fntabRead ⟨fn, part⟩) s = .next t ∧ t = { s with regs := t.regs, lastRead := answer } ∧
          t.fld .devFntabAddr 8 16 = min 0xFFFF (s.fld .devFntabAddr 8 16 + 1) ∧
          t.fld .devFntabAddr 0 4 = s.fld .devFntabAddr 0 4 ∧ t.fld .devFntabAddr 31 1 = 1)))

/-- The policy registers of the error and retirement chapters as their tables lay them out (R337, R540): their place, their reset in a
factory-blank keep store, the fields that a write stores and persists, and the reserved bits that it leaves. -/
def Obligations.PolicyRegisterLayouts : Prop :=
  State.reset.fld .hbmRetireCfg 0 4 = 3 ∧ State.reset.fld .hbmRetireCfg 4 60 = 0 ∧
  State.reset.fld .errPolicy 0 4 = 3 ∧ State.reset.fld .errPolicy 4 4 = 0 ∧ State.reset.fld .errPolicy 8 8 = 0x1E ∧
  State.reset.fld .errPolicy 16 48 = 0 ∧
  ∀ (s : State) (fn : Func) (v : Word64), fn.val = 0 → s.order = none →
    (s.worn 0xB = false →
      ∃ t, exec (.rwkWrite fn (0x400000 + 0x0200) 8 v) s = .next t ∧ t = { s with regs := t.regs, keepQ := t.keepQ } ∧
        t.fld .hbmRetireCfg 0 4 = getBits v 0 4 ∧ t.fld .hbmRetireCfg 4 60 = s.fld .hbmRetireCfg 4 60 ∧
        t.keepQ = s.keepQ ++ [(0xB, t.reg .hbmRetireCfg)]) ∧
    (s.worn 0xC = false →
      ∃ t, exec (.rwkWrite fn (0x800000 + 0x0010) 8 v) s = .next t ∧ t = { s with regs := t.regs, keepQ := t.keepQ } ∧
        t.fld .errPolicy 0 4 = getBits v 0 4 ∧ t.fld .errPolicy 8 8 = getBits v 8 8 ∧
        t.fld .errPolicy 4 4 = s.fld .errPolicy 4 4 ∧ t.fld .errPolicy 16 48 = s.fld .errPolicy 16 48 ∧
        t.keepQ = s.keepQ ++ [(0xC, t.reg .errPolicy)])

/-- A site fenced ERR_POLICY.fence_max times since READY is retired at its next fence without a test; a fence_max of 0 sends every
fenced site to test (R525). -/
def Obligations.FencedTooOftenIsRetired : Prop :=
  ∀ (s : State) (p n det : Nat), n < 168 →
    let k := SMap.get (fun _ => 0) s.fences n
    let lim := s.fld .errPolicy 0 4
    let t := s.fenceOne p n det
    SMap.get (fun _ => 0) t.fences n = k + 1 ∧
    (lim ≠ 0 → lim ≤ k → t.site n = siteRetired) ∧
    (lim ≠ 0 → k < lim → s.job p ≠ none → t.site n = siteFenced) ∧ (lim ≠ 0 → k < lim → s.job p = none → t.site n = siteUnderTest) ∧
    (lim = 0 → s.job p ≠ none → t.site n = siteFenced) ∧ (lim = 0 → s.job p = none → t.site n = siteUnderTest)

/-- The device refuses with NOT_AUTHORITY any order that arrives over the channel of an authority that is not selected (R592),
be it the mailbox, the management port or the SMBus; the device is up and not locked (R604). -/
def Obligations.OtherChannelsAreNotAuthority : Prop :=
  ∀ (i : Instr) (o : OrderFrom) (op : Nat) (s : State) (r : List Byte),
    orderForm i = some (o, op) → s.mgmtUp = true → s.locked = false → orderOp r = op →
    (o = .network r → s.authority ≠ netChannel → exec i s = .next (s.orderEnds o (.answer auNotAuthority))) ∧
    (o = .smbus r → s.authority ≠ rotChannel → exec i s = .next (s.orderEnds o (.answer auNotAuthority))) ∧
    (s.perst = false → s.order = none → s.authority ≠ rotChannel →
      exec .authMailboxGo s = .next ((s.setFld .hifAuthCtl 32 1 1).orderEnds .mailbox (.answer auNotAuthority)))

/-- The memories and registers after reset are in canonical form. What reset leaves: the registers at the values their tables
state (R123, R337, R385, R530, R540, R620, R687), memories and tables empty, no pen and no job, every queue empty. That what no
register shows is empty, and that the keep store is factory-blank, is the model's choice (log entries 1 and 2). -/
def Obligations.ResetStateIsAsStated : Prop :=
  (Memory.wf State.reset = true) ∧
  (State.reset.reg .devFntabAddr = 0#64 ∧ State.reset.reg .hbmRetireCfg = 3#64 ∧ State.reset.reg .xglPolicy = 0x75304#64 ∧
   State.reset.reg .errPolicy = 0x1E03#64 ∧ (∀ c, 1 ≤ c → c ≤ 22 → State.reset.reg .errWxThresh c = wxThreshReset c) ∧
   (∀ r, r < 4096 → State.reset.reg .hifRingCtl r = 0#64 ∧ State.reset.reg .hifRingStat r = 0#64) ∧
   State.reset.pending = [] ∧ State.reset.packets = [] ∧ State.reset.order = none ∧ State.reset.injection = none ∧
   (∀ k, State.reset.core k = {}) ∧ (∀ p, State.reset.job p = none ∧ (State.reset.pen p).present = false) ∧
   (∀ p, State.reset.port p = {}) ∧ (∀ fn, SMap.get (fun _ => []) State.reset.evq fn = []))
end

