-- ==== Sys2Proof/Laws/Map.lean ====
section
/-!
SUPPORT. Laws of the sparse tables: a read after a write to the same key gives the value written, a write leaves every other
key alone, and every operation keeps the canonical form.
-/

namespace Sys2Proof.Machine

variable {β : Type}

/-! ### Reading after writing -/

theorem SMap.find_put_self (m : SMap β) (k : Nat) (v : β) : (m.put k v).find k = some v := by
  induction m with
  | nil => simp [SMap.put, SMap.find]
  | cons a t ih =>
    obtain ⟨k', v'⟩ := a
    simp only [SMap.put]
    split
    · simp [SMap.find]
    · split
      · simp [SMap.find]
      · rename_i h1 h2
        simp [SMap.find, Ne.symm h2, ih]

theorem SMap.find_put_ne (m : SMap β) (k j : Nat) (v : β) (h : j ≠ k) : (m.put k v).find j = m.find j := by
  induction m with
  | nil => simp [SMap.put, SMap.find, Ne.symm h]
  | cons a t ih =>
    obtain ⟨k', v'⟩ := a
    simp only [SMap.put]
    split
    · simp [SMap.find, Ne.symm h]
    · split
      · rename_i h2
        subst h2
        simp [SMap.find, Ne.symm h]
      · simp [SMap.find, ih]

theorem SMap.find_erase_self (m : SMap β) (k : Nat) : (m.erase k).find k = none := by
  induction m with
  | nil => rfl
  | cons a t ih =>
    obtain ⟨k', v'⟩ := a
    by_cases h : k' = k
    · simp [SMap.erase, h, ih]
    · simp [SMap.erase, SMap.find, h, ih]

theorem SMap.find_erase_ne (m : SMap β) (k j : Nat) (h : j ≠ k) : (m.erase k).find j = m.find j := by
  induction m with
  | nil => rfl
  | cons a t ih =>
    obtain ⟨k', v'⟩ := a
    by_cases hk : k' = k
    · simp [SMap.erase, SMap.find, hk, ih, Ne.symm h]
    · simp [SMap.erase, SMap.find, hk, ih]

variable [DecidableEq β]

@[simp] theorem SMap.get_set_self (d : Nat → β) (m : SMap β) (k : Nat) (v : β) : (SMap.set d m k v).get d k = v := by
  unfold SMap.get SMap.set
  split
  · rename_i h
    simp [SMap.find_erase_self, h]
  · simp [SMap.find_put_self]

theorem SMap.get_set_ne (d : Nat → β) (m : SMap β) (k j : Nat) (v : β) (h : j ≠ k) :
    (SMap.set d m k v).get d j = m.get d j := by
  unfold SMap.get SMap.set
  split
  · simp [SMap.find_erase_ne, h]
  · simp [SMap.find_put_ne, h]

/-! ### The canonical form -/

/-- Keys strictly rising, all above a bound when one is given. -/
theorem SMap.sortedFrom_weaken {β : Type} (m : SMap β) (b c : Nat) (h : b ≤ c)
    (hm : SMap.sortedFrom (some c) m = true) : SMap.sortedFrom (some b) m = true := by
  cases m with
  | nil => rfl
  | cons a t =>
    obtain ⟨k, v⟩ := a
    simp only [SMap.sortedFrom, Bool.and_eq_true, decide_eq_true_eq] at hm ⊢
    exact ⟨by omega, hm.2⟩

theorem SMap.sortedFrom_drop {β : Type} (m : SMap β) (b : Nat) (hm : SMap.sortedFrom (some b) m = true) :
    SMap.sortedFrom none m = true := by
  cases m with
  | nil => rfl
  | cons a t =>
    obtain ⟨k, v⟩ := a
    simp only [SMap.sortedFrom, Bool.and_eq_true] at hm ⊢
    exact hm.2

theorem SMap.sortedFrom_put {β : Type} (m : SMap β) (b : Option Nat) (k : Nat) (v : β)
    (hb : ∀ x, b = some x → x < k) (hm : SMap.sortedFrom b m = true) : SMap.sortedFrom b (m.put k v) = true := by
  induction m generalizing b with
  | nil => cases b <;> simp_all [SMap.put, SMap.sortedFrom]
  | cons a t ih =>
    obtain ⟨k', v'⟩ := a
    have ht : SMap.sortedFrom (some k') t = true := by
      cases b <;> simp_all [SMap.sortedFrom]
    simp only [SMap.put]
    split
    · cases b <;> simp_all [SMap.sortedFrom]
    · split
      · rename_i h2
        subst h2
        cases b <;> simp_all [SMap.sortedFrom]
      · have := ih (some k') (by intro x hx; cases hx; omega) ht
        cases b <;> simp_all [SMap.sortedFrom]

theorem SMap.sorted_put {β : Type} (m : SMap β) (k : Nat) (v : β) (hm : SMap.sortedFrom none m = true) :
    SMap.sortedFrom none (m.put k v) = true :=
  SMap.sortedFrom_put m none k v (by simp) hm

theorem SMap.sortedFrom_filter {β : Type} (m : SMap β) (b : Option Nat) (p : Nat × β → Bool)
    (hm : SMap.sortedFrom b m = true) : SMap.sortedFrom b (m.filter p) = true := by
  induction m generalizing b with
  | nil => cases b <;> rfl
  | cons a t ih =>
    obtain ⟨k, v⟩ := a
    have ht : SMap.sortedFrom (some k) t = true := by
      cases b <;> simp_all [SMap.sortedFrom]
    by_cases hp : p (k, v) = true
    · simp only [List.filter_cons, hp, if_true]
      cases b with
      | none => simpa [SMap.sortedFrom] using ih (some k) ht
      | some x =>
        simp only [SMap.sortedFrom, Bool.and_eq_true, decide_eq_true_eq] at hm ⊢
        exact ⟨hm.1, ih (some k) ht⟩
    · simp only [List.filter_cons, hp]
      cases b with
      | none => exact SMap.sortedFrom_drop _ k (ih (some k) ht)
      | some x =>
        simp only [SMap.sortedFrom, Bool.and_eq_true, decide_eq_true_eq] at hm
        exact SMap.sortedFrom_weaken _ x k (by omega) (ih (some k) ht)

theorem SMap.erase_eq_filter {β : Type} (m : SMap β) (k : Nat) : m.erase k = m.filter (fun kv => decide (kv.1 ≠ k)) := by
  induction m with
  | nil => rfl
  | cons a t ih =>
    obtain ⟨k', v'⟩ := a
    by_cases h : k' = k
    · simp [SMap.erase, h, ih]
    · simp [SMap.erase, h, ih]

theorem SMap.sorted_keep {β : Type} (p : Nat → Bool) (m : SMap β) (hm : SMap.sortedFrom none m = true) :
    SMap.sortedFrom none (m.keep p) = true :=
  SMap.sortedFrom_filter m none _ hm

theorem SMap.all_put {β : Type} (q : Nat × β → Bool) (m : SMap β) (k : Nat) (v : β) (hv : q (k, v) = true)
    (hm : m.all q = true) : (m.put k v).all q = true := by
  induction m with
  | nil => simp [SMap.put, hv]
  | cons a t ih =>
    obtain ⟨k', v'⟩ := a
    simp only [List.all_cons, Bool.and_eq_true] at hm
    simp only [SMap.put]
    split
    · simp [hv, hm.1, hm.2]
    · split
      · simp [hv, hm.2]
      · simp [hm.1, ih hm.2]

/-- Writing a key keeps the canonical form. -/
theorem SMap.wf_set (d : Nat → β) (m : SMap β) (k : Nat) (v : β) (hm : SMap.wf d m = true) :
    SMap.wf d (SMap.set d m k v) = true := by
  simp only [SMap.wf, Bool.and_eq_true] at hm ⊢
  unfold SMap.set
  split
  · rw [SMap.erase_eq_filter]
    refine ⟨SMap.sortedFrom_filter _ _ _ hm.1, ?_⟩
    simp only [List.all_eq_true] at hm ⊢
    intro x hx
    exact hm.2 x (List.mem_of_mem_filter hx)
  · rename_i h
    exact ⟨SMap.sorted_put _ _ _ hm.1, SMap.all_put _ _ _ _ (by simpa using h) hm.2⟩

/-- Removing keys keeps the canonical form. -/
theorem SMap.wf_keep (d : Nat → β) (p : Nat → Bool) (m : SMap β) (hm : SMap.wf d m = true) :
    SMap.wf d (m.keep p) = true := by
  simp only [SMap.wf, Bool.and_eq_true] at hm ⊢
  refine ⟨SMap.sorted_keep p m hm.1, ?_⟩
  simp only [List.all_eq_true] at hm ⊢
  intro x hx
  exact hm.2 x (List.mem_of_mem_filter hx)

/-- Writing a list of values keeps the canonical form. -/
theorem SMap.wf_setList (d : Nat → β) (vs : List β) (m : SMap β) (k : Nat) (hm : SMap.wf d m = true) :
    SMap.wf d (SMap.setList d m k vs) = true := by
  induction vs generalizing m k with
  | nil => exact hm
  | cons v t ih => exact ih _ _ (SMap.wf_set d m k v hm)

/-- A key that is not above the bound of a sorted table is not listed. -/
theorem SMap.find_eq_none_of_sorted {β : Type} (m : SMap β) (b k : Nat) (hk : k ≤ b)
    (hm : SMap.sortedFrom (some b) m = true) : m.find k = none := by
  induction m generalizing b with
  | nil => rfl
  | cons a t ih =>
    obtain ⟨k', v'⟩ := a
    simp only [SMap.sortedFrom, Bool.and_eq_true, decide_eq_true_eq] at hm
    have : k' ≠ k := by omega
    simp [SMap.find, this, ih k' (by omega) hm.2]

end Sys2Proof.Machine
end

