-- ==== Sys2Proof/Laws/State.lean ====
section
/-!
SUPPORT. The small lemmas of the state: for each update the fields it leaves alone, and what each accessor reads after each
write.
-/

namespace Sys2Proof.Machine

variable (s : State)

/-! ### Reading after writing -/

/-- A register reads the value written to it. -/
@[simp] theorem State.reg_setReg_self (n : RegName) (x : Word64) (ix fn : Nat) :
    (s.setReg n x ix fn).reg n ix fn = x := by simp [State.reg, State.setReg]

/-- A register of another key keeps its value. -/
theorem State.reg_setReg_ne (n m : RegName) (x : Word64) (ix fn jx gn : Nat) (h : m.key gn jx ≠ n.key fn ix) :
    (s.setReg n x ix fn).reg m jx gn = s.reg m jx gn := by simp [State.reg, State.setReg, SMap.get_set_ne _ _ _ _ _ h]

@[simp] theorem State.core_setCore_self (k : Nat) (x : Core) : (s.setCore k x).core k = x := by
  simp [State.core, State.setCore]

theorem State.core_setCore_ne (k j : Nat) (x : Core) (h : j ≠ k) : (s.setCore k x).core j = s.core j := by
  simp [State.core, State.setCore, SMap.get_set_ne _ _ _ _ _ h]

@[simp] theorem State.pen_setPen_self (k : Nat) (x : PenS) : (s.setPen k x).pen k = x := by
  simp [State.pen, State.setPen]

theorem State.pen_setPen_ne (k j : Nat) (x : PenS) (h : j ≠ k) : (s.setPen k x).pen j = s.pen j := by
  simp [State.pen, State.setPen, SMap.get_set_ne _ _ _ _ _ h]

@[simp] theorem State.port_setPort_self (k : Nat) (x : XPort) : (s.setPort k x).port k = x := by
  simp [State.port, State.setPort]

theorem State.port_setPort_ne (k j : Nat) (x : XPort) (h : j ≠ k) : (s.setPort k x).port j = s.port j := by
  simp [State.port, State.setPort, SMap.get_set_ne _ _ _ _ _ h]

@[simp] theorem State.bay_setBay_self (k : Nat) (x : Bay) : (s.setBay k x).bay k = x := by
  simp [State.bay, State.setBay]

theorem State.bay_setBay_ne (k j : Nat) (x : Bay) (h : j ≠ k) : (s.setBay k x).bay j = s.bay j := by
  simp [State.bay, State.setBay, SMap.get_set_ne _ _ _ _ _ h]

@[simp] theorem State.unit_setUnit_self (k : Nat) (x : UnitS) : (s.setUnit k x).unit k = x := by
  simp [State.unit, State.setUnit]

theorem State.unit_setUnit_ne (k j : Nat) (x : UnitS) (h : j ≠ k) : (s.setUnit k x).unit j = s.unit j := by
  simp [State.unit, State.setUnit, SMap.get_set_ne _ _ _ _ _ h]

@[simp] theorem State.ring_setRing_self (k : Nat) (x : RingS) : (s.setRing k x).ring k = x := by
  simp [State.ring, State.setRing]

theorem State.ring_setRing_ne (k j : Nat) (x : RingS) (h : j ≠ k) : (s.setRing k x).ring j = s.ring j := by
  simp [State.ring, State.setRing, SMap.get_set_ne _ _ _ _ _ h]

@[simp] theorem State.core_setReg (n : RegName) (x : Word64) (ix fn : Nat) (j : Nat) : (s.setReg n x ix fn).core j = s.core j := rfl
@[simp] theorem State.core_setPen (p : Nat) (x : PenS) (j : Nat) : (s.setPen p x).core j = s.core j := rfl
@[simp] theorem State.core_setPort (p : Nat) (x : XPort) (j : Nat) : (s.setPort p x).core j = s.core j := rfl
@[simp] theorem State.core_setBay (b : Nat) (x : Bay) (j : Nat) : (s.setBay b x).core j = s.core j := rfl
@[simp] theorem State.core_setUnit (b : Nat) (x : UnitS) (j : Nat) : (s.setUnit b x).core j = s.core j := rfl
@[simp] theorem State.core_setRing (r : Nat) (x : RingS) (j : Nat) : (s.setRing r x).core j = s.core j := rfl
@[simp] theorem State.core_hostWrite (a : Nat) (bs : List Byte) (j : Nat) : (s.hostWrite a bs).core j = s.core j := rfl
@[simp] theorem State.core_markLine (l : Nat) (p : Bool) (j : Nat) : (s.markLine l p).core j = s.core j := rfl
@[simp] theorem State.core_setBytes (a : Nat) (bs : List Byte) (j : Nat) : (s.setBytes a bs).core j = s.core j := rfl
@[simp] theorem State.core_setBad (l : Nat) (b : Bool) (j : Nat) : (s.setBad l b).core j = s.core j := rfl

@[simp] theorem State.pen_setReg (n : RegName) (x : Word64) (ix fn : Nat) (j : Nat) : (s.setReg n x ix fn).pen j = s.pen j := rfl
@[simp] theorem State.pen_setCore (k : Nat) (c : Core) (j : Nat) : (s.setCore k c).pen j = s.pen j := rfl
@[simp] theorem State.pen_setPort (p : Nat) (x : XPort) (j : Nat) : (s.setPort p x).pen j = s.pen j := rfl
@[simp] theorem State.pen_setBay (b : Nat) (x : Bay) (j : Nat) : (s.setBay b x).pen j = s.pen j := rfl
@[simp] theorem State.pen_setUnit (b : Nat) (x : UnitS) (j : Nat) : (s.setUnit b x).pen j = s.pen j := rfl
@[simp] theorem State.pen_setRing (r : Nat) (x : RingS) (j : Nat) : (s.setRing r x).pen j = s.pen j := rfl
@[simp] theorem State.pen_hostWrite (a : Nat) (bs : List Byte) (j : Nat) : (s.hostWrite a bs).pen j = s.pen j := rfl
@[simp] theorem State.pen_markLine (l : Nat) (p : Bool) (j : Nat) : (s.markLine l p).pen j = s.pen j := rfl
@[simp] theorem State.pen_setBytes (a : Nat) (bs : List Byte) (j : Nat) : (s.setBytes a bs).pen j = s.pen j := rfl
@[simp] theorem State.pen_setBad (l : Nat) (b : Bool) (j : Nat) : (s.setBad l b).pen j = s.pen j := rfl

@[simp] theorem State.port_setReg (n : RegName) (x : Word64) (ix fn : Nat) (j : Nat) : (s.setReg n x ix fn).port j = s.port j := rfl
@[simp] theorem State.port_setCore (k : Nat) (c : Core) (j : Nat) : (s.setCore k c).port j = s.port j := rfl
@[simp] theorem State.port_setPen (p : Nat) (x : PenS) (j : Nat) : (s.setPen p x).port j = s.port j := rfl
@[simp] theorem State.port_setBay (b : Nat) (x : Bay) (j : Nat) : (s.setBay b x).port j = s.port j := rfl
@[simp] theorem State.port_setUnit (b : Nat) (x : UnitS) (j : Nat) : (s.setUnit b x).port j = s.port j := rfl
@[simp] theorem State.port_setRing (r : Nat) (x : RingS) (j : Nat) : (s.setRing r x).port j = s.port j := rfl
@[simp] theorem State.port_hostWrite (a : Nat) (bs : List Byte) (j : Nat) : (s.hostWrite a bs).port j = s.port j := rfl
@[simp] theorem State.port_markLine (l : Nat) (p : Bool) (j : Nat) : (s.markLine l p).port j = s.port j := rfl
@[simp] theorem State.port_setBytes (a : Nat) (bs : List Byte) (j : Nat) : (s.setBytes a bs).port j = s.port j := rfl
@[simp] theorem State.port_setBad (l : Nat) (b : Bool) (j : Nat) : (s.setBad l b).port j = s.port j := rfl

@[simp] theorem State.bay_setReg (n : RegName) (x : Word64) (ix fn : Nat) (j : Nat) : (s.setReg n x ix fn).bay j = s.bay j := rfl
@[simp] theorem State.bay_setCore (k : Nat) (c : Core) (j : Nat) : (s.setCore k c).bay j = s.bay j := rfl
@[simp] theorem State.bay_setPen (p : Nat) (x : PenS) (j : Nat) : (s.setPen p x).bay j = s.bay j := rfl
@[simp] theorem State.bay_setPort (p : Nat) (x : XPort) (j : Nat) : (s.setPort p x).bay j = s.bay j := rfl
@[simp] theorem State.bay_setUnit (b : Nat) (x : UnitS) (j : Nat) : (s.setUnit b x).bay j = s.bay j := rfl
@[simp] theorem State.bay_setRing (r : Nat) (x : RingS) (j : Nat) : (s.setRing r x).bay j = s.bay j := rfl
@[simp] theorem State.bay_hostWrite (a : Nat) (bs : List Byte) (j : Nat) : (s.hostWrite a bs).bay j = s.bay j := rfl
@[simp] theorem State.bay_markLine (l : Nat) (p : Bool) (j : Nat) : (s.markLine l p).bay j = s.bay j := rfl
@[simp] theorem State.bay_setBytes (a : Nat) (bs : List Byte) (j : Nat) : (s.setBytes a bs).bay j = s.bay j := rfl
@[simp] theorem State.bay_setBad (l : Nat) (b : Bool) (j : Nat) : (s.setBad l b).bay j = s.bay j := rfl

@[simp] theorem State.unit_setReg (n : RegName) (x : Word64) (ix fn : Nat) (j : Nat) : (s.setReg n x ix fn).unit j = s.unit j := rfl
@[simp] theorem State.unit_setCore (k : Nat) (c : Core) (j : Nat) : (s.setCore k c).unit j = s.unit j := rfl
@[simp] theorem State.unit_setPen (p : Nat) (x : PenS) (j : Nat) : (s.setPen p x).unit j = s.unit j := rfl
@[simp] theorem State.unit_setPort (p : Nat) (x : XPort) (j : Nat) : (s.setPort p x).unit j = s.unit j := rfl
@[simp] theorem State.unit_setBay (b : Nat) (x : Bay) (j : Nat) : (s.setBay b x).unit j = s.unit j := rfl
@[simp] theorem State.unit_setRing (r : Nat) (x : RingS) (j : Nat) : (s.setRing r x).unit j = s.unit j := rfl
@[simp] theorem State.unit_hostWrite (a : Nat) (bs : List Byte) (j : Nat) : (s.hostWrite a bs).unit j = s.unit j := rfl
@[simp] theorem State.unit_markLine (l : Nat) (p : Bool) (j : Nat) : (s.markLine l p).unit j = s.unit j := rfl
@[simp] theorem State.unit_setBytes (a : Nat) (bs : List Byte) (j : Nat) : (s.setBytes a bs).unit j = s.unit j := rfl
@[simp] theorem State.unit_setBad (l : Nat) (b : Bool) (j : Nat) : (s.setBad l b).unit j = s.unit j := rfl

@[simp] theorem State.ring_setReg (n : RegName) (x : Word64) (ix fn : Nat) (j : Nat) : (s.setReg n x ix fn).ring j = s.ring j := rfl
@[simp] theorem State.ring_setCore (k : Nat) (c : Core) (j : Nat) : (s.setCore k c).ring j = s.ring j := rfl
@[simp] theorem State.ring_setPen (p : Nat) (x : PenS) (j : Nat) : (s.setPen p x).ring j = s.ring j := rfl
@[simp] theorem State.ring_setPort (p : Nat) (x : XPort) (j : Nat) : (s.setPort p x).ring j = s.ring j := rfl
@[simp] theorem State.ring_setBay (b : Nat) (x : Bay) (j : Nat) : (s.setBay b x).ring j = s.ring j := rfl
@[simp] theorem State.ring_setUnit (b : Nat) (x : UnitS) (j : Nat) : (s.setUnit b x).ring j = s.ring j := rfl
@[simp] theorem State.ring_hostWrite (a : Nat) (bs : List Byte) (j : Nat) : (s.hostWrite a bs).ring j = s.ring j := rfl
@[simp] theorem State.ring_markLine (l : Nat) (p : Bool) (j : Nat) : (s.markLine l p).ring j = s.ring j := rfl
@[simp] theorem State.ring_setBytes (a : Nat) (bs : List Byte) (j : Nat) : (s.setBytes a bs).ring j = s.ring j := rfl
@[simp] theorem State.ring_setBad (l : Nat) (b : Bool) (j : Nat) : (s.setBad l b).ring j = s.ring j := rfl

@[simp] theorem State.reg_setCore (k : Nat) (c : Core) (m : RegName) (jx gn : Nat) : (s.setCore k c).reg m jx gn = s.reg m jx gn := rfl
@[simp] theorem State.reg_setPen (p : Nat) (x : PenS) (m : RegName) (jx gn : Nat) : (s.setPen p x).reg m jx gn = s.reg m jx gn := rfl
@[simp] theorem State.reg_setPort (p : Nat) (x : XPort) (m : RegName) (jx gn : Nat) : (s.setPort p x).reg m jx gn = s.reg m jx gn := rfl
@[simp] theorem State.reg_setBay (b : Nat) (x : Bay) (m : RegName) (jx gn : Nat) : (s.setBay b x).reg m jx gn = s.reg m jx gn := rfl
@[simp] theorem State.reg_setUnit (b : Nat) (x : UnitS) (m : RegName) (jx gn : Nat) : (s.setUnit b x).reg m jx gn = s.reg m jx gn := rfl
@[simp] theorem State.reg_setRing (r : Nat) (x : RingS) (m : RegName) (jx gn : Nat) : (s.setRing r x).reg m jx gn = s.reg m jx gn := rfl
@[simp] theorem State.reg_hostWrite (a : Nat) (bs : List Byte) (m : RegName) (jx gn : Nat) : (s.hostWrite a bs).reg m jx gn = s.reg m jx gn := rfl
@[simp] theorem State.reg_markLine (l : Nat) (p : Bool) (m : RegName) (jx gn : Nat) : (s.markLine l p).reg m jx gn = s.reg m jx gn := rfl
@[simp] theorem State.reg_setBytes (a : Nat) (bs : List Byte) (m : RegName) (jx gn : Nat) : (s.setBytes a bs).reg m jx gn = s.reg m jx gn := rfl
@[simp] theorem State.reg_setBad (l : Nat) (b : Bool) (m : RegName) (jx gn : Nat) : (s.setBad l b).reg m jx gn = s.reg m jx gn := rfl

/-! ### The fields that `setReg` leaves alone -/

@[simp] theorem State.setReg_pending (n : RegName) (x : Word64) (ix fn : Nat) : (s.setReg n x ix fn).pending = s.pending := rfl
@[simp] theorem State.setReg_fresh (n : RegName) (x : Word64) (ix fn : Nat) : (s.setReg n x ix fn).fresh = s.fresh := rfl
@[simp] theorem State.setReg_hbm (n : RegName) (x : Word64) (ix fn : Nat) : (s.setReg n x ix fn).hbm = s.hbm := rfl
@[simp] theorem State.setReg_poison (n : RegName) (x : Word64) (ix fn : Nat) : (s.setReg n x ix fn).poison = s.poison := rfl
@[simp] theorem State.setReg_badLines (n : RegName) (x : Word64) (ix fn : Nat) : (s.setReg n x ix fn).badLines = s.badLines := rfl
@[simp] theorem State.setReg_bays (n : RegName) (x : Word64) (ix fn : Nat) : (s.setReg n x ix fn).bays = s.bays := rfl
@[simp] theorem State.setReg_units (n : RegName) (x : Word64) (ix fn : Nat) : (s.setReg n x ix fn).units = s.units := rfl
@[simp] theorem State.setReg_cores (n : RegName) (x : Word64) (ix fn : Nat) : (s.setReg n x ix fn).cores = s.cores := rfl
@[simp] theorem State.setReg_packets (n : RegName) (x : Word64) (ix fn : Nat) : (s.setReg n x ix fn).packets = s.packets := rfl
@[simp] theorem State.setReg_slotClk (n : RegName) (x : Word64) (ix fn : Nat) : (s.setReg n x ix fn).slotClk = s.slotClk := rfl
@[simp] theorem State.setReg_pens (n : RegName) (x : Word64) (ix fn : Nat) : (s.setReg n x ix fn).pens = s.pens := rfl
@[simp] theorem State.setReg_ports (n : RegName) (x : Word64) (ix fn : Nat) : (s.setReg n x ix fn).ports = s.ports := rfl
@[simp] theorem State.setReg_linkStage (n : RegName) (x : Word64) (ix fn : Nat) : (s.setReg n x ix fn).linkStage = s.linkStage := rfl
@[simp] theorem State.setReg_linkDone (n : RegName) (x : Word64) (ix fn : Nat) : (s.setReg n x ix fn).linkDone = s.linkDone := rfl
@[simp] theorem State.setReg_censusOpen (n : RegName) (x : Word64) (ix fn : Nat) : (s.setReg n x ix fn).censusOpen = s.censusOpen := rfl
@[simp] theorem State.setReg_hostMem (n : RegName) (x : Word64) (ix fn : Nat) : (s.setReg n x ix fn).hostMem = s.hostMem := rfl
@[simp] theorem State.setReg_rings (n : RegName) (x : Word64) (ix fn : Nat) : (s.setReg n x ix fn).rings = s.rings := rfl
@[simp] theorem State.setReg_hifUsed (n : RegName) (x : Word64) (ix fn : Nat) : (s.setReg n x ix fn).hifUsed = s.hifUsed := rfl
@[simp] theorem State.setReg_ringNext (n : RegName) (x : Word64) (ix fn : Nat) : (s.setReg n x ix fn).ringNext = s.ringNext := rfl
@[simp] theorem State.setReg_evq (n : RegName) (x : Word64) (ix fn : Nat) : (s.setReg n x ix fn).evq = s.evq := rfl
@[simp] theorem State.setReg_evLost (n : RegName) (x : Word64) (ix fn : Nat) : (s.setReg n x ix fn).evLost = s.evLost := rfl
@[simp] theorem State.setReg_msix (n : RegName) (x : Word64) (ix fn : Nat) : (s.setReg n x ix fn).msix = s.msix := rfl
@[simp] theorem State.setReg_fetchPaused (n : RegName) (x : Word64) (ix fn : Nat) : (s.setReg n x ix fn).fetchPaused = s.fetchPaused := rfl
@[simp] theorem State.setReg_order (n : RegName) (x : Word64) (ix fn : Nat) : (s.setReg n x ix fn).order = s.order := rfl
@[simp] theorem State.setReg_lastAnswer (n : RegName) (x : Word64) (ix fn : Nat) : (s.setReg n x ix fn).lastAnswer = s.lastAnswer := rfl
@[simp] theorem State.setReg_lastRead (n : RegName) (x : Word64) (ix fn : Nat) : (s.setReg n x ix fn).lastRead = s.lastRead := rfl
@[simp] theorem State.setReg_lastPoison (n : RegName) (x : Word64) (ix fn : Nat) : (s.setReg n x ix fn).lastPoison = s.lastPoison := rfl
@[simp] theorem State.setReg_rngFails (n : RegName) (x : Word64) (ix fn : Nat) : (s.setReg n x ix fn).rngFails = s.rngFails := rfl
@[simp] theorem State.setReg_rngRun (n : RegName) (x : Word64) (ix fn : Nat) : (s.setReg n x ix fn).rngRun = s.rngRun := rfl
@[simp] theorem State.setReg_wx (n : RegName) (x : Word64) (ix fn : Nat) : (s.setReg n x ix fn).wx = s.wx := rfl
@[simp] theorem State.setReg_wxInj (n : RegName) (x : Word64) (ix fn : Nat) : (s.setReg n x ix fn).wxInj = s.wxInj := rfl
@[simp] theorem State.setReg_wxThr (n : RegName) (x : Word64) (ix fn : Nat) : (s.setReg n x ix fn).wxThr = s.wxThr := rfl
@[simp] theorem State.setReg_actDue (n : RegName) (x : Word64) (ix fn : Nat) : (s.setReg n x ix fn).actDue = s.actDue := rfl
@[simp] theorem State.setReg_fences (n : RegName) (x : Word64) (ix fn : Nat) : (s.setReg n x ix fn).fences = s.fences := rfl
@[simp] theorem State.setReg_fenceDet (n : RegName) (x : Word64) (ix fn : Nat) : (s.setReg n x ix fn).fenceDet = s.fenceDet := rfl
@[simp] theorem State.setReg_rotated (n : RegName) (x : Word64) (ix fn : Nat) : (s.setReg n x ix fn).rotated = s.rotated := rfl
@[simp] theorem State.setReg_injection (n : RegName) (x : Word64) (ix fn : Nat) : (s.setReg n x ix fn).injection = s.injection := rfl
@[simp] theorem State.setReg_keep (n : RegName) (x : Word64) (ix fn : Nat) : (s.setReg n x ix fn).keep = s.keep := rfl
@[simp] theorem State.setReg_wear (n : RegName) (x : Word64) (ix fn : Nat) : (s.setReg n x ix fn).wear = s.wear := rfl
@[simp] theorem State.setReg_keepQ (n : RegName) (x : Word64) (ix fn : Nat) : (s.setReg n x ix fn).keepQ = s.keepQ := rfl
@[simp] theorem State.setReg_heldRetire (n : RegName) (x : Word64) (ix fn : Nat) : (s.setReg n x ix fn).heldRetire = s.heldRetire := rfl
@[simp] theorem State.setReg_fuses (n : RegName) (x : Word64) (ix fn : Nat) : (s.setReg n x ix fn).fuses = s.fuses := rfl
@[simp] theorem State.setReg_fwA (n : RegName) (x : Word64) (ix fn : Nat) : (s.setReg n x ix fn).fwA = s.fwA := rfl
@[simp] theorem State.setReg_fwB (n : RegName) (x : Word64) (ix fn : Nat) : (s.setReg n x ix fn).fwB = s.fwB := rfl
@[simp] theorem State.setReg_fwTrial (n : RegName) (x : Word64) (ix fn : Nat) : (s.setReg n x ix fn).fwTrial = s.fwTrial := rfl
@[simp] theorem State.setReg_fwActive (n : RegName) (x : Word64) (ix fn : Nat) : (s.setReg n x ix fn).fwActive = s.fwActive := rfl
@[simp] theorem State.setReg_ftp (n : RegName) (x : Word64) (ix fn : Nat) : (s.setReg n x ix fn).ftp = s.ftp := rfl
@[simp] theorem State.setReg_deviceKey (n : RegName) (x : Word64) (ix fn : Nat) : (s.setReg n x ix fn).deviceKey = s.deviceKey := rfl
@[simp] theorem State.setReg_ownerPub (n : RegName) (x : Word64) (ix fn : Nat) : (s.setReg n x ix fn).ownerPub = s.ownerPub := rfl
@[simp] theorem State.setReg_ownerKeep (n : RegName) (x : Word64) (ix fn : Nat) : (s.setReg n x ix fn).ownerKeep = s.ownerKeep := rfl
@[simp] theorem State.setReg_tamperHead (n : RegName) (x : Word64) (ix fn : Nat) : (s.setReg n x ix fn).tamperHead = s.tamperHead := rfl
@[simp] theorem State.setReg_spdm (n : RegName) (x : Word64) (ix fn : Nat) : (s.setReg n x ix fn).spdm = s.spdm := rfl
@[simp] theorem State.setReg_power (n : RegName) (x : Word64) (ix fn : Nat) : (s.setReg n x ix fn).power = s.power := rfl
@[simp] theorem State.setReg_powerGood (n : RegName) (x : Word64) (ix fn : Nat) : (s.setReg n x ix fn).powerGood = s.powerGood := rfl
@[simp] theorem State.setReg_perst (n : RegName) (x : Word64) (ix fn : Nat) : (s.setReg n x ix fn).perst = s.perst := rfl
@[simp] theorem State.setReg_perstReleased (n : RegName) (x : Word64) (ix fn : Nat) : (s.setReg n x ix fn).perstReleased = s.perstReleased := rfl
@[simp] theorem State.setReg_aonUp (n : RegName) (x : Word64) (ix fn : Nat) : (s.setReg n x ix fn).aonUp = s.aonUp := rfl
@[simp] theorem State.setReg_smbusMsg (n : RegName) (x : Word64) (ix fn : Nat) : (s.setReg n x ix fn).smbusMsg = s.smbusMsg := rfl
@[simp] theorem State.setReg_waking (n : RegName) (x : Word64) (ix fn : Nat) : (s.setReg n x ix fn).waking = s.waking := rfl
@[simp] theorem State.setReg_recovery (n : RegName) (x : Word64) (ix fn : Nat) : (s.setReg n x ix fn).recovery = s.recovery := rfl
@[simp] theorem State.setReg_diesStopped (n : RegName) (x : Word64) (ix fn : Nat) : (s.setReg n x ix fn).diesStopped = s.diesStopped := rfl
@[simp] theorem State.setReg_computeReset (n : RegName) (x : Word64) (ix fn : Nat) : (s.setReg n x ix fn).computeReset = s.computeReset := rfl
@[simp] theorem State.setReg_emergencyOver (n : RegName) (x : Word64) (ix fn : Nat) : (s.setReg n x ix fn).emergencyOver = s.emergencyOver := rfl

/-! ### The fields that `setCore` leaves alone -/

@[simp] theorem State.setCore_pending (k : Nat) (c : Core) : (s.setCore k c).pending = s.pending := rfl
@[simp] theorem State.setCore_fresh (k : Nat) (c : Core) : (s.setCore k c).fresh = s.fresh := rfl
@[simp] theorem State.setCore_regs (k : Nat) (c : Core) : (s.setCore k c).regs = s.regs := rfl
@[simp] theorem State.setCore_hbm (k : Nat) (c : Core) : (s.setCore k c).hbm = s.hbm := rfl
@[simp] theorem State.setCore_poison (k : Nat) (c : Core) : (s.setCore k c).poison = s.poison := rfl
@[simp] theorem State.setCore_badLines (k : Nat) (c : Core) : (s.setCore k c).badLines = s.badLines := rfl
@[simp] theorem State.setCore_bays (k : Nat) (c : Core) : (s.setCore k c).bays = s.bays := rfl
@[simp] theorem State.setCore_units (k : Nat) (c : Core) : (s.setCore k c).units = s.units := rfl
@[simp] theorem State.setCore_packets (k : Nat) (c : Core) : (s.setCore k c).packets = s.packets := rfl
@[simp] theorem State.setCore_slotClk (k : Nat) (c : Core) : (s.setCore k c).slotClk = s.slotClk := rfl
@[simp] theorem State.setCore_pens (k : Nat) (c : Core) : (s.setCore k c).pens = s.pens := rfl
@[simp] theorem State.setCore_ports (k : Nat) (c : Core) : (s.setCore k c).ports = s.ports := rfl
@[simp] theorem State.setCore_linkStage (k : Nat) (c : Core) : (s.setCore k c).linkStage = s.linkStage := rfl
@[simp] theorem State.setCore_linkDone (k : Nat) (c : Core) : (s.setCore k c).linkDone = s.linkDone := rfl
@[simp] theorem State.setCore_censusOpen (k : Nat) (c : Core) : (s.setCore k c).censusOpen = s.censusOpen := rfl
@[simp] theorem State.setCore_hostMem (k : Nat) (c : Core) : (s.setCore k c).hostMem = s.hostMem := rfl
@[simp] theorem State.setCore_rings (k : Nat) (c : Core) : (s.setCore k c).rings = s.rings := rfl
@[simp] theorem State.setCore_hifUsed (k : Nat) (c : Core) : (s.setCore k c).hifUsed = s.hifUsed := rfl
@[simp] theorem State.setCore_ringNext (k : Nat) (c : Core) : (s.setCore k c).ringNext = s.ringNext := rfl
@[simp] theorem State.setCore_evq (k : Nat) (c : Core) : (s.setCore k c).evq = s.evq := rfl
@[simp] theorem State.setCore_evLost (k : Nat) (c : Core) : (s.setCore k c).evLost = s.evLost := rfl
@[simp] theorem State.setCore_msix (k : Nat) (c : Core) : (s.setCore k c).msix = s.msix := rfl
@[simp] theorem State.setCore_fetchPaused (k : Nat) (c : Core) : (s.setCore k c).fetchPaused = s.fetchPaused := rfl
@[simp] theorem State.setCore_order (k : Nat) (c : Core) : (s.setCore k c).order = s.order := rfl
@[simp] theorem State.setCore_lastAnswer (k : Nat) (c : Core) : (s.setCore k c).lastAnswer = s.lastAnswer := rfl
@[simp] theorem State.setCore_lastRead (k : Nat) (c : Core) : (s.setCore k c).lastRead = s.lastRead := rfl
@[simp] theorem State.setCore_lastPoison (k : Nat) (c : Core) : (s.setCore k c).lastPoison = s.lastPoison := rfl
@[simp] theorem State.setCore_rngFails (k : Nat) (c : Core) : (s.setCore k c).rngFails = s.rngFails := rfl
@[simp] theorem State.setCore_rngRun (k : Nat) (c : Core) : (s.setCore k c).rngRun = s.rngRun := rfl
@[simp] theorem State.setCore_wx (k : Nat) (c : Core) : (s.setCore k c).wx = s.wx := rfl
@[simp] theorem State.setCore_wxInj (k : Nat) (c : Core) : (s.setCore k c).wxInj = s.wxInj := rfl
@[simp] theorem State.setCore_wxThr (k : Nat) (c : Core) : (s.setCore k c).wxThr = s.wxThr := rfl
@[simp] theorem State.setCore_actDue (k : Nat) (c : Core) : (s.setCore k c).actDue = s.actDue := rfl
@[simp] theorem State.setCore_fences (k : Nat) (c : Core) : (s.setCore k c).fences = s.fences := rfl
@[simp] theorem State.setCore_fenceDet (k : Nat) (c : Core) : (s.setCore k c).fenceDet = s.fenceDet := rfl
@[simp] theorem State.setCore_rotated (k : Nat) (c : Core) : (s.setCore k c).rotated = s.rotated := rfl
@[simp] theorem State.setCore_injection (k : Nat) (c : Core) : (s.setCore k c).injection = s.injection := rfl
@[simp] theorem State.setCore_keep (k : Nat) (c : Core) : (s.setCore k c).keep = s.keep := rfl
@[simp] theorem State.setCore_wear (k : Nat) (c : Core) : (s.setCore k c).wear = s.wear := rfl
@[simp] theorem State.setCore_keepQ (k : Nat) (c : Core) : (s.setCore k c).keepQ = s.keepQ := rfl
@[simp] theorem State.setCore_heldRetire (k : Nat) (c : Core) : (s.setCore k c).heldRetire = s.heldRetire := rfl
@[simp] theorem State.setCore_fuses (k : Nat) (c : Core) : (s.setCore k c).fuses = s.fuses := rfl
@[simp] theorem State.setCore_fwA (k : Nat) (c : Core) : (s.setCore k c).fwA = s.fwA := rfl
@[simp] theorem State.setCore_fwB (k : Nat) (c : Core) : (s.setCore k c).fwB = s.fwB := rfl
@[simp] theorem State.setCore_fwTrial (k : Nat) (c : Core) : (s.setCore k c).fwTrial = s.fwTrial := rfl
@[simp] theorem State.setCore_fwActive (k : Nat) (c : Core) : (s.setCore k c).fwActive = s.fwActive := rfl
@[simp] theorem State.setCore_ftp (k : Nat) (c : Core) : (s.setCore k c).ftp = s.ftp := rfl
@[simp] theorem State.setCore_deviceKey (k : Nat) (c : Core) : (s.setCore k c).deviceKey = s.deviceKey := rfl
@[simp] theorem State.setCore_ownerPub (k : Nat) (c : Core) : (s.setCore k c).ownerPub = s.ownerPub := rfl
@[simp] theorem State.setCore_ownerKeep (k : Nat) (c : Core) : (s.setCore k c).ownerKeep = s.ownerKeep := rfl
@[simp] theorem State.setCore_tamperHead (k : Nat) (c : Core) : (s.setCore k c).tamperHead = s.tamperHead := rfl
@[simp] theorem State.setCore_spdm (k : Nat) (c : Core) : (s.setCore k c).spdm = s.spdm := rfl
@[simp] theorem State.setCore_power (k : Nat) (c : Core) : (s.setCore k c).power = s.power := rfl
@[simp] theorem State.setCore_powerGood (k : Nat) (c : Core) : (s.setCore k c).powerGood = s.powerGood := rfl
@[simp] theorem State.setCore_perst (k : Nat) (c : Core) : (s.setCore k c).perst = s.perst := rfl
@[simp] theorem State.setCore_perstReleased (k : Nat) (c : Core) : (s.setCore k c).perstReleased = s.perstReleased := rfl
@[simp] theorem State.setCore_aonUp (k : Nat) (c : Core) : (s.setCore k c).aonUp = s.aonUp := rfl
@[simp] theorem State.setCore_smbusMsg (k : Nat) (c : Core) : (s.setCore k c).smbusMsg = s.smbusMsg := rfl
@[simp] theorem State.setCore_waking (k : Nat) (c : Core) : (s.setCore k c).waking = s.waking := rfl
@[simp] theorem State.setCore_recovery (k : Nat) (c : Core) : (s.setCore k c).recovery = s.recovery := rfl
@[simp] theorem State.setCore_diesStopped (k : Nat) (c : Core) : (s.setCore k c).diesStopped = s.diesStopped := rfl
@[simp] theorem State.setCore_computeReset (k : Nat) (c : Core) : (s.setCore k c).computeReset = s.computeReset := rfl
@[simp] theorem State.setCore_emergencyOver (k : Nat) (c : Core) : (s.setCore k c).emergencyOver = s.emergencyOver := rfl

/-! ### The fields that `setPen` leaves alone -/

@[simp] theorem State.setPen_pending (p : Nat) (x : PenS) : (s.setPen p x).pending = s.pending := rfl
@[simp] theorem State.setPen_fresh (p : Nat) (x : PenS) : (s.setPen p x).fresh = s.fresh := rfl
@[simp] theorem State.setPen_regs (p : Nat) (x : PenS) : (s.setPen p x).regs = s.regs := rfl
@[simp] theorem State.setPen_hbm (p : Nat) (x : PenS) : (s.setPen p x).hbm = s.hbm := rfl
@[simp] theorem State.setPen_poison (p : Nat) (x : PenS) : (s.setPen p x).poison = s.poison := rfl
@[simp] theorem State.setPen_badLines (p : Nat) (x : PenS) : (s.setPen p x).badLines = s.badLines := rfl
@[simp] theorem State.setPen_bays (p : Nat) (x : PenS) : (s.setPen p x).bays = s.bays := rfl
@[simp] theorem State.setPen_units (p : Nat) (x : PenS) : (s.setPen p x).units = s.units := rfl
@[simp] theorem State.setPen_cores (p : Nat) (x : PenS) : (s.setPen p x).cores = s.cores := rfl
@[simp] theorem State.setPen_packets (p : Nat) (x : PenS) : (s.setPen p x).packets = s.packets := rfl
@[simp] theorem State.setPen_slotClk (p : Nat) (x : PenS) : (s.setPen p x).slotClk = s.slotClk := rfl
@[simp] theorem State.setPen_ports (p : Nat) (x : PenS) : (s.setPen p x).ports = s.ports := rfl
@[simp] theorem State.setPen_linkStage (p : Nat) (x : PenS) : (s.setPen p x).linkStage = s.linkStage := rfl
@[simp] theorem State.setPen_linkDone (p : Nat) (x : PenS) : (s.setPen p x).linkDone = s.linkDone := rfl
@[simp] theorem State.setPen_censusOpen (p : Nat) (x : PenS) : (s.setPen p x).censusOpen = s.censusOpen := rfl
@[simp] theorem State.setPen_hostMem (p : Nat) (x : PenS) : (s.setPen p x).hostMem = s.hostMem := rfl
@[simp] theorem State.setPen_rings (p : Nat) (x : PenS) : (s.setPen p x).rings = s.rings := rfl
@[simp] theorem State.setPen_hifUsed (p : Nat) (x : PenS) : (s.setPen p x).hifUsed = s.hifUsed := rfl
@[simp] theorem State.setPen_ringNext (p : Nat) (x : PenS) : (s.setPen p x).ringNext = s.ringNext := rfl
@[simp] theorem State.setPen_evq (p : Nat) (x : PenS) : (s.setPen p x).evq = s.evq := rfl
@[simp] theorem State.setPen_evLost (p : Nat) (x : PenS) : (s.setPen p x).evLost = s.evLost := rfl
@[simp] theorem State.setPen_msix (p : Nat) (x : PenS) : (s.setPen p x).msix = s.msix := rfl
@[simp] theorem State.setPen_fetchPaused (p : Nat) (x : PenS) : (s.setPen p x).fetchPaused = s.fetchPaused := rfl
@[simp] theorem State.setPen_order (p : Nat) (x : PenS) : (s.setPen p x).order = s.order := rfl
@[simp] theorem State.setPen_lastAnswer (p : Nat) (x : PenS) : (s.setPen p x).lastAnswer = s.lastAnswer := rfl
@[simp] theorem State.setPen_lastRead (p : Nat) (x : PenS) : (s.setPen p x).lastRead = s.lastRead := rfl
@[simp] theorem State.setPen_lastPoison (p : Nat) (x : PenS) : (s.setPen p x).lastPoison = s.lastPoison := rfl
@[simp] theorem State.setPen_rngFails (p : Nat) (x : PenS) : (s.setPen p x).rngFails = s.rngFails := rfl
@[simp] theorem State.setPen_rngRun (p : Nat) (x : PenS) : (s.setPen p x).rngRun = s.rngRun := rfl
@[simp] theorem State.setPen_wx (p : Nat) (x : PenS) : (s.setPen p x).wx = s.wx := rfl
@[simp] theorem State.setPen_wxInj (p : Nat) (x : PenS) : (s.setPen p x).wxInj = s.wxInj := rfl
@[simp] theorem State.setPen_wxThr (p : Nat) (x : PenS) : (s.setPen p x).wxThr = s.wxThr := rfl
@[simp] theorem State.setPen_actDue (p : Nat) (x : PenS) : (s.setPen p x).actDue = s.actDue := rfl
@[simp] theorem State.setPen_fences (p : Nat) (x : PenS) : (s.setPen p x).fences = s.fences := rfl
@[simp] theorem State.setPen_fenceDet (p : Nat) (x : PenS) : (s.setPen p x).fenceDet = s.fenceDet := rfl
@[simp] theorem State.setPen_rotated (p : Nat) (x : PenS) : (s.setPen p x).rotated = s.rotated := rfl
@[simp] theorem State.setPen_injection (p : Nat) (x : PenS) : (s.setPen p x).injection = s.injection := rfl
@[simp] theorem State.setPen_keep (p : Nat) (x : PenS) : (s.setPen p x).keep = s.keep := rfl
@[simp] theorem State.setPen_wear (p : Nat) (x : PenS) : (s.setPen p x).wear = s.wear := rfl
@[simp] theorem State.setPen_keepQ (p : Nat) (x : PenS) : (s.setPen p x).keepQ = s.keepQ := rfl
@[simp] theorem State.setPen_heldRetire (p : Nat) (x : PenS) : (s.setPen p x).heldRetire = s.heldRetire := rfl
@[simp] theorem State.setPen_fuses (p : Nat) (x : PenS) : (s.setPen p x).fuses = s.fuses := rfl
@[simp] theorem State.setPen_fwA (p : Nat) (x : PenS) : (s.setPen p x).fwA = s.fwA := rfl
@[simp] theorem State.setPen_fwB (p : Nat) (x : PenS) : (s.setPen p x).fwB = s.fwB := rfl
@[simp] theorem State.setPen_fwTrial (p : Nat) (x : PenS) : (s.setPen p x).fwTrial = s.fwTrial := rfl
@[simp] theorem State.setPen_fwActive (p : Nat) (x : PenS) : (s.setPen p x).fwActive = s.fwActive := rfl
@[simp] theorem State.setPen_ftp (p : Nat) (x : PenS) : (s.setPen p x).ftp = s.ftp := rfl
@[simp] theorem State.setPen_deviceKey (p : Nat) (x : PenS) : (s.setPen p x).deviceKey = s.deviceKey := rfl
@[simp] theorem State.setPen_ownerPub (p : Nat) (x : PenS) : (s.setPen p x).ownerPub = s.ownerPub := rfl
@[simp] theorem State.setPen_ownerKeep (p : Nat) (x : PenS) : (s.setPen p x).ownerKeep = s.ownerKeep := rfl
@[simp] theorem State.setPen_tamperHead (p : Nat) (x : PenS) : (s.setPen p x).tamperHead = s.tamperHead := rfl
@[simp] theorem State.setPen_spdm (p : Nat) (x : PenS) : (s.setPen p x).spdm = s.spdm := rfl
@[simp] theorem State.setPen_power (p : Nat) (x : PenS) : (s.setPen p x).power = s.power := rfl
@[simp] theorem State.setPen_powerGood (p : Nat) (x : PenS) : (s.setPen p x).powerGood = s.powerGood := rfl
@[simp] theorem State.setPen_perst (p : Nat) (x : PenS) : (s.setPen p x).perst = s.perst := rfl
@[simp] theorem State.setPen_perstReleased (p : Nat) (x : PenS) : (s.setPen p x).perstReleased = s.perstReleased := rfl
@[simp] theorem State.setPen_aonUp (p : Nat) (x : PenS) : (s.setPen p x).aonUp = s.aonUp := rfl
@[simp] theorem State.setPen_smbusMsg (p : Nat) (x : PenS) : (s.setPen p x).smbusMsg = s.smbusMsg := rfl
@[simp] theorem State.setPen_waking (p : Nat) (x : PenS) : (s.setPen p x).waking = s.waking := rfl
@[simp] theorem State.setPen_recovery (p : Nat) (x : PenS) : (s.setPen p x).recovery = s.recovery := rfl
@[simp] theorem State.setPen_diesStopped (p : Nat) (x : PenS) : (s.setPen p x).diesStopped = s.diesStopped := rfl
@[simp] theorem State.setPen_computeReset (p : Nat) (x : PenS) : (s.setPen p x).computeReset = s.computeReset := rfl
@[simp] theorem State.setPen_emergencyOver (p : Nat) (x : PenS) : (s.setPen p x).emergencyOver = s.emergencyOver := rfl

/-! ### The fields that `setPort` leaves alone -/

@[simp] theorem State.setPort_pending (p : Nat) (x : XPort) : (s.setPort p x).pending = s.pending := rfl
@[simp] theorem State.setPort_fresh (p : Nat) (x : XPort) : (s.setPort p x).fresh = s.fresh := rfl
@[simp] theorem State.setPort_regs (p : Nat) (x : XPort) : (s.setPort p x).regs = s.regs := rfl
@[simp] theorem State.setPort_hbm (p : Nat) (x : XPort) : (s.setPort p x).hbm = s.hbm := rfl
@[simp] theorem State.setPort_poison (p : Nat) (x : XPort) : (s.setPort p x).poison = s.poison := rfl
@[simp] theorem State.setPort_badLines (p : Nat) (x : XPort) : (s.setPort p x).badLines = s.badLines := rfl
@[simp] theorem State.setPort_bays (p : Nat) (x : XPort) : (s.setPort p x).bays = s.bays := rfl
@[simp] theorem State.setPort_units (p : Nat) (x : XPort) : (s.setPort p x).units = s.units := rfl
@[simp] theorem State.setPort_cores (p : Nat) (x : XPort) : (s.setPort p x).cores = s.cores := rfl
@[simp] theorem State.setPort_packets (p : Nat) (x : XPort) : (s.setPort p x).packets = s.packets := rfl
@[simp] theorem State.setPort_slotClk (p : Nat) (x : XPort) : (s.setPort p x).slotClk = s.slotClk := rfl
@[simp] theorem State.setPort_pens (p : Nat) (x : XPort) : (s.setPort p x).pens = s.pens := rfl
@[simp] theorem State.setPort_linkStage (p : Nat) (x : XPort) : (s.setPort p x).linkStage = s.linkStage := rfl
@[simp] theorem State.setPort_linkDone (p : Nat) (x : XPort) : (s.setPort p x).linkDone = s.linkDone := rfl
@[simp] theorem State.setPort_censusOpen (p : Nat) (x : XPort) : (s.setPort p x).censusOpen = s.censusOpen := rfl
@[simp] theorem State.setPort_hostMem (p : Nat) (x : XPort) : (s.setPort p x).hostMem = s.hostMem := rfl
@[simp] theorem State.setPort_rings (p : Nat) (x : XPort) : (s.setPort p x).rings = s.rings := rfl
@[simp] theorem State.setPort_hifUsed (p : Nat) (x : XPort) : (s.setPort p x).hifUsed = s.hifUsed := rfl
@[simp] theorem State.setPort_ringNext (p : Nat) (x : XPort) : (s.setPort p x).ringNext = s.ringNext := rfl
@[simp] theorem State.setPort_evq (p : Nat) (x : XPort) : (s.setPort p x).evq = s.evq := rfl
@[simp] theorem State.setPort_evLost (p : Nat) (x : XPort) : (s.setPort p x).evLost = s.evLost := rfl
@[simp] theorem State.setPort_msix (p : Nat) (x : XPort) : (s.setPort p x).msix = s.msix := rfl
@[simp] theorem State.setPort_fetchPaused (p : Nat) (x : XPort) : (s.setPort p x).fetchPaused = s.fetchPaused := rfl
@[simp] theorem State.setPort_order (p : Nat) (x : XPort) : (s.setPort p x).order = s.order := rfl
@[simp] theorem State.setPort_lastAnswer (p : Nat) (x : XPort) : (s.setPort p x).lastAnswer = s.lastAnswer := rfl
@[simp] theorem State.setPort_lastRead (p : Nat) (x : XPort) : (s.setPort p x).lastRead = s.lastRead := rfl
@[simp] theorem State.setPort_lastPoison (p : Nat) (x : XPort) : (s.setPort p x).lastPoison = s.lastPoison := rfl
@[simp] theorem State.setPort_rngFails (p : Nat) (x : XPort) : (s.setPort p x).rngFails = s.rngFails := rfl
@[simp] theorem State.setPort_rngRun (p : Nat) (x : XPort) : (s.setPort p x).rngRun = s.rngRun := rfl
@[simp] theorem State.setPort_wx (p : Nat) (x : XPort) : (s.setPort p x).wx = s.wx := rfl
@[simp] theorem State.setPort_wxInj (p : Nat) (x : XPort) : (s.setPort p x).wxInj = s.wxInj := rfl
@[simp] theorem State.setPort_wxThr (p : Nat) (x : XPort) : (s.setPort p x).wxThr = s.wxThr := rfl
@[simp] theorem State.setPort_actDue (p : Nat) (x : XPort) : (s.setPort p x).actDue = s.actDue := rfl
@[simp] theorem State.setPort_fences (p : Nat) (x : XPort) : (s.setPort p x).fences = s.fences := rfl
@[simp] theorem State.setPort_fenceDet (p : Nat) (x : XPort) : (s.setPort p x).fenceDet = s.fenceDet := rfl
@[simp] theorem State.setPort_rotated (p : Nat) (x : XPort) : (s.setPort p x).rotated = s.rotated := rfl
@[simp] theorem State.setPort_injection (p : Nat) (x : XPort) : (s.setPort p x).injection = s.injection := rfl
@[simp] theorem State.setPort_keep (p : Nat) (x : XPort) : (s.setPort p x).keep = s.keep := rfl
@[simp] theorem State.setPort_wear (p : Nat) (x : XPort) : (s.setPort p x).wear = s.wear := rfl
@[simp] theorem State.setPort_keepQ (p : Nat) (x : XPort) : (s.setPort p x).keepQ = s.keepQ := rfl
@[simp] theorem State.setPort_heldRetire (p : Nat) (x : XPort) : (s.setPort p x).heldRetire = s.heldRetire := rfl
@[simp] theorem State.setPort_fuses (p : Nat) (x : XPort) : (s.setPort p x).fuses = s.fuses := rfl
@[simp] theorem State.setPort_fwA (p : Nat) (x : XPort) : (s.setPort p x).fwA = s.fwA := rfl
@[simp] theorem State.setPort_fwB (p : Nat) (x : XPort) : (s.setPort p x).fwB = s.fwB := rfl
@[simp] theorem State.setPort_fwTrial (p : Nat) (x : XPort) : (s.setPort p x).fwTrial = s.fwTrial := rfl
@[simp] theorem State.setPort_fwActive (p : Nat) (x : XPort) : (s.setPort p x).fwActive = s.fwActive := rfl
@[simp] theorem State.setPort_ftp (p : Nat) (x : XPort) : (s.setPort p x).ftp = s.ftp := rfl
@[simp] theorem State.setPort_deviceKey (p : Nat) (x : XPort) : (s.setPort p x).deviceKey = s.deviceKey := rfl
@[simp] theorem State.setPort_ownerPub (p : Nat) (x : XPort) : (s.setPort p x).ownerPub = s.ownerPub := rfl
@[simp] theorem State.setPort_ownerKeep (p : Nat) (x : XPort) : (s.setPort p x).ownerKeep = s.ownerKeep := rfl
@[simp] theorem State.setPort_tamperHead (p : Nat) (x : XPort) : (s.setPort p x).tamperHead = s.tamperHead := rfl
@[simp] theorem State.setPort_spdm (p : Nat) (x : XPort) : (s.setPort p x).spdm = s.spdm := rfl
@[simp] theorem State.setPort_power (p : Nat) (x : XPort) : (s.setPort p x).power = s.power := rfl
@[simp] theorem State.setPort_powerGood (p : Nat) (x : XPort) : (s.setPort p x).powerGood = s.powerGood := rfl
@[simp] theorem State.setPort_perst (p : Nat) (x : XPort) : (s.setPort p x).perst = s.perst := rfl
@[simp] theorem State.setPort_perstReleased (p : Nat) (x : XPort) : (s.setPort p x).perstReleased = s.perstReleased := rfl
@[simp] theorem State.setPort_aonUp (p : Nat) (x : XPort) : (s.setPort p x).aonUp = s.aonUp := rfl
@[simp] theorem State.setPort_smbusMsg (p : Nat) (x : XPort) : (s.setPort p x).smbusMsg = s.smbusMsg := rfl
@[simp] theorem State.setPort_waking (p : Nat) (x : XPort) : (s.setPort p x).waking = s.waking := rfl
@[simp] theorem State.setPort_recovery (p : Nat) (x : XPort) : (s.setPort p x).recovery = s.recovery := rfl
@[simp] theorem State.setPort_diesStopped (p : Nat) (x : XPort) : (s.setPort p x).diesStopped = s.diesStopped := rfl
@[simp] theorem State.setPort_computeReset (p : Nat) (x : XPort) : (s.setPort p x).computeReset = s.computeReset := rfl
@[simp] theorem State.setPort_emergencyOver (p : Nat) (x : XPort) : (s.setPort p x).emergencyOver = s.emergencyOver := rfl

/-! ### The fields that `setBay` leaves alone -/

@[simp] theorem State.setBay_pending (b : Nat) (x : Bay) : (s.setBay b x).pending = s.pending := rfl
@[simp] theorem State.setBay_fresh (b : Nat) (x : Bay) : (s.setBay b x).fresh = s.fresh := rfl
@[simp] theorem State.setBay_regs (b : Nat) (x : Bay) : (s.setBay b x).regs = s.regs := rfl
@[simp] theorem State.setBay_hbm (b : Nat) (x : Bay) : (s.setBay b x).hbm = s.hbm := rfl
@[simp] theorem State.setBay_poison (b : Nat) (x : Bay) : (s.setBay b x).poison = s.poison := rfl
@[simp] theorem State.setBay_badLines (b : Nat) (x : Bay) : (s.setBay b x).badLines = s.badLines := rfl
@[simp] theorem State.setBay_units (b : Nat) (x : Bay) : (s.setBay b x).units = s.units := rfl
@[simp] theorem State.setBay_cores (b : Nat) (x : Bay) : (s.setBay b x).cores = s.cores := rfl
@[simp] theorem State.setBay_packets (b : Nat) (x : Bay) : (s.setBay b x).packets = s.packets := rfl
@[simp] theorem State.setBay_slotClk (b : Nat) (x : Bay) : (s.setBay b x).slotClk = s.slotClk := rfl
@[simp] theorem State.setBay_pens (b : Nat) (x : Bay) : (s.setBay b x).pens = s.pens := rfl
@[simp] theorem State.setBay_ports (b : Nat) (x : Bay) : (s.setBay b x).ports = s.ports := rfl
@[simp] theorem State.setBay_linkStage (b : Nat) (x : Bay) : (s.setBay b x).linkStage = s.linkStage := rfl
@[simp] theorem State.setBay_linkDone (b : Nat) (x : Bay) : (s.setBay b x).linkDone = s.linkDone := rfl
@[simp] theorem State.setBay_censusOpen (b : Nat) (x : Bay) : (s.setBay b x).censusOpen = s.censusOpen := rfl
@[simp] theorem State.setBay_hostMem (b : Nat) (x : Bay) : (s.setBay b x).hostMem = s.hostMem := rfl
@[simp] theorem State.setBay_rings (b : Nat) (x : Bay) : (s.setBay b x).rings = s.rings := rfl
@[simp] theorem State.setBay_hifUsed (b : Nat) (x : Bay) : (s.setBay b x).hifUsed = s.hifUsed := rfl
@[simp] theorem State.setBay_ringNext (b : Nat) (x : Bay) : (s.setBay b x).ringNext = s.ringNext := rfl
@[simp] theorem State.setBay_evq (b : Nat) (x : Bay) : (s.setBay b x).evq = s.evq := rfl
@[simp] theorem State.setBay_evLost (b : Nat) (x : Bay) : (s.setBay b x).evLost = s.evLost := rfl
@[simp] theorem State.setBay_msix (b : Nat) (x : Bay) : (s.setBay b x).msix = s.msix := rfl
@[simp] theorem State.setBay_fetchPaused (b : Nat) (x : Bay) : (s.setBay b x).fetchPaused = s.fetchPaused := rfl
@[simp] theorem State.setBay_order (b : Nat) (x : Bay) : (s.setBay b x).order = s.order := rfl
@[simp] theorem State.setBay_lastAnswer (b : Nat) (x : Bay) : (s.setBay b x).lastAnswer = s.lastAnswer := rfl
@[simp] theorem State.setBay_lastRead (b : Nat) (x : Bay) : (s.setBay b x).lastRead = s.lastRead := rfl
@[simp] theorem State.setBay_lastPoison (b : Nat) (x : Bay) : (s.setBay b x).lastPoison = s.lastPoison := rfl
@[simp] theorem State.setBay_rngFails (b : Nat) (x : Bay) : (s.setBay b x).rngFails = s.rngFails := rfl
@[simp] theorem State.setBay_rngRun (b : Nat) (x : Bay) : (s.setBay b x).rngRun = s.rngRun := rfl
@[simp] theorem State.setBay_wx (b : Nat) (x : Bay) : (s.setBay b x).wx = s.wx := rfl
@[simp] theorem State.setBay_wxInj (b : Nat) (x : Bay) : (s.setBay b x).wxInj = s.wxInj := rfl
@[simp] theorem State.setBay_wxThr (b : Nat) (x : Bay) : (s.setBay b x).wxThr = s.wxThr := rfl
@[simp] theorem State.setBay_actDue (b : Nat) (x : Bay) : (s.setBay b x).actDue = s.actDue := rfl
@[simp] theorem State.setBay_fences (b : Nat) (x : Bay) : (s.setBay b x).fences = s.fences := rfl
@[simp] theorem State.setBay_fenceDet (b : Nat) (x : Bay) : (s.setBay b x).fenceDet = s.fenceDet := rfl
@[simp] theorem State.setBay_rotated (b : Nat) (x : Bay) : (s.setBay b x).rotated = s.rotated := rfl
@[simp] theorem State.setBay_injection (b : Nat) (x : Bay) : (s.setBay b x).injection = s.injection := rfl
@[simp] theorem State.setBay_keep (b : Nat) (x : Bay) : (s.setBay b x).keep = s.keep := rfl
@[simp] theorem State.setBay_wear (b : Nat) (x : Bay) : (s.setBay b x).wear = s.wear := rfl
@[simp] theorem State.setBay_keepQ (b : Nat) (x : Bay) : (s.setBay b x).keepQ = s.keepQ := rfl
@[simp] theorem State.setBay_heldRetire (b : Nat) (x : Bay) : (s.setBay b x).heldRetire = s.heldRetire := rfl
@[simp] theorem State.setBay_fuses (b : Nat) (x : Bay) : (s.setBay b x).fuses = s.fuses := rfl
@[simp] theorem State.setBay_fwA (b : Nat) (x : Bay) : (s.setBay b x).fwA = s.fwA := rfl
@[simp] theorem State.setBay_fwB (b : Nat) (x : Bay) : (s.setBay b x).fwB = s.fwB := rfl
@[simp] theorem State.setBay_fwTrial (b : Nat) (x : Bay) : (s.setBay b x).fwTrial = s.fwTrial := rfl
@[simp] theorem State.setBay_fwActive (b : Nat) (x : Bay) : (s.setBay b x).fwActive = s.fwActive := rfl
@[simp] theorem State.setBay_ftp (b : Nat) (x : Bay) : (s.setBay b x).ftp = s.ftp := rfl
@[simp] theorem State.setBay_deviceKey (b : Nat) (x : Bay) : (s.setBay b x).deviceKey = s.deviceKey := rfl
@[simp] theorem State.setBay_ownerPub (b : Nat) (x : Bay) : (s.setBay b x).ownerPub = s.ownerPub := rfl
@[simp] theorem State.setBay_ownerKeep (b : Nat) (x : Bay) : (s.setBay b x).ownerKeep = s.ownerKeep := rfl
@[simp] theorem State.setBay_tamperHead (b : Nat) (x : Bay) : (s.setBay b x).tamperHead = s.tamperHead := rfl
@[simp] theorem State.setBay_spdm (b : Nat) (x : Bay) : (s.setBay b x).spdm = s.spdm := rfl
@[simp] theorem State.setBay_power (b : Nat) (x : Bay) : (s.setBay b x).power = s.power := rfl
@[simp] theorem State.setBay_powerGood (b : Nat) (x : Bay) : (s.setBay b x).powerGood = s.powerGood := rfl
@[simp] theorem State.setBay_perst (b : Nat) (x : Bay) : (s.setBay b x).perst = s.perst := rfl
@[simp] theorem State.setBay_perstReleased (b : Nat) (x : Bay) : (s.setBay b x).perstReleased = s.perstReleased := rfl
@[simp] theorem State.setBay_aonUp (b : Nat) (x : Bay) : (s.setBay b x).aonUp = s.aonUp := rfl
@[simp] theorem State.setBay_smbusMsg (b : Nat) (x : Bay) : (s.setBay b x).smbusMsg = s.smbusMsg := rfl
@[simp] theorem State.setBay_waking (b : Nat) (x : Bay) : (s.setBay b x).waking = s.waking := rfl
@[simp] theorem State.setBay_recovery (b : Nat) (x : Bay) : (s.setBay b x).recovery = s.recovery := rfl
@[simp] theorem State.setBay_diesStopped (b : Nat) (x : Bay) : (s.setBay b x).diesStopped = s.diesStopped := rfl
@[simp] theorem State.setBay_computeReset (b : Nat) (x : Bay) : (s.setBay b x).computeReset = s.computeReset := rfl
@[simp] theorem State.setBay_emergencyOver (b : Nat) (x : Bay) : (s.setBay b x).emergencyOver = s.emergencyOver := rfl

/-! ### The fields that `setUnit` leaves alone -/

@[simp] theorem State.setUnit_pending (b : Nat) (x : UnitS) : (s.setUnit b x).pending = s.pending := rfl
@[simp] theorem State.setUnit_fresh (b : Nat) (x : UnitS) : (s.setUnit b x).fresh = s.fresh := rfl
@[simp] theorem State.setUnit_regs (b : Nat) (x : UnitS) : (s.setUnit b x).regs = s.regs := rfl
@[simp] theorem State.setUnit_hbm (b : Nat) (x : UnitS) : (s.setUnit b x).hbm = s.hbm := rfl
@[simp] theorem State.setUnit_poison (b : Nat) (x : UnitS) : (s.setUnit b x).poison = s.poison := rfl
@[simp] theorem State.setUnit_badLines (b : Nat) (x : UnitS) : (s.setUnit b x).badLines = s.badLines := rfl
@[simp] theorem State.setUnit_bays (b : Nat) (x : UnitS) : (s.setUnit b x).bays = s.bays := rfl
@[simp] theorem State.setUnit_cores (b : Nat) (x : UnitS) : (s.setUnit b x).cores = s.cores := rfl
@[simp] theorem State.setUnit_packets (b : Nat) (x : UnitS) : (s.setUnit b x).packets = s.packets := rfl
@[simp] theorem State.setUnit_slotClk (b : Nat) (x : UnitS) : (s.setUnit b x).slotClk = s.slotClk := rfl
@[simp] theorem State.setUnit_pens (b : Nat) (x : UnitS) : (s.setUnit b x).pens = s.pens := rfl
@[simp] theorem State.setUnit_ports (b : Nat) (x : UnitS) : (s.setUnit b x).ports = s.ports := rfl
@[simp] theorem State.setUnit_linkStage (b : Nat) (x : UnitS) : (s.setUnit b x).linkStage = s.linkStage := rfl
@[simp] theorem State.setUnit_linkDone (b : Nat) (x : UnitS) : (s.setUnit b x).linkDone = s.linkDone := rfl
@[simp] theorem State.setUnit_censusOpen (b : Nat) (x : UnitS) : (s.setUnit b x).censusOpen = s.censusOpen := rfl
@[simp] theorem State.setUnit_hostMem (b : Nat) (x : UnitS) : (s.setUnit b x).hostMem = s.hostMem := rfl
@[simp] theorem State.setUnit_rings (b : Nat) (x : UnitS) : (s.setUnit b x).rings = s.rings := rfl
@[simp] theorem State.setUnit_hifUsed (b : Nat) (x : UnitS) : (s.setUnit b x).hifUsed = s.hifUsed := rfl
@[simp] theorem State.setUnit_ringNext (b : Nat) (x : UnitS) : (s.setUnit b x).ringNext = s.ringNext := rfl
@[simp] theorem State.setUnit_evq (b : Nat) (x : UnitS) : (s.setUnit b x).evq = s.evq := rfl
@[simp] theorem State.setUnit_evLost (b : Nat) (x : UnitS) : (s.setUnit b x).evLost = s.evLost := rfl
@[simp] theorem State.setUnit_msix (b : Nat) (x : UnitS) : (s.setUnit b x).msix = s.msix := rfl
@[simp] theorem State.setUnit_fetchPaused (b : Nat) (x : UnitS) : (s.setUnit b x).fetchPaused = s.fetchPaused := rfl
@[simp] theorem State.setUnit_order (b : Nat) (x : UnitS) : (s.setUnit b x).order = s.order := rfl
@[simp] theorem State.setUnit_lastAnswer (b : Nat) (x : UnitS) : (s.setUnit b x).lastAnswer = s.lastAnswer := rfl
@[simp] theorem State.setUnit_lastRead (b : Nat) (x : UnitS) : (s.setUnit b x).lastRead = s.lastRead := rfl
@[simp] theorem State.setUnit_lastPoison (b : Nat) (x : UnitS) : (s.setUnit b x).lastPoison = s.lastPoison := rfl
@[simp] theorem State.setUnit_rngFails (b : Nat) (x : UnitS) : (s.setUnit b x).rngFails = s.rngFails := rfl
@[simp] theorem State.setUnit_rngRun (b : Nat) (x : UnitS) : (s.setUnit b x).rngRun = s.rngRun := rfl
@[simp] theorem State.setUnit_wx (b : Nat) (x : UnitS) : (s.setUnit b x).wx = s.wx := rfl
@[simp] theorem State.setUnit_wxInj (b : Nat) (x : UnitS) : (s.setUnit b x).wxInj = s.wxInj := rfl
@[simp] theorem State.setUnit_wxThr (b : Nat) (x : UnitS) : (s.setUnit b x).wxThr = s.wxThr := rfl
@[simp] theorem State.setUnit_actDue (b : Nat) (x : UnitS) : (s.setUnit b x).actDue = s.actDue := rfl
@[simp] theorem State.setUnit_fences (b : Nat) (x : UnitS) : (s.setUnit b x).fences = s.fences := rfl
@[simp] theorem State.setUnit_fenceDet (b : Nat) (x : UnitS) : (s.setUnit b x).fenceDet = s.fenceDet := rfl
@[simp] theorem State.setUnit_rotated (b : Nat) (x : UnitS) : (s.setUnit b x).rotated = s.rotated := rfl
@[simp] theorem State.setUnit_injection (b : Nat) (x : UnitS) : (s.setUnit b x).injection = s.injection := rfl
@[simp] theorem State.setUnit_keep (b : Nat) (x : UnitS) : (s.setUnit b x).keep = s.keep := rfl
@[simp] theorem State.setUnit_wear (b : Nat) (x : UnitS) : (s.setUnit b x).wear = s.wear := rfl
@[simp] theorem State.setUnit_keepQ (b : Nat) (x : UnitS) : (s.setUnit b x).keepQ = s.keepQ := rfl
@[simp] theorem State.setUnit_heldRetire (b : Nat) (x : UnitS) : (s.setUnit b x).heldRetire = s.heldRetire := rfl
@[simp] theorem State.setUnit_fuses (b : Nat) (x : UnitS) : (s.setUnit b x).fuses = s.fuses := rfl
@[simp] theorem State.setUnit_fwA (b : Nat) (x : UnitS) : (s.setUnit b x).fwA = s.fwA := rfl
@[simp] theorem State.setUnit_fwB (b : Nat) (x : UnitS) : (s.setUnit b x).fwB = s.fwB := rfl
@[simp] theorem State.setUnit_fwTrial (b : Nat) (x : UnitS) : (s.setUnit b x).fwTrial = s.fwTrial := rfl
@[simp] theorem State.setUnit_fwActive (b : Nat) (x : UnitS) : (s.setUnit b x).fwActive = s.fwActive := rfl
@[simp] theorem State.setUnit_ftp (b : Nat) (x : UnitS) : (s.setUnit b x).ftp = s.ftp := rfl
@[simp] theorem State.setUnit_deviceKey (b : Nat) (x : UnitS) : (s.setUnit b x).deviceKey = s.deviceKey := rfl
@[simp] theorem State.setUnit_ownerPub (b : Nat) (x : UnitS) : (s.setUnit b x).ownerPub = s.ownerPub := rfl
@[simp] theorem State.setUnit_ownerKeep (b : Nat) (x : UnitS) : (s.setUnit b x).ownerKeep = s.ownerKeep := rfl
@[simp] theorem State.setUnit_tamperHead (b : Nat) (x : UnitS) : (s.setUnit b x).tamperHead = s.tamperHead := rfl
@[simp] theorem State.setUnit_spdm (b : Nat) (x : UnitS) : (s.setUnit b x).spdm = s.spdm := rfl
@[simp] theorem State.setUnit_power (b : Nat) (x : UnitS) : (s.setUnit b x).power = s.power := rfl
@[simp] theorem State.setUnit_powerGood (b : Nat) (x : UnitS) : (s.setUnit b x).powerGood = s.powerGood := rfl
@[simp] theorem State.setUnit_perst (b : Nat) (x : UnitS) : (s.setUnit b x).perst = s.perst := rfl
@[simp] theorem State.setUnit_perstReleased (b : Nat) (x : UnitS) : (s.setUnit b x).perstReleased = s.perstReleased := rfl
@[simp] theorem State.setUnit_aonUp (b : Nat) (x : UnitS) : (s.setUnit b x).aonUp = s.aonUp := rfl
@[simp] theorem State.setUnit_smbusMsg (b : Nat) (x : UnitS) : (s.setUnit b x).smbusMsg = s.smbusMsg := rfl
@[simp] theorem State.setUnit_waking (b : Nat) (x : UnitS) : (s.setUnit b x).waking = s.waking := rfl
@[simp] theorem State.setUnit_recovery (b : Nat) (x : UnitS) : (s.setUnit b x).recovery = s.recovery := rfl
@[simp] theorem State.setUnit_diesStopped (b : Nat) (x : UnitS) : (s.setUnit b x).diesStopped = s.diesStopped := rfl
@[simp] theorem State.setUnit_computeReset (b : Nat) (x : UnitS) : (s.setUnit b x).computeReset = s.computeReset := rfl
@[simp] theorem State.setUnit_emergencyOver (b : Nat) (x : UnitS) : (s.setUnit b x).emergencyOver = s.emergencyOver := rfl

/-! ### The fields that `setRing` leaves alone -/

@[simp] theorem State.setRing_pending (r : Nat) (x : RingS) : (s.setRing r x).pending = s.pending := rfl
@[simp] theorem State.setRing_fresh (r : Nat) (x : RingS) : (s.setRing r x).fresh = s.fresh := rfl
@[simp] theorem State.setRing_regs (r : Nat) (x : RingS) : (s.setRing r x).regs = s.regs := rfl
@[simp] theorem State.setRing_hbm (r : Nat) (x : RingS) : (s.setRing r x).hbm = s.hbm := rfl
@[simp] theorem State.setRing_poison (r : Nat) (x : RingS) : (s.setRing r x).poison = s.poison := rfl
@[simp] theorem State.setRing_badLines (r : Nat) (x : RingS) : (s.setRing r x).badLines = s.badLines := rfl
@[simp] theorem State.setRing_bays (r : Nat) (x : RingS) : (s.setRing r x).bays = s.bays := rfl
@[simp] theorem State.setRing_units (r : Nat) (x : RingS) : (s.setRing r x).units = s.units := rfl
@[simp] theorem State.setRing_cores (r : Nat) (x : RingS) : (s.setRing r x).cores = s.cores := rfl
@[simp] theorem State.setRing_packets (r : Nat) (x : RingS) : (s.setRing r x).packets = s.packets := rfl
@[simp] theorem State.setRing_slotClk (r : Nat) (x : RingS) : (s.setRing r x).slotClk = s.slotClk := rfl
@[simp] theorem State.setRing_pens (r : Nat) (x : RingS) : (s.setRing r x).pens = s.pens := rfl
@[simp] theorem State.setRing_ports (r : Nat) (x : RingS) : (s.setRing r x).ports = s.ports := rfl
@[simp] theorem State.setRing_linkStage (r : Nat) (x : RingS) : (s.setRing r x).linkStage = s.linkStage := rfl
@[simp] theorem State.setRing_linkDone (r : Nat) (x : RingS) : (s.setRing r x).linkDone = s.linkDone := rfl
@[simp] theorem State.setRing_censusOpen (r : Nat) (x : RingS) : (s.setRing r x).censusOpen = s.censusOpen := rfl
@[simp] theorem State.setRing_hostMem (r : Nat) (x : RingS) : (s.setRing r x).hostMem = s.hostMem := rfl
@[simp] theorem State.setRing_hifUsed (r : Nat) (x : RingS) : (s.setRing r x).hifUsed = s.hifUsed := rfl
@[simp] theorem State.setRing_ringNext (r : Nat) (x : RingS) : (s.setRing r x).ringNext = s.ringNext := rfl
@[simp] theorem State.setRing_evq (r : Nat) (x : RingS) : (s.setRing r x).evq = s.evq := rfl
@[simp] theorem State.setRing_evLost (r : Nat) (x : RingS) : (s.setRing r x).evLost = s.evLost := rfl
@[simp] theorem State.setRing_msix (r : Nat) (x : RingS) : (s.setRing r x).msix = s.msix := rfl
@[simp] theorem State.setRing_fetchPaused (r : Nat) (x : RingS) : (s.setRing r x).fetchPaused = s.fetchPaused := rfl
@[simp] theorem State.setRing_order (r : Nat) (x : RingS) : (s.setRing r x).order = s.order := rfl
@[simp] theorem State.setRing_lastAnswer (r : Nat) (x : RingS) : (s.setRing r x).lastAnswer = s.lastAnswer := rfl
@[simp] theorem State.setRing_lastRead (r : Nat) (x : RingS) : (s.setRing r x).lastRead = s.lastRead := rfl
@[simp] theorem State.setRing_lastPoison (r : Nat) (x : RingS) : (s.setRing r x).lastPoison = s.lastPoison := rfl
@[simp] theorem State.setRing_rngFails (r : Nat) (x : RingS) : (s.setRing r x).rngFails = s.rngFails := rfl
@[simp] theorem State.setRing_rngRun (r : Nat) (x : RingS) : (s.setRing r x).rngRun = s.rngRun := rfl
@[simp] theorem State.setRing_wx (r : Nat) (x : RingS) : (s.setRing r x).wx = s.wx := rfl
@[simp] theorem State.setRing_wxInj (r : Nat) (x : RingS) : (s.setRing r x).wxInj = s.wxInj := rfl
@[simp] theorem State.setRing_wxThr (r : Nat) (x : RingS) : (s.setRing r x).wxThr = s.wxThr := rfl
@[simp] theorem State.setRing_actDue (r : Nat) (x : RingS) : (s.setRing r x).actDue = s.actDue := rfl
@[simp] theorem State.setRing_fences (r : Nat) (x : RingS) : (s.setRing r x).fences = s.fences := rfl
@[simp] theorem State.setRing_fenceDet (r : Nat) (x : RingS) : (s.setRing r x).fenceDet = s.fenceDet := rfl
@[simp] theorem State.setRing_rotated (r : Nat) (x : RingS) : (s.setRing r x).rotated = s.rotated := rfl
@[simp] theorem State.setRing_injection (r : Nat) (x : RingS) : (s.setRing r x).injection = s.injection := rfl
@[simp] theorem State.setRing_keep (r : Nat) (x : RingS) : (s.setRing r x).keep = s.keep := rfl
@[simp] theorem State.setRing_wear (r : Nat) (x : RingS) : (s.setRing r x).wear = s.wear := rfl
@[simp] theorem State.setRing_keepQ (r : Nat) (x : RingS) : (s.setRing r x).keepQ = s.keepQ := rfl
@[simp] theorem State.setRing_heldRetire (r : Nat) (x : RingS) : (s.setRing r x).heldRetire = s.heldRetire := rfl
@[simp] theorem State.setRing_fuses (r : Nat) (x : RingS) : (s.setRing r x).fuses = s.fuses := rfl
@[simp] theorem State.setRing_fwA (r : Nat) (x : RingS) : (s.setRing r x).fwA = s.fwA := rfl
@[simp] theorem State.setRing_fwB (r : Nat) (x : RingS) : (s.setRing r x).fwB = s.fwB := rfl
@[simp] theorem State.setRing_fwTrial (r : Nat) (x : RingS) : (s.setRing r x).fwTrial = s.fwTrial := rfl
@[simp] theorem State.setRing_fwActive (r : Nat) (x : RingS) : (s.setRing r x).fwActive = s.fwActive := rfl
@[simp] theorem State.setRing_ftp (r : Nat) (x : RingS) : (s.setRing r x).ftp = s.ftp := rfl
@[simp] theorem State.setRing_deviceKey (r : Nat) (x : RingS) : (s.setRing r x).deviceKey = s.deviceKey := rfl
@[simp] theorem State.setRing_ownerPub (r : Nat) (x : RingS) : (s.setRing r x).ownerPub = s.ownerPub := rfl
@[simp] theorem State.setRing_ownerKeep (r : Nat) (x : RingS) : (s.setRing r x).ownerKeep = s.ownerKeep := rfl
@[simp] theorem State.setRing_tamperHead (r : Nat) (x : RingS) : (s.setRing r x).tamperHead = s.tamperHead := rfl
@[simp] theorem State.setRing_spdm (r : Nat) (x : RingS) : (s.setRing r x).spdm = s.spdm := rfl
@[simp] theorem State.setRing_power (r : Nat) (x : RingS) : (s.setRing r x).power = s.power := rfl
@[simp] theorem State.setRing_powerGood (r : Nat) (x : RingS) : (s.setRing r x).powerGood = s.powerGood := rfl
@[simp] theorem State.setRing_perst (r : Nat) (x : RingS) : (s.setRing r x).perst = s.perst := rfl
@[simp] theorem State.setRing_perstReleased (r : Nat) (x : RingS) : (s.setRing r x).perstReleased = s.perstReleased := rfl
@[simp] theorem State.setRing_aonUp (r : Nat) (x : RingS) : (s.setRing r x).aonUp = s.aonUp := rfl
@[simp] theorem State.setRing_smbusMsg (r : Nat) (x : RingS) : (s.setRing r x).smbusMsg = s.smbusMsg := rfl
@[simp] theorem State.setRing_waking (r : Nat) (x : RingS) : (s.setRing r x).waking = s.waking := rfl
@[simp] theorem State.setRing_recovery (r : Nat) (x : RingS) : (s.setRing r x).recovery = s.recovery := rfl
@[simp] theorem State.setRing_diesStopped (r : Nat) (x : RingS) : (s.setRing r x).diesStopped = s.diesStopped := rfl
@[simp] theorem State.setRing_computeReset (r : Nat) (x : RingS) : (s.setRing r x).computeReset = s.computeReset := rfl
@[simp] theorem State.setRing_emergencyOver (r : Nat) (x : RingS) : (s.setRing r x).emergencyOver = s.emergencyOver := rfl

/-! ### The fields that `hostWrite` leaves alone -/

@[simp] theorem State.hostWrite_pending (a : Nat) (bs : List Byte) : (s.hostWrite a bs).pending = s.pending := rfl
@[simp] theorem State.hostWrite_fresh (a : Nat) (bs : List Byte) : (s.hostWrite a bs).fresh = s.fresh := rfl
@[simp] theorem State.hostWrite_regs (a : Nat) (bs : List Byte) : (s.hostWrite a bs).regs = s.regs := rfl
@[simp] theorem State.hostWrite_hbm (a : Nat) (bs : List Byte) : (s.hostWrite a bs).hbm = s.hbm := rfl
@[simp] theorem State.hostWrite_poison (a : Nat) (bs : List Byte) : (s.hostWrite a bs).poison = s.poison := rfl
@[simp] theorem State.hostWrite_badLines (a : Nat) (bs : List Byte) : (s.hostWrite a bs).badLines = s.badLines := rfl
@[simp] theorem State.hostWrite_bays (a : Nat) (bs : List Byte) : (s.hostWrite a bs).bays = s.bays := rfl
@[simp] theorem State.hostWrite_units (a : Nat) (bs : List Byte) : (s.hostWrite a bs).units = s.units := rfl
@[simp] theorem State.hostWrite_cores (a : Nat) (bs : List Byte) : (s.hostWrite a bs).cores = s.cores := rfl
@[simp] theorem State.hostWrite_packets (a : Nat) (bs : List Byte) : (s.hostWrite a bs).packets = s.packets := rfl
@[simp] theorem State.hostWrite_slotClk (a : Nat) (bs : List Byte) : (s.hostWrite a bs).slotClk = s.slotClk := rfl
@[simp] theorem State.hostWrite_pens (a : Nat) (bs : List Byte) : (s.hostWrite a bs).pens = s.pens := rfl
@[simp] theorem State.hostWrite_ports (a : Nat) (bs : List Byte) : (s.hostWrite a bs).ports = s.ports := rfl
@[simp] theorem State.hostWrite_linkStage (a : Nat) (bs : List Byte) : (s.hostWrite a bs).linkStage = s.linkStage := rfl
@[simp] theorem State.hostWrite_linkDone (a : Nat) (bs : List Byte) : (s.hostWrite a bs).linkDone = s.linkDone := rfl
@[simp] theorem State.hostWrite_censusOpen (a : Nat) (bs : List Byte) : (s.hostWrite a bs).censusOpen = s.censusOpen := rfl
@[simp] theorem State.hostWrite_rings (a : Nat) (bs : List Byte) : (s.hostWrite a bs).rings = s.rings := rfl
@[simp] theorem State.hostWrite_hifUsed (a : Nat) (bs : List Byte) : (s.hostWrite a bs).hifUsed = s.hifUsed := rfl
@[simp] theorem State.hostWrite_ringNext (a : Nat) (bs : List Byte) : (s.hostWrite a bs).ringNext = s.ringNext := rfl
@[simp] theorem State.hostWrite_evq (a : Nat) (bs : List Byte) : (s.hostWrite a bs).evq = s.evq := rfl
@[simp] theorem State.hostWrite_evLost (a : Nat) (bs : List Byte) : (s.hostWrite a bs).evLost = s.evLost := rfl
@[simp] theorem State.hostWrite_msix (a : Nat) (bs : List Byte) : (s.hostWrite a bs).msix = s.msix := rfl
@[simp] theorem State.hostWrite_fetchPaused (a : Nat) (bs : List Byte) : (s.hostWrite a bs).fetchPaused = s.fetchPaused := rfl
@[simp] theorem State.hostWrite_order (a : Nat) (bs : List Byte) : (s.hostWrite a bs).order = s.order := rfl
@[simp] theorem State.hostWrite_lastAnswer (a : Nat) (bs : List Byte) : (s.hostWrite a bs).lastAnswer = s.lastAnswer := rfl
@[simp] theorem State.hostWrite_lastRead (a : Nat) (bs : List Byte) : (s.hostWrite a bs).lastRead = s.lastRead := rfl
@[simp] theorem State.hostWrite_lastPoison (a : Nat) (bs : List Byte) : (s.hostWrite a bs).lastPoison = s.lastPoison := rfl
@[simp] theorem State.hostWrite_rngFails (a : Nat) (bs : List Byte) : (s.hostWrite a bs).rngFails = s.rngFails := rfl
@[simp] theorem State.hostWrite_rngRun (a : Nat) (bs : List Byte) : (s.hostWrite a bs).rngRun = s.rngRun := rfl
@[simp] theorem State.hostWrite_wx (a : Nat) (bs : List Byte) : (s.hostWrite a bs).wx = s.wx := rfl
@[simp] theorem State.hostWrite_wxInj (a : Nat) (bs : List Byte) : (s.hostWrite a bs).wxInj = s.wxInj := rfl
@[simp] theorem State.hostWrite_wxThr (a : Nat) (bs : List Byte) : (s.hostWrite a bs).wxThr = s.wxThr := rfl
@[simp] theorem State.hostWrite_actDue (a : Nat) (bs : List Byte) : (s.hostWrite a bs).actDue = s.actDue := rfl
@[simp] theorem State.hostWrite_fences (a : Nat) (bs : List Byte) : (s.hostWrite a bs).fences = s.fences := rfl
@[simp] theorem State.hostWrite_fenceDet (a : Nat) (bs : List Byte) : (s.hostWrite a bs).fenceDet = s.fenceDet := rfl
@[simp] theorem State.hostWrite_rotated (a : Nat) (bs : List Byte) : (s.hostWrite a bs).rotated = s.rotated := rfl
@[simp] theorem State.hostWrite_injection (a : Nat) (bs : List Byte) : (s.hostWrite a bs).injection = s.injection := rfl
@[simp] theorem State.hostWrite_keep (a : Nat) (bs : List Byte) : (s.hostWrite a bs).keep = s.keep := rfl
@[simp] theorem State.hostWrite_wear (a : Nat) (bs : List Byte) : (s.hostWrite a bs).wear = s.wear := rfl
@[simp] theorem State.hostWrite_keepQ (a : Nat) (bs : List Byte) : (s.hostWrite a bs).keepQ = s.keepQ := rfl
@[simp] theorem State.hostWrite_heldRetire (a : Nat) (bs : List Byte) : (s.hostWrite a bs).heldRetire = s.heldRetire := rfl
@[simp] theorem State.hostWrite_fuses (a : Nat) (bs : List Byte) : (s.hostWrite a bs).fuses = s.fuses := rfl
@[simp] theorem State.hostWrite_fwA (a : Nat) (bs : List Byte) : (s.hostWrite a bs).fwA = s.fwA := rfl
@[simp] theorem State.hostWrite_fwB (a : Nat) (bs : List Byte) : (s.hostWrite a bs).fwB = s.fwB := rfl
@[simp] theorem State.hostWrite_fwTrial (a : Nat) (bs : List Byte) : (s.hostWrite a bs).fwTrial = s.fwTrial := rfl
@[simp] theorem State.hostWrite_fwActive (a : Nat) (bs : List Byte) : (s.hostWrite a bs).fwActive = s.fwActive := rfl
@[simp] theorem State.hostWrite_ftp (a : Nat) (bs : List Byte) : (s.hostWrite a bs).ftp = s.ftp := rfl
@[simp] theorem State.hostWrite_deviceKey (a : Nat) (bs : List Byte) : (s.hostWrite a bs).deviceKey = s.deviceKey := rfl
@[simp] theorem State.hostWrite_ownerPub (a : Nat) (bs : List Byte) : (s.hostWrite a bs).ownerPub = s.ownerPub := rfl
@[simp] theorem State.hostWrite_ownerKeep (a : Nat) (bs : List Byte) : (s.hostWrite a bs).ownerKeep = s.ownerKeep := rfl
@[simp] theorem State.hostWrite_tamperHead (a : Nat) (bs : List Byte) : (s.hostWrite a bs).tamperHead = s.tamperHead := rfl
@[simp] theorem State.hostWrite_spdm (a : Nat) (bs : List Byte) : (s.hostWrite a bs).spdm = s.spdm := rfl
@[simp] theorem State.hostWrite_power (a : Nat) (bs : List Byte) : (s.hostWrite a bs).power = s.power := rfl
@[simp] theorem State.hostWrite_powerGood (a : Nat) (bs : List Byte) : (s.hostWrite a bs).powerGood = s.powerGood := rfl
@[simp] theorem State.hostWrite_perst (a : Nat) (bs : List Byte) : (s.hostWrite a bs).perst = s.perst := rfl
@[simp] theorem State.hostWrite_perstReleased (a : Nat) (bs : List Byte) : (s.hostWrite a bs).perstReleased = s.perstReleased := rfl
@[simp] theorem State.hostWrite_aonUp (a : Nat) (bs : List Byte) : (s.hostWrite a bs).aonUp = s.aonUp := rfl
@[simp] theorem State.hostWrite_smbusMsg (a : Nat) (bs : List Byte) : (s.hostWrite a bs).smbusMsg = s.smbusMsg := rfl
@[simp] theorem State.hostWrite_waking (a : Nat) (bs : List Byte) : (s.hostWrite a bs).waking = s.waking := rfl
@[simp] theorem State.hostWrite_recovery (a : Nat) (bs : List Byte) : (s.hostWrite a bs).recovery = s.recovery := rfl
@[simp] theorem State.hostWrite_diesStopped (a : Nat) (bs : List Byte) : (s.hostWrite a bs).diesStopped = s.diesStopped := rfl
@[simp] theorem State.hostWrite_computeReset (a : Nat) (bs : List Byte) : (s.hostWrite a bs).computeReset = s.computeReset := rfl
@[simp] theorem State.hostWrite_emergencyOver (a : Nat) (bs : List Byte) : (s.hostWrite a bs).emergencyOver = s.emergencyOver := rfl

/-! ### The fields that `markLine` leaves alone -/

@[simp] theorem State.markLine_pending (l : Nat) (p : Bool) : (s.markLine l p).pending = s.pending := rfl
@[simp] theorem State.markLine_fresh (l : Nat) (p : Bool) : (s.markLine l p).fresh = s.fresh := rfl
@[simp] theorem State.markLine_regs (l : Nat) (p : Bool) : (s.markLine l p).regs = s.regs := rfl
@[simp] theorem State.markLine_hbm (l : Nat) (p : Bool) : (s.markLine l p).hbm = s.hbm := rfl
@[simp] theorem State.markLine_badLines (l : Nat) (p : Bool) : (s.markLine l p).badLines = s.badLines := rfl
@[simp] theorem State.markLine_bays (l : Nat) (p : Bool) : (s.markLine l p).bays = s.bays := rfl
@[simp] theorem State.markLine_units (l : Nat) (p : Bool) : (s.markLine l p).units = s.units := rfl
@[simp] theorem State.markLine_cores (l : Nat) (p : Bool) : (s.markLine l p).cores = s.cores := rfl
@[simp] theorem State.markLine_packets (l : Nat) (p : Bool) : (s.markLine l p).packets = s.packets := rfl
@[simp] theorem State.markLine_slotClk (l : Nat) (p : Bool) : (s.markLine l p).slotClk = s.slotClk := rfl
@[simp] theorem State.markLine_pens (l : Nat) (p : Bool) : (s.markLine l p).pens = s.pens := rfl
@[simp] theorem State.markLine_ports (l : Nat) (p : Bool) : (s.markLine l p).ports = s.ports := rfl
@[simp] theorem State.markLine_linkStage (l : Nat) (p : Bool) : (s.markLine l p).linkStage = s.linkStage := rfl
@[simp] theorem State.markLine_linkDone (l : Nat) (p : Bool) : (s.markLine l p).linkDone = s.linkDone := rfl
@[simp] theorem State.markLine_censusOpen (l : Nat) (p : Bool) : (s.markLine l p).censusOpen = s.censusOpen := rfl
@[simp] theorem State.markLine_hostMem (l : Nat) (p : Bool) : (s.markLine l p).hostMem = s.hostMem := rfl
@[simp] theorem State.markLine_rings (l : Nat) (p : Bool) : (s.markLine l p).rings = s.rings := rfl
@[simp] theorem State.markLine_hifUsed (l : Nat) (p : Bool) : (s.markLine l p).hifUsed = s.hifUsed := rfl
@[simp] theorem State.markLine_ringNext (l : Nat) (p : Bool) : (s.markLine l p).ringNext = s.ringNext := rfl
@[simp] theorem State.markLine_evq (l : Nat) (p : Bool) : (s.markLine l p).evq = s.evq := rfl
@[simp] theorem State.markLine_evLost (l : Nat) (p : Bool) : (s.markLine l p).evLost = s.evLost := rfl
@[simp] theorem State.markLine_msix (l : Nat) (p : Bool) : (s.markLine l p).msix = s.msix := rfl
@[simp] theorem State.markLine_fetchPaused (l : Nat) (p : Bool) : (s.markLine l p).fetchPaused = s.fetchPaused := rfl
@[simp] theorem State.markLine_order (l : Nat) (p : Bool) : (s.markLine l p).order = s.order := rfl
@[simp] theorem State.markLine_lastAnswer (l : Nat) (p : Bool) : (s.markLine l p).lastAnswer = s.lastAnswer := rfl
@[simp] theorem State.markLine_lastRead (l : Nat) (p : Bool) : (s.markLine l p).lastRead = s.lastRead := rfl
@[simp] theorem State.markLine_lastPoison (l : Nat) (p : Bool) : (s.markLine l p).lastPoison = s.lastPoison := rfl
@[simp] theorem State.markLine_rngFails (l : Nat) (p : Bool) : (s.markLine l p).rngFails = s.rngFails := rfl
@[simp] theorem State.markLine_rngRun (l : Nat) (p : Bool) : (s.markLine l p).rngRun = s.rngRun := rfl
@[simp] theorem State.markLine_wx (l : Nat) (p : Bool) : (s.markLine l p).wx = s.wx := rfl
@[simp] theorem State.markLine_wxInj (l : Nat) (p : Bool) : (s.markLine l p).wxInj = s.wxInj := rfl
@[simp] theorem State.markLine_wxThr (l : Nat) (p : Bool) : (s.markLine l p).wxThr = s.wxThr := rfl
@[simp] theorem State.markLine_actDue (l : Nat) (p : Bool) : (s.markLine l p).actDue = s.actDue := rfl
@[simp] theorem State.markLine_fences (l : Nat) (p : Bool) : (s.markLine l p).fences = s.fences := rfl
@[simp] theorem State.markLine_fenceDet (l : Nat) (p : Bool) : (s.markLine l p).fenceDet = s.fenceDet := rfl
@[simp] theorem State.markLine_rotated (l : Nat) (p : Bool) : (s.markLine l p).rotated = s.rotated := rfl
@[simp] theorem State.markLine_injection (l : Nat) (p : Bool) : (s.markLine l p).injection = s.injection := rfl
@[simp] theorem State.markLine_keep (l : Nat) (p : Bool) : (s.markLine l p).keep = s.keep := rfl
@[simp] theorem State.markLine_wear (l : Nat) (p : Bool) : (s.markLine l p).wear = s.wear := rfl
@[simp] theorem State.markLine_keepQ (l : Nat) (p : Bool) : (s.markLine l p).keepQ = s.keepQ := rfl
@[simp] theorem State.markLine_heldRetire (l : Nat) (p : Bool) : (s.markLine l p).heldRetire = s.heldRetire := rfl
@[simp] theorem State.markLine_fuses (l : Nat) (p : Bool) : (s.markLine l p).fuses = s.fuses := rfl
@[simp] theorem State.markLine_fwA (l : Nat) (p : Bool) : (s.markLine l p).fwA = s.fwA := rfl
@[simp] theorem State.markLine_fwB (l : Nat) (p : Bool) : (s.markLine l p).fwB = s.fwB := rfl
@[simp] theorem State.markLine_fwTrial (l : Nat) (p : Bool) : (s.markLine l p).fwTrial = s.fwTrial := rfl
@[simp] theorem State.markLine_fwActive (l : Nat) (p : Bool) : (s.markLine l p).fwActive = s.fwActive := rfl
@[simp] theorem State.markLine_ftp (l : Nat) (p : Bool) : (s.markLine l p).ftp = s.ftp := rfl
@[simp] theorem State.markLine_deviceKey (l : Nat) (p : Bool) : (s.markLine l p).deviceKey = s.deviceKey := rfl
@[simp] theorem State.markLine_ownerPub (l : Nat) (p : Bool) : (s.markLine l p).ownerPub = s.ownerPub := rfl
@[simp] theorem State.markLine_ownerKeep (l : Nat) (p : Bool) : (s.markLine l p).ownerKeep = s.ownerKeep := rfl
@[simp] theorem State.markLine_tamperHead (l : Nat) (p : Bool) : (s.markLine l p).tamperHead = s.tamperHead := rfl
@[simp] theorem State.markLine_spdm (l : Nat) (p : Bool) : (s.markLine l p).spdm = s.spdm := rfl
@[simp] theorem State.markLine_power (l : Nat) (p : Bool) : (s.markLine l p).power = s.power := rfl
@[simp] theorem State.markLine_powerGood (l : Nat) (p : Bool) : (s.markLine l p).powerGood = s.powerGood := rfl
@[simp] theorem State.markLine_perst (l : Nat) (p : Bool) : (s.markLine l p).perst = s.perst := rfl
@[simp] theorem State.markLine_perstReleased (l : Nat) (p : Bool) : (s.markLine l p).perstReleased = s.perstReleased := rfl
@[simp] theorem State.markLine_aonUp (l : Nat) (p : Bool) : (s.markLine l p).aonUp = s.aonUp := rfl
@[simp] theorem State.markLine_smbusMsg (l : Nat) (p : Bool) : (s.markLine l p).smbusMsg = s.smbusMsg := rfl
@[simp] theorem State.markLine_waking (l : Nat) (p : Bool) : (s.markLine l p).waking = s.waking := rfl
@[simp] theorem State.markLine_recovery (l : Nat) (p : Bool) : (s.markLine l p).recovery = s.recovery := rfl
@[simp] theorem State.markLine_diesStopped (l : Nat) (p : Bool) : (s.markLine l p).diesStopped = s.diesStopped := rfl
@[simp] theorem State.markLine_computeReset (l : Nat) (p : Bool) : (s.markLine l p).computeReset = s.computeReset := rfl
@[simp] theorem State.markLine_emergencyOver (l : Nat) (p : Bool) : (s.markLine l p).emergencyOver = s.emergencyOver := rfl

/-! ### The fields that `setBytes` leaves alone -/

@[simp] theorem State.setBytes_pending (a : Nat) (bs : List Byte) : (s.setBytes a bs).pending = s.pending := rfl
@[simp] theorem State.setBytes_fresh (a : Nat) (bs : List Byte) : (s.setBytes a bs).fresh = s.fresh := rfl
@[simp] theorem State.setBytes_regs (a : Nat) (bs : List Byte) : (s.setBytes a bs).regs = s.regs := rfl
@[simp] theorem State.setBytes_poison (a : Nat) (bs : List Byte) : (s.setBytes a bs).poison = s.poison := rfl
@[simp] theorem State.setBytes_badLines (a : Nat) (bs : List Byte) : (s.setBytes a bs).badLines = s.badLines := rfl
@[simp] theorem State.setBytes_bays (a : Nat) (bs : List Byte) : (s.setBytes a bs).bays = s.bays := rfl
@[simp] theorem State.setBytes_units (a : Nat) (bs : List Byte) : (s.setBytes a bs).units = s.units := rfl
@[simp] theorem State.setBytes_cores (a : Nat) (bs : List Byte) : (s.setBytes a bs).cores = s.cores := rfl
@[simp] theorem State.setBytes_packets (a : Nat) (bs : List Byte) : (s.setBytes a bs).packets = s.packets := rfl
@[simp] theorem State.setBytes_slotClk (a : Nat) (bs : List Byte) : (s.setBytes a bs).slotClk = s.slotClk := rfl
@[simp] theorem State.setBytes_pens (a : Nat) (bs : List Byte) : (s.setBytes a bs).pens = s.pens := rfl
@[simp] theorem State.setBytes_ports (a : Nat) (bs : List Byte) : (s.setBytes a bs).ports = s.ports := rfl
@[simp] theorem State.setBytes_linkStage (a : Nat) (bs : List Byte) : (s.setBytes a bs).linkStage = s.linkStage := rfl
@[simp] theorem State.setBytes_linkDone (a : Nat) (bs : List Byte) : (s.setBytes a bs).linkDone = s.linkDone := rfl
@[simp] theorem State.setBytes_censusOpen (a : Nat) (bs : List Byte) : (s.setBytes a bs).censusOpen = s.censusOpen := rfl
@[simp] theorem State.setBytes_hostMem (a : Nat) (bs : List Byte) : (s.setBytes a bs).hostMem = s.hostMem := rfl
@[simp] theorem State.setBytes_rings (a : Nat) (bs : List Byte) : (s.setBytes a bs).rings = s.rings := rfl
@[simp] theorem State.setBytes_hifUsed (a : Nat) (bs : List Byte) : (s.setBytes a bs).hifUsed = s.hifUsed := rfl
@[simp] theorem State.setBytes_ringNext (a : Nat) (bs : List Byte) : (s.setBytes a bs).ringNext = s.ringNext := rfl
@[simp] theorem State.setBytes_evq (a : Nat) (bs : List Byte) : (s.setBytes a bs).evq = s.evq := rfl
@[simp] theorem State.setBytes_evLost (a : Nat) (bs : List Byte) : (s.setBytes a bs).evLost = s.evLost := rfl
@[simp] theorem State.setBytes_msix (a : Nat) (bs : List Byte) : (s.setBytes a bs).msix = s.msix := rfl
@[simp] theorem State.setBytes_fetchPaused (a : Nat) (bs : List Byte) : (s.setBytes a bs).fetchPaused = s.fetchPaused := rfl
@[simp] theorem State.setBytes_order (a : Nat) (bs : List Byte) : (s.setBytes a bs).order = s.order := rfl
@[simp] theorem State.setBytes_lastAnswer (a : Nat) (bs : List Byte) : (s.setBytes a bs).lastAnswer = s.lastAnswer := rfl
@[simp] theorem State.setBytes_lastRead (a : Nat) (bs : List Byte) : (s.setBytes a bs).lastRead = s.lastRead := rfl
@[simp] theorem State.setBytes_lastPoison (a : Nat) (bs : List Byte) : (s.setBytes a bs).lastPoison = s.lastPoison := rfl
@[simp] theorem State.setBytes_rngFails (a : Nat) (bs : List Byte) : (s.setBytes a bs).rngFails = s.rngFails := rfl
@[simp] theorem State.setBytes_rngRun (a : Nat) (bs : List Byte) : (s.setBytes a bs).rngRun = s.rngRun := rfl
@[simp] theorem State.setBytes_wx (a : Nat) (bs : List Byte) : (s.setBytes a bs).wx = s.wx := rfl
@[simp] theorem State.setBytes_wxInj (a : Nat) (bs : List Byte) : (s.setBytes a bs).wxInj = s.wxInj := rfl
@[simp] theorem State.setBytes_wxThr (a : Nat) (bs : List Byte) : (s.setBytes a bs).wxThr = s.wxThr := rfl
@[simp] theorem State.setBytes_actDue (a : Nat) (bs : List Byte) : (s.setBytes a bs).actDue = s.actDue := rfl
@[simp] theorem State.setBytes_fences (a : Nat) (bs : List Byte) : (s.setBytes a bs).fences = s.fences := rfl
@[simp] theorem State.setBytes_fenceDet (a : Nat) (bs : List Byte) : (s.setBytes a bs).fenceDet = s.fenceDet := rfl
@[simp] theorem State.setBytes_rotated (a : Nat) (bs : List Byte) : (s.setBytes a bs).rotated = s.rotated := rfl
@[simp] theorem State.setBytes_injection (a : Nat) (bs : List Byte) : (s.setBytes a bs).injection = s.injection := rfl
@[simp] theorem State.setBytes_keep (a : Nat) (bs : List Byte) : (s.setBytes a bs).keep = s.keep := rfl
@[simp] theorem State.setBytes_wear (a : Nat) (bs : List Byte) : (s.setBytes a bs).wear = s.wear := rfl
@[simp] theorem State.setBytes_keepQ (a : Nat) (bs : List Byte) : (s.setBytes a bs).keepQ = s.keepQ := rfl
@[simp] theorem State.setBytes_heldRetire (a : Nat) (bs : List Byte) : (s.setBytes a bs).heldRetire = s.heldRetire := rfl
@[simp] theorem State.setBytes_fuses (a : Nat) (bs : List Byte) : (s.setBytes a bs).fuses = s.fuses := rfl
@[simp] theorem State.setBytes_fwA (a : Nat) (bs : List Byte) : (s.setBytes a bs).fwA = s.fwA := rfl
@[simp] theorem State.setBytes_fwB (a : Nat) (bs : List Byte) : (s.setBytes a bs).fwB = s.fwB := rfl
@[simp] theorem State.setBytes_fwTrial (a : Nat) (bs : List Byte) : (s.setBytes a bs).fwTrial = s.fwTrial := rfl
@[simp] theorem State.setBytes_fwActive (a : Nat) (bs : List Byte) : (s.setBytes a bs).fwActive = s.fwActive := rfl
@[simp] theorem State.setBytes_ftp (a : Nat) (bs : List Byte) : (s.setBytes a bs).ftp = s.ftp := rfl
@[simp] theorem State.setBytes_deviceKey (a : Nat) (bs : List Byte) : (s.setBytes a bs).deviceKey = s.deviceKey := rfl
@[simp] theorem State.setBytes_ownerPub (a : Nat) (bs : List Byte) : (s.setBytes a bs).ownerPub = s.ownerPub := rfl
@[simp] theorem State.setBytes_ownerKeep (a : Nat) (bs : List Byte) : (s.setBytes a bs).ownerKeep = s.ownerKeep := rfl
@[simp] theorem State.setBytes_tamperHead (a : Nat) (bs : List Byte) : (s.setBytes a bs).tamperHead = s.tamperHead := rfl
@[simp] theorem State.setBytes_spdm (a : Nat) (bs : List Byte) : (s.setBytes a bs).spdm = s.spdm := rfl
@[simp] theorem State.setBytes_power (a : Nat) (bs : List Byte) : (s.setBytes a bs).power = s.power := rfl
@[simp] theorem State.setBytes_powerGood (a : Nat) (bs : List Byte) : (s.setBytes a bs).powerGood = s.powerGood := rfl
@[simp] theorem State.setBytes_perst (a : Nat) (bs : List Byte) : (s.setBytes a bs).perst = s.perst := rfl
@[simp] theorem State.setBytes_perstReleased (a : Nat) (bs : List Byte) : (s.setBytes a bs).perstReleased = s.perstReleased := rfl
@[simp] theorem State.setBytes_aonUp (a : Nat) (bs : List Byte) : (s.setBytes a bs).aonUp = s.aonUp := rfl
@[simp] theorem State.setBytes_smbusMsg (a : Nat) (bs : List Byte) : (s.setBytes a bs).smbusMsg = s.smbusMsg := rfl
@[simp] theorem State.setBytes_waking (a : Nat) (bs : List Byte) : (s.setBytes a bs).waking = s.waking := rfl
@[simp] theorem State.setBytes_recovery (a : Nat) (bs : List Byte) : (s.setBytes a bs).recovery = s.recovery := rfl
@[simp] theorem State.setBytes_diesStopped (a : Nat) (bs : List Byte) : (s.setBytes a bs).diesStopped = s.diesStopped := rfl
@[simp] theorem State.setBytes_computeReset (a : Nat) (bs : List Byte) : (s.setBytes a bs).computeReset = s.computeReset := rfl
@[simp] theorem State.setBytes_emergencyOver (a : Nat) (bs : List Byte) : (s.setBytes a bs).emergencyOver = s.emergencyOver := rfl

/-! ### The fields that `setBad` leaves alone -/

@[simp] theorem State.setBad_pending (l : Nat) (b : Bool) : (s.setBad l b).pending = s.pending := rfl
@[simp] theorem State.setBad_fresh (l : Nat) (b : Bool) : (s.setBad l b).fresh = s.fresh := rfl
@[simp] theorem State.setBad_regs (l : Nat) (b : Bool) : (s.setBad l b).regs = s.regs := rfl
@[simp] theorem State.setBad_hbm (l : Nat) (b : Bool) : (s.setBad l b).hbm = s.hbm := rfl
@[simp] theorem State.setBad_poison (l : Nat) (b : Bool) : (s.setBad l b).poison = s.poison := rfl
@[simp] theorem State.setBad_bays (l : Nat) (b : Bool) : (s.setBad l b).bays = s.bays := rfl
@[simp] theorem State.setBad_units (l : Nat) (b : Bool) : (s.setBad l b).units = s.units := rfl
@[simp] theorem State.setBad_cores (l : Nat) (b : Bool) : (s.setBad l b).cores = s.cores := rfl
@[simp] theorem State.setBad_packets (l : Nat) (b : Bool) : (s.setBad l b).packets = s.packets := rfl
@[simp] theorem State.setBad_slotClk (l : Nat) (b : Bool) : (s.setBad l b).slotClk = s.slotClk := rfl
@[simp] theorem State.setBad_pens (l : Nat) (b : Bool) : (s.setBad l b).pens = s.pens := rfl
@[simp] theorem State.setBad_ports (l : Nat) (b : Bool) : (s.setBad l b).ports = s.ports := rfl
@[simp] theorem State.setBad_linkStage (l : Nat) (b : Bool) : (s.setBad l b).linkStage = s.linkStage := rfl
@[simp] theorem State.setBad_linkDone (l : Nat) (b : Bool) : (s.setBad l b).linkDone = s.linkDone := rfl
@[simp] theorem State.setBad_censusOpen (l : Nat) (b : Bool) : (s.setBad l b).censusOpen = s.censusOpen := rfl
@[simp] theorem State.setBad_hostMem (l : Nat) (b : Bool) : (s.setBad l b).hostMem = s.hostMem := rfl
@[simp] theorem State.setBad_rings (l : Nat) (b : Bool) : (s.setBad l b).rings = s.rings := rfl
@[simp] theorem State.setBad_hifUsed (l : Nat) (b : Bool) : (s.setBad l b).hifUsed = s.hifUsed := rfl
@[simp] theorem State.setBad_ringNext (l : Nat) (b : Bool) : (s.setBad l b).ringNext = s.ringNext := rfl
@[simp] theorem State.setBad_evq (l : Nat) (b : Bool) : (s.setBad l b).evq = s.evq := rfl
@[simp] theorem State.setBad_evLost (l : Nat) (b : Bool) : (s.setBad l b).evLost = s.evLost := rfl
@[simp] theorem State.setBad_msix (l : Nat) (b : Bool) : (s.setBad l b).msix = s.msix := rfl
@[simp] theorem State.setBad_fetchPaused (l : Nat) (b : Bool) : (s.setBad l b).fetchPaused = s.fetchPaused := rfl
@[simp] theorem State.setBad_order (l : Nat) (b : Bool) : (s.setBad l b).order = s.order := rfl
@[simp] theorem State.setBad_lastAnswer (l : Nat) (b : Bool) : (s.setBad l b).lastAnswer = s.lastAnswer := rfl
@[simp] theorem State.setBad_lastRead (l : Nat) (b : Bool) : (s.setBad l b).lastRead = s.lastRead := rfl
@[simp] theorem State.setBad_lastPoison (l : Nat) (b : Bool) : (s.setBad l b).lastPoison = s.lastPoison := rfl
@[simp] theorem State.setBad_rngFails (l : Nat) (b : Bool) : (s.setBad l b).rngFails = s.rngFails := rfl
@[simp] theorem State.setBad_rngRun (l : Nat) (b : Bool) : (s.setBad l b).rngRun = s.rngRun := rfl
@[simp] theorem State.setBad_wx (l : Nat) (b : Bool) : (s.setBad l b).wx = s.wx := rfl
@[simp] theorem State.setBad_wxInj (l : Nat) (b : Bool) : (s.setBad l b).wxInj = s.wxInj := rfl
@[simp] theorem State.setBad_wxThr (l : Nat) (b : Bool) : (s.setBad l b).wxThr = s.wxThr := rfl
@[simp] theorem State.setBad_actDue (l : Nat) (b : Bool) : (s.setBad l b).actDue = s.actDue := rfl
@[simp] theorem State.setBad_fences (l : Nat) (b : Bool) : (s.setBad l b).fences = s.fences := rfl
@[simp] theorem State.setBad_fenceDet (l : Nat) (b : Bool) : (s.setBad l b).fenceDet = s.fenceDet := rfl
@[simp] theorem State.setBad_rotated (l : Nat) (b : Bool) : (s.setBad l b).rotated = s.rotated := rfl
@[simp] theorem State.setBad_injection (l : Nat) (b : Bool) : (s.setBad l b).injection = s.injection := rfl
@[simp] theorem State.setBad_keep (l : Nat) (b : Bool) : (s.setBad l b).keep = s.keep := rfl
@[simp] theorem State.setBad_wear (l : Nat) (b : Bool) : (s.setBad l b).wear = s.wear := rfl
@[simp] theorem State.setBad_keepQ (l : Nat) (b : Bool) : (s.setBad l b).keepQ = s.keepQ := rfl
@[simp] theorem State.setBad_heldRetire (l : Nat) (b : Bool) : (s.setBad l b).heldRetire = s.heldRetire := rfl
@[simp] theorem State.setBad_fuses (l : Nat) (b : Bool) : (s.setBad l b).fuses = s.fuses := rfl
@[simp] theorem State.setBad_fwA (l : Nat) (b : Bool) : (s.setBad l b).fwA = s.fwA := rfl
@[simp] theorem State.setBad_fwB (l : Nat) (b : Bool) : (s.setBad l b).fwB = s.fwB := rfl
@[simp] theorem State.setBad_fwTrial (l : Nat) (b : Bool) : (s.setBad l b).fwTrial = s.fwTrial := rfl
@[simp] theorem State.setBad_fwActive (l : Nat) (b : Bool) : (s.setBad l b).fwActive = s.fwActive := rfl
@[simp] theorem State.setBad_ftp (l : Nat) (b : Bool) : (s.setBad l b).ftp = s.ftp := rfl
@[simp] theorem State.setBad_deviceKey (l : Nat) (b : Bool) : (s.setBad l b).deviceKey = s.deviceKey := rfl
@[simp] theorem State.setBad_ownerPub (l : Nat) (b : Bool) : (s.setBad l b).ownerPub = s.ownerPub := rfl
@[simp] theorem State.setBad_ownerKeep (l : Nat) (b : Bool) : (s.setBad l b).ownerKeep = s.ownerKeep := rfl
@[simp] theorem State.setBad_tamperHead (l : Nat) (b : Bool) : (s.setBad l b).tamperHead = s.tamperHead := rfl
@[simp] theorem State.setBad_spdm (l : Nat) (b : Bool) : (s.setBad l b).spdm = s.spdm := rfl
@[simp] theorem State.setBad_power (l : Nat) (b : Bool) : (s.setBad l b).power = s.power := rfl
@[simp] theorem State.setBad_powerGood (l : Nat) (b : Bool) : (s.setBad l b).powerGood = s.powerGood := rfl
@[simp] theorem State.setBad_perst (l : Nat) (b : Bool) : (s.setBad l b).perst = s.perst := rfl
@[simp] theorem State.setBad_perstReleased (l : Nat) (b : Bool) : (s.setBad l b).perstReleased = s.perstReleased := rfl
@[simp] theorem State.setBad_aonUp (l : Nat) (b : Bool) : (s.setBad l b).aonUp = s.aonUp := rfl
@[simp] theorem State.setBad_smbusMsg (l : Nat) (b : Bool) : (s.setBad l b).smbusMsg = s.smbusMsg := rfl
@[simp] theorem State.setBad_waking (l : Nat) (b : Bool) : (s.setBad l b).waking = s.waking := rfl
@[simp] theorem State.setBad_recovery (l : Nat) (b : Bool) : (s.setBad l b).recovery = s.recovery := rfl
@[simp] theorem State.setBad_diesStopped (l : Nat) (b : Bool) : (s.setBad l b).diesStopped = s.diesStopped := rfl
@[simp] theorem State.setBad_computeReset (l : Nat) (b : Bool) : (s.setBad l b).computeReset = s.computeReset := rfl
@[simp] theorem State.setBad_emergencyOver (l : Nat) (b : Bool) : (s.setBad l b).emergencyOver = s.emergencyOver := rfl

/-! ### A drawn free value changes the counter of free values and nothing else -/

@[simp] theorem State.draw_fresh : s.draw.2.fresh = s.fresh + 1 := rfl
@[simp] theorem State.draw_pending : s.draw.2.pending = s.pending := rfl
@[simp] theorem State.draw_regs : s.draw.2.regs = s.regs := rfl
@[simp] theorem State.draw_hbm : s.draw.2.hbm = s.hbm := rfl
@[simp] theorem State.draw_poison : s.draw.2.poison = s.poison := rfl
@[simp] theorem State.draw_badLines : s.draw.2.badLines = s.badLines := rfl
@[simp] theorem State.draw_bays : s.draw.2.bays = s.bays := rfl
@[simp] theorem State.draw_units : s.draw.2.units = s.units := rfl
@[simp] theorem State.draw_cores : s.draw.2.cores = s.cores := rfl
@[simp] theorem State.draw_packets : s.draw.2.packets = s.packets := rfl
@[simp] theorem State.draw_slotClk : s.draw.2.slotClk = s.slotClk := rfl
@[simp] theorem State.draw_pens : s.draw.2.pens = s.pens := rfl
@[simp] theorem State.draw_ports : s.draw.2.ports = s.ports := rfl
@[simp] theorem State.draw_linkStage : s.draw.2.linkStage = s.linkStage := rfl
@[simp] theorem State.draw_linkDone : s.draw.2.linkDone = s.linkDone := rfl
@[simp] theorem State.draw_censusOpen : s.draw.2.censusOpen = s.censusOpen := rfl
@[simp] theorem State.draw_hostMem : s.draw.2.hostMem = s.hostMem := rfl
@[simp] theorem State.draw_rings : s.draw.2.rings = s.rings := rfl
@[simp] theorem State.draw_hifUsed : s.draw.2.hifUsed = s.hifUsed := rfl
@[simp] theorem State.draw_ringNext : s.draw.2.ringNext = s.ringNext := rfl
@[simp] theorem State.draw_evq : s.draw.2.evq = s.evq := rfl
@[simp] theorem State.draw_evLost : s.draw.2.evLost = s.evLost := rfl
@[simp] theorem State.draw_msix : s.draw.2.msix = s.msix := rfl
@[simp] theorem State.draw_fetchPaused : s.draw.2.fetchPaused = s.fetchPaused := rfl
@[simp] theorem State.draw_order : s.draw.2.order = s.order := rfl
@[simp] theorem State.draw_lastAnswer : s.draw.2.lastAnswer = s.lastAnswer := rfl
@[simp] theorem State.draw_lastRead : s.draw.2.lastRead = s.lastRead := rfl
@[simp] theorem State.draw_lastPoison : s.draw.2.lastPoison = s.lastPoison := rfl
@[simp] theorem State.draw_rngFails : s.draw.2.rngFails = s.rngFails := rfl
@[simp] theorem State.draw_rngRun : s.draw.2.rngRun = s.rngRun := rfl
@[simp] theorem State.draw_wx : s.draw.2.wx = s.wx := rfl
@[simp] theorem State.draw_wxInj : s.draw.2.wxInj = s.wxInj := rfl
@[simp] theorem State.draw_wxThr : s.draw.2.wxThr = s.wxThr := rfl
@[simp] theorem State.draw_actDue : s.draw.2.actDue = s.actDue := rfl
@[simp] theorem State.draw_fences : s.draw.2.fences = s.fences := rfl
@[simp] theorem State.draw_fenceDet : s.draw.2.fenceDet = s.fenceDet := rfl
@[simp] theorem State.draw_rotated : s.draw.2.rotated = s.rotated := rfl
@[simp] theorem State.draw_injection : s.draw.2.injection = s.injection := rfl
@[simp] theorem State.draw_keep : s.draw.2.keep = s.keep := rfl
@[simp] theorem State.draw_wear : s.draw.2.wear = s.wear := rfl
@[simp] theorem State.draw_keepQ : s.draw.2.keepQ = s.keepQ := rfl
@[simp] theorem State.draw_heldRetire : s.draw.2.heldRetire = s.heldRetire := rfl
@[simp] theorem State.draw_fuses : s.draw.2.fuses = s.fuses := rfl
@[simp] theorem State.draw_fwA : s.draw.2.fwA = s.fwA := rfl
@[simp] theorem State.draw_fwB : s.draw.2.fwB = s.fwB := rfl
@[simp] theorem State.draw_fwTrial : s.draw.2.fwTrial = s.fwTrial := rfl
@[simp] theorem State.draw_fwActive : s.draw.2.fwActive = s.fwActive := rfl
@[simp] theorem State.draw_ftp : s.draw.2.ftp = s.ftp := rfl
@[simp] theorem State.draw_deviceKey : s.draw.2.deviceKey = s.deviceKey := rfl
@[simp] theorem State.draw_ownerPub : s.draw.2.ownerPub = s.ownerPub := rfl
@[simp] theorem State.draw_ownerKeep : s.draw.2.ownerKeep = s.ownerKeep := rfl
@[simp] theorem State.draw_tamperHead : s.draw.2.tamperHead = s.tamperHead := rfl
@[simp] theorem State.draw_spdm : s.draw.2.spdm = s.spdm := rfl
@[simp] theorem State.draw_power : s.draw.2.power = s.power := rfl
@[simp] theorem State.draw_powerGood : s.draw.2.powerGood = s.powerGood := rfl
@[simp] theorem State.draw_perst : s.draw.2.perst = s.perst := rfl
@[simp] theorem State.draw_perstReleased : s.draw.2.perstReleased = s.perstReleased := rfl
@[simp] theorem State.draw_aonUp : s.draw.2.aonUp = s.aonUp := rfl
@[simp] theorem State.draw_smbusMsg : s.draw.2.smbusMsg = s.smbusMsg := rfl
@[simp] theorem State.draw_waking : s.draw.2.waking = s.waking := rfl
@[simp] theorem State.draw_recovery : s.draw.2.recovery = s.recovery := rfl
@[simp] theorem State.draw_diesStopped : s.draw.2.diesStopped = s.diesStopped := rfl
@[simp] theorem State.draw_computeReset : s.draw.2.computeReset = s.computeReset := rfl
@[simp] theorem State.draw_emergencyOver : s.draw.2.emergencyOver = s.emergencyOver := rfl

end Sys2Proof.Machine
end

