-- ==== Sys2Proof/Laws/Memory.lean ====
section
/-!
SUPPORT. Every operation on the memories and registers keeps their canonical form, and the state after reset has it; and
what a write leaves alone.
-/

namespace Sys2Proof.Machine

/-! ### The canonical form -/

/-- The canonical form depends only on five fields. -/
theorem Memory.wf_congr {s t : State} (h1 : t.hbm = s.hbm) (h2 : t.poison = s.poison) (h3 : t.hostMem = s.hostMem)
    (h4 : t.badLines = s.badLines) (h5 : t.regs = s.regs) : Memory.wf t = Memory.wf s := by
  simp [Memory.wf, h1, h2, h3, h4, h5]

theorem Memory.wf_iff (s : State) : Memory.wf s = true ↔
    SMap.sortedFrom none s.hbm = true ∧ SMap.sortedFrom none s.poison = true ∧ SMap.sortedFrom none s.hostMem = true ∧
    SMap.wf (fun _ => false) s.badLines = true ∧ SMap.wf regDefault s.regs = true := by
  simp [Memory.wf, Bool.and_eq_true, and_assoc]

theorem sorted_putList (bs : List Byte) (m : SMap Byte) (a : Nat) (h : SMap.sortedFrom none m = true) :
    SMap.sortedFrom none (putList m a bs) = true := by
  induction bs generalizing m a with
  | nil => exact h
  | cons b t ih => exact ih _ _ (SMap.sorted_put m a b h)

section
variable (s : State)

@[simp] theorem Memory.wf_setCore (k : Nat) (c : Core) : Memory.wf (s.setCore k c) = Memory.wf s := rfl
@[simp] theorem Memory.wf_setPen (p : Nat) (x : PenS) : Memory.wf (s.setPen p x) = Memory.wf s := rfl
@[simp] theorem Memory.wf_setPort (p : Nat) (x : XPort) : Memory.wf (s.setPort p x) = Memory.wf s := rfl
@[simp] theorem Memory.wf_setBay (b : Nat) (x : Bay) : Memory.wf (s.setBay b x) = Memory.wf s := rfl
@[simp] theorem Memory.wf_setUnit (b : Nat) (x : UnitS) : Memory.wf (s.setUnit b x) = Memory.wf s := rfl
@[simp] theorem Memory.wf_setRing (r : Nat) (x : RingS) : Memory.wf (s.setRing r x) = Memory.wf s := rfl
@[simp] theorem Memory.wf_onCore (k : Nat) (f : Core → Core) : Memory.wf (s.onCore k f) = Memory.wf s := rfl
@[simp] theorem Memory.wf_onPen (p : Nat) (f : PenS → PenS) : Memory.wf (s.onPen p f) = Memory.wf s := rfl
@[simp] theorem Memory.wf_setJob (p : Nat) (j : Option Job) : Memory.wf (s.setJob p j) = Memory.wf s := rfl
@[simp] theorem Memory.wf_onJob (p : Nat) (f : Job → Job) : Memory.wf (s.onJob p f) = Memory.wf s := rfl
@[simp] theorem Memory.wf_onPort (p : Nat) (f : XPort → XPort) : Memory.wf (s.onPort p f) = Memory.wf s := rfl
@[simp] theorem Memory.wf_onBay (b : Nat) (f : Bay → Bay) : Memory.wf (s.onBay b f) = Memory.wf s := rfl
@[simp] theorem Memory.wf_onRing (r : Nat) (f : RingS → RingS) : Memory.wf (s.onRing r f) = Memory.wf s := rfl
@[simp] theorem Memory.wf_draw : Memory.wf s.draw.2 = Memory.wf s := rfl
@[simp] theorem Memory.wf_drawNat (w : Nat) : Memory.wf (s.drawNat w).2 = Memory.wf s := rfl

variable {s}

theorem Memory.wf_setReg (h : Memory.wf s = true) (n : RegName) (x : Word64) (ix fn : Nat) :
    Memory.wf (s.setReg n x ix fn) = true := by
  rw [Memory.wf_iff] at h ⊢
  obtain ⟨h1, h2, h3, h4, h5⟩ := h
  exact ⟨h1, h2, h3, h4, SMap.wf_set _ _ _ _ h5⟩

theorem Memory.wf_setFld (h : Memory.wf s = true) (n : RegName) (lo w v ix fn : Nat) :
    Memory.wf (s.setFld n lo w v ix fn) = true := Memory.wf_setReg h _ _ _ _

theorem Memory.wf_bump (h : Memory.wf s = true) (n : RegName) (lo w ix d fn : Nat) :
    Memory.wf (s.bump n lo w ix d fn) = true := Memory.wf_setFld h _ _ _ _ _ _

theorem Memory.wf_bumpFree (h : Memory.wf s = true) (n : RegName) (lo w ix : Nat) :
    Memory.wf (s.bumpFree n lo w ix) = true := Memory.wf_bump (by simpa using h) _ _ _ _ _ _

theorem Memory.wf_setFree (h : Memory.wf s = true) (n : RegName) (lo w ix : Nat) :
    Memory.wf (s.setFree n lo w ix) = true := Memory.wf_setFld (by simpa using h) _ _ _ _ _ _

theorem Memory.wf_drawWide (n : Nat) (h : Memory.wf s = true) : Memory.wf (State.drawWide n s).2 = true := by
  induction n generalizing s with
  | zero => exact h
  | succ n ih => exact ih (s := s.draw.2) (by simpa using h)

theorem Memory.wf_post (h : Memory.wf s = true) (fn code step : Nat) (fs : List EvField) :
    Memory.wf (s.post fn code step fs) = true := by
  unfold State.post
  dsimp only
  split
  · exact h
  · exact Memory.wf_bump h _ _ _ _ _ _

theorem Memory.wf_postPen (h : Memory.wf s = true) (pen code step : Nat) (fs : List EvField) :
    Memory.wf (s.postPen pen code step fs) = true := by
  unfold State.postPen
  split
  · exact Memory.wf_post h _ _ _ _
  · exact h

theorem Memory.wf_postBoth (h : Memory.wf s = true) (pen code step : Nat) (fs : List EvField) :
    Memory.wf (s.postBoth pen code step fs) = true := by
  unfold State.postBoth
  refine Memory.wf_post ?_ _ _ _ _
  split
  · exact Memory.wf_post h _ _ _ _
  · exact h

theorem Memory.wf_hostWrite (h : Memory.wf s = true) (a : Nat) (bs : List Byte) :
    Memory.wf (s.hostWrite a bs) = true := by
  rw [Memory.wf_iff] at h ⊢
  obtain ⟨h1, h2, h3, h4, h5⟩ := h
  exact ⟨h1, h2, sorted_putList _ _ _ h3, h4, h5⟩

theorem Memory.wf_markLine (h : Memory.wf s = true) (l : Nat) (p : Bool) : Memory.wf (s.markLine l p) = true := by
  rw [Memory.wf_iff] at h ⊢
  obtain ⟨h1, h2, h3, h4, h5⟩ := h
  exact ⟨h1, SMap.sorted_put _ _ _ h2, h3, h4, h5⟩

theorem Memory.wf_setBytes (h : Memory.wf s = true) (a : Nat) (bs : List Byte) :
    Memory.wf (s.setBytes a bs) = true := by
  rw [Memory.wf_iff] at h ⊢
  obtain ⟨h1, h2, h3, h4, h5⟩ := h
  exact ⟨sorted_putList _ _ _ h1, h2, h3, h4, h5⟩

theorem Memory.wf_setBad (h : Memory.wf s = true) (l : Nat) (b : Bool) : Memory.wf (s.setBad l b) = true := by
  rw [Memory.wf_iff] at h ⊢
  obtain ⟨h1, h2, h3, h4, h5⟩ := h
  exact ⟨h1, h2, h3, SMap.wf_set _ _ _ _ h4, h5⟩

theorem Memory.wf_writeLine (h : Memory.wf s = true) (line off : Nat) (bs : List Byte) (p : Bool) :
    Memory.wf (s.writeLine line off bs p) = true := by
  unfold State.writeLine
  dsimp only
  refine Memory.wf_markLine (Memory.wf_setBytes (Memory.wf_setBad ?_ _ _) _ _) _ _
  split
  · exact Memory.wf_setBytes h _ _
  · exact h

theorem Memory.wf_devWriteAux (n : Nat) (h : Memory.wf s = true) (dpa : Nat) (bs : List Byte) (p : Bool) :
    Memory.wf (State.devWriteAux n s dpa bs p) = true := by
  induction n generalizing s dpa bs with
  | zero => exact h
  | succ n ih =>
    unfold State.devWriteAux
    split
    · exact h
    · exact ih (Memory.wf_writeLine h _ _ _ _) _ _

theorem Memory.wf_devWrite (h : Memory.wf s = true) (dpa : Nat) (bs : List Byte) (p : Bool) :
    Memory.wf (s.devWrite dpa bs p) = true := Memory.wf_devWriteAux _ h _ _ _

theorem Memory.wf_touchVa (h : Memory.wf s = true) (pen : Nat) (isWrite : Bool) (va : Nat) : Memory.wf (s.touchVa pen isWrite va) = true := by
  unfold State.touchVa
  split
  · exact h
  · exact h

theorem Memory.wf_vaWriteAux (pen : Nat) (p : Bool) (n : Nat) (h : Memory.wf s = true) (va : Nat) (bs : List Byte) :
    Memory.wf (State.vaWriteAux pen p n s va bs) = true := by
  induction n generalizing s va bs with
  | zero => exact h
  | succ n ih =>
    unfold State.vaWriteAux
    split
    · exact h
    · refine ih ?_ _ _
      split
      · exact Memory.wf_writeLine (Memory.wf_touchVa h _ _ _) _ _ _ _
      · exact h

theorem Memory.wf_vaWrite (h : Memory.wf s = true) (pen va : Nat) (bs : List Byte) (p : Bool) :
    Memory.wf (s.vaWrite pen va bs p) = true := Memory.wf_vaWriteAux _ _ _ h _ _

end

/-! ### Reading after writing -/

theorem putList_find_before (bs : List Byte) (m : SMap Byte) (a x : Nat) (h : x < a) :
    SMap.find (putList m a bs) x = SMap.find m x := by
  induction bs generalizing m a with
  | nil => rfl
  | cons b t ih =>
    rw [putList, ih _ _ (by omega), SMap.find_put_ne _ _ _ _ (by omega)]

theorem putList_find_after (bs : List Byte) (m : SMap Byte) (a x : Nat) (h : a + bs.length ≤ x) :
    SMap.find (putList m a bs) x = SMap.find m x := by
  induction bs generalizing m a with
  | nil => rfl
  | cons b t ih =>
    simp only [List.length_cons] at h
    rw [putList, ih _ _ (by omega), SMap.find_put_ne _ _ _ _ (by omega)]

theorem putList_find_in (bs : List Byte) (m : SMap Byte) (a i : Nat) (h : i < bs.length) :
    SMap.find (putList m a bs) (a + i) = some (bs[i]) := by
  induction bs generalizing m a i with
  | nil => simp at h
  | cons b t ih =>
    cases i with
    | zero =>
      rw [putList, putList_find_before _ _ _ _ (by omega)]
      simp [SMap.find_put_self]
    | succ i =>
      have h' : i < t.length := by simpa using h
      have := ih (SMap.put m a b) (a + 1) i h'
      rw [putList, show a + (i + 1) = a + 1 + i by omega, this]
      simp

/-- A byte of host memory reads as written. -/
theorem State.hostByte_hostWrite_in (s : State) (a i : Nat) (bs : List Byte) (h : i < bs.length) :
    (s.hostWrite a bs).hostByte (a + i) = bs[i] := by
  simp [State.hostByte, State.hostWrite, putList_find_in _ _ _ _ h]

/-- A byte of host memory outside the bytes written keeps its value. -/
theorem State.hostByte_hostWrite_out (s : State) (a x : Nat) (bs : List Byte) (h : x < a ∨ a + bs.length ≤ x) :
    (s.hostWrite a bs).hostByte x = s.hostByte x := by
  rcases h with h | h
  · simp [State.hostByte, State.hostWrite, putList_find_before _ _ _ _ h]
  · simp [State.hostByte, State.hostWrite, putList_find_after _ _ _ _ h]

end Sys2Proof.Machine
end

