-- ==== Sys2Proof/Laws/Wire.lean ====
section
/-!
SUPPORT. Laws of the bytes on a lane: a field reads back what was laid out, and the CRC of a flit covers its other bytes.
-/

namespace Sys2Proof.Machine

/-! ### Fields of byte lists -/

@[simp] theorem length_le (n x : Nat) : (le n x).length = n := by simp [le]

@[simp] theorem length_zeros (n : Nat) : (zeros n).length = n := by simp [zeros]

@[simp] theorem length_fit (n : Nat) (bs : List Byte) : (fit n bs).length = n := by simp [fit]

/-- A list of the length asked for is not changed. -/
theorem fit_of_length {n : Nat} {bs : List Byte} (h : bs.length = n) : fit n bs = bs := by
  subst h; simp [fit]

/-- The part of a list that stands between two others. -/
theorem slice_append {a b c : List Byte} {off n : Nat} (ha : a.length = off) (hb : b.length = n) : slice (a ++ b ++ c) off n = b := by
  subst ha hb; simp [slice, fit]

/-- Bytes laid out from a number spell it, modulo their number. -/
theorem leNum_le (n x : Nat) : leNum (le n x) = x % 256 ^ n := by
  induction n generalizing x with
  | zero => simp [le, leNum, Nat.mod_one]
  | succ n ih =>
    have h : le (n + 1) x = BitVec.ofNat 8 x :: le n (x / 256) := by
      simp [le, List.range_succ_eq_map, Function.comp_def, Nat.pow_succ', Nat.div_div_eq_div_mul]
    rw [h]
    have e : leNum (BitVec.ofNat 8 x :: le n (x / 256)) = x % 256 + 256 * leNum (le n (x / 256)) := by simp [leNum]
    rw [e, ih, Nat.pow_succ', Nat.mod_mul]

/-! ### Flits (R346, R347) -/

/-- A flit is good exactly when its CRC field holds the CRC of its other bytes. -/
theorem flitGood_parts {h body : List Byte} (n : Nat) (hh : h.length = 56) (hb : body.length = 576) :
    flitGood (h ++ le 8 n ++ body) = decide (n % 2 ^ 64 = (crc64 (h ++ body)).toNat) := by
  have e1 : slice (h ++ le 8 n ++ body) 0x38 8 = le 8 n := slice_append hh (length_le 8 n)
  have e2 : slice (h ++ le 8 n ++ body) 0 0x38 = h := by
    have := slice_append (a := []) (b := h) (c := le 8 n ++ body) (off := 0) rfl hh
    simpa using this
  have e3 : slice (h ++ le 8 n ++ body) 0x40 0x240 = body := by
    have := slice_append (a := h ++ le 8 n) (b := body) (c := []) (off := 64) (by simp [hh]) hb
    simpa using this
  simp only [flitGood, flitCrc, fieldAt, e1, e2, e3, leNum_le]
  rfl

@[simp] theorem length_controlSlot (f : Flit) : (controlSlot f).length = 56 := by
  cases f with
  | mk kind nak replayed fseq ackSeq slots credits =>
    cases kind with
    | control c => cases c <;> simp [controlSlot, ctlBytes]
    | _ => simp [controlSlot]

@[simp] theorem length_flitBytes (f : Flit) : (flitBytes f).length = 640 := by simp [flitBytes]

/-- A flit as it is sent has a right CRC. -/
theorem flitGood_flitBytes (f : Flit) : flitGood (flitBytes f) = true := by
  rw [flitBytes, flitGood_parts _ (length_controlSlot f) (length_fit 576 _)]
  exact decide_eq_true (Nat.mod_eq_of_lt (BitVec.isLt _))

/-- A flit whose CRC field is one off is not good. -/
theorem flitGood_wrong {h body : List Byte} (hh : h.length = 56) (hb : body.length = 576) :
    flitGood (h ++ le 8 ((crc64 (h ++ body)).toNat + 1) ++ body) = false := by
  rw [flitGood_parts _ hh hb]
  have := (crc64 (h ++ body)).isLt
  exact decide_eq_false (by omega)

end Sys2Proof.Machine
end

