-- ==== Sys2Proof/WellFormed.lean ====
section
/-!
DEFINITION. Which commands are well formed: each operand in the range its encoding or its source can give.  The
operands with a bounded type (register numbers, bays, ports, functions, rings) need no check.
-/

namespace Sys2Proof

/-- A pen number exists: 1 to 12 (R572). -/
def penOk (p : Pen) : Bool := decide (1 ≤ p) && decide (p ≤ 12)

/-- A core reference exists: a pen and one of at most 144 logical cores (R51). -/
def CoreRef.ok (u : CoreRef) : Bool := penOk u.pen && decide (u.logical < 144)

/-- A lane of a port (R341). -/
def laneOk (lane : Nat) : Bool := decide (lane < 8)

/-- A physical site (R48). -/
def siteOk (site : Nat) : Bool := decide (site < 168)

/-- A detector value of R507. -/
def detectorOk (detector : Nat) : Bool := decide (1 ≤ detector) && decide (detector ≤ 22)

/-- The segment field of a reduction (R248): the log of the number of segments, 0 to log2 of at most 512 elements. -/
def segOk (seg : Nat) : Bool := decide (seg ≤ 9)

/-- A codeword has 514 payload symbols, and its symbols in error are different ones of the 544 (R341, R343). -/
def Codeword.ok (c : Codeword) : Bool :=
  decide (c.payload.length = 514) && c.errs.all (fun e => decide (e.1 < 544) && decide (e.2 ≠ 0#10)) && decide ((c.errs.map Prod.fst).Nodup)

/-- A message is one the header of R356 can hold. -/
def LinkMsg.ok (m : LinkMsg) : Bool :=
  decide (1 ≤ m.mtype) && decide (m.mtype ≤ 3) &&
  (decide (m.group < 64) || decide (m.group = 0x7F)) &&
  decide (m.srcPort < 12) && decide (m.hop < 8) && decide (m.grpCharge < 3) && decide (m.charge ≤ 65) &&
  decide (m.dstVa < 2 ^ 48) && decide (m.ctr < 2 ^ 64) &&
  decide (m.lines.length ≤ 64) && m.lines.all (fun l => decide (l.length = 64)) &&
  (decide (m.mtype = 1) || decide (m.lines.length = 0))

/-- A write of at most one line, within the line (R288). -/
def lineWriteOk (off : Nat) (data : List Byte) : Bool := decide (off + data.length ≤ 64)

/-- An access within BAR0 (R616): any length and alignment, those that reach no register being accesses to an undefined offset (R17). -/
def bar0Ok (off len : Nat) : Bool := decide (1 ≤ len) && decide (off + len ≤ 2 ^ 26)

/-- Whether a command is well formed. -/
def Instr.wf : Instr → Bool
  | .nop u => u.ok
  | .endProg u => u.ok
  | .coreEnded u => u.ok
  | .li u _ _ => u.ok
  | .lih u _ _ _ => u.ok
  | .addi u _ _ _ => u.ok
  | .add u _ _ _ => u.ok
  | .sub u _ _ _ => u.ok
  | .mul u _ _ _ => u.ok
  | .mulhu u _ _ _ => u.ok
  | .andS u _ _ _ => u.ok
  | .orS u _ _ _ => u.ok
  | .xorS u _ _ _ => u.ok
  | .shl u _ _ _ => u.ok
  | .shr u _ _ _ => u.ok
  | .sra u _ _ _ => u.ok
  | .minS u _ _ _ => u.ok
  | .maxS u _ _ _ => u.ok
  | .minu u _ _ _ => u.ok
  | .maxu u _ _ _ => u.ok
  | .slt u _ _ _ => u.ok
  | .sltu u _ _ _ => u.ok
  | .sel u _ _ _ _ => u.ok
  | .sld u _ _ _ => u.ok
  | .sldW u _ _ _ => u.ok
  | .sst u _ _ _ => u.ok
  | .sstW u _ _ _ => u.ok
  | .br u _ => u.ok
  | .bc u _ _ _ _ => u.ok
  | .lbeg u _ _ _ _ => u.ok
  | .sigAdd u _ _ _ _ => u.ok
  | .waitGe u _ _ _ => u.ok
  | .waitEq u _ _ _ => u.ok
  | .waitRelease u => u.ok
  | .syncFence u => u.ok
  | .fenceRelease u => u.ok
  | .csrr u _ _ => u.ok
  | .csrw u _ _ => u.ok
  | .csrc u _ _ => u.ok
  | .vadd u _ _ _ _ _ _ _ => u.ok
  | .vsub u _ _ _ _ _ _ _ => u.ok
  | .vmul u _ _ _ _ _ _ => u.ok
  | .vfma u _ _ _ _ _ _ _ => u.ok
  | .vmin u _ _ _ _ _ => u.ok
  | .vmax u _ _ _ _ _ => u.ok
  | .vabs u _ _ _ _ => u.ok
  | .vneg u _ _ _ _ => u.ok
  | .vcopysign u _ _ _ _ _ => u.ok
  | .vdiv u _ _ _ _ _ => u.ok
  | .vrecip u _ _ _ _ => u.ok
  | .vsqrt u _ _ _ _ => u.ok
  | .vrsqrt u _ _ _ _ => u.ok
  | .vexp u _ _ _ => u.ok
  | .vexp2 u _ _ _ => u.ok
  | .vlog u _ _ _ => u.ok
  | .vtanh u _ _ _ => u.ok
  | .vsigmoid u _ _ _ => u.ok
  | .verf u _ _ _ => u.ok
  | .vgelu u _ _ _ => u.ok
  | .vand u _ _ _ _ _ => u.ok
  | .vor u _ _ _ _ _ => u.ok
  | .vxor u _ _ _ _ _ => u.ok
  | .vshl u _ _ _ _ _ => u.ok
  | .vshr u _ _ _ _ _ => u.ok
  | .vsra u _ _ _ _ _ => u.ok
  | .vcmp u _ _ _ _ _ _ => u.ok
  | .vsel u _ _ _ _ _ => u.ok
  | .vmov u _ _ _ _ => u.ok
  | .vbcast u _ _ _ _ => u.ok
  | .vext u _ _ _ _ _ => u.ok
  | .vrot u _ _ _ _ => u.ok
  | .vcvt u _ _ _ _ _ _ _ _ _ _ _ => u.ok
  | .vcrest u _ _ _ _ => u.ok
  | .vld u _ _ _ _ _ => u.ok
  | .vst u _ _ _ _ _ => u.ok
  | .vred u _ _ _ _ _ _ _ seg _ _ => u.ok && segOk seg
  | .vlfComb u _ _ _ _ _ => u.ok
  | .vlfDrain u _ _ _ _ _ => u.ok
  | .pand u _ _ _ _ => u.ok
  | .por u _ _ _ _ => u.ok
  | .pxor u _ _ _ _ => u.ok
  | .pnot u _ _ _ => u.ok
  | .pset u _ _ _ => u.ok
  | .manc u _ _ _ _ => u.ok
  | .mancChain u _ _ _ => u.ok
  | .mtile u _ _ _ _ _ => u.ok
  | .mtileFirst u _ _ _ _ _ => u.ok
  | .mtileFirstSwap u _ _ _ _ _ => u.ok
  | .mtileX3 u _ _ _ => u.ok
  | .mtileX3First u _ _ _ => u.ok
  | .mtileX3FirstSwap u _ _ _ => u.ok
  | .mswap u => u.ok
  | .tilePass u => u.ok
  | .strictRerun u => u.ok
  | .mloadLf u _ => u.ok
  | .mloadWlf u _ => u.ok
  | .mdrain u _ _ _ _ _ _ _ _ _ => u.ok
  | .mdrainLf u _ => u.ok
  | .mdrainWlf u _ => u.ok
  | .drainComplete u => u.ok
  | .mchain u _ _ _ _ _ _ _ _ _ _ _ => u.ok
  | .mxfer u _ _ _ _ _ _ _ => u.ok
  | .mscanCrest u _ _ _ _ _ _ _ => u.ok
  | .mscanCmax u _ _ _ _ _ _ _ => u.ok
  | .mstop u _ => u.ok
  | .dld u _ _ _ => u.ok
  | .dst u _ _ _ => u.ok
  | .dset u _ _ _ => u.ok
  | .moverCommandStart u _ => u.ok
  | .moverReadReturn u _ => u.ok
  | .moverUnitWrite u _ => u.ok
  | .moverGateOpen u _ => u.ok
  | .attachedSignalApply u _ => u.ok
  | .moverSquashDone u _ => u.ok
  | .crestedGroupWrite u _ => u.ok
  | .packetArrive _ => true
  | .packetInject u => u.ok
  | .balanceCheck pen => penOk pen
  | .lateItemStop pen _ => penOk pen
  | .lateItemRestart pen => penOk pen
  | .turnEnd pen => penOk pen
  | .quiesceEnd pen => penOk pen
  | .exchangeEnd pen => penOk pen
  | .stepT0 pen => penOk pen
  | .entryBundle pen => penOk pen
  | .gateRaise pen => penOk pen
  | .sweepStart pen _ => penOk pen
  | .sweepComplete pen => penOk pen
  | .unop _ => true
  | .uadd _ _ _ _ => true
  | .usub _ _ _ _ => true
  | .umul _ _ _ _ => true
  | .ufma _ _ _ _ _ => true
  | .umin _ _ _ _ => true
  | .umax _ _ _ _ => true
  | .uabs _ _ _ => true
  | .uneg _ _ _ => true
  | .ucopysign _ _ _ _ => true
  | .udiv _ _ _ _ => true
  | .urecip _ _ _ => true
  | .usqrt _ _ _ => true
  | .ursqrt _ _ _ => true
  | .uexp _ _ _ => true
  | .uexp2 _ _ _ => true
  | .ulog _ _ _ => true
  | .utanh _ _ _ => true
  | .usigmoid _ _ _ => true
  | .uerf _ _ _ => true
  | .ugelu _ _ _ => true
  | .ult _ _ _ _ => true
  | .usel _ _ _ _ _ => true
  | .uldk _ _ _ => true
  | .usign _ _ _ => true
  | .ubsum _ _ _ => true
  | .ubmax _ _ _ => true
  | .voteReceive pen _ _ => penOk pen
  | .sendDrainComplete pen => penOk pen
  | .resyncDone pen => penOk pen
  | .voteTimeout pen => penOk pen
  | .memRead _ line _ => decide (line < 2 ^ 30)
  | .memWrite _ line off data _ _ => decide (line < 2 ^ 30) && lineWriteOk off data
  | .refresh _ => true
  | .stackTempChange _ _ => true
  | .patrol _ _ => true
  | .boundaryWork pen _ => penOk pen
  | .windowCommit _ => true
  | .commitCheckDone pen => penOk pen
  | .winDataAccess _ _ _ => true
  | .codewordReceive _ lane payload errs => laneOk lane && Codeword.ok ⟨payload, errs⟩
  | .lossOfLock _ lane => laneOk lane
  | .flitReceive _ logical => laneOk logical
  | .retryBudgetExhausted _ => true
  | .retrainDone _ _ => true
  | .identity _ _ => true
  | .lanes _ _ _ => true
  | .retrain _ => true
  | .messageSend _ => true
  | .write _ msg => msg.ok
  | .signal _ msg => msg.ok
  | .ack _ msg => msg.ok
  | .ackTimer _ _ _ => true
  | .messageForward _ msg => msg.ok
  | .altRouteTimeout _ => true
  | .linkLost _ => true
  | .laneWindowEnd _ _ => true
  | .laneRetire _ _ lane => laneOk lane
  | .synthLock _ => true
  | .synthTimeout _ => true
  | .trainingAttempt _ => true
  | .trainingComplete _ _ skews _ => decide (skews.length = 8)
  | .berWindowEnd _ _ => true
  | .censusClose => true
  | .partnerRemoved _ => true
  | .linkStageBegin => true
  | .linkStageEnd => true
  | .train p _ => decide (p < 16)
  | .idle p _ => decide (p < 16)
  | .clearCounts p _ => decide (p < 16)
  | .closeDeadline pen group => penOk pen && decide (group < 64)
  | .siteFence site detector => siteOk site && detectorOk detector
  | .adoptionDone pen => penOk pen
  | .replayDone pen => penOk pen
  | .faultDetect _ detector _ => detectorOk detector
  | .yokeCheckMismatch pen logical => penOk pen && decide (logical < 144)
  | .siteTestResult site _ _ _ => siteOk site
  | .wxBucket => true
  | .injArm _ => true
  | .injCancel _ => true
  | .noiseWindow _ => true
  | .rngStartupTest _ => true
  | .rngRetry _ => true
  | .cmdNop _ => true
  | .dmaH2d _ => true
  | .dmaD2h _ => true
  | .jobLoad _ => true
  | .jobUnload _ => true
  | .jobAbort _ => true
  | .stepRelease _ => true
  | .seedSet _ => true
  | .seedDraw _ => true
  | .yokeCheck _ => true
  | .snapshot _ => true
  | .ckptArm _ => true
  | .buddyReceive _ => true
  | .restore _ => true
  | .restoreFinish _ _ => true
  | .ledgerImport _ _ => true
  | .journalExport _ => true
  | .ftpLoad _ => true
  | .ckptWrite pen _ => penOk pen
  | .ckptComplete pen => penOk pen
  | .ckptBuddyTimeout pen => penOk pen
  | .doorbell _ _ _ => true
  | .commandFetch _ => true
  | .eventPost _ => true
  | .interrupt _ => true
  | .ringEnable _ _ => true
  | .bar4Access _ _ _ => true
  | .stepLimitExpiry pen => penOk pen
  | .authMailboxGo => true
  | .loadDeviceSection _ => true
  | .ringAllocation _ => true
  | .setAuthority _ => true
  | .takeOwnership _ => true
  | .releaseOwnership _ => true
  | .fwWrite _ => true
  | .fwActivate _ => true
  | .fwCommit _ => true
  | .mgmtRestart _ => true
  | .writePolicy _ => true
  | .clearLedgerEntry _ => true
  | .clearBayAct _ => true
  | .clearTamperLog _ => true
  | .authFtpLoad _ => true
  | .claimWindowEnd => true
  | .getVersion _ => true
  | .getCapabilities _ _ => true
  | .negotiateAlgorithms _ _ => true
  | .getDigests _ => true
  | .getCertificate _ _ _ _ => true
  | .challenge _ _ _ => true
  | .getMeasurements _ _ => true
  | .keyExchange _ _ _ _ => true
  | .finish _ _ => true
  | .keyUpdate _ _ => true
  | .heartbeat _ => true
  | .endSession _ => true
  | .penReset _ pen => penOk pen
  | .teardownQuiesceDone pen => penOk pen
  | .scrubDone pen => penOk pen
  | .cryptoEraseDone pen => penOk pen
  | .penCreate pen => penOk pen
  | .tamperAlarm _ _ => true
  | .powerGood _ _ => true
  | .inputLoss => true
  | .overvoltage _ _ => true
  | .perstAssert => true
  | .perstDeassert => true
  | .smbusWake => true
  | .startupStageDone _ => true
  | .stageTimeout => true
  | .computeReset _ => true
  | .computeResetDone _ => true
  | .keepRequest _ => true
  | .keepWriteDone => true
  | .thermalSample _ _ => true
  | .thermalEmergencyEnd => true
  | .pllLockLoss _ => true
  | .powerAverage _ _ _ => true
  | .fntabRead _ => true
  | .journalAck _ pen _ => penOk pen
  | .rwkWrite _ off len _ => bar0Ok off len
  | .registerWrite _ off len _ => bar0Ok off len
  | .undefinedOffsetAccess _ off len => bar0Ok off len
  | .signalDetect _ => true
  | .frameTransmit _ => true
  | .hotReset => true
  | .alertResponseAddressRead => true
  | .alwaysOnDomainUp => true
  | .chainEnd u => u.ok
  | .commandCompletion _ _ => true

end Sys2Proof
end

