-- ==== Sys2Proof/Tests/Slice0.lean ====
section
/-!
SUPPORT. Tests of the model on small states: the well-formedness checks, single steps whose results are worked out from the spec's
tables, and for each statement a state and operands that meet its hypotheses.
-/

namespace Sys2Proof.Tests

open Sys2Proof Sys2Proof.Machine Sys2Proof.Claims

set_option Elab.async false

/-! ### Small states -/

/-- Core 0 of pen 1. -/
def u0 : CoreRef := ⟨1, 0⟩

/-- Pen 1 with bay 0 and a job. -/
def withJob1 (j : Job) : State := { pens := [(1, { present := true, bays := 1#12, job := some j })] }

/-- The job of the tests: two cores of one image. -/
def job2 : Job := { rows := 1, coreImage := [(0, 0), (1, 0)], place := [(0, [0]), (1, [1])] }

/-- Core 0 of pen 1 in a given record. -/
def withCore (c : Core) : State := { withJob1 job2 with cores := [(256, c)] }

/-- A core that runs with given registers, its first 4,096 bytes of scratchpad readable and writable. -/
def running (rf : RegFile) : Core :=
  { run := .running, rf := rf, rf0 := rf, cfg := { regions := [⟨0, true, true, false, 0, 4096⟩], granted := [5], counters := [(5, 0#32)] } }

/-- A state whose core 0 runs with given registers. -/
def run1 (rf : RegFile) : State := withCore (running rf)

/-- Three scalar registers with values. -/
def regs3 (a b c : Word64) : RegFile := { s := [(1, a), (2, b), (3, c)] }

/-- Whether a core of an outcome satisfies a test. -/
def coreAfter (o : Out) (k : Nat) (f : Core → Bool) : Bool := match o with | .next t => f (t.core k) | _ => false

/-- Whether the state of an outcome satisfies a test. -/
def after1 (o : Out) (f : State → Bool) : Bool := match o with | .next t => f t | _ => false

/-- Whether an outcome is a next state that equals the one given. -/
def nextIs (o : Out) (t : State) : Bool := match o with | .next t' => decide (t' = t) | _ => false

/-- Whether an outcome is a fault. -/
def faults (o : Out) : Bool := match o with | .fault _ => true | _ => false

/-! ### Well-formedness: each check refuses an ill-formed term -/

theorem test_wf_accepts : (Instr.add u0 4 1 2).wf = true := by decide
theorem test_wf_pen_zero : (Instr.nop ⟨0, 0⟩).wf = false := by decide
theorem test_wf_pen_thirteen : (Instr.nop ⟨13, 0⟩).wf = false := by decide
theorem test_wf_logical_144 : (Instr.nop ⟨1, 144⟩).wf = false := by decide
theorem test_wf_segments : (Instr.vred u0 false none 0 0 0 0 0 10 .product .fp32).wf = false := by decide
theorem test_wf_lane : (Instr.lossOfLock 0 8).wf = false := by decide
theorem test_wf_line : (Instr.memRead 0 (2 ^ 30) ⟨.good, .good⟩).wf = false := by decide
theorem test_wf_line_write : (Instr.memWrite 0 0 63 [1#8, 2#8] false ⟨.good, .good⟩).wf = false := by decide
theorem test_wf_port : (Instr.train 16 .operator).wf = false := by decide
theorem test_wf_group : (Instr.closeDeadline 1 64).wf = false := by decide
theorem test_wf_site : (Instr.siteFence 168 2).wf = false := by decide
theorem test_wf_detector : (Instr.siteFence 0 23).wf = false := by decide
theorem test_wf_message : (Instr.write 0 { mtype := 4, jobTag := 0#16, srcDev := 0#16, dstDev := 0#16, srcPort := 0 }).wf = false := by decide
theorem test_wf_run_segments : (Instr.codewordReceive 0 8 [] []).wf = false := by decide
theorem test_wf_logical_lane : (Instr.flitReceive 0 8).wf = false := by decide
theorem test_wf_skews : (Instr.trainingComplete 0 0xFF#8 [] 0#8).wf = false := by decide
theorem test_wf_register_length : (Instr.registerWrite 0 0 0 0#64).wf = false := by decide
theorem test_wf_register_range : (Instr.registerWrite 0 (2 ^ 26) 8 0#64).wf = false := by decide

/-! ### The queue and the step -/

/-- A step with one command in front of another. -/
theorem test_step_takes_the_front :
    nextIs (step { State.reset with pending := [.nop u0, .wxBucket] }) { State.reset with pending := [.wxBucket] } = true := by decide +kernel

theorem test_idle_step : nextIs (step State.reset) State.reset = true := by decide +kernel

theorem test_missing_line_faults : faults (exec (.memRead 0 stackLines ⟨.good, .good⟩) State.reset) = true := by decide +kernel

theorem witness_EveryStepKeepsCanonicalForm :
    Memory.wf State.reset = true ∧ (∃ t, step { State.reset with pending := [.memWrite 0 0 0 [7#8] false ⟨.good, .good⟩] } = .next t) :=
  ⟨by decide +kernel, _, rfl⟩

theorem witness_QueueIsFirstInFirstOut : State.reset.pending = [] ∧ ∃ t, exec .wxBucket State.reset = .next t := ⟨rfl, _, rfl⟩

/-! ### The control slot -/

/-- The first three slots of a bundle of core 0 have acted; the matrix slot holds the next one; the core's job is stopped. -/
theorem witness_BundlesIssueAsUnits :
    let s := run1 (regs3 1#64 2#64 0#64)
    let full := withCore { running {} with mx := { arrayQ := List.replicate 4 { cmd := .swap, bundle := 0 } } }
    let held := withCore { running {} with held := some 1 }
    let stopped := { s with diesStopped := true }
    slotOf (.add u0 4 1 2) = some (u0, 0) ∧ slotOf (.mswap u0) = some (u0, 1) ∧ slotOf (.vmov u0 .fp32 none 1 2) = some (u0, 2) ∧
    slotOf (.mstop u0 3) = some (u0, 3) ∧ s.job 1 = some job2 ∧ job2.stopped = none ∧ s.diesStopped = false ∧ job2.fenceHold = false ∧
    turnAllows job2 0 = true ∧ (s.core 256).run = .running ∧ (s.core 256).held = none ∧ (found s u0 0).interlocked (.add u0 4 1 2) = false ∧
    s.bundleHeld u0 (found s u0 0) 0 = false ∧ stopped.canIssue u0 0 = false ∧ (held.core 256).held = some 1 ∧
    held.canIssue u0 1 = true ∧ full.canIssue u0 1 = true ∧ full.ready (.mswap u0) u0 1 = false := by decide +kernel

/-- The control slot issues in a core that runs. -/
theorem witness_issue_of_the_control_slot :
    let s := run1 (regs3 4088#64 5#64 0#64)
    ∀ i ∈ ([.add u0 47 1 2, .sld u0 47 1 0#32, .sldW u0 47 1 4#32, .sst u0 2 1 0#32, .sstW u0 2 1 4#32, .nop u0, .endProg u0, .br u0 9#32,
            .bc u0 .eq 1 2 9#32, .lbeg u0 0 4 1 1#16, .sigAdd u0 true 5#8 0 1#32, .sigAdd u0 false 5#8 3 1#32, .waitGe u0 5#8 0 1#32,
            .waitEq u0 5#8 0 1#32, .syncFence u0, .csrr u0 4 2#12, .csrr u0 4 1#12, .csrw u0 1 2#12, .csrc u0 1 2#12,
            .csrc u0 1 0x100#12] : List Instr), s.mayIssue i u0 0 = true := by decide +kernel

theorem witness_ScalarArithmeticWritesItsResult :
    (∃ f srcs, scalarForm (.add u0 47 1 2) = some (u0, 47, f, srcs)) ∧ (47 : SReg).val < 48 := ⟨⟨_, _, rfl⟩, by decide⟩

/-- add wraps at 64 bits (R239). -/
theorem test_add_wraps :
    coreAfter (exec (.add u0 4 1 2) (run1 (regs3 0xFFFFFFFFFFFFFFFF#64 2#64 0#64))) 256 (fun c => c.rf.sGet 4 == 1#64) = true := by
  decide +kernel

/-- s0 discards a write (R230). -/
theorem test_s0_stays_zero :
    coreAfter (exec (.addi u0 0 1 5#32) (run1 (regs3 1#64 0#64 0#64))) 256 (fun c => c.rf.sGet 0 == 0#64) = true := by decide +kernel

/-- mulhu is the high half of the unsigned product (R239). -/
theorem test_mulhu :
    coreAfter (exec (.mulhu u0 4 1 2) (run1 (regs3 0xFFFFFFFFFFFFFFFF#64 0xFFFFFFFFFFFFFFFF#64 0#64))) 256
      (fun c => c.rf.sGet 4 == 0xFFFFFFFFFFFFFFFE#64) = true := by decide +kernel

/-- sra shifts by the low six bits and keeps the sign (R239). -/
theorem test_sra :
    coreAfter (exec (.sra u0 4 1 2) (run1 (regs3 0x8000000000000000#64 68#64 0#64))) 256
      (fun c => c.rf.sGet 4 == 0xF800000000000000#64) = true := by decide +kernel

/-- An instruction that a full queue holds leaves its slot's mark, and the control slot then waits (R229, R235). -/
theorem test_held_bundle :
    let full := withCore { running (regs3 1#64 2#64 0#64) with mx := { arrayQ := List.replicate 4 { cmd := .swap, bundle := 0 } } }
    coreAfter (exec (.mswap u0) full) 256 (fun c => decide (c.held = some 1)) = true ∧
    after1 (exec (.mswap u0) full) (fun t => nextIs (exec (.add u0 4 1 2) t) t) = true := by decide +kernel

theorem witness_load_and_store_forms :
    loadForm (.sld u0 47 1 0#32) = some (u0, 47, 1, 0#32, 8) ∧ storeForm (.sst u0 2 1 0#32) = some (u0, 2, 1, 0#32, 8) := ⟨rfl, rfl⟩

/-- A load and a store at the last aligned place of the region, of a line without a tag and of one with. -/
theorem witness_ScalarLoadsAndStores :
    let s := run1 (regs3 4088#64 5#64 0#64)
    let c := found s u0 0
    let t := withCore { running (regs3 4088#64 5#64 0#64) with spadTag := [(63, some ⟨1, 0⟩)] }
    c.rf0.sBad 1 = false ∧ scalarAddr c 1 0#32 = 4088 ∧ c.spadOk 4088 8 false = true ∧
    c.spadOk 4088 8 true = true ∧ c.lineTag 63 = none ∧ (found t u0 0).lineTag 63 = some ⟨1, 0⟩ ∧
    t.mayIssue (.sld u0 4 1 0#32) u0 0 = true := by decide +kernel

/-- A stored value is loaded little-endian (R12, R239). -/
theorem test_store_then_load :
    (match exec (.sst u0 2 1 0#32) (run1 (regs3 4088#64 0x1122334455667788#64 0#64)) with
     | .next t => (t.core 256).spadByte 4088 == 0x88#8 && (t.core 256).spadByte 4095 == 0x11#8
     | _ => false) = true := by decide +kernel

/-- Out of alignment, outside every region, and with a poisoned base. -/
theorem witness_ScalarFaultsAreRecorded :
    let s := run1 (regs3 4092#64 4096#64 0#64)
    let c := found s u0 0
    let p := run1 { regs3 4092#64 4096#64 0#64 with sPoison := 2#64 }
    s.mayIssue (.sld u0 4 1 0#32) u0 0 = true ∧ s.mayIssue (.sst u0 4 2 0#32) u0 0 = true ∧ p.mayIssue (.sld u0 4 1 0#32) u0 0 = true ∧
    c.rf0.sBad 1 = false ∧ scalarAddr c 1 0#32 % 8 ≠ 0 ∧ scalarAddr c 2 0#32 % 8 = 0 ∧ c.spadOk (scalarAddr c 2 0#32) 8 false = false ∧
    c.spadOk (scalarAddr c 2 0#32) 8 true = false ∧ (found p u0 0).rf0.sBad 1 = true ∧ 255 < 256 ∧ 16383 < 2 ^ 14 := by decide +kernel

/-- A misaligned access ends the job with SPAD_ALIGN in CORE_FAULT_LAST (R267). -/
theorem test_misaligned_load_is_recorded :
    after1 (exec (.sld u0 4 1 0#32) (run1 (regs3 4092#64 0#64 0#64)))
      (fun t => t.fld .coreFaultLast 0 8 0 == 9 && t.fld .coreFaultLast 63 1 0 == 1) = true := by decide +kernel

/-- A loop of one iteration in the scratchpad: one level, bound 1, tier 1 (R194, R240); with bound 0; and of tier 0. -/
theorem witness_ControlFlowOfABundle :
    let s := run1 (regs3 3#64 3#64 4#64)
    let c := found s u0 0
    let one : BitVec 512 := BitVec.ofNat 512 (1 + 64 * 2 ^ 32 + 9 * 2 ^ 480)
    let none_ : BitVec 512 := BitVec.ofNat 512 (64 * 2 ^ 32 + 9 * 2 ^ 480)
    c.rf0.sBad 1 = false ∧ c.rf0.sBad 2 = false ∧ condOf .eq (c.rf0.sGet 1) (c.rf0.sGet 2) ∧ ¬ condOf .ne (c.rf0.sGet 1) (c.rf0.sGet 2) ∧
    0 < (1#16).toNat ∧ descCause one = none ∧ (descOf one).tier = 1 ∧ 0 < (descOf one).total ∧ descCause none_ = none ∧
    (descOf none_).tier = 1 ∧ (descOf none_).total = 0 ∧ (descOf 0#512).tier ≠ 1 := by
  unfold condOf; decide +kernel

/-- A branch taken makes its target the next bundle (R239). -/
theorem test_branch_taken :
    coreAfter (exec (.bc u0 .eq 1 2 9#32) (run1 (regs3 3#64 3#64 4#64))) 256 (fun c => c.npc == 9) = true := by decide +kernel

/-- A counter that is granted and one that is not; to the core itself, to another, and to none of the job. -/
theorem witness_SignalsWaitsAndFences :
    let s := run1 (regs3 1#64 144#64 0#64)
    let c := found s u0 0
    let w := withCore { running {} with run := .waiting 5 true 0#32 }
    let f := withCore { running {} with run := .fencing }
    targetOk (s.jobD 1) 0 = true ∧ s.granted 1 0 5 = true ∧ targetOk (s.jobD 1) (c.rf0.sGet 1).toNat = true ∧
    s.granted 1 0 6 = false ∧ c.rf0.sBad 1 = false ∧ targetOk (s.jobD 1) (c.rf0.sGet 2).toNat = false ∧
    (5#8).toNat ≠ (s.jobD 1).plan.gateCtr ∧ w.unitsRun 1 = true ∧ turnAllows (w.jobD 1) 0 = true ∧ w.bundleHeld u0 (w.core 256) 0 = false ∧
    (w.core 256).run = .waiting 5 true 0#32 ∧ (w.core 256).counter 5 = 0#32 ∧ (f.core 256).run = .fencing ∧ f.fenceHolds u0 = true := by
  decide +kernel

/-- sig.add to the core itself adds modulo 2^32 (R241). -/
theorem test_signal_add_wraps :
    coreAfter (exec (.sigAdd u0 true 5#8 0 0xFFFFFFFF#32) (run1 (regs3 0#64 0#64 0#64))) 256
      (fun c => c.counter 5 == 0xFFFFFFFF#32) = true := by decide +kernel

/-- A wait whose condition does not hold is held, and issues nothing (R242). -/
theorem test_wait_is_held :
    coreAfter (exec (.waitGe u0 5#8 0 1#32) (run1 (regs3 0#64 0#64 0#64))) 256
      (fun c => decide (c.run = .waiting 5 false 1#32)) = true := by decide +kernel

/-- A readable register, one that counts time, the two with bits to clear, and a core whose work is done. -/
theorem witness_ControlRegisterAccess :
    let s := run1 (regs3 31#64 0#64 0#64)
    let e := withCore { running {} with run := .ending }
    csrKnown 2 = true ∧ csrIsTime 2 = false ∧ csrKnown 0x100 = true ∧
    (∃ k, k ∈ List.range 4096 ∧ csrKnown k = true ∧ csrIsTime k = true ∧ s.mayIssue (.csrr u0 4 (BitVec.ofNat 12 k)) u0 0 = true) ∧
    (found s u0 0).rf0.sBad 1 = false ∧ e.unitsRun 1 = true ∧ (e.core 256).run = .ending ∧ (e.core 256).moversIdle = true ∧
    (e.core 256).mxIdle = true := by
  decide +kernel

/-! ### The vector slot -/

/-- The vector slot issues in a core that runs. -/
theorem witness_issue_of_the_vector_slot :
    let s := run1 (regs3 3584#64 128#64 256#64)
    ∀ i ∈ ([.vadd u0 .fp32 .rne false (some 0) 31 1 2, .pnot u0 (some 0) 7 1, .vcmp u0 .int32 .lt none 1 1 2, .vmov u0 .fp32 none 1 2,
            .vbcast u0 .fp32 none 1 2, .vrot u0 none 1 2 3, .vsel u0 .fp32 1 2 3 4, .vext u0 .fp16 none 47 1 2, .vcrest u0 .fp16 none 47 1,
            .vcvt u0 .fp16 .fp32 .rne false 0#2 0#16 0 0 none 4 1, .vld u0 0#12 0 1 none 4, .vst u0 0#12 0 1 none 4,
            .vred u0 true none 48 2 0 1 2 0 .product .fp32, .vlfComb u0 1#16 1 2 3 false, .vlfDrain u0 .fp32 false false 2 4] : List Instr),
      s.mayIssue i u0 2 = true := by decide +kernel

theorem witness_ElementwiseResults :
    ∃ e, elemForm (run1 {}) (.vadd u0 .fp32 .rne false (some 0) 31 1 2) = some e ∧ e.legal = true ∧ e.u = u0 :=
  ⟨_, rfl, by decide +kernel, rfl⟩

/-- 1.0 + 2.0 = 3.0 in every element of FP32 (R107). -/
theorem test_vadd_fp32 :
    let v (w : Word32) : VecWord := BitVec.ofNat 4096 (w.toNat + w.toNat * 2 ^ 4064)
    coreAfter (exec (.vadd u0 .fp32 .rne false none 4 1 2) (run1 { v := [(1, v 0x3F800000#32), (2, v 0x40000000#32)] })) 256
      (fun c => decide (elemGet .fp32 (c.rf.vGet 4) 0 = 0x40400000#32) && decide (elemGet .fp32 (c.rf.vGet 4) 127 = 0x40400000#32)) = true := by
  decide +kernel

theorem witness_PredicateResults :
    (∃ f b, predForm (.pnot u0 (some 0) 7 1) = some (u0, some 0, 7, f, b)) ∧ Fmt.int32 ≠ Fmt.fp32 := ⟨⟨_, _, rfl⟩, by decide⟩

theorem test_pnot :
    coreAfter (exec (.pnot u0 none 3 1) (run1 { p := [(1, 1#128)] })) 256 (fun c => decide (c.rf.pGet 3 = ~~~1#128)) = true := by
  decide +kernel

theorem witness_MovesExtractsAndConversions :
    (47 : SReg).val < 48 ∧ cvtOk false .fp16 .fp32 .rne 0#2 0#16 0 0 = true ∧ (run1 {}).strictOf u0 = false := by decide +kernel

/-- 1.0 in FP32 converts to 1.0 in FP16 (R90). -/
theorem test_vcvt_one :
    coreAfter (exec (.vcvt u0 .fp16 .fp32 .rne false 0#2 0#16 0 0 none 4 1) (run1 { v := [(1, 0x3F800000#4096)] })) 256
      (fun c => decide (elemGet .fp16 (c.rf.vGet 4) 0 = 0x3C00#32)) = true := by decide +kernel

/-- The eight lines of an access that ends at the region's end; one line with a tag; a stride of 0. -/
theorem witness_VectorLoadsAndStores :
    let s := run1 (regs3 3584#64 0#64 0#64)
    let c := found s u0 2
    let t := withCore { running (regs3 3584#64 0#64 0#64) with spadTag := [(63, some ⟨1, 0⟩)] }
    VecAccess c false 0#12 0 1 ∧ VecAccess c true 0#12 0 1 ∧ VecAccess c true 0#12 2 1 ∧ vecLine c 0#12 0 1 7 = 4032 ∧
    (∀ i, i < 8 → c.lineTag (vecLine c 0#12 0 1 i / 64) = none) ∧ vmStride c 0 ≠ 0 ∧ vmStride c 2 = 0 ∧
    (found t u0 2).lineTag (vecLine c 0#12 0 1 7 / 64) = some ⟨1, 0⟩ ∧ t.mayIssue (.vld u0 0#12 0 1 none 4) u0 2 = true := by
  unfold VecAccess; decide +kernel


/-! ### The words of a bundle's slots, their fields placed as the spec's formats place them -/

/-- R238, R239: `bc` (0x29) with cond 4 (ltu) in [11:8], ra in [17:12], rb in [23:18], target in [63:32]; `csrr` (0x38) with csr in [31:20]. -/
theorem test_control_words :
    slotInstr u0 0 (0x29 + 4 * 2 ^ 8 + 5 * 2 ^ 12 + 63 * 2 ^ 18 + 0xFFFFFFFF * 2 ^ 32) = some (.bc u0 .ltu 5 63 0xFFFFFFFF#32) ∧
    slotInstr u0 0 (0x38 + 7 * 2 ^ 8 + 0x119 * 2 ^ 20) = some (.csrr u0 7 0x119#12) ∧ slotInstr u0 0 0x05 = none ∧
    slotInstr u0 0 (0x29 + 6 * 2 ^ 8) = none := by decide +kernel

/-- R250: `mtile` (0x08) with fa in [11:8], fb in [15:12], sa in [21:16], sb in [27:22], n in [47:32]; `mload.wlf` (0x12) with ssrc in [21:16]. -/
theorem test_matrix_words :
    slotInstr u0 1 (0x08 + 1 * 2 ^ 8 + 2 * 2 ^ 12 + 3 * 2 ^ 16 + 4 * 2 ^ 22 + 0xABCD * 2 ^ 32) = some (.mtile u0 0xABCD#16 4 3 .fp16 .bf16) ∧
    slotInstr u0 1 (0x12 + 47 * 2 ^ 16) = some (.mloadWlf u0 47) ∧ slotInstr u0 1 0x0B = none := by decide +kernel

/-- R243, R244, R246: `vadd` (0x01) with fmt in [11:8], rm in [14:12], sat in [15], vd, va and vb from 16, 21 and 26, pq in [39:36]; `vcmp` (0x20)
with its condition in the rm field, 3 being le. -/
theorem test_vector_words :
    slotInstr u0 2 (0x01 + 9 * 2 ^ 8 + 0 * 2 ^ 12 + 2 ^ 15 + 17 * 2 ^ 16 + 18 * 2 ^ 21 + 19 * 2 ^ 26 + 13 * 2 ^ 36) =
      some (.vadd u0 .int16 .rne true (some 5) 17 18 19) ∧
    slotInstr u0 2 (0x20 + 3 * 2 ^ 12 + 6 * 2 ^ 16 + 1 * 2 ^ 21 + 2 * 2 ^ 26) = some (.vcmp u0 .fp32 .le none 6 1 2) ∧
    slotInstr u0 2 (0x20 + 4 * 2 ^ 12) = none := by decide +kernel

/-- R252: `mxfer` (0x01) with mover in [9:8], dsrc in [13:10], ddst in [17:14], s_src, s_dst, s_ctl and s_sig from 18, 24, 30 and 36; `dset` (0x0A)
with dslot in [11:8], sa in [17:12], k in [22:20]. -/
theorem test_move_words :
    slotInstr u0 3 (0x01 + 2 * 2 ^ 8 + 3 * 2 ^ 10 + 4 * 2 ^ 14 + 5 * 2 ^ 18 + 6 * 2 ^ 24 + 7 * 2 ^ 30 + 8 * 2 ^ 36) =
      some (.mxfer u0 8 7 6 5 4 3 2) ∧
    slotInstr u0 3 (0x0A + 15 * 2 ^ 8 + 9 * 2 ^ 12 + 7 * 2 ^ 20) = some (.dset u0 7 9 15) ∧ slotInstr u0 3 0x05 = none := by decide +kernel

/-- A strict core too: its region holds 140-byte forms. -/
theorem witness_ReductionsAndLongForms :
    let s := run1 (regs3 0#64 128#64 256#64)
    let c := found s u0 2
    let k := withCore { running (regs3 0#64 128#64 256#64) with cfg := { (running {}).cfg with strict := true } }
    let x := found k u0 2
    vredOk 48 7 .fp32 = true ∧ c.rf0.sBad 1 = false ∧ c.cfg.strict = false ∧ c.spadOk 0 (2 ^ 7 * 20) true = true ∧
    c.spadOk 0 (2 ^ 7 * 20) false = true ∧ c.rangeTag 0 (2 ^ 7 * 20) = none ∧ c.rf0.sBad 2 = false ∧ c.rf0.sBad 3 = false ∧
    k.mayIssue (.vred u0 true none 48 1 0 1 2 0 .product .fp32) u0 2 = true ∧ x.cfg.strict = true ∧ x.spadOk 0 140 true = true ∧
    (∀ i, i < 1 → segRange x (ancSpecFields (x.rf0.sGet 48)) 0 1 i = false) ∧
    (1#16).toNat = 1 ∧ c.spadOk 128 20 false = true ∧ c.spadOk 256 20 true = true ∧ c.rangeTag 128 20 = none ∧
    linesMeet 0 20 256 20 = false ∧ linesMeet 128 20 256 20 = false ∧ c.spadOk 0 (fmtElems .fp32 * 20) false = true ∧
    c.rangeTag 0 (fmtElems .fp32 * 20) = none := by decide +kernel

theorem witness_ReductionIsOrderFree (x y : Term × Bool) : [x, y].Perm [y, x] := List.Perm.swap y x []

theorem witness_PartialReductionsCombine : ∀ w ∈ [LongForm.null, LongForm.null, LongForm.null], w.anc = ancNull → w.v = 0#136 := by
  decide +kernel

/-! ### The matrix slot and the movers -/

/-- The matrix and the move slot issue in a core that runs. -/
theorem witness_issue_of_the_matrix_and_move_slots :
    let s := run1 (regs3 0#64 0#64 0#64)
    (∀ i ∈ ([.manc u0 48 1 .fp16 .fp16, .mancChain u0 48 1 .int8, .mtile u0 1#16 1 2 .fp16 .fp16, .mswap u0, .mloadLf u0 1, .mdrainLf u0 1] :
      List Instr), s.mayIssue i u0 1 = true) ∧
    (∀ i ∈ ([.mxfer u0 0 1 2 3 0 1 3, .mscanCrest u0 .int8 0 1 2 0 1 3, .mscanCmax u0 0 1 2 3 0 1 3, .mstop u0 3, .dld u0 0#32 1 0,
      .dst u0 0#32 1 0, .dset u0 0#3 1 0] : List Instr), s.mayIssue i u0 3 = true) := by decide +kernel

/-- Block anchors in range and out of it; a scalar that is poisoned; four entries in a queue. -/
theorem witness_MatrixInstructionsTakeEffect :
    let s := run1 (regs3 0#64 0#64 0#64)
    let c := found s u0 1
    let full := withCore { running (regs3 0#64 0#64 0#64) with mx := { arrayQ := List.replicate 4 { cmd := .swap, bundle := 0 } } }
    let p := run1 { regs3 0#64 0#64 0#64 with sPoison := 2#64 }
    48 ≤ (48 : SReg).val ∧ mancPair .fp16 .fp16 = true ∧ mxFloat .fp16 = true ∧
    latchRange false { fa := .fp16, fb := .fp16, spec := c.rf0.sGet 48, bytes := c.rf0.vGet 1, bad := c.rf0.vBad 1 } = false ∧
    (queueForm s (.mloadLf u0 1)).isSome = true ∧ full.canIssue u0 1 = true ∧ 4 ≤ (found full u0 1).mx.arrayQ.length ∧
    p.mayIssue (.mloadLf u0 1) u0 1 = true ∧ (found p u0 1).rf0.sBad 1 = true := by decide +kernel

theorem witness_TileAccumulatesItsTerms : 0 < ({} : Core).tileElems := by decide +kernel

/-- A tile on its way, a drain that has read its rows, a chain at its end. -/
theorem witness_MatrixEngineEvents :
    let t : Tile := { elems := [(0, { LongForm.null with flags := RedFlags.rnd })] }
    let c (m : Mx) : State := withCore { running {} with cfg := { (running {}).cfg with strict := true }, mx := m }
    (c { passing := some (t, false) }).coreRuns u0 = true ∧ ((c { passing := some (t, false) }).core 256).cfg.strict = true ∧
    ((c { passing := some (t, false) }).core 256).mx.wideBusy = false ∧
    t.rounded = true ∧ ((c { passing := some (t, true) }).core 256).mx.shadow = none ∧
    ((c { draining := true }).core 256).mx.draining = true ∧ ((c { chain := some (none, []) }).core 256).mx.chain = some (none, []) ∧
    ((c { chain := some (some 0, List.replicate 128 LongForm.null) }).core 256).mx.chain = some (some 0, List.replicate 128 LongForm.null) ∧
    (List.replicate 128 LongForm.null).length = 128 := by decide +kernel

/-- A rerun of two slices takes 512 clk (R180). -/
theorem test_rerun_clk :
    let t : Tile := { elems := [(0, { LongForm.null with flags := RedFlags.rnd })], recs := [] }
    let s := withCore { running {} with cfg := { (running {}).cfg with strict := true }, mx := { passing := some (t, false) } }
    coreAfter (exec (.strictRerun u0) s) 256 (fun c => c.mx.wideBusy && c.mx.reruns == 1 && c.mx.rerunClk == 0) = true := by decide +kernel

theorem witness_MoveSlotTakesEffect :
    let s := run1 (regs3 4032#64 0#64 0#64)
    let c := found s u0 3
    let sq := withCore { running {} with mov := [(3, { squashing := true })] }
    let cmd : MovCmd := { kind := .xfer, src := 0#64, dst := 0#64, ctl := 0#64, sig := 0#64, dsrc := 0, ddst := 0, cslot := 0, seq := 0, bundle := 0, ord := 0 }
    let full := withCore { running {} with mov := [(3, { queue := List.replicate 8 cmd })] }
    (∃ f, moveForm (.mxfer u0 0 1 2 3 0 1 3) = some f ∧ f.u = u0 ∧ f.m = 3) ∧
    (c.rf0.sBad 1 = false ∧ c.rf0.sBad 2 = false ∧ scalarAddr c 1 0#32 % 64 = 0 ∧ c.spadOk 4032 64 false = true ∧ c.spadOk 4032 64 true = true ∧
      c.lineTag 63 = none ∧ c.lineBad 63 = false ∧ sq.coreRuns u0 = true ∧ ((sq.core 256).mover 3).squashing = true ∧
      full.canIssue u0 3 = true ∧ 8 ≤ ((found full u0 3).mover 3).queue.length ∧ [0, 1, 2, 3].Nodup ∧
      (run1 { sPoison := 2#64 }).mayIssue (.mxfer u0 0 1 2 3 0 1 3) u0 3 = true ∧ (found (run1 { sPoison := 2#64 }) u0 3).rf0.sBad 1 = true) :=
  ⟨⟨_, rfl, rfl, rfl⟩, by decide +kernel⟩

/-- A walk of one unit of 64 bytes in the scratchpad: one level, bound 1, stride 64, tier 1 (R194). -/
def walk1 : BitVec 512 := BitVec.ofNat 512 (1 + 64 * 2 ^ 32 + 9 * 2 ^ 480)

/-- A transfer of one line from 0 to 64, its unit 64 bytes, between two spaces. -/
def line1 (src dst : Nat) : MovCmd :=
  { kind := .xfer, src := 0#64, dst := 64#64, ctl := BitVec.ofNat 64 (src + 8 * dst + 6 * 64), sig := 0#64, dsrc := 0, ddst := 0, cslot := 0,
    seq := 0, bundle := 0, ord := 0 }

/-- A core whose mover 3 is as given, in a pen whose window grants both accesses. -/
def mover3 (m : Mover) : State :=
  { withCore { running { d := [(0, walk1)] } with mov := [(3, m)] } with
    pens := [(1, { present := true, bays := 1#12, active := [(0, (BitVec.ofNat 64 (1 + 4 + 8 + 2 ^ 8), 0#64))], job := some { job2 with route := [(0, 0xF0)] } })] }

/-- A crest context of one group of 32 elements of one byte at address 0, its crest at 128. -/
def crest1 : BitVec 512 := BitVec.ofNat 512 (32 * 2 ^ 64 + 32 * 2 ^ 128 + 3 * 2 ^ 160 + 128 * 2 ^ 192 + 32 * 2 ^ 480)

theorem witness_MoverCommandsRun :
    let l := line1 0 0
    let s := mover3 { queue := [l] }
    let c := s.core 256
    let bad := mover3 { queue := [{ l with src := 1#64 }] }
    let b := mover3 { running := [{ cmd := l, srcTotal := 1, total := 1, reads := 1 }], queue := [l] }
    (c.mover 3).queue = [l] ∧ (c.mover 3).squashing = false ∧ s.moverOn u0 = true ∧ c.movWaits l = false ∧
    s.movStartCause u0 c l = none ∧ 0 < (descOf (c.rf.dGet l.ddst)).total ∧ bad.moverOn u0 = true ∧
    (bad.movStartCause u0 (bad.core 256) { l with src := 1#64 }).isSome = true ∧
    (bad.core 256).movWaits { l with src := 1#64 } = false ∧
    (∀ r ∈ ((b.core 256).mover 3).running.getLast?, r.reads = r.srcTotal) ∧ ctlDst (line1 0 3).ctl = 3 ∧ ctlDst (line1 0 2).ctl = 2 ∧
    sigDoneEn (0#64) = false ∧ sigDoneEn (256#64) = true := by decide +kernel

/-- The moving command before its read: from the scratchpad, and from device memory. -/
theorem witness_mover_reads :
    let r (src : Nat) : MovRun := { cmd := line1 src 0, srcTotal := 1, total := 1 }
    let s := mover3 { running := [r 0] }
    let d := mover3 { running := [r 1] }
    let c := s.core 256
    let t := { s with cores := [(256, { c with spadTag := [(0, some ⟨1, 0⟩)] })] }
    s.moverOn u0 = true ∧ ctlSrc (r 0).cmd.ctl = 0 ∧ ctlSrc (r 1).cmd.ctl = 1 ∧ (r 0).reads < (r 0).srcTotal ∧
    c.windowLines [{ r 0 with reads := 1 }] ≤ 64 ∧ windowBytes [{ r 0 with reads := 1 }] ≤ 4096 ∧
    (s.core 256).rangeTag (walkAddr (descOf walk1) 0 0) 64 = none ∧ (t.core 256).rangeTag (walkAddr (descOf walk1) 0 0) 64 = some ⟨1, 0⟩ ∧
    (d.moverCross u0 (r 1).cmd (d.accessBays 1 false 0 64)).isNone = true ∧
    (match d.translate 1 false 0 with | .ok a => a == 0 | .error _ => false) = true ∧
    (match d.translate 1 false (2 ^ 21) with | .ok _ => false | .error _ => true) = true := by decide +kernel

/-- A unit before its write to each of the four spaces; a closed gate; a tag; a crested command. -/
theorem witness_mover_writes :
    let w : List WinByte := List.replicate 64 ⟨7#8, false, none⟩
    let r (dst : Nat) : MovRun := { cmd := line1 0 dst, srcTotal := 1, total := 1, reads := 1, window := [w] }
    let s (x : MovRun) := mover3 { running := [x] }
    let gate := { r 0 with cmd := { (line1 0 0) with ctl := BitVec.ofNat 64 (6 * 64 + 5 * 2 ^ 40 + 2 ^ 48 + 2 ^ 49) } }
    let crested := { r 0 with cmd := { (line1 0 0) with ctl := BitVec.ofNat 64 (6 * 64 + 1024) } }
    (s (r 0)).coreRuns u0 = true ∧ (r 0).per * ((r 0).written + 1) ≤ (r 0).reads ∧ (r 0).written < (r 0).total ∧
    (∀ k, k < 4 → ctlDst (r k).cmd.ctl = k ∧ (r k).cmd.crestSlot = none ∧ ctlGated (r k).cmd.ctl = false) ∧
    ctlGated gate.cmd.ctl = true ∧ ctlGbase gate.cmd.ctl + (0 : Nat) > ((((s gate).core 256).counter 5).toNat : Int) ∧
    crested.cmd.crestSlot = some 0 ∧ (∀ x ∈ w, x.tag = none) ∧ ((s (r 1)).writeTag 1 64 64).isNone = true ∧
    ((s (r 1)).moverCross u0 (r 1).cmd ((s (r 1)).accessBays 1 true 64 64)).isNone = true ∧
    ((s (r 3)).moverCross u0 (r 3).cmd [routePrimary (routeOf ((s (r 3)).jobD 1) 0)]).isNone = true ∧
    (([⟨7#8, false, some ⟨1, 0⟩⟩] : List WinByte).findSome? WinByte.tag).isSome = true ∧ (r 0).peer = none := by decide +kernel

/-- A read copies the unit, and the write puts it at its place (R203, R205). -/
theorem test_unit_written :
    let r : MovRun := { cmd := line1 0 0, srcTotal := 1, total := 1, reads := 1, window := [List.replicate 64 ⟨7#8, false, none⟩] }
    coreAfter (exec (.moverUnitWrite u0 ⟨3, 0⟩) (mover3 { running := [r] })) 256 (fun c => c.spadByte 64 == 7#8 && c.spadByte 128 == 0#8) =
      true := by decide +kernel

/-- A closed gate that is satisfied; a signal whose bytes are written; a whole crest group that is held; a run with nothing left. -/
theorem witness_mover_signals_and_groups :
    let g : PendSig := ⟨0, 0, 5, 1#32, false⟩
    let hs : List HeldByte := (List.range 32).map (fun i => ⟨i, i, 0#8, false⟩)
    let r (dst : Nat) : MovRun := { cmd := line1 0 dst, srcTotal := 1, total := 1, reads := 1, sigs := [g] }
    let cr (dst : Nat) : MovRun :=
      { cmd := { (line1 0 dst) with ctl := BitVec.ofNat 64 (8 * dst + 1024), dsrc := 0, ddst := 2 }, srcTotal := 32, total := 32, reads := 32, written := 32, held := hs }
    let s (x : MovRun) : State := { mover3 { running := [x] } with
      cores := [(256, { running { d := [(0, crest1), (2, BitVec.ofNat 512 (32 + 1 * 2 ^ 32 + 9 * 2 ^ 480))] } with mov := [(3, { running := [x] })] })] }
    (r 0).sigs = [g] ∧ (r 0).held = [] ∧ ctlDst (r 2).cmd.ctl = 2 ∧ ctlDst (r 3).cmd.ctl = 3 ∧
    (mover3 { running := [{ r 0 with gated := true }] }).coreRuns u0 = true ∧
    ctlGbase (line1 0 0).ctl + (0 : Nat) ≤ (((mover3 {}).core 256).counter (ctlGateCtr (line1 0 0).ctl)).toNat ∧
    (cr 0).cmd.crestSlot = some 0 ∧ (((s (cr 0)).core 256).wholeGroup (crestCtxOf crest1) (cr 0)).isSome = true ∧
    ctlDst (cr 1).cmd.ctl = 1 ∧ ((s (cr 1)).writeTag 1 0 32).isNone = true ∧
    (match (s (cr 1)).translate 1 true 128 with | .ok p => p == 128 | .error _ => false) = true ∧
    ((s (cr 1)).moverCross u0 (cr 1).cmd ((s (cr 1)).accessBays 1 true 0 32 ++ (s (cr 1)).accessBays 1 true 128 1)).isNone = true ∧
    (∃ x : MovRun, x.written = x.total ∧ x.held = [] ∧ x.sigs = []) := by
  refine ⟨by decide +kernel, by decide +kernel, by decide +kernel, by decide +kernel, by decide +kernel, by decide +kernel, by decide +kernel,
    by decide +kernel, by decide +kernel, by decide +kernel, by decide +kernel, by decide +kernel, ⟨⟨line1 0 0, 0, 0, 0, 0, [], 0, false, [], [], none, {}⟩, rfl, rfl, rfl⟩⟩

/-! ### Packets, turns and the training step -/

/-- A job in an attempt of step 7. -/
def stepJob (a : Attempt) : Job := { job2 with cur := some a, nextStep := 8, attempts := [(7, 1)] }

/-- Pen 1 with that job. -/
def inStep (a : Attempt) : State := withJob1 (stepJob a)

theorem witness_PacketsAndBalance :
    let k : Packet := { pen := 1, src := 0, dst := 1, body := .spad 4032 (List.replicate 64 (7#8, false)), sig := some (5, 1#32),
                        injected := false }
    let s := { run1 {} with packets := [k] }
    let s' := { run1 {} with packets := [{ k with injected := true }] }
    let x := { s with pens := [(1, { present := true, bays := 0#12, job := some job2 }), (2, { present := true, bays := 1#12 })] }
    let e := { inStep { step := 7, attempt := 0, phase := .backward } with cores := [(256, { run := .ended }), (257, { run := .ended })] }
    let late := { e with cores := [(256, { run := .ended, lateSigs := [5] }), (257, { run := .ended })] }
    s.unitsRun 1 = true ∧ s.injection = none ∧ s.packetSite k = some 1 ∧ s.penOfBay (bayOfSite 1) = 1 ∧
    (placeOf (s.jobD 1) 0).head? = some 0 ∧ x.unitsRun 1 = true ∧ x.packetSite k = some 1 ∧ x.penOfBay (bayOfSite 1) ≠ 1 ∧
    s'.unitsRun 1 = true ∧ s'.packets[0]? = some { k with injected := true } ∧ s'.packets.take 0 = [] ∧
    e.unitsRun 1 = true ∧ e.allEnded 1 = true ∧ e.packets = [] ∧ e.imbalance 1 = none ∧ late.allEnded 1 = true ∧
    (late.imbalance 1).isSome = true := by decide +kernel

/-- A packet's bytes and its signal arrive together (R281). -/
theorem test_packet_arrives :
    let k : Packet := { pen := 1, src := 0, dst := 1, body := .spad 4032 [(7#8, false)], sig := some (5, 1#32), injected := true }
    coreAfter (exec (.packetArrive 0) { run1 {} with packets := [k] }) 257
      (fun c => c.spadByte 4032 == 7#8 && c.counter 5 == 1#32) = true := by decide +kernel

theorem witness_LateItemsAndTurns :
    let s := inStep { step := 7, attempt := 0 }
    let t := withJob1 { stepJob { step := 7, attempt := 0 } with stopped := some (.bay 0), lateHeld := 1 }
    (s.job 1).isSome = true ∧ (s.jobD 1).cur ≠ none ∧ s.penOfBay (holderBay (.port 0)) = 1 ∧ s.penOfBay (holderBay (.bay 0)) = 1 ∧
    (t.jobD 1).stopped ≠ none ∧ 0 < (t.jobD 1).lateHeld ∧
    (withJob1 { (t.jobD 1) with lateHeld := 0 }).jobD 1 = { (t.jobD 1) with lateHeld := 0 } ∧
    (∀ ph ∈ [TurnPhase.aTurn, .bTurn, .quiesceA, .quiesceB, .exchangeA, .exchangeB],
      (withJob1 { stepJob { step := 7, attempt := 0 } with turn := some ph }).unitsRun 1 = true) ∧
    s.packets = [] ∧ (∀ l ∈ s.jobCores 1, (s.core (coreKey 1 l)).quiet = true) ∧ (s.core 256).mx.wideBusy = false := by decide +kernel

/-- A late item stops the units (R214). -/
theorem test_late_item_stops :
    after1 (exec (.lateItemStop 1 (.bay 0)) (inStep { step := 7, attempt := 0 })) (fun t => !t.unitsRun 1) = true := by decide +kernel

/-- A loaded job that may pass T0 of step 7, with a seed and without. -/
def mayBegin (seeds : List SeedEntry) : State :=
  let j : Job := { job2 with nextStep := 7, seeds := seeds }
  (({ pens := [(1, { present := true, bays := 1#12, job := some j, released := some 7 })] } : State)).setFld .updJob 0 2 1 0

theorem witness_StepBeginsAtT0 :
    (∃ j, (mayBegin []).job 1 = some j ∧ (mayBegin []).t0Ready 1 j = true ∧ seedAt j j.nextStep = none) ∧
    (∃ j, (mayBegin [⟨7, 5#64, false⟩]).job 1 = some j ∧ (mayBegin [⟨7, 5#64, false⟩]).t0Ready 1 j = true ∧
      seedAt j j.nextStep ≠ none) :=
  ⟨⟨_, rfl, by decide +kernel, by decide +kernel⟩, ⟨_, rfl, by decide +kernel, by decide +kernel⟩⟩

/-- T0 begins attempt 0 of the step and the next is 8 (R422, R434). -/
theorem test_t0 :
    after1 (exec (.stepT0 1) (mayBegin [⟨7, 5#64, false⟩])) (fun t => (t.jobD 1).nextStep == 8 &&
      (match (t.jobD 1).cur with | some a => a.step == 7 && a.attempt == 0 | none => false)) = true := by decide +kernel

theorem witness_ClearAndEntryOfEveryCore :
    let s := inStep { step := 7, attempt := 0 }
    let f := withJob1 { stepJob { step := 7, attempt := 0 } with fenceHold := true }
    let t := inStep { step := 7, attempt := 0, phase := .forward }
    (∃ j a, s.job 1 = some j ∧ j.cur = some a ∧ a.wordSent = false ∧ j.adopting = [] ∧ j.fenceHold = false ∧ a.phase = .start) ∧
    (∃ j a, f.job 1 = some j ∧ j.cur = some a ∧ a.wordSent = false ∧ j.adopting = [] ∧ j.fenceHold = true ∧ (∀ kv ∈ j.tx, kv.2.open_ = [])) ∧
    (∃ j a, t.job 1 = some j ∧ j.cur = some a ∧ j.voting = none ∧ a.phase ≠ .start ∧ a.gateRaised = false ∧ a.wordSent = false) ∧
    s.diesStopped = false ∧ f.diesStopped = false ∧ (∀ b ∈ f.baysOf 1, (f.port b).overflow = false) ∧ t.unitsRun 1 = true ∧
    ((running {}).cfg.counters.map Prod.fst).Nodup ∧ (2 : Nat) ∉ s.jobCores 1 ∧ (0 : Nat) ∈ s.jobCores 1 := by
  refine ⟨⟨_, _, rfl, rfl, ?_⟩, ⟨_, _, rfl, rfl, ?_⟩, ⟨_, _, rfl, rfl, ?_⟩, ?_⟩ <;> decide +kernel

/-- The clear leaves nothing of a core but its configuration and its counters' start values (R59). -/
theorem test_clear :
    let c := { running { s := [(1, 7#64)], v := [(0, 5#4096)] } with flags := 3#5, spad := [(0, 9#8)] }
    (decide (c.clear.rf.sGet 1 = 0#64) && decide (c.clear.rf.vGet 0 = 0#4096) && decide (c.clear.spadByte 0 = 0#8) &&
      decide (c.clear.flags = 0#5)) = true := by decide +kernel

theorem witness_MicroinstructionsComputeEveryElement :
    (∃ f, microForm (.uadd 11 31 0 1) = some (11, 31, f)) ∧ (inStep { step := 7, attempt := 0 }).unitOn 0 = true ∧
    (inStep { step := 7, attempt := 0 }).unitOn 11 = true ∧ 0 < (({ count := 1 } : UnitS)).count := by
  refine ⟨⟨_, rfl⟩, ?_⟩; decide +kernel

/-- 1.0 + 2.0 = 3.0 in each element of a block (R442). -/
theorem test_uadd :
    after1 (exec (.uadd 0 2 0 1) { inStep { step := 7, attempt := 0 } with units := [(0, { count := 1, regs := [(0, 0x3F800000#32), (1, 0x40000000#32)] })] })
      (fun t => (t.unit 0).get 0 2 == 0x40400000#32) = true := by decide +kernel

theorem witness_SweepRunsTheUpdatePlan :
    let s := inStep { step := 7, attempt := 0, phase := .sweepWait }
    (∃ j a, s.job 1 = some j ∧ j.cur = some a ∧ j.voting = none ∧ a.phase = .sweepWait ∧ j.replayRun = false ∧ a.wordSent = false ∧
      clipReady j [] = true) ∧ s.unitsRun 1 = true ∧
    (∃ j a, (inStep { step := 7, attempt := 0, phase := .sweep }).job 1 = some j ∧ j.cur = some a ∧ a.phase = .sweep ∧ a.wordSent = false) ∧
    (inStep { step := 7, attempt := 0, phase := .sweep }).unitsRun 1 = true :=
  ⟨⟨_, _, rfl, rfl, by decide +kernel⟩, by decide +kernel, ⟨_, _, rfl, rfl, rfl, rfl⟩, by decide +kernel⟩

/-- A child's payload for the voting attempt, for the one being computed, for the next step and for none; the parent's outcome; the rounds. -/
theorem witness_VotesAndResyncs :
    let v : Vote := { step := 7, attempt := 0, nonfinite := 0, status := 0#64, digests := [0#64, 0#64, 0#64, 0#64] }
    let a : Attempt := { step := 7, attempt := 0, wordSent := true, sentUp := true }
    let kid (s : State) : Prop := ∃ j, s.job 1 = some j ∧ 8 ∈ treeKids j.rank (j.ranksM1 + 1)
    kid (withJob1 { stepJob a with ranksM1 := 8, voting := some a }) ∧ kid (withJob1 { stepJob a with ranksM1 := 8 }) ∧
    a.step = v.step ∧ a.attempt = v.attempt ∧
    (∃ j : Job, j = { stepJob a with ranksM1 := 8 } ∧ j.voting = none ∧ (∀ b, j.cur = some b → ¬ (b.step = 8 ∧ b.attempt = 0)) ∧
      j.nextStep = 8 ∧ SMap.get (fun _ => 0) j.attempts j.nextStep = 0 ∧ (8 : Nat) ∉ j.resyncKids ∧ j.nextStep ≠ 9) ∧
    (∃ j, (inStep a).job 1 = some j ∧ votingAttempt j = some a) ∧
    (∃ j, (inStep { a with sentUp := false }).job 1 = some j ∧ votingAttempt j = some { a with sentUp := false }) ∧
    (∃ j, (withJob1 { stepJob a with resyncSent := true }).job 1 = some j ∧ j.resyncSent = true ∧ j.resyncOut = false) ∧
    (∃ j, (withJob1 { stepJob a with draining := true }).job 1 = some j ∧ j.draining = true ∧ ∀ kv ∈ j.tx, kv.2.open_ = []) ∧
    (∃ j, (withJob1 { stepJob a with resyncOut := true }).job 1 = some j ∧ j.resyncOut = true) ∧
    (inStep a).fld .errPolicy 8 8 ≠ 0 := by
  refine ⟨⟨_, rfl, ?_⟩, ⟨_, rfl, ?_⟩, rfl, rfl, ⟨_, rfl, rfl, ?_, ?_⟩, ⟨_, rfl, rfl⟩, ⟨_, rfl, rfl⟩, ⟨_, rfl, rfl, rfl⟩, ⟨_, rfl, rfl, ?_⟩,
    ⟨_, rfl, rfl⟩, ?_⟩
  · decide +kernel
  · decide +kernel
  · intro b h; cases h; decide
  · decide +kernel
  · decide +kernel
  · decide +kernel

/-- A status word for each row of R447, in order. -/
theorem witness_OutcomeIsTheFirstMatchingRow :
    (∃ j, (inStep { step := 7, attempt := 0, wordSent := true }).job 1 = some j ∧
      votingAttempt j = some { step := 7, attempt := 0, wordSent := true } ∧ j.aborting = false) ∧
    (0x40#64).getLsbD 6 = true ∧ (0x10#64).getLsbD 6 = false ∧ (0x10#64).getLsbD 4 = true ∧ (4#64).getLsbD 4 = false ∧
    (4#64).getLsbD 2 = true ∧ (8#64).getLsbD 3 = true ∧ (1#64).getLsbD 2 = false ∧ (1#64).getLsbD 3 = false ∧ (1#64).getLsbD 0 = true ∧ (0#64).getLsbD 1 = false := by
  refine ⟨⟨_, rfl, rfl, rfl⟩, ?_⟩; decide +kernel

theorem witness_VotePayloadsCombineInAnyOrder (x y : Vote) : [x, y].Perm [y, x] := List.Perm.swap y x []

/-- Counts saturate and digests XOR (R446). -/
theorem test_combine :
    let x : Vote := { step := 7, attempt := 0, nonfinite := 4294967295, status := 1#64, digests := [3#64, 0#64, 0#64, 0#64] }
    let y : Vote := { step := 7, attempt := 0, nonfinite := 1, status := 4#64, digests := [5#64, 0#64, 0#64, 0#64] }
    (combineVote x y).nonfinite = 4294967295 ∧ (combineVote x y).status = 5#64 ∧ (combineVote x y).digests = [6#64, 0#64, 0#64, 0#64] := by
  decide +kernel

/-! ### Device memory -/

/-- Bay 0 with its stack up, and pen 1 as given. -/
def bay0 (p : PenS) : State :=
  (({ power := .idle, pens := [(1, p)] } : State).setFld .devIdent 16 12 1).setFld .hbmBayStatus 1 1 1 0

/-- A window of pen 1: 2 MB at virtual address 0, read only, in bay 0. -/
def win0 : Word64 × Word64 := (BitVec.ofNat 64 (1 + 4 + 2 ^ 8), 0#64)

/-- Pen 1 with cores 0 and 1 doubled on site 0: context 1 is not resident, and lies in the site's slot (R304). -/
def doubled0 : State :=
  { bay0 { present := true, bays := 1#12, job := some { job2 with place := [(0, [0]), (1, [0])], doubled := [(0, 1)] } } with
    cores := [(257, { (running {}) with spad := [(0, 9#8)] })] }

/-- The first line of the slot of site 0. -/
def slot0 : Nat := offSlots / 64

/-- A line at either end of a stack, readable and not, marked and not; one of the window tables; the first line of a context image, and the
first of its state block. -/
theorem witness_DeviceMemoryLines :
    let s := bay0 {}
    let bad := { s with badLines := [(0, true)] }
    let t := bay0 { present := true, bays := 1#12 }
    let c := doubled0.core 257
    s.stackUp 0 = true ∧ s.injection = none ∧ stackLines - 1 < stackLines ∧
    (∀ l ∈ [0, stackLines - 1], s.imageLine 0 l = none ∧ s.deviceLine 0 l = none ∧ s.lineBad l = false ∧ s.linePoison l = false) ∧
    eccFails ⟨.good, .corrected⟩ = false ∧ eccFails ⟨.uncorrectable, .good⟩ = true ∧ 0 < eccCorrections ⟨.good, .corrected⟩ ∧
    (s.bay 0).log.length < 256 ∧ 0 ∉ (s.bay 0).raised ∧ (zeros 32).length = 32 ∧ 63 + [7#8].length ≤ 64 ∧ 0 + (zeros 64).length = 64 ∧
    bad.lineBad (0 * stackLines + 0) = true ∧ bad.imageLine 0 0 = none ∧ bad.deviceLine 0 0 = none ∧
    (t.deviceLine 0 (offActive / 64)).isSome = true ∧ t.imageLine 0 (offActive / 64) = none ∧ t.lineBad (offActive / 64) = false ∧
    slot0 + 1024 < stackLines ∧ doubled0.stackUp 0 = true ∧ doubled0.imageLine 0 slot0 = some (257, 0) ∧ c.inStateBlock 0 = false ∧
    imageAddr c.imageRanges 63 = some 63 ∧ imageAddr c.imageRanges 4096 = none ∧
    doubled0.imageLine 0 (slot0 + 1024) = some (257, 65536) ∧ c.inStateBlock 65536 = true := by decide +kernel

/-- The context that is not resident is read and written in its slot (R62, R304). -/
theorem test_slot_line :
    (after1 (exec (.memRead 0 slot0 ⟨.good, .good⟩) doubled0) (fun t => t.lastRead.head? == some 9#8) &&
      coreAfter (exec (.memWrite 0 slot0 0 (List.replicate 64 5#8) false ⟨.good, .good⟩) doubled0) 257 (fun c => c.spadByte 63 == 5#8)) =
      true := by decide +kernel

/-- The last byte of the last line of a stack is written and the byte before it is not (R288). -/
theorem test_write_line :
    after1 (exec (.memWrite 0 (stackLines - 1) 63 [7#8] false ⟨.good, .good⟩) { bay0 {} with hbm := [(64 * stackLines - 2, 3#8)] })
      (fun t => t.hbmByte (64 * stackLines - 1) == 7#8 && t.hbmByte (64 * stackLines - 2) == 3#8) = true := by decide +kernel

theorem witness_StackUpkeepAndBoundaries :
    let s := bay0 { present := true, bays := 1#12, job := some { job2 with boundaryDue := true } }
    (bay0 {}).stackUp 0 = true ∧ (bay0 {}).bayIdle 0 = true ∧ (bay0 {}).injection = none ∧
    (bay0 {}).lineBad (0 * stackLines + ((bay0 {}).bay 0).patrolLine) = false ∧
    (bay0 {}).linePoison (0 * stackLines + ((bay0 {}).bay 0).patrolLine) = false ∧ eccFails ⟨.good, .uncorrectable⟩ = true ∧
    (∃ j, s.job 1 = some j ∧ j.boundaryDue = true) ∧
    (∃ t : State, t = { s with bays := [(0, { log := [(5, false)] })], badLines := [(5, true)] } ∧ (5, false) ∈ (t.bay 0).log ∧
      0 ∈ t.baysOf 1 ∧ t.lineBad (0 * stackLines + 5) = true) := by
  refine ⟨?_, ?_, ?_, ?_, ?_, ?_, ⟨_, rfl, rfl⟩, ⟨_, rfl, ?_⟩⟩ <;> decide +kernel

/-- Hot at 85 °C, and still at 80 °C (R324). -/
theorem test_hot_stack :
    after1 (exec (.stackTempChange 0 85) (bay0 {})) (fun t => t.fld .hbmBayStatus 2 1 0 == 1 &&
      after1 (exec (.stackTempChange 0 80) t) (fun t => t.fld .hbmBayStatus 2 1 0 == 1)) = true := by decide +kernel

theorem witness_WindowCommitIsCheckedAndActivated :
    let p : PenS := { present := true, bays := 1#12, checkRunning := true, staging := [(0, win0)] }
    let s := bay0 p
    let bad := bay0 { p with staging := [(0, (BitVec.ofNat 64 (1 + 4 + 2 ^ 9), 0#64))] }
    let j := bay0 { p with job := some job2 }
    ((bay0 { present := true }).pen 1).present = true ∧ ((bay0 { present := true }).pen 1).commitPending = false ∧
    (bay0 { present := true }).fld .hbmWinAddr 17 1 0 1 = 0 ∧ (1 : Func).val ≠ 0 ∧
    ((bay0 { present := true }).setFld .hbmWinAddr 16 1 1 0 1).fld .hbmWinAddr 16 1 0 1 = 1 ∧
    ((bay0 { present := true }).setFld .hbmWinAddr 17 1 1 0 1).fld .hbmWinAddr 17 1 0 1 = 1 ∧ (s.pen 1).checkRunning = true ∧
    s.commitFail 1 = none ∧ s.job 1 = none ∧ bad.commitFail 1 = some (0, 1) ∧ (bad.pen 1).checkRunning = true ∧
    j.commitFail 1 = none ∧ (j.job 1).isSome = true := by decide +kernel

/-- The last byte that an entry covers, and the first beyond it. -/
theorem witness_FirstCoveringWindowDecides :
    let s := bay0 { present := true, bays := 1#12, active := [(0, win0)] }
    2 ^ 48 - 1 < 2 ^ 48 ∧ (s.pen 1).active = [] ++ (0, win0) :: [] ∧ (winEntry win0).covers (2 ^ 21 - 1) = true ∧
    (∀ kv ∈ (s.pen 1).active, (winEntry kv.2).covers (2 ^ 21) = false) ∧ (winEntry win0).rd = true ∧ (winEntry win0).wr = false := by
  decide +kernel

/-- A write through a read-only window is a WINDOW_PERM, an address that no entry covers a WINDOW_MISS (R308). -/
theorem test_translate :
    let s := bay0 { present := true, bays := 1#12, active := [(0, win0)] }
    ((match s.translate 1 true 0 with | .error e => e == 2 | _ => false) &&
      (match s.translate 1 false (2 ^ 21) with | .error e => e == 1 | _ => false) &&
      (match s.translate 1 false (2 ^ 21 - 1) with | .ok d => d == 2 ^ 21 - 1 | _ => false)) = true := by decide +kernel

/-! ### Links -/

/-- Port 0 in a state, with its link layer and pen 1's job. -/
def link (st : Nat) (x : XPort) (j : Option Job := none) : State :=
  let s : State := { power := .idle, pens := [(1, { present := true, bays := 1#12, job := j })], ports := [(0, x)] }
  ((s.setFld .devIdent 16 12 1).setPortState 0 st).setFld .xglPortStatus 24 8 0xFF 0

/-- Codewords with 0, 15 and 16 symbols in error on the last lane; each ground of a retrain; a retrain whose partner's lanes and identity are
in, and one that waits for them. -/
theorem witness_CodewordsAndRetrains :
    let i : LinkIdentity := { devId := 1#16, idValid := true, port := 0, part := 1#16, serial := 2#64 }
    let s := link portUp {}
    let e (n : Nat) : Codeword := { payload := [], errs := (List.range n).map (fun k => (k, 1#10)) }
    let r := link portRetraining { rxGood := 0xFF#8, txGood := 0x0F#8, idIn := some i, lanesIn := some 0x0F#8 }
    s.cwArrive 0 = true ∧ (s.rxLanes 0).getLsbD 7 = true ∧ s.injection = none ∧ cwErrors (e 0) = 0 ∧ cwErrors (e 15) = 15 ∧
    cwErrors (e 16) = 16 ∧ (zeros 640).length = 640 ∧
    (link portUp { lanes := [(7, { unlockRun := 8 })] }).portRuns 0 = true ∧
    8 ≤ ((link portUp { lanes := [(7, { unlockRun := 8 })] }).port 0 |>.lane 7).unlockRun ∧
    (link portUp { nakRun := 8 }).portState 0 = portUp ∧ (link portUp { nakRun := 8 }).retryBudget ≤ 8 ∧
    (link portDown {}).portRuns 0 = false ∧ (link portRetraining {}).portState 0 = portRetraining ∧
    (link portRetraining {}).port 0 = {} ∧ (0xFF#8).getLsbD 7 = true ∧ (0x80#8).getLsbD 7 = true ∧
    r.portState 0 = portRetraining ∧ (r.port 0).locked = none ∧ (r.port 0).rxGood &&& 0#8 = 0#8 ∧ (r.port 0).idIn = some i ∧
    (r.port 0).lanesIn = some 0x0F#8 ∧ (r.port 0).txGood &&& ~~~(0x0F#8) = 0#8 := by decide +kernel

/-- A codeword for logical lane 1 with count 4,095 is laid out and read back (R343). -/
theorem test_codeword :
    let w := cwPayload 1 4095 (List.replicate 640 0xA5#8)
    (decide (w.length = 514) && decide (cwLane w = 1) && decide (cwCountOf w = 4095) && decide ((cwFlit w).getD 639 0#8 = 0xA5#8) &&
      decide (w.getD 0 0#10 = BitVec.ofNat 10 (1 + 127 * 8))) = true := by decide +kernel

/-- Eight uncorrectable codewords in a row retrain the port (R352). -/
theorem test_loss_of_lock :
    after1 (exec (.lossOfLock 0 7) (link portUp { lanes := [(7, { unlockRun := 8 })] })) (fun t => t.portState 0 == portRetraining) = true ∧
    after1 (exec (.lossOfLock 0 7) (link portUp { lanes := [(7, { unlockRun := 7 })] })) (fun t => t.portState 0 == portUp) = true := by
  decide +kernel

theorem witness_IdentityLanesAndRetirement :
    let s := link portUp { lanes := [(7, { due := true })], rxGood := 0xFF#8 }
    let t := link portUp { lanesIn := some 0x7F#8, txGood := 0xFF#8 }
    let w := (link portUp { lanes := [(7, { windowUe := 5 })] }).setFld .xglPolicy 0 8 5
    (∀ st ∈ [portAbsent, portQuiet, portIdle], (link st {}).portDeaf 0 = true) ∧ s.portRuns 0 = true ∧ (link portDown {}).portRuns 0 = false ∧
    (link portDown {}).portDeaf 0 = false ∧ ((link portDown {}).port 0).locked = none ∧
    ((s.port 0).txSeq + 2 ^ 32 - (0#32).toNat) % 2 ^ 32 < 2 ^ 31 ∧ 2 ^ 31 ≤ ((s.port 0).txSeq + 2 ^ 32 - (1#32).toNat) % 2 ^ 32 ∧
    s.portState 0 = portUp ∧ s.injection = none ∧ (∀ l, l < 8 → s.windowAbove ((s.port 0).lane l) = false) ∧
    w.windowAbove ((w.port 0).lane 7) = true ∧ (BitVec.ofNat 8 (w.fld .xglPortStatus 24 8 0)).getLsbD 7 = true ∧ (0xFF#8).getLsbD 7 = true ∧
    w.portState 0 = portUp ∧ w.injection = none ∧ (w.setFld .xglPolicy 8 4 1).fld .xglPolicy 8 4 ≤ ((w.port 0).lane 7).aboveRun + 1 ∧
    (w.setFld .xglPolicy 8 4 1).fld .xglPolicy 8 4 ≠ 0 ∧
    ((s.port 0).lane 7).due = true ∧ s.laneMoment 0 = true ∧ t.portState 0 = portUp ∧ (t.port 0).lanesIn = some 0x7F#8 ∧
    (0x7F#8).getLsbD 7 = false ∧ (t.retiredLanes 0 0).getLsbD 7 = false := by decide +kernel

/-- The partner's identity in the tests. -/
def partner : LinkIdentity := { devId := 1#16, idValid := true, port := 0, part := 1#16, serial := 2#64 }

theorem witness_TrainingBringsAPortUp :
    let lk (x : XPort) := ({ link portTraining x with linkStage := true }).setFld .xglPortStatus 12 1 1 0
    ((link portQuiet {}).setFld .mgtBoot 0 4 stageLinks).stage = stageLinks ∧ (link portQuiet {}).linkStage = false ∧
    (link portQuiet {}).power ≠ .off ∧ (link portQuiet {}).power ≠ .keep ∧ (link portSettling {}).portState 0 = portSettling ∧
    ((link portSettling {}).port 0).held = none ∧ ((link portSettling {}).port 0).attempt = false ∧
    ((link portSettling { attempt := true }).port 0).attempt = true ∧
    ((link portSettling { held := some .operator }).port 0).held = some .operator ∧
    (lk {}).linkStage = true ∧ (lk {}).fld .xglPortStatus 12 1 0 = 1 ∧ (lk {}).portState 0 = portTraining ∧ ((lk {}).port 0).training = false ∧
    (lk {}).inStep2 < 6 ∧ ((lk { training := true }).port 0).training = true ∧ ((lk { training := true }).port 0).partnerSeen = false ∧
    (lk { training := true }).inStep2 < 6 ∧ (link portQuiet {}).portState 0 = portQuiet := by decide +kernel

/-- Six ports in step 2; steps 2 and 3 with a lane beyond the skew; a training that waits for its partner, and one whose partner's lanes are too
few; the checked port with each error rate; the end of the census and of the stage. -/
theorem witness_training_ends :
    let tr (x : XPort) := link portTraining { x with training := true, partnerSeen := true }
    let six := (List.range 6).foldl (fun s q => (s.setPortState q portTraining).setPort q { training := true, partnerSeen := true }) (link portDown {})
    let skew : List Nat := [4, 0, 5]
    let ck (x : XPort) := (link portChecking { x with rxGood := 0xFF#8 }).setFld .xglPolicy 12 4 5
    let noisy : SMap Lane := [(7, { berBits := 1062501 })]
    let rx := deskewed 0xFF#8 [] &&& ~~~((tr {}).retiredLanes 0 1)
    6 ≤ six.inStep2 ∧ (∀ q ∈ skew, q < 2 ^ 64) ∧ (deskewed 0x7#8 skew).getLsbD 0 = true ∧ (deskewed 0x7#8 skew).getLsbD 2 = false ∧
    ((tr {}).port 0).training = true ∧ (tr {}).portState 0 = portTraining ∧ ((tr {}).port 0).locked = none ∧ ((tr {}).port 0).idIn = none ∧
    widthOf rx ≠ 0 ∧ widthOf (deskewed 0x80#8 [] &&& ~~~((tr {}).retiredLanes 0 1)) = 0 ∧
    ((tr { idIn := some partner, lanesIn := some 0x03#8 }).port 0).lanesIn = some 0x03#8 ∧
    widthOf (0x03#8 &&& ~~~((tr {}).retiredLanes 0 0)) ≠ 0 ∧ widthOf (0x01#8 &&& ~~~((tr {}).retiredLanes 0 0)) = 0 ∧
    ((tr { locked := some 0xFF#8 }).port 0).locked = some 0xFF#8 ∧ widthOf 0xFF#8 ≠ 0 ∧
    (ck {}).portState 0 = portChecking ∧ (0x7F#8) ≠ lanesInUse ((ck {}).port 0).rxGood ∧ (ck {}).fld .xglPolicy 12 4 = 5 ∧
    (∀ l, l < 8 → ¬ 106250000000 < (((ck { lanes := [(7, { berBits := 1062500 })] }).port 0).lane l).berBits * 10 ^ 5) ∧
    106250000000 < (((ck { lanes := noisy }).port 0).lane 7).berBits * 10 ^ 5 ∧ ((ck { lanes := noisy }).port 0).berRound = false ∧
    ((ck { lanes := noisy, berRound := true }).port 0).berRound = true ∧ (lanesInUse ((ck {}).port 0).rxGood).getLsbD 7 = true ∧
    (link portUp {}).portRuns 0 = true ∧ ({ link portUp {} with censusOpen := true } : State).censusOpen = true ∧
    (∀ q, q < 12 → ((List.range 12).foldl (fun s q => s.setPortState q portDown) (link portUp {})).portSettled q = true) := by decide +kernel

/-- Lanes 0 to 7 good in one direction and two in the other: widths 8 and 2 (R345, R377). -/
theorem test_training_complete :
    after1 (exec (.trainingComplete 0 0xFF#8 (List.replicate 8 0) 0#8)
        (link portTraining { training := true, partnerSeen := true, idIn := some partner, lanesIn := some 0x03#8 }))
      (fun t => t.widthNow 0 1 == 8 && t.widthNow 0 0 == 2 && t.fld .xglPartner 0 16 0 == 1) = true := by decide +kernel

theorem witness_PortCommandsTrainIdleAndClear :
    let s := { link portSettling {} with linkStage := true }
    let d (lock : Nat) := ({ link portDown {} with linkStage := true }).setFld .xglPortStatus 12 1 lock 0
    let h := ({ link portSettling { held := some .operator } with linkStage := true }).setFld .xglCmd 6 1 1
    s.preempts .operator = false ∧ s.xglRefused 0 .operator true = none ∧ s.portState 0 = portSettling ∧
    (∀ n, n < 2 → (d n).preempts .operator = false ∧ (d n).xglRefused 0 .operator true = none ∧ (d n).portState 0 = portDown ∧
      (d n).fld .xglPortStatus 12 1 0 = n) ∧ s.xglRefused 0 .operator false = none ∧
    h.xglRefused 0 .operator true = some 1 ∧ h.preempts .authority = true ∧ h.xglRefused 0 .authority true = none ∧
    h.xglRefused 0 .authority false = none ∧ s.xglRefused 1 .operator true = some 4 ∧
    (link portDown {}).xglRefused 0 .operator true = some 3 ∧ (∀ q, q < 12 → (s.port q).held = none) ∧
    ({ link portDown {} (some job2) with linkStage := true }).xglRefused 0 .operator true = some 5 := by decide +kernel

/-- A vote message of the device, with one line. -/
def voteMsg : LinkMsg :=
  { mtype := 1, vote := true, jobTag := 0#16, srcDev := 0#16, dstDev := 5#16, srcPort := 0, lines := [List.replicate 64 0#8] }

/-- A flit of nine empty slots, as its bytes. -/
def flit9 (k : FlitKind) (fseq : BitVec 32) : List Byte :=
  flitBytes { kind := k, nak := none, fseq := fseq, ackSeq := 0#32, slots := List.replicate 9 .empty }

/-- A flit is read back from its bytes, and one whose CRC field is one off is not good (R346, R347). -/
theorem test_flit_bytes :
    let b := flit9 .normal 0x89ABCDEF#32
    b.length = 640 ∧ (flitOf b).fseq = 0x89ABCDEF#32 ∧ (flitOf b).kind = .normal ∧ flitGood b = true ∧
    flitGood (zeros 56 ++ le 8 ((crc64 (zeros 56 ++ zeros 576)).toNat + 1) ++ zeros 576) = false :=
  ⟨length_flitBytes _, by decide +kernel, by decide +kernel, flitGood_flitBytes _, flitGood_wrong (by simp) (by simp)⟩

theorem witness_FlitsTravelInOrder :
    let x (b : Option (List Byte)) : XPort := { rxAt := some (9, 0), rxCw := [(9, 0, b)] }
    let hear (x : XPort) := (link portUp x).portHears 0
    let late : XPort := { rxAt := some (9, 0), rxCw := [(14, 0, none)] }
    let taken (x : XPort) := (x.takePlace 8 (9, 0)).map Prod.fst
    hear {} = true ∧ ({} : XPort).nextPlace = none ∧ (x none).nextPlace = some (9, 0) ∧ 1 ≠ (9, 0).2 ∧ taken (x none) = some none ∧
    (∀ b, taken (x (some b)) = some (some b)) ∧
    (∀ k ∈ [FlitKind.idle, .normal, .control .retrain], (flitOf (flit9 k 0#32)).kind = k) ∧ (∀ k, flitGood (flit9 k 0#32) = true) ∧
    taken late = some none ∧ (∃ e ∈ late.rxCw, 4 < (e.1 + 4096 - 9) % 4096 ∧ (e.1 + 4096 - 9) % 4096 < 2048) ∧
    taken { late with rxCw := [(13, 0, none)] } = none ∧ ((0#32).toNat = ({} : XPort).rxExpect) ∧ ((1#32).toNat ≠ ({} : XPort).rxExpect) ∧
    (∀ n, (Ctl.retrain, n) ∈ ({ ctlSeen := [(.retrain, 4095)] } : XPort).ctlSeen → n = 4095) ∧ 2 < (2 + 4096 - 4095) % 4096 ∧
    (1 + 4096 - 4095) % 4096 ≤ 2 ∧ (link portUp {}).cwArrive 0 = true ∧ ((link portUp {}).port 0).widthFrom = none ∧
    (link portRetraining {}).portState 0 = portRetraining ∧ 0 < min (((link portUp {}).setFld .xglPortStatus 4 4 8 0).txWidth 0) 1 := by
  refine ⟨by decide +kernel, by decide +kernel, by decide +kernel, by decide +kernel, by decide +kernel, fun _ => rfl, by decide +kernel,
    fun _ => flitGood_flitBytes _, by decide +kernel, by decide +kernel, by decide +kernel, by decide +kernel, by decide +kernel, ?_,
    by decide +kernel, by decide +kernel, by decide +kernel, by decide +kernel, by decide +kernel, by decide +kernel⟩
  intro n h; simpa using h

/-- Flits to send and messages to pick. -/
theorem witness_flits_and_messages_to_send :
    let q := link portUp { voteQ := [voteMsg] } (some job2)
    let x : XPort := {}
    let alt := (link portDown { dataQ := [(64, [{ voteMsg with vote := false, hop := 1 }])] }
      (some { job2 with route := [(5, 0x10)], useAlt := true })).setFld .devMode 1 1 1
    x.resend = [] ∧ ({ x with stream := [Slot.empty] }).stream ≠ [] ∧ ({ x with replay := List.replicate 511 (0, []) }).replay.length < 512 ∧
    x.widthFrom.map Prod.fst ≠ some x.txSeq ∧ ({ x with widthFrom := some (0, 1#8) }).widthFrom.map Prod.fst = some x.txSeq ∧
    ({ x with resend := [(7, [])] }).resend = (7, []) :: [] ∧
    512 ≤ ({ x with replay := List.replicate 512 (0, []) }).replay.length ∧ (q.job (q.penOfPort 0)).isSome = true ∧ q.portState 0 = portUp ∧
    (q.pickMsg job2 (q.port 0)).isSome = true ∧ ((q.port 0).charge voteMsg).isSome = true ∧ q.fld .xglPortStatus 13 1 0 = 0 ∧
    (alt.port 0).heads = [] ++ { voteMsg with vote := false, hop := 1 } :: [] ∧ alt.portState 0 ≠ portUp ∧
    routePrimary (routeOf (alt.jobD 1) 5) = 0 ∧ routeAlt (routeOf (alt.jobD 1) 5) < 12 ∧ alt.fld .devMode 1 1 = 1 ∧ (alt.jobD 1).useAlt = true ∧
    ownMsg alt { voteMsg with vote := false, hop := 1 } = false ∧ ownMsg alt { voteMsg with vote := false } = true := by decide +kernel

/-- Ten slots waiting go out as a flit of nine with sequence number 2^32 - 1, which wraps (R346, R348). -/
theorem test_next_flit :
    let r := ({ stream := List.replicate 10 .empty, txSeq := 2 ^ 32 - 1 } : XPort).nextFlit true none
    (decide (r.1.fseq = 0xFFFFFFFF#32) && decide (r.2.txSeq = 0) && decide (r.2.stream.length = 1) && decide (r.2.replay.length = 1)) = true := by
  decide +kernel

/-- The device 5 with a job that has a link key. -/
def keyed : State :=
  (link portUp {} (some { job2 with linkKey := some (zeros 32), tx := [(txKeyIx 0 0, {})] })).setFld .xglDeviceId 0 16 5

/-- A message with its tag under the key of that job; its lines are the ciphertext. -/
def sealed (m : LinkMsg) : LinkMsg :=
  { m with tag := gcmTag (msgKey (zeros 32) m.jobTag.toNat m.srcDev.toNat m.srcPort m.dstDev.toNat) (msgIv m) (msgAad m) m.lines.flatten }

/-- The message as the receiving port finds it: the state whose buffer it has left. -/
def received (m : LinkMsg) : State := keyed.onPort 0 (fun x => x.free (sealed m))

theorem admits (m : LinkMsg) (hp : (received m).msgPen 0 (sealed m) = some 1) (hj : ((received m).jobD 1).linkKey = some (zeros 32))
    (hi : (received m).injection = none) (hf : ctrFresh ((received m).jobD 1) (sealed m) = true) :
    ∃ s1 j ls, (received m).admitMsg 0 (sealed m) = (s1, some (1, j, ls)) := by
  refine ⟨received m, (received m).jobD 1,
    chunks 64 (gcmCrypt (msgKey (zeros 32) m.jobTag.toNat m.srcDev.toNat m.srcPort m.dstDev.toNat) (msgIv m) m.lines.flatten), ?_⟩
  have h : msgOpen (sealed m) (msgKey (zeros 32) (sealed m).jobTag.toNat (sealed m).srcDev.toNat (sealed m).srcPort (sealed m).dstDev.toNat) =
      some (chunks 64 (gcmCrypt (msgKey (zeros 32) m.jobTag.toNat m.srcDev.toNat m.srcPort m.dstDev.toNat) (msgIv m) m.lines.flatten)) := by
    simp [msgOpen, gcmOpen, sealed, msgIv, msgAad]
  simp [State.admitMsg, hp, hj, State.fireOnPort, hi, h, hf]

/-- A write, a signal and an acknowledgement whose tags verify are admitted; one whose tag does not is not, nor one of no job. -/
theorem witness_MessagesAreCheckedAndPerformed :
    (∀ t, t = 1 ∨ t = 2 ∨ t = 3 → ∃ s1 j ls, (received { voteMsg with mtype := t, lines := [] }).admitMsg 0
      (sealed { voteMsg with mtype := t, lines := [] }) = (s1, some (1, j, ls))) ∧
    (∃ s1 j ls, (received { voteMsg with vote := false }).admitMsg 0 (sealed { voteMsg with vote := false }) = (s1, some (1, j, ls))) ∧
    voteMsg.dstDev.toNat = keyed.devId ∧ (link portUp {}).msgPen 0 voteMsg = none := by
  refine ⟨?_, ?_, ?_, ?_⟩
  · rintro t (rfl | rfl | rfl) <;> exact admits _ (by decide +kernel) (by decide +kernel) (by decide +kernel) (by decide +kernel)
  · exact admits _ (by decide +kernel) (by decide +kernel) (by decide +kernel) (by decide +kernel)
  · decide +kernel
  · decide +kernel

/-- A key that acknowledges what it has seen, a link with a message not acknowledged, or one that waits on a port that is down; a group that
may close; messages to forward, with a route, without one, and after seven hops. -/
theorem witness_messages_beside_admission :
    let s := link portUp {} (some { job2 with rx := [(rxKeyIx 7 1, { sinceAck := 1 })], tx := [(0, { next := 1, open_ := [(0, voteMsg)] })],
                                              route := [(9, 0xF1), (8, 0xFF)],
                                              groups := [(63, { valid := true, deadline := true, membersM1 := 1 })],
                                              cur := some { step := 7, attempt := 0 } })
    let d := link portDown { voteQ := [voteMsg] } (some job2)
    (∀ st ∈ [portAbsent, portQuiet, portIdle], (link st {}).portDeaf 0 = true) ∧ s.portDeaf 0 = false ∧
    (s.job (s.penOfPort 0)).isSome = true ∧ 0 < (rxKeyAt s 0 7 1).sinceAck ∧ (0 : Nat) / 65536 = 0 ∧
    (s.jobD 1).tx ≠ [] ∧ d.ownWaits 0 (d.jobD 1) = true ∧
    (∃ a own, mayClose (s.jobD 1) 63 = some (a, own)) ∧ (groupRec (s.jobD 1) 63).deadline = true ∧
    s.replayMode 1 = false ∧ s.msgPen 0 voteMsg = some 1 ∧ s.routeChoice (s.jobD 1) 9 = some (1, false) ∧ s.routeChoice (s.jobD 1) 8 = none ∧
    (6 : Nat) < 7 ∧ (7 : Nat) ≤ 7 ∧ voteMsg.dstDev.toNat ≠ s.devId ∧
    keyed.ackedKey (keyed.jobD 1) 0 1 0 = some (txKeyIx 0 0) := by
  refine ⟨?_, ?_, ?_, ?_, ?_, ?_, ?_, ⟨_, _, rfl⟩, ?_, ?_, ?_, ?_, ?_, ?_, ?_, ?_, ?_⟩ <;> decide +kernel

/-- The forms of a write: to the buddy region, ungrouped and granted or not, the last of a grouped transfer with its digest or another; a
signal whose transfer has an earlier message in a buffer. -/
theorem witness_message_forms :
    let g : GroupRec := { valid := true, membersM1 := 1, chunkLog2 := 11 }
    let j : Job := { job2 with groups := [(5, g)], buddyFrom := some 7, buddy := some (0, 0, 4096) }
    let s : State := { link portUp { rxBuf := [voteMsg] } with
      pens := [(1, { present := true, bays := 1#12, active := [(0, (BitVec.ofNat 64 (1 + 4 + 8 + 2 ^ 8), 0#64))], job := some j })] }
    let m : LinkMsg := { voteMsg with vote := false, group := 0x7F }
    let n : LinkMsg := { m with group := 5 }
    isBuddyWrite j { m with srcDev := 7#16, dstVa := 2 ^ 47 } = true ∧ isBuddyWrite j m = false ∧ 64 ≤ m.group ∧ n.group < 64 ∧
    (s.rangeCause 1 true 0 64).isNone = true ∧ (s.rangeCause 1 true (2 ^ 21) 64).isSome = true ∧ s.injection = none ∧
    (groupRec j 5).closing = false ∧ isBuddyWrite j n = false ∧ endsChunk 2048 (rxXferOf j n) n = false ∧
    endsChunk 2048 (rxXferOf j n) { n with last := true } = true ∧ (rxXferOf j n).chunk ≤ 0 ∧
    chunkMatches 2048 (rxXferOf j n) { n with last := true, lines := [List.replicate 64 1#8] } = false ∧
    chunkMatches 2048 (rxXferOf j n) { n with last := true } = true ∧
    (s.job 1).isSome = true ∧ s.earlierWaits { voteMsg with ctr := 1 } = true ∧ (∀ q ∈ (s.jobD 1).rxHeld, s.earlierWaits q = true) := by
  decide +kernel

/-! ### Faults, weather and random numbers -/

/-- Bay 0 of pen 1, its site 0 in a state and with a yoke. -/
def site0 (st yoke : Nat) (j : Option Job) : State :=
  ((({ power := .idle, pens := [(1, { present := true, bays := 1#12, job := j })] } : State).setFld .devIdent 16 12 1).setFld .coreSiteState 0 4 st
    0).setFld .coreSiteState 24 2 yoke 0

theorem witness_FaultsFenceReplayAndTest :
    let s := site0 siteActive 0 (some job2)
    let ch := (((site0 siteActive yokeRunner (some job2)).setFld .coreSiteState 24 2 yokeChecker 1).setFld .coreSiteState 8 8 0 1)
    let ut := (site0 siteUnderTest 0 none).setFld .errSiteTest 0 2 3 0
    let no := (({} : State).setFld .coreSiteState 0 4 siteUnderTest 167).setFld .errSiteTest 0 2 3 167
    s.injection = none ∧ s.inService 0 = true ∧ s.penOfBay (bayOfSite 0) ≠ 0 ∧ (({ s with injection := some ⟨22, 0, 0, 1⟩ } : State).fireInjection 22 0 0).2 = true ∧ (s.fireInjection 22 0 0).2 = false ∧ ({ s with injection := some ⟨22, 0, 0, 2⟩ } : State).injection = some ⟨22, 0, 0, 2⟩ ∧
    (site0 siteActive yokeWide none).siteYoke 0 = yokeWide ∧ s.siteYoke 0 ≠ yokeWide ∧
    (placeOf (ch.jobD 1) 0).head? = some 0 ∧ ch.checkerOf 1 0 = some 1 ∧ ut.site 0 = siteUnderTest ∧ ut.fld .errSiteTest 0 2 0 = 3 ∧
    ut.job 1 = none ∧ ut.penOfBay (bayOfSite 0) = 1 ∧ no.site 167 = siteUnderTest ∧ no.penOfBay (bayOfSite 167) = 0 := by decide +kernel

/-- An adoption under way and a replay at its end. -/
theorem witness_adoption_and_replay :
    (∃ j, (site0 siteActive 0 (some { job2 with adopting := [(0, 1)] })).job 1 = some j ∧ j.adopting = [(0, 1)]) ∧
    (∃ j, (site0 siteActive 0 (some job2)).job 1 = some j ∧ j.adopting = []) ∧
    (∃ j a, (site0 siteActive 0 (some { job2 with replayRun := true, cur := some { step := 7, attempt := 0, phase := .sweepWait } })).job 1 = some j ∧
      j.cur = some a ∧ j.replayRun = true ∧ a.phase = .sweepWait) := by
  exact ⟨⟨_, rfl, rfl⟩, ⟨_, rfl, rfl⟩, ⟨_, _, rfl, rfl, rfl, rfl⟩⟩

/-- A fence takes the site out of service (R507, R509). -/
theorem test_site_fence :
    after1 (exec (.siteFence 0 2) (site0 siteActive 0 (some job2))) (fun t => t.site 0 == siteFenced) = true := by decide +kernel

theorem witness_WeatherInjectionsAndNoise :
    let inj (d b u n : Nat) : State := (site0 siteActive 0 none).setReg .injSel (BitVec.ofNat 64 (d + b * 2 ^ 8 + u * 2 ^ 16 + n * 2 ^ 32))
    let w : State := { ({} : State) with wx := [(wxKey 11 22, [[0, 0]])], wxThr := [(22, 2#64)] }
    (inj 22 0 0 1).unitExists 22 0 0 = true ∧ (inj 22 0 0 1).fld .injSel 0 8 = 22 ∧ (inj 22 0 0 1).fld .injSel 32 16 = 1 ∧
    (inj 22 0 0 1).site 0 ≠ siteUnderTest ∧ (inj 0 0 0 1).fld .injSel 0 8 = 0 ∧ 22 < (inj 23 0 0 1).fld .injSel 0 8 ∧
    (inj 1 11 0 1).unitExists 1 11 0 = false ∧ ({ inj 1 0 0 1 with injection := some ⟨1, 0, 0, 1⟩ } : State).injection ≠ none ∧
    (let t := ((site0 siteUnderTest 0 none).setReg .injSel (BitVec.ofNat 64 (2 + 2 ^ 32)))
     t.unitExists 2 0 0 = true ∧ siteDetector 2 = true ∧ t.site (14 * 0 + 0) = siteUnderTest ∧ t.injection = none) ∧
    (inj 1 0 0 1).injection = none ∧ levelThreshold (w.wxThreshold 22) 1 = 2 ∧ (w.wxUnits 11 22).length = 2 ∧
    (let q := (w.setReg .errWxThresh 8#64 22).setFld .errWxCount 48 2 1 (wxKey 11 22)
     q.fld .errWxCount 48 2 (wxKey 11 22) ≠ 0 ∧ 2 * (q.wxShift.wxUnits 11 22).length < levelThreshold (q.reg .errWxThresh 22) 1) ∧
    (({} : State).wxUnits 0 1).length < levelThreshold (({ wxThr := [(1, 2#64)] } : State).wxThreshold 1) 1 ∧ levelThreshold (w.wxThreshold 22) 2 = 0 ∧
    levelThreshold (w.wxThreshold 22) 3 = 0 ∧ w.fld .errWxCount 48 2 (wxKey 11 22) = 0 ∧
    (repetition (0, false) (List.replicate 40 true)).2 = false ∧ (repetition (0, false) (List.replicate 41 true)).2 = true ∧
    proportionFails (List.replicate 793 true ++ List.replicate 231 false) = false ∧
    proportionFails (List.replicate 41 true) = false ∧
    startupPasses (List.replicate 41 true) = false ∧ startupPasses [true, false] = true ∧
    (({} : State).setFld .rngStatus 0 2 rngOk).rngState = rngOk ∧ (({ powerGood := true } : State)).rngState = rngStarting ∧ ({ powerGood := true } : State).powerGood = true ∧
    (({} : State).setFld .rngStatus 0 2 rngFailed).rngState = rngFailed := by decide +kernel

/-- Forty-one equal samples in a row are one failed window; the source fails at the third (R460, R462). -/
theorem test_third_failed_window :
    after1 (exec (.noiseWindow (List.replicate 41 true)) { ({} : State).setFld .rngStatus 0 2 rngOk with rngFails := 2 })
      (fun t => t.rngState == rngFailed) = true := by decide +kernel

/-! ### Rings and their commands -/

/-- Ring 4095 of pen 1's function: 2 entries, on, the host's indices and the commands that it holds. -/
def ringAt (on : Bool) (x : RingS) (p : PenS := { present := true, bays := 1#12 }) : State :=
  let s : State := { power := .idle, pens := [(1, p)], rings := [(4095, x)] }
  (s.setReg .hifRingCtl (BitVec.ofNat 64 (bitIf on 0 + 1 * 2 + 2 ^ 16)) 4095).setFld .mgtBoot 0 4 stageReady

/-- The same ring with its function's round used up, while PF0 has a fetch left in it, and the visits have come to the ring. -/
def ringTwo : State :=
  let s := ringAt true { cmdTail := 1 }
  { (s.setReg .hifRingCtl (BitVec.ofNat 64 (1 + 2)) 0) with
    rings := [(0, { cmdTail := 1 }), (4095, { cmdTail := 1 })], ringNext := [(1, 4095)], hifUsed := [(1, (1, 0, 0))],
    pens := [(1, { present := true, bays := 1#12 }), (2, { present := true, bays := 2#12 })] }

theorem witness_RingsAndBar4 :
    let off := ringAt false {}
    let on := ringAt true { cmdTail := 1 }
    let f (c : Inflight) := ringAt true { inflight := [c] }
    let c : Inflight := { index := 0, fn := 1, pen := 1, opcode := 1, flags := 0, aux := 0, len := 4, cookie := 5#64, body := [], done := some (0, []) }
    let irq := (ringAt true { intDue := true }).setFld .hifRingCtl 7 1 1 4095
    let ev := { ({} : State).setReg .hifRingCtl (BitVec.ofNat 64 (1 + 2 + 2 ^ 6 + 2 ^ 16)) 0 with evq := [(1, [⟨400, 0#64, []⟩])] }
    off.ringOwner 4095 = 1 ∧ off.ringOn 4095 = false ∧ off.atReady = true ∧ off.fld .hifRingCtl 1 5 4095 = 1 ∧
    (off.reg .hifRingCmdBase 4095).toNat % 4096 = 0 ∧ (off.reg .hifRingCplBase 4095).toNat % 4096 = 0 ∧
    ((off.setFld .hifRingCtl 1 5 17 4095).fld .hifRingCtl 1 5 4095 = 17) ∧ ((off.setFld .hifRingCtl 1 5 0 4095).fld .hifRingCtl 1 5 4095 = 0) ∧
    on.ringOn 4095 = true ∧ wrapSub 2 (on.cmdHead 4095) ≤ on.ringSize 4095 ∧ on.ringSize 4095 < wrapSub 3 (on.cmdHead 4095) ∧
    wrapSub (on.cplTail 4095) 0 ≤ on.ringSize 4095 ∧ on.mayFetch 4095 = true ∧ { on with ringNext := [(1, 4095)] }.ringTurn 4095 = true ∧
    on.fetchesLeft 1 ≠ 0 ∧ (let z := { on with hifUsed := (List.range 13).map (fun f => (f, (1, 65536, 65536))) }; z.fetchesLeft 1 = 0 ∧ z.roundOver = true ∧ z.mayFetch 4095 = true) ∧
    (let z := ringTwo; z.fetchesLeft 1 = 0 ∧ z.roundOver = false ∧ z.mayFetch 4095 = true ∧ z.ringTurn 4095 = true) ∧
    off.mayFetch 4095 = false ∧ on.locked = false ∧ (entryRefusal (entryCmd 1 0 (zeros 64)) 0 (zeros 16)).isNone = true ∧
    movesData 0 = false ∧ hasParams 0 0 = false ∧ (entryRefusal (entryCmd 1 0 (le 2 0xFFFF ++ zeros 62)) 0 (zeros 16)).isSome = true ∧ on.confFn 1 = false ∧
    (on.setFld .secTamper 7 1 1).locked = true ∧ ((f c).ring 4095).inflight = [c] ∧ c.done = some (rsOk, []) ∧ hostData c.opcode = true ∧
    (irq.ring 4095).intDue = true ∧ irq.fld .hifRingCtl 7 1 4095 = 1 ∧ ev.eventRing 1 = some 0 ∧ eventParts ⟨400, 0#64, []⟩ = [[]] ∧
    1 ≤ ev.freeSlots 0 := by decide +kernel

/-- A window of pen 1 that grants both, a virtual address inside it and one outside; a pen that is confidential; a step too long. -/
theorem witness_bar4_and_step_limit :
    let s := ringAt false {} { present := true, bays := 1#12, active := [(0, (BitVec.ofNat 64 (1 + 4 + 8 + 2 ^ 8), 0#64))] }
    let c := (ringAt false {} { present := true, bays := 1#12, confidential := true }).setFld .hifBar4Sel 0 4 1 0 0
    let l := (ringAt false {} { present := true, bays := 1#12, job := some { job2 with cur := some { step := 7, attempt := 0, phase := .forward } } }).setFld
      .hifPenCfg 8 24 1 1
    s.bar4Pen 1 = 1 ∧ s.rangeCause 1 false 0 8 = none ∧ s.rangeCause 1 true (2 ^ 21 - 8) 8 = none ∧
    s.rangeCause 1 false (2 ^ 21 - 4) 8 ≠ none ∧ s.rangeCause 1 true (2 ^ 21) 1 ≠ none ∧ s.vaPoison 1 0 8 = false ∧ c.bar4Pen 0 = 1 ∧
    (c.pen 1).confidential = true ∧ l.fld .hifPenCfg 8 24 1 ≠ 0 ∧ (l.job 1).isSome = true := by decide +kernel

/-- A completion entry begins with the opcode and carries the cookie and phase 1 (R623). -/
theorem test_completion :
    let c : Inflight := { index := 0, fn := 1, pen := 1, opcode := 6, flags := 0, aux := 0, len := 0, cookie := 0xAB#64, body := [], done := some (3, []) }
    after1 (exec (.commandCompletion 4095 false) (ringAt true { inflight := [c] }))
      (fun t => t.hostRead 0 10 == [6#8, 0#8, 0#8, 1#8, 3#8, 0#8, 1#8, 0#8, 0xAB#8, 0#8]) = true := by decide +kernel

/-- A ring whose next command has an opcode, body and aux, of a pen with a job or none. -/
def cmdState (op : Nat) (body : List Byte) (j : Option Job) (aux : Nat := 0) (len : Nat := 1) (params : List Byte := []) : State :=
  ringAt true { inflight := [{ index := 0, fn := 1, pen := 1, opcode := op, flags := 0, aux := aux, len := len, cookie := 0#64, body := fit 32 body,
                               params := params }] } { present := true, bays := 1#12, job := j }

/-- The command at the front of that ring. -/
def cmdOf (s : State) : Option (Nat × Inflight) := s.nextCmd 4095

theorem witness_RingCommandsTakeEffect :
    let s (op : Nat) := cmdState op [] (some job2)
    (∀ op, op < 10 → (cmdOf (s op)).map (fun x => (x.1, x.2.opcode)) = some (0, op)) ∧ (s 1).confFn 1 = false ∧ ((s 4).job 1).isSome = true ∧
    ((s 4).fld .updJob 0 2 0 ≠ 2) ∧ ((s 4).setFld .updJob 0 2 2 0).fld .updJob 0 2 0 = 2 ∧ (s 5).fld .updJob 0 2 0 ≠ 3 ∧
    t0Passed { job2 with attempts := [(7, 1)] } 7 = true ∧ t0Passed { job2 with attempts := [(7, 1)] } 8 = false ∧
    (s 7).fld .devMode 0 1 ≠ 1 ∧ (cmdState 4 [] none).job 1 = none ∧ (∀ b ∈ (fit 32 [1#8]).take 12, b.toNat < 64) ∧
    (∀ l ∈ yokePairs (fit 32 [1#8]), isWide job2 l = false ∧ l / 12 < job2.rows) ∧ (s 8).replayMode 1 = false ∧ (s 8).drbgReady = false ∧
    ((s 8).setFld .rngStatus 2 1 1).drbgReady = true ∧ (s 3).fld .devMode 0 2 = 0 ∧ ((s 3).setFld .devMode 0 2 1).fld .devMode 0 2 ≠ 0 ∧
    (((s 3).setFld .devMode 0 2 1).loadCheck 1 []).isSome = true := by decide +kernel

/-- Transfers that move whole, in part, and not at all; an export inside the journal and one past its end; the refusals of a yoke check and of
a seed. -/
theorem witness_transfers_and_refusals :
    let s (op len : Nat) (used : Nat) : State := { cmdState op [] (some { job2 with journal := (1, 0, 1) }) 0 len with hifUsed := [(1, (0, used, used))] }
    let q (op len used : Nat) := (cmdOf (s op len used)).map (fun x => (x.1, x.2.opcode, x.2.len, x.2.moved))
    let full := (List.range 13).map (fun f => (f, (1, 65536, 65536)))
    (∀ op ∈ [1, 2, 16], q op 4100 0 = some (0, op, 4100, 0)) ∧ roundPart ((s 1 4100 0).bytesLeft 1 dirIn) 4100 = 4100 ∧
    roundPart ((s 1 4100 61440).bytesLeft 1 dirIn) 4100 = 4096 ∧ roundPart ((s 1 4100 65536).bytesLeft 1 dirIn) 4100 = 0 ∧
    ({ s 1 4100 0 with hifUsed := full } : State).roundOver = true ∧ (s 1 4100 0).confFn 1 = false ∧
    0 + 4100 ≤ regionSize ({ job2 with journal := (1, 0, 1) } : Job).journal ∧ regionSize job2.journal < 0 + 4100 ∧
    4096 ≤ (s 16 4100 0).bytesLeft 1 dirOut ∧
    (∃ b ∈ (fit 32 [64#8]).take 12, 64 ≤ b.toNat) ∧ (∃ l ∈ yokePairs (fit 32 [1#8]), isWide { job2 with yokeWide := [0] } l = true) ∧
    (∃ l ∈ yokePairs (fit 32 [0#8, 1#8]), job2.rows ≤ l / 12) ∧
    ((s 7 1 0).setFld .devMode 0 1 1).fld .devMode 0 1 = 1 ∧ firstT0 { job2 with attempts := [(7, 1)] } = true ∧
    (cmdState 8 [] (some { job2 with replay := true })).replayMode 1 = true := by decide +kernel

/-- A step release reaches the pen and completes OK (R628). -/
theorem test_step_release :
    after1 (exec (.stepRelease 4095) (cmdState 6 [9#8] (some job2))) (fun t =>
      (t.pen 1).released == some 9 && ((t.ring 4095).inflight.map (fun c => c.done)) == [some (0, [])]) = true := by decide +kernel

theorem witness_CheckpointCommandsTakeEffect :
    let begun : Job := { job2 with decided := 8 }
    let s (op : Nat) := cmdState op [] (some job2)
    let r : Restore := {}
    sweepBegun begun 7 = true ∧ sweepBegun begun 8 = false ∧ (s 11).fld .updJob 0 2 0 ≠ 3 ∧ wordGone begun 7 = true ∧ wordGone begun 8 = false ∧
    job2.ckptRun = none ∧ job2.ckpt = none ∧ ({ job2 with buddy := some (1, 0, 1) } : Job).buddy ≠ none ∧
    ((winEntry win0).lo + (winEntry win0).span ≤ 2 ^ 47) ∧ firstT0 job2 = false ∧ job2.plan.recs = [] ∧ r.mixed = false ∧ r.narrow = false ∧
    r.nextStep = job2.plan.startStep ∧ fieldAt r.stateFp 0 8 = 0 ∧ fieldAt r.stateFp 8 8 = 0 ∧
    (s 16).confFn 1 = false ∧ 0 + 0 ≤ regionSize job2.journal ∧ regionSize job2.journal < 0 + 1 ∧
    ckptDue { job2 with decided := 8, ckpt := some { step := 7, buddy := false, buddyDev := 0, dedup := 0x7F, narrow := false } } ≠ none ∧
    carries job2 = false ∧ drained job2 = true ∧ drained { job2 with tx := [(0, { open_ := [(0, voteMsg)] })] } = false ∧
    carries { job2 with groupRx := [(0, { closed := true, late := [1], next := true })] } = true ∧
    (∀ op, op < 18 → (cmdOf (s op)).map (fun x => (x.1, x.2.opcode)) = some (0, op)) := by decide +kernel

/-- A shard file without entries, sealed by its SHA-256. -/
def emptyFile : List Byte := let h := fit 256 (le 4 0x53434541 ++ le 2 1); h ++ sha256 h

/-- The file is read from the command's buffers and is sealed; one byte changed and it is not (R555, R561). -/
theorem witness_restore :
    (match (({ cmdState 13 [] (some job2) 0 16 (le 8 0 ++ le 8 288) with
        hostMem := (List.range 288).map (fun i => (i, emptyFile.getD i 0#8)) } : State).restoreSource
          { index := 0, fn := 1, pen := 1, opcode := 13, flags := 0, aux := 0, len := 16, cookie := 0#64, body := [], params := le 8 0 ++ le 8 288 }
          4095 job2).2 with
      | .ok bs => fileSealed (bs.map Prod.fst) && (fileUses job2.plan (bs.map Prod.fst)).isEmpty
      | .error _ => false) = true := by decide +kernel

theorem witness_restore_broken : fileSealed (fit 288 (le 4 0x53434541 ++ le 2 1)) = false := by decide +kernel

/-- An arm is noted (R550). -/
theorem test_ckpt_arm :
    after1 (exec (.ckptArm 4095) (cmdState 11 (zeros 8 ++ le 8 7) (some job2) 1)) (fun t =>
      (match (t.jobD 1).ckpt with | some a => a.step == 7 && a.buddy | none => false) && t.fld .updCkpt 0 2 0 == 1) = true := by decide +kernel

/-! ### The authority -/

/-- A device at READY whose authority is the mailbox, without an owner. -/
def ready : State := (({ power := .idle, perst := false, pens := [] } : State).setFld .mgtBoot 0 4 stageReady).setFld .secAuth 3 2 rotChannel

/-- That device with an accepted order in the mailbox. -/
def ordered (op : Nat) (body : List Byte) : State := { ready with order := some { opcode := op, body := body } }

theorem ordered_arrives (op : Nat) (body : List Byte) : Arrives (ordered op body) .mailbox op body := ⟨_, rfl, rfl, rfl, (by decide +kernel : ready.locked = false)⟩

/-- An order record without a signature: the reserved opcode, the magic and the nonce. -/
def record (op nonce : Nat) : List Byte := le 4 0x4F414541 ++ le 2 op ++ le 2 0 ++ le 8 nonce ++ zeros 16

theorem witness_OrdersAreCheckedInOrder :
    let net := { ready.setFld .secAuth 3 2 netChannel with ownerPub := [1#8] }
    (ready.setFld .secTamper 7 1 1).locked = true ∧ ready.locked = false ∧ ready.authority ≠ netChannel ∧ ready.authority = rotChannel ∧
    ready.authentic rotChannel (record 5 0) = false ∧ net.authority = netChannel ∧ net.authentic netChannel (record 5 1) = true ∧
    orderNonce (record 5 1) ≠ net.nonce ∧ net.authentic netChannel (record 15 0) = true ∧ orderNonce (record 15 0) = net.nonce ∧
    orderReserved (record 15 0) = true ∧ ready.mgmtUp = true ∧ ready.perst = false ∧ ready.order = none ∧ 255 < 256 ∧
    (ready.setFld .secAuth 6 1 1).fld .secAuth 6 1 = 1 ∧
    (ready.orderRefusal rotChannel (ready.hostRead (ready.reg .hifAuthAddr).toNat (ready.fld .hifAuthCtl 0 32))).isSome = true ∧
    net.orderRefusal netChannel (record 5 0) = none := by decide +kernel

/-- An image of the authority with the one section MODE. -/
def modeImage (mode : Nat) : List Byte :=
  fit 0x90 (le 4 0x42434541 ++ le 2 1 ++ [1#8, 0#8] ++ le 2 1 ++ zeros 6 ++ le 4 264) ++ (le 2 8 ++ zeros 2 ++ le 4 160 ++ le 4 8 ++ zeros 4) ++
    le 8 mode ++ zeros 96

theorem witness_OrdersTakeEffect_sections :
    240 ≤ (modeImage 1).length ∧ combSize (modeImage 1) ≤ (modeImage 1).length ∧ checkDeviceComb (modeImage 1) = none ∧
    (ordered 1 (modeImage 1)).checkSections (modeImage 1) = none ∧ ((ordered 1 (modeImage 2)).checkSections (modeImage 2)).isSome = true ∧
    (checkDeviceComb (zeros 240)).isSome = true := by decide +kernel

theorem witness_OrdersTakeEffect :
    let fuses8 := le 8 ledgerBase
    (8 ≤ (fit 8 [2#8]).length ∧ someNonzero (fit 8 [2#8]) 1 7 = false ∧ fieldAt (fit 8 [2#8]) 0 1 ≤ 2) ∧
    (ordered 4 []).fld .secAuth 6 1 = 0 ∧ ((ordered 4 []).setFld .secAuth 6 1 1).fld .secAuth 6 1 = 1 ∧
    decide (fieldAt (zeros 8) 0 1 = 1) = (ordered 6 (zeros 8)).fwRuns ∧ (ordered 6 (zeros 8)).recovery = false ∧
    decide (fieldAt (fit 8 [1#8]) 0 1 = 1) ≠ (ordered 6 (fit 8 [1#8])).fwRuns ∧
    ({ ordered 7 [] with fwB := .factory } : State).slotGood (({ ordered 7 [] with fwB := .factory } : State).fwSlot !(ordered 7 []).fwRuns) = true ∧
    (ordered 7 []).slotGood ((ordered 7 []).fwSlot !(ordered 7 []).fwRuns) = false ∧ ((ordered 8 []).setFld .secFw 1 1 1).fld .secFw 1 1 = 1 ∧
    (ordered 8 []).fld .secFw 1 1 = 0 ∧ (ordered 9 []).loadedPens = [] ∧
    ({ ordered 9 [] with pens := [(12, { job := some job2 })] } : State).loadedPens ≠ [] ∧ (le 8 0x800010 ++ le 8 7).length % 16 = 0 ∧
    policyEntries (le 8 0x800010 ++ le 8 7) = [(0x800010, 7)] ∧ (policyReg (0x800010, 7)).isSome = true ∧ policyReg (0, 7) = none ∧
    fuses8.length = 8 ∧ ledgerBase ≤ fieldAt fuses8 0 8 ∧ fieldAt (le 8 (ledgerBase + ledgerWords - 1)) 0 8 < ledgerBase + ledgerWords ∧
    fieldAt (le 8 11) 0 8 < 12 := by decide +kernel

/-- RING_ALLOCATION with every ring of PF0. -/
theorem witness_ring_allocation :
    (List.replicate 4096 (0#8 : Byte)).length = 4096 ∧ (∀ b ∈ List.replicate 4096 (0#8 : Byte), b.toNat ≤ 12) ∧
    ∀ r, r < 4096 → ((List.replicate 4096 (0#8 : Byte)).getD r 0#8).toNat ≠ ({} : State).ringOwner r → (({} : State).ring r).inflight = [] :=
  ⟨List.length_replicate, fun b h => by rw [List.eq_of_mem_replicate h]; decide, fun _ _ _ => rfl⟩

/-- An image or a pack that the vendor's key signs passes where the rest of its header is right (R544, R597): the vendor's key is a
constant of Config, so the signed bytes are a hypothesis. -/
theorem witness_signed_images (b : List Byte) (h : fwSigned b = true) (hs : fieldAt b 0xA 1 = ready.stepping) (hv : ready.fwCounter ≤ fwSvn b)
    (hl : b.length ≤ fwSlotSize) (hr : (someNonzero b 0xB 5 || someNonzero b 0x14 44) = false) : ready.fwRefusal b = none := by
  simp [State.fwRefusal, h, hs, Nat.not_lt.mpr hv, Nat.not_lt.mpr hl, Bool.or_eq_false_iff.mp hr]

/-- Each order turned away: by its length, its values, its moment. -/
theorem witness_OrdersTakeEffect_refused :
    let thirteen := List.replicate 4095 (0#8 : Byte) ++ [13#8]
    let busy : State := { ordered 2 [] with rings := [(4095, { inflight := [entryCmd 0 0 (zeros 64)] })] }
    ¬ (240 ≤ ([] : List Byte).length ∧ combSize [] ≤ ([] : List Byte).length) ∧ ([] : List Byte).length ≠ 4096 ∧ ¬ ((13#8 : Byte).toNat ≤ 12) ∧
    (13#8 : Byte) ∈ thirteen ∧ (1#8 : Byte).toNat ≠ busy.ringOwner 4095 ∧ (busy.ring 4095).inflight ≠ [] ∧
    ¬ (8 ≤ (fit 8 [3#8]).length ∧ someNonzero (fit 8 [3#8]) 1 7 = false ∧ fieldAt (fit 8 [3#8]) 0 1 ≤ 2) ∧
    ¬ (8 ≤ ([] : List Byte).length ∧ someNonzero [] 1 7 = false ∧ fieldAt [] 0 1 ≤ 1) ∧
    ((ordered 6 []).fwRefusal []).isSome = true ∧ ¬ (([] : List Byte) ≠ [] ∧ True) ∧ ([] : List Byte).length ≠ 8 ∧
    ledgerBase + ledgerWords ≤ fieldAt (le 8 (ledgerBase + ledgerWords)) 0 8 ∧ ¬ fieldAt (le 8 12) 0 8 < 12 ∧
    (ordered 14 []).ftpStatus [] ≠ rsOk ∧ (ready.setFld .secTamper 7 1 1).locked = true ∧
    (ready.orderRefusal netChannel (record 5 0)).isSome = true ∧ (ready.orderRefusal rotChannel (record 5 0)).isSome = true ∧
    ready.mgmtUp = true ∧ orderOp (record 5 0) = 5 ∧ ({ ready with perst := true } : State).perst = true := by
  refine ⟨by decide +kernel, by decide +kernel, by decide +kernel, List.mem_append_right _ (List.mem_singleton.mpr rfl), ?_⟩
  decide +kernel

/-- CLEAR_BAY_ACT clears the mark of the bay that it names (R529). -/
theorem test_clear_bay_act :
    after1 (exec (.clearBayAct .mailbox) ((ordered 12 (le 8 11)).setFld .errBayWx 0 1 1 11)) (fun t => t.fld .errBayWx 0 1 11 == 0) = true := by
  decide +kernel

/-! ### The responder -/

/-- A device at READY with a connection of the SMBus at a stage. -/
def talking (c : SpdmConn) : State := { ready.setFld .rngStatus 2 1 1 with spdm := [(epKey .smbus, c)] }

/-- The base point of P-384. -/
def baseP384 : List Byte :=
  be 48 0xaa87ca22be8b05378eb1c71ef320ad746e1d3b628ba79b9859f741e082542a385502f25dbf55296c3a545e3872760ab7 ++
  be 48 0x3617de4a96262c6f5d9e98bf9292dc29f8f41dbd289a147ce9da3113b5f0b8c00a60b1ce1d7e819d7a431d7c90ea0e5f

theorem witness_ResponderAnswersRequests :
    Reaches (talking {}) .smbus 0 ∧ Reaches (talking { stage := 1 }) .smbus 1 ∧ Reaches (talking { stage := 2 }) .smbus 2 ∧
    Reaches (talking { stage := 3 }) .smbus 3 ∧ ((talking { stage := 2 }).epUp .smbus = true ∧ ((talking { stage := 2 }).conn .smbus).stage < 3) ∧
    (talking {}).drbgReady = true ∧ ((talking { stage := 3, sessionStage := 1 }).conn .smbus).sessionStage = 1 ∧
    ((talking { stage := 3, sessionStage := 2 }).conn .smbus).sessionStage = 2 ∧ ((talking { stage := 3 }).conn .smbus).sessionStage = 0 ∧
    ({ talking {} with power := .off } : State).epUp .smbus = false ∧ ready.drbgReady = false ∧ (talking { stage := 3 }).measure 254 = none := by
  unfold Reaches; decide +kernel

theorem witness_key_exchange : (pointOf (4#8 :: baseP384)).isSome = true ∧ (talking { stage := 3 }).measure 1 = some Config.bootRomHash := by
  refine ⟨?_, rfl⟩; decide +kernel

theorem witness_host_session :
    let s := { ready with pens := [(12, { present := true, confidential := true })] }
    (s.pen 12).present = true ∧ (s.pen 12).confidential = true ∧ (s.pen 12).teardownCause = none := by decide +kernel

/-- GET_VERSION answers versions 1.2 and 1.3 (R600). -/
theorem test_get_version :
    after1 (exec (.getVersion .smbus) (talking {})) (fun t => (t.conn .smbus).respCode == spVersion && (t.conn .smbus).stage == 1) = true := by
  decide +kernel

/-! ### Pens and tamper -/

/-- Pen 12 in a state of its teardown. -/
def penIn (st : Nat) (p : PenS) : State := ({ ready with pens := [(12, p)] }).setPenSt 12 st

/-- An image whose one section is a pen layout that names no pen. -/
def emptyLayout : List Byte := fit 0x90 (zeros 8 ++ le 2 1) ++ fit 16 (le 2 9 ++ zeros 2 ++ le 4 0xA0 ++ le 4 96) ++ zeros 96

theorem witness_PenTeardownInOrder :
    let up := penIn penReady { present := true, bays := 1#12 }
    let q := penIn penQuiescing { present := true, bays := 1#12, teardownCause := some byVf }
    let sc := penIn penScrubbing { present := true, bays := 1#12, teardownCause := some byVf }
    let er := (penIn penErasing { present := true, bays := 1#12, teardownCause := some byVf }).setFld .rngStatus 2 1 1
    let cr := (penIn penAbsent { next := some (true, true, 4095#12), createPending := true }).setFld .rngStatus 2 1 1
    (up.pen 12).present = true ∧ (up.pen 12).teardownCause = none ∧ up.orderOnPen 12 = false ∧
    { up with order := some { opcode := 1, body := emptyLayout } }.orderOnPen 12 = true ∧ up.job 12 = none ∧ (q.pen 12).teardownCause ≠ none ∧ q.penSt 12 = penQuiescing ∧
    sc.penSt 12 = penScrubbing ∧ (sc.pen 12).teardownCause ≠ none ∧ (er.pen 12).teardownCause = some byVf ∧ er.penSt 12 = penErasing ∧
    er.locked = false ∧ (er.pen 12).next = none ∧ er.drbgReady = true ∧ (cr.pen 12).next = some (true, true, 4095#12) ∧
    (cr.pen 12).createPending = true ∧ (cr.pen 12).present = false ∧ cr.locked = false ∧ cr.drbgReady = true ∧ cr.atReady = true ∧
    (∀ b, b < 12 → cr.penOfBay b = 0 ∨ (4095#12).getLsbD b = false) ∧
    (∀ p, p < 13 → 1 ≤ p → (cr.pen p).next = none ∨ (cr.pen p).teardownCause = none) ∧
    (let nx (e : Bool) : State := { er with pens := [(12, { (er.pen 12) with next := some (e, true, 1#12) })] }
     ((nx true).pen 12).next = some (true, true, 1#12) ∧ (nx false).locked = false ∧ (nx false).penSt 12 = penErasing) ∧
    (er.setFld .secTamper 7 1 1).locked = true ∧ (up.pen 11).present = false ∧ up.penSt 12 ≠ penQuiescing ∧ up.penSt 12 ≠ penScrubbing ∧
    up.penSt 12 ≠ penErasing ∧ (up.pen 12).next = none ∧ (11 : Func).val ≠ 0 ∧ (11 : Func).val ≠ (12 : Pen) := by decide +kernel

/-- A crypto-erase leaves nothing of the bay's bytes (R580). -/
theorem test_crypto_erase :
    let t := State.eraseBay { ready with hbm := [(5, 9#8), (stackSpan, 7#8)] } 0
    (SMap.find t.hbm 5).isNone = true ∧ SMap.find t.hbm stackSpan = some 7#8 ∧ (t.bay 0).erases = 1 := by decide +kernel

theorem witness_TamperAlarmLocksTheDevice :
    ({} : State).power = .off ∧ ready.alarmState false = some 1 ∧ ready.alarmState true = some 3 ∧
    ({ ready with power := .keep } : State).alarmState false = some 4 ∧ ({ power := .idle } : State).alarmState false = some 0 ∧
    ready.power ≠ .off ∧ ready.tamperHead < 16 := by decide +kernel

/-- An alarm locks the device and takes the pens' keys (R603, R604). -/
theorem test_tamper :
    let t := ({ ready with pens := [(1, { present := true, bays := 1#12, memKey := 7#512 })] } : State).lockDown
    t.locked = true ∧ (t.pen 1).memKey = 0#512 := by decide +kernel

/-! ### Start-up, resets and power -/

theorem witness_StartUpReachesReady :
    let at_ (n : Nat) := ({ power := .idle } : State).setFld .mgtBoot 0 4 n
    ({} : State).power = .off ∧ ({} : State).aonUp = false ∧ ((at_ 0).setFld .rngStatus 0 2 rngOk).rngState ≠ rngStarting ∧ (at_ 0).locked = false ∧
    (at_ 0).stage = stageManagement ∧ (at_ 0).fwTrial = none ∧ (at_ 0).slotGood ((at_ 0).fwSlot (at_ 0).fwActive) = true ∧ (at_ 0).recovery = false ∧
    (at_ 1).stage = stageClocks ∧ (at_ 2).stage = stageMemory ∧ (at_ 3).stage = stageLinks ∧ ({ at_ 3 with linkDone := true } : State).linkDone = true ∧
    (∀ w, w < 2 → ({} : State).worn w = false) ∧ ready.power ≠ .off ∧ (at_ 0).rngState = rngStarting ∧ (at_ 3).linkDone = false ∧
    stageCompute < ready.stage ∧ ((at_ 1).setFld .secFw 1 1 1).fld .secFw 1 1 = 1 ∧ ready.aonUp = false ∧ (at_ 0).power = .idle ∧
    (at_ 4).stage = stageCompute ∧ (at_ 4).stage ≤ stageCompute ∧ (at_ 4).fld .secFw 1 1 = 0 ∧ 65000 < 65001 ∧ (60000 < 60001 ∧ 100 < 101) := by
  decide +kernel

/-- Power-good begins the first stage, and the management stage ends in the second (R662, R664). -/
theorem test_power_good :
    after1 (exec (.powerGood 31#5 true) State.reset) (fun t => decide (t.power = .idle) && t.stage == stageManagement &&
      decide (t.reg .mgtStraps = 0x5F3F#64)) = true := by decide +kernel

theorem witness_ResetsEndJobsAndRestart :
    ready.resettable = true ∧ ready.atReady = true ∧ ready.diesStopped = false ∧ ({ ready with computeReset := true } : State).computeReset = true ∧
    ready.power = .idle ∧ ready.perst = false ∧ ({ ready with perstReleased := true } : State).perstReleased = true ∧
    ({ ready with perst := true, power := .keep } : State).power = .keep ∧ 4095 < 4096 ∧
    ({} : State).resettable = false ∧ ({} : State).atReady = false ∧ ({ ready with perst := true } : State).perst = true ∧
    (let b := { ready with pens := [(12, { present := true, bays := 1#12, job := some job2 })] }
     b.job 12 ≠ none ∧ (b.pen 12).teardownCause = none) ∧ (167 : Nat) < 168 ∧ ready.siteOut 167 = none ∧
    ({ ready with computeReset := true } : State).resettable = false := by decide +kernel

/-- A compute reset pauses fetching (R673). -/
theorem test_compute_reset : after1 (exec (.computeReset 0) ready) (fun t => t.fetchPaused && t.computeReset) = true := by decide +kernel

theorem witness_KeepTemperatureAndPower :
    let q (w : Nat) (x : Word64) (wear : SMap Nat) : State := { ready with keepQ := [(w, x)], wear := wear }
    ready.loadedPens = [] ∧ ({ ready with power := .keep } : State).power = .keep ∧ ready.power ≠ .keep ∧ (q 11 (ready.keepWord 11) []).keepWord 11 =
      ready.keepWord 11 ∧ (q 11 9#64 []).keepWord 11 ≠ 9#64 ∧ (q 11 9#64 [(11, wearMax - 1)]).worn 11 = false ∧
    (q 11 9#64 [(11, wearMax)]).worn 11 = true ∧ (-25 : Int) ≤ -25 ∧ (109 : Int) < 110 ∧ (ready.setFld .devMode 3 1 1).fld .devMode 3 1 = 1 ∧
    ready.temp 0 ≤ 100 ∧ ready.temp 8 ≤ 100 ∧ (∀ p, p < 13 → ready.penRuns p = false) ∧ (ready.setFld .updJob 0 2 2 11).penRuns 12 = true ∧
    1500 ≤ ready.maxWatts ∧ ready.maxWatts < 1501 ∧ ({ ready with smbusMsg := true } : State).smbusMsg = true := by decide +kernel

/-- PWR_THERMAL.warn at 95 °C, and not yet cleared at 85 °C (R687). -/
theorem test_thermal :
    after1 (exec (.thermalSample 95 20) ready) (fun t => t.fld .pwrThermal 16 1 == 1 &&
      after1 (exec (.thermalSample 85 20) t) (fun t => t.fld .pwrThermal 16 1 == 1 &&
        after1 (exec (.thermalSample 84 20) t) (fun t => t.fld .pwrThermal 16 1 == 0))) = true := by decide +kernel

/-! ### Registers -/

theorem witness_RegisterAccessesReachTheirFields :
    regReach 0xFFFFF8 8 = none ∧ (∃ r, regReach 0x800010 8 = some (.errPolicy, 0, 0, r)) ∧ ready.writes 0 .errPolicy 0 = true ∧
    ready.writes 1 .errPolicy 0 = false ∧ RegName.errPolicy.row.rwk = true ∧ (∃ r, regReach 0x800014 4 = some (.errPolicy, 0, 32, r)) ∧
    ready.orderOnReg .errPolicy 0 = false ∧
    { ready with order := some { opcode := 10, body := le 8 0x800010 ++ zeros 8 } }.orderOnReg .errPolicy 0 = true ∧
    ready.writes 0 .injSel 0 = true ∧ ready.fld .devFntabAddr 31 1 = 0 ∧ (ready.setFld .devFntabAddr 31 1 1).fld .devFntabAddr 31 1 = 1 := by
  refine ⟨?_, ⟨_, rfl⟩, ?_, ?_, ?_, ⟨_, rfl⟩, ?_⟩ <;> decide +kernel

/-- Every register whose write has an action, and those that only store, are written by a function that reaches them; a bit of one half. -/
theorem witness_writes_with_an_action :
    let s : State := { ready with pens := [(1, { present := true, bays := 1#12 })] }
    (∀ n ∈ ([.devFntabAddr, .injSel, .hifAuthAddr, .keepAddr, .coreFaultLast, .netCtrSel, .hbmWinAddr, .hifBar4Sel, .injCtl, .hifPenReset, .mgtReset,
      .pwrState, .hifAuthCtl, .hifRingCmdBase, .hifRingCplBase] : List RegName), s.writes 0 n 0 = true ∨ s.writes 1 n 0 = true) ∧
    s.writes 1 .hbmWinCtl 0 = true ∧ s.sees 1 .hbmWinData1 0 = true ∧ s.sees 1 .mgtReset 0 = false ∧
    writesOne 32 32 1#64 32 = true ∧ writesOne 0 32 2#64 0 = false ∧ rwkWord .errPolicy 0 = some 0xC ∧
    ({ ready with wear := [(0xC, wearMax)] } : State).worn 0xC = true := by decide +kernel

/-- A write stores the fields and leaves the reserved bits (R14, R540). -/
theorem test_register_write :
    after1 (exec (.rwkWrite 0 0x800010 8 0xFFFFFFFFFFFFFFFF#64) ready) (fun t => decide (t.reg .errPolicy = 0xFF0F#64)) = true := by decide +kernel

theorem witness_PolicyRegisterLayouts : State.reset.worn 0xB = false ∧ State.reset.worn 0xC = false ∧ State.reset.order = none ∧ (0 : Func).val = 0 := by decide +kernel

theorem witness_FencedTooOftenIsRetired :
    let s (k : Nat) : State := { site0 siteActive 0 (some job2) with fences := [(0, k)] }
    167 < 168 ∧ (s 3).fld .errPolicy 0 4 ≠ 0 ∧ (s 3).fld .errPolicy 0 4 ≤ 3 ∧ 2 < (s 2).fld .errPolicy 0 4 ∧ (s 2).job 1 ≠ none ∧ (s 2).job 2 = none ∧
    ((s 2).setFld .errPolicy 0 4 0).fld .errPolicy 0 4 = 0 := by decide +kernel

/-- The fourth fence retires the site (R525). -/
theorem test_fenced_too_often :
    (({ site0 siteActive 0 (some job2) with fences := [(0, 3)] } : State).fenceOne 1 0 2).site 0 = siteRetired ∧
    (({ site0 siteActive 0 (some job2) with fences := [(0, 2)] } : State).fenceOne 1 0 2).site 0 = siteFenced := by decide +kernel

theorem witness_OtherChannelsAreNotAuthority :
    orderForm (.clearTamperLog (.network (record 13 0))) = some (.network (record 13 0), 13) ∧ ready.mgmtUp = true ∧ ready.locked = false ∧
    orderOp (record 13 0) = 13 ∧ ready.authority ≠ netChannel ∧ (ready.setFld .secAuth 3 2 netChannel).authority ≠ rotChannel ∧
    ready.perst = false ∧ ready.order = none :=
  ⟨rfl, by decide +kernel⟩

/-- An order over the management port of a device under its root of trust is answered NOT_AUTHORITY (R592). -/
theorem test_not_authority :
    after1 (exec (.clearTamperLog (.network (record 13 0))) ready) (fun t => t.lastAnswer == auNotAuthority) = true := by decide +kernel

theorem witness_ResetStateIsAsStated : 1 ≤ 22 ∧ 22 ≤ 22 ∧ 4095 < 4096 := by decide

end Sys2Proof.Tests
end

section
/-!
PROOF. The policy registers (R337, R540): what a whole-register write of PF0 leaves of each field, what it persists, and the fields'
values in a factory-blank keep store.
-/

namespace Sys2Proof.Proofs

open Sys2Proof Sys2Proof.Machine

/-! ### Fields of a register word -/

theorem testBit_getBits (x : Word64) (lo w i : Nat) :
    (getBits x lo w).testBit i = (decide (i < w) && x.getLsbD (lo + i)) := by
  rw [getBits, Nat.testBit_mod_two_pow, Nat.testBit_div_two_pow, BitVec.testBit_toNat, Nat.add_comm]

/-- A field depends on its own bits only. -/
theorem getBits_congr {x y : Word64} {lo w : Nat}
    (h : ∀ i < 64, lo ≤ i → i < lo + w → x.getLsbD i = y.getLsbD i) : getBits x lo w = getBits y lo w := by
  refine Nat.eq_of_testBit_eq fun i => ?_
  rw [testBit_getBits, testBit_getBits]
  by_cases hi : i < w
  · by_cases hx : lo + i < 64
    · rw [h (lo + i) hx (by omega) (by omega)]
    · rw [BitVec.getLsbD_of_ge x _ (by omega), BitVec.getLsbD_of_ge y _ (by omega)]
  · simp [hi]

/-! ### A write of a whole register -/

theorem coverMask_whole : coverMask 0 64 = BitVec.allOnes 64 := by decide

theorem coverBits_whole (v : Word64) : coverBits 0 64 v = v := by
  simp [coverBits, Nat.mod_eq_of_lt v.isLt]

/-- A write of a whole register without write-one-to-clear bits merges the stored bits into the old word (R14). -/
theorem writeInto_whole {n : RegName} (hn : n.row.w1c = 0#64) (old v : Word64) :
    writeInto n old 0 64 v = (old &&& ~~~n.row.rw) ||| (v &&& n.row.rw) := by
  simp only [writeInto, coverMask_whole, coverBits_whole, hn, BitVec.and_allOnes, BitVec.and_zero, BitVec.not_zero]

theorem getLsbD_writeInto_whole {n : RegName} (hn : n.row.w1c = 0#64) (old v : Word64) {i : Nat} (hi : i < 64) :
    (writeInto n old 0 64 v).getLsbD i = if n.row.rw.getLsbD i then v.getLsbD i else old.getLsbD i := by
  rw [writeInto_whole hn, BitVec.getLsbD_or, BitVec.getLsbD_and, BitVec.getLsbD_and, BitVec.getLsbD_not]
  cases n.row.rw.getLsbD i <;> simp [hi]

/-- After a whole-register write, a field of stored bits reads as written. -/
theorem fld_eq_of_stored {s t : State} {n : RegName} {v : Word64} {lo w : Nat} (hn : n.row.w1c = 0#64)
    (ht : t.reg n = writeInto n (s.reg n) 0 64 v) (h : ∀ i < 64, lo ≤ i → i < lo + w → n.row.rw.getLsbD i = true) :
    t.fld n lo w = getBits v lo w := by
  rw [State.fld, ht]
  exact getBits_congr fun i hi hlo hw => by rw [getLsbD_writeInto_whole hn _ v hi, if_pos (h i hi hlo hw)]

/-- After a whole-register write, a field of reserved bits is what it was. -/
theorem fld_eq_of_reserved {s t : State} {n : RegName} {v : Word64} {lo w : Nat} (hn : n.row.w1c = 0#64)
    (ht : t.reg n = writeInto n (s.reg n) 0 64 v) (h : ∀ i < 64, lo ≤ i → i < lo + w → ¬ n.row.rw.getLsbD i) :
    t.fld n lo w = s.fld n lo w := by
  rw [State.fld, ht]
  exact getBits_congr fun i hi hlo hw => by rw [getLsbD_writeInto_whole hn _ v hi, if_neg (h i hi hlo hw)]

/-! ### RWK_WRITE -/

theorem exec_rwkWrite (fn : Func) (off len : Nat) (v : Word64) (s : State) :
    exec (.rwkWrite fn off len v) s = execRwkWrite fn off len v s := rfl

/-- PF0 writes an entry that is neither a ring's nor closed to PF0. -/
theorem writes_of_pf0 (s : State) {n : RegName} (ix : Nat) (hv : n.row.view ≠ .ring) (hp : n.row.noPf0 = false) :
    s.writes 0 n ix = true := by
  simp [State.writes, State.sees, hv, hp]

theorem rwkBy_of_no_order {s : State} (h : s.order = none) (n : RegName) (ix : Nat) (x : Word64) :
    s.rwkBy n ix x = s.writeRwk n ix x := by
  simp [State.rwkBy, State.orderOnReg, h]

theorem writeRwk_of_not_worn {s : State} {n : RegName} {ix k : Nat} (hk : rwkWord n ix = some k) (hw : s.worn k = false)
    (x : Word64) : s.writeRwk n ix x = (s.keepWrite k x).setReg n x ix := by
  simp [State.writeRwk, hk, hw]

/-- PF0's write of a whole persistent register, which no order holds and whose keep-store word `k` is not worn: the register takes
the merged value and the word's write joins the queue (R14, R670); nothing else changes. -/
theorem rwkWrite_whole_of_pf0 {s : State} {fn : Func} {n : RegName} {off k : Nat} (v : Word64) (hfn : fn.val = 0)
    (ho : s.order = none) (hreach : regReach off 8 = some (n, 0, 0, 64)) (hrwk : n.row.rwk = true) (hv : n.row.view ≠ .ring)
    (hp : n.row.noPf0 = false) (hk : rwkWord n 0 = some k) (hw : s.worn k = false) :
    ∃ t, exec (.rwkWrite fn off 8 v) s = .next t ∧ t = { s with regs := t.regs, keepQ := t.keepQ } ∧
      t.reg n = writeInto n (s.reg n) 0 64 v ∧ t.keepQ = s.keepQ ++ [(k, t.reg n)] := by
  refine ⟨(s.keepWrite k (writeInto n (s.reg n) 0 64 v)).setReg n (writeInto n (s.reg n) 0 64 v), ?_, rfl, by simp, ?_⟩
  · rw [exec_rwkWrite, execRwkWrite, hreach]
    simp only [hfn, hrwk, writes_of_pf0 s 0 hv hp, rwkBy_of_no_order ho, writeRwk_of_not_worn hk hw, whenOk, Bool.and_self, if_true]
  · simp [State.keepWrite]

/-! ### The two registers -/

theorem fld_reset_hbmRetireCfg (lo w : Nat) : State.reset.fld .hbmRetireCfg lo w = getBits 3#64 lo w := rfl

theorem fld_reset_errPolicy (lo w : Nat) : State.reset.fld .errPolicy lo w = getBits 0x1E03#64 lo w := rfl

theorem regReach_hbmRetireCfg : regReach (0x400000 + 0x0200) 8 = some (.hbmRetireCfg, 0, 0, 64) := rfl

theorem regReach_errPolicy : regReach (0x800000 + 0x0010) 8 = some (.errPolicy, 0, 0, 64) := rfl

/-- Settles O57: each write goes through `rwkWrite_whole_of_pf0`, and the row's mask of stored bits says which fields it takes. -/
theorem policyRegisterLayouts : Obligations.PolicyRegisterLayouts := by
  unfold Obligations.PolicyRegisterLayouts
  simp only [fld_reset_hbmRetireCfg, fld_reset_errPolicy]
  refine ⟨rfl, rfl, rfl, rfl, rfl, rfl, fun s fn v hfn ho => ⟨fun hw => ?retireCfg, fun hw => ?errPolicy⟩⟩
  case retireCfg =>
    obtain ⟨t, hexec, hframe, hreg, hkeep⟩ :=
      rwkWrite_whole_of_pf0 v hfn ho regReach_hbmRetireCfg rfl (by decide) rfl rfl hw
    have threshold : t.fld .hbmRetireCfg 0 4 = getBits v 0 4 := fld_eq_of_stored rfl hreg (by decide)
    have reserved : t.fld .hbmRetireCfg 4 60 = s.fld .hbmRetireCfg 4 60 := fld_eq_of_reserved rfl hreg (by decide)
    exact ⟨t, hexec, hframe, threshold, reserved, hkeep⟩
  case errPolicy =>
    obtain ⟨t, hexec, hframe, hreg, hkeep⟩ :=
      rwkWrite_whole_of_pf0 v hfn ho regReach_errPolicy rfl (by decide) rfl rfl hw
    have fenceMax : t.fld .errPolicy 0 4 = getBits v 0 4 := fld_eq_of_stored rfl hreg (by decide)
    have voteS : t.fld .errPolicy 8 8 = getBits v 8 8 := fld_eq_of_stored rfl hreg (by decide)
    have reserved : t.fld .errPolicy 4 4 = s.fld .errPolicy 4 4 := fld_eq_of_reserved rfl hreg (by decide)
    have reservedHigh : t.fld .errPolicy 16 48 = s.fld .errPolicy 16 48 := fld_eq_of_reserved rfl hreg (by decide)
    exact ⟨t, hexec, hframe, fenceMax, voteS, reserved, reservedHigh, hkeep⟩

end Sys2Proof.Proofs
end

section
/-!
PROOF. The count of a site's fences (R525): what a write of one register field leaves of the others, what the steps of a fence do to the
fenced site's state, and the three things a fence can do.
-/

namespace Sys2Proof.Proofs

open Sys2Proof Sys2Proof.Machine

/-! ### Writing a field of a register word -/

theorem getLsbD_maskOf_field (lo w : Nat) {i : Nat} (hi : i < 64) :
    (maskOf [(lo, w)]).getLsbD i = (decide (lo ≤ i) && decide (i - lo < w)) := by
  have mask : maskOf [(lo, w)] = BitVec.ofNat 64 ((2 ^ w - 1) * 2 ^ lo) :=
    congrArg (BitVec.ofNat 64) (Nat.zero_or _)
  rw [mask, BitVec.getLsbD_ofNat, Nat.testBit_mul_two_pow, Nat.testBit_two_pow_sub_one]
  simp [hi]

/-- Inside the field a write shows the value's bits, outside it the old word's. -/
theorem getLsbD_putBits (x : Word64) (lo w v : Nat) {i : Nat} (hi : i < 64) :
    (putBits x lo w v).getLsbD i = if lo ≤ i ∧ i < lo + w then v.testBit (i - lo) else x.getLsbD i := by
  rw [putBits, BitVec.getLsbD_or, BitVec.getLsbD_and, BitVec.getLsbD_not, getLsbD_maskOf_field lo w hi, BitVec.getLsbD_ofNat,
    Nat.testBit_mul_two_pow, Nat.testBit_mod_two_pow]
  by_cases hlo : lo ≤ i
  · have inField : i - lo < w ↔ i < lo + w := by omega
    by_cases hw : i < lo + w <;> simp [hi, hlo, hw, inField]
  · simp [hi, hlo]

theorem getBits_putBits_self (x : Word64) {lo w : Nat} (v : Nat) (h : lo + w ≤ 64) :
    getBits (putBits x lo w v) lo w = v % 2 ^ w := by
  refine Nat.eq_of_testBit_eq fun i => ?_
  rw [testBit_getBits, Nat.testBit_mod_two_pow]
  by_cases hi : i < w
  · rw [getLsbD_putBits x lo w v (by omega), if_pos (by omega), Nat.add_sub_cancel_left]
  · simp [hi]

theorem getBits_putBits_of_disjoint (x : Word64) {lo w lo' w' : Nat} (v : Nat) (h : lo' + w' ≤ lo ∨ lo + w ≤ lo') :
    getBits (putBits x lo w v) lo' w' = getBits x lo' w' :=
  getBits_congr fun i hi _ _ => by rw [getLsbD_putBits x lo w v hi, if_neg (by omega)]

/-! ### The state of a site -/

theorem key_coreSiteState (fn ix : Nat) : RegName.key .coreSiteState fn ix = 0x200000 + 8 * ix := rfl

theorem key_hifPenStat (fn ix : Nat) : RegName.key .hifPenStat fn ix = 0xC00200 + 8 * ix := rfl

theorem key_errSiteTest (fn ix : Nat) : RegName.key .errSiteTest fn ix = 0x800800 + 8 * ix := rfl

theorem key_injCtl (fn ix : Nat) : RegName.key .injCtl fn ix = 0x900008 + 8 * ix := rfl

theorem site_setFld_state (s : State) (n v : Nat) : (s.setFld .coreSiteState 0 4 v n).site n = v % 2 ^ 4 := by
  rw [State.site, State.fld, State.setFld, State.reg_setReg_self, getBits_putBits_self _ _ (by decide)]

/-- The other fields of CORE_SITE_STATE stand above the state. -/
theorem site_setFld_above (s : State) {lo : Nat} (w v n : Nat) (h : 4 ≤ lo) :
    (s.setFld .coreSiteState lo w v n).site n = s.site n := by
  rw [State.site, State.fld, State.setFld, State.reg_setReg_self, getBits_putBits_of_disjoint _ _ (by omega)]
  rfl

/-- A register that stands after the 168 entries of CORE_SITE_STATE holds no site's state. -/
theorem site_setFld_of_key (s : State) {m : RegName} {n ix fn : Nat} (lo w v : Nat) (hn : n < 168)
    (h : 0x200540 ≤ m.key fn ix) : (s.setFld m lo w v ix fn).site n = s.site n := by
  have apart : RegName.key .coreSiteState 0 n ≠ m.key fn ix := by rw [key_coreSiteState]; omega
  rw [State.site, State.fld, State.setFld, State.reg_setReg_ne _ _ _ _ _ _ _ _ apart]
  rfl

theorem site_setFld_errSiteTest (s : State) {n : Nat} (hn : n < 168) (lo w v : Nat) :
    (s.setFld .errSiteTest lo w v n).site n = s.site n :=
  site_setFld_of_key s lo w v hn (by rw [key_errSiteTest]; omega)

theorem site_setFld_injCtl (s : State) {n : Nat} (hn : n < 168) (lo w v : Nat) :
    (s.setFld .injCtl lo w v).site n = s.site n :=
  site_setFld_of_key s lo w v hn (by rw [key_injCtl]; omega)

theorem site_setSite (s : State) (n st la lb yoke : Nat) : (s.setSite n st la lb yoke).site n = st % 2 ^ 4 := by
  simp only [State.setSite]
  rw [site_setFld_above _ _ _ _ (by decide), site_setFld_above _ _ _ _ (by decide), site_setFld_above _ _ _ _ (by decide),
    site_setFld_state]

/-! ### What an event and a ledger entry leave alone -/

theorem site_post (s : State) {n : Nat} (hn : n < 168) (fn code step : Nat) (fs : List EvField) :
    (s.post fn code step fs).site n = s.site n := by
  simp only [State.post]
  split
  · rfl
  · have after : 0x200540 ≤ RegName.key .hifPenStat 0 fn := by rw [key_hifPenStat]; omega
    exact site_setFld_of_key s _ _ _ hn after

theorem post_fences (s : State) (fn code step : Nat) (fs : List EvField) : (s.post fn code step fs).fences = s.fences := by
  simp only [State.post]
  split <;> rfl

theorem site_postPen (s : State) {n : Nat} (hn : n < 168) (p code step : Nat) (fs : List EvField) :
    (s.postPen p code step fs).site n = s.site n := by
  rw [State.postPen]
  split
  · exact site_post s hn p code step fs
  · rfl

theorem postPen_fences (s : State) (p code step : Nat) (fs : List EvField) : (s.postPen p code step fs).fences = s.fences := by
  rw [State.postPen]
  split
  · exact post_fences s p code step fs
  · rfl

/-- A retirement finds its word in the ledger, joins the keep store's queue, or is held with LEDGER_FULL (R669). -/
theorem ledgerRetire_cases (s : State) (fields : Nat) (names : List Nat) :
    s.ledgerRetire fields names = s ∨ (∃ w x, s.ledgerRetire fields names = s.keepWrite w x) ∨
    ∃ x, s.ledgerRetire fields names = State.post { s with heldRetire := s.heldRetire ++ [x] } 0 400 0 (names.map ef) := by
  simp only [State.ledgerRetire]
  split
  · exact .inl rfl
  · split
    · exact .inr (.inl ⟨_, _, rfl⟩)
    · exact .inr (.inr ⟨_, rfl⟩)

theorem site_ledgerSite (s : State) {n : Nat} (hn : n < 168) (m det : Nat) : (s.ledgerSite m det).site n = s.site n := by
  rw [State.ledgerSite]
  obtain h | ⟨w, x, h⟩ | ⟨x, h⟩ := ledgerRetire_cases s (siteEntry m det) [1, m, det] <;> rw [h]
  · rfl
  · exact site_post _ hn _ _ _ _

theorem ledgerSite_fences (s : State) (m det : Nat) : (s.ledgerSite m det).fences = s.fences := by
  rw [State.ledgerSite]
  obtain h | ⟨w, x, h⟩ | ⟨x, h⟩ := ledgerRetire_cases s (siteEntry m det) [1, m, det] <;> rw [h]
  · rfl
  · exact post_fences _ _ _ _ _

/-! ### Retirement and test -/

theorem site_retireSite (s : State) {n : Nat} (hn : n < 168) (p det cause : Nat) :
    (s.retireSite p n det cause).site n = siteRetired := by
  simp only [State.retireSite]
  rw [site_post _ hn, site_postPen _ hn, site_ledgerSite _ hn, site_setSite]
  rfl

theorem retireSite_fences (s : State) (p n det cause : Nat) : (s.retireSite p n det cause).fences = s.fences := by
  simp only [State.retireSite]
  rw [post_fences, postPen_fences, ledgerSite_fences]
  rfl

theorem site_without_injection (s : State) (n : Nat) : State.site { s with injection := none } n = s.site n := rfl

/-- A test's record stands in ERR_SITE_TEST, the end of a cancelled injection in INJ_CTL: neither is a site's state. -/
theorem site_startTest (s : State) {n : Nat} (hn : n < 168) : (s.startTest n).site n = siteUnderTest := by
  have entered : (s.setSite n siteUnderTest 0xFF 0xFF yokeNone).site n = siteUnderTest := site_setSite _ _ _ _ _ _
  simp only [State.startTest]
  split
  · split
    · rw [site_setFld_injCtl _ hn, site_setFld_injCtl _ hn, site_without_injection, site_setFld_errSiteTest _ hn,
        site_setFld_errSiteTest _ hn, entered]
    · rw [site_setFld_errSiteTest _ hn, site_setFld_errSiteTest _ hn, entered]
  · rw [site_setFld_errSiteTest _ hn, site_setFld_errSiteTest _ hn, entered]

theorem startTest_fences (s : State) (n : Nat) : (s.startTest n).fences = s.fences := by
  simp only [State.startTest]
  split
  · split <;> rfl
  · rfl

/-! ### A fence -/

/-- The fences of a site since READY. -/
def fenceCount (s : State) (n : Nat) : Nat := SMap.get (fun _ => 0) s.fences n

/-- The site has been fenced fence_max times, and fence_max is a limit (R525). -/
def FencedToLimit (s : State) (n : Nat) : Prop := s.fld .errPolicy 0 4 ≠ 0 ∧ s.fld .errPolicy 0 4 ≤ fenceCount s n

/-- The state with a fence of a site counted and its detector noted. -/
def countFence (s : State) (n det : Nat) : State :=
  { s with fences := SMap.set (fun _ => 0) s.fences n (fenceCount s n + 1),
           fenceDet := SMap.set (fun _ => 0) s.fenceDet n det }

theorem fenceCount_countFence (s : State) (n det : Nat) : fenceCount (countFence s n det) n = fenceCount s n + 1 := by
  simp [fenceCount, countFence]

theorem fenceOne_at_limit {s : State} {n : Nat} (h : FencedToLimit s n) (p det : Nat) :
    s.fenceOne p n det = (countFence s n det).retireSite p n det 1 := if_pos h

theorem fenceOne_below_limit {s : State} {n : Nat} (h : ¬ FencedToLimit s n) (p det : Nat) :
    s.fenceOne p n det = if (s.job p).isNone then ((countFence s n det).setSite n siteFenced 0xFF 0xFF yokeNone).startTest n
      else (countFence s n det).setSite n siteFenced 0xFF 0xFF yokeNone := if_neg h

theorem fenceCount_fenceOne (s : State) (p n det : Nat) : fenceCount (s.fenceOne p n det) n = fenceCount s n + 1 := by
  have counted : (s.fenceOne p n det).fences = (countFence s n det).fences := by
    by_cases h : FencedToLimit s n
    · rw [fenceOne_at_limit h, retireSite_fences]
    · rw [fenceOne_below_limit h]
      split
      · rw [startTest_fences]; rfl
      · rfl
  rw [fenceCount, counted]
  exact fenceCount_countFence s n det

theorem site_fenceOne_at_limit {s : State} {n : Nat} (hn : n < 168) (h : FencedToLimit s n) (p det : Nat) :
    (s.fenceOne p n det).site n = siteRetired := by
  rw [fenceOne_at_limit h, site_retireSite _ hn]

/-- Below the limit a fenced site waits for the step boundary, or is tested at once when there is no job (R522). -/
theorem site_fenceOne_below_limit {s : State} {n : Nat} (hn : n < 168) (h : ¬ FencedToLimit s n) (p det : Nat) :
    (s.fenceOne p n det).site n = if (s.job p).isNone then siteUnderTest else siteFenced := by
  rw [fenceOne_below_limit h]
  split
  · exact site_startTest _ hn
  · exact site_setSite _ _ _ _ _ _

/-- Settles O58: a fence counts itself, and `FencedToLimit` decides whether the site is retired or goes on to its test. -/
theorem fencedTooOftenIsRetired : Obligations.FencedTooOftenIsRetired := by
  unfold Obligations.FencedTooOftenIsRetired
  intro s p n det hn k lim t
  have fenced (h : ¬ FencedToLimit s n) (hj : s.job p ≠ none) : t.site n = siteFenced :=
    (site_fenceOne_below_limit hn h p det).trans (if_neg (by simpa using hj))
  have tested (h : ¬ FencedToLimit s n) (hj : s.job p = none) : t.site n = siteUnderTest :=
    (site_fenceOne_below_limit hn h p det).trans (if_pos (by simp [hj]))
  have below (hk : k < lim) : ¬ FencedToLimit s n := fun h => absurd h.2 (Nat.not_le.mpr hk)
  have unlimited (h0 : lim = 0) : ¬ FencedToLimit s n := fun h => h.1 h0
  exact ⟨fenceCount_fenceOne s p n det, fun h0 hk => site_fenceOne_at_limit hn ⟨h0, hk⟩ p det,
    fun _ hk => fenced (below hk), fun _ hk => tested (below hk),
    fun h0 => fenced (unlimited h0), fun h0 => tested (unlimited h0)⟩

end Sys2Proof.Proofs
end

section
/-!
PROOF. The channels of the authority (R592): which order each command performs, and the refusal of an order that arrives over the
channel of an authority that is not selected.
-/

namespace Sys2Proof.Proofs

open Sys2Proof Sys2Proof.Machine Sys2Proof.Claims

/-! ### An order as it arrives -/

/-- Every order of the authority (R593) is performed the same way; what differs is its effect once it passes its check. -/
theorem exec_eq_perform_of_orderForm {i : Instr} {o : OrderFrom} {op : Nat} (h : orderForm i = some (o, op)) :
    ∃ effect, ∀ s, exec i s = s.perform o op effect := by
  unfold orderForm at h
  split at h <;> cases h
  case h_1 => exact ⟨_, fun s => .refl (execLoadDeviceSection _ s)⟩
  case h_2 => exact ⟨_, fun s => .refl (execRingAllocation _ s)⟩
  case h_3 => exact ⟨_, fun s => .refl (execSetAuthority _ s)⟩
  case h_4 => exact ⟨_, fun s => .refl (execTakeOwnership _ s)⟩
  case h_5 => exact ⟨_, fun s => .refl (execReleaseOwnership _ s)⟩
  case h_6 => exact ⟨_, fun s => .refl (execFwWrite _ s)⟩
  case h_7 => exact ⟨_, fun s => .refl (execFwActivate _ s)⟩
  case h_8 => exact ⟨_, fun s => .refl (execFwCommit _ s)⟩
  case h_9 => exact ⟨_, fun s => .refl (execMgmtRestart _ s)⟩
  case h_10 => exact ⟨_, fun s => .refl (execWritePolicy _ s)⟩
  case h_11 => exact ⟨_, fun s => .refl (execClearLedgerEntry _ s)⟩
  case h_12 => exact ⟨_, fun s => .refl (execClearBayAct _ s)⟩
  case h_13 => exact ⟨_, fun s => .refl (execClearTamperLog _ s)⟩
  case h_14 => exact ⟨_, fun s => .refl (execAuthFtpLoad _ s)⟩

/-- A record that the management port or the SMBus carries is checked on that channel; one that is refused is answered at once. -/
theorem perform_of_refused {s : State} {o : OrderFrom} {ch : Nat} {r : List Byte} {a : Nat}
    (hch : o = .network r ∧ ch = netChannel ∨ o = .smbus r ∧ ch = rotChannel) (hup : s.mgmtUp = true)
    (ha : s.orderRefusal ch r = some a) (effect : List Byte → State → State × OrderEnd) :
    s.perform o (orderOp r) effect = .next (s.orderEnds o (.answer a)) := by
  obtain ⟨rfl, rfl⟩ | ⟨rfl, rfl⟩ := hch
  · simp [State.perform, hup, ha]
  · simp [State.perform, hup, ha]

/-! ### The check of the channel -/

/-- The channel is checked before anything of the record is (R592). -/
theorem orderRefusal_of_other_channel {s : State} {ch : Nat} (hl : s.locked = false) (hc : s.authority ≠ ch) (r : List Byte) :
    s.orderRefusal ch r = some auNotAuthority := by
  simp [State.orderRefusal, hl, hc]

/-! ### The mailbox -/

/-- The mailbox's busy bit stands in HIF_AUTH_CTL, the selection in SEC_AUTH (R611, R645). -/
theorem authority_setFld_hifAuthCtl (s : State) (lo w v : Nat) : (s.setFld .hifAuthCtl lo w v).authority = s.authority := by
  rw [State.authority, State.fld, State.setFld, State.reg_setReg_ne _ _ _ _ _ _ _ _ (by decide)]
  rfl

theorem locked_setFld_hifAuthCtl (s : State) (lo w v : Nat) : (s.setFld .hifAuthCtl lo w v).locked = s.locked := by
  rw [State.locked, State.fld, State.setFld, State.reg_setReg_ne _ _ _ _ _ _ _ _ (by decide)]
  rfl

/-- A mailbox that holds no order fetches a record; one that the check refuses is answered at once (R645). -/
theorem exec_authMailboxGo_of_refused {s : State} {a : Nat} (hup : s.mgmtUp = true) (hp : s.perst = false) (ho : s.order = none)
    (ha : ∀ r, (s.setFld .hifAuthCtl 32 1 1).orderRefusal rotChannel r = some a) :
    exec .authMailboxGo s = .next ((s.setFld .hifAuthCtl 32 1 1).orderEnds .mailbox (.answer a)) := by
  change execAuthMailboxGo s = _
  simp [execAuthMailboxGo, hup, hp, ho, ha]

/-- Settles O59: on every path the order meets `orderRefusal` of its channel, which looks at the selection first. -/
theorem otherChannelsAreNotAuthority : Obligations.OtherChannelsAreNotAuthority := by
  unfold Obligations.OtherChannelsAreNotAuthority
  rintro i o op s r hform hup hlocked rfl
  obtain ⟨effect, performs⟩ := exec_eq_perform_of_orderForm hform
  refine ⟨?network, ?smbus, ?mailbox⟩
  case network =>
    intro ho hc
    rw [performs, perform_of_refused (.inl ⟨ho, rfl⟩) hup (orderRefusal_of_other_channel hlocked hc r)]
  case smbus =>
    intro ho hc
    rw [performs, perform_of_refused (.inr ⟨ho, rfl⟩) hup (orderRefusal_of_other_channel hlocked hc r)]
  case mailbox =>
    intro hp ho hc
    have unlocked : (s.setFld .hifAuthCtl 32 1 1).locked = false := by rwa [locked_setFld_hifAuthCtl]
    have unselected : (s.setFld .hifAuthCtl 32 1 1).authority ≠ rotChannel := by rwa [authority_setFld_hifAuthCtl]
    exact exec_authMailboxGo_of_refused hup hp ho (orderRefusal_of_other_channel unlocked unselected)

end Sys2Proof.Proofs
end

section
/-!
PROOF. Every command keeps the queue that waits behind it and the canonical form of the memories and registers, and answers a next
state unless it is an access to a missing line: one lemma for each operation of the model that changes the state, in the order of the
definitions, each from the lemmas of the operations that it calls.
-/

namespace Sys2Proof.Proofs

open Sys2Proof Sys2Proof.Machine

-- Long rows of short lemmas: elaborated in order, as every body that waits for its turn holds the stack of a thread.
set_option Elab.async false

/-! ### Keeping the queue and the canonical form -/

/-- A state has the queue of an earlier one, and its memories and registers are in canonical form when those of the earlier one
were. -/
structure Keeps (s₀ s : State) : Prop where
  pending : s.pending = s₀.pending
  wf : Memory.wf s₀ = true → Memory.wf s = true

/-- An outcome is a next state that keeps the queue and the canonical form. -/
def Answers (s₀ : State) (o : Out) : Prop := ∃ t, o = .next t ∧ Keeps s₀ t

variable {s₀ s t : State} {o : Out}

theorem Keeps.refl (s : State) : Keeps s s := ⟨rfl, id⟩

/-- A change of any other fields keeps both. -/
theorem Keeps.frame
    {fresh bays units cores packets slotClk pens ports linkStage linkDone censusOpen rings hifUsed ringNext evq evLost msix
    fetchPaused order lastAnswer lastRead lastPoison rngFails rngRun wx wxInj wxThr actDue fences fenceDet rotated injection keep
    wear keepQ heldRetire fuses fwA fwB fwTrial fwActive ftp deviceKey ownerPub ownerKeep tamperHead spdm power powerGood perst
    perstReleased aonUp smbusMsg waking recovery diesStopped computeReset emergencyOver}
    (h : Keeps s₀ s) : Keeps s₀ { s with
      fresh, bays, units, cores, packets, slotClk, pens, ports, linkStage, linkDone, censusOpen, rings, hifUsed, ringNext, evq,
      evLost, msix, fetchPaused, order, lastAnswer, lastRead, lastPoison, rngFails, rngRun, wx, wxInj, wxThr, actDue, fences,
      fenceDet, rotated, injection, keep, wear, keepQ, heldRetire, fuses, fwA, fwB, fwTrial, fwActive, ftp, deviceKey, ownerPub,
      ownerKeep, tamperHead, spdm, power, powerGood, perst, perstReleased, aonUp, smbusMsg, waking, recovery, diesStopped,
      computeReset, emergencyOver } :=
  ⟨h.pending, h.wf⟩

/-- A change of the memories or registers that keeps their canonical form. -/
theorem Keeps.of_wf (h : Keeps s₀ s) (wf : Memory.wf s = true → Memory.wf t = true) (pending : t.pending = s.pending := by rfl) :
    Keeps s₀ t :=
  ⟨pending.trans h.pending, fun w => wf (h.wf w)⟩

theorem Keeps.ite {c : Prop} [Decidable c] (h : Keeps s₀ s) (h' : Keeps s₀ t) : Keeps s₀ (if c then s else t) := by
  split
  · exact h
  · exact h'

theorem Keeps.itePair {α : Type} {c : Prop} [Decidable c] {p q : State × α} (h : Keeps s₀ p.1) (h' : Keeps s₀ q.1) :
    Keeps s₀ (if c then p else q).1 := by
  split
  · exact h
  · exact h'

theorem Keeps.foldl {α : Type} {l : List α} {f : State → α → State} (h : Keeps s₀ s)
    (hf : ∀ s a, Keeps s₀ s → Keeps s₀ (f s a)) : Keeps s₀ (l.foldl f s) := by
  induction l generalizing s with
  | nil => exact h
  | cons a l ih => exact ih (hf s a h)

theorem Keeps.of_some (h : Keeps s₀ s) (e : some s = some t) : Keeps s₀ t := by
  cases e
  exact h

theorem Keeps.of_ite {c : Prop} [Decidable c] {x y : Option State} (e : (if c then x else y) = some t) (hx : x = some t → Keeps s₀ t)
    (hy : y = some t → Keeps s₀ t) : Keeps s₀ t := by
  split at e
  · exact hx e
  · exact hy e

theorem Keeps.getD {x : Option State} (h : Keeps s₀ s) (hx : ∀ t, x = some t → Keeps s₀ t) : Keeps s₀ (x.getD s) := by
  cases x with
  | none => exact h
  | some t => exact hx t rfl

theorem Keeps.foldlPair {α β : Type} {l : List α} {p : State × β} {f : State × β → α → State × β} (h : Keeps s₀ p.1)
    (hf : ∀ p a, Keeps s₀ p.1 → Keeps s₀ (f p a).1) : Keeps s₀ (l.foldl f p).1 := by
  induction l generalizing p with
  | nil => exact h
  | cons a l ih => exact ih (hf p a h)

theorem Keeps.of_pair {α : Type} {p : State × α} {x : α} (h : Keeps s₀ p.1) (e : p = (t, x)) : Keeps s₀ t := by
  subst e
  exact h

theorem Keeps.next (h : Keeps s₀ s) : Answers s₀ (.next s) := ⟨s, rfl, h⟩

theorem Keeps.whenOk {c : Bool} (h : Keeps s₀ s) (h' : Keeps s₀ t) : Answers s₀ (whenOk c s t) := (h'.ite h).next

theorem Answers.ite {c : Prop} [Decidable c] {o' : Out} (h : Answers s₀ o) (h' : Answers s₀ o') :
    Answers s₀ (if c then o else o') := by
  split
  · exact h
  · exact h'

theorem Keeps.nextOr (_ : Keeps s₀ s) (h : Answers s₀ o) : Keeps s₀ (nextOr s o) := by
  obtain ⟨t, rfl, ht⟩ := h
  exact ht

theorem Keeps.after (_ : Keeps s₀ s) (h : Answers s₀ o) : Keeps s₀ (after s o) := by
  obtain ⟨t, rfl, ht⟩ := h
  exact ht

/-! ### Registers, events and the memories -/

theorem Keeps.draw (h : Keeps s₀ s) : Keeps s₀ s.draw.2 := h.frame

theorem Keeps.drawNat {w} (h : Keeps s₀ s) : Keeps s₀ (s.drawNat w).2 := h.draw

theorem Keeps.drawWide {n} (h : Keeps s₀ s) : Keeps s₀ (State.drawWide n s).2 := by
  induction n generalizing s with
  | zero => exact h
  | succ n ih => exact ih h.frame

theorem Keeps.setReg {n x ix fn} (h : Keeps s₀ s) : Keeps s₀ (s.setReg n x ix fn) :=
  h.of_wf fun w => Memory.wf_setReg w _ _ _ _

theorem Keeps.setFld {n lo w v ix fn} (h : Keeps s₀ s) : Keeps s₀ (s.setFld n lo w v ix fn) := h.setReg

theorem Keeps.bump {n lo w ix d fn} (h : Keeps s₀ s) : Keeps s₀ (s.bump n lo w ix d fn) := h.setFld

theorem Keeps.setFree {n lo w ix} (h : Keeps s₀ s) : Keeps s₀ (s.setFree n lo w ix) := h.drawNat.setFld

theorem Keeps.setCore {k c} (h : Keeps s₀ s) : Keeps s₀ (s.setCore k c) := h.frame

theorem Keeps.onCore {k f} (h : Keeps s₀ s) : Keeps s₀ (s.onCore k f) := h.setCore

theorem Keeps.setPen {p x} (h : Keeps s₀ s) : Keeps s₀ (s.setPen p x) := h.frame

theorem Keeps.onPen {p f} (h : Keeps s₀ s) : Keeps s₀ (s.onPen p f) := h.setPen

theorem Keeps.setJob {p j} (h : Keeps s₀ s) : Keeps s₀ (s.setJob p j) := h.onPen

theorem Keeps.onJob {p f} (h : Keeps s₀ s) : Keeps s₀ (s.onJob p f) := h.onPen

theorem Keeps.setPort {p x} (h : Keeps s₀ s) : Keeps s₀ (s.setPort p x) := h.frame

theorem Keeps.onPort {p f} (h : Keeps s₀ s) : Keeps s₀ (s.onPort p f) := h.setPort

theorem Keeps.setBay {b x} (h : Keeps s₀ s) : Keeps s₀ (s.setBay b x) := h.frame

theorem Keeps.onBay {b f} (h : Keeps s₀ s) : Keeps s₀ (s.onBay b f) := h.setBay

theorem Keeps.setUnit {b x} (h : Keeps s₀ s) : Keeps s₀ (s.setUnit b x) := h.frame

theorem Keeps.setRing {r x} (h : Keeps s₀ s) : Keeps s₀ (s.setRing r x) := h.frame

theorem Keeps.onRing {r f} (h : Keeps s₀ s) : Keeps s₀ (s.onRing r f) := h.setRing

theorem Keeps.post {fn code step fields} (h : Keeps s₀ s) : Keeps s₀ (s.post fn code step fields) := h.frame.ite h.bump.frame

theorem Keeps.postBoth {pen code step fields} (h : Keeps s₀ s) : Keeps s₀ (s.postBoth pen code step fields) := (h.post.ite h).post

theorem Keeps.postPen {pen code step fields} (h : Keeps s₀ s) : Keeps s₀ (s.postPen pen code step fields) := h.post.ite h

theorem Keeps.hostWrite {a bs} (h : Keeps s₀ s) : Keeps s₀ (s.hostWrite a bs) := h.of_wf fun w => Memory.wf_hostWrite w _ _

theorem Keeps.markLine {l p} (h : Keeps s₀ s) : Keeps s₀ (s.markLine l p) := h.of_wf fun w => Memory.wf_markLine w _ _

theorem Keeps.setBytes {a bs} (h : Keeps s₀ s) : Keeps s₀ (s.setBytes a bs) := h.of_wf fun w => Memory.wf_setBytes w _ _

theorem Keeps.setBad {l b} (h : Keeps s₀ s) : Keeps s₀ (s.setBad l b) := h.of_wf fun w => Memory.wf_setBad w _ _

theorem Keeps.writeLine {line off bs poison} (h : Keeps s₀ s) : Keeps s₀ (s.writeLine line off bs poison) :=
  (h.setBytes.ite h).setBad.setBytes.markLine

theorem Keeps.devWriteAux {n dpa bs poison} (h : Keeps s₀ s) : Keeps s₀ (State.devWriteAux n s dpa bs poison) := by
  induction n generalizing s dpa bs with
  | zero => exact h
  | succ n ih => exact h.ite (ih h.writeLine)

theorem Keeps.devWrite {dpa bs poison} (h : Keeps s₀ s) : Keeps s₀ (s.devWrite dpa bs poison) := h.devWriteAux

theorem Keeps.touchVa {pen isWrite va} (h : Keeps s₀ s) : Keeps s₀ (s.touchVa pen isWrite va) := by
  unfold State.touchVa
  split
  · exact h.onBay
  · exact h

theorem Keeps.vaWriteAux {pen poison n va bs} (h : Keeps s₀ s) : Keeps s₀ (State.vaWriteAux pen poison n s va bs) := by
  induction n generalizing s va bs with
  | zero => exact h
  | succ n ih =>
    refine h.ite (ih ?_)
    split
    · exact h.touchVa.writeLine
    · exact h

theorem Keeps.vaWrite {pen va bs poison} (h : Keeps s₀ s) : Keeps s₀ (s.vaWrite pen va bs poison) := h.vaWriteAux

/-! ### The journal -/

theorem Keeps.regionWriteAux {r n off bs} (h : Keeps s₀ s) : Keeps s₀ (State.regionWriteAux r n s off bs) := by
  induction n generalizing s off bs with
  | zero => exact h
  | succ n ih => exact h.ite (ih h.devWrite)

theorem Keeps.regionWrite {r off bs} (h : Keeps s₀ s) : Keeps s₀ (s.regionWrite r off bs) := h.regionWriteAux

theorem Keeps.writeJournalHeader {pen} (h : Keeps s₀ s) : Keeps s₀ (s.writeJournalHeader pen) := by
  unfold State.writeJournalHeader
  split
  · exact h
  · exact h.regionWrite

theorem Keeps.ledgerAppend {pen e} (h : Keeps s₀ s) : Keeps s₀ (s.ledgerAppend pen e) := by
  unfold State.ledgerAppend
  split
  · exact h
  · split
    · exact h
    · exact (h.regionWrite.ite h).regionWrite.setFld.onJob.writeJournalHeader

theorem Keeps.writeRecord {pen a} (h : Keeps s₀ s) : Keeps s₀ (s.writeRecord pen a) := by
  unfold State.writeRecord
  split
  · exact h
  · extract_lets +onlyGivenNames seq lost s1 s2 s3 s4 s5
    have h4 : Keeps s₀ s4 := h.regionWrite.onJob.setFld.setFld
    exact (h4.bump.postPen.ite h4).writeJournalHeader

theorem Keeps.sealRecord {pen st a v} (h : Keeps s₀ s) : Keeps s₀ (s.sealRecord pen st a v) := by
  unfold State.sealRecord
  split
  · exact h
  · exact h.regionWrite.setFld

theorem Keeps.endRecord {pen a v} (h : Keeps s₀ s) : Keeps s₀ (s.endRecord pen a v) := by
  unfold State.endRecord
  split
  · exact h
  · exact h.regionWrite.ite h

theorem Keeps.rollback {pen a} (h : Keeps s₀ s) : Keeps s₀ (s.rollback pen a) := by
  unfold State.rollback
  extract_lets +onlyGivenNames s1 s2
  have h1 : Keeps s₀ s1 := h.ite h.setFld
  exact (h1.setFld.setFld.ite h1).writeJournalHeader

theorem Keeps.writeTable {pen step rows} (h : Keeps s₀ s) : Keeps s₀ (s.writeTable pen step rows) := by
  unfold State.writeTable
  split
  · exact h
  · exact h.regionWrite

/-! ### Pins -/

theorem Keeps.refreshPins (h : Keeps s₀ s) : Keeps s₀ s.refreshPins := h.setReg

theorem Keeps.refreshPower {boundary} (h : Keeps s₀ s) : Keeps s₀ (s.refreshPower boundary) :=
  (h.frame.ite (h.frame.ite h)).setFld.setFld.foldl fun _ _ h4 => h4.setReg

/-! ### Ports and messages -/

theorem Keeps.orStatus {pen bits} (h : Keeps s₀ s) : Keeps s₀ (s.orStatus pen bits) := h.onJob

theorem Keeps.setPortState {p st} (h : Keeps s₀ s) : Keeps s₀ (s.setPortState p st) := h.setFld

theorem Keeps.nameLinks {pen named} (h : Keeps s₀ s) : Keeps s₀ (s.nameLinks pen named) := h.foldl fun _ _ h1 => h1.setFld

theorem Keeps.sendCtl {p c} (h : Keeps s₀ s) : Keeps s₀ (s.sendCtl p c) := h.onPort

theorem Keeps.announceId (h : Keeps s₀ s) : Keeps s₀ s.announceId := h.foldl fun _ _ h1 => h1.sendCtl.ite h1

theorem Keeps.postLink {p code fields} (h : Keeps s₀ s) : Keeps s₀ (s.postLink p code fields) := h.postBoth

theorem Keeps.routeMissing {pen dev} (h : Keeps s₀ s) : Keeps s₀ (s.routeMissing pen dev) := h.postLink.onJob

theorem Keeps.queueMsg {pen dev m} (h : Keeps s₀ s) : Keeps s₀ (s.queueMsg pen dev m) := by
  unfold State.queueMsg
  split
  · exact h
  · split
    · exact h.routeMissing
    · exact h.onPort

theorem Keeps.sendVote {pen rank line} (h : Keeps s₀ s) : Keeps s₀ (s.sendVote pen rank line) := by
  unfold State.sendVote
  split
  · exact h
  · exact h.queueMsg

/-! ### Votes and the end of a job -/

theorem Keeps.stopUnits {pen} (h : Keeps s₀ s) : Keeps s₀ (s.stopUnits pen) := (h.foldl fun _ _ h1 => h1.onCore).frame

theorem Keeps.purgePorts {pen tag} (h : Keeps s₀ s) : Keeps s₀ (s.purgePorts pen tag) := h.foldl fun _ _ h1 => h1.onPort

theorem Keeps.purgeOwnData {pen} (h : Keeps s₀ s) : Keeps s₀ (s.purgeOwnData pen) := h.foldl fun _ _ h1 => h1.onPort

theorem Keeps.onGroups {pen f} (h : Keeps s₀ s) : Keeps s₀ (s.onGroups pen f) := h.onJob

theorem Keeps.importedReg {pen} (h : Keeps s₀ s) : Keeps s₀ (s.importedReg pen) := h.setFld

theorem Keeps.replayReg (h : Keeps s₀ s) : Keeps s₀ s.replayReg := h.setFld

theorem Keeps.jobRegs {pen} (h : Keeps s₀ s) : Keeps s₀ (s.jobRegs pen) := by
  unfold State.jobRegs
  split
  · exact h
  · extract_lets +onlyGivenNames s1 s2 s3 s4
    have h4 : Keeps s₀ s4 := (h.importedReg.ite h).setFld.setFld.setFld
    split
    · exact h4.setFld
    · exact h4

theorem Keeps.postCkptDone {pen step status bytes id} (h : Keeps s₀ s) : Keeps s₀ (s.postCkptDone pen step status bytes id) :=
  h.postPen.setFld

theorem Keeps.jobEnd {pen cause fields a status} (h : Keeps s₀ s) : Keeps s₀ (s.jobEnd pen cause fields a status) := by
  unfold State.jobEnd
  split
  · exact h
  · extract_lets +onlyGivenNames s1 s2 step s3 s4 s5 s6 s7 s8 s9 s10 s11 s12
    have h1 : Keeps s₀ s1 := h.stopUnits
    have h2 : Keeps s₀ s2 := by
      unfold s2
      split
      · exact h1.endRecord
      · exact h1
    have h3 : Keeps s₀ s3 := by
      unfold s3
      split
      · exact h2.postCkptDone.setFld
      · exact h2
    have h5 : Keeps s₀ s5 := by
      unfold s5
      refine h3.purgePorts.foldl ?_
      intro _ _ h5
      split
      · exact h5.ite h5.setFld.writeJournalHeader
      · exact h5
    exact h5.onJob.setFld.setFld.setFld.setFld.setFld.postBoth.replayReg.refreshPower

theorem Keeps.raiseGate {pen} (h : Keeps s₀ s) : Keeps s₀ (s.raiseGate pen) := by
  unfold State.raiseGate
  split
  · exact h
  · split
    · exact (h.foldl fun _ _ h1 => h1.onCore).onJob.ite h
    · exact h

theorem Keeps.sweepTimers {pen} (h : Keeps s₀ s) : Keeps s₀ (s.sweepTimers pen) := (h.foldlPair fun _ _ h1 => h1.draw).onJob

theorem Keeps.setTimers {pen a} (h : Keeps s₀ s) : Keeps s₀ (s.setTimers pen a) := by
  unfold State.setTimers
  refine h.foldl ?_
  intro _ _ h1
  split
  · exact h1.setReg
  · exact h1.setFree

theorem Keeps.remoteWrite {pen dev va bs} (h : Keeps s₀ s) : Keeps s₀ (s.remoteWrite pen dev va bs) :=
  h.foldl fun _ _ h1 => h1.queueMsg

theorem Keeps.snapWrite {pen sn off bs} (h : Keeps s₀ s) : Keeps s₀ (s.snapWrite pen sn off bs) := by
  unfold State.snapWrite
  split
  · exact h.vaWrite
  · exact h.remoteWrite

theorem Keeps.snapOutcome {pen st a v} (h : Keeps s₀ s) : Keeps s₀ (s.snapOutcome pen st a v) := by
  unfold State.snapOutcome
  split
  · exact h
  · split
    · exact h
    · refine .ite ?_ h
      extract_lets +onlyGivenNames s1
      have h1 : Keeps s₀ s1 := h.snapWrite
      exact h1.onJob.setReg.ite h1.onJob.setReg

theorem Keeps.discardRunAhead {pen afterSkip} (h : Keeps s₀ s) : Keeps s₀ (s.discardRunAhead pen afterSkip) := by
  unfold State.discardRunAhead
  split
  · exact h
  · split
    · exact h
    · extract_lets +onlyGivenNames s1 s2 s3 s4
      have h3 : Keeps s₀ s3 := h.stopUnits.purgeOwnData.onGroups.rollback.setFree.setFld
      exact (h3.bump.ite h3).onJob

theorem Keeps.keepFigures {pen} (h : Keeps s₀ s) : Keeps s₀ (s.keepFigures pen) := h.onGroups.onJob

theorem Keeps.stepFigures {pen} (h : Keeps s₀ s) : Keeps s₀ (s.stepFigures pen) :=
  (((h.ite h.keepFigures).foldl fun _ _ h2 => h2.setReg.setReg.setReg).foldl fun _ _ h3 => h3.setFld).setFree.setFree.onJob

theorem Keeps.decideStep {pen a} (h : Keeps s₀ s) : Keeps s₀ (s.decideStep pen a) := h.onJob

theorem Keeps.applyCap {pen a v} (h : Keeps s₀ s) : Keeps s₀ (s.applyCap pen a v) :=
  h.setTimers.setFld.sealRecord.snapOutcome.stepFigures.decideStep.onJob.raiseGate.setFld.postPen.jobRegs

theorem Keeps.applySkip {pen a v} (h : Keeps s₀ s) : Keeps s₀ (s.applySkip pen a v) := by
  unfold State.applySkip
  extract_lets +onlyGivenNames ahead s1 s2 s3 s4 s5 s6
  have h2 : Keeps s₀ s2 := h.setTimers.sealRecord.snapOutcome.stepFigures
  have h3 : Keeps s₀ s3 := h2.discardRunAhead.ite h2
  exact (h3.onJob.ite h3.onJob).onJob.setFld.postPen.jobRegs

theorem Keeps.applyRewind {pen a v} (h : Keeps s₀ s) : Keeps s₀ (s.applyRewind pen a v) := by
  unfold State.applyRewind
  split
  · exact h
  · refine .ite h.jobEnd ?_
    extract_lets +onlyGivenNames s1 ahead s2 s3 s4 s5 s6 s7
    have h1 : Keeps s₀ s1 := h.postBoth
    exact (h1.discardRunAhead.ite h1).stopUnits.purgeOwnData.onGroups.rollback.setFld.bump.onJob.setFld.setFld.jobRegs

theorem Keeps.applyOutcome {pen v} (h : Keeps s₀ s) : Keeps s₀ (s.applyOutcome pen v) := by
  unfold State.applyOutcome
  split
  · exact h
  · split
    · exact h
    · extract_lets +onlyGivenNames s1 s2 s3 has
      have h3 : Keeps s₀ s3 := h.setReg.setFld.setFld
      exact (h3.drawNat.jobEnd.ite h3.jobEnd).ite (h3.postBoth.jobEnd.ite (h3.applyRewind.ite (h3.applySkip.ite h3.applyCap)))

theorem Keeps.forwardOutcome {pen j line} (h : Keeps s₀ s) : Keeps s₀ (s.forwardOutcome pen j line) :=
  h.foldl fun _ _ h1 => h1.sendVote

theorem Keeps.voteOnce {pen} (h : Keeps s₀ s) : Keeps s₀ (s.voteOnce pen) := by
  unfold State.voteOnce
  split
  · exact h
  · split
    · exact h
    · exact (h.forwardOutcome.applyOutcome.ite h.sendVote.onJob).ite h

theorem Keeps.voteMove {pen} (h : Keeps s₀ s) : Keeps s₀ (s.voteMove pen) := h.voteOnce.voteOnce

theorem Keeps.sendWord {pen} (h : Keeps s₀ s) : Keeps s₀ (s.sendWord pen) := h.onJob.voteMove

theorem Keeps.terminal {pen cause fields} (h : Keeps s₀ s) : Keeps s₀ (s.terminal pen cause fields) := by
  unfold State.terminal
  split
  · exact h
  · extract_lets +onlyGivenNames j1 s1
    have h1 : Keeps s₀ s1 := h.setJob
    split
    · exact h1.jobEnd
    · exact h1.onJob
    · exact h1.onJob.ite h1.orStatus.stopUnits.sendWord

theorem Keeps.progFault {pen logical bundle slot cause extra} (h : Keeps s₀ s) :
    Keeps s₀ (s.progFault pen logical bundle slot cause extra) :=
  h.setReg.postBoth.terminal

theorem Keeps.silentError {detector bay dev pen who} (h : Keeps s₀ s) : Keeps s₀ (s.silentError detector bay dev pen who) :=
  h.setFld.setFld.setFld.setFld.bump.postBoth.refreshPins

/-! ### The keep store -/

theorem Keeps.keepWrite {w x} (h : Keeps s₀ s) : Keeps s₀ (s.keepWrite w x) := h.frame

theorem Keeps.keepDone (h : Keeps s₀ s) : Keeps s₀ s.keepDone := by
  unfold State.keepDone
  split
  · exact h
  · extract_lets +onlyGivenNames s1
    have h1 : Keeps s₀ s1 := h.frame
    exact h1.ite (h1.post.ite h1.frame)

theorem Keeps.ledgerRetire {fields names} (h : Keeps s₀ s) : Keeps s₀ (s.ledgerRetire fields names) := by
  unfold State.ledgerRetire
  extract_lets +onlyGivenNames x held
  refine .ite h ?_
  split
  · exact h.keepWrite
  · exact h.frame.post

theorem Keeps.ledgerSite {site det} (h : Keeps s₀ s) : Keeps s₀ (s.ledgerSite site det) := h.ledgerRetire

theorem Keeps.ledgerLane {port dir lane} (h : Keeps s₀ s) : Keeps s₀ (s.ledgerLane port dir lane) := h.ledgerRetire

/-! ### Operands -/

theorem Keeps.faultAt {u c slot cause} (h : Keeps s₀ s) : Keeps s₀ (s.faultAt u c slot cause) := h.progFault

/-! ### The grid of cores -/

theorem Keeps.setSite {n st la lb yoke} (h : Keeps s₀ s) : Keeps s₀ (s.setSite n st la lb yoke) := h.setFld.setFld.setFld.setFld

theorem Keeps.hostCore {p l sites dbl} (h : Keeps s₀ s) : Keeps s₀ (s.hostCore p l sites dbl) :=
  (h.foldl fun _ _ h1 => (h1.setSite.ite h1.setSite).bump).onJob

theorem Keeps.unhost {p l st} (h : Keeps s₀ s) : Keeps s₀ (s.unhost p l st) := (h.foldl fun _ _ h1 => h1.setSite.ite h1.setSite).onJob

theorem Keeps.refreshGrid {p} (h : Keeps s₀ s) : Keeps s₀ (s.refreshGrid p) := by
  unfold State.refreshGrid
  split
  · exact h.setReg.setFld
  · extract_lets +onlyGivenNames was before free dbl checked borrowed s1 s2
    have h1 : Keeps s₀ s1 := h.setReg
    have h2 : Keeps s₀ s2 := h1.setFld.ite h1
    exact h2.postPen.ite h2

theorem Keeps.adoptOn {p l oldSite sites dbl} (h : Keeps s₀ s) : Keeps s₀ (s.adoptOn p l oldSite sites dbl) := by
  unfold State.adoptOn
  extract_lets +onlyGivenNames j
  refine .ite h.terminal ?_
  extract_lets +onlyGivenNames s1 s2 s3
  have h2 : Keeps s₀ s2 := h.hostCore.postPen
  have h3 : Keeps s₀ s3 := h2.postPen.ite h2
  split
  · exact h3
  · exact h3.hostCore.postPen

theorem Keeps.adopt {p l oldSite} (h : Keeps s₀ s) : Keeps s₀ (s.adopt p l oldSite) := by
  unfold State.adopt
  extract_lets +onlyGivenNames j
  refine .ite h ?_
  refine .ite h ?_
  split
  · exact h.adoptOn
  · split
    · exact h.adoptOn
    · exact h.postPen.terminal

theorem Keeps.startTest {n} (h : Keeps s₀ s) : Keeps s₀ (s.startTest n) := by
  unfold State.startTest
  extract_lets +onlyGivenNames s1 s2 s3
  have h3 : Keeps s₀ s3 := h.setSite.setFld.setFld
  split
  · exact h3.frame.setFld.setFld.ite h3
  · exact h3

theorem Keeps.retireSite {p n det cause} (h : Keeps s₀ s) : Keeps s₀ (s.retireSite p n det cause) := h.setSite.ledgerSite.postPen.post

theorem Keeps.fenceOne {p n det} (h : Keeps s₀ s) : Keeps s₀ (s.fenceOne p n det) := by
  unfold State.fenceOne
  extract_lets +onlyGivenNames k lim s1
  have h1 : Keeps s₀ s1 := h.frame
  refine .ite h1.retireSite ?_
  extract_lets +onlyGivenNames s2
  have h2 : Keeps s₀ s2 := h1.setSite
  exact h2.startTest.ite h2

theorem Keeps.dropChecker {p l} (h : Keeps s₀ s) : Keeps s₀ (s.dropChecker p l) := by
  unfold State.dropChecker
  split
  · exact h.setSite.foldl fun _ _ h2 => h2.setFld
  · exact h

theorem Keeps.unackAgain {p tag m} (h : Keeps s₀ s) : Keeps s₀ (s.unackAgain p tag m) := h.ite h.onJob

theorem Keeps.fenceHoldJob {p} (h : Keeps s₀ s) : Keeps s₀ (s.fenceHoldJob p) :=
  (h.stopUnits.onJob.foldl fun _ _ h2 => h2.unackAgain).purgePorts

theorem Keeps.fenceSites {p det sites} (h : Keeps s₀ s) : Keeps s₀ (s.fenceSites p det sites) := by
  unfold State.fenceSites
  extract_lets +onlyGivenNames j0 due step att lost runsCore n1 s1 checked s2 s3 s4
  have h4 : Keeps s₀ s4 := (((h.foldl fun _ _ h1 => h1.setReg.postBoth).foldl fun _ _ h2 => h2.dropChecker).foldl fun _ _ h3 =>
    h3.onJob).foldl fun _ _ h4 => h4.fenceOne
  split
  · exact h4.refreshGrid
  · extract_lets +onlyGivenNames s5 s6
    have h5 : Keeps s₀ s5 := h4.onJob
    exact ((h5.fenceHoldJob.onJob.orStatus.sendWord.ite h5.fenceHoldJob).ite h5).refreshGrid

theorem Keeps.boundarySites {p} (h : Keeps s₀ s) : Keeps s₀ (s.boundarySites p) :=
  h.foldl fun _ _ h1 => h1.setSite.ite (h1.startTest.ite h1)

theorem Keeps.undouble {p} (h : Keeps s₀ s) : Keeps s₀ (s.undouble p) := by
  unfold State.undouble
  refine h.foldl ?_
  intro _ _ h1
  extract_lets +onlyGivenNames j
  split
  · exact h1
  · refine .ite h1 ?_
    split
    · exact h1
    · exact h1.terminal.ite h1.unhost.hostCore.postPen

theorem Keeps.markPair {p l checker} (h : Keeps s₀ s) : Keeps s₀ (s.markPair p l checker) :=
  (h.foldl fun _ _ h1 => h1.setFld).setSite.bump.onJob

theorem Keeps.takeChecker {p l} (h : Keeps s₀ s) : Keeps s₀ (s.takeChecker p l) := by
  unfold State.takeChecker
  extract_lets +onlyGivenNames j s1
  have h1 : Keeps s₀ s1 := h.ite h.postPen.onJob
  refine .ite h1 ?_
  refine .ite ?_ ?_
  · split
    · exact h.terminal.ite h.unhost.hostCore.postPen.markPair
    · exact h1
  · split
    · exact h.markPair
    · exact h1

theorem Keeps.boundaryYoke {p} (h : Keeps s₀ s) : Keeps s₀ (s.boundaryYoke p) :=
  (h.foldl fun _ _ h1 => h1.dropChecker).onJob.foldl fun _ _ h3 => h3.ite h3.takeChecker

theorem Keeps.boundaryRotate {p} (h : Keeps s₀ s) : Keeps s₀ (s.boundaryRotate p) := by
  unfold State.boundaryRotate
  extract_lets +onlyGivenNames j interval keep
  refine .ite ?_ h
  refine h.foldl ?_
  intro _ _ h1
  extract_lets +onlyGivenNames spares testing
  split
  · exact (h1.terminal.ite h1.unhost.hostCore.postPen.startTest.frame).ite h1
  · exact h1

theorem Keeps.mappingChanges {p} (h : Keeps s₀ s) : Keeps s₀ (s.mappingChanges p) := by
  unfold State.mappingChanges
  extract_lets +onlyGivenNames s1 s2
  have h2 : Keeps s₀ s2 := h.boundarySites.undouble.boundaryYoke.boundaryRotate.setFld
  exact h2.refreshGrid.refreshPower

/-! ### Error weather -/

theorem Keeps.actSite {b c n} (h : Keeps s₀ s) : Keeps s₀ (s.actSite b c n) := by
  unfold State.actSite
  extract_lets +onlyGivenNames p lost s1 s2 s3
  have h3 : Keeps s₀ s3 := (h.foldl fun _ _ h1 => h1.dropChecker.unhost).retireSite.foldl fun _ _ h3 => h3.adopt
  exact h3.ite h3.refreshGrid

theorem Keeps.actNow {b c} (h : Keeps s₀ s) : Keeps s₀ (s.actNow b c) := by
  unfold State.actNow
  refine .ite ?_ ?_
  · split
    · exact h.ite h.actSite
    · exact h
  · refine .ite ?_ h.setFld
    split
    · exact h.onPort
    · exact h

theorem Keeps.wxShow {b c} (h : Keeps s₀ s) : Keeps s₀ (s.wxShow b c) := h.setFld.setFld

theorem Keeps.wxRise {b c} (h : Keeps s₀ s) : Keeps s₀ (s.wxRise b c) := by
  unfold State.wxRise
  extract_lets +onlyGivenNames t sum level
  refine h.foldl ?_
  intro _ _ h1
  extract_lets +onlyGivenNames thr
  refine .ite ?_ h1
  extract_lets +onlyGivenNames s2 s3
  have h3 : Keeps s₀ s3 := h1.setFld.postBoth
  exact (h3.actNow.ite h3.frame).ite h3

theorem Keeps.countEvent {b c unit injected} (h : Keeps s₀ s) : Keeps s₀ (s.countEvent b c unit injected) :=
  h.frame.wxShow.ite h.frame.wxShow.wxRise

theorem Keeps.wxShift (h : Keeps s₀ s) : Keeps s₀ s.wxShift := h.frame

theorem Keeps.wxTick (h : Keeps s₀ s) : Keeps s₀ s.wxTick := by
  unfold State.wxTick
  refine h.wxShift.foldl ?_
  intro _ _ h1
  refine h1.foldl ?_
  intro _ _ h2
  refine .ite h2 ?_
  extract_lets +onlyGivenNames s3 level thr
  have h3 : Keeps s₀ s3 := h2.wxShow
  exact h3.setFld.ite h3.wxRise

theorem Keeps.execWxBucket (h : Keeps s₀ s) : Answers s₀ (execWxBucket s) := h.wxTick.next

theorem Keeps.actBoundary {p} (h : Keeps s₀ s) : Keeps s₀ (s.actBoundary p) := h.frame.foldl fun _ _ h2 => h2.actNow

theorem Keeps.fireInjection {det bay unit} (h : Keeps s₀ s) : Keeps s₀ (s.fireInjection det bay unit).1 := by
  unfold State.fireInjection
  split
  · exact h
  · refine .itePair ?_ h
    extract_lets +onlyGivenNames left s1 s2
    have h2 : Keeps s₀ s2 := h.bump.postBoth
    exact h2.frame.setFld.setFld.itePair h2.frame

theorem Keeps.fireOnPort {det p} (h : Keeps s₀ s) : Keeps s₀ (s.fireOnPort det p).1 := by
  unfold State.fireOnPort
  split
  · exact h.fireInjection.itePair h
  · exact h

/-! ### Errors of the stacks -/

theorem Keeps.rowRegs {b} (h : Keeps s₀ s) : Keeps s₀ (s.rowRegs b) := h.setFld.setFld

theorem Keeps.zeroMark {line} (h : Keeps s₀ s) : Keeps s₀ (s.zeroMark line) := h.setBytes.setBad.markLine

theorem Keeps.retireRow {b k} (h : Keeps s₀ s) : Keeps s₀ (s.retireRow b k) := by
  unfold State.retireRow
  extract_lets +onlyGivenNames x
  split
  · exact h
  · extract_lets +onlyGivenNames s1 s2 s3 held s4 s5 s6
    have h4 : Keeps s₀ s4 := (h.foldl fun _ _ h1 => h1.zeroMark.ite h1).onBay.rowRegs.ledgerRetire
    have h6 : Keeps s₀ s6 := (h4.setFld.ite h4).postBoth
    exact h6.postBoth.ite h6

theorem Keeps.retireDue {n b} (h : Keeps s₀ s) : Keeps s₀ (State.retireDue n s b) := by
  induction n generalizing s with
  | zero => exact h
  | succ n ih =>
    unfold State.retireDue
    split
    · exact h
    · exact ih h.frame.retireRow

theorem Keeps.rowDue {b k} (h : Keeps s₀ s) : Keeps s₀ (s.rowDue b k) := by
  unfold State.rowDue
  extract_lets +onlyGivenNames s1
  have h1 : Keeps s₀ s1 := h.ite h.onBay
  exact h1.retireDue.ite h1

theorem Keeps.countRow {b k} (h : Keeps s₀ s) : Keeps s₀ (s.countRow b k) := by
  unfold State.countRow
  extract_lets +onlyGivenNames s1 t
  have h1 : Keeps s₀ s1 := h.onBay
  exact h1.rowDue.ite h1

theorem Keeps.logLine {b l mark} (h : Keeps s₀ s) : Keeps s₀ (s.logLine b l mark) := h.setBay.ite (h.setBay.ite h.bump)

theorem Keeps.lineUe {b l injected} (h : Keeps s₀ s) : Keeps s₀ (s.lineUe b l injected) := by
  unfold State.lineUe
  extract_lets +onlyGivenNames s1
  have h1 : Keeps s₀ s1 := h.setBad
  exact h1.ite h1.onBay.logLine.bump.setReg.postBoth.countEvent.rowDue

theorem Keeps.lineCe {b l sectors injected} (h : Keeps s₀ s) : Keeps s₀ (s.lineCe b l sectors injected) := by
  unfold State.lineCe
  extract_lets +onlyGivenNames s1
  have h1 : Keeps s₀ s1 := h.foldl fun _ _ h1 => h1.bump.countRow.countEvent
  exact h1.ite h1.logLine

theorem Keeps.passSector {dpa e} (h : Keeps s₀ s) : Keeps s₀ (s.passSector dpa e) := by
  unfold State.passSector
  split
  · exact h.setBytes
  · exact h

theorem Keeps.decodeLine {b l ecc} (h : Keeps s₀ s) : Keeps s₀ (s.decodeLine b l ecc) := by
  unfold State.decodeLine
  extract_lets +onlyGivenNames d f11 f12 s3
  have h3 : Keeps s₀ s3 := h.fireInjection.fireInjection
  refine .ite h3.lineUe ?_
  refine .ite h3.lineUe ?_
  refine .ite h3.lineCe ?_
  refine .ite h3 ?_
  extract_lets +onlyGivenNames s4
  have h4 : Keeps s₀ s4 := h3.lineCe
  exact h4.lineUe.ite h4.passSector.passSector

theorem Keeps.noteLine {line} (h : Keeps s₀ s) : Keeps s₀ (s.noteLine line) := h.lineUe.ite h

theorem Keeps.noteRegion {r off n} (h : Keeps s₀ s) : Keeps s₀ (s.noteRegion r off n) := h.foldl fun _ _ h1 => h1.noteLine

theorem Keeps.noteVa {pen va n} (h : Keeps s₀ s) : Keeps s₀ (s.noteVa pen va n) := by
  unfold State.noteVa
  refine h.foldl ?_
  intro _ _ h1
  split
  · exact h1.touchVa.noteLine
  · exact h1

theorem Keeps.storePiece {pen p} (h : Keeps s₀ s) : Keeps s₀ (s.storePiece pen p) := by
  unfold State.storePiece
  split
  · exact h
  · extract_lets +onlyGivenNames s1 s2 s3
    have h1 : Keeps s₀ s1 := h.touchVa
    have h3 : Keeps s₀ s3 := (h1.noteLine.ite h1).writeLine
    exact h3.orStatus.ite h3

theorem Keeps.vaStoreBad {pen va bs} (h : Keeps s₀ s) : Keeps s₀ (s.vaStoreBad pen va bs) := h.foldl fun _ _ h1 => h1.storePiece

theorem Keeps.vaStore {pen va bs poison} (h : Keeps s₀ s) : Keeps s₀ (s.vaStore pen va bs poison) := h.vaStoreBad

/-! ### The scoreboard -/

theorem Keeps.applySignal {pen logical ctr add} (h : Keeps s₀ s) : Keeps s₀ (s.applySignal pen logical ctr add) := h.onCore

theorem Keeps.put {u c} (h : Keeps s₀ s) : Keeps s₀ (s.put u c) := h.setCore

theorem Keeps.faultTag {u c slot t} (h : Keeps s₀ s) : Keeps s₀ (s.faultTag u c slot t) := h.progFault

/-! ### Transfers to other devices -/

theorem Keeps.sendPacket {pen src dst body sig} (h : Keeps s₀ s) : Keeps s₀ (s.sendPacket pen src dst body sig) := h.frame

theorem Keeps.cutMessage {u m o last sigBlk chunkEnd} (h : Keeps s₀ s) : Keeps s₀ (s.cutMessage u m o last sigBlk chunkEnd).1 := by
  refine Keeps.ite h ?_
  split
  · exact h
  · exact h.queueMsg.onJob

theorem Keeps.endTransfer {u m o} (h : Keeps s₀ s) : Keeps s₀ (s.endTransfer u m o) := by
  unfold State.endTransfer
  extract_lets +onlyGivenNames dev j
  refine .ite ?_ h.onJob
  extract_lets +onlyGivenNames p recs f s2
  have h2 : Keeps s₀ s2 := h.fireOnPort
  exact h2.bump.onJob.ite h2.countEvent.silentError.postLink.orStatus

theorem Keeps.remoteLast {u m o sigBlk} (h : Keeps s₀ s) : Keeps s₀ (s.remoteLast u m o sigBlk) := h.cutMessage.endTransfer

theorem Keeps.remoteLine {u m o addr line blkEnd xferEnd} (h : Keeps s₀ s) :
    Keeps s₀ (s.remoteLine u m o addr line blkEnd xferEnd).1 := by
  unfold State.remoteLine
  extract_lets +onlyGivenNames j g n chunkEnd full r o sigBlk
  have h1 : Keeps s₀ r.1 := h.cutMessage.itePair h
  exact (h1.ite h1.remoteLast).itePair (h1.cutMessage.itePair h1)

theorem Keeps.remoteLines {u m blkEnd xferEnd ls addr o} (h : Keeps s₀ s) :
    Keeps s₀ (State.remoteLines u m blkEnd xferEnd ls addr s o).1 := by
  induction ls generalizing s addr o with
  | nil => exact h
  | cons l t ih => exact ih h.remoteLine

/-! ### Collectives -/

theorem Keeps.remoteSignal {pen core ctr add} (h : Keeps s₀ s) : Keeps s₀ (s.remoteSignal pen core ctr add) := h.applySignal.onJob

theorem Keeps.consume {pen} (h : Keeps s₀ s) : Keeps s₀ (s.consume pen) := h.onJob.importedReg

theorem Keeps.ledgerMismatch {pen} (h : Keeps s₀ s) : Keeps s₀ (s.ledgerMismatch pen) := h.postBoth.terminal

theorem Keeps.ledgerDecision {pen e} (h : Keeps s₀ s) : Keeps s₀ (s.ledgerDecision pen e) := by
  unfold State.ledgerDecision
  split
  · exact h
  · refine .ite ?_ h.ledgerAppend
    split
    · exact h.consume.ledgerAppend.ite h.ledgerMismatch
    · exact h.ledgerMismatch

theorem Keeps.closeWith {pen g r own late carried order recorded} (h : Keeps s₀ s) :
    Keeps s₀ (s.closeWith pen g r own late carried order recorded) := by
  unfold State.closeWith
  extract_lets +onlyGivenNames step others s1 s2 s3 s4
  have h2 : Keeps s₀ s2 := h.onJob.vaStore
  have h3 : Keeps s₀ s3 := h2.ledgerAppend.ite h2
  exact (h3.ite h3.orStatus.bump.postPen).remoteSignal

theorem Keeps.closeNow {pen g own} (h : Keeps s₀ s) : Keeps s₀ (s.closeNow pen g own) := h.closeWith

theorem Keeps.closeReplay {pen g own a} (h : Keeps s₀ s) : Keeps s₀ (s.closeReplay pen g own a) := by
  unfold State.closeReplay
  extract_lets +onlyGivenNames j r names
  split
  · exact h.ledgerMismatch.ite ((h.consume.closeWith.ite h.ledgerMismatch).ite (h.ite (h.ledgerMismatch.ite h.closeWith)))
  · exact h.ledgerMismatch.ite h.closeWith

theorem Keeps.tryClose {pen g} (h : Keeps s₀ s) : Keeps s₀ (s.tryClose pen g) := by
  unfold State.tryClose
  extract_lets +onlyGivenNames j
  split
  · exact (h.closeReplay.ite h.closeNow).ite h
  · exact h

theorem Keeps.tryCloseAll {pen} (h : Keeps s₀ s) : Keeps s₀ (s.tryCloseAll pen) :=
  h.foldl fun _ _ h1 => h1.foldl fun _ _ h2 => h2.tryClose

theorem Keeps.chunkDone {pen g rank} (h : Keeps s₀ s) : Keeps s₀ (s.chunkDone pen g rank) := by
  unfold State.chunkDone
  extract_lets +onlyGivenNames r s1
  have h1 : Keeps s₀ s1 := h.onJob
  exact h1.tryCloseAll.ite h1.tryClose

theorem Keeps.execCloseDeadline {pen g} (h : Keeps s₀ s) : Answers s₀ (execCloseDeadline pen g s) := by
  unfold Machine.execCloseDeadline
  split
  · exact h.whenOk h.closeNow
  · exact h.next

/-! ### Issue -/

theorem Keeps.issue {i u slot body} (h : Keeps s₀ s) (hb : ∀ c, Keeps s₀ (body c)) : Answers s₀ (s.issue i u slot body) :=
  h.next.ite ((hb _).next.ite h.frame.next)

theorem Keeps.issueIf {ok i u slot body} (h : Keeps s₀ s) (hb : ∀ c, Keeps s₀ (body c)) : Answers s₀ (s.issueIf ok i u slot body) :=
  (h.issue hb).ite h.next

/-! ### Routes -/

theorem Keeps.crossPen {u bundle slot bays t} (h : Keeps s₀ s) (e : s.crossPen u bundle slot bays = some t) : Keeps s₀ t := by
  simp only [State.crossPen] at e
  split at e
  · cases e
    exact h.fireOnPort.countEvent.bump.progFault
  · cases e

theorem Keeps.passSlots {pen} (h : Keeps s₀ s) : Keeps s₀ (s.passSlots pen) := h.frame

/-! ### Movers -/

theorem Keeps.moverPush {i kind u m sSrc sDst sCtl sSig dsrc ddst cslot} (h : Keeps s₀ s) :
    Answers s₀ (moverPush i kind u m sSrc sDst sCtl sSig dsrc ddst cslot s) :=
  h.issue fun _ => h.faultAt.ite h.put

theorem Keeps.execMxfer {u sSig sCtl sDst sSrc ddst dsrc m} (h : Keeps s₀ s) :
    Answers s₀ (execMxfer u sSig sCtl sDst sSrc ddst dsrc m s) :=
  h.moverPush

theorem Keeps.execMscanCrest {u fmt sSig sCtl sBase cslot dwalk m} (h : Keeps s₀ s) :
    Answers s₀ (execMscanCrest u fmt sSig sCtl sBase cslot dwalk m s) :=
  h.moverPush

theorem Keeps.execMscanCmax {u sSig sCtl sDst sSrc ddst dsrc m} (h : Keeps s₀ s) :
    Answers s₀ (execMscanCmax u sSig sCtl sDst sSrc ddst dsrc m s) :=
  h.moverPush

theorem Keeps.flushRun {u r} (h : Keeps s₀ s) : Keeps s₀ (s.flushRun u r) := by
  unfold State.flushRun
  extract_lets +onlyGivenNames m
  split
  · exact h.sendPacket
  · exact (h.remoteLast.ite (h.ite h.cutMessage).onJob).ite h

theorem Keeps.squash {u c p ms} (h : Keeps s₀ s) : Keeps s₀ (s.squash u c p ms) := (h.foldl fun _ _ h1 => h1.flushRun).put

theorem Keeps.squashSlot {u c d} (h : Keeps s₀ s) : Keeps s₀ (s.squashSlot u c d) := h.squash

theorem Keeps.execMstop {u m} (h : Keeps s₀ s) : Answers s₀ (execMstop u m s) := h.issue fun _ => h.squash

theorem Keeps.execMoverSquashDone {u m} (h : Keeps s₀ s) : Answers s₀ (execMoverSquashDone u m s) := h.whenOk h.put

theorem Keeps.execDld {u imm sa dslot} (h : Keeps s₀ s) : Answers s₀ (execDld u imm sa dslot s) := by
  unfold Machine.execDld
  refine h.issue ?_
  intro _
  extract_lets +onlyGivenNames a
  refine .ite h.faultAt ?_
  split
  · exact h.faultAt
  · split
    · exact h.faultTag
    · exact h.faultAt.ite h.squashSlot

theorem Keeps.execDst {u imm sa dslot} (h : Keeps s₀ s) : Answers s₀ (execDst u imm sa dslot s) := by
  unfold Machine.execDst
  refine h.issue ?_
  intro _
  extract_lets +onlyGivenNames a
  refine .ite h.faultAt ?_
  split
  · exact h.faultAt
  · exact h.put

theorem Keeps.execDset {u k sa dslot} (h : Keeps s₀ s) : Answers s₀ (execDset u k sa dslot s) :=
  h.issue fun _ => h.faultAt.ite h.squashSlot

theorem Keeps.doneAtOnce {u m o} (h : Keeps s₀ s) : Keeps s₀ (s.doneAtOnce u m o) :=
  h.remoteLast.ite (h.ite (h.sendPacket.ite h.applySignal))

theorem Keeps.execMoverCommandStart {u m} (h : Keeps s₀ s) : Answers s₀ (execMoverCommandStart u m s) := by
  unfold Machine.execMoverCommandStart
  extract_lets +onlyGivenNames c mv
  split
  · exact h.next
  · extract_lets +onlyGivenNames ahead
    refine h.whenOk ?_
    split
    · exact h.progFault
    · exact h.put.doneAtOnce.ite h.put

theorem Keeps.moverCross {u m bays t} (h : Keeps s₀ s) (e : s.moverCross u m bays = some t) : Keeps s₀ t := by
  unfold State.moverCross at e
  split at e
  · cases e
  · exact h.crossPen e

theorem Keeps.touchCrest {line} (h : Keeps s₀ s) : Keeps s₀ (s.touchCrest line) := h.onBay

theorem Keeps.execMoverReadReturn {u m} (h : Keeps s₀ s) : Answers s₀ (execMoverReadReturn u m s) := by
  unfold Machine.execMoverReadReturn
  extract_lets +onlyGivenNames c mv
  split
  · exact h.next
  · extract_lets +onlyGivenNames un after d a sp
    refine h.next.ite ?_
    split
    · exact h.progFault.next
    · split
      next t e => 
        have crossed : sp = spaceDev := by
          by_contra hsp
          simp [hsp] at e
        rw [if_pos crossed] at e
        exact (h.moverCross e).next
      · extract_lets +onlyGivenNames w cause s1 s2
        have h1 : Keeps s₀ s1 := h.noteVa.ite h
        have h2 : Keeps s₀ s2 := by
          refine .ite ?_ h1
          split
          · exact h1.touchCrest
          · exact h1
        exact h2.put.next

theorem Keeps.moverDev {pen a w} (h : Keeps s₀ s) : Keeps s₀ (s.moverDev pen a w) := h.vaStoreBad

theorem Keeps.moverDeferred {u m t} (h : Keeps s₀ s) : Keeps s₀ (s.moverDeferred u m t) := h.progFault

theorem Keeps.writeUnit {u m k c r pos w} (h : Keeps s₀ s) : Keeps s₀ (s.writeUnit u m k c r pos w) := by
  unfold State.writeUnit
  extract_lets +onlyGivenNames cmd hold wk a dp sigs r1
  split
  · exact h.put.ite h.moverDeferred
  · refine h.put.ite (h.put.ite (.ite ?device (.ite (h.put.sendPacket.ite h.put) ?remote)))
    case device =>
      split
      · exact h.moverDeferred
      · exact Keeps.getD h.moverDev.put fun _ => h.moverCross
    case remote => exact Keeps.getD h.remoteLines.put fun _ => h.moverCross

theorem Keeps.execMoverUnitWrite {u rr} (h : Keeps s₀ s) : Answers s₀ (execMoverUnitWrite u rr s) := by
  unfold Machine.execMoverUnitWrite
  extract_lets +onlyGivenNames c mv
  split
  · exact h.next
  · extract_lets +onlyGivenNames b
    refine .ite h.next ?_
    split
    · exact h.next
    · exact h.put.next.ite h.writeUnit.next

theorem Keeps.execMoverGateOpen {u rr} (h : Keeps s₀ s) : Answers s₀ (execMoverGateOpen u rr s) := by
  unfold Machine.execMoverGateOpen
  extract_lets +onlyGivenNames c mv
  split
  · exact h.next
  · exact h.whenOk h.put

theorem Keeps.applyAttached {u c r g} (h : Keeps s₀ s) : Keeps s₀ (s.applyAttached u c r g) :=
  h.sendPacket.ite (h.remoteLast.ite h.applySignal)

theorem Keeps.execAttachedSignalApply {u rr} (h : Keeps s₀ s) : Answers s₀ (execAttachedSignalApply u rr s) := by
  unfold Machine.execAttachedSignalApply
  extract_lets +onlyGivenNames c
  split
  · exact h.next
  · split
    · exact h.next
    · exact h.whenOk h.put.applyAttached

theorem Keeps.execCrestedGroupWrite {u rr} (h : Keeps s₀ s) : Answers s₀ (execCrestedGroupWrite u rr s) := by
  unfold Machine.execCrestedGroupWrite
  extract_lets +onlyGivenNames c
  split
  · exact h.next
  · split
    · exact h.next
    · extract_lets +onlyGivenNames x
      split
      · exact h.next
      · refine .ite h.next ?_
        extract_lets +onlyGivenNames rg w cb ca scan space r1
        refine .ite h.put.next ?_
        split
        · exact h.moverDeferred.next
        · split
          · rename_i t e
            have h1 := h.moverCross e
            exact h1.next
          · extract_lets +onlyGivenNames s1 s2 s3
            have h2 : Keeps s₀ s2 := (h.ite h.moverDev).moverDev
            have h3 : Keeps s₀ s3 := by
              unfold s3
              split
              · exact h2.touchCrest
              · exact h2
            exact h3.put.next

/-! ### The network -/

theorem Keeps.execPacketInject {u} (h : Keeps s₀ s) : Answers s₀ (execPacketInject u s) := by
  unfold Machine.execPacketInject
  extract_lets +onlyGivenNames mine
  split
  · exact h.next
  · refine .ite h.next ?_
    split
    · rename_i t e
      have h1 := h.crossPen e
      exact h1.frame.next
    · exact h.passSlots.frame.next

theorem Keeps.execPacketArrive {ix} (h : Keeps s₀ s) : Answers s₀ (execPacketArrive ix s) := by
  unfold Machine.execPacketArrive
  split
  · exact h.next
  next k _ =>
    extract_lets +onlyGivenNames key src s1 s2
    have h1 : Keeps s₀ s1 := (h.passSlots (pen := k.pen)).frame
    have h2 : Keeps s₀ s2 := by
      unfold s2
      split
      · exact h1.onCore
      · exact h1
    refine h.whenOk ?_
    split
    · exact h2.applySignal
    · exact h2

theorem Keeps.execBalanceCheck {pen} (h : Keeps s₀ s) : Answers s₀ (execBalanceCheck pen s) := by
  unfold Machine.execBalanceCheck
  split
  · exact h.next
  · extract_lets +onlyGivenNames due
    refine .ite h.next ?_
    split
    · exact h.setReg.bump.progFault.next
    · exact h.onJob.next

theorem Keeps.execLateItemStop {pen holder} (h : Keeps s₀ s) : Answers s₀ (execLateItemStop pen holder s) := by
  unfold Machine.execLateItemStop
  split
  · exact h.next
  · refine h.whenOk ?_
    extract_lets +onlyGivenNames s1 r
    have h2 : Keeps s₀ r.2 := h.onJob.drawNat
    split
    · exact h2.onBay
    · exact h2.onPort

theorem Keeps.execLateItemRestart {pen} (h : Keeps s₀ s) : Answers s₀ (execLateItemRestart pen s) := by
  unfold Machine.execLateItemRestart
  split
  · exact h.next
  · exact h.whenOk h.onJob

theorem Keeps.spillWide {key} (h : Keeps s₀ s) : Keeps s₀ (s.spillWide key) := by
  unfold State.spillWide
  extract_lets +onlyGivenNames c
  split
  · exact h
  · exact h.frame.setCore.ite h

theorem Keeps.execTurnEnd {pen} (h : Keeps s₀ s) : Answers s₀ (execTurnEnd pen s) := by
  unfold Machine.execTurnEnd
  split
  · exact h.next
  · extract_lets +onlyGivenNames go
    refine .ite h.next ?_
    split
    · exact (h.onJob.foldl fun _ _ h1 => h1.spillWide).next
    · exact (h.onJob.foldl fun _ _ h1 => h1.spillWide).next
    · exact h.next

theorem Keeps.execQuiesceEnd {pen} (h : Keeps s₀ s) : Answers s₀ (execQuiesceEnd pen s) := by
  unfold Machine.execQuiesceEnd
  split
  · exact h.next
  · extract_lets +onlyGivenNames quiet go
    refine .ite h.next ?_
    split
    · exact h.onJob.next
    · exact h.onJob.next
    · exact h.next

theorem Keeps.execExchangeEnd {pen} (h : Keeps s₀ s) : Answers s₀ (execExchangeEnd pen s) := by
  unfold Machine.execExchangeEnd
  split
  · exact h.next
  · extract_lets +onlyGivenNames go
    refine .ite h.next ?_
    split
    · exact h.onJob.next
    · exact h.onJob.next
    · exact h.next

/-! ### Private lines -/

theorem Keeps.answerLine {b l} (h : Keeps s₀ s) : Keeps s₀ (s.answerLine b l).1 := by
  unfold State.answerLine
  extract_lets +onlyGivenNames d
  refine h.itePair ?_
  split
  · exact h.drawWide.itePair h
  · split
    · exact h
    · exact h

theorem Keeps.settleImage {b l ecc} (h : Keeps s₀ s) : Keeps s₀ (s.settleImage b l ecc) := by
  unfold State.settleImage
  extract_lets +onlyGivenNames d
  split
  · exact h
  · exact h.ite (h.setBad.onCore.ite h.onCore)

theorem Keeps.hubWrite {b l off bs poison} (h : Keeps s₀ s) : Keeps s₀ (s.hubWrite b l off bs poison) := by
  unfold State.hubWrite
  split
  · exact h.onCore.ite h.onCore
  · exact h.ite h.writeLine

/-! ### Microinstructions -/

theorem Keeps.unitDo {b f} (h : Keeps s₀ s) : Answers s₀ (unitDo b f s) := h.whenOk h.setUnit

theorem Keeps.execUnop {b} (h : Keeps s₀ s) : Answers s₀ (execUnop b s) := h.unitDo

theorem Keeps.execUadd {b rd ra rb} (h : Keeps s₀ s) : Answers s₀ (execUadd b rd ra rb s) := h.unitDo

theorem Keeps.execUsub {b rd ra rb} (h : Keeps s₀ s) : Answers s₀ (execUsub b rd ra rb s) := h.unitDo

theorem Keeps.execUmul {b rd ra rb} (h : Keeps s₀ s) : Answers s₀ (execUmul b rd ra rb s) := h.unitDo

theorem Keeps.execUfma {b rd ra rb rc} (h : Keeps s₀ s) : Answers s₀ (execUfma b rd ra rb rc s) := h.unitDo

theorem Keeps.execUmin {b rd ra rb} (h : Keeps s₀ s) : Answers s₀ (execUmin b rd ra rb s) := h.unitDo

theorem Keeps.execUmax {b rd ra rb} (h : Keeps s₀ s) : Answers s₀ (execUmax b rd ra rb s) := h.unitDo

theorem Keeps.execUabs {b rd ra} (h : Keeps s₀ s) : Answers s₀ (execUabs b rd ra s) := h.unitDo

theorem Keeps.execUneg {b rd ra} (h : Keeps s₀ s) : Answers s₀ (execUneg b rd ra s) := h.unitDo

theorem Keeps.execUcopysign {b rd ra rb} (h : Keeps s₀ s) : Answers s₀ (execUcopysign b rd ra rb s) := h.unitDo

theorem Keeps.execUdiv {b rd ra rb} (h : Keeps s₀ s) : Answers s₀ (execUdiv b rd ra rb s) := h.unitDo

theorem Keeps.execUrecip {b rd ra} (h : Keeps s₀ s) : Answers s₀ (execUrecip b rd ra s) := h.unitDo

theorem Keeps.execUsqrt {b rd ra} (h : Keeps s₀ s) : Answers s₀ (execUsqrt b rd ra s) := h.unitDo

theorem Keeps.execUrsqrt {b rd ra} (h : Keeps s₀ s) : Answers s₀ (execUrsqrt b rd ra s) := h.unitDo

theorem Keeps.execUexp {b rd ra} (h : Keeps s₀ s) : Answers s₀ (execUexp b rd ra s) := h.unitDo

theorem Keeps.execUexp2 {b rd ra} (h : Keeps s₀ s) : Answers s₀ (execUexp2 b rd ra s) := h.unitDo

theorem Keeps.execUlog {b rd ra} (h : Keeps s₀ s) : Answers s₀ (execUlog b rd ra s) := h.unitDo

theorem Keeps.execUtanh {b rd ra} (h : Keeps s₀ s) : Answers s₀ (execUtanh b rd ra s) := h.unitDo

theorem Keeps.execUsigmoid {b rd ra} (h : Keeps s₀ s) : Answers s₀ (execUsigmoid b rd ra s) := h.unitDo

theorem Keeps.execUerf {b rd ra} (h : Keeps s₀ s) : Answers s₀ (execUerf b rd ra s) := h.unitDo

theorem Keeps.execUgelu {b rd ra} (h : Keeps s₀ s) : Answers s₀ (execUgelu b rd ra s) := h.unitDo

theorem Keeps.execUlt {b rd ra rb} (h : Keeps s₀ s) : Answers s₀ (execUlt b rd ra rb s) := h.unitDo

theorem Keeps.execUsel {b rd ra rb rc} (h : Keeps s₀ s) : Answers s₀ (execUsel b rd ra rb rc s) := h.unitDo

theorem Keeps.execUldk {b rd imm} (h : Keeps s₀ s) : Answers s₀ (execUldk b rd imm s) := h.unitDo

theorem Keeps.execUsign {b rd ra} (h : Keeps s₀ s) : Answers s₀ (execUsign b rd ra s) := h.unitDo

theorem Keeps.execUbsum {b rd ra} (h : Keeps s₀ s) : Answers s₀ (execUbsum b rd ra s) := h.unitDo

theorem Keeps.execUbmax {b rd ra} (h : Keeps s₀ s) : Answers s₀ (execUbmax b rd ra s) := h.unitDo

theorem Keeps.microStep {b w} (h : Keeps s₀ s) : Answers s₀ (microStep b w s) := by
  unfold Machine.microStep
  extract_lets +onlyGivenNames rd ra rb rc
  split
  · exact h.execUadd
  · exact h.execUsub
  · exact h.execUmul
  · exact h.execUfma
  · exact h.execUmin
  · exact h.execUmax
  · exact h.execUabs
  · exact h.execUneg
  · exact h.execUcopysign
  · exact h.execUdiv
  · exact h.execUrecip
  · exact h.execUsqrt
  · exact h.execUrsqrt
  · exact h.execUexp
  · exact h.execUexp2
  · exact h.execUlog
  · exact h.execUtanh
  · exact h.execUsigmoid
  · exact h.execUerf
  · exact h.execUgelu
  · exact h.execUlt
  · exact h.execUsel
  · exact h.execUldk
  · exact h.execUsign
  · exact h.execUbsum
  · exact h.execUbmax
  · exact h.execUnop

theorem Keeps.runMicro {b m} (h : Keeps s₀ s) : Keeps s₀ (s.runMicro b m) := h.foldl fun _ _ h1 => h1.nextOr h1.microStep

/-! ### The sweep -/

theorem Keeps.writeStream {pen va f xs} (h : Keeps s₀ s) : Keeps s₀ (s.writeStream pen va f xs) := h.vaStoreBad

theorem Keeps.noteRec {pen p ix t cap step} (h : Keeps s₀ s) : Keeps s₀ (s.noteRec pen p ix t cap step) :=
  h.foldl fun _ _ h1 => h1.noteVa

theorem Keeps.microBlock {b m t v es} (h : Keeps s₀ s) : Keeps s₀ (s.microBlock b m t v es).1 := h.setUnit.runMicro

theorem Keeps.microRecord {pen step m t v es} (h : Keeps s₀ s) : Keeps s₀ (s.microRecord pen step m t v es).1 :=
  h.foldlPair fun _ _ h1 => h1.microBlock

theorem Keeps.countElems {pen step t bad} (h : Keeps s₀ s) : Keeps s₀ (s.countElems pen step t bad) := h.foldl fun _ _ h1 => h1.setUnit

theorem Keeps.sweepMetric {pen step ix t acc} (h : Keeps s₀ s) : Keeps s₀ (s.sweepMetric pen step ix t acc).1 := h.countElems

theorem Keeps.sweepValues {pen step cap t x grads} (h : Keeps s₀ s) : Keeps s₀ (s.sweepValues pen step cap t x grads).1 := by
  unfold State.sweepValues
  refine .itePair ?_ h
  split
  · exact h
  · exact h.microRecord

theorem Keeps.sweepStore {pen step cap ix t sc es bad acc} (h : Keeps s₀ s) :
    Keeps s₀ (s.sweepStore pen step cap ix t sc es bad acc).1 := by
  unfold State.sweepStore
  extract_lets +onlyGivenNames j seed pend ixs conv ps ms vs s1 s2 scBytes s3 nf dm2 dsc row
  have h1 : Keeps s₀ s1 := h.writeStream.writeStream
  exact (h1.writeStream.ite h1).vaStore.countElems

theorem Keeps.sweepParam {pen step cap ix t peers acc} (h : Keeps s₀ s) : Keeps s₀ (s.sweepParam pen step cap ix t peers acc).1 :=
  h.sweepValues.sweepStore

theorem Keeps.sweepRecords {pen step cap peers ts acc} (h : Keeps s₀ s) :
    Keeps s₀ (State.sweepRecords pen step cap peers ts s acc).1 := by
  induction ts generalizing s acc with
  | nil => exact h
  | cons t ts ih =>
    unfold State.sweepRecords
    split
    · refine ih ?_
      split
      · exact h.noteRec.sweepMetric
      · exact h.noteRec.sweepParam
    · exact h

theorem Keeps.snapData {pen sn off bs} (h : Keeps s₀ s) : Keeps s₀ (s.snapData pen sn off bs) := by
  unfold State.snapData
  split
  · exact h.vaStoreBad
  · exact h.remoteWrite

theorem Keeps.snapSweep {pen step cap} (h : Keeps s₀ s) : Keeps s₀ (s.snapSweep pen step cap) := by
  unfold State.snapSweep
  split
  · exact h
  · split
    · exact h
    · exact (h.foldl fun _ _ h1 => h1.ite h1.noteVa.snapData).onJob.setFld.ite h

theorem Keeps.execSweepStart {pen peers} (h : Keeps s₀ s) : Answers s₀ (execSweepStart pen peers s) := by
  unfold Machine.execSweepStart
  split
  · exact h.next
  · split
    · refine .ite ?_ h.next
      extract_lets +onlyGivenNames cap recs s1 r s3 s4 s5 s6
      have h3 : Keeps s₀ s3 := (h.foldl fun _ _ h1 => h1.setUnit).sweepRecords.onJob
      have h4 : Keeps s₀ s4 := h3.orStatus.ite h3
      have h5 : Keeps s₀ s5 := h4.orStatus.ite h4
      have h6 : Keeps s₀ s6 := h5.orStatus.ite h5
      split
      · exact h6.postPen.terminal.next
      · exact h6.snapSweep.next
    · exact h.next

theorem Keeps.execSweepComplete {pen} (h : Keeps s₀ s) : Answers s₀ (execSweepComplete pen s) := by
  unfold Machine.execSweepComplete
  split
  · exact h.next
  · split
    · exact h.onJob.sweepTimers.writeTable.writeRecord.onJob.sendWord.next.ite h.next
    · exact h.next

/-! ### The training step -/

theorem Keeps.postAll {code fields} (h : Keeps s₀ s) : Keeps s₀ (s.postAll code fields) := h.foldl fun _ _ h1 => h1.post

theorem Keeps.emergency {injected} (h : Keeps s₀ s) : Keeps s₀ (s.emergency injected) :=
  h.ite (h.setFld.setFld.setFld.bump.foldl fun _ _ h3 => h3.onJob).frame.postAll.countEvent

theorem Keeps.emergencyEnd (h : Keeps s₀ s) : Keeps s₀ s.emergencyEnd := h.setFld.setFld.frame

theorem Keeps.injectThermal (h : Keeps s₀ s) : Keeps s₀ s.injectThermal := by
  unfold State.injectThermal
  split
  · refine .ite ?_ h
    extract_lets +onlyGivenNames r
    have h1 : Keeps s₀ r.1 := h.fireInjection
    exact h1.emergency.ite h1
  · exact h

theorem Keeps.clearCores {pen} (h : Keeps s₀ s) : Keeps s₀ (s.clearCores pen) := (h.foldl fun _ _ h1 => h1.onCore).frame

theorem Keeps.seedRegs {pen step} (h : Keeps s₀ s) : Keeps s₀ (s.seedRegs pen step) := by
  unfold State.seedRegs
  split
  · exact h.setReg.setReg
  · extract_lets +onlyGivenNames later
    split
    · exact h.setReg.setReg
    · exact h.setReg.setReg

theorem Keeps.beginAttempt {pen j} (h : Keeps s₀ s) : Keeps s₀ (s.beginAttempt pen j) := h.setJob.setFld.setFld.bump.jobRegs.seedRegs

theorem Keeps.beginPorts {pen} (h : Keeps s₀ s) : Keeps s₀ (s.beginPorts pen) := h.foldl fun _ _ h1 => h1.onPort.onBay

theorem Keeps.beginLedger {pen step} (h : Keeps s₀ s) : Keeps s₀ (s.beginLedger pen step) := by
  unfold State.beginLedger
  extract_lets +onlyGivenNames j s1 recorded
  have h1 : Keeps s₀ s1 := by
    unfold s1
    split
    · exact h.ledgerDecision.ite h
    · exact h
  split
  · exact h1.ledgerDecision.ite h1
  · exact h1.consume.ledgerAppend
  · exact h1

theorem Keeps.execStepT0 {pen} (h : Keeps s₀ s) : Answers s₀ (execStepT0 pen s) := by
  unfold Machine.execStepT0
  split
  · exact h.next
  · refine .ite h.next ?_
    extract_lets +onlyGivenNames s1 s2 s3 bank s4
    have h2 : Keeps s₀ s2 := (h.emergencyEnd.ite h).injectThermal
    have h4 : Keeps s₀ s4 := (h2.keepFigures.ite h2).beginAttempt
    exact h4.postPen.terminal.next.ite h4.actBoundary.mappingChanges.onJob.clearCores.beginPorts.beginLedger.vaStore.tryCloseAll.next

theorem Keeps.enterCores {pen} (h : Keeps s₀ s) : Keeps s₀ (s.enterCores pen) := (h.foldl fun _ _ h1 => h1.onCore).onJob.frame

theorem Keeps.replayCounters {pen} (h : Keeps s₀ s) : Keeps s₀ (s.replayCounters pen) := h.foldl fun _ _ h1 => h1.onCore

theorem Keeps.enterReplay {pen} (h : Keeps s₀ s) : Keeps s₀ (s.enterReplay pen) :=
  (h.foldl fun _ _ h1 => h1.postLink.ite h1).onJob.orStatus.sendWord.ite h.clearCores.replayCounters.onJob.enterCores.setFld

theorem Keeps.execEntryBundle {pen} (h : Keeps s₀ s) : Answers s₀ (execEntryBundle pen s) := by
  unfold Machine.execEntryBundle
  split
  · exact h.next
  · split
    · exact h.next
    · exact h.next.ite ((h.whenOk h.enterReplay).ite (h.whenOk h.enterCores))

theorem Keeps.execGateRaise {pen} (h : Keeps s₀ s) : Answers s₀ (execGateRaise pen s) := h.whenOk h.raiseGate

/-! ### Device memory -/

theorem Keeps.decodeAt {b l ecc} (h : Keeps s₀ s) : Keeps s₀ (s.decodeAt b l ecc) := h.decodeLine.ite h.decodeLine.settleImage

theorem Keeps.execMemRead {b line ecc} (h : Keeps s₀ s) (hl : line < stackLines) : Answers s₀ (execMemRead b line ecc s) := by
  rw [Machine.execMemRead, if_neg (Nat.not_le.mpr hl)]
  exact h.whenOk h.decodeAt.answerLine.frame

theorem Keeps.execMemWrite {b line off data poison ecc} (h : Keeps s₀ s) (hl : line < stackLines) :
    Answers s₀ (execMemWrite b line off data poison ecc s) := by
  rw [Machine.execMemWrite, if_neg (Nat.not_le.mpr hl)]
  exact h.whenOk (h.decodeAt.ite h).hubWrite

theorem Keeps.execRefresh {b} (h : Keeps s₀ s) : Answers s₀ (execRefresh b s) := h.whenOk h.onBay

theorem Keeps.execStackTempChange {b celsius} (h : Keeps s₀ s) : Answers s₀ (execStackTempChange b celsius s) := by
  unfold Machine.execStackTempChange
  extract_lets +onlyGivenNames hot s1
  have h1 : Keeps s₀ s1 := h.onBay
  exact h.whenOk (h1.setFld.postBoth.ite (h1.setFld.ite h1))

theorem Keeps.execPatrol {b ecc} (h : Keeps s₀ s) : Answers s₀ (execPatrol b ecc s) := by
  unfold Machine.execPatrol
  extract_lets +onlyGivenNames l s1 s2
  have h1 : Keeps s₀ s1 := h.decodeLine
  exact h.whenOk (h1.zeroMark.ite h1).onBay

theorem Keeps.emptyWindows {pen} (h : Keeps s₀ s) : Keeps s₀ (s.emptyWindows pen) := h.foldl fun _ _ h1 => h1.onBay

theorem Keeps.activateWindows {pen} (h : Keeps s₀ s) : Keeps s₀ (s.activateWindows pen) := h.onPen.emptyWindows

theorem Keeps.execWindowCommit {fn} (h : Keeps s₀ s) : Answers s₀ (execWindowCommit fn s) := h.whenOk h.onPen

theorem Keeps.execCommitCheckDone {pen} (h : Keeps s₀ s) : Answers s₀ (execCommitCheckDone pen s) := by
  unfold Machine.execCommitCheckDone
  refine .ite h.next ?_
  split
  · exact h.onPen.next
  · extract_lets +onlyGivenNames s1
    have h1 : Keeps s₀ s1 := h.onPen
    exact (h1.activateWindows.ite h1).next

theorem Keeps.execWinDataAccess {fn reg acc} (h : Keeps s₀ s) : Answers s₀ (execWinDataAccess fn reg acc s) := by
  unfold Machine.execWinDataAccess
  extract_lets +onlyGivenNames second part ix s1
  have h1 : Keeps s₀ s1 := by
    unfold s1
    split
    · exact h.frame
    · exact h.onPen.ite h
  exact (h1.setFld.ite h1).next

theorem Keeps.rereadLine {b l ecc} (h : Keeps s₀ s) : Keeps s₀ (s.rereadLine b l ecc) :=
  h.zeroMark.ite (h.ite (h.zeroMark.ite h.passSector.passSector))

theorem Keeps.execBoundaryWork {pen rereads} (h : Keeps s₀ s) : Answers s₀ (execBoundaryWork pen rereads s) := by
  unfold Machine.execBoundaryWork
  split
  · exact h.next
  · refine .ite h.next ?_
    extract_lets +onlyGivenNames ls s1 s2 s3 s4 s5
    have h2 : Keeps s₀ s2 := (h.foldl fun _ _ h1 => h1.rereadLine).foldl fun _ _ h2 => h2.retireDue
    exact ((h2.activateWindows.ite h2).emptyWindows.foldl fun _ _ h5 => h5.onBay).onJob.next

/-! ### Random numbers -/

theorem Keeps.rngFail (h : Keeps s₀ s) : Keeps s₀ s.rngFail := h.setFld.setFld.setFld.frame.post

theorem Keeps.rngPass (h : Keeps s₀ s) : Keeps s₀ s.rngPass := h.setFld.setFld.setFld.frame

theorem Keeps.execNoiseWindow {samples} (h : Keeps s₀ s) : Answers s₀ (execNoiseWindow samples s) := by
  unfold Machine.execNoiseWindow
  refine .ite h.next ?_
  extract_lets +onlyGivenNames f s2 rct apt s3 s4 s5
  have h1 : Keeps s₀ f.1 := by
    unfold f
    split
    · exact h.fireInjection
    · exact h
  have h3 : Keeps s₀ s3 := h1.frame
  have h4 : Keeps s₀ s4 := h3.bump.ite h3
  have h5 : Keeps s₀ s5 := h4.bump.ite h4
  refine .ite ?_ h5.frame.next
  extract_lets +onlyGivenNames src s6
  have h7 : Keeps s₀ src := h5.countEvent
  have h6 : Keeps s₀ s6 := h7.frame
  refine Keeps.next ?_
  exact h6.rngFail.ite h6

theorem Keeps.execRngStartupTest {samples} (h : Keeps s₀ s) : Answers s₀ (execRngStartupTest samples s) :=
  h.next.ite (h.rngPass.next.ite h.bump.rngFail.next)

theorem Keeps.execRngRetry {samples} (h : Keeps s₀ s) : Answers s₀ (execRngRetry samples s) :=
  h.next.ite (h.rngPass.next.ite h.bump.next)

theorem Keeps.generate {reseed} (h : Keeps s₀ s) : Keeps s₀ (s.generate reseed) := h.setFld

/-! ### The host interface -/

theorem Keeps.ringErrorTo {fn r} (h : Keeps s₀ s) : Keeps s₀ (s.ringErrorTo fn r) := h.bump.post

theorem Keeps.ringError {fn r} (h : Keeps s₀ s) : Keeps s₀ (s.ringError fn r) := h.setFld.onRing.ringErrorTo

theorem Keeps.ringReset {r} (h : Keeps s₀ s) : Keeps s₀ (s.ringReset r) := h.setReg.setReg.setReg.setReg.setRing

theorem Keeps.onSession {p f} (h : Keeps s₀ s) : Keeps s₀ (s.onSession p f) := h.onPen

theorem Keeps.takeUnit {pen ring host va len} (h : Keeps s₀ s) : Keeps s₀ (s.takeUnit pen ring host va len).1 := by
  unfold State.takeUnit
  split
  · exact h
  · extract_lets +onlyGivenNames raw ctr
    refine h.itePair ?_
    split
    · exact h
    · exact h.onSession

theorem Keeps.bounceIn {pen ring host vaOf len put n k} (h : Keeps s₀ s)
    (hp : ∀ s a bs, Keeps s₀ s → Keeps s₀ (put s a bs)) : Keeps s₀ (State.bounceIn pen ring host vaOf len put n s k).1 := by
  induction n generalizing s k with
  | zero => exact h
  | succ n ih =>
    unfold State.bounceIn
    extract_lets +onlyGivenNames off
    refine .itePair h ?_
    extract_lets +onlyGivenNames r
    split
    · exact h.takeUnit
    · exact ih (hp _ _ _ h.takeUnit)

theorem Keeps.giveUnit {pen ring host va bs} (h : Keeps s₀ s) : Keeps s₀ (s.giveUnit pen ring host va bs).1 := by
  unfold State.giveUnit
  split
  · exact h
  · exact h.itePair h.hostWrite.onSession

theorem Keeps.bounceOut {pen ring host va ds k} (h : Keeps s₀ s) : Keeps s₀ (State.bounceOut pen ring host va ds s k).1 := by
  induction ds generalizing s k with
  | nil => exact h
  | cons d t ih => exact (ih h.giveUnit).itePair h.giveUnit

theorem Keeps.toHost {fn ring host va bs} (h : Keeps s₀ s) : Keeps s₀ (s.toHost fn ring host va bs).1 :=
  h.bounceOut.itePair h.hostWrite

theorem Keeps.fromHost {fn ring host len} (h : Keeps s₀ s) : Keeps s₀ (s.fromHost fn ring host len).1 := by
  unfold State.fromHost
  refine .itePair ?_ h
  extract_lets +onlyGivenNames units
  refine h.foldlPair ?_
  intro _ _ h1
  split
  · exact h1
  · extract_lets +onlyGivenNames r
    have h2 : Keeps s₀ r.1 := h1.takeUnit
    split
    · exact h2
    · exact h2

theorem Keeps.cplTag {fn r head tagged} (h : Keeps s₀ s) : Keeps s₀ (s.cplTag fn r head tagged).1 := by
  unfold State.cplTag
  split
  · exact h.onSession
  · exact h

theorem Keeps.putCpl {r code kind flags status cookie payload tagged} (h : Keeps s₀ s) :
    Keeps s₀ (s.putCpl r code kind flags status cookie payload tagged) := by
  unfold State.putCpl
  extract_lets +onlyGivenNames fn ix phase head t s2 s3
  have h3 : Keeps s₀ s3 := h.cplTag.hostWrite.setFld
  exact h3.onRing.ite h3

theorem Keeps.openEntry {fn r e} (h : Keeps s₀ s) : Keeps s₀ (s.openEntry fn r e).1 := by
  unfold State.openEntry
  refine h.itePair ?_
  split
  · exact h
  · extract_lets +onlyGivenNames ix s1
    have h1 : Keeps s₀ s1 := h.onSession
    split
    · exact h1
    · exact h1

theorem Keeps.admitCmd {r e ix} (h : Keeps s₀ s) : Keeps s₀ (s.admitCmd r e ix).1 := by
  unfold State.admitCmd
  extract_lets +onlyGivenNames fn o
  have h1 : Keeps s₀ o.1 := h.openEntry
  split
  · exact h1
  · extract_lets +onlyGivenNames s2 c refuse
    refine Keeps.itePair (p := refuse _) h1 ?_
    split
    · exact h1
    · refine .itePair ?_ (.itePair (.itePair (p := refuse _) h1 ?_) h1)
      · split
        · exact h1
        · exact h1
      · extract_lets +onlyGivenNames p
        have h3 : Keeps s₀ p.1 := h1.fromHost
        split
        · exact h3
        · exact h3

theorem Keeps.finishCmd {r i st payload} (h : Keeps s₀ s) : Keeps s₀ (s.finishCmd r i st payload) := h.onRing

theorem Keeps.serve {r op f} (h : Keeps s₀ s) (hf : ∀ c s, Keeps s₀ s → Keeps s₀ (f c s).1) : Answers s₀ (s.serve r op f) := by
  unfold State.serve
  split
  · exact (hf _ _ h).frame.next.ite h.next
  · exact h.next

theorem Keeps.roundFor {spent} (h : Keeps s₀ s) : Keeps s₀ (s.roundFor spent) := h.frame.ite h

theorem Keeps.noteFetch {r} (h : Keeps s₀ s) : Keeps s₀ (s.noteFetch r) := h.frame

theorem Keeps.noteBytes {fn dir n} (h : Keeps s₀ s) : Keeps s₀ (s.noteBytes fn dir n) := h.frame

theorem Keeps.moveData {r op f} (h : Keeps s₀ s) (hf : ∀ c k n s, Keeps s₀ s → Keeps s₀ (f c k n s).1) :
    Answers s₀ (s.moveData r op f) := by
  unfold State.moveData
  split
  · refine h.next.ite ?_
    extract_lets +onlyGivenNames dir rest s1 n
    have h1 : Keeps s₀ s1 := h.roundFor
    refine h1.next.ite ?_
    extract_lets +onlyGivenNames x t
    have h2 : Keeps s₀ t := (hf _ _ _ _ h1).noteBytes
    exact h2.finishCmd.next.ite h2.onRing.next
  · exact h.next

theorem Keeps.plain {st} (h : Keeps s₀ s) : Keeps s₀ (plain s st).1 := h

theorem Keeps.withJob {c f} (h : Keeps s₀ s) (hf : ∀ j, Keeps s₀ (f j).1) : Keeps s₀ (withJob c s f).1 := by
  unfold Machine.withJob
  split
  · exact h
  · exact hf _

/-! ### Rings and BAR4 -/

theorem Keeps.execDoorbell {fn ring value} (h : Keeps s₀ s) : Answers s₀ (execDoorbell fn ring value s) :=
  h.ringErrorTo.next.ite (h.ringError.next.ite h.onRing.next)

theorem Keeps.execCommandFetch {ring} (h : Keeps s₀ s) : Answers s₀ (execCommandFetch ring s) :=
  h.next.ite (h.next.ite h.roundFor.noteFetch.setFld.bump.admitCmd.onRing.next)

theorem Keeps.execCommandCompletion {ring hostError} (h : Keeps s₀ s) : Answers s₀ (execCommandCompletion ring hostError s) := by
  unfold Machine.execCommandCompletion
  extract_lets +onlyGivenNames r
  split
  · exact h.next
  · split
    · exact h.next
    · exact h.onRing.putCpl.next

theorem Keeps.execEventPost {fn} (h : Keeps s₀ s) : Answers s₀ (execEventPost fn s) := by
  unfold Machine.execEventPost
  split
  · exact (h.frame.foldl fun _ _ h2 => h2.putCpl).next.ite h.next
  · exact h.next

theorem Keeps.execInterrupt {ring} (h : Keeps s₀ s) : Answers s₀ (execInterrupt ring s) := h.whenOk h.onRing.frame

theorem Keeps.enableRing {r} (h : Keeps s₀ s) : Keeps s₀ (s.enableRing r) := h.ite (h.setFld.ite h.setReg.setFld.setRing)

theorem Keeps.execRingEnable {fn ring} (h : Keeps s₀ s) : Answers s₀ (execRingEnable fn ring s) := h.whenOk h.enableRing

theorem Keeps.execBar4Access {fn off acc} (h : Keeps s₀ s) : Answers s₀ (execBar4Access fn off acc s) := by
  unfold Machine.execBar4Access
  extract_lets +onlyGivenNames p va blind fault
  split
  · extract_lets +onlyGivenNames s1
    have h1 : Keeps s₀ s1 := h.frame
    exact h1.next.ite (h1.setFld.next.ite (h1.noteVa.setFld.next.ite h.noteVa.frame.next))
  · exact h.next.ite (h.setFld.next.ite h.vaStore.next)

theorem Keeps.execCmdNop {ring} (h : Keeps s₀ s) : Answers s₀ (execCmdNop ring s) := h.serve fun _ _ h1 => h1.plain

theorem Keeps.addInput {pen slot step off bs} (h : Keeps s₀ s) : Keeps s₀ (s.addInput pen slot step off bs) := h.onJob

theorem Keeps.dmaPut {c off bs} (h : Keeps s₀ s) : Keeps s₀ (State.dmaPut c s off bs) := by
  unfold State.dmaPut
  extract_lets +onlyGivenNames s1
  have h1 : Keeps s₀ s1 := h.vaStore
  exact h1.addInput.ite h1

theorem Keeps.execDmaH2d {ring} (h : Keeps s₀ s) : Answers s₀ (execDmaH2d ring s) :=
  h.moveData fun _ _ _ _ h1 => h1.itePair ((h1.bounceIn fun _ _ _ h2 => h2.dmaPut).itePair h1.dmaPut)

theorem Keeps.execDmaD2h {ring} (h : Keeps s₀ s) : Answers s₀ (execDmaD2h ring s) := h.moveData fun _ _ _ _ h1 => h1.noteVa.toHost

theorem Keeps.execJournalExport {ring} (h : Keeps s₀ s) : Answers s₀ (execJournalExport ring s) := by
  unfold Machine.execJournalExport
  refine h.moveData ?_
  intro _ _ _ _ h1
  split
  · exact h1
  · exact h1.itePair h1.noteRegion.toHost

theorem Keeps.execJobAbort {ring} (h : Keeps s₀ s) : Answers s₀ (execJobAbort ring s) :=
  h.serve fun _ _ h1 => h1.withJob fun _ => (h1.ite h1.terminal).plain

theorem Keeps.execStepRelease {ring} (h : Keeps s₀ s) : Answers s₀ (execStepRelease ring s) :=
  h.serve fun _ _ h1 => h1.withJob fun _ => h1.onPen.plain

theorem Keeps.execSeedSet {ring} (h : Keeps s₀ s) : Answers s₀ (execSeedSet ring s) :=
  h.serve fun _ _ h1 => h1.withJob fun _ => h1.plain.itePair (h1.plain.itePair h1.onJob.seedRegs.plain)

theorem Keeps.execSeedDraw {ring} (h : Keeps s₀ s) : Answers s₀ (execSeedDraw ring s) :=
  h.serve fun _ _ h1 => h1.plain.itePair (h1.plain.itePair (h1.plain.itePair h1.generate.bump.draw))

theorem Keeps.execYokeCheck {ring} (h : Keeps s₀ s) : Answers s₀ (execYokeCheck ring s) :=
  h.serve fun _ _ h1 => h1.plain.itePair (h1.withJob fun _ => h1.plain.itePair h1.onJob.plain)

theorem Keeps.execSnapshot {ring} (h : Keeps s₀ s) : Answers s₀ (execSnapshot ring s) :=
  h.serve fun _ _ h1 => h1.withJob fun _ => h1.plain.itePair h1.onJob.setReg.plain

theorem Keeps.execLedgerImport {ring rankZero} (h : Keeps s₀ s) : Answers s₀ (execLedgerImport ring rankZero s) :=
  h.serve fun _ _ h1 => h1.withJob fun _ => h1.setJob.importedReg.replayReg.plain

theorem Keeps.freeSites {p} (h : Keeps s₀ s) : Keeps s₀ (s.freeSites p) := h.foldl fun _ _ h1 => h1.setSite.ite (h1.startTest.ite h1)

theorem Keeps.clearUnits {p} (h : Keeps s₀ s) : Keeps s₀ (s.clearUnits p) := h.frame

theorem Keeps.dropJob {p} (h : Keeps s₀ s) : Keeps s₀ (s.dropJob p) := by
  unfold State.dropJob
  split
  · exact h
  · extract_lets +onlyGivenNames s1 s2 s3 s4 s5 s6 s7 s8 s9 s10
    have h6 : Keeps s₀ s6 := h.setJob.clearUnits.freeSites.nameLinks.setReg.setReg.setReg.setReg.setFld.setFld.setFld.seedRegs.onPen
    have h8 : Keeps s₀ s8 := (h6.setFld.ite h6).foldl fun _ _ h8 => h8.retireDue
    exact ((h8.activateWindows.ite h8).foldl fun _ _ h10 => h10.onBay).actBoundary.refreshGrid.refreshPower.replayReg

theorem Keeps.execJobUnload {ring} (h : Keeps s₀ s) : Answers s₀ (execJobUnload ring s) :=
  h.serve fun _ _ h1 => h1.withJob fun _ => h1.plain.itePair h1.dropJob.plain

theorem Keeps.execStepLimitExpiry {pen} (h : Keeps s₀ s) : Answers s₀ (execStepLimitExpiry pen s) := by
  unfold Machine.execStepLimitExpiry
  split
  · exact h.next
  · split
    · exact h.whenOk h.onJob.postPen
    · exact h.next

/-! ### Pens -/

theorem Keeps.setPenSt {p st} (h : Keeps s₀ s) : Keeps s₀ (s.setPenSt p st) := h.setFld

theorem Keeps.refreshCut (h : Keeps s₀ s) : Keeps s₀ s.refreshCut := h.setReg

theorem Keeps.arbLost {loser p} (h : Keeps s₀ s) : Keeps s₀ (s.arbLost loser p) := by
  unfold State.arbLost
  extract_lets +onlyGivenNames s1 s2 s3
  have h2 : Keeps s₀ s2 := (h.bump.ite h.bump).setFld
  exact (h2.setFld.ite h2).setFld

theorem Keeps.preemptPen {p} (h : Keeps s₀ s) : Keeps s₀ (s.preemptPen p) :=
  h.foldl fun _ _ h1 => h1.onRing.foldl fun _ _ h3 => h3.arbLost

theorem Keeps.cutJob {p} (h : Keeps s₀ s) : Keeps s₀ (s.cutJob p) := by
  unfold State.cutJob
  split
  · exact h
  · extract_lets +onlyGivenNames s1
    have h1 : Keeps s₀ s1 := by
      unfold s1
      split
      · exact h.postCkptDone
      · exact h
    exact h1.onJob.ite h1.jobEnd

theorem Keeps.teardown {p cause} (h : Keeps s₀ s) : Keeps s₀ (s.teardown p cause) := h.ite h.onPen.setPenSt.cutJob

theorem Keeps.execPenReset {fn pen} (h : Keeps s₀ s) : Answers s₀ (execPenReset fn pen s) :=
  h.next.ite (h.next.ite (h.arbLost.next.ite (h.preemptPen.ite h).teardown.setFld.next))

theorem Keeps.cutRing {r} (h : Keeps s₀ s) : Keeps s₀ (s.cutRing r) := by
  unfold State.cutRing
  extract_lets +onlyGivenNames q s1 s2 k s3
  have h2 : Keeps s₀ s2 := h.onRing.foldl fun _ _ h2 => h2.putCpl
  exact (h2.frame.ite h2).ringReset

theorem Keeps.execTeardownQuiesceDone {pen} (h : Keeps s₀ s) : Answers s₀ (execTeardownQuiesceDone pen s) :=
  h.next.ite ((h.foldl fun _ _ h1 => h1.cutRing).foldl fun _ _ h2 => h2.onPort).onPen.setFld.frame.frame.setPenSt.next

theorem Keeps.resetReg {n ix fn} (h : Keeps s₀ s) : Keeps s₀ (s.resetReg n ix fn) := h.setReg

theorem Keeps.scrub {p} (h : Keeps s₀ s) : Keeps s₀ (s.scrub p) :=
  (h.dropJob.clearUnits.foldl fun _ _ h2 => h2.onPort.onBay).foldl fun _ _ h3 => h3.resetReg

theorem Keeps.execScrubDone {pen} (h : Keeps s₀ s) : Answers s₀ (execScrubDone pen s) :=
  h.next.ite h.scrub.setPenSt.refreshCut.refreshPower.next

theorem Keeps.eraseBay {b} (h : Keeps s₀ s) : Keeps s₀ (s.eraseBay b) := h.of_wf fun w => by
  rw [Memory.wf_iff] at w
  obtain ⟨hbm, poison, host, bad, regs⟩ := w
  have erased : SMap.wf (fun _ => false) (s.eraseBay b).badLines = true := SMap.wf_keep _ (fun l => decide (l / stackLines ≠ b)) _ bad
  exact (Memory.wf_iff _).mpr ⟨SMap.sorted_keep (fun a => decide (a / stackSpan ≠ b)) _ hbm, SMap.sorted_keep (fun l =>
    decide (l / stackLines ≠ b)) _ poison,
    host, erased, regs⟩

theorem Keeps.claimSites {p} (h : Keeps s₀ s) : Keeps s₀ (s.claimSites p) := by
  unfold State.claimSites
  refine h.foldl ?_
  intro _ _ h1
  extract_lets +onlyGivenNames s2
  have h2 : Keeps s₀ s2 := h1.setFld
  exact h2.setSite.ite h2

theorem Keeps.releaseSites {p} (h : Keeps s₀ s) : Keeps s₀ (s.releaseSites p) := by
  unfold State.releaseSites
  refine h.foldl ?_
  intro _ _ h1
  extract_lets +onlyGivenNames s2
  have h2 : Keeps s₀ s2 := h1.setFld
  exact h2.setSite.ite h2

theorem Keeps.createPen {p conf bays} (h : Keeps s₀ s) : Keeps s₀ (s.createPen p conf bays) :=
  h.generate.generate.drawWide.drawWide.setPen.setFld.setPenSt.setFld.setFld.bump.claimSites.refreshGrid.refreshCut.postBoth

theorem Keeps.execPenCreate {pen} (h : Keeps s₀ s) : Answers s₀ (execPenCreate pen s) := by
  unfold Machine.execPenCreate
  extract_lets +onlyGivenNames x free quiet
  split
  · exact h.createPen.next.ite h.next
  · exact h.next

theorem Keeps.dropPen {p st} (h : Keeps s₀ s) : Keeps s₀ (s.dropPen p st) := by
  unfold State.dropPen
  extract_lets +onlyGivenNames s1 s2 s3 s4
  have h4 : Keeps s₀ s4 := h.releaseSites.setPen.setFld.setPenSt.setFld.setFld
  exact h4.resetReg.refreshCut.refreshPower

theorem Keeps.execCryptoEraseDone {pen} (h : Keeps s₀ s) : Answers s₀ (execCryptoEraseDone pen s) := by
  unfold Machine.execCryptoEraseDone
  extract_lets +onlyGivenNames x
  split
  · exact h.next
  · refine .ite h.next ?_
    extract_lets +onlyGivenNames s1 s2 s3 s4 s5 e s6
    have h6 : Keeps s₀ s6 := (h.foldl fun _ _ h1 => h1.eraseBay).setFree.setFree.setFree.setFld.setFld.bump.setFld.post.dropPen
    exact h6.next.ite (h6.createPen.next.ite h6.onPen.next)

theorem Keeps.setLayout {b} (h : Keeps s₀ s) : Keeps s₀ (s.setLayout b) :=
  ((h.generate.ite h).drawWide.frame.foldl fun _ _ h3 => h3.eraseBay).foldl fun _ _ h4 => h4.preemptPen.teardown.onPen.ite h4.onPen

theorem Keeps.logAlarm {sensor st} (h : Keeps s₀ s) : Keeps s₀ (s.logAlarm sensor st) :=
  h.drawNat.keepWrite.frame.setReg.setFld.setFld.setFld

theorem Keeps.zeroise (h : Keeps s₀ s) : Keeps s₀ s.zeroise :=
  (h.foldl fun _ _ h1 => h1.onPen.onJob).setFld.frame.foldl fun _ _ h3 => h3.eraseBay

theorem Keeps.abortKeyOps (h : Keeps s₀ s) : Keeps s₀ s.abortKeyOps := h.frame

theorem Keeps.lockDown (h : Keeps s₀ s) : Keeps s₀ s.lockDown :=
  (h.zeroise.setFld.foldl fun _ _ h2 => h2.teardown).foldl fun _ _ h3 => h3.ite h3.onPen.setPenSt

theorem Keeps.haltLocked (h : Keeps s₀ s) : Keeps s₀ s.haltLocked := by
  unfold State.haltLocked
  extract_lets +onlyGivenNames s1 s2
  have h1 : Keeps s₀ s1 := h.setFld
  exact (h1.ite h1.setFld.setFld.setFld).frame.foldl fun _ _ h3 => h3.setPortState.ite h3

theorem Keeps.execTamperAlarm {sensor keyOp} (h : Keeps s₀ s) : Answers s₀ (execTamperAlarm sensor keyOp s) := by
  unfold Machine.execTamperAlarm
  split
  · exact h.next
  · extract_lets +onlyGivenNames up s1 s2
    have h1 : Keeps s₀ s1 := h.logAlarm
    have h2 : Keeps s₀ s2 := h1.ite (h1.haltLocked.ite (h1.zeroise.ite (h1.abortKeyOps.ite h1).lockDown))
    exact (h2.post.ite h2).refreshPins.next

/-! ### Register operations -/

theorem Keeps.writeRwk {n ix v} (h : Keeps s₀ s) : Keeps s₀ (s.writeRwk n ix v) := by
  unfold State.writeRwk
  split
  · exact h
  · extract_lets +onlyGivenNames s1
    have h1 : Keeps s₀ s1 := h.keepWrite
    exact h1.ite h1.setReg

/-! ### The authority -/

theorem Keeps.mailAnswer {e} (h : Keeps s₀ s) : Keeps s₀ (s.mailAnswer e) := h.hostWrite.setFld.setFld.frame

theorem Keeps.orderEnds {o e} (h : Keeps s₀ s) : Keeps s₀ (s.orderEnds o e) := by
  unfold State.orderEnds
  extract_lets +onlyGivenNames s1 s2
  have h1 : Keeps s₀ s1 := h.setFld.ite h
  have h2 : Keeps s₀ s2 := by
    unfold s2
    split
    · exact h1.mailAnswer
    · exact h1
    · exact h1.frame.refreshPins
  exact h2.frame

theorem Keeps.execAuthMailboxGo (h : Keeps s₀ s) : Answers s₀ (execAuthMailboxGo s) := by
  unfold Machine.execAuthMailboxGo
  refine .ite h.next ?_
  extract_lets +onlyGivenNames r s1
  have h1 : Keeps s₀ s1 := h.setFld
  split
  · exact h1.orderEnds.next
  · exact h1.frame.next

theorem Keeps.perform {o op f} (h : Keeps s₀ s) (hf : ∀ b s, Keeps s₀ s → Keeps s₀ (f b s).1) : Answers s₀ (s.perform o op f) := by
  have run {b} : Answers s₀ (.next ((f b s).1.orderEnds o (f b s).2)) := (hf b s h).orderEnds.next
  have arrive {ch r} : Answers s₀ (match s.orderRefusal ch r with
      | some a => .next (s.orderEnds o (.answer a))
      | none => .next ((f (orderBody r) s).1.orderEnds o (f (orderBody r) s).2)) := by
    split
    · exact h.orderEnds.next
    · exact run
  unfold State.perform
  extract_lets +onlyGivenNames run' arrive'
  split
  · split
    · exact h.next
    · exact h.next.ite (h.orderEnds.next.ite run)
  · exact h.next.ite arrive
  · exact h.next.ite arrive

theorem Keeps.applySections {b} (h : Keeps s₀ s) : Keeps s₀ (s.applySections b) := by
  unfold State.applySections
  extract_lets +onlyGivenNames s1 old s2
  have h1 : Keeps s₀ s1 := by
    unfold s1
    split
    · exact h.setFld
    · exact h
  have h2 : Keeps s₀ s2 := by
    unfold s2
    split
    · extract_lets +onlyGivenNames s3
      have h3 : Keeps s₀ s3 := h1.setFld.setFld
      exact h3.ite h3.announceId
    · exact h1
  split
  · exact h2.setLayout
  · exact h2

theorem Keeps.execLoadDeviceSection {o} (h : Keeps s₀ s) : Answers s₀ (execLoadDeviceSection o s) := by
  unfold Machine.execLoadDeviceSection
  refine h.perform ?_
  intro _ _ h1
  extract_lets +onlyGivenNames fits
  split
  · exact h1
  · exact h1.applySections

theorem Keeps.countRings (h : Keeps s₀ s) : Keeps s₀ s.countRings := h.foldl fun _ _ h1 => h1.setFld

theorem Keeps.execRingAllocation {o} (h : Keeps s₀ s) : Answers s₀ (execRingAllocation o s) :=
  h.perform fun _ _ h1 => h1.itePair (h1.itePair (h1.itePair (h1.foldl fun _ _ h2 => h2.ringReset.setFld).countRings))

theorem Keeps.keepOwner {sel key} (h : Keeps s₀ s) : Keeps s₀ (s.keepOwner sel key) :=
  (h.keepWrite.foldl fun _ _ h2 => h2.keepWrite).frame

theorem Keeps.execSetAuthority {o} (h : Keeps s₀ s) : Answers s₀ (execSetAuthority o s) :=
  h.perform fun _ _ h1 => h1.itePair h1.keepOwner

theorem Keeps.execTakeOwnership {o} (h : Keeps s₀ s) : Answers s₀ (execTakeOwnership o s) :=
  h.perform fun _ _ h1 => h1.itePair h1.keepOwner.setFld.setFld.frame

theorem Keeps.execReleaseOwnership {o} (h : Keeps s₀ s) : Answers s₀ (execReleaseOwnership o s) := h.perform fun _ _ h1 => h1.keepOwner

theorem Keeps.execClaimWindowEnd (h : Keeps s₀ s) : Answers s₀ (execClaimWindowEnd s) := h.whenOk h.setFld

theorem Keeps.fwRegs {run trial} (h : Keeps s₀ s) : Keeps s₀ (s.fwRegs run trial) := h.setReg

theorem Keeps.bootFw (h : Keeps s₀ s) : Keeps s₀ s.bootFw := by
  unfold State.bootFw
  extract_lets +onlyGivenNames first s1
  have h1 : Keeps s₀ s1 := h.frame
  exact h1.fwRegs.ite (h1.fwRegs.ite h1.setReg.frame)

theorem Keeps.trialGood (h : Keeps s₀ s) : Keeps s₀ s.trialGood := h.setFld.frame.ite h

theorem Keeps.execFwWrite {o} (h : Keeps s₀ s) : Answers s₀ (execFwWrite o s) := by
  unfold Machine.execFwWrite
  refine h.perform ?_
  intro _ _ h1
  extract_lets +onlyGivenNames slot img
  refine h1.itePair (h1.itePair ?_)
  split
  · exact h1
  · extract_lets +onlyGivenNames s2
    have h2 : Keeps s₀ s2 := h1.setFld.frame
    exact h2.frame.ite h2.frame

theorem Keeps.execFwActivate {o} (h : Keeps s₀ s) : Answers s₀ (execFwActivate o s) := h.perform fun _ _ h1 => h1.frame.itePair h1

theorem Keeps.keepAll (h : Keeps s₀ s) : Keeps s₀ s.keepAll := h.foldl fun _ _ h1 => h1.keepDone

theorem Keeps.execFwCommit {o} (h : Keeps s₀ s) : Answers s₀ (execFwCommit o s) :=
  h.perform fun _ _ h1 => h1.itePair (h1.keepWrite.ite h1).keepAll.setFld.setFld

theorem Keeps.execMgmtRestart {o} (h : Keeps s₀ s) : Answers s₀ (execMgmtRestart o s) := by
  unfold Machine.execMgmtRestart
  refine h.perform ?_
  intro _ _ h1
  refine h1.itePair ?_
  extract_lets +onlyGivenNames s2
  have h2 : Keeps s₀ s2 := h1.bootFw
  exact (h2.trialGood.ite h2).refreshPins

theorem Keeps.execWritePolicy {o} (h : Keeps s₀ s) : Answers s₀ (execWritePolicy o s) := by
  unfold Machine.execWritePolicy
  refine h.perform ?_
  intro _ _ h1
  extract_lets +onlyGivenNames es
  refine h1.itePair (h1.foldl ?_)
  intro _ _ h2
  split
  · exact h2.writeRwk
  · exact h2

theorem Keeps.execClearLedgerEntry {o} (h : Keeps s₀ s) : Answers s₀ (execClearLedgerEntry o s) :=
  h.perform fun _ _ h1 => h1.itePair h1.keepWrite

theorem Keeps.execClearBayAct {o} (h : Keeps s₀ s) : Answers s₀ (execClearBayAct o s) := h.perform fun _ _ h1 => h1.itePair h1.setFld

theorem Keeps.execClearTamperLog {o} (h : Keeps s₀ s) : Answers s₀ (execClearTamperLog o s) :=
  h.perform fun _ _ h1 => (h1.foldl fun _ _ h2 => h2.keepWrite.setReg).setFld.setFld.frame

theorem Keeps.takePack {b} (h : Keeps s₀ s) : Keeps s₀ (s.takePack b) := h.keepWrite.frame.setReg.post

theorem Keeps.execAuthFtpLoad {o} (h : Keeps s₀ s) : Answers s₀ (execAuthFtpLoad o s) := h.perform fun _ _ h1 => h1.takePack.itePair h1

theorem Keeps.execFtpLoad {ring} (h : Keeps s₀ s) : Answers s₀ (execFtpLoad ring s) := h.serve fun _ _ h1 => (h1.takePack.ite h1).plain

/-! ### Faults -/

theorem Keeps.testFail {p n pattern ms injected} (h : Keeps s₀ s) : Keeps s₀ (s.testFail p n pattern ms injected) :=
  h.setFld.setFld.postPen.post.retireSite.countEvent

theorem Keeps.execSiteFence {site detector} (h : Keeps s₀ s) : Answers s₀ (execSiteFence site detector s) := by
  unfold Machine.execSiteFence
  extract_lets +onlyGivenNames p r
  have h1 : Keeps s₀ r.1 := h.fireInjection
  refine .ite h.next ?_
  refine .ite ?_ (h1.fenceSites.testFail.refreshPower.next.ite h.next)
  extract_lets +onlyGivenNames s2 s3
  have h2 : Keeps s₀ s2 := h1.countEvent
  exact (h2.silentError.ite h2).fenceSites.next

theorem Keeps.execAdoptionDone {pen} (h : Keeps s₀ s) : Answers s₀ (execAdoptionDone pen s) := by
  unfold Machine.execAdoptionDone
  split
  · exact h.next
  · refine .ite h.next ?_
    extract_lets +onlyGivenNames s1
    have h1 : Keeps s₀ s1 := by
      unfold s1
      refine h.foldl ?_
      intro _ _ h1
      split
      · exact h1.adopt.ite h1
      · exact h1
    exact h1.onJob.refreshGrid.next

theorem Keeps.execReplayDone {pen} (h : Keeps s₀ s) : Answers s₀ (execReplayDone pen s) := by
  unfold Machine.execReplayDone
  split
  · exact h.next
  · split
    · exact h.drawNat.postPen.onJob.next.ite h.next
    · exact h.next

theorem Keeps.execFaultDetect {b detector dev} (h : Keeps s₀ s) : Answers s₀ (execFaultDetect b detector dev s) := by
  unfold Machine.execFaultDetect
  extract_lets +onlyGivenNames p r count
  have h1 : Keeps s₀ r.1 := by
    unfold r
    split
    · exact h.fireInjection.itePair h
    · exact h
  exact h1.countEvent.next.ite (h1.countEvent.orStatus.next.ite (h1.countEvent.silentError.orStatus.next.ite
    (h1.countEvent.silentError.orStatus.next.ite h.next)))

theorem Keeps.execYokeCheckMismatch {pen logical} (h : Keeps s₀ s) : Answers s₀ (execYokeCheckMismatch pen logical s) := by
  unfold Machine.execYokeCheckMismatch
  split
  · exact h.fireInjection.countEvent.postPen.silentError.fenceSites.next
  · exact h.next

theorem Keeps.execSiteTestResult {site pass pattern ms} (h : Keeps s₀ s) : Answers s₀ (execSiteTestResult site pass pattern ms s) := by
  unfold Machine.execSiteTestResult
  extract_lets +onlyGivenNames p
  refine .ite h.next ?_
  extract_lets +onlyGivenNames seq s2 s3 s4 s1
  have h4 : Keeps s₀ s4 := h.setFld.setFld.bump.postPen.post
  have h1 : Keeps s₀ s1 := (h4.setSite.ite (h4.setSite.ite h4)).ite h.testFail
  exact (h1.refreshPower.ite h1.refreshGrid).next

theorem Keeps.execInjArm {fn} (h : Keeps s₀ s) : Answers s₀ (execInjArm fn s) := by
  unfold Machine.execInjArm
  extract_lets +onlyGivenNames d b u n status
  refine .ite h.next ?_
  refine .ite h.setFld.next ?_
  refine .ite h.setFld.next ?_
  refine .ite h.setFld.next ?_
  refine .ite h.setFld.next ?_
  extract_lets +onlyGivenNames s1
  have h1 : Keeps s₀ s1 := h.setFld.setFld
  exact h1.next.ite h1.setFld.frame.next

theorem Keeps.execInjCancel {fn} (h : Keeps s₀ s) : Answers s₀ (execInjCancel fn s) := h.whenOk h.setFld.setFld.frame

/-! ### Events of a vote -/

theorem Keeps.voteUp {pen rank v} (h : Keeps s₀ s) : Keeps s₀ (s.voteUp pen rank v) := by
  unfold State.voteUp
  split
  · exact h
  · exact h.ite (h.onJob.voteMove.ite (h.onJob.voteMove.ite (h.onJob.ite h)))

theorem Keeps.voteDown {pen v} (h : Keeps s₀ s) : Keeps s₀ (s.voteDown pen v) := by
  unfold State.voteDown
  split
  · exact h
  · split
    · exact h.forwardOutcome.applyOutcome.voteMove.ite h
    · exact h

theorem Keeps.resyncMove {pen} (h : Keeps s₀ s) : Keeps s₀ (s.resyncMove pen) := by
  unfold State.resyncMove
  split
  · exact h
  · refine .ite ?_ h
    extract_lets +onlyGivenNames s1
    have h1 : Keeps s₀ s1 := h.onJob
    exact h1.forwardOutcome.onJob.ite h1.sendVote

theorem Keeps.joinResync {pen} (h : Keeps s₀ s) : Keeps s₀ (s.joinResync pen) := by
  unfold State.joinResync
  split
  · exact h
  · exact h.ite h.onJob.setFld.resyncMove

theorem Keeps.resyncUp {pen rank} (h : Keeps s₀ s) : Keeps s₀ (s.resyncUp pen rank) := by
  unfold State.resyncUp
  split
  · exact h
  · exact h.onJob.resyncMove.ite h

theorem Keeps.resyncDown {pen} (h : Keeps s₀ s) : Keeps s₀ (s.resyncDown pen) := by
  unfold State.resyncDown
  split
  · exact h
  · exact h.forwardOutcome.onJob.ite h

theorem Keeps.voteIn {pen src pay} (h : Keeps s₀ s) : Keeps s₀ (s.voteIn pen src pay) := by
  unfold State.voteIn
  split
  · exact h.voteUp
  · exact h.voteDown
  · exact h.resyncUp
  · exact h.resyncDown

theorem Keeps.execVoteReceive {pen src pay} (h : Keeps s₀ s) : Answers s₀ (execVoteReceive pen src pay s) := h.voteIn.next

theorem Keeps.execSendDrainComplete {pen} (h : Keeps s₀ s) : Answers s₀ (execSendDrainComplete pen s) := by
  unfold Machine.execSendDrainComplete
  split
  · exact h.next
  · exact h.whenOk h.onJob.joinResync

theorem Keeps.execResyncDone {pen} (h : Keeps s₀ s) : Answers s₀ (execResyncDone pen s) := by
  unfold Machine.execResyncDone
  split
  · exact h.next
  · exact h.whenOk h.onGroups.onJob.setFld

theorem Keeps.execVoteTimeout {pen} (h : Keeps s₀ s) : Answers s₀ (execVoteTimeout pen s) := by
  unfold Machine.execVoteTimeout
  split
  · exact h.next
  · split
    · exact h.whenOk h.jobEnd
    · exact h.next

/-! ### Checkpoints -/

theorem Keeps.execCkptArm {ring} (h : Keeps s₀ s) : Answers s₀ (execCkptArm ring s) :=
  h.serve fun _ _ h1 => h1.withJob fun _ => h1.plain.itePair (h1.plain.itePair (h1.plain.itePair
    h1.onJob.setFld.setFld.setFld.setFld.plain))

theorem Keeps.execBuddyReceive {ring} (h : Keeps s₀ s) : Answers s₀ (execBuddyReceive ring s) :=
  h.serve fun _ _ h1 => h1.withJob fun _ => h1.plain.itePair (h1.plain.itePair h1.onJob.setFld.plain)

theorem Keeps.noteSaved {pen bank ti} (h : Keeps s₀ s) : Keeps s₀ (s.noteSaved pen bank ti) := by
  unfold State.noteSaved
  extract_lets +onlyGivenNames t sc
  refine .ite h.noteVa ?_
  extract_lets +onlyGivenNames s1
  have h1 : Keeps s₀ s1 := h.noteVa.noteVa
  exact (h1.noteVa.ite h1).noteVa

theorem Keeps.ckptEnd {pen c status bytes id records} (h : Keeps s₀ s) : Keeps s₀ (s.ckptEnd pen c status bytes id records) :=
  h.postCkptDone.setFld.setFld.setFree.onJob.joinResync

theorem Keeps.toBuffers {fn ring bufs bs} (h : Keeps s₀ s) : Keeps s₀ (State.toBuffers fn ring bufs s bs) := by
  induction bufs generalizing s bs with
  | nil => exact h
  | cons b t ih => exact ih h.toHost

theorem Keeps.execCkptWrite {pen peers} (h : Keeps s₀ s) : Answers s₀ (execCkptWrite pen peers s) := by
  unfold Machine.execCkptWrite
  split
  · exact h.next
  · split
    · exact h.next
    · refine .ite h.ckptEnd.next ?_
      refine .ite h.next ?_
      extract_lets +onlyGivenNames f marks room
      refine .ite h.ckptEnd.next ?_
      extract_lets +onlyGivenNames s1 s2 s3 s4 run s5
      have h2 : Keeps s₀ s2 := (h.foldl fun _ _ h1 => h1.noteSaved).foldl fun _ _ h2 => h2.postPen
      have h3 : Keeps s₀ s3 := h2.ite h2.setFld
      exact (h3.remoteWrite.remoteWrite.ite h3.toBuffers).onJob.setFld.next

theorem Keeps.execCkptComplete {pen} (h : Keeps s₀ s) : Answers s₀ (execCkptComplete pen s) := by
  unfold Machine.execCkptComplete
  split
  · exact h.next
  · split
    · exact h.next
    · exact h.whenOk h.ckptEnd

theorem Keeps.execCkptBuddyTimeout {pen} (h : Keeps s₀ s) : Answers s₀ (execCkptBuddyTimeout pen s) := by
  unfold Machine.execCkptBuddyTimeout
  split
  · exact h.next
  · split
    · exact h.next
    · exact h.whenOk h.ckptEnd

theorem Keeps.restoreEntry {pen bs et} (h : Keeps s₀ s) : Keeps s₀ (s.restoreEntry pen bs et) := by
  unfold State.restoreEntry
  extract_lets +onlyGivenNames e t at_ psz msz stored mOff vOff s1 s2 s3
  have h2 : Keeps s₀ s2 := h.vaStoreBad.vaStoreBad
  exact (h2.vaStoreBad.ite h2).vaStoreBad

theorem Keeps.restoreSource {c ring j} (h : Keeps s₀ s) : Keeps s₀ (s.restoreSource c ring j).1 := by
  unfold State.restoreSource
  refine (h.foldlPair ?_).itePair ?_
  · intro _ _ h1
    split
    · exact h1
    · extract_lets +onlyGivenNames r
      have h2 : Keeps s₀ r.1 := h1.fromHost
      split
      · exact h2
      · exact h2
  · split
    · exact h.noteRegion.itePair h
    · exact h

theorem Keeps.execRestore {ring} (h : Keeps s₀ s) : Answers s₀ (execRestore ring s) := by
  unfold Machine.execRestore
  refine h.serve ?_
  intro _ _ h1
  refine h1.plain.itePair (h1.withJob ?_)
  intro _
  refine h1.plain.itePair ?_
  extract_lets +onlyGivenNames r
  have h2 : Keeps s₀ r.1 := h1.restoreSource
  split
  · exact h2.plain
  · extract_lets +onlyGivenNames s3 bs x
    refine h2.plain.itePair ?_
    extract_lets +onlyGivenNames uses
    refine h2.plain.itePair ?_
    split
    · exact h2.plain
    · split
      · exact h2.plain
      · exact (h2.foldl fun _ _ h4 => h4.restoreEntry).onJob.setFld.plain

theorem Keeps.execRestoreFinish {ring peers} (h : Keeps s₀ s) : Answers s₀ (execRestoreFinish ring peers s) :=
  h.serve fun _ _ h1 => h1.withJob fun _ => h1.plain.itePair (h1.plain.itePair (h1.plain.itePair (h1.plain.itePair (h1.plain.itePair
    h1.onJob.setFld.setFld.postPen.plain))))

/-! ### The control slot -/

theorem Keeps.execBr {u target} (h : Keeps s₀ s) : Answers s₀ (execBr u target s) := h.issue fun _ => h.put

theorem Keeps.execBc {u cond ra rb target} (h : Keeps s₀ s) : Answers s₀ (execBc u cond ra rb target s) :=
  h.issue fun _ => h.faultAt.ite (h.put.ite h.put)

theorem Keeps.execLbeg {u dslot sd sb len} (h : Keeps s₀ s) : Answers s₀ (execLbeg u dslot sd sb len s) :=
  h.issueIf fun _ => h.faultAt.ite (h.faultAt.ite (h.put.ite h.put))

theorem Keeps.execSigAdd {u self ctr rt imm} (h : Keeps s₀ s) : Answers s₀ (execSigAdd u self ctr rt imm s) := by
  unfold Machine.execSigAdd
  refine h.issue ?_
  intro _
  extract_lets +onlyGivenNames t
  refine .ite h.faultAt ?_
  refine .ite h.faultAt ?_
  extract_lets +onlyGivenNames s1
  have h1 : Keeps s₀ s1 := h.put
  exact h1.applySignal.ite h1.frame

theorem Keeps.passGate {u ctr isEq} (h : Keeps s₀ s) : Keeps s₀ (s.passGate u ctr isEq) := h.onJob.ite h

theorem Keeps.waitOn {i isEq u ctr ra imm} (h : Keeps s₀ s) : Answers s₀ (waitOn i isEq u ctr ra imm s) :=
  h.issue fun _ => h.faultAt.ite (h.put.passGate.ite h.put)

theorem Keeps.execWaitGe {u ctr ra imm} (h : Keeps s₀ s) : Answers s₀ (execWaitGe u ctr ra imm s) := h.waitOn

theorem Keeps.execWaitEq {u ctr ra imm} (h : Keeps s₀ s) : Answers s₀ (execWaitEq u ctr ra imm s) := h.waitOn

theorem Keeps.execWaitRelease {u} (h : Keeps s₀ s) : Answers s₀ (execWaitRelease u s) := by
  unfold Machine.execWaitRelease
  extract_lets +onlyGivenNames c
  split
  · exact h.whenOk h.put.passGate
  · exact h.next

theorem Keeps.execSyncFence {u} (h : Keeps s₀ s) : Answers s₀ (execSyncFence u s) := h.issue fun _ => h.put.ite h.put

theorem Keeps.execFenceRelease {u} (h : Keeps s₀ s) : Answers s₀ (execFenceRelease u s) := h.whenOk h.onCore

theorem Keeps.execCsrr {u rd csr} (h : Keeps s₀ s) : Answers s₀ (execCsrr u rd csr s) := by
  refine h.issueIf fun _ => Keeps.put ?_
  split
  · exact h.draw
  · exact h

theorem Keeps.execCsrw {u ra csr} (h : Keeps s₀ s) : Answers s₀ (execCsrw u ra csr s) := h.issueIf fun _ => h.faultAt.ite h.put

theorem Keeps.execCsrc {u ra csr} (h : Keeps s₀ s) : Answers s₀ (execCsrc u ra csr s) :=
  h.issueIf fun _ => h.faultAt.ite (h.put.ite h.put)

theorem Keeps.execEnd {u} (h : Keeps s₀ s) : Answers s₀ (execEnd u s) := h.issue fun _ => h.put

theorem Keeps.execCoreEnded {u} (h : Keeps s₀ s) : Answers s₀ (execCoreEnded u s) := by
  unfold Machine.execCoreEnded
  extract_lets +onlyGivenNames c s1
  have h1 : Keeps s₀ s1 := h.put
  exact h.whenOk (h1.setFld.ite h1)

/-! ### Lanes and training -/

theorem Keeps.loadLanes {p} (h : Keeps s₀ s) : Keeps s₀ (s.loadLanes p) := h.setFld.setFld

theorem Keeps.setWidth {p dir good} (h : Keeps s₀ s) : Keeps s₀ (s.setWidth p dir good) := h.setFld.setFld

theorem Keeps.partnerGone {p} (h : Keeps s₀ s) : Keeps s₀ (s.partnerGone p) := h.setFld.postLink

theorem Keeps.portGoDown {p} (h : Keeps s₀ s) : Keeps s₀ (s.portGoDown p) := by
  unfold State.portGoDown
  extract_lets +onlyGivenNames had s1 s2
  have h2 : Keeps s₀ s2 := h.onPort.setPortState.setWidth.setWidth.postLink
  exact h2.partnerGone.ite h2

theorem Keeps.checkDown {p} (h : Keeps s₀ s) : Keeps s₀ (s.checkDown p) := h.portGoDown.ite h

theorem Keeps.changeWidth {p dir good} (h : Keeps s₀ s) : Keeps s₀ (s.changeWidth p dir good) := h.onPort.setWidth.postLink.checkDown

theorem Keeps.retireLane {p dir l} (h : Keeps s₀ s) : Keeps s₀ (s.retireLane p dir l) := h.setFld.ledgerLane.postLink

theorem Keeps.recordPartner {p i} (h : Keeps s₀ s) : Keeps s₀ (s.recordPartner p i) := h.setFld.setFld.setFld.setFld.setReg

theorem Keeps.linkUp {p} (h : Keeps s₀ s) : Keeps s₀ (s.linkUp p) := h.setPortState.postLink

theorem Keeps.census {p i} (h : Keeps s₀ s) : Keeps s₀ (s.census p i) := by
  unfold State.census
  extract_lets +onlyGivenNames s1
  have h1 : Keeps s₀ s1 := h.recordPartner
  exact h1.setFld.ite h1.setFld.postLink

theorem Keeps.reportLanes {p good fseq} (h : Keeps s₀ s) : Keeps s₀ (s.reportLanes p good fseq) := h.onPort.sendCtl.sendCtl

theorem Keeps.finishTraining {p} (h : Keeps s₀ s) : Keeps s₀ (s.finishTraining p) := by
  unfold State.finishTraining
  extract_lets +onlyGivenNames x
  split
  · refine .ite h ?_
    extract_lets +onlyGivenNames tx s1 s2
    have h2 : Keeps s₀ s2 := h.onPort.setWidth.setWidth
    refine .ite h2.portGoDown ?_
    extract_lets +onlyGivenNames s3
    have h3 : Keeps s₀ s3 := h2.recordPartner.ite h2.census
    exact h3.linkUp.ite h3.setPortState
  · exact h

theorem Keeps.finishRetrain {p} (h : Keeps s₀ s) : Keeps s₀ (s.finishRetrain p) := by
  unfold State.finishRetrain
  extract_lets +onlyGivenNames x
  split
  · refine .ite h ?_
    extract_lets +onlyGivenNames txBad s1 s2 s3 s4
    have h3 : Keeps s₀ s3 := (h.foldl fun _ _ h1 => h1.retireLane).setPortState.recordPartner.onPort
    have h4 : Keeps s₀ s4 := h3.ite h3.changeWidth
    exact h4.ite h4.changeWidth
  · exact h

theorem Keeps.startRetrain {p} (h : Keeps s₀ s) : Keeps s₀ (s.startRetrain p) := h.onPort.bump.setPortState.postLink

theorem Keeps.execCodewordReceive {p lane payload errs} (h : Keeps s₀ s) : Answers s₀ (execCodewordReceive p lane payload errs s) := by
  unfold Machine.execCodewordReceive
  extract_lets +onlyGivenNames cw
  refine .ite h.next ?_
  extract_lets +onlyGivenNames mask f13 f14 lost fixed s3
  have h3 : Keeps s₀ s3 := h.fireInjection.fireInjection.onPort
  exact h3.bump.countEvent.next.ite (h3.bump.countEvent.ite h3).next

theorem Keeps.execLossOfLock {p lane} (h : Keeps s₀ s) : Answers s₀ (execLossOfLock p lane s) := h.whenOk h.startRetrain.sendCtl

theorem Keeps.execRetryBudgetExhausted {p} (h : Keeps s₀ s) : Answers s₀ (execRetryBudgetExhausted p s) :=
  h.whenOk h.startRetrain.sendCtl

theorem Keeps.execRetrain {p} (h : Keeps s₀ s) : Answers s₀ (execRetrain p s) := by
  unfold Machine.execRetrain
  extract_lets +onlyGivenNames s1
  have h1 : Keeps s₀ s1 := h.onPort
  exact (h1.startRetrain.ite h1).next

theorem Keeps.execRetrainDone {p failedLanes} (h : Keeps s₀ s) : Answers s₀ (execRetrainDone p failedLanes s) :=
  h.whenOk (h.foldl fun _ _ h1 => h1.retireLane).reportLanes.finishRetrain

theorem Keeps.execIdentity {p idn} (h : Keeps s₀ s) : Answers s₀ (execIdentity p idn s) := by
  unfold Machine.execIdentity
  extract_lets +onlyGivenNames s1
  have h1 : Keeps s₀ s1 := h.onPort
  exact h.whenOk (h1.recordPartner.ite h1.finishTraining.finishRetrain)

theorem Keeps.txWidthDue {p} (h : Keeps s₀ s) : Keeps s₀ (s.txWidthDue p) := by
  unfold State.txWidthDue
  extract_lets +onlyGivenNames x
  split
  · exact h.onPort.changeWidth.ite h
  · exact h

theorem Keeps.rxWidthDue {p} (h : Keeps s₀ s) : Keeps s₀ (s.rxWidthDue p) := by
  unfold State.rxWidthDue
  extract_lets +onlyGivenNames x
  split
  · exact h.onPort.changeWidth.ite h
  · exact h

theorem Keeps.execLanes {p goodMask fseq} (h : Keeps s₀ s) : Answers s₀ (execLanes p goodMask fseq s) := by
  unfold Machine.execLanes
  extract_lets +onlyGivenNames s1
  have h1 : Keeps s₀ s1 := h.onPort
  exact h.whenOk (h1.onPort.txWidthDue.ite h1.finishTraining.finishRetrain)

theorem Keeps.execLaneWindowEnd {p lanes} (h : Keeps s₀ s) : Answers s₀ (execLaneWindowEnd p lanes s) := by
  unfold Machine.execLaneWindowEnd
  refine .ite h.next ?_
  extract_lets +onlyGivenNames judged need above kept s1
  refine (h.setFld.foldl ?_).next
  intro _ _ h2
  extract_lets +onlyGivenNames f run due was s4
  have h4 : Keeps s₀ s4 := h2.fireInjection.onPort
  exact h4.countEvent.ite h4

theorem Keeps.execLaneRetire {p tx lane} (h : Keeps s₀ s) : Answers s₀ (execLaneRetire p tx lane s) :=
  h.next.ite ((h.whenOk h.retireLane).ite (h.next.ite h.retireLane.onPort.sendCtl.next))

theorem Keeps.execLinkStageBegin (h : Keeps s₀ s) : Answers s₀ (execLinkStageBegin s) :=
  h.next.ite (h.frame.foldl fun _ _ h2 => h2.setPortState.loadLanes.ite h2).next

theorem Keeps.beginTraining {p} (h : Keeps s₀ s) : Keeps s₀ (s.beginTraining p) := by
  unfold State.beginTraining
  exact h.loadLanes.setPortState.onPort

theorem Keeps.xglStatus {st} (h : Keeps s₀ s) : Keeps s₀ (s.xglStatus st) := h.setFld.setFld

theorem Keeps.execSynthLock {p} (h : Keeps s₀ s) : Answers s₀ (execSynthLock p s) := by
  unfold Machine.execSynthLock
  refine .ite h.next ?_
  extract_lets +onlyGivenNames x s1 s2
  have h1 : Keeps s₀ s1 := h.setFld.setPortState
  have h2 : Keeps s₀ s2 := h1.beginTraining.ite h1
  exact (h2.onPort.xglStatus.ite h2).next

theorem Keeps.execSynthTimeout {p} (h : Keeps s₀ s) : Answers s₀ (execSynthTimeout p s) := by
  unfold Machine.execSynthTimeout
  refine .ite h.next ?_
  extract_lets +onlyGivenNames s1
  have h1 : Keeps s₀ s1 := by
    unfold s1
    split
    · exact h.onPort.xglStatus
    · exact h
  exact h1.onPort.portGoDown.next

theorem Keeps.execTrainingAttempt {p} (h : Keeps s₀ s) : Answers s₀ (execTrainingAttempt p s) :=
  h.onPort.next.ite (h.whenOk h.beginTraining.onPort)

theorem Keeps.execSignalDetect {p} (h : Keeps s₀ s) : Answers s₀ (execSignalDetect p s) :=
  h.setFld.next.ite (h.onPort.next.ite ((h.ite h.beginTraining).onPort.next.ite h.next))

theorem Keeps.execTrainingComplete {p locked skews precoded} (h : Keeps s₀ s) :
    Answers s₀ (execTrainingComplete p locked skews precoded s) := by
  unfold Machine.execTrainingComplete
  extract_lets +onlyGivenNames x good s1
  have h1 : Keeps s₀ s1 := h.setFld
  exact h.whenOk (h1.portGoDown.ite h1.reportLanes.finishTraining)

theorem Keeps.execBerWindowEnd {p lanes} (h : Keeps s₀ s) : Answers s₀ (execBerWindowEnd p lanes s) := by
  unfold Machine.execBerWindowEnd
  refine .ite h.next ?_
  extract_lets +onlyGivenNames x be above s1
  have h1 : Keeps s₀ s1 := h.onPort
  refine .ite h1.linkUp.next ?_
  refine .ite h1.beginTraining.onPort.next ?_
  extract_lets +onlyGivenNames good s2 s3
  have h3 : Keeps s₀ s3 := (h1.foldl fun _ _ h2 => h2.retireLane).changeWidth.sendCtl
  exact (h3.ite h3.linkUp).next

theorem Keeps.execCensusClose (h : Keeps s₀ s) : Answers s₀ (execCensusClose s) := h.whenOk h.frame

theorem Keeps.execPartnerRemoved {p} (h : Keeps s₀ s) : Answers s₀ (execPartnerRemoved p s) := h.whenOk h.portGoDown

theorem Keeps.execLinkStageEnd (h : Keeps s₀ s) : Answers s₀ (execLinkStageEnd s) := h.whenOk h.frame

theorem Keeps.preempt {master} (h : Keeps s₀ s) : Keeps s₀ (s.preempt master) :=
  (h.foldl fun _ _ h1 => h1.onPort.ite h1).xglStatus.ite h

theorem Keeps.xglOk {pre} (h : Keeps s₀ s) : Keeps s₀ (s.xglOk pre) := h.setFld.ite h.xglStatus

theorem Keeps.xglRefuse {st} (h : Keeps s₀ s) : Keeps s₀ (s.xglRefuse st) := h.setFld.ite h.xglStatus

theorem Keeps.execTrain {p master} (h : Keeps s₀ s) : Answers s₀ (execTrain p master s) := by
  unfold Machine.execTrain
  split
  · exact h.xglRefuse.next
  · extract_lets +onlyGivenNames pre s1
    have h1 : Keeps s₀ s1 := h.preempt
    exact h1.onPort.setFld.next.ite (h1.setPortState.onPort.setFld.next.ite (h1.portGoDown.ite h1).beginTraining.xglOk.next)

theorem Keeps.execIdle {p master} (h : Keeps s₀ s) : Answers s₀ (execIdle p master s) := by
  unfold Machine.execIdle
  split
  · exact h.xglRefuse.next
  · extract_lets +onlyGivenNames pre s1 s2
    have h1 : Keeps s₀ s1 := h.preempt
    exact (h1.portGoDown.ite h1.onPort).setPortState.xglOk.next

theorem Keeps.execClearCounts {p master} (h : Keeps s₀ s) : Answers s₀ (execClearCounts p master s) := by
  unfold Machine.execClearCounts
  split
  · exact h.xglRefuse.next
  · exact h.preempt.setReg.xglOk.next

/-! ### Flits -/

theorem Keeps.takeFlit {p count f} (h : Keeps s₀ s) : Keeps s₀ (s.takeFlit p count f) := by
  unfold State.takeFlit
  extract_lets +onlyGivenNames s1
  have h1 : Keeps s₀ s1 := h.onPort
  split
  · exact h1
  · exact h1.onPort
  · exact h1.onPort

theorem Keeps.execFlitReceive {p logical} (h : Keeps s₀ s) : Answers s₀ (execFlitReceive p logical s) := by
  unfold Machine.execFlitReceive
  refine .ite h.next ?_
  split
  · exact h.next
  · refine .ite h.next ?_
    split
    · exact h.next
    · extract_lets +onlyGivenNames s1 s2
      have h1 : Keeps s₀ s1 := h.setPort
      have h2 : Keeps s₀ s2 := by
        unfold s2
        split
        · exact h1.onPort
        · exact h1.takeFlit.ite h1.onPort.countEvent
      exact (h2.rxWidthDue.ite h2).next

theorem Keeps.execFrameTransmit {p} (h : Keeps s₀ s) : Answers s₀ (execFrameTransmit p s) := by
  unfold Machine.execFrameTransmit
  refine .ite h.next ?_
  extract_lets +onlyGivenNames s1 x w cs r left s2
  have h1 : Keeps s₀ s1 := h.txWidthDue
  exact (h1.bump.ite h1).setPort.next

theorem Keeps.execMessageSend {p} (h : Keeps s₀ s) : Answers s₀ (execMessageSend p s) := by
  unfold Machine.execMessageSend
  extract_lets +onlyGivenNames pen
  split
  · exact h.next
  · refine .ite h.next ?_
    split
    · exact h.next
    · split
      · exact h.next
      · exact h.setPort.setJob.next

theorem Keeps.execAltRouteTimeout {p} (h : Keeps s₀ s) : Answers s₀ (execAltRouteTimeout p s) := by
  unfold Machine.execAltRouteTimeout
  extract_lets +onlyGivenNames pen x
  split
  · exact h.next
  · extract_lets +onlyGivenNames may
    split
    · exact h.next
    · extract_lets +onlyGivenNames q s1 s2
      have h2 : Keeps s₀ s2 := h.onPort.onPort
      exact h.whenOk (h2.onJob.ite h2)

/-! ### Messages -/

theorem Keeps.unknownJob {p} (h : Keeps s₀ s) : Keeps s₀ (s.unknownJob p) := h.bump

theorem Keeps.authFail {p pen m injected} (h : Keeps s₀ s) : Keeps s₀ (s.authFail p pen m injected) :=
  h.bump.postLink.countEvent.orStatus

theorem Keeps.admitMsg {p m} (h : Keeps s₀ s) : Keeps s₀ (s.admitMsg p m).1 := by
  unfold State.admitMsg
  split
  · exact h.unknownJob
  · dsimp only
    split
    · exact h.fireOnPort.authFail
    · exact h.fireOnPort.authFail.itePair (h.fireOnPort.bump.itePair h.fireOnPort)

theorem Keeps.sendAck {p pen dev srcPort} (h : Keeps s₀ s) : Keeps s₀ (s.sendAck p pen dev srcPort) := h.onPort.onJob

theorem Keeps.msgSignals {pen m} (h : Keeps s₀ s) : Keeps s₀ (s.msgSignals pen m) := by
  unfold State.msgSignals
  extract_lets +onlyGivenNames j
  refine .ite h ?_
  extract_lets +onlyGivenNames s1
  have h1 : Keeps s₀ s1 := h.remoteSignal.ite h
  exact h1.remoteSignal.ite h1

theorem Keeps.releaseSignals {pen} (h : Keeps s₀ s) : Keeps s₀ (s.releaseSignals pen) := h.onJob.foldl fun _ _ h1 => h1.msgSignals

theorem Keeps.noteCounter {p pen m} (h : Keeps s₀ s) : Keeps s₀ (s.noteCounter p pen m) := by
  unfold State.noteCounter
  refine .ite h ?_
  extract_lets +onlyGivenNames k s1
  have h1 : Keeps s₀ s1 := h.onJob
  exact h1.sendAck.ite h1

theorem Keeps.performed {p pen m} (h : Keeps s₀ s) : Keeps s₀ (s.performed p pen m) := h.onJob.releaseSignals.noteCounter

theorem Keeps.execAckTimer {p srcDev srcPort} (h : Keeps s₀ s) : Answers s₀ (execAckTimer p srcDev srcPort s) := h.whenOk h.sendAck

theorem Keeps.recordXfer {x} (h : Keeps s₀ s) : Keeps s₀ (s.recordXfer x) := h.onPort

theorem Keeps.completeXfers {pen} (h : Keeps s₀ s) : Keeps s₀ (s.completeXfers pen) := (h.foldl fun _ _ h1 => h1.recordXfer).onJob

theorem Keeps.execAck {p msg} (h : Keeps s₀ s) : Answers s₀ (execAck p msg s) := by
  unfold Machine.execAck
  refine .ite h.next ?_
  extract_lets +onlyGivenNames s1
  have h1 : Keeps s₀ s1 := h.onPort
  split
  · rename_i t e
    have h2 := h1.admitMsg.of_pair e
    exact h2.next
  · rename_i t _ _ _ e
    have h2 := h1.admitMsg.of_pair e
    split
    · exact h2.next
    · exact h2.onJob.completeXfers.next

theorem Keeps.digestMismatch {p pen m injected} (h : Keeps s₀ s) : Keeps s₀ (s.digestMismatch p pen m injected) :=
  h.orStatus.postBoth.setReg.bump.countEvent.silentError

theorem Keeps.writeLines {pen va mask lines} (h : Keeps s₀ s) : Keeps s₀ (s.writeLines pen va mask lines) :=
  h.foldl fun _ _ h1 => h1.vaStore

theorem Keeps.remoteWindow {pen m} (h : Keeps s₀ s) : Keeps s₀ (s.remoteWindow pen m) := h.progFault

theorem Keeps.dataWrite {p pen m} (h : Keeps s₀ s) : Keeps s₀ (s.dataWrite p pen m) := by
  unfold State.dataWrite
  extract_lets +onlyGivenNames j r grouped size x ends lines
  refine .ite h.remoteWindow ?_
  extract_lets +onlyGivenNames rank keep s1
  have h1 : Keeps s₀ s1 := h.writeLines.ite h
  refine .ite h1.performed ?_
  extract_lets +onlyGivenNames ix f s3 bad s4 y s5 s6
  have h3 : Keeps s₀ s3 := h1.fireOnPort.itePair h1
  have h6 : Keeps s₀ s6 := (h3.digestMismatch.ite h3).onJob.performed
  exact h6.chunkDone.ite h6

theorem Keeps.buddyWrite {p pen r m} (h : Keeps s₀ s) : Keeps s₀ (s.buddyWrite p pen r m) := by
  unfold State.buddyWrite
  extract_lets +onlyGivenNames off half s1 k s2 s3
  have h2 : Keeps s₀ s2 := (h.foldl fun _ _ h1 => h1.devWrite.ite h1).setFld
  exact (h2.setFld.ite h2).performed

theorem Keeps.voteWrite {p pen m} (h : Keeps s₀ s) : Keeps s₀ (s.voteWrite p pen m) := by
  unfold State.voteWrite
  extract_lets +onlyGivenNames j s1
  have h1 : Keeps s₀ s1 := h.performed
  split
  · exact h1.voteIn
  · exact h1

theorem Keeps.execWrite {p msg} (h : Keeps s₀ s) : Answers s₀ (execWrite p msg s) := by
  unfold Machine.execWrite
  refine .ite h.next ?_
  extract_lets +onlyGivenNames s1
  have h1 : Keeps s₀ s1 := h.onPort
  split
  · rename_i t e
    have h2 := h1.admitMsg.of_pair e
    exact h2.next
  · rename_i t _ _ _ e
    have h2 := h1.admitMsg.of_pair e
    exact h2.voteWrite.next.ite (h2.buddyWrite.next.ite h2.dataWrite.next)

theorem Keeps.execSignal {p msg} (h : Keeps s₀ s) : Answers s₀ (execSignal p msg s) := by
  unfold Machine.execSignal
  refine .ite h.next ?_
  extract_lets +onlyGivenNames s1
  have h1 : Keeps s₀ s1 := h.onPort
  split
  · rename_i t e
    have h2 := h1.admitMsg.of_pair e
    exact h2.next
  · rename_i t _ _ _ e
    have h2 := h1.admitMsg.of_pair e
    exact h2.performed.next

theorem Keeps.execMessageForward {p msg} (h : Keeps s₀ s) : Answers s₀ (execMessageForward p msg s) := by
  unfold Machine.execMessageForward
  refine .ite h.next ?_
  extract_lets +onlyGivenNames s1
  have h1 : Keeps s₀ s1 := h.onPort
  split
  · exact h1.unknownJob.next
  · refine .ite h1.postLink.terminal.next ?_
    split
    · exact h1.postLink.terminal.next
    · exact h1.onPort.next

theorem Keeps.execLinkLost {p} (h : Keeps s₀ s) : Answers s₀ (execLinkLost p s) := by
  unfold Machine.execLinkLost
  extract_lets +onlyGivenNames pen
  split
  · exact h.next
  · exact h.whenOk h.postLink.onJob.terminal

/-! ### The loader -/

theorem Keeps.placeHome {p l} (h : Keeps s₀ s) : Keeps s₀ (State.placeHome p s l) := by
  unfold State.placeHome
  extract_lets +onlyGivenNames j
  split
  · exact h.hostCore
  · exact h

theorem Keeps.placeGuest {p l} (h : Keeps s₀ s) : Keeps s₀ (State.placeGuest p s l) := by
  unfold State.placeGuest
  extract_lets +onlyGivenNames j
  split
  · exact h.ite h.hostCore
  · exact h

theorem Keeps.placeRow {p r} (h : Keeps s₀ s) : Keeps s₀ (State.placeRow p s r) :=
  ((h.foldl fun _ _ h1 => h1.placeHome).foldl fun _ _ h2 => h2.placeHome).foldl fun _ _ h3 => h3.placeGuest

theorem Keeps.placeLate {p acc l} (h : Keeps s₀ acc.1) : Keeps s₀ (State.placeLate p acc l).1 := by
  unfold State.placeLate
  extract_lets +onlyGivenNames s1 j
  have h1 : Keeps s₀ s1 := h
  refine h.itePair ?_
  split
  · exact h1.hostCore.placeGuest
  · split
    · exact h1.hostCore
    · exact Keeps.itePair (p := (s1, _)) (q := (s1, _)) h1 h1

theorem Keeps.place {p} (h : Keeps s₀ s) : Keeps s₀ (s.place p).1 := by
  unfold State.place
  extract_lets +onlyGivenNames j n natives s1 r
  have h1 : Keeps s₀ s1 := h.foldl fun _ _ h => h.placeRow
  have h2 : Keeps s₀ r.1 := h1.foldlPair (p := (s1, none)) fun _ _ h => h.placeLate
  split
  · exact h2
  · exact h2

theorem Keeps.loadRegs {pen j} (h : Keeps s₀ s) : Keeps s₀ (s.loadRegs pen j) :=
  h.setReg.setReg.setReg.setReg.setFld.setFld.frame.setFld

theorem Keeps.loadRegions {pen p x j} (h : Keeps s₀ s) : Keeps s₀ (s.loadRegions pen p x j) := by
  unfold State.loadRegions
  extract_lets +onlyGivenNames body hashes s1 s2 s3
  have h2 : Keeps s₀ s2 := h.regionWrite.writeJournalHeader
  exact (h2.ite h2.setFld).onPen

theorem Keeps.loadLinks {pen x} (h : Keeps s₀ s) : Keeps s₀ (s.loadLinks pen x) := h.nameLinks.foldl fun _ _ h1 => h1.setFld

theorem Keeps.install {pen p x j} (h : Keeps s₀ s) : Keeps s₀ (s.install pen p x j).1 :=
  (h.foldl fun _ _ h1 => h1.setCore).loadRegs.loadRegions.loadLinks.onPen.refreshGrid.refreshPower.seedRegs.importedReg

theorem Keeps.ensureMode (h : Keeps s₀ s) : Keeps s₀ s.ensureMode := h.setFld.ite h

theorem Keeps.loadPlace {pen p} (h : Keeps s₀ s) : Keeps s₀ (s.loadPlace pen p).1 := by
  unfold State.loadPlace
  extract_lets +onlyGivenNames x j r
  split
  · exact h
  · exact h.setJob.place.install

theorem Keeps.execJobLoad {ring} (h : Keeps s₀ s) : Answers s₀ (execJobLoad ring s) := by
  unfold Machine.execJobLoad
  refine h.serve ?_
  intro _ _ h1
  extract_lets +onlyGivenNames s2
  have h2 : Keeps s₀ s2 := h1.ensureMode
  split
  · exact h2
  · exact h2.loadPlace

/-! ### The vector slot -/

theorem Keeps.vecOp {i ok u f pq vd srcs op} (h : Keeps s₀ s) : Answers s₀ (vecOp i ok u f pq vd srcs op s) := h.issueIf fun _ => h.put

theorem Keeps.execVadd {u fmt rm sat pq vd va vb} (h : Keeps s₀ s) : Answers s₀ (execVadd u fmt rm sat pq vd va vb s) := h.vecOp

theorem Keeps.execVsub {u fmt rm sat pq vd va vb} (h : Keeps s₀ s) : Answers s₀ (execVsub u fmt rm sat pq vd va vb s) := h.vecOp

theorem Keeps.execVmul {u fmt rm pq vd va vb} (h : Keeps s₀ s) : Answers s₀ (execVmul u fmt rm pq vd va vb s) := h.vecOp

theorem Keeps.execVfma {u fmt rm pq vd va vb vc} (h : Keeps s₀ s) : Answers s₀ (execVfma u fmt rm pq vd va vb vc s) := h.vecOp

theorem Keeps.execVmin {u fmt pq vd va vb} (h : Keeps s₀ s) : Answers s₀ (execVmin u fmt pq vd va vb s) := h.vecOp

theorem Keeps.execVmax {u fmt pq vd va vb} (h : Keeps s₀ s) : Answers s₀ (execVmax u fmt pq vd va vb s) := h.vecOp

theorem Keeps.execVabs {u fmt pq vd va} (h : Keeps s₀ s) : Answers s₀ (execVabs u fmt pq vd va s) := h.vecOp

theorem Keeps.execVneg {u fmt pq vd va} (h : Keeps s₀ s) : Answers s₀ (execVneg u fmt pq vd va s) := h.vecOp

theorem Keeps.execVcopysign {u fmt pq vd va vb} (h : Keeps s₀ s) : Answers s₀ (execVcopysign u fmt pq vd va vb s) := h.vecOp

theorem Keeps.execVdiv {u rm pq vd va vb} (h : Keeps s₀ s) : Answers s₀ (execVdiv u rm pq vd va vb s) := h.vecOp

theorem Keeps.execVrecip {u rm pq vd va} (h : Keeps s₀ s) : Answers s₀ (execVrecip u rm pq vd va s) := h.vecOp

theorem Keeps.execVsqrt {u rm pq vd va} (h : Keeps s₀ s) : Answers s₀ (execVsqrt u rm pq vd va s) := h.vecOp

theorem Keeps.execVrsqrt {u rm pq vd va} (h : Keeps s₀ s) : Answers s₀ (execVrsqrt u rm pq vd va s) := h.vecOp

theorem Keeps.vecFn {i op u pq vd va} (h : Keeps s₀ s) : Answers s₀ (vecFn i op u pq vd va s) := h.vecOp

theorem Keeps.execVexp {u pq vd va} (h : Keeps s₀ s) : Answers s₀ (execVexp u pq vd va s) := h.vecFn

theorem Keeps.execVexp2 {u pq vd va} (h : Keeps s₀ s) : Answers s₀ (execVexp2 u pq vd va s) := h.vecFn

theorem Keeps.execVlog {u pq vd va} (h : Keeps s₀ s) : Answers s₀ (execVlog u pq vd va s) := h.vecFn

theorem Keeps.execVtanh {u pq vd va} (h : Keeps s₀ s) : Answers s₀ (execVtanh u pq vd va s) := h.vecFn

theorem Keeps.execVsigmoid {u pq vd va} (h : Keeps s₀ s) : Answers s₀ (execVsigmoid u pq vd va s) := h.vecFn

theorem Keeps.execVerf {u pq vd va} (h : Keeps s₀ s) : Answers s₀ (execVerf u pq vd va s) := h.vecFn

theorem Keeps.execVgelu {u pq vd va} (h : Keeps s₀ s) : Answers s₀ (execVgelu u pq vd va s) := h.vecFn

theorem Keeps.execVand {u fmt pq vd va vb} (h : Keeps s₀ s) : Answers s₀ (execVand u fmt pq vd va vb s) := h.vecOp

theorem Keeps.execVor {u fmt pq vd va vb} (h : Keeps s₀ s) : Answers s₀ (execVor u fmt pq vd va vb s) := h.vecOp

theorem Keeps.execVxor {u fmt pq vd va vb} (h : Keeps s₀ s) : Answers s₀ (execVxor u fmt pq vd va vb s) := h.vecOp

theorem Keeps.execVshl {u fmt pq vd va vb} (h : Keeps s₀ s) : Answers s₀ (execVshl u fmt pq vd va vb s) := h.vecOp

theorem Keeps.execVshr {u fmt pq vd va vb} (h : Keeps s₀ s) : Answers s₀ (execVshr u fmt pq vd va vb s) := h.vecOp

theorem Keeps.execVsra {u fmt pq vd va vb} (h : Keeps s₀ s) : Answers s₀ (execVsra u fmt pq vd va vb s) := h.vecOp

theorem Keeps.execVcmp {u fmt cond pq pd va vb} (h : Keeps s₀ s) : Answers s₀ (execVcmp u fmt cond pq pd va vb s) :=
  h.issueIf fun _ => h.put

theorem Keeps.predOp {i f u pq pd pa pb} (h : Keeps s₀ s) : Answers s₀ (predOp i f u pq pd pa pb s) := h.issue fun _ => h.put

theorem Keeps.execPand {u pq pd pa pb} (h : Keeps s₀ s) : Answers s₀ (execPand u pq pd pa pb s) := h.predOp

theorem Keeps.execPor {u pq pd pa pb} (h : Keeps s₀ s) : Answers s₀ (execPor u pq pd pa pb s) := h.predOp

theorem Keeps.execPxor {u pq pd pa pb} (h : Keeps s₀ s) : Answers s₀ (execPxor u pq pd pa pb s) := h.predOp

theorem Keeps.execPnot {u pq pd pa} (h : Keeps s₀ s) : Answers s₀ (execPnot u pq pd pa s) := h.issue fun _ => h.put

theorem Keeps.execPset {u pq pd sx} (h : Keeps s₀ s) : Answers s₀ (execPset u pq pd sx s) := h.issue fun _ => h.put

theorem Keeps.execVsel {u _fmt p vd va vb} (h : Keeps s₀ s) : Answers s₀ (execVsel u _fmt p vd va vb s) := h.issue fun _ => h.put

theorem Keeps.execVmov {u _fmt pq vd va} (h : Keeps s₀ s) : Answers s₀ (execVmov u _fmt pq vd va s) := h.issue fun _ => h.put

theorem Keeps.execVbcast {u fmt pq vd sx} (h : Keeps s₀ s) : Answers s₀ (execVbcast u fmt pq vd sx s) := h.issue fun _ => h.put

theorem Keeps.execVext {u fmt pq sd va sx} (h : Keeps s₀ s) : Answers s₀ (execVext u fmt pq sd va sx s) := h.issueIf fun _ => h.put

theorem Keeps.execVrot {u pq vd va sx} (h : Keeps s₀ s) : Answers s₀ (execVrot u pq vd va sx s) := h.issue fun _ => h.put

theorem Keeps.execVcvt {u dfmt sfmt rm sat part useCode six sst pq vd va} (h : Keeps s₀ s) :
    Answers s₀ (execVcvt u dfmt sfmt rm sat part useCode six sst pq vd va s) :=
  h.issueIf fun _ => h.put

theorem Keeps.execVcrest {u fmt pq sd va} (h : Keeps s₀ s) : Answers s₀ (execVcrest u fmt pq sd va s) := h.issueIf fun _ => h.put

/-! ### Vector memory -/

theorem Keeps.vmAccess {i write u off sstr sb body} (h : Keeps s₀ s) (hb : ∀ c line, Keeps s₀ (body c line)) :
    Answers s₀ (vmAccess i write u off sstr sb s body) := by
  refine h.issue fun _ => h.faultAt.ite ?_
  split
  · exact h.faultAt
  · exact hb _ _

theorem Keeps.execVld {u off sstr sb pq vd} (h : Keeps s₀ s) : Answers s₀ (execVld u off sstr sb pq vd s) := by
  unfold Machine.execVld
  refine h.vmAccess ?_
  intro _ _
  split
  · exact h.faultTag
  · exact h.put

theorem Keeps.execVst {u off sstr sb pq vd} (h : Keeps s₀ s) : Answers s₀ (execVst u off sstr sb pq vd s) :=
  h.vmAccess fun _ _ => h.put

theorem Keeps.overflowIf {pen b} (h : Keeps s₀ s) : Keeps s₀ (s.overflowIf pen b) := h.orStatus.ite h

theorem Keeps.execVred {u init pq sspec saddr vcr vb va seg form fmt} (h : Keeps s₀ s) :
    Answers s₀ (execVred u init pq sspec saddr vcr vb va seg form fmt s) := by
  unfold Machine.execVred
  refine h.issueIf ?_
  intro _
  extract_lets +onlyGivenNames strict nseg size a sp n
  refine .ite h.faultAt ?_
  split
  · exact h.faultAt
  · refine .ite h.faultAt ?_
    refine .ite h.faultAt ?_
    split
    · exact h.faultTag
    · exact h.put.overflowIf

theorem Keeps.execVlfComb {u n sb sa sd wide} (h : Keeps s₀ s) : Answers s₀ (execVlfComb u n sb sa sd wide s) := by
  unfold Machine.execVlfComb
  refine h.issue ?_
  intro _
  extract_lets +onlyGivenNames len a b d
  refine .ite h.faultAt ?_
  refine .ite h.put ?_
  split
  · exact h.faultAt
  · split
    · exact h.faultTag
    · exact h.put.overflowIf

theorem Keeps.execVlfDrain {u fmt sat wide sa vd} (h : Keeps s₀ s) : Answers s₀ (execVlfDrain u fmt sat wide sa vd s) := by
  unfold Machine.execVlfDrain
  refine h.issue ?_
  intro _
  extract_lets +onlyGivenNames z n a
  refine .ite h.faultAt ?_
  split
  · exact h.faultAt
  · split
    · exact h.faultTag
    · exact h.put

/-! ### The matrix engine -/

theorem Keeps.mxFault {pen logical bundle cause tag} (h : Keeps s₀ s) : Keeps s₀ (s.mxFault pen logical bundle cause tag) :=
  h.progFault

theorem Keeps.setMx {pen logical c m} (h : Keeps s₀ s) : Keeps s₀ (s.setMx pen logical c m) := h.setCore

theorem Keeps.moreClk {n} (h : Keeps s₀ s) : Keeps s₀ (s.moreClk n).2 := h.draw

theorem Keeps.mxBank {pen logical} (h : Keeps s₀ s) : Keeps s₀ (s.mxBank pen logical) := h.moreClk.setMx

theorem Keeps.mxWait {pen logical} (h : Keeps s₀ s) : Keeps s₀ (s.mxWait pen logical) := h.ite h.moreClk.setMx

theorem Keeps.startTile {pen logical c bundle rest first swap x3 fa fb a b n} (h : Keeps s₀ s) :
    Keeps s₀ (s.startTile pen logical c bundle rest first swap x3 fa fb a b n) := by
  unfold State.startTile
  dsimp only
  generalize (if first = true then c.mx.pendingLatch else c.mx.activeLatch) = latch
  cases latch with
  | none => exact h.mxFault
  | some l =>
    refine h.mxFault.ite ?_
    split
    · exact h.mxFault
    · exact h.mxFault.ite (h.setMx.ite h.setMx.mxBank)

theorem Keeps.startLoad {pen logical c bundle rest wide src} (h : Keeps s₀ s) :
    Keeps s₀ (s.startLoad pen logical c bundle rest wide src) := by
  unfold State.startLoad
  split
  · exact h.mxFault
  · exact h.setMx.mxBank

theorem Keeps.startChain {pen logical c bundle rest fa fb fc first q k v kc nt n1 fn rows rowsBad mask rsum} (h : Keeps s₀ s) :
    Keeps s₀ (s.startChain pen logical c bundle rest fa fb fc first q k v kc nt n1 fn rows rowsBad mask rsum) := by
  unfold State.startChain
  split
  · refine .ite h.mxFault ?_
    split
    · exact h.mxFault
    · exact h.mxFault.ite h.overflowIf.setMx.mxBank
  · exact h.mxFault

theorem Keeps.mxArray {pen logical t} (h : Keeps s₀ s) (e : s.mxArray pen logical = some t) : Keeps s₀ t := by
  unfold State.mxArray at e
  refine .of_ite e (by simp) fun e => ?_
  split at e
  · cases e
  · split at e
    case h_1 => exact .of_ite e h.setMx.of_some fun e => .of_ite e (by simp) fun e => .of_ite e (by simp) h.startTile.of_some
    case h_2 => exact .of_ite e h.setMx.of_some (by simp)
    case h_3 => exact .of_ite e h.startLoad.of_some (by simp)
    case h_4 => exact .of_ite e (by simp) h.startChain.of_some
    case h_5 => cases e
    case h_6 => cases e

theorem Keeps.mxDrain {pen logical t} (h : Keeps s₀ s) (e : s.mxDrain pen logical = some t) : Keeps s₀ t := by
  unfold State.mxDrain at e
  refine .of_ite e (by simp) fun e => ?_
  split at e
  · cases e
  · split at e
    · exact .of_ite e (by simp) h.mxFault.of_some
    · refine .of_ite e h.mxFault.of_some fun e => ?_
      split at e
      case h_1 => exact .of_ite e h.mxFault.of_some fun e => .of_ite e h.setMx.overflowIf.of_some h.setMx.overflowIf.of_some
      case h_2 => exact h.setMx.overflowIf.of_some e
      case h_3 => cases e

theorem Keeps.mxRunAux {pen logical n} (h : Keeps s₀ s) : Keeps s₀ (State.mxRunAux pen logical n s) := by
  induction n generalizing s with
  | zero => exact h
  | succ n ih =>
    unfold State.mxRunAux
    split
    next e => exact ih (h.mxDrain e)
    · split
      next e => exact ih (h.mxArray e)
      · exact h

theorem Keeps.mxRun {pen logical} (h : Keeps s₀ s) : Keeps s₀ (s.mxRun pen logical) := h.mxRunAux.mxWait

/-! ### The matrix slot -/

theorem Keeps.execManc {u spec vr fb fa} (h : Keeps s₀ s) : Answers s₀ (execManc u spec vr fb fa s) :=
  h.issueIf fun _ => h.faultAt.ite h.put.mxRun

theorem Keeps.execMancChain {u spec vr fb} (h : Keeps s₀ s) : Answers s₀ (execMancChain u spec vr fb s) :=
  h.issueIf fun _ => h.faultAt.ite h.put.mxRun

theorem Keeps.mxEnqueue {i ok u bad} (h : Keeps s₀ s) : Answers s₀ (mxEnqueue i ok u s bad) :=
  h.issueIf fun _ => h.faultAt.ite h.put.mxRun

theorem Keeps.mxTile {i ok u sb sa} (h : Keeps s₀ s) : Answers s₀ (mxTile i ok u sb sa s) := h.mxEnqueue

theorem Keeps.execMtile {u n sb sa fb fa} (h : Keeps s₀ s) : Answers s₀ (execMtile u n sb sa fb fa s) := h.mxTile

theorem Keeps.execMtileFirst {u n sb sa fb fa} (h : Keeps s₀ s) : Answers s₀ (execMtileFirst u n sb sa fb fa s) := h.mxTile

theorem Keeps.execMtileFirstSwap {u n sb sa fb fa} (h : Keeps s₀ s) : Answers s₀ (execMtileFirstSwap u n sb sa fb fa s) := h.mxTile

theorem Keeps.execMtileX3 {u n sb sa} (h : Keeps s₀ s) : Answers s₀ (execMtileX3 u n sb sa s) := h.mxTile

theorem Keeps.execMtileX3First {u n sb sa} (h : Keeps s₀ s) : Answers s₀ (execMtileX3First u n sb sa s) := h.mxTile

theorem Keeps.execMtileX3FirstSwap {u n sb sa} (h : Keeps s₀ s) : Answers s₀ (execMtileX3FirstSwap u n sb sa s) := h.mxTile

theorem Keeps.execMswap {u} (h : Keeps s₀ s) : Answers s₀ (execMswap u s) := h.mxEnqueue

theorem Keeps.execMloadLf {u ssrc} (h : Keeps s₀ s) : Answers s₀ (execMloadLf u ssrc s) := h.mxEnqueue

theorem Keeps.execMloadWlf {u ssrc} (h : Keeps s₀ s) : Answers s₀ (execMloadWlf u ssrc s) := h.mxEnqueue

theorem Keeps.execMdrain {u srsum srmax smask causal vrow fn sdst sat fmt} (h : Keeps s₀ s) :
    Answers s₀ (execMdrain u srsum srmax smask causal vrow fn sdst sat fmt s) :=
  h.mxEnqueue

theorem Keeps.execMdrainLf {u sdst} (h : Keeps s₀ s) : Answers s₀ (execMdrainLf u sdst s) := h.mxEnqueue

theorem Keeps.execMdrainWlf {u sdst} (h : Keeps s₀ s) : Answers s₀ (execMdrainWlf u sdst s) := h.mxEnqueue

theorem Keeps.execMchain {u rsumEn causal vrow fn n1m1 nt sb first fc fb fa} (h : Keeps s₀ s) :
    Answers s₀ (execMchain u rsumEn causal vrow fn n1m1 nt sb first fc fb fa s) :=
  h.mxEnqueue

theorem Keeps.execStrictRerun {u} (h : Keeps s₀ s) : Answers s₀ (execStrictRerun u s) := by
  unfold Machine.execStrictRerun
  extract_lets +onlyGivenNames c
  split
  · exact h.whenOk h.put
  · exact h.next

theorem Keeps.execTilePass {u} (h : Keeps s₀ s) : Answers s₀ (execTilePass u s) := by
  unfold Machine.execTilePass
  extract_lets +onlyGivenNames c
  split
  · exact h.whenOk h.put.mxRun
  · exact h.next

theorem Keeps.execDrainComplete {u} (h : Keeps s₀ s) : Answers s₀ (execDrainComplete u s) := h.whenOk h.put.mxRun

theorem Keeps.execChainEnd {u} (h : Keeps s₀ s) : Answers s₀ (execChainEnd u s) := by
  unfold Machine.execChainEnd
  extract_lets +onlyGivenNames c
  split
  · exact h.whenOk h.put.overflowIf.mxRun
  · exact h.next

/-! ### The responder -/

theorem Keeps.onConn {ep f} (h : Keeps s₀ s) : Keeps s₀ (s.onConn ep f) := h.frame

theorem Keeps.respond {ep code bs} (h : Keeps s₀ s) : Keeps s₀ (s.respond ep code bs) := by
  unfold State.respond
  extract_lets +onlyGivenNames s1
  have h1 : Keeps s₀ s1 := h.onConn
  split
  · exact h1
  · exact h1.frame.refreshPins

theorem Keeps.spdmError {ep e} (h : Keeps s₀ s) : Keeps s₀ (s.spdmError ep e) := h.respond

theorem Keeps.spdm_ {ep stage f} (h : Keeps s₀ s) (hf : ∀ s, Keeps s₀ s → Keeps s₀ (f s)) : Answers s₀ (s.spdm_ ep stage f) :=
  h.next.ite (h.spdmError.next.ite (hf _ h).next)

theorem Keeps.closeSession {ep} (h : Keeps s₀ s) : Keeps s₀ (s.closeSession ep) := by
  unfold State.closeSession
  extract_lets +onlyGivenNames s1 p
  have h1 : Keeps s₀ s1 := h.onConn
  exact h1.onPen.setFld.ite h1

theorem Keeps.openHost {p secret} (h : Keeps s₀ s) : Keeps s₀ (s.openHost p secret) := h.onPen.setFld.ite h

theorem Keeps.execGetVersion {ep} (h : Keeps s₀ s) : Answers s₀ (execGetVersion ep s) :=
  h.spdm_ fun _ h1 => h1.closeSession.onConn.respond

theorem Keeps.execGetCapabilities {ep minor} (h : Keeps s₀ s) : Answers s₀ (execGetCapabilities ep minor s) :=
  h.spdm_ fun _ h1 => h1.onConn.respond.ite h1.spdmError

theorem Keeps.execNegotiateAlgorithms {ep offered} (h : Keeps s₀ s) : Answers s₀ (execNegotiateAlgorithms ep offered s) :=
  h.spdm_ fun _ h1 => h1.onConn.respond.ite h1.spdmError

theorem Keeps.execGetDigests {ep} (h : Keeps s₀ s) : Answers s₀ (execGetDigests ep s) := h.spdm_ fun _ h1 => h1.respond

theorem Keeps.execGetCertificate {ep slot off len} (h : Keeps s₀ s) : Answers s₀ (execGetCertificate ep slot off len s) :=
  h.spdm_ fun _ h1 => h1.spdmError.ite h1.respond

theorem Keeps.spdmNonce (h : Keeps s₀ s) : Keeps s₀ s.spdmNonce.2 := h.generate.drawWide

theorem Keeps.execChallenge {ep slot nonce} (h : Keeps s₀ s) : Answers s₀ (execChallenge ep slot nonce s) :=
  h.spdm_ fun _ h1 => h1.spdmError.ite (h1.spdmError.ite h1.spdmNonce.respond)

theorem Keeps.execGetMeasurements {ep index} (h : Keeps s₀ s) : Answers s₀ (execGetMeasurements ep index s) := by
  refine h.spdm_ fun _ h1 => ?_
  dsimp only
  split
  · exact h1.spdmError
  · exact h1.spdmError.ite h1.spdmNonce.respond

theorem Keeps.execKeyExchange {ep slot exData mutualAuth} (h : Keeps s₀ s) :
    Answers s₀ (execKeyExchange ep slot exData mutualAuth s) := by
  unfold Machine.execKeyExchange
  refine h.spdm_ ?_
  intro _ h1
  refine .ite h1.spdmError ?_
  split
  · exact h1.spdmError
  · exact h1.spdmError.ite (h1.spdmError.ite h1.generate.drawWide.onConn.openHost.respond)

theorem Keeps.execFinish {ep verifyData} (h : Keeps s₀ s) : Answers s₀ (execFinish ep verifyData s) :=
  h.spdm_ fun _ h1 => h1.spdmError.ite (h1.onConn.respond.ite h1.closeSession.spdmError)

theorem Keeps.inSession {ep f} (h : Keeps s₀ s) (hf : ∀ s, Keeps s₀ s → Keeps s₀ (f s)) : Answers s₀ (s.inSession ep f) :=
  h.spdm_ fun _ h1 => h1.spdmError.ite (hf _ h1)

theorem Keeps.execKeyUpdate {ep allKeys} (h : Keeps s₀ s) : Answers s₀ (execKeyUpdate ep allKeys s) :=
  h.inSession fun _ h1 => h1.onConn.respond

theorem Keeps.execHeartbeat {ep} (h : Keeps s₀ s) : Answers s₀ (execHeartbeat ep s) := h.inSession fun _ h1 => h1.respond

theorem Keeps.execEndSession {ep} (h : Keeps s₀ s) : Answers s₀ (execEndSession ep s) :=
  h.inSession fun _ h1 => h1.closeSession.respond

/-! ### Start-up, resets and power -/

theorem Keeps.keepCut (h : Keeps s₀ s) : Keeps s₀ s.keepCut := by
  unfold State.keepCut
  refine .ite h ?_
  extract_lets +onlyGivenNames r s2
  have h1 : Keeps s₀ r.2 := h.draw
  exact (h1.keepDone.ite h1).frame

theorem Keeps.nonVolatile (h : Keeps s₀ s) : Keeps s₀ s.nonVolatile := h.of_wf fun w => by
  rw [Memory.wf_iff] at w
  exact (Memory.wf_iff _).mpr ⟨rfl, rfl, w.2.2.1, rfl, rfl⟩

theorem Keeps.goOff (h : Keeps s₀ s) : Keeps s₀ s.goOff := h.keepCut.nonVolatile.refreshPins

theorem Keeps.keepRegs (h : Keeps s₀ s) : Keeps s₀ s.keepRegs := h.setReg.setReg.setReg.foldl fun _ _ h2 => h2.setReg

theorem Keeps.authRegs {strap} (h : Keeps s₀ s) : Keeps s₀ (s.authRegs strap) := h.frame.setReg

theorem Keeps.tamperRegs (h : Keeps s₀ s) : Keeps s₀ s.tamperRegs := (h.foldl fun _ _ h1 => h1.setReg).setReg

theorem Keeps.packRegs (h : Keeps s₀ s) : Keeps s₀ s.packRegs := h.setReg

theorem Keeps.execPowerGood {slotId authSel} (h : Keeps s₀ s) : Answers s₀ (execPowerGood slotId authSel s) :=
  h.next.ite (h.nonVolatile.frame.keepWrite.keepAll.keepRegs.authRegs.tamperRegs.packRegs.setReg.setReg.foldl fun _ _ h6 => h6.ite
    h6.setReg.setReg).refreshPins.next

theorem Keeps.execInputLoss (h : Keeps s₀ s) : Answers s₀ (execInputLoss s) := h.whenOk h.goOff

theorem Keeps.execOvervoltage {mv ms} (h : Keeps s₀ s) : Answers s₀ (execOvervoltage mv ms s) := h.whenOk h.goOff

theorem Keeps.execAlwaysOnDomainUp (h : Keeps s₀ s) : Answers s₀ (execAlwaysOnDomainUp s) := h.whenOk h.frame.refreshPins

theorem Keeps.quietLinks (h : Keeps s₀ s) : Keeps s₀ s.quietLinks :=
  h.frame.foldl fun _ _ h2 => h2.setPortState.setWidth.setWidth.setFld.ite h2

theorem Keeps.bootFails {stage code} (h : Keeps s₀ s) : Keeps s₀ (s.bootFails stage code) :=
  h.setFld.setFld.setFld.quietLinks.refreshPins

theorem Keeps.startFails {stage code} (h : Keeps s₀ s) : Keeps s₀ (s.startFails stage code) :=
  h.post.setFld.quietLinks.frame.setFld.refreshPins.ite h.bootFails

theorem Keeps.managementDone (h : Keeps s₀ s) : Keeps s₀ s.managementDone := by
  unfold State.managementDone
  extract_lets +onlyGivenNames s1
  have h1 : Keeps s₀ s1 := h.bootFw
  exact h1.bootFails.ite (h1.ite h1.drawNat.setFld).setFld

theorem Keeps.applyRemap {w} (h : Keeps s₀ s) : Keeps s₀ (s.applyRemap w) := h.onBay.ite h

theorem Keeps.memoryDone {failed} (h : Keeps s₀ s) : Keeps s₀ (s.memoryDone failed) := by
  unfold State.memoryDone
  refine .ite h.setFld ?_
  extract_lets +onlyGivenNames s1 present bad s2 s3
  have h3 : Keeps s₀ s3 := ((h.foldl fun _ _ h1 => h1.applyRemap).foldl fun _ _ h2 => h2.rowRegs.setFld).setFld
  exact h3.startFails.ite h3.setFld

theorem Keeps.siteTested {failed n} (h : Keeps s₀ s) : Keeps s₀ (State.siteTested failed s n) := by
  unfold State.siteTested
  split
  · exact h.setSite
  · refine .ite h.retireSite.setFld ?_
    extract_lets +onlyGivenNames s1
    have h1 : Keeps s₀ s1 := h.setFld
    exact h1.ite h1.setSite

theorem Keeps.countsFromReady (h : Keeps s₀ s) : Keeps s₀ s.countsFromReady :=
  (((h.foldl fun _ _ h1 => h1.setReg.setReg.setFld).foldl fun _ _ h2 => h2.setFld.setFld).foldl fun _ _ h3 =>
    h3.setFld).setFld.setFld.setFld.frame

theorem Keeps.computeDone {ms failed} (h : Keeps s₀ s) : Keeps s₀ (s.computeDone ms failed) :=
  h.startFails.ite ((h.foldl fun _ _ h1 => h1.siteTested).setFld.setFld.trialGood.countsFromReady.frame.foldl fun _ _ h4 =>
    h4.refreshGrid.ite h4).refreshCut.refreshPower.refreshPins

theorem Keeps.execStartupStageDone {res} (h : Keeps s₀ s) : Answers s₀ (execStartupStageDone res s) :=
  h.next.ite ((h.next.ite h.managementDone.refreshPins.next).ite ((h.setFld.next.ite h.startFails.next).ite (h.memoryDone.next.ite
    ((h.whenOk h.setFld).ite (h.computeDone.next.ite h.next)))))

theorem Keeps.execStageTimeout (h : Keeps s₀ s) : Answers s₀ (execStageTimeout s) := h.whenOk h.startFails

theorem Keeps.abortJobs (h : Keeps s₀ s) : Keeps s₀ s.abortJobs := by
  unfold State.abortJobs
  refine h.foldl ?_
  intro _ _ h1
  split
  · exact h1
  · exact h1.ite h1.jobEnd

theorem Keeps.beginCompute (h : Keeps s₀ s) : Keeps s₀ s.beginCompute := h.frame.abortJobs.setFld.bump.setFld.refreshPower.refreshPins

theorem Keeps.execComputeReset {fn} (h : Keeps s₀ s) : Answers s₀ (execComputeReset fn s) := h.whenOk h.beginCompute

theorem Keeps.execComputeResetDone {res} (h : Keeps s₀ s) : Answers s₀ (execComputeResetDone res s) :=
  h.next.ite (((h.frame.foldl fun _ _ h2 => h2.onBay).setFld.setFld.foldl fun _ _ h4 => h4.siteTested).foldl fun _ _ h5 =>
    h5.refreshGrid.ite h5).postAll.refreshPower.refreshPins.next

theorem Keeps.resetHif (h : Keeps s₀ s) : Keeps s₀ s.resetHif := by
  have cleared : Keeps s₀ { s with regs := SMap.keep (fun k => !hifKey k) s.regs, rings := [], order := none } := h.of_wf fun w => by
    rw [Memory.wf_iff] at w
    obtain ⟨hbm, poison, host, bad, regs⟩ := w
    exact (Memory.wf_iff _).mpr ⟨hbm, poison, host, bad, SMap.wf_keep _ (fun k => !hifKey k) _ regs⟩
  exact cleared.foldl fun _ _ h1 => h1.setFld.ite h1

theorem Keeps.hostReset (h : Keeps s₀ s) : Keeps s₀ s.hostReset :=
  h.resetHif.beginCompute.ite (h.resetHif.bump.refreshPins.ite h.refreshPins)

theorem Keeps.execHotReset (h : Keeps s₀ s) : Answers s₀ (execHotReset s) := h.whenOk h.hostReset

theorem Keeps.execPerstAssert (h : Keeps s₀ s) : Answers s₀ (execPerstAssert s) := by
  unfold Machine.execPerstAssert
  refine .ite h.next ?_
  extract_lets +onlyGivenNames up s1 s2
  have h1 : Keeps s₀ s1 := h.frame
  have h2 : Keeps s₀ s2 := h1.ite h1.bump
  exact (h2.hostReset.ite h2.refreshPins).next

theorem Keeps.wake (h : Keeps s₀ s) : Keeps s₀ s.wake := h.quietLinks.frame.setFld.setFld.setFld.refreshPins

theorem Keeps.execPerstDeassert (h : Keeps s₀ s) : Answers s₀ (execPerstDeassert s) := by
  unfold Machine.execPerstDeassert
  refine .ite h.next ?_
  extract_lets +onlyGivenNames s1
  have h1 : Keeps s₀ s1 := h.frame
  exact (h1.wake.ite h1.refreshPins).next

theorem Keeps.execSmbusWake (h : Keeps s₀ s) : Answers s₀ (execSmbusWake s) := h.whenOk h.wake

theorem Keeps.execKeepRequest {fn} (h : Keeps s₀ s) : Answers s₀ (execKeepRequest fn s) :=
  h.whenOk h.quietLinks.resetHif.frame.setFld.refreshPins

theorem Keeps.execKeepWriteDone (h : Keeps s₀ s) : Answers s₀ (execKeepWriteDone s) := h.whenOk h.keepDone

theorem Keeps.thermal {west east} (h : Keeps s₀ s) : Keeps s₀ (s.thermal west east) := by
  unfold State.thermal
  extract_lets +onlyGivenNames hot s1 s2
  have h1 : Keeps s₀ s1 := h.setFld.setFld
  have h2 : Keeps s₀ s2 := h1.setFld.ite (h1.setFld.ite h1)
  exact (h2.emergency.frame.ite h2).refreshPins

theorem Keeps.execThermalSample {west east} (h : Keeps s₀ s) : Answers s₀ (execThermalSample west east s) := by
  unfold Machine.execThermalSample
  refine .ite h.next ?_
  extract_lets +onlyGivenNames s1
  have h1 : Keeps s₀ s1 := h.ite h.thermal
  exact h1.execTamperAlarm.ite h1.next

theorem Keeps.execThermalEmergencyEnd (h : Keeps s₀ s) : Answers s₀ (execThermalEmergencyEnd s) :=
  h.whenOk (h.frame.ite h.emergencyEnd)

theorem Keeps.execPllLockLoss {east} (h : Keeps s₀ s) : Answers s₀ (execPllLockLoss east s) :=
  h.next.ite (h.frame.post.foldl fun _ _ h2 => h2.post).abortJobs.setFld.refreshPower.refreshPins.next

theorem Keeps.execPowerAverage {mv tenMa watts} (h : Keeps s₀ s) : Answers s₀ (execPowerAverage mv tenMa watts s) := by
  unfold Machine.execPowerAverage
  refine .ite h.next ?_
  extract_lets +onlyGivenNames s1
  have h1 : Keeps s₀ s1 := h.setFld.setFld.setFld
  exact h1.setFld.post.refreshPins.next.ite h1.next

theorem Keeps.execAlertResponseAddressRead (h : Keeps s₀ s) : Answers s₀ (execAlertResponseAddressRead s) :=
  h.whenOk h.frame.refreshPins

/-! ### Register accesses -/

theorem Keeps.undefAccess {off} (h : Keeps s₀ s) : Keeps s₀ (s.undefAccess off) := h.bump.setFld.setFld

theorem Keeps.execUndefinedOffsetAccess {_fn off len} (h : Keeps s₀ s) : Answers s₀ (execUndefinedOffsetAccess _fn off len s) :=
  h.whenOk h.undefAccess.frame

theorem Keeps.execFntabRead {acc} (h : Keeps s₀ s) : Answers s₀ (execFntabRead acc s) := by
  unfold Machine.execFntabRead
  refine .ite h.frame.next ?_
  extract_lets +onlyGivenNames ix s1
  have h1 : Keeps s₀ s1 := h.frame
  exact (h1.setFld.ite h1).next

theorem Keeps.ackJournal {p v} (h : Keeps s₀ s) : Keeps s₀ (s.ackJournal p v) := h.setFld

theorem Keeps.execJournalAck {fn pen value} (h : Keeps s₀ s) : Answers s₀ (execJournalAck fn pen value s) := h.whenOk h.ackJournal

theorem Keeps.rwkBy {n ix v} (h : Keeps s₀ s) : Keeps s₀ (s.rwkBy n ix v) := h.arbLost.ite h.writeRwk

theorem Keeps.execRwkWrite {fn off len value} (h : Keeps s₀ s) : Answers s₀ (execRwkWrite fn off len value s) := by
  unfold Machine.execRwkWrite
  split
  · exact h.whenOk h.rwkBy
  · exact h.undefAccess.next

theorem Keeps.xglGo (h : Keeps s₀ s) : Keeps s₀ s.xglGo := by
  unfold State.xglGo
  extract_lets +onlyGivenNames p
  split
  · exact h.after h.execTrain
  · exact h.after h.execIdle
  · exact h.after h.execClearCounts
  · exact h

theorem Keeps.writeRingCtl {r lo bits v} (h : Keeps s₀ s) : Keeps s₀ (s.writeRingCtl r lo bits v) := by
  unfold State.writeRingCtl
  extract_lets +onlyGivenNames old new
  refine .ite h.setReg ?_
  extract_lets +onlyGivenNames s1
  have h1 : Keeps s₀ s1 := h.setReg
  exact h1.enableRing.ite h1

theorem Keeps.plainWrite {fn n ix lo bits v} (h : Keeps s₀ s) : Keeps s₀ (s.plainWrite fn n ix lo bits v) := h.setReg.refreshPins

theorem Keeps.writeEntry {fn n ix lo bits v} (h : Keeps s₀ s) : Keeps s₀ (s.writeEntry fn n ix lo bits v) := by
  unfold State.writeEntry
  extract_lets +onlyGivenNames one old part
  split
  · exact h.after h.execWinDataAccess
  · exact h.after h.execWinDataAccess
  · exact (h.after h.execWindowCommit).ite h
  · extract_lets +onlyGivenNames s1
    have h1 : Keeps s₀ s1 := h.plainWrite
    exact h1.xglGo.ite h1
  · extract_lets +onlyGivenNames s1
    have h1 : Keeps s₀ s1 := (h.after h.execInjArm).ite h
    exact (h1.after h1.execInjCancel).ite h1
  · exact (h.after h.execPenReset).ite h
  · extract_lets +onlyGivenNames s1
    have h1 : Keeps s₀ s1 := h.plainWrite
    exact (h1.after h1.execAuthMailboxGo).ite h1
  · exact h.writeRingCtl
  · exact h.ite h.plainWrite
  · exact h.ite h.plainWrite
  · exact (h.after h.execComputeReset).ite h
  · exact (h.after h.execKeepRequest).ite h
  · exact h.ackJournal.ite h
  · exact h.rwkBy.ite h.plainWrite

theorem Keeps.execRegisterWrite {fn off len value} (h : Keeps s₀ s) : Answers s₀ (execRegisterWrite fn off len value s) := by
  unfold Machine.execRegisterWrite
  split
  · exact h.undefAccess.next
  · exact h.whenOk h.writeEntry

/-! ### Scalar instructions -/

theorem Keeps.scalarWrite {i u rd f} (h : Keeps s₀ s) : Answers s₀ (scalarWrite i u rd f s) := h.issueIf fun _ => h.put

theorem Keeps.scalarOp {i f u rd ra rb} (h : Keeps s₀ s) : Answers s₀ (scalarOp i f u rd ra rb s) := h.scalarWrite

theorem Keeps.execNop {u} (h : Keeps s₀ s) : Answers s₀ (execNop u s) := h.issue fun _ => h.put

theorem Keeps.execLi {u rd imm} (h : Keeps s₀ s) : Answers s₀ (execLi u rd imm s) := h.scalarWrite

theorem Keeps.execLih {u rd ra imm} (h : Keeps s₀ s) : Answers s₀ (execLih u rd ra imm s) := h.scalarWrite

theorem Keeps.execAddi {u rd ra imm} (h : Keeps s₀ s) : Answers s₀ (execAddi u rd ra imm s) := h.scalarWrite

theorem Keeps.execAdd {u rd ra rb} (h : Keeps s₀ s) : Answers s₀ (execAdd u rd ra rb s) := h.scalarOp

theorem Keeps.execSub {u rd ra rb} (h : Keeps s₀ s) : Answers s₀ (execSub u rd ra rb s) := h.scalarOp

theorem Keeps.execMul {u rd ra rb} (h : Keeps s₀ s) : Answers s₀ (execMul u rd ra rb s) := h.scalarOp

theorem Keeps.execMulhu {u rd ra rb} (h : Keeps s₀ s) : Answers s₀ (execMulhu u rd ra rb s) := h.scalarOp

theorem Keeps.execAnd {u rd ra rb} (h : Keeps s₀ s) : Answers s₀ (execAnd u rd ra rb s) := h.scalarOp

theorem Keeps.execOr {u rd ra rb} (h : Keeps s₀ s) : Answers s₀ (execOr u rd ra rb s) := h.scalarOp

theorem Keeps.execXor {u rd ra rb} (h : Keeps s₀ s) : Answers s₀ (execXor u rd ra rb s) := h.scalarOp

theorem Keeps.execShl {u rd ra rb} (h : Keeps s₀ s) : Answers s₀ (execShl u rd ra rb s) := h.scalarOp

theorem Keeps.execShr {u rd ra rb} (h : Keeps s₀ s) : Answers s₀ (execShr u rd ra rb s) := h.scalarOp

theorem Keeps.execSra {u rd ra rb} (h : Keeps s₀ s) : Answers s₀ (execSra u rd ra rb s) := h.scalarOp

theorem Keeps.execMin {u rd ra rb} (h : Keeps s₀ s) : Answers s₀ (execMin u rd ra rb s) := h.scalarOp

theorem Keeps.execMax {u rd ra rb} (h : Keeps s₀ s) : Answers s₀ (execMax u rd ra rb s) := h.scalarOp

theorem Keeps.execMinu {u rd ra rb} (h : Keeps s₀ s) : Answers s₀ (execMinu u rd ra rb s) := h.scalarOp

theorem Keeps.execMaxu {u rd ra rb} (h : Keeps s₀ s) : Answers s₀ (execMaxu u rd ra rb s) := h.scalarOp

theorem Keeps.execSlt {u rd ra rb} (h : Keeps s₀ s) : Answers s₀ (execSlt u rd ra rb s) := h.scalarOp

theorem Keeps.execSltu {u rd ra rb} (h : Keeps s₀ s) : Answers s₀ (execSltu u rd ra rb s) := h.scalarOp

theorem Keeps.execSel {u rd ra rb rc} (h : Keeps s₀ s) : Answers s₀ (execSel u rd ra rb rc s) := h.scalarWrite

theorem Keeps.scalarLoad {i n u rd ra imm} (h : Keeps s₀ s) : Answers s₀ (scalarLoad i n u rd ra imm s) := by
  unfold Machine.scalarLoad
  refine h.issueIf ?_
  intro _
  extract_lets +onlyGivenNames a
  refine .ite h.faultAt ?_
  split
  · exact h.faultAt
  · split
    · exact h.faultTag
    · exact h.put

theorem Keeps.scalarStore {i n u rd ra imm} (h : Keeps s₀ s) : Answers s₀ (scalarStore i n u rd ra imm s) := by
  unfold Machine.scalarStore
  refine h.issue ?_
  intro _
  extract_lets +onlyGivenNames a
  refine .ite h.faultAt ?_
  split
  · exact h.faultAt
  · exact h.put

theorem Keeps.execSld {u rd ra imm} (h : Keeps s₀ s) : Answers s₀ (execSld u rd ra imm s) := h.scalarLoad

theorem Keeps.execSldW {u rd ra imm} (h : Keeps s₀ s) : Answers s₀ (execSldW u rd ra imm s) := h.scalarLoad

theorem Keeps.execSst {u rd ra imm} (h : Keeps s₀ s) : Answers s₀ (execSst u rd ra imm s) := h.scalarStore

theorem Keeps.execSstW {u rd ra imm} (h : Keeps s₀ s) : Answers s₀ (execSstW u rd ra imm s) := h.scalarStore

/-! ### Every command -/

/-- An access of device memory to a line that its stack does not have (R301). -/
def MissingLine (i : Instr) : Prop :=
  (∃ b line ecc, i = .memRead b line ecc ∧ stackLines ≤ line) ∨
  (∃ b line off data p ecc, i = .memWrite b line off data p ecc ∧ stackLines ≤ line)

/-- A command answers a next state that keeps the queue and the canonical form; only an access to a missing line faults. -/
theorem exec_answers (i : Instr) (s : State) : Answers s (exec i s) ∨ (exec i s = .fault .noSuchLine ∧ MissingLine i) := by
  have h := Keeps.refl s
  cases i with
  | memRead b line ecc =>
    by_cases hl : line < stackLines
    · exact .inl (h.execMemRead hl)
    · exact .inr ⟨if_pos (Nat.not_lt.mp hl), .inl ⟨b, line, ecc, rfl, Nat.not_lt.mp hl⟩⟩
  | memWrite b line off data poison ecc =>
    by_cases hl : line < stackLines
    · exact .inl (h.execMemWrite hl)
    · exact .inr ⟨if_pos (Nat.not_lt.mp hl), .inr ⟨b, line, off, data, poison, ecc, rfl, Nat.not_lt.mp hl⟩⟩
  | nop => exact .inl h.execNop
  | endProg => exact .inl h.execEnd
  | coreEnded => exact .inl h.execCoreEnded
  | li => exact .inl h.execLi
  | lih => exact .inl h.execLih
  | addi => exact .inl h.execAddi
  | add => exact .inl h.execAdd
  | sub => exact .inl h.execSub
  | mul => exact .inl h.execMul
  | mulhu => exact .inl h.execMulhu
  | andS => exact .inl h.execAnd
  | orS => exact .inl h.execOr
  | xorS => exact .inl h.execXor
  | shl => exact .inl h.execShl
  | shr => exact .inl h.execShr
  | sra => exact .inl h.execSra
  | minS => exact .inl h.execMin
  | maxS => exact .inl h.execMax
  | minu => exact .inl h.execMinu
  | maxu => exact .inl h.execMaxu
  | slt => exact .inl h.execSlt
  | sltu => exact .inl h.execSltu
  | sel => exact .inl h.execSel
  | sld => exact .inl h.execSld
  | sldW => exact .inl h.execSldW
  | sst => exact .inl h.execSst
  | sstW => exact .inl h.execSstW
  | br => exact .inl h.execBr
  | bc => exact .inl h.execBc
  | lbeg => exact .inl h.execLbeg
  | sigAdd => exact .inl h.execSigAdd
  | waitGe => exact .inl h.execWaitGe
  | waitEq => exact .inl h.execWaitEq
  | waitRelease => exact .inl h.execWaitRelease
  | syncFence => exact .inl h.execSyncFence
  | fenceRelease => exact .inl h.execFenceRelease
  | csrr => exact .inl h.execCsrr
  | csrw => exact .inl h.execCsrw
  | csrc => exact .inl h.execCsrc
  | vadd => exact .inl h.execVadd
  | vsub => exact .inl h.execVsub
  | vmul => exact .inl h.execVmul
  | vfma => exact .inl h.execVfma
  | vmin => exact .inl h.execVmin
  | vmax => exact .inl h.execVmax
  | vabs => exact .inl h.execVabs
  | vneg => exact .inl h.execVneg
  | vcopysign => exact .inl h.execVcopysign
  | vdiv => exact .inl h.execVdiv
  | vrecip => exact .inl h.execVrecip
  | vsqrt => exact .inl h.execVsqrt
  | vrsqrt => exact .inl h.execVrsqrt
  | vexp => exact .inl h.execVexp
  | vexp2 => exact .inl h.execVexp2
  | vlog => exact .inl h.execVlog
  | vtanh => exact .inl h.execVtanh
  | vsigmoid => exact .inl h.execVsigmoid
  | verf => exact .inl h.execVerf
  | vgelu => exact .inl h.execVgelu
  | vand => exact .inl h.execVand
  | vor => exact .inl h.execVor
  | vxor => exact .inl h.execVxor
  | vshl => exact .inl h.execVshl
  | vshr => exact .inl h.execVshr
  | vsra => exact .inl h.execVsra
  | vcmp => exact .inl h.execVcmp
  | vsel => exact .inl h.execVsel
  | vmov => exact .inl h.execVmov
  | vbcast => exact .inl h.execVbcast
  | vext => exact .inl h.execVext
  | vrot => exact .inl h.execVrot
  | vcvt => exact .inl h.execVcvt
  | vcrest => exact .inl h.execVcrest
  | vld => exact .inl h.execVld
  | vst => exact .inl h.execVst
  | vred => exact .inl h.execVred
  | vlfComb => exact .inl h.execVlfComb
  | vlfDrain => exact .inl h.execVlfDrain
  | pand => exact .inl h.execPand
  | por => exact .inl h.execPor
  | pxor => exact .inl h.execPxor
  | pnot => exact .inl h.execPnot
  | pset => exact .inl h.execPset
  | manc => exact .inl h.execManc
  | mancChain => exact .inl h.execMancChain
  | mtile => exact .inl h.execMtile
  | mtileFirst => exact .inl h.execMtileFirst
  | mtileFirstSwap => exact .inl h.execMtileFirstSwap
  | mtileX3 => exact .inl h.execMtileX3
  | mtileX3First => exact .inl h.execMtileX3First
  | mtileX3FirstSwap => exact .inl h.execMtileX3FirstSwap
  | mswap => exact .inl h.execMswap
  | tilePass => exact .inl h.execTilePass
  | strictRerun => exact .inl h.execStrictRerun
  | mloadLf => exact .inl h.execMloadLf
  | mloadWlf => exact .inl h.execMloadWlf
  | mdrain => exact .inl h.execMdrain
  | mdrainLf => exact .inl h.execMdrainLf
  | mdrainWlf => exact .inl h.execMdrainWlf
  | drainComplete => exact .inl h.execDrainComplete
  | mchain => exact .inl h.execMchain
  | mxfer => exact .inl h.execMxfer
  | mscanCrest => exact .inl h.execMscanCrest
  | mscanCmax => exact .inl h.execMscanCmax
  | mstop => exact .inl h.execMstop
  | dld => exact .inl h.execDld
  | dst => exact .inl h.execDst
  | dset => exact .inl h.execDset
  | moverCommandStart => exact .inl h.execMoverCommandStart
  | moverReadReturn => exact .inl h.execMoverReadReturn
  | moverUnitWrite => exact .inl h.execMoverUnitWrite
  | moverGateOpen => exact .inl h.execMoverGateOpen
  | attachedSignalApply => exact .inl h.execAttachedSignalApply
  | moverSquashDone => exact .inl h.execMoverSquashDone
  | crestedGroupWrite => exact .inl h.execCrestedGroupWrite
  | packetArrive => exact .inl h.execPacketArrive
  | packetInject => exact .inl h.execPacketInject
  | balanceCheck => exact .inl h.execBalanceCheck
  | lateItemStop => exact .inl h.execLateItemStop
  | lateItemRestart => exact .inl h.execLateItemRestart
  | turnEnd => exact .inl h.execTurnEnd
  | quiesceEnd => exact .inl h.execQuiesceEnd
  | exchangeEnd => exact .inl h.execExchangeEnd
  | stepT0 => exact .inl h.execStepT0
  | entryBundle => exact .inl h.execEntryBundle
  | gateRaise => exact .inl h.execGateRaise
  | sweepStart => exact .inl h.execSweepStart
  | sweepComplete => exact .inl h.execSweepComplete
  | unop => exact .inl h.execUnop
  | uadd => exact .inl h.execUadd
  | usub => exact .inl h.execUsub
  | umul => exact .inl h.execUmul
  | ufma => exact .inl h.execUfma
  | umin => exact .inl h.execUmin
  | umax => exact .inl h.execUmax
  | uabs => exact .inl h.execUabs
  | uneg => exact .inl h.execUneg
  | ucopysign => exact .inl h.execUcopysign
  | udiv => exact .inl h.execUdiv
  | urecip => exact .inl h.execUrecip
  | usqrt => exact .inl h.execUsqrt
  | ursqrt => exact .inl h.execUrsqrt
  | uexp => exact .inl h.execUexp
  | uexp2 => exact .inl h.execUexp2
  | ulog => exact .inl h.execUlog
  | utanh => exact .inl h.execUtanh
  | usigmoid => exact .inl h.execUsigmoid
  | uerf => exact .inl h.execUerf
  | ugelu => exact .inl h.execUgelu
  | ult => exact .inl h.execUlt
  | usel => exact .inl h.execUsel
  | uldk => exact .inl h.execUldk
  | usign => exact .inl h.execUsign
  | ubsum => exact .inl h.execUbsum
  | ubmax => exact .inl h.execUbmax
  | voteReceive => exact .inl h.execVoteReceive
  | sendDrainComplete => exact .inl h.execSendDrainComplete
  | resyncDone => exact .inl h.execResyncDone
  | voteTimeout => exact .inl h.execVoteTimeout
  | refresh => exact .inl h.execRefresh
  | stackTempChange => exact .inl h.execStackTempChange
  | patrol => exact .inl h.execPatrol
  | boundaryWork => exact .inl h.execBoundaryWork
  | windowCommit => exact .inl h.execWindowCommit
  | commitCheckDone => exact .inl h.execCommitCheckDone
  | winDataAccess => exact .inl h.execWinDataAccess
  | codewordReceive => exact .inl h.execCodewordReceive
  | lossOfLock => exact .inl h.execLossOfLock
  | flitReceive => exact .inl h.execFlitReceive
  | retryBudgetExhausted => exact .inl h.execRetryBudgetExhausted
  | retrainDone => exact .inl h.execRetrainDone
  | identity => exact .inl h.execIdentity
  | lanes => exact .inl h.execLanes
  | retrain => exact .inl h.execRetrain
  | messageSend => exact .inl h.execMessageSend
  | write => exact .inl h.execWrite
  | signal => exact .inl h.execSignal
  | ack => exact .inl h.execAck
  | ackTimer => exact .inl h.execAckTimer
  | messageForward => exact .inl h.execMessageForward
  | altRouteTimeout => exact .inl h.execAltRouteTimeout
  | linkLost => exact .inl h.execLinkLost
  | laneWindowEnd => exact .inl h.execLaneWindowEnd
  | laneRetire => exact .inl h.execLaneRetire
  | synthLock => exact .inl h.execSynthLock
  | synthTimeout => exact .inl h.execSynthTimeout
  | trainingAttempt => exact .inl h.execTrainingAttempt
  | trainingComplete => exact .inl h.execTrainingComplete
  | berWindowEnd => exact .inl h.execBerWindowEnd
  | censusClose => exact .inl h.execCensusClose
  | partnerRemoved => exact .inl h.execPartnerRemoved
  | linkStageBegin => exact .inl h.execLinkStageBegin
  | linkStageEnd => exact .inl h.execLinkStageEnd
  | train => exact .inl h.execTrain
  | idle => exact .inl h.execIdle
  | clearCounts => exact .inl h.execClearCounts
  | closeDeadline => exact .inl h.execCloseDeadline
  | siteFence => exact .inl h.execSiteFence
  | adoptionDone => exact .inl h.execAdoptionDone
  | replayDone => exact .inl h.execReplayDone
  | faultDetect => exact .inl h.execFaultDetect
  | yokeCheckMismatch => exact .inl h.execYokeCheckMismatch
  | siteTestResult => exact .inl h.execSiteTestResult
  | wxBucket => exact .inl h.execWxBucket
  | injArm => exact .inl h.execInjArm
  | injCancel => exact .inl h.execInjCancel
  | noiseWindow => exact .inl h.execNoiseWindow
  | rngStartupTest => exact .inl h.execRngStartupTest
  | rngRetry => exact .inl h.execRngRetry
  | cmdNop => exact .inl h.execCmdNop
  | dmaH2d => exact .inl h.execDmaH2d
  | dmaD2h => exact .inl h.execDmaD2h
  | jobLoad => exact .inl h.execJobLoad
  | jobUnload => exact .inl h.execJobUnload
  | jobAbort => exact .inl h.execJobAbort
  | stepRelease => exact .inl h.execStepRelease
  | seedSet => exact .inl h.execSeedSet
  | seedDraw => exact .inl h.execSeedDraw
  | yokeCheck => exact .inl h.execYokeCheck
  | snapshot => exact .inl h.execSnapshot
  | ckptArm => exact .inl h.execCkptArm
  | buddyReceive => exact .inl h.execBuddyReceive
  | restore => exact .inl h.execRestore
  | restoreFinish => exact .inl h.execRestoreFinish
  | ledgerImport => exact .inl h.execLedgerImport
  | journalExport => exact .inl h.execJournalExport
  | ftpLoad => exact .inl h.execFtpLoad
  | ckptWrite => exact .inl h.execCkptWrite
  | ckptComplete => exact .inl h.execCkptComplete
  | ckptBuddyTimeout => exact .inl h.execCkptBuddyTimeout
  | doorbell => exact .inl h.execDoorbell
  | commandFetch => exact .inl h.execCommandFetch
  | eventPost => exact .inl h.execEventPost
  | interrupt => exact .inl h.execInterrupt
  | ringEnable => exact .inl h.execRingEnable
  | bar4Access => exact .inl h.execBar4Access
  | stepLimitExpiry => exact .inl h.execStepLimitExpiry
  | authMailboxGo => exact .inl h.execAuthMailboxGo
  | loadDeviceSection => exact .inl h.execLoadDeviceSection
  | ringAllocation => exact .inl h.execRingAllocation
  | setAuthority => exact .inl h.execSetAuthority
  | takeOwnership => exact .inl h.execTakeOwnership
  | releaseOwnership => exact .inl h.execReleaseOwnership
  | fwWrite => exact .inl h.execFwWrite
  | fwActivate => exact .inl h.execFwActivate
  | fwCommit => exact .inl h.execFwCommit
  | mgmtRestart => exact .inl h.execMgmtRestart
  | writePolicy => exact .inl h.execWritePolicy
  | clearLedgerEntry => exact .inl h.execClearLedgerEntry
  | clearBayAct => exact .inl h.execClearBayAct
  | clearTamperLog => exact .inl h.execClearTamperLog
  | authFtpLoad => exact .inl h.execAuthFtpLoad
  | claimWindowEnd => exact .inl h.execClaimWindowEnd
  | getVersion => exact .inl h.execGetVersion
  | getCapabilities => exact .inl h.execGetCapabilities
  | negotiateAlgorithms => exact .inl h.execNegotiateAlgorithms
  | getDigests => exact .inl h.execGetDigests
  | getCertificate => exact .inl h.execGetCertificate
  | challenge => exact .inl h.execChallenge
  | getMeasurements => exact .inl h.execGetMeasurements
  | keyExchange => exact .inl h.execKeyExchange
  | finish => exact .inl h.execFinish
  | keyUpdate => exact .inl h.execKeyUpdate
  | heartbeat => exact .inl h.execHeartbeat
  | endSession => exact .inl h.execEndSession
  | penReset => exact .inl h.execPenReset
  | teardownQuiesceDone => exact .inl h.execTeardownQuiesceDone
  | scrubDone => exact .inl h.execScrubDone
  | cryptoEraseDone => exact .inl h.execCryptoEraseDone
  | penCreate => exact .inl h.execPenCreate
  | tamperAlarm => exact .inl h.execTamperAlarm
  | powerGood => exact .inl h.execPowerGood
  | inputLoss => exact .inl h.execInputLoss
  | overvoltage => exact .inl h.execOvervoltage
  | perstAssert => exact .inl h.execPerstAssert
  | perstDeassert => exact .inl h.execPerstDeassert
  | smbusWake => exact .inl h.execSmbusWake
  | startupStageDone => exact .inl h.execStartupStageDone
  | stageTimeout => exact .inl h.execStageTimeout
  | computeReset => exact .inl h.execComputeReset
  | computeResetDone => exact .inl h.execComputeResetDone
  | keepRequest => exact .inl h.execKeepRequest
  | keepWriteDone => exact .inl h.execKeepWriteDone
  | thermalSample => exact .inl h.execThermalSample
  | thermalEmergencyEnd => exact .inl h.execThermalEmergencyEnd
  | pllLockLoss => exact .inl h.execPllLockLoss
  | powerAverage => exact .inl h.execPowerAverage
  | fntabRead => exact .inl h.execFntabRead
  | journalAck => exact .inl h.execJournalAck
  | rwkWrite => exact .inl h.execRwkWrite
  | registerWrite => exact .inl h.execRegisterWrite
  | undefinedOffsetAccess fn => exact .inl (h.execUndefinedOffsetAccess (_fn := fn))
  | signalDetect => exact .inl h.execSignalDetect
  | frameTransmit => exact .inl h.execFrameTransmit
  | hotReset => exact .inl h.execHotReset
  | alertResponseAddressRead => exact .inl h.execAlertResponseAddressRead
  | alwaysOnDomainUp => exact .inl h.execAlwaysOnDomainUp
  | chainEnd => exact .inl h.execChainEnd
  | commandCompletion => exact .inl h.execCommandCompletion

theorem keeps_of_exec {i : Instr} {s t : State} (e : exec i s = .next t) : Keeps s t := by
  obtain ⟨t', e', h⟩ | ⟨e', -⟩ := exec_answers i s
  · rw [e] at e'
    cases e'
    exact h
  · rw [e] at e'
    cases e'

/-- Settles O2: `exec_answers` says so of every command. -/
theorem onlyMissingLinesStop : Obligations.OnlyMissingLinesStop := by
  unfold Obligations.OnlyMissingLinesStop
  intro i s
  obtain ⟨t, e, -⟩ | missing := exec_answers i s
  · exact .inl ⟨t, e⟩
  · exact .inr missing

/-- Settles O3: a command that answers keeps the queue. -/
theorem queueIsFirstInFirstOut : Obligations.QueueIsFirstInFirstOut := by
  unfold Obligations.QueueIsFirstInFirstOut
  refine ⟨fun s e => ?_, fun i s t e => (keeps_of_exec e).pending⟩
  rw [step, e]

/-- Settles O4: a step is the front command, and a command that answers keeps the canonical form. -/
theorem everyStepKeepsCanonicalForm : Obligations.EveryStepKeepsCanonicalForm := by
  unfold Obligations.EveryStepKeepsCanonicalForm
  intro s t w e
  unfold step at e
  split at e
  · cases e
    exact w
  · exact (keeps_of_exec e).wf w

/-- Settles O1: `step` is defined so. -/
theorem stepRunsTheFrontCommand : Obligations.StepRunsTheFrontCommand := by
  unfold Obligations.StepRunsTheFrontCommand
  intro c rest s
  rfl

end Sys2Proof.Proofs
end

section
namespace Sys2Proof.Proofs

open Sys2Proof Sys2Proof.Machine Sys2Proof.Claims

-- Elaborated in order, so that the equations of `exec` are derived once, here, and stand for every section that follows.
set_option Elab.async false

/-! ### Issue -/

/-- An outcome is that of the issue rule, for an instruction that a loaded program can hold (R228, R229, R263). -/
def IssuesBy (o : Out) (i : Instr) (s : State) (u : CoreRef) (slot : Nat) : Prop := ∃ ok body, o = s.issueIf ok i u slot body

theorem issueIf_issuesBy (s : State) (ok : Bool) (i : Instr) (u : CoreRef) (slot : Nat) (body : Core → State) :
    IssuesBy (s.issueIf ok i u slot body) i s u slot := ⟨ok, body, rfl⟩

theorem issue_issuesBy (s : State) (i : Instr) (u : CoreRef) (slot : Nat) (body : Core → State) :
    IssuesBy (s.issue i u slot body) i s u slot := ⟨true, body, (if_pos rfl).symm⟩

theorem scalarWrite_issuesBy {i : Instr} {u : CoreRef} {rd : SReg} {f : RegFile → Word64 × Bool} {s : State} :
    IssuesBy (scalarWrite i u rd f s) i s u slotControl := issueIf_issuesBy _ _ _ _ _ _

theorem scalarOp_issuesBy {i : Instr} {f : Word64 → Word64 → Word64} {u : CoreRef} {rd ra rb : SReg} {s : State} :
    IssuesBy (scalarOp i f u rd ra rb s) i s u slotControl := scalarWrite_issuesBy

theorem scalarLoad_issuesBy {i : Instr} {n : Nat} {u : CoreRef} {rd ra : SReg} {imm : BitVec 32} {s : State} :
    IssuesBy (scalarLoad i n u rd ra imm s) i s u slotControl := issueIf_issuesBy _ _ _ _ _ _

theorem scalarStore_issuesBy {i : Instr} {n : Nat} {u : CoreRef} {rd ra : SReg} {imm : BitVec 32} {s : State} :
    IssuesBy (scalarStore i n u rd ra imm s) i s u slotControl := issue_issuesBy _ _ _ _ _

theorem waitOn_issuesBy {i : Instr} {isEq : Bool} {u : CoreRef} {ctr : BitVec 8} {ra : SReg} {imm : BitVec 32} {s : State} :
    IssuesBy (waitOn i isEq u ctr ra imm s) i s u slotControl := issue_issuesBy _ _ _ _ _

theorem mxEnqueue_issuesBy {i : Instr} {ok : Bool} {u : CoreRef} {s : State} {bad : RegFile → Bool} :
    IssuesBy (mxEnqueue i ok u s bad) i s u slotMatrix := issueIf_issuesBy _ _ _ _ _ _

theorem mxTile_issuesBy {i : Instr} {ok : Bool} {u : CoreRef} {sb sa : SReg} {s : State} :
    IssuesBy (mxTile i ok u sb sa s) i s u slotMatrix := mxEnqueue_issuesBy

theorem vecOp_issuesBy {i : Instr} {ok : Bool} {u : CoreRef} {f : Fmt} {pq : PredCtl} {vd : VReg} {srcs : List VReg}
    {op : Bool → List Elem → Elem × ExcFlags} {s : State} :
    IssuesBy (vecOp i ok u f pq vd srcs op s) i s u slotVector := issueIf_issuesBy _ _ _ _ _ _

theorem vecFn_issuesBy {i : Instr} {op : FnOp} {u : CoreRef} {pq : PredCtl} {vd va : VReg} {s : State} :
    IssuesBy (vecFn i op u pq vd va s) i s u slotVector := vecOp_issuesBy

theorem predOp_issuesBy {i : Instr} {f : BitVec 128 → BitVec 128 → BitVec 128} {u : CoreRef} {pq : PredCtl} {pd pa pb : PReg} {s : State} :
    IssuesBy (predOp i f u pq pd pa pb s) i s u slotVector := issue_issuesBy _ _ _ _ _

theorem vmAccess_issuesBy {i : Instr} {write : Bool} {u : CoreRef} {off : BitVec 12} {sstr sb : SReg} {s : State}
    {body : Core → (Nat → Nat) → State} :
    IssuesBy (vmAccess i write u off sstr sb s body) i s u slotVector := issue_issuesBy _ _ _ _ _

theorem moverPush_issuesBy {i : Instr} {kind : MovKind} {u : CoreRef} {m : MoverIx} {sSrc sDst sCtl sSig : SReg} {dsrc ddst cslot : DSlot} {s : State} :
    IssuesBy (moverPush i kind u m sSrc sDst sCtl sSig dsrc ddst cslot s) i s u slotMove := issue_issuesBy _ _ _ _ _

/-- Every instruction of a slot goes through the issue rule. -/
theorem exec_issuesBy {i : Instr} {u : CoreRef} {slot : Nat} (h : Claims.slotOf i = some (u, slot)) (s : State) :
    IssuesBy (exec i s) i s u slot := by
  cases i with
  | nop | endProg | br | bc | sigAdd | syncFence | pnot | pset | vsel | vmov | vbcast | vrot | vlfComb | vlfDrain | mstop
  | dld | dst | dset => cases h; simp only [exec]; exact issue_issuesBy _ _ _ _ _
  | lbeg | csrr | csrw | csrc | manc | mancChain | vcmp | vext | vcvt | vcrest | vred => cases h; simp only [exec]; exact issueIf_issuesBy _ _ _ _ _ _
  | li | lih | addi | sel => cases h; simp only [exec]; exact scalarWrite_issuesBy
  | add | sub | mul | mulhu | andS | orS | xorS | shl | shr | sra | minS | maxS | minu | maxu | slt | sltu => cases h; simp only [exec]; exact scalarOp_issuesBy
  | sld | sldW => cases h; simp only [exec]; exact scalarLoad_issuesBy
  | sst | sstW => cases h; simp only [exec]; exact scalarStore_issuesBy
  | waitGe | waitEq => cases h; simp only [exec]; exact waitOn_issuesBy
  | mswap | mloadLf | mloadWlf | mdrain | mdrainLf | mdrainWlf | mchain => cases h; simp only [exec]; exact mxEnqueue_issuesBy
  | mtile | mtileFirst | mtileFirstSwap | mtileX3 | mtileX3First | mtileX3FirstSwap => cases h; simp only [exec]; exact mxTile_issuesBy
  | vadd | vsub | vmul | vfma | vmin | vmax | vabs | vneg | vcopysign | vdiv | vrecip | vsqrt | vrsqrt | vand | vor | vxor
  | vshl | vshr | vsra => cases h; simp only [exec]; exact vecOp_issuesBy
  | vexp | vexp2 | vlog | vtanh | vsigmoid | verf | vgelu => cases h; simp only [exec]; exact vecFn_issuesBy
  | pand | por | pxor => cases h; simp only [exec]; exact predOp_issuesBy
  | vld | vst => cases h; simp only [exec]; exact vmAccess_issuesBy
  | mxfer | mscanCrest | mscanCmax => cases h; simp only [exec]; exact moverPush_issuesBy
  | _ => cases h

theorem issue_of_not_canIssue {s : State} {u : CoreRef} {slot : Nat} (h : s.canIssue u slot = false) (i : Instr)
    (body : Core → State) : s.issue i u slot body = .next s := by
  simp [State.issue, h]

theorem issue_of_mayIssue {s : State} {i : Instr} {u : CoreRef} {slot : Nat} (h : Issues i s u slot) (body : Core → State) :
    s.issue i u slot body = .next (body (found s u slot)) := by
  have ⟨can, ready⟩ : s.canIssue u slot = true ∧ s.ready i u slot = true := by simpa [Issues, State.mayIssue] using h
  simp [State.issue, can, ready, found]

theorem issueIf_of_mayIssue {s : State} {i : Instr} {u : CoreRef} {slot : Nat} {ok : Bool} (h : Issues i s u slot) (hok : ok = true)
    (body : Core → State) : s.issueIf ok i u slot body = .next (body (found s u slot)) := by
  subst hok
  exact issue_of_mayIssue h body

theorem issue_of_not_ready {s : State} {i : Instr} {u : CoreRef} {slot : Nat} (hc : s.canIssue u slot = true)
    (hr : s.ready i u slot = false) (body : Core → State) :
    s.issue i u slot body = .next (s.setCore (refKey u) { s.core (refKey u) with held := some slot }) := by
  simp [State.issue, hc, hr]

theorem canIssue_eq_false_of_held {s : State} {u : CoreRef} {slot k : Nat} (h : (s.core (refKey u)).held = some k) (hk : k ≠ slot) :
    s.canIssue u slot = false := by
  simp [State.canIssue, h, hk]

/-- Settles O5: `exec_issuesBy` takes every instruction of a slot to `State.issue`, whose three outcomes the statement names. -/
theorem bundlesIssueAsUnits : Obligations.BundlesIssueAsUnits := by
  unfold Obligations.BundlesIssueAsUnits
  intro i s u slot hslot c
  obtain ⟨ok, body, hexec⟩ := exec_issuesBy hslot s
  have barred (h : s.canIssue u slot = false) : exec i s = .next s := by
    cases ok
    · exact hexec
    · exact hexec.trans (issue_of_not_canIssue h i body)
  refine ⟨?issues, barred, fun ⟨k, hk, hne⟩ => barred (canIssue_eq_false_of_held hk hne), fun hc hr => ?waits⟩
  case issues =>
    intro j hj hstop hdies hfence hturn hrun hheld hlock hbundle
    have units : s.unitsRun u.pen = true := by simp [State.unitsRun, hj, hstop, hdies, hfence]
    have turn : turnAllows (s.jobD u.pen) u.logical = true := by rwa [State.jobD, show (s.pen u.pen).job = some j from hj]
    have can : s.canIssue u slot = true := by
      have run : (s.core (refKey u)).run = .running ∨ (s.core (refKey u)).run = .ending ∧ (s.core (refKey u)).slot < slot := hrun
      have held : (s.core (refKey u)).held = none ∨ (s.core (refKey u)).held = some slot := hheld
      simp [State.canIssue, units, turn, run, held]
    have ready : s.ready i u slot = true := by
      have lock : ((s.core (refKey u)).begin slot).interlocked i = false := hlock
      have bundle : (s.core (refKey u)).slot < slot ∨ s.bundleHeld u ((s.core (refKey u)).begin slot) slot = false := hbundle
      simp [State.ready, lock, bundle]
    simp [Issues, State.mayIssue, can, ready]
  case waits =>
    cases ok
    · exact .inl hexec
    · exact .inr (hexec.trans (issue_of_not_ready hc hr body))

/-! ### Values of scalar arithmetic (R239) -/

theorem minS_eq (a b : Word64) : (if a.slt b then a else b) = BitVec.ofInt 64 (min a.toInt b.toInt) := by
  by_cases h : a.toInt < b.toInt
  · rw [if_pos (BitVec.slt_iff_toInt_lt.mpr h), min_eq_left h.le, BitVec.ofInt_toInt]
  · rw [if_neg (mt BitVec.slt_iff_toInt_lt.mp h), min_eq_right (not_lt.mp h), BitVec.ofInt_toInt]
theorem maxS_eq (a b : Word64) : (if a.slt b then b else a) = BitVec.ofInt 64 (max a.toInt b.toInt) := by
  by_cases h : a.toInt < b.toInt
  · rw [if_pos (BitVec.slt_iff_toInt_lt.mpr h), max_eq_right h.le, BitVec.ofInt_toInt]
  · rw [if_neg (mt BitVec.slt_iff_toInt_lt.mp h), max_eq_left (not_lt.mp h), BitVec.ofInt_toInt]
theorem maxu_eq (a b : Word64) : (if a.ult b then b else a) = BitVec.ofNat 64 (max a.toNat b.toNat) := by
  by_cases h : a.toNat < b.toNat
  · rw [if_pos (BitVec.ult_iff_lt.mpr h), max_eq_right h.le, BitVec.ofNat_toNat, BitVec.setWidth_eq]
  · rw [if_neg (mt BitVec.ult_iff_lt.mp h), max_eq_left (not_lt.mp h), BitVec.ofNat_toNat, BitVec.setWidth_eq]
theorem sra_eq (a : Word64) (n : Nat) : a.sshiftRight n = BitVec.ofInt 64 (a.toInt / 2 ^ n) := by
  rw [← BitVec.ofInt_toInt (x := a.sshiftRight n), BitVec.toInt_sshiftRight, Int.shiftRight_eq_div_pow]
  norm_cast
theorem minu_eq (a b : Word64) : (if a.ult b then a else b) = BitVec.ofNat 64 (min a.toNat b.toNat) := by
  by_cases h : a.toNat < b.toNat
  · rw [if_pos (BitVec.ult_iff_lt.mpr h), min_eq_left h.le, BitVec.ofNat_toNat, BitVec.setWidth_eq]
  · rw [if_neg (mt BitVec.ult_iff_lt.mp h), min_eq_right (not_lt.mp h), BitVec.ofNat_toNat, BitVec.setWidth_eq]
theorem mulhu_eq (a b : Word64) :
    BitVec.ofNat 64 (a.toNat * b.toNat / 2 ^ 64) = ((a.setWidth 128 * b.setWidth 128) >>> 64).setWidth 64 := by
  have h : a.toNat * b.toNat < 2 ^ 128 := (Nat.mul_lt_mul'' a.isLt b.isLt).trans_eq (by norm_num)
  have ha : a.toNat % 2 ^ 128 = a.toNat := Nat.mod_eq_of_lt (a.isLt.trans (by norm_num))
  have hb : b.toNat % 2 ^ 128 = b.toNat := Nat.mod_eq_of_lt (b.isLt.trans (by norm_num))
  refine BitVec.eq_of_toNat_eq ?_
  rw [BitVec.toNat_ofNat, BitVec.toNat_setWidth, BitVec.toNat_ushiftRight, BitVec.toNat_mul, BitVec.toNat_setWidth, BitVec.toNat_setWidth, ha, hb,
    Nat.mod_eq_of_lt h, Nat.shiftRight_eq_div_pow]
theorem lih_eq (imm : BitVec 32) (a : Word64) : imm ++ a.setWidth 32 = BitVec.ofNat 64 (imm.toNat * 2 ^ 32 + a.toNat % 2 ^ 32) := by
  refine BitVec.eq_of_toNat_eq ?_
  have hi := imm.isLt
  have lo : a.toNat % 2 ^ 32 < 2 ^ 32 := Nat.mod_lt _ (by norm_num)
  have whole : imm.toNat * 2 ^ 32 + a.toNat % 2 ^ 32 < 2 ^ 64 := by omega
  rw [BitVec.toNat_append, BitVec.toNat_setWidth, ← Nat.shiftLeft_add_eq_or_of_lt lo, Nat.shiftLeft_eq, BitVec.toNat_ofNat,
    Nat.mod_eq_of_lt whole]
theorem shl_eq (a : Word64) (n : Nat) : a <<< n = BitVec.ofNat 64 (a.toNat * 2 ^ n) := by
  refine BitVec.eq_of_toNat_eq ?_
  rw [BitVec.toNat_shiftLeft, Nat.shiftLeft_eq, BitVec.toNat_ofNat]
theorem shr_eq (a : Word64) (n : Nat) : a >>> n = BitVec.ofNat 64 (a.toNat / 2 ^ n) := by
  refine BitVec.eq_of_toNat_eq ?_
  rw [BitVec.toNat_ushiftRight, Nat.shiftRight_eq_div_pow, BitVec.toNat_ofNat, Nat.mod_eq_of_lt ((Nat.div_le_self _ _).trans_lt a.isLt)]
theorem sub_eq (a b : Word64) : a - b = BitVec.ofInt 64 (a.toInt - b.toInt) := by
  refine BitVec.eq_of_toInt_eq ?_
  rw [BitVec.toInt_sub, BitVec.toInt_ofInt]
theorem addi_eq (a : Word64) (b : BitVec 32) : a + sext64 b = BitVec.ofInt 64 (a.toInt + b.toInt) := by
  rw [sext64, BitVec.signExtend, BitVec.ofInt_add, BitVec.ofInt_toInt]
theorem add_eq (a b : Word64) : a + b = BitVec.ofNat 64 (a.toNat + b.toNat) := by
  refine BitVec.eq_of_toNat_eq ?_
  rw [BitVec.toNat_add, BitVec.toNat_ofNat]
theorem mul_eq (a b : Word64) : a * b = BitVec.ofNat 64 (a.toNat * b.toNat) := by
  refine BitVec.eq_of_toNat_eq ?_
  rw [BitVec.toNat_mul, BitVec.toNat_ofNat]

theorem getLsbD_setBit {w : Nat} (x : BitVec w) {i j : Nat} (hi : i < w) (b : Bool) :
    (setBit x i b).getLsbD j = if j = i then b else x.getLsbD j := by
  have bit : (BitVec.ofNat w (2 ^ i)).getLsbD j = decide (j = i) := by
    rw [BitVec.getLsbD_ofNat, Nat.testBit_two_pow]
    by_cases h : i = j
    · simp [h, h ▸ hi]
    · simp [h, Ne.symm h]
  by_cases hj : j < w
  · cases b
    · rw [setBit, if_neg (by simp), BitVec.getLsbD_and, BitVec.getLsbD_not, bit]
      by_cases h : j = i <;> simp [h, hj, hi]
    · rw [setBit, if_pos rfl, BitVec.getLsbD_or, bit]
      by_cases h : j = i <;> simp [h]
  · rw [BitVec.getLsbD_of_ge _ _ (by omega), if_neg (by omega), BitVec.getLsbD_of_ge _ _ (by omega)]


theorem scalarWritten_sSet (c : Core) {rd : SReg} (h : rd.val < 48) (x : Word64) (bad : Bool) :
    ScalarWritten c (c.onRf (fun rf => rf.sSet rd x bad)) rd x bad := by
  by_cases h0 : rd.val = 0
  · have same : c.onRf (fun rf => rf.sSet rd x bad) = c := by rw [Core.onRf, RegFile.sSet, if_pos (.inl h0)]
    have zero (r : SReg) : ¬ (r = rd ∧ r.val ≠ 0) := fun e => e.2 (e.1 ▸ h0)
    rw [same]
    exact ⟨rfl, fun r => ⟨(if_neg (zero r)).symm, (if_neg (zero r)).symm⟩⟩
  · have set : c.rf.sSet rd x bad = { c.rf with s := SMap.set (fun _ => 0#64) c.rf.s rd.val x, sPoison := setBit c.rf.sPoison rd.val bad } :=
      if_neg (by omega)
    refine ⟨by rw [Core.onRf, set], fun r => ?_⟩
    rw [Core.onRf, set]
    by_cases hr : r = rd
    · subst hr
      have bit := getLsbD_setBit c.rf.sPoison (by omega : r.val < 64) bad (j := r.val)
      exact ⟨by simp [RegFile.sGet, h0], by simp only [RegFile.sBad, bit]; simp [h0]⟩
    · have hv : r.val ≠ rd.val := fun e => hr (Fin.ext e)
      have bit := getLsbD_setBit c.rf.sPoison (by omega : rd.val < 64) bad (j := r.val)
      exact ⟨by simp [RegFile.sGet, hr, hv, SMap.get_set_ne], by simp only [RegFile.sBad, bit]; simp only [hr, hv, false_and, if_false]⟩

/-! ### Scalar arithmetic -/

/-- Each scalar arithmetic instruction writes the result of its form, poisoned with its sources. -/
theorem exec_of_scalarForm {i : Instr} {u : CoreRef} {rd : SReg} {f : RegFile → Word64} {srcs : List SReg}
    (h : scalarForm i = some (u, rd, f, srcs)) (s : State) :
    exec i s = scalarWrite i u rd (fun r => (f r, srcs.any r.sBad)) s := by
  unfold scalarForm at h
  split at h <;> cases h
  all_goals simp only [exec, List.any_cons, List.any_nil, Bool.or_false]
  case h_1 => rfl
  case h_2 => simp only [execLih, lih_eq]
  case h_3 => simp only [execAddi, addi_eq]
  case h_4 => simp only [execAdd, scalarOp, add_eq]
  case h_5 => simp only [execSub, scalarOp, sub_eq]
  case h_6 => simp only [execMul, scalarOp, mul_eq]
  case h_7 => simp only [execMulhu, scalarOp, mulhu_eq]
  case h_8 => rfl
  case h_9 => rfl
  case h_10 => rfl
  case h_11 => simp only [execShl, scalarOp, shl_eq, shiftAmount]
  case h_12 => simp only [execShr, scalarOp, shr_eq, shiftAmount]
  case h_13 => simp only [execSra, scalarOp, sra_eq, shiftAmount]
  case h_14 => simp only [execMin, scalarOp, minS_eq]
  case h_15 => simp only [execMax, scalarOp, maxS_eq]
  case h_16 => simp only [execMinu, scalarOp, minu_eq]
  case h_17 => simp only [execMaxu, scalarOp, maxu_eq]
  case h_18 => simp only [execSlt, scalarOp, BitVec.slt_iff_toInt_lt]
  case h_19 => simp only [execSltu, scalarOp, BitVec.ult_iff_lt, BitVec.lt_def]
  case h_20 => simp only [execSel, ite_not, Bool.or_assoc]

theorem scalarWrite_of_issues {i : Instr} {s : State} {u : CoreRef} {rd : SReg} (h : Issues i s u 0) (hrd : rd.val < 48)
    (f : RegFile → Word64 × Bool) :
    scalarWrite i u rd f s =
      .next (s.setCore (refKey u) ((found s u 0).onRf (fun rf => rf.sSet rd (f (found s u 0).rf0).1 (f (found s u 0).rf0).2))) :=
  issueIf_of_mayIssue h (decide_eq_true hrd) _

/-- Settles O6: `exec_of_scalarForm` gives the value, `scalarWritten_sSet` the registers. -/
theorem scalarArithmeticWritesItsResult : Obligations.ScalarArithmeticWritesItsResult := by
  unfold Obligations.ScalarArithmeticWritesItsResult
  intro i s u rd f srcs hform hissue hrd
  rw [exec_of_scalarForm hform, scalarWrite_of_issues hissue hrd]
  exact ⟨_, rfl, scalarWritten_sSet _ hrd _ _⟩

/-! ### Bytes of one line of the scratchpad -/

theorem get_setList_out {β : Type} [DecidableEq β] (d : Nat → β) (vs : List β) (m : SMap β) {k x : Nat} (h : x < k ∨ k + vs.length ≤ x) :
    SMap.get d (SMap.setList d m k vs) x = SMap.get d m x := by
  induction vs generalizing m k with
  | nil => rfl
  | cons v vs ih =>
    rw [List.length_cons] at h
    rw [SMap.setList, ih _ (by omega), SMap.get_set_ne _ _ _ _ _ (by omega)]

theorem get_setList_in {β : Type} [DecidableEq β] (d : Nat → β) (vs : List β) (m : SMap β) {k i : Nat} (b : β) (h : i < vs.length) :
    SMap.get d (SMap.setList d m k vs) (k + i) = vs.getD i b := by
  induction vs generalizing m k i with
  | nil => simp at h
  | cons v vs ih =>
    cases i with
    | zero => rw [SMap.setList, get_setList_out _ _ _ (by omega), Nat.add_zero, SMap.get_set_self, List.getD_cons_zero]
    | succ i =>
      rw [SMap.setList, show k + (i + 1) = k + 1 + i by omega, ih _ (by simpa using h), List.getD_cons_succ]

theorem linesTouched_of_inLine {a n : Nat} (h0 : 0 < n) (h : a % 64 + n ≤ 64) : linesTouched a n = [a / 64] := by
  have one : (a + n + 63) / 64 - a / 64 = 1 := by omega
  simp [linesTouched, one]

/-- Bytes that lie in one line are written by one write of the line. -/
theorem spadWrite_of_inLine (c : Core) {a : Nat} {bs : List Byte} (h0 : bs ≠ []) (h : a % 64 + bs.length ≤ 64) (bad : Bool)
    (tag : Option FaultTag) : c.spadWrite a bs bad tag = c.spadWriteLine a bs bad tag := by
  have take : bs.take (64 - a % 64) = bs := List.take_of_length_le (by omega)
  have drop : bs.drop (64 - a % 64) = [] := List.drop_of_length_le (by omega)
  have more (n : Nat) (c : Core) (a : Nat) : Core.spadWriteAux bad tag n c a [] = c := by cases n <;> rfl
  rw [Core.spadWrite, Core.spadWriteAux, if_neg (by simpa using h0)]
  simp only [take, drop, more]

theorem lineStored_spadWrite (c : Core) {a : Nat} {bs : List Byte} (h0 : bs ≠ []) (h : a % 64 + bs.length ≤ 64) (bad : Bool) :
    LineStored c (c.spadWrite a bs bad) a bs bad := by
  rw [spadWrite_of_inLine c h0 h]
  refine ⟨rfl, fun i hi => ?_, fun x hx => ?_, fun l => ?_, fun l => ?_, ?_⟩
  · exact get_setList_in _ _ _ _ hi
  · exact get_setList_out _ _ _ hx
  · by_cases hl : l = a / 64
    · subst hl
      have part : (!decide (64 ≤ bs.length)) = decide (bs.length < 64) := by
        by_cases short : bs.length < 64
        · simp [short]
        · simp [Nat.le_of_not_lt short]
      simp [Core.lineBad, Core.spadWriteLine, part]
    · simp [Core.lineBad, Core.spadWriteLine, hl, SMap.get_set_ne]
  · by_cases hl : l = a / 64
    · subst hl
      simp [Core.lineTag, Core.spadWriteLine]
    · simp [Core.lineTag, Core.spadWriteLine, hl, SMap.get_set_ne]
  · by_cases lost : 64 ≤ bs.length ∧ (c.lineTag (a / 64)).isSome = true
    · simp [Core.spadWriteLine, lost]
    · simp [Core.spadWriteLine, lost]

/-! ### Scalar loads and stores -/

theorem immAddr_eq_scalarAddr (c : Core) (ra : SReg) (imm : BitVec 32) : immAddr c ra imm = scalarAddr c ra imm := rfl

theorem exec_of_loadForm {i : Instr} {u : CoreRef} {rd ra : SReg} {imm : BitVec 32} {n : Nat} (h : loadForm i = some (u, rd, ra, imm, n))
    (s : State) : exec i s = scalarLoad i n u rd ra imm s ∧ (n = 8 ∨ n = 4) := by
  unfold loadForm at h
  split at h <;> cases h
  case h_1 => exact ⟨rfl, .inl rfl⟩
  case h_2 => exact ⟨rfl, .inr rfl⟩

theorem exec_of_storeForm {i : Instr} {u : CoreRef} {rd ra : SReg} {imm : BitVec 32} {n : Nat} (h : storeForm i = some (u, rd, ra, imm, n))
    (s : State) : exec i s = scalarStore i n u rd ra imm s ∧ (n = 8 ∨ n = 4) := by
  unfold storeForm at h
  split at h <;> cases h
  case h_1 => exact ⟨rfl, .inl rfl⟩
  case h_2 => exact ⟨rfl, .inr rfl⟩

section
variable {i : Instr} {s : State} {u : CoreRef} {rd ra : SReg} {imm : BitVec 32} {n : Nat}

/-- A scalar access whose base is poisoned, out of alignment or out of bounds faults (R233, R239). -/
def accessFault (c : Core) (ra : SReg) (imm : BitVec 32) (n : Nat) (isStore : Bool) : Option Nat :=
  if c.rf0.sBad ra then some causePoisonControl else c.accessCause (immAddr c ra imm) n n isStore

theorem scalarLoad_of_fault (h : Issues i s u 0) (hrd : rd.val < 48) {k : Nat} (hk : accessFault (found s u 0) ra imm n false = some k) :
    scalarLoad i n u rd ra imm s = .next (s.faultAt u (found s u 0) 0 k) := by
  rw [scalarLoad, slotControl, issueIf_of_mayIssue h (decide_eq_true hrd)]
  unfold accessFault at hk
  split at hk
  · cases hk
    simp_all
  · simp_all

theorem scalarStore_of_fault (h : Issues i s u 0) {k : Nat} (hk : accessFault (found s u 0) ra imm n true = some k) :
    scalarStore i n u rd ra imm s = .next (s.faultAt u (found s u 0) 0 k) := by
  rw [scalarStore, slotControl, issue_of_mayIssue h]
  unfold accessFault at hk
  split at hk
  · cases hk
    simp_all
  · simp_all

theorem accessFault_eq_none {c : Core} {isStore : Bool} (hbad : c.rf0.sBad ra = false) (halign : scalarAddr c ra imm % n = 0)
    (hok : c.spadOk (scalarAddr c ra imm) n isStore = true) : accessFault c ra imm n isStore = none := by
  simp [accessFault, hbad, Core.accessCause, immAddr_eq_scalarAddr, halign, hok]

/-- An aligned access of 4 or 8 bytes lies in one line. -/
theorem inLine_of_aligned {a : Nat} (hn : n = 8 ∨ n = 4) (h : a % n = 0) : a % 64 + n ≤ 64 := by
  obtain rfl | rfl := hn <;> omega

theorem no_poison_no_cause {c : Core} {isStore : Bool} (hk : accessFault c ra imm n isStore = none) :
    c.rf0.sBad ra = false ∧ c.accessCause (scalarAddr c ra imm) n n isStore = none := by
  unfold accessFault at hk
  split at hk
  · cases hk
  next hbad => exact ⟨by simpa using hbad, hk⟩

theorem scalarLoad_of_tag (h : Issues i s u 0) (hrd : rd.val < 48) (hn : n = 8 ∨ n = 4)
    (halign : scalarAddr (found s u 0) ra imm % n = 0) (hk : accessFault (found s u 0) ra imm n false = none) {t : FaultTag}
    (htag : (found s u 0).lineTag (scalarAddr (found s u 0) ra imm / 64) = some t) :
    scalarLoad i n u rd ra imm s = .next (s.faultTag u (found s u 0) 0 t) := by
  obtain ⟨hbad, hcause⟩ := no_poison_no_cause hk
  rw [scalarLoad, slotControl, issueIf_of_mayIssue h (decide_eq_true hrd)]
  simp [hbad, hcause, immAddr_eq_scalarAddr, Core.rangeTag, linesTouched_of_inLine (by omega) (inLine_of_aligned hn halign), htag]

theorem scalarLoad_of_no_tag (h : Issues i s u 0) (hrd : rd.val < 48) (hn : n = 8 ∨ n = 4)
    (halign : scalarAddr (found s u 0) ra imm % n = 0) (hk : accessFault (found s u 0) ra imm n false = none)
    (htag : (found s u 0).lineTag (scalarAddr (found s u 0) ra imm / 64) = none) :
    scalarLoad i n u rd ra imm s = .next (s.setCore (refKey u) ((found s u 0).onRf (fun rf => rf.sSet rd
      (BitVec.ofNat 64 (leNum ((found s u 0).spadRead (scalarAddr (found s u 0) ra imm) n)))
      ((found s u 0).lineBad (scalarAddr (found s u 0) ra imm / 64))))) := by
  obtain ⟨hbad, hcause⟩ := no_poison_no_cause hk
  rw [scalarLoad, slotControl, issueIf_of_mayIssue h (decide_eq_true hrd)]
  simp [hbad, hcause, immAddr_eq_scalarAddr, Core.rangeTag, Core.rangeBad,
    linesTouched_of_inLine (by omega) (inLine_of_aligned hn halign), htag, State.put]

theorem scalarStore_of_no_fault (h : Issues i s u 0) (hk : accessFault (found s u 0) ra imm n true = none) :
    scalarStore i n u rd ra imm s = .next (s.setCore (refKey u) ((found s u 0).spadWrite (scalarAddr (found s u 0) ra imm)
      (le n ((found s u 0).rf0.sGet rd).toNat) ((found s u 0).rf0.sBad rd))) := by
  obtain ⟨hbad, hcause⟩ := no_poison_no_cause hk
  rw [scalarStore, slotControl, issue_of_mayIssue h]
  simp [hbad, hcause, immAddr_eq_scalarAddr, State.put]

end

/-- Settles O7. -/
theorem scalarLoadsAndStores : Obligations.ScalarLoadsAndStores := by
  unfold Obligations.ScalarLoadsAndStores
  refine ⟨?load, ?store⟩
  case load =>
    intro i s u rd ra imm n hform hissue hrd c a hbad halign hok
    obtain ⟨hexec, hn⟩ := exec_of_loadForm hform s
    have hk := accessFault_eq_none hbad halign hok
    rw [hexec]
    exact ⟨fun htag => ⟨_, scalarLoad_of_no_tag hissue hrd hn halign hk htag, scalarWritten_sSet _ hrd _ _⟩,
      fun t htag => scalarLoad_of_tag hissue hrd hn halign hk htag⟩
  case store =>
    intro i s u rd ra imm n hform hissue c a hbad halign hok
    obtain ⟨hexec, hn⟩ := exec_of_storeForm hform s
    rw [hexec, scalarStore_of_no_fault hissue (accessFault_eq_none hbad halign hok)]
    refine ⟨_, rfl, lineStored_spadWrite _ ?_ ?_ _⟩
    · exact List.ne_nil_of_length_pos (by rw [length_le]; omega)
    · rw [length_le]
      exact inLine_of_aligned hn halign

/-- Settles O8. -/
theorem scalarFaultsAreRecorded : Obligations.ScalarFaultsAreRecorded := by
  unfold Obligations.ScalarFaultsAreRecorded
  refine ⟨?access, ?recorded⟩
  case access =>
    intro i s u rd ra imm n isStore hform hissue c a
    have faults {k : Nat} (hk : accessFault c ra imm n isStore = some k) : exec i s = .next (s.faultAt u c 0 k) := by
      cases isStore with
      | false =>
        obtain ⟨hload, hrd⟩ : loadForm i = some (u, rd, ra, imm, n) ∧ rd.val < 48 := hform
        rw [(exec_of_loadForm hload s).1, scalarLoad_of_fault hissue hrd hk]
      | true => rw [(exec_of_storeForm hform s).1, scalarStore_of_fault hissue hk]
    refine ⟨fun hbad => faults ?_, fun hbad halign => faults ?_, fun hbad halign hok => faults ?_⟩
    · simp [accessFault, hbad, causePoisonControl]
    · have halign : immAddr c ra imm % n ≠ 0 := halign
      simp [accessFault, hbad, Core.accessCause, halign, causeSpadAlign]
    · have halign : immAddr c ra imm % n = 0 := halign
      have hok : c.spadOk (immAddr c ra imm) n isStore = false := hok
      simp [accessFault, hbad, Core.accessCause, halign, hok, causeSpadBounds]
  case recorded =>
    intro s u c slot cause hcause hlogical hpc hslot
    refine ⟨_, ?_, ?_, ?_, ?_, ?_, rfl⟩ 
    all_goals simp only [getBits, BitVec.toNat_ofNat]; omega

end Sys2Proof.Proofs
end

section
namespace Sys2Proof.Proofs

open Sys2Proof Sys2Proof.Machine Sys2Proof.Claims

/-! ### Anchored reductions (R135 to R139) -/

/-- What a term adds to a register at an anchor: to its value and to its flags. -/
def termAdd (anc : Int) (p : Term × Bool) : AccWord × RedFlags :=
  ((addTerm (LongForm.start anc 0#8) p).v, (addTerm (LongForm.start anc 0#8) p).flags)

theorem addTerm_eq (l : LongForm) (p : Term × Bool) :
    addTerm l p = { l with v := l.v + (termAdd l.anc p).1, flags := l.flags ||| (termAdd l.anc p).2 } := by
  obtain ⟨t, bad⟩ := p
  cases t with
  | num m e =>
    by_cases null : m = 0 ∨ l.anc = ancNull
    · simp [termAdd, addTerm, accPoison, accTerm, accNum, LongForm.start, null]
    · simp [termAdd, addTerm, accPoison, accTerm, accNum, LongForm.start, null, BitVec.or_assoc]
      rfl
  | inf neg => simp [termAdd, addTerm, accPoison, accTerm, LongForm.start, BitVec.or_assoc]
  | nan => simp [termAdd, addTerm, accPoison, accTerm, LongForm.start, BitVec.or_assoc]

theorem addTerm_right_comm (l : LongForm) (p q : Term × Bool) : addTerm (addTerm l p) q = addTerm (addTerm l q) p := by
  simp only [addTerm_eq]
  rw [LongForm.mk.injEq]
  exact ⟨by ac_rfl, rfl, by ac_rfl⟩

/-- Settles O17: what a term adds depends on the anchor only, and sums and joins of flags may be taken in any order. -/
theorem reductionIsOrderFree : Obligations.ReductionIsOrderFree := by
  unfold Obligations.ReductionIsOrderFree
  intro l ts ts' h
  exact h.foldl_eq' (fun p _ q _ l => addTerm_right_comm l p q) l

/-- The anchor of a combination. -/
def ancJoin (a b : Int) : Int := if a = ancNull then b else if b = ancNull then a else max a b

/-- The flag that two anchors raise when they are combined. -/
def ancMix (a b : Int) : RedFlags := RedFlags.when (decide (a ≠ ancNull ∧ b ≠ ancNull ∧ a ≠ b)) RedFlags.amix

/-- The flags under which a value is zero (R138). -/
def voids (fl : RedFlags) : Bool := RedFlags.has fl (RedFlags.ovf ||| RedFlags.amix)

theorem voids_or (a b : RedFlags) : voids (a ||| b) = (voids a || voids b) := by
  have distrib (m : RedFlags) : (a ||| b) &&& m = a &&& m ||| b &&& m := by
    ext i
    simp [Bool.and_or_distrib_right]
  have join : (a ||| b) &&& (RedFlags.ovf ||| RedFlags.amix) ≠ 0#8 ↔
      a &&& (RedFlags.ovf ||| RedFlags.amix) ≠ 0#8 ∨ b &&& (RedFlags.ovf ||| RedFlags.amix) ≠ 0#8 := by
    rw [distrib, ne_eq, BitVec.or_eq_zero_iff]
    tauto
  rw [Bool.eq_iff_iff]
  simpa [voids, RedFlags.has] using join

theorem combine_anc (x y : LongForm) : (x.combine y).anc = ancJoin x.anc y.anc := rfl

theorem combine_flags (x y : LongForm) : (x.combine y).flags = x.flags ||| y.flags ||| ancMix x.anc y.anc := by
  by_cases h : x.anc ≠ ancNull ∧ y.anc ≠ ancNull ∧ x.anc ≠ y.anc
  · simp [LongForm.combine, ancMix, RedFlags.when, h]
  · simp [LongForm.combine, ancMix, RedFlags.when, h]

/-- A combination adds the values where their anchors are not null, except under a flag that makes it zero. -/
theorem combine_v {x y : LongForm} (hx : x.anc = ancNull → x.v = 0#136) (hy : y.anc = ancNull → y.v = 0#136) :
    (x.combine y).v = if voids (x.combine y).flags then 0#136 else x.v + y.v := by
  have sum : (if x.anc = ancNull then y.v else if y.anc = ancNull then x.v else x.v + y.v) = x.v + y.v := by
    split
    · simp_all
    · split
      · simp_all
      · rfl
  rw [← sum]
  rfl

theorem longForm_ext {x y : LongForm} (hv : x.v = y.v) (hanc : x.anc = y.anc) (hfl : x.flags = y.flags) : x = y := by
  obtain ⟨v, anc, fl⟩ := x
  obtain ⟨v', anc', fl'⟩ := y
  simp_all

theorem ancJoin_comm (a b : Int) : ancJoin a b = ancJoin b a := by
  unfold ancJoin
  grind

theorem ancJoin_assoc (a b c : Int) : ancJoin (ancJoin a b) c = ancJoin a (ancJoin b c) := by
  unfold ancJoin
  grind

theorem ancJoin_eq_null {a b : Int} (h : ancJoin a b = ancNull) : a = ancNull ∧ b = ancNull := by
  unfold ancJoin at h
  grind

theorem ancMix_comm (a b : Int) : ancMix a b = ancMix b a := by
  have same : (a ≠ ancNull ∧ b ≠ ancNull ∧ a ≠ b) ↔ (b ≠ ancNull ∧ a ≠ ancNull ∧ b ≠ a) := by tauto
  simp only [ancMix, same]

theorem ancMix_assoc (a b c : Int) : ancMix a b ||| ancMix (ancJoin a b) c = ancMix b c ||| ancMix a (ancJoin b c) := by
  unfold ancMix ancJoin RedFlags.when
  grind

theorem combine_comm {x y : LongForm} (hx : x.anc = ancNull → x.v = 0#136) (hy : y.anc = ancNull → y.v = 0#136) :
    x.combine y = y.combine x := by
  have flags : (x.combine y).flags = (y.combine x).flags := by
    rw [combine_flags, combine_flags, ancMix_comm, BitVec.or_comm x.flags]
  exact longForm_ext (by rw [combine_v hx hy, combine_v hy hx, flags, BitVec.add_comm]) (ancJoin_comm _ _) flags

/-- A flag that voids an inner combination voids the whole, so that the inner sums count only where none does. -/
theorem combine_assoc {x y z : LongForm} (hx : x.anc = ancNull → x.v = 0#136) (hy : y.anc = ancNull → y.v = 0#136)
    (hz : z.anc = ancNull → z.v = 0#136) : (x.combine y).combine z = x.combine (y.combine z) := by
  have null {x y : LongForm} (hx : x.anc = ancNull → x.v = 0#136) (hy : y.anc = ancNull → y.v = 0#136)
      (h : (x.combine y).anc = ancNull) : (x.combine y).v = 0#136 := by
    obtain ⟨nx, ny⟩ := ancJoin_eq_null h
    rw [combine_v hx hy, hx nx, hy ny]
    simp
  have flags : ((x.combine y).combine z).flags = (x.combine (y.combine z)).flags := by
    calc ((x.combine y).combine z).flags
        = (x.flags ||| y.flags ||| z.flags) ||| (ancMix x.anc y.anc ||| ancMix (ancJoin x.anc y.anc) z.anc) := by
          rw [combine_flags, combine_flags, combine_anc]
          ac_rfl
      _ = (x.flags ||| y.flags ||| z.flags) ||| (ancMix y.anc z.anc ||| ancMix x.anc (ancJoin y.anc z.anc)) := by
          rw [ancMix_assoc]
      _ = (x.combine (y.combine z)).flags := by
          rw [combine_flags, combine_flags, combine_anc]
          ac_rfl
  refine longForm_ext ?_ (ancJoin_assoc ..) flags
  have left : voids ((x.combine y).combine z).flags = false → voids (x.combine y).flags = false := by
    rw [combine_flags (x.combine y), voids_or, voids_or]
    simp_all
  have right : voids ((x.combine y).combine z).flags = false → voids (y.combine z).flags = false := by
    rw [flags, combine_flags x, voids_or, voids_or]
    simp_all
  rw [combine_v (null hx hy) hz, combine_v hx (null hy hz), ← flags, combine_v hx hy, combine_v hy hz]
  cases void : voids ((x.combine y).combine z).flags with
  | true => simp
  | false => simp [left void, right void, BitVec.add_assoc]

theorem reduce_eq_add (l : LongForm) (ts : List (Term × Bool)) :
    reduce l ts = { l with v := l.v + (reduce (LongForm.start l.anc 0#8) ts).v,
                           flags := l.flags ||| (reduce (LongForm.start l.anc 0#8) ts).flags } := by
  induction ts generalizing l with
  | nil => simp [reduce, LongForm.start]
  | cons p ts ih =>
    have step (l : LongForm) : reduce l (p :: ts) = reduce (addTerm l p) ts := rfl
    rw [step, step, ih (addTerm l p), ih (addTerm _ p)]
    simp only [addTerm_eq, LongForm.start, LongForm.mk.injEq, BitVec.zero_add, BitVec.zero_or, true_and]
    exact ⟨by ac_rfl, by ac_rfl⟩

theorem reduce_anc (l : LongForm) (ts : List (Term × Bool)) : (reduce l ts).anc = l.anc := by
  rw [reduce_eq_add]

/-- At a null anchor a reduction adds nothing. -/
theorem reduce_v_of_null (fl : RedFlags) (ts : List (Term × Bool)) : (reduce (LongForm.start ancNull fl) ts).v = 0#136 := by
  have add (p : Term × Bool) : (termAdd ancNull p).1 = 0#136 := by
    obtain ⟨t, bad⟩ := p
    cases t <;> simp [termAdd, addTerm, accPoison, accTerm, accNum, LongForm.start]
  induction ts generalizing fl with
  | nil => rfl
  | cons p ts ih =>
    have step : addTerm (LongForm.start ancNull fl) p = LongForm.start ancNull (fl ||| (termAdd ancNull p).2) := by
      rw [addTerm_eq]
      simp [LongForm.start, add]
    exact (congrArg (fun l => (reduce l ts).v) step).trans (ih _)

theorem reduce_append (l : LongForm) (ts us : List (Term × Bool)) : reduce l (ts ++ us) = reduce (reduce l ts) us :=
  List.foldl_append

theorem leave_eq (l : LongForm) : l.leave = { l with v := if voids l.flags ∨ l.anc = ancNull then 0#136 else l.v } := by
  by_cases h : voids l.flags = true ∨ l.anc = ancNull
  · rw [if_pos h]
    exact if_pos h
  · rw [if_neg h]
    exact if_neg h

/-- Settles O18. -/
theorem partialReductionsCombine : Obligations.PartialReductionsCombine := by
  unfold Obligations.PartialReductionsCombine
  refine ⟨fun x y z h => ⟨?comm, ?assoc⟩, fun anc fl ts us => ?split⟩
  case comm => exact combine_comm (h x (by simp)) (h y (by simp))
  case assoc => exact combine_assoc (h x (by simp)) (h y (by simp)) (h z (by simp))
  case split =>
    have null (ts : List (Term × Bool)) :
        (reduce (LongForm.start anc fl) ts).anc = ancNull → (reduce (LongForm.start anc fl) ts).v = 0#136 := by
      intro h
      obtain rfl : anc = ancNull := by simpa [reduce_anc, LongForm.start] using h
      exact reduce_v_of_null fl ts
    have whole : reduce (LongForm.start anc fl) (ts ++ us) =
        ⟨(reduce (LongForm.start anc fl) ts).v + (reduce (LongForm.start anc fl) us).v, anc,
          (reduce (LongForm.start anc fl) ts).flags ||| (reduce (LongForm.start anc fl) us).flags⟩ := by
      rw [reduce_append, reduce_eq_add (reduce _ ts), reduce_anc, reduce_eq_add (LongForm.start anc fl) us]
      have idem : fl ||| (reduce (LongForm.start anc fl) ts).flags = (reduce (LongForm.start anc fl) ts).flags := by
        rw [reduce_eq_add, ← BitVec.or_assoc]
        simp [LongForm.start]
      refine longForm_ext (by simp [LongForm.start]) rfl ?_
      show _ ||| _ = _ ||| (fl ||| _)
      rw [← BitVec.or_assoc, BitVec.or_comm _ fl, idem]
    have flags : ((reduce (LongForm.start anc fl) ts).combine (reduce (LongForm.start anc fl) us)).flags =
        (reduce (LongForm.start anc fl) ts).flags ||| (reduce (LongForm.start anc fl) us).flags := by
      rw [combine_flags, reduce_anc, reduce_anc]
      simp [ancMix, RedFlags.when]
    have hanc : ((reduce (LongForm.start anc fl) ts).combine (reduce (LongForm.start anc fl) us)).anc = anc := by
      rw [combine_anc, reduce_anc, reduce_anc]
      simp [ancJoin, LongForm.start]
    rw [whole, leave_eq]
    refine longForm_ext ?_ hanc flags
    rw [combine_v (null ts) (null us), flags]
    by_cases hnull : anc = ancNull
    · subst hnull
      simp [reduce_v_of_null]
    · simp [hnull]

/-! ### Votes (R446) -/

theorem combineVote_right_comm (x k k' : Vote) : combineVote (combineVote x k) k' = combineVote (combineVote x k') k := by
  have counts : min (min (x.nonfinite + k.nonfinite) 0xFFFFFFFF + k'.nonfinite) 0xFFFFFFFF =
      min (min (x.nonfinite + k'.nonfinite) 0xFFFFFFFF + k.nonfinite) 0xFFFFFFFF := by omega
  have words : x.status ||| k.status ||| k'.status = x.status ||| k'.status ||| k.status := by ac_rfl
  have digests : List.zipWith (fun a b => a ^^^ b) (List.zipWith (fun a b => a ^^^ b) x.digests k.digests) k'.digests =
      List.zipWith (fun a b => a ^^^ b) (List.zipWith (fun a b => a ^^^ b) x.digests k'.digests) k.digests := by
    refine List.ext_getElem (by simp [Nat.min_assoc, Nat.min_comm k.digests.length]) fun i _ _ => ?_
    simp only [List.getElem_zipWith]
    ac_rfl
  simp only [combineVote, counts, words, digests]

/-- Settles O32. -/
theorem votePayloadsCombineInAnyOrder : Obligations.VotePayloadsCombineInAnyOrder := by
  unfold Obligations.VotePayloadsCombineInAnyOrder
  intro x ks ks' h _
  exact h.foldl_eq' (fun k _ k' _ x => combineVote_right_comm x k k') x

/-! ### Window translation (R307) -/

theorem translateIn_of_none (isWrite : Bool) (va : Nat) (l : List (Nat × (Word64 × Word64)))
    (h : ∀ kv ∈ l, (winEntry kv.2).covers va = false) : translateIn isWrite va l = .error causeWindowMiss := by
  induction l with
  | nil => rfl
  | cons kv l ih =>
    rw [translateIn, if_neg (by simp [h kv]), ih fun q hq => h q (List.mem_cons_of_mem _ hq)]

theorem translateIn_append (isWrite : Bool) (va : Nat) (pre l : List (Nat × (Word64 × Word64)))
    (h : ∀ kv ∈ pre, (winEntry kv.2).covers va = false) : translateIn isWrite va (pre ++ l) = translateIn isWrite va l := by
  induction pre with
  | nil => rfl
  | cons kv pre ih =>
    rw [List.cons_append, translateIn, if_neg (by simp [h kv]), ih fun q hq => h q (List.mem_cons_of_mem _ hq)]

/-- Settles O36. -/
theorem firstCoveringWindowDecides : Obligations.FirstCoveringWindowDecides := by
  unfold Obligations.FirstCoveringWindowDecides
  intro s pen isWrite va hva
  rw [State.translate, Nat.mod_eq_of_lt hva]
  refine ⟨translateIn_of_none isWrite va _, fun pre kv post hactive hpre hcovers => ?_⟩
  rw [hactive, translateIn_append _ _ _ _ hpre, translateIn, if_pos hcovers]
  rfl

/-! ### Outcomes (R447) -/

theorem and_twoPow_ne_zero (w : Word64) (i : Nat) (h : i < 64) : decide (w &&& BitVec.twoPow 64 i ≠ 0#64) = w.getLsbD i := by
  rw [BitVec.and_twoPow]
  cases hb : w.getLsbD i
  · simp
  · simp only [if_true, decide_eq_true_eq]
    intro h0
    have := congrArg (fun v => v.getLsbD i) h0
    simp [h] at this

/-- Settles O31. -/
theorem outcomeIsTheFirstMatchingRow : Obligations.OutcomeIsTheFirstMatchingRow := by
  unfold Obligations.OutcomeIsTheFirstMatchingRow
  intro s pen j a v hjob hvoting s1
  have outcome : s.applyOutcome pen v = (
      if v.status.getLsbD 6 || j.aborting then
        if j.cause = 0 then (s1.drawNat 16).2.jobEnd pen (s1.drawNat 16).1 [] (some a) v.status
        else s1.jobEnd pen j.cause j.causeFields (some a) v.status
      else if v.status.getLsbD 4 then (s1.postBoth pen 326 a.step [ef a.step]).jobEnd pen 326 [] (some a) v.status
      else if v.status.getLsbD 3 || v.status.getLsbD 2 then s1.applyRewind pen a v
      else if v.status.getLsbD 0 || v.status.getLsbD 1 then s1.applySkip pen a v
      else s1.applyCap pen a v) := by
    have bit {m : Word64} (i : Nat) (h : i < 64) (hm : m = BitVec.twoPow 64 i) : decide (v.status &&& m ≠ 0#64) = v.status.getLsbD i :=
      hm ▸ and_twoPow_ne_zero v.status i h
    simp only [State.applyOutcome, hjob, hvoting, bit (m := stTerminal) 6 (by decide) rfl, bit (m := stPoison) 4 (by decide) rfl,
      bit (m := stFault) 3 (by decide) rfl, bit (m := stDigest) 2 (by decide) rfl, bit (m := stNonfinite) 0 (by decide) rfl,
      bit (m := stOverflow) 1 (by decide) rfl]
    rfl
  rw [outcome]
  refine ⟨fun h => ⟨fun hc => ?_, fun hc => ?_⟩, fun h6 ha => ⟨fun h4 => ?_, fun h4 => ⟨fun h32 => ?_, fun h3 h2 => ⟨fun h10 => ?_, fun h1 h0 => ?_⟩⟩⟩⟩
  · rw [if_pos (Bool.or_eq_true_iff.2 h), if_neg hc]
  · rw [if_pos (Bool.or_eq_true_iff.2 h), if_pos hc]
  · rw [if_neg (by simp only [h6, ha]; decide), if_pos h4]
  · rw [if_neg (by simp only [h6, ha]; decide), if_neg (by simp only [h4]; decide), if_pos (Bool.or_eq_true_iff.2 h32)]
  · rw [if_neg (by simp only [h6, ha]; decide), if_neg (by simp only [h4]; decide), if_neg (by simp only [h3, h2]; decide),
      if_pos (Bool.or_eq_true_iff.2 h10)]
  · rw [if_neg (by simp only [h6, ha]; decide), if_neg (by simp only [h4]; decide), if_neg (by simp only [h3, h2]; decide),
      if_neg (by simp only [h1, h0]; decide)]

end Sys2Proof.Proofs
end

section
namespace Sys2Proof.Proofs

open Sys2Proof Sys2Proof.Machine Sys2Proof.Claims

/-! ### Branches, loops and the end of a program (R239, R240, R265) -/

theorem condHolds_iff (k : BrCond) (a b : Word64) : condHolds k a b = true ↔ condOf k a b := by
  cases k <;> simp [condHolds, condOf, BitVec.slt, BitVec.ult]

theorem descCauseTier_eq_none {d : BitVec 512} {tier : Nat} (h : descCause d = none) (ht : (descOf d).tier = tier) :
    descCauseTier d tier = none := by
  simp [descCauseTier, h, ht]

theorem descCauseTier_ne_none {d : BitVec 512} {tier : Nat} (h : descCause d ≠ none ∨ (descOf d).tier ≠ tier) :
    descCauseTier d tier ≠ none := by
  cases hd : descCause d with
  | some c => simp [descCauseTier, hd]
  | none => simp_all [descCauseTier]

/-- Settles O9. -/
theorem controlFlowOfABundle : Obligations.ControlFlowOfABundle := by
  unfold Obligations.ControlFlowOfABundle
  refine ⟨?flow, ?loop⟩
  case flow =>
    intro s u target k ra rb
    refine ⟨fun h => ?_, fun h => ?_, fun h => ?_, fun h ha hb => ?_⟩
    · simp only [exec, execNop, slotControl, issue_of_mayIssue h, State.put]
    · simp only [exec, execEnd, slotControl, issue_of_mayIssue h, State.put]
    · simp only [exec, execBr, slotControl, issue_of_mayIssue h, State.put]
    · simp only [exec, execBc, slotControl, issue_of_mayIssue h, ha, hb, State.put, Bool.or_false, Bool.false_eq_true, if_false]
      exact ⟨fun taken => by rw [if_pos ((condHolds_iff ..).2 taken)], fun past => by rw [if_neg (mt (condHolds_iff ..).1 past)]⟩
  case loop =>
    intro s u d sd sb len h hlen hsd
    dsimp only
    intro hbad
    have hlen : (decide (len ≠ 0#16) && decide (sd.val < 48)) = true := by
      have : len ≠ 0#16 := fun e => by simp [e] at hlen
      simp [this, hsd]
    simp only [exec, execLbeg, slotControl, issueIf_of_mayIssue h hlen, hbad, State.put, Bool.false_eq_true, if_false]
    refine ⟨fun hd ht hx => ?_, fun hd ht hx => ?_, fun hd => ?_⟩
    · rw [if_neg (not_not.2 (descCauseTier_eq_none hd ht)), if_neg (Nat.pos_iff_ne_zero.1 hx)]
      exact ⟨_, rfl, rfl, scalarWritten_sSet _ hsd _ _⟩
    · rw [if_neg (not_not.2 (descCauseTier_eq_none hd ht)), if_pos hx]
    · rw [if_pos (descCauseTier_ne_none hd)]
      rfl

/-! ### Signals, waits and fences (R241, R242, R290) -/

theorem put_put {β : Type} (m : SMap β) (k : Nat) (v w : β) : (m.put k v).put k w = m.put k w := by
  induction m with
  | nil => simp [SMap.put]
  | cons a t ih =>
    obtain ⟨k', v'⟩ := a
    by_cases lt : k < k'
    · simp [SMap.put, lt]
    · by_cases eq : k = k'
      · simp [SMap.put, eq]
      · simp [SMap.put, lt, eq, ih]

/-- A write is undone by a second one at its key, unless it erased the key. -/
theorem set_set {β : Type} [DecidableEq β] (d : Nat → β) (m : SMap β) (k : Nat) {v : β} (w : β) (h : v ≠ d k) : SMap.set d (SMap.set d m k v) k w = SMap.set d m k w := by
  have erase_put : (m.put k v).erase k = m.erase k := by
    induction m with
    | nil => simp [SMap.put, SMap.erase]
    | cons a t ih =>
      obtain ⟨k', v'⟩ := a
      by_cases lt : k < k'
      · simp [SMap.put, SMap.erase, lt]
      · by_cases eq : k = k'
        · simp [SMap.put, SMap.erase, eq]
        · simp [SMap.put, SMap.erase, lt, eq, Ne.symm eq, ih]
  rw [SMap.set, SMap.set, SMap.set, if_neg h, erase_put, put_put]

theorem setCore_setCore (s : State) (k : Nat) {c : Core} (c' : Core) (h : c ≠ {}) : (s.setCore k c).setCore k c' = s.setCore k c' := by
  have cores : SMap.set (fun _ => {}) (SMap.set (fun _ => {}) s.cores k c) k c' = SMap.set (fun _ => {}) s.cores k c' := set_set _ _ _ _ h
  simp only [State.setCore, cores]

theorem advanceAux_run (n : Nat) (c : Core) : (Core.advanceAux n c).run = c.run := by
  induction n generalizing c with
  | zero => rfl
  | succ n ih =>
    unfold Core.advanceAux
    split
    · rfl
    · split
      · split
        · rfl
        · exact ih _
      · rfl

theorem begin_run (c : Core) (slot : Nat) : (c.begin slot).run = c.run := by
  by_cases later : c.slot < slot
  · simp [Core.begin, later]
  · simp [Core.begin, later, Core.advance, advanceAux_run]

/-- A core that issues is running, or ending with later slots of its last bundle to issue. -/
theorem run_of_issues {i : Instr} {s : State} {u : CoreRef} {slot : Nat} (h : Issues i s u slot) :
    (found s u slot).run = .running ∨ (found s u slot).run = .ending := by
  have can : s.canIssue u slot = true := (Bool.and_eq_true_iff.1 h).1
  simp only [State.canIssue, Bool.and_eq_true, Bool.or_eq_true, decide_eq_true_eq] at can
  rw [found, begin_run]
  exact can.1.2.imp_right (·.1)

theorem sum_setWidth (x : Word64) (imm : BitVec 32) : (x + sext64 imm).setWidth 32 = BitVec.ofNat 32 (x.toNat + imm.toNat) := by
  have low : (sext64 imm).setWidth 32 = imm := by
    ext i hi
    simp [sext64, BitVec.getElem_signExtend, hi, show i < 64 by omega]
  rw [BitVec.setWidth_add _ _ (by omega), low, BitVec.ofNat_add, BitVec.ofNat_toNat, BitVec.ofNat_toNat, BitVec.setWidth_eq]

theorem passGate_of_ne {s : State} {u : CoreRef} {ctr : Nat} (h : ctr ≠ (s.jobD u.pen).plan.gateCtr) (isEq : Bool) :
    s.passGate u ctr isEq = s := by
  rw [State.passGate, if_neg (by simp [h])]

theorem waitHolds_ge {c : Core} {ctr : Nat} {val : Word32} : c.waitHolds ctr false val = true ↔ val.toNat ≤ (c.counter ctr).toNat := by
  simp [Core.waitHolds]

theorem waitHolds_eq {c : Core} {ctr n : Nat} :
    c.waitHolds ctr true (BitVec.ofNat 32 n) = true ↔ n % 2 ^ 32 = (c.counter ctr).toNat := by
  simp [Core.waitHolds, ← BitVec.toNat_inj, eq_comm]

/-- A signal of a core to itself changes its counter only, while its program has not ended. -/
theorem applySignal_self {i : Instr} {s : State} {u : CoreRef} {slot : Nat} (h : Issues i s u slot) (ctr : Nat) (add : Word32) :
    (s.setCore (refKey u) (found s u slot)).applySignal u.pen u.logical ctr add = s.setCore (refKey u) { found s u slot with
      ctr := SMap.set (fun _ => 0#32) (found s u slot).ctr ctr ((found s u slot).counter ctr + add) } := by
  have run : (found s u slot).run ≠ .ended ∧ (found s u slot).run ≠ .idle := by
    rcases run_of_issues h with run | run <;> simp [run]
  have notBlank : found s u slot ≠ {} := fun e => run.2 (by rw [e])
  rw [State.applySignal, State.onCore, ← refKey, State.core_setCore_self, setCore_setCore _ _ _ notBlank, if_neg run.1]
  rfl

/-- Settles O10. -/
theorem signalsWaitsAndFences : Obligations.SignalsWaitsAndFences := by
  unfold Obligations.SignalsWaitsAndFences
  refine ⟨?signal, ?wait⟩
  case signal =>
    intro s u self ctr rt imm h
    dsimp only
    intro hrt
    have hrt : (!self && (found s u 0).rf0.sBad rt) = false := by
      obtain rfl | hrt := hrt
      · rfl
      · simp [hrt]
    simp only [exec, execSigAdd, slotControl, issue_of_mayIssue h, hrt, Bool.false_eq_true, if_false]
    generalize (if self = true then u.logical else ((found s u 0).rf0.sGet rt).toNat) = t
    refine ⟨fun ok granted => ?_, fun no => ?_⟩
    · rw [if_neg (by simp [ok, granted])]
      refine ⟨fun self => ?_, fun other => ?_⟩
      · rw [if_pos self]
        rw [self, State.put, applySignal_self h]
        refine ⟨_, rfl, rfl, fun k => ?_⟩
        by_cases hk : k = ctr.toNat
        · simp [Core.counter, hk]
        · simp [Core.counter, hk, SMap.get_set_ne]
      · rw [if_neg other]
        rfl
    · rw [if_pos (by rcases no with no | no <;> simp [no])]
      rfl
  case wait =>
    intro s u ctr ra imm hgate
    dsimp only
    have gate (c : Core) (isEq : Bool) : (s.setCore (refKey u) c).passGate u ctr.toNat isEq = s.setCore (refKey u) c :=
      passGate_of_ne (s := s.setCore (refKey u) c) hgate isEq
    refine ⟨fun h hra => ?_, fun h hra => ?_, fun h => ?_, fun hu hturn hheld => ⟨fun v isEq hrun hold => ?_, fun hrun hold => ?_⟩⟩
    · simp only [exec, execWaitGe, waitOn, slotControl, issue_of_mayIssue h, hra, Bool.false_eq_true, if_false, State.put, gate, sum_setWidth,
        waitHolds_ge, BitVec.toNat_ofNat, apply_ite (s.setCore (refKey u))]
    · simp only [exec, execWaitEq, waitOn, slotControl, issue_of_mayIssue h, hra, Bool.false_eq_true, if_false, State.put, gate, sum_setWidth,
        waitHolds_eq, apply_ite (s.setCore (refKey u))]
    · simp only [exec, execSyncFence, slotControl, issue_of_mayIssue h, State.put, apply_ite (s.setCore (refKey u))]
    · have hold : (s.core (refKey u)).waitHolds ctr.toNat isEq v = true := by
        cases isEq
        · exact waitHolds_ge.2 hold
        · exact decide_eq_true hold
      simp only [exec, execWaitRelease, hrun, whenOk, slotControl, hu, hturn, hold, hheld, State.put, gate]
      rfl
    · simp only [exec, execFenceRelease, whenOk, slotControl, hu, hturn, hrun, hold, hheld]
      rfl

theorem withClk_frame (c : Core) (t : Word64) (k : Nat) :
    c.withClk t k = { c with seqStall := (c.withClk t k).seqStall, seqWait := (c.withClk t k).seqWait, movStall := (c.withClk t k).movStall } := by
  simp only [Core.withClk]
  split
  · rfl
  · split
    · rfl
    · split <;> rfl

/-- Settles O11. -/
theorem controlRegisterAccess : Obligations.ControlRegisterAccess := by
  unfold Obligations.ControlRegisterAccess
  intro s u rd ra csr
  dsimp only
  refine ⟨fun h known hrd => ⟨fun time => ?_, fun time => ?_⟩, fun h known hra => ?_, fun h hra => ⟨fun k => ?_, fun k => ?_⟩,
    fun hu hrun hmov hmx => ?_⟩
  · have ok : (csrKnown csr.toNat && decide (rd.val < 48)) = true := by simp [known, hrd]
    have clk : (found s u 0).withClk 0#64 csr.toNat = found s u 0 := by
      simp only [csrIsTime, Bool.or_eq_false_iff, decide_eq_false_iff_not] at time
      simp [Core.withClk, time]
    simp only [exec, execCsrr, slotControl, issueIf_of_mayIssue h ok, time, Bool.false_eq_true, if_false, clk, State.put]
    exact ⟨_, rfl, scalarWritten_sSet _ hrd _ _⟩
  · have ok : (csrKnown csr.toNat && decide (rd.val < 48)) = true := by simp [known, hrd]
    simp only [exec, execCsrr, slotControl, issueIf_of_mayIssue h ok, time, if_true, State.draw, State.put]
    exact ⟨withClk_frame _ _ _, _, rfl, scalarWritten_sSet _ hrd _ _⟩
  · simp only [exec, execCsrw, slotControl, issueIf_of_mayIssue h known, hra, Bool.false_eq_true, if_false, State.put]
  · have ok : (decide (csr.toNat = 2) || decide (csr.toNat = 0x100)) = true := by simp [k]
    simp only [exec, execCsrc, slotControl, issueIf_of_mayIssue h ok, hra, Bool.false_eq_true, if_false, State.put, if_pos k]
  · have ok : (decide (csr.toNat = 2) || decide (csr.toNat = 0x100)) = true := by simp [k]
    have bits (x : Word64) : BitVec.ofNat 8 (getBits x 8 8) = (x >>> 8).setWidth 8 := by
      apply BitVec.eq_of_toNat_eq
      simp [getBits, Nat.shiftRight_eq_div_pow]
    simp only [exec, execCsrc, slotControl, issueIf_of_mayIssue h ok, hra, Bool.false_eq_true, if_false, State.put, bits,
      if_neg (by omega : ¬ csr.toNat = 2)]
  · simp only [exec, execCoreEnded, whenOk, hu, hrun, hmov, hmx, State.put]
    rfl

end Sys2Proof.Proofs
end

section
namespace Sys2Proof.Proofs

open Sys2Proof Sys2Proof.Machine Sys2Proof.Claims

/-! ### Runs of bytes in the scratchpad -/

/-- Bytes were stored from an address on: they hold there, and every other byte and everything but the scratchpad keep. -/
structure SpadStored (c c' : Core) (a : Nat) (bs : List Byte) : Prop where
  only : SpadOnly c c'
  inside : ∀ i, i < bs.length → c'.spadByte (a + i) = bs.getD i 0#8
  outside : ∀ x, x < a ∨ a + bs.length ≤ x → c'.spadByte x = c.spadByte x

theorem spadOnly_refl (c : Core) : SpadOnly c c := rfl

theorem spadOnly_trans {c c₁ c₂ : Core} (h₁ : SpadOnly c c₁) (h₂ : SpadOnly c₁ c₂) : SpadOnly c c₂ := by
  unfold SpadOnly at *
  rw [h₁] at h₂
  exact h₂

theorem spadOnly_mx {c c' : Core} (h : SpadOnly c c') : c'.mx = c.mx := by
  unfold SpadOnly at h
  rw [h]

theorem spadStored_nil (c : Core) (a : Nat) : SpadStored c c a [] :=
  ⟨spadOnly_refl c, fun i h => absurd h (by simp), fun _ _ => rfl⟩

theorem SpadStored.append {c c₁ c₂ : Core} {a : Nat} {bs bs' : List Byte} (h₁ : SpadStored c c₁ a bs)
    (h₂ : SpadStored c₁ c₂ (a + bs.length) bs') : SpadStored c c₂ a (bs ++ bs') := by
  refine ⟨spadOnly_trans h₁.only h₂.only, fun i hi => ?_, fun x hx => ?_⟩
  · by_cases first : i < bs.length
    · rw [h₂.outside _ (.inl (by omega)), h₁.inside i first, List.getD_append _ _ _ _ first]
    · rw [List.length_append] at hi
      rw [show a + i = a + bs.length + (i - bs.length) by omega, h₂.inside _ (by omega), List.getD_append_right _ _ _ _ (by omega)]
  · rw [List.length_append] at hx
    rw [h₂.outside x (by omega), h₁.outside x (by omega)]

theorem SpadStored.read {c c' : Core} {a : Nat} {bs : List Byte} (h : SpadStored c c' a bs) {i n : Nat} (hi : i + n ≤ bs.length) :
    c'.spadRead (a + i) n = slice bs i n := by
  have cut : slice bs i n = (bs.drop i).take n := by
    rw [slice, fit, List.take_append_of_le_length (by rw [List.length_drop]; omega)]
  rw [cut]
  refine List.ext_getElem (by simp [Core.spadRead]; omega) fun k hk _ => ?_
  have hk : k < n := by simpa [Core.spadRead] using hk
  simp only [Core.spadRead, List.getElem_map, List.getElem_range, List.getElem_take, List.getElem_drop]
  rw [Nat.add_assoc, h.inside _ (by omega), List.getD_eq_getElem _ _ (by omega)]

theorem spadStored_spadWriteLine (c : Core) (a : Nat) (bs : List Byte) (bad : Bool) (tag : Option FaultTag) :
    SpadStored c (c.spadWriteLine a bs bad tag) a bs :=
  ⟨rfl, fun _ hi => get_setList_in _ _ _ _ hi, fun _ hx => get_setList_out _ _ _ hx⟩

theorem spadStored_spadWriteAux (bad : Bool) (tag : Option FaultTag) (n : Nat) (c : Core) (a : Nat) (bs : List Byte)
    (h : bs.length ≠ 0 → a % 64 + bs.length ≤ 64 * n) : SpadStored c (Core.spadWriteAux bad tag n c a bs) a bs := by
  induction n generalizing c a bs with
  | zero =>
    obtain rfl : bs = [] := List.length_eq_zero_iff.1 (by by_contra some; have := h some; omega)
    exact spadStored_nil c a
  | succ n ih =>
    by_cases done : bs = []
    · subst done
      exact spadStored_nil c a
    · rw [Core.spadWriteAux, if_neg (by simpa using done)]
      have rest := ih (c.spadWriteLine a (bs.take (64 - a % 64)) bad tag) (a + (bs.take (64 - a % 64)).length) (bs.drop (64 - a % 64))
        (by
          simp only [List.length_take, List.length_drop]
          rcases Nat.le_total bs.length (64 - a % 64) with short | long
          · omega
          · rw [Nat.min_eq_left long]
            omega)
      have whole := (spadStored_spadWriteLine c a (bs.take (64 - a % 64)) bad tag).append rest
      rwa [List.take_append_drop] at whole

theorem spadStored_spadWrite (c : Core) (a : Nat) (bs : List Byte) (bad : Bool) (tag : Option FaultTag) :
    SpadStored c (c.spadWrite a bs bad tag) a bs :=
  spadStored_spadWriteAux bad tag _ c a bs (by omega)

theorem spadStored_writeMarkedAux (n : Nat) (c : Core) (a : Nat) (bs : List (Byte × Bool)) (h : bs.length ≠ 0 → a % 64 + bs.length ≤ 64 * n) :
    SpadStored c (Core.writeMarkedAux n c a bs) a (bs.map Prod.fst) := by
  induction n generalizing c a bs with
  | zero =>
    obtain rfl : bs = [] := List.length_eq_zero_iff.1 (by by_contra some; have := h some; omega)
    exact spadStored_nil c a
  | succ n ih =>
    by_cases done : bs = []
    · subst done
      exact spadStored_nil c a
    · rw [Core.writeMarkedAux, if_neg (by simpa using done)]
      have len : (bs.take (64 - a % 64)).length = min (64 - a % 64) bs.length := List.length_take
      have rest := ih (c.spadWrite a ((bs.take (64 - a % 64)).map Prod.fst) ((bs.take (64 - a % 64)).any Prod.snd))
        (a + (bs.take (64 - a % 64)).length) (bs.drop (bs.take (64 - a % 64)).length)
        (by
          simp only [List.length_take, List.length_drop]
          rcases Nat.le_total bs.length (64 - a % 64) with short | long
          · omega
          · rw [Nat.min_eq_left long]
            omega)
      have piece := spadStored_spadWrite c a ((bs.take (64 - a % 64)).map Prod.fst) ((bs.take (64 - a % 64)).any Prod.snd) none
      have whole := piece.append (by rwa [List.length_map])
      have cut : bs.drop (bs.take (64 - a % 64)).length = bs.drop (64 - a % 64) := by
        rcases Nat.le_total bs.length (64 - a % 64) with short | long
        · rw [List.drop_of_length_le short, List.take_of_length_le short, List.drop_length]
        · rw [List.length_take, Nat.min_eq_left long]
      rw [← List.map_append, cut, List.take_append_drop] at whole
      dsimp only
      rwa [cut]

theorem spadStored_writeMarked (c : Core) (a : Nat) (bs : List (Byte × Bool)) :
    SpadStored c (c.writeMarked a bs) a (bs.map Prod.fst) :=
  spadStored_writeMarkedAux _ c a bs (by omega)

/-! ### The matrix slot (R163 to R176) -/

theorem get_elemTable (f : Nat → LongForm) (l : List Nat) (k : Nat) :
    SMap.get (fun _ => LongForm.null) (elemTable (l.map (fun i => (i, f i)))) k = if k ∈ l then f k else LongForm.null := by
  induction l with
  | nil => rfl
  | cons i l ih =>
    have step : elemTable ((i :: l).map (fun i => (i, f i))) =
        if f i = LongForm.null then elemTable (l.map (fun i => (i, f i))) else (i, f i) :: elemTable (l.map (fun i => (i, f i))) := by
      by_cases blank : f i = LongForm.null <;> simp [elemTable, blank]
    rw [step]
    by_cases blank : f i = LongForm.null
    · rw [if_pos blank, ih]
      by_cases hk : k = i
      · subst hk
        simp [blank]
      · simp [hk]
    · rw [if_neg blank]
      by_cases hk : k = i
      · subst hk
        simp [SMap.get, SMap.find]
      · simpa [SMap.get, SMap.find, hk, Ne.symm hk] using ih

theorem elem_mapElems (t : Tile) {n ix : Nat} (h : ix < n) (f : Nat → LongForm → LongForm) :
    (t.mapElems n f).elem ix = f ix (t.elem ix) := by
  rw [Tile.mapElems, Tile.elem, get_elemTable (fun i => f i (t.elem i)), if_pos (List.mem_range.2 h)]

/-- Settles O20. -/
theorem tileAccumulatesItsTerms : Obligations.TileAccumulatesItsTerms := by
  unfold Obligations.TileAccumulatesItsTerms
  intro c l t r ix hix
  rw [Core.addSlices, elem_mapElems _ hix, reduce, List.foldl_map]

/-- A matrix instruction enters a queue with its command: its poisoned sources, its entry, and the condition that holds it. -/
structure Enqueues (i : Instr) (q : QueueForm) (s : State) : Prop where
  exec_eq : exec i s = mxEnqueue i q.legal q.u s (fun r => q.srcs.any r.sBad)
  array : ∀ c, arrayCmd c i = if q.toDrain then none else some (q.cmd c)
  drain : ∀ c, drainQCmd c i = if q.toDrain then some (q.cmd c) else none
  held : ∀ c, c.unitHeld i = (((arrayCmd c i).isSome && decide (4 ≤ c.mx.arrayQ.length)) ||
    ((drainQCmd c i).isSome && decide (4 ≤ c.mx.drainQ.length)))

theorem any_regs (r : RegFile) (x : Option SReg) : (regs? x).any r.sBad = optBad r x := by
  cases x <;> simp [regs?, optBad]

theorem enqueues_of_queueForm {i : Instr} {q : QueueForm} {s : State} (h : queueForm s i = some q) : Enqueues i q s := by
  unfold queueForm at h
  split at h <;> cases h
  case h_1 | h_2 | h_3 | h_4 | h_5 | h_6 | h_8 | h_9 | h_11 | h_12 =>
    refine ⟨?_, fun _ => rfl, fun _ => rfl, fun _ => rfl⟩
    simp [exec, execMtile, execMtileFirst, execMtileFirstSwap, execMtileX3, execMtileX3First, execMtileX3FirstSwap, mxTile,
      execMloadLf, execMloadWlf, execMdrainLf, execMdrainWlf]
  case h_7 =>
    refine ⟨?_, fun _ => rfl, fun _ => rfl, fun _ => rfl⟩
    simp [exec, execMswap]
  case h_10 =>
    refine ⟨?_, fun _ => rfl, fun _ => rfl, fun _ => rfl⟩
    simp [exec, execMdrain, any_regs, Bool.or_assoc]
  case h_13 rsumEn _ _ _ _ _ _ _ _ _ _ =>
    refine ⟨?_, fun _ => rfl, fun _ => rfl, fun _ => rfl⟩
    cases rsumEn <;> simp [exec, execMchain, List.range_succ, Bool.or_assoc]

/-- An instruction whose queue is full is interlocked. -/
theorem not_ready_of_unitHeld {s : State} {i : Instr} {u : CoreRef} {slot : Nat} (h : (found s u slot).unitHeld i = true) :
    s.ready i u slot = false := by
  have h : ((s.core (refKey u)).begin slot).unitHeld i = true := h
  simp [State.ready, Core.interlocked, h]

theorem enqueue_eq {c : Core} {i : Instr} {q : QueueForm} {s : State} (h : Enqueues i q s) :
    { c with mx := c.mx.enqueue (entriesOf (arrayCmd c i) c.pc) (entriesOf (drainQCmd c i) c.pc) } =
      enqueued c q.toDrain { cmd := q.cmd c, bundle := c.pc } := by
  rw [h.array, h.drain]
  cases q.toDrain <;> simp [enqueued, Mx.enqueue, entriesOf]

theorem unitHeld_of_full {c : Core} {i : Instr} {q : QueueForm} {s : State} (h : Enqueues i q s)
    (full : 4 ≤ if q.toDrain then c.mx.drainQ.length else c.mx.arrayQ.length) : c.unitHeld i = true := by
  rw [h.held, h.array, h.drain]
  cases hd : q.toDrain <;> simp_all

/-- Settles O19. -/
theorem matrixInstructionsTakeEffect : Obligations.MatrixInstructionsTakeEffect := by
  unfold Obligations.MatrixInstructionsTakeEffect
  refine ⟨?latches, ?queues⟩
  case latches =>
    intro s u spec vr fa fb hspec
    refine ⟨fun pair h => ?_, fun fmt h => ?_⟩
    · have ok : (decide (48 ≤ spec.val) && mancPair fa fb) = true := by simp [hspec, pair]
      simp only [exec, execManc, slotMatrix, issueIf_of_mayIssue h ok, State.put, latchOf]
      exact ⟨fun fits => by simp only [fits, Bool.false_eq_true, if_false], fun out => by simp only [out, if_true, causeAnchorRange]⟩
    · have ok : (decide (48 ≤ spec.val) && (mxFloat fb || decide (fb = .int8))) = true := by simp [hspec, fmt]
      simp only [exec, execMancChain, slotMatrix, issueIf_of_mayIssue h ok, State.put, latchOf]
      exact ⟨fun fits => by simp only [fits, Bool.false_eq_true, if_false], fun out => by simp only [out, if_true, causeAnchorRange]⟩
  case queues =>
    intro i s q hq hlegal
    have enters := enqueues_of_queueForm hq
    rw [enters.exec_eq]
    refine ⟨fun h good => ?_, fun h bad => ?_, fun can full => ?_⟩
    · simp only [mxEnqueue, slotMatrix, issueIf_of_mayIssue h hlegal, good, Bool.false_eq_true, if_false, enqueue_eq enters, State.put]
    · simp only [mxEnqueue, slotMatrix, issueIf_of_mayIssue h hlegal, bad, if_true, causePoisonControl]
    · have waits := not_ready_of_unitHeld (unitHeld_of_full enters full)
      rw [mxEnqueue, State.issueIf, if_pos hlegal, slotMatrix, issue_of_not_ready can waits]

theorem rerunTime_eq (t : Tile) : t.rerunTime = (t.recs.map (fun r => r.n * (if r.x3 then 768 else 256))).sum := by
  rw [List.sum_eq_foldl, List.foldl_map, Tile.rerunTime]

theorem length_leBytes (n k : Nat) : (leBytes n k).length = k := by
  induction k generalizing n with
  | zero => rfl
  | succ k ih => rw [leBytes, List.length_cons, ih]

theorem length_bytes (l : LongForm) : l.bytes.length = 20 := by
  simp [LongForm.bytes, length_leBytes]

theorem sumBytes_bytes (ls : List LongForm) : (sumBytes ls).map Prod.fst = ls.flatMap (fun l => LongForm.bytes l.leave) := by
  simp only [sumBytes, List.map_flatMap, List.map_map, Function.comp_def, List.map_id']

theorem length_flatMap_bytes {α : Type} (g : α → List Byte) (z : Nat) (hg : ∀ x, (g x).length = z) (l : List α) :
    (l.flatMap g).length = z * l.length := by
  induction l with
  | nil => rfl
  | cons x l ih =>
    rw [List.flatMap_cons, List.length_append, hg, ih, List.length_cons, Nat.mul_succ, Nat.add_comm]

/-- A list of records of one size is read record by record. -/
theorem slice_flatMap {α : Type} (g : α → List Byte) (z : Nat) (hg : ∀ x, (g x).length = z) (l : List α) (d : α) {i : Nat}
    (hi : i < l.length) : slice (l.flatMap g) (z * i) z = g (l.getD i d) := by
  have before : l = l.take i ++ [l.getD i d] ++ l.drop (i + 1) := by
    rw [List.getD_eq_getElem _ _ hi, List.take_append_getElem hi, List.take_append_drop]
  have split : l.flatMap g = (l.take i).flatMap g ++ g (l.getD i d) ++ (l.drop (i + 1)).flatMap g := by
    rw [congrArg (List.flatMap g) before, List.flatMap_append, List.flatMap_append, List.flatMap_singleton]
  rw [split, slice_append _ (hg _)]
  rw [length_flatMap_bytes g z hg, List.length_take, Nat.min_eq_left (by omega)]

/-- Settles O21. -/
theorem matrixEngineEvents : Obligations.MatrixEngineEvents := by
  unfold Obligations.MatrixEngineEvents
  intro s u
  dsimp only
  intro runs
  refine ⟨fun t hp hs hr hw => ?_, fun t done hp hs hd => ?_, fun hd => ?_, fun sums hc => ?_, fun a sums hc hlen => ?_⟩
  · simp only [exec, execStrictRerun, hp, whenOk, runs, hs, hr, hw, rerunTime_eq, State.put]
    rfl
  · have may : (done || !((s.core (refKey u)).cfg.strict && t.rounded)) = true := by
      rcases hd with hd | hd | hd <;> simp [hd]
    simp only [exec, execTilePass, hp, whenOk, runs, hs, may, State.put]
    rfl
  · simp only [exec, execDrainComplete, whenOk, runs, hd, State.put]
    rfl
  · simp only [exec, execChainEnd, hc, whenOk, runs, State.put]
    rfl
  · have stored := spadStored_writeMarked (s.core (refKey u)) a (sumBytes sums)
    rw [sumBytes_bytes] at stored
    have len : (sums.flatMap (fun l => LongForm.bytes l.leave)).length = 20 * 128 := by
      rw [length_flatMap_bytes _ 20 (fun l => length_bytes _), hlen]
    refine ⟨_, stored.only, fun x hx => stored.outside x (by omega), fun i hi => ?_, ?_⟩
    · rw [stored.read (by omega), slice_flatMap _ 20 (fun l => length_bytes _) sums LongForm.null (by omega)]
    · have kept : { (s.core (refKey u)).writeMarked a (sumBytes sums) with
          mx := { ((s.core (refKey u)).writeMarked a (sumBytes sums)).mx with chain := none } } =
          { (s.core (refKey u)).writeMarked a (sumBytes sums) with mx := { (s.core (refKey u)).mx with chain := none } } := by
        have : ((s.core (refKey u)).writeMarked a (sumBytes sums)).mx = (s.core (refKey u)).mx := spadOnly_mx stored.only
        rw [this]
      simp only [exec, execChainEnd, hc, whenOk, runs, Core.writeOpt, kept, State.put]
      rfl

end Sys2Proof.Proofs
end

section
namespace Sys2Proof.Proofs

open Sys2Proof Sys2Proof.Machine Sys2Proof.Claims

/-! ### Words of lanes and elements -/

/-- A number put together from digits of a base. -/
def digits (B : Nat) (ds : List Nat) : Nat := ds.foldr (fun d n => d + B * n) 0

theorem digits_lt {B : Nat} {ds : List Nat} (h : ∀ d ∈ ds, d < B) : digits B ds < B ^ ds.length := by
  induction ds with
  | nil => simp [digits]
  | cons d ds ih =>
    have rest := ih fun x hx => h x (List.mem_cons_of_mem _ hx)
    have first := h d List.mem_cons_self
    have : digits B (d :: ds) = d + B * digits B ds := rfl
    rw [this, List.length_cons, Nat.pow_succ]
    calc d + B * digits B ds < B + B * digits B ds := by omega
      _ = B * (digits B ds + 1) := by ring
      _ ≤ B * B ^ ds.length := Nat.mul_le_mul_left _ rest
      _ = B ^ ds.length * B := Nat.mul_comm ..

theorem digit_digits {B : Nat} {ds : List Nat} (h : ∀ d ∈ ds, d < B) (i : Nat) : digits B ds / B ^ i % B = ds.getD i 0 := by
  induction ds generalizing i with
  | nil => simp [digits]
  | cons d ds ih =>
    have first := h d List.mem_cons_self
    have split : digits B (d :: ds) = d + B * digits B ds := rfl
    cases i with
    | zero => rw [split, Nat.pow_zero, Nat.div_one, Nat.add_mul_mod_self_left, Nat.mod_eq_of_lt first, List.getD_cons_zero]
    | succ i =>
      have first_div : (d + B * digits B ds) / B = digits B ds := by
        rw [Nat.add_mul_div_left _ _ (Nat.zero_lt_of_lt first), Nat.div_eq_of_lt first, Nat.zero_add]
      rw [split, Nat.pow_succ', ← Nat.div_div_eq_div_mul, first_div, List.getD_cons_succ, ih fun x hx => h x (List.mem_cons_of_mem _ hx)]

/-- A vector word put together from digits of `2 ^ b`. -/
theorem toNat_digits (b : Nat) {ds : List Nat} (h : ∀ d ∈ ds, d < 2 ^ b) (hlen : b * ds.length = 4096) :
    (BitVec.ofNat 4096 (digits (2 ^ b) ds)).toNat = digits (2 ^ b) ds := by
  have small := digits_lt h
  rw [← Nat.pow_mul, hlen] at small
  rw [BitVec.toNat_ofNat, Nat.mod_eq_of_lt small]

theorem fmtBits_cases (f : Fmt) : fmtBits f = 8 ∨ fmtBits f = 16 ∨ fmtBits f = 32 := by
  cases f <;> simp [fmtBits, fmtSize]

theorem laneOf_lt {f : Fmt} {i : Nat} (h : i < fmtElems f) : laneOf f i < 128 := by
  unfold laneOf fmtElems at *
  rcases fmtBits_cases f with hb | hb | hb <;> rw [hb] at h ⊢ <;> omega

/-- The 32 bits of a lane. -/
def laneWord (x : VecWord) (l : Nat) : Nat := x.toNat / 2 ^ (32 * l) % 2 ^ 32

theorem field_of_word (n k : Nat) {r b w : Nat} (h : r + b ≤ w) : n / 2 ^ (k + r) % 2 ^ b = n / 2 ^ k % 2 ^ w / 2 ^ r % 2 ^ b := by
  refine Nat.eq_of_testBit_eq fun i => ?_
  simp only [Nat.testBit_mod_two_pow, Nat.testBit_div_two_pow]
  by_cases hi : i < b
  · have : i + r < w := by omega
    have places : i + r + k = i + (k + r) := by omega
    simp [hi, this, places]
  · simp [hi]

/-- An element lies in its lane. -/
theorem elemGet_eq_laneWord (f : Fmt) (x : VecWord) (i : Nat) :
    elemGet f x i = BitVec.ofNat 32 (laneWord x (laneOf f i) / 2 ^ (fmtBits f * i % 32) % 2 ^ fmtBits f) := by
  have place : fmtBits f * i = 32 * laneOf f i + fmtBits f * i % 32 := by
    rw [laneOf, Nat.mul_comm i]
    omega
  have fits : fmtBits f * i % 32 + fmtBits f ≤ 32 := by
    rcases fmtBits_cases f with hb | hb | hb <;> rw [hb] <;> omega
  rw [elemGet, laneWord, ← field_of_word _ _ fits, ← place]

theorem laneWord_mergeLanes (act : BitVec 128) (new old : VecWord) {l : Nat} (h : l < 128) :
    laneWord (mergeLanes act new old) l = if act.getLsbD l then laneWord new l else laneWord old l := by
  have eq : mergeLanes act new old = BitVec.ofNat 4096 (digits (2 ^ 32) ((List.range 128).map (fun l =>
      laneWord (if act.getLsbD l then new else old) l))) := by
    rw [digits, List.foldr_map]
    rfl
  have bound : ∀ d ∈ (List.range 128).map (fun l => laneWord (if act.getLsbD l then new else old) l), d < 2 ^ 32 := by
    intro d hd
    obtain ⟨l, _, rfl⟩ := List.mem_map.1 hd
    exact Nat.mod_lt _ (by decide)
  rw [eq, laneWord, toNat_digits 32 bound (by simp), Nat.pow_mul, digit_digits bound, List.getD_eq_getElem _ _ (by simpa using h),
    List.getElem_map, List.getElem_range]
  split <;> rfl

theorem elemGet_mergeLanes (f : Fmt) (act : BitVec 128) (new old : VecWord) {i : Nat} (h : i < fmtElems f) :
    elemGet f (mergeLanes act new old) i = if act.getLsbD (laneOf f i) then elemGet f new i else elemGet f old i := by
  simp only [elemGet_eq_laneWord, laneWord_mergeLanes _ _ _ (laneOf_lt h)]
  split <;> rfl

theorem elemGet_ofElems (f : Fmt) (es : List Elem) (hlen : es.length = fmtElems f) {i : Nat} (h : i < fmtElems f) :
    elemGet f (ofElems f es) i = BitVec.ofNat 32 ((es.getD i 0#32).toNat % 2 ^ fmtBits f) := by
  have eq : ofElems f es = BitVec.ofNat 4096 (digits (2 ^ fmtBits f) (es.map (fun e => e.toNat % 2 ^ fmtBits f))) := by
    rw [digits, List.foldr_map]
    rfl
  have bound : ∀ d ∈ es.map (fun e => e.toNat % 2 ^ fmtBits f), d < 2 ^ fmtBits f := by
    intro d hd
    obtain ⟨e, _, rfl⟩ := List.mem_map.1 hd
    exact Nat.mod_lt _ (Nat.two_pow_pos _)
  have whole : fmtBits f * fmtElems f = 4096 := by
    unfold fmtElems
    rcases fmtBits_cases f with hb | hb | hb <;> rw [hb]
  rw [eq, elemGet, toNat_digits _ bound (by rw [List.length_map, hlen, whole]), Nat.pow_mul, digit_digits bound,
    List.getD_eq_getElem _ _ (by simpa [hlen] using h), List.getElem_map, List.getD_eq_getElem _ _ (by omega)]

theorem laneBits_getLsbD (f : Nat → Bool) {l : Nat} (h : l < 128) : (laneBits f).getLsbD l = f l := by
  have bits (n : Nat) : (List.range n).foldl (fun n l => n + (if f l then 2 ^ l else 0)) 0 < 2 ^ n ∧
      ∀ l, ((List.range n).foldl (fun n l => n + (if f l then 2 ^ l else 0)) 0).testBit l = (decide (l < n) && f l) := by
    induction n with
    | zero => simp
    | succ n ih =>
      obtain ⟨small, bit⟩ := ih
      rw [List.range_succ, List.foldl_append, List.foldl_cons, List.foldl_nil]
      generalize (List.range n).foldl (fun n l => n + (if f l then 2 ^ l else 0)) 0 = x at small bit
      have sum : x + (if f n then 2 ^ n else 0) = 2 ^ n * (f n).toNat + x := by cases f n <;> simp [Nat.add_comm]
      refine ⟨by rw [Nat.pow_succ]; split <;> omega, fun l => ?_⟩
      rw [sum, Nat.testBit_two_pow_mul_add _ small, bit, Nat.testBit_bool_toNat]
      by_cases lt : l < n
      · simp [lt, Nat.lt_succ_of_lt lt]
      · by_cases eq : l = n
        · simp [eq]
        · simp [lt, show ¬ l - n = 0 by omega, show ¬ l < n + 1 by omega]
  rw [laneBits, BitVec.getLsbD_ofNat, (bits 128).2]
  simp [h]

/-! ### Elementwise vector instructions (R232, R233, R244) -/

theorem vGet_vSet_self (r : RegFile) (i : VReg) (x : VecWord) (bad : BitVec 128) : (r.vSet i x bad).vGet i = x :=
  SMap.get_set_self ..

theorem vBad_vSet_self (r : RegFile) (i : VReg) (x : VecWord) (bad : BitVec 128) : (r.vSet i x bad).vBad i = bad :=
  SMap.get_set_self ..

theorem vSet_ne (r : RegFile) {i j : VReg} (h : j ≠ i) (x : VecWord) (bad : BitVec 128) :
    (r.vSet i x bad).vGet j = r.vGet j ∧ (r.vSet i x bad).vBad j = r.vBad j :=
  ⟨SMap.get_set_ne _ _ _ _ _ fun e => h (Fin.ext e), SMap.get_set_ne _ _ _ _ _ fun e => h (Fin.ext e)⟩

theorem getLsbD_ones {l : Nat} (h : l < 128) : (~~~0#128).getLsbD l = true := by
  rw [BitVec.getLsbD_not, BitVec.getLsbD_zero]
  simp [h]

theorem getLsbD_allLanes (b : Bool) {l : Nat} (h : l < 128) : (allLanes b).getLsbD l = b := by
  cases b
  · exact BitVec.getLsbD_zero
  · exact getLsbD_ones h

theorem getLsbD_merge (act x y : BitVec 128) {l : Nat} (h : l < 128) :
    ((act &&& x) ||| (~~~act &&& y)).getLsbD l = if act.getLsbD l then x.getLsbD l else y.getLsbD l := by
  cases ha : act.getLsbD l <;> simp_all

theorem vectorWritten_vecWrite (c : Core) (f : Fmt) (pq : PredCtl) (vd : VReg) {new : VecWord} {bad : BitVec 128}
    {res : Nat → Elem} {lanes : Nat → Bool}
    (hres : ∀ i, i < fmtElems f → elemGet f new i = BitVec.ofNat 32 ((res i).toNat % 2 ^ fmtBits f))
    (hbad : ∀ l, l < 128 → bad.getLsbD l = lanes l) : VectorWritten c (c.vecWrite pq vd new bad) f pq vd res lanes := by
  refine ⟨by simp only [Core.vecWrite, Core.onRf, RegFile.vSet], fun i hi => ?_, fun l hl => ?_, fun v hv => ?_⟩
  · simp only [Core.vecWrite, Core.onRf, vGet_vSet_self, elemGet_mergeLanes f _ _ _ hi, hres i hi]
    rfl
  · simp only [Core.vecWrite, Core.onRf, vBad_vSet_self]
    cases predBad c.rf0 pq
    · simp only [Bool.false_eq_true, if_false, getLsbD_merge _ _ _ hl, hbad l hl, Bool.false_or]
    · simp only [if_true, getLsbD_ones hl, Bool.true_or]
  · exact vSet_ne _ hv _ _

theorem VectorWritten.with_flags {c c' : Core} {f : Fmt} {pq : PredCtl} {vd : VReg} {res : Nat → Elem} {lanes : Nat → Bool}
    (h : VectorWritten c c' f pq vd res lanes) (fl : ExcFlags) : VectorWritten c { c' with flags := fl } f pq vd res lanes := by
  obtain ⟨frame, elems, bad, others⟩ := h
  exact ⟨congrArg (fun x : Core => { x with flags := fl }) frame, elems, bad, others⟩

theorem vecWrite_flags (c : Core) (pq : PredCtl) (vd : VReg) (new : VecWord) (bad : BitVec 128) :
    (c.vecWrite pq vd new bad).flags = c.flags := by
  simp only [Core.vecWrite, Core.onRf]

theorem vecWrite_cfg (c : Core) (pq : PredCtl) (vd : VReg) (new : VecWord) (bad : BitVec 128) :
    (c.vecWrite pq vd new bad).cfg = c.cfg := by
  simp only [Core.vecWrite, Core.onRf]

theorem getLsbD_joinFlags (fl : List ExcFlags) (a : ExcFlags) (b : Nat) :
    (fl.foldl (fun a b => a ||| b) a).getLsbD b = (a.getLsbD b || fl.any (fun x => x.getLsbD b)) := by
  induction fl generalizing a with
  | nil => simp
  | cons x fl ih => simp [ih, Bool.or_assoc]

theorem raise_eq (c : Core) (fl : List ExcFlags) : c.raise fl = { c with flags := (c.raise fl).flags } := by
  unfold Core.raise
  split <;> rfl

theorem getLsbD_raise (c : Core) (fl : List ExcFlags) (b : Nat) :
    (c.raise fl).flags.getLsbD b = (c.flags.getLsbD b || (c.cfg.strict && fl.any (fun x => x.getLsbD b))) := by
  cases hs : c.cfg.strict
  · simp [Core.raise, hs]
  · simp [Core.raise, hs, getLsbD_joinFlags]

theorem advanceAux_cfg (n : Nat) (c : Core) : (Core.advanceAux n c).cfg = c.cfg := by
  induction n generalizing c with
  | zero => rfl
  | succ n ih =>
    unfold Core.advanceAux
    split
    · rfl
    · split
      · split
        · rfl
        · exact ih _
      · rfl

/-- The mode of a core's program is that of its configuration (R89). -/
theorem found_strict (s : State) (u : CoreRef) (slot : Nat) : (found s u slot).cfg.strict = s.strictOf u := by
  by_cases later : (s.core (refKey u)).slot < slot
  · simp [found, Core.begin, later, State.strictOf]
  · simp [found, Core.begin, later, State.strictOf, Core.advance, advanceAux_cfg]

theorem exec_of_elemForm {i : Instr} {s : State} {e : ElemForm} (h : elemForm s i = some e) :
    ∃ op, exec i s = vecOp i e.legal e.u e.fmt e.pq e.vd e.srcs op s ∧ op (s.strictOf e.u) = e.op := by
  unfold elemForm at h
  split at h <;> cases h <;>
    simp only [exec, execVadd, execVsub, execVmul, execVfma, execVmin, execVmax, execVabs, execVneg, execVcopysign, execVdiv, execVrecip,
      execVsqrt, execVrsqrt, vecFn, execVexp, execVexp2, execVlog, execVtanh, execVsigmoid, execVerf, execVgelu, execVand, execVor,
      execVxor, execVshl, execVshr, execVsra]
  case h_26 =>
    refine ⟨_, rfl, ?_⟩
    simp only [elemShift, Nat.cast_pow, Nat.cast_ofNat]
  all_goals exact ⟨_, rfl, rfl⟩

theorem elementwise_any (srcs : List VReg) (r : RegFile) (a : BitVec 128) (l : Nat) :
    (srcs.foldl (fun b v => b ||| r.vBad v) a).getLsbD l = (a.getLsbD l || srcs.any (fun v => (r.vBad v).getLsbD l)) := by
  induction srcs generalizing a with
  | nil => simp
  | cons v srcs ih => simp [ih, Bool.or_assoc]

/-- The flags of the active elements, listed and tested. -/
theorem any_active (c : Core) (pq : PredCtl) (f : Fmt) (fl : Nat → ExcFlags) (b : Nat) :
    ((activeElems c.rf0 pq f).map fl).any (fun x => x.getLsbD b) =
      (List.range (fmtElems f)).any (fun i => activeAt c pq f i && (fl i).getLsbD b) := by
  rw [activeElems, List.any_map, List.any_filter]
  rfl

theorem elementwise_written (c : Core) (f : Fmt) (pq : PredCtl) (vd : VReg) (srcs : List VReg) (op : List Elem → Elem × ExcFlags) :
    VectorWritten c (c.elementwise f pq vd srcs op) f pq vd (fun k => (op (srcs.map (fun v => elemGet f (c.rf0.vGet v) k))).1)
      (fun l => srcs.any (fun v => (c.rf0.vBad v).getLsbD l)) ∧
    FlagsRaised c (c.elementwise f pq vd srcs op) pq f (fun k => (op (srcs.map (fun v => elemGet f (c.rf0.vGet v) k))).2) := by
  simp only [Core.elementwise, List.map_map, Function.comp_def]
  refine ⟨?_, fun b hb => ?_⟩
  · rw [raise_eq]
    refine VectorWritten.with_flags (vectorWritten_vecWrite c f pq vd (fun i hi => ?_) (fun l _ => ?_)) _
    · rw [elemGet_ofElems f _ (by simp) hi, List.getD_eq_getElem _ _ (by simpa using hi), List.getElem_map, List.getElem_range]
    · rw [elementwise_any]
      simp
  · rw [getLsbD_raise, any_active, vecWrite_flags, vecWrite_cfg]

/-- Settles O12. -/
theorem elementwiseResults : Obligations.ElementwiseResults := by
  unfold Obligations.ElementwiseResults
  intro i s e he hlegal h
  obtain ⟨op, hexec, hop⟩ := exec_of_elemForm he
  have run : exec i s = .next (s.setCore (refKey e.u) ((found s e.u 2).elementwise e.fmt e.pq e.vd e.srcs e.op)) := by
    rw [hexec, vecOp, slotVector, issueIf_of_mayIssue h hlegal, found_strict, hop]
    rfl
  rw [run]
  exact ⟨_, rfl, elementwise_written _ _ _ _ _ _⟩

/-! ### Predicates (R232, R246) -/

theorem pGet_pSet_self (r : RegFile) (i : PReg) (x : BitVec 128) (bad : Bool) : (r.pSet i x bad).pGet i = x :=
  SMap.get_set_self ..

theorem pBad_pSet_self (r : RegFile) (i : PReg) (x : BitVec 128) (bad : Bool) : (r.pSet i x bad).pBad i = bad := by
  rw [RegFile.pSet, RegFile.pBad, getLsbD_setBit _ (by omega), if_pos rfl]

theorem pSet_ne (r : RegFile) {i j : PReg} (h : j ≠ i) (x : BitVec 128) (bad : Bool) :
    (r.pSet i x bad).pGet j = r.pGet j ∧ (r.pSet i x bad).pBad j = r.pBad j := by
  refine ⟨SMap.get_set_ne _ _ _ _ _ fun e => h (Fin.ext e), ?_⟩
  rw [RegFile.pSet, RegFile.pBad, getLsbD_setBit _ (by omega), if_neg fun e => h (Fin.ext e), RegFile.pBad]

theorem predWritten_predWrite (c : Core) (pq : PredCtl) (pd : PReg) {new : BitVec 128} {res : Nat → Bool}
    (hres : ∀ l, l < 128 → new.getLsbD l = res l) (bad : Bool) (fl : ExcFlags) :
    PredWritten c { c.predWrite pq pd new bad with flags := fl } pq pd res bad := by
  refine ⟨by simp only [Core.predWrite, Core.onRf, RegFile.pSet], fun l hl => ?_, ?_, fun p hp => ?_⟩
  · simp only [Core.predWrite, Core.onRf, pGet_pSet_self, getLsbD_merge _ _ _ hl, hres l hl]
  · simp only [Core.predWrite, Core.onRf, pBad_pSet_self]
  · exact pSet_ne _ hp _ _

theorem predWrite_flags (c : Core) (pq : PredCtl) (pd : PReg) (new : BitVec 128) (bad : Bool) :
    (c.predWrite pq pd new bad).flags = c.flags := by
  simp only [Core.predWrite, Core.onRf]

theorem predWrite_cfg (c : Core) (pq : PredCtl) (pd : PReg) (new : BitVec 128) (bad : Bool) :
    (c.predWrite pq pd new bad).cfg = c.cfg := by
  simp only [Core.predWrite, Core.onRf]

theorem exec_of_predForm {i : Instr} {s : State} {u : CoreRef} {pq : PredCtl} {pd : PReg} {f : RegFile → Nat → Bool}
    {bad : RegFile → Bool} (h : predForm i = some (u, pq, pd, f, bad)) :
    ∃ new : RegFile → BitVec 128, exec i s = s.issue i u slotVector (fun c => s.put u (c.predWrite pq pd (new c.rf0) (bad c.rf0))) ∧
      ∀ r l, l < 128 → (new r).getLsbD l = f r l := by
  unfold predForm at h
  split at h <;> cases h <;> simp only [exec, execPand, execPor, execPxor, execPnot, execPset, predOp]
  case h_1 => exact ⟨fun r => r.pGet _ &&& r.pGet _, rfl, fun r l _ => BitVec.getLsbD_and⟩
  case h_2 => exact ⟨fun r => r.pGet _ ||| r.pGet _, rfl, fun r l _ => BitVec.getLsbD_or⟩
  case h_3 => exact ⟨fun r => r.pGet _ ^^^ r.pGet _, rfl, fun r l _ => BitVec.getLsbD_xor⟩
  case h_4 => exact ⟨fun r => ~~~r.pGet _, rfl, fun r l hl => by rw [BitVec.getLsbD_not]; simp [hl]⟩
  case h_5 sx =>
    refine ⟨fun r => if r.sGet sx ≠ 0#64 then ~~~0#128 else 0#128, rfl, fun r l hl => ?_⟩
    by_cases hx : r.sGet sx = 0#64
    · simp [hx]
    · simp only [ne_eq, hx, not_false_eq_true, if_true, getLsbD_ones hl, decide_true]

theorem some_lane (x : BitVec 128) : decide (x ≠ 0#128) = (List.range 128).any (fun l => x.getLsbD l) := by
  rw [Bool.eq_iff_iff, decide_eq_true_eq, List.any_eq_true]
  constructor
  · intro some
    by_contra none
    refine some (BitVec.eq_of_getLsbD_eq fun l hl => ?_)
    have clear : x.getLsbD l = false := by
      by_contra set
      exact none ⟨l, List.mem_range.2 hl, by simpa using set⟩
    rw [clear, BitVec.getLsbD_zero]
  · rintro ⟨l, _, set⟩ rfl
    rw [BitVec.getLsbD_zero] at set
    cases set

/-- Settles O13. -/
theorem predicateResults : Obligations.PredicateResults := by
  unfold Obligations.PredicateResults
  refine ⟨?pred, ?compare⟩
  case pred =>
    intro i s u pq pd f bad hform h
    obtain ⟨new, hexec, hnew⟩ := exec_of_predForm (s := s) hform
    rw [hexec, slotVector, issue_of_mayIssue h]
    refine ⟨_, rfl, ?_, ?_⟩
    · exact predWritten_predWrite _ pq pd (fun l hl => hnew _ l hl) _ _
    · exact predWrite_flags ..
  case compare =>
    intro s u f k pq pd va vb hf h
    have ok : (decide (f = .fp32) || decide (f = .int32)) = true := by simpa using hf
    have elems : fmtElems f = 128 ∧ ∀ l, laneOf f l = l := by
      obtain rfl | rfl := hf <;> exact ⟨rfl, fun l => Nat.mul_div_cancel l (by decide)⟩
    simp only [exec, execVcmp, slotVector, issueIf_of_mayIssue h ok, State.put]
    refine ⟨_, rfl, ?_, fun b hb => ?_⟩
    · rw [raise_eq, some_lane]
      have sources : (fun l => ((activeLanes (found s u 2).rf0 pq) &&& ((found s u 2).rf0.vBad va ||| (found s u 2).rf0.vBad vb)).getLsbD l) =
          fun l => (activeLanes (found s u 2).rf0 pq).getLsbD l &&
            (((found s u 2).rf0.vBad va).getLsbD l || ((found s u 2).rf0.vBad vb).getLsbD l) := by
        funext l
        rw [BitVec.getLsbD_and, BitVec.getLsbD_or]
      rw [sources]
      exact predWritten_predWrite _ pq pd (fun l hl => laneBits_getLsbD _ hl) _ _
    · rw [getLsbD_raise, List.any_map, List.any_filter, predWrite_flags, predWrite_cfg, elems.1]
      simp only [activeAt, elems.2, Function.comp_def]

/-! ### Moves, extracts and conversions (R244, R247, R103) -/

theorem elemGet_mod (f : Fmt) (x : VecWord) (i : Nat) : elemGet f x i = BitVec.ofNat 32 ((elemGet f x i).toNat % 2 ^ fmtBits f) := by
  have small : 2 ^ fmtBits f ≤ 2 ^ 32 := Nat.pow_le_pow_right (by decide) (by rcases fmtBits_cases f with h | h | h <;> omega)
  have lt := Nat.mod_lt (x.toNat / 2 ^ (fmtBits f * i)) (Nat.two_pow_pos (fmtBits f))
  rw [elemGet, BitVec.toNat_ofNat, Nat.mod_eq_of_lt (Nat.lt_of_lt_of_le lt small), Nat.mod_mod]

theorem elemGet_ofElems_range (f : Fmt) (g : Nat → Elem) {i : Nat} (h : i < fmtElems f) :
    elemGet f (ofElems f ((List.range (fmtElems f)).map g)) i = BitVec.ofNat 32 ((g i).toNat % 2 ^ fmtBits f) := by
  rw [elemGet_ofElems f _ (by simp) h, List.getD_eq_getElem _ _ (by simpa using h), List.getElem_map, List.getElem_range]

theorem width_le (f : Fmt) : Fmt.width f ≤ 32 := by
  cases f <;> decide

theorem intOf_natAbs_lt (f : Fmt) (w : Elem) : (intOf f w).natAbs < 2 ^ 33 := by
  have small : 2 ^ Fmt.width f ≤ 2 ^ 32 := Nat.pow_le_pow_right (by decide) (width_le f)
  have lt := Nat.mod_lt w.toNat (Nat.two_pow_pos (Fmt.width f))
  simp only [intOf]
  split <;> omega

theorem crestElem_lt (f : Fmt) (w : Elem) : crestElem f w < 256 := by
  have exponent : 2 ^ Fmt.expBits f ≤ 256 := by cases f <;> decide
  have byte (n : Nat) : n % 2 ^ Fmt.expBits f < 256 := Nat.lt_of_lt_of_le (Nat.mod_lt _ (Nat.two_pow_pos _)) exponent
  have wide : (intOf f w).natAbs ≠ 0 → msbIndex (intOf f w).natAbs + 1 < 256 := by
    intro nonzero
    have : Nat.log2 (intOf f w).natAbs < 33 := (Nat.log2_lt nonzero).2 (intOf_natAbs_lt f w)
    simp only [msbIndex]
    omega
  simp only [crestElem]
  split
  · split
    · decide
    · exact wide ‹_›
  · split
    · decide
    · decide
    · split
      · decide
      · split
        · decide
        · exact byte _

theorem crestGroup_lt (f : Fmt) (ws : List Elem) : crestGroup f ws < 256 := by
  have fold (m : Nat) (hm : m < 256) : ws.foldl (fun c w => max c (crestElem f w)) m < 256 := by
    induction ws generalizing m with
    | nil => exact hm
    | cons w ws ih => exact ih _ (Nat.max_lt.2 ⟨hm, crestElem_lt f w⟩)
  exact fold 0 (by decide)

theorem chunksAux_eq {α : Type} {n : Nat} (hn : 0 < n) (m k : Nat) (xs : List α) (h : xs.length = n * k) (fuel : k ≤ m) :
    chunksAux n m xs = (List.range k).map (fun g => (xs.drop (n * g)).take n) := by
  induction k generalizing m xs with
  | zero =>
    obtain rfl : xs = [] := List.length_eq_zero_iff.1 (by simpa using h)
    cases m <;> rfl
  | succ k ih =>
    obtain ⟨m, rfl⟩ : ∃ j, m = j + 1 := ⟨m - 1, by omega⟩
    have some : xs ≠ [] := by
      rintro rfl
      simp only [List.length_nil, Nat.mul_succ] at h
      omega
    rw [chunksAux, if_neg (by simpa using some), ih m (xs.drop n) (by rw [List.length_drop, h, Nat.mul_succ]; omega) (by omega),
      List.range_succ_eq_map, List.map_cons, List.map_map, Nat.mul_zero, List.drop_zero]
    simp only [Function.comp_def, List.drop_drop, Nat.mul_succ, Nat.add_comm]

/-- Groups of 64 elements, in order. -/
theorem chunks_elems (f : Fmt) (x : VecWord) :
    chunks 64 (elemsOf f x) =
      (List.range (fmtElems f / 64)).map (fun g => (List.range 64).map (fun j => elemGet f x (64 * g + j))) := by
  have whole : fmtElems f = 64 * (fmtElems f / 64) := by
    unfold fmtElems
    rcases fmtBits_cases f with h | h | h <;> rw [h]
  have len : (elemsOf f x).length = 64 * (fmtElems f / 64) := by rw [elemsOf, List.length_map, List.length_range, ← whole]
  rw [chunks, chunksAux_eq (by decide) _ _ _ len (by omega)]
  refine List.map_congr_left fun g hg => List.ext_getElem ?_ fun j hj _ => ?_
  · rw [List.length_take, List.length_drop, len, List.length_map, List.length_range]
    have := List.mem_range.1 hg
    omega
  · simp [elemsOf]

theorem crest_digits (f : Fmt) (x : VecWord) : ∀ d ∈ (List.range (fmtElems f / 64)).map (fun g =>
    crestGroup f ((List.range 64).map (fun j => elemGet f x (64 * g + j)))), d < 256 := by
  intro d hd
  obtain ⟨g, _, rfl⟩ := List.mem_map.1 hd
  exact crestGroup_lt f _

/-- The crests of a vector's groups as one word. -/
def crestWord (f : Fmt) (x : VecWord) : Word64 :=
  BitVec.ofNat 64 (digits 256 ((chunks 64 (elemsOf f x)).map (crestGroup f)))

theorem crestWord_eq (f : Fmt) (x : VecWord) :
    (crestWord f x).toNat = digits 256 ((List.range (fmtElems f / 64)).map (fun g =>
      crestGroup f ((List.range 64).map (fun j => elemGet f x (64 * g + j))))) ∧
    (crestWord f x).toNat < 256 ^ (fmtElems f / 64) := by
  have groups : fmtElems f / 64 ≤ 8 := by cases f <;> decide
  have small := digits_lt (crest_digits f x)
  rw [List.length_map, List.length_range] at small
  have fits : 256 ^ (fmtElems f / 64) ≤ 2 ^ 64 := Nat.pow_le_pow_right (n := 256) (by decide) groups
  have eq : (crestWord f x).toNat = digits 256 ((List.range (fmtElems f / 64)).map (fun g =>
      crestGroup f ((List.range 64).map (fun j => elemGet f x (64 * g + j))))) := by
    rw [crestWord, chunks_elems, List.map_map, Function.comp_def, BitVec.toNat_ofNat, Nat.mod_eq_of_lt (Nat.lt_of_lt_of_le small fits)]
  exact ⟨eq, eq ▸ small⟩

/-- The lanes that the elements from one on lie in, those with a property. -/
def partLanes (d : Fmt) (d0 n : Nat) (p : Nat → Bool) : BitVec 128 :=
  laneBits (fun l => (List.range n).any (fun j => decide (laneOf d (d0 + j) = l) && p j))

/-- A part of a vector register replaced by converted elements, with the flags that the active ones raise. -/
def convertPart (c : Core) (d : Fmt) (pq : PredCtl) (vd : VReg) (d0 n : Nat) (new : Nat → Elem × ExcFlags) (bad : Nat → Bool) : Core :=
  (c.vecWrite pq vd
    (ofElems d ((List.range (fmtElems d)).map (fun i =>
      if d0 ≤ i ∧ i < d0 + n then (new (i - d0)).1 else elemGet d (c.rf.vGet vd) i)))
    (partLanes d d0 n bad ||| (~~~laneBits (fun l => (List.range n).any (fun j => decide (laneOf d (d0 + j) = l))) &&& c.rf.vBad vd))).raise
    (((List.range n).filter (fun j => (activeLanes c.rf0 pq).getLsbD (laneOf d (d0 + j)))).map (fun j => (new j).2))

section
variable (c : Core) (d : Fmt) (pq : PredCtl) (vd : VReg) (d0 n : Nat) (new : Nat → Elem × ExcFlags) (bad : Nat → Bool)

theorem convertPart_written : VectorWritten c (convertPart c d pq vd d0 n new bad) d pq vd
    (fun i => if d0 ≤ i ∧ i < d0 + n then (new (i - d0)).1 else elemGet d (c.rf.vGet vd) i)
    (fun l => if (List.range n).any (fun j => decide (laneOf d (d0 + j) = l)) then
      (List.range n).any (fun j => decide (laneOf d (d0 + j) = l) && bad j) else (c.rf.vBad vd).getLsbD l) := by
  rw [convertPart, raise_eq]
  refine VectorWritten.with_flags (vectorWritten_vecWrite c d pq vd (fun i hi => elemGet_ofElems_range d _ hi) (fun l hl => ?_)) _
  rw [BitVec.getLsbD_or, BitVec.getLsbD_and, BitVec.getLsbD_not, partLanes, laneBits_getLsbD _ hl, laneBits_getLsbD _ hl]
  cases taken : (List.range n).any (fun j => decide (laneOf d (d0 + j) = l)) with
  | true => simp
  | false =>
    have none : (List.range n).any (fun j => decide (laneOf d (d0 + j) = l) && bad j) = false := by
      simp only [List.any_eq_false] at taken ⊢
      intro j hj
      simp [taken j hj]
    simp [none, hl]

theorem convertPart_flags (b : Nat) : (convertPart c d pq vd d0 n new bad).flags.getLsbD b =
    (c.flags.getLsbD b || (c.cfg.strict && (List.range n).any (fun j => activeAt c pq d (d0 + j) && (new j).2.getLsbD b))) := by
  rw [convertPart, getLsbD_raise, vecWrite_flags, vecWrite_cfg, List.any_map, List.any_filter]
  rfl

end

/-- Settles O14. -/
theorem movesExtractsAndConversions : Obligations.MovesExtractsAndConversions := by
  unfold Obligations.MovesExtractsAndConversions
  refine ⟨?moves, ?convert⟩
  case moves =>
    intro s u f pq p vd va vb sd sx
    dsimp only
    refine ⟨fun h => ?_, fun h => ?_, fun h => ?_, fun h => ?_, fun h hsd => ?_, fun h hsd => ?_⟩
    · simp only [exec, execVmov, slotVector, issue_of_mayIssue h, State.put]
      exact ⟨_, rfl, vecWrite_flags .., vectorWritten_vecWrite _ _ pq vd (fun i _ => elemGet_mod ..) (fun _ _ => rfl)⟩
    · simp only [exec, execVbcast, slotVector, issue_of_mayIssue h, State.put]
      refine ⟨_, rfl, vecWrite_flags .., vectorWritten_vecWrite _ f pq vd (fun i hi => ?_) (fun l hl => getLsbD_allLanes _ hl)⟩
      rw [elemGet_ofElems f _ List.length_replicate hi, List.getD_replicate _ hi]
    · simp only [exec, execVrot, slotVector, issue_of_mayIssue h, State.put, Nat.add_mod_mod]
      refine ⟨_, rfl, vecWrite_flags .., 
        vectorWritten_vecWrite _ _ pq vd (fun i hi => elemGet_ofElems_range .int32 _ hi) (fun l hl => ?_)⟩
      rw [BitVec.getLsbD_or, laneBits_getLsbD _ hl, getLsbD_allLanes _ hl]
    · simp only [exec, execVsel, slotVector, issue_of_mayIssue h, State.put]
      refine ⟨_, rfl, fun l hl => ⟨?_, ?_⟩, ?_, fun v hv => vSet_ne _ hv _ _⟩
      · simp only [Core.onRf, vGet_vSet_self, elemGet_mergeLanes .int32 _ _ _ (show l < fmtElems .int32 from hl)]
        rw [show laneOf .int32 l = l from Nat.mul_div_cancel l (by decide)]
        split <;> rfl
      · simp only [Core.onRf, vBad_vSet_self]
        cases (found s u 2).rf0.pBad p
        · simp only [Bool.false_eq_true, if_false, getLsbD_merge _ _ _ hl, Bool.false_or]
          split <;> rfl
        · simp only [if_true, getLsbD_ones hl, Bool.true_or]
      · simp only [Core.onRf, RegFile.vSet]
    · have ok : decide (sd.val < 48) = true := decide_eq_true hsd
      simp only [exec, execVext, slotVector, issueIf_of_mayIssue h ok, State.put]
      exact ⟨_, rfl, scalarWritten_sSet _ hsd _ _⟩
    · have ok : decide (sd.val < 48) = true := decide_eq_true hsd
      simp only [exec, execVcrest, slotVector, issueIf_of_mayIssue h ok, State.put]
      have groups : fmtElems f / 64 ≤ 8 := by cases f <;> decide
      refine ⟨_, _, rfl, scalarWritten_sSet _ hsd _ _, ?_, fun g hg => ?_⟩
      · exact (crestWord_eq f _).2
      · refine (congrArg (fun n => n / 256 ^ g % 256) (crestWord_eq f _).1).trans ?_
        rw [digit_digits (crest_digits f _), List.getD_eq_getElem _ _ (by simpa using hg), List.getElem_map, List.getElem_range]
  case convert =>
    intro s u d f rm sat part use six sst pq vd va hok h c n so d0 draw at_ drawBad
    have run : exec (.vcvt u d f rm sat part use six sst pq vd va) s = .next (s.setCore (refKey u)
        (convertPart c d pq vd d0 n at_ (fun j => (c.rf0.vBad va).getLsbD (laneOf f (so + j)) || drawBad))) := by
      simp only [exec, execVcvt, slotVector, issueIf_of_mayIssue h hok, State.put]
      rfl
    obtain ⟨frame, elems, poison, others⟩ := convertPart_written c d pq vd d0 n at_
      (fun j => (c.rf0.vBad va).getLsbD (laneOf f (so + j)) || drawBad)
    refine ⟨_, run, frame, fun i hi => ?_, fun l hl => ?_, fun b _ => convertPart_flags .., others⟩
    · rw [elems i hi]
      by_cases active : activeAt c pq d i = true
      · by_cases part : d0 ≤ i ∧ i < d0 + n
        · simp only [active, part, and_self, if_true]
        · simp only [active, part, if_true, and_false, if_false]
          rw [← elemGet_mod]
      · simp only [active]
        rfl
    · rw [poison l hl]
      have taken : (List.range n).any (fun j => decide (laneOf d (d0 + j) = l)) = true ↔ ∃ j, j < n ∧ laneOf d (d0 + j) = l := by
        simp
      simp only [taken]
      by_cases active : (activeLanes c.rf0 pq).getLsbD l = true
      · simp only [active, true_and, if_true]
      · simp only [active]
        rfl

end Sys2Proof.Proofs
end

section
namespace Sys2Proof.Proofs

open Sys2Proof Sys2Proof.Machine Sys2Proof.Claims

/-! ### Vector stores (R245) -/

theorem getD_slice (bs : List Byte) {off n j : Nat} (h : off + n ≤ bs.length) (hj : j < n) :
    (slice bs off n).getD j 0#8 = bs.getD (off + j) 0#8 := by
  rw [slice, fit, List.take_append_of_le_length (by rw [List.length_drop]; omega), List.getD_eq_getElem _ _ (by simp; omega),
    List.getElem_take, List.getElem_drop, List.getD_eq_getElem _ _ (by omega)]

theorem getD_vecBytes (x : VecWord) {l j : Nat} (hl : l < 128) (hj : j < 4) : (vecBytes x).getD (4 * l + j) 0#8 = vecByte x l j := by
  have place : 4 * l + j < 512 := by omega
  rw [vecBytes, le, List.getD_eq_getElem _ _ (by simpa using place), List.getElem_map, List.getElem_range, vecByte, Nat.pow_mul]

/-- What a store of the active lanes of one line leaves: bytes, poison and tag of the line, and the count of tags lost. -/
structure LineLanes (c c' : Core) (a n : Nat) (all : Bool) (act bad : Nat → Bool) (byte : Nat → Nat → Byte) : Prop where
  only : SpadOnly c c'
  inside : ∀ q j, q < 16 → j < 4 → c'.spadByte (a + 4 * q + j) = if q < n ∧ act q = true then byte q j else c.spadByte (a + 4 * q + j)
  outside : ∀ x, x < a ∨ a + 64 ≤ x → c'.spadByte x = c.spadByte x
  otherBad : ∀ k, k ≠ a / 64 → c'.lineBad k = c.lineBad k
  otherTag : ∀ k, k ≠ a / 64 → c'.lineTag k = c.lineTag k
  poison : c'.lineBad (a / 64) = ((List.range n).any (fun q => act q && bad q) || (!all && c.lineBad (a / 64)))
  tag : c'.lineTag (a / 64) = if all then none else c.lineTag (a / 64)
  lost : c'.movUnconsumed = c.movUnconsumed + if all && (c.lineTag (a / 64)).isSome then 1 else 0

section
variable (c : Core) (x : VecWord) {a i : Nat}

/-- The lanes of a line, stored one by one. -/
theorem lineLanes_fold (act bad : Nat → Bool) (ha : a % 64 = 0) (hi : i < 8) (n : Nat) (hn : n ≤ 16) :
    LineLanes c ((List.range n).foldl (fun c q => if act q then c.spadWrite (a + 4 * q) (slice (vecBytes x) (4 * (16 * i + q)) 4) (bad q) else c) c)
      a n false act bad (fun q => vecByte x (16 * i + q)) := by
  induction n with
  | zero => exact ⟨spadOnly_refl c, fun q j _ _ => by simp, fun _ _ => rfl, fun _ _ => rfl, fun _ _ => rfl, by simp, by simp, by simp⟩
  | succ n ih =>
    obtain ⟨only, inside, outside, otherBad, otherTag, poison, tag, lost⟩ := ih (by omega)
    rw [List.range_succ, List.foldl_append, List.foldl_cons, List.foldl_nil]
    generalize (List.range n).foldl _ c = d at *
    cases active : act n with
    | false =>
      rw [if_neg (by decide)]
      refine ⟨only, fun q j hq hj => ?_, outside, otherBad, otherTag, ?_, tag, lost⟩
      · have upTo : q < n + 1 ∧ act q = true ↔ q < n ∧ act q = true := by
          constructor
          · rintro ⟨lt, on⟩
            have : q ≠ n := fun e => by simp [e, active] at on
            exact ⟨by omega, on⟩
          · exact fun h => ⟨by omega, h.2⟩
        simp only [inside q j hq hj, upTo]
      · rw [poison, List.range_succ, List.any_append]
        simp [active]
    | true =>
      rw [if_pos rfl]
      have len : (slice (vecBytes x) (4 * (16 * i + n)) 4).length = 4 := length_fit ..
      have cell : (a + 4 * n) / 64 = a / 64 := by omega
      obtain ⟨only', inside', outside', bad', tag', lost'⟩ := lineStored_spadWrite d (a := a + 4 * n)
        (bs := slice (vecBytes x) (4 * (16 * i + n)) 4) (List.ne_nil_of_length_pos (by omega)) (by omega) (bad n)
      rw [len, cell] at *
      refine ⟨spadOnly_trans only only', fun q j hq hj => ?_, fun y hy => ?_, fun k hk => ?_, fun k hk => ?_, ?_, ?_, ?_⟩
      · by_cases here : q = n
        · subst here
          rw [inside' j hj, getD_slice _ (by rw [vecBytes, length_le]; omega) hj, getD_vecBytes _ (by omega) hj, if_pos ⟨by omega, active⟩]
        · have upTo : q < n + 1 ∧ act q = true ↔ q < n ∧ act q = true := by
            rw [show q < n + 1 ↔ q < n by omega]
          rw [outside' _ (by omega), inside q j hq hj]
          simp only [upTo]
      · rw [outside' y (by omega), outside y hy]
      · rw [bad' k, if_neg hk, otherBad k hk]
      · rw [tag' k, if_neg (fun h => hk h.1), otherTag k hk]
      · rw [bad', if_pos rfl, poison, List.range_succ, List.any_append]
        simp [active, Bool.or_comm, Bool.or_left_comm]
      · rw [tag', if_neg (by omega), tag]
      · rw [lost', lost]
        simp

/-- A line stored under a predicate. -/
theorem lineLanes_storeLine (act bad : BitVec 128) (ha : a % 64 = 0) (hi : i < 8) :
    LineLanes c (c.storeLine act bad (vecBytes x) a i) a 16 ((List.range 16).all (fun q => act.getLsbD (16 * i + q)))
      (fun q => act.getLsbD (16 * i + q)) (fun q => bad.getLsbD (16 * i + q)) (fun q => vecByte x (16 * i + q)) := by
  have listed : ((List.range 16).map (fun q => 16 * i + q)).all (fun l => act.getLsbD l) =
      (List.range 16).all (fun q => act.getLsbD (16 * i + q)) := List.all_map
  rw [Core.storeLine, listed]
  cases all : (List.range 16).all (fun q => act.getLsbD (16 * i + q)) with
  | true =>
    have on (q : Nat) (hq : q < 16) : act.getLsbD (16 * i + q) = true := List.all_eq_true.1 all q (List.mem_range.2 hq)
    have len : (slice (vecBytes x) (64 * i) 64).length = 64 := length_fit ..
    obtain ⟨only, inside, outside, isBad, tag, lost⟩ := lineStored_spadWrite c (a := a) (bs := slice (vecBytes x) (64 * i) 64)
      (List.ne_nil_of_length_pos (by omega)) (by omega) (((List.range 16).map (fun q => 16 * i + q)).any (fun l => bad.getLsbD l))
    rw [len] at *
    rw [if_pos rfl]
    refine ⟨only, fun q j hq hj => ?_, outside, fun k hk => ?_, fun k hk => ?_, ?_, ?_, ?_⟩
    · rw [if_pos ⟨hq, on q hq⟩, Nat.add_assoc, inside _ (by omega), getD_slice _ (by rw [vecBytes, length_le]; omega) (by omega),
        ← getD_vecBytes _ (by omega) hj]
      congr 1
      omega
    · rw [isBad k, if_neg hk]
    · rw [tag k, if_neg (fun h => hk h.1)]
    · have lanes : (List.range 16).any (fun q => act.getLsbD (16 * i + q) && bad.getLsbD (16 * i + q)) =
          (List.range 16).any (fun q => bad.getLsbD (16 * i + q)) := by
        rw [Bool.eq_iff_iff, List.any_eq_true, List.any_eq_true]
        exact exists_congr fun q => and_congr_right fun hq => by rw [on q (List.mem_range.1 hq), Bool.true_and]
      rw [isBad, if_pos rfl, lanes, List.any_map]
      simp [Function.comp_def]
    · rw [tag, if_pos ⟨rfl, by omega⟩, if_pos rfl]
    · rw [lost]
      simp
  | false =>
    rw [if_neg (by decide), List.foldl_map]
    have place (q : Nat) (h : q < 16) : (16 * i + q) % 16 = q := by omega
    have same : (List.range 16).foldl (fun c q => if act.getLsbD (16 * i + q) then
        c.spadWrite (a + 4 * ((16 * i + q) % 16)) (slice (vecBytes x) (4 * (16 * i + q)) 4) (bad.getLsbD (16 * i + q)) else c) c =
        (List.range 16).foldl (fun c q => if act.getLsbD (16 * i + q) then
        c.spadWrite (a + 4 * q) (slice (vecBytes x) (4 * (16 * i + q)) 4) (bad.getLsbD (16 * i + q)) else c) c := by
      refine List.foldl_ext _ _ _ fun c q hq => ?_
      rw [place q (List.mem_range.1 hq)]
    rw [same]
    exact lineLanes_fold c x _ _ ha hi 16 (by omega)

end

/-- What a store of lines that do not meet leaves, up to the n-th of them. -/
structure LinesStored (c c' : Core) (line : Nat → Nat) (n : Nat) (act bad : Nat → Bool) (x : VecWord) : Prop where
  only : SpadOnly c c'
  outside : ∀ y, (∀ i, i < n → y < line i ∨ line i + 64 ≤ y) → c'.spadByte y = c.spadByte y
  others : ∀ k, (∀ i, i < n → line i / 64 ≠ k) → c'.lineBad k = c.lineBad k ∧ c'.lineTag k = c.lineTag k

/-- With lines apart, each line is stored once. -/
structure LinesApart (c c' : Core) (line : Nat → Nat) (n : Nat) (act bad : Nat → Bool) (x : VecWord) : Prop where
  inside : ∀ i q j, i < n → q < 16 → j < 4 → c'.spadByte (line i + 4 * q + j) =
    if act (16 * i + q) then vecByte x (16 * i + q) j else c.spadByte (line i + 4 * q + j)
  poison : ∀ i, i < n → c'.lineBad (line i / 64) = ((List.range 16).any (fun q => act (16 * i + q) && bad (16 * i + q)) ||
    (!(List.range 16).all (fun q => act (16 * i + q)) && c.lineBad (line i / 64)))
  tag : ∀ i, i < n → c'.lineTag (line i / 64) = if (List.range 16).all (fun q => act (16 * i + q)) then none else c.lineTag (line i / 64)
  lost : c'.movUnconsumed = c.movUnconsumed +
    ((List.range n).filter (fun i => (List.range 16).all (fun q => act (16 * i + q)) && (c.lineTag (line i / 64)).isSome)).length

section
variable (c : Core) (x : VecWord) {line : Nat → Nat} (act bad : BitVec 128) (aligned : ∀ i, i < 8 → line i % 64 = 0)

/-- The core after the first n lines of a store. -/
def storeLines (c : Core) (x : VecWord) (line : Nat → Nat) (act bad : BitVec 128) (n : Nat) : Core :=
  (List.range n).foldl (fun c i => c.storeLine act bad (vecBytes x) (line i) i) c

theorem storeLines_succ (line : Nat → Nat) (n : Nat) :
    storeLines c x line act bad (n + 1) = (storeLines c x line act bad n).storeLine act bad (vecBytes x) (line n) n := by
  rw [storeLines, List.range_succ, List.foldl_append]
  rfl

include aligned

theorem linesStored_storeLines (n : Nat) (hn : n ≤ 8) :
    LinesStored c (storeLines c x line act bad n) line n act.getLsbD bad.getLsbD x := by
  induction n with
  | zero => exact ⟨spadOnly_refl c, fun _ _ => rfl, fun _ _ => ⟨rfl, rfl⟩⟩
  | succ n ih =>
    have before := ih (by omega)
    have last := lineLanes_storeLine (storeLines c x line act bad n) x act bad (aligned n (by omega)) (by omega : n < 8)
    rw [storeLines_succ]
    refine ⟨spadOnly_trans before.only last.only, fun y hy => ?_, fun k hk => ?_⟩
    · rw [last.outside y (hy n (by omega)), before.outside y fun i hi => hy i (by omega)]
    · have here : k ≠ line n / 64 := (hk n (by omega)).symm
      rw [last.otherBad k here, last.otherTag k here]
      exact before.others k fun i hi => hk i (by omega)

theorem linesApart_storeLines (apart : ∀ i k, i < 8 → k < 8 → i ≠ k → line i / 64 ≠ line k / 64) (n : Nat) (hn : n ≤ 8) :
    LinesApart c (storeLines c x line act bad n) line n act.getLsbD bad.getLsbD x := by
  induction n with
  | zero => exact ⟨fun i _ _ h => absurd h (by omega), fun i h => absurd h (by omega), fun i h => absurd h (by omega), rfl⟩
  | succ n ih =>
    have before := ih (by omega)
    have frame := linesStored_storeLines c x act bad aligned n (by omega)
    have last := lineLanes_storeLine (storeLines c x line act bad n) x act bad (aligned n (by omega)) (by omega : n < 8)
    obtain ⟨freshBad, freshTag⟩ := frame.others (line n / 64) fun i hi => apart i n (by omega) (by omega) (by omega)
    rw [storeLines_succ]
    refine ⟨fun i q j hi hq hj => ?_, fun i hi => ?_, fun i hi => ?_, ?_⟩
    · have := aligned i (by omega)
      have := aligned n (by omega)
      by_cases here : i = n
      · subst here
        rw [last.inside q j hq hj, frame.outside (line i + 4 * q + j) fun k hk => by
          have := aligned k (by omega)
          have := apart k i (by omega) (by omega) (by omega)
          omega]
        simp only [hq, true_and]
      · have := apart i n (by omega) (by omega) here
        rw [last.outside _ (by omega), before.inside i q j (by omega) hq hj]
    · by_cases here : i = n
      · subst here
        rw [last.poison, freshBad]
      · rw [last.otherBad _ (apart i n (by omega) (by omega) here), before.poison i (by omega)]
    · by_cases here : i = n
      · subst here
        rw [last.tag, freshTag]
      · rw [last.otherTag _ (apart i n (by omega) (by omega) here), before.tag i (by omega)]
    · rw [last.lost, before.lost, freshTag, List.range_succ (n := n), List.filter_append, List.length_append, Nat.add_assoc]
      congr 2
      rw [List.filter_singleton]
      cases (List.range 16).all (fun q => act.getLsbD (16 * n + q)) && (c.lineTag (line n / 64)).isSome <;> rfl

/-- With every line the same, the last active lane of a place stays. -/
theorem spadByte_storeLines_same (same : ∀ i, i < 8 → line i = line 0) (n : Nat) (hn : n ≤ 8) {q j : Nat} (hq : q < 16) (hj : j < 4) :
    (storeLines c x line act bad n).spadByte (line 0 + 4 * q + j) =
      (((List.range n).reverse.find? (fun i => act.getLsbD (16 * i + q))).map (fun i => vecByte x (16 * i + q) j)).getD
        (c.spadByte (line 0 + 4 * q + j)) := by
  induction n with
  | zero => rfl
  | succ n ih =>
    have last := lineLanes_storeLine (storeLines c x line act bad n) x act bad (aligned n (by omega)) (by omega : n < 8)
    have step := last.inside q j hq hj
    rw [same n (by omega)] at step
    rw [storeLines_succ, same n (by omega), step, List.range_succ, List.reverse_append, List.reverse_singleton, List.singleton_append,
      List.find?_cons, ih (by omega)]
    cases act.getLsbD (16 * n + q) <;> simp [hq]

end

/-! ### Vector loads and stores (R245, R206) -/

theorem vecLine_eq (c : Core) (off : BitVec 12) (sstr sb : SReg) (i : Nat) :
    vecLine c off sstr sb i = vmLine (vmBase c off sb) (vmStride c sstr) i := by
  have offset : BitVec.ofInt 64 (64 * off.toInt) = off.signExtend 64 * 64#64 := by
    rw [BitVec.ofInt_mul, mul_comm]
    rfl
  rw [vecLine, vmLine, vmBase, vmStride, offset]

/-- An access that may act has aligned lines, the first one included. -/
theorem vecAccess_lines {c : Core} {write : Bool} {off : BitVec 12} {sstr sb : SReg} (h : VecAccess c write off sstr sb) :
    vmStride c sstr % 64 = 0 ∧ (∀ i, i < 8 → (vecLine c off sstr sb i : Int) = vmBase c off sb + vmStride c sstr * i) ∧
    ∀ i, i < 8 → vecLine c off sstr sb i % 64 = 0 := by
  obtain ⟨_, _, cause⟩ := h
  unfold vmCause at cause
  split at cause
  · cases cause
  next aligned =>
    dsimp only at cause
    split at cause
    · cases cause
    next low =>
      obtain ⟨hbase, hstride⟩ := not_or.1 aligned
      have lines (i : Nat) (hi : i < 8) : 0 ≤ (vmBase c off sb : Int) + vmStride c sstr * i ∧
          ((vmBase c off sb : Int) + vmStride c sstr * i) % 64 = 0 := by
        interval_cases i <;> omega
      refine ⟨by omega, fun i hi => ?_, fun i hi => ?_⟩
      · rw [vecLine_eq, vmLine, Int.toNat_of_nonneg (lines i hi).1]
      · rw [vecLine_eq, vmLine]
        have := lines i hi
        omega

theorem vecAccess_faultless {c : Core} {write : Bool} {off : BitVec 12} {sstr sb : SReg} (h : VecAccess c write off sstr sb) :
    (c.rf0.sBad sb || (decide (sstr.val ≠ 0) && c.rf0.sBad sstr)) = false := by
  obtain ⟨base, stride, _⟩ := h
  rcases stride with stride | stride <;> simp [base, stride]

/-- The first of some numbers that has a value decides. -/
theorem findSome_range {β : Type} {f : Nat → Option β} {n i : Nat} (hi : i < n) {t : β} (h : f i = some t)
    (first : ∀ k, k < i → f k = none) : (List.range n).findSome? f = some t := by
  induction n with
  | zero => omega
  | succ n ih =>
    rw [List.range_succ, List.findSome?_append]
    by_cases here : i = n
    · have none : (List.range n).findSome? f = none :=
        List.findSome?_eq_none_iff.2 fun k hk => first k (by have := List.mem_range.1 hk; omega)
      subst here
      simp [none, h]
    · rw [ih (by omega)]
      rfl

theorem leNum_lt (bs : List Byte) : leNum bs < 256 ^ bs.length := by
  induction bs with
  | nil => simp [leNum]
  | cons b bs ih =>
    have step : leNum (b :: bs) = b.toNat + 256 * leNum bs := rfl
    rw [step, List.length_cons, Nat.pow_succ]
    omega

theorem leNum_drop (bs : List Byte) (k : Nat) : leNum bs / 256 ^ k = leNum (bs.drop k) := by
  induction bs generalizing k with
  | nil => simp [leNum]
  | cons b bs ih =>
    cases k with
    | zero => simp
    | succ k =>
      have step : leNum (b :: bs) = b.toNat + 256 * leNum bs := rfl
      rw [step, Nat.pow_succ', ← Nat.div_div_eq_div_mul, show (b.toNat + 256 * leNum bs) / 256 = leNum bs by omega, ih, List.drop_succ_cons]

theorem leNum_take (bs : List Byte) (n : Nat) : leNum bs % 256 ^ n = leNum (bs.take n) := by
  induction bs generalizing n with
  | nil => simp [leNum]
  | cons b bs ih =>
    cases n with
    | zero => simp [leNum, Nat.mod_one]
    | succ n =>
      have step (b : Byte) (bs : List Byte) : leNum (b :: bs) = b.toNat + 256 * leNum bs := rfl
      rw [step, Nat.pow_succ', Nat.mod_mul, show (b.toNat + 256 * leNum bs) / 256 = leNum bs by omega, ih, List.take_succ_cons, step]
      omega

theorem slice_eq {bs : List Byte} {off n : Nat} (h : off + n ≤ bs.length) : slice bs off n = (bs.drop off).take n := by
  rw [slice, fit, List.take_append_of_le_length (by rw [List.length_drop]; omega)]

/-- Some bytes of a number are the number that they spell. -/
theorem leNum_slice (bs : List Byte) (k n : Nat) (h : k + n ≤ bs.length) : leNum bs / 256 ^ k % 256 ^ n = leNum (slice bs k n) := by
  rw [leNum_drop, leNum_take, slice_eq h]

/-- A lane of bytes put together as a vector. -/
theorem elemGet_vecOfBytes (bs : List Byte) (hlen : bs.length = 512) {l : Nat} (hl : l < 128) :
    elemGet .int32 (vecOfBytes bs) l = BitVec.ofNat 32 (leNum (slice bs (4 * l) 4)) := by
  have small := leNum_lt bs
  rw [hlen, show (256 : Nat) ^ 512 = 2 ^ 4096 from (Nat.pow_mul 2 8 512).symm] at small
  have bits : (2 : Nat) ^ (fmtBits .int32 * l) = 256 ^ (4 * l) := by
    rw [show fmtBits .int32 * l = 8 * (4 * l) by rw [show fmtBits .int32 = 32 from rfl]; omega, Nat.pow_mul]
  rw [elemGet, vecOfBytes, BitVec.toNat_ofNat, Nat.mod_eq_of_lt small, bits, ← leNum_slice bs (4 * l) 4 (by omega)]
  rfl

theorem slice_slice {bs : List Byte} {off m k n : Nat} (h : k + n ≤ m) (hm : off + m ≤ bs.length) :
    slice (slice bs off m) k n = slice bs (off + k) n := by
  rw [slice_eq hm, slice_eq (by rw [List.length_take, List.length_drop]; omega), slice_eq (by omega), List.drop_take, List.drop_drop,
    List.take_take, Nat.min_eq_left (by omega)]

theorem slice_spadRead (c : Core) (a : Nat) {m k n : Nat} (h : k + n ≤ m) : slice (c.spadRead a m) k n = c.spadRead (a + k) n := by
  rw [slice_eq (by simpa [Core.spadRead] using h)]
  refine List.ext_getElem (by simp [Core.spadRead]; omega) fun i _ _ => ?_
  simp [Core.spadRead, Nat.add_assoc]

/-- The bytes of a lane, of the lines read in order. -/
theorem slice_lines (c : Core) (line : Nat → Nat) {l : Nat} (hl : l < 128) :
    slice ((List.range 8).flatMap (fun i => c.spadRead (line i) 64)) (4 * l) 4 = c.spadRead (line (l / 16) + 4 * (l % 16)) 4 := by
  have size (i : Nat) : (c.spadRead (line i) 64).length = 64 := by simp [Core.spadRead]
  have len := length_flatMap_bytes _ 64 size (List.range 8)
  rw [List.length_range] at len
  rw [show 4 * l = 64 * (l / 16) + 4 * (l % 16) by omega, ← slice_slice (m := 64) (by omega) (by omega),
    slice_flatMap _ 64 size _ 0 (by rw [List.length_range]; omega), slice_spadRead c _ (by omega),
    List.getD_eq_getElem _ _ (by rw [List.length_range]; omega), List.getElem_range]

theorem vmAccess_next {i : Instr} {s : State} {u : CoreRef} (h : Issues i s u 2) {write : Bool} {off : BitVec 12} {sstr sb : SReg}
    (access : VecAccess (found s u 2) write off sstr sb) (body : Core → (Nat → Nat) → State) :
    vmAccess i write u off sstr sb s body = .next (body (found s u 2) (vecLine (found s u 2) off sstr sb)) := by
  have lines : vecLine (found s u 2) off sstr sb = vmLine (vmBase (found s u 2) off sb) (vmStride (found s u 2) sstr) :=
    funext (vecLine_eq _ off sstr sb)
  rw [vmAccess, slotVector, issue_of_mayIssue h]
  simp only [vecAccess_faultless access, Bool.false_eq_true, if_false, access.2.2, lines]

/-- Settles O15. -/
theorem vectorLoadsAndStores : Obligations.VectorLoadsAndStores := by
  unfold Obligations.VectorLoadsAndStores
  refine ⟨?load, ?store⟩
  case load =>
    intro s u off sstr sb pq vd h c line access
    have ⟨_, (place : ∀ i, i < 8 → (line i : Int) = vmBase c off sb + vmStride c sstr * i),
      (aligned : ∀ i, i < 8 → line i % 64 = 0)⟩ := vecAccess_lines access
    have one (i : Nat) (hi : i < 8) : linesTouched (line i) 64 = [line i / 64] :=
      linesTouched_of_inLine (by omega) (by have := aligned i hi; omega)
    have tag (i : Nat) (hi : i < 8) : c.rangeTag (line i) 64 = c.lineTag (line i / 64) := by
      rw [Core.rangeTag, one i hi]
      simp
    have poison (i : Nat) (hi : i < 8) : c.rangeBad (line i) 64 = c.lineBad (line i / 64) := by
      rw [Core.rangeBad, one i hi]
      simp
    refine ⟨fun clean => ?_, fun i t hi htag first => ?_⟩
    · have none : (List.range 8).findSome? (fun i => c.rangeTag (line i) 64) = none := by
        rw [List.findSome?_eq_none_iff]
        exact fun i hi => (tag i (List.mem_range.1 hi)).trans (clean i (List.mem_range.1 hi))
      have run : exec (.vld u off sstr sb pq vd) s = .next (s.setCore (refKey u) (c.vecWrite pq vd
          (vecOfBytes ((List.range 8).flatMap (fun i => c.spadRead (line i) 64))) (laneBits (fun l => c.rangeBad (line (l / 16)) 64)))) := by
        simp only [exec, execVld, vmAccess_next h access, State.put]
        exact congrArg _ (by rw [show (List.range 8).findSome? (fun i => (found s u 2).rangeTag (vecLine (found s u 2) off sstr sb i) 64) = _ from none])
      refine ⟨_, run, vecWrite_flags .., vectorWritten_vecWrite _ .int32 pq vd (fun l hl => ?_) (fun l hl => ?_)⟩
      · rw [elemGet_mod, elemGet_vecOfBytes _ (length_flatMap_bytes _ 64 (fun i => by simp [Core.spadRead]) _) hl,
          slice_lines _ _ (show l < 128 from hl)]
      · rw [laneBits_getLsbD _ hl, poison _ (by omega)]
    · have fault : (List.range 8).findSome? (fun i => c.rangeTag (line i) 64) = some t :=
        findSome_range hi ((tag i hi).trans htag) fun k hk => (tag k (by omega)).trans (first k hk)
      simp only [exec, execVld, vmAccess_next h access]
      exact congrArg _ (by rw [show (List.range 8).findSome? (fun i => (found s u 2).rangeTag (vecLine (found s u 2) off sstr sb i) 64) = _ from fault]; rfl)
  case store =>
    intro s u off sstr sb pq vd h c line act whole access
    have ⟨_, (place : ∀ i, i < 8 → (line i : Int) = vmBase c off sb + vmStride c sstr * i),
      (aligned : ∀ i, i < 8 → line i % 64 = 0)⟩ := vecAccess_lines access
    have frame := linesStored_storeLines c (c.rf0.vGet vd) (activeLanes c.rf0 pq) (c.rf0.vBad vd ||| allLanes (predBad c.rf0 pq))
      aligned 8 (by omega)
    have run : exec (.vst u off sstr sb pq vd) s = .next (s.setCore (refKey u) (storeLines c (c.rf0.vGet vd) line
        (activeLanes c.rf0 pq) (c.rf0.vBad vd ||| allLanes (predBad c.rf0 pq)) 8)) := by
      simp only [exec, execVst, vmAccess_next h access, State.put]
      rfl
    refine ⟨_, run, frame.only, frame.outside, frame.others, fun moving => ?_, fun still => ?_⟩
    · have apart : ∀ i k, i < 8 → k < 8 → i ≠ k → line i / 64 ≠ line k / 64 := by
        intro i k hi hk hne
        have := place i hi
        have := place k hk
        have := aligned i hi
        have := aligned k hk
        intro meet
        have eq : vmStride c sstr * i = vmStride c sstr * k := by omega
        exact hne (by exact_mod_cast mul_left_cancel₀ moving eq)
      obtain ⟨inside, poison, tag, lost⟩ := linesApart_storeLines c (c.rf0.vGet vd) (activeLanes c.rf0 pq)
        (c.rf0.vBad vd ||| allLanes (predBad c.rf0 pq)) aligned apart 8 (by omega)
      refine ⟨fun l j hl hj => ?_, fun i hi => ?_, tag, lost⟩
      · have := inside (l / 16) (l % 16) j (by omega) (by omega) hj
        rwa [Nat.div_add_mod] at this
      · rw [poison i hi]
        have lanes : (List.range 16).any (fun q => act (16 * i + q) && (c.rf0.vBad vd ||| allLanes (predBad c.rf0 pq)).getLsbD (16 * i + q)) =
            (List.range 16).any (fun q => act (16 * i + q) && laneBad c pq vd (16 * i + q)) := by
          rw [Bool.eq_iff_iff, List.any_eq_true, List.any_eq_true]
          refine exists_congr fun q => and_congr_right fun hq => ?_
          rw [BitVec.getLsbD_or, getLsbD_allLanes _ (by have := List.mem_range.1 hq; omega), laneBad]
        rw [← lanes]
    · intro q j hq hj
      have same : ∀ i, i < 8 → line i = line 0 := by
        intro i hi
        have here := place i hi
        have first := place 0 (by omega)
        rw [still] at here first
        have here : (line i : Int) = vmBase c off sb + 0 * i := here
        have first : (line 0 : Int) = vmBase c off sb + 0 * (0 : Nat) := first
        omega
      rw [spadByte_storeLines_same c _ _ _ aligned same 8 (by omega) hq hj]
      cases (List.range 8).reverse.find? (fun i => (activeLanes c.rf0 pq).getLsbD (16 * i + q)) <;> rfl

/-! ### Long forms in the scratchpad (R139, R142, R248, R249) -/

/-- The number of limbs of a long form in memory. -/
def limbs (wide : Bool) : Nat := if wide then 7 else 1

theorem lfSize_eq (wide : Bool) : lfSize wide = 20 * limbs wide := by cases wide <;> rfl

theorem length_start (anc : Int) (fl : RedFlags) : (WideForm.start anc fl).length = 7 := by simp [WideForm.start, wideLimbs]

theorem length_accLimbs (w : WideForm) (m e : Int) : (accLimbs w m e).length = w.length := by
  induction w generalizing m with
  | nil => rfl
  | cons l ls ih =>
    rw [accLimbs]
    split
    · rfl
    · rw [List.length_cons, List.length_cons, ih]

theorem length_accWide (w : WideForm) (t : Term) : (accWide w t).length = w.length := by
  cases t with
  | num m e => exact length_accLimbs w m e
  | inf neg => cases w <;> rfl
  | nan => cases w <;> rfl

theorem length_reduceTerms (anc : Int) (fl : RedFlags) (ts : List (Term × Bool)) : (reduceTerms anc fl ts).length = 7 := by
  refine List.foldlRecOn (motive := fun w : WideForm => w.length = 7) ts _ (length_start anc fl) fun w hw t _ => ?_
  have kept := length_accWide w t.1
  rw [hw] at kept
  split
  next none => simp [none] at kept
  next l ls some => simpa [some] using kept

theorem length_settle (strict : Bool) (w : WideForm) : (w.settle strict).length = w.length := by
  cases w with
  | nil => rfl
  | cons l ls =>
    rw [WideForm.settle]
    split <;> simp

theorem length_segForm (c : Core) (strict : Bool) (sp : AncSpec) (form : Form) (f : Fmt) (pq : PredCtl) (va vb vcr : VReg)
    (nseg i : Nat) : (segForm c strict sp form f pq va vb vcr nseg i).length = 7 := by
  simp only [segForm]
  rw [length_settle]
  split
  next none =>
    have len := congrArg List.length none
    rw [length_reduceTerms] at len
    cases len
  next l ls some =>
    have len := congrArg List.length some
    rw [length_reduceTerms] at len
    exact len.symm

theorem length_asA64 (w : WideForm) : w.asA64.length = w.length := by cases w <;> rfl

theorem length_readLf (c : Core) (wide : Bool) (a : Nat) : (c.readLf wide a).length = limbs wide := by
  cases wide
  · rfl
  · simp only [Core.readLf, if_true]
    have len : (WideForm.ofBytes (c.spadRead a (lfSize true))).length = 7 := by simp [WideForm.ofBytes, wideLimbs]
    split
    next none => simp [none] at len
    next l ls some =>
      rw [some] at len
      exact len

theorem length_wideBytes (w : WideForm) : (WideForm.bytes w).length = 20 * w.length :=
  length_flatMap_bytes _ 20 length_bytes w

theorem length_leave (w : WideForm) : (WideForm.leave w).length = w.length := List.length_map ..

/-- A long form written. -/
theorem spadStored_writeLf (c : Core) (a : Nat) (w : WideForm) : SpadStored c (c.writeLf a w) a (WideForm.bytes (WideForm.leave w)) :=
  spadStored_spadWrite c a _ _ none

/-- Long forms of one size written one behind the other. -/
theorem spadStored_writeLfs (c : Core) (a z : Nat) (w : Nat → WideForm) (hw : ∀ i, 20 * (w i).length = z) (n : Nat) :
    SpadStored c ((List.range n).foldl (fun c i => c.writeLf (a + z * i) (w i)) c) a
      ((List.range n).flatMap (fun i => WideForm.bytes (WideForm.leave (w i)))) := by
  induction n with
  | zero => exact spadStored_nil c a
  | succ n ih =>
    have size (i : Nat) : (WideForm.bytes (WideForm.leave (w i))).length = z := by rw [length_wideBytes, length_leave, hw]
    rw [List.range_succ, List.foldl_append, List.foldl_cons, List.foldl_nil, List.flatMap_append, List.flatMap_singleton]
    refine ih.append ?_
    rw [length_flatMap_bytes _ z size, List.length_range]
    exact spadStored_writeLf ..

theorem read_writeLfs (c : Core) (a z : Nat) (w : Nat → WideForm) (hw : ∀ i, 20 * (w i).length = z) {n i : Nat} (hi : i < n) :
    ((List.range n).foldl (fun c i => c.writeLf (a + z * i) (w i)) c).spadRead (a + z * i) z =
      WideForm.bytes (WideForm.leave (w i)) := by
  have size (i : Nat) : (WideForm.bytes (WideForm.leave (w i))).length = z := by rw [length_wideBytes, length_leave, hw]
  have total := length_flatMap_bytes _ z size (List.range n)
  rw [List.length_range] at total
  have room : z * i + z ≤ z * n := by
    rw [← Nat.mul_succ]
    exact Nat.mul_le_mul_left _ hi
  rw [(spadStored_writeLfs c a z w hw n).read (by omega), slice_flatMap _ z size _ 0 (by simpa using hi),
    List.getD_eq_getElem _ _ (by simpa using hi), List.getElem_range]

/-! ### The combination of arrays (R249) -/

theorem lineBad_spadWriteAux (bad : Bool) (tag : Option FaultTag) (n : Nat) (c : Core) (a : Nat) (bs : List Byte) (k : Nat)
    (h : ∀ i, i < bs.length → (a + i) / 64 ≠ k) : (Core.spadWriteAux bad tag n c a bs).lineBad k = c.lineBad k := by
  induction n generalizing c a bs with
  | zero => rfl
  | succ n ih =>
    by_cases done : bs = []
    · subst done
      rfl
    · have some : 0 < bs.length := List.length_pos_iff.2 done
      have here : k ≠ a / 64 := fun e => h 0 some (by rw [e, Nat.add_zero])
      rw [Core.spadWriteAux, if_neg (by simpa using done)]
      rw [ih _ _ _ fun i hi => ?_]
      · simp only [Core.lineBad, Core.spadWriteLine, SMap.get_set_ne _ _ _ _ _ here]
      · rw [List.length_drop] at hi
        rw [List.length_take, Nat.min_eq_left (by omega), Nat.add_assoc]
        exact h _ (by omega)

/-- A write leaves the poison of the lines that it does not touch. -/
theorem lineBad_writeLf (c : Core) (a : Nat) (w : WideForm) (k : Nat) (h : ∀ i, i < 20 * w.length → (a + i) / 64 ≠ k) :
    (c.writeLf a w).lineBad k = c.lineBad k :=
  lineBad_spadWriteAux _ _ _ c a _ k fun i hi => h i (by rwa [length_wideBytes, length_leave] at hi)

/-- The combination of two elements of arrays of long forms. -/
def combOne (wide : Bool) (a b : Nat) (x : Core) (i : Nat) : WideForm :=
  WideForm.combine (x.readLf wide (a + lfSize wide * i)) (x.readLf wide (b + lfSize wide * i))

/-- One element combined and written, and whether one overflowed. -/
def combStep (wide : Bool) (d a b : Nat) (x : Core × Bool) (i : Nat) : Core × Bool :=
  (x.1.writeLf (d + lfSize wide * i) (combOne wide a b x.1 i), x.2 || lfOverflow (combOne wide a b x.1 i))

/-- The arrays combined up to an element. -/
def combFold (wide : Bool) (d a b : Nat) (c : Core) (n : Nat) : Core × Bool := (List.range n).foldl (combStep wide d a b) (c, false)

theorem combLoop_eq (wide : Bool) (d a b k i : Nat) (c : Core) (o : Bool) :
    combLoop wide d a b k i c o = (List.range' i k).foldl (combStep wide d a b) (c, o) := by
  induction k generalizing i c o with
  | zero => rfl
  | succ k ih =>
    rw [combLoop, List.range'_succ, List.foldl_cons, ih]
    rfl

theorem combFold_succ (wide : Bool) (d a b : Nat) (c : Core) (n : Nat) :
    combFold wide d a b c (n + 1) = combStep wide d a b (combFold wide d a b c n) n := by
  rw [combFold, List.range_succ, List.foldl_append]
  rfl

section
variable (wide : Bool) (d a b : Nat) (c : Core)

theorem length_combOne (x : Core) (i : Nat) : (combOne wide a b x i).length = limbs wide := by
  rw [combOne, WideForm.combine, List.length_zipWith, length_readLf, length_readLf, Nat.min_self]

theorem combFold_stored (n : Nat) : ∃ bs, bs.length = lfSize wide * n ∧ SpadStored c (combFold wide d a b c n).1 d bs := by
  induction n with
  | zero => exact ⟨[], rfl, spadStored_nil c d⟩
  | succ n ih =>
    obtain ⟨bs, len, stored⟩ := ih
    have last := spadStored_writeLf (combFold wide d a b c n).1 (d + bs.length) (combOne wide a b (combFold wide d a b c n).1 n)
    rw [combFold_succ]
    rw [len] at last
    refine ⟨_, ?_, stored.append (by rw [len]; exact last)⟩
    rw [List.length_append, len, length_wideBytes, length_leave, length_combOne, ← lfSize_eq, Nat.mul_succ]

theorem combFold_lineBad (n k : Nat) (h : ∀ i, i < lfSize wide * n → (d + i) / 64 ≠ k) :
    (combFold wide d a b c n).1.lineBad k = c.lineBad k := by
  induction n with
  | zero => rfl
  | succ n ih =>
    rw [Nat.mul_succ] at h
    rw [combFold_succ, ← ih fun i hi => h i (by omega)]
    refine lineBad_writeLf _ _ _ k fun i hi => ?_
    rw [length_combOne, ← lfSize_eq] at hi
    rw [Nat.add_assoc]
    exact h _ (by omega)

/-- A read of what no write has touched. -/
theorem readLf_combFold (n e : Nat) (h : ∀ i j, i < lfSize wide * n → j < lfSize wide → (d + i) / 64 ≠ (e + j) / 64) :
    (combFold wide d a b c n).1.readLf wide e = c.readLf wide e := by
  obtain ⟨bs, len, stored⟩ := combFold_stored wide d a b c n
  have bytes : (combFold wide d a b c n).1.spadRead e (lfSize wide) = c.spadRead e (lfSize wide) := by
    refine List.map_congr_left fun j hj => stored.outside _ ?_
    have hj := List.mem_range.1 hj
    by_contra inside
    exact h (e + j - d) j (by omega) hj (by rw [show d + (e + j - d) = e + j by omega])
  have bad : (combFold wide d a b c n).1.rangeBad e (lfSize wide) = c.rangeBad e (lfSize wide) := by
    have size : 0 < lfSize wide := by cases wide <;> decide
    rw [Core.rangeBad, Core.rangeBad, Bool.eq_iff_iff, List.any_eq_true, List.any_eq_true]
    refine exists_congr fun l => and_congr_right fun hl => ?_
    obtain ⟨t, ht, rfl⟩ := List.mem_map.1 hl
    have ht := List.mem_range.1 ht
    rw [combFold_lineBad wide d a b c n _ fun i hi => ?_]
    by_cases first : t = 0
    · have := h i 0 hi size
      subst first
      exact this
    · have := h i (64 * (e / 64 + t) - e) hi (by omega)
      rwa [show (e + (64 * (e / 64 + t) - e)) / 64 = e / 64 + t by omega] at this
  simp only [Core.readLf, bytes, bad]

/-- With the target apart from the sources, every element is the combination of what they held. -/
theorem combFold_apart (n : Nat)
    (ha : ∀ i j, i < lfSize wide * n → j < lfSize wide * n → (d + i) / 64 ≠ (a + j) / 64)
    (hb : ∀ i j, i < lfSize wide * n → j < lfSize wide * n → (d + i) / 64 ≠ (b + j) / 64) (m : Nat) (hm : m ≤ n) :
    combFold wide d a b c m = ((List.range m).foldl (fun x i => x.writeLf (d + lfSize wide * i) (combOne wide a b c i)) c,
      (List.range m).any (fun i => lfOverflow (combOne wide a b c i))) := by
  induction m with
  | zero => rfl
  | succ m ih =>
    have room : lfSize wide * m + lfSize wide ≤ lfSize wide * n := by
      rw [← Nat.mul_succ]
      exact Nat.mul_le_mul_left _ hm
    have one : combOne wide a b (combFold wide d a b c m).1 m = combOne wide a b c m := by
      rw [combOne, combOne, readLf_combFold wide d a b c m _ fun i j hi hj => ?_, readLf_combFold wide d a b c m _ fun i j hi hj => ?_]
      · rw [Nat.add_assoc]
        exact hb i (lfSize wide * m + j) (by omega) (by omega)
      · rw [Nat.add_assoc]
        exact ha i (lfSize wide * m + j) (by omega) (by omega)
    rw [combFold_succ, combStep, one, ih (by omega), List.range_succ, List.foldl_append, List.any_append]
    simp

end

theorem zip_map_self {α β : Type} (f : α → β) (l : List α) : (l.map f).zip l = l.map (fun i => (f i, i)) := by
  induction l with
  | nil => rfl
  | cons i l ih => rw [List.map_cons, List.zip_cons_cons, ih, List.map_cons]

theorem readLf_false (c : Core) (a : Nat) :
    c.readLf false a = [accPoison (LongForm.ofBytes (c.spadRead a (lfSize false))) (c.rangeBad a (lfSize false))] := rfl

/-- Settles O16. -/
theorem reductionsAndLongForms : Obligations.ReductionsAndLongForms := by
  unfold Obligations.ReductionsAndLongForms
  refine ⟨?reduce, ?combine, ?drain⟩
  case reduce =>
    intro s u init pq sspec saddr vcr vb va seg form fmt hok h c strict size a sp seg1 one good aligned write read range
    have run : exec (.vred u init pq sspec saddr vcr vb va seg form fmt) s =
        .next ((s.setCore (refKey u) ((List.range (2 ^ seg)).foldl (fun c i => c.writeLf (a + size * i) (one i)) c)).overflowIf u.pen
          ((List.range (2 ^ seg)).any (fun i => lfOverflow (one i)))) := by
      have good : (found s u 2).rf0.sBad saddr = false := good
      have cause : (found s u 2).accessCause ((found s u 2).rf0.sGet saddr).toNat (2 ^ seg * lfSize (found s u 2).cfg.strict) 4 true = none := by
        have aligned : ((found s u 2).rf0.sGet saddr).toNat % 4 = 0 := aligned
        rw [Core.accessCause, if_neg (not_not.2 aligned)]
        exact if_pos write
      have readable : (!init && !(found s u 2).spadOk ((found s u 2).rf0.sGet saddr).toNat (2 ^ seg * lfSize (found s u 2).cfg.strict) false) =
          false := by
        rcases read with rfl | ⟨ok, _⟩
        · rfl
        · rw [show (found s u 2).spadOk ((found s u 2).rf0.sGet saddr).toNat (2 ^ seg * lfSize (found s u 2).cfg.strict) false = true from ok]
          exact Bool.and_false _
      have tag : (if init = true then none
          else (found s u 2).rangeTag ((found s u 2).rf0.sGet saddr).toNat (2 ^ seg * lfSize (found s u 2).cfg.strict)) = none := by
        rcases read with rfl | ⟨_, clean⟩
        · rfl
        · rw [show (found s u 2).rangeTag ((found s u 2).rf0.sGet saddr).toNat (2 ^ seg * lfSize (found s u 2).cfg.strict) = none from clean]
          exact ite_self _
      have inRange : ((found s u 2).cfg.strict && (List.range (2 ^ seg)).any
          (segRange (found s u 2) (ancSpecFields ((found s u 2).rf0.sGet sspec)) vcr (2 ^ seg))) = false := by
        rcases range with fast | all
        · rw [show (found s u 2).cfg.strict = false from fast]
          rfl
        · rw [Bool.and_eq_false_iff]
          refine .inr (List.any_eq_false.2 fun i hi => ?_)
          rw [show segRange (found s u 2) (ancSpecFields ((found s u 2).rf0.sGet sspec)) vcr (2 ^ seg) i = false from
            all i (List.mem_range.1 hi)]
          decide
      simp only [exec, execVred, slotVector, issueIf_of_mayIssue h hok, good, cause, readable, inRange, tag,
        Bool.false_eq_true, if_false, zip_map_self, List.foldl_map, List.any_map, State.put]
      rfl
    have limbsOf (i : Nat) : 20 * (one i).length = size := by
      have size_eq : size = 20 * limbs strict := lfSize_eq strict
      have whole : (if strict = true then seg1 i else (seg1 i).take 1).length = limbs strict := by
        cases strict with
        | true => exact length_segForm ..
        | false =>
          simp only [Bool.false_eq_true, if_false, List.length_take]
          rw [show (seg1 i).length = 7 from length_segForm ..]
          rfl
      have combined : (if init = true then (if strict = true then seg1 i else (seg1 i).take 1)
          else WideForm.combine (c.readLf strict (a + size * i)) (if strict = true then seg1 i else (seg1 i).take 1)).length = limbs strict := by
        cases init with
        | true => exact whole
        | false =>
          simp only [Bool.false_eq_true, if_false]
          rw [WideForm.combine, List.length_zipWith, length_readLf, whole, Nat.min_self]
      rw [size_eq]
      by_cases block : sp.src = .block
      · simp only [one, block, if_true]
        rw [length_asA64, combined]
      · simp only [one, block, if_false]
        rw [combined]
    have stored := spadStored_writeLfs c a size one limbsOf (2 ^ seg)
    have total := length_flatMap_bytes _ size (fun i => by rw [length_wideBytes, length_leave, limbsOf i]) (List.range (2 ^ seg))
    rw [List.length_range] at total
    exact ⟨_, run, rfl, stored.only, fun i hi => read_writeLfs c a size one limbsOf hi,
      fun x hx => stored.outside x (by rw [total, Nat.mul_comm]; exact hx)⟩
  case combine =>
    intro s u n sb sa sd wide h c a b d z len one gsa gsb gsd
    have sources : ((found s u 2).rf0.sBad sa || (found s u 2).rf0.sBad sb || (found s u 2).rf0.sBad sd) = false := by
      rw [show (found s u 2).rf0.sBad sa = false from gsa, show (found s u 2).rf0.sBad sb = false from gsb,
        show (found s u 2).rf0.sBad sd = false from gsd]
      rfl
    refine ⟨?none, ?some⟩
    case none =>
      rintro rfl
      simp only [exec, execVlfComb, slotVector, issue_of_mayIssue h, sources, Bool.false_eq_true, if_false, if_true, State.put]
      rfl
    case some =>
      intro pos alA alB alD readA readB write tagA tagB r
      have some : n ≠ 0#16 := by
        rintro rfl
        simp at pos
      have cause {e : Nat} {w : Bool} (al : e % 4 = 0) (ok : (found s u 2).spadOk e (n.toNat * lfSize wide) w = true) :
          (found s u 2).accessCause e (n.toNat * lfSize wide) 4 w = none := by
        rw [Core.accessCause, if_neg (not_not.2 al), if_pos ok]
      have causeA : (found s u 2).accessCause ((found s u 2).rf0.sGet sa).toNat (n.toNat * lfSize wide) 4 false = none := cause alA readA
      have causeB : (found s u 2).accessCause ((found s u 2).rf0.sGet sb).toNat (n.toNat * lfSize wide) 4 false = none := cause alB readB
      have causeD : (found s u 2).accessCause ((found s u 2).rf0.sGet sd).toNat (n.toNat * lfSize wide) 4 true = none := cause alD write
      have tagA : (found s u 2).rangeTag ((found s u 2).rf0.sGet sa).toNat (n.toNat * lfSize wide) = none := tagA
      have tagB : (found s u 2).rangeTag ((found s u 2).rf0.sGet sb).toNat (n.toNat * lfSize wide) = none := tagB
      have run : exec (.vlfComb u n sb sa sd wide) s = .next ((s.setCore (refKey u) r.1).overflowIf u.pen r.2) := by
        simp only [exec, execVlfComb, slotVector, issue_of_mayIssue h, sources, some, causeA, causeB, causeD,
          tagA, tagB, combLoop_eq, ← List.range_eq_range', Bool.false_eq_true, if_false, State.put]
        rfl
      obtain ⟨bs, hlen, stored⟩ := combFold_stored wide d a b c n.toNat
      refine ⟨run, stored.only, fun x hx => stored.outside x (by rw [hlen, Nat.mul_comm]; exact hx), fun apartA apartB => ?_⟩
      have apart {e : Nat} (meet : linesMeet e len d len = false) (i j : Nat) (hi : i < lfSize wide * n.toNat)
          (hj : j < lfSize wide * n.toNat) : (d + i) / 64 ≠ (e + j) / 64 := by
        have size : len = lfSize wide * n.toNat := Nat.mul_comm ..
        rw [← size] at hi hj
        simp only [linesMeet, Bool.and_eq_false_iff, decide_eq_false_iff_not] at meet
        omega
      have result := combFold_apart wide d a b c n.toNat (apart apartA) (apart apartB) n.toNat (le_refl _)
      have result : r = _ := result
      rw [result]
      refine ⟨rfl, fun i hi => ?_⟩
      exact read_writeLfs c d (lfSize wide) (combOne wide a b c) (fun i => by rw [length_combOne, ← lfSize_eq]) hi
  case drain =>
    intro s u sa wide sat fmt vd h c a z drained good aligned ok tag
    have good : (found s u 2).rf0.sBad sa = false := good
    have cause : (found s u 2).accessCause ((found s u 2).rf0.sGet sa).toNat (fmtElems fmt * lfSize wide) 4 false = none := by
      have aligned : ((found s u 2).rf0.sGet sa).toNat % 4 = 0 := aligned
      rw [Core.accessCause, if_neg (not_not.2 aligned)]
      exact if_pos ok
    have tag : (found s u 2).rangeTag ((found s u 2).rf0.sGet sa).toNat (fmtElems fmt * lfSize wide) = none := tag
    have run : exec (.vlfDrain u fmt sat wide sa vd) s = .next (s.setCore (refKey u)
        ((c.vecWrite none vd (ofElems fmt (((List.range (fmtElems fmt)).map drained).map Drained.w)) (laneBits (fun l =>
          (List.range (fmtElems fmt)).any (fun i => decide (laneOf fmt i = l) &&
            (((List.range (fmtElems fmt)).map drained).getD i ⟨0#32, 0#5, false⟩).poison)))).raise
          (((List.range (fmtElems fmt)).map drained).map Drained.fl))) := by
      cases wide with
      | true =>
        simp only [exec, execVlfDrain, slotVector, issue_of_mayIssue h, good, cause, tag, Bool.false_eq_true, if_false, if_true, State.put]
        rfl
      | false =>
        simp only [exec, execVlfDrain, slotVector, issue_of_mayIssue h, good, cause, tag, Bool.false_eq_true, if_false, State.put, readLf_false]
        rfl
    refine ⟨_, run, ?_, fun b _ => ?_⟩
    · rw [raise_eq]
      refine VectorWritten.with_flags (vectorWritten_vecWrite c fmt none vd (fun i hi => ?_) (fun l hl => ?_)) _
      · rw [List.map_map, elemGet_ofElems_range fmt _ hi]
        rfl
      · rw [laneBits_getLsbD _ hl, Bool.eq_iff_iff, List.any_eq_true, List.any_eq_true]
        refine exists_congr fun i => and_congr_right fun hi => ?_
        rw [List.getD_eq_getElem _ _ (by simpa using hi), List.getElem_map, List.getElem_range]
    · have active : (List.range (fmtElems fmt)).any (fun i => (drained i).fl.getLsbD b) =
          (List.range (fmtElems fmt)).any (fun i => activeAt c none fmt i && (drained i).fl.getLsbD b) := by
        rw [Bool.eq_iff_iff, List.any_eq_true, List.any_eq_true]
        refine exists_congr fun i => and_congr_right fun hi => ?_
        rw [show activeAt c none fmt i = true from getLsbD_ones (laneOf_lt (List.mem_range.1 hi)), Bool.true_and]
      rw [getLsbD_raise, vecWrite_flags, vecWrite_cfg, List.any_map, List.any_map]
      exact congrArg (fun x => c.flags.getLsbD b || (c.cfg.strict && x)) active

end Sys2Proof.Proofs
end

section
namespace Sys2Proof.Proofs

open Sys2Proof Sys2Proof.Machine Sys2Proof.Claims

/-! ### Microinstructions (R440 to R443) -/

theorem unitGet_put_self (x : UnitS) (e r : Nat) (w : Word32) : (x.put e r w).get e r = w :=
  SMap.get_set_self ..

theorem unitGet_put_ne (x : UnitS) {e r e' : Nat} {r' : UReg} (hr : r < 32) (h : ¬ (e' = e ∧ r'.val = r)) (w : Word32) :
    (x.put e r w).get e' r'.val = x.get e' r'.val :=
  SMap.get_set_ne _ _ _ _ _ (by unfold unitKey; omega)

theorem each_get (x : UnitS) (rd : UReg) (f : Nat → Word32) (e : Nat) (r : UReg) :
    (x.each rd.val f).get e r.val = if r = rd ∧ e < x.count then f e else x.get e r.val := by
  have upTo (n : Nat) : ((List.range n).foldl (fun y e => y.put e rd.val (f e)) x).get e r.val =
      if r = rd ∧ e < n then f e else x.get e r.val := by
    induction n with
    | zero => simp
    | succ n ih =>
      rw [List.range_succ, List.foldl_append, List.foldl_cons, List.foldl_nil]
      by_cases here : e = n ∧ r.val = rd.val
      · obtain ⟨rfl, hr⟩ := here
        rw [hr, unitGet_put_self, if_pos ⟨Fin.ext hr, by omega⟩]
      · rw [unitGet_put_ne _ rd.isLt here, ih]
        have same : (r = rd ∧ e < n) ↔ (r = rd ∧ e < n + 1) := by
          constructor
          · exact fun h => ⟨h.1, by omega⟩
          · rintro ⟨rfl, lt⟩
            exact ⟨rfl, by omega⟩
        simp only [same]
  exact upTo x.count

theorem each_frame (x : UnitS) (rd : Nat) (f : Nat → Word32) : x.each rd f = { x with regs := (x.each rd f).regs } :=
  List.foldlRecOn (motive := fun y : UnitS => y = { x with regs := y.regs }) _ _ rfl fun y hy e _ => by rw [hy]; rfl

theorem fabs_eq (a : Word32) : fabs a = a &&& 0x7FFFFFFF#32 := rfl

theorem fneg_eq (a : Word32) : fneg a = a ^^^ 0x80000000#32 := rfl

theorem fcopysign_eq (a b : Word32) : fcopysign a b = (a &&& 0x7FFFFFFF#32) ||| (b &&& 0x80000000#32) := rfl

/-- A finite single-precision word: its exponent decides whether it is subnormal. -/
theorem isZero_decodeF_fp32 (a : Word32) : fIsZero a =
    if a.toNat % 2 ^ 32 / 2 ^ 23 % 2 ^ 8 = 255 then false
    else if a.toNat % 2 ^ 32 / 2 ^ 23 % 2 ^ 8 = 0 then a.toNat % 2 ^ 32 % 2 ^ 23 == 0
    else 2 ^ 23 + a.toNat % 2 ^ 32 % 2 ^ 23 == 0 := by
  have decoded : decodeF .fp32 a =
      if a.toNat % 2 ^ 32 / 2 ^ 23 % 2 ^ 8 = 255 then
        if a.toNat % 2 ^ 32 % 2 ^ 23 = 0 then .inf (decide (a.toNat % 2 ^ 32 / 2 ^ 31 = 1))
        else .nan (decide (a.toNat % 2 ^ 32 / 2 ^ 31 = 1)) (a.toNat % 2 ^ 32 % 2 ^ 23)
      else if a.toNat % 2 ^ 32 / 2 ^ 23 % 2 ^ 8 = 0 then
        .fin (decide (a.toNat % 2 ^ 32 / 2 ^ 31 = 1)) (a.toNat % 2 ^ 32 % 2 ^ 23) (Fmt.emin .fp32 - (23 : Nat))
      else .fin (decide (a.toNat % 2 ^ 32 / 2 ^ 31 = 1)) (2 ^ 23 + a.toNat % 2 ^ 32 % 2 ^ 23)
        (((a.toNat % 2 ^ 32 / 2 ^ 23 % 2 ^ 8 : Nat) : Int) - Fmt.bias .fp32 - (23 : Nat)) := rfl
  rw [fIsZero, decoded]
  simp only [apply_ite FVal.isZero]
  simp only [FVal.isZero, ite_self]

/-- A single-precision word is zero when nothing but its sign is set. -/
theorem fIsZero_iff (a : Word32) : fIsZero a = true ↔ a &&& 0x7FFFFFFF#32 = 0#32 := by
  have low : a &&& 0x7FFFFFFF#32 = 0#32 ↔ a.toNat % 2 ^ 31 = 0 := by
    rw [← BitVec.toNat_inj, BitVec.toNat_and]
    exact Eq.congr_left (Nat.and_two_pow_sub_one_eq_mod a.toNat 31)
  have lt := a.isLt
  rw [low, isZero_decodeF_fp32]
  by_cases top : a.toNat % 2 ^ 32 / 2 ^ 23 % 2 ^ 8 = 255
  · rw [if_pos top]
    simp only [Bool.false_eq_true, false_iff]
    omega
  · by_cases subnormal : a.toNat % 2 ^ 32 / 2 ^ 23 % 2 ^ 8 = 0
    · rw [if_neg top, if_pos subnormal, beq_iff_eq]
      omega
    · rw [if_neg top, if_neg subnormal, beq_iff_eq]
      omega

theorem uselWord_eq (a b c : Word32) : uselWord a b c = if a &&& 0x7FFFFFFF#32 = 0#32 then c else b := by
  simp only [uselWord, fIsZero_iff]

theorem exec_of_microForm {i : Instr} {b : Nat} {rd : UReg} {f : UnitS → Nat → Word32} (h : microForm i = some (b, rd, f)) (s : State) :
    exec i s = whenOk (s.unitOn b) s (s.setUnit b ((s.unit b).each rd.val (f (s.unit b)))) := by
  unfold microForm at h
  split at h <;> cases h <;>
    simp only [exec, execUadd, execUsub, execUmul, execUfma, execUmin, execUmax, execUabs, execUneg, execUcopysign, execUdiv, execUrecip,
      execUsqrt, execUrsqrt, execUexp, execUexp2, execUlog, execUtanh, execUsigmoid, execUerf, execUgelu, execUlt, execUsel, execUldk,
      execUsign, execUbsum, execUbmax, unitDo, UnitS.op1, UnitS.op2, UnitS.op3, UnitS.mode, UnitS.const, UnitS.values,
      fabs_eq, fneg_eq, fcopysign_eq, ultWord, cONE, uselWord_eq]

/-- Settles O28. -/
theorem microinstructionsComputeEveryElement : Obligations.MicroinstructionsComputeEveryElement := by
  unfold Obligations.MicroinstructionsComputeEveryElement
  refine ⟨fun i s b rd f hform on => ?_, fun s b on => ?_⟩
  · rw [exec_of_microForm hform, whenOk, if_pos on]
    exact ⟨_, rfl, each_frame .., fun e r => each_get ..⟩
  · simp only [exec, execUnop, unitDo, whenOk, on, if_true, id]

end Sys2Proof.Proofs
end

section
namespace Sys2Proof.Proofs

open Sys2Proof Sys2Proof.Machine Sys2Proof.Claims

/-! ### The move slot (R198, R199, R207, R252) -/

theorem mover_setMover_self (c : Core) (m : Nat) (x : Mover) : (c.setMover m x).mover m = x :=
  SMap.get_set_self ..

theorem mover_setMover_ne (c : Core) {m k : Nat} (h : k ≠ m) (x : Mover) : (c.setMover m x).mover k = c.mover k :=
  SMap.get_set_ne _ _ _ _ _ h

theorem exec_of_moveForm {i : Instr} {f : MoveForm} (h : moveForm i = some f) (s : State) :
    exec i s = moverPush i f.kind f.u f.m f.sSrc f.sDst f.sCtl f.sSig f.dsrc f.ddst f.cslot s ∧
    ∀ c : Core, c.unitHeld i = decide (8 ≤ (c.mover f.m.val).queue.length) := by
  unfold moveForm at h
  split at h <;> cases h <;> exact ⟨rfl, fun _ => rfl⟩

/-- The fields of a core after a mover's commands are squashed. -/
theorem squashMover_frame (c : Core) (p : MovCmd → Bool) (m : Nat) :
    c.squashMover p m = { c with
      mov := (c.squashMover p m).mov, movSquashed := (c.squashMover p m).movSquashed, movUnconsumed := (c.squashMover p m).movUnconsumed } := by
  unfold Core.squashMover
  dsimp only
  split <;> rfl

theorem squashMover_of_none {c : Core} {p : MovCmd → Bool} {m : Nat} (h : namedBy p (c.mover m) = 0) : c.squashMover p m = c :=
  if_pos h

theorem squashMover_of_some {c : Core} {p : MovCmd → Bool} {m : Nat} (h : namedBy p (c.mover m) ≠ 0) :
    c.squashMover p m = { (c.setMover m
        { queue := (c.mover m).queue.filter (fun q => !p q)
          running := (c.mover m).running.filter (fun r => !p r.cmd), squashing := true }) with
      movSquashed := c.movSquashed + namedBy p (c.mover m)
      movUnconsumed := c.movUnconsumed + ((c.mover m).running.filter (fun r => p r.cmd)).foldl (fun k r => k + r.tagged) 0 } :=
  if_neg h

theorem squashMover_mover (c : Core) (p : MovCmd → Bool) (m k : Nat) : (c.squashMover p m).mover k =
    if k = m ∧ 0 < namedBy p (c.mover m) then
      { queue := (c.mover m).queue.filter (fun q => !p q), running := (c.mover m).running.filter (fun r => !p r.cmd), squashing := true }
    else c.mover k := by
  by_cases none : namedBy p (c.mover m) = 0
  · rw [squashMover_of_none none, if_neg (by omega)]
  · rw [squashMover_of_some none]
    by_cases here : k = m
    · subst here
      rw [if_pos ⟨rfl, by omega⟩]
      exact mover_setMover_self ..
    · rw [if_neg (fun h => here h.1)]
      exact mover_setMover_ne c here _

theorem squashMover_counts (c : Core) (p : MovCmd → Bool) (m : Nat) :
    (c.squashMover p m).movSquashed = c.movSquashed + namedBy p (c.mover m) ∧
    (c.squashMover p m).movUnconsumed = c.movUnconsumed + (((c.mover m).running.filter (fun r => p r.cmd)).map MovRun.tagged).sum := by
  by_cases none : namedBy p (c.mover m) = 0
  · have empty : (c.mover m).running.filter (fun r => p r.cmd) = [] := List.length_eq_zero_iff.1 (Nat.add_eq_zero_iff.1 none).1
    simp [squashMover_of_none none, none, empty]
  · rw [squashMover_of_some none]
    refine ⟨rfl, ?_⟩
    rw [List.sum_eq_foldl, List.foldl_map]

theorem squashed_fold (p : MovCmd → Bool) (ms : List Nat) (h : ms.Nodup) (c : Core) :
    Squashed c (ms.foldl (fun c m => c.squashMover p m) c) p ms := by
  induction ms generalizing c with
  | nil => exact ⟨rfl, fun m => by simp, by simp, by simp⟩
  | cons m ms ih =>
    obtain ⟨fresh, nodup⟩ := List.nodup_cons.1 h
    obtain ⟨frame, movers, squashed, unconsumed⟩ := ih nodup (c.squashMover p m)
    obtain ⟨count, lost⟩ := squashMover_counts c p m
    have others (k : Nat) (hk : k ∈ ms) : (c.squashMover p m).mover k = c.mover k := by
      rw [squashMover_mover, if_neg]
      rintro ⟨rfl, _⟩
      exact fresh hk
    have same (f : Mover → Nat) : (ms.map fun k => f ((c.squashMover p m).mover k)) = ms.map fun k => f (c.mover k) :=
      List.map_congr_left fun k hk => by rw [others k hk]
    refine ⟨?_, fun k => ?_, ?_, ?_⟩
    · rw [List.foldl_cons, frame, squashMover_frame c p m]
    · rw [List.foldl_cons, movers k]
      by_cases hk : k ∈ ms
      · rw [others k hk]
        simp [hk]
      · rw [if_neg (fun h => hk h.1), squashMover_mover]
        by_cases here : k = m
        · simp [here]
        · simp [here, hk]
    · rw [List.foldl_cons, squashed, count, List.map_cons, List.sum_cons, same (namedBy p), Nat.add_assoc]
    · rw [List.foldl_cons, unconsumed, lost, List.map_cons, List.sum_cons,
        same (fun mv => ((mv.running.filter (fun r => p r.cmd)).map MovRun.tagged).sum), Nat.add_assoc]

theorem flushRun_of_stays {r : MovRun} (h : ¬ leavesCore r) (s : State) (u : CoreRef) : s.flushRun u r = s := by
  obtain ⟨alone, inside⟩ := not_or.1 h
  have alone : r.peer = none := not_not.1 alone
  simp only [State.flushRun, alone]
  exact if_neg inside

theorem descWritten_dSet (c : Core) (d : DSlot) (x : BitVec 512) : DescWritten c (c.onRf (fun r => r.dSet d x)) d x := by
  refine ⟨rfl, fun e => ?_⟩
  by_cases he : e = d
  · subst he
    simp [Core.onRf, RegFile.dSet, RegFile.dGet]
  · rw [if_neg he]
    exact SMap.get_set_ne _ _ _ _ _ fun h => he (Fin.ext h)

/-- A byte of the number that some bytes spell. -/
theorem leNum_digit (bs : List Byte) (b : Nat) : leNum bs / 256 ^ b % 256 = (bs.getD b 0#8).toNat := by
  rw [leNum_drop]
  cases h : bs.drop b with
  | nil => rw [List.getD_eq_default _ _ (List.drop_eq_nil_iff.1 h)]; rfl
  | cons x xs =>
    have first : bs.getD b 0#8 = x := by rw [List.getD_eq_getElem?_getD, ← List.head?_drop, h]; rfl
    have small := x.isLt
    rw [first, leNum, List.foldr_cons]
    omega

theorem getD_le (n x : Nat) {b : Nat} (h : b < n) : ((le n x).getD b 0#8).toNat = x / 256 ^ b % 256 := by
  simp [le, h]

/-- The bytes of a descriptor slot after `dset`. -/
theorem patch_digit (x : BitVec 512) (k : BitVec 3) (w : Word64) {b : Nat} (hb : b < 64) :
    (BitVec.ofNat 512 (leNum (patch (le 64 x.toNat) (8 * k.toNat) (le 8 w.toNat)))).toNat / 256 ^ b % 256 =
      if b / 8 = k.toNat then w.toNat / 256 ^ (b % 8) % 256 else x.toNat / 256 ^ b % 256 := by
  have hk := k.isLt
  have word : (le 8 w.toNat).length = 8 := by simp [le]
  have full : (le 64 x.toNat).length = 64 := by simp [le]
  have length : (patch (le 64 x.toNat) (8 * k.toNat) (le 8 w.toNat)).length = 64 := by
    simp only [patch, List.length_append, List.length_take, List.length_drop, word, full]
    omega
  have small := leNum_lt (patch (le 64 x.toNat) (8 * k.toNat) (le 8 w.toNat))
  rw [length, (Nat.pow_mul 2 8 64).symm] at small
  rw [BitVec.toNat_ofNat, Nat.mod_eq_of_lt small, leNum_digit]
  by_cases here : b / 8 = k.toNat
  · have place : b - 8 * k.toNat = b % 8 := by omega
    rw [if_pos here, patch, List.append_assoc, List.getD_append_right _ _ _ _ (by simp only [List.length_take, full]; omega),
      List.getD_append _ _ _ _ (by simp only [List.length_take, full, word]; omega), List.length_take, full, Nat.min_eq_left (by omega),
      place, getD_le 8 _ (by omega)]
  · rw [if_neg here, ← getD_le 64 _ hb, patch, List.append_assoc]
    by_cases before : b < 8 * k.toNat
    · rw [List.getD_append _ _ _ _ (by simp only [List.length_take, full]; omega), List.getD_eq_getElem?_getD,
        List.getElem?_take_of_lt before, ← List.getD_eq_getElem?_getD]
    · rw [List.getD_append_right _ _ _ _ (by simp only [List.length_take, full]; omega),
        List.getD_append_right _ _ _ _ (by simp only [List.length_take, full, word]; omega), List.length_take, full,
        Nat.min_eq_left (by omega), word, List.getD_eq_getElem?_getD, List.getElem?_drop, ← List.getD_eq_getElem?_getD,
        show 8 * k.toNat + 8 + (b - 8 * k.toNat - 8) = b by omega]

/-- Settles O22. -/
theorem moveSlotTakesEffect : Obligations.MoveSlotTakesEffect := by
  unfold Obligations.MoveSlotTakesEffect
  refine ⟨?push, ?slots, ?squash, ?flush⟩
  case push =>
    intro i s f hf
    obtain ⟨hexec, held⟩ := exec_of_moveForm hf s
    dsimp only
    rw [hexec]
    refine ⟨fun h good => ?_, fun h bad => ?_, fun can full => ?_⟩
    · simp only [moverPush, slotMove, issue_of_mayIssue h, good, Bool.false_eq_true, if_false, State.put]
      refine ⟨_, rfl, rfl, ?_, mover_setMover_self .., fun k hk => mover_setMover_ne _ hk _⟩
      exact if_congr (by rw [Bool.and_eq_true, decide_eq_true_iff, decide_eq_true_iff]; rfl) rfl rfl
    · simp only [moverPush, slotMove, issue_of_mayIssue h, bad, if_true, causePoisonControl]
    · have waits := not_ready_of_unitHeld (i := i) ((held _).trans (decide_eq_true full))
      rw [moverPush, slotMove, issue_of_not_ready can waits]
  case slots =>
    intro s u m imm k sa d
    dsimp only
    refine ⟨fun h => ?_, fun h good aligned ok tag clean => ?_, fun h good aligned ok => ?_, fun h good => ?_, fun runs squashing => ?_⟩
    · simp only [exec, execMstop, slotMove, issue_of_mayIssue h]
    · have inside : Core.accessCause (found s u 3) (immAddr (found s u 3) sa imm) 64 64 false = none := by
        simp only [Core.accessCause, immAddr_eq_scalarAddr, aligned, ok]
        rfl
      have one := linesTouched_of_inLine (a := scalarAddr (found s u 3) sa imm) (n := 64) (by omega) (by omega)
      simp only [exec, execDld, slotMove, issue_of_mayIssue h, good, Bool.false_eq_true, if_false, inside]
      simp only [immAddr_eq_scalarAddr, Core.rangeTag, Core.rangeBad, one, List.findSome?_cons, List.any_cons, tag, clean]
      exact ⟨_, descWritten_dSet .., rfl⟩
    · have inside : Core.accessCause (found s u 3) (immAddr (found s u 3) sa imm) 64 64 true = none := by
        simp only [Core.accessCause, immAddr_eq_scalarAddr, aligned, ok]
        rfl
      simp only [exec, execDst, slotMove, issue_of_mayIssue h, good, Bool.false_eq_true, if_false, inside]
      refine ⟨_, rfl, ?_⟩
      simp only [immAddr_eq_scalarAddr]
      exact lineStored_spadWrite _ (by simp [le]) (by simp only [le, List.length_map, List.length_range]; omega) false
    · simp only [exec, execDset, slotMove, issue_of_mayIssue h, good, Bool.false_eq_true, if_false]
      exact ⟨_, _, descWritten_dSet .., fun b hb => patch_digit _ _ _ hb, rfl⟩
    · simp only [exec, execMoverSquashDone, whenOk, runs, squashing, State.put]
      rfl
  case squash =>
    intro s u c p ms nodup
    refine ⟨_, squashed_fold p ms nodup c, rfl, fun stays => ?_⟩
    exact List.foldlRecOn (motive := fun t : State => t = s) _ _ rfl fun t ht r hr => by rw [ht, flushRun_of_stays (stays r hr)]
  case flush =>
    intro s u r a w hpeer
    simp only [State.flushRun, hpeer]

end Sys2Proof.Proofs
end

section
namespace Sys2Proof.Proofs

open Sys2Proof Sys2Proof.Machine Sys2Proof.Claims

/-! ### Fields of registers, and registers that an operation leaves as they are -/

theorem fld_setFld_self (s : State) (n : RegName) {lo w : Nat} (v ix fn : Nat) (h : lo + w ≤ 64) :
    (s.setFld n lo w v ix fn).fld n lo w ix fn = v % 2 ^ w := by
  rw [State.fld, State.setFld, State.reg_setReg_self, getBits_putBits_self _ _ h]

theorem fld_setFld_of_lt (s : State) (n : RegName) {lo w v : Nat} (ix fn : Nat) (h : lo + w ≤ 64) (hv : v < 2 ^ w) :
    (s.setFld n lo w v ix fn).fld n lo w ix fn = v := by
  rw [fld_setFld_self s n v ix fn h, Nat.mod_eq_of_lt hv]

theorem fld_setFld_beside (s : State) (n : RegName) {lo w lo' w' : Nat} (v ix fn : Nat) (h : lo' + w' ≤ lo ∨ lo + w ≤ lo') :
    (s.setFld n lo w v ix fn).fld n lo' w' ix fn = s.fld n lo' w' ix fn := by
  rw [State.fld, State.setFld, State.reg_setReg_self, getBits_putBits_of_disjoint _ _ h]
  rfl

theorem reg_setFld_apart (s : State) {n m : RegName} (lo w v : Nat) {ix fn jx gn : Nat} (h : m.key gn jx ≠ n.key fn ix) :
    (s.setFld n lo w v ix fn).reg m jx gn = s.reg m jx gn :=
  State.reg_setReg_ne _ _ _ _ _ _ _ _ h

theorem fld_setFld_apart (s : State) {n m : RegName} (lo w v lo' w' : Nat) {ix fn jx gn : Nat} (h : m.key gn jx ≠ n.key fn ix) :
    (s.setFld n lo w v ix fn).fld m lo' w' jx gn = s.fld m lo' w' jx gn := by
  rw [State.fld, reg_setFld_apart s lo w v h, ← State.fld]

theorem fld_of_regs {s t : State} (h : t.regs = s.regs) (n : RegName) (lo w ix fn : Nat) : t.fld n lo w ix fn = s.fld n lo w ix fn := by
  simp only [State.fld, State.reg, h]

/-- The registers whose keys `K` selects hold in `t` what they hold in `s`. -/
structure SameRegs (K : Nat → Prop) (s t : State) : Prop where
  same : ∀ k, K k → SMap.get regDefault t.regs k = SMap.get regDefault s.regs k

section SameRegs
variable {K : Nat → Prop} {s₀ s : State}

theorem SameRegs.reg {t : State} (h : SameRegs K s t) (n : RegName) (ix fn : Nat) (hk : K (n.key fn ix)) : t.reg n ix fn = s.reg n ix fn :=
  h.same _ hk

theorem SameRegs.fld {t : State} (h : SameRegs K s t) (n : RegName) (lo w ix fn : Nat) (hk : K (n.key fn ix)) :
    t.fld n lo w ix fn = s.fld n lo w ix fn := by
  rw [State.fld, h.reg n ix fn hk, ← State.fld]

theorem SameRegs.refl (s : State) : SameRegs K s s := ⟨fun _ _ => rfl⟩

theorem SameRegs.trans {t : State} (h : SameRegs K s₀ s) (h' : SameRegs K s t) : SameRegs K s₀ t :=
  ⟨fun k hk => (h'.same k hk).trans (h.same k hk)⟩

theorem SameRegs.setReg (h : SameRegs K s₀ s) (n : RegName) (x : Word64) (ix fn : Nat) (hk : ¬ K (n.key fn ix)) :
    SameRegs K s₀ (s.setReg n x ix fn) :=
  ⟨fun k here => (SMap.get_set_ne _ _ _ _ _ fun e : k = n.key fn ix => hk (e ▸ here)).trans (h.same k here)⟩

theorem SameRegs.setFld (h : SameRegs K s₀ s) (n : RegName) (lo w v ix fn : Nat) (hk : ¬ K (n.key fn ix)) :
    SameRegs K s₀ (s.setFld n lo w v ix fn) := h.setReg n _ ix fn hk

theorem SameRegs.bump (h : SameRegs K s₀ s) (n : RegName) (lo w ix d fn : Nat) (hk : ¬ K (n.key fn ix)) :
    SameRegs K s₀ (s.bump n lo w ix d fn) := h.setFld n lo w _ ix fn hk

theorem SameRegs.ite {c : Prop} [Decidable c] {t : State} (h : SameRegs K s₀ s) (h' : SameRegs K s₀ t) :
    SameRegs K s₀ (if c then s else t) := by
  split
  · exact h
  · exact h'

theorem SameRegs.foldl {α : Type} {l : List α} {f : State → α → State} (h : SameRegs K s₀ s)
    (hf : ∀ s a, a ∈ l → SameRegs K s₀ s → SameRegs K s₀ (f s a)) : SameRegs K s₀ (l.foldl f s) :=
  List.foldlRecOn (motive := SameRegs K s₀) l f h fun s hs a ha => hf s a ha hs

/-- An operation that leaves the registers leaves those of `K`. -/
theorem SameRegs.of_regs {t : State} (h : SameRegs K s₀ s) (e : t.regs = s.regs) : SameRegs K s₀ t :=
  ⟨fun k hk => by rw [e, h.same k hk]⟩

theorem SameRegs.onPen (h : SameRegs K s₀ s) (p : Nat) (f : PenS → PenS) : SameRegs K s₀ (s.onPen p f) := h.of_regs rfl

theorem SameRegs.onJob (h : SameRegs K s₀ s) (p : Nat) (f : Job → Job) : SameRegs K s₀ (s.onJob p f) := h.of_regs rfl

theorem SameRegs.onCore (h : SameRegs K s₀ s) (k : Nat) (f : Core → Core) : SameRegs K s₀ (s.onCore k f) := h.of_regs rfl

theorem SameRegs.onPort (h : SameRegs K s₀ s) (p : Nat) (f : XPort → XPort) : SameRegs K s₀ (s.onPort p f) := h.of_regs rfl

theorem SameRegs.onBay (h : SameRegs K s₀ s) (b : Nat) (f : Machine.Bay → Machine.Bay) : SameRegs K s₀ (s.onBay b f) := h.of_regs rfl

/-- A post may count the event as lost, which HIF_PEN_STAT shows (R630). -/
theorem SameRegs.post (h : SameRegs K s₀ s) (fn code step : Nat) (fs : List EvField) (hk : ¬ K (RegName.key .hifPenStat 0 fn)) :
    SameRegs K s₀ (s.post fn code step fs) := by
  unfold State.post
  refine SameRegs.ite ?_ (SameRegs.of_regs (h.bump .hifPenStat 32 16 fn 1 0 hk) rfl)
  exact h.of_regs rfl

theorem SameRegs.postPen (h : SameRegs K s₀ s) (p code step : Nat) (fs : List EvField)
    (hk : ∀ fn, fn ≤ 12 → ¬ K (RegName.key .hifPenStat 0 fn)) : SameRegs K s₀ (s.postPen p code step fs) := by
  unfold State.postPen
  split
  next here => exact h.post _ _ _ _ (hk p here.2)
  next => exact h

theorem SameRegs.postBoth (h : SameRegs K s₀ s) (p code step : Nat) (fs : List EvField)
    (hk : ∀ fn, fn ≤ 12 → ¬ K (RegName.key .hifPenStat 0 fn)) : SameRegs K s₀ (s.postBoth p code step fs) :=
  (h.postPen p code step fs hk).post _ _ _ _ (hk 0 (by decide))

theorem SameRegs.postAll (h : SameRegs K s₀ s) (code : Nat) (fs : List EvField)
    (hk : ∀ fn, fn ≤ 12 → ¬ K (RegName.key .hifPenStat 0 fn)) : SameRegs K s₀ (s.postAll code fs) := by
  refine h.foldl fun s fn hfn hs => hs.post fn _ _ _ (hk fn ?_)
  simp only [State.everyone, List.mem_cons, List.mem_filter, List.mem_map, List.mem_range] at hfn
  omega

end SameRegs

/-! ### What reset leaves -/

/-- A register found at an offset stands at it. -/
theorem regAtIn_eq_some {ns : List RegName} {o : Nat} {n : RegName} {ix : Nat} (h : regAtIn ns o = some (n, ix)) :
    n ∈ ns ∧ n.row.off ≤ o ∧ (o - n.row.off) / n.row.stride < n.row.count := by
  induction ns with
  | nil => cases h
  | cons m ms ih =>
    rw [regAtIn] at h
    split at h
    next here =>
      cases h
      have counted := (Bool.and_eq_true_iff.1 here.2.2).1
      exact ⟨List.mem_cons_self, here.1, of_decide_eq_true counted⟩
    next =>
      obtain ⟨listed, rest⟩ := ih h
      exact ⟨List.mem_cons_of_mem m listed, rest⟩

/-- The registers whose entries reach into the ring block of BAR0 reset to 0. -/
theorem reset_of_ring_block : ∀ n ∈ RegName.all, 0xC30010 ≤ n.row.off ∨ (0 < n.row.stride ∧ n.row.off + n.row.stride * n.row.count ≤ 0xC10000) ∨
    (n ≠ .errWxThresh ∧ n ≠ .hifFunc ∧ n.row.reset = 0#64) := by
  decide +kernel

theorem regDefault_of_ring_block {k : Nat} (h : 0xC10000 ≤ k) (h' : k < 0xC30010) : regDefault k = 0#64 := by
  unfold regDefault
  split
  next n ix found =>
    rw [Nat.mod_eq_of_lt (by simp [funcSpan]; omega)] at found
    obtain ⟨listed, after, counted⟩ := regAtIn_eq_some found
    obtain beyond | ⟨pos, before⟩ | ⟨notWx, notFunc, zero⟩ := reset_of_ring_block n listed
    · omega
    · have last := (Nat.div_lt_iff_lt_mul pos).1 counted
      rw [Nat.mul_comm] at last
      omega
    · unfold RegName.resetAt
      split
      · exact absurd rfl notWx
      · exact absurd rfl notFunc
      · exact zero
  next => rfl

theorem reg_reset_ring {n : RegName} (h : n = .hifRingCtl ∨ n = .hifRingStat) {r : Nat} (hr : r < 4096) : State.reset.reg n r = 0#64 := by
  obtain rfl | rfl := h
  · exact regDefault_of_ring_block (k := 0xC10010 + 32 * r) (by omega) (by omega)
  · exact regDefault_of_ring_block (k := 0xC10018 + 32 * r) (by omega) (by omega)

theorem reg_reset_errWxThresh : ∀ c, c < 23 → 1 ≤ c → State.reset.reg .errWxThresh c = wxThreshReset c := by
  decide +kernel

/-- Settles O60: every part but the wide ranges is the closed initial state's own value. -/
theorem resetStateIsAsStated : Obligations.ResetStateIsAsStated := by
  unfold Obligations.ResetStateIsAsStated
  refine ⟨by decide +kernel, rfl, rfl, rfl, rfl,
    fun c low high => reg_reset_errWxThresh c (by omega) low, fun r hr => ⟨reg_reset_ring (.inl rfl) hr, reg_reset_ring (.inr rfl) hr⟩, rfl,
    rfl, rfl, rfl, fun _ => rfl, fun _ => ⟨rfl, rfl⟩, fun _ => rfl, fun _ => rfl⟩

end Sys2Proof.Proofs
end

section
namespace Sys2Proof.Proofs

open Sys2Proof Sys2Proof.Machine Sys2Proof.Claims

/-! ### The check of an order and its answer (R592, R597, R604, R645) -/

theorem getD_putList_out (bs : List Byte) (m : SMap Byte) {a x : Nat} (h : x < a ∨ a + bs.length ≤ x) :
    SMap.find (putList m a bs) x = SMap.find m x := by
  induction bs generalizing m a with
  | nil => rfl
  | cons b bs ih =>
    rw [List.length_cons] at h
    rw [putList, ih _ (by omega), SMap.find_put_ne _ _ _ _ (by omega)]

theorem find_putList_in (bs : List Byte) (m : SMap Byte) (a : Nat) {i : Nat} (h : i < bs.length) :
    SMap.find (putList m a bs) (a + i) = some bs[i] := by
  induction bs generalizing m a i with
  | nil => cases h
  | cons b bs ih =>
    cases i with
    | zero => rw [putList, getD_putList_out _ _ (by omega), Nat.add_zero, SMap.find_put_self]; rfl
    | succ i =>
      rw [putList, show a + (i + 1) = a + 1 + i by omega, ih _ _ (by simpa using h)]
      rfl

/-- Bytes written to the host's memory are read back. -/
theorem hostRead_hostWrite (s : State) (a : Nat) (bs : List Byte) : (s.hostWrite a bs).hostRead a bs.length = bs := by
  refine List.ext_getElem (by simp [State.hostRead]) fun i h _ => ?_
  have hi : i < bs.length := by simpa [State.hostRead] using h
  simp only [State.hostRead, List.getElem_map, List.getElem_range, State.hostByte, State.hostWrite]
  rw [find_putList_in bs s.hostMem a hi, Option.getD_some]

/-- Where the mailbox's answer record stands: behind the record, rounded up to 64 bytes (R645). -/
def State.answerAt (s : State) : Nat := (s.reg .hifAuthAddr).toNat + roundUp64 (s.fld .hifAuthCtl 0 32)

theorem regs_mailAnswer (s : State) (e : OrderEnd) :
    (s.mailAnswer e).regs = ((s.setFld .hifAuthCtl 32 1 0).setFld .hifAuthCtl 40 8 e.code).regs := rfl

theorem hostMem_mailAnswer (s : State) (e : OrderEnd) :
    (s.mailAnswer e).hostMem = (s.hostWrite (State.answerAt s) (le 8 e.record)).hostMem := rfl

theorem nonce_mailAnswer (s : State) (e : OrderEnd) : (s.mailAnswer e).nonce = s.nonce := by
  rw [State.nonce, fld_of_regs (regs_mailAnswer s e), fld_setFld_apart _ _ _ _ _ _ (by decide), fld_setFld_apart _ _ _ _ _ _ (by decide),
    State.nonce]

theorem fld_mailAnswer_busy (s : State) (e : OrderEnd) : (s.mailAnswer e).fld .hifAuthCtl 32 1 = 0 := by
  rw [fld_of_regs (regs_mailAnswer s e), fld_setFld_beside _ _ _ _ _ (by decide), fld_setFld_of_lt _ _ _ _ (by decide) (by decide)]

theorem fld_mailAnswer_answer (s : State) {e : OrderEnd} (h : e.code < 256) : (s.mailAnswer e).fld .hifAuthCtl 40 8 = e.code := by
  rw [fld_of_regs (regs_mailAnswer s e), fld_setFld_of_lt _ _ _ _ (by decide) h]

/-- The state to which an order's answer is written: an accepted one has raised the nonce. -/
def State.countOrder (s : State) (e : OrderEnd) : State := if e.code = auOk then s.setFld .secAuth 8 56 (s.nonce + 1) else s

theorem nonce_countOrder (s : State) (e : OrderEnd) :
    (State.countOrder s e).nonce = if e.code = 0 then (s.nonce + 1) % 2 ^ 56 else s.nonce := by
  unfold State.countOrder
  by_cases ok : e.code = 0
  · rw [if_pos (show e.code = auOk from ok), if_pos ok, State.nonce, fld_setFld_self _ _ _ _ _ (by decide)]
  · rw [if_neg (show ¬ e.code = auOk from ok), if_neg ok]

theorem answerAt_countOrder (s : State) (e : OrderEnd) : State.answerAt (State.countOrder s e) = State.answerAt s := by
  unfold State.countOrder
  split
  · rw [State.answerAt, reg_setFld_apart _ _ _ _ (by decide), fld_setFld_apart _ _ _ _ _ _ (by decide), State.answerAt]
  · rfl

theorem hostRead_of_hostMem {s t : State} (h : t.hostMem = s.hostMem) (a n : Nat) : t.hostRead a n = s.hostRead a n := by
  simp only [State.hostRead, State.hostByte, h]

/-- The state that shows the answer of the last order. -/
def State.showAnswer (s : State) (e : OrderEnd) : State := { s with lastAnswer := e.record }

theorem orderEnds_mailbox (s : State) (e : OrderEnd) :
    s.orderEnds .mailbox e = State.showAnswer ((State.countOrder s e).mailAnswer e) e := rfl

theorem regs_showAnswer (s : State) (e : OrderEnd) : (State.showAnswer s e).regs = s.regs := rfl

theorem hostMem_showAnswer (s : State) (e : OrderEnd) : (State.showAnswer s e).hostMem = s.hostMem := rfl

/-- Settles O48. -/
theorem ordersAreCheckedInOrder : Obligations.OrdersAreCheckedInOrder := by
  unfold Obligations.OrdersAreCheckedInOrder
  refine ⟨?refusal, ?mailbox, ?channels, ?ends, ?claim⟩
  case refusal =>
    intro s ch r
    dsimp only
    refine ⟨fun l => ?_, fun l c => ?_, fun l c a => ?_, fun l c a n => ?_, fun l c a n rv => ?_, fun l c a n rv => ⟨fun b => ?_, fun b => ?_⟩⟩
    · simp [State.orderRefusal, l]
    · exact orderRefusal_of_other_channel l c r
    · simp [State.orderRefusal, l, c, a]
    · simp [State.orderRefusal, l, c, a, n]
    · simp [State.orderRefusal, l, c, a, n, rv]
    · simp [State.orderRefusal, State.orderBarred, l, c, a, n, rv, b]
    · have open_ : s.orderBarred r = false := by simpa [State.orderBarred] using b
      simp [State.orderRefusal, l, c, a, n, rv, open_]
  case mailbox =>
    intro s
    refine ⟨fun up p none => ?_, fun h => ?_⟩
    · dsimp only
      refine ⟨fun h => ?_, fun a h => ?_⟩
      · simp only [exec, execAuthMailboxGo, up, p, none, h]
        rfl
      · simp only [exec, execAuthMailboxGo, up, p, none, h]
        rfl
    · have shut : (!s.mgmtUp || s.perst || s.order.isSome) = true := by
        obtain up | p | o := h
        · simp [up]
        · simp [p]
        · simp [Option.isSome_iff_ne_none.2 o]
      simp only [exec, execAuthMailboxGo, shut, if_true]
  case channels =>
    intro i o op s r a hform
    obtain ⟨effect, performs⟩ := exec_eq_perform_of_orderForm hform
    refine ⟨fun ho up hop ha => ?_, fun ho up hop ha => ?_, fun ho locked ⟨w, hw, hop⟩ => ?_⟩
    · subst hop
      rw [performs, perform_of_refused (.inl ⟨ho, rfl⟩) up ha]
    · subst hop
      rw [performs, perform_of_refused (.inr ⟨ho, rfl⟩) up ha]
    · subst ho
      simp [performs, State.perform, hw, hop, locked]
  case ends =>
    intro s e small
    dsimp only
    rw [orderEnds_mailbox]
    refine ⟨rfl, ?_, ?_, ?_, ?_⟩
    · rw [fld_of_regs (regs_showAnswer _ e), fld_mailAnswer_busy]
    · rw [fld_of_regs (regs_showAnswer _ e), fld_mailAnswer_answer _ small]
    · have size : (le 8 e.record).length = 8 := by simp [le]
      have written := hostRead_hostWrite (State.countOrder s e) (State.answerAt s) (le 8 e.record)
      rw [size] at written
      rw [hostRead_of_hostMem (hostMem_showAnswer _ e), hostRead_of_hostMem (hostMem_mailAnswer _ e), answerAt_countOrder]
      exact written
    · rw [State.nonce, fld_of_regs (regs_showAnswer _ e), ← State.nonce, nonce_mailAnswer, nonce_countOrder]
  case claim =>
    intro s h
    refine ⟨s.setFld .secAuth 6 1 0, ?_, rfl, ?_⟩
    · simp only [exec, execClaimWindowEnd, whenOk, h]
      rfl
    · exact fld_setFld_of_lt _ _ _ _ (by decide) (by decide)

end Sys2Proof.Proofs
end

section
namespace Sys2Proof.Proofs

open Sys2Proof Sys2Proof.Machine Sys2Proof.Claims

/-! ### Operations that change registers only -/

/-- `t` differs from `s` in its registers at most. -/
def RegsOnly (s t : State) : Prop := t = { s with regs := t.regs }

theorem RegsOnly.refl (s : State) : RegsOnly s s := rfl

theorem RegsOnly.trans {r s t : State} (h : RegsOnly r s) (h' : RegsOnly s t) : RegsOnly r t := by
  unfold RegsOnly at *
  rw [h', h]

theorem RegsOnly.setReg (s : State) (n : RegName) (x : Word64) (ix fn : Nat) : RegsOnly s (s.setReg n x ix fn) := rfl

theorem RegsOnly.setFld (s : State) (n : RegName) (lo w v ix fn : Nat) : RegsOnly s (s.setFld n lo w v ix fn) := rfl

theorem RegsOnly.setPortState (s : State) (p st : Nat) : RegsOnly s (s.setPortState p st) := rfl

theorem RegsOnly.setWidth (s : State) (p dir : Nat) (good : BitVec 8) : RegsOnly s (s.setWidth p dir good) := rfl

theorem RegsOnly.refreshPins (s : State) : RegsOnly s s.refreshPins := rfl

theorem RegsOnly.foldl {α : Type} {f : State → α → State} (hf : ∀ s a, RegsOnly s (f s a)) (l : List α) (s : State) :
    RegsOnly s (l.foldl f s) :=
  List.foldlRecOn (motive := RegsOnly s) l f (.refl s) fun t ht a _ => ht.trans (hf t a)

theorem RegsOnly.ite {c : Prop} [Decidable c] {s t u : State} (h : RegsOnly s t) (h' : RegsOnly s u) : RegsOnly s (if c then t else u) := by
  split
  · exact h
  · exact h'

/-! ### Keep and the keep store (R660, R670, R671, R679, R707) -/

theorem quietLinks_frame (s : State) : RegsOnly { s with linkStage := false, linkDone := false, censusOpen := false } s.quietLinks := by
  refine RegsOnly.foldl (fun s p => RegsOnly.ite ?_ (.refl s)) _ _
  exact (((RegsOnly.setPortState s p portQuiet).trans (.setWidth _ p 0 0)).trans (.setWidth _ p 1 0)).trans (.setFld ..)

theorem resetHif_frame (s : State) :
    RegsOnly { s with regs := SMap.keep (fun k => !hifKey k) s.regs, rings := [], order := none } s.resetHif :=
  RegsOnly.foldl (fun s _ => RegsOnly.ite (.setFld ..) (.refl s)) _ _

theorem wake_frame (s : State) :
    s.wake = { s with power := .idle, waking := true, linkStage := false, linkDone := false, censusOpen := false, regs := s.wake.regs } := by
  have quiet : s.quietLinks = _ := quietLinks_frame s
  unfold State.wake
  rw [quiet]
  rfl

theorem fld_refreshPins (s : State) {n : RegName} {ix fn : Nat} (lo w : Nat) (h : n.key fn ix ≠ RegName.key .mgtSideband 0 0) :
    s.refreshPins.fld n lo w ix fn = s.fld n lo w ix fn := by
  rw [State.refreshPins, State.fld, State.reg_setReg_ne _ _ _ _ _ _ _ _ h, ← State.fld]

/-- A part of a field shows its part of the value. -/
theorem fld_setFld_within (s : State) (n : RegName) {lo w lo' w' : Nat} (v ix fn : Nat) (h : lo + w ≤ 64) (low : lo ≤ lo')
    (high : lo' + w' ≤ lo + w) : (s.setFld n lo w v ix fn).fld n lo' w' ix fn = v / 2 ^ (lo' - lo) % 2 ^ w' := by
  rw [State.fld, State.setFld, State.reg_setReg_self]
  refine Nat.eq_of_testBit_eq fun i => ?_
  rw [testBit_getBits, Nat.testBit_mod_two_pow, Nat.testBit_div_two_pow]
  by_cases hi : i < w'
  · rw [getLsbD_putBits _ lo w v (by omega), if_pos (by omega), show lo' + i - lo = i + (lo' - lo) by omega]
  · simp [hi]

theorem stage_setFld_apart (s : State) {n : RegName} (lo w v : Nat) {ix fn : Nat} (h : RegName.key .mgtBoot 0 0 ≠ n.key fn ix) :
    (s.setFld n lo w v ix fn).stage = s.stage :=
  fld_setFld_apart s lo w v 0 4 h

theorem stage_wake (s : State) : s.wake.stage = stageManagement := by
  rw [State.wake, State.stage, fld_refreshPins _ _ _ (by decide), fld_setFld_apart _ _ _ _ _ _ (by decide),
    fld_setFld_beside _ _ _ _ _ (by decide), fld_setFld_of_lt _ _ _ _ (by decide) (by decide)]

theorem rngState_wake (s : State) : s.wake.rngState = rngStarting := by
  rw [State.wake, State.rngState, fld_refreshPins _ _ _ (by decide), fld_setFld_within _ _ _ _ _ (by decide) (by decide) (by decide)]
  rfl

/-- A sign-extended temperature byte reads as the temperature, held to its range. -/
theorem toInt_tempByte (c : Int) : (BitVec.ofNat 8 (tempByte c)).toInt = max (-128) (min 127 c) := by
  rw [tempByte, BitVec.ofNat_toNat, BitVec.setWidth_eq, BitVec.toInt_ofInt]
  exact Int.bmod_eq_of_le (by omega) (by omega)

theorem tempByte_lt (c : Int) : tempByte c < 2 ^ 8 := BitVec.isLt _

section
variable {K : Nat → Prop} {s₀ s : State}

/-- The rise of a class whose action is the bay's own (R527 to R529). -/
theorem SameRegs.wxRise {b c : Nat} (h : SameRegs K s₀ s) (site : siteClass c = false) (lane : laneClass c = false)
    (count : ¬ K (RegName.key .errWxCount 0 (wxKey b c))) (act : ¬ K (RegName.key .errBayWx 0 b))
    (posts : ∀ fn, fn ≤ 12 → ¬ K (RegName.key .hifPenStat 0 fn)) : SameRegs K s₀ (s.wxRise b c) := by
  refine h.foldl fun t lv _ ht => ?_
  have posted := (ht.setFld .errWxCount 48 2 lv (wxKey b c) 0 count).postBoth
  dsimp only
  split
  · split
    · split
      · unfold State.actNow
        rw [site, lane]
        exact (posted _ _ _ _ posts).setFld _ _ _ _ _ _ act
      · exact (posted _ _ _ _ posts).of_regs rfl
    · exact posted _ _ _ _ posts
  · exact ht

theorem SameRegs.wxShow {b c : Nat} (h : SameRegs K s₀ s) (count : ¬ K (RegName.key .errWxCount 0 (wxKey b c))) :
    SameRegs K s₀ (s.wxShow b c) :=
  (h.setFld _ _ _ _ _ _ count).setFld _ _ _ _ _ _ count

theorem SameRegs.countEvent {b c : Nat} (h : SameRegs K s₀ s) (unit : Nat) (injected : Bool) (site : siteClass c = false)
    (lane : laneClass c = false) (count : ¬ K (RegName.key .errWxCount 0 (wxKey b c))) (act : ¬ K (RegName.key .errBayWx 0 b))
    (posts : ∀ fn, fn ≤ 12 → ¬ K (RegName.key .hifPenStat 0 fn)) : SameRegs K s₀ (s.countEvent b c unit injected) := by
  unfold State.countEvent
  dsimp only
  split
  · refine SameRegs.wxShow ?_ count
    exact h.of_regs rfl
  · refine SameRegs.wxRise (SameRegs.wxShow ?_ count) site lane count act posts
    exact h.of_regs rfl

end

/-- The keys of the registers that show the thermal emergency. -/
def thermalKey (k : Nat) : Prop := k < 0x200000 ∨ 0xD00000 ≤ k

theorem lowestBay_lt (s : State) : s.lowestBay < 12 := by
  unfold State.lowestBay
  cases h : (List.range 12).find? s.bayPresent with
  | none => exact (by decide)
  | some b => exact List.mem_range.1 (List.mem_of_find?_eq_some h)

/-- What an emergency that was not on yet does to the registers that show it (R703). -/
theorem emergency_regs (s : State) (injected : Bool) (off : s.fld .devMode 3 1 ≠ 1) :
    SameRegs thermalKey ((((s.setFld .devMode 3 1 1).setFld .devMode 4 1 1).setFld .pwrThermal 17 1 1).bump .pwrThermal 32 16)
      (s.emergency injected) := by
  have posts : ∀ fn, fn ≤ 12 → ¬ thermalKey (RegName.key .hifPenStat 0 fn) := by
    intro fn hfn
    rw [key_hifPenStat, thermalKey]
    omega
  unfold State.emergency
  rw [if_neg off]
  dsimp only
  generalize State.bump _ .pwrThermal 32 16 = x
  have count (t : State) : ¬ thermalKey (RegName.key .errWxCount 0 (wxKey t.lowestBay 20)) := by
    have := lowestBay_lt t
    show ¬ (0x801000 + 8 * (32 * t.lowestBay + 20) < 0x200000 ∨ 0xD00000 ≤ 0x801000 + 8 * (32 * t.lowestBay + 20))
    omega
  have act (t : State) : ¬ thermalKey (RegName.key .errBayWx 0 t.lowestBay) := by
    have := lowestBay_lt t
    show ¬ (0x800200 + 8 * t.lowestBay < 0x200000 ∨ 0xD00000 ≤ 0x800200 + 8 * t.lowestBay)
    omega
  have jobs := (SameRegs.refl (K := thermalKey) x).foldl (l := x.loadedPens)
    (f := fun s p => s.onJob p (fun j => { j with cur := j.cur.map (fun a => { a with halfSeen := true }) })) fun t p _ ht => ht.onJob ..
  refine SameRegs.countEvent (SameRegs.postAll ?_ _ _ posts) _ _ rfl rfl (count _) (act _) posts
  exact jobs.of_regs rfl

/-- The temperatures and the warning of a sample shown (R703). -/
def State.showTemps (s : State) (west east : Int) : State :=
  let s := (s.setFld .pwrThermal 0 8 (tempByte west)).setFld .pwrThermal 8 8 (tempByte east)
  if 95 ≤ max west east then s.setFld .pwrThermal 16 1 1 else if max west east < 85 then s.setFld .pwrThermal 16 1 0 else s

/-- The emergency that a sample begins: it is not over yet. -/
def State.beginEmergency (s : State) : State := { s.emergency false with emergencyOver := false }

theorem thermal_eq (s : State) (west east : Int) : s.thermal west east =
    (if 110 ≤ max west east then State.beginEmergency (State.showTemps s west east) else State.showTemps s west east).refreshPins := rfl

theorem showTemps_frame (s : State) (west east : Int) : RegsOnly s (State.showTemps s west east) :=
  RegsOnly.ite rfl (RegsOnly.ite rfl rfl)

theorem fld_showTemps_devMode (s : State) (west east : Int) : (State.showTemps s west east).fld .devMode 3 1 = s.fld .devMode 3 1 := by
  have both := (fld_setFld_apart ((s.setFld .pwrThermal 0 8 (tempByte west))) (n := .pwrThermal) (m := .devMode) (ix := 0) (fn := 0) (jx := 0)
    (gn := 0) 8 8 (tempByte east) 3 1 (by decide)).trans (fld_setFld_apart _ _ _ _ _ _ (by decide))
  unfold State.showTemps
  dsimp only
  split
  · rw [fld_setFld_apart _ _ _ _ _ _ (by decide), both]
  · split
    · rw [fld_setFld_apart _ _ _ _ _ _ (by decide), both]
    · exact both

theorem fld_showTemps_warning (s : State) (west east : Int) : (State.showTemps s west east).fld .pwrThermal 16 1 =
    if 95 ≤ max west east then 1 else if max west east < 85 then 0 else s.fld .pwrThermal 16 1 := by
  unfold State.showTemps
  dsimp only
  split
  · exact fld_setFld_of_lt _ _ _ _ (by decide) (by decide)
  · split
    · exact fld_setFld_of_lt _ _ _ _ (by decide) (by decide)
    · rw [fld_setFld_beside _ _ _ _ _ (by decide), fld_setFld_beside _ _ _ _ _ (by decide)]

/-- The temperature bytes stand below the warning. -/
theorem fld_showTemps_temp (s : State) (west east : Int) :
    (State.showTemps s west east).fld .pwrThermal 0 8 = tempByte west ∧ (State.showTemps s west east).fld .pwrThermal 8 8 = tempByte east := by
  have written : ((s.setFld .pwrThermal 0 8 (tempByte west)).setFld .pwrThermal 8 8 (tempByte east)).fld .pwrThermal 0 8 = tempByte west ∧
      ((s.setFld .pwrThermal 0 8 (tempByte west)).setFld .pwrThermal 8 8 (tempByte east)).fld .pwrThermal 8 8 = tempByte east := by
    constructor
    · rw [fld_setFld_beside _ _ _ _ _ (by decide), fld_setFld_of_lt _ _ _ _ (by decide) (tempByte_lt west)]
    · exact fld_setFld_of_lt _ _ _ _ (by decide) (tempByte_lt east)
  unfold State.showTemps
  dsimp only
  split
  · exact ⟨(fld_setFld_beside _ _ _ _ _ (by decide)).trans written.1, (fld_setFld_beside _ _ _ _ _ (by decide)).trans written.2⟩
  · split
    · exact ⟨(fld_setFld_beside _ _ _ _ _ (by decide)).trans written.1, (fld_setFld_beside _ _ _ _ _ (by decide)).trans written.2⟩
    · exact written

theorem regs_beginEmergency (s : State) : (State.beginEmergency s).regs = (s.emergency false).regs := rfl

theorem fld_beginEmergency_thermal (s : State) {lo w : Nat} (h : lo + w ≤ 17) :
    (State.beginEmergency s).fld .pwrThermal lo w = s.fld .pwrThermal lo w := by
  rw [fld_of_regs (regs_beginEmergency s)]
  by_cases on : s.fld .devMode 3 1 = 1
  · rw [State.emergency, if_pos on]
  · rw [(emergency_regs s false on).fld _ _ _ _ _ (.inr (by decide)), State.bump, fld_setFld_beside _ _ _ _ _ (by omega),
      fld_setFld_beside _ _ _ _ _ (by omega), fld_setFld_apart _ _ _ _ _ _ (by decide), fld_setFld_apart _ _ _ _ _ _ (by decide)]

theorem fld_beginEmergency_mode (s : State) : (State.beginEmergency s).fld .devMode 3 1 = 1 := by
  rw [fld_of_regs (regs_beginEmergency s)]
  by_cases on : s.fld .devMode 3 1 = 1
  · rw [State.emergency, if_pos on, on]
  · rw [(emergency_regs s false on).fld _ _ _ _ _ (.inl (by decide)), State.bump, fld_setFld_apart _ _ _ _ _ _ (by decide),
      fld_setFld_apart _ _ _ _ _ _ (by decide), fld_setFld_beside _ _ _ _ _ (by decide), fld_setFld_of_lt _ _ _ _ (by decide) (by decide)]

theorem fld_thermal (s : State) (west east : Int) {lo w : Nat} (h : lo + w ≤ 17) :
    (s.thermal west east).fld .pwrThermal lo w = (State.showTemps s west east).fld .pwrThermal lo w := by
  rw [thermal_eq, fld_refreshPins _ _ _ (by decide)]
  split
  · exact fld_beginEmergency_thermal _ h
  · rfl

theorem thermal_of_hot (s : State) {west east : Int} (h : 110 ≤ max west east) :
    s.thermal west east = (State.beginEmergency (State.showTemps s west east)).refreshPins := by rw [thermal_eq, if_pos h]

theorem thermal_of_cool (s : State) {west east : Int} (h : max west east < 110) :
    s.thermal west east = (State.showTemps s west east).refreshPins := by rw [thermal_eq, if_neg (by omega)]

theorem emergencyOver_beginEmergency (s : State) : (State.beginEmergency s).refreshPins.emergencyOver = false := rfl

theorem pen_runs_iff (s : State) : penNumbers.any s.penRuns = true ↔ ∃ p, 1 ≤ p ∧ p ≤ 12 ∧ s.penRuns p = true := by
  rw [List.any_eq_true]
  constructor
  · rintro ⟨p, hp, runs⟩
    simp only [penNumbers, List.mem_map, List.mem_range] at hp
    exact ⟨p, by omega, by omega, runs⟩
  · rintro ⟨p, low, high, runs⟩
    exact ⟨p, List.mem_map.2 ⟨p - 1, List.mem_range.2 (by omega), by omega⟩, runs⟩

theorem keepDone_of_write {s : State} {w : Nat} {x : Word64} {rest : List (Nat × Word64)} (h : s.keepQ = (w, x) :: rest) :
    s.keepDone = if s.keepWord w = x then { s with keepQ := rest } else
      if s.worn w then { s with keepQ := rest }.post 0 401 0 [ef w] else
        { s with keepQ := rest, keep := SMap.set keepDefault s.keep w x, wear := SMap.set (fun _ => 0) s.wear w (s.wearOf w + 1) } := by
  unfold State.keepDone
  rw [h]
  rfl

/-- Settles O55. -/
theorem keepTemperatureAndPower : Obligations.KeepTemperatureAndPower := by
  unfold Obligations.KeepTemperatureAndPower
  intro s fn
  refine ⟨?enter, ?refused, ?wakes, ?awake, ?noWrite, ?write, ?sample, ?emergencyEnds, ?afterEmergency, ?hot, ?average, ?alert, ?noAlert⟩
  case enter =>
    intro hfn ready none
    have empty : s.loadedPens.isEmpty = true := List.isEmpty_iff.2 none
    have quiet : s.quietLinks.resetHif = _ := (resetHif_frame s.quietLinks)
    have links : s.quietLinks = _ := quietLinks_frame s
    refine ⟨(({ s.quietLinks.resetHif with power := .keep, spdm := [] }.setFld .pwrState 2 1 0).refreshPins), ?_, ?_, ?_⟩
    · simp only [exec, execKeepRequest, whenOk, hfn, ready, empty]
      rfl
    · rw [quiet, links]
      rfl
    · rw [fld_refreshPins _ _ _ (by decide)]
      exact fld_setFld_of_lt _ _ _ _ (by decide) (by decide)
  case refused =>
    intro h
    have shut : (decide (fn.val = 0) && s.resettable && s.loadedPens.isEmpty) = false := by
      obtain other | notReady | loaded := h
      · simp [other]
      · simp [notReady]
      · simp [loaded]
    simp only [exec, execKeepRequest, whenOk, shut, Bool.false_eq_true, if_false]
  case wakes =>
    intro h
    refine ⟨?_, wake_frame s, stage_wake s, rngState_wake s⟩
    simp only [exec, execSmbusWake, whenOk, h]
    rfl
  case awake =>
    intro h
    simp only [exec, execSmbusWake, whenOk, h, decide_false, Bool.false_eq_true, if_false]
  case noWrite =>
    rintro (off | none)
    · simp [exec, execKeepWriteDone, whenOk, off]
    · simp [exec, execKeepWriteDone, whenOk, State.keepDone, none]
  case write =>
    intro w x rest on queued
    simp only [exec, execKeepWriteDone, whenOk, on, ne_eq, not_false_eq_true, decide_true, if_true, keepDone_of_write queued]
    refine ⟨fun same => ?_, fun changed fresh => ?_, fun changed worn => ?_⟩
    · rw [if_pos same]
    · rw [if_neg changed, if_neg (by rw [fresh]; exact Bool.false_ne_true)]
      refine ⟨_, rfl, rfl, SMap.get_set_self .., fun v hv => ⟨SMap.get_set_ne _ _ _ _ _ hv,
        SMap.get_set_ne (fun _ => 0) s.wear w v (s.wearOf w + 1) hv⟩,
        SMap.get_set_self (fun _ => 0) s.wear w (s.wearOf w + 1)⟩
    · rw [if_neg changed, worn]
      rfl
  case sample =>
    intro west east
    refine ⟨fun off => ?_, fun keep inside => ?_, fun keep outside => ?_, fun up =>
      ⟨fun inside => ?_, fun outside => ?_, ?_, ?_, ?_, fun cool => ⟨?_, ?_⟩, fun hot => ⟨?_, ?_⟩⟩⟩
    · simp only [exec, execThermalSample, off, if_true]
    · simp only [exec, execThermalSample, keep, reduceCtorEq, if_false, if_true, if_neg inside]
    · simp only [exec, execThermalSample, keep, reduceCtorEq, if_false, if_true, if_pos outside]
    · have notOff : s.power ≠ .off := by obtain h | h := up <;> simp [h]
      have notKeep : s.power ≠ .keep := by obtain h | h := up <;> simp [h]
      simp only [exec, execThermalSample, notOff, notKeep, if_false, if_neg inside]
    · have notOff : s.power ≠ .off := by obtain h | h := up <;> simp [h]
      have notKeep : s.power ≠ .keep := by obtain h | h := up <;> simp [h]
      simp only [exec, execThermalSample, notOff, notKeep, if_false, if_pos outside]
    · rw [State.temp, fld_thermal _ _ _ (by decide), (fld_showTemps_temp s west east).1, toInt_tempByte]
    · rw [State.temp, fld_thermal _ _ _ (by decide), (fld_showTemps_temp s west east).2, toInt_tempByte]
    · rw [fld_thermal _ _ _ (by decide), fld_showTemps_warning]
    · rw [thermal_of_cool s cool]
      exact (showTemps_frame s west east).trans (.refreshPins _)
    · rw [thermal_of_cool s cool, fld_refreshPins _ _ _ (by decide), fld_showTemps_devMode]
    · rw [thermal_of_hot s hot, fld_refreshPins _ _ _ (by decide), fld_beginEmergency_mode]
    · rw [thermal_of_hot s hot, emergencyOver_beginEmergency]
  case emergencyEnds =>
    intro on west east
    simp only [exec, execThermalEmergencyEnd, whenOk, on, west, east, decide_true, Bool.and_self, if_true]
    refine ⟨fun none => ?_, fun some => ?_⟩
    · rw [if_neg fun h => ?_]
      obtain ⟨p, low, high, runs⟩ := (pen_runs_iff s).1 h
      rw [none p low high] at runs
      cases runs
    · rw [if_pos ((pen_runs_iff s).2 some)]
  case afterEmergency =>
    have regs : s.emergencyEnd.regs = ((s.setFld .devMode 3 1 0).setFld .pwrThermal 17 1 0).regs := rfl
    constructor
    · rw [fld_of_regs regs, fld_setFld_apart _ _ _ _ _ _ (by decide), fld_setFld_of_lt _ _ _ _ (by decide) (by decide)]
    · rw [fld_of_regs regs, fld_setFld_of_lt _ _ _ _ (by decide) (by decide)]
  case hot =>
    intro h
    have shut : (decide (s.fld .devMode 3 1 = 1) && (decide (s.temp 0 ≤ 100) && decide (s.temp 8 ≤ 100))) = false := by
      obtain off | west | east := h
      · simp [off]
      · simp [show ¬ s.temp 0 ≤ 100 by omega]
      · simp [show ¬ s.temp 8 ≤ 100 by omega]
    simp only [exec, execThermalEmergencyEnd, whenOk, shut, Bool.false_eq_true, if_false]
  case average =>
    intro mv tenMa watts
    have model : (((s.setFld .pwrInput 0 16 (min 65535 mv)).setFld .pwrInput 16 16 (min 65535 tenMa)).setFld .pwrInput 32 16
        (min 65535 watts)).maxWatts = s.maxWatts := by
      simp only [State.maxWatts]
      rw [fld_setFld_apart _ _ _ _ _ _ (by decide), fld_setFld_apart _ _ _ _ _ _ (by decide), fld_setFld_apart _ _ _ _ _ _ (by decide)]
    refine ⟨fun off => ?_, fun on low => ?_, fun on high => ?_⟩
    · simp only [exec, execPowerAverage, off, if_true]
    · simp only [exec, execPowerAverage, on, if_false, model, if_neg (show ¬ s.maxWatts < watts by omega)]
    · simp only [exec, execPowerAverage, on, if_false, model, if_pos high]
  case alert =>
    intro h
    simp only [exec, execAlertResponseAddressRead, whenOk, h, if_true]
  case noAlert =>
    intro h
    simp only [exec, execAlertResponseAddressRead, whenOk, h, Bool.false_eq_true, if_false]

end Sys2Proof.Proofs
end

section
namespace Sys2Proof.Proofs

open Sys2Proof Sys2Proof.Machine Sys2Proof.Claims

/-! ### The registers that the end of a job changes (R515, R549) -/

section
variable {K : Nat → Prop} {s₀ s : State}

theorem SameRegs.setBytes (h : SameRegs K s₀ s) (a : Nat) (bs : List Byte) : SameRegs K s₀ (s.setBytes a bs) := h.of_regs rfl

theorem SameRegs.setBad (h : SameRegs K s₀ s) (l : Nat) (b : Bool) : SameRegs K s₀ (s.setBad l b) := h.of_regs rfl

theorem SameRegs.markLine (h : SameRegs K s₀ s) (l : Nat) (b : Bool) : SameRegs K s₀ (s.markLine l b) := h.of_regs rfl

theorem SameRegs.writeLine (h : SameRegs K s₀ s) (line off : Nat) (bs : List Byte) (poison : Bool) :
    SameRegs K s₀ (s.writeLine line off bs poison) :=
  ((((h.setBytes ..).ite h).setBad ..).setBytes ..).markLine ..

theorem SameRegs.devWriteAux (n : Nat) (h : SameRegs K s₀ s) (dpa : Nat) (bs : List Byte) (poison : Bool) :
    SameRegs K s₀ (State.devWriteAux n s dpa bs poison) := by
  induction n generalizing s dpa bs with
  | zero => exact h
  | succ n ih => exact SameRegs.ite h (ih (h.writeLine ..) ..)

theorem SameRegs.regionWriteAux (n : Nat) (h : SameRegs K s₀ s) (r : Nat × Nat × Nat) (off : Nat) (bs : List Byte) :
    SameRegs K s₀ (State.regionWriteAux r n s off bs) := by
  induction n generalizing s off bs with
  | zero => exact h
  | succ n ih => exact SameRegs.ite h (ih (h.devWriteAux ..) ..)

theorem SameRegs.writeJournalHeader (h : SameRegs K s₀ s) (p : Nat) : SameRegs K s₀ (s.writeJournalHeader p) := by
  unfold State.writeJournalHeader
  split
  · exact h
  · exact h.regionWriteAux ..

theorem SameRegs.endRecord (h : SameRegs K s₀ s) (p : Nat) (a : Attempt) (v : Vote) : SameRegs K s₀ (s.endRecord p a v) := by
  unfold State.endRecord
  split
  · exact h
  · exact SameRegs.ite (h.regionWriteAux ..) h

/-- The registers that show a pen's power state (R660, R661). -/
def PowerKey (k : Nat) : Prop := k = RegName.key .pwrState 0 0 ∨ ∃ i, i < 4 ∧ k = RegName.key .pwrDomain 0 i

theorem SameRegs.refreshPower (h : SameRegs K s₀ s) (boundary : Nat) (hk : ∀ k, PowerKey k → ¬ K k) :
    SameRegs K s₀ (s.refreshPower boundary) := by
  have state := hk _ (.inl rfl)
  refine SameRegs.foldl (SameRegs.setFld (SameRegs.setFld ?_ _ _ _ _ _ _ state) _ _ _ _ _ _ state) fun t i hi ht =>
    ht.setReg _ _ _ _ (hk _ (.inr ⟨i, List.mem_range.1 hi, rfl⟩))
  split
  · exact h.of_regs rfl
  · split
    · exact h.of_regs rfl
    · exact h

/-- The registers that the end of pen `p`'s job writes. -/
def JobKey (p k : Nat) : Prop :=
  k = RegName.key .updJob 0 (p - 1) ∨ k = RegName.key .updCkpt 0 (p - 1) ∨ k = RegName.key .updCkptStat 0 (p - 1) ∨
  k = RegName.key .updLedger 0 (p - 1) ∨ k = RegName.key .corePenProg 0 (p - 1) ∨ k = RegName.key .devMode 0 0 ∨
  (∃ fn, fn ≤ 12 ∧ k = RegName.key .hifPenStat 0 fn) ∨ PowerKey k

variable {p : Nat} (hk : ∀ k, JobKey p k → ¬ K k)
include hk

theorem SameRegs.postCkptDone (h : SameRegs K s₀ s) (step status bytes : Nat) (id : List Byte) :
    SameRegs K s₀ (s.postCkptDone p step status bytes id) :=
  (h.postPen _ _ _ _ fun fn hfn => hk _ (by unfold JobKey; exact .inr (.inr (.inr (.inr (.inr (.inr (.inl ⟨fn, hfn, rfl⟩)))))))).setFld
    _ _ _ _ _ _ (hk _ (.inr (.inr (.inl rfl))))

theorem SameRegs.jobEnd (h : SameRegs K s₀ s) (cause : Nat) (fields : List EvField) (a : Option Attempt) (status : Word64) :
    SameRegs K s₀ (s.jobEnd p cause fields a status) := by
  have job := hk _ (.inl rfl)
  have ckpt := hk _ (.inr (.inl rfl))
  have ledger := hk _ (.inr (.inr (.inr (.inl rfl))))
  have prog := hk _ (.inr (.inr (.inr (.inr (.inl rfl)))))
  have mode := hk _ (.inr (.inr (.inr (.inr (.inr (.inl rfl))))))
  have posts := fun fn hfn => hk _ (.inr (.inr (.inr (.inr (.inr (.inr (.inl ⟨fn, hfn, rfl⟩)))))))
  unfold State.jobEnd
  split
  · exact h
  · extract_lets +onlyGivenNames s1 s2 step s3 s4 s5 s6 s7 s8 s9 s10 s11 s12
    have h1 : SameRegs K s₀ s1 := (h.foldl fun t c _ ht => ht.onCore ..).of_regs rfl
    have h2 : SameRegs K s₀ s2 := by
      unfold s2
      split
      · exact h1.endRecord ..
      · exact h1
    have h3 : SameRegs K s₀ s3 := by
      unfold s3
      split
      · exact (h2.postCkptDone hk ..).setFld _ _ _ _ _ _ ckpt
      · exact h2
    have h4 : SameRegs K s₀ s4 := h3.foldl fun t c _ ht => ht.onPort ..
    have h5 : SameRegs K s₀ s5 := by
      refine h4.foldl fun t o _ ht => ?_
      split
      · exact SameRegs.ite ht ((ht.setFld _ _ _ _ _ _ ledger).writeJournalHeader _)
      · exact ht
    have h6 : SameRegs K s₀ s6 := h5.onJob ..
    have h11 : SameRegs K s₀ s11 := ((((h6.setFld _ _ _ _ _ _ job).setFld _ _ _ _ _ _ job).setFld _ _ _ _ _ _ job).setFld _ _ _ _ _ _ job).setFld
      _ _ _ _ _ _ prog
    exact ((h11.postBoth _ _ _ _ posts).setFld _ _ _ _ _ _ mode).refreshPower _ fun k power =>
      hk _ (.inr (.inr (.inr (.inr (.inr (.inr (.inr power)))))))

theorem SameRegs.cutJob (h : SameRegs K s₀ s) : SameRegs K s₀ (s.cutJob p) := by
  unfold State.cutJob
  split
  · exact h
  · extract_lets +onlyGivenNames s1
    have h1 : SameRegs K s₀ s1 := by
      unfold s1
      split
      · exact h.postCkptDone hk ..
      · exact h
    exact SameRegs.ite (h1.onJob ..) (h1.jobEnd hk ..)

theorem SameRegs.teardown (h : SameRegs K s₀ s) (cause : Nat) (state : ¬ K (RegName.key .penState 0 (p - 1))) :
    SameRegs K s₀ (s.teardown p cause) := by
  exact SameRegs.ite h (SameRegs.cutJob hk ((h.onPen ..).setFld _ _ _ _ _ _ state))

end

theorem SameRegs.abortJobs {K : Nat → Prop} {s₀ s : State} (h : SameRegs K s₀ s)
    (hk : ∀ p, 1 ≤ p → p ≤ 12 → ∀ k, JobKey p k → ¬ K k) : SameRegs K s₀ s.abortJobs := by
  refine h.foldl fun t p hp ht => ?_
  simp only [State.loadedPens, List.mem_filter, List.mem_map, List.mem_range] at hp
  split
  · exact ht
  · exact SameRegs.ite ht (ht.jobEnd (hk p (by omega) (by omega)) ..)

/-- No entry of a pen's job stands in the security registers or behind those of the host interface. -/
theorem jobKey_lt {p k : Nat} (hp : p ≤ 12) (h : JobKey p k) :
    k < 0xA00000 ∨ (0xC00200 ≤ k ∧ k ≤ 0xC00260) ∨ (0xF00000 ≤ k ∧ k < 0xF00030) := by
  obtain rfl | rfl | rfl | rfl | rfl | rfl | ⟨fn, hfn, rfl⟩ | rfl | ⟨i, hi, rfl⟩ := h
  · exact .inl (show 0x600000 + 8 * (p - 1) < 0xA00000 by omega)
  · exact .inl (show 0x600F00 + 8 * (p - 1) < 0xA00000 by omega)
  · exact .inl (show 0x600F80 + 8 * (p - 1) < 0xA00000 by omega)
  · exact .inl (show 0x600E00 + 8 * (p - 1) < 0xA00000 by omega)
  · exact .inl (show 0x201000 + 8 * (p - 1) < 0xA00000 by omega)
  · exact .inl (by decide)
  · rw [key_hifPenStat]
    omega
  · exact .inr (.inr (by decide))
  · exact .inr (.inr (show 0xF00000 ≤ 0xF00010 + 8 * i ∧ 0xF00010 + 8 * i < 0xF00030 by omega))

/-! ### The tamper alarm (R603 to R605) -/

theorem sensorCode_lt (t : TamperSensor) : sensorCode t < 2 ^ 4 := by cases t <;> decide

theorem alarmState_lt {s : State} {keyOp : Bool} {st : Nat} (h : s.alarmState keyOp = some st) : st < 2 ^ 3 := by
  unfold State.alarmState at h
  split at h
  · cases h
  · cases h
    decide
  · cases h
    split
    · decide
    · split
      · decide
      · split <;> decide
  · cases h
    split <;> decide

theorem alarmState_isSome {s : State} (keyOp : Bool) (h : s.power ≠ .off) : ∃ st, s.alarmState keyOp = some st := by
  unfold State.alarmState
  split
  case h_1 off => exact absurd off h
  all_goals exact ⟨_, rfl⟩

/-- The word that an alarm logs: its sensor, the state that it found, a time and the boot count (R605). -/
def State.alarmWord (s : State) (sensor st : Nat) : Word64 :=
  BitVec.ofNat 64 (sensor + st * 2 ^ 4 + (s.drawNat 24).1 * 2 ^ 8 + (s.drawNat 24).2.bootCount % 2 ^ 16 * 2 ^ 32)

/-- The log with the alarm in it, before SEC_TAMPER shows it. -/
def State.keepAlarm (s : State) (sensor st : Nat) : State :=
  { (s.drawNat 24).2.keepWrite (0x40 + s.tamperHead) (State.alarmWord s sensor st) with tamperHead := (s.tamperHead + 1) % 16 }.setReg
    .secTamperLog (State.alarmWord s sensor st) s.tamperHead

/-- SEC_TAMPER showing an alarm. -/
def State.showAlarm (s : State) (sensor st : Nat) : State :=
  let s := (s.setFld .secTamper 0 4 sensor).setFld .secTamper 4 3 st
  s.setFld .secTamper 8 8 (min 16 (s.fld .secTamper 8 8 + 1))

theorem logAlarm_eq (s : State) (sensor st : Nat) : s.logAlarm sensor st = State.showAlarm (State.keepAlarm s sensor st) sensor st := rfl

theorem fld_showAlarm (s : State) {sensor st : Nat} (hsensor : sensor < 2 ^ 4) (hst : st < 2 ^ 3) :
    (State.showAlarm s sensor st).fld .secTamper 0 4 = sensor ∧ (State.showAlarm s sensor st).fld .secTamper 4 3 = st ∧
    (State.showAlarm s sensor st).fld .secTamper 8 8 = min 16 (s.fld .secTamper 8 8 + 1) := by
  unfold State.showAlarm
  refine ⟨?_, ?_, ?_⟩
  · rw [fld_setFld_beside _ _ _ _ _ (by decide), fld_setFld_beside _ _ _ _ _ (by decide), fld_setFld_of_lt _ _ _ _ (by decide) hsensor]
  · rw [fld_setFld_beside _ _ _ _ _ (by decide), fld_setFld_of_lt _ _ _ _ (by decide) hst]
  · rw [fld_setFld_of_lt _ _ _ _ (by decide) (by omega), fld_setFld_beside _ _ _ _ _ (by decide), fld_setFld_beside _ _ _ _ _ (by decide)]

theorem fld_keepAlarm_secTamper (s : State) (sensor st : Nat) :
    (State.keepAlarm s sensor st).fld .secTamper 8 8 = s.fld .secTamper 8 8 := by
  have apart : RegName.key .secTamper 0 0 ≠ RegName.key .secTamperLog 0 s.tamperHead :=
    show 0xA00010 ≠ 0xA00100 + 8 * s.tamperHead by omega
  rw [State.keepAlarm, State.fld, State.reg_setReg_ne _ _ _ _ _ _ _ _ apart]
  rfl

theorem reg_showAlarm_log (s : State) (sensor st i : Nat) : (State.showAlarm s sensor st).reg .secTamperLog i = s.reg .secTamperLog i := by
  have apart : RegName.key .secTamperLog 0 i ≠ RegName.key .secTamper 0 0 := show 0xA00100 + 8 * i ≠ 0xA00010 by omega
  rw [State.showAlarm, reg_setFld_apart _ _ _ _ apart, reg_setFld_apart _ _ _ _ apart, reg_setFld_apart _ _ _ _ apart]

theorem fld_alarmWord (s : State) {sensor st : Nat} (hsensor : sensor < 2 ^ 4) (hst : st < 2 ^ 3) :
    getBits (State.alarmWord s sensor st) 0 4 = sensor ∧ getBits (State.alarmWord s sensor st) 4 4 = st := by
  have time : (s.drawNat 24).1 < 2 ^ 24 := Nat.mod_lt _ (by decide)
  have boot : (s.drawNat 24).2.bootCount % 2 ^ 16 < 2 ^ 16 := Nat.mod_lt _ (by decide)
  rw [getBits, getBits, State.alarmWord, BitVec.toNat_ofNat, Nat.mod_eq_of_lt (b := 2 ^ 64) (by omega)]
  omega

theorem SameRegs.eraseBay {K : Nat → Prop} {s₀ s : State} (h : SameRegs K s₀ s) (b : Nat) : SameRegs K s₀ (s.eraseBay b) := by
  unfold State.eraseBay
  refine SameRegs.onBay ?_ b _
  exact h.of_regs rfl

/-- The pen that zeroising clears. -/
def State.clearPen (s : State) (p : Nat) : State :=
  (s.onPen p (fun x => { x with memKey := 0#512, importPriv := 0, session := none })).onJob p (fun j => { j with linkKey := none })

/-- The device without its own keys and sessions. -/
def State.dropKeys (s : State) : State := { s with deviceKey := 0#512, spdm := [] }

/-- The device once its keys are gone, before its memory is crypto-erased. -/
def State.clearKeys (s : State) : State := State.dropKeys ((penNumbers.foldl State.clearPen s).setFld .rngStatus 2 1 0)

theorem zeroise_eq (s : State) : s.zeroise = (List.range 12).foldl State.eraseBay (State.clearKeys s) := rfl

theorem dropKeys_frame (s : State) : (State.dropKeys s).regs = s.regs ∧ (State.dropKeys s).pens = s.pens := ⟨rfl, rfl⟩

theorem pen_clearKeys (s : State) (p : Nat) : (State.clearKeys s).pen p = (penNumbers.foldl State.clearPen s).pen p := by
  rw [State.pen, State.clearKeys, (dropKeys_frame _).2, ← State.pen, State.setFld, State.pen_setReg]

theorem drbgReady_clearKeys (s : State) : (State.clearKeys s).drbgReady = false := by
  rw [State.drbgReady, State.clearKeys, fld_of_regs (dropKeys_frame _).1, fld_setFld_of_lt _ _ _ _ (by decide) (by decide)]
  rfl

/-- Zeroising touches no register but the DRBG's state. -/
theorem SameRegs.zeroise {K : Nat → Prop} {s₀ s : State} (h : SameRegs K s₀ s) (hk : ¬ K (RegName.key .rngStatus 0 0)) :
    SameRegs K s₀ s.zeroise := by
  have pens : SameRegs K s₀ (penNumbers.foldl State.clearPen s) := h.foldl fun t p _ ht => (ht.onPen ..).onJob ..
  rw [zeroise_eq, State.clearKeys]
  exact ((pens.setFld .rngStatus 2 1 0 0 0 hk).of_regs (dropKeys_frame _).1).foldl fun t b _ ht => ht.eraseBay b

/-- The security registers that the lock stands in. -/
def LockKey (k : Nat) : Prop := k = RegName.key .secTamper 0 0

theorem locked_of_same {s t : State} (h : SameRegs LockKey s t) : t.locked = s.locked := by
  rw [State.locked, State.locked, h.fld .secTamper 7 1 0 0 rfl]

theorem locked_setFld (s : State) : (s.setFld .secTamper 7 1 1).locked = true := by
  rw [State.locked, fld_setFld_of_lt _ _ _ _ (by decide) (by decide)]
  rfl

theorem not_lockKey_of_jobKey {p k : Nat} (hp : p ≤ 12) (h : JobKey p k) : ¬ LockKey k := by
  have far := jobKey_lt hp h
  show ¬ k = 0xA00010
  omega

theorem not_lockKey_penState (p : Nat) : ¬ LockKey (RegName.key .penState 0 (p - 1)) :=
  show ¬ 0xB00000 + 8 * (p - 1) = 0xA00010 by omega

theorem locked_lockDown (s : State) : s.lockDown.locked = true := by
  have pens : ∀ p ∈ penNumbers, p ≤ 12 := by decide
  unfold State.lockDown
  dsimp only
  refine (locked_of_same (SameRegs.foldl ((SameRegs.refl _).foldl fun t p hp ht =>
    ht.teardown (fun k => not_lockKey_of_jobKey (pens p hp)) byTamper (not_lockKey_penState p)) fun t p _ ht =>
      SameRegs.ite ht ((ht.onPen ..).setFld _ _ _ _ _ _ (not_lockKey_penState p)))).trans (locked_setFld _)

theorem locked_haltLocked (s : State) : s.haltLocked.locked = true := by
  have ports (p : Nat) : ¬ LockKey (RegName.key .xglPortStatus 0 p) ∨ ¬ p < 12 := by
    by_cases hp : p < 12
    · exact .inl (show ¬ 0x500100 + 8 * p = 0xA00010 by omega)
    · exact .inr hp
  have boot : ¬ LockKey (RegName.key .mgtBoot 0 0) := show ¬ _ = _ by decide
  unfold State.haltLocked
  extract_lets +onlyGivenNames s1 s2
  have h2 : SameRegs LockKey s1 s2 := (SameRegs.refl s1).ite ((((SameRegs.refl s1).setFld _ _ _ _ _ _ boot).setFld _ _ _ _ _ _ boot).setFld
    _ _ _ _ _ _ boot)
  refine (locked_of_same (SameRegs.foldl (s := { s2 with linkStage := false, censusOpen := false }) ?_ fun t p hp ht =>
    SameRegs.ite (ht.setFld _ _ _ _ _ _ ((ports p).resolve_right fun h => h (List.mem_range.1 hp))) ht)).trans (locked_setFld s)
  exact h2.of_regs rfl

/-- A pen whose keys are gone. -/
def KeysGone (x : PenS) : Prop := x.memKey = 0#512 ∧ x.importPriv = 0 ∧ x.session = none

theorem pen_clearPen_self (s : State) (p : Nat) : KeysGone ((State.clearPen s p).pen p) := by
  rw [State.clearPen, State.onJob, State.onPen, State.pen_setPen_self, State.onPen, State.pen_setPen_self]
  exact ⟨rfl, rfl, rfl⟩

theorem pen_clearPen_ne (s : State) {p q : Nat} (h : q ≠ p) : (State.clearPen s p).pen q = s.pen q := by
  rw [State.clearPen, State.onJob, State.onPen, State.pen_setPen_ne _ _ _ _ h, State.onPen, State.pen_setPen_ne _ _ _ _ h]

/-- Once a pen is cleared it stays so while others are. -/
theorem keysGone_foldl {ps : List Nat} {p : Nat} (s : State) (h : p ∈ ps ∨ KeysGone (s.pen p)) :
    KeysGone ((ps.foldl State.clearPen s).pen p) := by
  induction ps generalizing s with
  | nil => exact h.resolve_left (by simp)
  | cons q qs ih =>
    refine ih _ ?_
    by_cases here : p = q
    · exact .inr (here ▸ pen_clearPen_self s q)
    · rw [pen_clearPen_ne s here]
      exact h.imp_left fun m => (List.mem_cons.1 m).resolve_left here

/-- What a crypto-erase of a bay leaves as it is. -/
theorem eraseBays_frame (bs : List Nat) (s : State) : (bs.foldl State.eraseBay s).pens = s.pens ∧
    (bs.foldl State.eraseBay s).regs = s.regs ∧ (bs.foldl State.eraseBay s).deviceKey = s.deviceKey ∧
    (bs.foldl State.eraseBay s).spdm = s.spdm := by
  induction bs generalizing s with
  | nil => exact ⟨rfl, rfl, rfl, rfl⟩
  | cons b bs ih => exact ih (s.eraseBay b)

/-- Settles O52. -/
theorem tamperAlarmLocksTheDevice : Obligations.TamperAlarmLocksTheDevice := by
  unfold Obligations.TamperAlarmLocksTheDevice
  intro s sensor keyOp
  obtain ⟨pens, regs, key, spdm⟩ := eraseBays_frame (List.range 12) (State.clearKeys s)
  rw [← zeroise_eq] at pens regs key spdm
  refine ⟨fun off => ?_, alarmState_isSome keyOp, fun st hst => ?_, fun p low high => ?_, key, ?_, spdm, locked_lockDown s,
    locked_haltLocked s⟩
  · simp only [exec, execTamperAlarm, State.alarmState, off]
  · obtain ⟨code, state, count⟩ := fld_showAlarm (State.keepAlarm s (sensorCode sensor) st) (sensorCode_lt sensor) (alarmState_lt hst)
    refine ⟨?_, code, state, count.trans ?_, fun small => ?_⟩
    · simp only [exec, execTamperAlarm, hst]
    · rw [fld_keepAlarm_secTamper]
    · have word := reg_showAlarm_log (State.keepAlarm s (sensorCode sensor) st) (sensorCode sensor) st s.tamperHead
      rw [← logAlarm_eq, State.keepAlarm, State.reg_setReg_self] at word
      obtain ⟨sensorField, stateField⟩ := fld_alarmWord s (sensorCode_lt sensor) (show st < 2 ^ 3 from alarmState_lt hst)
      exact ⟨by rw [State.fld, word, sensorField], by rw [State.fld, word, stateField], rfl⟩
  · have gone : KeysGone ((penNumbers.foldl State.clearPen s).pen p) :=
      keysGone_foldl s (.inl (List.mem_map.2 ⟨p - 1, List.mem_range.2 (by omega), by omega⟩))
    have same : s.zeroise.pen p = (penNumbers.foldl State.clearPen s).pen p := by
      rw [State.pen, pens, ← State.pen, pen_clearKeys]
    rw [same]
    exact gone
  · rw [State.drbgReady, fld_of_regs regs, ← State.drbgReady, drbgReady_clearKeys]

end Sys2Proof.Proofs
end

section
namespace Sys2Proof.Proofs

open Sys2Proof Sys2Proof.Machine Sys2Proof.Claims

/-! ### What the end of a job leaves as it is (R515, R549, R659) -/

/-- `t` differs from `s` only in the parts of the state that the end of pen `p`'s job may change; every other pen is as it was. -/
structure JobFrame (p : Nat) (s t : State) : Prop where
  frame : t = { s with regs := t.regs, hbm := t.hbm, poison := t.poison, badLines := t.badLines, cores := t.cores, packets := t.packets,
                       pens := t.pens, ports := t.ports, evq := t.evq, evLost := t.evLost, power := t.power }
  others : ∀ q, q ≠ p → t.pen q = s.pen q

section
variable {p : Nat} {s₀ s : State}

theorem JobFrame.refl (s : State) : JobFrame p s s := ⟨rfl, fun _ _ => rfl⟩

theorem JobFrame.trans {t : State} (h : JobFrame p s₀ s) (h' : JobFrame p s t) : JobFrame p s₀ t :=
  ⟨by rw [h'.frame, h.frame], fun q hq => (h'.others q hq).trans (h.others q hq)⟩

theorem JobFrame.foldl {α : Type} {l : List α} {f : State → α → State} (h : JobFrame p s₀ s)
    (hf : ∀ s a, a ∈ l → JobFrame p s₀ s → JobFrame p s₀ (f s a)) : JobFrame p s₀ (l.foldl f s) :=
  List.foldlRecOn (motive := JobFrame p s₀) l f h fun s hs a ha => hf s a ha hs

theorem JobFrame.ite {c : Prop} [Decidable c] {t : State} (h : JobFrame p s₀ s) (h' : JobFrame p s₀ t) :
    JobFrame p s₀ (if c then s else t) := by
  split
  · exact h
  · exact h'

theorem JobFrame.setReg (h : JobFrame p s₀ s) (n : RegName) (x : Word64) (ix fn : Nat) : JobFrame p s₀ (s.setReg n x ix fn) :=
  h.trans ⟨rfl, fun _ _ => rfl⟩

theorem JobFrame.setFld (h : JobFrame p s₀ s) (n : RegName) (lo w v ix fn : Nat) : JobFrame p s₀ (s.setFld n lo w v ix fn) :=
  h.setReg ..

theorem JobFrame.onPen (h : JobFrame p s₀ s) (f : PenS → PenS) : JobFrame p s₀ (s.onPen p f) :=
  h.trans ⟨rfl, fun _ hq => State.pen_setPen_ne _ _ _ _ hq⟩

theorem JobFrame.onJob (h : JobFrame p s₀ s) (f : Job → Job) : JobFrame p s₀ (s.onJob p f) := h.onPen _

theorem JobFrame.onCore (h : JobFrame p s₀ s) (k : Nat) (f : Core → Core) : JobFrame p s₀ (s.onCore k f) :=
  h.trans ⟨rfl, fun _ _ => rfl⟩

theorem JobFrame.onPort (h : JobFrame p s₀ s) (q : Nat) (f : XPort → XPort) : JobFrame p s₀ (s.onPort q f) :=
  h.trans ⟨rfl, fun _ _ => rfl⟩

theorem JobFrame.post (h : JobFrame p s₀ s) (fn code step : Nat) (fs : List EvField) : JobFrame p s₀ (s.post fn code step fs) := by
  unfold State.post
  refine JobFrame.ite (h.trans ⟨rfl, fun _ _ => rfl⟩) (JobFrame.trans (h.setFld ..) ⟨rfl, fun _ _ => rfl⟩)

theorem JobFrame.postPen (h : JobFrame p s₀ s) (q code step : Nat) (fs : List EvField) : JobFrame p s₀ (s.postPen q code step fs) :=
  JobFrame.ite (h.post ..) h

theorem JobFrame.postBoth (h : JobFrame p s₀ s) (q code step : Nat) (fs : List EvField) : JobFrame p s₀ (s.postBoth q code step fs) :=
  JobFrame.post (JobFrame.ite (h.post ..) h) ..

theorem JobFrame.setBytes (h : JobFrame p s₀ s) (a : Nat) (bs : List Byte) : JobFrame p s₀ (s.setBytes a bs) :=
  h.trans ⟨rfl, fun _ _ => rfl⟩

theorem JobFrame.setBad (h : JobFrame p s₀ s) (l : Nat) (b : Bool) : JobFrame p s₀ (s.setBad l b) := h.trans ⟨rfl, fun _ _ => rfl⟩

theorem JobFrame.markLine (h : JobFrame p s₀ s) (l : Nat) (b : Bool) : JobFrame p s₀ (s.markLine l b) := h.trans ⟨rfl, fun _ _ => rfl⟩

theorem JobFrame.writeLine (h : JobFrame p s₀ s) (line off : Nat) (bs : List Byte) (poison : Bool) :
    JobFrame p s₀ (s.writeLine line off bs poison) :=
  (((JobFrame.ite (h.setBytes ..) h).setBad ..).setBytes ..).markLine ..

theorem JobFrame.devWriteAux (n : Nat) (h : JobFrame p s₀ s) (dpa : Nat) (bs : List Byte) (poison : Bool) :
    JobFrame p s₀ (State.devWriteAux n s dpa bs poison) := by
  induction n generalizing s dpa bs with
  | zero => exact h
  | succ n ih => exact JobFrame.ite h (ih (h.writeLine ..) ..)

theorem JobFrame.regionWriteAux (n : Nat) (h : JobFrame p s₀ s) (r : Nat × Nat × Nat) (off : Nat) (bs : List Byte) :
    JobFrame p s₀ (State.regionWriteAux r n s off bs) := by
  induction n generalizing s off bs with
  | zero => exact h
  | succ n ih => exact JobFrame.ite h (ih (h.devWriteAux ..) ..)

theorem JobFrame.writeJournalHeader (h : JobFrame p s₀ s) (q : Nat) : JobFrame p s₀ (s.writeJournalHeader q) := by
  unfold State.writeJournalHeader
  split
  · exact h
  · exact h.regionWriteAux ..

theorem JobFrame.endRecord (h : JobFrame p s₀ s) (q : Nat) (a : Attempt) (v : Vote) : JobFrame p s₀ (s.endRecord q a v) := by
  unfold State.endRecord
  split
  · exact h
  · exact JobFrame.ite (h.regionWriteAux ..) h

theorem JobFrame.stopUnits (h : JobFrame p s₀ s) (q : Nat) : JobFrame p s₀ (s.stopUnits q) :=
  JobFrame.trans (h.foldl fun _ _ _ ht => ht.onCore ..) ⟨rfl, fun _ _ => rfl⟩

theorem JobFrame.refreshPower (h : JobFrame p s₀ s) (boundary : Nat) : JobFrame p s₀ (s.refreshPower boundary) := by
  refine JobFrame.foldl (JobFrame.setFld (JobFrame.setFld ?_ ..) ..) fun t i _ ht => ht.setReg ..
  split
  · exact h.trans ⟨rfl, fun _ _ => rfl⟩
  · split
    · exact h.trans ⟨rfl, fun _ _ => rfl⟩
    · exact h

theorem JobFrame.postCkptDone (h : JobFrame p s₀ s) (step status bytes : Nat) (id : List Byte) :
    JobFrame p s₀ (s.postCkptDone p step status bytes id) := (h.postPen ..).setFld ..

theorem JobFrame.jobEnd (h : JobFrame p s₀ s) (cause : Nat) (fields : List EvField) (a : Option Attempt) (status : Word64) :
    JobFrame p s₀ (s.jobEnd p cause fields a status) := by
  unfold State.jobEnd
  split
  · exact h
  · extract_lets +onlyGivenNames s1 s2 step s3 s4 s5 s6 s7 s8 s9 s10 s11 s12
    have h1 : JobFrame p s₀ s1 := h.stopUnits p
    have h2 : JobFrame p s₀ s2 := by
      unfold s2
      split
      · exact h1.endRecord ..
      · exact h1
    have h3 : JobFrame p s₀ s3 := by
      unfold s3
      split
      · exact (h2.postCkptDone ..).setFld ..
      · exact h2
    have h4 : JobFrame p s₀ s4 := h3.foldl fun _ _ _ ht => ht.onPort ..
    have h5 : JobFrame p s₀ s5 := by
      refine h4.foldl fun t o _ ht => ?_
      split
      · exact JobFrame.ite ht ((ht.setFld ..).writeJournalHeader _)
      · exact ht
    have h11 : JobFrame p s₀ s11 := (((((h5.onJob _).setFld ..).setFld ..).setFld ..).setFld ..).setFld ..
    exact ((h11.postBoth ..).setFld ..).refreshPower _

end

/-- The state of a pen's job in UPD_JOB. -/
def JobStateKey (p k : Nat) : Prop := k = RegName.key .updJob 0 (p - 1)

theorem key_updJob (ix : Nat) : RegName.key .updJob 0 ix = 0x600000 + 8 * ix := rfl

theorem key_corePenProg (ix : Nat) : RegName.key .corePenProg 0 ix = 0x201000 + 8 * ix := rfl

/-- The end of another pen's job leaves a pen's job state. -/
theorem not_jobStateKey_of_other {p q k : Nat} (hp : 1 ≤ p) (hp' : p ≤ 12) (hq : 1 ≤ q) (hq' : q ≤ 12) (ne : q ≠ p) (h : JobKey q k) :
    ¬ JobStateKey p k := by
  rw [JobStateKey, key_updJob]
  obtain rfl | rfl | rfl | rfl | rfl | rfl | ⟨fn, hfn, rfl⟩ | rfl | ⟨i, hi, rfl⟩ := h
  · rw [key_updJob]
    omega
  · exact show 0x600F00 + 8 * (q - 1) ≠ _ by omega
  · exact show 0x600F80 + 8 * (q - 1) ≠ _ by omega
  · exact show 0x600E00 + 8 * (q - 1) ≠ _ by omega
  · exact show 0x201000 + 8 * (q - 1) ≠ _ by omega
  · exact show 0x8 ≠ _ by omega
  · rw [key_hifPenStat]
    omega
  · exact show 0xF00000 ≠ _ by omega
  · exact show 0xF00010 + 8 * i ≠ _ by omega

/-- A job that ends is Ended in UPD_JOB (R515). -/
theorem fld_jobEnd_ended {s : State} {p : Nat} (hp : p ≤ 12) (loaded : s.job p ≠ none) (cause : Nat) (fields : List EvField)
    (a : Option Attempt) (status : Word64) : (s.jobEnd p cause fields a status).fld .updJob 0 2 (p - 1) = 3 := by
  have mode : ¬ JobStateKey p (RegName.key .devMode 0 0) := by
    rw [JobStateKey, key_updJob]
    exact show 0x8 ≠ _ by omega
  have posts (fn : Nat) (hfn : fn ≤ 12) : ¬ JobStateKey p (RegName.key .hifPenStat 0 fn) := by
    rw [JobStateKey, key_updJob, key_hifPenStat]
    omega
  have power (k : Nat) (h : PowerKey k) : ¬ JobStateKey p k := by
    rw [JobStateKey, key_updJob]
    obtain rfl | ⟨i, hi, rfl⟩ := h
    · exact show 0xF00000 ≠ _ by omega
    · exact show 0xF00010 + 8 * i ≠ _ by omega
  have prog : ¬ JobStateKey p (RegName.key .corePenProg 0 (p - 1)) := by
    rw [JobStateKey, key_updJob, key_corePenProg]
    omega
  unfold State.jobEnd
  split
  next none => exact absurd none loaded
  next =>
    extract_lets +onlyGivenNames s1 s2 step s3 s4 s5 s6 s7 s8 s9 s10 s11 s12
    have later : SameRegs (JobStateKey p) s10 (s12.replayReg.refreshPower) :=
      ((((SameRegs.refl s10).setFld .corePenProg 0 2 1 (p - 1) 0 prog).postBoth _ _ _ _ posts).setFld _ _ _ _ _ _ mode).refreshPower _ power
    rw [later.fld .updJob 0 2 (p - 1) 0 rfl, fld_setFld_beside _ _ _ _ _ (by decide), fld_setFld_beside _ _ _ _ _ (by decide),
      fld_setFld_beside _ _ _ _ _ (by decide), fld_setFld_of_lt _ _ _ _ (by decide) (by decide)]

/-- A pen's job ends with ABORTED, unless its pen is being torn down or it has ended. -/
def State.abortJob (s : State) (p : Nat) : State :=
  match s.job p with
  | none => s
  | some j =>
    if (s.pen p).teardownCause.isSome || decide (s.fld .updJob 0 2 (p - 1) = 3) then s
    else s.jobEnd p evAborted [] (j.voting <|> j.cur) (((j.voting <|> j.cur).map Attempt.status).getD 0#64)

theorem abortJobs_eq (s : State) : s.abortJobs = s.loadedPens.foldl State.abortJob s := rfl

theorem abortJob_frame (s : State) (p : Nat) : JobFrame p s (State.abortJob s p) := by
  unfold State.abortJob
  split
  · exact .refl s
  · exact JobFrame.ite (.refl s) ((JobFrame.refl s).jobEnd ..)

theorem sameRegs_abortJob {K : Nat → Prop} (s : State) {p : Nat} (hk : ∀ k, JobKey p k → ¬ K k) : SameRegs K s (State.abortJob s p) := by
  unfold State.abortJob
  split
  · exact .refl s
  · exact SameRegs.ite (.refl s) ((SameRegs.refl s).jobEnd hk ..)

theorem fld_abortJob_ended {s : State} {p : Nat} (hp : p ≤ 12) (loaded : s.job p ≠ none) (stays : (s.pen p).teardownCause = none) :
    (State.abortJob s p).fld .updJob 0 2 (p - 1) = 3 := by
  obtain ⟨j, hj⟩ := Option.ne_none_iff_exists'.1 loaded
  unfold State.abortJob
  rw [hj]
  dsimp only
  rw [stays]
  split
  next ended => exact of_decide_eq_true ended
  next => exact fld_jobEnd_ended hp loaded ..

theorem fld_abortJobs_other {ps : List Nat} (hps : ∀ q ∈ ps, 1 ≤ q ∧ q ≤ 12) {p : Nat} (low : 1 ≤ p) (high : p ≤ 12) (out : p ∉ ps)
    (s : State) : (ps.foldl State.abortJob s).fld .updJob 0 2 (p - 1) = s.fld .updJob 0 2 (p - 1) := by
  have same : SameRegs (JobStateKey p) s (ps.foldl State.abortJob s) := (SameRegs.refl s).foldl fun t q hq ht =>
    ht.trans (sameRegs_abortJob t fun k => not_jobStateKey_of_other low high (hps q hq).1 (hps q hq).2 fun e => out (e ▸ hq))
  exact same.fld .updJob 0 2 (p - 1) 0 rfl

theorem fld_abortJobs_ended {ps : List Nat} (nodup : ps.Nodup) (hps : ∀ q ∈ ps, 1 ≤ q ∧ q ≤ 12) {p : Nat} (hp : p ∈ ps) {s : State}
    (loaded : s.job p ≠ none) (stays : (s.pen p).teardownCause = none) :
    (ps.foldl State.abortJob s).fld .updJob 0 2 (p - 1) = 3 := by
  induction ps generalizing s with
  | nil => cases hp
  | cons q qs ih =>
    obtain ⟨fresh, rest⟩ := List.nodup_cons.1 nodup
    have tail : ∀ r ∈ qs, 1 ≤ r ∧ r ≤ 12 := fun r hr => hps r (List.mem_cons_of_mem q hr)
    obtain ⟨low, high⟩ := hps p hp
    rw [List.foldl_cons]
    by_cases here : p = q
    · subst here
      rw [fld_abortJobs_other tail low high fresh]
      exact fld_abortJob_ended high loaded stays
    · have same : (State.abortJob s q).pen p = s.pen p := (abortJob_frame s q).others p here
      exact ih rest tail ((List.mem_cons.1 hp).resolve_left here) (by rwa [State.job, same]) (by rwa [same])

theorem mem_loadedPens {s : State} {p : Nat} : p ∈ s.loadedPens ↔ (1 ≤ p ∧ p ≤ 12) ∧ s.job p ≠ none := by
  rw [State.loadedPens, List.mem_filter, List.mem_map, Option.isSome_iff_ne_none]
  refine and_congr_left fun _ => ⟨fun ⟨i, hi, e⟩ => ?_, fun h => ⟨p - 1, List.mem_range.2 (by omega), by omega⟩⟩
  have := List.mem_range.1 hi
  omega

theorem nodup_loadedPens (s : State) : s.loadedPens.Nodup :=
  (List.nodup_range.map fun _ _ h => by simpa using h).filter _

theorem JobFrame.flags {p : Nat} {s t : State} (h : JobFrame p s t) : t.fetchPaused = s.fetchPaused ∧ t.computeReset = s.computeReset := by
  rw [h.frame]
  exact ⟨rfl, rfl⟩

theorem abortJobs_flags (s : State) : s.abortJobs.fetchPaused = s.fetchPaused ∧ s.abortJobs.computeReset = s.computeReset :=
  List.foldlRecOn (motive := fun t => t.fetchPaused = s.fetchPaused ∧ t.computeReset = s.computeReset) s.loadedPens State.abortJob ⟨rfl, rfl⟩
    fun t ht p _ => ⟨(abortJob_frame t p).flags.1.trans ht.1, (abortJob_frame t p).flags.2.trans ht.2⟩

theorem refreshPower_flags (s : State) (boundary : Nat) :
    (s.refreshPower boundary).fetchPaused = s.fetchPaused ∧ (s.refreshPower boundary).computeReset = s.computeReset :=
  ((JobFrame.refl (p := 0) s).refreshPower boundary).flags

/-! ### Resets (R672 to R674, R709) -/

/-- The state in which the jobs of a compute reset end. -/
def State.pauseFetching (s : State) : State := { s with fetchPaused := true, computeReset := true }

/-- A compute reset shown in MGT_RESET and MGT_BOOT. -/
def State.showReset (s : State) : State := ((s.setFld .mgtReset 0 1 1).bump .mgtReset 8 16).setFld .mgtBoot 0 4 stageComputeReset

theorem beginCompute_eq (s : State) : s.beginCompute = ((State.showReset (State.pauseFetching s).abortJobs).refreshPower).refreshPins := rfl

theorem refreshPins_flags (s : State) : s.refreshPins.computeReset = s.computeReset ∧ s.refreshPins.fetchPaused = s.fetchPaused := ⟨rfl, rfl⟩

theorem showReset_flags (s : State) : (State.showReset s).fetchPaused = s.fetchPaused ∧ (State.showReset s).computeReset = s.computeReset :=
  ⟨rfl, rfl⟩

theorem beginCompute_flags (s : State) : s.beginCompute.computeReset = true ∧ s.beginCompute.fetchPaused = true := by
  obtain ⟨paused, reset⟩ := refreshPower_flags (State.showReset (State.pauseFetching s).abortJobs) 0
  obtain ⟨paused', reset'⟩ := abortJobs_flags (State.pauseFetching s)
  obtain ⟨paused'', reset''⟩ := showReset_flags (State.pauseFetching s).abortJobs
  rw [beginCompute_eq, (refreshPins_flags _).1, (refreshPins_flags _).2, reset, paused, reset'', paused'', reset', paused']
  exact ⟨rfl, rfl⟩

/-- Refreshing the power registers and the pins leaves every register but theirs. -/
theorem fld_refreshed (s : State) {n : RegName} {ix fn : Nat} (lo w : Nat) (power : ¬ PowerKey (n.key fn ix))
    (pins : n.key fn ix ≠ RegName.key .mgtSideband 0 0) : s.refreshPower.refreshPins.fld n lo w ix fn = s.fld n lo w ix fn := by
  rw [fld_refreshPins _ _ _ pins]
  exact ((SameRegs.refl (K := fun k => k = n.key fn ix) s).refreshPower 0 fun k h e => power (e ▸ h)).fld n lo w ix fn rfl

theorem not_powerKey_of_lt {k : Nat} (h : k < 0xF00000) : ¬ PowerKey k := by
  rintro (rfl | ⟨i, hi, rfl⟩)
  · exact absurd h (by decide)
  · exact absurd h (show ¬ 0xF00010 + 8 * i < 0xF00000 by omega)

theorem stage_beginCompute (s : State) : s.beginCompute.stage = stageComputeReset := by
  rw [beginCompute_eq, State.stage, fld_refreshed _ _ _ (not_powerKey_of_lt (by decide)) (by decide), State.showReset,
    fld_setFld_of_lt _ _ _ _ (by decide) (by decide)]

theorem fld_updJob_beginCompute (s : State) {p : Nat} (low : 1 ≤ p) (high : p ≤ 12) (loaded : s.job p ≠ none)
    (stays : (s.pen p).teardownCause = none) : s.beginCompute.fld .updJob 0 2 (p - 1) = 3 := by
  have small : RegName.key .updJob 0 (p - 1) < 0xD00000 := by
    rw [key_updJob]
    omega
  have reset : RegName.key .updJob 0 (p - 1) ≠ RegName.key .mgtReset 0 0 := show _ ≠ 0xD00008 by omega
  have boot : RegName.key .updJob 0 (p - 1) ≠ RegName.key .mgtBoot 0 0 := show _ ≠ 0xD00000 by omega
  rw [beginCompute_eq, fld_refreshed _ _ _ (not_powerKey_of_lt (by omega)) (show _ ≠ 0xD00028 by omega), State.showReset,
    fld_setFld_apart _ _ _ _ _ _ boot, State.bump, fld_setFld_apart _ _ _ _ _ _ reset, fld_setFld_apart _ _ _ _ _ _ reset, abortJobs_eq]
  exact fld_abortJobs_ended (nodup_loadedPens _) (fun q hq => (mem_loadedPens.1 hq).1) (mem_loadedPens.2 ⟨⟨low, high⟩, loaded⟩) loaded stays

theorem resetHif_flags (s : State) : s.resetHif.rings = [] ∧ s.resetHif.order = none := by
  rw [resetHif_frame s]
  exact ⟨rfl, rfl⟩

theorem find_keep_of_not {β : Type} {keep : Nat → Bool} (m : SMap β) {k : Nat} (h : keep k = false) : (SMap.keep keep m).find k = none := by
  induction m with
  | nil => rfl
  | cons a m ih =>
    rw [SMap.keep, List.filter_cons]
    split
    next kept =>
      have ne : a.1 ≠ k := fun e => by rw [e, h] at kept; cases kept
      exact (if_neg ne).trans ih
    next => exact ih

/-- The host interface's registers are at reset once it is (R672). -/
theorem reg_resetHif_ring (s : State) {r : Nat} (hr : r < 4096) : s.resetHif.reg .hifRingCtl r = 0#64 := by
  have key : RegName.key .hifRingCtl 0 r = 0xC10010 + 32 * r := rfl
  have func (p : Nat) : ¬ RegName.key .hifFunc p 0 = RegName.key .hifRingCtl 0 r := show ¬ 0xC00000 + p * 2 ^ 26 = 0xC10010 + 32 * r by omega
  have same : SameRegs (fun k => k = RegName.key .hifRingCtl 0 r)
      { s with regs := SMap.keep (fun k => !hifKey k) s.regs, rings := [], order := none } s.resetHif :=
    (SameRegs.refl _).foldl fun t p _ ht => SameRegs.ite (ht.setFld _ _ _ _ _ _ (func p)) ht
  rw [same.reg .hifRingCtl r 0 rfl]
  have dropped : (fun k => !hifKey k) (0xC10010 + 32 * r) = false := by
    rw [Bool.not_eq_false', hifKey, funcSpan, Bool.and_eq_true, decide_eq_true_eq, decide_eq_true_eq]
    omega
  have gone := find_keep_of_not (keep := fun k => !hifKey k) s.regs dropped
  show (SMap.find (SMap.keep (fun k => !hifKey k) s.regs) (0xC10010 + 32 * r)).getD (regDefault (0xC10010 + 32 * r)) = 0#64
  rw [gone, Option.getD_none]
  exact regDefault_of_ring_block (by omega) (by omega)

/-! ### Sites tested again, and what a compute reset leaves (R673) -/

/-- `t` differs from `s` only where tested sites, grids and refreshed power show. -/
structure TestFrame (s t : State) : Prop where
  frame : t = { s with bays := t.bays, regs := t.regs, keepQ := t.keepQ, heldRetire := t.heldRetire, evq := t.evq, evLost := t.evLost,
                       power := t.power }

section
variable {s₀ s : State}

theorem TestFrame.refl (s : State) : TestFrame s s := ⟨rfl⟩

theorem TestFrame.trans {t : State} (h : TestFrame s₀ s) (h' : TestFrame s t) : TestFrame s₀ t := ⟨by rw [h'.frame, h.frame]⟩

theorem TestFrame.foldl {α : Type} {l : List α} {f : State → α → State} (h : TestFrame s₀ s)
    (hf : ∀ s a, TestFrame s₀ s → TestFrame s₀ (f s a)) : TestFrame s₀ (l.foldl f s) :=
  List.foldlRecOn (motive := TestFrame s₀) l f h fun s hs a _ => hf s a hs

theorem TestFrame.ite {c : Prop} [Decidable c] {t : State} (h : TestFrame s₀ s) (h' : TestFrame s₀ t) :
    TestFrame s₀ (if c then s else t) := by
  split
  · exact h
  · exact h'

theorem TestFrame.setReg (h : TestFrame s₀ s) (n : RegName) (x : Word64) (ix fn : Nat) : TestFrame s₀ (s.setReg n x ix fn) := h.trans ⟨rfl⟩

theorem TestFrame.setFld (h : TestFrame s₀ s) (n : RegName) (lo w v ix fn : Nat) : TestFrame s₀ (s.setFld n lo w v ix fn) := h.setReg ..

theorem TestFrame.onBay (h : TestFrame s₀ s) (b : Nat) (f : Machine.Bay → Machine.Bay) : TestFrame s₀ (s.onBay b f) := h.trans ⟨rfl⟩

theorem TestFrame.post (h : TestFrame s₀ s) (fn code step : Nat) (fs : List EvField) : TestFrame s₀ (s.post fn code step fs) := by
  unfold State.post
  exact TestFrame.ite (h.trans ⟨rfl⟩) (TestFrame.trans (h.setFld ..) ⟨rfl⟩)

theorem TestFrame.postPen (h : TestFrame s₀ s) (p code step : Nat) (fs : List EvField) : TestFrame s₀ (s.postPen p code step fs) :=
  TestFrame.ite (h.post ..) h

theorem TestFrame.postAll (h : TestFrame s₀ s) (code : Nat) (fs : List EvField) : TestFrame s₀ (s.postAll code fs) :=
  h.foldl fun _ _ ht => ht.post ..

theorem TestFrame.setSite (h : TestFrame s₀ s) (n st la lb yoke : Nat) : TestFrame s₀ (s.setSite n st la lb yoke) :=
  (((h.setFld ..).setFld ..).setFld ..).setFld ..

theorem TestFrame.ledgerSite (h : TestFrame s₀ s) (n det : Nat) : TestFrame s₀ (s.ledgerSite n det) := by
  rw [State.ledgerSite]
  obtain e | ⟨w, x, e⟩ | ⟨x, e⟩ := ledgerRetire_cases s (siteEntry n det) [1, n, det] <;> rw [e]
  · exact h
  · exact h.trans ⟨rfl⟩
  · exact TestFrame.post (h.trans ⟨rfl⟩) ..

theorem TestFrame.retireSite (h : TestFrame s₀ s) (p n det cause : Nat) : TestFrame s₀ (s.retireSite p n det cause) :=
  (((h.setSite ..).ledgerSite ..).postPen ..).post ..

theorem TestFrame.siteTested (h : TestFrame s₀ s) (failed : List Nat) (n : Nat) : TestFrame s₀ (State.siteTested failed s n) := by
  unfold State.siteTested
  split
  · exact h.setSite ..
  · exact TestFrame.ite ((h.retireSite ..).setFld ..) (TestFrame.ite (h.setFld ..) ((h.setFld ..).setSite ..))

theorem TestFrame.refreshGrid (h : TestFrame s₀ s) (p : Nat) : TestFrame s₀ (s.refreshGrid p) := by
  unfold State.refreshGrid
  split
  · exact (h.setReg ..).setFld ..
  · have shown := h.setReg .corePenGrid
    exact TestFrame.ite (TestFrame.postPen (TestFrame.ite ((shown ..).setFld ..) (shown ..)) ..)
      (TestFrame.ite ((shown ..).setFld ..) (shown ..))

theorem TestFrame.refreshPower (h : TestFrame s₀ s) (boundary : Nat) : TestFrame s₀ (s.refreshPower boundary) := by
  refine TestFrame.foldl (TestFrame.setFld (TestFrame.setFld ?_ ..) ..) fun t i ht => ht.setReg ..
  split
  · exact h.trans ⟨rfl⟩
  · split
    · exact h.trans ⟨rfl⟩
    · exact h

end

section
variable {K : Nat → Prop} {s₀ s : State}

/-- The registers that a site's test writes. -/
def SiteKey (n k : Nat) : Prop :=
  k = RegName.key .coreSiteState 0 n ∨ k = RegName.key .errSiteTest 0 n ∨ ∃ fn, fn ≤ 12 ∧ k = RegName.key .hifPenStat 0 fn

theorem SameRegs.setSite (h : SameRegs K s₀ s) {n : Nat} (st la lb yoke : Nat) (hk : ¬ K (RegName.key .coreSiteState 0 n)) :
    SameRegs K s₀ (s.setSite n st la lb yoke) :=
  (((h.setFld _ _ _ _ _ _ hk).setFld _ _ _ _ _ _ hk).setFld _ _ _ _ _ _ hk).setFld _ _ _ _ _ _ hk

theorem SameRegs.ledgerSite (h : SameRegs K s₀ s) (n det : Nat) (posts : ¬ K (RegName.key .hifPenStat 0 0)) :
    SameRegs K s₀ (s.ledgerSite n det) := by
  rw [State.ledgerSite]
  obtain e | ⟨w, x, e⟩ | ⟨x, e⟩ := ledgerRetire_cases s (siteEntry n det) [1, n, det] <;> rw [e]
  · exact h
  · exact h.of_regs rfl
  · refine SameRegs.post ?_ _ _ _ _ posts
    exact h.of_regs rfl

theorem SameRegs.retireSite (h : SameRegs K s₀ s) {n : Nat} (p det cause : Nat) (hk : ∀ k, SiteKey n k → ¬ K k) :
    SameRegs K s₀ (s.retireSite p n det cause) := by
  have posts := fun fn (hfn : fn ≤ 12) => hk _ (.inr (.inr ⟨fn, hfn, rfl⟩))
  exact (((h.setSite _ _ _ _ (hk _ (.inl rfl))).ledgerSite n det (posts 0 (by decide))).postPen _ _ _ _ posts).post _ _ _ _ (posts 0 (by decide))

theorem SameRegs.siteTested (h : SameRegs K s₀ s) (failed : List Nat) {n : Nat} (hk : ∀ k, SiteKey n k → ¬ K k) :
    SameRegs K s₀ (State.siteTested failed s n) := by
  have site := hk _ (.inl rfl)
  have test := hk _ (.inr (.inl rfl))
  unfold State.siteTested
  split
  · exact h.setSite _ _ _ _ site
  · exact SameRegs.ite ((h.retireSite _ _ _ hk).setFld _ _ _ _ _ _ test)
      (SameRegs.ite (h.setFld _ _ _ _ _ _ test) ((h.setFld _ _ _ _ _ _ test).setSite _ _ _ _ site))

/-- The registers that show a pen's grid. -/
def GridKey (p k : Nat) : Prop :=
  k = RegName.key .corePenGrid 0 (p - 1) ∨ k = RegName.key .netPenSlot 0 (p - 1) ∨ ∃ fn, fn ≤ 12 ∧ k = RegName.key .hifPenStat 0 fn

theorem SameRegs.refreshGrid (h : SameRegs K s₀ s) {p : Nat} (hk : ∀ k, GridKey p k → ¬ K k) : SameRegs K s₀ (s.refreshGrid p) := by
  have grid := hk _ (.inl rfl)
  have slot := hk _ (.inr (.inl rfl))
  have posts := fun fn (hfn : fn ≤ 12) => hk _ (.inr (.inr ⟨fn, hfn, rfl⟩))
  unfold State.refreshGrid
  split
  · exact (h.setReg _ _ _ _ grid).setFld _ _ _ _ _ _ slot
  · have shown x := h.setReg .corePenGrid x (p - 1) 0 grid
    exact SameRegs.ite (SameRegs.postPen (SameRegs.ite ((shown _).setFld _ _ _ _ _ _ slot) (shown _)) _ _ _ _ posts)
      (SameRegs.ite ((shown _).setFld _ _ _ _ _ _ slot) (shown _))

end

/-- The core side once its domains have been off and on (R673). -/
def State.emptyCoreSide (s : State) : State :=
  { s with cores := s.cores.map (fun kv => (kv.1, kv.2.cold)), packets := [], units := [], slotClk := [],
           fetchPaused := false, computeReset := false, diesStopped := false }

/-- The registers show that the reset is over. -/
def State.showReady (s : State) : State :=
  ((((List.range 12).foldl (fun s b => s.onBay b (fun x => { x with crestCache := [], winCache := [] })) s).setFld .mgtReset 0 1 0).setFld
    .mgtBoot 0 4 stageReady)

/-- What follows the test of the sites. -/
def State.afterTests (s : State) (ms : Nat) : State :=
  ((penNumbers.foldl (fun s p => if (s.pen p).present then s.refreshGrid p else s) s).postAll 402 [ef ms]).refreshPower.refreshPins

/-- The device after a compute reset. -/
def State.resetDone (s : State) (ms : Nat) (failed : List Nat) : State :=
  State.afterTests ((List.range 168).foldl (State.siteTested failed) (State.showReady (State.emptyCoreSide s))) ms

theorem exec_computeResetDone {s : State} (h : s.computeReset = true) (ms : Nat) (failed : List Nat) :
    exec (.computeResetDone ⟨ms, failed⟩) s = .next (State.resetDone s ms failed) := by
  simp only [exec, execComputeResetDone, h]
  rfl

theorem afterTests_frame {s₀ s : State} (h : TestFrame s₀ s) (ms : Nat) : TestFrame s₀ (State.afterTests s ms) :=
  ((TestFrame.postAll (h.foldl fun _ p ht => TestFrame.ite (ht.refreshGrid p) ht) ..).refreshPower 0).setReg ..

theorem showReady_frame (s : State) : TestFrame s (State.showReady s) :=
  (TestFrame.setFld (TestFrame.foldl (.refl _) fun _ _ ht => ht.onBay ..) ..).setFld ..

theorem TestFrame.cores {s t : State} (h : TestFrame s t) : t.cores = s.cores := by
  rw [h.frame]

theorem TestFrame.fuses {s t : State} (h : TestFrame s t) : t.fuses = s.fuses := by
  rw [h.frame]

theorem resetDone_frame (s : State) (ms : Nat) (failed : List Nat) : TestFrame (State.emptyCoreSide s) (State.resetDone s ms failed) := by
  exact afterTests_frame ((showReady_frame _).foldl fun t n ht => ht.siteTested failed n) ms

theorem core_emptyCoreSide (s : State) (k : Nat) : (State.emptyCoreSide s).core k = { cfg := (s.core k).cfg } := by
  have find (m : SMap Core) : SMap.find (m.map fun kv => (kv.1, kv.2.cold)) k = (SMap.find m k).map Core.cold := by
    induction m with
    | nil => rfl
    | cons a m ih =>
      rw [List.map_cons, SMap.find, SMap.find, ih]
      split <;> rfl
  rw [State.core, SMap.get, State.emptyCoreSide, find, State.core, SMap.get]
  cases SMap.find s.cores k <;> rfl

section
variable {K : Nat → Prop} {s₀ s : State}

/-- The registers that change once the sites have been tested. -/
theorem SameRegs.afterTests (h : SameRegs K s₀ s) (ms : Nat) (grid : ∀ p, 1 ≤ p → p ≤ 12 → ∀ k, GridKey p k → ¬ K k)
    (power : ∀ k, PowerKey k → ¬ K k) (pins : ¬ K (RegName.key .mgtSideband 0 0)) : SameRegs K s₀ (State.afterTests s ms) := by
  have posts := fun fn (hfn : fn ≤ 12) => grid 1 (by decide) (by decide) _ (.inr (.inr ⟨fn, hfn, rfl⟩))
  refine ((SameRegs.postAll (h.foldl fun t p hp ht => ?_) _ _ posts).refreshPower 0 power).setReg _ _ _ _ pins
  simp only [penNumbers, List.mem_map, List.mem_range] at hp
  exact SameRegs.ite (ht.refreshGrid (grid p (by omega) (by omega))) ht

end

theorem gridKey_lt {p k : Nat} (low : 1 ≤ p) (high : p ≤ 12) (h : GridKey p k) : 0x200600 ≤ k ∧ k < 0xC00268 := by
  obtain rfl | rfl | ⟨fn, hfn, rfl⟩ := h
  · exact show 0x200600 ≤ 0x200600 + 8 * (p - 1) ∧ 0x200600 + 8 * (p - 1) < 0xC00268 by omega
  · exact show 0x200600 ≤ 0x300100 + 8 * (p - 1) ∧ 0x300100 + 8 * (p - 1) < 0xC00268 by omega
  · rw [key_hifPenStat]
    omega

theorem siteKey_lt {n k : Nat} (hn : n < 168) (h : SiteKey n k) : 0x200000 ≤ k ∧ k < 0xC00268 := by
  obtain rfl | rfl | ⟨fn, hfn, rfl⟩ := h
  · rw [key_coreSiteState]
    omega
  · rw [key_errSiteTest]
    omega
  · rw [key_hifPenStat]
    omega

theorem stage_resetDone (s : State) (ms : Nat) (failed : List Nat) : (State.resetDone s ms failed).stage = stageReady := by
  have boot : RegName.key .mgtBoot 0 0 = 0xD00000 := rfl
  have tested : SameRegs (fun k => k = RegName.key .mgtBoot 0 0) (State.showReady (State.emptyCoreSide s))
      ((List.range 168).foldl (State.siteTested failed) (State.showReady (State.emptyCoreSide s))) :=
    (SameRegs.refl _).foldl fun t n hn ht => ht.siteTested failed fun k hk => by
      have := siteKey_lt (List.mem_range.1 hn) hk
      omega
  have after := tested.afterTests ms (fun p low high k hk => by have := gridKey_lt low high hk; omega)
    (fun k hk e => not_powerKey_of_lt (by rw [e]; decide) hk) (by decide)
  rw [State.stage, State.resetDone, after.fld .mgtBoot 0 4 0 0 rfl, State.showReady, fld_setFld_of_lt _ _ _ _ (by decide) (by decide)]

/-- A site that is in its bay and not fused out. -/
def Usable (s : State) (n : Nat) : Prop := s.bayPresent (bayOfSite n) = true ∧ s.fusedSite n = false

theorem usable_of_siteOut {s : State} {n : Nat} (h : s.siteOut n = none) : Usable s n := by
  unfold State.siteOut at h
  split at h
  · cases h
  next present =>
    split at h
    · cases h
    next fused => exact ⟨by simpa using present, by simpa using fused⟩

theorem siteOut_of_usable {s : State} {n : Nat} (h : Usable s n) : s.siteOut n = none ∨ s.siteOut n = some siteRetired := by
  rw [State.siteOut, h.1, h.2]
  cases s.ledgerHasSite n
  · exact .inl rfl
  · exact .inr rfl

theorem site_siteTested_failed {s : State} {failed : List Nat} {n : Nat} (hn : n < 168) (h : n ∈ failed) (usable : Usable s n) :
    (State.siteTested failed s n).site n = siteRetired := by
  unfold State.siteTested
  obtain out | out := siteOut_of_usable usable
  · rw [out]
    simp only [List.contains_iff_mem.2 h, if_true]
    rw [site_setFld_errSiteTest _ hn, site_retireSite _ hn]
  · rw [out]
    exact site_setSite ..

/-- The test of another site leaves a site's state. -/
theorem site_siteTested_other (s : State) (failed : List Nat) {m n : Nat} (hn : n < 168) (hm : m < 168) (ne : m ≠ n) :
    (State.siteTested failed s m).site n = s.site n := by
  refine ((SameRegs.refl (K := fun k => k = RegName.key .coreSiteState 0 n) s).siteTested failed fun k hk => ?_).fld .coreSiteState 0 4 n 0 rfl
  rw [key_coreSiteState]
  obtain rfl | rfl | ⟨fn, hfn, rfl⟩ := hk
  · rw [key_coreSiteState]
    omega
  · rw [key_errSiteTest]
    omega
  · rw [key_hifPenStat]
    omega

theorem usable_of_same {s t : State} {n : Nat} (regs : SameRegs (fun k => k = RegName.key .devIdent 0 0) s t) (fuses : t.fuses = s.fuses)
    (h : Usable s n) : Usable t n := by
  refine ⟨?_, ?_⟩
  · rw [State.bayPresent, regs.fld .devIdent _ _ _ _ rfl]
    exact h.1
  · rw [State.fusedSite, State.fuse, fuses]
    exact h.2

theorem usable_siteTested {s : State} {failed : List Nat} {m n : Nat} (hm : m < 168) (h : Usable s n) :
    Usable (State.siteTested failed s m) n := by
  have ident : RegName.key .devIdent 0 0 = 0 := rfl
  refine usable_of_same ((SameRegs.refl s).siteTested failed fun k hk => ?_) ((TestFrame.refl s).siteTested failed m).fuses h
  have := siteKey_lt hm hk
  omega

theorem usable_showReady {s : State} {n : Nat} (h : Usable s n) : Usable (State.showReady s) n :=
  usable_of_same ((SameRegs.setFld (SameRegs.foldl (.refl _) fun t b _ ht => ht.onBay ..) _ _ _ _ _ _ (by decide)).setFld _ _ _ _ _ _
    (by decide)) (showReady_frame s).fuses h

theorem usable_emptyCoreSide {s : State} {n : Nat} (h : Usable s n) : Usable (State.emptyCoreSide s) n :=
  usable_of_same ((SameRegs.refl s).of_regs rfl) rfl h

theorem site_foldl_siteTested {failed ns : List Nat} (nodup : ns.Nodup) (hns : ∀ m ∈ ns, m < 168) {n : Nat} (hn : n < 168) (here : n ∈ ns)
    (h : n ∈ failed) {s : State} (usable : Usable s n) : (ns.foldl (State.siteTested failed) s).site n = siteRetired := by
  induction ns generalizing s with
  | nil => cases here
  | cons m ms ih =>
    obtain ⟨fresh, rest⟩ := List.nodup_cons.1 nodup
    have tail : ∀ r ∈ ms, r < 168 := fun r hr => hns r (List.mem_cons_of_mem m hr)
    rw [List.foldl_cons]
    by_cases same : n = m
    · subst same
      refine List.foldlRecOn (motive := fun t : State => t.site n = siteRetired) _ _ (site_siteTested_failed hn h usable) fun t ht r hr => ?_
      rw [site_siteTested_other t failed hn (tail r hr) fun e => fresh (e ▸ hr), ht]
    · exact ih rest tail ((List.mem_cons.1 here).resolve_left same) (usable_siteTested (hns m List.mem_cons_self) usable)

theorem site_resetDone (s : State) (ms : Nat) {failed : List Nat} {n : Nat} (hn : n < 168) (h : n ∈ failed) (out : s.siteOut n = none) :
    (State.resetDone s ms failed).site n = siteRetired := by
  have usable := usable_showReady (usable_emptyCoreSide (usable_of_siteOut out))
  have tested := site_foldl_siteTested (List.nodup_range (n := 168)) (fun m hm => List.mem_range.1 hm) hn (List.mem_range.2 hn) h usable
  have after := (SameRegs.refl (K := fun k => k = RegName.key .coreSiteState 0 n)
      ((List.range 168).foldl (State.siteTested failed) (State.showReady (State.emptyCoreSide s)))).afterTests ms
    (fun p low high k hk => by have := gridKey_lt low high hk; rw [key_coreSiteState]; omega)
    (fun k hk e => not_powerKey_of_lt (by rw [e, key_coreSiteState]; omega) hk) (by rw [key_coreSiteState]; exact show 0xD00028 ≠ _ by omega)
  rw [State.site, State.resetDone, after.fld .coreSiteState 0 4 n 0 rfl, ← State.site, tested]

/-- Settles O54. -/
theorem resetsEndJobsAndRestart : Obligations.ResetsEndJobsAndRestart := by
  unfold Obligations.ResetsEndJobsAndRestart
  intro s fn ms failed east
  refine ⟨fun hfn ready => ?_, fun h => ?_, ⟨(beginCompute_flags s).1, (beginCompute_flags s).2, stage_beginCompute s, fun p low high =>
    fld_updJob_beginCompute s low high⟩, fun running => ?done, fun idle => ?_, ⟨fun up on => ?_, fun h => ?_, fun off up released => ?_,
    fun off up first => ?_⟩, fun off keep => ?_, fun off powerless => ?_, fun on => ?_, fun ready => ?_, fun busy running => ?_,
    fun busy idle => ?_, ?hif, fun on => ⟨fun keep => ?_, fun other => ?_⟩, fun off => ?_, fun ready running => ?_, fun h => ?_⟩
  case done =>
    refine ⟨_, exec_computeResetDone running ms failed, ?_, stage_resetDone s ms failed, fun k => ?_, fun n hn hf out =>
      site_resetDone s ms hn hf out⟩
    · have frame := (resetDone_frame s ms failed).frame
      generalize State.resetDone s ms failed = t at frame
      rw [frame]
      rfl
    · rw [State.core, (resetDone_frame s ms failed).cores, ← State.core]
      exact core_emptyCoreSide s k
  case hif =>
    obtain ⟨rings, order⟩ := resetHif_flags s
    exact ⟨rings, order, fun r hr => reg_resetHif_ring s hr⟩
  · simp only [exec, execComputeReset, whenOk, hfn, ready, decide_true, Bool.and_self, if_true]
  · have shut : (decide (fn.val = 0) && s.resettable) = false := by
      obtain other | notReady := h
      · simp [other]
      · simp [notReady]
    simp only [exec, execComputeReset, whenOk, shut, Bool.false_eq_true, if_false]
  · simp only [exec, execComputeResetDone, idle, Bool.not_false, if_true]
  · have either : (decide (s.power = .idle) || decide (s.power = .run)) = true := by simpa using up
    simp only [exec, execHotReset, whenOk, either, on, Bool.not_false, Bool.and_self, if_true]
  · have shut : ((decide (s.power = .idle) || decide (s.power = .run)) && !s.perst) = false := by
      obtain down | on := h
      · have neither : (decide (s.power = .idle) || decide (s.power = .run)) = false := by simpa using down
        rw [neither, Bool.false_and]
      · simp [on]
    simp only [exec, execHotReset, whenOk, shut, Bool.false_eq_true, if_false]
  · have either : (decide (s.power = .idle) || decide (s.power = .run)) = true := by simpa using up
    have powered : s.power ≠ .off := by obtain h | h := up <;> simp [h]
    have after : ({ s with perst := true }.bump .mgtStraps 16 16).perstReleased = true := released
    simp only [exec, execPerstAssert, off, either, powered, if_false, Bool.false_eq_true, after, Bool.and_self, if_true]
  · have either : (decide (s.power = .idle) || decide (s.power = .run)) = true := by simpa using up
    have powered : s.power ≠ .off := by obtain h | h := up <;> simp [h]
    have after : ({ s with perst := true }.bump .mgtStraps 16 16).perstReleased = false := first
    simp only [exec, execPerstAssert, off, either, powered, if_false, Bool.false_eq_true, after, Bool.and_false]
  · simp only [exec, execPerstAssert, off, keep, reduceCtorEq, decide_false, Bool.or_self, Bool.false_and, if_false, Bool.false_eq_true]
  · simp only [exec, execPerstAssert, off, powerless, reduceCtorEq, decide_false, Bool.or_self, Bool.false_and, if_false, if_true,
      Bool.false_eq_true]
  · simp only [exec, execPerstAssert, on, if_true]
  · rw [State.hostReset, if_pos ready]
  · rw [State.hostReset, busy, running]
    rfl
  · rw [State.hostReset, busy, idle]
    rfl
  · simp only [exec, execPerstDeassert, on, keep, Bool.not_true, Bool.false_eq_true, if_false, if_true]
  · simp only [exec, execPerstDeassert, on, other, Bool.not_true, Bool.false_eq_true, if_false]
  · simp only [exec, execPerstDeassert, off, Bool.not_false, if_true]
  · simp only [exec, execPllLockLoss, ready, running, Bool.not_false, Bool.and_self, Bool.not_true, Bool.false_eq_true, if_false]
  · have shut : (!(s.atReady && !s.diesStopped)) = true := by
      obtain notReady | stopped := h
      · simp [notReady]
      · simp [stopped]
    simp only [exec, execPllLockLoss, shut, if_true]

end Sys2Proof.Proofs
end

section
namespace Sys2Proof.Proofs

open Sys2Proof Sys2Proof.Machine Sys2Proof.Claims

/-! ### Power and start-up (R598, R660, R662 to R666, R675, R692, R700, R704, R708) -/

/-- `t` differs from `s` only in the registers, the keep store, the owner key and the events. -/
structure KeepFrame (s t : State) : Prop where
  frame : t = { s with regs := t.regs, keep := t.keep, wear := t.wear, keepQ := t.keepQ, ownerPub := t.ownerPub, evq := t.evq,
                       evLost := t.evLost }

section
variable {s₀ s : State}

theorem KeepFrame.refl (s : State) : KeepFrame s s := ⟨rfl⟩

theorem KeepFrame.trans {t : State} (h : KeepFrame s₀ s) (h' : KeepFrame s t) : KeepFrame s₀ t := ⟨by rw [h'.frame, h.frame]⟩

theorem KeepFrame.ite {c : Prop} [Decidable c] {t : State} (h : KeepFrame s₀ s) (h' : KeepFrame s₀ t) :
    KeepFrame s₀ (if c then s else t) := by
  split
  · exact h
  · exact h'

theorem KeepFrame.foldl {α : Type} {l : List α} {f : State → α → State} (h : KeepFrame s₀ s)
    (hf : ∀ s a, KeepFrame s₀ s → KeepFrame s₀ (f s a)) : KeepFrame s₀ (l.foldl f s) :=
  List.foldlRecOn (motive := KeepFrame s₀) l f h fun s hs a _ => hf s a hs

theorem KeepFrame.setReg (h : KeepFrame s₀ s) (n : RegName) (x : Word64) (ix fn : Nat) : KeepFrame s₀ (s.setReg n x ix fn) := h.trans ⟨rfl⟩

theorem KeepFrame.setFld (h : KeepFrame s₀ s) (n : RegName) (lo w v ix fn : Nat) : KeepFrame s₀ (s.setFld n lo w v ix fn) := h.setReg ..

theorem KeepFrame.authRegs (h : KeepFrame s₀ s) (strap : Bool) : KeepFrame s₀ (s.authRegs strap) := h.trans ⟨rfl⟩

theorem KeepFrame.post (h : KeepFrame s₀ s) (fn code step : Nat) (fs : List EvField) : KeepFrame s₀ (s.post fn code step fs) := by
  unfold State.post
  exact KeepFrame.ite (h.trans ⟨rfl⟩) (KeepFrame.trans (h.setFld ..) ⟨rfl⟩)

theorem KeepFrame.keepDone (h : KeepFrame s₀ s) : KeepFrame s₀ s.keepDone := by
  unfold State.keepDone
  split
  · exact h
  · exact KeepFrame.ite (h.trans ⟨rfl⟩) (KeepFrame.ite (KeepFrame.post (h.trans ⟨rfl⟩) ..) (h.trans ⟨rfl⟩))

theorem KeepFrame.keepWrite (h : KeepFrame s₀ s) (w : Nat) (x : Word64) : KeepFrame s₀ (s.keepWrite w x) := h.trans ⟨rfl⟩

theorem KeepFrame.regsOnly {t : State} (h : KeepFrame s₀ s) (h' : RegsOnly s t) : KeepFrame s₀ t := h.trans ⟨by rw [h']⟩

theorem KeepFrame.outside {t : State} (h : KeepFrame s t) : t.fuses = s.fuses ∧ t.hostMem = s.hostMem := by
  rw [h.frame]
  exact ⟨rfl, rfl⟩

end

theorem keepCut_outside (s : State) : s.keepCut.fuses = s.fuses ∧ s.keepCut.hostMem = s.hostMem := by
  have drawn : s.draw.2.fuses = s.fuses ∧ s.draw.2.hostMem = s.hostMem := ⟨rfl, rfl⟩
  obtain ⟨fuses, hostMem⟩ := (KeepFrame.refl s.draw.2).keepDone.outside
  unfold State.keepCut
  split
  · exact ⟨rfl, rfl⟩
  · dsimp only
    split
    · exact ⟨fuses.trans drawn.1, hostMem.trans drawn.2⟩
    · exact drawn

/-- The module Off: what is left of it (R667, R668, R672, R708). -/
theorem goOff_frame (s : State) : s.goOff.power = .off ∧ s.goOff.cores = [] ∧ s.goOff.keepQ = [] ∧ s.goOff.fuses = s.keepCut.fuses ∧
    s.goOff.hostMem = s.keepCut.hostMem := ⟨rfl, rfl, rfl, rfl, rfl⟩

/-- The module with power, and nothing kept but what outlives its loss. -/
def State.powered (s : State) : State := { s.nonVolatile with power := .idle, powerGood := true, aonUp := true }

theorem powered_outside (s : State) : (State.powered s).fuses = s.fuses ∧ (State.powered s).cores = [] ∧ (State.powered s).pens = [] := by
  simp only [State.powered, State.nonVolatile, and_self]

theorem KeepFrame.coreSide {s t : State} (h : KeepFrame s t) : t.cores = s.cores ∧ t.pens = s.pens := by
  rw [h.frame]
  exact ⟨rfl, rfl⟩

/-- The boot count waiting in the keep store, whose other words stand as they were. -/
def State.powerUp (s : State) : State := (State.powered s).keepWrite 0 ((State.powered s).keepWord 0 + 1#64)

theorem powered_frame (s : State) : (State.powered s).keepQ = [] ∧ (State.powered s).keep = s.keep ∧ (State.powered s).wear = s.wear := by
  simp only [State.powered, State.nonVolatile, and_self]

theorem ne_add_one (x : Word64) : x ≠ x + 1#64 := by
  intro h
  have := congrArg BitVec.toNat h
  rw [BitVec.toNat_add] at this
  simp at this
  omega

theorem post_keep (s : State) (fn code step : Nat) (fs : List EvField) :
    (s.post fn code step fs).keep = s.keep ∧ (s.post fn code step fs).keepQ = s.keepQ := by
  unfold State.post
  dsimp only
  split <;> exact ⟨rfl, rfl⟩

theorem keepDone_of_queued {s : State} {w : Nat} {x : Word64} {rest : List (Nat × Word64)} (queued : s.keepQ = (w, x) :: rest)
    (new : s.keepWord w ≠ x) : s.keepDone.keepQ = rest ∧ (s.worn w = false → s.keepDone.keepWord w = x) ∧
    ∀ v, v ≠ w → s.keepDone.keepWord v = s.keepWord v := by
  rw [keepDone_of_write queued, if_neg new]
  split
  next old =>
    obtain ⟨keep, queue⟩ := post_keep { s with keepQ := rest } 0 401 0 [ef w]
    refine ⟨queue, fun fresh => absurd (fresh.symm.trans old) Bool.false_ne_true, fun v _ => ?_⟩
    rw [State.keepWord, keep]
    rfl
  next fresh => exact ⟨rfl, fun _ => SMap.get_set_self .., fun v hv => SMap.get_set_ne keepDefault s.keep w v x hv⟩

theorem keepAll_of_one {s : State} {q : Nat × Word64} (h : s.keepQ = [q]) : s.keepAll = s.keepDone := by
  rw [State.keepAll, h]
  rfl

theorem powerUp_frame (s : State) : (State.powerUp s).keepQ = [(0, s.keepWord 0 + 1#64)] ∧ (State.powerUp s).keep = s.keep ∧
    (State.powerUp s).wear = s.wear := by
  obtain ⟨queue, keep, wear⟩ := powered_frame s
  have word : (State.powered s).keepWord 0 = s.keepWord 0 := by rw [State.keepWord, keep, ← State.keepWord]
  refine ⟨?_, keep, wear⟩
  rw [State.powerUp, State.keepWrite, queue, word, List.nil_append]

theorem keepDone_powerUp (s : State) : (State.powerUp s).keepDone.keepQ = [] ∧
    (s.worn 0 = false → (State.powerUp s).keepDone.keepWord 0 = s.keepWord 0 + 1#64) ∧
    ∀ w, w ≠ 0 → (State.powerUp s).keepDone.keepWord w = s.keepWord w := by
  obtain ⟨queue, keep, wear⟩ := powerUp_frame s
  have word (w : Nat) : (State.powerUp s).keepWord w = s.keepWord w := by rw [State.keepWord, keep, ← State.keepWord]
  have worn : (State.powerUp s).worn 0 = s.worn 0 := by rw [State.worn, State.wearOf, wear, ← State.wearOf, ← State.worn]
  obtain ⟨done, written, others⟩ := keepDone_of_queued queue (by rw [word]; exact ne_add_one _)
  exact ⟨done, fun fresh => written (worn.trans fresh), fun w hw => (others w hw).trans (word w)⟩

/-- The registers that the keep store holds, and the owner key. -/
def State.readKeep (s : State) (strap : Bool) : State := ((s.keepRegs.authRegs strap).tamperRegs).packRegs

/-- The straps as sampled. -/
def State.sampleStraps (s : State) (slot : BitVec 5) (strap : Bool) : State :=
  s.setReg .mgtStraps (BitVec.ofNat 64 (slot.toNat + bitIf strap 5 + (0x40 + slot.toNat) * 2 ^ 8))

/-- The boot count shown, start-up at its first stage. -/
def State.showBoot (s : State) : State := s.setReg .mgtBoot (BitVec.ofNat 64 (s.bootCount % 2 ^ 16 * 2 ^ 48))

/-- The bays that are absent show no more than that. -/
def State.hideBays (s : State) : State :=
  ((List.range 12).foldl (fun s b => if s.bayPresent b then s else (s.setReg .hbmBayStatus 0#64 b).setReg .xglPortStatus 0#64 b) s).refreshPins

theorem exec_powerGood {s : State} (h : s.power = .off) (slot : BitVec 5) (strap : Bool) : exec (.powerGood slot strap) s =
    .next (State.hideBays (State.showBoot (State.sampleStraps (State.readKeep (State.powerUp s).keepDone strap) slot strap))) := by
  rw [← keepAll_of_one (powerUp_frame s).1]
  show execPowerGood slot strap s = _
  rw [execPowerGood, if_neg fun ne => ne h]
  dsimp only
  rw [State.hideBays, State.showBoot, State.sampleStraps, State.readKeep, State.powerUp, State.powered]

theorem readKeep_frame {s₀ s : State} (h : KeepFrame s₀ s) (strap : Bool) : KeepFrame s₀ (State.readKeep s strap) := by
  have regs : KeepFrame s₀ s.keepRegs := (((h.setReg ..).setReg ..).setReg ..).foldl fun _ _ ht => ht.setReg ..
  exact (((regs.authRegs strap).foldl fun _ _ ht => ht.setReg ..).setReg ..).setReg ..

theorem showBoot_frame (s : State) : RegsOnly s (State.showBoot s) := by
  rw [State.showBoot]
  exact .setReg ..

theorem sampleStraps_frame (s : State) (slot : BitVec 5) (strap : Bool) : RegsOnly s (State.sampleStraps s slot strap) := by
  rw [State.sampleStraps]
  exact .setReg ..

theorem hideBays_frame (s : State) : RegsOnly s (State.hideBays s) :=
  (RegsOnly.foldl (fun s _ => RegsOnly.ite (.refl s) ((RegsOnly.setReg _ _ _ _ _).trans (.setReg _ _ _ _ _))) _ _).trans (.refreshPins _)

/-- The keep store as it is. -/
structure SameKeep (s t : State) : Prop where
  keep : t.keep = s.keep
  queue : t.keepQ = s.keepQ

theorem SameKeep.trans {r s t : State} (h : SameKeep r s) (h' : SameKeep s t) : SameKeep r t :=
  ⟨h'.keep.trans h.keep, h'.queue.trans h.queue⟩

theorem SameKeep.setReg {r s : State} (h : SameKeep r s) (n : RegName) (x : Word64) (ix fn : Nat) : SameKeep r (s.setReg n x ix fn) :=
  h.trans ⟨rfl, rfl⟩

theorem SameKeep.authRegs {r s : State} (h : SameKeep r s) (strap : Bool) : SameKeep r (s.authRegs strap) := h.trans ⟨rfl, rfl⟩

theorem SameKeep.foldl {α : Type} {l : List α} {f : State → α → State} {r s : State} (h : SameKeep r s)
    (hf : ∀ s a, SameKeep r s → SameKeep r (f s a)) : SameKeep r (l.foldl f s) :=
  List.foldlRecOn (motive := SameKeep r) l f h fun s hs a _ => hf s a hs

theorem sameKeep_readKeep (s : State) (strap : Bool) : SameKeep s (State.readKeep s strap) := by
  have regs : SameKeep s s.keepRegs :=
    (((SameKeep.setReg ⟨rfl, rfl⟩ ..).setReg ..).setReg ..).foldl fun _ _ ht => ht.setReg ..
  exact (((regs.authRegs strap).foldl fun _ _ ht => ht.setReg ..).setReg ..).setReg ..

theorem sameKeep_of_regsOnly {s t : State} (h : RegsOnly s t) : SameKeep s t := by
  rw [h]
  exact ⟨rfl, rfl⟩

/-- Bays that are absent leave the registers of start-up. -/
theorem sameRegs_hideBays (s : State) : SameRegs (fun k => 0xD00000 ≤ k ∧ k < 0xD00028) s (State.hideBays s) := by
  refine SameRegs.setReg (SameRegs.foldl (.refl _) fun t b hb ht => ?_) _ _ _ _ (by decide)
  have small := List.mem_range.1 hb
  refine SameRegs.ite ht ((ht.setReg _ _ _ _ ?_).setReg _ _ _ _ ?_)
  · exact show ¬ (0xD00000 ≤ 0x400000 + 8 * b ∧ 0x400000 + 8 * b < 0xD00028) by omega
  · exact show ¬ (0xD00000 ≤ 0x500100 + 8 * b ∧ 0x500100 + 8 * b < 0xD00028) by omega

theorem stage_showBoot (s : State) : (State.showBoot s).stage = stageManagement := by
  have boot (n : Nat) (h : n < 2 ^ 16) : getBits (BitVec.ofNat 64 (n * 2 ^ 48)) 0 4 = 0 := by
    rw [getBits, BitVec.toNat_ofNat, Nat.mod_eq_of_lt (b := 2 ^ 64) (by omega)]
    omega
  have word : (State.showBoot s).reg .mgtBoot = BitVec.ofNat 64 (s.bootCount % 2 ^ 16 * 2 ^ 48) := State.reg_setReg_self ..
  rw [State.stage, State.fld, word, boot _ (Nat.mod_lt _ (by decide)), stageManagement]

theorem straps_showBoot (s : State) : (State.showBoot s).reg .mgtStraps = s.reg .mgtStraps :=
  State.reg_setReg_ne _ _ _ _ _ _ _ _ (by decide)

theorem straps_sampleStraps (s : State) (slot : BitVec 5) (strap : Bool) : (State.sampleStraps s slot strap).reg .mgtStraps =
    BitVec.ofNat 64 (slot.toNat + bitIf strap 5 + (0x40 + slot.toNat) * 2 ^ 8) := by
  rw [State.sampleStraps, State.reg_setReg_self]

theorem recovery_fwRegs (s : State) (run trial : Bool) : (s.fwRegs run trial).recovery = s.recovery := State.setReg_recovery ..

/-- The firmware in its slot runs (R598). -/
theorem recovery_bootFw {s : State} (trial : s.fwTrial = none) (good : s.slotGood (s.fwSlot s.fwActive) = true) :
    s.bootFw.recovery = s.recovery := by
  unfold State.bootFw
  dsimp only
  rw [trial, Option.getD_none, if_pos good, recovery_fwRegs]

theorem managementDone_stage {s : State} (trial : s.fwTrial = none) (good : s.slotGood (s.fwSlot s.fwActive) = true)
    (h : s.recovery = false) : s.managementDone.stage = stageClocks := by
  unfold State.managementDone
  dsimp only
  rw [if_neg (by rw [recovery_bootFw trial good, h]; exact Bool.false_ne_true), State.stage, fld_setFld_of_lt _ _ _ _ (by decide) (by decide)]

/-- The registers of start-up. -/
def BootKey (k : Nat) : Prop := k = RegName.key .mgtBoot 0 0

theorem key_mgtBoot : RegName.key .mgtBoot 0 0 = 0xD00000 := rfl

theorem SameRegs.quietLinks {s₀ s : State} (h : SameRegs BootKey s₀ s) : SameRegs BootKey s₀ s.quietLinks := by
  unfold State.quietLinks
  refine SameRegs.foldl (s := { s with linkStage := false, linkDone := false, censusOpen := false }) ?_ fun t p hp ht => ?_
  · exact h.of_regs rfl
  · have small := List.mem_range.1 hp
    have port : ¬ BootKey (RegName.key .xglPortStatus 0 p) := show ¬ 0x500100 + 8 * p = 0xD00000 by omega
    exact SameRegs.ite ((((((ht.setFld _ _ _ _ _ _ port).setFld _ _ _ _ _ _ port).setFld _ _ _ _ _ _ port).setFld _ _ _ _ _ _ port).setFld
      _ _ _ _ _ _ port).setFld _ _ _ _ _ _ port) ht

theorem stage_of_same {s t : State} (h : SameRegs BootKey s t) : t.stage = s.stage := h.fld .mgtBoot 0 4 0 0 rfl

theorem bootFails_shown (s : State) {stage code : Nat} (hs : stage < 2 ^ 4) (hc : code < 2 ^ 8) :
    (s.bootFails stage code).stage = stageFailed ∧ (s.bootFails stage code).fld .mgtBoot 4 4 = stage ∧
    (s.bootFails stage code).fld .mgtBoot 8 8 = code := by
  have same := (SameRegs.refl (((s.setFld .mgtBoot 0 4 stageFailed).setFld .mgtBoot 4 4 stage).setFld .mgtBoot 8 8 code)).quietLinks
  have shown (lo w : Nat) : (s.bootFails stage code).fld .mgtBoot lo w =
      (((s.setFld .mgtBoot 0 4 stageFailed).setFld .mgtBoot 4 4 stage).setFld .mgtBoot 8 8 code).fld .mgtBoot lo w := by
    rw [State.bootFails, fld_refreshPins _ _ _ (by decide), same.fld .mgtBoot lo w 0 0 rfl]
  refine ⟨?_, ?_, ?_⟩
  · rw [State.stage, shown, fld_setFld_beside _ _ _ _ _ (by decide), fld_setFld_beside _ _ _ _ _ (by decide),
      fld_setFld_of_lt _ _ _ _ (by decide) (by decide)]
  · rw [shown, fld_setFld_beside _ _ _ _ _ (by decide), fld_setFld_of_lt _ _ _ _ (by decide) hs]
  · rw [shown, fld_setFld_of_lt _ _ _ _ (by decide) hc]

/-- A trial image that fails gives way to the slot before it, and start-up begins again (R598). -/
theorem startFails_trial {s : State} (trial : s.fld .secFw 1 1 = 1) (stage code : Nat) :
    (s.startFails stage code).stage = stageManagement ∧ (s.startFails stage code).fwTrial = none := by
  unfold State.startFails
  rw [if_pos trial]
  refine ⟨?_, rfl⟩
  rw [State.stage, fld_refreshPins _ _ _ (by decide), fld_setFld_of_lt _ _ _ _ (by decide) (by decide)]

theorem startFails_final {s : State} (trial : s.fld .secFw 1 1 ≠ 1) (stage code : Nat) :
    s.startFails stage code = s.bootFails stage code := by
  rw [State.startFails, if_neg trial]

/-- The device READY, with its sites tested (R666). -/
def State.showReadyAt (s : State) (ms : Nat) (failed : List Nat) : State :=
  (((List.range 168).foldl (State.siteTested failed) s).setFld .mgtBoot 32 16 (min 65535 ms)).setFld .mgtBoot 0 4 stageReady

theorem SameRegs.trialGood {K : Nat → Prop} {s₀ s : State} (h : SameRegs K s₀ s) (hk : ¬ K (RegName.key .secFw 0 0)) :
    SameRegs K s₀ s.trialGood := by
  unfold State.trialGood
  refine SameRegs.ite (SameRegs.of_regs (h.setFld .secFw 1 1 0 0 0 hk) rfl) h

theorem SameRegs.countsFromReady {s₀ s : State} (h : SameRegs BootKey s₀ s) : SameRegs BootKey s₀ s.countsFromReady := by
  unfold State.countsFromReady
  extract_lets +onlyGivenNames s1 s2 s3
  have h1 : SameRegs BootKey s₀ s1 := h.foldl fun t b hb ht => by
    have small := List.mem_range.1 hb
    exact ((ht.setReg .hbmEccCount 0#64 b 0 (show ¬ 0x400080 + 8 * b = 0xD00000 by omega)).setReg .xglE2eCount 0#64 b 0
      (show ¬ 0x500400 + 8 * b = 0xD00000 by omega)).setFld .xglPortStatus 32 16 0 b 0 (show ¬ 0x500100 + 8 * b = 0xD00000 by omega)
  have h2 : SameRegs BootKey s₀ s2 := h1.foldl fun t n hn ht => by
    have small := List.mem_range.1 hn
    exact (ht.setFld .coreSiteState 32 16 0 n 0 (show ¬ 0x200000 + 8 * n = 0xD00000 by omega)).setFld .errSiteTest 32 16 0 n 0
      (show ¬ 0x800800 + 8 * n = 0xD00000 by omega)
  have h3 : SameRegs BootKey s₀ s3 := h2.foldl fun t i hi ht => by
    have small := List.mem_range.1 hi
    exact ht.setFld .penState 32 32 0 i 0 (show ¬ 0xB00000 + 8 * i = 0xD00000 by omega)
  exact (((h3.setFld .errSilent 48 16 0 0 0 (by unfold BootKey; decide)).setFld .secArb 0 32 0 0 0 (by unfold BootKey; decide)).setFld
    .pwrThermal 32 16 0 0 0 (by unfold BootKey; decide)).of_regs rfl

/-- The grids of the pens shown anew. -/
def State.regrid (s : State) : State := penNumbers.foldl (fun s p => if (s.pen p).present then s.refreshGrid p else s) s

/-- A wake from Keep is over. -/
def State.awake (s : State) : State := { s with waking := false }

theorem computeDone_eq {s : State} {ms : Nat} (failed : List Nat) (h : ¬ (s.fld .secFw 1 1 = 1 ∧ 9000 < ms)) : s.computeDone ms failed =
    ((State.regrid (State.awake (State.showReadyAt s ms failed).trialGood.countsFromReady)).refreshCut.refreshPower).refreshPins := by
  rw [State.computeDone, if_neg h, State.regrid, State.awake, State.showReadyAt]

theorem SameRegs.awake {s₀ s : State} (h : SameRegs BootKey s₀ s) : SameRegs BootKey s₀ (State.awake s) := h.of_regs rfl

theorem SameRegs.regrid {s₀ s : State} (h : SameRegs BootKey s₀ s) : SameRegs BootKey s₀ (State.regrid s) := by
  refine h.foldl fun t p hp ht => SameRegs.ite (ht.refreshGrid fun k hk => ?_) ht
  simp only [penNumbers, List.mem_map, List.mem_range] at hp
  have := gridKey_lt (p := p) (by omega) (by omega) hk
  rw [BootKey, key_mgtBoot]
  omega

theorem sameRegs_atLastReady (s : State) : SameRegs BootKey s
    ((State.regrid (State.awake s.trialGood.countsFromReady)).refreshCut.refreshPower).refreshPins :=
  ((((((SameRegs.refl s).trialGood (by unfold BootKey; decide)).countsFromReady.awake.regrid).setReg .netDieCut _ 0 0
    (by unfold BootKey; decide)).refreshPower 0 fun k hk e => not_powerKey_of_lt (by rw [e]; decide) hk)).setReg .mgtSideband _ 0 0
    (by unfold BootKey; decide)

theorem computeDone_shown {s : State} {ms : Nat} (failed : List Nat) (h : ¬ (s.fld .secFw 1 1 = 1 ∧ 9000 < ms)) :
    (s.computeDone ms failed).stage = stageReady ∧ (s.computeDone ms failed).fld .mgtBoot 32 16 = min 65535 ms := by
  rw [computeDone_eq failed h, stage_of_same (sameRegs_atLastReady _), (sameRegs_atLastReady _).fld .mgtBoot 32 16 0 0 rfl]
  refine ⟨fld_setFld_of_lt _ _ _ _ (by decide) (by decide), ?_⟩
  rw [State.showReadyAt, fld_setFld_beside _ _ _ _ _ (by decide), fld_setFld_of_lt _ _ _ _ (by decide) (by omega)]

theorem KeepFrame.of_powered {s t : State} (h : KeepFrame (State.powered s) t) (queue : t.keepQ = []) :
    t = { s.nonVolatile with power := .idle, powerGood := true, aonUp := true, regs := t.regs, keep := t.keep, wear := t.wear, keepQ := [],
                             ownerPub := t.ownerPub, evq := t.evq, evLost := t.evLost } := by
  rw [State.powered] at h
  generalize s.nonVolatile = n at h
  rw [h.frame, queue]

/-- Settles O53. -/
theorem startUpReachesReady : Obligations.StartUpReachesReady := by
  unfold Obligations.StartUpReachesReady
  refine ⟨?power, ?powered, ?stages, ?losses⟩
  case power =>
    intro s slot strap off
    obtain ⟨queue, first, others⟩ := keepDone_powerUp s
    have shown (t : State) : RegsOnly t (State.hideBays (State.showBoot (State.sampleStraps t slot strap))) :=
      ((sampleStraps_frame t slot strap).trans (showBoot_frame _)).trans (hideBays_frame _)
    have kept := (sameKeep_readKeep (State.powerUp s).keepDone strap).trans (sameKeep_of_regsOnly (shown _))
    have word (w : Nat) : (State.hideBays (State.showBoot (State.sampleStraps (State.readKeep (State.powerUp s).keepDone strap) slot
        strap))).keepWord w = (State.powerUp s).keepDone.keepWord w := by rw [State.keepWord, kept.keep, ← State.keepWord]
    have frame : KeepFrame (State.powered s) (State.hideBays (State.showBoot (State.sampleStraps (State.readKeep (State.powerUp s).keepDone
        strap) slot strap))) :=
      (readKeep_frame (KeepFrame.keepDone (KeepFrame.keepWrite (.refl _) ..)) strap).regsOnly (shown _)
    have started := (sameRegs_hideBays (State.showBoot (State.sampleStraps (State.readKeep (State.powerUp s).keepDone strap) slot strap)))
    refine ⟨_, exec_powerGood off slot strap, ?_, ?_, ?_, fun fresh => (word 0).trans (first fresh), fun w hw => (word w).trans (others w hw), ?_,
      ?_, ?_⟩
    · exact frame.of_powered (kept.queue.trans queue)
    · rw [State.stage, started.fld .mgtBoot 0 4 0 0 (by decide), ← State.stage, stage_showBoot]
    · rw [started.reg .mgtStraps 0 0 (by decide), straps_showBoot, straps_sampleStraps]
    · exact frame.outside.1.trans (powered_outside s).1
    · exact frame.coreSide.1.trans (powered_outside s).2.1
    · exact frame.coreSide.2.trans (powered_outside s).2.2
  case powered =>
    intro s slot strap on
    simp only [exec, execPowerGood, ne_eq, on, not_false_eq_true, if_true]
  case stages =>
    intro s res
    refine ⟨?_, fun _ _ _ trial good h => managementDone_stage trial good h, ?_, ?_, ?_, ?_, ?_, fun h => computeDone_shown res.failedSites ?_,
      ?_, ?_, ?_, fun code hc hs => ⟨fun final => ?_, fun trial => startFails_trial trial _ _⟩⟩
    · rintro ⟨idle, unlocked⟩ at_ tested
      simp [exec, execStartupStageDone, idle, unlocked, at_, tested]
    · rintro ⟨idle, unlocked⟩ at_ locked
      simp [exec, execStartupStageDone, idle, unlocked, at_, locked, stageClocks, stageManagement]
    · rintro ⟨idle, unlocked⟩ at_ locked
      simp [exec, execStartupStageDone, idle, unlocked, at_, locked, stageClocks, stageManagement]
    · rintro ⟨idle, unlocked⟩ at_
      simp [exec, execStartupStageDone, idle, unlocked, at_, stageMemory, stageClocks, stageManagement]
    · rintro ⟨idle, unlocked⟩ at_ done
      simp [exec, execStartupStageDone, whenOk, idle, unlocked, at_, done, stageLinks, stageMemory, stageClocks, stageManagement]
    · rintro ⟨idle, unlocked⟩ at_
      simp [exec, execStartupStageDone, idle, unlocked, at_, stageCompute, stageLinks, stageMemory, stageClocks, stageManagement]
    · omega
    · intro h
      show execStartupStageDone res s = _
      unfold execStartupStageDone
      by_cases go : s.power ≠ .idle ∨ s.locked = true
      · rw [if_pos go]
      · have runs : s.power = .idle ∧ s.locked = false := by simpa using go
        rw [if_neg go]
        obtain stopped | past | ⟨at_, testing⟩ | ⟨at_, waits⟩ := h
        · exact absurd runs stopped
        · simp only [stageCompute] at past
          rw [if_neg (by simp only [stageManagement]; omega), if_neg (by simp only [stageClocks]; omega),
            if_neg (by simp only [stageMemory]; omega), if_neg (by simp only [stageLinks]; omega), if_neg (by simp only [stageCompute]; omega)]
        · rw [if_pos at_, if_pos testing]
        · rw [at_, if_neg (by decide), if_neg (by decide), if_neg (by decide), if_pos rfl, whenOk, waits]
          rfl
    · rintro ⟨idle, unlocked⟩ under
      simp [exec, execStageTimeout, whenOk, idle, unlocked, under]
    · intro h
      have shut : (decide (s.power = .idle) && decide (s.stage ≤ stageCompute) && !s.locked) = false := by
        by_cases go : s.power = .idle ∧ s.locked = false
        · have past := h.resolve_left fun stopped => stopped go
          simp [Nat.not_le.2 past]
        · cases locked : s.locked
          · have other : s.power ≠ .idle := fun e => go ⟨e, locked⟩
            simp [other]
          · simp
      simp only [exec, execStageTimeout, whenOk, shut, Bool.false_eq_true, if_false]
    · rw [startFails_final (by omega)]
      exact bootFails_shown s (show s.stage < 2 ^ 4 by have := hs; simp only [stageCompute] at this; omega) hc
  case losses =>
    intro s
    obtain ⟨power, cores, queue, fuses, hostMem⟩ := goOff_frame s
    obtain ⟨fuses', hostMem'⟩ := keepCut_outside s
    have on (h : s.power ≠ .off ∨ s.aonUp = true) : (decide (s.power ≠ .off) || s.aonUp) = true := by simpa using h
    have off (h : ¬ (s.power ≠ .off ∨ s.aonUp = true)) : (decide (s.power ≠ .off) || s.aonUp) = false := by simpa using h
    refine ⟨fun h => ?_, fun h => ?_, power, fuses.trans fuses', cores, hostMem.trans hostMem', queue, fun mv ms => ⟨fun h high => ?_,
      fun h => ?_⟩, fun none down => ?_, fun h => ?_⟩
    · simp only [exec, execInputLoss, whenOk, on h, if_true]
    · simp only [exec, execInputLoss, whenOk, off h, Bool.false_eq_true, if_false]
    · have exceeds : (decide (65000 < mv) || (decide (60000 < mv) && decide (100 < ms))) = true := by simpa using high
      simp only [exec, execOvervoltage, whenOk, on h, exceeds, Bool.and_self, if_true]
    · have shut : ((decide (s.power ≠ .off) || s.aonUp) && (decide (65000 < mv) || (decide (60000 < mv) && decide (100 < ms)))) = false := by
        obtain down | inside := h
        · rw [off down, Bool.false_and]
        · have under : (decide (65000 < mv) || (decide (60000 < mv) && decide (100 < ms))) = false := by
            simpa only [Bool.or_eq_false_iff, Bool.and_eq_false_iff, decide_eq_false_iff_not, Nat.not_lt] using inside
          rw [under, Bool.and_false]
      simp only [exec, execOvervoltage, whenOk, shut, Bool.false_eq_true, if_false]
    · simp only [exec, execAlwaysOnDomainUp, whenOk, none, down, decide_true, Bool.not_false, Bool.and_self, if_true]
    · have shut : (decide (s.power = .off) && !s.aonUp) = false := by
        obtain on | up := h
        · simp [on]
        · simp [up]
      simp only [exec, execAlwaysOnDomainUp, whenOk, shut, Bool.false_eq_true, if_false]

end Sys2Proof.Proofs
end

section
namespace Sys2Proof.Proofs

open Sys2Proof Sys2Proof.Machine Sys2Proof.Claims

/-! ### Late items and the doubling sequence (R61, R181, R214, R215) -/

theorem job_onJob_self {s : State} {p : Nat} {j : Job} (h : s.job p = some j) (f : Job → Job) : (s.onJob p f).job p = some (f j) := by
  rw [State.job, State.onJob, State.onPen, State.pen_setPen_self]
  exact congrArg (Option.map f) h

theorem unitsRun_of_stopped {s : State} {p : Nat} {j : Job} (h : s.job p = some j) (stopped : j.stopped.isSome = true) :
    s.unitsRun p = false := by
  unfold State.unitsRun
  rw [h]
  obtain ⟨x, hx⟩ := Option.isSome_iff_exists.1 stopped
  simp [hx]

/-- A late item that stops a job's units, or joins those that hold them stopped. -/
def holdLate (holder : LateHolder) (j : Job) : Job :=
  if j.stopped.isSome then { j with lateHeld := j.lateHeld + 1 } else { j with stopped := some holder }

theorem stopped_holdLate (holder : LateHolder) (j : Job) : (holdLate holder j).stopped.isSome = true := by
  unfold holdLate
  split
  next h => exact h
  next => rfl

section
variable {s : State} {pen : Pen} {j : Job} (hj : s.job pen = some j)
include hj

theorem onJob_congr {f g : Job → Job} (h : f j = g j) : s.onJob pen f = s.onJob pen g := by
  have jobs : (s.pen pen).job.map f = (s.pen pen).job.map g := by
    rw [show (s.pen pen).job = some j from hj]
    exact congrArg some h
  rw [State.onJob, State.onJob, State.onPen, State.onPen, jobs]

theorem exec_lateItemStop_bay {b : Sys2Proof.Bay} (busy : j.cur ≠ none) (here : s.penOfBay b.val = pen) {f : Job → Job}
    (hf : f j = holdLate (.bay b) j) : exec (.lateItemStop pen (.bay b)) s = .next (({ s.onJob pen f with fresh := s.fresh + 1 }).setBay b.val
      { s.bay b.val with heldClk := (s.bay b.val).heldClk + (Config.freeBits s.fresh).toNat % 2 ^ 32 }) := by
  have runs : j.cur.isSome = true := Option.isSome_iff_ne_none.2 busy
  rw [onJob_congr hj hf]
  simp only [exec, execLateItemStop, hj, whenOk, runs, holderBay, here, decide_true, Bool.and_self, if_true]
  rfl

theorem exec_lateItemStop_port {p : Sys2Proof.Port} (busy : j.cur ≠ none) (here : s.penOfBay p.val = pen) {f : Job → Job}
    (hf : f j = holdLate (.port p) j) : exec (.lateItemStop pen (.port p)) s =
    .next (({ s.onJob pen f with fresh := s.fresh + 1 }).setPort p.val
      { s.port p.val with stopClk := (s.port p.val).stopClk + BitVec.ofNat 64 ((Config.freeBits s.fresh).toNat % 2 ^ 32) }) := by
  have runs : j.cur.isSome = true := Option.isSome_iff_ne_none.2 busy
  rw [onJob_congr hj hf]
  simp only [exec, execLateItemStop, hj, whenOk, runs, holderBay, here, decide_true, Bool.and_self, if_true]
  rfl

theorem exec_turnEnd_of_a (runs : s.unitsRun pen = true) (h : j.turn = some .aTurn) : exec (.turnEnd pen) s =
    .next ((j.doubled.map Prod.fst).foldl (fun s l => s.spillWide (coreKey pen l)) (s.onJob pen (fun j => { j with turn := some .quiesceA }))) := by
  simp only [exec, execTurnEnd, hj, runs, h, turnContexts, Bool.not_true, Bool.false_eq_true, if_false]

theorem exec_turnEnd_of_b (runs : s.unitsRun pen = true) (h : j.turn = some .bTurn) : exec (.turnEnd pen) s =
    .next ((j.doubled.map Prod.snd).foldl (fun s l => s.spillWide (coreKey pen l)) (s.onJob pen (fun j => { j with turn := some .quiesceB }))) := by
  simp only [exec, execTurnEnd, hj, runs, h, turnContexts, Bool.not_true, Bool.false_eq_true, if_false]

theorem exec_quiesceEnd (runs : s.unitsRun pen = true) (none : ∀ k ∈ s.packets, k.pen ≠ pen)
    (quiet : ∀ l ∈ s.jobCores pen, turnFinishes j l = true → (s.core (coreKey pen l)).quiet = true) :
    (j.turn = some .quiesceA → exec (.quiesceEnd pen) s = .next (s.onJob pen (fun j => { j with turn := some .exchangeA }))) ∧
    (j.turn = some .quiesceB → exec (.quiesceEnd pen) s = .next (s.onJob pen (fun j => { j with turn := some .exchangeB }))) := by
  have empty : s.packets.any (fun k => decide (k.pen = pen)) = false := List.any_eq_false.2 fun k hk => by simpa using none k hk
  have done : (s.jobCores pen).all (fun l => !turnFinishes j l || (s.core (coreKey pen l)).quiet) = true := by
    refine List.all_eq_true.2 fun l hl => ?_
    cases finishes : turnFinishes j l
    · rfl
    · rw [quiet l hl finishes]
      rfl
  constructor <;> intro h <;>
    simp only [exec, execQuiesceEnd, hj, runs, h, empty, done, Bool.not_false, Bool.and_self, Bool.not_true, Bool.false_eq_true, if_false]

end

/-- Settles O25. -/
theorem lateItemsAndTurns : Obligations.LateItemsAndTurns := by
  unfold Obligations.LateItemsAndTurns
  refine ⟨fun s pen holder j hj => ⟨fun busy here => ?_, fun stopped held => ?_, fun stopped free => ?_⟩, fun s pen j hj runs =>
    ⟨exec_turnEnd_of_a hj runs, exec_turnEnd_of_b hj runs, exec_quiesceEnd hj runs, fun h => ?_, fun h => ?_⟩, fun s key busy => ?_⟩
  · dsimp only
    refine ⟨unitsRun_of_stopped (job_onJob_self hj _) ?_, ?_⟩
    · split
      next h => rw [h]; rfl
      next => rfl
    · cases holder with
      | bay b => exact exec_lateItemStop_bay hj busy here (by unfold holdLate; cases h : j.stopped <;> rfl)
      | port p => exact exec_lateItemStop_port hj busy here (by unfold holdLate; cases h : j.stopped <;> rfl)
  · have some : j.stopped.isSome = true := Option.isSome_iff_ne_none.2 stopped
    simp only [exec, execLateItemRestart, hj, whenOk, some, if_true]
    exact congrArg Host.Outcome.next (onJob_congr hj (if_pos held))
  · have some : j.stopped.isSome = true := Option.isSome_iff_ne_none.2 stopped
    simp only [exec, execLateItemRestart, hj, whenOk, some, if_true]
    exact congrArg Host.Outcome.next (onJob_congr hj (if_neg (by omega)))
  · simp only [exec, execExchangeEnd, hj, runs, h, Bool.not_true, Bool.false_eq_true, if_false]
  · simp only [exec, execExchangeEnd, hj, runs, h, Bool.not_true, Bool.false_eq_true, if_false]
  · unfold State.spillWide
    dsimp only
    split
    · rfl
    · rw [busy]
      rfl

end Sys2Proof.Proofs
end

section
namespace Sys2Proof.Proofs

open Sys2Proof Sys2Proof.Machine Sys2Proof.Claims

/-! ### Packets and the balance check (R272 to R274, R281, R285, R287) -/

theorem passSlots_passed (s : State) (pen : Nat) : SlotsPassed s (s.passSlots pen) pen :=
  ⟨rfl, SMap.find_put_self .., fun _ hp => SMap.find_put_ne _ _ _ _ hp⟩

section
variable {p : Packet → Bool} {pre post : List Packet} {k : Packet}

theorem find_first (hpre : ∀ q ∈ pre, p q = false) (hk : p k = true) : (pre ++ k :: post).find? p = some k := by
  rw [List.find?_append, List.find?_eq_none.2 fun q hq => by rw [hpre q hq]; exact Bool.false_ne_true, Option.none_or, List.find?_cons_of_pos hk]

theorem injectFirst_first (hpre : ∀ q ∈ pre, p q = false) (hk : p k = true) (route : List NetPort) :
    injectFirst p route (pre ++ k :: post) = pre ++ { k with injected := true, route := route } :: post := by
  induction pre with
  | nil => exact if_pos hk
  | cons q qs ih =>
    rw [List.cons_append, injectFirst, if_neg (by rw [hpre q List.mem_cons_self]; exact Bool.false_ne_true),
      ih fun r hr => hpre r (List.mem_cons_of_mem q hr), List.cons_append]

end

theorem fireOnPort_of_none {s : State} (h : s.injection = none) (det b : Nat) : s.fireOnPort det b = (s, false) := by
  unfold State.fireOnPort
  rw [h]

/-- The head packet of a core. -/
def ofCore (u : CoreRef) (q : Packet) : Bool := decide (q.pen = u.pen) && decide (q.src = u.logical) && !q.injected

theorem crossPen_of_own {s : State} (h : s.injection = none) {u : CoreRef} {bays : List Nat} (own : ∀ b ∈ bays, s.penOfBay b = u.pen)
    (bundle slot : Nat) : s.crossPen u bundle slot bays = none := by
  have inside : bays.any (fun b => decide (s.penOfBay b ≠ u.pen)) = false := List.any_eq_false.2 fun b hb => by simpa using own b hb
  unfold State.crossPen
  dsimp only
  rw [fireOnPort_of_none h, inside]
  rfl

theorem crossPen_of_foreign {s : State} (h : s.injection = none) {u : CoreRef} {b : Nat} (foreign : s.penOfBay b ≠ u.pen) (bundle slot : Nat) :
    s.crossPen u bundle slot [b] = some (((s.countEvent (s.coreBay u.pen u.logical) 19 0 false).bump .netPenFault 0 16 (u.pen - 1)).progFault
      u.pen u.logical bundle slot causeCrossPen) := by
  unfold State.crossPen
  dsimp only
  rw [fireOnPort_of_none h]
  simp [foreign]

section
variable {s : State} {u : CoreRef} {k : Packet} {pre post : List Packet}

/-- The route of a packet that enters its router. -/
def State.routeOf (s : State) (u : CoreRef) (k : Packet) : List NetPort :=
  ((placeOf (s.jobD u.pen) u.logical).head?.bind fun a => (s.packetSite k).map fun b => s.routeToCore a b).getD []

theorem exec_packetInject_own (waiting : s.packets = pre ++ k :: post) (first : ∀ q ∈ pre, ofCore u q = false) (mine : ofCore u k = true)
    (runs : s.unitsRun u.pen = true) (free : s.injection = none) (own : ∀ n, s.packetSite k = some n → s.penOfBay (bayOfSite n) = u.pen) :
    exec (.packetInject u) s =
      .next { s.passSlots u.pen with packets := pre ++ { k with injected := true, route := State.routeOf s u k } :: post } := by
  have inside : ∀ b ∈ ((s.packetSite k).map bayOfSite).toList, s.penOfBay b = u.pen := by
    intro b hb
    obtain ⟨n, hn, rfl⟩ := Option.map_eq_some_iff.1 (Option.mem_toList.1 hb)
    exact own n hn
  have found : s.packets.find? (ofCore u) = some k := by rw [waiting, find_first first mine]
  show execPacketInject u s = _
  unfold execPacketInject
  simp only [show s.packets.find? (fun k => decide (k.pen = u.pen) && decide (k.src = u.logical) && !k.injected) = some k from found, runs,
    crossPen_of_own free inside, Bool.not_true, Bool.false_eq_true, if_false]
  have entered (route : List NetPort) : injectFirst (fun k => decide (k.pen = u.pen) && decide (k.src = u.logical) && !k.injected) route
      s.packets = pre ++ { k with injected := true, route := route } :: post := by rw [waiting]; exact injectFirst_first first mine route
  rw [entered]
  unfold State.routeOf
  cases (placeOf (s.jobD u.pen) u.logical).head? with
  | none => rfl
  | some a => cases s.packetSite k <;> rfl

theorem exec_packetInject_foreign (waiting : s.packets = pre ++ k :: post) (first : ∀ q ∈ pre, ofCore u q = false) (mine : ofCore u k = true)
    (runs : s.unitsRun u.pen = true) (free : s.injection = none) {n : Nat} (site : s.packetSite k = some n)
    (foreign : s.penOfBay (bayOfSite n) ≠ u.pen) {t : State}
    (ht : ((s.countEvent (s.coreBay u.pen u.logical) 19 0 false).bump .netPenFault 0 16 (u.pen - 1)).progFault u.pen u.logical
      (s.core (refKey u)).pc 0 17 = t) :
    exec (.packetInject u) s = .next { t with packets := dropFirst (ofCore u) t.packets } := by
  have found : s.packets.find? (ofCore u) = some k := by rw [waiting, find_first first mine]
  show execPacketInject u s = _
  unfold execPacketInject
  simp only [show s.packets.find? (fun k => decide (k.pen = u.pen) && decide (k.src = u.logical) && !k.injected) = some k from found, runs,
    site, Option.map_some, Option.toList_some, crossPen_of_foreign free foreign, slotControl, causeCrossPen, ht, Bool.not_true,
    Bool.false_eq_true, if_false]
  rfl

end

/-- What a packet in the network does where it arrives. -/
theorem exec_packetArrive {s : State} {ix : Nat} {k : Packet} (there : s.packets[ix]? = some k) (inside : k.injected = true)
    (runs : s.unitsRun k.pen = true) (first : ∀ q ∈ s.packets.take ix, ¬ (q.pen = k.pen ∧ q.src = k.src ∧ q.dst = k.dst)) {t : State}
    (ht : ∀ a bs, k.body = .spad a bs → t = ({ s.passSlots k.pen with packets := s.packets.eraseIdx ix }).setCore (coreKey k.pen k.dst)
      ((s.core (coreKey k.pen k.dst)).moverStore a (bs.map fun (b : Byte × Bool) => { val := b.1, bad := b.2, tag := none })))
    (hs : k.body = .signal → t = { s.passSlots k.pen with packets := s.packets.eraseIdx ix }) :
    (k.sig = none → exec (.packetArrive ix) s = .next t) ∧
    (∀ ctr add, k.sig = some (ctr, add) → exec (.packetArrive ix) s = .next (t.applySignal k.pen k.dst ctr add)) := by
  have next : s.firstOfRoute ix k = true := by
    unfold State.firstOfRoute
    rw [List.any_eq_false.2 fun q hq => by simpa [and_assoc] using first q hq]
    rfl
  constructor
  · intro sig
    show execPacketArrive ix s = _
    simp only [execPacketArrive, there, inside, runs, next, sig, whenOk, Bool.and_self, if_true]
    cases body : k.body with
    | spad a bs => rw [ht a bs body]; rfl
    | signal => rw [hs body]
  · intro ctr add sig
    show execPacketArrive ix s = _
    simp only [execPacketArrive, there, inside, runs, next, sig, whenOk, Bool.and_self, if_true]
    cases body : k.body with
    | spad a bs => rw [ht a bs body]; rfl
    | signal => rw [hs body]

/-- What NET_IMBAL_LAST shows of a counter that is off its start value (R287). -/
theorem imbalanceWord_fields {l k delta : Nat} (late : Bool) (hl : l < 256) (hk : k < 256) (hd : delta < 2 ^ 32) {w : Word64}
    (hw : w = BitVec.ofNat 64 (k + l % 256 * 2 ^ 8 + bitIf late 16 + 2 ^ 17 + delta * 2 ^ 32)) :
    getBits w 0 8 = k ∧ getBits w 8 8 = l ∧ getBits w 16 1 = bitIf late 0 ∧ getBits w 17 15 = 1 ∧ getBits w 32 32 = delta := by
  have value : w.toNat = k + l % 256 * 2 ^ 8 + bitIf late 16 + 2 ^ 17 + delta * 2 ^ 32 := by
    rw [hw, BitVec.toNat_ofNat]
    refine Nat.mod_eq_of_lt ?_
    cases late <;> simp only [bitIf, if_true, Bool.false_eq_true, if_false] <;> omega
  simp only [getBits, value]
  cases late <;> simp only [bitIf, if_true, Bool.false_eq_true, if_false] <;> omega

/-- Settles O24. -/
theorem packetsAndBalance : Obligations.PacketsAndBalance := by
  unfold Obligations.PacketsAndBalance
  refine ⟨?inject, ?arrive, ?signal, ?balance⟩
  case inject =>
    intro s u pre post k waiting before hpen hsrc out runs free
    have first : ∀ q ∈ pre, ofCore u q = false := fun q hq => by simpa [ofCore, and_assoc] using before q hq
    have mine : ofCore u k = true := by simp [ofCore, hpen, hsrc, out]
    refine ⟨fun own => ⟨s.passSlots u.pen, passSlots_passed s u.pen, fun a b ha hb => ?_, fun none => ?_⟩, fun n site foreign => ?_⟩
    · rw [exec_packetInject_own waiting first mine runs free own, State.routeOf, ha, hb]
      rfl
    · rw [exec_packetInject_own waiting first mine runs free own, State.routeOf]
      obtain h | h := none
      · rw [h]
        rfl
      · rw [h]
        cases (placeOf (s.jobD u.pen) u.logical).head? <;> rfl
    · exact exec_packetInject_foreign waiting first mine runs free site foreign rfl
  case arrive =>
    intro s ix k there inside runs first
    refine ⟨s.passSlots k.pen, passSlots_passed s k.pen, exec_packetArrive there inside runs first (fun a bs body => ?_) fun body => ?_⟩
    · rw [body]
    · rw [body]
  case signal =>
    intro s pen l ctr add
    refine ⟨_, rfl, rfl, fun k => ?_⟩
    by_cases here : k = ctr
    · subst here
      rw [if_pos rfl]
      exact SMap.get_set_self ..
    · rw [if_neg here]
      exact SMap.get_set_ne _ _ _ _ _ here
  case balance =>
    intro s pen j a hj cur phase runs ended none
    have due : (decide (a.phase = .forward) || decide (a.phase = .backward)) = true := by simpa using phase
    have empty : s.packets.any (fun k => decide (k.pen = pen)) = false := List.any_eq_false.2 fun k hk => by simpa using none k hk
    refine ⟨fun balanced => ?_, fun l k late off hl hk => ?_⟩
    · simp only [exec, execBalanceCheck, hj, cur, due, runs, ended, empty, balanced, Bool.not_false, Bool.and_self, Bool.not_true,
        Bool.false_eq_true, if_false]
      exact congrArg Host.Outcome.next (onJob_congr hj (by rw [cur]; rfl))
    · obtain ⟨counter, core, wasLate, valid, delta⟩ := imbalanceWord_fields late hl hk
        ((s.core (coreKey pen l)).counter k - startOf (s.core (coreKey pen l)) k).isLt rfl
      refine ⟨_, counter, core, wasLate, valid, delta, ?_⟩
      simp only [exec, execBalanceCheck, hj, cur, due, runs, ended, empty, off, Bool.not_false, Bool.and_self, Bool.not_true,
        Bool.false_eq_true, if_false, slotControl, causeImbalance]

end Sys2Proof.Proofs
end

section
namespace Sys2Proof.Proofs

open Sys2Proof Sys2Proof.Machine Sys2Proof.Claims

/-! ### The clear, the entry bundle and the vote gate (R59, R264, R433) -/

/-- `f` done to each of a pen's cores. -/
def State.onCores (s : State) (pen : Nat) (ls : List Nat) (f : Core → Core) : State :=
  ls.foldl (fun s l => s.onCore (coreKey pen l) f) s

/-- `t` differs from `s` in its cores at most. -/
structure CoresOnly (s t : State) : Prop where
  frame : t = { s with cores := t.cores }

theorem CoresOnly.onCore {r s : State} (h : CoresOnly r s) (k : Nat) (f : Core → Core) : CoresOnly r (s.onCore k f) :=
  ⟨by rw [h.frame]; rfl⟩

theorem onCores_frame (s : State) (pen : Nat) (ls : List Nat) (f : Core → Core) : CoresOnly s (State.onCores s pen ls f) :=
  List.foldlRecOn (motive := CoresOnly s) ls _ ⟨rfl⟩ fun _ ht _ _ => ht.onCore ..

theorem CoresOnly.outside {s t : State} (h : CoresOnly s t) : t.packets = s.packets ∧ t.pens = s.pens ∧ t.slotClk = s.slotClk := by
  rw [h.frame]
  exact ⟨rfl, rfl, rfl⟩

theorem core_onCores_other {pen : Nat} {ls : List Nat} {k : Nat} (h : ∀ l ∈ ls, k ≠ coreKey pen l) (s : State) (f : Core → Core) :
    (State.onCores s pen ls f).core k = s.core k :=
  List.foldlRecOn (motive := fun t : State => t.core k = s.core k) ls _ rfl fun _ ht l hl => (State.core_setCore_ne _ _ _ _ (h l hl)).trans ht

theorem core_onCores_self {pen : Nat} {ls : List Nat} (nodup : ls.Nodup) {l : Nat} (h : l ∈ ls) (s : State) (f : Core → Core) :
    (State.onCores s pen ls f).core (coreKey pen l) = f (s.core (coreKey pen l)) := by
  induction ls generalizing s with
  | nil => cases h
  | cons m ms ih =>
    obtain ⟨fresh, rest⟩ := List.nodup_cons.1 nodup
    have apart {m' : Nat} (ne : l ≠ m') : coreKey pen l ≠ coreKey pen m' := by simp only [coreKey]; omega
    by_cases here : l = m
    · subst here
      exact (core_onCores_other (fun r hr => apart fun e => fresh (e ▸ hr)) _ f).trans (State.core_setCore_self ..)
    · exact (ih rest ((List.mem_cons.1 h).resolve_left here) _).trans (congrArg f (State.core_setCore_ne _ _ _ _ (apart here)))

theorem nodup_jobCores (s : State) (pen : Nat) : (s.jobCores pen).Nodup := by
  unfold State.jobCores
  split
  · exact List.nodup_range.filter _
  · exact List.nodup_nil

/-- The counters of a core at the start of a step. -/
def startCounters (cs : List (Nat × Word32)) (m : SMap Word32) : SMap Word32 := cs.foldl (fun m x => SMap.set (fun _ => 0#32) m x.1 x.2) m

theorem get_startCounters_other {cs : List (Nat × Word32)} {k : Nat} (h : k ∉ cs.map Prod.fst) (m : SMap Word32) :
    SMap.get (fun _ => 0#32) (startCounters cs m) k = SMap.get (fun _ => 0#32) m k := by
  induction cs generalizing m with
  | nil => rfl
  | cons c cs ih =>
    rw [List.map_cons, List.mem_cons, not_or] at h
    exact (ih h.2 _).trans (SMap.get_set_ne _ _ _ _ _ h.1)

theorem get_startCounters {cs : List (Nat × Word32)} (nodup : (cs.map Prod.fst).Nodup) {kv : Nat × Word32} (h : kv ∈ cs) (m : SMap Word32) :
    SMap.get (fun _ => 0#32) (startCounters cs m) kv.1 = kv.2 := by
  induction cs generalizing m with
  | nil => cases h
  | cons c cs ih =>
    obtain ⟨fresh, rest⟩ := List.nodup_cons.1 nodup
    obtain rfl | later := List.mem_cons.1 h
    · exact (get_startCounters_other fresh _).trans (SMap.get_set_self ..)
    · exact ih rest later _

theorem sGet_clear (c : Core) (r : SReg) : c.clear.rf.sGet r = if 48 ≤ r.val then c.cfg.consts.getD (r.val - 48) 0#64 else 0#64 := by
  have rf : c.clear.rf = { s := SMap.setList (fun _ => 0#64) [] 48 (c.cfg.consts.take 16) } := rfl
  rw [rf, RegFile.sGet]
  by_cases high : 48 ≤ r.val
  · rw [if_pos high, if_neg (by omega)]
    by_cases inside : r.val - 48 < (c.cfg.consts.take 16).length
    · have read := get_setList_in (fun _ => 0#64) (c.cfg.consts.take 16) [] (k := 48) (0#64) inside
      rw [show 48 + (r.val - 48) = r.val by omega] at read
      rw [read, List.getD_eq_getElem?_getD, List.getElem?_take_of_lt (by omega), ← List.getD_eq_getElem?_getD]
    · have small := r.isLt
      rw [List.length_take] at inside
      rw [get_setList_out _ _ _ (by rw [List.length_take]; omega), List.getD_eq_default _ _ (by omega)]
      rfl
  · rw [if_neg high]
    split
    · rfl
    · rw [get_setList_out _ _ _ (by omega)]
      rfl

theorem pen_onJob {s : State} {pen : Nat} {j : Job} (h : s.job pen = some j) (f : Job → Job) (p : Nat) :
    (s.onJob pen f).pen p = if p = pen then { s.pen pen with job := some (f j) } else s.pen p := by
  rw [State.onJob, State.onPen]
  by_cases here : p = pen
  · subst here
    rw [State.pen_setPen_self, if_pos rfl, show (s.pen p).job = some j from h]
    rfl
  · rw [State.pen_setPen_ne _ _ _ _ here, if_neg here]

theorem pen_onCores (s : State) (pen : Nat) (ls : List Nat) (f : Core → Core) (p : Nat) : (State.onCores s pen ls f).pen p = s.pen p := by
  rw [State.pen, (onCores_frame s pen ls f).outside.2.1, ← State.pen]

/-- A pen's cores begin to issue. -/
def startIssue (c : Core) : Core := { c with run := .running, slot := 3 }

theorem enterCores_eq (s : State) (pen : Nat) : s.enterCores pen = { (State.onCores s pen (s.jobCores pen) startIssue).onJob pen (fun j => { j with
    turn := if j.doubled.isEmpty then none else some .aTurn, inB := false,
    cur := j.cur.map (fun a => { a with phase := .forward, gateRaised := false, pastGate := [] }) }) with
      slotClk := SMap.put (State.onCores s pen (s.jobCores pen) startIssue).slotClk pen 0 } := rfl

theorem pen_enterCores (s : State) {pen : Nat} {j : Job} (h : s.job pen = some j) (p : Nat) : (s.enterCores pen).pen p =
    if p = pen then { s.pen pen with job := some { j with
      turn := if j.doubled.isEmpty then none else some .aTurn, inB := false,
      cur := j.cur.map (fun a => { a with phase := .forward, gateRaised := false, pastGate := [] }) } } else s.pen p := by
  have loaded : (State.onCores s pen (s.jobCores pen) startIssue).job pen = some j := by rw [State.job, pen_onCores]; exact h
  have entered := pen_onJob loaded (fun j => { j with
    turn := if j.doubled.isEmpty then none else some .aTurn, inB := false,
    cur := j.cur.map (fun a => { a with phase := .forward, gateRaised := false, pastGate := [] }) }) p
  rw [pen_onCores, pen_onCores] at entered
  exact entered

theorem enterCores_frame (s : State) (pen : Nat) : s.enterCores pen =
    { s with cores := (s.enterCores pen).cores, pens := (s.enterCores pen).pens, slotClk := SMap.put s.slotClk pen 0 } := by
  rw [enterCores_eq]
  have frame := (onCores_frame s pen (s.jobCores pen) startIssue).frame
  generalize State.onCores s pen (s.jobCores pen) startIssue = t at frame
  rw [frame]
  rfl

/-- The vote gate's counter of a core raised. -/
def raiseCounter (g : Nat) (c : Core) : Core :=
  { c with ctr := SMap.set (fun _ => 0#32) c.ctr g (SMap.get (fun _ => 0#32) c.ctr g + 1#32) }

theorem counter_raiseCounter (g k : Nat) (c : Core) : (raiseCounter g c).counter k = if k = g then c.counter k + 1#32 else c.counter k := by
  by_cases here : k = g
  · subst here
    rw [if_pos rfl]
    exact SMap.get_set_self ..
  · rw [if_neg here]
    exact SMap.get_set_ne _ _ _ _ _ here

/-- The cores of a pen with the vote gate raised, and the attempt marked. -/
def State.raised (s : State) (pen : Nat) (j : Job) : State :=
  (State.onCores s pen (s.jobCores pen) (raiseCounter j.plan.gateCtr)).onJob pen (fun j => { j with
    cur := j.cur.map (fun a => { a with gateRaised := true }) })

theorem raiseGate_eq {s : State} {pen : Nat} {j : Job} {a : Attempt} (hj : s.job pen = some j) (cur : j.cur = some a) (unsent : a.wordSent = false)
    (noVote : j.voting = none) (phase : a.phase ≠ .start) (gate : a.gateRaised = false) : s.raiseGate pen = State.raised s pen j := by
  unfold State.raiseGate
  rw [hj]
  simp only [cur, noVote, unsent, phase, gate, ne_eq, not_false_eq_true, Bool.not_false, and_self, if_true]
  rfl

theorem raised_frame (s : State) (pen : Nat) (j : Job) :
    State.raised s pen j = { s with cores := (State.raised s pen j).cores, pens := (State.raised s pen j).pens } := by
  unfold State.raised
  have frame := (onCores_frame s pen (s.jobCores pen) (raiseCounter j.plan.gateCtr)).frame
  generalize State.onCores s pen (s.jobCores pen) (raiseCounter j.plan.gateCtr) = t at frame
  rw [frame]
  rfl

/-- Settles O27. -/
theorem clearAndEntryOfEveryCore : Obligations.ClearAndEntryOfEveryCore := by
  unfold Obligations.ClearAndEntryOfEveryCore
  refine ⟨fun s pen => ⟨fun l hl => ?_, fun k hk => ?_, ?_, fun c => ?clear⟩, fun s pen j a hj cur unsent => ⟨fun lives adopted fresh start => ?entry,
    fun lives adopted held done room => ?replay, fun runs noVote phase gate => ?gate⟩⟩
  case clear =>
    refine ⟨fun r low => ?_, fun r => ?_, fun r => ⟨rfl, rfl⟩, fun r => ⟨rfl, ?_⟩, fun _ => rfl, fun r high => ?_, fun _ => rfl, rfl, rfl, rfl, rfl,
      rfl, rfl, fun nodup kv hkv => get_startCounters nodup hkv []⟩
    · rw [sGet_clear, if_neg (by omega)]
    · have none : c.clear.rf.sPoison = 0#64 := rfl
      rw [RegFile.sBad, none, BitVec.getLsbD_zero, Bool.and_false]
    · have none : c.clear.rf.pPoison = 0#8 := rfl
      rw [RegFile.pBad, none, BitVec.getLsbD_zero]
    · rw [sGet_clear, if_pos high]
  case entry =>
    refine ⟨State.enterCores s pen, ?_, enterCores_frame s pen, fun l hl => ?_, fun k hk => ?_, fun p => ?_⟩
    · simp only [exec, execEntryBundle, hj, cur, unsent, lives, adopted, fresh, start, whenOk, List.isEmpty_nil, Bool.not_true, Bool.or_self,
        decide_true, Bool.false_eq_true, if_false, if_true]
    · exact core_onCores_self (nodup_jobCores s pen) hl s _
    · exact core_onCores_other hk s _
    · have turn : (if j.doubled = [] then none else some TurnPhase.aTurn) = if j.doubled.isEmpty then none else some .aTurn :=
        if_congr List.isEmpty_iff.symm rfl rfl
      rw [turn]
      rw [pen_enterCores s hj, cur]
      rfl
  case replay =>
    have empty : drained j = true := List.all_eq_true.2 fun kv hkv => List.isEmpty_iff.2 (done kv hkv)
    have whole : (s.baysOf pen).any (fun b => (s.port b).overflow) = false := List.any_eq_false.2 fun b hb => by rw [room b hb]; exact Bool.false_ne_true
    simp only [exec, execEntryBundle, hj, cur, unsent, lives, adopted, held, empty, State.enterReplay, whole, whenOk, List.isEmpty_nil,
      Bool.not_true, Bool.or_self, Bool.false_eq_true, if_false, if_true]
  case gate =>
    have loaded : (State.onCores s pen (s.jobCores pen) (raiseCounter j.plan.gateCtr)).job pen = some j := by
      rw [State.job, pen_onCores]
      exact hj
    refine ⟨State.raised s pen j, ?_, raised_frame s pen j, fun l hl => ?_, fun k hk => core_onCores_other hk s _, fun p => ?_⟩
    · simp only [exec, execGateRaise, whenOk, runs, if_true, raiseGate_eq hj cur unsent noVote phase gate]
    · have core : (State.raised s pen j).core (coreKey pen l) = raiseCounter j.plan.gateCtr (s.core (coreKey pen l)) :=
        core_onCores_self (nodup_jobCores s pen) hl s _
      dsimp only
      rw [core]
      exact ⟨rfl, fun k => counter_raiseCounter ..⟩
    · have entered := pen_onJob loaded (fun j => { j with cur := j.cur.map (fun a => { a with gateRaised := true }) }) p
      rw [pen_onCores, pen_onCores, cur] at entered
      exact entered
  · exact core_onCores_self (nodup_jobCores s pen) hl s Core.clear
  · exact core_onCores_other hk s Core.clear
  · exact congrArg (List.filter _) (onCores_frame s pen (s.jobCores pen) Core.clear).outside.1

end Sys2Proof.Proofs
end

section
namespace Sys2Proof.Proofs

open Sys2Proof Sys2Proof.Machine Sys2Proof.Claims

/-! ### Window commits (R338 to R340) -/

theorem pen_onPen_self (s : State) (p : Nat) (f : PenS → PenS) : (s.onPen p f).pen p = f (s.pen p) := State.pen_setPen_self ..

theorem pen_onPen_ne (s : State) {p q : Nat} (f : PenS → PenS) (h : q ≠ p) : (s.onPen p f).pen q = s.pen q := State.pen_setPen_ne _ _ _ _ h

/-- `f` done to each bay of a list. -/
def State.onBays (s : State) (bs : List Nat) (f : Machine.Bay → Machine.Bay) : State := bs.foldl (fun s b => s.onBay b f) s

theorem onBays_frame (bs : List Nat) (f : Machine.Bay → Machine.Bay) (s : State) :
    State.onBays s bs f = { s with bays := (State.onBays s bs f).bays } :=
  List.foldlRecOn (motive := fun t : State => t = { s with bays := t.bays }) bs _ rfl fun t ht b _ => by rw [ht]; rfl

theorem bay_onBays_other {bs : List Nat} {b : Nat} (h : b ∉ bs) (f : Machine.Bay → Machine.Bay) (s : State) :
    (State.onBays s bs f).bay b = s.bay b :=
  List.foldlRecOn (motive := fun t : State => t.bay b = s.bay b) bs _ rfl fun _ ht c hc =>
    (State.bay_setBay_ne _ c b _ fun e => h (e ▸ hc)).trans ht

theorem bay_onBays_self {bs : List Nat} (nodup : bs.Nodup) {b : Nat} (h : b ∈ bs) (f : Machine.Bay → Machine.Bay) (s : State) :
    (State.onBays s bs f).bay b = f (s.bay b) := by
  induction bs generalizing s with
  | nil => cases h
  | cons c cs ih =>
    obtain ⟨fresh, rest⟩ := List.nodup_cons.1 nodup
    by_cases here : b = c
    · subst here
      exact (bay_onBays_other fresh f _).trans (State.bay_setBay_self ..)
    · exact (ih rest ((List.mem_cons.1 h).resolve_left here) _).trans (congrArg f (State.bay_setBay_ne _ _ _ _ here))

theorem nodup_baysOf (s : State) (p : Nat) : (s.baysOf p).Nodup := List.nodup_range.filter _

theorem emptyWindows_eq (s : State) (p : Nat) : s.emptyWindows p = State.onBays s (s.baysOf p) fun x => { x with winCache := [] } := rfl

theorem bay_emptyWindows (s : State) (p b : Nat) :
    (s.emptyWindows p).bay b = if b ∈ s.baysOf p then { s.bay b with winCache := [] } else s.bay b := by
  rw [emptyWindows_eq]
  split
  next h => exact bay_onBays_self (nodup_baysOf s p) h _ s
  next h => exact bay_onBays_other h _ s

theorem emptyWindows_frame (s : State) (p : Nat) : s.emptyWindows p = { s with bays := (s.emptyWindows p).bays } := onBays_frame ..

/-- A change of a pen that leaves its bays leaves the list of them. -/
theorem baysOf_onPen (s : State) (p : Nat) {f : PenS → PenS} (h : (f (s.pen p)).bays = (s.pen p).bays) :
    (s.onPen p f).baysOf p = s.baysOf p := by
  simp only [State.baysOf, pen_onPen_self, h]

/-- The state in which a commit that passed has ended, its activation due. -/
def State.commitPassed (s : State) (pen : Nat) : State :=
  s.onPen pen (fun x => { x with checkRunning := false, winStatus := 0, winFail := 0, activatePending := true })

theorem activateWindows_eq (s : State) (pen : Nat) : s.activateWindows pen =
    (s.onPen pen (fun x => { x with active := x.staging, activatePending := false, activations := satAdd 32 x.activations 1 })).emptyWindows pen :=
  rfl

theorem activateWindows_frame (s : State) (pen : Nat) :
    s.activateWindows pen = { s with pens := (s.activateWindows pen).pens, bays := (s.activateWindows pen).bays } := by
  rw [activateWindows_eq, emptyWindows_frame]
  rfl

theorem pen_emptyWindows (s : State) (p q : Nat) : (s.emptyWindows p).pen q = s.pen q := by
  rw [emptyWindows_frame]
  rfl

theorem exec_commitCheckDone_idle {s : State} {pen : Pen} (runs : (s.pen pen).checkRunning = true) (good : s.commitFail pen = none)
    (idle : s.job pen = none) : exec (.commitCheckDone pen) s = .next ((State.commitPassed s pen).activateWindows pen) := by
  have idle' : ((State.commitPassed s pen).job pen).isNone = true := by
    rw [State.job, State.commitPassed, pen_onPen_self]
    exact congrArg Option.isNone idle
  rw [State.commitPassed] at idle'
  simp only [exec, execCommitCheckDone, runs, good, Bool.not_true, Bool.false_eq_true, if_false, idle', if_true]
  rfl

theorem exec_commitCheckDone_busy {s : State} {pen : Pen} (runs : (s.pen pen).checkRunning = true) (good : s.commitFail pen = none)
    (busy : (s.job pen).isSome = true) : exec (.commitCheckDone pen) s = .next (State.commitPassed s pen) := by
  have busy' : ((State.commitPassed s pen).job pen).isNone = false := by
    rw [State.job, State.commitPassed, pen_onPen_self]
    exact Option.isNone_eq_false_iff.2 busy
  rw [State.commitPassed] at busy'
  simp only [exec, execCommitCheckDone, runs, good, Bool.not_true, Bool.false_eq_true, if_false, busy']
  rfl

/-- What a commit that passes without a job leaves of the pens and the window caches (R340). -/
theorem activated_commitPassed (s : State) (pen : Nat) :
    (∀ p, ((State.commitPassed s pen).activateWindows pen).pen p = if p = pen then { s.pen pen with
      active := (s.pen pen).staging, checkRunning := false, activatePending := false, winStatus := 0, winFail := 0,
      activations := satAdd 32 (s.pen pen).activations 1 } else s.pen p) ∧
    ∀ b, ((State.commitPassed s pen).activateWindows pen).bay b =
      if b ∈ s.baysOf pen then { s.bay b with winCache := [] } else s.bay b := by
  rw [activateWindows_eq]
  constructor
  · intro p
    rw [pen_emptyWindows]
    split
    next h => rw [h, pen_onPen_self, State.commitPassed, pen_onPen_self]
    next h => rw [pen_onPen_ne _ _ h, State.commitPassed, pen_onPen_ne _ _ h]
  · intro b
    rw [bay_emptyWindows, baysOf_onPen _ _ rfl, State.commitPassed, baysOf_onPen _ _ rfl]
    rfl

theorem partRead_eq (part : RegPart) (x : Word64) : partRead part x = le (partBits part / 8) (x.toNat / 2 ^ partLo part % 2 ^ partBits part) := by
  cases part <;> rfl

/-- What an access to the second data register does to the selector (R338). -/
def State.stepIndex (s t : State) (fn : Nat) (second : Bool) : State :=
  if second = true ∧ s.fld .hbmWinAddr 16 1 0 fn = 1 then t.setFld .hbmWinAddr 0 12 (s.fld .hbmWinAddr 0 12 0 fn + 1) 0 fn else t

/-- The staging entry that the selector names, written through a data register. -/
def State.writeStaging (s : State) (fn : Nat) (second : Bool) (part : RegPart) (v : Word64) : State :=
  s.onPen fn (fun x =>
    let w := SMap.get (fun _ => (0#64, 0#64)) x.staging (s.fld .hbmWinAddr 0 12 0 fn)
    { x with
      staging := SMap.set (fun _ => (0#64, 0#64)) x.staging (s.fld .hbmWinAddr 0 12 0 fn)
        (if second then (w.1, partWrite part w.2 v) else (partWrite part w.1 v, w.2)) })

section
variable {s : State} {fn : Func} {second : Bool} {part : RegPart} {v : Word64}

theorem exec_winDataAccess_read (s : State) (fn : Func) (second : Bool) (part : RegPart) :
    exec (.winDataAccess fn ⟨second, part⟩ .read) s = .next (State.stepIndex s
      { s with lastRead := le (partBits part / 8) ((s.winData fn.val second).toNat / 2 ^ partLo part % 2 ^ partBits part) } fn.val second) := by
  rw [← partRead_eq]
  rfl

theorem exec_winDataAccess_write (own : fn.val ≠ 0) (present : (s.pen fn.val).present = true) (free : (s.pen fn.val).commitPending = false)
    (staging : s.fld .hbmWinAddr 17 1 0 fn.val = 0) :
    exec (.winDataAccess fn ⟨second, part⟩ (.write v)) s = .next (State.stepIndex s (State.writeStaging s fn.val second part v) fn.val second) := by
  simp only [exec, execWinDataAccess, own, present, free, staging, Bool.not_false, ne_eq, not_false_eq_true, and_self, if_true]
  rfl

theorem exec_winDataAccess_ignored (h : fn.val = 0 ∨ (s.pen fn.val).present = false ∨ (s.pen fn.val).commitPending = true ∨
    s.fld .hbmWinAddr 17 1 0 fn.val = 1) :
    exec (.winDataAccess fn ⟨second, part⟩ (.write v)) s = .next (State.stepIndex s s fn.val second) := by
  have closed : ¬ (fn.val ≠ 0 ∧ (s.pen fn.val).present ∧ s.fld .hbmWinAddr 17 1 0 fn.val = 0 ∧ !(s.pen fn.val).commitPending) := by
    rintro ⟨own, present, staging, free⟩
    obtain h | h | h | h := h
    · exact own h
    · rw [h] at present; cases present
    · rw [h] at free; cases free
    · omega
  simp only [exec, execWinDataAccess, closed, if_false]
  rfl

end

/-- Settles O35. -/
theorem windowCommitIsCheckedAndActivated : Obligations.WindowCommitIsCheckedAndActivated := by
  unfold Obligations.WindowCommitIsCheckedAndActivated
  intro s fn pen second part v
  dsimp only
  refine ⟨?_, ?_, ?_, ?_, ?_⟩
  · intro own present free
    simp only [exec, execWindowCommit, whenOk, own, present, free, ne_eq, not_false_eq_true, decide_true, Bool.and_self, Bool.not_false, if_true]
  · intro runs
    refine ⟨?_, fun good busy => exec_commitCheckDone_busy runs good busy, fun good idle =>
      ⟨_, exec_commitCheckDone_idle runs good idle, ?_, activated_commitPassed s pen⟩⟩
    · intro ix st failed
      simp only [exec, execCommitCheckDone, runs, failed, Bool.not_true, Bool.false_eq_true, if_false]
    · rw [activateWindows_frame]
      rfl
  · exact exec_winDataAccess_read s fn second part
  · intro own present free staging
    refine ⟨_, exec_winDataAccess_write own present free staging, rfl, ?_, ?_, ?_, ?_⟩
    · rw [State.writeStaging, pen_onPen_self]
      exact SMap.get_set_self ..
    · intro k hk
      rw [State.writeStaging, pen_onPen_self]
      exact SMap.get_set_ne _ _ _ _ _ hk
    · rw [State.writeStaging, pen_onPen_self]
    · exact fun p hp => pen_onPen_ne _ _ hp
  · exact exec_winDataAccess_ignored

end Sys2Proof.Proofs
end

section
namespace Sys2Proof.Proofs

open Sys2Proof Sys2Proof.Machine Sys2Proof.Claims

/-! ### The layer of the links: what changes one port, registers and events only -/

/-- `t` differs from `s` in its registers and event queues at most. -/
structure EventsOnly (s t : State) : Prop where
  frame : t = { s with regs := t.regs, evq := t.evq, evLost := t.evLost }

/-- Of the ports only `p` changed, and beside it only registers and the event queues: `LinkOnly`, to be composed step by step. -/
structure LinkFrame (p : Nat) (s t : State) : Prop where
  frame : t = { s with ports := t.ports, regs := t.regs, evq := t.evq, evLost := t.evLost }
  others : ∀ q, q ≠ p → t.port q = s.port q

theorem LinkFrame.linkOnly {p : Nat} {s t : State} (h : LinkFrame p s t) : LinkOnly s t p := ⟨h.frame, h.others⟩

section
variable {p : Nat} {s₀ s t : State}

theorem EventsOnly.refl (s : State) : EventsOnly s s := ⟨rfl⟩

theorem EventsOnly.trans (h : EventsOnly s₀ s) (h' : EventsOnly s t) : EventsOnly s₀ t := ⟨by rw [h'.frame, h.frame]⟩

theorem EventsOnly.ite {c : Prop} [Decidable c] (h : EventsOnly s₀ s) (h' : EventsOnly s₀ t) : EventsOnly s₀ (if c then s else t) := by
  split
  · exact h
  · exact h'

theorem EventsOnly.foldl {α : Type} {l : List α} {f : State → α → State} (h : EventsOnly s₀ s)
    (hf : ∀ s a, EventsOnly s₀ s → EventsOnly s₀ (f s a)) : EventsOnly s₀ (l.foldl f s) :=
  List.foldlRecOn (motive := EventsOnly s₀) l f h fun s hs a _ => hf s a hs

theorem EventsOnly.ports (h : EventsOnly s t) : t.ports = s.ports := by rw [h.frame]

theorem EventsOnly.port (h : EventsOnly s t) (q : Nat) : t.port q = s.port q := by rw [State.port, h.ports, ← State.port]

theorem EventsOnly.setReg (h : EventsOnly s₀ s) (n : RegName) (x : Word64) (ix fn : Nat) : EventsOnly s₀ (s.setReg n x ix fn) := h.trans ⟨rfl⟩

theorem EventsOnly.setFld (h : EventsOnly s₀ s) (n : RegName) (lo w v ix fn : Nat) : EventsOnly s₀ (s.setFld n lo w v ix fn) := h.setReg ..

theorem EventsOnly.bump (h : EventsOnly s₀ s) (n : RegName) (lo w ix d fn : Nat) : EventsOnly s₀ (s.bump n lo w ix d fn) := h.setFld ..

theorem EventsOnly.setPortState (h : EventsOnly s₀ s) (p st : Nat) : EventsOnly s₀ (s.setPortState p st) := h.setFld ..

theorem EventsOnly.setWidth (h : EventsOnly s₀ s) (p dir : Nat) (good : BitVec 8) : EventsOnly s₀ (s.setWidth p dir good) :=
  (h.setFld ..).setFld ..

theorem EventsOnly.loadLanes (h : EventsOnly s₀ s) (p : Nat) : EventsOnly s₀ (s.loadLanes p) := (h.setFld ..).setFld ..

theorem EventsOnly.post (h : EventsOnly s₀ s) (fn code step : Nat) (fs : List EvField) : EventsOnly s₀ (s.post fn code step fs) := by
  unfold State.post
  exact (EventsOnly.ite (h.trans ⟨rfl⟩) ((h.bump ..).trans ⟨rfl⟩))

theorem EventsOnly.postPen (h : EventsOnly s₀ s) (pen code step : Nat) (fs : List EvField) : EventsOnly s₀ (s.postPen pen code step fs) :=
  (h.post ..).ite h

theorem EventsOnly.postBoth (h : EventsOnly s₀ s) (pen code step : Nat) (fs : List EvField) : EventsOnly s₀ (s.postBoth pen code step fs) :=
  (h.postPen pen code step fs).post ..

theorem EventsOnly.postLink (h : EventsOnly s₀ s) (p code : Nat) (fs : List EvField) : EventsOnly s₀ (s.postLink p code fs) := h.postBoth ..

theorem EventsOnly.partnerGone (h : EventsOnly s₀ s) (p : Nat) : EventsOnly s₀ (s.partnerGone p) := (h.setFld ..).postLink ..

theorem EventsOnly.xglStatus (h : EventsOnly s₀ s) (st : Nat) : EventsOnly s₀ (s.xglStatus st) := (h.setFld ..).setFld ..

theorem EventsOnly.xglOk (h : EventsOnly s₀ s) (pre : Bool) : EventsOnly s₀ (s.xglOk pre) := (h.setFld ..).ite (h.xglStatus _)

theorem LinkFrame.refl (p : Nat) (s : State) : LinkFrame p s s := ⟨rfl, fun _ _ => rfl⟩

theorem LinkFrame.trans (h : LinkFrame p s₀ s) (h' : LinkFrame p s t) : LinkFrame p s₀ t :=
  ⟨by rw [h'.frame, h.frame], fun q hq => (h'.others q hq).trans (h.others q hq)⟩

theorem LinkFrame.ite {c : Prop} [Decidable c] (h : LinkFrame p s₀ s) (h' : LinkFrame p s₀ t) : LinkFrame p s₀ (if c then s else t) := by
  split
  · exact h
  · exact h'

theorem LinkFrame.foldl {α : Type} {l : List α} {f : State → α → State} (h : LinkFrame p s₀ s)
    (hf : ∀ s a, LinkFrame p s₀ s → LinkFrame p s₀ (f s a)) : LinkFrame p s₀ (l.foldl f s) :=
  List.foldlRecOn (motive := LinkFrame p s₀) l f h fun s hs a _ => hf s a hs

theorem LinkFrame.events (h : LinkFrame p s₀ s) (h' : EventsOnly s t) : LinkFrame p s₀ t :=
  h.trans ⟨by rw [h'.frame], fun q _ => h'.port q⟩

theorem LinkFrame.onPort (h : LinkFrame p s₀ s) (f : XPort → XPort) : LinkFrame p s₀ (s.onPort p f) :=
  h.trans ⟨rfl, fun _ hq => State.port_setPort_ne _ _ _ _ hq⟩

end

theorem port_onPort_self (s : State) (p : Nat) (f : XPort → XPort) : (s.onPort p f).port p = f (s.port p) := State.port_setPort_self ..

theorem port_onPort_ne (s : State) {p q : Nat} (f : XPort → XPort) (h : q ≠ p) : (s.onPort p f).port q = s.port q :=
  State.port_setPort_ne _ _ _ _ h

theorem portState_setPortState (s : State) (p : Nat) {st : Nat} (h : st < 16) : (s.setPortState p st).portState p = st :=
  fld_setFld_of_lt s .xglPortStatus p 0 (by decide) h

theorem portState_onPort (s : State) (p q : Nat) (f : XPort → XPort) : (s.onPort p f).portState q = s.portState q := rfl

/-! ### The commands of XGL_CMD (R382, R386, R387) -/

theorem key_xglPortStatus (p : Nat) : RegName.key .xglPortStatus 0 p = 0x500100 + 8 * p := rfl

theorem portStatus_ne_xglCmd (p : Nat) : RegName.key .xglPortStatus 0 p ≠ RegName.key .xglCmd 0 0 := by
  show 0x500100 + 8 * p ≠ 0x500010
  omega

theorem portState_xglStatus (s : State) (p st : Nat) : (s.xglStatus st).portState p = s.portState p :=
  (fld_setFld_apart _ _ _ _ _ _ (portStatus_ne_xglCmd p)).trans (fld_setFld_apart _ _ _ _ _ _ (portStatus_ne_xglCmd p))

theorem fld_xglStatus (s : State) {st : Nat} (h : st < 256) : (s.xglStatus st).fld .xglCmd 8 8 = st ∧ (s.xglStatus st).fld .xglCmd 6 1 = 0 :=
  ⟨fld_setFld_of_lt _ _ _ _ (by decide) h, (fld_setFld_beside _ _ _ _ _ (by decide)).trans (fld_setFld_of_lt _ _ _ _ (by decide) (by decide))⟩

theorem portGoDown_frame (s : State) (p : Nat) : LinkFrame p s (s.portGoDown p) := by
  unfold State.portGoDown
  have down := ((((EventsOnly.refl (s.onPort p fun x => { x with training := false, locked := none, widthFrom := none, rxWidthFrom := none })
    ).setPortState p portDown).setWidth p 0 0#8).setWidth p 1 0#8).postLink p 369 []
  exact ((LinkFrame.refl p s).onPort _).events ((down.partnerGone p).ite down)

theorem port_portGoDown (s : State) (p : Nat) : (s.portGoDown p).port p =
    { s.port p with training := false, locked := none, widthFrom := none, rxWidthFrom := none } := by
  have down := ((((EventsOnly.refl (s.onPort p fun x => { x with training := false, locked := none, widthFrom := none, rxWidthFrom := none })
    ).setPortState p portDown).setWidth p 0 0#8).setWidth p 1 0#8).postLink p 369 []
  exact (((down.partnerGone p).ite down).port p).trans (port_onPort_self ..)

/-- The port as a training begins (R377). -/
def freshPort (x : XPort) : XPort :=
  { x with
    training := true, partnerSeen := false, idIn := none, lanesIn := none, locked := none, attempt := false, widthFrom := none, rxWidthFrom := none,
    rxCw := [], rxAt := none, txCw := 0,
    txSeq := 0, replay := [], resend := [], stream := [], rxExpect := 0, rxAny := false, nakDue := false, discarding := false,
    nakFseq := 0, nakRun := 0, ctlOut := [], ctlSeen := [], ctlIn := [], creditOut := [], poolUsed := 0, dataUsed := [],
    groupUsed := [], ackUsed := [], voteUsed := [], rxPart := none, lanes := [], cwCount := [], berRound := false }

theorem beginTraining_eq (s : State) (p : Nat) : s.beginTraining p = ((s.loadLanes p).setPortState p portTraining).onPort p freshPort := rfl

theorem beginTraining_frame (s : State) (p : Nat) : LinkFrame p s (s.beginTraining p) := by
  rw [beginTraining_eq]
  exact ((LinkFrame.refl p s).events (((EventsOnly.refl s).loadLanes p).setPortState p portTraining)).onPort _

theorem port_beginTraining (s : State) (p : Nat) : (s.beginTraining p).port p = freshPort (s.port p) := by
  rw [beginTraining_eq, port_onPort_self, ((((EventsOnly.refl s).loadLanes p).setPortState p portTraining).port p)]

theorem portState_beginTraining (s : State) (p : Nat) : (s.beginTraining p).portState p = portTraining := by
  rw [beginTraining_eq, portState_onPort, portState_setPortState _ _ (by decide)]

/-- A port that leaves the state it runs in, if it is in one, as IDLE and TRAIN begin. -/
def State.stopPort (s : State) (p : Nat) : State :=
  if s.portRuns p || decide (s.portState p = portRetraining) then s.portGoDown p else s

theorem stopPort_frame (s : State) (p : Nat) : LinkFrame p s (State.stopPort s p) := (portGoDown_frame s p).ite (.refl p s)

theorem trainingBegun_of_events {s t u : State} {p : Nat} (h : TrainingBegun s t p) (h' : EventsOnly t u) (state : u.portState p = t.portState p) :
    TrainingBegun s u p := by
  obtain ⟨⟨frame, others⟩, rest⟩ := h
  refine ⟨(LinkFrame.events ⟨frame, others⟩ h').linkOnly, ?_⟩
  rw [state, h'.port p]
  exact rest

theorem trainingBegun_beginTraining {s t : State} {p : Nat} (frame : LinkFrame p s t) (vote : (t.port p).voteQ = (s.port p).voteQ)
    (ack : (t.port p).ackQ = (s.port p).ackQ) (data : (t.port p).dataQ = (s.port p).dataQ) : TrainingBegun s (t.beginTraining p) p := by
  refine ⟨(frame.trans (beginTraining_frame t p)).linkOnly, portState_beginTraining t p, ?_⟩
  rw [port_beginTraining]
  exact ⟨rfl, rfl, rfl, rfl, rfl, vote, ack, data⟩

theorem trainingBegun_stopPort (s : State) (p : Nat) : TrainingBegun s ((State.stopPort s p).beginTraining p) p := by
  have queues : ((State.stopPort s p).port p).voteQ = (s.port p).voteQ ∧ ((State.stopPort s p).port p).ackQ = (s.port p).ackQ ∧
      ((State.stopPort s p).port p).dataQ = (s.port p).dataQ := by
    unfold State.stopPort
    split
    · rw [port_portGoDown]
      exact ⟨rfl, rfl, rfl⟩
    · exact ⟨rfl, rfl, rfl⟩
  exact trainingBegun_beginTraining (stopPort_frame s p) queues.1 queues.2.1 queues.2.2

theorem exec_train_of_locked {s : State} {p : Nat} {master : Master} (same : s.preempts master = false)
    (allowed : s.xglRefused p master true = none) (settled : s.portState p ≠ portSettling) (locked : s.fld .xglPortStatus 12 1 p = 1) :
    exec (.train p master) s = .next (((State.stopPort s p).beginTraining p).xglStatus 0) := by
  simp only [exec, execTrain, allowed, State.preempt, same, Bool.false_eq_true, if_false, settled, locked, Nat.one_ne_zero, State.xglOk]
  rfl

/-- A port as IDLE leaves it, before its state is shown. -/
def State.quitPort (s : State) (p : Nat) : State :=
  if s.portRuns p || decide (s.portState p = portRetraining) then s.portGoDown p
  else s.onPort p (fun x => { x with training := false, locked := none })

theorem quitPort_frame (s : State) (p : Nat) : LinkFrame p s (State.quitPort s p) := (portGoDown_frame s p).ite ((LinkFrame.refl p s).onPort _)

theorem port_quitPort (s : State) (p : Nat) : ((State.quitPort s p).port p).training = false ∧ ((State.quitPort s p).port p).locked = none := by
  unfold State.quitPort
  split
  · rw [port_portGoDown]
    exact ⟨rfl, rfl⟩
  · rw [port_onPort_self]
    exact ⟨rfl, rfl⟩

theorem exec_idle {s : State} {p : Nat} {master : Master} (same : s.preempts master = false)
    (allowed : s.xglRefused p master true = none) : exec (.idle p master) s = .next (((State.quitPort s p).setPortState p portIdle).xglStatus 0) := by
  simp only [exec, execIdle, allowed, State.preempt, same, Bool.false_eq_true, if_false, State.xglOk]
  rfl

/-- No port holds a command of the operator. -/
def NoneHeld (s : State) : Prop := ∀ q, q < 12 → (s.port q).held ≠ some .operator

theorem NoneHeld.events {s t : State} (h : NoneHeld s) (h' : EventsOnly s t) : NoneHeld t := fun q hq => by rw [h'.port]; exact h q hq

theorem NoneHeld.onPort {s : State} (h : NoneHeld s) (p : Nat) {f : XPort → XPort}
    (hf : (f (s.port p)).held = (s.port p).held ∨ (f (s.port p)).held ≠ some .operator) : NoneHeld (s.onPort p f) := by
  intro q hq
  by_cases here : q = p
  · rw [here, port_onPort_self]
    obtain same | other := hf
    · rw [same]
      exact h p (here ▸ hq)
    · exact other
  · rw [port_onPort_ne _ _ here]
    exact h q hq

/-- One port's command of the operator ended. -/
def State.releaseHeld (s : State) (q : Nat) : State :=
  if (s.port q).held = some .operator then s.onPort q (fun x => { x with held := none }) else s

theorem preempt_of_preempts {s : State} {master : Master} (h : s.preempts master = true) :
    s.preempt master = ((List.range 12).foldl State.releaseHeld s).xglStatus 6 := if_pos h

theorem held_releaseHeld (s : State) (q : Nat) : ((State.releaseHeld s q).port q).held ≠ some .operator := by
  unfold State.releaseHeld
  split
  · rw [port_onPort_self]
    simp
  next h => exact h

theorem held_releaseHeld_other (s : State) {q r : Nat} (h : (s.port r).held ≠ some .operator) :
    ((State.releaseHeld s q).port r).held ≠ some .operator := by
  by_cases here : r = q
  · rw [here]
    exact held_releaseHeld s q
  · unfold State.releaseHeld
    split
    · rw [port_onPort_ne _ _ here]
      exact h
    · exact h

theorem held_foldl_releaseHeld {qs : List Nat} {r : Nat} (s : State) (h : r ∈ qs ∨ (s.port r).held ≠ some .operator) :
    ((qs.foldl State.releaseHeld s).port r).held ≠ some .operator := by
  induction qs generalizing s with
  | nil => exact h.resolve_left List.not_mem_nil
  | cons q qs ih =>
    refine ih _ ?_
    by_cases here : r = q
    · exact .inr (here ▸ held_releaseHeld s q)
    · exact h.imp (fun h => (List.mem_cons.1 h).resolve_left here) (held_releaseHeld_other s)

theorem noneHeld_preempt {s : State} {master : Master} (h : s.preempts master = true) : NoneHeld (s.preempt master) := by
  rw [preempt_of_preempts h]
  exact NoneHeld.events (fun q hq => held_foldl_releaseHeld s (.inl (List.mem_range.2 hq))) ((EventsOnly.refl _).xglStatus 6)

theorem fld_preempt {s : State} {master : Master} (h : s.preempts master = true) : (s.preempt master).fld .xglCmd 8 8 = 6 := by
  rw [preempt_of_preempts h]
  exact (fld_xglStatus _ (by decide)).1

/-- The authority's command has ended the operator's, and says so. -/
structure Preempted (s : State) : Prop where
  answer : s.fld .xglCmd 8 8 = 6
  held : NoneHeld s

/-- The key of XGL_CMD. -/
abbrev CmdKey (k : Nat) : Prop := k = RegName.key .xglCmd 0 0

theorem not_cmdKey_portStatus (p : Nat) : ¬ CmdKey (RegName.key .xglPortStatus 0 p) := portStatus_ne_xglCmd p

theorem not_cmdKey_post (fn : Nat) (_ : fn ≤ 12) : ¬ CmdKey (RegName.key .hifPenStat 0 fn) := by
  rw [key_hifPenStat, CmdKey]
  show ¬ 0xC00200 + 8 * fn = 0x500010
  omega

section
variable {K : Nat → Prop} {s₀ s : State}

theorem SameRegs.setPortState (h : SameRegs K s₀ s) (p st : Nat) (hk : ¬ K (RegName.key .xglPortStatus 0 p)) :
    SameRegs K s₀ (s.setPortState p st) := h.setFld _ _ _ _ _ _ hk

theorem SameRegs.setWidth (h : SameRegs K s₀ s) (p dir : Nat) (good : BitVec 8) (hk : ¬ K (RegName.key .xglPortStatus 0 p)) :
    SameRegs K s₀ (s.setWidth p dir good) := (h.setFld _ _ _ _ _ _ hk).setFld _ _ _ _ _ _ hk

theorem SameRegs.loadLanes (h : SameRegs K s₀ s) (p : Nat) (hk : ¬ K (RegName.key .xglLanes 0 p)) : SameRegs K s₀ (s.loadLanes p) :=
  (h.setFld _ _ _ _ _ _ hk).setFld _ _ _ _ _ _ hk

theorem SameRegs.postLink (h : SameRegs K s₀ s) (p code : Nat) (fs : List EvField)
    (posts : ∀ fn, fn ≤ 12 → ¬ K (RegName.key .hifPenStat 0 fn)) : SameRegs K s₀ (s.postLink p code fs) := h.postBoth _ _ _ _ posts

theorem SameRegs.portGoDown (h : SameRegs K s₀ s) (p : Nat) (status : ¬ K (RegName.key .xglPortStatus 0 p))
    (partner : ¬ K (RegName.key .xglPartner 0 p)) (posts : ∀ fn, fn ≤ 12 → ¬ K (RegName.key .hifPenStat 0 fn)) :
    SameRegs K s₀ (s.portGoDown p) := by
  unfold State.portGoDown
  have down := ((((h.onPort p fun x => { x with training := false, locked := none, widthFrom := none, rxWidthFrom := none }).setPortState
    p portDown status).setWidth p 0 0#8 status).setWidth p 1 0#8 status).postLink p 369 [] posts
  exact SameRegs.ite ((down.setFld _ _ _ _ _ _ partner).postLink _ _ _ posts) down

end

theorem Preempted.xglOk {s : State} (h : Preempted s) : Preempted (s.xglOk true) :=
  ⟨(fld_setFld_beside _ _ _ _ _ (by decide)).trans h.answer, h.held.events ((EventsOnly.refl s).setFld ..)⟩

theorem Preempted.events {s t : State} (h : Preempted s) (regs : SameRegs CmdKey s t) (h' : EventsOnly s t) : Preempted t :=
  ⟨(regs.fld .xglCmd 8 8 0 0 rfl).trans h.answer, h.held.events h'⟩

theorem Preempted.onPort {s : State} (h : Preempted s) (p : Nat) {f : XPort → XPort}
    (hf : (f (s.port p)).held = (s.port p).held ∨ (f (s.port p)).held ≠ some .operator) : Preempted (s.onPort p f) :=
  ⟨h.answer, h.held.onPort p hf⟩

theorem Preempted.setPortState {s : State} (h : Preempted s) (p st : Nat) : Preempted (s.setPortState p st) :=
  h.events ((SameRegs.refl s).setPortState _ _ (not_cmdKey_portStatus p)) ((EventsOnly.refl s).setPortState ..)

theorem Preempted.busy {s : State} (h : Preempted s) : Preempted (s.setFld .xglCmd 6 1 1) :=
  ⟨(fld_setFld_beside _ _ _ _ _ (by decide)).trans h.answer, h.held.events ((EventsOnly.refl s).setFld ..)⟩

theorem Preempted.portGoDown {s : State} (h : Preempted s) (p : Nat) : Preempted (s.portGoDown p) := by
  have partner : ¬ CmdKey (RegName.key .xglPartner 0 p) := show ¬ 0x500180 + 8 * p = 0x500010 by omega
  refine ⟨(((SameRegs.refl s).portGoDown p (not_cmdKey_portStatus p) partner not_cmdKey_post).fld .xglCmd 8 8 0 0 rfl).trans h.answer, ?_⟩
  intro q hq
  by_cases here : q = p
  · rw [here, port_portGoDown]
    exact h.held p (here ▸ hq)
  · rw [(portGoDown_frame s p).others q here]
    exact h.held q hq

theorem Preempted.beginTraining {s : State} (h : Preempted s) (p : Nat) : Preempted (s.beginTraining p) := by
  have lanes : ¬ CmdKey (RegName.key .xglLanes 0 p) := show ¬ 0x500280 + 8 * p = 0x500010 by omega
  rw [beginTraining_eq]
  exact ((h.events ((SameRegs.refl s).loadLanes p lanes) ((EventsOnly.refl s).loadLanes p)).setPortState ..).onPort p (.inl rfl)

theorem Preempted.ite {c : Prop} [Decidable c] {s t : State} (h : Preempted s) (h' : Preempted t) : Preempted (if c then s else t) := by
  split
  · exact h
  · exact h'

theorem preempted_preempt {s : State} {master : Master} (h : s.preempts master = true) : Preempted (s.preempt master) :=
  ⟨fld_preempt h, noneHeld_preempt h⟩

section
variable {s : State} {p : Nat} (pre : s.preempts .authority = true)
include pre

theorem train_preempts (allowed : s.xglRefused p .authority true = none) : ∃ t, exec (.train p .authority) s = .next t ∧ Preempted t := by
  have begun := preempted_preempt pre
  have holds : some Master.authority ≠ some .operator := by decide
  simp only [exec, execTrain, allowed, pre]
  generalize s.preempt .authority = u at begun ⊢
  split
  · exact ⟨_, rfl, (begun.onPort p (.inr holds)).busy⟩
  · split
    · exact ⟨_, rfl, ((begun.setPortState p portSettling).onPort p (.inr holds)).busy⟩
    · exact ⟨_, rfl, (((begun.portGoDown p).ite begun).beginTraining p).xglOk⟩

theorem idle_preempts (allowed : s.xglRefused p .authority true = none) : ∃ t, exec (.idle p .authority) s = .next t ∧ Preempted t := by
  have begun := preempted_preempt pre
  simp only [exec, execIdle, allowed, pre]
  generalize s.preempt .authority = u at begun ⊢
  exact ⟨_, rfl, (((begun.portGoDown p).ite (begun.onPort p (.inl rfl))).setPortState p portIdle).xglOk⟩

theorem clearCounts_preempts (allowed : s.xglRefused p .authority false = none) :
    ∃ t, exec (.clearCounts p .authority) s = .next t ∧ Preempted t := by
  have begun := preempted_preempt pre
  have errors : ¬ CmdKey (RegName.key .xglErrCount 0 p) := show ¬ 0x500300 + 8 * p = 0x500010 by omega
  simp only [exec, execClearCounts, allowed, pre]
  generalize s.preempt .authority = u at begun ⊢
  exact ⟨_, rfl, (begun.events ((SameRegs.refl u).setReg _ _ _ _ errors) ((EventsOnly.refl u).setReg ..)).xglOk⟩

end

theorem fld_xglRefuse (s : State) {st : Nat} (h : st < 256) : (s.xglRefuse st).fld .xglCmd 8 8 = st ∧
    (s.xglRefuse st).fld .xglCmd 6 1 = if st = 1 then s.fld .xglCmd 6 1 else 0 := by
  unfold State.xglRefuse
  split
  next one => exact ⟨(fld_setFld_of_lt _ _ _ _ (by decide) (by decide)).trans one.symm, fld_setFld_beside _ _ _ _ _ (by decide)⟩
  next => exact fld_xglStatus s h

theorem xglRefuse_frame (s : State) (st : Nat) : RegsOnly s (s.xglRefuse st) := by
  unfold State.xglRefuse
  split <;> rfl

theorem xglRefused_lt {s : State} {p : Nat} {master : Master} {jobs : Bool} {st : Nat} (h : s.xglRefused p master jobs = some st) : st < 256 := by
  unfold State.xglRefused at h
  split at h
  · cases h; decide
  · split at h
    · cases h; decide
    · split at h
      · cases h; decide
      · split at h
        · cases h; decide
        · cases h

theorem refuses_as_stated (s : State) {st : Nat} (h : st < 256) :
    ∃ t, (.next (s.xglRefuse st) : Out) = .next t ∧ t = { s with regs := t.regs } ∧ t.fld .xglCmd 8 8 = st ∧
      t.fld .xglCmd 6 1 = if st = 1 then s.fld .xglCmd 6 1 else 0 :=
  ⟨_, rfl, xglRefuse_frame s st, fld_xglRefuse s h⟩

/-- Settles O40. -/
theorem portCommandsTrainIdleAndClear : Obligations.PortCommandsTrainIdleAndClear := by
  unfold Obligations.PortCommandsTrainIdleAndClear
  refine ⟨?_, ?_, ?_, ?_⟩
  · intro s p master same
    refine ⟨fun allowed => ⟨?_, ?_, ?_, ?_⟩, fun allowed => ?_⟩
    · intro settling
      simp only [exec, execTrain, allowed, State.preempt, same, Bool.false_eq_true, if_false, settling, if_true]
    · intro settled free
      simp only [exec, execTrain, allowed, State.preempt, same, Bool.false_eq_true, if_false, settled, free, if_true]
    · intro settled locked
      refine ⟨_, exec_train_of_locked same allowed settled locked, ?_, fld_xglStatus _ (by decide)⟩
      exact trainingBegun_of_events (trainingBegun_stopPort s p) ((EventsOnly.refl _).xglStatus 0) (portState_xglStatus ..)
    · refine ⟨_, exec_idle same allowed, ?_, ?_, ?_⟩
      · exact ((quitPort_frame s p).events (((EventsOnly.refl _).setPortState p portIdle).xglStatus 0)).linkOnly
      · rw [portState_xglStatus, portState_setPortState _ _ (by decide)]
      · rw [(((EventsOnly.refl (State.quitPort s p)).setPortState p portIdle).xglStatus 0).port p]
        exact ⟨(port_quitPort s p).1, (port_quitPort s p).2, fld_xglStatus _ (by decide)⟩
    · have apart : RegName.key .xglErrCount 0 p ≠ RegName.key .xglCmd 0 0 := show 0x500300 + 8 * p ≠ 0x500010 by omega
      refine ⟨(s.setReg .xglErrCount 0#64 p).xglStatus 0, ?_, rfl, ?_, fld_xglStatus _ (by decide)⟩
      · simp only [exec, execClearCounts, allowed, State.preempt, same, Bool.false_eq_true, if_false, State.xglOk]
      · exact (reg_setFld_apart _ _ _ _ apart).trans ((reg_setFld_apart _ _ _ _ apart).trans (State.reg_setReg_self ..))
  · rintro s p master st c (⟨rfl | rfl, refused⟩ | ⟨rfl, refused⟩)
    · simp only [exec, execTrain, refused]
      exact refuses_as_stated s (xglRefused_lt refused)
    · simp only [exec, execIdle, refused]
      exact refuses_as_stated s (xglRefused_lt refused)
    · simp only [exec, execClearCounts, refused]
      exact refuses_as_stated s (xglRefused_lt refused)
  · rintro s p c pre (⟨rfl | rfl, allowed⟩ | ⟨rfl, allowed⟩)
    · obtain ⟨t, run, done⟩ := train_preempts pre allowed
      exact ⟨t, run, done.answer, done.held⟩
    · obtain ⟨t, run, done⟩ := idle_preempts pre allowed
      exact ⟨t, run, done.answer, done.held⟩
    · obtain ⟨t, run, done⟩ := clearCounts_preempts pre allowed
      exact ⟨t, run, done.answer, done.held⟩
  · intro s p master jobs noneHeld
    unfold State.xglRefused
    rw [List.any_eq_false.2 fun q hq => by simp [noneHeld q (List.mem_range.1 hq)]]
    simp only [Bool.false_eq_true, if_false, Bool.not_eq_true']

end Sys2Proof.Proofs
end

section
namespace Sys2Proof.Proofs

open Sys2Proof Sys2Proof.Machine Sys2Proof.Claims

/-! ### Codewords (R341 to R344) -/

theorem le_leNum {n : Nat} {bs : List Byte} (h : bs.length = n) : le n (leNum bs) = bs := by
  refine List.ext_getElem (by simp [le, h]) fun i hi hi' => BitVec.eq_of_toNat_eq ?_
  have here : i < n := h ▸ hi'
  have byte := getD_le n (leNum bs) here
  rw [leNum_digit] at byte
  simpa only [List.getD_eq_getElem _ _ hi, List.getD_eq_getElem _ _ hi'] using byte

/-- The symbols of a number spell it, modulo their number. -/
theorem cwNum_symbols (k n : Nat) : cwNum ((List.range k).map fun i => BitVec.ofNat 10 (n / 2 ^ (10 * i))) = n % 2 ^ (10 * k) := by
  induction k generalizing n with
  | zero => simp [cwNum, Nat.mod_one]
  | succ k ih =>
    have shift : ((List.range k).map Nat.succ).map (fun i => BitVec.ofNat 10 (n / 2 ^ (10 * i))) =
        (List.range k).map fun i => BitVec.ofNat 10 (n / 2 ^ 10 / 2 ^ (10 * i)) := by
      rw [List.map_map]
      refine List.map_congr_left fun i _ => ?_
      rw [Function.comp_apply, Nat.div_div_eq_div_mul, ← Nat.pow_add, show 10 * i.succ = 10 + 10 * i by omega]
    have cons (x : BitVec 10) (xs : List (BitVec 10)) : cwNum (x :: xs) = x.toNat + 1024 * cwNum xs := rfl
    rw [List.range_succ_eq_map, List.map_cons, shift, cons, ih, show 10 * (k + 1) = 10 + 10 * k by omega, Nat.pow_add, Nat.mod_mul]
    simp

section
variable {lane count : Nat} {flit : List Byte} (hl : lane < 8) (hc : count < 4096) (hf : flit.length = 640)
include hl hc hf

theorem cwNum_cwPayload : cwNum (cwPayload lane count flit) = lane + count * 8 + leNum flit * 2 ^ 20 := by
  have bytes := leNum_lt flit
  rw [hf] at bytes
  have small : lane + count * 8 + leNum flit * 2 ^ 20 < 2 ^ (10 * 514) := by
    have room : 256 ^ 640 * 2 ^ 20 ≤ 2 ^ (10 * 514) := by
      rw [show (256 : Nat) = 2 ^ 8 from rfl, ← Nat.pow_mul, ← Nat.pow_add]
    generalize 2 ^ (10 * 514) = top at room ⊢
    generalize 256 ^ 640 = span at room bytes
    omega
  rw [cwPayload, fit_of_length hf, Nat.mod_eq_of_lt hl, Nat.mod_eq_of_lt hc, cwNum_symbols, Nat.mod_eq_of_lt small]

theorem cwFields_cwPayload : (cwPayload lane count flit).length = 514 ∧ cwLane (cwPayload lane count flit) = lane ∧
    cwCountOf (cwPayload lane count flit) = count ∧ cwFlit (cwPayload lane count flit) = flit := by
  have num := cwNum_cwPayload hl hc hf
  refine ⟨by rw [cwPayload, List.length_map, List.length_range], ?_, ?_, ?_⟩
  · rw [cwLane, num]
    omega
  · rw [cwCountOf, num]
    omega
  · rw [cwFlit, num, show (lane + count * 8 + leNum flit * 2 ^ 20) / 2 ^ 20 = leNum flit by omega, le_leNum hf]

end

theorem lane_onLane_self (x : XPort) (l : Nat) (f : Lane → Lane) : (x.onLane l f).lane l = f (x.lane l) := SMap.get_set_self ..

theorem lane_onLane_ne (x : XPort) {l k : Nat} (f : Lane → Lane) (h : k ≠ l) : (x.onLane l f).lane k = x.lane k := SMap.get_set_ne _ _ _ _ _ h

theorem used_put_self (m : SMap Nat) (k v : Nat) : used (SMap.put m k v) k = v := by
  rw [used, SMap.get, SMap.find_put_self]
  rfl

/-- A codeword taken changes its lane, its lane's count and the codewords received. -/
theorem takeCw_frame (x : XPort) (mask : BitVec 8) (lane : Nat) (cw : Codeword) (lost : Bool) :
    x.takeCw mask lane cw lost = { x with
      cwCount := (x.takeCw mask lane cw lost).cwCount
      rxCw := (x.takeCw mask lane cw lost).rxCw
      lanes := (x.takeCw mask lane cw lost).lanes } ∧
    (∀ k, k ≠ lane → (x.takeCw mask lane cw lost).lane k = x.lane k) ∧
    (lost = false → (x.takeCw mask lane cw lost).rxCw =
        x.rxCw ++ [(cwNum cw.payload / 8 % 4096, cwNum cw.payload % 8, some (le 640 (cwNum cw.payload / 2 ^ 20)))] ∧
      used (x.takeCw mask lane cw lost).cwCount lane = cwNum cw.payload / 8 % 4096 ∧
      (x.takeCw mask lane cw lost).lane lane = { x.lane lane with
        unlockRun := 0, windowBits := (x.lane lane).windowBits + cwBits cw, berBits := (x.lane lane).berBits + cwBits cw }) ∧
    (lost = true → (x.takeCw mask lane cw lost).rxCw = x.rxCw ++ [((used x.cwCount lane + 1) % 4096, (maskLanes mask).idxOf lane, none)] ∧
      used (x.takeCw mask lane cw lost).cwCount lane = (used x.cwCount lane + 1) % 4096 ∧
      (x.takeCw mask lane cw lost).lane lane = { x.lane lane with
        unlockRun := (x.lane lane).unlockRun + 1, windowUe := (x.lane lane).windowUe + 1, berBits := (x.lane lane).berBits + 160 }) := by
  refine ⟨rfl, fun k hk => lane_onLane_ne _ _ hk, ?_, ?_⟩
  · rintro rfl
    exact ⟨rfl, used_put_self .., lane_onLane_self ..⟩
  · rintro rfl
    exact ⟨rfl, used_put_self .., lane_onLane_self ..⟩

theorem fireInjection_of_none {s : State} (h : s.injection = none) (det bay unit : Nat) : s.fireInjection det bay unit = (s, false) := by
  rw [State.fireInjection, h]

section
variable {s : State} {p : Sys2Proof.Port} {lane : Nat} (arrives : s.cwArrive p.val = true) (physical : lane < 8)
  (inUse : (s.rxLanes p.val).getLsbD lane = true) (calm : s.injection = none)
include arrives physical inUse calm

theorem exec_codewordReceive (cw : Codeword) : exec (.codewordReceive p lane cw.payload cw.errs) s =
    if 15 < cwErrors cw then
      .next (((s.setPort p.val ((s.port p.val).takeCw (s.rxLanes p.val) lane cw true)).bump .xglErrCount 32 16 p.val).countEvent p.val 14 lane false)
    else if cwErrors cw = 0 then .next (s.setPort p.val ((s.port p.val).takeCw (s.rxLanes p.val) lane cw false))
    else
      .next (((s.setPort p.val ((s.port p.val).takeCw (s.rxLanes p.val) lane cw false)).bump .xglErrCount 0 32 p.val).countEvent
        p.val 13 lane false) := by
  simp only [exec, execCodewordReceive, arrives, physical, inUse, decide_true, Bool.and_self, Bool.not_true, Bool.false_eq_true, if_false,
    fireInjection_of_none calm, Bool.or_false, State.onPort, rsLimit]
  by_cases lost : 15 < cwErrors cw
  · simp only [lost, decide_true, if_true]
  · by_cases clean : cwErrors cw = 0
    · simp only [clean, Nat.not_lt_zero, decide_false, Bool.false_eq_true, if_false, ne_eq, not_true_eq_false, if_true]
    · simp only [lost, clean, decide_false, Bool.false_eq_true, if_false, ne_eq, not_false_eq_true, decide_true, if_true]

end

/-! ### Retrains (R352) -/

/-- The key of a port's status register. -/
abbrev StatusKey (p k : Nat) : Prop := k = RegName.key .xglPortStatus 0 p

theorem not_statusKey_post (p : Sys2Proof.Port) (fn : Nat) (_ : fn ≤ 12) : ¬ StatusKey p.val (RegName.key .hifPenStat 0 fn) := by
  have := p.isLt
  show ¬ 0xC00200 + 8 * fn = 0x500100 + 8 * p.val
  omega

/-- The port as a retrain begins. -/
def retrainPort (x : XPort) : XPort :=
  { x with
    nakRun := 0, idIn := none, lanesIn := none, locked := none, rxCw := [], rxAt := none,
    lanes := (x.lanes.map (fun kv => (kv.1, { kv.2 with unlockRun := 0 }))).filter (fun kv => decide (kv.2 ≠ {})) }

theorem startRetrain_eq (s : State) (p : Nat) : s.startRetrain p =
    (((s.onPort p retrainPort).bump .xglPortStatus 32 16 p).setPortState p portRetraining).postLink p 370 [] := rfl

theorem startRetrain_events (s : State) (p : Nat) : EventsOnly (s.onPort p retrainPort) (s.startRetrain p) := by
  rw [startRetrain_eq]
  exact (((EventsOnly.refl _).bump ..).setPortState ..).postLink ..

theorem port_startRetrain (s : State) (p : Nat) : (s.startRetrain p).port p = retrainPort (s.port p) := by
  rw [(startRetrain_events s p).port, port_onPort_self]

theorem retrainBegun_startRetrain (s : State) (p : Sys2Proof.Port) : RetrainBegun s (s.startRetrain p.val) p.val := by
  have posted := (SameRegs.refl (K := StatusKey p.val) (((s.onPort p.val retrainPort).bump .xglPortStatus 32 16 p.val).setPortState
    p.val portRetraining)).postLink p.val 370 [] (not_statusKey_post p)
  refine ⟨(((LinkFrame.refl p.val s).onPort _).events (startRetrain_events s p.val)).linkOnly, ?_, ?_⟩
  · rw [startRetrain_eq, State.portState, posted.fld .xglPortStatus 0 4 p.val 0 rfl, ← State.portState,
      portState_setPortState _ _ (by decide)]
  · rw [port_startRetrain]
    refine ⟨rfl, rfl, rfl, rfl, rfl, ?_⟩
    rw [startRetrain_eq, posted.fld .xglPortStatus 32 16 p.val 0 rfl, State.setPortState, fld_setFld_beside _ _ _ _ _ (by decide), State.bump,
      fld_setFld_of_lt _ _ _ _ (by decide) (by rw [satAdd]; omega), satAdd, Nat.min_comm]
    rfl

theorem retrainBegun_onPort {s t : State} {p : Nat} (h : RetrainBegun s t p) {f : XPort → XPort}
    (hf : f (t.port p) = { t.port p with ctlOut := (f (t.port p)).ctlOut }) : RetrainBegun s (t.onPort p f) p := by
  obtain ⟨⟨frame, others⟩, state, rest⟩ := h
  refine ⟨((LinkFrame.mk frame others).onPort f).linkOnly, state, ?_⟩
  rw [port_onPort_self, hf]
  exact rest

/-- A retrain that this side starts: the partner is told. -/
theorem retrainBegun_sendCtl (s : State) (p : Sys2Proof.Port) : RetrainBegun s ((s.startRetrain p.val).sendCtl p.val .retrain) p.val ∧
    (((s.startRetrain p.val).sendCtl p.val .retrain).port p.val).ctlOut = (s.port p.val).ctlOut ++ [(.retrain, 3)] := by
  refine ⟨retrainBegun_onPort (retrainBegun_startRetrain s p) rfl, ?_⟩
  rw [State.sendCtl, port_onPort_self, port_startRetrain]
  rfl

/-- A state from which a retrain begins may differ in the CONTROL operations received. -/
theorem retrainBegun_of_onPort {s t : State} {p : Nat} {f : XPort → XPort} (hf : f (s.port p) = { s.port p with ctlIn := (f (s.port p)).ctlIn })
    (h : RetrainBegun (s.onPort p f) t p) : RetrainBegun s t p := by
  obtain ⟨⟨frame, others⟩, state, rest⟩ := h
  refine ⟨(((LinkFrame.refl p s).onPort f).trans ⟨frame, others⟩).linkOnly, state, ?_⟩
  rw [port_onPort_self, hf] at rest
  exact rest

/-! ### The retirement of lanes (R372) -/

/-- `t` differs from `s` in its registers, its event queues and what the ledger is to hold at most. -/
structure RetireFrame (s t : State) : Prop where
  frame : t = { s with regs := t.regs, evq := t.evq, evLost := t.evLost, keepQ := t.keepQ, heldRetire := t.heldRetire }

section
variable {s₀ s t : State}

theorem RetireFrame.refl (s : State) : RetireFrame s s := ⟨rfl⟩

theorem RetireFrame.trans (h : RetireFrame s₀ s) (h' : RetireFrame s t) : RetireFrame s₀ t := ⟨by rw [h'.frame, h.frame]⟩

theorem RetireFrame.events (h : RetireFrame s₀ s) (h' : EventsOnly s t) : RetireFrame s₀ t := h.trans ⟨by rw [h'.frame]⟩

theorem RetireFrame.foldl {α : Type} {l : List α} {f : State → α → State} (h : RetireFrame s₀ s)
    (hf : ∀ s a, RetireFrame s₀ s → RetireFrame s₀ (f s a)) : RetireFrame s₀ (l.foldl f s) :=
  List.foldlRecOn (motive := RetireFrame s₀) l f h fun s hs a _ => hf s a hs

theorem RetireFrame.ledgerRetire (h : RetireFrame s₀ s) (fields : Nat) (names : List Nat) : RetireFrame s₀ (s.ledgerRetire fields names) := by
  obtain same | ⟨w, x, queued⟩ | ⟨x, held⟩ := ledgerRetire_cases s fields names
  · rw [same]
    exact h
  · rw [queued]
    exact h.trans ⟨rfl⟩
  · rw [held]
    exact (h.trans ⟨rfl⟩).events ((EventsOnly.refl { s with heldRetire := s.heldRetire ++ [x] }).post ..)

theorem RetireFrame.retireLane (h : RetireFrame s₀ s) (p dir l : Nat) : RetireFrame s₀ (s.retireLane p dir l) :=
  ((h.events ((EventsOnly.refl s).setFld ..)).ledgerRetire ..).events ((EventsOnly.refl _).postLink ..)

theorem RetireFrame.port (h : RetireFrame s t) (q : Nat) : t.port q = s.port q := by rw [h.frame]; rfl

theorem SameRegs.ledgerRetire {K : Nat → Prop} (h : SameRegs K s₀ s) (fields : Nat) (names : List Nat)
    (posts : ¬ K (RegName.key .hifPenStat 0 0)) : SameRegs K s₀ (s.ledgerRetire fields names) := by
  obtain same | ⟨w, x, queued⟩ | ⟨x, held⟩ := ledgerRetire_cases s fields names
  · rw [same]
    exact h
  · rw [queued]
    exact h.of_regs rfl
  · rw [held]
    exact (h.of_regs (t := { s with heldRetire := s.heldRetire ++ [x] }) rfl).post _ _ _ _ posts

theorem SameRegs.retireLane {K : Nat → Prop} (h : SameRegs K s₀ s) (p dir l : Nat) (lanes : ¬ K (RegName.key .xglLanes 0 p))
    (posts : ∀ fn, fn ≤ 12 → ¬ K (RegName.key .hifPenStat 0 fn)) : SameRegs K s₀ (s.retireLane p dir l) :=
  ((h.setFld _ _ _ _ _ _ lanes).ledgerRetire _ _ (posts 0 (by decide))).postLink _ _ _ posts

end

/-- The keys of a port's registers but for its lanes, and of those that say which device this is. -/
abbrev LinkKey (p k : Nat) : Prop :=
  k = RegName.key .xglPortStatus 0 p ∨ k = RegName.key .xglDeviceId 0 0 ∨ k = RegName.key .devIdent 0 0

theorem not_linkKey_post (p : Sys2Proof.Port) (fn : Nat) (_ : fn ≤ 12) : ¬ LinkKey p.val (RegName.key .hifPenStat 0 fn) := by
  have := p.isLt
  show ¬ (0xC00200 + 8 * fn = 0x500100 + 8 * p.val ∨ 0xC00200 + 8 * fn = 0x500000 ∨ 0xC00200 + 8 * fn = 0x0)
  omega

theorem not_linkKey_lanes (p : Sys2Proof.Port) : ¬ LinkKey p.val (RegName.key .xglLanes 0 p.val) := by
  have := p.isLt
  show ¬ (0x500280 + 8 * p.val = 0x500100 + 8 * p.val ∨ 0x500280 + 8 * p.val = 0x500000 ∨ 0x500280 + 8 * p.val = 0x0)
  omega

theorem ownIdentity_of_same {s t : State} {p : Nat} (h : SameRegs (LinkKey p) s t) (q : Nat) : t.ownIdentity q = s.ownIdentity q := by
  rw [State.ownIdentity, h.fld .xglDeviceId 0 16 0 0 (.inr (.inl rfl)), h.fld .xglDeviceId 16 1 0 0 (.inr (.inl rfl)),
    h.fld .devIdent 0 16 0 0 (.inr (.inr rfl)), ← State.ownIdentity]

/-- Lanes of a direction retired one after another. -/
def State.retireLanes (s : State) (p dir : Nat) (ls : List Nat) : State := ls.foldl (fun s l => s.retireLane p dir l) s

theorem retireLanes_cons (s : State) (p dir l : Nat) (ls : List Nat) :
    State.retireLanes s p dir (l :: ls) = State.retireLanes (s.retireLane p dir l) p dir ls := by
  unfold State.retireLanes
  rw [List.foldl_cons]

theorem retireLanes_frame (s : State) (p dir : Nat) (ls : List Nat) : RetireFrame s (State.retireLanes s p dir ls) :=
  (RetireFrame.refl s).foldl fun _ _ h => h.retireLane ..

theorem sameRegs_retireLanes (s : State) (p : Sys2Proof.Port) (dir : Nat) (ls : List Nat) :
    SameRegs (LinkKey p.val) s (State.retireLanes s p.val dir ls) :=
  (SameRegs.refl s).foldl fun _ _ _ h => h.retireLane _ _ _ (not_linkKey_lanes p) (not_linkKey_post p)

theorem retiredLanes_of_same {p dir : Nat} {s t : State} (h : SameRegs (fun k => k = RegName.key .xglLanes 0 p) s t) :
    t.retiredLanes p dir = s.retiredLanes p dir := by
  rw [State.retiredLanes, h.fld .xglLanes _ _ p 0 rfl, ← State.retiredLanes]

theorem retiredLanes_retireLane (s : State) (p : Sys2Proof.Port) {dir : Nat} (l : Nat) (hd : dir < 2) :
    (s.retireLane p.val dir l).retiredLanes p.val dir = s.retiredLanes p.val dir ||| BitVec.ofNat 8 (2 ^ l) := by
  have posts (fn : Nat) (_ : fn ≤ 12) : ¬ RegName.key .hifPenStat 0 fn = RegName.key .xglLanes 0 p.val := by
    have := p.isLt
    show ¬ 0xC00200 + 8 * fn = 0x500280 + 8 * p.val
    omega
  have kept := ((SameRegs.refl (K := fun k => k = RegName.key .xglLanes 0 p.val) (s.setFld .xglLanes (8 * dir) 8 (s.retiredLanes p.val dir |||
    BitVec.ofNat 8 (2 ^ l)).toNat p.val)).ledgerRetire (laneEntry p.val dir l) [3, p.val, dir, l] (posts 0 (by decide))).postLink p.val 375 [ef dir, ef l] posts
  refine (retiredLanes_of_same kept).trans ?_
  rw [State.retiredLanes, fld_setFld_of_lt _ _ _ _ (by omega) (BitVec.isLt _), BitVec.ofNat_toNat, BitVec.setWidth_eq]

theorem retired_retireLane (s : State) (p : Sys2Proof.Port) {dir l : Nat} (hd : dir < 2) (hl : l < 8) :
    ((s.retireLane p.val dir l).retiredLanes p.val dir).getLsbD l = true := by
  rw [retiredLanes_retireLane s p l hd, BitVec.getLsbD_or, BitVec.getLsbD_ofNat, Nat.testBit_two_pow_self]
  simp [hl]

theorem retired_retireLane_of_retired {s : State} {p : Sys2Proof.Port} {dir k : Nat} (l : Nat) (hd : dir < 2)
    (h : (s.retiredLanes p.val dir).getLsbD k = true) : ((s.retireLane p.val dir l).retiredLanes p.val dir).getLsbD k = true := by
  rw [retiredLanes_retireLane s p l hd, BitVec.getLsbD_or, h, Bool.true_or]

theorem retired_retireLanes {p : Sys2Proof.Port} {dir k : Nat} {ls : List Nat} (hd : dir < 2) (hk : k < 8) (s : State)
    (h : k ∈ ls ∨ (s.retiredLanes p.val dir).getLsbD k = true) : ((State.retireLanes s p.val dir ls).retiredLanes p.val dir).getLsbD k = true := by
  induction ls generalizing s with
  | nil => exact h.resolve_left List.not_mem_nil
  | cons l ls ih =>
    rw [retireLanes_cons]
    refine ih (s.retireLane p.val dir l) ?_
    by_cases here : k = l
    · refine .inr ?_
      rw [here]
      exact retired_retireLane s p hd (here ▸ hk)
    · exact h.imp (fun h => (List.mem_cons.1 h).resolve_left here) (retired_retireLane_of_retired l hd)

/-! ### The end of a retrain (R352, R372) -/

theorem reportLanes_frame (s : State) (p : Nat) (good : BitVec 8) (fseq : Nat) : LinkFrame p s (s.reportLanes p good fseq) := by
  unfold State.reportLanes State.sendCtl
  exact (((LinkFrame.refl p s).onPort _).onPort _).onPort _

theorem portState_reportLanes (s : State) (p : Nat) (good : BitVec 8) (fseq q : Nat) : (s.reportLanes p good fseq).portState q = s.portState q := rfl

theorem retiredLanes_reportLanes (s : State) (p : Nat) (good : BitVec 8) (fseq q dir : Nat) :
    (s.reportLanes p good fseq).retiredLanes q dir = s.retiredLanes q dir := rfl

theorem port_reportLanes (s : State) (p : Nat) (good : BitVec 8) (fseq : Nat) : (s.reportLanes p good fseq).port p =
    { s.port p with locked := some good, ctlOut := (s.port p).ctlOut ++ reports s p good fseq } := by
  rw [State.reportLanes, State.sendCtl, port_onPort_self, State.sendCtl, port_onPort_self, port_onPort_self, List.append_assoc]
  rfl

theorem exec_retrainDone {s : State} {p : Sys2Proof.Port} (retrains : s.portState p.val = portRetraining) (waits : (s.port p.val).locked = none)
    (bad : BitVec 8) : exec (.retrainDone p bad) s = .next (((State.retireLanes s p.val 1 (maskLanes ((s.port p.val).rxGood &&& bad))).reportLanes
      p.val ((s.port p.val).rxGood &&& ~~~bad) (s.port p.val).rxExpect).finishRetrain p.val) := by
  simp only [exec, execRetrainDone, whenOk, retrains, waits, decide_true, Option.isNone_none, Bool.and_self, if_true]
  rfl

theorem finishRetrain_of_waiting {s : State} {p : Nat} (h : (s.port p).idIn = none ∨ (s.port p).lanesIn = none) : s.finishRetrain p = s := by
  unfold State.finishRetrain
  dsimp only
  split
  next hi hm =>
    obtain h | h := h
    · rw [h] at hi; cases hi
    · rw [h] at hm; cases hm
  next => rfl

theorem recordPartner_frame (s : State) (p : Nat) (i : LinkIdentity) : EventsOnly s (s.recordPartner p i) := by
  unfold State.recordPartner
  exact (((((EventsOnly.refl s).setFld ..).setFld ..).setFld ..).setFld ..).setReg ..

/-- What XGL_PARTNER and XGL_PARTNER_SN show of an identity. -/
theorem fld_recordPartner (s : State) (p : Sys2Proof.Port) (i : LinkIdentity) :
    (s.recordPartner p.val i).fld .xglPartner 0 16 p.val = i.devId.toNat ∧ (s.recordPartner p.val i).fld .xglPartner 24 16 p.val = i.part.toNat ∧
    (s.recordPartner p.val i).reg .xglPartnerSn p.val = i.serial := by
  have apart : RegName.key .xglPartner 0 p.val ≠ RegName.key .xglPartnerSn 0 p.val := by
    have := p.isLt
    show 0x500180 + 8 * p.val ≠ 0x500200 + 8 * p.val
    omega
  unfold State.recordPartner
  refine ⟨?_, ?_, State.reg_setReg_self ..⟩
  · rw [State.fld, State.reg_setReg_ne _ _ _ _ _ _ _ _ apart, ← State.fld, fld_setFld_beside _ _ _ _ _ (by decide),
      fld_setFld_beside _ _ _ _ _ (by decide), fld_setFld_beside _ _ _ _ _ (by decide), fld_setFld_of_lt _ _ _ _ (by decide) (BitVec.isLt _)]
  · rw [State.fld, State.reg_setReg_ne _ _ _ _ _ _ _ _ apart, ← State.fld, fld_setFld_of_lt _ _ _ _ (by decide) (BitVec.isLt _)]

theorem portState_recordPartner (s : State) (p : Sys2Proof.Port) (i : LinkIdentity) : (s.recordPartner p.val i).portState p.val = s.portState p.val := by
  have apart : RegName.key .xglPortStatus 0 p.val ≠ RegName.key .xglPartner 0 p.val := by
    have := p.isLt
    show 0x500100 + 8 * p.val ≠ 0x500180 + 8 * p.val
    omega
  have apart' : RegName.key .xglPortStatus 0 p.val ≠ RegName.key .xglPartnerSn 0 p.val := by
    have := p.isLt
    show 0x500100 + 8 * p.val ≠ 0x500200 + 8 * p.val
    omega
  unfold State.recordPartner
  simp only [State.portState]
  rw [State.fld, State.reg_setReg_ne _ _ _ _ _ _ _ _ apart', ← State.fld, fld_setFld_apart _ _ _ _ _ _ apart, fld_setFld_apart _ _ _ _ _ _ apart,
    fld_setFld_apart _ _ _ _ _ _ apart, fld_setFld_apart _ _ _ _ _ _ apart]

theorem fld_onPort (s : State) (p : Nat) (f : XPort → XPort) (n : RegName) (lo w ix fn : Nat) : (s.onPort p f).fld n lo w ix fn = s.fld n lo w ix fn :=
  rfl

/-- A port that resumes after a retrain. -/
def resumePort (x : XPort) : XPort := { x with resend := x.replay, nakDue := false, discarding := false, locked := none }

/-- A retrain that ends with every lane good, in both directions (R352). -/
theorem finishRetrain_of_good {s : State} {p : Nat} {rx m : BitVec 8} {i : LinkIdentity} (retrains : s.portState p = portRetraining)
    (locked : (s.port p).locked = some rx) (id : (s.port p).idIn = some i) (lanes : (s.port p).lanesIn = some m) (same : rx = (s.port p).rxGood)
    (good : (s.port p).txGood &&& ~~~m = 0#8) : s.finishRetrain p = ((s.setPortState p portUp).recordPartner p i).onPort p resumePort := by
  unfold State.finishRetrain
  simp only [locked, id, lanes]
  rw [if_neg (not_not.2 retrains), good, if_pos same, if_pos rfl]
  rfl

theorem maskLanes_zero : maskLanes 0#8 = [] := by decide

theorem mem_maskLanes {m : BitVec 8} {l : Nat} : l ∈ maskLanes m ↔ l < 8 ∧ m.getLsbD l = true := by
  simp [maskLanes]

theorem and_not_of_disjoint {x y : BitVec 8} (h : x &&& y = 0#8) : x &&& ~~~y = x := by
  refine BitVec.eq_of_getLsbD_eq fun k hk => ?_
  have bit : (x &&& y).getLsbD k = false := by rw [h, BitVec.getLsbD_zero]
  rw [BitVec.getLsbD_and] at bit ⊢
  rw [BitVec.getLsbD_not]
  cases hx : x.getLsbD k
  · rw [Bool.false_and]
  · rw [hx, Bool.true_and] at bit
    simp only [bit, hk, decide_true, Bool.not_false, Bool.and_self]

/-- The first part of the end of a retrain, when the partner's operations are not in yet: the lanes that failed are retired, the others reported. -/
theorem retrainDone_of_waiting {s : State} {p : Sys2Proof.Port} (retrains : s.portState p.val = portRetraining)
    (incomplete : (s.port p.val).idIn = none ∨ (s.port p.val).lanesIn = none) (bad : BitVec 8) {t : State}
    (ht : t = ((State.retireLanes s p.val 1 (maskLanes ((s.port p.val).rxGood &&& bad))).reportLanes
      p.val ((s.port p.val).rxGood &&& ~~~bad) (s.port p.val).rxExpect).finishRetrain p.val) :
    t.portState p.val = portRetraining ∧
    t.port p.val = { s.port p.val with
      locked := some ((s.port p.val).rxGood &&& ~~~bad)
      ctlOut := (s.port p.val).ctlOut ++ reports s p.val ((s.port p.val).rxGood &&& ~~~bad) (s.port p.val).rxExpect } ∧
    ((s.port p.val).rxGood &&& bad = 0#8 → LinkOnly s t p.val) ∧
    ∀ l, l < 8 → (s.port p.val).rxGood.getLsbD l = true → bad.getLsbD l = true → (t.retiredLanes p.val 1).getLsbD l = true := by
  have ports := (retireLanes_frame s p.val 1 (maskLanes ((s.port p.val).rxGood &&& bad))).port p.val
  have regs := sameRegs_retireLanes s p 1 (maskLanes ((s.port p.val).rxGood &&& bad))
  have still : (State.retireLanes s p.val 1 (maskLanes ((s.port p.val).rxGood &&& bad))).portState p.val = s.portState p.val :=
    regs.fld .xglPortStatus 0 4 p.val 0 (.inl rfl)
  rw [finishRetrain_of_waiting (by rw [port_reportLanes, ports]; exact incomplete)] at ht
  subst ht
  refine ⟨?_, ?_, ?_, ?_⟩
  · rw [portState_reportLanes, still, retrains]
  · rw [port_reportLanes, ports, reports, ownIdentity_of_same regs, reports]
  · intro good
    rw [good, maskLanes_zero]
    exact (reportLanes_frame s p.val _ _).linkOnly
  · intro l hl used failed
    rw [retiredLanes_reportLanes]
    refine retired_retireLanes (by decide) hl s (.inl (mem_maskLanes.2 ⟨hl, ?_⟩))
    rw [BitVec.getLsbD_and, used, failed, Bool.and_self]

/-- Settles O37. -/
theorem codewordsAndRetrains : Obligations.CodewordsAndRetrains := by
  unfold Obligations.CodewordsAndRetrains
  refine ⟨?_, fun _ _ _ hl hc hf => cwFields_cwPayload hl hc hf, ?_⟩
  · intro s p lane cw
    dsimp only
    intro arrives physical inUse calm
    have run := exec_codewordReceive arrives physical inUse calm cw
    refine ⟨?_, ?_, ?_, fun lost => takeCw_frame _ _ _ _ lost⟩
    · intro clean
      rw [run, if_neg (by omega), if_pos clean]
    · intro some few
      rw [run, if_neg (by omega), if_neg (by omega)]
    · intro many
      rw [run, if_pos many]
  · intro s p lane bad
    dsimp only
    refine ⟨?_, ?_, ?_, ?_, fun retrains waits => ⟨?_, ?_⟩⟩
    · intro runs many
      refine ⟨_, ?_, retrainBegun_sendCtl s p⟩
      simp only [exec, execLossOfLock, whenOk, runs, many, decide_true, Bool.and_self, if_true]
    · intro up spent
      refine ⟨_, ?_, retrainBegun_sendCtl s p⟩
      simp only [exec, execRetryBudgetExhausted, whenOk, up, spent, decide_true, Bool.and_self, if_true]
    · intro runs
      have runs' : (s.onPort p.val (fun x => { x with ctlIn := x.ctlIn.erase .retrain })).portRuns p.val = true := runs
      refine ⟨_, ?_, retrainBegun_of_onPort (f := fun x => { x with ctlIn := x.ctlIn.erase .retrain }) rfl (retrainBegun_startRetrain _ p), ?_⟩
      · simp only [exec, execRetrain, runs', if_true]
      · rw [port_startRetrain, port_onPort_self]
        rfl
    · intro stays
      have stays' : (s.onPort p.val (fun x => { x with ctlIn := x.ctlIn.erase .retrain })).portRuns p.val = false := stays
      simp only [exec, execRetrain, stays', Bool.false_eq_true, if_false]
      rfl
    · intro incomplete
      exact ⟨_, exec_retrainDone retrains waits bad, retrainDone_of_waiting retrains incomplete bad rfl⟩
    · intro i m good id lanes noneLeft
      refine ⟨_, exec_retrainDone retrains waits bad, ?_⟩
      rw [good, maskLanes_zero, and_not_of_disjoint good]
      have port := port_reportLanes s p.val (s.port p.val).rxGood (s.port p.val).rxExpect
      have done := finishRetrain_of_good (s := s.reportLanes p.val (s.port p.val).rxGood (s.port p.val).rxExpect) (p := p.val)
        (rx := (s.port p.val).rxGood) (m := m) (i := i) retrains (by rw [port]) (by rw [port]; exact id) (by rw [port]; exact lanes)
        (by rw [port]) (by rw [port]; exact noneLeft)
      rw [show State.retireLanes s p.val 1 [] = s from rfl, done]
      have events := ((EventsOnly.refl (s.reportLanes p.val (s.port p.val).rxGood (s.port p.val).rxExpect)).setPortState p.val portUp).trans
        (recordPartner_frame _ p.val i)
      refine ⟨(((reportLanes_frame s p.val _ _).events events).onPort _).linkOnly, ?_, ?_, ?_⟩
      · rw [portState_onPort, portState_recordPartner, portState_setPortState _ _ (by decide)]
      · rw [port_onPort_self, events.port, port]
        rfl
      · rw [fld_onPort]
        exact (fld_recordPartner _ p i).1

end Sys2Proof.Proofs
end

section
namespace Sys2Proof.Proofs

open Sys2Proof Sys2Proof.Machine Sys2Proof.Claims

/-! ### The windows of a lane (R371) -/

/-- A lane keeps its counts; it may become due. -/
def LaneKept (l m : Lane) : Prop := m = { l with due := m.due } ∧ (l.due = true → m.due = true)

theorem LaneKept.refl (l : Lane) : LaneKept l l := ⟨rfl, fun h => h⟩

theorem LaneKept.trans {l m n : Lane} (h : LaneKept l m) (h' : LaneKept m n) : LaneKept l n :=
  ⟨by rw [h'.1, h.1], fun due => h'.2 (h.2 due)⟩

theorem LaneKept.raise (l : Lane) : LaneKept l { l with due := true } := ⟨rfl, fun _ => rfl⟩

/-- A lane of a port made due. -/
def makeDue (x : XPort) (l : Nat) : XPort := x.onLane l fun y => { y with due := true }

theorem lane_makeDue (x : XPort) (l k : Nat) : LaneKept (x.lane k) ((makeDue x l).lane k) := by
  by_cases here : k = l
  · subst here
    rw [makeDue, lane_onLane_self]
    exact .raise _
  · rw [makeDue, lane_onLane_ne _ _ here]
    exact .refl _

/-- What the count of an event of a lane leaves: the injection, the lanes' counts, and the registers that `K` selects. -/
structure LaneCounted (K : Nat → Prop) (s t : State) : Prop where
  injection : t.injection = s.injection
  lane : ∀ q k, LaneKept ((s.port q).lane k) ((t.port q).lane k)
  regs : SameRegs K s t

section
variable {K : Nat → Prop} {s₀ s t : State}

theorem LaneCounted.refl (s : State) : LaneCounted K s s := ⟨rfl, fun _ _ => .refl _, .refl s⟩

theorem LaneCounted.trans (h : LaneCounted K s₀ s) (h' : LaneCounted K s t) : LaneCounted K s₀ t :=
  ⟨h'.injection.trans h.injection, fun q k => (h.lane q k).trans (h'.lane q k), h.regs.trans h'.regs⟩

theorem LaneCounted.of_ports (h : LaneCounted K s₀ s) (injection : t.injection = s.injection) (ports : t.ports = s.ports) (regs : SameRegs K s t) :
    LaneCounted K s₀ t := by
  have port (q : Nat) : t.port q = s.port q := by simp only [State.port, ports]
  exact h.trans ⟨injection, fun q k => by rw [port]; exact .refl _, regs⟩

theorem LaneCounted.events (h : LaneCounted K s₀ s) (h' : EventsOnly s t) (regs : SameRegs K s t) : LaneCounted K s₀ t :=
  h.of_ports (by rw [h'.frame]) h'.ports regs

theorem LaneCounted.setFld (h : LaneCounted K s₀ s) (n : RegName) (lo w v ix fn : Nat) (hk : ¬ K (n.key fn ix)) :
    LaneCounted K s₀ (s.setFld n lo w v ix fn) := h.events ((EventsOnly.refl s).setFld ..) ((SameRegs.refl s).setFld _ _ _ _ _ _ hk)

theorem LaneCounted.onPort (h : LaneCounted K s₀ s) (p : Nat) {f : XPort → XPort} (hf : ∀ k, LaneKept ((s.port p).lane k) ((f (s.port p)).lane k)) :
    LaneCounted K s₀ (s.onPort p f) := by
  refine h.trans ⟨rfl, fun q k => ?_, (SameRegs.refl s).onPort ..⟩
  by_cases here : q = p
  · rw [here, port_onPort_self]
    exact hf k
  · rw [port_onPort_ne _ _ here]
    exact .refl _

/-- The action of a lane's class makes its lane due (R528). -/
theorem LaneCounted.actNow (h : LaneCounted K s₀ s) (b : Nat) {c : Nat} (site : siteClass c = false) (lane : laneClass c = true) :
    LaneCounted K s₀ (s.actNow b c) := by
  unfold State.actNow
  rw [site, lane]
  simp only [Bool.false_eq_true, if_false, if_true]
  split
  next l _ => exact h.onPort b (f := fun x => makeDue x l) fun k => lane_makeDue _ _ k
  next => exact h

theorem LaneCounted.wxRise (h : LaneCounted K s₀ s) {b c : Nat} (site : siteClass c = false) (lane : laneClass c = true)
    (count : ¬ K (RegName.key .errWxCount 0 (wxKey b c))) (posts : ∀ fn, fn ≤ 12 → ¬ K (RegName.key .hifPenStat 0 fn)) :
    LaneCounted K s₀ (s.wxRise b c) := by
  refine List.foldlRecOn (motive := LaneCounted K s₀) _ _ h fun t ht lv _ => ?_
  have posted (pen code : Nat) (fs : List EvField) :
      LaneCounted K s₀ ((t.setFld .errWxCount 48 2 lv (wxKey b c)).postBoth pen code 0 fs) :=
    (ht.setFld .errWxCount 48 2 lv (wxKey b c) 0 count).events ((EventsOnly.refl _).postBoth ..) ((SameRegs.refl _).postBoth _ _ _ _ posts)
  dsimp only
  split
  · split
    · split
      · exact (posted ..).actNow b site lane
      · exact (posted _ _ _).of_ports rfl rfl ((SameRegs.refl _).of_regs rfl)
    · exact posted ..
  · exact ht

theorem LaneCounted.wxShow (h : LaneCounted K s₀ s) {b c : Nat} (count : ¬ K (RegName.key .errWxCount 0 (wxKey b c))) :
    LaneCounted K s₀ (s.wxShow b c) :=
  (h.setFld _ _ _ _ _ _ count).setFld _ _ _ _ _ _ count

theorem LaneCounted.countEvent (h : LaneCounted K s₀ s) {b c : Nat} (unit : Nat) (injected : Bool) (site : siteClass c = false)
    (lane : laneClass c = true) (count : ¬ K (RegName.key .errWxCount 0 (wxKey b c)))
    (posts : ∀ fn, fn ≤ 12 → ¬ K (RegName.key .hifPenStat 0 fn)) : LaneCounted K s₀ (s.countEvent b c unit injected) := by
  unfold State.countEvent
  dsimp only
  split
  · refine LaneCounted.wxShow ?_ count
    exact h.of_ports rfl rfl ((SameRegs.refl s).of_regs rfl)
  · refine LaneCounted.wxRise (LaneCounted.wxShow ?_ count) site lane count posts
    exact h.of_ports rfl rfl ((SameRegs.refl s).of_regs rfl)

end

/-- A lane whose window ends. -/
def endWindow (run : Nat) (due : Bool) (y : Lane) : Lane := { y with windowUe := 0, windowBits := 0, aboveRun := run, due := y.due || due }

/-- The windows above the threshold that a lane has then had in a row. -/
def State.runOf (s : State) (p : Nat) (above : List Nat) (l : Nat) : Nat :=
  if above.contains l then ((s.port p).lane l).aboveRun + 1 else 0

/-- A run that makes a lane due. -/
def runDue (need run : Nat) : Bool := decide (need ≠ 0) && decide (need ≤ run)

/-- A lane's window closed, its event not counted yet. -/
def State.closeLane (need p : Nat) (above : List Nat) (s : State) (l : Nat) : State :=
  s.onPort p (fun x => x.onLane l (endWindow (State.runOf s p above l) (runDue need (State.runOf s p above l))))

/-- The end of a lane's window (R371). -/
def State.judgeLane (need p : Nat) (above : List Nat) (s : State) (l : Nat) : State :=
  if runDue need (State.runOf s p above l) && !((s.port p).lane l).due then (State.closeLane need p above s l).countEvent p 15 l false
  else State.closeLane need p above s l

/-- The judged lanes of a window's end. -/
def judgedLanes (s : State) (p : Nat) (lanes : BitVec 8) : List Nat := maskLanes (lanes &&& BitVec.ofNat 8 (s.fld .xglPortStatus 24 8 p))

/-- Those of them that are above the threshold. -/
def aboveLanes (s : State) (p : Nat) (lanes : BitVec 8) : List Nat :=
  (judgedLanes s p lanes).filter (fun l => s.windowAbove ((s.port p).lane l))

/-- XGL_LANES shows which of the judged lanes are above the threshold. -/
def State.showAbove (s : State) (p : Nat) (lanes : BitVec 8) : State :=
  s.setFld .xglLanes 16 8 ((BitVec.ofNat 8 (s.fld .xglLanes 16 8 p) &&& ~~~lanes).toNat +
    (aboveLanes s p lanes).foldl (fun n l => n + 2 ^ l) 0) p

theorem judgeLane_calm (need p : Nat) (above : List Nat) (s : State) (l : Nat) : (State.judgeLane need p above s l).injection = s.injection := by
  have kept (t : State) : LaneCounted (fun _ => False) t (t.countEvent p 15 l false) :=
    (LaneCounted.refl t).countEvent l false rfl rfl not_false fun _ _ => not_false
  unfold State.judgeLane
  split
  · exact (kept _).injection
  · rfl

/-- The lambda of `execLaneWindowEnd`, without an injection. -/
theorem exec_laneWindowEnd {s : State} {p : Sys2Proof.Port} (up : s.portState p.val = portUp) (calm : s.injection = none) (lanes : BitVec 8) :
    exec (.laneWindowEnd p lanes) s = .next ((judgedLanes s p.val lanes).foldl
      (State.judgeLane (s.fld .xglPolicy 8 4) p.val (aboveLanes s p.val lanes)) (State.showAbove s p.val lanes)) := by
  have same (ls : List Nat) (need : Nat) (above : List Nat) : ∀ t : State, t.injection = none →
      ls.foldl (fun (s : State) l =>
        let f := s.fireInjection 15 p.val l
        let run := if above.contains l then ((s.port p.val).lane l).aboveRun + 1 else 0
        let due := (decide (need ≠ 0) && decide (need ≤ run))
        let was := ((s.port p.val).lane l).due
        let s := f.1.onPort p.val (fun x => x.onLane l (fun y => { y with windowUe := 0, windowBits := 0, aboveRun := run, due := y.due || due || f.2 }))
        if (due || f.2) && !was then s.countEvent p.val 15 l (f.2 && !due) else s) t = ls.foldl (State.judgeLane need p.val above) t := by
    induction ls with
    | nil => exact fun _ _ => rfl
    | cons l ls ih =>
      intro t ht
      rw [List.foldl_cons, List.foldl_cons, ← ih _ ((judgeLane_calm ..).trans ht)]
      refine congrArg (List.foldl _ · ls) ?_
      simp only [fireInjection_of_none ht, Bool.or_false, Bool.false_and]
      rfl
  simp only [exec, execLaneWindowEnd, up, ne_eq, not_true_eq_false, if_false]
  exact congrArg Host.Outcome.next (same _ _ _ _ calm)

/-! #### A window's end with no lane above -/

theorem judgeLane_of_none {s : State} {need p : Nat} (l : Nat) : State.judgeLane need p [] s l =
    s.onPort p (fun x => x.onLane l fun y => { y with windowUe := 0, windowBits := 0, aboveRun := 0 }) := by
  have idle : runDue need (State.runOf s p [] l) = false := by
    show (decide (need ≠ 0) && decide (need ≤ 0)) = false
    by_cases h : need = 0 <;> simp [h]
  unfold State.judgeLane State.closeLane
  rw [idle, Bool.false_and, if_neg Bool.false_ne_true]
  congr 1
  funext x
  rw [show State.runOf s p [] l = 0 from rfl]
  congr 1
  funext y
  rw [endWindow, Bool.or_false]

/-- The windows of some lanes ended, none above. -/
def State.closeWindows (s : State) (p : Nat) (ls : List Nat) : State :=
  ls.foldl (fun s l => s.onPort p (fun x => x.onLane l fun y => { y with windowUe := 0, windowBits := 0, aboveRun := 0 })) s

theorem closeWindows_frame (s : State) (p : Nat) (ls : List Nat) : LinkFrame p s (State.closeWindows s p ls) :=
  (LinkFrame.refl p s).foldl fun _ _ h => h.onPort _

theorem regs_closeWindows (s : State) (p : Nat) (ls : List Nat) : (State.closeWindows s p ls).regs = s.regs :=
  List.foldlRecOn (motive := fun t : State => t.regs = s.regs) ls _ rfl fun _ ht _ _ => ht

theorem fld_closeWindows (s : State) (p : Nat) (ls : List Nat) (n : RegName) (lo w ix fn : Nat) :
    (State.closeWindows s p ls).fld n lo w ix fn = s.fld n lo w ix fn := fld_of_regs (regs_closeWindows s p ls) n lo w ix fn

theorem lane_closeWindows (s : State) (p : Nat) (ls : List Nat) (k : Nat) : ((State.closeWindows s p ls).port p).lane k =
    if k ∈ ls then { (s.port p).lane k with windowUe := 0, windowBits := 0, aboveRun := 0 } else (s.port p).lane k := by
  unfold State.closeWindows
  induction ls generalizing s with
  | nil => rfl
  | cons l ls ih =>
    rw [List.foldl_cons, ih, port_onPort_self]
    by_cases here : k = l
    · subst here
      rw [lane_onLane_self, if_pos List.mem_cons_self]
      split <;> rfl
    · rw [lane_onLane_ne _ _ here]
      simp only [List.mem_cons, here, false_or]

/-! #### A window's end with a lane above -/

/-- The lane after its window above the threshold. -/
structure WindowAbove (need run : Nat) (l : Lane) : Prop where
  counted : l.aboveRun = run
  errors : l.windowUe = 0
  bits : l.windowBits = 0
  due : need ≠ 0 → need ≤ run → l.due = true

theorem WindowAbove.kept {need run : Nat} {l m : Lane} (h : WindowAbove need run l) (k : LaneKept l m) : WindowAbove need run m := by
  obtain ⟨same, due⟩ := k
  rw [same]
  exact ⟨h.counted, h.errors, h.bits, fun some reached => due (h.due some reached)⟩

/-- The key of a port's lanes. -/
abbrev LanesKey (p k : Nat) : Prop := k = RegName.key .xglLanes 0 p

theorem not_lanesKey_post (p : Sys2Proof.Port) (fn : Nat) (_ : fn ≤ 12) : ¬ LanesKey p.val (RegName.key .hifPenStat 0 fn) := by
  have := p.isLt
  show ¬ 0xC00200 + 8 * fn = 0x500280 + 8 * p.val
  omega

theorem not_lanesKey_count (p : Sys2Proof.Port) (c : Nat) : ¬ LanesKey p.val (RegName.key .errWxCount 0 (wxKey p.val c)) := by
  have := p.isLt
  show ¬ 0x801000 + 8 * (32 * p.val + c) = 0x500280 + 8 * p.val
  omega

section
variable {need : Nat} {above : List Nat} {p : Sys2Proof.Port}

theorem judgeLane_counted (s : State) (l : Nat) :
    LaneCounted (LanesKey p.val) (State.closeLane need p.val above s l) (State.judgeLane need p.val above s l) := by
  unfold State.judgeLane
  split
  · exact (LaneCounted.refl _).countEvent l false rfl rfl (not_lanesKey_count p 15) (not_lanesKey_post p)
  · exact .refl _

theorem judgeLane_other (s : State) {l k : Nat} (h : k ≠ l) :
    LaneKept ((s.port p.val).lane k) (((State.judgeLane need p.val above s l).port p.val).lane k) := by
  refine LaneKept.trans ?_ ((judgeLane_counted s l).lane p.val k)
  rw [State.closeLane, port_onPort_self, lane_onLane_ne _ _ h]
  exact .refl _

theorem judgeLane_above (s : State) {l : Nat} (h : l ∈ above) :
    WindowAbove need (((s.port p.val).lane l).aboveRun + 1) (((State.judgeLane need p.val above s l).port p.val).lane l) := by
  refine WindowAbove.kept ?_ ((judgeLane_counted s l).lane p.val l)
  have run : State.runOf s p.val above l = ((s.port p.val).lane l).aboveRun + 1 := if_pos (List.contains_iff_mem.2 h)
  rw [State.closeLane, port_onPort_self, lane_onLane_self, run]
  refine ⟨rfl, rfl, rfl, fun some reached => ?_⟩
  show (((s.port p.val).lane l).due || runDue need _) = true
  rw [runDue, decide_eq_true some, decide_eq_true reached, Bool.and_self, Bool.or_true]

theorem judgeLanes_other {ls : List Nat} {k : Nat} (h : k ∉ ls) (s : State) :
    LaneKept ((s.port p.val).lane k) (((ls.foldl (State.judgeLane need p.val above) s).port p.val).lane k) :=
  List.foldlRecOn (motive := fun t : State => LaneKept ((s.port p.val).lane k) ((t.port p.val).lane k)) ls _ (.refl _) fun t ht l hl =>
    ht.trans (judgeLane_other t fun (e : k = l) => h (e ▸ hl))

theorem judgeLanes_above {ls : List Nat} (nodup : ls.Nodup) {l : Nat} (here : l ∈ ls) (high : l ∈ above) (s : State) :
    WindowAbove need (((s.port p.val).lane l).aboveRun + 1) (((ls.foldl (State.judgeLane need p.val above) s).port p.val).lane l) := by
  obtain ⟨before, after, rfl⟩ := List.append_of_mem here
  have apart := List.nodup_append.1 nodup
  have notBefore : l ∉ before := fun h => apart.2.2 l h l List.mem_cons_self rfl
  have notAfter : l ∉ after := (List.nodup_cons.1 apart.2.1).1
  rw [List.foldl_append, List.foldl_cons]
  have earlier := judgeLanes_other (need := need) (above := above) (p := p) notBefore s
  generalize before.foldl (State.judgeLane need p.val above) s = t at earlier ⊢
  have now := judgeLane_above (need := need) (above := above) (p := p) t high
  rw [earlier.1] at now
  exact now.kept (judgeLanes_other notAfter _)

theorem regs_judgeLanes (ls : List Nat) (s : State) : SameRegs (LanesKey p.val) s (ls.foldl (State.judgeLane need p.val above) s) :=
  (SameRegs.refl s).foldl fun t l _ ht => (ht.trans ((SameRegs.refl t).onPort p.val _)).trans (judgeLane_counted t l).regs

end

theorem nodup_maskLanes (m : BitVec 8) : (maskLanes m).Nodup := List.nodup_range.filter _

theorem testBit_add_two_pow {n l : Nat} (free : n.testBit l = false) (k : Nat) : (n + 2 ^ l).testBit k = (n.testBit k || decide (k = l)) := by
  obtain lt | rfl | gt := Nat.lt_trichotomy k l
  · rw [Nat.add_comm, Nat.testBit_two_pow_add_gt lt, decide_eq_false (by omega), Bool.or_false]
  · rw [Nat.add_comm, Nat.testBit_two_pow_add_eq, free]
    simp
  · have even : n / 2 ^ l % 2 = 0 := by
      rw [Nat.testBit_eq_decide_div_mod_eq] at free
      have := of_decide_eq_false free
      omega
    have next : (n + 2 ^ l) / 2 ^ (l + 1) = n / 2 ^ (l + 1) := by
      rw [Nat.pow_succ, ← Nat.div_div_eq_div_mul, ← Nat.div_div_eq_div_mul, Nat.add_div_right _ (Nat.two_pow_pos l)]
      omega
    have high (x : Nat) : x.testBit k = (x / 2 ^ (l + 1)).testBit (k - (l + 1)) := by
      rw [Nat.testBit_div_two_pow]
      congr 1
      omega
    rw [high, next, ← high, decide_eq_false (by omega), Bool.or_false]

theorem foldl_add_eq (n : Nat) (ls : List Nat) : n + ls.foldl (fun n l => n + 2 ^ l) 0 = ls.foldl (fun n l => n + 2 ^ l) n := by
  induction ls generalizing n with
  | nil => rfl
  | cons l ls ih => rw [List.foldl_cons, List.foldl_cons, ← ih, ← ih (n + 2 ^ l)]; omega

/-- Powers of two added to a number that has none of them. -/
theorem testBit_foldl_add {ls : List Nat} (nodup : ls.Nodup) {n : Nat} (free : ∀ l ∈ ls, n.testBit l = false) (k : Nat) :
    (ls.foldl (fun n l => n + 2 ^ l) n).testBit k = (n.testBit k || decide (k ∈ ls)) := by
  induction ls generalizing n with
  | nil => simp
  | cons l ls ih =>
    obtain ⟨fresh, rest⟩ := List.nodup_cons.1 nodup
    have here := free l List.mem_cons_self
    rw [List.foldl_cons, ih rest fun m hm => ?_, testBit_add_two_pow here, Bool.or_assoc]
    · simp only [List.mem_cons, Bool.decide_or]
    · rw [testBit_add_two_pow here, free m (List.mem_cons_of_mem l hm), decide_eq_false fun (e : m = l) => fresh (e ▸ hm)]
      rfl

theorem mem_judgedLanes {s : State} {p l : Nat} {lanes : BitVec 8} :
    l ∈ judgedLanes s p lanes ↔ l < 8 ∧ lanes.getLsbD l = true ∧ (BitVec.ofNat 8 (s.fld .xglPortStatus 24 8 p)).getLsbD l = true := by
  rw [judgedLanes, mem_maskLanes, BitVec.getLsbD_and, Bool.and_eq_true]

theorem nodup_aboveLanes (s : State) (p : Nat) (lanes : BitVec 8) : (aboveLanes s p lanes).Nodup := (nodup_maskLanes _).filter _

theorem port_showAbove (s : State) (p : Nat) (lanes : BitVec 8) (q : Nat) : (State.showAbove s p lanes).port q = s.port q := rfl

theorem fld_showAbove {s : State} {p l : Nat} {lanes : BitVec 8} (h : l ∈ aboveLanes s p lanes) :
    (State.showAbove s p lanes).fld .xglLanes (16 + l) 1 p = 1 := by
  have judged {m : Nat} (hm : m ∈ aboveLanes s p lanes) := mem_judgedLanes.1 (List.mem_of_mem_filter hm)
  have free : ∀ m ∈ aboveLanes s p lanes, (BitVec.ofNat 8 (s.fld .xglLanes 16 8 p) &&& ~~~lanes).toNat.testBit m = false := by
    intro m hm
    rw [BitVec.testBit_toNat, BitVec.getLsbD_and, BitVec.getLsbD_not, (judged hm).2.1]
    simp
  have low := (judged h).1
  have bit := testBit_foldl_add (nodup_aboveLanes s p lanes) free l
  rw [decide_eq_true h, Bool.or_true, Nat.testBit_eq_decide_div_mod_eq, decide_eq_true_iff] at bit
  rw [State.showAbove, foldl_add_eq, fld_setFld_within _ _ _ _ _ (by decide) (by omega) (by omega), show 16 + l - 16 = l by omega]
  exact bit

section
variable {s : State} {p : Sys2Proof.Port} (up : s.portState p.val = portUp) (calm : s.injection = none)
include up calm

theorem laneWindowEnd_of_none_above {good : BitVec 8} (quiet : aboveLanes s p.val good = []) : exec (.laneWindowEnd p good) s =
    .next (State.closeWindows (State.showAbove s p.val good) p.val (judgedLanes s p.val good)) := by
  rw [exec_laneWindowEnd up calm good, quiet, State.closeWindows]
  refine congrArg Host.Outcome.next ?_
  congr 1
  funext t l
  exact judgeLane_of_none l

theorem laneWindowEnd_of_above {good : BitVec 8} {lane : Nat} (counted : lane ∈ aboveLanes s p.val good) :
    ∃ t, exec (.laneWindowEnd p good) s = .next t ∧ t.fld .xglLanes (16 + lane) 1 p.val = 1 ∧
      WindowAbove (s.fld .xglPolicy 8 4) (((s.port p.val).lane lane).aboveRun + 1) ((t.port p.val).lane lane) := by
  have done := judgeLanes_above (need := s.fld .xglPolicy 8 4) (p := p) (nodup_maskLanes _) (List.mem_of_mem_filter counted) counted
    (State.showAbove s p.val good)
  rw [port_showAbove] at done
  refine ⟨_, exec_laneWindowEnd up calm good, ?_, done⟩
  rw [(regs_judgeLanes _ _).fld .xglLanes _ _ p.val 0 rfl, fld_showAbove counted]

end

theorem aboveLanes_eq_nil {s : State} {p : Nat} {good : BitVec 8}
    (none : ∀ l, l < 8 → (BitVec.ofNat 8 (s.fld .xglPortStatus 24 8 p)).getLsbD l = true → good.getLsbD l = true →
      s.windowAbove ((s.port p).lane l) = false) : aboveLanes s p good = [] := by
  rw [aboveLanes, List.filter_eq_nil_iff]
  intro l hl
  obtain ⟨low, named, used⟩ := mem_judgedLanes.1 hl
  rw [none l low used named]
  exact Bool.false_ne_true

theorem closeWindows_effect {s : State} (p : Sys2Proof.Port) {good : BitVec 8} (quiet : aboveLanes s p.val good = []) {t : State}
    (ht : t = State.closeWindows (State.showAbove s p.val good) p.val (judgedLanes s p.val good) := by rfl) :
    LinkOnly s t p.val ∧ t.fld .xglLanes 16 8 p.val = (BitVec.ofNat 8 (s.fld .xglLanes 16 8 p.val) &&& ~~~good).toNat ∧
    ∀ l, l < 8 → (t.port p.val).lane l =
      if (BitVec.ofNat 8 (s.fld .xglPortStatus 24 8 p.val)).getLsbD l && good.getLsbD l then
        { (s.port p.val).lane l with windowUe := 0, windowBits := 0, aboveRun := 0 }
      else (s.port p.val).lane l := by
  subst ht
  refine ⟨?_, ?_, ?_⟩
  · exact (((LinkFrame.refl p.val s).events ((EventsOnly.refl s).setFld ..)).trans (closeWindows_frame _ _ _)).linkOnly
  · rw [fld_closeWindows, State.showAbove, quiet, List.foldl_nil, Nat.add_zero, fld_setFld_of_lt _ _ _ _ (by decide) (BitVec.isLt _)]
  · intro l hl
    rw [lane_closeWindows, port_showAbove]
    by_cases named : l ∈ judgedLanes s p.val good
    · obtain ⟨low, bit, used⟩ := mem_judgedLanes.1 named
      rw [if_pos named, used, bit, Bool.and_self, if_pos rfl]
    · rw [if_neg named, if_neg]
      rw [Bool.and_eq_true]
      exact fun both => named (mem_judgedLanes.2 ⟨hl, both.2, both.1⟩)

/-! ### The CONTROL operations of a partner (R350, R374) -/

theorem portDeaf_of_runs {s : State} {p : Nat} (h : s.portRuns p = true) : s.portDeaf p = false := by
  unfold State.portRuns at h
  unfold State.portDeaf
  generalize s.portState p = st at h ⊢
  rw [Bool.or_eq_true, decide_eq_true_iff, decide_eq_true_iff] at h
  obtain rfl | rfl := h <;> rfl

theorem finishTraining_of_unlocked {s : State} {p : Nat} (h : (s.port p).locked = none) : s.finishTraining p = s := by
  unfold State.finishTraining
  simp only [h]

theorem finishRetrain_of_unlocked {s : State} {p : Nat} (h : (s.port p).locked = none) : s.finishRetrain p = s := by
  unfold State.finishRetrain
  simp only [h]

/-- A port that has taken a partner's IDENTITY. -/
def takeIdentity (i : LinkIdentity) (x : XPort) : XPort := { x with ctlIn := x.ctlIn.erase (.identity i), idIn := some i }

/-- A port that has taken a partner's LANES. -/
def takeLanes (good : BitVec 8) (fseq : BitVec 32) (x : XPort) : XPort :=
  { x with ctlIn := x.ctlIn.erase (.lanes good fseq), lanesIn := some good }

section
variable {s : State} {p : Sys2Proof.Port} {i : LinkIdentity} {good : BitVec 8} {fseq : BitVec 32}

theorem exec_identity_of_runs (runs : s.portRuns p.val = true) :
    exec (.identity p i) s = .next ((s.onPort p.val (takeIdentity i)).recordPartner p.val i) := by
  simp only [exec, execIdentity, whenOk, portDeaf_of_runs runs, runs, Bool.not_false, if_true]
  rfl

theorem exec_identity_of_rests (hears : s.portDeaf p.val = false) (rests : s.portRuns p.val = false) :
    exec (.identity p i) s = .next (((s.onPort p.val (takeIdentity i)).finishTraining p.val).finishRetrain p.val) := by
  simp only [exec, execIdentity, whenOk, hears, rests, Bool.not_false, if_true, Bool.false_eq_true, if_false]
  rfl

theorem exec_lanes_of_rests (hears : s.portDeaf p.val = false) (rests : s.portRuns p.val = false) :
    exec (.lanes p good fseq) s = .next (((s.onPort p.val (takeLanes good fseq)).finishTraining p.val).finishRetrain p.val) := by
  simp only [exec, execLanes, whenOk, hears, rests, Bool.not_false, if_true, Bool.false_eq_true, if_false]
  rfl

/-- A port that narrows its transmit direction from a flit on. -/
def narrowFrom (good : BitVec 8) (fseq : BitVec 32) (x : XPort) : XPort := { x with widthFrom := some (fseq.toNat, x.txGood &&& good) }

theorem exec_lanes_of_runs (runs : s.portRuns p.val = true) : exec (.lanes p good fseq) s =
    .next (((s.onPort p.val (takeLanes good fseq)).onPort p.val (narrowFrom good fseq)).txWidthDue p.val) := by
  simp only [exec, execLanes, whenOk, portDeaf_of_runs runs, runs, Bool.not_false, if_true]
  rfl

end

theorem txWidthDue_of_due {s : State} {p f : Nat} {g : BitVec 8} (h : (s.port p).widthFrom = some (f, g))
    (due : ((s.port p).txSeq + 2 ^ 32 - f) % 2 ^ 32 < 2 ^ 31) :
    s.txWidthDue p = (s.onPort p (fun x => { x with widthFrom := none })).changeWidth p 0 g := by
  unfold State.txWidthDue
  simp only [h]
  exact if_pos due

theorem txWidthDue_of_later {s : State} {p f : Nat} {g : BitVec 8} (h : (s.port p).widthFrom = some (f, g))
    (later : 2 ^ 31 ≤ ((s.port p).txSeq + 2 ^ 32 - f) % 2 ^ 32) : s.txWidthDue p = s := by
  unfold State.txWidthDue
  simp only [h]
  exact if_neg (Nat.not_lt.2 later)

/-! ### The retirement of a receive lane (R372) -/

/-- A port that leaves a receive lane out. -/
def dropLane (lane : Nat) (x : XPort) : XPort :=
  { (x.onLane lane (fun l => { l with due := false, aboveRun := 0 })) with
    rxWidthFrom := some ((x.rxExpect + 512) % 2 ^ 32, x.rxGood &&& ~~~(BitVec.ofNat 8 (2 ^ lane)))
    rxGood := x.rxGood &&& ~~~(BitVec.ofNat 8 (2 ^ lane)) }

/-- A receive lane retired, the port without it, and the partner told. -/
def State.leaveLane (s : State) (p lane : Nat) (x : XPort) : State :=
  ((s.retireLane p 1 lane).onPort p (fun y => { dropLane lane y with
      rxWidthFrom := some ((x.rxExpect + 512) % 2 ^ 32, x.rxGood &&& ~~~(BitVec.ofNat 8 (2 ^ lane)))
      rxGood := x.rxGood &&& ~~~(BitVec.ofNat 8 (2 ^ lane)) })).sendCtl p
    (.lanes (x.rxGood &&& ~~~(BitVec.ofNat 8 (2 ^ lane))) (BitVec.ofNat 32 ((x.rxExpect + 512) % 2 ^ 32)))

theorem exec_laneRetire_of_due {s : State} {p : Sys2Proof.Port} {lane : Nat} (low : lane < 8) (up : s.portState p.val = portUp)
    (due : ((s.port p.val).lane lane).due = true) (moment : s.laneMoment p.val = true) :
    exec (.laneRetire p false lane) s = .next (State.leaveLane s p.val lane (s.port p.val)) := by
  simp only [exec, execLaneRetire, up, due, moment, Nat.not_le.2 low, ne_eq, not_true_eq_false, or_self, if_false, Bool.false_eq_true,
    Bool.and_self, Bool.not_true]
  rfl

theorem retiredLanes_onPort (s : State) (q : Nat) (f : XPort → XPort) (p dir : Nat) : (s.onPort q f).retiredLanes p dir = s.retiredLanes p dir := rfl

theorem port_leaveLane (s : State) (p lane : Nat) : (State.leaveLane s p lane (s.port p)).port p =
    { dropLane lane (s.port p) with
      ctlOut := (s.port p).ctlOut ++ [(.lanes ((s.port p).rxGood &&& ~~~(BitVec.ofNat 8 (2 ^ lane)))
        (BitVec.ofNat 32 (((s.port p).rxExpect + 512) % 2 ^ 32)), 3)] } := by
  rw [State.leaveLane, State.sendCtl, port_onPort_self, port_onPort_self, ((RetireFrame.refl s).retireLane p 1 lane).port]
  rfl

theorem leaveLane_effect (s : State) (p : Sys2Proof.Port) {lane : Nat} (low : lane < 8) {t : State}
    (ht : t = State.leaveLane s p.val lane (s.port p.val) := by rfl) :
    (t.port p.val).rxGood = (s.port p.val).rxGood &&& ~~~(BitVec.ofNat 8 (2 ^ lane)) ∧
    (t.port p.val).rxWidthFrom = some (((s.port p.val).rxExpect + 512) % 2 ^ 32, (s.port p.val).rxGood &&& ~~~(BitVec.ofNat 8 (2 ^ lane))) ∧
    (t.port p.val).ctlOut = (s.port p.val).ctlOut ++ [(.lanes ((s.port p.val).rxGood &&& ~~~(BitVec.ofNat 8 (2 ^ lane)))
      (BitVec.ofNat 32 (((s.port p.val).rxExpect + 512) % 2 ^ 32)), 3)] ∧
    ((t.port p.val).lane lane).due = false ∧ (t.retiredLanes p.val 1).getLsbD lane = true := by
  subst ht
  rw [port_leaveLane]
  refine ⟨rfl, rfl, rfl, ?_, ?_⟩
  · exact congrArg Lane.due (lane_onLane_self (s.port p.val) lane fun l => { l with due := false, aboveRun := 0 })
  · rw [State.leaveLane, State.sendCtl, retiredLanes_onPort, retiredLanes_onPort]
    exact retired_retireLane s p (by decide) low

/-- Settles O38. -/
theorem identityLanesAndRetirement : Obligations.IdentityLanesAndRetirement := by
  unfold Obligations.IdentityLanesAndRetirement
  intro s p lane i good fseq
  dsimp only
  refine ⟨?_, ?_, ?_, ?_, ?_, ?_, ?_, ?_⟩
  · intro deaf
    simp only [exec, execIdentity, execLanes, whenOk, deaf, Bool.not_true, Bool.false_eq_true, if_false, and_self]
  · intro runs
    have recorded := recordPartner_frame (s.onPort p.val (takeIdentity i)) p.val i
    refine ⟨_, exec_identity_of_runs runs, (((LinkFrame.refl p.val s).onPort _).events recorded).linkOnly, ?_, fld_recordPartner _ p i⟩
    rw [recorded.port, port_onPort_self]
    rfl
  · intro hears rests waits
    rw [exec_identity_of_rests hears rests, exec_lanes_of_rests hears rests]
    have waitsI : ((s.onPort p.val (takeIdentity i)).port p.val).locked = none := by rw [port_onPort_self]; exact waits
    have waitsL : ((s.onPort p.val (takeLanes good fseq)).port p.val).locked = none := by rw [port_onPort_self]; exact waits
    rw [finishTraining_of_unlocked waitsI, finishRetrain_of_unlocked waitsI, finishTraining_of_unlocked waitsL, finishRetrain_of_unlocked waitsL]
    exact ⟨rfl, rfl⟩
  · intro runs
    have port : ((s.onPort p.val (takeLanes good fseq)).onPort p.val (narrowFrom good fseq)).port p.val =
        narrowFrom good fseq (takeLanes good fseq (s.port p.val)) := by rw [port_onPort_self, port_onPort_self]
    have narrows : (((s.onPort p.val (takeLanes good fseq)).onPort p.val (narrowFrom good fseq)).port p.val).widthFrom =
        some (fseq.toNat, (s.port p.val).txGood &&& good) := by rw [port]; rfl
    have seq : (((s.onPort p.val (takeLanes good fseq)).onPort p.val (narrowFrom good fseq)).port p.val).txSeq = (s.port p.val).txSeq := by
      rw [port]; rfl
    have frame := ((LinkFrame.refl p.val s).onPort (takeLanes good fseq)).onPort (narrowFrom good fseq)
    rw [exec_lanes_of_runs runs]
    generalize hu : (s.onPort p.val (takeLanes good fseq)).onPort p.val (narrowFrom good fseq) = u at port narrows seq frame
    have regs : u.regs = s.regs := by rw [← hu]; rfl
    constructor
    · intro due
      refine ⟨u.onPort p.val (fun x => { x with widthFrom := none }), (frame.onPort _).linkOnly, regs, ?_,
        congrArg Host.Outcome.next (txWidthDue_of_due narrows (seq ▸ due))⟩
      rw [port_onPort_self, port]
      rfl
    · intro later
      refine ⟨u, congrArg Host.Outcome.next (txWidthDue_of_later narrows (seq ▸ later)), frame.linkOnly, regs, ?_⟩
      rw [port]
      rfl
  · intro l
    simp only [State.windowAbove, Bool.or_eq_true, Bool.and_eq_true, decide_eq_true_iff]
  · intro up calm
    refine ⟨?_, ?_⟩
    · intro none
      exact ⟨_, laneWindowEnd_of_none_above up calm (aboveLanes_eq_nil none), closeWindows_effect p (aboveLanes_eq_nil none)⟩
    · intro low used named high
      obtain ⟨t, run, shown, done⟩ := laneWindowEnd_of_above up calm
        (List.mem_filter.2 ⟨mem_judgedLanes.2 ⟨low, named, used⟩, high⟩ : lane ∈ aboveLanes s p.val good)
      exact ⟨t, run, shown, done.counted, done.errors, done.bits, done.due⟩
  · intro low up due moment
    exact ⟨_, exec_laneRetire_of_due low up due moment, leaveLane_effect s p low⟩
  · intro m low up lanes out fresh
    refine ⟨?_, retired_retireLane s p (by decide) low⟩
    simp only [exec, execLaneRetire, up, lanes, out, fresh, Nat.not_le.2 low, ne_eq, not_true_eq_false, or_self, if_false, Bool.not_false,
      Bool.and_self, whenOk, if_true]

end Sys2Proof.Proofs
end

section
namespace Sys2Proof.Proofs

open Sys2Proof Sys2Proof.Machine Sys2Proof.Claims

/-! ### What the registers of a port show as it goes DOWN, comes UP or records a partner -/

/-- The keys below those of the functions' event counts. -/
abbrev Low (k : Nat) : Prop := k < 0xC00200

theorem not_low_post (fn : Nat) (_ : fn ≤ 12) : ¬ Low (RegName.key .hifPenStat 0 fn) := by
  show ¬ 0xC00200 + 8 * fn < 0xC00200
  omega

theorem low_portStatus (p : Sys2Proof.Port) : Low (RegName.key .xglPortStatus 0 p.val) := by
  show 0x500100 + 8 * p.val < 0xC00200
  omega

theorem low_partner (p : Sys2Proof.Port) : Low (RegName.key .xglPartner 0 p.val) := by
  show 0x500180 + 8 * p.val < 0xC00200
  omega

theorem low_partnerSn (p : Sys2Proof.Port) : Low (RegName.key .xglPartnerSn 0 p.val) := by
  show 0x500200 + 8 * p.val < 0xC00200
  omega

theorem low_lanes (p : Sys2Proof.Port) : Low (RegName.key .xglLanes 0 p.val) := by
  show 0x500280 + 8 * p.val < 0xC00200
  omega

theorem sameRegs_postLink (s : State) (p code : Nat) (fs : List EvField) : SameRegs Low s (s.postLink p code fs) :=
  (SameRegs.refl s).postLink p code fs not_low_post

theorem partner_ne_status (p : Sys2Proof.Port) (q : Sys2Proof.Port) : RegName.key .xglPartner 0 p.val ≠ RegName.key .xglPortStatus 0 q.val := by
  have := p.isLt
  have := q.isLt
  show 0x500180 + 8 * p.val ≠ 0x500100 + 8 * q.val
  omega

theorem partnerSn_ne_status (p : Sys2Proof.Port) (q : Sys2Proof.Port) : RegName.key .xglPartnerSn 0 p.val ≠ RegName.key .xglPortStatus 0 q.val := by
  have := p.isLt
  have := q.isLt
  show 0x500200 + 8 * p.val ≠ 0x500100 + 8 * q.val
  omega

theorem partnerSn_ne_partner (p : Sys2Proof.Port) : RegName.key .xglPartnerSn 0 p.val ≠ RegName.key .xglPartner 0 p.val := by
  have := p.isLt
  show 0x500200 + 8 * p.val ≠ 0x500180 + 8 * p.val
  omega

theorem lanes_ne_status (p : Sys2Proof.Port) (q : Sys2Proof.Port) : RegName.key .xglLanes 0 p.val ≠ RegName.key .xglPortStatus 0 q.val := by
  have := p.isLt
  have := q.isLt
  show 0x500280 + 8 * p.val ≠ 0x500100 + 8 * q.val
  omega

theorem lanes_ne_partner (p : Sys2Proof.Port) : RegName.key .xglLanes 0 p.val ≠ RegName.key .xglPartner 0 p.val := by
  have := p.isLt
  show 0x500280 + 8 * p.val ≠ 0x500180 + 8 * p.val
  omega

section
variable (s : State) (p : Sys2Proof.Port)

theorem portState_postLink (code : Nat) (fs : List EvField) : (s.postLink p.val code fs).portState p.val = s.portState p.val :=
  (sameRegs_postLink s p.val code fs).fld .xglPortStatus 0 4 p.val 0 (low_portStatus p)

theorem portState_setWidth {dir : Nat} (hd : dir < 2) (good : BitVec 8) : (s.setWidth p.val dir good).portState p.val = s.portState p.val :=
  (fld_setFld_beside _ _ _ _ _ (by omega)).trans (fld_setFld_beside _ _ _ _ _ (by omega))

theorem portState_partnerGone : (s.partnerGone p.val).portState p.val = s.portState p.val :=
  (portState_postLink _ p 373 []).trans (fld_setFld_apart _ _ _ _ _ _ (partner_ne_status p p).symm)

/-- The state in which a port shows that it is DOWN and has posted so. -/
def State.showDown (s : State) (p : Nat) : State :=
  ((((s.onPort p (fun x => { x with training := false, locked := none, widthFrom := none, rxWidthFrom := none })).setPortState p portDown
    ).setWidth p 0 0#8).setWidth p 1 0#8).postLink p 369 []

theorem portGoDown_eq (p : Nat) : s.portGoDown p = if s.hasPartner p then (State.showDown s p).partnerGone p else State.showDown s p := rfl

theorem portState_showDown : (State.showDown s p.val).portState p.val = portDown := by
  rw [State.showDown, portState_postLink, portState_setWidth _ _ (by decide), portState_setWidth _ _ (by decide),
    portState_setPortState _ _ (by decide)]

theorem portState_portGoDown : (s.portGoDown p.val).portState p.val = portDown := by
  rw [portGoDown_eq]
  split
  · rw [portState_partnerGone, portState_showDown]
  · exact portState_showDown s p

/-- The partner of a port that goes DOWN is removed (R378). -/
theorem removed_portGoDown {s : State} (had : s.hasPartner p.val = true) : (s.portGoDown p.val).fld .xglPartner 18 1 p.val = 1 := by
  rw [portGoDown_eq, if_pos had, State.partnerGone, (sameRegs_postLink _ p.val 373 []).fld .xglPartner 18 1 p.val 0 (low_partner p),
    fld_setFld_of_lt _ _ _ _ (by decide) (by decide)]

theorem linkUp_frame (p : Nat) : EventsOnly s (s.linkUp p) := ((EventsOnly.refl s).setPortState p portUp).postLink ..

theorem portState_linkUp : (s.linkUp p.val).portState p.val = portUp := by
  rw [State.linkUp, portState_postLink, portState_setPortState _ _ (by decide)]

end

/-- What the registers of a port show of its lanes and its partner. -/
structure Shows (p : Nat) (rx tx : BitVec 8) (i : LinkIdentity) (t : State) : Prop where
  txWidth : t.widthNow p 0 = widthOf tx
  rxWidth : t.widthNow p 1 = widthOf rx
  device : t.fld .xglPartner 0 16 p = i.devId.toNat
  part : t.fld .xglPartner 24 16 p = i.part.toNat
  serial : t.reg .xglPartnerSn p = i.serial

section
variable {p : Sys2Proof.Port} {rx tx : BitVec 8} {i : LinkIdentity} {t : State}

theorem Shows.setStatus (h : Shows p.val rx tx i t) {lo w : Nat} (v : Nat) (apart : lo + w ≤ 4 ∨ 12 ≤ lo) :
    Shows p.val rx tx i (t.setFld .xglPortStatus lo w v p.val) := by
  refine ⟨?_, ?_, ?_, ?_, ?_⟩
  · exact (fld_setFld_beside _ _ _ _ _ (by omega)).trans h.txWidth
  · exact (fld_setFld_beside _ _ _ _ _ (by omega)).trans h.rxWidth
  · exact (fld_setFld_apart _ _ _ _ _ _ (partner_ne_status p p)).trans h.device
  · exact (fld_setFld_apart _ _ _ _ _ _ (partner_ne_status p p)).trans h.part
  · exact (reg_setFld_apart _ _ _ _ (partnerSn_ne_status p p)).trans h.serial

theorem Shows.same (h : Shows p.val rx tx i t) {u : State} (low : SameRegs Low t u) : Shows p.val rx tx i u :=
  ⟨(low.fld .xglPortStatus _ _ p.val 0 (low_portStatus p)).trans h.txWidth,
    (low.fld .xglPortStatus _ _ p.val 0 (low_portStatus p)).trans h.rxWidth, (low.fld .xglPartner 0 16 p.val 0 (low_partner p)).trans h.device,
    (low.fld .xglPartner 24 16 p.val 0 (low_partner p)).trans h.part, (low.reg .xglPartnerSn p.val 0 (low_partnerSn p)).trans h.serial⟩

theorem Shows.linkUp (h : Shows p.val rx tx i t) : Shows p.val rx tx i (t.linkUp p.val) :=
  (h.setStatus portUp (.inl (by decide))).same (sameRegs_postLink _ _ _ _)

theorem fld_status_recordPartner (s : State) (p : Sys2Proof.Port) (i : LinkIdentity) (lo w : Nat) :
    (s.recordPartner p.val i).fld .xglPortStatus lo w p.val = s.fld .xglPortStatus lo w p.val := by
  unfold State.recordPartner
  dsimp only
  rw [State.fld, State.reg_setReg_ne _ _ _ _ _ _ _ _ (partnerSn_ne_status p p).symm, ← State.fld,
    fld_setFld_apart _ _ _ _ _ _ (partner_ne_status p p).symm, fld_setFld_apart _ _ _ _ _ _ (partner_ne_status p p).symm,
    fld_setFld_apart _ _ _ _ _ _ (partner_ne_status p p).symm, fld_setFld_apart _ _ _ _ _ _ (partner_ne_status p p).symm]

theorem shows_recordPartner {s : State} (p : Sys2Proof.Port) (i : LinkIdentity) (tx0 : s.widthNow p.val 0 = widthOf tx)
    (rx0 : s.widthNow p.val 1 = widthOf rx) : Shows p.val rx tx i (s.recordPartner p.val i) := by
  obtain ⟨device, part, serial⟩ := fld_recordPartner s p i
  exact ⟨(fld_status_recordPartner s p i _ _).trans tx0, (fld_status_recordPartner s p i _ _).trans rx0, device, part, serial⟩

theorem Shows.setPartner (h : Shows p.val rx tx i t) : Shows p.val rx tx i (t.setFld .xglPartner 17 1 1 p.val) := by
  refine ⟨?_, ?_, ?_, ?_, ?_⟩
  · exact (fld_setFld_apart _ _ _ _ _ _ (partner_ne_status p p).symm).trans h.txWidth
  · exact (fld_setFld_apart _ _ _ _ _ _ (partner_ne_status p p).symm).trans h.rxWidth
  · exact (fld_setFld_beside _ _ _ _ _ (by decide)).trans h.device
  · exact (fld_setFld_beside _ _ _ _ _ (by decide)).trans h.part
  · exact (reg_setFld_apart _ _ _ _ (partnerSn_ne_partner p)).trans h.serial

theorem census_frame (s : State) (p : Nat) (i : LinkIdentity) : EventsOnly s (s.census p i) := by
  unfold State.census
  dsimp only
  exact ((recordPartner_frame s p i).setFld ..).ite (((recordPartner_frame s p i).setFld ..).postLink ..)

theorem shows_census {s : State} (p : Sys2Proof.Port) (i : LinkIdentity) (tx0 : s.widthNow p.val 0 = widthOf tx)
    (rx0 : s.widthNow p.val 1 = widthOf rx) : Shows p.val rx tx i (s.census p.val i) := by
  have recorded := shows_recordPartner p i tx0 rx0
  unfold State.census
  dsimp only
  split
  · exact recorded.setPartner
  · exact (recorded.setStatus 1 (.inr (by decide))).same (sameRegs_postLink _ _ _ _)

end

/-! ### The end of a training (R345, R377 to R379) -/

/-- The port as its training ends. -/
def trainedPort (tx rx : BitVec 8) (x : XPort) : XPort := { x with training := false, locked := none, txGood := tx, rxGood := rx }

/-- The widths of a port whose training ends. -/
def State.showTrained (s : State) (p : Nat) (tx rx : BitVec 8) : State := ((s.onPort p (trainedPort tx rx)).setWidth p 0 tx).setWidth p 1 rx

/-- A port whose training ends comes UP, or has its error rate measured. -/
def State.enterUp (s : State) (p : Nat) : State := if s.fld .xglPolicy 12 4 = 0 then s.linkUp p else s.setPortState p portChecking

/-- A partner recorded, by the census in the first round (R378). -/
def State.meetPartner (s : State) (p : Nat) (i : LinkIdentity) : State := if (s.port p).berRound then s.recordPartner p i else s.census p i

section
variable {s : State} {p : Sys2Proof.Port} {rx m : BitVec 8} {i : LinkIdentity}

theorem widthOf_le (m : BitVec 8) : widthOf m < 16 := by
  unfold widthOf
  dsimp only
  split
  · decide
  · split
    · decide
    · split <;> decide

theorem widthNow_showTrained (s : State) (p : Sys2Proof.Port) (tx rx : BitVec 8) :
    (State.showTrained s p.val tx rx).widthNow p.val 0 = widthOf tx ∧ (State.showTrained s p.val tx rx).widthNow p.val 1 = widthOf rx := by
  unfold State.showTrained State.setWidth
  constructor
  · exact (fld_setFld_beside _ _ _ _ _ (by decide)).trans ((fld_setFld_beside _ _ _ _ _ (by decide)).trans
      ((fld_setFld_beside _ _ _ _ _ (by decide)).trans (fld_setFld_of_lt _ _ _ _ (by decide) (widthOf_le tx))))
  · exact (fld_setFld_beside _ _ _ _ _ (by decide)).trans (fld_setFld_of_lt _ _ _ _ (by decide) (widthOf_le rx))

theorem showTrained_frame (s : State) (p : Nat) (tx rx : BitVec 8) : EventsOnly (s.onPort p (trainedPort tx rx)) (State.showTrained s p tx rx) :=
  ((EventsOnly.refl _).setWidth ..).setWidth ..

theorem meetPartner_frame (s : State) (p : Nat) (i : LinkIdentity) : EventsOnly s (State.meetPartner s p i) :=
  (recordPartner_frame s p i).ite (census_frame s p i)

theorem enterUp_frame (s : State) (p : Nat) : EventsOnly s (State.enterUp s p) := (linkUp_frame s p).ite ((EventsOnly.refl s).setPortState ..)

theorem finishTraining_of_complete (locked : (s.port p.val).locked = some rx) (id : (s.port p.val).idIn = some i)
    (lanes : (s.port p.val).lanesIn = some m) (trains : (s.port p.val).training = true) (state : s.portState p.val = portTraining)
    (rxWide : widthOf rx ≠ 0) (txWide : widthOf (m &&& ~~~(s.retiredLanes p.val 0)) ≠ 0) : s.finishTraining p.val =
    State.enterUp (State.meetPartner (State.showTrained s p.val (m &&& ~~~(s.retiredLanes p.val 0)) rx) p.val i) p.val := by
  have round : ((State.showTrained s p.val (m &&& ~~~(s.retiredLanes p.val 0)) rx).port p.val).berRound = (s.port p.val).berRound := by
    rw [(showTrained_frame ..).port, port_onPort_self]
    rfl
  unfold State.finishTraining State.meetPartner
  rw [round]
  simp only [locked, id, lanes, trains, state, Bool.not_true, Bool.false_eq_true, ne_eq, not_true_eq_false, or_self, if_false, rxWide, txWide]
  rfl

theorem finishTraining_of_narrow (locked : (s.port p.val).locked = some rx) (id : (s.port p.val).idIn = some i)
    (lanes : (s.port p.val).lanesIn = some m) (trains : (s.port p.val).training = true) (state : s.portState p.val = portTraining)
    (narrow : widthOf (m &&& ~~~(s.retiredLanes p.val 0)) = 0) : s.finishTraining p.val =
    (State.showTrained s p.val (m &&& ~~~(s.retiredLanes p.val 0)) rx).portGoDown p.val := by
  unfold State.finishTraining
  simp only [locked, id, lanes, trains, state, Bool.not_true, Bool.false_eq_true, ne_eq, not_true_eq_false, or_self, if_false, narrow, or_true,
    if_true]
  rfl

end

/-- The policy, and which device this is. -/
abbrev PolicyKey (k : Nat) : Prop := k = RegName.key .xglPolicy 0 0

section
variable {s₀ s : State} {p : Sys2Proof.Port} {rx tx : BitVec 8} {i : LinkIdentity}

theorem portState_enterUp (s : State) (p : Sys2Proof.Port) :
    (State.enterUp s p.val).portState p.val = if s.fld .xglPolicy 12 4 = 0 then portUp else portChecking := by
  unfold State.enterUp
  split
  · exact portState_linkUp s p
  · exact portState_setPortState _ _ (by decide)

theorem Shows.enterUp {t : State} (h : Shows p.val rx tx i t) : Shows p.val rx tx i (State.enterUp t p.val) := by
  unfold State.enterUp
  split
  · exact h.linkUp
  · exact h.setStatus portChecking (.inl (by decide))

theorem shows_meetPartner {t : State} (tx0 : t.widthNow p.val 0 = widthOf tx) (rx0 : t.widthNow p.val 1 = widthOf rx) :
    Shows p.val rx tx i (State.meetPartner t p.val i) := by
  unfold State.meetPartner
  split
  · exact shows_recordPartner p i tx0 rx0
  · exact shows_census p i tx0 rx0

theorem not_policy_of_port {k : Nat} (h : 0x500100 ≤ k) : ¬ PolicyKey k := by
  show ¬ k = 0x500008
  omega

theorem policy_meetPartner (s : State) (p : Nat) (i : LinkIdentity) : (State.meetPartner s p i).fld .xglPolicy 12 4 = s.fld .xglPolicy 12 4 := by
  have partner : ¬ PolicyKey (RegName.key .xglPartner 0 p) := not_policy_of_port (show 0x500100 ≤ 0x500180 + 8 * p by omega)
  have serial : ¬ PolicyKey (RegName.key .xglPartnerSn 0 p) := not_policy_of_port (show 0x500100 ≤ 0x500200 + 8 * p by omega)
  have status : ¬ PolicyKey (RegName.key .xglPortStatus 0 p) := not_policy_of_port (show 0x500100 ≤ 0x500100 + 8 * p by omega)
  have recorded : SameRegs PolicyKey s (s.recordPartner p i) := by
    unfold State.recordPartner
    exact (((((SameRegs.refl s).setFld _ _ _ _ _ _ partner).setFld _ _ _ _ _ _ partner).setFld _ _ _ _ _ _ partner).setFld _ _ _ _ _ _
      partner).setReg _ _ _ _ serial
  have posts (fn : Nat) (_ : fn ≤ 12) : ¬ PolicyKey (RegName.key .hifPenStat 0 fn) :=
    not_policy_of_port (show 0x500100 ≤ 0xC00200 + 8 * fn by omega)
  have met : SameRegs PolicyKey s (State.meetPartner s p i) := by
    unfold State.meetPartner State.census
    exact recorded.ite ((recorded.setFld _ _ _ _ _ _ partner).ite ((recorded.setFld _ _ _ _ _ _ status).postLink _ _ _ posts))
  exact met.fld .xglPolicy 12 4 0 0 rfl

theorem policy_showTrained (s : State) (p : Nat) (tx rx : BitVec 8) :
    (State.showTrained s p tx rx).fld .xglPolicy 12 4 = s.fld .xglPolicy 12 4 := by
  have status : ¬ PolicyKey (RegName.key .xglPortStatus 0 p) := not_policy_of_port (show 0x500100 ≤ 0x500100 + 8 * p by omega)
  have shown : SameRegs PolicyKey (s.onPort p (trainedPort tx rx)) (State.showTrained s p tx rx) :=
    ((SameRegs.refl _).setWidth p 0 tx status).setWidth p 1 rx status
  exact shown.fld .xglPolicy 12 4 0 0 rfl

/-- A training that ends with lanes in both directions. -/
theorem trained_of_complete (before : LinkFrame p.val s₀ s) (policy : s.fld .xglPolicy 12 4 = s₀.fld .xglPolicy 12 4) :
    Trained s₀ (State.enterUp (State.meetPartner (State.showTrained s p.val tx rx) p.val i) p.val) p.val (s.port p.val) rx tx i := by
  have widths := widthNow_showTrained s p tx rx
  have shown := (shows_meetPartner (i := i) widths.1 widths.2).enterUp
  have events := ((showTrained_frame s p.val tx rx).trans (meetPartner_frame _ p.val i)).trans (enterUp_frame _ p.val)
  refine ⟨((before.onPort _).events events).linkOnly, ?_, shown.txWidth, shown.rxWidth, shown.device, shown.part, shown.serial, ?_⟩
  · rw [events.port, port_onPort_self]
    rfl
  · rw [portState_enterUp, policy_meetPartner, policy_showTrained, policy]

end

theorem locked_trainingEnds (s : State) (p : Nat) (tx rx : BitVec 8) (i : LinkIdentity) :
    ((State.enterUp (State.meetPartner (State.showTrained s p tx rx) p i) p).port p).locked = none := by
  rw [(((showTrained_frame s p tx rx).trans (meetPartner_frame _ p i)).trans (enterUp_frame _ p)).port, port_onPort_self]
  rfl

theorem locked_portGoDown (s : State) (p : Nat) : ((s.portGoDown p).port p).locked = none := by rw [port_portGoDown]

/-! ### Skew (R344) -/

theorem foldl_min_le (xs : List Nat) (n : Nat) : xs.foldl min n ≤ n ∧ ∀ x ∈ xs, xs.foldl min n ≤ x := by
  induction xs generalizing n with
  | nil => exact ⟨Nat.le_refl n, fun _ h => by cases h⟩
  | cons y ys ih =>
    obtain ⟨start, rest⟩ := ih (min n y)
    rw [List.foldl_cons]
    refine ⟨Nat.le_trans start (Nat.min_le_left ..), fun x hx => ?_⟩
    obtain rfl | hx := List.mem_cons.1 hx
    · exact Nat.le_trans start (Nat.min_le_right ..)
    · exact rest x hx

theorem foldl_min_mem (xs : List Nat) (n : Nat) : xs.foldl min n ∈ xs ∨ xs.foldl min n = n := by
  induction xs generalizing n with
  | nil => exact .inr rfl
  | cons y ys ih =>
    rw [List.foldl_cons]
    obtain h | h := ih (min n y)
    · exact .inl (List.mem_cons_of_mem y h)
    · rw [h]
      obtain le | le := Nat.le_total n y
      · exact .inr (Nat.min_eq_left le)
      · rw [Nat.min_eq_right le]
        exact .inl List.mem_cons_self

/-- The lanes of a list as a mask. -/
theorem getLsbD_laneMask {ls : List Nat} (nodup : ls.Nodup) {l : Nat} (low : l < 8) :
    (BitVec.ofNat 8 (ls.foldl (fun m l => m + 2 ^ l) 0)).getLsbD l = true ↔ l ∈ ls := by
  rw [BitVec.getLsbD_ofNat, testBit_foldl_add nodup (fun _ _ => Nat.zero_testBit _), Nat.zero_testBit, decide_eq_true low]
  simp

theorem getLsbD_deskewed {locked : BitVec 8} {skews : List Nat} (small : ∀ q ∈ skews, q < 2 ^ 64) {l : Nat} (low : l < 8) :
    (deskewed locked skews).getLsbD l = true ↔
      locked.getLsbD l = true ∧ ∀ k, k < 8 → locked.getLsbD k = true → skews.getD l 0 ≤ skews.getD k 0 + 4 := by
  have bound : skews.getD l 0 ≤ 2 ^ 64 + 4 := by
    rw [List.getD_eq_getElem?_getD]
    cases h : skews[l]? with
    | none => exact Nat.zero_le _
    | some q => exact Nat.le_trans (Nat.le_of_lt (small q (List.mem_of_getElem? h))) (Nat.le_add_right ..)
  unfold deskewed
  rw [getLsbD_laneMask ((nodup_maskLanes locked).filter _) low, List.mem_filter, mem_maskLanes, decide_eq_true_iff]
  generalize hf : ((maskLanes locked).map (fun l => skews.getD l 0)).foldl min (2 ^ 64) = first
  constructor
  · rintro ⟨⟨_, here⟩, near⟩
    refine ⟨here, fun k hk locks => ?_⟩
    have le : first ≤ skews.getD k 0 := by
      rw [← hf]
      exact (foldl_min_le _ _).2 _ (List.mem_map.2 ⟨k, mem_maskLanes.2 ⟨hk, locks⟩, rfl⟩)
    omega
  · rintro ⟨here, near⟩
    refine ⟨⟨low, here⟩, ?_⟩
    obtain h | h := foldl_min_mem ((maskLanes locked).map (fun l => skews.getD l 0)) (2 ^ 64)
    · obtain ⟨k, hk, e⟩ := List.mem_map.1 h
      obtain ⟨lt, locks⟩ := mem_maskLanes.1 hk
      have := near k lt locks
      rw [← hf, ← e]
      exact this
    · rw [← hf, h]
      exact bound

/-! ### Settling and attempts (R374 to R376, R380) -/

section
variable {s : State} {p : Sys2Proof.Port}

/-- A settling port whose synthesiser has locked. -/
def State.lockSynth (s : State) (p : Nat) : State := (s.setFld .xglPortStatus 12 1 1 p).setPortState p portTraining

theorem lockSynth_frame (s : State) (p : Nat) : EventsOnly s (State.lockSynth s p) := ((EventsOnly.refl s).setFld ..).setPortState ..

theorem fld_lockSynth (s : State) (p : Nat) : (State.lockSynth s p).fld .xglPortStatus 12 1 p = 1 :=
  (fld_setFld_beside _ _ _ _ _ (by decide)).trans (fld_setFld_of_lt _ _ _ _ (by decide) (by decide))

theorem fld_beginTraining (s : State) (p : Sys2Proof.Port) :
    (s.beginTraining p.val).fld .xglPortStatus 12 1 p.val = s.fld .xglPortStatus 12 1 p.val := by
  rw [beginTraining_eq, fld_onPort, State.setPortState, fld_setFld_beside _ _ _ _ _ (by decide)]
  exact (fld_setFld_apart _ _ _ _ _ _ (lanes_ne_status p p).symm).trans (fld_setFld_apart _ _ _ _ _ _ (lanes_ne_status p p).symm)

theorem exec_synthLock_of_waiting (settles : s.portState p.val = portSettling) (free : (s.port p.val).held = none)
    (attempt : (s.port p.val).attempt = true) : exec (.synthLock p) s = .next ((State.lockSynth s p.val).beginTraining p.val) := by
  simp only [exec, execSynthLock, settles, free, attempt, ne_eq, not_true_eq_false, if_false, Option.isSome_none, Bool.or_true, if_true,
    Bool.false_eq_true]
  rfl

/-- A held request done. -/
def State.endHeld (s : State) (p st : Nat) : State := (s.onPort p (fun x => { x with held := none })).xglStatus st

theorem exec_synthLock_of_held {m : Master} (settles : s.portState p.val = portSettling) (held : (s.port p.val).held = some m) :
    exec (.synthLock p) s = .next (State.endHeld ((State.lockSynth s p.val).beginTraining p.val) p.val 0) := by
  simp only [exec, execSynthLock, settles, held, ne_eq, not_true_eq_false, if_false, Option.isSome_some, Bool.true_or, if_true]
  rfl

theorem trainingBegun_lockSynth (s : State) (p : Sys2Proof.Port) :
    TrainingBegun s ((State.lockSynth s p.val).beginTraining p.val) p.val := by
  have port := (lockSynth_frame s p.val).port p.val
  exact trainingBegun_beginTraining ((LinkFrame.refl p.val s).events (lockSynth_frame s p.val)) (by rw [port]) (by rw [port]) (by rw [port])

/-- A training that has begun goes on when what it does not say changes. -/
theorem trainingBegun_onPort {s t : State} {p : Nat} (h : TrainingBegun s t p) {f : XPort → XPort}
    (hf : f (t.port p) = { t.port p with
      held := (f (t.port p)).held, berRound := (f (t.port p)).berRound, partnerSeen := (f (t.port p)).partnerSeen }) :
    TrainingBegun s (t.onPort p f) p := by
  obtain ⟨⟨frame, others⟩, state, rest⟩ := h
  refine ⟨((LinkFrame.mk frame others).onPort f).linkOnly, state, ?_⟩
  rw [port_onPort_self, hf]
  exact rest

theorem endHeld_begun {t : State} (h : TrainingBegun s t p.val) (st : Nat) : TrainingBegun s (State.endHeld t p.val st) p.val :=
  trainingBegun_of_events (trainingBegun_onPort h rfl) ((EventsOnly.refl _).xglStatus st) (portState_xglStatus ..)

theorem held_endHeld (t : State) (p st : Nat) : ((State.endHeld t p st).port p).held = none := by
  rw [State.endHeld, ((EventsOnly.refl (t.onPort p _)).xglStatus st).port, port_onPort_self]

theorem status_endHeld (t : State) (p : Sys2Proof.Port) (st : Nat) :
    (State.endHeld t p.val st).fld .xglPortStatus 12 1 p.val = t.fld .xglPortStatus 12 1 p.val :=
  (fld_setFld_apart _ _ _ _ _ _ (portStatus_ne_xglCmd p.val)).trans (fld_setFld_apart _ _ _ _ _ _ (portStatus_ne_xglCmd p.val))

/-- The settling port given up. -/
def State.giveUp (s : State) (p : Nat) : State := (s.onPort p (fun x => { x with attempt := false })).portGoDown p

theorem giveUp_frame (s : State) (p : Nat) : LinkFrame p s (State.giveUp s p) := ((LinkFrame.refl p s).onPort _).trans (portGoDown_frame _ p)

theorem port_giveUp (s : State) (p : Nat) : (State.giveUp s p).port p =
    { s.port p with attempt := false, training := false, locked := none, widthFrom := none, rxWidthFrom := none } := by
  rw [State.giveUp, port_portGoDown, port_onPort_self]

theorem exec_synthTimeout_of_held {m : Master} (settles : s.portState p.val = portSettling) (held : (s.port p.val).held = some m) :
    exec (.synthTimeout p) s = .next (State.giveUp (State.endHeld s p.val 2) p.val) := by
  simp only [exec, execSynthTimeout, settles, held, ne_eq, not_true_eq_false, if_false]
  rfl

theorem exec_synthTimeout_of_free (settles : s.portState p.val = portSettling) (free : (s.port p.val).held = none) :
    exec (.synthTimeout p) s = .next (State.giveUp s p.val) := by
  simp only [exec, execSynthTimeout, settles, free, ne_eq, not_true_eq_false, if_false]
  rfl

theorem sameRegs_giveUp (s : State) (p : Sys2Proof.Port) : SameRegs CmdKey s (State.giveUp s p.val) := by
  have partner : ¬ CmdKey (RegName.key .xglPartner 0 p.val) := show ¬ 0x500180 + 8 * p.val = 0x500010 by omega
  exact ((SameRegs.refl s).onPort _ _).portGoDown _ (not_cmdKey_portStatus _) partner not_cmdKey_post

end

/-! ### The error-rate measurement (R379) -/

/-- The error-rate counts of a port's lanes cleared. -/
def clearBer (x : XPort) : XPort := (maskLanes 0xFF#8).foldl (fun x l => x.onLane l (fun y => { y with berBits := 0 })) x

theorem lane_clearBer (x : XPort) {l : Nat} (h : l < 8) : (clearBer x).lane l = { x.lane l with berBits := 0 } := by
  have general : ∀ (ls : List Nat) (x : XPort), (ls.foldl (fun x l => x.onLane l (fun y => { y with berBits := 0 })) x).lane l =
      if l ∈ ls then { x.lane l with berBits := 0 } else x.lane l := by
    intro ls
    induction ls with
    | nil => exact fun _ => rfl
    | cons k ks ih =>
      intro x
      rw [List.foldl_cons, ih]
      by_cases here : l = k
      · subst here
        rw [lane_onLane_self, if_pos List.mem_cons_self]
        split <;> rfl
      · rw [lane_onLane_ne _ _ here]
        simp only [List.mem_cons, here, false_or]
  have every : maskLanes 0xFF#8 = List.range 8 := by decide
  rw [clearBer, general, every, if_pos (List.mem_range.2 h)]

theorem clearBer_frame (x : XPort) : clearBer x = { x with lanes := (clearBer x).lanes } :=
  List.foldlRecOn (motive := fun y : XPort => y = { x with lanes := y.lanes }) _ _ rfl fun y hy _ _ => by rw [hy]; rfl

/-- The lanes in use that are above the threshold of the measurement. -/
def noisyLanes (s : State) (p : Nat) : List Nat :=
  (maskLanes (lanesInUse (s.port p).rxGood)).filter (fun l => decide (s.fld .xglPolicy 12 4 ≠ 0) &&
    decide (106250000000 < ((s.port p).lane l).berBits * 10 ^ s.fld .xglPolicy 12 4))

theorem mem_noisyLanes {s : State} {p l : Nat} : l ∈ noisyLanes s p ↔ (l < 8 ∧ (lanesInUse (s.port p).rxGood).getLsbD l = true) ∧
    s.fld .xglPolicy 12 4 ≠ 0 ∧ 106250000000 < ((s.port p).lane l).berBits * 10 ^ s.fld .xglPolicy 12 4 := by
  rw [noisyLanes, List.mem_filter, mem_maskLanes, Bool.and_eq_true, decide_eq_true_iff, decide_eq_true_iff]

/-- The good lanes without those of a list. -/
def withoutLanes (ls : List Nat) (m : BitVec 8) : BitVec 8 := ls.foldl (fun m l => m &&& ~~~(BitVec.ofNat 8 (2 ^ l))) m

theorem getLsbD_withoutLanes {ls : List Nat} {l : Nat} (low : l < 8) {m : BitVec 8} (h : l ∈ ls ∨ m.getLsbD l = false) :
    (withoutLanes ls m).getLsbD l = false := by
  unfold withoutLanes
  induction ls generalizing m with
  | nil => exact h.resolve_left List.not_mem_nil
  | cons k ks ih =>
    rw [List.foldl_cons]
    refine ih ?_
    by_cases here : l = k
    · subst here
      right
      rw [BitVec.getLsbD_and, BitVec.getLsbD_not, BitVec.getLsbD_ofNat, Nat.testBit_two_pow_self]
      simp [low]
    · refine h.imp (fun h => (List.mem_cons.1 h).resolve_left here) fun out => ?_
      rw [BitVec.getLsbD_and, out, Bool.false_and]

/-- A port whose noisy lanes are retired after the second measurement. -/
def State.dropNoisy (s : State) (p : Nat) (x : XPort) (ls : List Nat) : State :=
  ((State.retireLanes (s.onPort p clearBer) p 1 ls).changeWidth p 1 (withoutLanes ls x.rxGood)).sendCtl p
    (.lanes (withoutLanes ls x.rxGood) (BitVec.ofNat 32 x.rxExpect))

section
variable {s : State} {p : Sys2Proof.Port} (checks : s.portState p.val = portChecking)
include checks

theorem exec_berWindowEnd_of_quiet (quiet : noisyLanes s p.val = []) :
    exec (.berWindowEnd p (lanesInUse (s.port p.val).rxGood)) s = .next ((s.onPort p.val clearBer).linkUp p.val) := by
  rw [noisyLanes] at quiet
  simp only [exec, execBerWindowEnd, checks, ne_eq, not_true_eq_false, or_self, if_false, quiet, List.isEmpty_nil, if_true]
  rfl

theorem exec_berWindowEnd_of_first (noisy : (noisyLanes s p.val).isEmpty = false) (first : (s.port p.val).berRound = false) :
    exec (.berWindowEnd p (lanesInUse (s.port p.val).rxGood)) s = .next (((s.onPort p.val clearBer).beginTraining p.val).onPort p.val
      (fun x => { x with berRound := true, partnerSeen := decide ((s.onPort p.val clearBer).inStep2 < 6) })) := by
  rw [noisyLanes] at noisy
  simp only [exec, execBerWindowEnd, checks, ne_eq, not_true_eq_false, or_self, if_false, noisy, Bool.false_eq_true, first, Bool.not_false, if_true]
  rfl

theorem exec_berWindowEnd_of_second (noisy : (noisyLanes s p.val).isEmpty = false) (second : (s.port p.val).berRound = true) :
    exec (.berWindowEnd p (lanesInUse (s.port p.val).rxGood)) s =
      .next (if (State.dropNoisy s p.val (s.port p.val) (noisyLanes s p.val)).portState p.val = portDown then
          State.dropNoisy s p.val (s.port p.val) (noisyLanes s p.val)
        else (State.dropNoisy s p.val (s.port p.val) (noisyLanes s p.val)).linkUp p.val) := by
  rw [noisyLanes] at noisy
  simp only [exec, execBerWindowEnd, checks, ne_eq, not_true_eq_false, or_self, if_false, noisy, Bool.false_eq_true, second, Bool.not_true]
  rfl

end

theorem portState_clearBer (s : State) (p q : Nat) : (s.onPort p clearBer).portState q = s.portState q := rfl

theorem inStep2_clearBer (s : State) (p : Nat) : (s.onPort p clearBer).inStep2 = s.inStep2 := by
  have port (q : Nat) : ((s.onPort p clearBer).port q).locked = (s.port q).locked ∧ ((s.onPort p clearBer).port q).training = (s.port q).training ∧
      ((s.onPort p clearBer).port q).partnerSeen = (s.port q).partnerSeen := by
    by_cases here : q = p
    · subst here
      rw [port_onPort_self, clearBer_frame]
      exact ⟨rfl, rfl, rfl⟩
    · rw [port_onPort_ne _ _ here]
      exact ⟨rfl, rfl, rfl⟩
  unfold State.inStep2
  congr 2
  funext q
  obtain ⟨locked, training, seen⟩ := port q
  rw [locked, training, seen, portState_clearBer]

/-- The good lanes of a direction of a port, taken over. -/
def setGood (dir : Nat) (good : BitVec 8) (x : XPort) : XPort := if dir = 0 then { x with txGood := good } else { x with rxGood := good }

/-- A width shown, its event not posted yet. -/
def State.showWidth (s : State) (p dir : Nat) (good : BitVec 8) : State := (s.onPort p (setGood dir good)).setWidth p dir good

theorem changeWidth_eq (s : State) (p dir : Nat) (good : BitVec 8) : s.changeWidth p dir good = ((State.showWidth s p dir good).postLink p 371
    [ef ((State.showWidth s p dir good).widthNow p 0), ef ((State.showWidth s p dir good).widthNow p 1)]).checkDown p := rfl

theorem showWidth_frame (s : State) (p dir : Nat) (good : BitVec 8) : EventsOnly (s.onPort p (setGood dir good)) (State.showWidth s p dir good) :=
  (EventsOnly.refl _).setWidth ..

theorem changeWidth_rxGood (s : State) (p : Nat) (good : BitVec 8) : ((s.changeWidth p 1 good).port p).rxGood = good := by
  have port (fs : List EvField) : ((State.showWidth s p 1 good).postLink p 371 fs).port p = setGood 1 good (s.port p) := by
    rw [((showWidth_frame s p 1 good).postLink p 371 fs).port, port_onPort_self]
  rw [changeWidth_eq, State.checkDown]
  split
  · rw [port_portGoDown, port]
    rfl
  · rw [port]
    rfl

theorem retiredLanes_portGoDown (s : State) (p : Sys2Proof.Port) (dir : Nat) : (s.portGoDown p.val).retiredLanes p.val dir = s.retiredLanes p.val dir :=
  retiredLanes_of_same ((SameRegs.refl s).portGoDown p.val (lanes_ne_status p p).symm (lanes_ne_partner p).symm (not_lanesKey_post p))

theorem retiredLanes_changeWidth (s : State) (p : Sys2Proof.Port) (dir d : Nat) (good : BitVec 8) :
    (s.changeWidth p.val dir good).retiredLanes p.val d = s.retiredLanes p.val d := by
  have status : ¬ LanesKey p.val (RegName.key .xglPortStatus 0 p.val) := (lanes_ne_status p p).symm
  have shown (fs : List EvField) : SameRegs (LanesKey p.val) s ((State.showWidth s p.val dir good).postLink p.val 371 fs) :=
    (((SameRegs.refl s).onPort p.val (setGood dir good)).setWidth p.val dir good status).postLink p.val 371 fs (not_lanesKey_post p)
  rw [changeWidth_eq, State.checkDown]
  split
  · rw [retiredLanes_portGoDown]
    exact retiredLanes_of_same (shown _)
  · exact retiredLanes_of_same (shown _)

theorem dropNoisy_effect (s : State) (p : Sys2Proof.Port) {ls : List Nat} {l : Nat} (low : l < 8) (h : l ∈ ls) :
    ((State.dropNoisy s p.val (s.port p.val) ls).retiredLanes p.val 1).getLsbD l = true ∧
    ((State.dropNoisy s p.val (s.port p.val) ls).port p.val).rxGood.getLsbD l = false := by
  constructor
  · rw [State.dropNoisy, State.sendCtl, retiredLanes_onPort, retiredLanes_changeWidth]
    exact retired_retireLanes (by decide) low _ (.inl h)
  · rw [State.dropNoisy, State.sendCtl, port_onPort_self]
    exact (congrArg (BitVec.getLsbD · l) (changeWidth_rxGood _ p.val _)).trans (getLsbD_withoutLanes low (.inl h))

theorem retiredLanes_linkUp (s : State) (p : Sys2Proof.Port) (dir : Nat) : (s.linkUp p.val).retiredLanes p.val dir = s.retiredLanes p.val dir :=
  retiredLanes_of_same (((SameRegs.refl s).setPortState _ _ (lanes_ne_status p p).symm).postLink _ _ _ (not_lanesKey_post p))

theorem enterRound_effect (t : State) (p : Sys2Proof.Port) {l : Nat} (retired : (t.retiredLanes p.val 1).getLsbD l = true)
    (out : (t.port p.val).rxGood.getLsbD l = false) {u : State} (hu : u = if t.portState p.val = portDown then t else t.linkUp p.val) :
    (u.retiredLanes p.val 1).getLsbD l = true ∧ (u.port p.val).rxGood.getLsbD l = false ∧
      (u.portState p.val = portUp ∨ u.portState p.val = portDown) := by
  subst hu
  split
  next down => exact ⟨retired, out, .inr down⟩
  next =>
    rw [retiredLanes_linkUp, (linkUp_frame t p.val).port]
    exact ⟨retired, out, .inl (portState_linkUp t p)⟩

/-! ### The link stage (R380) -/

/-- A present port of the link stage: its synthesiser settles. -/
def State.powerPort (s : State) (p : Nat) : State := if s.bayPresent p then (s.setPortState p portSettling).loadLanes p else s

theorem powerPort_frame (s : State) (p : Nat) : RegsOnly s (State.powerPort s p) := RegsOnly.ite rfl rfl

theorem powerPort_low (s : State) (p : Nat) : SameRegs (fun k => k < 0x500100) s (State.powerPort s p) := by
  have status : ¬ RegName.key .xglPortStatus 0 p < 0x500100 := show ¬ 0x500100 + 8 * p < 0x500100 by omega
  have lanes : ¬ RegName.key .xglLanes 0 p < 0x500100 := show ¬ 0x500280 + 8 * p < 0x500100 by omega
  unfold State.powerPort
  exact (((SameRegs.refl s).setPortState p portSettling status).loadLanes p lanes).ite (.refl s)

theorem bayPresent_of_low {s t : State} (h : SameRegs (fun k => k < 0x500100) s t) (b : Nat) : t.bayPresent b = s.bayPresent b := by
  rw [State.bayPresent, h.fld .devIdent (16 + b) 1 0 0 (show (0 : Nat) < 0x500100 by decide), ← State.bayPresent]

theorem portState_powerPort_self {s : State} {p : Nat} (hp : p < 12) (present : s.bayPresent p = true) :
    (State.powerPort s p).portState p = portSettling := by
  have apart := (lanes_ne_status ⟨p, hp⟩ ⟨p, hp⟩).symm
  rw [State.powerPort, if_pos present]
  exact ((fld_setFld_apart _ _ _ _ _ _ apart).trans (fld_setFld_apart _ _ _ _ _ _ apart)).trans (portState_setPortState _ _ (by decide))

theorem portState_powerPort_other (s : State) {p q : Nat} (hp : p < 12) (hq : q < 12) (ne : q ≠ p) :
    (State.powerPort s p).portState q = s.portState q := by
  have apart : RegName.key .xglPortStatus 0 q ≠ RegName.key .xglPortStatus 0 p := by
    show 0x500100 + 8 * q ≠ 0x500100 + 8 * p
    omega
  have lanes := (lanes_ne_status ⟨p, hp⟩ ⟨q, hq⟩).symm
  unfold State.powerPort
  split
  · exact ((fld_setFld_apart _ _ _ _ _ _ lanes).trans (fld_setFld_apart _ _ _ _ _ _ lanes)).trans (fld_setFld_apart _ _ _ _ _ _ apart)
  · rfl

theorem portState_powerPorts {ps : List Nat} (hps : ∀ p ∈ ps, p < 12) {q : Nat} (hq : q < 12) (s : State) (present : s.bayPresent q = true)
    (h : q ∈ ps ∨ s.portState q = portSettling) : (ps.foldl State.powerPort s).portState q = portSettling := by
  induction ps generalizing s with
  | nil => exact h.resolve_left List.not_mem_nil
  | cons p ps ih =>
    rw [List.foldl_cons]
    refine ih (fun r hr => hps r (List.mem_cons_of_mem p hr)) _ ((bayPresent_of_low (powerPort_low s p) q).trans present) ?_
    by_cases here : q = p
    · subst here
      exact .inr (portState_powerPort_self hq present)
    · refine h.imp (fun h => (List.mem_cons.1 h).resolve_left here) fun settles => ?_
      rw [portState_powerPort_other s (hps p List.mem_cons_self) hq here, settles]

/-- The link stage begun. -/
def State.openLinks (s : State) : State := { s with linkStage := true, linkDone := false, censusOpen := true }

theorem exec_linkStageBegin {s : State} (stage : s.stage = stageLinks) (notBegun : s.linkStage = false) (on : s.power ≠ .off)
    (awake : s.power ≠ .keep) : exec .linkStageBegin s = .next ((List.range 12).foldl State.powerPort (State.openLinks s)) := by
  simp only [exec, execLinkStageBegin, stage, notBegun, on, awake, ne_eq, not_true_eq_false, Bool.false_eq_true, or_self, if_false]
  rfl

theorem linkStageBegin_frame (s : State) : (List.range 12).foldl State.powerPort (State.openLinks s) =
    { s with
      regs := ((List.range 12).foldl State.powerPort (State.openLinks s)).regs
      linkStage := true, linkDone := false, censusOpen := true } :=
  RegsOnly.foldl powerPort_frame (List.range 12) (State.openLinks s)

/-! ### The parts of the statement -/

/-- The part of O39 about a settling port. -/
theorem settling_part (s : State) (p : Sys2Proof.Port) (settles : s.portState p.val = portSettling) :
    ((s.port p.val).held = none → (s.port p.val).attempt = false →
        exec (.synthLock p) s = .next ((s.setFld .xglPortStatus 12 1 1 p.val).setPortState p.val portTraining)) ∧
      ((s.port p.val).held = none → (s.port p.val).attempt = true →
        ∃ t, exec (.synthLock p) s = .next t ∧ TrainingBegun s t p.val ∧ t.fld .xglPortStatus 12 1 p.val = 1) ∧
      (∀ m, (s.port p.val).held = some m →
        (∃ t, exec (.synthLock p) s = .next t ∧ TrainingBegun s t p.val ∧ (t.port p.val).held = none ∧ t.fld .xglCmd 8 8 = 0 ∧
          t.fld .xglCmd 6 1 = 0 ∧ t.fld .xglPortStatus 12 1 p.val = 1) ∧
        (∃ t, exec (.synthTimeout p) s = .next t ∧ LinkOnly s t p.val ∧ t.portState p.val = portDown ∧ (t.port p.val).held = none ∧
          t.fld .xglCmd 8 8 = 2 ∧ t.fld .xglCmd 6 1 = 0)) ∧
      ((s.port p.val).held = none → ∃ t, exec (.synthTimeout p) s = .next t ∧ LinkOnly s t p.val ∧ t.portState p.val = portDown ∧
        (t.port p.val).attempt = false ∧ t.reg .xglCmd = s.reg .xglCmd) ∧
      (s.linkStage = true → exec (.trainingAttempt p) s = .next (s.setPort p.val { s.port p.val with attempt := true }) ∧
        exec (.signalDetect p) s = .next (s.setPort p.val { s.port p.val with attempt := true })) := by
  refine ⟨?_, ?_, ?_, ?_, ?_⟩
  · intro free quiet
    simp only [exec, execSynthLock, settles, free, quiet, ne_eq, not_true_eq_false, if_false, Option.isSome_none, Bool.or_false,
      Bool.false_eq_true]
  · intro free attempt
    refine ⟨_, exec_synthLock_of_waiting settles free attempt, trainingBegun_lockSynth s p, ?_⟩
    rw [fld_beginTraining, fld_lockSynth]
  · intro m held
    constructor
    · refine ⟨_, exec_synthLock_of_held settles held, endHeld_begun (trainingBegun_lockSynth s p) 0, held_endHeld .., ?_, ?_, ?_⟩
      · exact (fld_xglStatus _ (by decide)).1
      · exact (fld_xglStatus _ (by decide)).2
      · rw [status_endHeld, fld_beginTraining, fld_lockSynth]
    · have same := sameRegs_giveUp (State.endHeld s p.val 2) p
      refine ⟨_, exec_synthTimeout_of_held settles held, ?_, portState_portGoDown _ p, ?_, ?_, ?_⟩
      · have ended : LinkFrame p.val s (State.endHeld s p.val 2) := ((LinkFrame.refl p.val s).onPort _).events ((EventsOnly.refl _).xglStatus 2)
        exact (ended.trans (giveUp_frame _ p.val)).linkOnly
      · rw [port_giveUp]
        exact held_endHeld ..
      · rw [same.fld .xglCmd 8 8 0 0 rfl]
        exact (fld_xglStatus _ (by decide)).1
      · rw [same.fld .xglCmd 6 1 0 0 rfl]
        exact (fld_xglStatus _ (by decide)).2
  · intro free
    refine ⟨_, exec_synthTimeout_of_free settles free, (giveUp_frame s p.val).linkOnly, portState_portGoDown _ p, ?_,
      (sameRegs_giveUp s p).reg .xglCmd 0 0 rfl⟩
    rw [port_giveUp]
  · intro stage
    constructor
    · simp only [exec, execTrainingAttempt, settles, stage, and_self, if_true]
      rfl
    · have loud : portSettling ≠ portQuiet := by decide
      simp only [exec, execSignalDetect, settles, stage, loud, if_false, and_self, if_true]
      rfl

/-- The part of O39 about the attempts of a port whose synthesiser has locked. -/
theorem attempt_part (s : State) (p : Sys2Proof.Port) (stage : s.linkStage = true) (locked : s.fld .xglPortStatus 12 1 p.val = 1)
    (state : s.portState p.val = portTraining ∨ s.portState p.val = portDown) :
    ((s.port p.val).training = false ∨ (s.port p.val).partnerSeen = false →
        ∃ t, exec (.trainingAttempt p) s = .next t ∧ TrainingBegun s t p.val ∧ (t.port p.val).partnerSeen = false) ∧
      (s.inStep2 < 6 →
        ((s.port p.val).training = true → s.portState p.val = portTraining →
          exec (.signalDetect p) s = .next (s.setPort p.val { s.port p.val with partnerSeen := true })) ∧
        ((s.port p.val).training = false ∨ s.portState p.val = portDown →
          ∃ t, exec (.signalDetect p) s = .next t ∧ TrainingBegun s t p.val ∧ (t.port p.val).partnerSeen = true)) ∧
      (6 ≤ s.inStep2 → exec (.signalDetect p) s = .next s) := by
  have notQuiet : s.portState p.val ≠ portQuiet := by
    obtain h | h := state <;> rw [h] <;> decide
  have notSettling : s.portState p.val ≠ portSettling := by
    obtain h | h := state <;> rw [h] <;> decide
  have begun := trainingBegun_beginTraining (LinkFrame.refl p.val s) rfl rfl rfl
  refine ⟨?_, ?_, ?_⟩
  · intro waits
    have free : ((s.port p.val).training && (s.port p.val).partnerSeen) = false := by
      obtain h | h := waits <;> rw [h]
      · rfl
      · exact Bool.and_false _
    have may : (decide (s.portState p.val = portTraining) || decide (s.portState p.val = portDown)) = true := by
      rw [Bool.or_eq_true, decide_eq_true_iff, decide_eq_true_iff]
      exact state
    refine ⟨(s.beginTraining p.val).onPort p.val
      (fun y => { y with berRound := (s.port p.val).training && (s.port p.val).berRound }), ?_, trainingBegun_onPort begun rfl, ?_⟩
    · simp only [exec, execTrainingAttempt, stage, notSettling, and_false, if_false, whenOk, locked, decide_true, may, free, Bool.and_self,
        Bool.not_false, if_true]
    · rw [port_onPort_self, port_beginTraining]
      rfl
  · intro room
    constructor
    · intro trains here
      have goes : (s.port p.val).training = true ∧ s.portState p.val = portTraining := ⟨trains, here⟩
      simp only [exec, execSignalDetect, notQuiet, notSettling, if_false, false_and, state, stage, locked, room, and_self, if_true]
      rw [if_pos goes]
      rfl
    · intro restarts
      have again : ¬ ((s.port p.val).training = true ∧ s.portState p.val = portTraining) := by
        rintro ⟨trains, here⟩
        obtain h | h := restarts
        · rw [h] at trains; cases trains
        · rw [h] at here; revert here; decide
      refine ⟨(s.beginTraining p.val).onPort p.val (fun x => { x with partnerSeen := true }), ?_, trainingBegun_onPort begun rfl, ?_⟩
      · simp only [exec, execSignalDetect, notQuiet, notSettling, if_false, false_and, state, stage, locked, room, and_self, if_true, again]
      · rw [port_onPort_self]
  · intro full
    simp only [exec, execSignalDetect, notQuiet, notSettling, if_false, false_and, Nat.not_lt.2 full, and_false]

theorem portDeaf_of_trains {s : State} {p : Nat} (h : s.portState p = portTraining) : s.portDeaf p = false ∧ s.portRuns p = false := by
  unfold State.portDeaf State.portRuns
  rw [h]
  exact ⟨rfl, rfl⟩

section
variable {s : State} {p : Sys2Proof.Port} {i : LinkIdentity} {m locked : BitVec 8} {skews : List Nat}

/-- The lanes that step 2 leaves in the receive direction. -/
def rxLeft (s : State) (p : Nat) (locked : BitVec 8) (skews : List Nat) : BitVec 8 := deskewed locked skews &&& ~~~(s.retiredLanes p 1)

/-- Those that the partner's report leaves in the transmit direction. -/
def txLeft (s : State) (p : Nat) (m : BitVec 8) : BitVec 8 := m &&& ~~~(s.retiredLanes p 0)

/-- The precoded lanes shown, and the good ones reported. -/
def State.reportTrained (s : State) (p : Nat) (pre rx : BitVec 8) : State := (s.setFld .xglLanes 24 8 pre.toNat p).reportLanes p rx 0

theorem reportTrained_frame (s : State) (p : Nat) (pre rx : BitVec 8) : LinkFrame p s (State.reportTrained s p pre rx) :=
  ((LinkFrame.refl p s).events ((EventsOnly.refl s).setFld ..)).trans (reportLanes_frame _ p rx 0)

theorem port_reportTrained (s : State) (p : Sys2Proof.Port) (pre rx : BitVec 8) : (State.reportTrained s p.val pre rx).port p.val =
    { s.port p.val with ctlOut := (s.port p.val).ctlOut ++ reports s p.val rx 0, locked := some rx } := by
  have same := (SameRegs.refl (K := LinkKey p.val) s).setFld .xglLanes 24 8 pre.toNat p.val 0 (not_linkKey_lanes p)
  rw [State.reportTrained, port_reportLanes, reports, ownIdentity_of_same same, reports]
  rfl

theorem retiredLanes_reportTrained (s : State) (p : Nat) (pre rx : BitVec 8) :
    (State.reportTrained s p pre rx).retiredLanes p 0 = s.retiredLanes p 0 := by
  rw [State.reportTrained, retiredLanes_reportLanes, State.retiredLanes, fld_setFld_beside _ _ _ _ _ (by decide), ← State.retiredLanes]

theorem portState_reportTrained (s : State) (p : Sys2Proof.Port) (pre rx : BitVec 8) :
    (State.reportTrained s p.val pre rx).portState p.val = s.portState p.val := by
  rw [State.reportTrained, portState_reportLanes]
  exact fld_setFld_apart _ _ _ _ _ _ (lanes_ne_status p p).symm

theorem policy_reportTrained (s : State) (p : Nat) (pre rx : BitVec 8) :
    (State.reportTrained s p pre rx).fld .xglPolicy 12 4 = s.fld .xglPolicy 12 4 := by
  have lanes : RegName.key .xglPolicy 0 0 ≠ RegName.key .xglLanes 0 p := show 0x500008 ≠ 0x500280 + 8 * p by omega
  exact fld_setFld_apart s _ _ _ _ _ lanes

theorem finishTraining_of_waiting {s : State} {p : Nat} (h : (s.port p).idIn = none ∨ (s.port p).lanesIn = none) : s.finishTraining p = s := by
  unfold State.finishTraining
  dsimp only
  split
  next hi hm =>
    obtain h | h := h
    · rw [h] at hi; cases hi
    · rw [h] at hm; cases hm
  next => rfl

theorem exec_trainingComplete (trains : (s.port p.val).training = true) (state : s.portState p.val = portTraining)
    (seen : (s.port p.val).partnerSeen = true) (open_ : (s.port p.val).locked = none) (pre : BitVec 8) :
    exec (.trainingComplete p locked skews pre) s = .next (if widthOf (rxLeft s p.val locked skews) = 0 then
        (s.setFld .xglLanes 24 8 pre.toNat p.val).portGoDown p.val
      else (State.reportTrained s p.val pre (rxLeft s p.val locked skews)).finishTraining p.val) := by
  simp only [exec, execTrainingComplete, whenOk, trains, seen, open_, state, Option.isNone_none, decide_true, Bool.and_self, if_true]
  rfl

end

/-- The part of O39 about the end of steps 2 and 3. -/
theorem complete_part (s : State) (p : Sys2Proof.Port) (i : LinkIdentity) (m pre locked : BitVec 8) (skews : List Nat)
    (trains : (s.port p.val).training = true) (state : s.portState p.val = portTraining) (seen : (s.port p.val).partnerSeen = true)
    (open_ : (s.port p.val).locked = none) :
    (widthOf (rxLeft s p.val locked skews) = 0 →
      ∃ t, exec (.trainingComplete p locked skews pre) s = .next t ∧ t.portState p.val = portDown) ∧
    (widthOf (rxLeft s p.val locked skews) ≠ 0 →
      ((s.port p.val).idIn = none ∨ (s.port p.val).lanesIn = none →
        ∃ t, exec (.trainingComplete p locked skews pre) s = .next t ∧ LinkOnly s t p.val ∧
          t.port p.val = { s.port p.val with
            ctlOut := (s.port p.val).ctlOut ++ reports s p.val (rxLeft s p.val locked skews) 0, locked := some (rxLeft s p.val locked skews) } ∧
          t.portState p.val = portTraining ∧ t.fld .xglLanes 24 8 p.val = pre.toNat) ∧
      ((s.port p.val).idIn = some i → (s.port p.val).lanesIn = some m → widthOf (txLeft s p.val m) ≠ 0 →
        ∃ t, exec (.trainingComplete p locked skews pre) s = .next t ∧
          Trained s t p.val { s.port p.val with ctlOut := (s.port p.val).ctlOut ++ reports s p.val (rxLeft s p.val locked skews) 0 }
            (rxLeft s p.val locked skews) (txLeft s p.val m) i)) := by
  have run := exec_trainingComplete (locked := locked) (skews := skews) trains state seen open_ pre
  have port := port_reportTrained s p pre (rxLeft s p.val locked skews)
  refine ⟨fun narrow => ⟨_, by rw [run, if_pos narrow], portState_portGoDown _ p⟩, fun wide => ⟨?_, ?_⟩⟩
  · intro incomplete
    rw [run, if_neg wide, finishTraining_of_waiting (by rw [port]; exact incomplete)]
    refine ⟨_, rfl, (reportTrained_frame ..).linkOnly, port, (portState_reportTrained ..).trans state, ?_⟩
    exact fld_setFld_of_lt s _ _ _ (by decide) (BitVec.isLt _)
  · intro id lanes txWide
    have retired := retiredLanes_reportTrained s p.val pre (rxLeft s p.val locked skews)
    have done := finishTraining_of_complete (s := State.reportTrained s p.val pre (rxLeft s p.val locked skews)) (p := p) (m := m) (i := i)
      (rx := rxLeft s p.val locked skews) (by rw [port]) (by rw [port]; exact id) (by rw [port]; exact lanes) (by rw [port]; exact trains)
      ((portState_reportTrained ..).trans state) wide (by rw [retired]; exact txWide)
    rw [run, if_neg wide, done, retired]
    obtain ⟨frame, ports, rest⟩ := trained_of_complete (tx := txLeft s p.val m) (rx := rxLeft s p.val locked skews) (i := i)
      (reportTrained_frame s p.val pre (rxLeft s p.val locked skews)) (policy_reportTrained ..)
    exact ⟨_, rfl, frame, by rw [port] at ports; exact ports, rest⟩

/-- The end of a training by the partner's IDENTITY or LANES, the last of the two to come in. -/
theorem trained_by_partner {s : State} {p : Sys2Proof.Port} {i : LinkIdentity} {m rx : BitVec 8} {f : XPort → XPort}
    (state : s.portState p.val = portTraining) (trains : (f (s.port p.val)).training = true) (locked : (f (s.port p.val)).locked = some rx)
    (id : (f (s.port p.val)).idIn = some i) (lanes : (f (s.port p.val)).lanesIn = some m) (rxWide : widthOf rx ≠ 0)
    (txWide : widthOf (txLeft s p.val m) ≠ 0) :
    Trained s (((s.onPort p.val f).finishTraining p.val).finishRetrain p.val) p.val (f (s.port p.val)) rx (txLeft s p.val m) i := by
  have port := port_onPort_self s p.val f
  have done := finishTraining_of_complete (s := s.onPort p.val f) (p := p) (m := m) (i := i) (rx := rx) (by rw [port]; exact locked)
    (by rw [port]; exact id) (by rw [port]; exact lanes) (by rw [port]; exact trains) ((portState_onPort ..).trans state) rxWide
    (by rw [retiredLanes_onPort]; exact txWide)
  rw [retiredLanes_onPort, ← txLeft] at done
  rw [done, finishRetrain_of_unlocked (locked_trainingEnds ..), ← port]
  exact trained_of_complete ((LinkFrame.refl p.val s).onPort f) (fld_onPort ..)

/-- The part of O39 about the end of a training by the partner's operations. -/
theorem partner_part (s : State) (p : Sys2Proof.Port) (i : LinkIdentity) (m : BitVec 8) (fseq : BitVec 32)
    (trains : (s.port p.val).training = true) (state : s.portState p.val = portTraining) (rx : BitVec 8)
    (locked : (s.port p.val).locked = some rx) :
    (widthOf rx ≠ 0 → widthOf (txLeft s p.val m) ≠ 0 →
      ((s.port p.val).lanesIn = some m → ∃ t, exec (.identity p i) s = .next t ∧
        Trained s t p.val { s.port p.val with ctlIn := (s.port p.val).ctlIn.erase (.identity i), idIn := some i } rx (txLeft s p.val m) i) ∧
      ((s.port p.val).idIn = some i → ∃ t, exec (.lanes p m fseq) s = .next t ∧
        Trained s t p.val { s.port p.val with ctlIn := (s.port p.val).ctlIn.erase (.lanes m fseq), lanesIn := some m } rx
          (txLeft s p.val m) i)) ∧
    ((s.port p.val).idIn = some i → widthOf (txLeft s p.val m) = 0 →
      ∃ t, exec (.lanes p m fseq) s = .next t ∧ t.portState p.val = portDown) := by
  obtain ⟨hears, rests⟩ := portDeaf_of_trains state
  refine ⟨fun rxWide txWide => ⟨?_, ?_⟩, ?_⟩
  · intro lanes
    exact ⟨_, exec_identity_of_rests hears rests, trained_by_partner (f := takeIdentity i) state trains locked rfl lanes rxWide txWide⟩
  · intro id
    exact ⟨_, exec_lanes_of_rests hears rests, trained_by_partner (f := takeLanes m fseq) state trains locked id rfl rxWide txWide⟩
  · intro id narrow
    have port := port_onPort_self s p.val (takeLanes m fseq)
    refine ⟨_, exec_lanes_of_rests hears rests, ?_⟩
    rw [finishTraining_of_narrow (rx := rx) (m := m) (i := i) (by rw [port]; exact locked) (by rw [port]; exact id) (by rw [port]; rfl)
      (by rw [port]; exact trains) ((portState_onPort ..).trans state) (by rw [retiredLanes_onPort]; exact narrow),
      finishRetrain_of_unlocked (locked_portGoDown ..), portState_portGoDown]

/-- The part of O39 about the error-rate measurement. -/
theorem measure_part (s : State) (p : Sys2Proof.Port) (locked : BitVec 8) (checks : s.portState p.val = portChecking) :
    (locked ≠ lanesInUse (s.port p.val).rxGood → exec (.berWindowEnd p locked) s = .next s) ∧
    ((∀ l, l < 8 → (lanesInUse (s.port p.val).rxGood).getLsbD l = true → ¬ (s.fld .xglPolicy 12 4 ≠ 0 ∧
        106250000000 < ((s.port p.val).lane l).berBits * 10 ^ s.fld .xglPolicy 12 4)) →
      ∃ t, exec (.berWindowEnd p (lanesInUse (s.port p.val).rxGood)) s = .next t ∧ LinkOnly s t p.val ∧ t.portState p.val = portUp ∧
        ∀ l, l < 8 → (t.port p.val).lane l = { (s.port p.val).lane l with berBits := 0 }) ∧
    (∀ l, l < 8 → (lanesInUse (s.port p.val).rxGood).getLsbD l = true → (s.fld .xglPolicy 12 4 ≠ 0 ∧
        106250000000 < ((s.port p.val).lane l).berBits * 10 ^ s.fld .xglPolicy 12 4) →
      ((s.port p.val).berRound = false → ∃ t, exec (.berWindowEnd p (lanesInUse (s.port p.val).rxGood)) s = .next t ∧
        TrainingBegun s t p.val ∧ (t.port p.val).berRound = true ∧ ((t.port p.val).partnerSeen = true ↔ s.inStep2 < 6)) ∧
      ((s.port p.val).berRound = true → ∃ t, exec (.berWindowEnd p (lanesInUse (s.port p.val).rxGood)) s = .next t ∧
        (t.retiredLanes p.val 1).getLsbD l = true ∧
        (t.port p.val).rxGood.getLsbD l = false ∧ (t.portState p.val = portUp ∨ t.portState p.val = portDown))) := by
  refine ⟨?_, ?_, ?_⟩
  · intro other
    simp only [exec, execBerWindowEnd, other, ne_eq, not_false_eq_true, or_true, if_true]
  · intro good
    have quiet : noisyLanes s p.val = [] := by
      rw [List.eq_nil_iff_forall_not_mem]
      intro l hl
      obtain ⟨⟨low, used⟩, noisy⟩ := mem_noisyLanes.1 hl
      exact good l low used noisy
    refine ⟨_, exec_berWindowEnd_of_quiet checks quiet, (((LinkFrame.refl p.val s).onPort _).events (linkUp_frame _ p.val)).linkOnly,
      portState_linkUp _ p, fun l low => ?_⟩
    rw [(linkUp_frame _ p.val).port, port_onPort_self, lane_clearBer _ low]
  · intro l low used noisy
    have here : l ∈ noisyLanes s p.val := mem_noisyLanes.2 ⟨⟨low, used⟩, noisy⟩
    have some : (noisyLanes s p.val).isEmpty = false := List.isEmpty_eq_false_iff_exists_mem.2 ⟨l, here⟩
    constructor
    · intro first
      have clear : (clearBer (s.port p.val)).voteQ = (s.port p.val).voteQ ∧ (clearBer (s.port p.val)).ackQ = (s.port p.val).ackQ ∧
          (clearBer (s.port p.val)).dataQ = (s.port p.val).dataQ := by
        rw [clearBer_frame]
        exact ⟨rfl, rfl, rfl⟩
      have begun := trainingBegun_beginTraining (t := s.onPort p.val clearBer) ((LinkFrame.refl p.val s).onPort _)
        (by rw [port_onPort_self]; exact clear.1) (by rw [port_onPort_self]; exact clear.2.1) (by rw [port_onPort_self]; exact clear.2.2)
      refine ⟨_, exec_berWindowEnd_of_first checks some first, trainingBegun_onPort begun rfl, ?_, ?_⟩
      · rw [port_onPort_self]
      · rw [port_onPort_self, inStep2_clearBer]
        exact decide_eq_true_iff
    · intro second
      obtain ⟨retired, out⟩ := dropNoisy_effect s p low here
      exact ⟨_, exec_berWindowEnd_of_second checks some second, enterRound_effect _ p retired out rfl⟩

/-- Settles O39. -/
theorem trainingBringsAPortUp : Obligations.TrainingBringsAPortUp := by
  unfold Obligations.TrainingBringsAPortUp
  intro s p i m pre locked fseq skews
  dsimp only
  refine ⟨?_, settling_part s p, attempt_part s p, ?_, fun small l low => getLsbD_deskewed small low, ?_, measure_part s p locked, ?_, ?_, ?_⟩
  · intro stage notBegun on awake
    refine ⟨_, exec_linkStageBegin stage notBegun on awake, linkStageBegin_frame s, fun q hq present => ?_⟩
    exact portState_powerPorts (fun _ h => List.mem_range.1 h) hq _ present (.inl (List.mem_range.2 hq))
  · intro quiet
    simp only [exec, execSignalDetect, quiet, if_true]
  · intro trains state
    refine ⟨complete_part s p i m pre locked skews trains state, fun rx hrx => (partner_part s p i m fseq trains state rx hrx).1,
      fun rx hrx => (partner_part s p i m fseq trains state rx hrx).2⟩
  · intro linked
    have had : s.hasPartner p.val = true := by
      unfold State.hasPartner
      obtain h | h := linked
      · rw [h]; rfl
      · rw [h, decide_eq_true rfl, Bool.or_true]; rfl
    have may : (s.portRuns p.val || decide (s.portState p.val = portRetraining)) = true := by
      rw [Bool.or_eq_true, decide_eq_true_iff]
      exact linked
    exact ⟨by simp only [exec, execPartnerRemoved, whenOk, may, if_true], portState_portGoDown s p, removed_portGoDown p had⟩
  · intro opened
    simp only [exec, execCensusClose, whenOk, opened, if_true]
  · intro stage notDone settled
    have all : (List.range 12).all s.portSettled = true := List.all_eq_true.2 fun q hq => settled q (List.mem_range.1 hq)
    simp only [exec, execLinkStageEnd, whenOk, stage, notDone, all, Bool.not_false, Bool.and_self, if_true]

end Sys2Proof.Proofs
end

section
namespace Sys2Proof.Proofs

open Sys2Proof Sys2Proof.Machine Sys2Proof.Claims

/-! ### The fields of a flit as it is sent (R346, R347) -/

theorem fieldAt_append {a b c : List Byte} {off n : Nat} (ha : a.length = off) (hb : b.length = n) : fieldAt (a ++ b ++ c) off n = leNum b := by
  rw [fieldAt, slice_append ha hb]

/-- The first bytes of a flit: its kind, its flags, and the three sequence numbers. -/
theorem flitBytes_eq (f : Flit) : ∃ kind rest, flitBytes f = le 1 kind ++ le 1 ((if f.nak.isSome then 1 else 0) + (if f.replayed then 2 else 0)) ++
    zeros 2 ++ le 4 f.fseq.toNat ++ le 4 f.ackSeq.toNat ++ le 4 ((f.nak.map BitVec.toNat).getD 0) ++ rest := by
  unfold flitBytes controlSlot
  simp only [List.append_assoc]
  exact ⟨_, _, rfl⟩

theorem flags_testBit (a b : Bool) : ((if a then 1 else 0) + (if b then 2 else 0)) % 256 ^ 1 < 4 ∧
    Nat.testBit (((if a then 1 else 0) + (if b then 2 else 0)) % 256 ^ 1) 0 = a ∧
    Nat.testBit (((if a then 1 else 0) + (if b then 2 else 0)) % 256 ^ 1) 1 = b := by
  revert a b
  decide

/-- A word laid out and read back. -/
theorem ofNat_leNum_le4 (x : BitVec 32) : BitVec.ofNat 32 (leNum (le 4 x.toNat)) = x := by
  rw [leNum_le, Nat.mod_eq_of_lt (a := x.toNat) (b := 256 ^ 4) x.isLt, BitVec.ofNat_toNat, BitVec.setWidth_eq]

theorem flitOf_flitBytes (f : Flit) : (flitOf (flitBytes f)).fseq = f.fseq ∧ (flitOf (flitBytes f)).ackSeq = f.ackSeq ∧
    (flitOf (flitBytes f)).nak = f.nak ∧ (flitOf (flitBytes f)).replayed = f.replayed := by
  obtain ⟨kind, rest, e⟩ := flitBytes_eq f
  have flags : fieldAt (flitBytes f) 1 1 = ((if f.nak.isSome then 1 else 0) + (if f.replayed then 2 else 0)) % 256 ^ 1 := by
    rw [e, show ∀ a b c d e' g h : List Byte, a ++ b ++ c ++ d ++ e' ++ g ++ h = a ++ b ++ (c ++ d ++ e' ++ g ++ h) by simp,
      fieldAt_append (length_le ..) (length_le ..), leNum_le]
  have seq : fieldAt (flitBytes f) 4 4 = leNum (le 4 f.fseq.toNat) := by
    rw [e, show ∀ a b c d e' g h : List Byte, a ++ b ++ c ++ d ++ e' ++ g ++ h = (a ++ b ++ c) ++ d ++ (e' ++ g ++ h) by simp,
      fieldAt_append (by simp) (length_le ..)]
  have ack : fieldAt (flitBytes f) 8 4 = leNum (le 4 f.ackSeq.toNat) := by
    rw [e, show ∀ a b c d e' g h : List Byte, a ++ b ++ c ++ d ++ e' ++ g ++ h = (a ++ b ++ c ++ d) ++ e' ++ (g ++ h) by simp,
      fieldAt_append (by simp) (length_le ..)]
  have nak : fieldAt (flitBytes f) 0x0C 4 = leNum (le 4 ((f.nak.map BitVec.toNat).getD 0)) := by
    rw [e, fieldAt_append (by simp) (length_le ..)]
  obtain ⟨_, isNak, isReplay⟩ := flags_testBit f.nak.isSome f.replayed
  refine ⟨?_, ?_, ?_, ?_⟩
  · exact (congrArg (BitVec.ofNat 32) seq).trans (ofNat_leNum_le4 _)
  · exact (congrArg (BitVec.ofNat 32) ack).trans (ofNat_leNum_le4 _)
  · show (if (fieldAt (flitBytes f) 1 1).testBit 0 then some (BitVec.ofNat 32 (fieldAt (flitBytes f) 0x0C 4)) else none) = f.nak
    rw [flags, isNak, nak]
    cases f.nak with
    | none => rfl
    | some n => exact congrArg some (ofNat_leNum_le4 n)
  · show (fieldAt (flitBytes f) 1 1).testBit 1 = f.replayed
    rw [flags, isReplay]

/-! ### Reception (R344, R349, R350) -/

/-- A port past a flit: a width change of the receive direction takes effect between frames. -/
def State.flitDone (s : State) (p : Nat) (y : XPort) : State := if y.rxAt.map Prod.snd = some 0 then s.rxWidthDue p else s

/-- What a flit does that has come, or is lost. -/
def State.useFlit (s : State) (p : Nat) (a : Nat × Nat) (o : Option (List Byte)) : State :=
  match o with
  | none => s.onPort p XPort.loseFlit
  | some b => if flitGood b then s.takeFlit p a.1 (flitOf b) else (s.onPort p XPort.loseFlit).countEvent p 14 a.2 false

section
variable {s : State} {p : Sys2Proof.Port} (hears : s.portHears p.val = true)
include hears

theorem exec_flitReceive_of_none (h : (s.port p.val).nextPlace = none) (l : Nat) : exec (.flitReceive p l) s = .next s := by
  simp only [exec, execFlitReceive, hears, h, Bool.not_true, Bool.false_eq_true, if_false]

theorem exec_flitReceive_of_other {a : Nat × Nat} {l : Nat} (h : (s.port p.val).nextPlace = some a) (ne : l ≠ a.2) :
    exec (.flitReceive p l) s = .next s := by
  simp only [exec, execFlitReceive, hears, h, Bool.not_true, Bool.false_eq_true, if_false, ne.symm, ne_eq, not_false_eq_true, if_true]

theorem exec_flitReceive_of_waiting {a : Nat × Nat} (h : (s.port p.val).nextPlace = some a)
    (waits : (s.port p.val).takePlace (widthOf (s.rxLanes p.val)) a = none) : exec (.flitReceive p a.2) s = .next s := by
  simp only [exec, execFlitReceive, hears, h, waits, Bool.not_true, Bool.false_eq_true, if_false, ne_eq, not_true_eq_false]

theorem exec_flitReceive_of_place {a : Nat × Nat} {o : Option (List Byte)} {y : XPort} (h : (s.port p.val).nextPlace = some a)
    (come : (s.port p.val).takePlace (widthOf (s.rxLanes p.val)) a = some (o, y)) :
    exec (.flitReceive p a.2) s = .next (State.flitDone (State.useFlit (s.setPort p.val y) p.val a o) p.val y) := by
  simp only [exec, execFlitReceive, hears, h, come, Bool.not_true, Bool.false_eq_true, if_false, ne_eq, not_true_eq_false]
  rfl

end

theorem useFlit_of_good (s : State) (p : Nat) (a : Nat × Nat) {b : List Byte} (good : flitGood b = true) :
    State.useFlit s p a (some b) = s.takeFlit p a.1 (flitOf b) := if_pos good

theorem useFlit_of_bad (s : State) (p : Nat) (a : Nat × Nat) {b : List Byte} (bad : flitGood b = false) :
    State.useFlit s p a (some b) = (s.onPort p XPort.loseFlit).countEvent p 14 a.2 false := if_neg (by rw [bad]; exact Bool.false_ne_true)

/-- What a flit with a right CRC does, by its kind. -/
theorem takeFlit_of_kind (s : State) (p count : Nat) (f : Flit) :
    (f.kind = .idle → s.takeFlit p count f = s.onPort p (fun x => x.takeControl f s.retryBudget)) ∧
    (f.kind = .normal → s.takeFlit p count f = (s.onPort p (fun x => x.takeControl f s.retryBudget)).onPort p (fun x => x.takeNormal f)) ∧
    (∀ c, f.kind = .control c →
      s.takeFlit p count f = (s.onPort p (fun x => x.takeControl f s.retryBudget)).onPort p (fun x => x.takeCtl count c)) := by
  refine ⟨?_, ?_, ?_⟩
  · intro h
    simp only [State.takeFlit, h]
  · intro h
    simp only [State.takeFlit, h]
  · intro c h
    simp only [State.takeFlit, h]

/-- The part of O41 about a place of the stream. -/
theorem takePlace_part (x : XPort) (w c l : Nat) :
    (∀ e, x.rxCw.find? (fun e => decide (e.1 = c) && decide (e.2.1 = l)) = some e →
      ∃ y, x.takePlace w (c, l) = some (e.2.2, y) ∧ y.rxAt = some (if l + 1 < w then (c, l + 1) else ((c + 1) % 4096, 0)) ∧
        y = { x with rxAt := y.rxAt, rxCw := y.rxCw }) ∧
    ((∀ e ∈ x.rxCw, ¬ (e.1 = c ∧ e.2.1 = l)) →
      ((∃ e ∈ x.rxCw, 4 < (e.1 + 4096 - c) % 4096 ∧ (e.1 + 4096 - c) % 4096 < 2048) →
        ∃ y, x.takePlace w (c, l) = some (none, y) ∧ y.rxAt = some (if l + 1 < w then (c, l + 1) else ((c + 1) % 4096, 0)) ∧
          y = { x with rxAt := y.rxAt, rxCw := y.rxCw }) ∧
      ((¬ ∃ e ∈ x.rxCw, 4 < (e.1 + 4096 - c) % 4096 ∧ (e.1 + 4096 - c) % 4096 < 2048) → x.takePlace w (c, l) = none)) := by
  refine ⟨?_, fun absent => ?_⟩
  · intro e found
    simp only [XPort.takePlace, found]
    exact ⟨_, rfl, rfl, rfl⟩
  · have none_ : x.rxCw.find? (fun e => decide (e.1 = c) && decide (e.2.1 = l)) = none := by
      rw [List.find?_eq_none]
      intro e he
      rw [Bool.and_eq_true, decide_eq_true_iff, decide_eq_true_iff]
      exact absent e he
    have late : x.rxCw.any (fun e => decide (4 < (e.1 + 4096 - c) % 4096) && decide ((e.1 + 4096 - c) % 4096 < 2048)) = true ↔
        ∃ e ∈ x.rxCw, 4 < (e.1 + 4096 - c) % 4096 ∧ (e.1 + 4096 - c) % 4096 < 2048 := by
      simp only [List.any_eq_true, Bool.and_eq_true, decide_eq_true_iff]
    simp only [XPort.takePlace, none_]
    constructor
    · intro h
      rw [if_pos (late.2 h)]
      exact ⟨_, rfl, rfl, rfl⟩
    · intro h
      rw [if_neg (mt late.1 h)]

theorem seen_takeCtl {x : XPort} {count : Nat} {c : Ctl} :
    (x.ctlSeen.filter (fun q => decide ((count + 4096 - q.2) % 4096 ≤ 2))).any (fun q => decide (q.1 = c)) = true ↔
      ∃ n, (c, n) ∈ x.ctlSeen ∧ (count + 4096 - n) % 4096 ≤ 2 := by
  rw [List.any_eq_true]
  constructor
  · rintro ⟨⟨d, n⟩, hq, he⟩
    obtain ⟨seen, near⟩ := List.mem_filter.1 hq
    have same : d = c := of_decide_eq_true he
    exact ⟨n, same ▸ seen, of_decide_eq_true near⟩
  · rintro ⟨n, seen, near⟩
    exact ⟨(c, n), List.mem_filter.2 ⟨seen, decide_eq_true near⟩, decide_eq_true rfl⟩

/-- The part of O41 about NORMAL flits and CONTROL operations received. -/
theorem receive_part (x : XPort) (f : Flit) (count : Nat) (c : Ctl) :
    (f.fseq.toNat = x.rxExpect → x.takeNormal f = f.slots.foldl (fun x sl => x.takeSlot sl)
      { x with rxExpect := (x.rxExpect + 1) % 2 ^ 32, rxAny := true, discarding := false }) ∧
    (f.fseq.toNat ≠ x.rxExpect → x.takeNormal f = { x with
      nakDue := (x.takeNormal f).nakDue, discarding := (x.takeNormal f).discarding }) ∧
    ((∀ n, (c, n) ∈ x.ctlSeen → 2 < (count + 4096 - n) % 4096) → (x.takeCtl count c).ctlIn = x.ctlIn ++ [c]) ∧
    (∀ n, (c, n) ∈ x.ctlSeen → (count + 4096 - n) % 4096 ≤ 2 → (x.takeCtl count c).ctlIn = x.ctlIn) := by
  refine ⟨?_, ?_, ?_, ?_⟩
  · intro expected
    rw [XPort.takeNormal, if_pos expected]
  · intro other
    rw [XPort.takeNormal, if_neg other]
    split <;> rfl
  · intro fresh
    have unseen : ¬ _ := mt seen_takeCtl.1 (fun ⟨n, seen, near⟩ => absurd (fresh n seen) (Nat.not_lt.2 near))
    rw [XPort.takeCtl, if_neg unseen]
  · intro n seen near
    rw [XPort.takeCtl, if_pos (seen_takeCtl.2 ⟨n, seen, near⟩)]

/-! ### Transmission (R344, R348 to R350) -/

theorem length_frameOf (up : Bool) (w : Nat) (cs : List Ctl) (x : XPort) : (XPort.frameOf up w cs x).1.length = w := by
  induction w generalizing cs x with
  | zero => rfl
  | succ w ih => exact congrArg (· + 1) (ih cs.tail _)

theorem kind_nextFlit_some (x : XPort) (up : Bool) (c : Ctl) : (x.nextFlit up (some c)).1.kind = .control c := rfl

/-- The CONTROL operations of a frame come first, in order. -/
theorem frameOf_control (up : Bool) {w k : Nat} (hk : k < w) {cs : List Ctl} {o : Ctl} (h : cs[k]? = some o) (x : XPort) :
    ∃ f, (XPort.frameOf up w cs x).1[k]? = some f ∧ f.kind = .control o := by
  induction w generalizing k cs x with
  | zero => omega
  | succ w ih =>
    cases cs with
    | nil => simp at h
    | cons c cs =>
      cases k with
      | zero =>
        rw [List.getElem?_cons_zero, Option.some.injEq] at h
        subst h
        exact ⟨_, rfl, kind_nextFlit_some ..⟩
      | succ k => exact ih (Nat.lt_of_succ_lt_succ hk) h _

theorem txWidthDue_of_none {s : State} {p : Nat} (h : (s.port p).widthFrom = none) : s.txWidthDue p = s := by
  unfold State.txWidthDue
  simp only [h]

/-- A NAK that goes out is counted (R391). -/
def State.countNak (s : State) (p : Nat) : State :=
  if (s.port p).nakDue ∧ s.txWidth p ≠ 0 then s.bump .xglErrCount 48 16 p else s

theorem countNak_frame (s : State) (p : Nat) : EventsOnly s (State.countNak s p) := ((EventsOnly.refl s).bump ..).ite (.refl s)

/-- The flits of a frame, and the port after them. -/
def frameNow (s : State) (p : Nat) : List Flit × XPort :=
  XPort.frameOf (decide (s.portState p = portUp)) (s.txWidth p) (((s.port p).ctlOut.map Prod.fst).take (s.txWidth p)) (s.port p)

/-- The port once its frame is sent. -/
def sentPort (s : State) (p : Nat) : XPort :=
  { (frameNow s p).2 with
    frame := ((frameNow s p).1.zip (List.range (s.txWidth p))).map (fun f => cwPayload f.2 (s.port p).txCw (flitBytes f.1))
    txCw := ((s.port p).txCw + 1) % 4096
    ctlOut := ((s.port p).ctlOut.take (s.txWidth p)).filterMap (fun c => if c.2 ≤ 1 then none else some (c.1, c.2 - 1)) ++
      (s.port p).ctlOut.drop (s.txWidth p) }

theorem exec_frameTransmit {s : State} {p : Sys2Proof.Port} (sends : s.cwArrive p.val = true ∨ s.portState p.val = portRetraining)
    (steady : (s.port p.val).widthFrom = none) :
    exec (.frameTransmit p) s = .next ((State.countNak s p.val).setPort p.val (sentPort s p.val)) := by
  have may : (s.cwArrive p.val || decide (s.portState p.val = portRetraining)) = true := by
    rw [Bool.or_eq_true, decide_eq_true_iff]
    exact sends
  simp only [exec, execFrameTransmit, may, Bool.not_true, Bool.false_eq_true, if_false, txWidthDue_of_none steady]
  rfl

/-- The part of O41 about a frame sent. -/
theorem frame_part (s : State) (p : Sys2Proof.Port) (sends : s.cwArrive p.val = true ∨ s.portState p.val = portRetraining)
    (steady : (s.port p.val).widthFrom = none) :
    ∃ t, exec (.frameTransmit p) s = .next t ∧ LinkOnly s t p.val ∧ (frameNow s p.val).1.length = s.txWidth p.val ∧
      (t.port p.val).frame = ((frameNow s p.val).1.zip (List.range (s.txWidth p.val))).map (fun f => cwPayload f.2 (s.port p.val).txCw (flitBytes f.1)) ∧
      (t.port p.val).txCw = ((s.port p.val).txCw + 1) % 4096 ∧ (t.port p.val).replay = (frameNow s p.val).2.replay ∧
      (t.port p.val).stream = (frameNow s p.val).2.stream ∧
      (t.port p.val).txSeq = (frameNow s p.val).2.txSeq ∧ (t.port p.val).resend = (frameNow s p.val).2.resend ∧
      (∀ k, k < min (s.txWidth p.val) (s.port p.val).ctlOut.length → ∀ o n, (s.port p.val).ctlOut[k]? = some (o, n) →
        ∃ f, (frameNow s p.val).1[k]? = some f ∧ f.kind = .control o) ∧
      t.regs = (if (s.port p.val).nakDue = true ∧ s.txWidth p.val ≠ 0 then (s.bump .xglErrCount 48 16 p.val).regs else s.regs) := by
  refine ⟨_, exec_frameTransmit sends steady, ?_, length_frameOf .., ?_⟩
  · exact (((LinkFrame.refl p.val s).events (countNak_frame s p.val)).onPort fun _ => sentPort s p.val).linkOnly
  · rw [State.port_setPort_self]
    refine ⟨rfl, rfl, rfl, rfl, rfl, rfl, fun k hk o n h => ?_, ?_⟩
    · refine frameOf_control _ (by omega) ?_ _
      rw [List.getElem?_take_of_lt (by omega), List.getElem?_map, h]
      rfl
    · show (State.countNak s p.val).regs = _
      unfold State.countNak
      split <;> rfl

/-- The part of O41 about the flit sent next. -/
theorem nextFlit_part (x : XPort) :
    (x.resend = [] → x.stream ≠ [] → x.replay.length < 512 → x.widthFrom.map Prod.fst ≠ some x.txSeq →
      (x.nextFlit true none).1.kind = .normal ∧ (x.nextFlit true none).1.fseq = BitVec.ofNat 32 x.txSeq ∧
      (x.nextFlit true none).1.slots = x.stream.take 9 ++ List.replicate (9 - (x.stream.take 9).length) Slot.empty ∧
      (x.nextFlit true none).1.slots.length = 9 ∧ (x.nextFlit true none).1.replayed = false ∧
      (x.nextFlit true none).2.replay = x.replay ++ [(x.txSeq, x.stream.take 9 ++ List.replicate (9 - (x.stream.take 9).length) Slot.empty)] ∧
      (x.nextFlit true none).2.txSeq = (x.txSeq + 1) % 2 ^ 32 ∧ (x.nextFlit true none).2.stream = x.stream.drop 9) ∧
    (∀ (q : Nat) (sl : List Slot) (rest : List (Nat × List Slot)), x.resend = (q, sl) :: rest →
      (x.nextFlit true none).1.fseq = BitVec.ofNat 32 q ∧ (x.nextFlit true none).1.slots = sl ∧
        (x.nextFlit true none).1.replayed = true ∧ (x.nextFlit true none).2.resend = rest) ∧
    (x.resend = [] → x.stream = [] ∨ 512 ≤ x.replay.length ∨ x.widthFrom.map Prod.fst = some x.txSeq →
      (x.nextFlit true none).1.kind = .idle) := by
  refine ⟨fun fresh waits room steady => ?_, fun q sl rest again => ?_, fun fresh stops => ?_⟩
  · have goes : ¬ (x.stream.isEmpty = true ∨ 512 ≤ x.replay.length ∨ x.widthFrom.map Prod.fst = some x.txSeq) := by
      rintro (h | h | h)
      · exact waits (List.isEmpty_iff.1 h)
      · omega
      · exact steady h
    have slots : (x.stream.take 9 ++ List.replicate (9 - (x.stream.take 9).length) Slot.empty).length = 9 := by
      rw [List.length_append, List.length_replicate, List.length_take]
      omega
    simp only [XPort.nextFlit, Bool.not_true, Bool.false_eq_true, if_false, fresh, goes, slots, and_self]
  · simp only [XPort.nextFlit, Bool.not_true, Bool.false_eq_true, if_false, again, and_self]
  · have holds : x.stream.isEmpty = true ∨ 512 ≤ x.replay.length ∨ x.widthFrom.map Prod.fst = some x.txSeq :=
      stops.imp_left List.isEmpty_iff.2
    simp only [XPort.nextFlit, Bool.not_true, Bool.false_eq_true, if_false, fresh, holds, if_true]

/-! ### The next message (R364, R367) -/

/-- A head of a queue that takes the alternate route, decided. -/
def goesRound (s : State) (p : Nat) (j : Job) (m : LinkMsg) : Bool :=
  !m.alt && (decide (s.portState p ≠ portUp) || ((s.port p).charge m).isNone) && decide (routePrimary (routeOf j m.dstDev.toNat) = p) &&
    decide (routeAlt (routeOf j m.dstDev.toNat) < 12)

theorem goesRound_iff {s : State} {p : Nat} {j : Job} {m : LinkMsg} : goesRound s p j m = true ↔ mayGoRound s p j m := by
  rw [goesRound, mayGoRound, Bool.and_eq_true, Bool.and_eq_true, Bool.and_eq_true, Bool.or_eq_true, decide_eq_true_iff, decide_eq_true_iff,
    decide_eq_true_iff, Option.isNone_iff_eq_none, Bool.not_eq_true', and_assoc, and_assoc]

/-- A message put on the alternate route. -/
def State.goRound (s : State) (p : Nat) (j : Job) (m : LinkMsg) : State :=
  (s.onPort p (fun x => x.dropHead m)).onPort (routeAlt (Machine.routeOf j m.dstDev.toNat))
    (fun x => x.enqueue { m with alt := true, srcPort := if ownMsg s m then routeAlt (Machine.routeOf j m.dstDev.toNat) else m.srcPort })

/-- The transfer of a message noted as one with a message on the alternate route. -/
def noteAlt (m : LinkMsg) (j : Job) : Job :=
  { j with xfers := j.xfers.map (fun y => if y.xfer = m.xfer.toNat ∧ y.dst = m.dstDev.toNat then { y with usedAlt := true } else y) }

theorem exec_altRouteTimeout {s : State} {p : Sys2Proof.Port} {j : Job} {m : LinkMsg} (job : s.job (s.penOfPort p.val) = some j)
    (found : (s.port p.val).heads.find? (goesRound s p.val j) = some m) (allowed : s.fld .devMode 1 1 = 1) (use : j.useAlt = true) :
    exec (.altRouteTimeout p) s = .next (if ownMsg s m then (State.goRound s p.val j m).onJob (s.penOfPort p.val) (noteAlt m)
      else State.goRound s p.val j m) := by
  have found' : (s.port p.val).heads.find? (fun m => !m.alt && (decide (s.portState p.val ≠ portUp) || ((s.port p.val).charge m).isNone) &&
      decide (routePrimary (routeOf j m.dstDev.toNat) = p.val) && decide (routeAlt (routeOf j m.dstDev.toNat) < 12)) = some m := found
  simp only [exec, execAltRouteTimeout, job, found', whenOk, allowed, use, decide_true, Bool.and_self, if_true]
  rfl

theorem find_goesRound {s : State} {p : Nat} {j : Job} {m : LinkMsg} {pre post : List LinkMsg} (heads : (s.port p).heads = pre ++ m :: post)
    (before : ∀ n ∈ pre, ¬ mayGoRound s p j n) (here : mayGoRound s p j m) : (s.port p).heads.find? (goesRound s p j) = some m := by
  rw [List.find?_eq_some_iff_append]
  refine ⟨goesRound_iff.2 here, pre, post, heads, fun n hn => ?_⟩
  rw [Bool.not_eq_true', Bool.eq_false_iff]
  exact mt goesRound_iff.1 (before n hn)

/-- Settles O41. -/
theorem flitsTravelInOrder : Obligations.FlitsTravelInOrder := by
  unfold Obligations.FlitsTravelInOrder
  refine ⟨?_, takePlace_part, receive_part, fun s p sends steady => frame_part s p sends steady, fun x => (nextFlit_part x).1,
    fun x => (nextFlit_part x).2.1, fun x => (nextFlit_part x).2.2, fun f => ⟨length_flitBytes f, flitGood_flitBytes f, flitOf_flitBytes f⟩, ?_, ?_, ?_⟩
  · intro s p hears
    dsimp only
    refine ⟨fun none l => exec_flitReceive_of_none hears none l, fun a l place ne => exec_flitReceive_of_other hears place ne,
      fun a place => ⟨fun waits => exec_flitReceive_of_waiting hears place waits, fun o y come => ?_⟩⟩
    have run := exec_flitReceive_of_place hears place come
    refine ⟨?_, ?_, ?_⟩
    · rintro rfl
      exact run
    · rintro b rfl bad
      rw [run, useFlit_of_bad _ _ _ bad]
      rfl
    · rintro b rfl good
      obtain ⟨idle, normal, control⟩ := takeFlit_of_kind (s.setPort p.val y) p.val a.1 (flitOf b)
      rw [run, useFlit_of_good _ _ _ good]
      refine ⟨?_, ?_, ?_⟩
      · intro kind
        rw [idle kind]
        rfl
      · intro kind
        rw [normal kind]
        rfl
      · intro c kind
        rw [control c kind]
        rfl
  · intro s p j m m' x x' job up early picked charged
    simp only [exec, execMessageSend, job, up, early, picked, charged, ne_eq, not_true_eq_false, Nat.zero_ne_one, or_self, if_false]
  · intro s j x m t votes covered
    simp only [State.pickMsg, votes, covered, if_true]
  · intro s p j pre post m
    dsimp only
    intro job heads before here allowed use
    have run := exec_altRouteTimeout job (find_goesRound heads before here) allowed use
    constructor
    · intro forwarded
      rw [run, forwarded, if_neg Bool.false_ne_true, State.goRound, forwarded]
    · intro own
      rw [run, own, if_pos rfl, State.goRound, own]
      rfl

end Sys2Proof.Proofs
end

section
namespace Sys2Proof.Proofs

open Sys2Proof Sys2Proof.Machine Sys2Proof.Claims

/-! ### Messages at a receiving port (R353, R358 to R361) -/

section
variable {s : State} {p : Sys2Proof.Port} {m : LinkMsg}

theorem deaf_receives_nothing (deaf : s.portDeaf p.val = true) : exec (.write p m) s = .next s ∧ exec (.signal p m) s = .next s ∧
    exec (.ack p m) s = .next s ∧ exec (.messageForward p m) s = .next s := by
  simp only [exec, execWrite, execSignal, execAck, execMessageForward, deaf, true_or, if_true, and_self]

/-- The state in which a message has left the receive buffer of its port. -/
def State.freed (s : State) (p : Nat) (m : LinkMsg) : State := s.onPort p (fun x => x.free m)

/-- The job without the messages of a sending key that an acknowledgement covers. -/
def freeAcked (m : LinkMsg) (k : Nat) (t : TxKey) (j : Job) : Job :=
  { j with tx := SMap.set (fun _ => {}) j.tx k { t with open_ := t.open_.filter (fun o => !ackCovers m o.1) } }

/-- What a WRITE of data does whose tests it has passed. -/
def State.writeMsg (s : State) (p pen : Nat) (j : Job) (m : LinkMsg) : State :=
  if m.vote then s.voteWrite p pen m
  else if isBuddyWrite j m then s.buddyWrite p pen (j.buddy.getD (0, 0, 0)) m
  else s.dataWrite p pen m

variable (hears : s.portDeaf p.val = false) (here : m.dstDev.toNat = s.devId)
include hears here

theorem exec_write_of_refused {s1 : State} (kind : m.mtype = 1) (h : (State.freed s p.val m).admitMsg p.val m = (s1, none)) :
    exec (.write p m) s = .next s1 := by
  rw [State.freed] at h
  simp only [exec, execWrite, hears, here, kind, Bool.false_eq_true, ne_eq, not_true_eq_false, or_self, if_false, h]

theorem exec_write_of_admitted {s1 : State} {pen : Nat} {j : Job} {ls : List (List Byte)} (kind : m.mtype = 1)
    (h : (State.freed s p.val m).admitMsg p.val m = (s1, some (pen, j, ls))) :
    exec (.write p m) s = .next (State.writeMsg s1 p.val pen j { m with lines := ls }) := by
  rw [State.freed] at h
  simp only [exec, execWrite, hears, here, kind, Bool.false_eq_true, ne_eq, not_true_eq_false, or_self, if_false, h, State.writeMsg]
  split
  · rfl
  · split <;> rfl

theorem exec_signal_of_refused {s1 : State} (kind : m.mtype = 2) (h : (State.freed s p.val m).admitMsg p.val m = (s1, none)) :
    exec (.signal p m) s = .next s1 := by
  rw [State.freed] at h
  simp only [exec, execSignal, hears, here, kind, Bool.false_eq_true, ne_eq, not_true_eq_false, or_self, if_false, h]

theorem exec_signal_of_admitted {s1 : State} {pen : Nat} {j : Job} {ls : List (List Byte)} (kind : m.mtype = 2)
    (h : (State.freed s p.val m).admitMsg p.val m = (s1, some (pen, j, ls))) :
    exec (.signal p m) s = .next (s1.performed p.val pen m) := by
  rw [State.freed] at h
  simp only [exec, execSignal, hears, here, kind, Bool.false_eq_true, ne_eq, not_true_eq_false, or_self, if_false, h]

theorem exec_ack_of_refused {s1 : State} (kind : m.mtype = 3) (h : (State.freed s p.val m).admitMsg p.val m = (s1, none)) :
    exec (.ack p m) s = .next s1 := by
  rw [State.freed] at h
  simp only [exec, execAck, hears, here, kind, Bool.false_eq_true, ne_eq, not_true_eq_false, or_self, if_false, h]

theorem exec_ack_of_admitted {s1 : State} {pen : Nat} {j : Job} {ls : List (List Byte)} {k : Nat} (kind : m.mtype = 3)
    (h : (State.freed s p.val m).admitMsg p.val m = (s1, some (pen, j, ls))) (acked : s1.ackedKey j p.val pen m.srcDev.toNat = some k) :
    exec (.ack p m) s = .next ((s1.onJob pen (freeAcked m k (SMap.get (fun _ => {}) j.tx k))).completeXfers pen) := by
  rw [State.freed] at h
  simp only [exec, execAck, hears, here, kind, Bool.false_eq_true, ne_eq, not_true_eq_false, or_self, if_false, h, acked]
  rfl

end

theorem admitMsg_of_unknown {s : State} {p : Nat} {m : LinkMsg} (h : s.msgPen p m = none) :
    s.admitMsg p m = (s.bump .xglE2eCount 32 16 p, none) := by
  simp only [State.admitMsg, h, State.unknownJob]

/-! #### Writes of data (R401 to R403, R410) -/

section
variable {s : State} {p pen : Nat} {m : LinkMsg}

theorem dataWrite_of_plain (ungrouped : 64 ≤ m.group) :
    (∀ k, s.rangeCause pen true m.dstVa (64 * m.lines.length) = some k → s.dataWrite p pen m = s.remoteWindow pen m) ∧
    (s.rangeCause pen true m.dstVa (64 * m.lines.length) = none →
      s.dataWrite p pen m = (s.writeLines pen m.dstVa m.mask m.lines).performed p pen m) := by
  have plain : decide (m.group < 64) = false := decide_eq_false (Nat.not_lt.2 ungrouped)
  constructor
  · intro k failed
    simp only [State.dataWrite, plain, Bool.false_and, Bool.false_eq_true, if_false, failed, Option.isSome_some, if_true]
  · intro good
    simp only [State.dataWrite, plain, Bool.false_and, Bool.false_eq_true, if_false, good, Option.isSome_none, Bool.not_false, Bool.true_or, if_true]

/-- The lines that a grouped message carries beside its digest slot. -/
def chunkLines (ends : Bool) (ls : List (List Byte)) : List (List Byte) := if ends then ls.dropLast else ls

/-- A transfer's reception after a message. -/
def nextRxXfer (ends : Bool) (x : RxXfer) (kept : List (List Byte)) (ix : Nat) : RxXfer :=
  if ends then { x with msgs := [], chunk := max x.chunk (ix + 1) } else { x with msgs := x.msgs ++ [kept.flatten] }

/-- The rest of a grouped write once its lines are written: the digest, the reception, the signals, the count of chunks. -/
def State.closeChunk (s : State) (p pen : Nat) (m : LinkMsg) (j : Job) (ends mismatch : Bool) : State :=
  let x := rxXferOf j m
  let ix := fieldAt (m.lines.getLastD []) 8 4
  let s := if ends && mismatch then s.digestMismatch p pen m false else s
  let s := (s.onJob pen (fun i => putRxXfer i (nextRxXfer ends x (chunkLines ends m.lines) ix) m.last)).performed p pen m
  if ends ∧ x.chunk ≤ ix then s.chunkDone pen m.group (j.rankDev.findIdx (fun d => decide (d = m.srcDev.toNat))) else s

theorem dataWrite_of_grouped (grouped : m.group < 64) {ends : Bool}
    (hends : endsChunk (2 ^ (groupRec (s.jobD pen) m.group).chunkLog2) (rxXferOf (s.jobD pen) m) m = ends)
    (covered : s.rangeCause pen true m.dstVa (64 * (chunkLines ends m.lines).length) = none)
    (kept : (groupRec (s.jobD pen) m.group).closing = false ∨ (groupRxOf (s.jobD pen) m.group).writes (groupRec (s.jobD pen) m.group)
      (((groupRec (s.jobD pen) m.group).memberOf ((s.jobD pen).rankDev.findIdx (fun d => decide (d = m.srcDev.toNat)))).getD 0) = true)
    (calm : (s.writeLines pen m.dstVa m.mask (chunkLines ends m.lines)).injection = none) :
    s.dataWrite p pen m = State.closeChunk (s.writeLines pen m.dstVa m.mask (chunkLines ends m.lines)) p pen m (s.jobD pen) ends
      (!chunkMatches (2 ^ (groupRec (s.jobD pen) m.group).chunkLog2) (rxXferOf (s.jobD pen) m) m) := by
  have in_ : decide (m.group < 64) = true := decide_eq_true grouped
  rw [chunkLines] at covered calm
  have keep : (!(groupRec (s.jobD pen) m.group).closing || (groupRxOf (s.jobD pen) m.group).writes (groupRec (s.jobD pen) m.group)
      (((groupRec (s.jobD pen) m.group).memberOf ((s.jobD pen).rankDev.findIdx (fun d => decide (d = m.srcDev.toNat)))).getD 0)) = true := by
    obtain h | h := kept <;> rw [h]
    · rfl
    · exact Bool.or_true _
  simp only [State.dataWrite, in_, Bool.true_and, hends, covered, Option.isSome_none, Bool.false_eq_true, if_false, keep, if_true, Bool.not_true]
  have fire : (if ends = true then (s.writeLines pen m.dstVa m.mask (if ends = true then m.lines.dropLast else m.lines)).fireOnPort 17 p else
      (s.writeLines pen m.dstVa m.mask (if ends = true then m.lines.dropLast else m.lines), false)) =
      (s.writeLines pen m.dstVa m.mask (if ends = true then m.lines.dropLast else m.lines), false) := by
    rw [fireOnPort_of_none calm, ite_self]
  rw [fire]
  simp only [Bool.or_false, Bool.false_and]
  rfl

end

/-! #### The signals of a message (R358, R359) -/

theorem jobD_of_some {s : State} {p : Nat} {j : Job} (h : s.job p = some j) : s.jobD p = j := by
  rw [State.jobD, ← State.job, h]
  rfl

theorem jobD_onJob_self {s : State} {p : Nat} {j : Job} (h : s.job p = some j) (f : Job → Job) : (s.onJob p f).jobD p = f j :=
  jobD_of_some (job_onJob_self h f)

theorem earlierWaits_onJob (s : State) (p : Nat) (f : Job → Job) (m : LinkMsg) : (s.onJob p f).earlierWaits m = s.earlierWaits m := rfl

/-- A job that holds the signals of its messages holds them on while each has an earlier message to wait for. -/
theorem releaseSignals_of_waiting {s : State} {pen : Nat} (waits : ∀ n ∈ (s.jobD pen).rxHeld, s.earlierWaits n = true) :
    s.releaseSignals pen = s.onJob pen (fun j => { j with rxHeld := j.rxHeld.filter (fun m => !!s.earlierWaits m) }) := by
  have none_ : (s.jobD pen).rxHeld.filter (fun m => !s.earlierWaits m) = [] := by
    rw [List.filter_eq_nil_iff]
    intro n hn
    rw [waits n hn]
    exact Bool.false_ne_true
  unfold State.releaseSignals
  dsimp only
  rw [none_]
  rfl

/-- The job with a receiving key acknowledged. -/
def acked (ix : Nat) (k : RxKey) (j : Job) : Job := { j with rx := SMap.set (fun _ => {}) j.rx ix { k with sinceAck := 0 } }

theorem sendAck_eq (s : State) (p pen dev srcPort : Nat) : s.sendAck p pen dev srcPort =
    (s.onPort p (fun x => x.enqueue (ackMsg s (s.jobD pen) p dev (SMap.get (fun _ => {}) (s.jobD pen).rx (rxKeyIx dev srcPort))))).onJob pen
      (acked (rxKeyIx dev srcPort) (SMap.get (fun _ => {}) (s.jobD pen).rx (rxKeyIx dev srcPort))) := rfl

theorem job_onPort (s : State) (p : Nat) (f : XPort → XPort) (pen : Nat) : (s.onPort p f).job pen = s.job pen := rfl

theorem rxHeld_sendAck {s : State} {p pen dev srcPort : Nat} {j : Job} (h : s.job pen = some j) :
    ((s.sendAck p pen dev srcPort).jobD pen).rxHeld = j.rxHeld ∧ (s.sendAck p pen dev srcPort).cores = s.cores := by
  rw [sendAck_eq, jobD_onJob_self ((job_onPort ..).trans h)]
  exact ⟨rfl, rfl⟩

/-- The job of a pen with the counter of a message performed noted. -/
def noteRx (m : LinkMsg) (k : RxKey) (j : Job) : Job := { j with rx := SMap.set (fun _ => {}) j.rx (rxKeyIx m.srcDev.toNat m.srcPort) k }

theorem noteCounter_eq {s : State} {pen : Nat} {j : Job} (h : s.job pen = some j) (p : Nat) (m : LinkMsg) : s.noteCounter p pen m =
    if 16 ≤ ((rxKeyOf (s.jobD pen) m).perform m.ctr).sinceAck then
      (s.onJob pen (noteRx m ((rxKeyOf (s.jobD pen) m).perform m.ctr))).sendAck p pen m.srcDev.toNat m.srcPort
    else s.onJob pen (noteRx m ((rxKeyOf (s.jobD pen) m).perform m.ctr)) := by
  have loaded : ¬ (s.job pen).isNone = true := by rw [h]; exact Bool.false_ne_true
  unfold State.noteCounter
  rw [if_neg loaded]
  rfl

theorem rxHeld_noteCounter {s : State} {pen : Nat} {j : Job} (h : s.job pen = some j) (p : Nat) (m : LinkMsg) :
    ((s.noteCounter p pen m).jobD pen).rxHeld = j.rxHeld ∧ (s.noteCounter p pen m).cores = s.cores := by
  have noted := job_onJob_self h (noteRx m ((rxKeyOf (s.jobD pen) m).perform m.ctr))
  rw [noteCounter_eq h]
  have sent := rxHeld_sendAck (p := p) (dev := m.srcDev.toNat) (srcPort := m.srcPort) noted
  have held := congrArg Job.rxHeld (jobD_of_some noted)
  split
  · exact sent
  · exact ⟨held, rfl⟩

/-- The job of a pen with a message's signals held. -/
def holdSignals (m : LinkMsg) (j : Job) : Job := { j with rxHeld := j.rxHeld ++ [m] }

theorem performed_of_waiting {s : State} {pen : Nat} {m : LinkMsg} (loaded : (s.job pen).isSome = true) (waits : s.earlierWaits m = true)
    (others : ∀ n ∈ (s.jobD pen).rxHeld, s.earlierWaits n = true) (p : Nat) :
    (s.performed p pen m).cores = s.cores ∧ ((s.performed p pen m).jobD pen).rxHeld = (s.jobD pen).rxHeld ++ [m] := by
  obtain ⟨j, hj⟩ := Option.isSome_iff_exists.1 loaded
  have held := job_onJob_self hj (holdSignals m)
  rw [jobD_of_some hj] at others ⊢
  have every : ∀ n ∈ j.rxHeld ++ [m], s.earlierWaits n = true := fun n hn =>
    (List.mem_append.1 hn).elim (others n) fun h => by rw [List.mem_singleton.1 h]; exact waits
  have kept : (j.rxHeld ++ [m]).filter (fun n => !!s.earlierWaits n) = j.rxHeld ++ [m] := by
    rw [List.filter_eq_self]
    intro n hn
    rw [every n hn]
    rfl
  have released : (s.onJob pen (holdSignals m)).releaseSignals pen = (s.onJob pen (holdSignals m)).onJob pen
      (fun j => { j with rxHeld := j.rxHeld.filter (fun m => !!s.earlierWaits m) }) :=
    releaseSignals_of_waiting (by rw [jobD_of_some held]; exact every)
  have after := job_onJob_self held (fun j => { j with rxHeld := j.rxHeld.filter (fun m => !!s.earlierWaits m) })
  rw [← released] at after
  have noted := rxHeld_noteCounter after p m
  have e : s.performed p pen m = ((s.onJob pen (holdSignals m)).releaseSignals pen).noteCounter p pen m := rfl
  rw [e]
  refine ⟨noted.2.trans ?_, noted.1.trans kept⟩
  rw [released]
  rfl

/-! ### Forwarding, acknowledgement and loss -/

section
variable {s : State} {p : Sys2Proof.Port} {m : LinkMsg} (hears : s.portDeaf p.val = false) (elsewhere : m.dstDev.toNat ≠ s.devId)
include hears elsewhere

theorem exec_messageForward_of_unknown (h : (State.freed s p.val m).msgPen p.val m = none) :
    exec (.messageForward p m) s = .next ((State.freed s p.val m).bump .xglE2eCount 32 16 p.val) := by
  rw [State.freed] at h
  simp only [exec, execMessageForward, hears, elsewhere, Bool.false_eq_true, or_self, if_false, h]
  rfl

variable {pen : Nat} (known : (State.freed s p.val m).msgPen p.val m = some pen)
include known

theorem exec_messageForward_of_tired (tired : 7 ≤ m.hop) : exec (.messageForward p m) s =
    .next (((State.freed s p.val m).postLink p.val 377 [ef m.dstDev.toNat]).terminal pen 377 [ef p.val, ef m.dstDev.toNat]) := by
  rw [State.freed] at known
  simp only [exec, execMessageForward, hears, elsewhere, Bool.false_eq_true, or_self, if_false, known, tired, if_true]
  rfl

theorem exec_messageForward_of_lost (fresh : m.hop < 7)
    (lost : (State.freed s p.val m).routeChoice ((State.freed s p.val m).jobD pen) m.dstDev.toNat = none) : exec (.messageForward p m) s =
    .next (((State.freed s p.val m).postLink p.val 378 [ef m.dstDev.toNat]).terminal pen 378 [ef p.val, ef m.dstDev.toNat]) := by
  rw [State.freed] at known lost
  simp only [exec, execMessageForward, hears, elsewhere, Bool.false_eq_true, or_self, if_false, known, Nat.not_le.2 fresh, lost]
  rfl

theorem exec_messageForward_of_route {q : Nat} {alt : Bool} (fresh : m.hop < 7)
    (route : (State.freed s p.val m).routeChoice ((State.freed s p.val m).jobD pen) m.dstDev.toNat = some (q, alt)) :
    exec (.messageForward p m) s =
      .next ((State.freed s p.val m).onPort q (fun x => x.enqueue { m with hop := m.hop + 1, alt := m.alt || alt })) := by
  rw [State.freed] at known route
  simp only [exec, execMessageForward, hears, elsewhere, Bool.false_eq_true, or_self, if_false, known, Nat.not_le.2 fresh, route]
  rfl

end

/-- A change of a pen that leaves what a bay's pen is found by. -/
theorem penOfBay_onPen (s : State) (p : Nat) {f : PenS → PenS} (h : (f (s.pen p)).present = (s.pen p).present ∧ (f (s.pen p)).bays = (s.pen p).bays)
    (b : Nat) : (s.onPen p f).penOfBay b = s.penOfBay b := by
  unfold State.penOfBay
  congr 2
  funext q
  by_cases here : q = p
  · rw [here, pen_onPen_self, h.1, h.2]
  · rw [pen_onPen_ne _ _ here]

theorem penOfPort_onJob (s : State) (pen : Nat) (f : Job → Job) (q : Nat) : (s.onJob pen f).penOfPort q = s.penOfPort q :=
  penOfBay_onPen s pen ⟨rfl, rfl⟩ q

theorem enqueue_ack (x : XPort) (s : State) (j : Job) (p dev : Nat) (k : RxKey) :
    (x.enqueue (ackMsg s j p dev k)).ackQ = x.ackQ ++ [ackMsg s j p dev k] := rfl

theorem sendAck_effect {s : State} {p : Sys2Proof.Port} {dev sp : Nat} (loaded : (s.job (s.penOfPort p.val)).isSome = true) :
    (rxKeyAt (s.sendAck p.val (s.penOfPort p.val) dev sp) p.val dev sp).sinceAck = 0 ∧
    ((s.sendAck p.val (s.penOfPort p.val) dev sp).port p.val).ackQ = (s.port p.val).ackQ ++
      [ackMsg s (s.jobD (s.penOfPort p.val)) p.val dev (rxKeyAt s p.val dev sp)] := by
  obtain ⟨j, hj⟩ := Option.isSome_iff_exists.1 loaded
  rw [sendAck_eq]
  constructor
  · rw [rxKeyAt, penOfPort_onJob]
    have pen : (s.onPort p.val (fun x => x.enqueue (ackMsg s (s.jobD (s.penOfPort p.val)) p.val dev
      (SMap.get (fun _ => {}) (s.jobD (s.penOfPort p.val)).rx (rxKeyIx dev sp))))).penOfPort p.val = s.penOfPort p.val := rfl
    rw [pen, jobD_onJob_self ((job_onPort ..).trans hj)]
    exact congrArg RxKey.sinceAck (SMap.get_set_self ..)
  · have port (t : State) (f : Job → Job) (q : Nat) : (t.onJob q f).port p.val = t.port p.val := rfl
    rw [port, port_onPort_self]
    exact enqueue_ack ..

theorem exec_linkLost {s : State} {p : Sys2Proof.Port} {j : Job} (job : s.job (s.penOfPort p.val) = some j)
    (waits : (∃ kv ∈ j.tx, kv.1 / 65536 = p.val ∧ kv.2.open_ ≠ []) ∨ s.ownWaits p.val j = true) :
    exec (.linkLost p) s = .next (((s.postLink p.val 374 []).onJob (s.penOfPort p.val) (fun j =>
      { j with tx := j.tx.map (fun kv => if keyOfPort p.val kv.1 then (kv.1, { kv.2 with open_ := [] }) else kv) })).terminal
        (s.penOfPort p.val) 374 [ef p.val]) := by
  have silent : (j.tx.any (fun kv => keyOfPort p.val kv.1 && !kv.2.open_.isEmpty) || s.ownWaits p.val j) = true := by
    rw [Bool.or_eq_true]
    refine waits.imp_left ?_
    rintro ⟨kv, hkv, port, some⟩
    rw [List.any_eq_true]
    refine ⟨kv, hkv, ?_⟩
    rw [keyOfPort, decide_eq_true port, List.isEmpty_eq_false_iff.2 some]
    rfl
  simp only [exec, execLinkLost, job, whenOk, silent, if_true]
  rfl

/-- Settles O42. -/
theorem messagesAreCheckedAndPerformed : Obligations.MessagesAreCheckedAndPerformed := by
  unfold Obligations.MessagesAreCheckedAndPerformed
  intro s p m
  dsimp only
  refine ⟨deaf_receives_nothing, fun hears here => ⟨?_, ?_, ?_⟩, fun pen loaded waits others => performed_of_waiting loaded waits others p.val, ?_,
    ?_, fun j job waits => exec_linkLost job waits, ?_⟩
  · rintro unknown c (⟨kind, rfl⟩ | ⟨kind, rfl⟩ | ⟨kind, rfl⟩)
    · exact exec_write_of_refused hears here kind (admitMsg_of_unknown unknown)
    · exact exec_signal_of_refused hears here kind (admitMsg_of_unknown unknown)
    · exact exec_ack_of_refused hears here kind (admitMsg_of_unknown unknown)
  · intro s1 refused
    exact ⟨fun kind => exec_write_of_refused hears here kind refused, fun kind => exec_signal_of_refused hears here kind refused,
      fun kind => exec_ack_of_refused hears here kind refused⟩
  · intro s1 pen j ls admitted
    refine ⟨?_, ?_, ?_, ?_, fun kind => exec_signal_of_admitted hears here kind admitted,
      fun k kind acked => exec_ack_of_admitted hears here kind admitted acked⟩
    · intro kind vote
      rw [exec_write_of_admitted hears here kind admitted, State.writeMsg, if_pos vote]
    · intro kind noVote buddy
      rw [exec_write_of_admitted hears here kind admitted, State.writeMsg, if_neg (by rw [noVote]; exact Bool.false_ne_true), if_pos buddy]
    · intro kind noVote noBuddy ungrouped
      have run := exec_write_of_admitted hears here kind admitted
      rw [State.writeMsg, if_neg (by rw [noVote]; exact Bool.false_ne_true), if_neg (by rw [noBuddy]; exact Bool.false_ne_true)] at run
      obtain ⟨failed, good⟩ := dataWrite_of_plain (s := s1) (p := p.val) (pen := pen) (m := { m with lines := ls }) ungrouped
      exact ⟨fun k hk => by rw [run, failed k hk], fun hk => by rw [run, good hk]⟩
    · intro kind noVote noBuddy grouped covered kept calm
      have run := exec_write_of_admitted hears here kind admitted
      rw [State.writeMsg, if_neg (by rw [noVote]; exact Bool.false_ne_true), if_neg (by rw [noBuddy]; exact Bool.false_ne_true)] at run
      rw [run, dataWrite_of_grouped (s := s1) (p := p.val) (pen := pen) (m := { m with lines := ls }) grouped rfl covered kept calm]
      refine congrArg Host.Outcome.next ?_
      unfold State.closeChunk nextRxXfer chunkLines
      simp only [Bool.and_eq_true, Bool.not_eq_true']
  · intro hears elsewhere
    refine ⟨exec_messageForward_of_unknown hears elsewhere, fun pen known => ⟨?_, ?_, ?_⟩⟩
    · exact fun q alt fresh route => exec_messageForward_of_route hears elsewhere known fresh route
    · exact fun fresh lost => exec_messageForward_of_lost hears elsewhere known fresh lost
    · exact fun tired => exec_messageForward_of_tired hears elsewhere known tired
  · intro dev sp loaded some
    refine ⟨_, ?_, sendAck_effect loaded⟩
    rw [rxKeyAt] at some
    simp only [exec, execAckTimer, whenOk, loaded, some, decide_true, Bool.and_self, if_true]
  · intro pen g a own may loaded deadline notReplay
    simp only [exec, execCloseDeadline, may, whenOk, loaded, deadline, notReplay, Bool.not_false, Bool.and_self, if_true]

end Sys2Proof.Proofs
end

section
namespace Sys2Proof.Proofs

open Sys2Proof Sys2Proof.Machine Sys2Proof.Claims

/-! ### Bytes and marks of device memory -/

theorem hbmByte_setBytes_in (s : State) (a : Nat) (bs : List Byte) {i : Nat} (h : i < bs.length) :
    (s.setBytes a bs).hbmByte (a + i) = bs.getD i 0#8 := by
  rw [State.hbmByte, State.setBytes, putList_find_in bs s.hbm a i h, List.getD_eq_getElem _ _ h]
  rfl

theorem hbmByte_setBytes_out (s : State) {a x : Nat} (bs : List Byte) (h : x < a ∨ a + bs.length ≤ x) :
    (s.setBytes a bs).hbmByte x = s.hbmByte x := by
  have find : SMap.find (putList s.hbm a bs) x = SMap.find s.hbm x := by
    obtain h | h := h
    · exact putList_find_before bs s.hbm a x h
    · exact putList_find_after bs s.hbm a x h
  rw [State.hbmByte, State.setBytes, find]
  rfl

theorem lineBad_setBad_self (s : State) (l : Nat) (b : Bool) : (s.setBad l b).lineBad l = b := SMap.get_set_self ..

theorem lineBad_setBad_ne (s : State) {l m : Nat} (b : Bool) (h : m ≠ l) : (s.setBad l b).lineBad m = s.lineBad m :=
  SMap.get_set_ne _ _ _ _ _ h

theorem linePoison_markLine_self (s : State) (l : Nat) (p : Bool) : (s.markLine l p).linePoison l = p := by
  rw [State.linePoison, State.markLine, SMap.find_put_self]

theorem linePoison_markLine_ne (s : State) {l m : Nat} (p : Bool) (h : m ≠ l) : (s.markLine l p).linePoison m = s.linePoison m := by
  rw [State.linePoison, State.markLine, SMap.find_put_ne _ _ _ _ h]
  rfl

/-- A line stored with 64 zero bytes and its poison mark (R317). -/
structure Zeroed (d : Nat) (t : State) : Prop where
  readable : t.lineBad d = false
  marked : t.linePoison d = true
  zero : ∀ i, i < 64 → t.hbmByte (64 * d + i) = 0#8

/-- A line stays as it is stored; one that cannot be read may have been stored anew as zeros with a mark. -/
structure LineKept (d : Nat) (s t : State) : Prop where
  readable : s.lineBad d = false → t.lineBad d = false
  mark : s.lineBad d = false → t.linePoison d = s.linePoison d
  bytes : s.lineBad d = false → ∀ i, i < 64 → t.hbmByte (64 * d + i) = s.hbmByte (64 * d + i)
  lost : s.lineBad d = true → t.lineBad d = true ∨ Zeroed d t

theorem Zeroed.kept {d : Nat} {s t : State} (h : Zeroed d s) (k : LineKept d s t) : Zeroed d t :=
  ⟨k.readable h.readable, (k.mark h.readable).trans h.marked, fun i hi => (k.bytes h.readable i hi).trans (h.zero i hi)⟩

theorem LineKept.refl (d : Nat) (s : State) : LineKept d s s := ⟨fun h => h, fun _ => rfl, fun _ _ _ => rfl, .inl⟩

theorem LineKept.trans {d : Nat} {r s t : State} (h : LineKept d r s) (h' : LineKept d s t) : LineKept d r t :=
  ⟨fun good => h'.readable (h.readable good), fun good => (h'.mark (h.readable good)).trans (h.mark good),
    fun good i hi => (h'.bytes (h.readable good) i hi).trans (h.bytes good i hi),
    fun bad => (h.lost bad).elim h'.lost fun z => .inr (z.kept h')⟩

/-- A part of a line stored anew, its mark of unreadable data and its poison mark set. -/
def State.storeLine (s : State) (l a : Nat) (bs : List Byte) (bad marked : Bool) : State := ((s.setBytes a bs).setBad l bad).markLine l marked

section
variable (s : State) (l a : Nat) (bs : List Byte) (bad marked : Bool)

theorem lineBad_storeLine_self : (State.storeLine s l a bs bad marked).lineBad l = bad := lineBad_setBad_self (s.setBytes a bs) l bad

theorem lineBad_storeLine_ne {m : Nat} (h : m ≠ l) : (State.storeLine s l a bs bad marked).lineBad m = s.lineBad m :=
  lineBad_setBad_ne (s.setBytes a bs) bad h

theorem linePoison_storeLine_self : (State.storeLine s l a bs bad marked).linePoison l = marked := linePoison_markLine_self ..

theorem linePoison_storeLine_ne {m : Nat} (h : m ≠ l) : (State.storeLine s l a bs bad marked).linePoison m = s.linePoison m :=
  linePoison_markLine_ne ((s.setBytes a bs).setBad l bad) marked h

theorem hbmByte_storeLine (x : Nat) : (State.storeLine s l a bs bad marked).hbmByte x = (s.setBytes a bs).hbmByte x := rfl

theorem storeLine_frame : State.storeLine s l a bs bad marked = { s with
    hbm := (State.storeLine s l a bs bad marked).hbm, poison := (State.storeLine s l a bs bad marked).poison
    badLines := (State.storeLine s l a bs bad marked).badLines } := rfl

end

theorem zeroMark_eq (s : State) (l : Nat) : s.zeroMark l = State.storeLine s l (64 * l) (zeros 64) false true := rfl

theorem length_zeros64 : (zeros 64).length = 64 := length_zeros 64

theorem getD_zeros (n i : Nat) : (zeros n).getD i 0#8 = 0#8 := by
  rw [zeros, List.getD_eq_getElem?_getD, List.getElem?_replicate]
  split <;> rfl

theorem zeroed_zeroMark (s : State) (d : Nat) : Zeroed d (s.zeroMark d) := by
  rw [zeroMark_eq]
  refine ⟨lineBad_storeLine_self .., linePoison_storeLine_self .., fun i hi => ?_⟩
  rw [hbmByte_storeLine, hbmByte_setBytes_in s _ _ (by rw [length_zeros64]; exact hi), getD_zeros]

/-- The bytes of a line lie apart from a part of another one. -/
theorem hbmByte_setBytes_other (s : State) {d e off : Nat} {bs : List Byte} (ne : d ≠ e) (fits : off + bs.length ≤ 64) {i : Nat} (hi : i < 64) :
    (s.setBytes (64 * e + off) bs).hbmByte (64 * d + i) = s.hbmByte (64 * d + i) :=
  hbmByte_setBytes_out s bs (by omega)

theorem lineKept_storeLine_other (s : State) {d e off : Nat} {bs : List Byte} (bad marked : Bool) (ne : d ≠ e) (fits : off + bs.length ≤ 64) :
    LineKept d s (State.storeLine s e (64 * e + off) bs bad marked) := by
  have readable := lineBad_storeLine_ne s e (64 * e + off) bs bad marked ne
  exact ⟨fun h => readable.trans h, fun _ => linePoison_storeLine_ne _ _ _ _ _ _ ne,
    fun _ i hi => (hbmByte_storeLine ..).trans (hbmByte_setBytes_other s ne fits hi), fun h => .inl (readable.trans h)⟩

theorem lineKept_zeroMark_other (s : State) {d e : Nat} (ne : d ≠ e) : LineKept d s (s.zeroMark e) := by
  rw [zeroMark_eq]
  exact lineKept_storeLine_other s (off := 0) false true ne (by rw [length_zeros64])

/-- Where the memory and the bays are the same, so is every line. -/
theorem LineKept.of_same {s t : State} (h : t = { t with hbm := s.hbm, poison := s.poison, badLines := s.badLines, bays := s.bays }) (d : Nat) :
    LineKept d s t := by
  have bad : t.lineBad d = s.lineBad d := by rw [h]; rfl
  have mark : t.linePoison d = s.linePoison d := by rw [h]; rfl
  have byte (x : Nat) : t.hbmByte x = s.hbmByte x := by rw [h]; rfl
  exact ⟨fun h => bad.trans h, fun _ => mark, fun _ i _ => byte _, fun h => .inl (bad.trans h)⟩

theorem lineKept_zeroMark {s : State} {e : Nat} (bad : s.lineBad e = true) (d : Nat) : LineKept d s (s.zeroMark e) := by
  by_cases ne : d = e
  · subst ne
    have absurd_ {P : Prop} (h : s.lineBad d = false) : P := by rw [bad] at h; cases h
    exact ⟨fun h => absurd_ h, fun h => absurd_ h, fun h => absurd_ h, fun _ => .inr (zeroed_zeroMark s d)⟩
  · exact lineKept_zeroMark_other s ne

/-! ### The work on a row that a read may start (R320 to R322) -/

/-- What the counting of an event and the retirement of a row leave: everything but registers, events, the ledger's queue, the counts of error
weather and the rows; every line; the memory log; the registers that `K` selects. -/
structure RowWork (K : Nat → Prop) (s t : State) : Prop where
  frame : t = { s with
    regs := t.regs, evq := t.evq, evLost := t.evLost, hbm := t.hbm, poison := t.poison, badLines := t.badLines, bays := t.bays, wx := t.wx
    wxInj := t.wxInj, actDue := t.actDue, keepQ := t.keepQ, heldRetire := t.heldRetire }
  bays : ∀ q, (t.bay q).erases = (s.bay q).erases ∧ (t.bay q).log = (s.bay q).log ∧ (t.bay q).raised = (s.bay q).raised
  lines : ∀ d, LineKept d s t
  regs : SameRegs K s t

/-- The registers that such work changes are none of `K`. -/
structure RowKeys (b : Nat) (K : Nat → Prop) : Prop where
  status : ¬ K (RegName.key .hbmBayStatus 0 b)
  count : ∀ c, ¬ K (RegName.key .errWxCount 0 (wxKey b c))
  act : ¬ K (RegName.key .errBayWx 0 b)
  posts : ∀ fn, fn ≤ 12 → ¬ K (RegName.key .hifPenStat 0 fn)

section
variable {K : Nat → Prop} {s₀ s t : State} {b : Nat}

theorem RowWork.refl (s : State) : RowWork K s s := ⟨rfl, fun _ => ⟨rfl, rfl, rfl⟩, fun d => .refl d s, .refl s⟩

theorem RowWork.trans (h : RowWork K s₀ s) (h' : RowWork K s t) : RowWork K s₀ t := by
  refine ⟨by rw [h'.frame, h.frame], fun q => ?_, fun d => (h.lines d).trans (h'.lines d), h.regs.trans h'.regs⟩
  obtain ⟨e, l, r⟩ := h.bays q
  obtain ⟨e', l', r'⟩ := h'.bays q
  exact ⟨e'.trans e, l'.trans l, r'.trans r⟩

theorem RowWork.ite {c : Prop} [Decidable c] (h : RowWork K s₀ s) (h' : RowWork K s₀ t) : RowWork K s₀ (if c then s else t) := by
  split
  · exact h
  · exact h'

theorem RowWork.foldl {α : Type} {l : List α} {f : State → α → State} (h : RowWork K s₀ s) (hf : ∀ s a, RowWork K s₀ s → RowWork K s₀ (f s a)) :
    RowWork K s₀ (l.foldl f s) :=
  List.foldlRecOn (motive := RowWork K s₀) l f h fun s hs a _ => hf s a hs

/-- A step that changes no memory and no bay. -/
theorem RowWork.of_frame (h : RowWork K s₀ s) (frame : t = { s with
    regs := t.regs, evq := t.evq, evLost := t.evLost, wx := t.wx, wxInj := t.wxInj, actDue := t.actDue, keepQ := t.keepQ
    heldRetire := t.heldRetire }) (regs : SameRegs K s t) : RowWork K s₀ t := by
  refine h.trans ⟨by rw [frame], fun q => ?_, fun d => ?_, regs⟩
  · rw [frame]
    exact ⟨rfl, rfl, rfl⟩
  · exact .of_same (by rw [frame]) d

theorem RowWork.setFld (h : RowWork K s₀ s) (n : RegName) (lo w v ix fn : Nat) (hk : ¬ K (n.key fn ix)) :
    RowWork K s₀ (s.setFld n lo w v ix fn) := h.of_frame rfl ((SameRegs.refl s).setFld _ _ _ _ _ _ hk)

theorem RowWork.events (h : RowWork K s₀ s) (h' : EventsOnly s t) (regs : SameRegs K s t) : RowWork K s₀ t :=
  h.of_frame (by rw [h'.frame]) regs

theorem RowWork.postBoth (h : RowWork K s₀ s) (pen code step : Nat) (fs : List EvField)
    (posts : ∀ fn, fn ≤ 12 → ¬ K (RegName.key .hifPenStat 0 fn)) : RowWork K s₀ (s.postBoth pen code step fs) :=
  h.events ((EventsOnly.refl s).postBoth ..) ((SameRegs.refl s).postBoth _ _ _ _ posts)

theorem RowWork.ledgerRetire (h : RowWork K s₀ s) (fields : Nat) (names : List Nat) (posts : ¬ K (RegName.key .hifPenStat 0 0)) :
    RowWork K s₀ (s.ledgerRetire fields names) :=
  h.of_frame (by rw [((RetireFrame.refl s).ledgerRetire fields names).frame]) ((SameRegs.refl s).ledgerRetire _ _ posts)

theorem RowWork.onBay (h : RowWork K s₀ s) (q : Nat) {f : Machine.Bay → Machine.Bay} (erases : (f (s.bay q)).erases = (s.bay q).erases)
    (log : (f (s.bay q)).log = (s.bay q).log) (raised : (f (s.bay q)).raised = (s.bay q).raised) : RowWork K s₀ (s.onBay q f) := by
  have bays (r : Nat) : ((s.onBay q f).bay r).erases = (s.bay r).erases ∧ ((s.onBay q f).bay r).log = (s.bay r).log ∧
      ((s.onBay q f).bay r).raised = (s.bay r).raised := by
    by_cases here : r = q
    · subst here
      rw [State.onBay, State.bay_setBay_self]
      exact ⟨erases, log, raised⟩
    · rw [State.onBay, State.bay_setBay_ne _ _ _ _ here]
      exact ⟨rfl, rfl, rfl⟩
  have byte (x : Nat) : (s.onBay q f).hbmByte x = s.hbmByte x := by
    rw [State.hbmByte, (bays _).1]
    rfl
  have mark (d : Nat) : (s.onBay q f).linePoison d = s.linePoison d := by
    rw [State.linePoison, (bays _).1]
    rfl
  exact h.trans ⟨rfl, bays, fun d => ⟨fun h => h, fun _ => mark d, fun _ i _ => byte _, .inl⟩, (SameRegs.refl s).onBay ..⟩

theorem RowWork.storeLine (h : RowWork K s₀ s) (l a : Nat) (bs : List Byte) (bad marked : Bool)
    (kept : ∀ d, LineKept d s (State.storeLine s l a bs bad marked)) : RowWork K s₀ (State.storeLine s l a bs bad marked) :=
  h.trans ⟨rfl, fun _ => ⟨rfl, rfl, rfl⟩, kept, (SameRegs.refl s).of_regs rfl⟩

theorem RowWork.zeroMark (h : RowWork K s₀ s) {e : Nat} (bad : s.lineBad e = true) : RowWork K s₀ (s.zeroMark e) := by
  rw [zeroMark_eq]
  refine h.storeLine _ _ _ _ _ fun d => ?_
  rw [← zeroMark_eq]
  exact lineKept_zeroMark bad d

theorem RowWork.zeroBad (h : RowWork K s₀ s) (e : Nat) : RowWork K s₀ (if s.lineBad e then s.zeroMark e else s) := by
  split
  next bad => exact h.zeroMark bad
  next => exact h

theorem RowWork.wxShow (h : RowWork K s₀ s) {c : Nat} (keys : RowKeys b K) : RowWork K s₀ (s.wxShow b c) :=
  (h.setFld _ _ _ _ _ _ (keys.count c)).setFld _ _ _ _ _ _ (keys.count c)

theorem RowWork.wxRise (h : RowWork K s₀ s) {c : Nat} (keys : RowKeys b K) (site : siteClass c = false) (lane : laneClass c = false) :
    RowWork K s₀ (s.wxRise b c) := by
  refine h.foldl fun t lv ht => ?_
  have posted (pen code : Nat) (fs : List EvField) : RowWork K s₀ ((t.setFld .errWxCount 48 2 lv (wxKey b c)).postBoth pen code 0 fs) :=
    (ht.setFld .errWxCount 48 2 lv (wxKey b c) 0 (keys.count c)).postBoth _ _ _ _ keys.posts
  dsimp only
  split
  · split
    · split
      · unfold State.actNow
        rw [site, lane]
        exact (posted ..).setFld _ _ _ _ _ _ keys.act
      · exact (posted _ _ _).of_frame rfl ((SameRegs.refl _).of_regs rfl)
    · exact posted ..
  · exact ht

theorem RowWork.countEvent (h : RowWork K s₀ s) {c : Nat} (unit : Nat) (injected : Bool) (keys : RowKeys b K) (site : siteClass c = false)
    (lane : laneClass c = false) : RowWork K s₀ (s.countEvent b c unit injected) := by
  unfold State.countEvent
  dsimp only
  split
  · refine RowWork.wxShow ?_ keys
    exact h.of_frame rfl ((SameRegs.refl s).of_regs rfl)
  · refine RowWork.wxRise (RowWork.wxShow ?_ keys) keys site lane
    exact h.of_frame rfl ((SameRegs.refl s).of_regs rfl)

theorem RowWork.rowRegs (h : RowWork K s₀ s) (keys : RowKeys b K) : RowWork K s₀ (s.rowRegs b) :=
  (h.setFld _ _ _ _ _ _ keys.status).setFld _ _ _ _ _ _ keys.status

theorem RowWork.retireRow (h : RowWork K s₀ s) (k : Nat) (keys : RowKeys b K) : RowWork K s₀ (s.retireRow b k) := by
  unfold State.retireRow
  extract_lets +onlyGivenNames x
  split
  next => exact h
  next sp _ =>
    extract_lets +onlyGivenNames s1 s2 s3 held s4 s5 s6
    have h1 : RowWork K s₀ s1 := h.foldl fun _ _ h => h.zeroBad _
    clear_value s1
    have h2 : RowWork K s₀ s2 := h1.onBay b (f := fun x => { x.remap k sp with rows := x.rows.filter fun r => decide (r.1 ≠ k) }) rfl rfl rfl
    have h3 : RowWork K s₀ s3 := h2.rowRegs keys
    have h4 : RowWork K s₀ s4 := h3.ledgerRetire _ _ (keys.posts 0 (by decide))
    have h6 : RowWork K s₀ s6 := ((h4.setFld _ _ _ _ _ _ keys.status).ite h4).postBoth _ _ _ _ keys.posts
    exact (h6.postBoth _ _ _ _ keys.posts).ite h6

theorem RowWork.retireDue (n : Nat) (h : RowWork K s₀ s) (keys : RowKeys b K) : RowWork K s₀ (State.retireDue n s b) := by
  induction n generalizing s with
  | zero => exact h
  | succ n ih =>
    rw [State.retireDue]
    split
    next => exact h
    next k t _ => exact ih ((h.onBay b (f := fun x => { x with due := t }) rfl rfl rfl).retireRow k keys)

theorem RowWork.rowDue (h : RowWork K s₀ s) (k : Nat) (keys : RowKeys b K) : RowWork K s₀ (s.rowDue b k) := by
  unfold State.rowDue
  extract_lets +onlyGivenNames s1
  have h1 : RowWork K s₀ s1 := h.ite (h.onBay b rfl rfl rfl)
  exact (h1.retireDue _ keys).ite h1

theorem RowWork.countRow (h : RowWork K s₀ s) (k : Nat) (keys : RowKeys b K) : RowWork K s₀ (s.countRow b k) := by
  unfold State.countRow
  extract_lets +onlyGivenNames s1 t
  have h1 : RowWork K s₀ s1 := h.onBay b rfl rfl rfl
  exact (h1.rowDue k keys).ite h1

end

/-- The work on a row leaves where a bay's lines belong. -/
theorem RowWork.outside {K : Nat → Prop} {s t : State} (h : RowWork K s t) : t.pens = s.pens ∧ t.ports = s.ports ∧ t.cores = s.cores := by
  rw [h.frame]
  exact ⟨rfl, rfl, rfl⟩

theorem penOfBay_of_pens {s t : State} (h : t.pens = s.pens) (b : Nat) : t.penOfBay b = s.penOfBay b := by
  simp only [State.penOfBay, State.pen, h]

/-! ### Patrol (R326) -/

theorem logLine_frame (s : State) (b l : Nat) (mark : Bool) :
    s.logLine b l mark = { s with regs := (s.logLine b l mark).regs, bays := (s.logLine b l mark).bays } := by
  unfold State.logLine
  dsimp only
  split
  · rfl
  · split
    · rfl
    · rfl

/-- The registers and the bay's lists after a line turned out unreadable, `v` being shown in HBM_POISON_LAST (R316). -/
def State.noteUeRegs (s : State) (b l : Nat) (v : Word64) : State :=
  (((s.onBay b (fun x => { x with raised := x.raised ++ [l] })).logLine b l true).bump .hbmEccCount 32 16 b).setReg .hbmPoisonLast v b

/-- What is kept of a line that turned out unreadable, before its row is counted (R316). -/
def State.noteUe (s : State) (b l : Nat) (v : Word64) : State :=
  (State.noteUeRegs s b l v).postBoth (s.penOfBay b) 352 ((State.noteUeRegs s b l v).stepOf (s.penOfBay b)) [ef b, ef (64 * l)]

theorem lineUe_eq (s : State) (b l : Nat) (injected : Bool) : s.lineUe b l injected =
    if ((s.setBad (b * stackLines + l) true).bay b).raised.contains l then s.setBad (b * stackLines + l) true
    else ((State.noteUe (s.setBad (b * stackLines + l) true) b l
        (BitVec.ofNat 64 (64 * l + (s.setBad (b * stackLines + l) true).penOfBay b * 2 ^ 36 + 2 ^ 63))).countEvent b 12 (linePch l) injected).rowDue b (rowOfLine l) := rfl

theorem noteUeRegs_frame (s : State) (b l : Nat) (v : Word64) : State.noteUeRegs s b l v = { s with
    regs := (State.noteUeRegs s b l v).regs, bays := (State.noteUeRegs s b l v).bays } := by
  rw [State.noteUeRegs]
  have logged := logLine_frame (s.onBay b (fun x => { x with raised := x.raised ++ [l] })) b l true
  generalize (s.onBay b (fun x => { x with raised := x.raised ++ [l] })).logLine b l true = t at logged ⊢
  rw [logged]
  rfl

theorem noteUe_frame (s : State) (b l : Nat) (v : Word64) : State.noteUe s b l v = { s with
    regs := (State.noteUe s b l v).regs, evq := (State.noteUe s b l v).evq, evLost := (State.noteUe s b l v).evLost
    bays := (State.noteUe s b l v).bays } := by
  rw [State.noteUe]
  have posted := ((EventsOnly.refl (State.noteUeRegs s b l v)).postBoth (s.penOfBay b) 352
    ((State.noteUeRegs s b l v).stepOf (s.penOfBay b)) [ef b, ef (64 * l)]).frame
  generalize (State.noteUeRegs s b l v).postBoth (s.penOfBay b) 352 ((State.noteUeRegs s b l v).stepOf (s.penOfBay b)) [ef b, ef (64 * l)] = u
    at posted ⊢
  rw [posted, noteUeRegs_frame]

theorem rowKeys_of_none (b : Nat) : RowKeys b (fun _ => False) := ⟨id, fun _ => id, id, fun _ _ => id⟩

/-- A line found unreadable is so marked, or its row's retirement has stored it as zeros with a mark. -/
theorem lineUe_lost (s : State) (b l : Nat) (injected : Bool) :
    (s.lineUe b l injected).lineBad (b * stackLines + l) = true ∨ Zeroed (b * stackLines + l) (s.lineUe b l injected) := by
  have bad := lineBad_setBad_self s (b * stackLines + l) true
  rw [lineUe_eq]
  split
  · exact .inl bad
  · generalize s.setBad (b * stackLines + l) true = t at bad ⊢
    generalize BitVec.ofNat 64 (64 * l + t.penOfBay b * 2 ^ 36 + 2 ^ 63) = v
    have bad' : (State.noteUe t b l v).lineBad (b * stackLines + l) = true := by
      rw [noteUe_frame]
      exact bad
    exact ((((RowWork.refl (K := fun _ => False) (State.noteUe t b l v)).countEvent _ injected (rowKeys_of_none b) rfl rfl).rowDue _
      (rowKeys_of_none b)).lines _).lost bad'

section
variable {s : State} {b l : Nat} {ecc : EccOut}

theorem decodeLine_of_bad (inj : s.injection = none) (bad : s.lineBad (b * stackLines + l) = true) : s.decodeLine b l ecc = s.lineUe b l false := by
  simp only [State.decodeLine, fireInjection_of_none inj, Bool.false_eq_true, if_false, bad, if_true]

theorem decodeLine_of_poison (inj : s.injection = none) (readable : s.lineBad (b * stackLines + l) = false)
    (poison : s.linePoison (b * stackLines + l) = true) : s.decodeLine b l ecc = s := by
  simp only [State.decodeLine, fireInjection_of_none inj, Bool.false_eq_true, if_false, readable, poison, if_true]

theorem decodeLine_of_readable (inj : s.injection = none) (readable : s.lineBad (b * stackLines + l) = false)
    (clean : s.linePoison (b * stackLines + l) = false) : s.decodeLine b l ecc =
      if eccFails ecc then (s.lineCe b l (eccCorrections ecc) false).lineUe b l false
      else ((s.lineCe b l (eccCorrections ecc) false).passSector (64 * (b * stackLines + l)) ecc.lo).passSector
        (64 * (b * stackLines + l) + 32) ecc.hi := by
  simp only [State.decodeLine, fireInjection_of_none inj, Bool.false_eq_true, if_false, readable, clean]

/-- A line whose sectors are good is read without a change. -/
theorem decodeLine_of_good (inj : s.injection = none) (readable : s.lineBad (b * stackLines + l) = false) :
    s.decodeLine b l ⟨.good, .good⟩ = s := by
  cases clean : s.linePoison (b * stackLines + l) with
  | true => exact decodeLine_of_poison inj readable clean
  | false =>
    rw [decodeLine_of_readable inj readable clean]
    rfl

/-- The line that a patrol has read is no longer unreadable (R326). -/
def State.patrolled (s : State) (b l : Nat) (ecc : EccOut) : State :=
  if (s.decodeLine b l ecc).lineBad (b * stackLines + l) then (s.decodeLine b l ecc).zeroMark (b * stackLines + l) else s.decodeLine b l ecc

theorem zeroed_patrolled (inj : s.injection = none) (lost : s.lineBad (b * stackLines + l) = true ∨
    (s.linePoison (b * stackLines + l) = false ∧ eccFails ecc = true)) : Zeroed (b * stackLines + l) (State.patrolled s b l ecc) := by
  have decoded : ∃ t, s.decodeLine b l ecc = State.lineUe t b l false := by
    cases readable : s.lineBad (b * stackLines + l) with
    | true => exact ⟨_, decodeLine_of_bad inj readable⟩
    | false =>
      obtain ⟨clean, fails⟩ := lost.resolve_left (by rw [readable]; decide)
      rw [decodeLine_of_readable inj readable clean, if_pos fails]
      exact ⟨_, rfl⟩
  obtain ⟨t, ht⟩ := decoded
  rw [State.patrolled, ht]
  split
  next => exact zeroed_zeroMark ..
  next good => exact (lineUe_lost t b l false).resolve_left good

end

theorem Zeroed.onBay {d : Nat} {s : State} (h : Zeroed d s) (q : Nat) {f : Machine.Bay → Machine.Bay}
    (erases : (f (s.bay q)).erases = (s.bay q).erases) : Zeroed d (s.onBay q f) := by
  have bays (r : Nat) : ((s.onBay q f).bay r).erases = (s.bay r).erases := by
    by_cases here : r = q
    · subst here
      rw [State.onBay, State.bay_setBay_self]
      exact erases
    · rw [State.onBay, State.bay_setBay_ne _ _ _ _ here]
  refine ⟨h.readable, Eq.trans ?_ h.marked, fun i hi => Eq.trans ?_ (h.zero i hi)⟩
  · rw [State.linePoison, bays]
    rfl
  · rw [State.hbmByte, bays]
    rfl

theorem execPatrol_eq (b : Fin 12) (ecc : EccOut) (s : State) (up : s.stackUp b.val = true) (idle : s.bayIdle b.val = true) :
    exec (.patrol b ecc) s = .next ((State.patrolled s b.val (s.bay b.val).patrolLine ecc).onBay b.val (fun x => { x with
      patrolLine := ((s.bay b.val).patrolLine + 1) % stackLines, raised := []
      log := x.log.filter (fun e => decide (e.1 ≠ (s.bay b.val).patrolLine)) })) := by
  simp only [exec, execPatrol, up, idle, Bool.and_self, whenOk, if_true]
  rfl

theorem patrol_reads_good (s : State) (b : Fin 12) (up : s.stackUp b.val = true) (idle : s.bayIdle b.val = true) (inj : s.injection = none)
    (readable : s.lineBad (b.val * stackLines + (s.bay b.val).patrolLine) = false) :
    exec (.patrol b ⟨.good, .good⟩) s = .next (s.setBay b.val { s.bay b.val with
      patrolLine := ((s.bay b.val).patrolLine + 1) % stackLines, raised := []
      log := (s.bay b.val).log.filter (fun e => decide (e.1 ≠ (s.bay b.val).patrolLine)) }) := by
  have same : State.patrolled s b.val (s.bay b.val).patrolLine ⟨.good, .good⟩ = s := by
    rw [State.patrolled, decodeLine_of_good inj readable, readable]
    rfl
  rw [execPatrol_eq b _ s up idle, same]
  rfl

theorem patrol_stores_lost (s : State) (b : Fin 12) (ecc : EccOut) (up : s.stackUp b.val = true) (idle : s.bayIdle b.val = true)
    (inj : s.injection = none) (lost : s.lineBad (b.val * stackLines + (s.bay b.val).patrolLine) = true ∨
      (s.linePoison (b.val * stackLines + (s.bay b.val).patrolLine) = false ∧ eccFails ecc = true)) :
    ∃ t, exec (.patrol b ecc) s = .next t ∧ Zeroed (b.val * stackLines + (s.bay b.val).patrolLine) t ∧
      (t.bay b.val).patrolLine = ((s.bay b.val).patrolLine + 1) % stackLines := by
  refine ⟨_, execPatrol_eq b ecc s up idle, (zeroed_patrolled inj lost).onBay _ ?_, ?_⟩
  · rfl
  · rw [State.onBay, State.bay_setBay_self]

theorem refresh_and_temperature (s : State) (b : Fin 12) (c : Int) (up : s.stackUp b.val = true) :
    exec (.refresh b) s = .next (s.setBay b.val { s.bay b.val with
      refreshBank := ((s.bay b.val).refreshBank + 1) % 64, refreshes := (s.bay b.val).refreshes + 1 }) ∧
    (let t := s.setBay b.val { s.bay b.val with tempC := c }
     exec (.stackTempChange b c) s = .next (
      if 85 ≤ c ∧ s.fld .hbmBayStatus 2 1 b.val = 0 then (t.setFld .hbmBayStatus 2 1 1 b.val).postBoth (s.penOfBay b.val) 355 0 [ef b.val]
      else if c < 80 ∧ s.fld .hbmBayStatus 2 1 b.val = 1 then t.setFld .hbmBayStatus 2 1 0 b.val
      else t)) := by
  constructor
  · simp only [exec, execRefresh, up, whenOk, if_true]
    rfl
  · have bit : s.fld .hbmBayStatus 2 1 b.val = 0 ↔ ¬ s.fld .hbmBayStatus 2 1 b.val = 1 := by
      have : s.fld .hbmBayStatus 2 1 b.val < 2 ^ 1 := Nat.mod_lt _ (by decide)
      omega
    simp only [exec, execStackTempChange, up, whenOk, if_true, Bool.not_eq_true', decide_eq_false_iff_not, decide_eq_true_eq, bit]
    rfl

/-! ### The boundary work (R330) -/

theorem lineBad_setBytes (s : State) (a : Nat) (bs : List Byte) (d : Nat) : (s.setBytes a bs).lineBad d = s.lineBad d := rfl

theorem linePoison_setBytes (s : State) (a : Nat) (bs : List Byte) (d : Nat) : (s.setBytes a bs).linePoison d = s.linePoison d := rfl

theorem lineKept_passSector {s : State} {d e off : Nat} (ne : d ≠ e) (fits : off + 32 ≤ 64) (sec : SecEcc) :
    LineKept d s (s.passSector (64 * e + off) sec) := by
  cases sec with
  | undetected bs =>
    have byte (i : Nat) (hi : i < 64) : (s.setBytes (64 * e + off) (fit 32 bs)).hbmByte (64 * d + i) = s.hbmByte (64 * d + i) :=
      hbmByte_setBytes_other s ne (by rw [length_fit]; exact fits) hi
    have bad := lineBad_setBytes s (64 * e + off) (fit 32 bs) d
    exact ⟨bad.trans, fun _ => linePoison_setBytes .., fun _ => byte, fun h => .inl (bad.trans h)⟩
  | _ => exact .refl d s

/-- Reading a logged line again leaves every other line. -/
theorem lineKept_rereadLine {s : State} {d b l : Nat} (ne : d ≠ b * stackLines + l) (ecc : EccOut) : LineKept d s (s.rereadLine b l ecc) := by
  unfold State.rereadLine
  dsimp only
  generalize b * stackLines + l = e at ne ⊢
  have low := lineKept_passSector (s := s) (off := 0) ne (by decide) ecc.lo
  rw [Nat.add_zero] at low
  split
  · exact lineKept_zeroMark_other s ne
  · split
    · exact .refl d s
    · split
      · exact lineKept_zeroMark_other s ne
      · exact low.trans (lineKept_passSector ne (by decide) _)

/-- A line that cannot be read, read again, is stored marked; one so stored stays. -/
theorem zeroed_rereadLine {s : State} {b l : Nat} (h : s.lineBad (b * stackLines + l) = true ∨ Zeroed (b * stackLines + l) s) (ecc : EccOut) :
    Zeroed (b * stackLines + l) (s.rereadLine b l ecc) := by
  unfold State.rereadLine
  dsimp only
  split
  next => exact zeroed_zeroMark ..
  next good =>
    have zeroed := h.resolve_left good
    rw [if_pos zeroed.marked]
    exact zeroed

theorem lost_rereadLine {s : State} {d : Nat} (h : s.lineBad d = true ∨ Zeroed d s) (b l : Nat) (ecc : EccOut) :
    (s.rereadLine b l ecc).lineBad d = true ∨ Zeroed d (s.rereadLine b l ecc) := by
  by_cases here : d = b * stackLines + l
  · subst here
    exact .inr (zeroed_rereadLine h ecc)
  · exact h.elim (lineKept_rereadLine here ecc).lost fun z => .inr (z.kept (lineKept_rereadLine here ecc))

/-- What reading the logged lines again makes of the memory (R330 order 1). -/
def State.rereads (s : State) (es : List EccOut) (xs : List (Nat × Nat × Nat)) : State :=
  xs.foldl (fun s x => s.rereadLine x.2.1 x.2.2 (es.getD x.1 ⟨.good, .good⟩)) s

theorem zeroed_rereads {xs : List (Nat × Nat × Nat)} {i b l : Nat} (mem : (i, b, l) ∈ xs) (es : List EccOut) (s : State)
    (h : s.lineBad (b * stackLines + l) = true ∨ Zeroed (b * stackLines + l) s) : Zeroed (b * stackLines + l) (State.rereads s es xs) := by
  induction xs generalizing s with
  | nil => cases mem
  | cons x xs ih =>
    rw [State.rereads, List.foldl_cons]
    obtain here | later := List.mem_cons.1 mem
    · subst here
      refine List.foldlRecOn (motive := Zeroed (b * stackLines + l)) xs _ (zeroed_rereadLine h _) fun t ht y _ => ?_
      by_cases same : b * stackLines + l = y.2.1 * stackLines + y.2.2
      · rw [same] at ht ⊢
        exact zeroed_rereadLine (.inr ht) _
      · exact ht.kept (lineKept_rereadLine same _)
    · exact ih later _ (lost_rereadLine h _ _ _)

/-- Only what lines of device memory hold and their marks differ. -/
structure LinesOnly (s t : State) : Prop where
  frame : t = { s with hbm := t.hbm, poison := t.poison, badLines := t.badLines }

theorem LinesOnly.refl (s : State) : LinesOnly s s := ⟨rfl⟩

theorem LinesOnly.trans {r s t : State} (h : LinesOnly r s) (h' : LinesOnly s t) : LinesOnly r t := ⟨by rw [h'.frame, h.frame]⟩

theorem linesOnly_setBytes (s : State) (a : Nat) (bs : List Byte) : LinesOnly s (s.setBytes a bs) := ⟨rfl⟩

theorem linesOnly_storeLine (s : State) (l a : Nat) (bs : List Byte) (bad marked : Bool) :
    LinesOnly s (State.storeLine s l a bs bad marked) := ⟨rfl⟩

theorem linesOnly_zeroMark (s : State) (l : Nat) : LinesOnly s (s.zeroMark l) := by
  rw [zeroMark_eq]
  exact linesOnly_storeLine ..

theorem linesOnly_passSector (s : State) (a : Nat) (e : SecEcc) : LinesOnly s (s.passSector a e) := by
  cases e with
  | undetected bs => exact linesOnly_setBytes ..
  | _ => exact .refl s

theorem linesOnly_rereadLine (s : State) (b l : Nat) (ecc : EccOut) : LinesOnly s (s.rereadLine b l ecc) := by
  unfold State.rereadLine
  dsimp only
  split
  · exact linesOnly_zeroMark ..
  · split
    · exact .refl s
    · split
      · exact linesOnly_zeroMark ..
      · exact (linesOnly_passSector ..).trans (linesOnly_passSector ..)

theorem linesOnly_rereads (s : State) (es : List EccOut) (xs : List (Nat × Nat × Nat)) : LinesOnly s (State.rereads s es xs) :=
  List.foldlRecOn (motive := LinesOnly s) xs _ (.refl s) fun t ht _ _ => ht.trans (linesOnly_rereadLine t _ _ _)

/-- The due rows of a pen's bays are retired (R330 order 2). -/
def State.retireRows (s : State) (bs : List Nat) : State := bs.foldl (fun s b => State.retireDue 4 s b) s

theorem rowWork_retireRows (s : State) (bs : List Nat) : RowWork (fun _ => False) s (State.retireRows s bs) :=
  RowWork.foldl (.refl s) fun _ b h => h.retireDue 4 (rowKeys_of_none b)

/-- A passed commit becomes active and the window caches are emptied (R330 orders 3 and 4). -/
def State.takeCommit (s : State) (pen : Nat) : State := (if (s.pen pen).activatePending then s.activateWindows pen else s).emptyWindows pen

/-- The memory logs of bays are emptied (R330). -/
def State.emptyLogs (s : State) (bs : List Nat) : State := bs.foldl (fun s b => s.onBay b (fun x => { x with log := [], raised := [] })) s

theorem emptyLogs_eq (s : State) (bs : List Nat) : State.emptyLogs s bs = State.onBays s bs fun x => { x with log := [], raised := [] } := rfl

/-- The order of the boundary work of a pen. -/
theorem exec_boundaryWork (s : State) (pen : Pen) (j : Job) (es : List EccOut) (job : s.job pen = some j) (due : j.boundaryDue = true) :
    exec (.boundaryWork pen es) s = .next ((State.emptyLogs
      (State.takeCommit (State.retireRows (State.rereads s es ((List.range (s.logged pen).length).zip (s.logged pen)))
        ((State.rereads s es ((List.range (s.logged pen).length).zip (s.logged pen))).baysOf pen)) pen)
      ((State.takeCommit (State.retireRows (State.rereads s es ((List.range (s.logged pen).length).zip (s.logged pen)))
        ((State.rereads s es ((List.range (s.logged pen).length).zip (s.logged pen))).baysOf pen)) pen).baysOf pen)).onJob pen
      (fun j => { j with boundaryDue := false })) := by
  simp only [exec, execBoundaryWork, job, due, Bool.not_true, Bool.false_eq_true, if_false]
  rfl

section
variable (s : State) (pen : Nat)

theorem pen_takeCommit : (State.takeCommit s pen).pen pen = if (s.pen pen).activatePending then { s.pen pen with
    active := (s.pen pen).staging, activatePending := false, activations := satAdd 32 (s.pen pen).activations 1 } else s.pen pen := by
  rw [State.takeCommit, pen_emptyWindows]
  split
  · rw [activateWindows_eq, pen_emptyWindows, pen_onPen_self]
  · rfl

theorem baysOf_takeCommit : (State.takeCommit s pen).baysOf pen = s.baysOf pen := by
  simp only [State.baysOf, pen_takeCommit]
  split <;> rfl

theorem job_takeCommit : (State.takeCommit s pen).job pen = s.job pen := by
  simp only [State.job, pen_takeCommit]
  split <;> rfl

theorem takeCommit_frame : State.takeCommit s pen = { s with pens := (State.takeCommit s pen).pens, bays := (State.takeCommit s pen).bays } := by
  rw [State.takeCommit, emptyWindows_frame]
  split
  · rw [activateWindows_frame]
  · rfl

theorem erases_emptyWindows (b : Nat) : ((s.emptyWindows pen).bay b).erases = (s.bay b).erases := by
  rw [bay_emptyWindows]
  split <;> rfl

theorem erases_takeCommit (b : Nat) : ((State.takeCommit s pen).bay b).erases = (s.bay b).erases := by
  rw [State.takeCommit, erases_emptyWindows]
  split
  · rw [activateWindows_eq, erases_emptyWindows]
    rfl
  · rfl

theorem winCache_takeCommit {b : Nat} (h : b ∈ s.baysOf pen) : ((State.takeCommit s pen).bay b).winCache = [] := by
  have mem : b ∈ (if (s.pen pen).activatePending then s.activateWindows pen else s).baysOf pen := by
    have same : (s.activateWindows pen).baysOf pen = s.baysOf pen := by
      simp only [State.baysOf, activateWindows_eq, pen_emptyWindows, pen_onPen_self]
    split
    · rw [same]
      exact h
    · exact h
  rw [State.takeCommit, bay_emptyWindows, if_pos mem]

end

/-- Whether a line is stored as zeros with a mark does not depend on what of the state is no memory and no erasure. -/
theorem Zeroed.of_same {d : Nat} {s t : State} (h : Zeroed d s) (memory : t = { t with hbm := s.hbm, poison := s.poison, badLines := s.badLines })
    (erases : ∀ b, (t.bay b).erases = (s.bay b).erases) : Zeroed d t := by
  refine ⟨Eq.trans (by rw [memory]; rfl) h.readable, Eq.trans ?_ h.marked, fun i hi => Eq.trans ?_ (h.zero i hi)⟩
  · rw [State.linePoison, State.linePoison, erases, memory]
  · rw [State.hbmByte, State.hbmByte, erases, memory]

/-- What the boundary work leaves of the pen's bays, lines and tables (R330). -/
theorem boundaryWork_leaves (s : State) (pen : Pen) (j : Job) (es : List EccOut) (job : s.job pen = some j) (due : j.boundaryDue = true) :
    ∃ t, exec (.boundaryWork pen es) s = .next t ∧ t.job pen = some { j with boundaryDue := false } ∧
      (∀ b ∈ s.baysOf pen, (t.bay b).log = [] ∧ (t.bay b).raised = [] ∧ (t.bay b).winCache = [] ∧
        ∀ e ∈ (s.bay b).log, s.lineBad (b * stackLines + e.1) = true → Zeroed (b * stackLines + e.1) t) ∧
      (t.pen pen).activatePending = false ∧
      (t.pen pen).active = (if (s.pen pen).activatePending then (s.pen pen).staging else (s.pen pen).active) := by
  have exec := exec_boundaryWork s pen j es job due
  have zeroed1 (b : Nat) (hb : b ∈ s.baysOf pen) (e : Nat × Bool) (he : e ∈ (s.bay b).log) (bad : s.lineBad (b * stackLines + e.1) = true) :
      Zeroed (b * stackLines + e.1) (State.rereads s es ((List.range (s.logged pen).length).zip (s.logged pen))) := by
    have mem : (b, e.1) ∈ s.logged pen := List.mem_flatMap.2 ⟨b, hb, List.mem_map.2 ⟨e, he, rfl⟩⟩
    obtain ⟨i, hi, at_⟩ := List.getElem_of_mem mem
    have zipped : (i, b, e.1) ∈ (List.range (s.logged pen).length).zip (s.logged pen) := by
      refine List.mem_iff_getElem.2 ⟨i, by simpa using hi, ?_⟩
      rw [List.getElem_zip, List.getElem_range, at_]
    exact zeroed_rereads zipped es s (.inl bad)
  have frame1 := (linesOnly_rereads s es ((List.range (s.logged pen).length).zip (s.logged pen))).frame
  generalize State.rereads s es ((List.range (s.logged pen).length).zip (s.logged pen)) = s1 at *
  have bays1 : s1.baysOf pen = s.baysOf pen := by
    rw [frame1]
    rfl
  have work := rowWork_retireRows s1 (s1.baysOf pen)
  generalize State.retireRows s1 (s1.baysOf pen) = s2 at *
  have pens : s2.pens = s.pens := by rw [work.outside.1, frame1]
  have pen2 : s2.pen pen = s.pen pen := by simp only [State.pen, pens]
  have bays2 : s2.baysOf pen = s.baysOf pen := by simp only [State.baysOf, pen2]
  have pen3 := pen_takeCommit s2 pen
  have job3 := job_takeCommit s2 pen
  have frame3 := takeCommit_frame s2 pen
  have erases3 := erases_takeCommit s2 pen
  have cache3 (b : Nat) (hb : b ∈ s.baysOf pen) := winCache_takeCommit s2 pen (by rw [bays2]; exact hb)
  rw [baysOf_takeCommit, bays2] at exec
  generalize State.takeCommit s2 pen = s3 at *
  have frame4 := onBays_frame (s.baysOf pen) (fun x => { x with log := [], raised := [] }) s3
  have bay4 (b : Nat) (hb : b ∈ s.baysOf pen) : (State.emptyLogs s3 (s.baysOf pen)).bay b = { s3.bay b with log := [], raised := [] } := by
    rw [emptyLogs_eq, bay_onBays_self (nodup_baysOf s pen) hb]
  have other4 (b : Nat) (hb : b ∉ s.baysOf pen) : (State.emptyLogs s3 (s.baysOf pen)).bay b = s3.bay b := by
    rw [emptyLogs_eq, bay_onBays_other hb]
  rw [← emptyLogs_eq] at frame4
  generalize State.emptyLogs s3 (s.baysOf pen) = s4 at *
  have pen4 : s4.pen pen = s3.pen pen := by
    rw [frame4]
    rfl
  have job4 : s4.job pen = some j := by rw [State.job, pen4, ← State.job, job3, State.job, pen2, ← State.job, job]
  have end_ (b : Nat) : (s4.onJob pen (fun j => { j with boundaryDue := false })).bay b = s4.bay b := rfl
  refine ⟨_, exec, ?_, fun b hb => ⟨?_, ?_, ?_, fun e he bad => ?_⟩, ?_, ?_⟩
  · exact job_onJob_self job4 _
  · rw [end_, bay4 b hb]
  · rw [end_, bay4 b hb]
  · rw [end_, bay4 b hb]
    exact cache3 b hb
  · have erases4 (q : Nat) : (s4.bay q).erases = (s3.bay q).erases := by
      by_cases hq : q ∈ s.baysOf pen
      · rw [bay4 q hq]
      · rw [other4 q hq]
    have zeroed3 := ((zeroed1 b hb e he bad).kept (work.lines _)).of_same (t := s3) (by rw [frame3]) erases3
    have zeroed4 := zeroed3.of_same (t := s4) (by rw [frame4]) erases4
    exact zeroed4.of_same rfl fun _ => rfl
  · rw [pen_onJob job4, if_pos rfl, pen4, pen3, pen2]
    split
    · rfl
    next off => exact Bool.eq_false_iff.2 off
  · rw [pen_onJob job4, if_pos rfl, pen4, pen3, pen2]
    split <;> rfl

/-- Settles O34. -/
theorem stackUpkeepAndBoundaries : Obligations.StackUpkeepAndBoundaries := by
  unfold Obligations.StackUpkeepAndBoundaries
  refine ⟨fun s b c ecc up => ?_, fun s pen j es job due => ⟨?_, ?_⟩⟩
  · dsimp only
    obtain ⟨refresh, temperature⟩ := refresh_and_temperature s b c up
    refine ⟨refresh, temperature, fun idle inj => ⟨fun good readable => ?_, fun lost => ?_⟩⟩
    · subst good
      exact patrol_reads_good s b up idle inj readable
    · obtain ⟨t, run, zeroed, next⟩ := patrol_stores_lost s b ecc up idle inj lost
      exact ⟨t, run, zeroed.marked, zeroed.readable, zeroed.zero, next⟩
  · exact exec_boundaryWork s pen j es job due
  · obtain ⟨t, run, job', bays, pending, active⟩ := boundaryWork_leaves s pen j es job due
    refine ⟨t, run, job', fun b hb => ?_, pending, active⟩
    obtain ⟨log, raised, cache, lines⟩ := bays b hb
    exact ⟨log, raised, cache, fun e he bad => ⟨(lines e he bad).readable, (lines e he bad).marked, (lines e he bad).zero⟩⟩

end Sys2Proof.Proofs
end

section
namespace Sys2Proof.Proofs

open Sys2Proof Sys2Proof.Machine Sys2Proof.Claims

/-! ### The registers of a stack's errors (R314 to R317) -/

/-- The two registers that show the errors of a bay's stack. -/
def EccKey (b k : Nat) : Prop := k = 0x400080 + 8 * b ∨ k = 0x400100 + 8 * b

theorem rowKeys_eccKey {b : Nat} (hb : b < 12) : RowKeys b (EccKey b) := by
  refine ⟨?_, fun c => ?_, ?_, fun fn hfn => ?_⟩
  · show ¬ (0x400000 + 8 * b = 0x400080 + 8 * b ∨ 0x400000 + 8 * b = 0x400100 + 8 * b)
    omega
  · show ¬ (0x801000 + 8 * (32 * b + c) = 0x400080 + 8 * b ∨ 0x801000 + 8 * (32 * b + c) = 0x400100 + 8 * b)
    omega
  · show ¬ (0x800200 + 8 * b = 0x400080 + 8 * b ∨ 0x800200 + 8 * b = 0x400100 + 8 * b)
    omega
  · show ¬ (0xC00200 + 8 * fn = 0x400080 + 8 * b ∨ 0xC00200 + 8 * fn = 0x400100 + 8 * b)
    omega

theorem eccKey_count (b : Nat) : EccKey b (RegName.key .hbmEccCount 0 b) := .inl rfl

theorem eccKey_last (b : Nat) : EccKey b (RegName.key .hbmPoisonLast 0 b) := .inr rfl

section
variable {s : State} {n : RegName} {lo w d ix fn : Nat}

theorem fld_bump_self (h : lo + w ≤ 64) : (s.bump n lo w ix d fn).fld n lo w ix fn = min (2 ^ w - 1) (s.fld n lo w ix fn + d) := by
  have pos : 0 < 2 ^ w := Nat.two_pow_pos w
  exact fld_setFld_of_lt s n ix fn h (Nat.lt_of_le_of_lt (Nat.min_le_left ..) (by omega))

theorem fld_bump_beside {lo' w' : Nat} (h : lo' + w' ≤ lo ∨ lo + w ≤ lo') :
    (s.bump n lo w ix d fn).fld n lo' w' ix fn = s.fld n lo' w' ix fn := fld_setFld_beside s n _ ix fn h

end

/-! ### Corrected sectors (R315) -/

/-- What one corrected sector of a line counts. -/
def State.countCe (s : State) (b l : Nat) (injected : Bool) : State :=
  ((s.bump .hbmEccCount 0 32 b).countRow b (rowOfLine l)).countEvent b 11 (linePch l) injected

/-- What `n` corrected sectors of a line count. -/
def State.countCes (s : State) (b l : Nat) (injected : Bool) (n : Nat) : State := (List.range n).foldl (fun s _ => State.countCe s b l injected) s

theorem lineCe_eq (s : State) (b l n : Nat) (injected : Bool) : s.lineCe b l n injected =
    if n = 0 then State.countCes s b l injected n else (State.countCes s b l injected n).logLine b l false := rfl

theorem countCes_succ (s : State) (b l : Nat) (injected : Bool) (n : Nat) :
    State.countCes s b l injected (n + 1) = State.countCe (State.countCes s b l injected n) b l injected := by
  rw [State.countCes, List.range_succ, List.foldl_append, ← State.countCes]
  rfl

theorem rowWork_countCe (s : State) (b l : Nat) (injected : Bool) : RowWork (fun _ => False) s (State.countCe s b l injected) :=
  (((RowWork.refl s).setFld _ _ _ _ _ _ id).countRow _ (rowKeys_of_none b)).countEvent _ injected (rowKeys_of_none b) rfl rfl

theorem rowWork_countCes (s : State) (b l : Nat) (injected : Bool) (n : Nat) : RowWork (fun _ => False) s (State.countCes s b l injected n) := by
  induction n with
  | zero => exact .refl s
  | succ n ih =>
    rw [countCes_succ]
    exact ih.trans (rowWork_countCe ..)

section
variable {b : Nat} (hb : b < 12) (s : State) (l : Nat) (injected : Bool)
include hb

theorem sameRegs_countCe : SameRegs (EccKey b) (s.bump .hbmEccCount 0 32 b) (State.countCe s b l injected) :=
  (((RowWork.refl _).countRow _ (rowKeys_eccKey hb)).countEvent _ injected (rowKeys_eccKey hb) rfl rfl).regs

theorem corrections_countCe : (State.countCe s b l injected).fld .hbmEccCount 0 32 b = min (2 ^ 32 - 1) (s.fld .hbmEccCount 0 32 b + 1) := by
  rw [(sameRegs_countCe hb s l injected).fld _ _ _ _ _ (eccKey_count b), fld_bump_self (by decide)]

theorem losses_countCe : (State.countCe s b l injected).fld .hbmEccCount 32 16 b = s.fld .hbmEccCount 32 16 b := by
  rw [(sameRegs_countCe hb s l injected).fld _ _ _ _ _ (eccKey_count b), fld_bump_beside (.inr (by decide))]

theorem corrections_countCes (n : Nat) :
    (State.countCes s b l injected n).fld .hbmEccCount 0 32 b = min (2 ^ 32 - 1) (s.fld .hbmEccCount 0 32 b + n) := by
  induction n with
  | zero =>
    have : s.fld .hbmEccCount 0 32 b < 2 ^ 32 := Nat.mod_lt _ (Nat.two_pow_pos 32)
    rw [Nat.add_zero, Nat.min_eq_right (by omega)]
    rfl
  | succ n ih =>
    rw [countCes_succ, corrections_countCe hb, ih]
    omega

theorem losses_countCes (n : Nat) : (State.countCes s b l injected n).fld .hbmEccCount 32 16 b = s.fld .hbmEccCount 32 16 b := by
  induction n with
  | zero => rfl
  | succ n ih => rw [countCes_succ, losses_countCe hb, ih]

end

/-! ### The memory log (R316) -/

section
variable (s : State) (b l : Nat) (mark : Bool)

theorem fld_logLine {lo w : Nat} (h : lo + w ≤ 48) : (s.logLine b l mark).fld .hbmEccCount lo w b = s.fld .hbmEccCount lo w b := by
  unfold State.logLine
  dsimp only
  split
  · rfl
  · split
    · rfl
    · exact fld_bump_beside (.inl h)

theorem bay_logLine (q : Nat) : ((s.logLine b l mark).bay q).erases = (s.bay q).erases ∧ ((s.logLine b l mark).bay q).raised = (s.bay q).raised := by
  have kept {x : Machine.Bay} (h : x.erases = (s.bay b).erases) (h' : x.raised = (s.bay b).raised) :
      ((s.setBay b x).bay q).erases = (s.bay q).erases ∧ ((s.setBay b x).bay q).raised = (s.bay q).raised := by
    by_cases here : q = b
    · subst here
      rw [State.bay_setBay_self]
      exact ⟨h, h'⟩
    · rw [State.bay_setBay_ne _ _ _ _ here]
      exact ⟨rfl, rfl⟩
  unfold State.logLine
  dsimp only
  split
  · exact kept rfl rfl
  · split
    · exact kept rfl rfl
    · exact ⟨rfl, rfl⟩

/-- A line that is logged stands in the log, where it has room. -/
theorem mem_logLine (room : (s.bay b).log.length < 256) : ∃ m, (l, m) ∈ ((s.logLine b l mark).bay b).log := by
  unfold State.logLine
  dsimp only
  split
  next logged =>
    obtain ⟨e, mem, is⟩ := List.any_eq_true.1 logged
    rw [State.bay_setBay_self]
    exact ⟨e.2 || mark, List.mem_map.2 ⟨e, mem, by rw [if_pos (of_decide_eq_true is), of_decide_eq_true is]⟩⟩
  next =>
    rw [State.bay_setBay_self]
    exact ⟨mark, List.mem_append_right _ (List.mem_singleton_self _)⟩

theorem lineKept_logLine (d : Nat) : LineKept d s (s.logLine b l mark) := by
  have frame := logLine_frame s b l mark
  have erases (q : Nat) := (bay_logLine s b l mark q).1
  have bad : (s.logLine b l mark).lineBad d = s.lineBad d := by
    rw [frame]
    rfl
  have poison : (s.logLine b l mark).linePoison d = s.linePoison d := by
    rw [State.linePoison, State.linePoison, erases, frame]
  have byte (x : Nat) : (s.logLine b l mark).hbmByte x = s.hbmByte x := by
    rw [State.hbmByte, State.hbmByte, erases, frame]
  exact ⟨fun h => bad.trans h, fun _ => poison, fun _ _ _ => byte _, fun h => .inl (bad.trans h)⟩

end

/-! ### Reads of a line (R314 to R316) -/

/-- What the decoding of a line never changes: all but the lines, the registers, events and the work on rows. -/
structure Decoded (s t : State) : Prop where
  pens : t.pens = s.pens
  ports : t.ports = s.ports
  cores : t.cores = s.cores

theorem Decoded.refl (s : State) : Decoded s s := ⟨rfl, rfl, rfl⟩

theorem Decoded.trans {r s t : State} (h : Decoded r s) (h' : Decoded s t) : Decoded r t :=
  ⟨h'.pens.trans h.pens, h'.ports.trans h.ports, h'.cores.trans h.cores⟩

theorem RowWork.decoded {K : Nat → Prop} {s t : State} (h : RowWork K s t) : Decoded s t :=
  ⟨h.outside.1, h.outside.2.1, h.outside.2.2⟩

theorem decoded_logLine (s : State) (b l : Nat) (mark : Bool) : Decoded s (s.logLine b l mark) := by
  rw [logLine_frame]
  exact ⟨rfl, rfl, rfl⟩

theorem decoded_lineCe (s : State) (b l n : Nat) (injected : Bool) : Decoded s (s.lineCe b l n injected) := by
  have counted := (rowWork_countCes s b l injected n).decoded
  rw [lineCe_eq]
  split
  · exact counted
  · exact counted.trans (decoded_logLine ..)

theorem decoded_noteUe (s : State) (b l : Nat) (v : Word64) : Decoded s (State.noteUe s b l v) := by
  rw [noteUe_frame]
  exact ⟨rfl, rfl, rfl⟩

theorem decoded_setBad (s : State) (l : Nat) (bad : Bool) : Decoded s (s.setBad l bad) := ⟨rfl, rfl, rfl⟩

theorem decoded_lineUe (s : State) (b l : Nat) (injected : Bool) : Decoded s (s.lineUe b l injected) := by
  rw [lineUe_eq]
  have marked := decoded_setBad s (b * stackLines + l) true
  generalize s.setBad (b * stackLines + l) true = t at marked ⊢
  split
  · exact marked
  · exact (marked.trans (decoded_noteUe ..)).trans
      (((RowWork.refl (K := fun _ => False) _).countEvent _ injected (rowKeys_of_none b) rfl rfl).rowDue _ (rowKeys_of_none b)).decoded

/-- The device keeps its tables in the lowest bay of a pen (R309, R368). -/
def State.keepsTables (s : State) (b : Nat) : Bool :=
  decide (s.penOfBay b ≠ 0) && decide ((s.baysOf (s.penOfBay b)).head? = some b)

theorem deviceLine_eq_none (s : State) (b l : Nat) : s.deviceLine b l = none ↔
    ¬ (offActive ≤ 64 * l ∧ 64 * l < offStaging ∧ State.keepsTables s b = true) ∧
    ¬ (offStaging ≤ 64 * l ∧ 64 * l < offRecord ∧ State.keepsTables s b = true) ∧ ¬ (offRecord ≤ 64 * l ∧ 64 * l < offRecordEnd) := by
  unfold State.deviceLine
  dsimp only
  split
  next active => exact ⟨fun h => (nomatch h), fun h => absurd active h.1⟩
  next active =>
    split
    next staging => exact ⟨fun h => (nomatch h), fun h => absurd staging h.2.1⟩
    next staging =>
      split
      next record => exact ⟨fun h => (nomatch h), fun h => absurd record h.2.2⟩
      next record => exact ⟨fun _ => ⟨active, staging, record⟩, fun _ => rfl⟩

section
variable {s t : State} (h : Decoded s t) (b l : Nat)
include h

theorem Decoded.pen (p : Nat) : t.pen p = s.pen p := by rw [State.pen, State.pen, h.pens]

theorem Decoded.core (k : Nat) : t.core k = s.core k := by rw [State.core, State.core, h.cores]

theorem Decoded.imageLine : t.imageLine b l = s.imageLine b l := by
  simp only [State.imageLine, State.slotContext, State.job, h.pen, penOfBay_of_pens h.pens]

/-- Whether the device keeps a line itself. -/
theorem Decoded.deviceLine : t.deviceLine b l = none ↔ s.deviceLine b l = none := by
  have bays (p : Nat) : t.baysOf p = s.baysOf p := by simp only [State.baysOf, h.pen]
  have tables : State.keepsTables t b = State.keepsTables s b := by rw [State.keepsTables, State.keepsTables, penOfBay_of_pens h.pens, bays]
  rw [deviceLine_eq_none, deviceLine_eq_none, tables]

end

section
variable {s : State} {b l : Nat}

theorem settleImage_of_plain (plain : s.imageLine b l = none) (ecc : EccOut) : s.settleImage b l ecc = s := by
  simp only [State.settleImage, plain]

theorem decodeAt_of_plain (plain : s.imageLine b l = none) (ecc : EccOut) :
    s.decodeAt b l ecc = (s.decodeLine b l ecc).settleImage b l ecc := by
  simp only [State.decodeAt, State.imageMarked, plain, Bool.false_eq_true, if_false]

theorem answerLine_of_bad (bad : s.lineBad (b * stackLines + l) = true) : s.answerLine b l = (s, zeros 64, true) := by
  simp only [State.answerLine, bad, if_true]

theorem answerLine_of_plain (readable : s.lineBad (b * stackLines + l) = false) (plain : s.imageLine b l = none)
    (stored : s.deviceLine b l = none) : s.answerLine b l =
      (s, (List.range 64).map (fun i => s.hbmByte (64 * (b * stackLines + l) + i)), s.linePoison (b * stackLines + l)) := by
  simp only [State.answerLine, readable, Bool.false_eq_true, if_false, plain, stored, State.readLine]

theorem answerLine_of_device {bs : List Byte} (readable : s.lineBad (b * stackLines + l) = false) (plain : s.imageLine b l = none)
    (kept : s.deviceLine b l = some bs) : s.answerLine b l = (s, bs, false) := by
  simp only [State.answerLine, readable, Bool.false_eq_true, if_false, plain, kept]

theorem map_range_zero (n : Nat) (f : Nat → Byte) (h : ∀ i, i < n → f i = 0#8) : (List.range n).map f = zeros n := by
  rw [List.map_congr_left (g := fun _ => 0#8) fun i hi => h i (List.mem_range.1 hi), List.map_const', List.length_range, zeros]

/-- A line that is lost answers 64 zero bytes, poisoned, be it still unreadable or stored so. -/
theorem answerLine_of_lost (lost : s.lineBad (b * stackLines + l) = true ∨ Zeroed (b * stackLines + l) s) (plain : s.imageLine b l = none)
    (stored : s.deviceLine b l = none) : s.answerLine b l = (s, zeros 64, true) := by
  obtain bad | z := lost
  · exact answerLine_of_bad bad
  · rw [answerLine_of_plain z.readable plain stored, z.marked, map_range_zero 64 _ z.zero]

theorem exec_memRead {b : Fin 12} (inside : l < stackLines) (up : s.stackUp b.val = true) (ecc : EccOut) :
    exec (.memRead b l ecc) s = .next { ((s.decodeAt b.val l ecc).answerLine b.val l).1 with
      lastRead := ((s.decodeAt b.val l ecc).answerLine b.val l).2.1, lastPoison := ((s.decodeAt b.val l ecc).answerLine b.val l).2.2 } := by
  simp only [exec, execMemRead, Nat.not_le.2 inside, if_false, up, whenOk, if_true]

theorem exec_memWrite {b : Fin 12} (inside : l < stackLines) (up : s.stackUp b.val = true) {off : Nat} {data : List Byte}
    (some : 0 < data.length) (fits : off + data.length ≤ 64) (poison : Bool) (ecc : EccOut) :
    exec (.memWrite b l off data poison ecc) s = .next ((if data.length < 64 then s.decodeAt b.val l ecc else s).hubWrite b.val l off data poison) := by
  have full : data.isEmpty = false := by
    cases data with
    | nil => cases some
    | cons => rfl
  simp only [exec, execMemWrite, Nat.not_le.2 inside, if_false, up, whenOk, full, fits, decide_true, Bool.not_false, Bool.and_self, if_true]

end

/-- What a line stores. -/
def State.storedLine (s : State) (d : Nat) : List Byte := (List.range 64).map (fun i => s.hbmByte (64 * d + i))

theorem passSector_of_known {e : SecEcc} (h : e = .good ∨ e = .corrected) (t : State) (a : Nat) : t.passSector a e = t := by
  obtain rfl | rfl := h <;> rfl

theorem devByte_in (s : State) (d : Nat) {i : Nat} (hi : i < 64) : s.devByte (64 * d + i) = if s.lineBad d then 0#8 else s.hbmByte (64 * d + i) := by
  rw [State.devByte, show (64 * d + i) / 64 = d by omega]

theorem devPoison_in (s : State) (d : Nat) {i : Nat} (hi : i < 64) : s.devPoison (64 * d + i) = (s.lineBad d || s.linePoison d) := by
  rw [State.devPoison, show (64 * d + i) / 64 = d by omega]

section
variable {s : State} {b : Fin 12} {l : Nat} (inside : l < stackLines) (up : s.stackUp b.val = true) (inj : s.injection = none)
  (plain : s.imageLine b.val l = none)
include inside up inj plain

/-- A read of a line whose sectors are good. -/
theorem memRead_good (stored : s.deviceLine b.val l = none) (readable : s.lineBad (b.val * stackLines + l) = false) :
    exec (.memRead b l ⟨.good, .good⟩) s = .next { s with
      lastRead := State.storedLine s (b.val * stackLines + l), lastPoison := s.linePoison (b.val * stackLines + l) } := by
  rw [exec_memRead inside up, decodeAt_of_plain plain, decodeLine_of_good inj readable, settleImage_of_plain plain,
    answerLine_of_plain readable plain stored]
  rfl

/-- A read of a line that the device keeps itself. -/
theorem memRead_device {bs : List Byte} (kept : s.deviceLine b.val l = some bs) (readable : s.lineBad (b.val * stackLines + l) = false) :
    exec (.memRead b l ⟨.good, .good⟩) s = .next { s with lastRead := bs, lastPoison := false } := by
  rw [exec_memRead inside up, decodeAt_of_plain plain, decodeLine_of_good inj readable, settleImage_of_plain plain,
    answerLine_of_device readable plain kept]

omit inside up plain in
theorem decodeLine_of_corrected {ecc : EccOut} (readable : s.lineBad (b.val * stackLines + l) = false)
    (clean : s.linePoison (b.val * stackLines + l) = false) (lo : ecc.lo = .good ∨ ecc.lo = .corrected) (hi : ecc.hi = .good ∨ ecc.hi = .corrected)
    (corrects : eccFails ecc = false) : s.decodeLine b.val l ecc = s.lineCe b.val l (eccCorrections ecc) false := by
  rw [decodeLine_of_readable inj readable clean, corrects, passSector_of_known lo, passSector_of_known hi]
  rfl

end

/-! ### Corrected and lost lines (R315, R316) -/

section
variable (s : State) (b l n : Nat)

theorem lineKept_lineCe (d : Nat) (injected : Bool) : LineKept d s (s.lineCe b l n injected) := by
  have counted := (rowWork_countCes s b l injected n).lines d
  rw [lineCe_eq]
  split
  · exact counted
  · exact counted.trans (lineKept_logLine ..)

theorem raised_lineCe (injected : Bool) : ((s.lineCe b l n injected).bay b).raised = (s.bay b).raised := by
  obtain ⟨_, _, counted⟩ := (rowWork_countCes s b l injected n).bays b
  rw [lineCe_eq]
  split
  · exact counted
  · rw [(bay_logLine ..).2, counted]

theorem mem_log_lineCe (injected : Bool) (some : 0 < n) (room : (s.bay b).log.length < 256) :
    ∃ m, (l, m) ∈ ((s.lineCe b l n injected).bay b).log := by
  obtain ⟨_, counted, _⟩ := (rowWork_countCes s b l injected n).bays b
  rw [lineCe_eq, if_neg (by omega)]
  exact mem_logLine _ _ _ _ (by rw [counted]; exact room)

variable {b} (hb : b < 12)
include hb

theorem corrections_lineCe (injected : Bool) :
    (s.lineCe b l n injected).fld .hbmEccCount 0 32 b = min (2 ^ 32 - 1) (s.fld .hbmEccCount 0 32 b + n) := by
  rw [lineCe_eq]
  split
  · exact corrections_countCes hb s l injected n
  · rw [fld_logLine _ _ _ _ (by decide), corrections_countCes hb]

theorem losses_lineCe (injected : Bool) : (s.lineCe b l n injected).fld .hbmEccCount 32 16 b = s.fld .hbmEccCount 32 16 b := by
  rw [lineCe_eq]
  split
  · exact losses_countCes hb s l injected n
  · rw [fld_logLine _ _ _ _ (by decide), losses_countCes hb]

end

section
variable (s : State) {b : Nat} (hb : b < 12) (l : Nat) (v : Word64)

theorem raised_noteUe : l ∈ ((State.noteUe s b l v).bay b).raised := by
  have bays : (State.noteUe s b l v).bays = (State.noteUeRegs s b l v).bays := by
    rw [State.noteUe, ((EventsOnly.refl _).postBoth ..).frame]
  have regs : ((State.noteUeRegs s b l v).bay b).raised = ((s.onBay b (fun x => { x with raised := x.raised ++ [l] })).bay b).raised :=
    (bay_logLine (s.onBay b (fun x => { x with raised := x.raised ++ [l] })) b l true b).2
  rw [State.bay, bays, ← State.bay, regs, State.onBay, State.bay_setBay_self]
  exact List.mem_append_right _ (List.mem_singleton_self l)

include hb

theorem sameRegs_noteUe : SameRegs (EccKey b) (State.noteUeRegs s b l v) (State.noteUe s b l v) :=
  (SameRegs.refl _).postBoth _ _ _ _ (rowKeys_eccKey hb).posts

theorem last_noteUe : (State.noteUe s b l v).reg .hbmPoisonLast b = v := by
  rw [(sameRegs_noteUe s hb l v).reg _ _ _ (eccKey_last b), State.noteUeRegs, State.reg_setReg_self]

theorem losses_noteUe : (State.noteUe s b l v).fld .hbmEccCount 32 16 b = min (2 ^ 16 - 1) (s.fld .hbmEccCount 32 16 b + 1) := by
  have apart : RegName.key .hbmEccCount 0 b ≠ RegName.key .hbmPoisonLast 0 b := by
    show ¬ 0x400080 + 8 * b = 0x400100 + 8 * b
    omega
  have logged := fld_logLine (s.onBay b (fun x => { x with raised := x.raised ++ [l] })) b l true (lo := 32) (w := 16) (by decide)
  rw [(sameRegs_noteUe s hb l v).fld _ _ _ _ _ (eccKey_count b), State.noteUeRegs]
  generalize (s.onBay b (fun x => { x with raised := x.raised ++ [l] })).logLine b l true = t at logged ⊢
  have beside : ((t.bump .hbmEccCount 32 16 b).setReg .hbmPoisonLast v b).fld .hbmEccCount 32 16 b = (t.bump .hbmEccCount 32 16 b).fld .hbmEccCount 32 16 b := by
    rw [State.fld, State.reg_setReg_ne _ _ _ _ _ _ _ _ apart, ← State.fld]
  rw [beside, fld_bump_self (by decide), logged]
  rfl

/-- The first time a line turns out unreadable it is counted, shown and noted (R316). -/
theorem lineUe_first (injected : Bool) (first : l ∉ (s.bay b).raised) :
    (s.lineUe b l injected).fld .hbmEccCount 32 16 b = min (2 ^ 16 - 1) (s.fld .hbmEccCount 32 16 b + 1) ∧
    (s.lineUe b l injected).reg .hbmPoisonLast b = BitVec.ofNat 64 (64 * l + s.penOfBay b * 2 ^ 36 + 2 ^ 63) ∧
    l ∈ ((s.lineUe b l injected).bay b).raised := by
  have marked : (s.setBad (b * stackLines + l) true).bays = s.bays ∧ (s.setBad (b * stackLines + l) true).regs = s.regs ∧
      (s.setBad (b * stackLines + l) true).pens = s.pens := ⟨rfl, rfl, rfl⟩
  rw [lineUe_eq]
  generalize s.setBad (b * stackLines + l) true = t at marked ⊢
  obtain ⟨bays, regs, pens⟩ := marked
  have new : (t.bay b).raised.contains l = false := by
    rw [State.bay, bays, ← State.bay]
    exact Bool.eq_false_iff.2 fun h => first (List.contains_iff_mem.1 h)
  rw [new, penOfBay_of_pens pens]
  simp only [Bool.false_eq_true, if_false]
  generalize BitVec.ofNat 64 (64 * l + s.penOfBay b * 2 ^ 36 + 2 ^ 63) = v
  have work := (((RowWork.refl (K := EccKey b) (State.noteUe t b l v)).countEvent (c := 12) (linePch l) injected (rowKeys_eccKey hb) rfl rfl).rowDue
    (rowOfLine l) (rowKeys_eccKey hb))
  refine ⟨?_, ?_, ?_⟩
  · rw [work.regs.fld _ _ _ _ _ (eccKey_count b), losses_noteUe t hb, fld_of_regs regs]
  · rw [work.regs.reg _ _ _ (eccKey_last b), last_noteUe t hb]
  · rw [(work.bays b).2.2]
    exact raised_noteUe t l v

end

section
variable {s : State} {b : Fin 12} {l : Nat} (inside : l < stackLines) (up : s.stackUp b.val = true) (inj : s.injection = none)
  (plain : s.imageLine b.val l = none)
include inside up inj plain

/-- A read whose sectors are good or corrected answers what the line stores and counts the corrections. -/
theorem memRead_corrected (stored : s.deviceLine b.val l = none) {ecc : EccOut} (readable : s.lineBad (b.val * stackLines + l) = false)
    (clean : s.linePoison (b.val * stackLines + l) = false) (corrects : eccFails ecc = false) (lo : ecc.lo = .good ∨ ecc.lo = .corrected)
    (hi : ecc.hi = .good ∨ ecc.hi = .corrected) : ∃ t, exec (.memRead b l ecc) s = .next t ∧
      t.lastRead = State.storedLine s (b.val * stackLines + l) ∧ t.lastPoison = false ∧
      t.fld .hbmEccCount 0 32 b.val = min (2 ^ 32 - 1) (s.fld .hbmEccCount 0 32 b.val + eccCorrections ecc) ∧
      (0 < eccCorrections ecc → (s.bay b.val).log.length < 256 → ∃ m, (l, m) ∈ (t.bay b.val).log) := by
  have only := decoded_lineCe s b.val l (eccCorrections ecc) false
  have kept := lineKept_lineCe s b.val l (eccCorrections ecc) (b.val * stackLines + l) false
  have counts := corrections_lineCe s l (eccCorrections ecc) b.isLt false
  have logs := mem_log_lineCe s b.val l (eccCorrections ecc) false
  have run := exec_memRead inside up ecc
  rw [decodeAt_of_plain plain, decodeLine_of_corrected inj readable clean lo hi corrects] at run
  generalize s.lineCe b.val l (eccCorrections ecc) false = t at *
  have plain' : t.imageLine b.val l = none := (only.imageLine ..).trans plain
  rw [settleImage_of_plain plain', answerLine_of_plain (kept.readable readable) plain' ((only.deviceLine ..).2 stored)] at run
  exact ⟨_, run, List.map_congr_left fun i hi => kept.bytes readable i (List.mem_range.1 hi), (kept.mark readable).trans clean, counts, logs⟩

/-- A read that meets a sector that cannot be corrected answers zeros, poisoned; the first such read of the line is counted and shown. -/
theorem memRead_lost (stored : s.deviceLine b.val l = none) {ecc : EccOut} (readable : s.lineBad (b.val * stackLines + l) = false)
    (clean : s.linePoison (b.val * stackLines + l) = false) (fails : eccFails ecc = true) : ∃ t, exec (.memRead b l ecc) s = .next t ∧
      t.lastRead = zeros 64 ∧ t.lastPoison = true ∧
      (∀ i, i < 64 → t.devByte (64 * (b.val * stackLines + l) + i) = 0#8 ∧ t.devPoison (64 * (b.val * stackLines + l) + i) = true) ∧
      (l ∉ (s.bay b.val).raised →
        t.fld .hbmEccCount 32 16 b.val = min (2 ^ 16 - 1) (s.fld .hbmEccCount 32 16 b.val + 1) ∧
        t.reg .hbmPoisonLast b.val = BitVec.ofNat 64 (64 * l + s.penOfBay b.val * 2 ^ 36 + 2 ^ 63) ∧ l ∈ (t.bay b.val).raised) := by
  have only := (decoded_lineCe s b.val l (eccCorrections ecc) false).trans (decoded_lineUe _ b.val l false)
  have first := lineUe_first (s.lineCe b.val l (eccCorrections ecc) false) b.isLt l false
  rw [raised_lineCe, losses_lineCe s l _ b.isLt, penOfBay_of_pens (decoded_lineCe ..).pens] at first
  have lost := lineUe_lost (s.lineCe b.val l (eccCorrections ecc) false) b.val l false
  have run := exec_memRead inside up ecc
  rw [decodeAt_of_plain plain, decodeLine_of_readable inj readable clean, if_pos fails] at run
  generalize (s.lineCe b.val l (eccCorrections ecc) false).lineUe b.val l false = t at *
  have plain' : t.imageLine b.val l = none := (only.imageLine ..).trans plain
  rw [settleImage_of_plain plain', answerLine_of_lost lost plain' ((only.deviceLine ..).2 stored)] at run
  have answers (i : Nat) (hi : i < 64) : t.devByte (64 * (b.val * stackLines + l) + i) = 0#8 ∧
      t.devPoison (64 * (b.val * stackLines + l) + i) = true := by
    rw [devByte_in _ _ hi, devPoison_in _ _ hi]
    obtain bad | z := lost
    · rw [bad]
      exact ⟨rfl, rfl⟩
    · rw [z.readable, z.marked, z.zero i hi]
      exact ⟨rfl, rfl⟩
  exact ⟨_, run, rfl, rfl, answers, first⟩

/-- An undetected error passes as data. -/
theorem memRead_undetected (stored : s.deviceLine b.val l = none) {bs : List Byte} (len : bs.length = 32)
    (readable : s.lineBad (b.val * stackLines + l) = false) (clean : s.linePoison (b.val * stackLines + l) = false) :
    ∃ t, exec (.memRead b l ⟨.undetected bs, .good⟩) s = .next t ∧
      t.lastRead = bs ++ (State.storedLine s (b.val * stackLines + l)).drop 32 ∧ t.lastPoison = false ∧
      t = { s with hbm := t.hbm, lastRead := t.lastRead, lastPoison := t.lastPoison } := by
  have whole : fit 32 bs = bs := by simp [fit, len]
  have decoded : s.decodeLine b.val l ⟨.undetected bs, .good⟩ = s.setBytes (64 * (b.val * stackLines + l)) bs := by
    rw [decodeLine_of_readable inj readable clean]
    exact congrArg (s.setBytes _) whole
  have run := exec_memRead inside up ⟨.undetected bs, .good⟩
  rw [decodeAt_of_plain plain, decoded] at run
  have bad := lineBad_setBytes s (64 * (b.val * stackLines + l)) bs (b.val * stackLines + l)
  have mark := linePoison_setBytes s (64 * (b.val * stackLines + l)) bs (b.val * stackLines + l)
  have low (i : Nat) (hi : i < 32) := hbmByte_setBytes_in s (64 * (b.val * stackLines + l)) bs (i := i) (by omega)
  have high (i : Nat) (hi : 32 ≤ i) := hbmByte_setBytes_out s (a := 64 * (b.val * stackLines + l)) (x := 64 * (b.val * stackLines + l) + i) bs
    (.inr (by omega))
  have frame : s.setBytes (64 * (b.val * stackLines + l)) bs = { s with hbm := (s.setBytes (64 * (b.val * stackLines + l)) bs).hbm } := by
    generalize 64 * (b.val * stackLines + l) = a
    rfl
  have only : Decoded s (s.setBytes (64 * (b.val * stackLines + l)) bs) := by
    rw [frame]
    exact ⟨rfl, rfl, rfl⟩
  generalize s.setBytes (64 * (b.val * stackLines + l)) bs = t at *
  have plain' : t.imageLine b.val l = none := (only.imageLine ..).trans plain
  rw [settleImage_of_plain plain', answerLine_of_plain (bad.trans readable) plain' ((only.deviceLine ..).2 stored)] at run
  refine ⟨_, run, ?_, mark.trans clean, by rw [frame]⟩
  refine List.ext_getElem (by simp [State.storedLine, len]) fun i hi _ => ?_
  have hi : i < 64 := by simpa using hi
  rw [List.getElem_map, List.getElem_range]
  by_cases first : i < 32
  · rw [low i first, List.getElem_append_left (by omega), List.getD_eq_getElem _ _ (by omega)]
  · rw [high i (by omega), List.getElem_append_right (by omega), List.getElem_drop]
    simp only [State.storedLine, List.getElem_map, List.getElem_range]
    congr 2
    omega

end

/-! ### Writes of a line (R288, R317) -/

theorem writeLine_of_readable {s : State} {d : Nat} {bs : List Byte} (h : s.lineBad d = false ∨ 64 ≤ bs.length) (off : Nat) (poison : Bool) :
    s.writeLine d off bs poison = State.storeLine s d (64 * d + off) bs false (poison || (decide (bs.length < 64) && s.linePoison d)) := by
  have fine : (s.lineBad d && !decide (64 ≤ bs.length)) = false := by
    obtain h | h := h <;> simp [h]
  have part : (!decide (64 ≤ bs.length)) = decide (bs.length < 64) := by rw [← decide_not, decide_eq_decide, Nat.not_le]
  unfold State.writeLine
  dsimp only
  rw [fine, Bool.or_false, part]
  rfl

theorem writeLine_of_bad {s : State} {d : Nat} {bs : List Byte} (bad : s.lineBad d = true) (part : bs.length < 64) (off : Nat) (poison : Bool) :
    s.writeLine d off bs poison = State.storeLine (s.setBytes (64 * d) (zeros 64)) d (64 * d + off) bs false true := by
  have partial_ : decide (64 ≤ bs.length) = false := decide_eq_false (by omega)
  unfold State.writeLine
  dsimp only
  rw [bad, partial_, Bool.not_false, Bool.and_true, Bool.or_true, Bool.and_true, Bool.or_true, if_pos rfl]
  generalize s.setBytes (64 * d) (zeros 64) = t
  rfl

/-- A part written into a line that is lost leaves zeros around the part, marked. -/
theorem writeLine_of_lost {s : State} {d : Nat} {bs : List Byte} (lost : s.lineBad d = true ∨ Zeroed d s) (part : bs.length < 64) (off : Nat)
    (poison : Bool) :
    (s.writeLine d off bs poison).linePoison d = true ∧ (s.writeLine d off bs poison).lineBad d = false ∧
    (∀ i, i < bs.length → (s.writeLine d off bs poison).hbmByte (64 * d + off + i) = bs.getD i 0#8) ∧
    ∀ i, i < 64 → i < off ∨ off + bs.length ≤ i → (s.writeLine d off bs poison).hbmByte (64 * d + i) = 0#8 := by
  obtain bad | z := lost
  · rw [writeLine_of_bad bad part]
    refine ⟨linePoison_storeLine_self .., lineBad_storeLine_self .., fun i hi => ?_, fun i hi out => ?_⟩
    · rw [hbmByte_storeLine, hbmByte_setBytes_in _ _ _ hi]
    · rw [hbmByte_storeLine, hbmByte_setBytes_out _ _ (by omega), hbmByte_setBytes_in _ _ _ (by rw [length_zeros64]; exact hi), getD_zeros]
  · rw [writeLine_of_readable (.inl z.readable), z.marked, decide_eq_true part, Bool.and_self, Bool.or_true]
    refine ⟨linePoison_storeLine_self .., lineBad_storeLine_self .., fun i hi => ?_, fun i hi out => ?_⟩
    · rw [hbmByte_storeLine, hbmByte_setBytes_in _ _ _ hi]
    · rw [hbmByte_storeLine, hbmByte_setBytes_out _ _ (by omega), z.zero i hi]

theorem hubWrite_of_plain {s : State} {b l : Nat} (plain : s.imageLine b l = none) (stored : s.deviceLine b l = none) (off : Nat)
    (bs : List Byte) (poison : Bool) : s.hubWrite b l off bs poison = s.writeLine (b * stackLines + l) off bs poison := by
  simp only [State.hubWrite, plain, stored, Option.isSome_none, Bool.false_eq_true, if_false]

section
variable {s : State} {b : Fin 12} {l : Nat} (inside : l < stackLines) (up : s.stackUp b.val = true) (inj : s.injection = none)
  (plain : s.imageLine b.val l = none) {off : Nat} {data : List Byte} (nonempty : 0 < data.length) (fits : off + data.length ≤ 64) (poison : Bool)
  {ecc : EccOut}
include inside up inj plain nonempty fits

/-- A write of a whole line, or of a part of a line that reads without an error. -/
theorem memWrite_stores (stored : s.deviceLine b.val l = none)
    (h : data.length = 64 ∨ (ecc = ⟨.good, .good⟩ ∧ s.lineBad (b.val * stackLines + l) = false)) :
    exec (.memWrite b l off data poison ecc) s = .next (State.storeLine s (b.val * stackLines + l) (64 * (b.val * stackLines + l) + off) data false
      (poison || (decide (data.length < 64) && s.linePoison (b.val * stackLines + l)))) := by
  have read : (if data.length < 64 then s.decodeAt b.val l ecc else s) = s := by
    obtain whole | ⟨good, readable⟩ := h
    · rw [if_neg (by omega)]
    · rw [good, decodeAt_of_plain plain, decodeLine_of_good inj readable, settleImage_of_plain plain, ite_self]
  rw [exec_memWrite inside up nonempty fits, read, hubWrite_of_plain plain stored, writeLine_of_readable]
  obtain whole | ⟨_, readable⟩ := h
  · exact .inr (by omega)
  · exact .inl readable

/-- A write of a part of an unreadable line. -/
theorem memWrite_lost (stored : s.deviceLine b.val l = none) (part : data.length < 64) (bad : s.lineBad (b.val * stackLines + l) = true) :
    ∃ t, exec (.memWrite b l off data poison ecc) s = .next t ∧ t.linePoison (b.val * stackLines + l) = true ∧
      t.lineBad (b.val * stackLines + l) = false ∧
      (∀ i, i < data.length → t.hbmByte (64 * (b.val * stackLines + l) + off + i) = data.getD i 0#8) ∧
      (∀ i, i < 64 → i < off ∨ off + data.length ≤ i → t.hbmByte (64 * (b.val * stackLines + l) + i) = 0#8) := by
  have only := decoded_lineUe s b.val l false
  have lost := lineUe_lost s b.val l false
  have run := exec_memWrite inside up nonempty fits poison ecc
  rw [if_pos part, decodeAt_of_plain plain, decodeLine_of_bad inj bad] at run
  generalize s.lineUe b.val l false = t at *
  have plain' : t.imageLine b.val l = none := (only.imageLine ..).trans plain
  rw [settleImage_of_plain plain', hubWrite_of_plain plain' ((only.deviceLine ..).2 stored)] at run
  exact ⟨_, run, writeLine_of_lost lost part off poison⟩

end

/-- A whole line of the device's own tables written from outside stays. -/
theorem memWrite_device {s : State} {b : Fin 12} {l : Nat} (inside : l < stackLines) (up : s.stackUp b.val = true)
    (plain : s.imageLine b.val l = none) {bs : List Byte} (kept : s.deviceLine b.val l = some bs) {data : List Byte} (whole : data.length = 64)
    (poison : Bool) (ecc : EccOut) : exec (.memWrite b l 0 data poison ecc) s = .next s := by
  rw [exec_memWrite inside up (by omega) (by omega), if_neg (by omega)]
  simp only [State.hubWrite, plain, kept, Option.isSome_some, if_true]

/-! ### Context images (R62, R63) -/

/-- The addresses of packed ranges begin where the ranges may. -/
theorem imageAddr_packed_ge {rs : List (Nat × Nat)} {f o a : Nat} (h : imageAddr (packed f rs) o = some a) : f ≤ a := by
  induction rs generalizing f o with
  | nil => cases h
  | cons r rs ih =>
    rw [packed] at h
    split at h
    · rw [imageAddr] at h
      split at h
      · have := Option.some.inj h
        omega
      · have := ih h
        omega
    · exact ih h

/-- The bytes of an image stand in the order of their addresses. -/
theorem imageAddr_packed_lt {rs : List (Nat × Nat)} {f o o' a a' : Nat} (lt : o < o') (h : imageAddr (packed f rs) o = some a)
    (h' : imageAddr (packed f rs) o' = some a') : a < a' := by
  induction rs generalizing f o o' with
  | nil => cases h
  | cons r rs ih =>
    rw [packed] at h h'
    split at h
    next some =>
      rw [if_pos some, imageAddr] at h'
      rw [imageAddr] at h
      split at h
      next low =>
        have := Option.some.inj h
        split at h'
        · have := Option.some.inj h'
          omega
        · have := imageAddr_packed_ge h'
          omega
      next high =>
        rw [if_neg (by omega)] at h'
        exact ih (by omega) h h'
    next =>
      rw [if_neg (by assumption)] at h'
      exact ih lt h h'

theorem imageAddr_inj (c : Core) {o o' a : Nat} (h : imageAddr c.imageRanges o = some a) (h' : imageAddr c.imageRanges o' = some a) : o = o' := by
  obtain lt | eq | gt := Nat.lt_trichotomy o o'
  · exact absurd (imageAddr_packed_lt lt h h') (Nat.lt_irrefl a)
  · exact eq
  · exact absurd (imageAddr_packed_lt gt h' h) (Nat.lt_irrefl a)

/-- A byte of an image line, where it has an address, is stored in the scratchpad. -/
def Core.imageByte (poison : Bool) (c : Core) (x : Option Nat × Byte) : Core :=
  match x.1 with
  | some a => c.spadWriteLine a [x.2] poison none
  | none => c

/-- The mark of a byte's line in the scratchpad is cleared. -/
def Core.imageClean (c : Core) (x : Option Nat) : Core :=
  match x with
  | some a => { c with spadPoison := SMap.set (fun _ => false) c.spadPoison (a / 64) false }
  | none => c

theorem setImageLine_eq (c : Core) (o : Nat) (bs : List Byte) (poison : Bool) : c.setImageLine o bs poison =
    ((((c.imageAddrs o).foldl Core.imageClean c).imageAddrs o).zip bs).foldl (Core.imageByte poison) ((c.imageAddrs o).foldl Core.imageClean c) := rfl

section
variable (c : Core) (poison : Bool)

theorem spadOnly_imageClean (x : Option Nat) : SpadOnly c (Core.imageClean c x) := by
  cases x <;> rfl

theorem spadOnly_imageByte (x : Option Nat × Byte) : SpadOnly c (Core.imageByte poison c x) := by
  obtain ⟨a, v⟩ := x
  cases a <;> rfl

theorem spadOnly_foldl {α : Type} {f : Core → α → Core} (step : ∀ c x, SpadOnly c (f c x)) (xs : List α) : SpadOnly c (xs.foldl f c) :=
  List.foldlRecOn (motive := SpadOnly c) xs f (spadOnly_refl c) fun d hd x _ => spadOnly_trans hd (step d x)

theorem imageRanges_of_spadOnly {c c' : Core} (h : SpadOnly c c') : c'.imageRanges = c.imageRanges := by
  unfold SpadOnly at h
  rw [h]
  rfl

theorem spadByte_imageByte_ne {x : Option Nat × Byte} {a : Nat} (h : x.1 ≠ some a) : (Core.imageByte poison c x).spadByte a = c.spadByte a := by
  obtain ⟨y, v⟩ := x
  cases y with
  | none => rfl
  | some b =>
    have ne : b ≠ a := fun e => h (congrArg some e)
    exact get_setList_out _ _ _ (by rw [List.length_singleton]; omega)

theorem spadByte_imageByte_self (a : Nat) (v : Byte) : (Core.imageByte poison c (some a, v)).spadByte a = v :=
  get_setList_in (fun _ => 0#8) [v] c.spad (k := a) (i := 0) 0#8 Nat.zero_lt_one

theorem spadByte_imageBytes_out {xs : List (Option Nat × Byte)} {a : Nat} (h : ∀ v, (some a, v) ∉ xs) :
    (xs.foldl (Core.imageByte poison) c).spadByte a = c.spadByte a :=
  List.foldlRecOn (motive := fun d : Core => d.spadByte a = c.spadByte a) xs _ rfl fun d hd x hx =>
    (spadByte_imageByte_ne d poison fun e => h x.2 (e ▸ hx)).trans hd

theorem spadByte_imageBytes_in {xs : List (Option Nat × Byte)} {a : Nat} {v : Byte} (mem : (some a, v) ∈ xs)
    (only : ∀ w, (some a, w) ∈ xs → w = v) : (xs.foldl (Core.imageByte poison) c).spadByte a = v := by
  induction xs generalizing c with
  | nil => cases mem
  | cons x xs ih =>
    rw [List.foldl_cons]
    by_cases later : (some a, v) ∈ xs
    · exact ih _ later fun w hw => only w (List.mem_cons_of_mem _ hw)
    · obtain rfl := (List.mem_cons.1 mem).resolve_right later
      rw [spadByte_imageBytes_out]
      · exact spadByte_imageByte_self c poison a v
      · intro w hw
        obtain rfl := only w (List.mem_cons_of_mem _ hw)
        exact later hw

/-- The mark of the line of a byte joins that of the byte's write. -/
theorem lineBad_imageByte (a : Nat) (v : Byte) (l : Nat) :
    (Core.imageByte poison c (some a, v)).lineBad l = if l = a / 64 then poison || c.lineBad l else c.lineBad l := by
  split
  next here =>
    subst here
    exact SMap.get_set_self ..
  next here => exact SMap.get_set_ne _ _ _ _ _ here

theorem lineBad_imageBytes_same {xs : List (Option Nat × Byte)} {l : Nat} (h : c.lineBad l = poison) :
    (xs.foldl (Core.imageByte poison) c).lineBad l = poison := by
  refine List.foldlRecOn (motive := fun d : Core => d.lineBad l = poison) xs _ h fun d hd x _ => ?_
  obtain ⟨y, v⟩ := x
  cases y with
  | none => exact hd
  | some a => rw [lineBad_imageByte, hd, Bool.or_self, ite_self]

theorem lineBad_imageBytes {xs : List (Option Nat × Byte)} {a : Nat} {v : Byte} (mem : (some a, v) ∈ xs) (clean : c.lineBad (a / 64) = false) :
    (xs.foldl (Core.imageByte poison) c).lineBad (a / 64) = poison := by
  induction xs generalizing c with
  | nil => cases mem
  | cons x xs ih =>
    rw [List.foldl_cons]
    obtain here | later := List.mem_cons.1 mem
    · subst here
      refine lineBad_imageBytes_same _ _ ?_
      rw [lineBad_imageByte, if_pos rfl, clean, Bool.or_false]
    · obtain ⟨y, w⟩ := x
      cases y with
      | none => exact ih c later clean
      | some b =>
        by_cases same : a / 64 = b / 64
        · refine lineBad_imageBytes_same _ _ ?_
          rw [lineBad_imageByte, if_pos same, clean, Bool.or_false]
        · refine ih _ later ?_
          rw [lineBad_imageByte, if_neg same, clean]

theorem lineBad_imageClean {x : Option Nat} {l : Nat} (h : c.lineBad l = false ∨ ∃ a, x = some a ∧ a / 64 = l) :
    (Core.imageClean c x).lineBad l = false := by
  cases x with
  | none => exact h.resolve_right fun ⟨a, e, _⟩ => nomatch e
  | some b =>
    by_cases same : l = b / 64
    · subst same
      exact SMap.get_set_self (fun _ => false) c.spadPoison (b / 64) false
    · have kept : (Core.imageClean c (some b)).lineBad l = c.lineBad l := SMap.get_set_ne (fun _ => false) c.spadPoison (b / 64) l false same
      refine kept.trans (h.resolve_right fun ⟨a, e, at_⟩ => same ?_)
      rw [← at_, Option.some.inj e]

theorem lineBad_cleaned {xs : List (Option Nat)} {a : Nat} (mem : some a ∈ xs) : (xs.foldl Core.imageClean c).lineBad (a / 64) = false := by
  induction xs generalizing c with
  | nil => cases mem
  | cons x xs ih =>
    rw [List.foldl_cons]
    obtain here | later := List.mem_cons.1 mem
    · subst here
      exact List.foldlRecOn (motive := fun d : Core => d.lineBad (a / 64) = false) xs _ (lineBad_imageClean c (.inr ⟨a, rfl, rfl⟩))
        fun d hd x _ => lineBad_imageClean d (.inl hd)
    · exact ih _ later

theorem spadByte_cleaned (xs : List (Option Nat)) (a : Nat) : (xs.foldl Core.imageClean c).spadByte a = c.spadByte a :=
  List.foldlRecOn (motive := fun d : Core => d.spadByte a = c.spadByte a) xs _ rfl fun d hd x _ => by
    cases x with
    | none => exact hd
    | some b => exact hd

end

section
variable (c : Core) (o : Nat) {bs : List Byte} (whole : bs.length = 64) (poison : Bool)

theorem mem_imageAddrs {i a : Nat} (hi : i < 64) (h : imageAddr c.imageRanges (o + i) = some a) : some a ∈ c.imageAddrs o :=
  List.mem_map.2 ⟨i, List.mem_range.2 hi, h⟩

include whole

/-- The bytes of an image line with their addresses. -/
theorem mem_zip_imageAddrs {a : Nat} {v : Byte} :
    (some a, v) ∈ (c.imageAddrs o).zip bs ↔ ∃ i, i < 64 ∧ imageAddr c.imageRanges (o + i) = some a ∧ v = bs.getD i 0#8 := by
  have len : (c.imageAddrs o).length = 64 := by rw [Core.imageAddrs, List.length_map, List.length_range]
  have at_ (i : Nat) (hi : i < 64) : (c.imageAddrs o)[i]'(by omega) = imageAddr c.imageRanges (o + i) := by simp [Core.imageAddrs]
  constructor
  · intro mem
    obtain ⟨i, hi, e⟩ := List.getElem_of_mem mem
    have hi : i < 64 := by simpa [len, whole] using hi
    rw [List.getElem_zip, Prod.mk.injEq, at_ i hi] at e
    exact ⟨i, hi, e.1, by rw [List.getD_eq_getElem _ _ (by omega), e.2]⟩
  · rintro ⟨i, hi, here, rfl⟩
    refine List.mem_iff_getElem.2 ⟨i, by rw [List.length_zip, len, whole]; exact hi, ?_⟩
    rw [List.getElem_zip, at_ i hi, here, List.getD_eq_getElem _ _ (by omega)]

/-- What a whole line written into an image leaves of the context's scratchpad. -/
theorem setImageLine_stores : SpadOnly c (c.setImageLine o bs poison) ∧
    (∀ i a, i < 64 → imageAddr c.imageRanges (o + i) = some a → (c.setImageLine o bs poison).spadByte a = bs.getD i 0#8) ∧
    (∀ a, (∀ i, i < 64 → imageAddr c.imageRanges (o + i) ≠ some a) → (c.setImageLine o bs poison).spadByte a = c.spadByte a) ∧
    (∀ i a, i < 64 → imageAddr c.imageRanges (o + i) = some a → (c.setImageLine o bs poison).lineBad (a / 64) = poison) := by
  have only := spadOnly_foldl c spadOnly_imageClean (c.imageAddrs o)
  have clean (a : Nat) := lineBad_cleaned c (xs := c.imageAddrs o) (a := a)
  have kept := spadByte_cleaned c (c.imageAddrs o)
  have ranges := imageRanges_of_spadOnly only
  rw [setImageLine_eq]
  generalize (c.imageAddrs o).foldl Core.imageClean c = d at *
  refine ⟨spadOnly_trans only (spadOnly_foldl d (fun c => spadOnly_imageByte c poison) _), fun i a hi here => ?_, fun a out => ?_, fun i a hi here => ?_⟩
  · refine spadByte_imageBytes_in d poison ((mem_zip_imageAddrs d o whole).2 ⟨i, hi, ranges ▸ here, rfl⟩) fun w hw => ?_
    obtain ⟨j, _, there, rfl⟩ := (mem_zip_imageAddrs d o whole).1 hw
    rw [ranges] at there
    rw [show j = i by have := imageAddr_inj c here there; omega]
  · rw [spadByte_imageBytes_out, kept]
    intro v hv
    obtain ⟨i, hi, there, _⟩ := (mem_zip_imageAddrs d o whole).1 hv
    rw [ranges] at there
    exact out i hi there
  · exact lineBad_imageBytes d poison ((mem_zip_imageAddrs d o whole).2 ⟨i, hi, ranges ▸ here, rfl⟩) (clean a (mem_imageAddrs c o hi here))

end

section
variable {s : State} {b l k o : Nat}

theorem imageLine_of_pens {s t : State} (h : t.pens = s.pens) (b l : Nat) : t.imageLine b l = s.imageLine b l := by
  have pen (p : Nat) : t.pen p = s.pen p := by rw [State.pen, State.pen, h]
  simp only [State.imageLine, State.slotContext, State.job, pen, penOfBay_of_pens h]

theorem answerLine_of_image (readable : s.lineBad (b * stackLines + l) = false) (image : s.imageLine b l = some (k, o))
    (data : (s.core k).inStateBlock o = false) : s.answerLine b l =
      (s, (((s.core k).imageAddrs o).zip (List.range 64)).map (fun p =>
        match p.1 with | some a => (s.core k).spadByte a | none => s.hbmByte (64 * (b * stackLines + l) + p.2)), (s.core k).imagePoison o) := by
  simp only [State.answerLine, readable, Bool.false_eq_true, if_false, image, data] <;> rfl

theorem answerLine_of_block (readable : s.lineBad (b * stackLines + l) = false) (image : s.imageLine b l = some (k, o))
    (block : (s.core k).inStateBlock o = true) : s.answerLine b l = ((State.drawWide 8 s).2, le 64 (State.drawWide 8 s).1, false) := by
  simp only [State.answerLine, readable, Bool.false_eq_true, if_false, image, block, if_true]

theorem drawWide_frame (n : Nat) (s : State) : (State.drawWide n s).2 = { s with fresh := s.fresh + n } := by
  induction n generalizing s with
  | zero => rfl
  | succ n ih =>
    rw [State.drawWide]
    dsimp only
    rw [ih, State.draw]
    simp only [Nat.add_assoc, Nat.add_comm 1 n]

/-- Reading a readable line of an image without an error leaves every context. -/
theorem decodeAt_of_image (inj : s.injection = none) (readable : s.lineBad (b * stackLines + l) = false) (image : s.imageLine b l = some (k, o)) :
    ∃ t, s.decodeAt b l ⟨.good, .good⟩ = t ∧ t = { s with cores := t.cores } ∧ (∀ q, t.core q = s.core q) ∧
      ((s.core k).inStateBlock o = true → t = s) := by
  rw [State.decodeAt, decodeLine_of_good inj readable]
  split
  · exact ⟨s, rfl, rfl, fun _ => rfl, fun _ => rfl⟩
  · rw [State.settleImage]
    dsimp only
    rw [image]
    dsimp only
    split
    next block => exact ⟨s, rfl, rfl, fun _ => rfl, fun _ => rfl⟩
    next data =>
      rw [readable, if_neg Bool.false_ne_true]
      refine ⟨_, rfl, rfl, fun q => ?_, fun block => absurd block data⟩
      by_cases here : q = k
      · subst here
        exact State.core_setCore_self ..
      · exact State.core_setCore_ne _ _ _ _ here

end

section
variable {s : State} {b : Fin 12} {l k o : Nat} (inside : l < stackLines) (up : s.stackUp b.val = true) (inj : s.injection = none)
  (image : s.imageLine b.val l = some (k, o)) (readable : s.lineBad (b.val * stackLines + l) = false)
include inside up image

theorem memWrite_image {data : List Byte} (whole : data.length = 64) (poison : Bool) (ecc : EccOut) :
    exec (.memWrite b l 0 data poison ecc) s = .next (s.onCore k (fun c => c.setImageLine o data poison)) := by
  rw [exec_memWrite inside up (by omega) (by omega), if_neg (by omega)]
  simp only [State.hubWrite, image, whole, le_refl, if_true]

include inj readable

/-- A line of the data of an image reads as the bytes of the context's scratchpad. -/
theorem memRead_image (data : (s.core k).inStateBlock o = false) : ∃ t, exec (.memRead b l ⟨.good, .good⟩) s = .next t ∧
    t = { s with cores := t.cores, lastRead := t.lastRead, lastPoison := t.lastPoison } ∧ (∀ q, t.core q = s.core q) ∧
    t.lastRead.length = 64 ∧ t.lastPoison = (s.core k).imagePoison o ∧
    ∀ i a, i < 64 → imageAddr (s.core k).imageRanges (o + i) = some a → t.lastRead.getD i 0#8 = (s.core k).spadByte a := by
  obtain ⟨t, decoded, frame, cores, _⟩ := decodeAt_of_image inj readable image
  have run := exec_memRead inside up ⟨.good, .good⟩
  rw [decoded] at run
  have readable' : t.lineBad (b.val * stackLines + l) = false := by
    rw [frame]
    exact readable
  have image' : t.imageLine b.val l = some (k, o) := (imageLine_of_pens (by rw [frame]) ..).trans image
  rw [answerLine_of_image readable' image' (by rw [cores]; exact data), cores] at run
  refine ⟨_, run, by rw [frame], cores, ?_, rfl, fun i a hi here => ?_⟩
  · simp [Core.imageAddrs]
  · rw [List.getD_eq_getElem _ _ (by simp [Core.imageAddrs]; exact hi)]
    simp [Core.imageAddrs, here]

/-- A line of the state block of an image reads as free bytes. -/
theorem memRead_block (block : (s.core k).inStateBlock o = true) : ∃ t, exec (.memRead b l ⟨.good, .good⟩) s = .next t ∧
    t = { s with cores := t.cores, fresh := s.fresh + 8, lastRead := t.lastRead, lastPoison := false } ∧
    (∀ q, t.core q = s.core q) ∧ t.lastRead.length = 64 := by
  obtain ⟨t, decoded, _, _, same⟩ := decodeAt_of_image inj readable image
  obtain rfl := same block
  have run := exec_memRead inside up ⟨.good, .good⟩
  rw [decoded, answerLine_of_block readable image block, drawWide_frame] at run
  exact ⟨_, run, rfl, fun _ => rfl, by simp [le]⟩

end

/-- A line that cannot be read answers zeros, poisoned. -/
theorem readLine_of_bad (s : State) (d : Nat) (bad : s.lineBad d = true) : s.readLine d = (zeros 64, true) ∧
    ∀ i, i < 64 → s.devByte (64 * d + i) = 0#8 ∧ s.devPoison (64 * d + i) = true := by
  refine ⟨by rw [State.readLine, if_pos bad], fun i hi => ?_⟩
  rw [devByte_in _ _ hi, devPoison_in _ _ hi, bad]
  exact ⟨rfl, rfl⟩

/-- A line that does not exist faults (R301). -/
theorem missing_line_faults (s : State) (b : Fin 12) {l : Nat} (beyond : stackLines ≤ l) (off : Nat) (data : List Byte) (p : Bool) (ecc : EccOut) :
    exec (.memRead b l ecc) s = .fault .noSuchLine ∧ exec (.memWrite b l off data p ecc) s = .fault .noSuchLine := by
  simp only [exec, execMemRead, execMemWrite, beyond, if_true, and_self]

/-- What a write of a part of a line or of a whole one leaves of device memory. -/
theorem storeLine_stores (s : State) (d off : Nat) (data : List Byte) (marked : Bool) (t : State)
    (h : t = State.storeLine s d (64 * d + off) data false marked) : t = { s with hbm := t.hbm, poison := t.poison, badLines := t.badLines } ∧
    (∀ i, i < data.length → t.hbmByte (64 * d + off + i) = data.getD i 0#8) ∧
    (∀ x, (x < 64 * d + off ∨ 64 * d + off + data.length ≤ x) → t.hbmByte x = s.hbmByte x) ∧
    t.linePoison d = marked ∧ t.lineBad d = false ∧ ∀ e, e ≠ d → t.linePoison e = s.linePoison e ∧ t.lineBad e = s.lineBad e := by
  have frame := (linesOnly_storeLine s d (64 * d + off) data false marked).frame
  have inside (i : Nat) (hi : i < data.length) := hbmByte_setBytes_in s (64 * d + off) data hi
  have outside (x : Nat) (hx : x < 64 * d + off ∨ 64 * d + off + data.length ≤ x) := hbmByte_setBytes_out s data hx
  have poison := linePoison_storeLine_self s d (64 * d + off) data false marked
  have bad := lineBad_storeLine_self s d (64 * d + off) data false marked
  have byte := hbmByte_storeLine s d (64 * d + off) data false marked
  have others (e : Nat) (he : e ≠ d) := And.intro (linePoison_storeLine_ne s d (64 * d + off) data false marked he)
    (lineBad_storeLine_ne s d (64 * d + off) data false marked he)
  rw [← h] at frame poison bad byte others
  exact ⟨frame, fun i hi => (byte _).trans (inside i hi), fun x hx => (byte x).trans (outside x hx), poison, bad, others⟩

/-- Settles O33. -/
theorem deviceMemoryLines : Obligations.DeviceMemoryLines := by
  unfold Obligations.DeviceMemoryLines
  refine ⟨fun s b l off data poison ecc inside up inj plain => ⟨fun stored => ⟨?_, ?_, ?_, ?_, ?_, ?_⟩, fun bs kept readable => ⟨?_, ?_⟩⟩,
    fun s b l off data p ecc beyond => missing_line_faults s b beyond off data p ecc, fun s b l bad => readLine_of_bad s _ bad,
    fun s b l data poison ecc k o inside up inj image readable => ⟨?_, ?_, ?_⟩⟩
  · exact memRead_good inside up inj plain stored
  · intro readable clean corrects lo hi
    exact memRead_corrected inside up inj plain stored readable clean corrects lo hi
  · intro readable clean fails
    exact memRead_lost inside up inj plain stored readable clean fails
  · intro bs readable clean len
    exact memRead_undetected inside up inj plain stored len readable clean
  · intro nonempty fits h
    exact ⟨_, memWrite_stores inside up inj plain nonempty fits poison stored h, storeLine_stores _ _ _ _ _ _ rfl⟩
  · intro nonempty part fits bad
    exact memWrite_lost inside up inj plain nonempty fits poison stored part bad
  · exact memRead_device inside up inj plain kept readable
  · exact fun whole => memWrite_device inside up plain kept whole poison ecc
  · exact memRead_image inside up inj image readable
  · exact memRead_block inside up inj image readable
  · intro whole
    obtain ⟨only, inside', outside', marks⟩ := setImageLine_stores (s.core k) o whole poison
    have self : (s.onCore k (fun c => c.setImageLine o data poison)).core k = (s.core k).setImageLine o data poison := State.core_setCore_self ..
    refine ⟨_, memWrite_image inside up image whole poison ecc, rfl, fun q hq => State.core_setCore_ne _ _ _ _ hq, ?_⟩
    rw [self]
    exact ⟨only, inside', outside', marks⟩

end Sys2Proof.Proofs
end

section
namespace Sys2Proof.Proofs

open Sys2Proof Sys2Proof.Machine Sys2Proof.Claims

/-! ### Votes and resync rounds (R422, R446, R449, R519) -/

theorem votesOn_iff (a : Attempt) (v : Vote) : votesOn a v = true ↔ a.step = v.step ∧ a.attempt = v.attempt := by
  rw [votesOn, Bool.and_eq_true, decide_eq_true_eq, decide_eq_true_eq]

section
variable {s : State} {pen : Pen} {j : Job} (hj : s.job pen = some j) {r : Nat} {v : Vote} {a : Attempt}
include hj

section
variable (kid : r ∈ treeKids j.rank (j.ranksM1 + 1))
include kid

theorem exec_voteReceive_voting (voting : j.voting = some a) (names : votesOn a v = true) :
    exec (.voteReceive pen (.child r) (.vote v)) s = .next ((s.onJob pen (fun j => { j with voting := some (a.addKid r v) })).voteMove pen) := by
  rw [onJob_congr (f := fun j => { j with voting := some (a.addKid r v) }) (g := fun j => { j with voting := j.voting.map fun a => a.addKid r v }) hj
    (by rw [voting]; rfl)]
  simp only [exec, execVoteReceive, State.voteIn, State.voteUp, hj, List.contains_iff_mem.2 kid, Bool.not_true, Bool.false_eq_true, if_false,
    voting, names, if_true]

theorem exec_voteReceive_cur (other : ∀ a, j.voting = some a → votesOn a v = false) (cur : j.cur = some a) (names : votesOn a v = true) :
    exec (.voteReceive pen (.child r) (.vote v)) s = .next ((s.onJob pen (fun j => { j with cur := some (a.addKid r v) })).voteMove pen) := by
  rw [onJob_congr (f := fun j => { j with cur := some (a.addKid r v) }) (g := fun j => { j with cur := j.cur.map fun a => a.addKid r v }) hj
    (by rw [cur]; rfl)]
  simp only [exec, execVoteReceive, State.voteIn, State.voteUp, hj, List.contains_iff_mem.2 kid, Bool.not_true, Bool.false_eq_true, if_false]
  cases voting : j.voting with
  | none => simp only [Bool.false_eq_true, if_false, cur, names, if_true]
  | some b => simp only [other b voting, Bool.false_eq_true, if_false, cur, names, if_true]

theorem exec_voteReceive_later (other : ∀ a, j.voting = some a → votesOn a v = false) (other' : ∀ a, j.cur = some a → votesOn a v = false) :
    exec (.voteReceive pen (.child r) (.vote v)) s = .next (
      if v.step = j.nextStep ∧ v.attempt = SMap.get (fun _ => 0) j.attempts j.nextStep then
        s.onJob pen (fun j => { j with earlyKids := (j.earlyKids.filter (fun q => decide (q.1 ≠ r))) ++ [(r, v)] })
      else s) := by
  simp only [exec, execVoteReceive, State.voteIn, State.voteUp, hj, List.contains_iff_mem.2 kid, Bool.not_true, Bool.false_eq_true, if_false]
  cases voting : j.voting with
  | none =>
    cases cur : j.cur with
    | none => simp only [Bool.false_eq_true, if_false]
    | some b => simp only [other' b cur, Bool.false_eq_true, if_false]
  | some a =>
    cases cur : j.cur with
    | none => simp only [other a voting, Bool.false_eq_true, if_false]
    | some b => simp only [other a voting, other' b cur, Bool.false_eq_true, if_false]

theorem exec_voteReceive_resyncUp (x y : Nat) (new : r ∉ j.resyncKids) : exec (.voteReceive pen (.child r) (.resync x y)) s =
    .next ((s.onJob pen (fun j => { j with resyncKids := j.resyncKids ++ [r] })).resyncMove pen) := by
  have fresh : j.resyncKids.contains r = false := Bool.eq_false_iff.2 fun h => new (List.contains_iff_mem.1 h)
  simp only [exec, execVoteReceive, State.voteIn, State.resyncUp, hj, List.contains_iff_mem.2 kid, fresh, Bool.not_false, and_self, if_true]

end

theorem exec_voteReceive_parent (voting : votingAttempt j = some a) : exec (.voteReceive pen .parent (.vote v)) s = .next (
    if votesOn a v = true ∧ a.sentUp = true then ((s.forwardOutcome pen j (voteLine v)).applyOutcome pen v).voteMove pen else s) := by
  simp only [exec, execVoteReceive, State.voteIn, State.voteDown, hj, voting]

theorem exec_voteReceive_resyncDown (x y : Nat) (sent : j.resyncSent = true) (out : j.resyncOut = false) :
    exec (.voteReceive pen .parent (.resync x y)) s =
      .next ((s.forwardOutcome pen j (resyncLine j.nextStep (SMap.get (fun _ => 0) j.attempts j.nextStep))).onJob pen
        (fun j => { j with resyncOut := true })) := by
  simp only [exec, execVoteReceive, State.voteIn, State.resyncDown, hj, sent, out, Bool.not_false, and_self, if_true]
  rfl

theorem exec_sendDrainComplete (draining : j.draining = true) (acked : ∀ kv ∈ j.tx, kv.2.open_ = []) :
    exec (.sendDrainComplete pen) s = .next ((s.onJob pen (fun j => { j with draining := false })).joinResync pen) := by
  have drained' : drained j = true := List.all_eq_true.2 fun kv h => by rw [acked kv h]; rfl
  simp only [exec, execSendDrainComplete, hj, draining, drained', Bool.and_self, whenOk, if_true]

theorem exec_resyncDone (out : j.resyncOut = true) : exec (.resyncDone pen) s =
    .next (((s.onGroups pen (fun x => { x with chunks := [], order := [], total := 0 })).onJob pen (fun j =>
      { j with resync := false, resyncSelf := false, resyncSent := false, resyncOut := false, resyncKids := [], rxXfers := [],
               rxHeld := [], holdRound := false, statusNext := 0#64 })).setFld .updJob 7 1 0 (pen - 1)) := by
  simp only [exec, execResyncDone, hj, out, whenOk, if_true]

theorem exec_voteTimeout (voting : votingAttempt j = some a) (limit : s.fld .errPolicy 8 8 ≠ 0) : exec (.voteTimeout pen) s =
    .next (s.jobEnd pen 496 [ef (((treeKids j.rank (j.ranksM1 + 1)).find? (fun k => !a.kids.any (fun q => decide (q.1 = k)))).getD
      (treeParent j.rank))] (some a) (a.status ||| 8#64 ||| 64#64)) := by
  simp only [exec, execVoteTimeout, hj, voting, limit, ne_eq, not_false_eq_true, decide_true, whenOk, if_true]
  rfl

end

/-- Settles O30. -/
theorem votesAndResyncs : Obligations.VotesAndResyncs := by
  unfold Obligations.VotesAndResyncs
  intro s pen j hj
  dsimp only
  have off {a : Attempt} {v : Vote} (h : ¬ (a.step = v.step ∧ a.attempt = v.attempt)) : votesOn a v = false :=
    Bool.eq_false_iff.2 fun e => h ((votesOn_iff a v).1 e)
  refine ⟨fun r v kid => ⟨fun a voting names => ?_, fun other => ⟨fun a cur names => ?_, fun other' => ⟨fun next => ?_, fun next => ?_⟩⟩,
    fun x y new => ?_⟩, fun a v voting => ⟨fun names sent => ?_, fun not => ?_⟩, fun x y sent out => ?_, fun draining acked => ?_, fun out => ?_,
    fun a voting limit => ?_⟩
  · exact exec_voteReceive_voting hj kid voting ((votesOn_iff a v).2 names)
  · exact exec_voteReceive_cur hj kid (fun b hb => off (other b hb)) cur ((votesOn_iff a v).2 names)
  · rw [exec_voteReceive_later hj kid (fun b hb => off (other b hb)) (fun b hb => off (other' b hb)), if_pos next]
  · rw [exec_voteReceive_later hj kid (fun b hb => off (other b hb)) (fun b hb => off (other' b hb)), if_neg next]
  · exact exec_voteReceive_resyncUp hj kid x y new
  · rw [exec_voteReceive_parent hj voting, if_pos ⟨(votesOn_iff a v).2 names, sent⟩]
  · rw [exec_voteReceive_parent hj voting, if_neg]
    rintro ⟨names, sent⟩
    exact not.elim (fun h => h ((votesOn_iff a v).1 names)) fun h => absurd (h.symm.trans sent) Bool.false_ne_true
  · exact exec_voteReceive_resyncDown hj x y sent out
  · exact exec_sendDrainComplete hj draining acked
  · exact exec_resyncDone hj out
  · exact exec_voteTimeout hj voting limit

/-! ### T0 (R422, R434) -/

/-- The next attempt as T0 enters it in the job (R422). -/
def State.enterAttempt (s : State) (pen : Nat) (j : Job) : State :=
  let n := SMap.get (fun _ => 0) j.attempts j.nextStep
  let a : Attempt := {
    step := j.nextStep, attempt := n, status := j.statusNext, halfSeen := decide (s.fld .devMode 3 1 = 1)
    kids := j.earlyKids.filter (fun q => decide (q.2.step = j.nextStep) && decide (q.2.attempt = n)) }
  s.setJob pen (some { j with
    cur := some a, statusNext := 0#64, voting := j.cur <|> j.voting, attempts := SMap.set (fun _ => 0) j.attempts j.nextStep (n + 1)
    nextStep := j.nextStep + 1, cause := 0, causeFields := [], turn := none, stopped := none, lateHeld := 0, replayRun := false
    suppressed := 0, sentReplay := 0, xfers := [], sigSums := [], stalledPosted := false, earlyKids := []
    groupRx := (j.groupRx.map (fun kv => (kv.1, kv.2.begin))).filter (fun kv => decide (kv.2 ≠ {})) })

theorem beginAttempt_eq (s : State) (pen : Nat) (j : Job) : s.beginAttempt pen j =
    (((((State.enterAttempt s pen j).setFld .updJob 0 2 2 (pen - 1)).setFld .corePenProg 0 2 2 (pen - 1)).bump .corePenProg 32 32
      (pen - 1)).jobRegs pen).seedRegs pen j.nextStep := rfl

theorem regsOnly_jobRegs (s : State) (pen : Nat) : RegsOnly s (s.jobRegs pen) := by
  unfold State.jobRegs
  split
  · exact .refl s
  · extract_lets +onlyGivenNames s1 s2 s3 s4
    have h1 : RegsOnly s s1 := RegsOnly.ite (.setFld ..) (.refl s)
    have h4 : RegsOnly s s4 := ((h1.trans (.setFld ..)).trans (.setFld ..)).trans (.setFld ..)
    split
    · exact h4.trans (.setFld ..)
    · exact h4

theorem regsOnly_seedRegs (s : State) (pen step : Nat) : RegsOnly s (s.seedRegs pen step) := by
  unfold State.seedRegs
  split
  · exact (RegsOnly.setReg ..).trans (.setReg ..)
  · dsimp only
    split
    · exact (RegsOnly.setReg ..).trans (.setReg ..)
    · exact (RegsOnly.setReg ..).trans (.setReg ..)

theorem job_of_regsOnly {s t : State} (h : RegsOnly s t) (p : Nat) : t.job p = s.job p := by
  unfold RegsOnly at h
  rw [h]
  rfl

theorem job_enterAttempt (s : State) (pen : Nat) (j : Job) : ∃ j' a, (State.enterAttempt s pen j).job pen = some j' ∧ j'.cur = some a ∧
    a.step = j.nextStep ∧ a.attempt = SMap.get (fun _ => 0) j.attempts j.nextStep ∧ a.phase = .start ∧ a.status = j.statusNext ∧
    j'.nextStep = j.nextStep + 1 ∧ SMap.get (fun _ => 0) j'.attempts j.nextStep = a.attempt + 1 ∧ j'.turn = none ∧ j'.stopped = none := by
  rw [State.job, State.enterAttempt, State.setJob, State.onPen, State.pen_setPen_self]
  refine ⟨_, _, rfl, rfl, rfl, rfl, rfl, rfl, rfl, ?_, rfl, rfl⟩
  dsimp only
  rw [SMap.get_set_self]

theorem job_beginAttempt (s : State) (pen : Nat) (j : Job) : (s.beginAttempt pen j).job pen = (State.enterAttempt s pen j).job pen := by
  rw [beginAttempt_eq]
  generalize State.enterAttempt s pen j = t
  exact job_of_regsOnly ((((RegsOnly.setFld ..).trans (.setFld ..)).trans (.setFld ..)).trans
    ((regsOnly_jobRegs ..).trans (regsOnly_seedRegs ..))) pen

/-- The state in which T0 counts its attempt: the emergency's end taken, an injection on temperature fired, the figures kept. -/
def State.beforeT0 (s : State) (pen : Nat) (j : Job) : State :=
  let s0 := (if s.emergencyOver then s.emergencyEnd else s).injectThermal
  if j.cur.isSome then s0.keepFigures pen else s0

section
variable {s : State} {pen : Pen} {j : Job} (hj : s.job pen = some j) (ready : s.t0Ready pen j = true)
include hj ready

theorem exec_stepT0_unseeded (seed : seedAt j j.nextStep = none) : exec (.stepT0 pen) s =
    .next ((((State.beforeT0 s pen j).beginAttempt pen j).postPen pen 324 j.nextStep [ef j.nextStep]).terminal pen 324 [ef j.nextStep]) := by
  simp only [exec, execStepT0, hj, ready, Bool.not_true, Bool.false_eq_true, if_false, seed, Option.isNone_none, if_true]
  rfl

theorem exec_stepT0_seeded (seed : seedAt j j.nextStep ≠ none) :
    let s1 := State.beforeT0 s pen j
    let bank := (s1.fld .updJob 2 1 (pen - 1) + (if j.cur.isSome then 1 else 0)) % 2
    let s3 := ((s1.beginAttempt pen j).actBoundary pen).mappingChanges pen
    let dig := rangeDigestAt 0 ((List.range 168).flatMap (fun n => le 8 (s3.reg .coreSiteState n).toNat))
    let s4 := s3.onJob pen (fun j => { j with cur := j.cur.map (fun a => { a with siteMap := dig }) })
    exec (.stepT0 pen) s = .next (((((s4.clearCores pen).beginPorts pen).beginLedger pen j.nextStep).vaStore pen j.plan.headerVa
      (stepHeader j.plan j.nextStep bank)).tryCloseAll pen) := by
  have drawn : (seedAt j j.nextStep).isNone = false := Option.isNone_eq_false_iff.2 (Option.isSome_iff_ne_none.2 seed)
  simp only [exec, execStepT0, hj, ready, Bool.not_true, Bool.false_eq_true, if_false, drawn]
  rfl

end

/-- What T0 waits for (R422). -/
theorem t0Ready_conditions {s : State} {pen : Nat} {j : Job} (ready : s.t0Ready pen j = true) :
    (∀ a, j.cur = some a → a.wordSent = true ∧ j.voting = none) ∧ j.boundaryDue = false ∧ j.draining = false ∧ j.resync = false ∧
    j.adopting = [] ∧ s.diesStopped = false ∧ ∃ r, (s.pen pen).released = some r ∧ j.nextStep ≤ r := by
  simp only [State.t0Ready, Bool.and_eq_true, Bool.not_eq_true', List.isEmpty_iff] at ready
  obtain ⟨⟨⟨⟨⟨⟨⟨⟨⟨⟨⟨⟨⟨cur, _⟩, boundary⟩, draining⟩, resync⟩, _⟩, _⟩, adopting⟩, _⟩, _⟩, running⟩, _⟩, _⟩, released⟩ := ready
  refine ⟨fun a ha => ?_, boundary, draining, resync, adopting, running, ?_⟩
  · rw [ha] at cur
    obtain ⟨sent, idle⟩ := Bool.and_eq_true_iff.1 cur
    exact ⟨sent, Option.isNone_iff_eq_none.1 idle⟩
  · cases limit : (s.pen pen).released with
    | none =>
      rw [limit] at released
      cases released
    | some r =>
      rw [limit] at released
      exact ⟨r, rfl, of_decide_eq_true released⟩

/-- Settles O26. -/
theorem stepBeginsAtT0 : Obligations.StepBeginsAtT0 := by
  unfold Obligations.StepBeginsAtT0
  refine ⟨fun s pen j hj ready => ⟨?_, ?_⟩, fun s pen j _ => ?_, fun s pen j ready => t0Ready_conditions ready⟩
  · exact exec_stepT0_unseeded hj ready
  · exact exec_stepT0_seeded hj ready
  · rw [job_beginAttempt]
    exact job_enterAttempt s pen j

/-! ### The sweep (R430, R434) -/

section
variable {s : State} {pen : Pen} {j : Job} {a : Attempt} (hj : s.job pen = some j) (cur : j.cur = some a)
include hj cur

theorem exec_sweepStart (peers : List ClipPeer) (idle : j.voting = none) (waits : a.phase = .sweepWait) (first : j.replayRun = false)
    (unsent : a.wordSent = false) (runs : s.unitsRun pen = true) (ready : clipReady j peers = true) :
    let cap := s.fld .updJob 2 1 (pen - 1)
    let s0 := (s.baysOf pen).foldl (fun s b => s.setUnit b { (s.unit b) with elements := 0, nonfinite := 0 }) s
    let r := State.sweepRecords pen a.step cap peers (j.plan.recs.zip (List.range j.plan.recs.length)) s0 {}
    let s1 := r.1.onJob pen (fun j => { j with
      sweepRows := r.2.rows
      cur := j.cur.map (fun a => { a with phase := .sweep, nonfinite := r.2.nonfinite, digests := rowDigests r.2.rows ++ [0#64] }) })
    let s2 := if r.2.poison then s1.orStatus pen 16#64 else s1
    let s3 := if r.2.overflow then s2.orStatus pen 2#64 else s2
    let s4 := if 0 < r.2.nonfinite then s3.orStatus pen 1#64 else s3
    exec (.sweepStart pen peers) s = .next (match r.2.failed with
      | some ix => (s4.postPen pen 325 a.step [ef ix]).terminal pen 325 [ef ix]
      | none => s4.snapSweep pen a.step cap) := by
  simp only [exec, execSweepStart, hj, cur, idle, waits, first, unsent, runs, ready, Bool.not_false, and_self, if_true]
  generalize State.sweepRecords pen a.step (s.fld .updJob 2 1 (pen - 1)) peers _ _ _ = r
  cases r.2.failed <;> rfl

theorem exec_sweepComplete (sweeps : a.phase = .sweep) (unsent : a.wordSent = false) (runs : s.unitsRun pen = true) :
    let a1 : Attempt := { a with digests := a.digests.take 3 ++ [ledgerDigest j.rank a] }
    let s2 := ((s.onJob pen (fun j => { j with cur := some a1 })).sweepTimers pen).writeTable pen a.step j.sweepRows
    exec (.sweepComplete pen) s = .next (((s2.writeRecord pen ((s2.jobD pen).cur.getD a1)).onJob pen (fun j =>
      { j with cur := j.cur.map (fun a => { a with recorded := true }) })).sendWord pen) := by
  simp only [exec, execSweepComplete, hj, cur, sweeps, unsent, runs, Bool.not_false, and_self, if_true]

end

/-- Settles O29. -/
theorem sweepRunsTheUpdatePlan : Obligations.SweepRunsTheUpdatePlan := by
  unfold Obligations.SweepRunsTheUpdatePlan
  intro s pen j a peers hj cur
  exact ⟨fun idle waits first unsent runs ready => exec_sweepStart hj cur peers idle waits first unsent runs ready,
    fun sweeps unsent runs => exec_sweepComplete hj cur sweeps unsent runs⟩

end Sys2Proof.Proofs
end

section
namespace Sys2Proof.Proofs

open Sys2Proof Sys2Proof.Machine Sys2Proof.Claims

/-! ### Connections of the responder (R600) -/

section
variable (s : State) (ep : SpdmEp)

theorem conn_onConn (f : SpdmConn → SpdmConn) (e : SpdmEp) : (s.onConn ep f).conn e = if epKey e = epKey ep then f (s.conn ep) else s.conn e := by
  rw [State.conn, State.onConn]
  split
  next same =>
    rw [same]
    exact SMap.get_set_self ..
  next other => exact SMap.get_set_ne _ _ _ _ _ other

theorem conn_of_spdm {s t : State} (h : t.spdm = s.spdm) (e : SpdmEp) : t.conn e = s.conn e := by rw [State.conn, h, State.conn]

/-- What a response leaves: the connection's answer and, over the SMBus, the message that waits for the host. -/
theorem respond_leaves (code : Nat) (bs : List Byte) :
    s.respond ep code bs = { s with
      spdm := (s.respond ep code bs).spdm, smbusMsg := (s.respond ep code bs).smbusMsg, regs := (s.respond ep code bs).regs } ∧
    (∀ e, (s.respond ep code bs).conn e = if epKey e = epKey ep then { s.conn ep with respCode := code, resp := bs } else s.conn e) ∧
    (ep = .smbus → (s.respond ep code bs).smbusMsg = true) ∧
    (ep ≠ .smbus → (s.respond ep code bs).regs = s.regs ∧ (s.respond ep code bs).smbusMsg = s.smbusMsg) := by
  have answered (e : SpdmEp) := conn_onConn s ep (fun c => { c with respCode := code, resp := bs }) e
  cases ep with
  | pcie fn => exact ⟨rfl, answered, SpdmEp.noConfusion, fun _ => ⟨rfl, rfl⟩⟩
  | smbus => exact ⟨rfl, answered, fun _ => rfl, fun h => absurd rfl h⟩

theorem pen_setFld (n : RegName) (lo w v ix fn p : Nat) : (s.setFld n lo w v ix fn).pen p = s.pen p := rfl

theorem conn_closeSession : (s.closeSession ep).conn ep = { s.conn ep with
    session := 0, sessionStage := 0, secret := [], mutualAuth := false, reqKeyGen := 0, rspKeyGen := 0 } := by
  have closed := conn_onConn s ep (fun c => { c with
    session := 0, sessionStage := 0, secret := [], mutualAuth := false, reqKeyGen := 0, rspKeyGen := 0 }) ep
  rw [if_pos rfl] at closed
  unfold State.closeSession
  dsimp only
  split
  · exact (conn_of_spdm rfl ep).trans closed
  · exact closed

theorem closeSession_host (pen : epPen ep ≠ 0) :
    ((s.closeSession ep).pen (epPen ep)).session = none ∧ (s.closeSession ep).fld .penState 4 1 (epPen ep - 1) = 0 := by
  unfold State.closeSession
  dsimp only
  rw [if_pos pen]
  refine ⟨?_, fld_setFld_of_lt _ _ _ _ (by decide) (by decide)⟩
  rw [pen_setFld, pen_onPen_self]

variable {s} in
theorem openHost_opens {p : Nat} (low : 1 ≤ p) (present : (s.pen p).present = true) (confidential : (s.pen p).confidential = true)
    (lives : (s.pen p).teardownCause = none) (secret : List Byte) :
    ((s.openHost p secret).pen p).session = some (hostKeys secret) ∧ (s.openHost p secret).fld .penState 4 1 (p - 1) = 1 := by
  rw [State.openHost, if_pos ⟨by omega, present, confidential, Option.isNone_iff_eq_none.2 lives⟩]
  refine ⟨?_, fld_setFld_of_lt _ _ _ _ (by decide) (by decide)⟩
  rw [pen_setFld, pen_onPen_self]

end

/-! ### A request in its place -/

section
variable {s : State} {ep : SpdmEp} {stage : Nat} (f : State → State)

theorem spdm_of_reaches (h : Reaches s ep stage) : s.spdm_ ep stage f = .next (f s) := by
  obtain ⟨up, reached⟩ := h
  rw [State.spdm_, up, if_neg (by decide), if_neg (Nat.not_lt.2 reached)]

theorem spdm_of_down (down : s.epUp ep = false) : s.spdm_ ep stage f = .next s := by
  rw [State.spdm_, down]
  rfl

theorem spdm_of_early (up : s.epUp ep = true) (early : (s.conn ep).stage < stage) :
    s.spdm_ ep stage f = .next (s.respond ep spError (le 1 seUnexpected)) := by
  rw [State.spdm_, up, if_neg (by decide), if_pos early]
  rfl

end

section
variable {s : State} {ep : SpdmEp}

/-- Every request that needs the algorithms is unexpected before they are negotiated (R600). -/
theorem exec_request_of_early (up : s.epUp ep = true) (early : (s.conn ep).stage < 3) (x : Instr)
    (h : x = .getDigests ep ∨ (∃ a b d, x = .getCertificate ep a b d) ∨ (∃ a b, x = .challenge ep a b) ∨ (∃ a, x = .getMeasurements ep a) ∨
      (∃ a b d, x = .keyExchange ep a b d) ∨ (∃ a, x = .finish ep a) ∨ (∃ a, x = .keyUpdate ep a) ∨ x = .heartbeat ep ∨ x = .endSession ep) :
    exec x s = .next (s.respond ep spError (le 1 seUnexpected)) := by
  obtain rfl | ⟨a, b, d, rfl⟩ | ⟨a, b, rfl⟩ | ⟨a, rfl⟩ | ⟨a, b, d, rfl⟩ | ⟨a, rfl⟩ | ⟨a, rfl⟩ | rfl | rfl := h
  all_goals
    simp only [exec, execGetDigests, execGetCertificate, execChallenge, execGetMeasurements, execKeyExchange, execFinish, execKeyUpdate, execHeartbeat,
      execEndSession, State.inSession]
    exact spdm_of_early _ up early

theorem exec_getCapabilities (minor : Nat) (h : Reaches s ep 1) : exec (.getCapabilities ep minor) s = .next (
    if minor = 2 ∨ minor = 3 then
      (s.onConn ep (fun c => { c with stage := max 2 c.stage, minor := minor })).respond ep spCapabilities (le 4 spdmCaps)
    else s.respond ep spError (le 1 seVersion)) := by
  simp only [exec, execGetCapabilities]
  exact spdm_of_reaches _ h

theorem exec_negotiateAlgorithms (a : SpdmAlgs) (h : Reaches s ep 2) : exec (.negotiateAlgorithms ep a) s = .next (
    if a = { ecdsaP384 := true, sha384 := true, secp384r1 := true, aes256gcm := true } then
      (s.onConn ep (fun c => { c with stage := 3 })).respond ep spAlgorithms (le 4 0x80 ++ le 4 0x2 ++ le 2 0x10 ++ le 2 0x2)
    else s.respond ep spError (le 1 seInvalidRequest)) := by
  have own : (a.ecdsaP384 && a.sha384 && a.secp384r1 && a.aes256gcm) = true ↔
      a = { ecdsaP384 := true, sha384 := true, secp384r1 := true, aes256gcm := true } := by
    obtain ⟨e, h, c, g⟩ := a
    simp only [Bool.and_eq_true, SpdmAlgs.mk.injEq, and_assoc]
  simp only [← own]
  simp only [exec, execNegotiateAlgorithms]
  exact spdm_of_reaches _ h

theorem exec_getCertificate (slot off len : Nat) (h : Reaches s ep 3) : exec (.getCertificate ep slot off len) s = .next (
    if 1 < slot ∨ (Config.certChain slot).length ≤ off then s.respond ep spError (le 1 seInvalidRequest)
    else s.respond ep spCertificate (le 1 slot ++ le 2 (((Config.certChain slot).drop off).take len).length ++
      le 2 ((Config.certChain slot).length - off - (((Config.certChain slot).drop off).take len).length) ++
      ((Config.certChain slot).drop off).take len)) := by
  simp only [exec, execGetCertificate]
  exact spdm_of_reaches _ h

theorem exec_challenge (slot : Nat) (nonce : List Byte) (h : Reaches s ep 3) : exec (.challenge ep slot nonce) s = .next (
    if 1 < slot then s.respond ep spError (le 1 seInvalidRequest)
    else if !s.drbgReady then s.respond ep spError (le 1 seUnspecified)
    else s.spdmNonce.2.respond ep spChallengeAuth (le 1 slot ++ sha384 (Config.certChain slot) ++ s.spdmNonce.1 ++
      Config.spdmSignature (nonce ++ (le 1 slot ++ sha384 (Config.certChain slot) ++ s.spdmNonce.1)))) := by
  simp only [exec, execChallenge]
  exact spdm_of_reaches _ h

/-- What GET_MEASUREMENTS answers with, where the index exists (R602). -/
def State.measured (s : State) (i : Nat) : Option (List Byte) :=
  if i = 0 then some (le 1 measureIndices.length)
  else if i = 255 then some (measureIndices.flatMap (fun k => measureBlock k ((s.measure k).getD [])))
  else (s.measure i).map (measureBlock i)

theorem exec_getMeasurements_of_some {i : Nat} {b : List Byte} (h : Reaches s ep 3) (measured : State.measured s i = some b) :
    exec (.getMeasurements ep i) s = .next (
      if !s.drbgReady then s.respond ep spError (le 1 seUnspecified)
      else s.spdmNonce.2.respond ep spMeasurements (b ++ s.spdmNonce.1 ++ Config.spdmSignature (b ++ s.spdmNonce.1))) := by
  rw [State.measured] at measured
  simp only [exec, execGetMeasurements]
  rw [spdm_of_reaches _ h, measured]
  rfl

theorem exec_getMeasurements_of_none {i : Nat} (h : Reaches s ep 3) (measured : State.measured s i = none) :
    exec (.getMeasurements ep i) s = .next (s.respond ep spError (le 1 seInvalidRequest)) := by
  rw [State.measured] at measured
  simp only [exec, execGetMeasurements]
  rw [spdm_of_reaches _ h, measured]
  rfl

theorem getMeasurements_answers {i : Nat} {b : List Byte} (h : Reaches s ep 3) (measured : State.measured s i = some b) :
    (s.drbgReady = true → exec (.getMeasurements ep i) s =
      .next (s.spdmNonce.2.respond ep spMeasurements (b ++ s.spdmNonce.1 ++ Config.spdmSignature (b ++ s.spdmNonce.1)))) ∧
    (s.drbgReady = false → exec (.getMeasurements ep i) s = .next (s.respond ep spError (le 1 seUnspecified))) := by
  constructor
  · intro ready
    rw [exec_getMeasurements_of_some h measured, ready]
    rfl
  · intro ready
    rw [exec_getMeasurements_of_some h measured, ready]
    rfl

theorem exec_finish (v : List Byte) (h : Reaches s ep 3) : exec (.finish ep v) s = .next (
    if (s.conn ep).sessionStage ≠ 1 then s.respond ep spError (le 1 seUnexpected)
    else if v = Config.spdmFinishData (s.conn ep).secret then (s.onConn ep (fun c => { c with sessionStage := 2 })).respond ep spFinishRsp []
    else (s.closeSession ep).respond ep spError (le 1 seDecrypt)) := by
  simp only [exec, execFinish]
  exact spdm_of_reaches _ h

theorem inSession_of_open (f : State → State) (h : Reaches s ep 3) (opened : (s.conn ep).sessionStage = 2) : s.inSession ep f = .next (f s) := by
  rw [State.inSession, spdm_of_reaches _ h, if_neg (not_not.2 opened)]

theorem inSession_of_closed (f : State → State) (h : Reaches s ep 3) (closed : (s.conn ep).sessionStage ≠ 2) :
    s.inSession ep f = .next (s.respond ep spError (le 1 seUnexpected)) := by
  rw [State.inSession, spdm_of_reaches _ h, if_pos closed]
  rfl

theorem exec_keyExchange_of_busy (slot : Nat) (ex : List Byte) (ma : Bool) (h : Reaches s ep 3) (busy : (s.conn ep).sessionStage ≠ 0) :
    exec (.keyExchange ep slot ex ma) s = .next (s.respond ep spError (le 1 seBusy)) := by
  simp only [exec, execKeyExchange]
  rw [spdm_of_reaches _ h, if_pos busy]
  rfl

theorem exec_keyExchange_of_invalid {slot : Nat} {ex : List Byte} (ma : Bool) (h : Reaches s ep 3) (free : (s.conn ep).sessionStage = 0)
    (invalid : 1 < slot ∨ pointOf (4#8 :: ex) = none) :
    exec (.keyExchange ep slot ex ma) s = .next (s.respond ep spError (le 1 seInvalidRequest)) := by
  simp only [exec, execKeyExchange]
  rw [spdm_of_reaches _ h, if_neg (not_not.2 free)]
  cases point : pointOf (4#8 :: ex) with
  | none => rfl
  | some q =>
    have beyond : 1 < slot := invalid.resolve_right (by rw [point]; exact fun h => nomatch h)
    simp only [beyond, if_true]
    rfl

/-- The state in which a key exchange opens its session (R585). -/
def State.exchanged (s : State) (ep : SpdmEp) (ex : List Byte) (q : Nat × Nat) (ma : Bool) : State :=
  let d := (s.generate false).drawWide 6
  let own := pointBytes (ecPublic d.1)
  let z := be 48 ((ecMul (d.1 % n384) (some q) 384).getD (0, 0)).1
  let secret := Config.spdmExportSecret (z ++ ex ++ own.drop 1)
  let s1 := d.2.onConn ep (fun c => { c with session := c.session + 1, sessionStage := 1, secret := secret, mutualAuth := ma })
  (s1.openHost (epPen ep) secret).respond ep spKeyExchangeRsp (own.drop 1 ++ Config.spdmSignature (ex ++ own))

theorem exec_keyExchange_of_valid {slot : Nat} {ex : List Byte} {q : Nat × Nat} (ma : Bool) (h : Reaches s ep 3)
    (free : (s.conn ep).sessionStage = 0) (known : slot ≤ 1) (point : pointOf (4#8 :: ex) = some q) :
    exec (.keyExchange ep slot ex ma) s = .next (
      if !s.drbgReady then s.respond ep spError (le 1 seUnspecified) else State.exchanged s ep ex q ma) := by
  simp only [exec, execKeyExchange]
  rw [spdm_of_reaches _ h, if_neg (not_not.2 free), point]
  simp only [Nat.not_lt.2 known, if_false]
  rfl

theorem keyExchange_answers (slot : Nat) (ex : List Byte) (ma : Bool) (h : Reaches s ep 3) :
    (∀ q, (s.conn ep).sessionStage = 0 → slot ≤ 1 → pointOf (4#8 :: ex) = some q →
      (s.drbgReady = false → exec (.keyExchange ep slot ex ma) s = .next (s.respond ep spError (le 1 seUnspecified))) ∧
      (s.drbgReady = true → exec (.keyExchange ep slot ex ma) s = .next (State.exchanged s ep ex q ma))) ∧
    ((s.conn ep).sessionStage ≠ 0 → exec (.keyExchange ep slot ex ma) s = .next (s.respond ep spError (le 1 seBusy))) ∧
    ((s.conn ep).sessionStage = 0 → 1 < slot ∨ pointOf (4#8 :: ex) = none →
      exec (.keyExchange ep slot ex ma) s = .next (s.respond ep spError (le 1 seInvalidRequest))) := by
  refine ⟨fun q free known point => ?_, exec_keyExchange_of_busy slot ex ma h, exec_keyExchange_of_invalid ma h⟩
  rw [exec_keyExchange_of_valid ma h free known point]
  constructor
  · intro ready
    rw [ready, Bool.not_false, if_pos rfl]
  · intro ready
    rw [ready, Bool.not_true, if_neg Bool.false_ne_true]

end

theorem challenge_answers {s : State} {ep : SpdmEp} (slot : Nat) (nonce : List Byte) (h : Reaches s ep 3) :
    (slot ≤ 1 → s.drbgReady = true → exec (.challenge ep slot nonce) s =
      .next (s.spdmNonce.2.respond ep spChallengeAuth (le 1 slot ++ sha384 (Config.certChain slot) ++ s.spdmNonce.1 ++
        Config.spdmSignature (nonce ++ (le 1 slot ++ sha384 (Config.certChain slot) ++ s.spdmNonce.1))))) ∧
    (slot ≤ 1 → s.drbgReady = false → exec (.challenge ep slot nonce) s = .next (s.respond ep spError (le 1 seUnspecified))) ∧
    (1 < slot → exec (.challenge ep slot nonce) s = .next (s.respond ep spError (le 1 seInvalidRequest))) := by
  rw [exec_challenge slot nonce h]
  refine ⟨fun known ready => ?_, fun known ready => ?_, fun beyond => ?_⟩
  · rw [if_neg (Nat.not_lt.2 known), ready, Bool.not_true, if_neg Bool.false_ne_true]
  · rw [if_neg (Nat.not_lt.2 known), ready, Bool.not_false, if_pos rfl]
  · rw [if_pos beyond]

theorem finish_answers {s : State} {ep : SpdmEp} (v : List Byte) (h : Reaches s ep 3) :
    ((s.conn ep).sessionStage = 1 → v = Config.spdmFinishData (s.conn ep).secret →
      exec (.finish ep v) s = .next ((s.onConn ep (fun c => { c with sessionStage := 2 })).respond ep spFinishRsp [])) ∧
    ((s.conn ep).sessionStage = 1 → v ≠ Config.spdmFinishData (s.conn ep).secret →
      exec (.finish ep v) s = .next ((s.closeSession ep).respond ep spError (le 1 seDecrypt))) ∧
    ((s.conn ep).sessionStage ≠ 1 → exec (.finish ep v) s = .next (s.respond ep spError (le 1 seUnexpected))) := by
  rw [exec_finish v h]
  refine ⟨fun opened matching => ?_, fun opened other => ?_, fun closed => ?_⟩
  · rw [if_neg (not_not.2 opened), if_pos matching]
  · rw [if_neg (not_not.2 opened), if_neg other]
  · rw [if_pos closed]

/-- The requests that need the algorithms, in their place. -/
theorem requests_of_reaches {s : State} {ep : SpdmEp} (h : Reaches s ep 3) :
    exec (.getDigests ep) s = .next (s.respond ep spDigests (le 1 3 ++ sha384 (Config.certChain 0) ++ sha384 (Config.certChain 1))) ∧
    ((s.conn ep).sessionStage = 2 →
      (∀ all, exec (.keyUpdate ep all) s = .next ((s.onConn ep (fun c => { c with
        reqKeyGen := c.reqKeyGen + 1, rspKeyGen := if all then c.rspKeyGen + 1 else c.rspKeyGen })).respond ep spKeyUpdateAck [])) ∧
      exec (.heartbeat ep) s = .next (s.respond ep spHeartbeatAck []) ∧
      exec (.endSession ep) s = .next ((s.closeSession ep).respond ep spEndSessionAck [])) ∧
    ((s.conn ep).sessionStage ≠ 2 → (∀ all, exec (.keyUpdate ep all) s = .next (s.respond ep spError (le 1 seUnexpected))) ∧
      exec (.heartbeat ep) s = .next (s.respond ep spError (le 1 seUnexpected)) ∧
      exec (.endSession ep) s = .next (s.respond ep spError (le 1 seUnexpected))) := by
  simp only [exec, execGetDigests, execKeyUpdate, execHeartbeat, execEndSession]
  exact ⟨spdm_of_reaches _ h, fun opened => ⟨fun _ => inSession_of_open _ h opened, inSession_of_open _ h opened, inSession_of_open _ h opened⟩,
    fun closed => ⟨fun _ => inSession_of_closed _ h closed, inSession_of_closed _ h closed, inSession_of_closed _ h closed⟩⟩

theorem exec_of_down {s : State} {ep : SpdmEp} (down : s.epUp ep = false) :
    exec (.getVersion ep) s = .next s ∧ exec (.getDigests ep) s = .next s ∧ exec (.heartbeat ep) s = .next s := by
  simp only [exec, execGetVersion, execGetDigests, execHeartbeat, State.inSession]
  exact ⟨spdm_of_down _ down, spdm_of_down _ down, spdm_of_down _ down⟩

theorem exec_getVersion {s : State} {ep : SpdmEp} (h : Reaches s ep 0) : exec (.getVersion ep) s =
    .next (((s.closeSession ep).onConn ep (fun _ => { stage := 1 })).respond ep spVersion (le 1 2 ++ le 2 0x1200 ++ le 2 0x1300)) := by
  simp only [exec, execGetVersion]
  exact spdm_of_reaches _ h

theorem measured_of_index {s : State} {i : Nat} (some : i ≠ 0) (one : i ≠ 255) : State.measured s i = (s.measure i).map (measureBlock i) := by
  rw [State.measured, if_neg some, if_neg one]

/-- Settles O50. -/
theorem responderAnswersRequests : Obligations.ResponderAnswersRequests := by
  unfold Obligations.ResponderAnswersRequests
  refine ⟨fun s ep code bs => respond_leaves s ep code bs, fun s ep => ⟨exec_of_down, exec_getVersion, fun minor h => ?_, fun a h => ?_,
    fun up early x hx => exec_request_of_early up early x hx, fun h => ?_, ⟨conn_closeSession s ep, closeSession_host s ep⟩,
    fun secret p low _ present confidential lives => openHost_opens low present confidential lives secret⟩⟩
  · rw [exec_getCapabilities minor h]
    exact ⟨fun known => by rw [if_pos known], fun no2 no3 => by rw [if_neg (not_or.2 ⟨no2, no3⟩)]⟩
  · dsimp only
    rw [exec_negotiateAlgorithms a h]
    exact ⟨fun own => by rw [if_pos own], fun other => by rw [if_neg other]⟩
  · obtain ⟨digests, opened, closed⟩ := requests_of_reaches h
    refine ⟨digests, fun slot off len => ?_, fun slot nonce => challenge_answers slot nonce h, fun i => ⟨fun all => ?_, fun all => ?_, ?_, ?_⟩,
      fun slot ex ma => keyExchange_answers slot ex ma h, fun v => finish_answers v h, opened, closed⟩
    · dsimp only
      rw [exec_getCertificate slot off len h]
      exact ⟨fun known part => by rw [if_neg (by omega)], fun beyond => by rw [if_pos beyond]⟩
    · subst all
      exact getMeasurements_answers h rfl
    · subst all
      exact getMeasurements_answers h rfl
    · intro v some one measure
      exact getMeasurements_answers h (by rw [measured_of_index some one, measure]; rfl)
    · intro some one measure
      exact exec_getMeasurements_of_none h (by rw [measured_of_index some one, measure]; rfl)

end Sys2Proof.Proofs
end

section
namespace Sys2Proof.Proofs

open Sys2Proof Sys2Proof.Machine Sys2Proof.Claims

/-! ### An order that arrives (R593) -/

/-- An order that has come and passed its check is performed and answered. -/
theorem perform_of_arrives {s : State} {o : OrderFrom} {op : Nat} {body : List Byte} (h : Arrives s o op body)
    (f : List Byte → State → State × OrderEnd) : s.perform o op f = .next ((f body s).1.orderEnds o (f body s).2) := by
  cases o with
  | mailbox =>
    obtain ⟨w, waits, code, rfl, unlocked⟩ := h
    simp only [State.perform, waits, code, ne_eq, not_true_eq_false, if_false, unlocked, Bool.false_eq_true]
  | network r =>
    obtain ⟨up, code, passed, rfl⟩ := h
    simp only [State.perform, up, code, ne_eq, not_true_eq_false, decide_false, Bool.not_true, Bool.or_self, Bool.false_eq_true, if_false, passed]
  | smbus r =>
    obtain ⟨up, code, passed, rfl⟩ := h
    simp only [State.perform, up, code, ne_eq, not_true_eq_false, decide_false, Bool.not_true, Bool.or_self, Bool.false_eq_true, if_false, passed]

section
variable {s : State} {o : OrderFrom} {body : List Byte}

/-! ### Sections and rings (R619, R638) -/

theorem exec_loadDeviceSection_part (h : Arrives s o 1 body) (part : ¬ (240 ≤ body.length ∧ combSize body ≤ body.length)) :
    exec (.loadDeviceSection o) s = .next (s.orderEnds o (.ring rsLength)) := by
  have short : (decide (body.length < 240) || decide (body.length < combSize body)) = true := by
    rw [Bool.or_eq_true, decide_eq_true_eq, decide_eq_true_eq]
    omega
  simp only [exec, execLoadDeviceSection]
  rw [perform_of_arrives h]
  simp only [short, failIf, if_true]
  rfl

theorem exec_loadDeviceSection_whole (h : Arrives s o 1 body) (whole : 240 ≤ body.length ∧ combSize body ≤ body.length) :
    (∀ e, checkDeviceComb body = some e → exec (.loadDeviceSection o) s = .next (s.orderEnds o (.ring e.status))) ∧
    (checkDeviceComb body = none → ∀ e, s.checkSections body = some e →
      exec (.loadDeviceSection o) s = .next (s.orderEnds o (.ring e.status))) ∧
    (checkDeviceComb body = none → s.checkSections body = none →
      exec (.loadDeviceSection o) s = .next ((s.applySections body).orderEnds o .ok)) := by
  have long : (decide (body.length < 240) || decide (body.length < combSize body)) = false := by
    rw [Bool.or_eq_false_iff, decide_eq_false_iff_not, decide_eq_false_iff_not]
    omega
  simp only [exec, execLoadDeviceSection]
  rw [perform_of_arrives h]
  simp only [long, failIf, Bool.false_eq_true, if_false]
  refine ⟨fun e comb => ?_, fun comb e sections => ?_, fun comb sections => ?_⟩
  · rw [comb]
    rfl
  · rw [comb, sections]
    rfl
  · rw [comb, sections]
    rfl

/-- The rings that an allocation moves to another owner. -/
def State.movedRings (s : State) (body : List Byte) : List Nat :=
  (List.range 4096).filter (fun r => decide ((body.getD r 0#8).toNat ≠ s.ringOwner r))

theorem exec_ringAllocation (h : Arrives s o 2 body) :
    let legal := ∀ b ∈ body, b.toNat ≤ 12
    let idle := ∀ r, r < 4096 → (body.getD r 0#8).toNat ≠ s.ringOwner r → (s.ring r).inflight = []
    (body.length ≠ 4096 → exec (.ringAllocation o) s = .next (s.orderEnds o (.ring rsLength))) ∧
    (body.length = 4096 → ¬ legal → exec (.ringAllocation o) s = .next (s.orderEnds o (.answer auReserved))) ∧
    (body.length = 4096 → legal → ¬ idle → exec (.ringAllocation o) s = .next (s.orderEnds o (.ring rsPenBusy))) ∧
    (body.length = 4096 → legal → idle → exec (.ringAllocation o) s = .next (((State.movedRings s body).foldl (fun s r =>
      (s.ringReset r).setFld .hifRingCtl 16 4 (body.getD r 0#8).toNat r) s).countRings.orderEnds o .ok)) := by
  have legal_iff : body.any (fun b => decide (12 < b.toNat)) = true ↔ ¬ ∀ b ∈ body, b.toNat ≤ 12 := by
    rw [List.any_eq_true]
    push Not
    simp only [decide_eq_true_eq]
  have idle_iff : (State.movedRings s body).any (fun r => !(s.ring r).inflight.isEmpty) = true ↔
      ¬ ∀ r, r < 4096 → (body.getD r 0#8).toNat ≠ s.ringOwner r → (s.ring r).inflight = [] := by
    rw [List.any_eq_true]
    push Not
    simp only [State.movedRings, List.mem_filter, List.mem_range, decide_eq_true_eq, Bool.not_eq_true', List.isEmpty_eq_false_iff, and_assoc]
  dsimp only
  simp only [exec, execRingAllocation]
  rw [perform_of_arrives h, ← State.movedRings]
  refine ⟨fun len => ?_, fun len bad => ?_, fun len legal busy => ?_, fun len legal idle => ?_⟩
  · rw [if_pos len]
  · rw [if_neg (not_not.2 len), if_pos (legal_iff.2 bad)]
  · rw [if_neg (not_not.2 len), if_neg fun bad => legal_iff.1 bad legal, if_pos (idle_iff.2 busy)]
  · rw [if_neg (not_not.2 len), if_neg fun bad => legal_iff.1 bad legal, if_neg fun busy => idle_iff.1 busy idle]

/-! ### Selection and ownership (R593, R594) -/

theorem exec_setAuthority (h : Arrives s o 3 body) :
    let legal := 8 ≤ body.length ∧ someNonzero body 1 7 = false ∧ fieldAt body 0 1 ≤ 2
    (legal → exec (.setAuthority o) s = .next ((s.keepOwner (fieldAt body 0 1) (body.drop 8)).orderEnds o .ok)) ∧
    (¬ legal → exec (.setAuthority o) s = .next (s.orderEnds o (.answer auReserved))) := by
  have illegal : (body.length < 8 ∨ someNonzero body 1 7 = true ∨ 2 < fieldAt body 0 1) ↔
      ¬ (8 ≤ body.length ∧ someNonzero body 1 7 = false ∧ fieldAt body 0 1 ≤ 2) := by
    rw [not_and_or, not_and_or, Nat.not_le, Nat.not_le, Bool.not_eq_false]
  simp only [exec, execSetAuthority]
  rw [perform_of_arrives h]
  simp only [illegal]
  exact ⟨fun legal => by rw [if_neg (not_not.2 legal)], fun bad => by rw [if_pos bad]⟩

theorem exec_takeOwnership (h : Arrives s o 4 body) :
    (s.fld .secAuth 6 1 = 0 → exec (.takeOwnership o) s = .next (s.orderEnds o (.answer auNotAuthority))) ∧
    (s.fld .secAuth 6 1 = 1 →
      let s1 := s.keepOwner s.authority body
      exec (.takeOwnership o) s = .next (State.orderEnds
        { (s1.setFld .secAuth 0 2 s1.authority).setFld .secAuth 5 2 1 with ownerPub := body } o .ok)) := by
  simp only [exec, execTakeOwnership]
  rw [perform_of_arrives h]
  exact ⟨fun unowned => by rw [if_pos unowned], fun owned => by rw [if_neg (by omega)]⟩

theorem exec_releaseOwnership (h : Arrives s o 5 body) : exec (.releaseOwnership o) s = .next ((s.keepOwner 0 []).orderEnds o .ok) := by
  simp only [exec, execReleaseOwnership]
  exact perform_of_arrives h _

/-! ### Firmware (R597 to R599) -/

/-- The image that a firmware write stores. -/
def State.storeFw (s : State) (slot : Bool) (image : List Byte) : State :=
  let s1 : State := { s.setFld .secFw (if slot then 3 else 2) 1 1 with fwTrial := none }
  if slot then { s1 with fwB := .image image } else { s1 with fwA := .image image }

theorem exec_fwWrite (h : Arrives s o 6 body) :
    let legal := 8 ≤ body.length ∧ someNonzero body 1 7 = false ∧ fieldAt body 0 1 ≤ 1
    let slot := decide (fieldAt body 0 1 = 1)
    let busy := slot = s.fwRuns ∧ s.recovery = false
    (¬ legal → exec (.fwWrite o) s = .next (s.orderEnds o (.answer auReserved))) ∧
    (legal → busy → exec (.fwWrite o) s = .next (s.orderEnds o (.answer auFwSlotBusy))) ∧
    (legal → ¬ busy → ∀ a, s.fwRefusal (body.drop 8) = some a → exec (.fwWrite o) s = .next (s.orderEnds o (.answer a))) ∧
    (legal → ¬ busy → s.fwRefusal (body.drop 8) = none →
      exec (.fwWrite o) s = .next ((State.storeFw s slot (body.drop 8)).orderEnds o .ok)) := by
  have illegal : (body.length < 8 ∨ someNonzero body 1 7 = true ∨ 1 < fieldAt body 0 1) ↔
      ¬ (8 ≤ body.length ∧ someNonzero body 1 7 = false ∧ fieldAt body 0 1 ≤ 1) := by
    rw [not_and_or, not_and_or, Nat.not_le, Nat.not_le, Bool.not_eq_false]
  have busy_iff : (decide (fieldAt body 0 1 = 1) = s.fwRuns ∧ (!s.recovery) = true) ↔
      (decide (fieldAt body 0 1 = 1) = s.fwRuns ∧ s.recovery = false) := by rw [Bool.not_eq_true']
  dsimp only
  simp only [exec, execFwWrite]
  rw [perform_of_arrives h]
  simp only [illegal, busy_iff]
  refine ⟨fun bad => ?_, fun legal busy => ?_, fun legal free a refused => ?_, fun legal free good => ?_⟩
  · rw [if_pos bad]
  · rw [if_neg (not_not.2 legal), if_pos busy]
  · rw [if_neg (not_not.2 legal), if_neg free, refused]
  · rw [if_neg (not_not.2 legal), if_neg free, good]
    rfl

theorem exec_fwActivate (h : Arrives s o 7 body) :
    let slot := if s.recovery then !s.slotGood s.fwA else !s.fwRuns
    (s.slotGood (s.fwSlot slot) = true → exec (.fwActivate o) s = .next (State.orderEnds { s with fwTrial := some slot } o .ok)) ∧
    (s.slotGood (s.fwSlot slot) = false → exec (.fwActivate o) s = .next (s.orderEnds o (.answer auFwNotVerified))) := by
  dsimp only
  simp only [exec, execFwActivate]
  rw [perform_of_arrives h]
  exact ⟨fun good => by rw [if_pos good], fun bad => by rw [if_neg (Bool.eq_false_iff.1 bad)]⟩

theorem keepQ_keepDone (s : State) : s.keepDone.keepQ = s.keepQ.tail := by
  unfold State.keepDone
  split
  next empty => rw [empty]; rfl
  next w x t waits =>
    rw [waits]
    dsimp only
    split
    · rfl
    · split
      · rw [((EventsOnly.refl _).post ..).frame]
        rfl
      · rfl

theorem keepQ_keepAll (s : State) : s.keepAll.keepQ = [] := by
  have drained (n : Nat) (s : State) : ((List.range n).foldl (fun s _ => s.keepDone) s).keepQ = s.keepQ.drop n := by
    induction n with
    | zero => rfl
    | succ n ih => rw [List.range_succ, List.foldl_append, List.foldl_cons, List.foldl_nil, keepQ_keepDone, ih, List.tail_drop]
  rw [State.keepAll, drained, List.drop_length]

theorem exec_fwCommit (h : Arrives s o 8 body) :
    (s.fld .secFw 1 1 = 1 → exec (.fwCommit o) s = .next (s.orderEnds o (.answer auFwNotRunning))) ∧
    (s.fld .secFw 1 1 = 0 →
      let s1 := (if s.fwCounter < s.fld .secFw 32 16 then s.keepWrite 8 (BitVec.ofNat 64 (s.fld .secFw 32 16)) else s).keepAll
      exec (.fwCommit o) s = .next (((s1.setFld .secFw 48 16 s1.fwCounter).setFld .secFw 4 1
        (bitIf (decide (s1.fwCounter < s.fld .secFw 32 16)) 0)).orderEnds o .ok) ∧ s1.keepQ = []) := by
  simp only [exec, execFwCommit]
  rw [perform_of_arrives h]
  exact ⟨fun other => by rw [if_pos other], fun running => ⟨by rw [if_neg (by omega)], keepQ_keepAll _⟩⟩

theorem exec_mgmtRestart (h : Arrives s o 9 body) :
    (s.loadedPens ≠ [] → exec (.mgmtRestart o) s = .next (s.orderEnds o (.answer auMgmtBusy))) ∧
    (s.loadedPens = [] → exec (.mgmtRestart o) s =
      .next ((if s.bootFw.atReady then s.bootFw.trialGood else s.bootFw).refreshPins.orderEnds o .ok)) := by
  simp only [exec, execMgmtRestart]
  rw [perform_of_arrives h]
  refine ⟨fun busy => ?_, fun free => ?_⟩
  · rw [if_pos]
    rw [List.isEmpty_eq_false_iff.2 busy]
    rfl
  · rw [if_neg]
    rw [free]
    decide

/-! ### Clearings and packs (R526, R543, R603) -/

/-- The registers that policy entries name take their values (R526). -/
def State.setPolicies (s : State) (es : List (Nat × Nat)) : State :=
  es.foldl (fun s e => match policyReg e with
    | some r => s.writeRwk r.1 r.2 (BitVec.ofNat 64 e.2 &&& r.1.row.rw)
    | none => s) s

theorem exec_writePolicy (h : Arrives s o 10 body) :
    let legal := body ≠ [] ∧ body.length % 16 = 0 ∧ ∀ e ∈ policyEntries body, policyReg e ≠ none
    (¬ legal → exec (.writePolicy o) s = .next (s.orderEnds o (.answer auReserved))) ∧
    (legal → exec (.writePolicy o) s = .next ((State.setPolicies s (policyEntries body)).orderEnds o .ok)) := by
  have illegal : (body.isEmpty = true ∨ body.length % 16 ≠ 0 ∨ (policyEntries body).any (fun e => (policyReg e).isNone) = true) ↔
      ¬ (body ≠ [] ∧ body.length % 16 = 0 ∧ ∀ e ∈ policyEntries body, policyReg e ≠ none) := by
    rw [not_and_or, not_and_or, List.isEmpty_iff, not_not, List.any_eq_true]
    push Not
    simp only [Option.isNone_iff_eq_none]
  simp only [exec, execWritePolicy]
  rw [perform_of_arrives h]
  simp only [illegal]
  refine ⟨fun bad => by rw [if_pos bad], fun legal => ?_⟩
  rw [if_neg (not_not.2 legal)]
  rfl

theorem exec_clearLedgerEntry (h : Arrives s o 11 body) :
    let legal := body.length = 8 ∧ ledgerBase ≤ fieldAt body 0 8 ∧ fieldAt body 0 8 < ledgerBase + ledgerWords
    (legal → exec (.clearLedgerEntry o) s = .next ((s.keepWrite (fieldAt body 0 8) 0#64).orderEnds o .ok)) ∧
    (¬ legal → exec (.clearLedgerEntry o) s = .next (s.orderEnds o (.answer auReserved))) := by
  have illegal : (body.length ≠ 8 ∨ fieldAt body 0 8 < ledgerBase ∨ ledgerBase + ledgerWords ≤ fieldAt body 0 8) ↔
      ¬ (body.length = 8 ∧ ledgerBase ≤ fieldAt body 0 8 ∧ fieldAt body 0 8 < ledgerBase + ledgerWords) := by
    rw [not_and_or, not_and_or, Nat.not_le, Nat.not_lt]
  simp only [exec, execClearLedgerEntry]
  rw [perform_of_arrives h]
  simp only [illegal]
  exact ⟨fun legal => by rw [if_neg (not_not.2 legal)], fun bad => by rw [if_pos bad]⟩

theorem exec_clearBayAct (h : Arrives s o 12 body) :
    let legal := body.length = 8 ∧ fieldAt body 0 8 < 12
    (legal → exec (.clearBayAct o) s = .next ((s.setFld .errBayWx 0 1 0 (fieldAt body 0 8)).orderEnds o .ok)) ∧
    (¬ legal → exec (.clearBayAct o) s = .next (s.orderEnds o (.answer auReserved))) := by
  have illegal : (body.length ≠ 8 ∨ 12 ≤ fieldAt body 0 8) ↔ ¬ (body.length = 8 ∧ fieldAt body 0 8 < 12) := by
    rw [not_and_or, Nat.not_lt]
  simp only [exec, execClearBayAct]
  rw [perform_of_arrives h]
  simp only [illegal]
  exact ⟨fun legal => by rw [if_neg (not_not.2 legal)], fun bad => by rw [if_pos bad]⟩

theorem exec_authFtpLoad (h : Arrives s o 14 body) :
    (s.ftpStatus body = rsOk → exec (.authFtpLoad o) s = .next ((s.takePack body).orderEnds o .ok)) ∧
    (s.ftpStatus body ≠ rsOk → exec (.authFtpLoad o) s = .next (s.orderEnds o (.ring (s.ftpStatus body)))) := by
  simp only [exec, execAuthFtpLoad]
  rw [perform_of_arrives h]
  exact ⟨fun good => by rw [if_pos good], fun bad => by rw [if_neg bad]⟩

/-- The tamper log and its keep-store words are to be cleared, up to an entry (R603). -/
def State.clearLog (s : State) (n : Nat) : State :=
  (List.range n).foldl (fun s i => (s.keepWrite (0x40 + i) 0#64).setReg .secTamperLog 0#64 i) s

theorem clearLog_succ (s : State) (n : Nat) :
    State.clearLog s (n + 1) = ((State.clearLog s n).keepWrite (0x40 + n) 0#64).setReg .secTamperLog 0#64 n := by
  rw [State.clearLog, List.range_succ, List.foldl_append, ← State.clearLog]
  rfl

theorem clearLog_leaves (s : State) (n : Nat) : State.clearLog s n = { s with regs := (State.clearLog s n).regs, keepQ := (State.clearLog s n).keepQ } ∧
    (∀ i, i < n → (State.clearLog s n).reg .secTamperLog i = 0#64) ∧
    (State.clearLog s n).keepQ = s.keepQ ++ (List.range n).map (fun i => (0x40 + i, 0#64)) := by
  induction n with
  | zero => exact ⟨rfl, fun i hi => absurd hi (Nat.not_lt_zero i), (List.append_nil _).symm⟩
  | succ n ih =>
    obtain ⟨frame, entries, queue⟩ := ih
    rw [clearLog_succ]
    generalize State.clearLog s n = t at *
    refine ⟨by rw [frame]; rfl, fun i hi => ?_, ?_⟩
    · by_cases last : i = n
      · rw [last, State.reg_setReg_self]
      · have apart : RegName.key .secTamperLog 0 i ≠ RegName.key .secTamperLog 0 n := by
          show ¬ 0xA00100 + 8 * i = 0xA00100 + 8 * n
          omega
        rw [State.reg_setReg_ne _ _ _ _ _ _ _ _ apart]
        exact entries i (by omega)
    · show t.keepQ ++ [(0x40 + n, 0#64)] = _
      rw [queue, List.range_succ, List.map_append, List.append_assoc]
      rfl

theorem exec_clearTamperLog (h : Arrives s o 13 body) : ∃ t : State, exec (.clearTamperLog o) s = .next (t.orderEnds o .ok) ∧
    t = { s with regs := t.regs, keepQ := t.keepQ, tamperHead := 0 } ∧ (∀ i, i < 16 → t.reg .secTamperLog i = 0#64) ∧
    t.keepQ = s.keepQ ++ (List.range 16).map (fun i => (0x40 + i, 0#64)) ∧ t.fld .secTamper 8 8 = 0 := by
  obtain ⟨frame, entries, queue⟩ := clearLog_leaves s 16
  simp only [exec, execClearTamperLog]
  rw [perform_of_arrives h, ← State.clearLog]
  generalize State.clearLog s 16 = t at *
  refine ⟨_, rfl, by rw [frame]; rfl, fun i hi => ?_, queue, ?_⟩
  · have apart : RegName.key .secTamperLog 0 i ≠ RegName.key .secTamper 0 0 := by
      show ¬ 0xA00100 + 8 * i = 0xA00010
      omega
    exact ((reg_setFld_apart _ _ _ _ apart).trans (reg_setFld_apart t _ _ _ apart)).trans (entries i hi)
  · exact fld_setFld_of_lt (t.setFld .secTamper 0 7 0) .secTamper 0 0 (by decide) (by decide)

/-- Settles O49. -/
theorem ordersTakeEffect : Obligations.OrdersTakeEffect := by
  unfold Obligations.OrdersTakeEffect
  intro s o body
  exact ⟨fun h => ⟨exec_loadDeviceSection_part h, fun whole => (exec_loadDeviceSection_whole h whole).1,
    fun whole => (exec_loadDeviceSection_whole h whole).2.1, fun whole => (exec_loadDeviceSection_whole h whole).2.2⟩, exec_ringAllocation, exec_setAuthority,
    fun h => (exec_takeOwnership h).1, fun h => (exec_takeOwnership h).2, exec_releaseOwnership, exec_fwWrite, exec_fwActivate, exec_fwCommit,
    exec_mgmtRestart, exec_writePolicy, exec_clearLedgerEntry, exec_clearBayAct, exec_clearTamperLog, exec_authFtpLoad⟩

end

end Sys2Proof.Proofs
end

section
namespace Sys2Proof.Proofs

open Sys2Proof Sys2Proof.Machine Sys2Proof.Claims

/-! ### Injections (R531, R532) -/

/-- What the firing of an injection changes: the injection itself, registers and events. -/
theorem fireInjection_frame (s : State) (det b u : Nat) : (s.fireInjection det b u).1 = { s with
    regs := (s.fireInjection det b u).1.regs, evq := (s.fireInjection det b u).1.evq, evLost := (s.fireInjection det b u).1.evLost
    injection := (s.fireInjection det b u).1.injection } := by
  unfold State.fireInjection
  split
  · rfl
  · split
    · extract_lets +onlyGivenNames left s1 s2
      have posted : EventsOnly s s2 := ((EventsOnly.refl s).bump ..).postBoth ..
      clear_value s2
      split
      · rw [State.setFld, State.setFld, State.setReg, State.setReg, posted.frame]
      · rw [posted.frame]
    · rfl

section
variable {s : State} {fn : Func} (pf0 : fn.val = 0)
include pf0

theorem exec_injArm_of_armed (armed : s.injection ≠ none) : exec (.injArm fn) s = .next (s.setFld .injCtl 8 8 1) := by
  have some : s.injection.isSome = true := Option.isSome_iff_ne_none.2 armed
  simp only [exec, execInjArm, pf0, ne_eq, not_true_eq_false, if_false, some, if_true]

theorem exec_injArm_of_unknown (free : s.injection = none) (unknown : s.fld .injSel 0 8 = 0 ∨ 22 < s.fld .injSel 0 8) :
    exec (.injArm fn) s = .next (s.setFld .injCtl 8 8 2) := by
  simp only [exec, execInjArm, pf0, ne_eq, not_true_eq_false, if_false, free, Option.isSome_none, Bool.false_eq_true, unknown, if_true]

variable (free : s.injection = none) (low : 1 ≤ s.fld .injSel 0 8) (high : s.fld .injSel 0 8 ≤ 22)
include free low high

theorem exec_injArm_of_absent (absent : s.unitExists (s.fld .injSel 0 8) (s.fld .injSel 8 4) (s.fld .injSel 16 8) = false) :
    exec (.injArm fn) s = .next (s.setFld .injCtl 8 8 3) := by
  have known : ¬ (s.fld .injSel 0 8 = 0 ∨ 22 < s.fld .injSel 0 8) := by omega
  simp only [exec, execInjArm, pf0, ne_eq, not_true_eq_false, if_false, free, Option.isSome_none, Bool.false_eq_true, known, absent,
    Bool.not_false, if_true]

theorem exec_injArm_of_testing (exists_ : s.unitExists (s.fld .injSel 0 8) (s.fld .injSel 8 4) (s.fld .injSel 16 8) = true)
    (testing : siteDetector (s.fld .injSel 0 8) = true ∧ s.site (14 * s.fld .injSel 8 4 + s.fld .injSel 16 8) = siteUnderTest) :
    exec (.injArm fn) s = .next (s.setFld .injCtl 8 8 4) := by
  have known : ¬ (s.fld .injSel 0 8 = 0 ∨ 22 < s.fld .injSel 0 8) := by omega
  simp only [exec, execInjArm, pf0, ne_eq, not_true_eq_false, if_false, free, Option.isSome_none, Bool.false_eq_true, known, exists_,
    Bool.not_true, testing.1, testing.2, decide_true, Bool.and_self, if_true]

/-- An injection is armed with what INJ_SEL names; a count of 0 is done at once (R531). -/
theorem exec_injArm_of_free (exists_ : s.unitExists (s.fld .injSel 0 8) (s.fld .injSel 8 4) (s.fld .injSel 16 8) = true)
    (idle : ¬ (siteDetector (s.fld .injSel 0 8) = true ∧ s.site (14 * s.fld .injSel 8 4 + s.fld .injSel 16 8) = siteUnderTest)) :
    ∃ t, exec (.injArm fn) s = .next t ∧ t = { s with
        regs := t.regs
        injection := if s.fld .injSel 32 16 = 0 then none else
          some { detector := s.fld .injSel 0 8, bay := s.fld .injSel 8 4, unit := s.fld .injSel 16 8, left := s.fld .injSel 32 16 } } ∧
      t.fld .injCtl 0 1 = (if s.fld .injSel 32 16 = 0 then s.fld .injCtl 0 1 else 1) ∧ t.fld .injCtl 8 8 = 0 ∧ t.fld .injCtl 16 16 = 0 := by
  have known : ¬ (s.fld .injSel 0 8 = 0 ∨ 22 < s.fld .injSel 0 8) := by omega
  have quiet : (siteDetector (s.fld .injSel 0 8) && decide (s.site (14 * s.fld .injSel 8 4 + s.fld .injSel 16 8) = siteUnderTest)) = false :=
    Bool.eq_false_iff.2 fun h => idle (by rw [Bool.and_eq_true, decide_eq_true_eq] at h; exact h)
  have code : ((s.setFld .injCtl 8 8 0).setFld .injCtl 16 16 0).fld .injCtl 8 8 = 0 :=
    (fld_setFld_beside _ _ _ _ _ (.inl (by decide))).trans (fld_setFld_of_lt s _ _ _ (by decide) (by decide))
  have count : ((s.setFld .injCtl 8 8 0).setFld .injCtl 16 16 0).fld .injCtl 16 16 = 0 := fld_setFld_of_lt _ _ _ _ (by decide) (by decide)
  have armed : ((s.setFld .injCtl 8 8 0).setFld .injCtl 16 16 0).fld .injCtl 0 1 = s.fld .injCtl 0 1 :=
    (fld_setFld_beside _ _ _ _ _ (.inl (by decide))).trans (fld_setFld_beside _ _ _ _ _ (.inl (by decide)))
  have frame : (s.setFld .injCtl 8 8 0).setFld .injCtl 16 16 0 = { s with regs := ((s.setFld .injCtl 8 8 0).setFld .injCtl 16 16 0).regs } := rfl
  simp only [exec, execInjArm, pf0, ne_eq, not_true_eq_false, if_false, free, Option.isSome_none, Bool.false_eq_true, known, exists_,
    Bool.not_true, quiet]
  generalize (s.setFld .injCtl 8 8 0).setFld .injCtl 16 16 0 = t at *
  split
  · refine ⟨t, rfl, ?_, armed, code, count⟩
    rw [frame, free]
  · refine ⟨_, rfl, by rw [frame]; rfl, ?_, ?_, ?_⟩
    · exact fld_setFld_of_lt t .injCtl 0 0 (by decide) (by decide)
    · exact (fld_setFld_beside t .injCtl 1 0 0 (.inr (by decide))).trans code
    · exact (fld_setFld_beside t .injCtl 1 0 0 (.inr (by decide))).trans count

end

section
variable {s : State} {fn : Func} (pf0 : fn.val = 0)
include pf0

theorem exec_injCancel_of_armed (armed : s.injection ≠ none) : ∃ t, exec (.injCancel fn) s = .next t ∧
    t = { s with regs := t.regs, injection := none } ∧ t.fld .injCtl 0 1 = 0 ∧ t.fld .injCtl 8 8 = 5 := by
  have some : s.injection.isSome = true := Option.isSome_iff_ne_none.2 armed
  simp only [exec, execInjCancel, pf0, some, decide_true, Bool.and_self, whenOk, if_true]
  refine ⟨_, rfl, rfl, ?_, ?_⟩
  · exact (fld_setFld_beside (s.setFld .injCtl 0 1 0) .injCtl 5 0 0 (.inl (by decide))).trans
      (fld_setFld_of_lt s .injCtl 0 0 (by decide) (by decide))
  · exact fld_setFld_of_lt (s.setFld .injCtl 0 1 0) .injCtl 0 0 (by decide) (by decide)

omit pf0 in
theorem exec_injCancel_of_free (free : s.injection = none) : exec (.injCancel fn) s = .next s := by
  simp only [exec, execInjCancel, free, Option.isSome_none, Bool.and_false, whenOk, Bool.false_eq_true, if_false]

end

/-! ### The noise source (R460 to R462) -/

section
variable (s : State)

theorem fld_rngFail {n : RegName} (low : n.key 0 0 < 0xC00000) (lo w : Nat) : s.rngFail.fld n lo w =
    (((s.setFld .rngStatus 0 2 rngFailed).setFld .rngStatus 2 1 0).setFld .rngStatus 3 1 1).fld n lo w := by
  have apart : ¬ RegName.key .hifPenStat 0 0 = n.key 0 0 := by
    show ¬ 0xC00200 = n.key 0 0
    omega
  exact (SameRegs.post (K := fun k => k = n.key 0 0) (.of_regs (.refl _) rfl) _ _ _ _ apart).fld _ _ _ _ _ rfl

/-- A source that fails shows it and serves no requests. -/
theorem rngFail_shows : s.rngFail.rngState = rngFailed ∧ s.rngFail.drbgReady = false ∧ s.rngFail.fld .rngStatus 3 1 = 1 := by
  have posted (lo w : Nat) := fld_rngFail s (n := .rngStatus) (by decide) lo w
  refine ⟨?_, ?_, ?_⟩
  · rw [State.rngState, posted, fld_setFld_beside _ _ _ _ _ (.inl (by decide)), fld_setFld_beside _ _ _ _ _ (.inl (by decide))]
    exact fld_setFld_of_lt s _ _ _ (by decide) (by decide)
  · rw [State.drbgReady, posted, fld_setFld_beside _ _ _ _ _ (.inl (by decide))]
    exact decide_eq_false (by rw [fld_setFld_of_lt _ _ _ _ (by decide) (by decide)]; decide)
  · rw [posted, fld_setFld_of_lt _ _ _ _ (by decide) (by decide)]

theorem rngHealth_rngFail (lo w : Nat) : s.rngFail.fld .rngHealth lo w = s.fld .rngHealth lo w := by
  rw [fld_rngFail s (by decide), fld_setFld_apart _ _ _ _ _ _ (by decide), fld_setFld_apart _ _ _ _ _ _ (by decide),
    fld_setFld_apart _ _ _ _ _ _ (by decide)]

/-- A source that passes its start-up test shows it and serves requests. -/
theorem rngPass_shows : s.rngPass = { s with regs := s.rngPass.regs, rngFails := 0, rngRun := (0, false) } ∧
    s.rngPass.rngState = rngOk ∧ s.rngPass.drbgReady = true := by
  have shown (lo w : Nat) : s.rngPass.fld .rngStatus lo w =
      (((s.setFld .rngStatus 0 2 rngOk).setFld .rngStatus 2 1 1).setFld .rngStatus 32 32 0).fld .rngStatus lo w := rfl
  refine ⟨rfl, ?_, ?_⟩
  · rw [State.rngState, shown, fld_setFld_beside _ _ _ _ _ (.inl (by decide)), fld_setFld_beside _ _ _ _ _ (.inl (by decide))]
    exact fld_setFld_of_lt s _ _ _ (by decide) (by decide)
  · rw [State.drbgReady, shown, fld_setFld_beside _ _ _ _ _ (.inl (by decide))]
    exact decide_eq_true (fld_setFld_of_lt _ _ _ _ (by decide) (by decide))

end

/-- The injection on the noise source that a window fires. -/
def State.fireNoise (s : State) : State × Bool :=
  match s.injection with
  | some i => s.fireInjection 21 i.bay i.unit
  | none => (s, false)

theorem fireNoise_keeps (s : State) : (State.fireNoise s).1.rngRun = s.rngRun ∧ (State.fireNoise s).1.rngFails = s.rngFails := by
  unfold State.fireNoise
  split
  · rw [fireInjection_frame]
    exact ⟨rfl, rfl⟩
  · exact ⟨rfl, rfl⟩

/-- The state in which the failures of a window are counted (R460): `rct` and `apt` say which test failed. -/
def State.countNoise (s : State) (run : Nat × Bool) (rct apt : Bool) : State :=
  let s1 := { (State.fireNoise s).1 with rngRun := run }
  let s2 := if rct || (State.fireNoise s).2 then s1.bump .rngHealth 0 16 else s1
  if apt then s2.bump .rngHealth 16 16 else s2

theorem rngFails_countNoise (s : State) (run : Nat × Bool) (rct apt : Bool) : (State.countNoise s run rct apt).rngFails = s.rngFails := by
  have fails (t : State) (h : t.rngFails = s.rngFails) (c : Bool) (lo : Nat) : (if c then t.bump .rngHealth lo 16 else t).rngFails = s.rngFails := by
    split
    · exact h
    · exact h
  exact fails _ (fails { (State.fireNoise s).1 with rngRun := run } (fireNoise_keeps s).2 (rct || (State.fireNoise s).2) 0) apt 16

section
variable {s : State} (xs : List Bool) (ok : s.rngState = rngOk)
include ok

/-- What a window of samples does to a source that works (R460, R461). -/
theorem exec_noiseWindow : exec (.noiseWindow xs) s = .next (
    let rct := repetition s.rngRun xs
    let apt := proportionFails xs
    let s3 := State.countNoise s rct.1 rct.2 apt
    let s4 : State := { s3.countEvent s3.lowestBay 21 0 ((State.fireNoise s).2 && !rct.2 && !apt) with rngFails := s.rngFails + 1 }
    if rct.2 || apt || (State.fireNoise s).2 then (if 3 ≤ s.rngFails + 1 then s4.rngFail else s4) else { s3 with rngFails := 0 }) := by
  have fails := rngFails_countNoise s (repetition s.rngRun xs).1 (repetition s.rngRun xs).2 (proportionFails xs)
  have counted : exec (.noiseWindow xs) s = if s.rngState ≠ rngOk then .next s else
      let rct := repetition (State.fireNoise s).1.rngRun xs
      let apt := proportionFails xs
      let s3 := State.countNoise s rct.1 rct.2 apt
      let s4 : State := { s3.countEvent s3.lowestBay 21 0 ((State.fireNoise s).2 && !rct.2 && !apt) with rngFails := s3.rngFails + 1 }
      if rct.2 || apt || (State.fireNoise s).2 then .next (if 3 ≤ s3.rngFails + 1 then s4.rngFail else s4) else .next { s3 with rngFails := 0 } := rfl
  rw [(fireNoise_keeps s).1] at counted
  dsimp only at counted ⊢
  rw [fails] at counted
  rw [counted, if_neg (not_not.2 ok)]
  cases ((repetition s.rngRun xs).2 || proportionFails xs || (State.fireNoise s).2) <;> rfl

/-- A window that passes both tests. -/
theorem exec_noiseWindow_of_good (good : ((repetition s.rngRun xs).2 || proportionFails xs || (State.fireNoise s).2) = false) :
    exec (.noiseWindow xs) s = .next { (State.fireNoise s).1 with rngRun := (repetition s.rngRun xs).1, rngFails := 0 } := by
  rw [exec_noiseWindow xs ok]
  dsimp only
  rw [good]
  obtain ⟨tests, fired⟩ := Bool.or_eq_false_iff.1 good
  obtain ⟨rct, apt⟩ := Bool.or_eq_false_iff.1 tests
  rw [State.countNoise, rct, apt, fired]
  rfl

end

section
variable (s : State) (xs : List Bool)

theorem exec_rngStartupTest_of_pass (power : s.powerGood = true) (starts : s.rngState = rngStarting) (pass : startupPasses xs = true) :
    exec (.rngStartupTest xs) s = .next s.rngPass := by
  simp only [exec, execRngStartupTest, power, starts, decide_true, Bool.and_self, Bool.not_true, Bool.false_eq_true, if_false, pass, if_true]

theorem exec_rngStartupTest_of_fail (power : s.powerGood = true) (starts : s.rngState = rngStarting) (fail : startupPasses xs = false) :
    exec (.rngStartupTest xs) s = .next (s.bump .rngHealth 32 16).rngFail := by
  simp only [exec, execRngStartupTest, power, starts, decide_true, Bool.and_self, Bool.not_true, Bool.false_eq_true, if_false, fail]

theorem exec_rngRetry (failed : s.rngState = rngFailed) :
    exec (.rngRetry xs) s = .next (if startupPasses xs then s.rngPass else s.bump .rngHealth 32 16) := by
  simp only [exec, execRngRetry, failed, ne_eq, not_true_eq_false, if_false]
  split <;> rfl

end

/-! ### Levels of error weather (R528) -/

/-- A level that the sum reaches is raised and posted; the one of ACT acts at once or at the pen's boundary. -/
def State.raiseLevel (s : State) (b c sum lv : Nat) : State :=
  let s := s.setFld .errWxCount 48 2 lv (wxKey b c)
  let s := s.postBoth (s.penOfBay b) (263 + lv) 0 ([ef b, ef c, ef sum] ++ (if lv = 3 then [ef (actCode c)] else []))
  if lv = 3 then
    (if (s.job (s.penOfBay b)).isNone then s.actNow b c else { s with actDue := s.actDue ++ [(b, c)] })
  else s

/-- A level is raised where it is above the one in force, enabled and reached. -/
def State.tryLevel (s : State) (t : Word64) (b c sum level lv : Nat) : State :=
  if level < lv ∧ levelThreshold t lv ≠ 0 ∧ levelThreshold t lv ≤ sum then State.raiseLevel s b c sum lv else s

theorem wxRise_eq (s : State) (b c : Nat) : s.wxRise b c = [1, 2, 3].foldl (fun u lv =>
    State.tryLevel u (s.wxThreshold c) b c (s.wxUnits b c).length (s.fld .errWxCount 48 2 (wxKey b c)) lv) s := rfl

theorem tryLevel_of_low {t : Word64} {sum lv : Nat} (h : levelThreshold t lv = 0 ∨ sum < levelThreshold t lv) (s : State) (b c level : Nat) :
    State.tryLevel s t b c sum level lv = s := by
  rw [State.tryLevel, if_neg]
  rintro ⟨_, enabled, reached⟩
  omega

theorem wxRise_of_low (s : State) (b c : Nat) (low : ∀ lv, 1 ≤ lv → lv ≤ 3 → s.fld .errWxCount 48 2 (wxKey b c) < lv →
    levelThreshold (s.wxThreshold c) lv = 0 ∨ (s.wxUnits b c).length < levelThreshold (s.wxThreshold c) lv) : s.wxRise b c = s := by
  have kept (u : State) (lv : Nat) (low' : 1 ≤ lv) (high : lv ≤ 3) : State.tryLevel u (s.wxThreshold c) b c (s.wxUnits b c).length
      (s.fld .errWxCount 48 2 (wxKey b c)) lv = u := by
    by_cases above : s.fld .errWxCount 48 2 (wxKey b c) < lv
    · exact tryLevel_of_low (low lv low' high above) ..
    · exact if_neg fun h => above h.1
  rw [wxRise_eq, List.foldl_cons, List.foldl_cons, List.foldl_cons, List.foldl_nil, kept s 1 (by decide) (by decide),
    kept s 2 (by decide) (by decide), kept s 3 (by decide) (by decide)]

/-- A sum that reaches the first threshold only raises the level to WATCH (R528). -/
theorem wxRise_to_watch (s : State) (b c : Nat) (none_ : s.fld .errWxCount 48 2 (wxKey b c) = 0)
    (enabled : levelThreshold (s.wxThreshold c) 1 ≠ 0) (reached : levelThreshold (s.wxThreshold c) 1 ≤ (s.wxUnits b c).length)
    (warn : levelThreshold (s.wxThreshold c) 2 = 0 ∨ (s.wxUnits b c).length < levelThreshold (s.wxThreshold c) 2)
    (act : levelThreshold (s.wxThreshold c) 3 = 0 ∨ (s.wxUnits b c).length < levelThreshold (s.wxThreshold c) 3) :
    s.wxRise b c = (s.setFld .errWxCount 48 2 1 (wxKey b c)).postBoth (s.penOfBay b) 264 0 [ef b, ef c, ef (s.wxUnits b c).length] := by
  rw [wxRise_eq, List.foldl_cons, List.foldl_cons, List.foldl_cons, List.foldl_nil, tryLevel_of_low act, tryLevel_of_low warn, State.tryLevel,
    if_pos ⟨by omega, enabled, reached⟩]
  rfl

/-! ### A minute of error weather (R527, R528) -/

theorem penOfBay_le (s : State) (b : Nat) : s.penOfBay b ≤ 12 := by
  rw [State.penOfBay]
  cases found : ((List.range 12).map (· + 1)).find? (fun p => (s.pen p).present && (s.pen p).bays.getLsbD b) with
  | none => exact Nat.zero_le 12
  | some p =>
    have mem := List.mem_of_find?_eq_some found
    rw [List.mem_map] at mem
    obtain ⟨q, hq, rfl⟩ := mem
    rw [List.mem_range] at hq
    exact hq

theorem EventsOnly.refreshGrid {s₀ s : State} (h : EventsOnly s₀ s) (p : Nat) : EventsOnly s₀ (s.refreshGrid p) := by
  unfold State.refreshGrid
  split
  · exact (h.setReg ..).setFld ..
  · have shown x := h.setReg .corePenGrid x (p - 1) 0
    exact (((((shown _).setFld ..).ite (shown _))).postPen ..).ite (((shown _).setFld ..).ite (shown _))

/-- The work of weather on one class of a bay: the counts of every class and the thresholds in force stay, and so do the registers that
`K` selects. -/
structure Weathered (K : Nat → Prop) (s t : State) : Prop where
  wx : t.wx = s.wx
  thr : t.wxThr = s.wxThr
  regs : SameRegs K s t

section
variable {K : Nat → Prop} {s₀ s t : State}

theorem Weathered.refl (s : State) : Weathered K s s := ⟨rfl, rfl, .refl s⟩

theorem Weathered.trans (h : Weathered K s₀ s) (h' : Weathered K s t) : Weathered K s₀ t :=
  ⟨h'.wx.trans h.wx, h'.thr.trans h.thr, h.regs.trans h'.regs⟩

theorem Weathered.setFld (h : Weathered K s₀ s) (n : RegName) (lo w v ix fn : Nat) (hk : ¬ K (n.key fn ix)) :
    Weathered K s₀ (s.setFld n lo w v ix fn) := ⟨h.wx, h.thr, h.regs.setFld _ _ _ _ _ _ hk⟩

theorem Weathered.events (h : Weathered K s₀ s) (h' : EventsOnly s t) (regs : SameRegs K s₀ t) : Weathered K s₀ t :=
  ⟨by rw [h'.frame]; exact h.wx, by rw [h'.frame]; exact h.thr, regs⟩

theorem Weathered.retires (h : Weathered K s₀ s) (h' : RetireFrame s t) (regs : SameRegs K s₀ t) : Weathered K s₀ t :=
  ⟨by rw [h'.frame]; exact h.wx, by rw [h'.frame]; exact h.thr, regs⟩

theorem retireFrame_setSite (s : State) (n st la lb yoke : Nat) : RetireFrame s (s.setSite n st la lb yoke) := by
  unfold State.setSite
  exact ((((RetireFrame.refl s).events ((EventsOnly.refl s).setFld ..)).events ((EventsOnly.refl _).setFld ..)).events
    ((EventsOnly.refl _).setFld ..)).events ((EventsOnly.refl _).setFld ..)

theorem retireFrame_retireSite (s : State) (p n det cause : Nat) : RetireFrame s (s.retireSite p n det cause) :=
  (((retireFrame_setSite s n siteRetired 0xFF 0xFF yokeNone).ledgerRetire ..).events ((EventsOnly.refl _).postPen ..)).events
    ((EventsOnly.refl _).post ..)

/-- The registers that weather on a bay writes beside its counts are none of `K`. -/
structure WeatherKeys (b : Nat) (K : Nat → Prop) : Prop where
  act : ¬ K (RegName.key .errBayWx 0 b)
  site : ∀ n, n < 168 → ∀ k, SiteKey n k → ¬ K k
  grid : ∀ p, 1 ≤ p → p ≤ 12 → ∀ k, GridKey p k → ¬ K k

theorem WeatherKeys.posts {b : Nat} (h : WeatherKeys b K) (fn : Nat) (hfn : fn ≤ 12) : ¬ K (RegName.key .hifPenStat 0 fn) :=
  h.grid 1 (by decide) (by decide) _ (.inr (.inr ⟨fn, hfn, rfl⟩))

/-- Without a job no core is lost with a site. -/
theorem hosted_of_idle {p : Nat} (idle : s.job p = none) (n : Nat) : s.hosted p n = [] := by
  have default_ : s.jobD p = {} := congrArg (fun j => j.getD {}) idle
  rw [State.hosted, default_]
  split <;> rfl

theorem Weathered.actSite {b c n : Nat} (h : Weathered K s₀ s) (idle : s.job (s.penOfBay b) = none) (hn : n < 168) (keys : WeatherKeys b K) :
    Weathered K s₀ (s.actSite b c n) := by
  have retired := h.retires (retireFrame_retireSite s (s.penOfBay b) n c 2) (h.regs.retireSite _ _ _ (keys.site n hn))
  unfold State.actSite
  dsimp only
  rw [hosted_of_idle idle, List.foldl_nil, List.foldl_nil]
  split
  · exact retired
  next pen =>
    exact retired.events ((EventsOnly.refl _).refreshGrid _)
      (retired.regs.refreshGrid (keys.grid _ (Nat.pos_of_ne_zero pen) (penOfBay_le s b)))

theorem Weathered.actNow {b c : Nat} (h : Weathered K s₀ s) (hb : b < 12) (idle : s.job (s.penOfBay b) = none) (keys : WeatherKeys b K) :
    Weathered K s₀ (s.actNow b c) := by
  unfold State.actNow
  split
  · split
    next u _ =>
      split
      · exact h
      · exact h.actSite idle (by omega) keys
    · exact h
  · split
    · split
      · exact ⟨h.wx, h.thr, h.regs.onPort ..⟩
      · exact h
    · exact h.setFld _ _ _ _ _ _ keys.act

theorem Weathered.raiseLevel {b c : Nat} (h : Weathered K s₀ s) (sum lv : Nat) (hb : b < 12)
    (count : ¬ K (RegName.key .errWxCount 0 (wxKey b c))) (keys : WeatherKeys b K) : Weathered K s₀ (State.raiseLevel s b c sum lv) := by
  unfold State.raiseLevel
  extract_lets +onlyGivenNames s1 s2
  have h1 : Weathered K s₀ s1 := h.setFld _ _ _ _ _ _ count
  have h2 : Weathered K s₀ s2 := h1.events ((EventsOnly.refl s1).postBoth ..) (h1.regs.postBoth _ _ _ _ keys.posts)
  split
  · split
    next idle => exact h2.actNow hb (Option.isNone_iff_eq_none.1 idle) keys
    · exact ⟨h2.wx, h2.thr, h2.regs.of_regs rfl⟩
  · exact h2

theorem Weathered.wxRise {b c : Nat} (h : Weathered K s₀ s) (hb : b < 12) (count : ¬ K (RegName.key .errWxCount 0 (wxKey b c)))
    (keys : WeatherKeys b K) : Weathered K s₀ (s.wxRise b c) := by
  rw [wxRise_eq]
  refine List.foldlRecOn (motive := Weathered K s₀) _ _ h fun t ht lv _ => ?_
  unfold State.tryLevel
  split
  · exact ht.raiseLevel _ _ hb count keys
  · exact ht

end

/-- The turn of a class of a bay at the end of a minute: its level falls by one below half its threshold, or rises. -/
def State.wxTurn (s : State) (b c : Nat) : State :=
  if c = 0 then s
  else
    let s := s.wxShow b c
    let level := s.fld .errWxCount 48 2 (wxKey b c)
    let thr := levelThreshold (s.wxThreshold c) level
    if level ≠ 0 ∧ 2 * (s.wxUnits b c).length < thr then s.setFld .errWxCount 48 2 (level - 1) (wxKey b c) else s.wxRise b c

theorem wxTick_eq (s : State) : s.wxTick =
    (List.range 12).foldl (fun s b => (List.range 23).foldl (fun s c => State.wxTurn s b c) s) s.wxShift := rfl

theorem weathered_wxTurn {K : Nat → Prop} {s : State} {b c : Nat} (hb : b < 12) (count : ¬ K (RegName.key .errWxCount 0 (wxKey b c)))
    (keys : WeatherKeys b K) : Weathered K s (State.wxTurn s b c) := by
  unfold State.wxTurn
  split
  · exact .refl s
  · extract_lets +onlyGivenNames s1 level thr
    have h1 : Weathered K s s1 := ((Weathered.refl s).setFld _ _ _ _ _ _ count).setFld _ _ _ _ _ _ count
    split
    · exact h1.setFld _ _ _ _ _ _ count
    · exact h1.wxRise hb count keys

/-- The key of the counts of a class of a bay. -/
theorem key_errWxCount (b c : Nat) : RegName.key .errWxCount 0 (wxKey b c) = 0x801000 + 8 * (32 * b + c) := rfl

theorem weatherKeys_count {b : Nat} (hb : b < 12) (b' c' : Nat) : WeatherKeys b (fun k => b' < 12 ∧ c' < 23 ∧ k = RegName.key .errWxCount 0 (wxKey b' c')) := by
  refine ⟨fun h => ?_, fun n hn k hk h => ?_, fun p low high k hk h => ?_⟩
  · obtain ⟨_, _, h⟩ := h
    have : 0x800200 + 8 * b = 0x801000 + 8 * (32 * b' + c') := h
    omega
  · obtain ⟨hb', hc', rfl⟩ := h
    obtain h | h | ⟨fn, hfn, h⟩ := hk
    · have : 0x801000 + 8 * (32 * b' + c') = 0x200000 + 8 * n := h
      omega
    · have : 0x801000 + 8 * (32 * b' + c') = 0x800800 + 8 * n := h
      omega
    · have : 0x801000 + 8 * (32 * b' + c') = 0xC00200 + 8 * fn := h
      omega
  · obtain ⟨hb', hc', rfl⟩ := h
    obtain h | h | ⟨fn, hfn, h⟩ := hk
    · have : 0x801000 + 8 * (32 * b' + c') = 0x200600 + 8 * (p - 1) := h
      omega
    · have : 0x801000 + 8 * (32 * b' + c') = 0x300100 + 8 * (p - 1) := h
      omega
    · have : 0x801000 + 8 * (32 * b' + c') = 0xC00200 + 8 * fn := h
      omega

/-- The registers of the counts of one class of a bay. -/
def CountKey (b c k : Nat) : Prop := b < 12 ∧ c < 23 ∧ k = RegName.key .errWxCount 0 (wxKey b c)

/-- In a fold over different elements the one named `x` comes between steps that all keep `R`. -/
theorem foldl_at {σ α : Type} {R : σ → σ → Prop} (refl : ∀ s, R s s) (trans : ∀ {r s t}, R r s → R s t → R r t) {f : σ → α → σ} {l : List α}
    (nodup : l.Nodup) {x : α} (mem : x ∈ l) (step : ∀ s y, y ∈ l → y ≠ x → R s (f s y)) (s : σ) :
    ∃ u, R s u ∧ R (f u x) (l.foldl f s) := by
  induction l generalizing s with
  | nil => cases mem
  | cons y ys ih =>
    obtain ⟨new, nodup'⟩ := List.nodup_cons.1 nodup
    rw [List.foldl_cons]
    by_cases here : y = x
    · subst here
      refine ⟨s, refl s, List.foldlRecOn (motive := R (f s y)) ys f (refl _) fun t ht z hz => trans ht (step t z (List.mem_cons_of_mem _ hz) ?_)⟩
      rintro rfl
      exact new hz
    · obtain ⟨u, before, after⟩ := ih nodup' ((List.mem_cons.1 mem).resolve_left (Ne.symm here))
        (fun s z hz => step s z (List.mem_cons_of_mem _ hz)) (f s y)
      exact ⟨u, trans (step s y List.mem_cons_self here) before, after⟩

/-- Weather on another class of a bay leaves the counts of this one. -/
theorem weathered_wxTurn_other {b c b' c' : Nat} (hb' : b' < 12) (hc' : c' < 23) (other : b' ≠ b ∨ c' ≠ c) (s : State) :
    Weathered (CountKey b c) s (State.wxTurn s b' c') := by
  refine weathered_wxTurn hb' ?_ (weatherKeys_count hb' b c)
  rintro ⟨_, hc, same⟩
  rw [key_errWxCount, key_errWxCount] at same
  omega

/-- The end of a minute takes each class of each bay once, and the others leave its counts. -/
theorem wxTick_at {b c : Nat} (hb : b < 12) (hc : c < 23) (s : State) :
    ∃ u, Weathered (CountKey b c) s.wxShift u ∧ Weathered (CountKey b c) (State.wxTurn u b c) s.wxTick := by
  rw [wxTick_eq]
  have bays (s : State) (b' : Nat) (hb' : b' ∈ List.range 12) (ne : b' ≠ b) :
      Weathered (CountKey b c) s ((List.range 23).foldl (fun s c => State.wxTurn s b' c) s) :=
    List.foldlRecOn (motive := Weathered (CountKey b c) s) _ _ (.refl s) fun t ht c' hc' =>
      ht.trans (weathered_wxTurn_other (List.mem_range.1 hb') (List.mem_range.1 hc') (.inl ne) t)
  obtain ⟨u, before, after⟩ := foldl_at Weathered.refl Weathered.trans List.nodup_range (List.mem_range.2 hb) bays s.wxShift
  obtain ⟨v, before', after'⟩ := foldl_at (f := fun s c => State.wxTurn s b c) Weathered.refl Weathered.trans List.nodup_range
    (List.mem_range.2 hc) (fun s c' hc' ne => weathered_wxTurn_other hb (List.mem_range.1 hc') (.inr ne) s) u
  exact ⟨v, before.trans before', after'.trans after⟩

theorem wxThr_wxTick (s : State) : s.wxTick.wxThr = s.wxShift.wxThr := by
  rw [wxTick_eq]
  refine List.foldlRecOn (motive := fun t : State => t.wxThr = s.wxShift.wxThr) _ _ rfl fun t ht b hb => ?_
  refine List.foldlRecOn (motive := fun t : State => t.wxThr = s.wxShift.wxThr) _ _ ht fun t ht c _ => ?_
  have hb := List.mem_range.1 hb
  exact (weathered_wxTurn (K := fun _ => False) hb id ⟨id, fun _ _ _ _ => id, fun _ _ _ _ _ => id⟩).thr.trans ht

/-- Thresholds as written take force when a bucket begins (R528). -/
theorem wxThreshold_wxShift (s : State) {c : Nat} (low : 1 ≤ c) (high : c ≤ 22) : s.wxShift.wxThreshold c = s.reg .errWxThresh c := by
  have taken := foldl_at (R := fun m m' : SMap Word64 => SMap.get wxThreshReset m' c = SMap.get wxThreshReset m c)
    (f := fun m c => if c = 0 then m else SMap.set wxThreshReset m c (s.reg .errWxThresh c)) (fun _ => rfl) (fun h h' => h'.trans h)
    List.nodup_range (List.mem_range.2 (show c < 23 by omega)) (fun m c' _ ne => by
      split
      · rfl
      · exact SMap.get_set_ne _ _ _ _ _ (Ne.symm ne)) s.wxThr
  obtain ⟨m, _, after⟩ := taken
  rw [if_neg (by omega), SMap.get_set_self] at after
  exact after

section
variable (s : State)

theorem wxUnits_of_same {t : State} (wx : t.wx = s.wx) (thr : t.wxThr = s.wxThr) (b c : Nat) : t.wxUnits b c = s.wxUnits b c := by
  rw [State.wxUnits, State.wxUnits, State.wxThreshold, State.wxThreshold, wx, thr]

theorem fld_wxShow_level (b c : Nat) : (s.wxShow b c).fld .errWxCount 48 2 (wxKey b c) = s.fld .errWxCount 48 2 (wxKey b c) :=
  (fld_setFld_beside _ .errWxCount _ (wxKey b c) 0 (.inr (by decide))).trans (fld_setFld_beside s .errWxCount _ (wxKey b c) 0 (.inr (by decide)))

/-- A level falls by one when its sum is below half its threshold (R528). -/
theorem wxTick_falls {b c : Nat} (hb : b < 12) (low : 1 ≤ c) (high : c ≤ 22) (some : s.fld .errWxCount 48 2 (wxKey b c) ≠ 0)
    (below : 2 * (s.wxShift.wxUnits b c).length < levelThreshold (s.reg .errWxThresh c) (s.fld .errWxCount 48 2 (wxKey b c))) :
    s.wxTick.fld .errWxCount 48 2 (wxKey b c) = s.fld .errWxCount 48 2 (wxKey b c) - 1 := by
  obtain ⟨u, before, after⟩ := wxTick_at hb (show c < 23 by omega) s
  have key : CountKey b c (RegName.key .errWxCount 0 (wxKey b c)) := ⟨hb, by omega, rfl⟩
  have level : (u.wxShow b c).fld .errWxCount 48 2 (wxKey b c) = s.fld .errWxCount 48 2 (wxKey b c) :=
    (fld_wxShow_level u b c).trans (before.regs.fld _ _ _ _ _ key)
  have units : (u.wxShow b c).wxUnits b c = s.wxShift.wxUnits b c := wxUnits_of_same _ before.wx before.thr b c
  have thr : (u.wxShow b c).wxThreshold c = s.reg .errWxThresh c := by
    rw [← wxThreshold_wxShift s low high]
    exact congrArg (fun m => SMap.get wxThreshReset m c) before.thr
  have turn : State.wxTurn u b c = (u.wxShow b c).setFld .errWxCount 48 2 (s.fld .errWxCount 48 2 (wxKey b c) - 1) (wxKey b c) := by
    rw [State.wxTurn, if_neg (by omega)]
    dsimp only
    rw [level, units, thr, if_pos ⟨some, below⟩]
  have small : s.fld .errWxCount 48 2 (wxKey b c) < 2 ^ 2 := Nat.mod_lt _ (by decide)
  rw [after.regs.fld _ _ _ _ _ key, turn, fld_setFld_of_lt _ _ _ _ (by decide) (by omega)]

end

section
variable (s : State) (xs : List Bool)

/-- What a window and a failure do to a source that works. -/
theorem noiseWindow_part (ok : s.rngState = rngOk) :
    let rct := repetition s.rngRun xs
    let apt := proportionFails xs
    let f := State.fireNoise s
    let s3 := State.countNoise s rct.1 rct.2 apt
    let s4 : State := { s3.countEvent s3.lowestBay 21 0 (f.2 && !rct.2 && !apt) with rngFails := s.rngFails + 1 }
    ((rct.2 || apt || f.2) = false → exec (.noiseWindow xs) s = .next { f.1 with rngRun := rct.1, rngFails := 0 }) ∧
    ((rct.2 || apt || f.2) = true → exec (.noiseWindow xs) s = .next (if 3 ≤ s.rngFails + 1 then s4.rngFail else s4)) ∧
    (s4.rngFail.rngState = rngFailed ∧ s4.rngFail.drbgReady = false ∧ s4.rngFail.fld .rngStatus 3 1 = 1) := by
  dsimp only
  refine ⟨exec_noiseWindow_of_good xs ok, fun bad => ?_, ?_⟩
  · rw [exec_noiseWindow xs ok]
    dsimp only
    rw [bad]
    rfl
  · exact rngFail_shows _

end

/-- Settles O44. -/
theorem weatherInjectionsAndNoise : Obligations.WeatherInjectionsAndNoise := by
  unfold Obligations.WeatherInjectionsAndNoise
  refine ⟨⟨fun s => ⟨_, rfl, rfl, fun c low high => ?_, fun b c hb low high => ?_⟩, wxRise_of_low, fun s b c _ _ _ => wxRise_to_watch s b c,
    fun s fn pf0 => ⟨exec_injArm_of_armed pf0, exec_injArm_of_unknown pf0, exec_injArm_of_absent pf0, exec_injArm_of_testing pf0,
      exec_injArm_of_free pf0, exec_injCancel_of_armed pf0, exec_injCancel_of_free⟩⟩,
    fun s xs => ⟨fun ok => noiseWindow_part s xs ok, fun power starts => ⟨fun pass => ?_, fun fail => ?_⟩, fun failed => ⟨fun pass => ?_, fun fail => ?_⟩⟩⟩
  · rw [State.wxThreshold, wxThr_wxTick, ← State.wxThreshold]
    exact wxThreshold_wxShift s low high
  · exact wxTick_falls s hb low high
  · exact ⟨_, exec_rngStartupTest_of_pass s xs power starts pass, rngPass_shows s⟩
  · obtain ⟨state, ready, _⟩ := rngFail_shows (s.bump .rngHealth 32 16)
    refine ⟨_, exec_rngStartupTest_of_fail s xs power starts fail, state, ready, ?_⟩
    rw [rngHealth_rngFail, fld_bump_self (by decide), Nat.min_comm]
  · refine ⟨_, ?_, rngPass_shows s⟩
    rw [exec_rngRetry s xs failed, pass]
    rfl
  · rw [exec_rngRetry s xs failed, fail]
    rfl

end Sys2Proof.Proofs
end

section
/-!
PROOF. Fences, adoption, replay and tests of sites: while a core that has lost its site takes another, no other core joins those that
wait for one, so the adoption of the only one that waits is the whole adoption.
-/

namespace Sys2Proof.Proofs

open Sys2Proof Sys2Proof.Machine Sys2Proof.Claims

-- Long rows of short lemmas: elaborated in order, as every body that waits for its turn holds the stack of a thread.
set_option Elab.async false

/-! ### The cores that wait for a site -/

/-- Every core of pen `q`'s job that waits for a site is one of `A`. -/
structure Waiting (q : Pen) (A : List (Nat × Nat)) (s : State) : Prop where
  mem : ∀ x ∈ (s.jobD q).adopting, x ∈ A

section

variable {q : Pen} {A : List (Nat × Nat)} {s t : State}

theorem Waiting.of_pens (h : Waiting q A s) (e : t.pens = s.pens := by rfl) : Waiting q A t := by
  constructor
  rw [State.jobD, State.pen, e]
  exact h.mem

theorem Waiting.ite {c : Prop} [Decidable c] (h : Waiting q A s) (h' : Waiting q A t) : Waiting q A (if c then s else t) := by
  split
  · exact h
  · exact h'

theorem Waiting.foldl {α : Type} {l : List α} {f : State → α → State} (h : Waiting q A s)
    (hf : ∀ s a, Waiting q A s → Waiting q A (f s a)) : Waiting q A (l.foldl f s) := by
  induction l generalizing s with
  | nil => exact h
  | cons a l ih => exact ih (hf s a h)

/-- A pen whose job is set waits for what the job waits for. -/
theorem Waiting.setJob {p j} (h : Waiting q A s) (hj : p = q → ∀ x ∈ (j.getD {} : Job).adopting, x ∈ A) : Waiting q A (s.setJob p j) := by
  constructor
  by_cases e : q = p
  · subst e
    rw [State.jobD, State.setJob, pen_onPen_self]
    exact hj rfl
  · rw [State.jobD, State.setJob, pen_onPen_ne _ _ e]
    exact h.mem

/-- A change of the job that adds no core to those that wait. -/
theorem Waiting.onJob {p f} (h : Waiting q A s) (hf : ∀ j : Job, (f j).adopting = j.adopting ∨ (f j).adopting = [] := by exact fun _ => .inl rfl) :
    Waiting q A (s.onJob p f) := by
  by_cases e : q = p
  · subst e
    constructor
    have mem := h.mem
    rw [State.jobD] at mem
    rw [State.jobD, State.onJob, pen_onPen_self]
    dsimp only
    cases hj : (s.pen q).job with
    | none => exact fun x hx => nomatch hx
    | some j =>
      rw [hj] at mem
      rw [Option.map_some, Option.getD_some]
      cases hf j with
      | inl same => exact same ▸ mem
      | inr none =>
        rw [none]
        exact fun x hx => nomatch hx
  · constructor
    rw [State.jobD, State.onJob, pen_onPen_ne _ _ e]
    exact h.mem

theorem Waiting.draw (h : Waiting q A s) : Waiting q A s.draw.2 := h.of_pens

theorem Waiting.setReg {n x ix fn} (h : Waiting q A s) : Waiting q A (s.setReg n x ix fn) := h.of_pens

theorem Waiting.setCore {k c} (h : Waiting q A s) : Waiting q A (s.setCore k c) := h.of_pens

theorem Waiting.setPort {p x} (h : Waiting q A s) : Waiting q A (s.setPort p x) := h.of_pens

theorem Waiting.setBay {b x} (h : Waiting q A s) : Waiting q A (s.setBay b x) := h.of_pens

theorem Waiting.markLine {l p} (h : Waiting q A s) : Waiting q A (s.markLine l p) := h.of_pens

theorem Waiting.setBytes {a bs} (h : Waiting q A s) : Waiting q A (s.setBytes a bs) := h.of_pens

theorem Waiting.setBad {l b} (h : Waiting q A s) : Waiting q A (s.setBad l b) := h.of_pens


theorem Waiting.drawNat {w} (h : Waiting q A s) : Waiting q A (s.drawNat w).2 := h.draw

theorem Waiting.setFld {n lo w v ix fn} (h : Waiting q A s) : Waiting q A (s.setFld n lo w v ix fn) := h.setReg

theorem Waiting.bump {n lo w ix d fn} (h : Waiting q A s) : Waiting q A (s.bump n lo w ix d fn) := h.setFld

theorem Waiting.setFree {n lo w ix} (h : Waiting q A s) : Waiting q A (s.setFree n lo w ix) := h.drawNat.setFld

theorem Waiting.onCore {k f} (h : Waiting q A s) : Waiting q A (s.onCore k f) := h.setCore

theorem Waiting.onPort {p f} (h : Waiting q A s) : Waiting q A (s.onPort p f) := h.setPort

theorem Waiting.onBay {b f} (h : Waiting q A s) : Waiting q A (s.onBay b f) := h.setBay

theorem Waiting.post {fn code step fields} (h : Waiting q A s) : Waiting q A (s.post fn code step fields) := by
  unfold State.post
  extract_lets +onlyGivenNames queue
  split
  · exact h.of_pens
  · exact h.of_pens

theorem Waiting.postBoth {pen code step fields} (h : Waiting q A s) : Waiting q A (s.postBoth pen code step fields) := (h.post.ite h).post

theorem Waiting.postPen {pen code step fields} (h : Waiting q A s) : Waiting q A (s.postPen pen code step fields) := h.post.ite h

theorem Waiting.writeLine {line off bs poison} (h : Waiting q A s) : Waiting q A (s.writeLine line off bs poison) :=
  (h.setBytes.ite h).setBad.setBytes.markLine

theorem Waiting.devWriteAux {n dpa bs poison} (h : Waiting q A s) : Waiting q A (State.devWriteAux n s dpa bs poison) := by
  induction n generalizing s dpa bs with
  | zero => exact h
  | succ n ih => exact h.ite (ih h.writeLine)

theorem Waiting.devWrite {dpa bs poison} (h : Waiting q A s) : Waiting q A (s.devWrite dpa bs poison) := h.devWriteAux

theorem Waiting.touchVa {pen isWrite va} (h : Waiting q A s) : Waiting q A (s.touchVa pen isWrite va) := by
  unfold State.touchVa
  split
  · exact h.onBay
  · exact h

theorem Waiting.vaWriteAux {pen poison n va bs} (h : Waiting q A s) : Waiting q A (State.vaWriteAux pen poison n s va bs) := by
  induction n generalizing s va bs with
  | zero => exact h
  | succ n ih =>
    refine h.ite (ih ?_)
    split
    · exact h.touchVa.writeLine
    · exact h

theorem Waiting.vaWrite {pen va bs poison} (h : Waiting q A s) : Waiting q A (s.vaWrite pen va bs poison) := h.vaWriteAux

theorem Waiting.regionWriteAux {r n off bs} (h : Waiting q A s) : Waiting q A (State.regionWriteAux r n s off bs) := by
  induction n generalizing s off bs with
  | zero => exact h
  | succ n ih => exact h.ite (ih h.devWrite)

theorem Waiting.regionWrite {r off bs} (h : Waiting q A s) : Waiting q A (s.regionWrite r off bs) := h.regionWriteAux

theorem Waiting.writeJournalHeader {pen} (h : Waiting q A s) : Waiting q A (s.writeJournalHeader pen) := by
  unfold State.writeJournalHeader
  split
  · exact h
  · exact h.regionWrite

theorem Waiting.sealRecord {pen st a v} (h : Waiting q A s) : Waiting q A (s.sealRecord pen st a v) := by
  unfold State.sealRecord
  split
  · exact h
  · exact h.regionWrite.setFld

theorem Waiting.endRecord {pen a v} (h : Waiting q A s) : Waiting q A (s.endRecord pen a v) := by
  unfold State.endRecord
  split
  · exact h
  · exact h.regionWrite.ite h

theorem Waiting.rollback {pen a} (h : Waiting q A s) : Waiting q A (s.rollback pen a) := by
  unfold State.rollback
  extract_lets +onlyGivenNames s1 s2
  have h1 : Waiting q A s1 := h.ite h.setFld
  exact (h1.setFld.setFld.ite h1).writeJournalHeader

theorem Waiting.refreshPower {boundary} (h : Waiting q A s) : Waiting q A (s.refreshPower boundary) :=
  (h.of_pens.ite (h.of_pens.ite h)).setFld.setFld.foldl fun _ _ h4 => h4.setReg

theorem adopting_addStatus {bits : Word64} (j : Job) : (j.addStatus bits).adopting = j.adopting ∨ (j.addStatus bits).adopting = [] := by
  unfold Job.addStatus
  refine .inl ?_
  split
  · split
    · rfl
    · rfl
  · rfl

theorem Waiting.orStatus {pen bits} (h : Waiting q A s) : Waiting q A (s.orStatus pen bits) := h.onJob adopting_addStatus

theorem Waiting.postLink {p code fields} (h : Waiting q A s) : Waiting q A (s.postLink p code fields) := h.postBoth

theorem Waiting.routeMissing {pen dev} (h : Waiting q A s) : Waiting q A (s.routeMissing pen dev) :=
  h.postLink.onJob fun j => by
    extract_lets +onlyGivenNames j1
    split
    · exact adopting_addStatus j
    · exact adopting_addStatus j

theorem Waiting.queueMsg {pen dev m} (h : Waiting q A s) : Waiting q A (s.queueMsg pen dev m) := by
  unfold State.queueMsg
  split
  · exact h
  · split
    · exact h.routeMissing
    · exact h.onPort

theorem Waiting.sendVote {pen rank line} (h : Waiting q A s) : Waiting q A (s.sendVote pen rank line) := by
  unfold State.sendVote
  split
  · exact h
  · exact h.queueMsg

theorem Waiting.stopUnits {pen} (h : Waiting q A s) : Waiting q A (s.stopUnits pen) := (h.foldl fun _ _ h1 => h1.onCore).of_pens

theorem Waiting.purgePorts {pen tag} (h : Waiting q A s) : Waiting q A (s.purgePorts pen tag) := h.foldl fun _ _ h1 => h1.onPort

theorem Waiting.purgeOwnData {pen} (h : Waiting q A s) : Waiting q A (s.purgeOwnData pen) := h.foldl fun _ _ h1 => h1.onPort

theorem Waiting.onGroups {pen f} (h : Waiting q A s) : Waiting q A (s.onGroups pen f) := h.onJob

theorem Waiting.importedReg {pen} (h : Waiting q A s) : Waiting q A (s.importedReg pen) := h.setFld

theorem Waiting.replayReg (h : Waiting q A s) : Waiting q A s.replayReg := h.setFld

theorem Waiting.jobRegs {pen} (h : Waiting q A s) : Waiting q A (s.jobRegs pen) := by
  unfold State.jobRegs
  split
  · exact h
  · extract_lets +onlyGivenNames s1 s2 s3 s4
    have h4 : Waiting q A s4 := (h.importedReg.ite h).setFld.setFld.setFld
    split
    · exact h4.setFld
    · exact h4

theorem Waiting.postCkptDone {pen step status bytes id} (h : Waiting q A s) : Waiting q A (s.postCkptDone pen step status bytes id) :=
  h.postPen.setFld

theorem Waiting.jobEnd {pen cause fields a status} (h : Waiting q A s) : Waiting q A (s.jobEnd pen cause fields a status) := by
  unfold State.jobEnd
  split
  · exact h
  · extract_lets +onlyGivenNames s1 s2 step s3 s4 s5 s6 s7 s8 s9 s10 s11 s12
    have h1 : Waiting q A s1 := h.stopUnits
    have h2 : Waiting q A s2 := by
      unfold s2
      split
      · exact h1.endRecord
      · exact h1
    have h3 : Waiting q A s3 := by
      unfold s3
      split
      · exact h2.postCkptDone.setFld
      · exact h2
    have h5 : Waiting q A s5 := by
      unfold s5
      refine h3.purgePorts.foldl ?_
      intro _ _ h5
      split
      · exact h5.ite h5.setFld.writeJournalHeader
      · exact h5
    exact (h5.onJob fun _ => .inr rfl).setFld.setFld.setFld.setFld.setFld.postBoth.replayReg.refreshPower

theorem Waiting.raiseGate {pen} (h : Waiting q A s) : Waiting q A (s.raiseGate pen) := by
  unfold State.raiseGate
  split
  · exact h
  · split
    · exact (h.foldl fun _ _ h1 => h1.onCore).onJob.ite h
    · exact h

theorem Waiting.setTimers {pen a} (h : Waiting q A s) : Waiting q A (s.setTimers pen a) := by
  unfold State.setTimers
  refine h.foldl ?_
  intro _ _ h1
  split
  · exact h1.setReg
  · exact h1.setFree

theorem Waiting.remoteWrite {pen dev va bs} (h : Waiting q A s) : Waiting q A (s.remoteWrite pen dev va bs) :=
  h.foldl fun _ _ h1 => h1.queueMsg

theorem Waiting.snapWrite {pen sn off bs} (h : Waiting q A s) : Waiting q A (s.snapWrite pen sn off bs) := by
  unfold State.snapWrite
  split
  · exact h.vaWrite
  · exact h.remoteWrite

theorem Waiting.snapOutcome {pen st a v} (h : Waiting q A s) : Waiting q A (s.snapOutcome pen st a v) := by
  unfold State.snapOutcome
  split
  · exact h
  · split
    · exact h
    · refine .ite ?_ h
      extract_lets +onlyGivenNames s1
      have h1 : Waiting q A s1 := h.snapWrite
      exact h1.onJob.setReg.ite h1.onJob.setReg

theorem Waiting.discardRunAhead {pen afterSkip} (h : Waiting q A s) : Waiting q A (s.discardRunAhead pen afterSkip) := by
  unfold State.discardRunAhead
  split
  · exact h
  · split
    · exact h
    · extract_lets +onlyGivenNames s1 s2 s3 s4
      have h3 : Waiting q A s3 := h.stopUnits.purgeOwnData.onGroups.rollback.setFree.setFld
      exact (h3.bump.ite h3).onJob

theorem Waiting.keepFigures {pen} (h : Waiting q A s) : Waiting q A (s.keepFigures pen) := h.onGroups.onJob

theorem Waiting.stepFigures {pen} (h : Waiting q A s) : Waiting q A (s.stepFigures pen) :=
  (((h.ite h.keepFigures).foldl fun _ _ h2 => h2.setReg.setReg.setReg).foldl fun _ _ h3 => h3.setFld).setFree.setFree.onJob

theorem adopting_dropVoting (j : Job) : (dropVoting j).adopting = j.adopting := by
  unfold dropVoting
  split
  · rfl
  · rfl

theorem adopting_onVoting (j : Job) (f : Attempt → Attempt) : (onVoting j f).adopting = j.adopting := by
  unfold onVoting
  split
  · rfl
  · rfl

theorem Waiting.decideStep {pen a} (h : Waiting q A s) : Waiting q A (s.decideStep pen a) :=
  h.onJob fun j => .inl (adopting_dropVoting j)

theorem Waiting.applyCap {pen a v} (h : Waiting q A s) : Waiting q A (s.applyCap pen a v) :=
  h.setTimers.setFld.sealRecord.snapOutcome.stepFigures.decideStep.onJob.raiseGate.setFld.postPen.jobRegs

theorem Waiting.applySkip {pen a v} (h : Waiting q A s) : Waiting q A (s.applySkip pen a v) := by
  unfold State.applySkip
  extract_lets +onlyGivenNames ahead s1 s2 s3 s4 s5 s6
  have h2 : Waiting q A s2 := h.setTimers.sealRecord.snapOutcome.stepFigures
  have h3 : Waiting q A s3 := h2.discardRunAhead.ite h2
  exact (h3.onJob.ite (h3.onJob fun j => .inl (adopting_dropVoting j))).onJob.setFld.postPen.jobRegs

theorem Waiting.applyRewind {pen a v} (h : Waiting q A s) : Waiting q A (s.applyRewind pen a v) := by
  unfold State.applyRewind
  split
  · exact h
  · refine .ite h.jobEnd ?_
    extract_lets +onlyGivenNames s1 ahead s2 s3 s4 s5 s6 s7
    have h1 : Waiting q A s1 := h.postBoth
    exact (h1.discardRunAhead.ite h1).stopUnits.purgeOwnData.onGroups.rollback.setFld.bump.onJob.setFld.setFld.jobRegs

theorem Waiting.applyOutcome {pen v} (h : Waiting q A s) : Waiting q A (s.applyOutcome pen v) := by
  unfold State.applyOutcome
  split
  · exact h
  · split
    · exact h
    · extract_lets +onlyGivenNames s1 s2 s3 has
      have h3 : Waiting q A s3 := h.setReg.setFld.setFld
      exact (h3.drawNat.jobEnd.ite h3.jobEnd).ite (h3.postBoth.jobEnd.ite (h3.applyRewind.ite (h3.applySkip.ite h3.applyCap)))

theorem Waiting.forwardOutcome {pen j line} (h : Waiting q A s) : Waiting q A (s.forwardOutcome pen j line) :=
  h.foldl fun _ _ h1 => h1.sendVote

theorem Waiting.voteOnce {pen} (h : Waiting q A s) : Waiting q A (s.voteOnce pen) := by
  unfold State.voteOnce
  split
  · exact h
  · split
    · exact h
    · exact (h.forwardOutcome.applyOutcome.ite (h.sendVote.onJob fun j => .inl (adopting_onVoting j _))).ite h

theorem Waiting.voteMove {pen} (h : Waiting q A s) : Waiting q A (s.voteMove pen) := h.voteOnce.voteOnce

theorem Waiting.sendWord {pen} (h : Waiting q A s) : Waiting q A (s.sendWord pen) := h.onJob.voteMove

theorem Waiting.terminal {pen cause fields} (h : Waiting q A s) : Waiting q A (s.terminal pen cause fields) := by
  unfold State.terminal
  split
  · exact h
  · next j hj =>
    extract_lets +onlyGivenNames j1 s1
    have h1 : Waiting q A s1 := by
      refine h.setJob ?_
      rintro rfl
      have mem := h.mem
      rw [jobD_of_some hj] at mem
      unfold j1
      split
      · exact mem
      · exact mem
    split
    · exact h1.jobEnd
    · exact h1.onJob
    · exact h1.onJob.ite h1.orStatus.stopUnits.sendWord

theorem Waiting.setSite {n st la lb yoke} (h : Waiting q A s) : Waiting q A (s.setSite n st la lb yoke) := h.setFld.setFld.setFld.setFld

theorem Waiting.hostCore {p l sites dbl} (h : Waiting q A s) : Waiting q A (s.hostCore p l sites dbl) :=
  (h.foldl fun _ _ h1 => (h1.setSite.ite h1.setSite).bump).onJob

theorem Waiting.adoptOn {p l oldSite sites dbl} (h : Waiting q A s) : Waiting q A (s.adoptOn p l oldSite sites dbl) := by
  unfold State.adoptOn
  extract_lets +onlyGivenNames j
  refine .ite h.terminal ?_
  extract_lets +onlyGivenNames s1 s2 s3
  have h2 : Waiting q A s2 := h.hostCore.postPen
  have h3 : Waiting q A s3 := h2.postPen.ite h2
  split
  · exact h3
  · exact h3.hostCore.postPen

theorem Waiting.adopt {p l oldSite} (h : Waiting q A s) : Waiting q A (s.adopt p l oldSite) := by
  unfold State.adopt
  extract_lets +onlyGivenNames j
  refine .ite h ?_
  refine .ite h ?_
  split
  · exact h.adoptOn
  · split
    · exact h.adoptOn
    · exact h.postPen.terminal


/-- A logical core takes a site, when it waits for one (R511). -/
def State.adoptNext (pen : Pen) (s : State) (l : Nat) : State :=
  match (s.jobD pen).adopting.find? (fun x => decide (x.1 = l)) with
  | some x => if (s.job pen).isSome then s.adopt pen x.1 x.2 else s
  | none => s

theorem Waiting.adoptNext {l : Nat} (h : Waiting q A s) : Waiting q A (State.adoptNext q s l) := by
  unfold State.adoptNext
  split
  · exact h.adopt.ite h
  · exact h

/-- A core that does not wait takes no site. -/
theorem adoptNext_of_other {l n l' : Nat} (h : Waiting q [(l, n)] s) (other : l' ≠ l) : State.adoptNext q s l' = s := by
  have none : (s.jobD q).adopting.find? (fun x => decide (x.1 = l')) = none := by
    refine List.find?_eq_none.2 fun x hx => ?_
    obtain rfl := List.mem_singleton.1 (h.mem x hx)
    rw [decide_eq_true_eq]
    exact other.symm
  unfold State.adoptNext
  rw [none]

theorem adoptNext_of_only {j : Job} {l n : Nat} (hj : s.job q = some j) (only : j.adopting = [(l, n)]) :
    State.adoptNext q s l = s.adopt q l n := by
  have found : (s.jobD q).adopting.find? (fun x => decide (x.1 = l)) = some (l, n) := by
    rw [jobD_of_some hj, only]
    exact List.find?_cons_of_pos (decide_eq_true rfl)
  unfold State.adoptNext
  rw [found]
  exact if_pos (by rw [hj]; rfl)

/-- Where one core waits for a site, its adoption is all that the adoptions do. -/
theorem foldl_adoptNext_of_only {j : Job} {l n : Nat} (hj : s.job q = some j) (only : j.adopting = [(l, n)]) (hl : l < 144) :
    (List.range 144).foldl (State.adoptNext q) s = s.adopt q l n := by
  have waits : Waiting q [(l, n)] s := ⟨fun x hx => by rwa [jobD_of_some hj, only] at hx⟩
  obtain ⟨u, before, after⟩ := foldl_at (R := fun s t => Waiting q [(l, n)] s → t = s) (fun _ _ => rfl)
    (fun rs st h => (st (by rw [rs h]; exact h)).trans (rs h)) (List.nodup_range (n := 144)) (List.mem_range.2 hl)
    (fun s l' _ other h => adoptNext_of_other h other) s
  obtain rfl := before waits
  rw [after waits.adoptNext, adoptNext_of_only hj only]

theorem exec_adoptionDone {j : Job} (hj : s.job q = some j) (some : j.adopting ≠ []) : exec (.adoptionDone q) s =
    .next ((((List.range 144).foldl (State.adoptNext q) s).onJob q (fun j => { j with adopting := [] })).refreshGrid q) := by
  simp only [exec, execAdoptionDone]
  rw [hj]
  exact if_neg (by rwa [List.isEmpty_iff])

theorem adopting_refreshGrid (s : State) (p : Pen) : ((s.refreshGrid p).jobD p).adopting = (s.jobD p).adopting := by
  rw [((EventsOnly.refl s).refreshGrid p).frame]
  rfl

theorem adopting_onJob_nil (s : State) (p : Pen) : ((s.onJob p (fun j => { j with adopting := [] })).jobD p).adopting = [] := by
  rw [State.jobD, State.onJob, pen_onPen_self]
  dsimp only
  cases (s.pen p).job with
  | none => rfl
  | some j => rfl

/-! ### Injections -/

/-- The state in which an injection has fired once more (R531). -/
def State.firedOnce (s : State) (i : Injection) : State :=
  (s.bump .injCtl 16 16).postBoth (s.penOfBay i.bay) 267 0 [ef i.detector, ef i.unit, ef (i.left - 1)]

theorem eventsOnly_firedOnce (s : State) (i : Injection) : EventsOnly s (State.firedOnce s i) := ((EventsOnly.refl s).bump ..).postBoth ..

theorem fireInjection_of_other {i : Injection} {det b u : Nat} (hi : s.injection = some i) (other : ¬ (i.detector = det ∧ i.bay = b ∧ i.unit = u)) :
    s.fireInjection det b u = (s, false) := by
  unfold State.fireInjection
  rw [hi]
  exact if_neg other

theorem fireInjection_of_last {i : Injection} (hi : s.injection = some i) (last : i.left ≤ 1) : s.fireInjection i.detector i.bay i.unit =
    (({ State.firedOnce s i with injection := none }.setFld .injCtl 0 1 0).setFld .injCtl 8 8 0, true) := by
  unfold State.fireInjection
  rw [hi]
  exact (if_pos ⟨rfl, rfl, rfl⟩).trans (if_pos (Nat.sub_eq_zero_of_le last))

theorem fireInjection_of_more {i : Injection} (hi : s.injection = some i) (more : ¬ i.left ≤ 1) : s.fireInjection i.detector i.bay i.unit =
    ({ State.firedOnce s i with injection := some { i with left := i.left - 1 } }, true) := by
  unfold State.fireInjection
  rw [hi]
  exact (if_pos ⟨rfl, rfl, rfl⟩).trans (if_neg (by omega))

theorem fld_firedOnce (s : State) (i : Injection) :
    (State.firedOnce s i).fld .injCtl 16 16 = min (2 ^ 16 - 1) (s.fld .injCtl 16 16 + 1) := by
  refine (((SameRegs.refl (K := fun k => k = RegName.key .injCtl 0 0) (s.bump .injCtl 16 16)).postBoth _ _ _ _ fun fn hfn => ?_).fld .injCtl 16 16 0 0
    rfl).trans (fld_bump_self (by decide))
  show ¬ 0xC00200 + 8 * fn = 0x900008 + 8 * 0
  omega

theorem fireInjection_fires {i : Injection} (hi : s.injection = some i) : ∃ t, s.fireInjection i.detector i.bay i.unit = (t, true) ∧
    t = { s with regs := t.regs, evq := t.evq, evLost := t.evLost, injection := if i.left ≤ 1 then none else some { i with left := i.left - 1 } } ∧
    t.fld .injCtl 16 16 = min (2 ^ 16 - 1) (s.fld .injCtl 16 16 + 1) ∧ (i.left ≤ 1 → t.fld .injCtl 0 1 = 0 ∧ t.fld .injCtl 8 8 = 0) := by
  have frame := (eventsOnly_firedOnce s i).frame
  have count := fld_firedOnce s i
  by_cases last : i.left ≤ 1
  · refine ⟨_, fireInjection_of_last hi last, ?_, ?_, fun _ => ⟨?_, fld_setFld_of_lt _ _ _ _ (by decide) (by decide)⟩⟩
    · rw [if_pos last, frame]
      rfl
    · rw [fld_setFld_beside _ _ _ _ _ (by decide), fld_setFld_beside _ _ _ _ _ (by decide)]
      exact count
    · rw [fld_setFld_beside _ _ _ _ _ (by decide)]
      exact fld_setFld_of_lt _ _ _ _ (by decide) (by decide)
  · refine ⟨_, fireInjection_of_more hi last, ?_, count, fun h => absurd h last⟩
    rw [if_neg last, frame]

/-! ### Field tests -/

/-- The state in which the test of a site of pen `p` is recorded as passed (R524). -/
def State.testPassed (s : State) (p n ms : Nat) : State :=
  ((((s.setFld .errSiteTest 0 2 1 n).setFld .errSiteTest 16 16 (min 65535 ms) n).bump .errSiteTest 32 16 n).postPen p 261 0
    [ef n, ef (s.packSeq n), ef ms]).post 0 261 0 [ef n, ef (s.packSeq n), ef ms]

/-- A site that passed returns to service: idle outside a pen, a spare of a pen without a job, and else at the boundary (R524). -/
def State.siteReturned (s : State) (p n : Nat) : State :=
  if p = 0 then s.setSite n siteIdle 0xFF 0xFF yokeNone
  else if (s.job p).isNone then s.setSite n siteSpare 0xFF 0xFF yokeNone
  else s

theorem exec_siteTestResult {n pat ms : Nat} {pass : Bool} (hn : n < 168) (under : s.site n = siteUnderTest) (runs : s.fld .errSiteTest 0 2 n = 3) :
    exec (.siteTestResult n pass pat ms) s =
      let p := s.penOfBay (bayOfSite n)
      let t := if pass then State.siteReturned (State.testPassed s p n ms) p n else s.testFail p n pat ms false
      .next (if p = 0 then t.refreshPower else t.refreshGrid p) := by
  simp only [exec, execSiteTestResult]
  rw [under, runs, decide_eq_true hn]
  rfl

/-- The registers that show a site and its test. -/
def ShownKey (n k : Nat) : Prop := k = RegName.key .errSiteTest 0 n ∨ k = RegName.key .coreSiteState 0 n

theorem shownKey_lt {n k : Nat} (hn : n < 168) (h : ShownKey n k) : k < 0x200600 ∨ 0x800000 ≤ k ∧ k < 0x900000 := by
  obtain rfl | rfl := h
  · rw [key_errSiteTest]
    omega
  · rw [key_coreSiteState]
    omega

theorem shownKey_posts {n : Nat} (hn : n < 168) (fn : Nat) : ¬ ShownKey n (RegName.key .hifPenStat 0 fn) := fun h => by
  have := shownKey_lt hn h
  rw [key_hifPenStat] at this
  omega

theorem sameRegs_siteReturned {n : Nat} (s : State) (p : Nat) :
    SameRegs (fun k => k = RegName.key .errSiteTest 0 n) s (State.siteReturned s p n) := by
  have apart : ¬ RegName.key .coreSiteState 0 n = RegName.key .errSiteTest 0 n := by
    rw [key_coreSiteState, key_errSiteTest]
    omega
  exact ((SameRegs.refl s).setSite _ _ _ _ apart).ite (((SameRegs.refl s).setSite _ _ _ _ apart).ite (.refl s))

theorem site_siteReturned (s : State) (p n : Nat) : (State.siteReturned s p n).site n =
    if p = 0 then siteIdle else if s.job p = none then siteSpare else s.site n := by
  unfold State.siteReturned
  split
  · exact site_setSite ..
  · cases s.job p with
    | none => exact site_setSite ..
    | some j => rfl

theorem sameRegs_refreshed {n : Nat} (hn : n < 168) (s : State) {p : Nat} (hp : p ≤ 12) :
    SameRegs (ShownKey n) s (if p = 0 then s.refreshPower else s.refreshGrid p) := by
  split
  · exact (SameRegs.refl s).refreshPower _ fun k power shown => not_powerKey_of_lt (by have := shownKey_lt hn shown; omega) power
  · refine (SameRegs.refl s).refreshGrid fun k grid shown => ?_
    obtain rfl | rfl | ⟨fn, _, rfl⟩ := grid
    · have := shownKey_lt hn shown
      have key : RegName.key .corePenGrid 0 (p - 1) = 0x200600 + 8 * (p - 1) := rfl
      omega
    · have := shownKey_lt hn shown
      have key : RegName.key .netPenSlot 0 (p - 1) = 0x300100 + 8 * (p - 1) := rfl
      omega
    · exact shownKey_posts hn fn shown

/-- A test that passes shows PASS, its time and one test more. -/
theorem testPassed_shows {n : Nat} (hn : n < 168) (s : State) (p ms : Nat) :
    (State.testPassed s p n ms).fld .errSiteTest 0 2 n = 1 ∧ (State.testPassed s p n ms).fld .errSiteTest 16 16 n = min 65535 ms ∧
      (State.testPassed s p n ms).fld .errSiteTest 32 16 n = min (2 ^ 16 - 1) (s.fld .errSiteTest 32 16 n + 1) := by
  have posted : SameRegs (ShownKey n)
      (((s.setFld .errSiteTest 0 2 1 n).setFld .errSiteTest 16 16 (min 65535 ms) n).bump .errSiteTest 32 16 n) (State.testPassed s p n ms) :=
    ((SameRegs.refl _).postPen _ _ _ _ fun fn _ => shownKey_posts hn fn).post _ _ _ _ (shownKey_posts hn 0)
  have shown (lo w : Nat) := posted.fld .errSiteTest lo w n 0 (.inl rfl)
  refine ⟨?_, ?_, ?_⟩
  · rw [shown, fld_bump_beside (by decide), fld_setFld_beside _ _ _ _ _ (by decide)]
    exact fld_setFld_of_lt _ _ _ _ (by decide) (by decide)
  · rw [shown, fld_bump_beside (by decide)]
    exact fld_setFld_of_lt _ _ _ _ (by decide) (by omega)
  · rw [shown, fld_bump_self (by decide), fld_setFld_beside _ _ _ _ _ (by decide), fld_setFld_beside _ _ _ _ _ (by decide)]

theorem site_testPassed {n : Nat} (hn : n < 168) (s : State) (p ms : Nat) : (State.testPassed s p n ms).site n = s.site n := by
  unfold State.testPassed
  rw [site_post _ hn, site_postPen _ hn, State.bump, site_setFld_errSiteTest _ hn, site_setFld_errSiteTest _ hn, site_setFld_errSiteTest _ hn]

theorem job_testPassed (s : State) (p n ms : Nat) : (State.testPassed s p n ms).job p = s.job p := by
  have frame : EventsOnly s (State.testPassed s p n ms) :=
    (((((EventsOnly.refl s).setFld ..).setFld ..).bump ..).postPen ..).post ..
  rw [frame.frame]
  rfl

theorem siteTestPass_part (s : State) (n pat ms : Nat) (hn : n < 168) (under : s.site n = siteUnderTest) (runs : s.fld .errSiteTest 0 2 n = 3) :
    ∃ t, exec (.siteTestResult n true pat ms) s = .next t ∧ t.fld .errSiteTest 0 2 n = 1 ∧ t.fld .errSiteTest 16 16 n = min 65535 ms ∧
      t.fld .errSiteTest 32 16 n = min (2 ^ 16 - 1) (s.fld .errSiteTest 32 16 n + 1) ∧
      t.site n = (if s.penOfBay (bayOfSite n) = 0 then siteIdle
        else if s.job (s.penOfBay (bayOfSite n)) = none then siteSpare else siteUnderTest) := by
  have result := exec_siteTestResult (pat := pat) (ms := ms) (pass := true) hn under runs
  have hp := penOfBay_le s (bayOfSite n)
  revert result hp
  generalize s.penOfBay (bayOfSite n) = p
  intro result hp
  have refreshed := sameRegs_refreshed hn (State.siteReturned (State.testPassed s p n ms) p n) hp
  have shown (lo w : Nat) := (refreshed.fld .errSiteTest lo w n 0 (.inl rfl)).trans
    ((sameRegs_siteReturned (State.testPassed s p n ms) p).fld .errSiteTest lo w n 0 rfl)
  have site := (refreshed.fld .coreSiteState 0 4 n 0 (.inr rfl)).trans (site_siteReturned (State.testPassed s p n ms) p n)
  rw [site_testPassed hn, job_testPassed, under] at site
  obtain ⟨status, time, count⟩ := testPassed_shows hn s p ms
  exact ⟨_, result, (shown 0 2).trans status, (shown 16 16).trans time, (shown 32 16).trans count, site⟩

/-! ### The other detectors -/

theorem drawNat_whole (s : State) : ef (s.drawNat 64).1 = .w (Config.freeBits s.fresh) := by
  have whole : (s.drawNat 64).1 = (Config.freeBits s.fresh).toNat := Nat.mod_eq_of_lt (Config.freeBits s.fresh).isLt
  rw [whole, ef, BitVec.ofNat_toNat, BitVec.setWidth_eq]

theorem siteFence_part (s : State) (n det : Nat) (serves : s.inService n = true) (pen : s.penOfBay (bayOfSite n) ≠ 0) :
    let p := s.penOfBay (bayOfSite n)
    let f := s.fireInjection det (bayOfSite n) (n % 14)
    let s1 := f.1.countEvent (bayOfSite n) det (n % 14) f.2
    let s2 := if det = 5 ∨ det = 8 then s1.silentError det (bayOfSite n) 0 p n else s1
    (2 ≤ det → det ≤ 8 → exec (.siteFence n det) s = .next (s2.fenceSites p det (s2.fenceSet n))) ∧
    (det = 22 → f.2 = true → exec (.siteFence n det) s =
      .next (((f.1.fenceSites p 22 (f.1.fenceSet n)).testFail p n 0 0 true).refreshPower)) ∧
    (det = 22 → f.2 = false → exec (.siteFence n det) s = .next s) := by
  have here : ¬ (!s.inService n || decide (s.penOfBay (bayOfSite n) = 0)) = true := by
    rw [serves, decide_eq_false pen]
    decide
  intro p f s1 s2
  simp only [exec, execSiteFence]
  rw [if_neg here]
  refine ⟨fun low high => ?_, ?_, ?_⟩
  · exact if_pos (by rw [fencing, decide_eq_true low, decide_eq_true high]; rfl)
  · rintro rfl fired
    exact (if_neg (by decide)).trans (if_pos ⟨rfl, fired⟩)
  · rintro rfl still
    refine (if_neg (by decide)).trans (if_neg fun h => ?_)
    exact absurd h.2 (Bool.eq_false_iff.1 still)

theorem faultDetect_part (s : State) (b : Fin 12) (det : Nat) (dev : BitVec 16) :
    let f := match s.injection with
      | some i => if i.bay = b.val then s.fireInjection det b.val i.unit else (s, false)
      | none => (s, false)
    let s1 := f.1.countEvent b.val det 0 f.2
    let p := s.penOfBay b.val
    (det = 1 → exec (.faultDetect b det dev) s = .next s1) ∧
    (det = 9 ∨ det = 10 ∨ det = 16 → exec (.faultDetect b det dev) s = .next (s1.orStatus p stFault)) ∧
    (det = 17 → exec (.faultDetect b det dev) s = .next ((s1.silentError 17 b.val dev.toNat p dev.toNat).orStatus p stDigest)) ∧
    (det = 18 → exec (.faultDetect b det dev) s = .next ((s1.silentError 18 b.val dev.toNat p dev.toNat).orStatus p stFault)) := by
  intro f s1 p
  refine ⟨?_, ?_, ?_, ?_⟩
  · rintro rfl
    rfl
  · rintro (rfl | rfl | rfl)
    · rfl
    · rfl
    · rfl
  · rintro rfl
    rfl
  · rintro rfl
    rfl

end

/-- Settles O43. -/
theorem faultsFenceReplayAndTest : Obligations.FaultsFenceReplayAndTest := by
  unfold Obligations.FaultsFenceReplayAndTest
  refine ⟨siteFence_part, fun s n => ⟨fun wide => if_pos wide, fun single => if_neg single⟩,
    fun s det b u => ⟨fun none => fireInjection_of_none none .., fun i hi other => fireInjection_of_other hi other, ?_⟩,
    fun s pen j hj => ⟨fun none => ?_, fun some => ?_, fun l n only hl => ?_⟩, fun s pen j a hj hcur run phase => ?_, faultDetect_part,
    fun s pen l n c hn hc => ?_,
    fun s n pat ms hn under runs => ⟨siteTestPass_part s n pat ms hn under runs, exec_siteTestResult hn under runs⟩⟩
  · rintro i hi rfl rfl rfl
    exact fireInjection_fires hi
  · simp only [exec, execAdoptionDone]
    rw [hj]
    exact if_pos (by rw [none]; rfl)
  · exact ⟨_, exec_adoptionDone hj some, (adopting_refreshGrid ..).trans (adopting_onJob_nil ..)⟩
  · rw [exec_adoptionDone hj (by rw [only]; exact List.cons_ne_nil _ _), foldl_adoptNext_of_only hj only hl]
  · simp only [exec, execReplayDone]
    rw [hj]
    dsimp only
    rw [hcur]
    dsimp only
    rw [if_pos ⟨run, phase⟩, drawNat_whole]
    rfl
  · simp only [exec, execYokeCheckMismatch]
    rw [hn, hc]

end Sys2Proof.Proofs
end

section
/-!
PROOF. Rings and BAR4: enabling, doorbells, fetches, completions, events and interrupts, and the accesses of BAR4, each from what one
completion entry writes and which registers it shows.
-/

namespace Sys2Proof.Proofs

open Sys2Proof Sys2Proof.Machine Sys2Proof.Claims

section

variable {s : State} {fn : Func} {ring : Ring}

/-! ### Enabling and doorbells -/

/-- A ring may be enabled with this size and these bases (R620). -/
def State.ringLegal (s : State) (r : Nat) : Prop :=
  1 ≤ s.fld .hifRingCtl 1 5 r ∧ s.fld .hifRingCtl 1 5 r ≤ 16 ∧ (s.reg .hifRingCmdBase r).toNat % 4096 = 0 ∧
    (s.reg .hifRingCplBase r).toNat % 4096 = 0

/-- The state in which a ring is enabled, both indices at 0 (R620). -/
def State.ringEnabled (s : State) (r : Nat) : State := ((s.setReg .hifRingStat 0#64 r).setFld .hifRingCtl 0 1 1 r).setRing r {}

theorem enableRing_of_legal {r : Nat} (ready : s.atReady = true) (legal : State.ringLegal s r) : s.enableRing r = State.ringEnabled s r := by
  obtain ⟨low, high, cmd, cpl⟩ := legal
  unfold State.enableRing
  extract_lets +onlyGivenNames size
  rw [if_neg (by rw [ready]; decide)]
  refine if_neg ?_
  omega

theorem enableRing_of_illegal {r : Nat} (ready : s.atReady = true) (illegal : ¬ State.ringLegal s r) :
    s.enableRing r = s.setFld .hifRingCtl 20 1 1 r := by
  unfold State.enableRing
  extract_lets +onlyGivenNames size
  rw [if_neg (by rw [ready]; decide)]
  refine if_pos ?_
  unfold State.ringLegal at illegal
  omega

theorem enableRing_of_not_ready {r : Nat} (busy : s.atReady = false) : s.enableRing r = s := by
  unfold State.enableRing
  extract_lets +onlyGivenNames size
  exact if_pos (by rw [busy]; rfl)

theorem key_hifRingStat (fn ix : Nat) : RegName.key .hifRingStat fn ix = 0xC10018 + 32 * ix := rfl

theorem key_hifRingCtl (fn ix : Nat) : RegName.key .hifRingCtl fn ix = 0xC10010 + 32 * ix := rfl

theorem key_hifRingCplBase (fn ix : Nat) : RegName.key .hifRingCplBase fn ix = 0xC10008 + 32 * ix := rfl

theorem ringStat_apart_ctl (r q : Nat) : RegName.key .hifRingStat 0 r ≠ RegName.key .hifRingCtl 0 q := by
  rw [key_hifRingStat, key_hifRingCtl]
  omega

theorem ringEnabled_shows (s : State) (r : Nat) :
    State.ringEnabled s r = { s with regs := (State.ringEnabled s r).regs, rings := (State.ringEnabled s r).rings } ∧
    (State.ringEnabled s r).ringOn r = true ∧ (State.ringEnabled s r).cmdHead r = 0 ∧ (State.ringEnabled s r).cplTail r = 0 ∧
    (State.ringEnabled s r).ring r = {} ∧ (State.ringEnabled s r).ringSize r = s.ringSize r ∧
    ∀ q, q ≠ r → (State.ringEnabled s r).ring q = s.ring q := by
  have ctl (lo w : Nat) (h : 1 ≤ lo) : (State.ringEnabled s r).fld .hifRingCtl lo w r = s.fld .hifRingCtl lo w r := by
    show ((s.setReg .hifRingStat 0#64 r).setFld .hifRingCtl 0 1 1 r).fld .hifRingCtl lo w r = _
    rw [fld_setFld_beside _ _ _ _ _ (.inr h), State.fld, State.reg_setReg_ne _ _ _ _ _ _ _ _ (ringStat_apart_ctl r r).symm, ← State.fld]
  have stat (lo w : Nat) : (State.ringEnabled s r).fld .hifRingStat lo w r = getBits 0#64 lo w := by
    show ((s.setReg .hifRingStat 0#64 r).setFld .hifRingCtl 0 1 1 r).fld .hifRingStat lo w r = _
    rw [fld_setFld_apart _ _ _ _ _ _ (ringStat_apart_ctl r r), State.fld, State.reg_setReg_self]
  have zero32 (lo : Nat) : getBits 0#64 lo 32 = 0 := by
    rw [getBits, BitVec.toNat_zero, Nat.zero_div, Nat.zero_mod]
  have on : ((s.setReg .hifRingStat 0#64 r).setFld .hifRingCtl 0 1 1 r).fld .hifRingCtl 0 1 r = 1 :=
    fld_setFld_of_lt _ _ _ _ (by decide) (by decide)
  refine ⟨rfl, ?_, ?_, ?_, ?_, ?_, fun q hq => State.ring_setRing_ne _ _ _ _ hq⟩
  · exact decide_eq_true on
  · exact (stat 0 32).trans (zero32 0)
  · exact (stat 32 32).trans (zero32 32)
  · exact State.ring_setRing_self ..
  · rw [State.ringSize, ctl 1 5 (by decide), ← State.ringSize]

theorem exec_ringEnable (owns : s.ringOwner ring.val = fn.val) (off : s.ringOn ring.val = false) :
    exec (.ringEnable fn ring) s = .next (s.enableRing ring.val) := by
  simp only [exec, execRingEnable, whenOk]
  rw [if_pos (by rw [decide_eq_true owns, off]; rfl)]

theorem exec_ringEnable_of_kept (kept : s.ringOwner ring.val ≠ fn.val ∨ s.ringOn ring.val = true ∨ s.atReady = false) :
    exec (.ringEnable fn ring) s = .next s := by
  simp only [exec, execRingEnable, whenOk]
  split
  next h =>
    rw [Bool.and_eq_true, decide_eq_true_eq, Bool.not_eq_true'] at h
    obtain other | on | busy := kept
    · exact absurd h.1 other
    · exact absurd on (Bool.eq_false_iff.1 h.2)
    · rw [enableRing_of_not_ready busy]
  · rfl

theorem ringEnable_part (s : State) (fn : Func) (ring : Ring) :
    let r := ring.val
    let size := s.fld .hifRingCtl 1 5 r
    let legal := 1 ≤ size ∧ size ≤ 16 ∧ (s.reg .hifRingCmdBase r).toNat % 4096 = 0 ∧ (s.reg .hifRingCplBase r).toNat % 4096 = 0
    (s.ringOwner r = fn.val → s.ringOn r = false → s.atReady = true →
      (legal → ∃ t, exec (.ringEnable fn ring) s = .next t ∧ t = { s with regs := t.regs, rings := t.rings } ∧ t.ringOn r = true ∧
        t.cmdHead r = 0 ∧ t.cplTail r = 0 ∧ t.ring r = {} ∧ t.ringSize r = s.ringSize r ∧ ∀ q, q ≠ r → t.ring q = s.ring q) ∧
      (¬ legal → exec (.ringEnable fn ring) s = .next (s.setFld .hifRingCtl 20 1 1 r))) ∧
    (s.ringOwner r ≠ fn.val ∨ s.ringOn r = true ∨ s.atReady = false → exec (.ringEnable fn ring) s = .next s) := by
  refine ⟨fun owns off ready => ⟨fun legal => ?_, fun illegal => ?_⟩, exec_ringEnable_of_kept⟩
  · exact ⟨_, (exec_ringEnable owns off).trans (by rw [enableRing_of_legal ready legal]), ringEnabled_shows s ring.val⟩
  · rw [exec_ringEnable owns off, enableRing_of_illegal ready illegal]

theorem doorbell_part (s : State) (fn : Func) (ring : Ring) (v : Word64) :
    let r := ring.val
    let tail := v.toNat % 2 ^ 32
    let head := v.toNat / 2 ^ 32
    let ok := s.ringOn r = true ∧ wrapSub tail (s.cmdHead r) ≤ s.ringSize r ∧ wrapSub (s.cplTail r) head ≤ s.ringSize r
    (s.ringOwner r = fn.val → ok →
      exec (.doorbell fn ring v) s = .next (s.setRing r { s.ring r with cmdTail := tail, cplHead := head })) ∧
    (s.ringOwner r = fn.val → ¬ ok → exec (.doorbell fn ring v) s = .next (s.ringError fn.val r)) ∧
    (s.ringOwner r ≠ fn.val → exec (.doorbell fn ring v) s = .next (s.ringErrorTo fn.val r)) := by
  intro r tail head ok
  have bad : (!s.ringOn r || decide (s.ringSize r < wrapSub tail (s.cmdHead r)) || decide (s.ringSize r < wrapSub (s.cplTail r) head)) = true ↔
      ¬ ok := by
    simp only [ok, Bool.or_eq_true, Bool.not_eq_true', decide_eq_true_eq, not_and_or, Nat.not_le, Bool.not_eq_true, or_assoc]
  simp only [exec, execDoorbell]
  refine ⟨fun owns legal => ?_, fun owns illegal => ?_, fun other => if_pos other⟩
  · rw [if_neg (not_not_intro owns)]
    exact if_neg fun h => bad.1 h legal
  · rw [if_neg (not_not_intro owns)]
    exact if_pos (bad.2 illegal)

/-! ### Fetches -/

/-- The state in which a command of ring `r` is fetched (R622). -/
def State.fetchedCmd (s : State) (r : Nat) : State :=
  ((s.noteFetch r).setFld .hifRingStat 0 32 ((s.cmdHead r + 1) % 2 ^ 32) r).bump .hifPenStat 0 32 (s.ringOwner r)

/-- The command entry that is next in ring `r`. -/
def State.nextEntry (s : State) (r : Nat) : List Byte :=
  s.hostRead ((s.reg .hifRingCmdBase r).toNat + 64 * (s.cmdHead r % s.ringSize r)) 64

def State.fetch (s : State) (r : Nat) : State :=
  let a := (State.fetchedCmd s r).admitCmd r (State.nextEntry s r) (s.cmdHead r)
  a.1.onRing r (fun x => { x with inflight := x.inflight ++ [a.2] })

theorem exec_commandFetch (may : s.mayFetch ring.val = true) (turn : s.ringTurn ring.val = true) : exec (.commandFetch ring) s =
    if s.fetchesLeft (s.ringOwner ring.val) = 0 ∧ !s.roundOver then .next s
    else .next (State.fetch (s.roundFor (decide (s.fetchesLeft (s.ringOwner ring.val) = 0))) ring.val) := by
  simp only [exec, execCommandFetch]
  rw [if_neg (by rw [may, turn]; decide)]
  rfl

theorem roundFor_false (s : State) : s.roundFor false = s := rfl

theorem roundFor_of_over (ended : s.roundOver = true) : s.roundFor true = { s with hifUsed := [] } := if_pos (by rw [ended]; rfl)

theorem exec_commandFetch_of_idle (idle : s.mayFetch ring.val = false ∨ s.ringTurn ring.val = false) :
    exec (.commandFetch ring) s = .next s := by
  simp only [exec, execCommandFetch]
  refine if_pos ?_
  obtain may | turn := idle
  · rw [may]
    rfl
  · rw [turn, Bool.not_false, Bool.or_true]

/-- It is a ring's turn where no ring of the function between the last one and it may fetch (R629). -/
theorem ringTurn_iff (s : State) (r : Nat) : s.ringTurn r = true ↔ ∀ i, i < (r + 4096 - used s.ringNext (s.ringOwner r)) % 4096 →
    ¬ (s.ringOwner ((used s.ringNext (s.ringOwner r) + i) % 4096) = s.ringOwner r ∧
      s.mayFetch ((used s.ringNext (s.ringOwner r) + i) % 4096) = true) := by
  simp only [State.ringTurn, List.all_eq_true, List.mem_range, used, Bool.not_eq_true', Bool.and_eq_false_iff, decide_eq_false_iff_not,
    not_and_or, Bool.not_eq_true]

theorem admitCmd_of_plain {r ix : Nat} {e : List Byte} (plain : s.confFn (s.ringOwner r) = false) :
    (s.locked = true → s.admitCmd r e ix = (s, { entryCmd (s.ringOwner r) ix e with done := some (rsTamperLocked, []) })) ∧
    (∀ st, s.locked = false → entryRefusal (entryCmd (s.ringOwner r) ix e) (fieldAt e 2 2 / 4096) (e.drop 0x30) = some st →
      s.admitCmd r e ix = (s, { entryCmd (s.ringOwner r) ix e with done := some (st, []) })) ∧
    (s.locked = false → entryRefusal (entryCmd (s.ringOwner r) ix e) (fieldAt e 2 2 / 4096) (e.drop 0x30) = none →
      movesData (entryCmd (s.ringOwner r) ix e).opcode = false →
      hasParams (entryCmd (s.ringOwner r) ix e).opcode (entryCmd (s.ringOwner r) ix e).aux = false →
      s.admitCmd r e ix = (s, entryCmd (s.ringOwner r) ix e)) := by
  have opened : s.openEntry (s.ringOwner r) r e = (s, .ok e) := by
    unfold State.openEntry
    exact if_pos (by rw [plain]; rfl)
  unfold State.admitCmd
  dsimp only
  rw [opened]
  dsimp only
  refine ⟨fun locked => if_pos locked, fun st free refused => ?_, fun free passes moves params => ?_⟩
  · rw [if_neg (Bool.eq_false_iff.1 free), refused]
  · rw [if_neg (Bool.eq_false_iff.1 free), passes]
    dsimp only
    rw [if_neg (Bool.eq_false_iff.1 moves), if_neg (Bool.eq_false_iff.1 params)]

theorem exec_commandCompletion_of_open {c : Inflight} {rest : List Inflight} (front : (s.ring ring.val).inflight = c :: rest)
    {hostError : Bool} (open_ : cplResult c hostError = none) : exec (.commandCompletion ring hostError) s = .next s := by
  simp only [exec, execCommandCompletion]
  rw [front]
  dsimp only
  rw [open_]

theorem exec_commandCompletion_of_result {c : Inflight} {rest : List Inflight} (front : (s.ring ring.val).inflight = c :: rest)
    {hostError : Bool} {st : Nat} {pl : List Byte} (result : cplResult c hostError = some (st, pl)) : exec (.commandCompletion ring hostError) s =
      .next ((s.onRing ring.val (fun x => { x with inflight := rest })).putCpl ring.val c.opcode 0 0 st c.cookie pl) := by
  simp only [exec, execCommandCompletion]
  rw [front]
  dsimp only
  rw [result]

theorem cplResult_of_done {c : Inflight} {st : Nat} {pl : List Byte} (done : c.done = some (st, pl)) :
    cplResult c false = some (st, pl) ∧
      cplResult c true = if hostData c.opcode = true ∧ st = rsOk then some (rsHostDma, []) else some (st, pl) := by
  unfold cplResult
  rw [done]
  dsimp only
  refine ⟨rfl, ?_⟩
  rw [Bool.true_and]
  exact if_congr (by rw [Bool.and_eq_true, decide_eq_true_eq]) rfl rfl

theorem cplResult_of_open {c : Inflight} (open_ : c.done = none) :
    cplResult c false = none ∧ cplResult c true = if hostReads c.opcode = true then some (rsHostDma, []) else none := by
  unfold cplResult
  rw [open_]
  exact ⟨rfl, rfl⟩

theorem commandFetch_part (s : State) (ring : Ring) :
    let r := ring.val
    let ix := s.cmdHead r
    let e := s.hostRead ((s.reg .hifRingCmdBase r).toNat + 64 * (ix % s.ringSize r)) 64
    let fn := s.ringOwner r
    let fetched (s0 : State) : Out :=
      let s1 := ((s0.noteFetch r).setFld .hifRingStat 0 32 ((ix + 1) % 2 ^ 32) r).bump .hifPenStat 0 32 fn
      .next ((s1.admitCmd r e ix).1.onRing r (fun x => { x with inflight := x.inflight ++ [(s1.admitCmd r e ix).2] }))
    s.mayFetch r = true → s.ringTurn r = true →
      (s.fetchesLeft fn ≠ 0 → exec (.commandFetch ring) s = fetched s) ∧
      (s.fetchesLeft fn = 0 → s.roundOver = true → exec (.commandFetch ring) s = fetched { s with hifUsed := [] }) ∧
      (s.fetchesLeft fn = 0 → s.roundOver = false → exec (.commandFetch ring) s = .next s) := by
  intro r ix e fn fetched may turn
  rw [exec_commandFetch may turn]
  refine ⟨fun some => ?_, fun none ended => ?_, fun none open_ => ?_⟩
  · rw [if_neg fun h => some h.1, decide_eq_false some, roundFor_false]
    rfl
  · rw [if_neg (by rw [ended]; exact fun h => absurd h.2 (by decide)), decide_eq_true none, roundFor_of_over ended]
    rfl
  · exact if_pos ⟨none, by rw [open_]; rfl⟩

theorem commandCompletion_part (s : State) (ring : Ring) (c : Inflight) (rest : List Inflight)
    (front : (s.ring ring.val).inflight = c :: rest) :
    let ends (st : Nat) (pl : List Byte) : Out :=
      .next ((s.onRing ring.val (fun x => { x with inflight := rest })).putCpl ring.val c.opcode 0 0 st c.cookie pl)
    (∀ st pl, c.done = some (st, pl) →
      exec (.commandCompletion ring false) s = ends st pl ∧
      exec (.commandCompletion ring true) s = (if hostData c.opcode = true ∧ st = rsOk then ends rsHostDma [] else ends st pl)) ∧
    (c.done = none →
      exec (.commandCompletion ring false) s = .next s ∧
      exec (.commandCompletion ring true) s = (if hostReads c.opcode = true then ends rsHostDma [] else .next s)) := by
  intro ends
  refine ⟨fun st pl done => ?_, fun open_ => ?_⟩
  · obtain ⟨well, failed⟩ := cplResult_of_done done
    refine ⟨exec_commandCompletion_of_result front well, ?_⟩
    split_ifs at failed ⊢
    · exact exec_commandCompletion_of_result front failed
    · exact exec_commandCompletion_of_result front failed
  · obtain ⟨well, failed⟩ := cplResult_of_open open_
    refine ⟨exec_commandCompletion_of_open front well, ?_⟩
    split_ifs at failed ⊢
    · exact exec_commandCompletion_of_result front failed
    · exact exec_commandCompletion_of_open front failed

/-! ### Completion entries, events and interrupts -/

/-- The entry of a ring that no key protects: 48 bytes and a tag of zeros (R623). -/
def cplEntry (s : State) (r code kind flags st : Nat) (cookie : Word64) (pl : List Byte) : List Byte :=
  le 2 code ++ le 1 kind ++ le 1 (1 - s.cplTail r / s.ringSize r % 2 + flags) ++ le 2 st ++ le 1 (s.ringOwner r) ++ [0#8] ++
    le 8 cookie.toNat ++ fit 32 pl ++ zeros 16

theorem length_cplEntry (r code kind flags st : Nat) (cookie : Word64) (pl : List Byte) :
    (cplEntry s r code kind flags st cookie pl).length = 64 := by
  simp only [cplEntry, List.length_append, length_le, length_fit, length_zeros, List.length_singleton]

/-- The state after an entry is written into the next slot of a completion ring. -/
def State.cplWritten (s : State) (r : Nat) (entry : List Byte) : State :=
  (s.hostWrite ((s.reg .hifRingCplBase r).toNat + 64 * (s.cplTail r % s.ringSize r)) entry).setFld .hifRingStat 32 32
    ((s.cplTail r + 1) % 2 ^ 32) r

theorem putCpl_of_plain {r : Nat} (code kind flags st : Nat) (cookie : Word64) (pl : List Byte) (plain : s.confFn (s.ringOwner r) = false) :
    s.putCpl r code kind flags st cookie pl =
      let t := State.cplWritten s r (cplEntry s r code kind flags st cookie pl)
      if t.fld .hifRingCtl 7 1 r = 1 then t.onRing r (fun x => { x with intDue := true }) else t := by
  have tag (head : List Byte) : s.cplTag (s.ringOwner r) r head true = (s, zeros 16) := by
    unfold State.cplTag
    rw [plain]
    rfl
  unfold State.putCpl
  dsimp only
  rw [tag]
  rfl

theorem fld_ringCtl_cplWritten (r lo w : Nat) (entry : List Byte) :
    (State.cplWritten s r entry).fld .hifRingCtl lo w r = s.fld .hifRingCtl lo w r :=
  fld_setFld_apart _ _ _ _ _ _ (ringStat_apart_ctl r r).symm

theorem cplTail_cplWritten (r : Nat) (entry : List Byte) : (State.cplWritten s r entry).cplTail r = (s.cplTail r + 1) % 2 ^ 32 := by
  refine (fld_setFld_self _ .hifRingStat _ r 0 (by decide)).trans ?_
  exact Nat.mod_mod ..

theorem putCpl_part (s : State) (r code kind flags st : Nat) (cookie : Word64) (pl : List Byte) (plain : s.confFn (s.ringOwner r) = false) :
    (s.putCpl r code kind flags st cookie pl).cplTail r = (s.cplTail r + 1) % 2 ^ 32 ∧
    (s.putCpl r code kind flags st cookie pl).hostRead ((s.reg .hifRingCplBase r).toNat + 64 * (s.cplTail r % s.ringSize r)) 64 =
      cplEntry s r code kind flags st cookie pl ∧
    (s.fld .hifRingCtl 7 1 r = 1 → ((s.putCpl r code kind flags st cookie pl).ring r).intDue = true) := by
  rw [putCpl_of_plain code kind flags st cookie pl plain]
  have size := length_cplEntry (s := s) r code kind flags st cookie pl
  revert size
  generalize cplEntry s r code kind flags st cookie pl = entry
  intro size
  dsimp only
  rw [fld_ringCtl_cplWritten]
  have read : (State.cplWritten s r entry).hostRead ((s.reg .hifRingCplBase r).toNat + 64 * (s.cplTail r % s.ringSize r)) 64 = entry := by
    have written := hostRead_hostWrite s ((s.reg .hifRingCplBase r).toNat + 64 * (s.cplTail r % s.ringSize r)) entry
    rw [size] at written
    exact written
  have tail := cplTail_cplWritten (s := s) r entry
  revert read tail
  generalize State.cplWritten s r entry = t
  intro read tail
  refine ⟨?_, ?_, fun on => ?_⟩
  · split
    · exact tail
    · exact tail
  · split
    · exact read
    · exact read
  · rw [if_pos on, State.onRing, State.ring_setRing_self]

/-- A count of a table goes up by one and the others keep. -/
theorem used_set_succ (m : SMap Nat) (k q : Nat) :
    used (SMap.set (fun _ => 0) m k (SMap.get (fun _ => 0) m k + 1)) q = used m q + if q = k then 1 else 0 := by
  unfold used
  by_cases here : q = k
  · subst here
    rw [if_pos rfl]
    exact SMap.get_set_self (fun _ => 0) ..
  · rw [if_neg here]
    exact SMap.get_set_ne (fun _ => 0) _ _ _ _ here

theorem interrupt_part (s : State) (ring : Ring) (due : (s.ring ring.val).intDue = true) (on : s.fld .hifRingCtl 7 1 ring.val = 1) :
    ∃ t, exec (.interrupt ring) s = .next t ∧ t = { s with rings := t.rings, msix := t.msix } ∧ (t.ring ring.val).intDue = false ∧
      let k := 64 * s.ringOwner ring.val + s.fld .hifRingCtl 8 6 ring.val
      ∀ q, used t.msix q = used s.msix q + (if q = k then 1 else 0) := by
  simp only [exec, execInterrupt, whenOk]
  rw [if_pos (by rw [due, decide_eq_true on]; rfl)]
  refine ⟨_, rfl, rfl, ?_, fun q => ?_⟩
  · exact congrArg RingS.intDue (State.ring_setRing_self ..)
  · exact used_set_succ s.msix _ q

theorem eventPost_part (s : State) (fn : Func) (r : Nat) (e : Event) (rest : List Event)
    (first : SMap.get (fun _ => []) s.evq fn.val = e :: rest) (into : s.eventRing fn.val = some r) :
    let lost := if SMap.get (fun _ => false) s.evLost fn.val then 4 else 0
    let s1 : State := { s with
      evq := SMap.set (fun _ => []) s.evq fn.val rest, evLost := SMap.set (fun _ => false) s.evLost fn.val false }
    let n := (eventParts e).length
    (n ≤ s.freeSlots r → exec (.eventPost fn) s = .next (((eventParts e).zip (List.range n)).foldl (fun s p =>
      s.putCpl r e.code 1 ((if p.2 + 1 = n then 0 else 2) + lost) 0 e.step p.1) s1)) ∧
    (s.freeSlots r < n → exec (.eventPost fn) s = .next s) := by
  simp only [exec, execEventPost]
  rw [first, into]
  exact ⟨fun room => if_pos room, fun full => if_neg (Nat.not_le.2 full)⟩

theorem stepLimitExpiry_part (s : State) (pen : Pen) (j : Job) (a : Attempt) (hj : s.job pen = some j)
    (ha : (votingAttempt j <|> j.cur) = some a) (limit : s.fld .hifPenCfg 8 24 pen ≠ 0) (started : a.phase ≠ .start)
    (new : j.stalledPosted = false) : exec (.stepLimitExpiry pen) s =
      .next ((s.onJob pen (fun j => { j with stalledPosted := true })).postPen pen 330 a.step [ef a.step, ef a.attempt]) := by
  simp only [exec, execStepLimitExpiry, whenOk]
  rw [hj]
  dsimp only
  rw [ha]
  dsimp only
  rw [if_pos (by rw [decide_eq_true limit, decide_eq_true started, new]; rfl)]

/-! ### BAR4 -/

theorem bar4_part (s : State) (fn : Func) (off n : Nat) (bs : List Byte) :
    let p := s.bar4Pen fn.val
    let va := s.fld .hifBar4Sel 4 18 0 fn.val * 2 ^ 30 + off
    let zero : State := { s with lastRead := List.replicate n 0#8 }
    (p ≠ 0 → (fn.val = 0 → (s.pen p).confidential = false) →
      (s.rangeCause p false va n = none → s.vaPoison p va n = false →
        exec (.bar4Access fn off (.read n)) s = .next { (s.noteVa p va n) with lastRead := s.vaRead p va n }) ∧
      (s.rangeCause p false va n = none → s.vaPoison p va n = true →
        exec (.bar4Access fn off (.read n)) s = .next ((zero.noteVa p va n).setFld .hifBar4Sel 63 1 1 0 fn.val)) ∧
      (s.rangeCause p false va n ≠ none →
        exec (.bar4Access fn off (.read n)) s = .next (zero.setFld .hifBar4Sel 63 1 1 0 fn.val)) ∧
      (s.rangeCause p true va bs.length = none → exec (.bar4Access fn off (.write bs)) s = .next (s.vaStore p va bs)) ∧
      (s.rangeCause p true va bs.length ≠ none →
        exec (.bar4Access fn off (.write bs)) s = .next (s.setFld .hifBar4Sel 63 1 1 0 fn.val))) ∧
    (p = 0 ∨ (fn.val = 0 ∧ (s.pen p).confidential = true) →
      exec (.bar4Access fn off (.read n)) s = .next zero ∧
      exec (.bar4Access fn off (.write bs)) s = .next s) := by
  intro p va zero
  have blind : (decide (p = 0) || (decide (fn.val = 0) && (s.pen p).confidential)) = true ↔
      p = 0 ∨ (fn.val = 0 ∧ (s.pen p).confidential = true) := by
    rw [Bool.or_eq_true, Bool.and_eq_true, decide_eq_true_eq, decide_eq_true_eq]
  simp only [exec, execBar4Access]
  refine ⟨fun pen plain => ?_, fun hidden => ⟨if_pos (blind.2 hidden), if_pos (blind.2 hidden)⟩⟩
  have seen := fun h => (blind.1 h).elim pen fun both => Bool.eq_false_iff.1 (plain both.1) both.2
  rw [if_neg seen, if_neg seen]
  refine ⟨fun grants clean => ?_, fun grants poisoned => ?_, fun fails => ?_, fun grants => ?_, fun fails => ?_⟩
  · rw [if_neg (by rw [grants]; decide), if_neg (Bool.eq_false_iff.1 clean)]
  · rw [if_neg (by rw [grants]; decide), if_pos poisoned]
  · exact if_pos (Option.isSome_iff_ne_none.2 fails)
  · exact if_neg (by rw [grants]; decide)
  · exact if_pos (Option.isSome_iff_ne_none.2 fails)

end

/-- Settles O45. -/
theorem ringsAndBar4 : Obligations.RingsAndBar4 := by
  unfold Obligations.RingsAndBar4
  exact ⟨⟨ringEnable_part, doorbell_part, fun s ring => ⟨commandFetch_part s ring, exec_commandFetch_of_idle, ringTurn_iff s _, admitCmd_of_plain,
      commandCompletion_part s ring, interrupt_part s ring⟩,
    fun s r code kind flags st cookie pl _ => putCpl_part s r code kind flags st cookie pl, eventPost_part, stepLimitExpiry_part⟩, bar4_part⟩

end Sys2Proof.Proofs
end

section
/-!
PROOF. A pen is torn down in order and created anew: what each stage leaves alone, by frames, and what the rings, ports, cores and bays
of the pen hold after it.
-/

namespace Sys2Proof.Proofs

open Sys2Proof Sys2Proof.Machine Sys2Proof.Claims

-- Long rows of short lemmas: elaborated in order, as every body that waits for its turn holds the stack of a thread.
set_option Elab.async false

section

variable {s₀ s t : State} {p : Pen} {K : Nat → Prop}

/-! ### The reset of a pen -/

theorem exec_penReset {fn : Func} (reaches : fn.val = 0 ∨ fn.val = p) (present : (s.pen p).present = true) (alive : (s.pen p).teardownCause = none) :
    exec (.penReset fn p) s =
      if s.orderOnPen p then .next (s.arbLost (if fn.val = 0 then 1 else 2) fn.val)
      else .next (((if fn.val = 0 then s.preemptPen p else s).teardown p (if fn.val = 0 then byPf0 else byVf)).setFld .hifPenReset 0 1 1 (p - 1)) := by
  simp only [exec, execPenReset]
  rw [if_neg (by omega), if_neg (by rw [present, alive]; decide)]

theorem exec_penReset_of_gone {fn : Func} (gone : (s.pen p).present = false ∨ (s.pen p).teardownCause ≠ none) :
    exec (.penReset fn p) s = .next s := by
  simp only [exec, execPenReset]
  split
  · rfl
  · refine if_pos ?_
    obtain absent | dying := gone
    · rw [absent]
      rfl
    · rw [Option.isSome_iff_ne_none.2 dying, Bool.or_true]

theorem arbLost_shows (s : State) : (s.arbLost 1 0).fld .secArb 0 16 = min (s.fld .secArb 0 16 + 1) 65535 ∧ (s.arbLost 1 0).fld .secArb 63 1 = 1 := by
  have lost : s.arbLost 1 0 = ((s.bump .secArb 0 16).setFld .secArb 32 4 1).setFld .secArb 63 1 1 := rfl
  rw [lost]
  refine ⟨?_, fld_setFld_of_lt _ _ _ _ (by decide) (by decide)⟩
  rw [fld_setFld_beside _ _ _ _ _ (by decide), fld_setFld_beside _ _ _ _ _ (by decide), fld_bump_self (by decide), Nat.min_comm]
  rfl

theorem penReset_part (s : State) (fn : Func) (present : (s.pen p).present = true) (alive : (s.pen p).teardownCause = none) (low : 1 ≤ p) :
    (s.orderOnPen p = false →
      (fn.val = p → exec (.penReset fn p) s = .next ((s.teardown p byVf).setFld .hifPenReset 0 1 1 (p - 1))) ∧
      (fn.val = 0 → exec (.penReset fn p) s = .next (((s.preemptPen p).teardown p byPf0).setFld .hifPenReset 0 1 1 (p - 1)))) ∧
    (s.orderOnPen p = true →
      (fn.val = p → exec (.penReset fn p) s = .next (s.arbLost 2 p)) ∧ (fn.val = 0 → exec (.penReset fn p) s = .next (s.arbLost 1 0))) := by
  refine ⟨fun free => ⟨fun own => ?_, fun host => ?_⟩, fun waits => ⟨fun own => ?_, fun host => ?_⟩⟩
  · have other : fn.val ≠ 0 := own ▸ Nat.pos_iff_ne_zero.1 low
    rw [exec_penReset (.inr own) present alive, if_neg (Bool.eq_false_iff.1 free), if_neg other, if_neg other]
  · rw [exec_penReset (.inl host) present alive, if_neg (Bool.eq_false_iff.1 free), if_pos host, if_pos host]
  · have other : fn.val ≠ 0 := own ▸ Nat.pos_iff_ne_zero.1 low
    rw [exec_penReset (.inr own) present alive, if_pos waits, if_neg other, own]
  · rw [exec_penReset (.inl host) present alive, if_pos waits, if_pos host, host]

/-! ### The stages of a teardown -/

theorem penSt_setPenSt (s : State) (p : Nat) {st : Nat} (h : st < 2 ^ 3) : (s.setPenSt p st).penSt p = st :=
  fld_setFld_of_lt _ _ _ _ (by decide) h

theorem job_setPenSt (s : State) (p st : Nat) : (s.setPenSt p st).job p = s.job p := rfl

theorem teardown_of_alive (present : (s.pen p).present = true) (alive : (s.pen p).teardownCause = none) (cause : Nat) : s.teardown p cause =
    ((s.onPen p (fun x => { x with teardownCause := some cause })).setPenSt p penQuiescing).cutJob p := by
  unfold State.teardown
  exact if_neg (by rw [present, alive]; decide)

theorem cutJob_of_idle (idle : s.job p = none) : s.cutJob p = s := by
  unfold State.cutJob
  rw [idle]

theorem penSt_teardown (present : (s.pen p).present = true) (alive : (s.pen p).teardownCause = none) (idle : s.job p = none) (cause : Nat) :
    (s.teardown p cause).penSt p = penQuiescing := by
  have same : ((s.onPen p (fun x => { x with teardownCause := some cause })).setPenSt p penQuiescing).job p = none := by
    rw [job_setPenSt, State.job, pen_onPen_self]
    exact idle
  rw [teardown_of_alive present alive, cutJob_of_idle same]
  exact penSt_setPenSt _ _ (by decide)

/-! ### The rings of a pen that quiesces -/

/-- Of the rings only `r` changed, and beside it only what completions write. -/
structure RingFrame (r : Nat) (s t : State) : Prop where
  frame : t = { s with regs := t.regs, hostMem := t.hostMem, rings := t.rings, msix := t.msix }
  others : ∀ q, q ≠ r → t.ring q = s.ring q

section
variable {r : Nat}

theorem RingFrame.refl (s : State) : RingFrame r s s := ⟨rfl, fun _ _ => rfl⟩

theorem RingFrame.trans (h : RingFrame r s₀ s) (h' : RingFrame r s t) : RingFrame r s₀ t :=
  ⟨by rw [h'.frame, h.frame], fun q hq => (h'.others q hq).trans (h.others q hq)⟩

theorem RingFrame.setReg (h : RingFrame r s₀ s) (n : RegName) (x : Word64) (ix fn : Nat) : RingFrame r s₀ (s.setReg n x ix fn) :=
  h.trans ⟨rfl, fun _ _ => rfl⟩

theorem RingFrame.setFld (h : RingFrame r s₀ s) (n : RegName) (lo w v ix fn : Nat) : RingFrame r s₀ (s.setFld n lo w v ix fn) := h.setReg ..

theorem RingFrame.hostWrite (h : RingFrame r s₀ s) (a : Nat) (bs : List Byte) : RingFrame r s₀ (s.hostWrite a bs) :=
  h.trans ⟨rfl, fun _ _ => rfl⟩

theorem RingFrame.setRing (h : RingFrame r s₀ s) (x : RingS) : RingFrame r s₀ (s.setRing r x) :=
  h.trans ⟨rfl, fun _ hq => State.ring_setRing_ne _ _ _ _ hq⟩

theorem RingFrame.putCpl_untagged (h : RingFrame r s₀ s) (code kind flags st : Nat) (cookie : Word64) (pl : List Byte) :
    RingFrame r s₀ (s.putCpl r code kind flags st cookie pl false) := by
  have tag (head : List Byte) : s.cplTag (s.ringOwner r) r head false = (s, zeros 16) := by
    unfold State.cplTag
    rw [Bool.and_false]
  unfold State.putCpl
  extract_lets +onlyGivenNames fn ix phase head t s1 s2
  have same : t = (s, zeros 16) := tag head
  have h2 : RingFrame r s₀ s2 := by
    unfold s2 s1
    rw [same]
    exact (h.hostWrite ..).setFld ..
  split
  · exact h2.setRing _
  · exact h2

theorem RingFrame.ringReset (h : RingFrame r s₀ s) : RingFrame r s₀ (s.ringReset r) :=
  ((((h.setReg ..).setReg ..).setReg ..).setReg ..).setRing _

theorem ringFrame_cutRing (s : State) (r : Nat) : RingFrame r s (s.cutRing r) := by
  unfold State.cutRing
  extract_lets +onlyGivenNames q s1 s2 k s3
  have h1 : RingFrame r s s1 := (RingFrame.refl s).setRing _
  have h2 : RingFrame r s s2 := List.foldlRecOn (motive := RingFrame r s) q _ h1 fun t ht c _ => ht.putCpl_untagged ..
  have h3 : RingFrame r s s3 := by
    unfold s3
    split
    · exact h2.trans ⟨rfl, fun _ _ => rfl⟩
    · exact h2
  exact h3.ringReset

theorem ring_cutRing_self (s : State) (r : Nat) : (s.cutRing r).ring r = {} := by
  unfold State.cutRing
  exact State.ring_setRing_self ..

end

/-- The state in which every ring of a list is cut. -/
def State.cutRings (s : State) (rs : List Nat) : State := rs.foldl State.cutRing s

theorem cutRings_frame (rs : List Nat) (s : State) : State.cutRings s rs = { s with
    regs := (State.cutRings s rs).regs, hostMem := (State.cutRings s rs).hostMem, rings := (State.cutRings s rs).rings
    msix := (State.cutRings s rs).msix } :=
  List.foldlRecOn (motive := fun t : State => t = { s with regs := t.regs, hostMem := t.hostMem, rings := t.rings, msix := t.msix }) rs _ rfl
    fun t ht r _ => by rw [(ringFrame_cutRing t r).frame, ht]

theorem ring_cutRings_other {rs : List Nat} {q : Nat} (h : q ∉ rs) (s : State) : (State.cutRings s rs).ring q = s.ring q :=
  List.foldlRecOn (motive := fun t : State => t.ring q = s.ring q) rs _ rfl fun t ht r hr =>
    ((ringFrame_cutRing t r).others q fun e => h (e ▸ hr)).trans ht

theorem ring_cutRings_self {rs : List Nat} {q : Nat} (h : q ∈ rs) (s : State) : (State.cutRings s rs).ring q = {} := by
  induction rs generalizing s with
  | nil => cases h
  | cons r rs ih =>
    by_cases later : q ∈ rs
    · exact ih later _
    · obtain rfl := (List.mem_cons.1 h).resolve_right later
      exact (ring_cutRings_other later _).trans (ring_cutRing_self ..)

/-- `f` done to each port of a list. -/
def State.onPorts (s : State) (ps : List Nat) (f : XPort → XPort) : State := ps.foldl (fun s p => s.onPort p f) s

theorem onPorts_frame (ps : List Nat) (f : XPort → XPort) (s : State) : State.onPorts s ps f = { s with ports := (State.onPorts s ps f).ports } :=
  List.foldlRecOn (motive := fun t : State => t = { s with ports := t.ports }) ps _ rfl fun t ht p _ => by rw [ht]; rfl

theorem port_onPorts_other {ps : List Nat} {q : Nat} (h : q ∉ ps) (f : XPort → XPort) (s : State) : (State.onPorts s ps f).port q = s.port q :=
  List.foldlRecOn (motive := fun t : State => t.port q = s.port q) ps _ rfl fun _ ht c hc =>
    (State.port_setPort_ne _ c q _ fun e => h (e ▸ hc)).trans ht

theorem port_onPorts_self {ps : List Nat} (nodup : ps.Nodup) {q : Nat} (h : q ∈ ps) (f : XPort → XPort) (s : State) :
    (State.onPorts s ps f).port q = f (s.port q) := by
  induction ps generalizing s with
  | nil => cases h
  | cons c cs ih =>
    obtain ⟨fresh, rest⟩ := List.nodup_cons.1 nodup
    by_cases here : q = c
    · subst here
      exact (port_onPorts_other fresh f _).trans (State.port_setPort_self ..)
    · exact (ih rest ((List.mem_cons.1 h).resolve_left here) _).trans (congrArg f (State.port_setPort_ne _ _ _ _ here))

/-- The state in which a pen's host session is over and its events are discarded. -/
def State.closedHost (s : State) (p : Pen) : State :=
  let s := (s.onPen p (fun x => { x with session := none })).setFld .penState 4 1 0 (p - 1)
  let c := SMap.get (fun _ => {}) s.spdm p
  let s : State := { s with spdm := SMap.set (fun _ => {}) s.spdm p { c with session := 0, sessionStage := 0, secret := [] } }
  { s with evq := SMap.set (fun _ => []) s.evq p [], evLost := SMap.set (fun _ => false) s.evLost p false }

/-- What is left when order 3 of R577 is complete. -/
def State.quiesced (s : State) (p : Pen) : State :=
  let s := State.cutRings s (s.ringsOf p)
  (State.closedHost (State.onPorts s (s.baysOf p) XPort.empty) p).setPenSt p penScrubbing

theorem exec_teardownQuiesceDone (dying : (s.pen p).teardownCause ≠ none) (stage : s.penSt p = penQuiescing) :
    exec (.teardownQuiesceDone p) s = .next (State.quiesced s p) := by
  simp only [exec, execTeardownQuiesceDone]
  rw [if_neg (by rw [Option.isSome_iff_ne_none.2 dying, decide_eq_true stage]; decide)]
  rfl

theorem closedHost_shows (s : State) (p : Pen) :
    State.closedHost s p = { s with regs := (State.closedHost s p).regs, pens := (State.closedHost s p).pens, spdm := (State.closedHost s p).spdm,
                                    evq := (State.closedHost s p).evq, evLost := (State.closedHost s p).evLost } ∧
    ((State.closedHost s p).pen p).session = none ∧ SMap.get (fun _ => []) (State.closedHost s p).evq p = [] := by
  refine ⟨rfl, ?_, ?_⟩
  · show ((s.onPen p (fun x => { x with session := none })).pen p).session = none
    rw [pen_onPen_self]
  · show SMap.get _ (SMap.set (fun _ => []) s.evq p []) p = []
    exact SMap.get_set_self (fun _ => []) ..

theorem baysOf_cutRings (s : State) (rs : List Nat) : (State.cutRings s rs).baysOf p = s.baysOf p := by
  rw [cutRings_frame]
  rfl

theorem quiesced_shows (s : State) (p : Pen) :
    State.quiesced s p = { s with
      regs := (State.quiesced s p).regs, rings := (State.quiesced s p).rings, ports := (State.quiesced s p).ports, pens := (State.quiesced s p).pens
      hostMem := (State.quiesced s p).hostMem, msix := (State.quiesced s p).msix, spdm := (State.quiesced s p).spdm
      evq := (State.quiesced s p).evq, evLost := (State.quiesced s p).evLost } ∧
    (State.quiesced s p).penSt p = penScrubbing ∧ ((State.quiesced s p).pen p).session = none ∧
    (∀ q, (State.quiesced s p).ring q = (State.cutRings s (s.ringsOf p)).ring q) ∧ SMap.get (fun _ => []) (State.quiesced s p).evq p = [] ∧
    ∀ b, (State.quiesced s p).port b = if b ∈ s.baysOf p then (s.port b).empty else s.port b := by
  have bays : (State.cutRings s (s.ringsOf p)).baysOf p = s.baysOf p := baysOf_cutRings s _
  rw [← bays]
  unfold State.quiesced
  have cut := cutRings_frame (s.ringsOf p) s
  clear bays
  revert cut
  generalize State.cutRings s (s.ringsOf p) = s1
  intro cut
  dsimp only
  have emptied := onPorts_frame (s1.baysOf p) XPort.empty s1
  have inside {b : Nat} (h : b ∈ s1.baysOf p) := port_onPorts_self (nodup_baysOf s1 p) h XPort.empty s1
  have outside {b : Nat} (h : b ∉ s1.baysOf p) := port_onPorts_other h XPort.empty s1
  have ports (q : Nat) : s1.port q = s.port q := by
    rw [cut]
    rfl
  revert emptied inside outside
  generalize State.onPorts s1 (s1.baysOf p) XPort.empty = s2
  intro emptied inside outside
  obtain ⟨closed, session, events⟩ := closedHost_shows s2 p
  revert closed session events
  generalize State.closedHost s2 p = s3
  intro closed session events
  refine ⟨?_, penSt_setPenSt _ _ (by decide), session, fun q => ?_, events, fun b => ?_⟩
  · rw [State.setPenSt, closed, emptied, cut]
    rfl
  · rw [State.setPenSt, closed, emptied]
    rfl
  · have port : (s3.setPenSt p penScrubbing).port b = s2.port b := by
      rw [State.setPenSt, closed]
      rfl
    rw [port]
    split
    next here => rw [inside here, ports]
    next other => rw [outside other, ports]

theorem quiesce_part (s : State) (dying : (s.pen p).teardownCause ≠ none) (stage : s.penSt p = penQuiescing) :
    ∃ t, exec (.teardownQuiesceDone p) s = .next t ∧
      t = { s with regs := t.regs, rings := t.rings, ports := t.ports, pens := t.pens, hostMem := t.hostMem, msix := t.msix, spdm := t.spdm,
                   evq := t.evq, evLost := t.evLost } ∧
      t.penSt p = penScrubbing ∧ (t.pen p).session = none ∧
      (∀ r ∈ s.ringsOf p, t.ring r = {}) ∧ (∀ r, r < 4096 → r ∉ s.ringsOf p → t.ring r = s.ring r) ∧
      SMap.get (fun _ => []) t.evq p = [] ∧
      ∀ b, b < 12 → t.port b = if b ∈ s.baysOf p then (s.port b).empty else s.port b := by
  obtain ⟨frame, next, session, rings, events, ports⟩ := quiesced_shows s p
  exact ⟨_, exec_teardownQuiesceDone dying stage, frame, next, session, fun r hr => (rings r).trans (ring_cutRings_self hr s),
    fun r _ hr => (rings r).trans (ring_cutRings_other hr s), events, fun b _ => ports b⟩

/-! ### The scrub -/

/-- The units of every core stay, and a pen without a job has none. -/
structure UnitsStay (p : Pen) (s t : State) : Prop where
  cores : t.cores = s.cores
  idle : s.job p = none → t.job p = none

theorem UnitsStay.refl (s : State) : UnitsStay p s s := ⟨rfl, id⟩

theorem UnitsStay.trans (h : UnitsStay p s₀ s) (h' : UnitsStay p s t) : UnitsStay p s₀ t := ⟨h'.cores.trans h.cores, h'.idle ∘ h.idle⟩

theorem UnitsStay.ite {c : Prop} [Decidable c] (h : UnitsStay p s₀ s) (h' : UnitsStay p s₀ t) : UnitsStay p s₀ (if c then s else t) := by
  split
  · exact h
  · exact h'

theorem UnitsStay.foldl {α : Type} {l : List α} {f : State → α → State} (h : UnitsStay p s₀ s)
    (hf : ∀ s a, UnitsStay p s₀ s → UnitsStay p s₀ (f s a)) : UnitsStay p s₀ (l.foldl f s) :=
  List.foldlRecOn (motive := UnitsStay p s₀) l f h fun s hs a _ => hf s a hs

/-- A change of neither the cores nor the pens. -/
theorem UnitsStay.of_eq (h : UnitsStay p s₀ s) (cores : t.cores = s.cores := by rfl) (pens : t.pens = s.pens := by rfl) : UnitsStay p s₀ t :=
  h.trans ⟨cores, fun idle => by rw [State.job, State.pen, pens]; exact idle⟩

theorem UnitsStay.events (h : UnitsStay p s₀ s) (h' : EventsOnly s t) : UnitsStay p s₀ t :=
  h.of_eq (by rw [h'.frame]) (by rw [h'.frame])

theorem UnitsStay.setReg (h : UnitsStay p s₀ s) (n : RegName) (x : Word64) (ix fn : Nat) : UnitsStay p s₀ (s.setReg n x ix fn) := h.of_eq

theorem UnitsStay.setFld (h : UnitsStay p s₀ s) (n : RegName) (lo w v ix fn : Nat) : UnitsStay p s₀ (s.setFld n lo w v ix fn) := h.setReg ..

theorem UnitsStay.onBay (h : UnitsStay p s₀ s) (b : Nat) (f : Machine.Bay → Machine.Bay) : UnitsStay p s₀ (s.onBay b f) := h.of_eq

theorem UnitsStay.onPort (h : UnitsStay p s₀ s) (q : Nat) (f : XPort → XPort) : UnitsStay p s₀ (s.onPort q f) := h.of_eq

/-- A change of a pen that keeps its job. -/
theorem UnitsStay.onPen (h : UnitsStay p s₀ s) (q : Nat) (f : PenS → PenS) (hf : ∀ x, (f x).job = x.job := by exact fun _ => rfl) :
    UnitsStay p s₀ (s.onPen q f) := by
  refine h.trans ⟨rfl, fun idle => ?_⟩
  by_cases here : p = q
  · subst here
    rw [State.job, pen_onPen_self, hf]
    exact idle
  · rw [State.job, pen_onPen_ne _ _ here]
    exact idle

theorem UnitsStay.setSite (h : UnitsStay p s₀ s) (n st la lb yoke : Nat) : UnitsStay p s₀ (s.setSite n st la lb yoke) :=
  (((h.setFld ..).setFld ..).setFld ..).setFld ..

theorem UnitsStay.startTest (h : UnitsStay p s₀ s) (n : Nat) : UnitsStay p s₀ (s.startTest n) := by
  unfold State.startTest
  extract_lets +onlyGivenNames s1 s2 s3
  have h3 : UnitsStay p s₀ s3 := ((h.setSite ..).setFld ..).setFld ..
  split
  · exact UnitsStay.ite (UnitsStay.setFld (UnitsStay.setFld h3.of_eq ..) ..) h3
  · exact h3

theorem UnitsStay.freeSites (h : UnitsStay p s₀ s) (q : Nat) : UnitsStay p s₀ (s.freeSites q) :=
  h.foldl fun _ _ h1 => (h1.setSite ..).ite ((h1.startTest _).ite h1)

theorem UnitsStay.retireDue (h : UnitsStay p s₀ s) (n b : Nat) : UnitsStay p s₀ (State.retireDue n s b) := by
  have work := (RowWork.refl (K := fun _ => False) s).retireDue n (b := b) ⟨id, fun _ => id, id, fun _ _ => id⟩
  exact h.of_eq (by rw [work.frame]) (by rw [work.frame])

theorem UnitsStay.emptyWindows (h : UnitsStay p s₀ s) (q : Nat) : UnitsStay p s₀ (s.emptyWindows q) := by
  rw [emptyWindows_eq]
  exact h.of_eq (by rw [onBays_frame]) (by rw [onBays_frame])

theorem UnitsStay.seedRegs (h : UnitsStay p s₀ s) (q step : Nat) : UnitsStay p s₀ (s.seedRegs q step) := by
  have regs : s.seedRegs q step = { s with regs := (s.seedRegs q step).regs } := regsOnly_seedRegs s q step
  exact h.of_eq (by rw [regs]) (by rw [regs])

theorem UnitsStay.activateWindows (h : UnitsStay p s₀ s) (q : Nat) : UnitsStay p s₀ (s.activateWindows q) := by
  unfold State.activateWindows
  exact (h.onPen q _).emptyWindows q

theorem UnitsStay.refreshPower (h : UnitsStay p s₀ s) (boundary : Nat) : UnitsStay p s₀ (s.refreshPower boundary) := by
  refine UnitsStay.foldl (UnitsStay.setFld (UnitsStay.setFld ?_ ..) ..) fun t i ht => ht.setReg ..
  split
  · exact h.of_eq
  · split
    · exact h.of_eq
    · exact h

/-- The action of a bay whose pen has no job moves no core. -/
theorem actNow_of_idle {b : Nat} (idle : s.job (s.penOfBay b) = none) (c : Nat) :
    (s.actNow b c).cores = s.cores ∧ (s.actNow b c).pens = s.pens := by
  have site (n : Nat) : (s.actSite b c n).cores = s.cores ∧ (s.actSite b c n).pens = s.pens := by
    unfold State.actSite
    dsimp only
    rw [hosted_of_idle idle, List.foldl_nil, List.foldl_nil]
    have retired := (retireFrame_retireSite s (s.penOfBay b) n c 2).frame
    have shown := (EventsOnly.refl (s.retireSite (s.penOfBay b) n c 2)).refreshGrid (s.penOfBay b)
    split
    · rw [retired]
      exact ⟨rfl, rfl⟩
    · rw [shown.frame, retired]
      exact ⟨rfl, rfl⟩
  unfold State.actNow
  split
  · split
    · split
      · exact ⟨rfl, rfl⟩
      · exact site _
    · exact ⟨rfl, rfl⟩
  · split
    · split
      · exact ⟨rfl, rfl⟩
      · exact ⟨rfl, rfl⟩
    · exact ⟨rfl, rfl⟩

theorem UnitsStay.actBoundary (h : UnitsStay p s₀ s) (idle : s.job p = none) : UnitsStay p s₀ (s.actBoundary p) := by
  unfold State.actBoundary
  extract_lets +onlyGivenNames due s1
  have stays : (due.foldl (fun s x => s.actNow x.1 x.2) s1).cores = s.cores ∧ (due.foldl (fun s x => s.actNow x.1 x.2) s1).pens = s.pens := by
    refine List.foldlRecOn (motive := fun t : State => t.cores = s.cores ∧ t.pens = s.pens) due _ ⟨rfl, rfl⟩ fun t ht x hx => ?_
    obtain ⟨cores, pens⟩ := ht
    have bay : t.penOfBay x.1 = p := (penOfBay_of_pens pens x.1).trans (of_decide_eq_true (List.mem_filter.1 hx).2)
    have still : t.job (t.penOfBay x.1) = none := by
      rw [bay, State.job, State.pen, pens]
      exact idle
    obtain ⟨cores', pens'⟩ := actNow_of_idle still x.2
    exact ⟨cores'.trans cores, pens'.trans pens⟩
  exact h.of_eq stays.1 stays.2

theorem job_setJob_none (s : State) (p : Pen) : (s.setJob p none).job p = none := congrArg PenS.job (pen_onPen_self s p _)

/-- The job of a pen goes with the units of its cores, and every other core stays (R578). -/
theorem cores_dropJob (s : State) (p : Pen) :
    (s.dropJob p).cores = s.cores ∨ (s.dropJob p).cores = SMap.keep (fun k => decide (k / 256 ≠ p)) s.cores := by
  unfold State.dropJob
  split
  · exact .inl rfl
  · extract_lets +onlyGivenNames s1 s2 s3 s4 s5 s6 s7 s8 s9 s10
    have idle : s1.job p = none := job_setJob_none s p
    have h2 : UnitsStay p s1 s2 := ((UnitsStay.refl s1).freeSites p).foldl fun _ _ h => h.setFld ..
    have h4 : UnitsStay p s1 s4 := (((((h2.setReg ..).setReg ..).setReg ..).setReg ..).setFld ..).setFld ..
    have h6 : UnitsStay p s1 s6 := ((h4.setFld ..).seedRegs ..).onPen p _
    have h8 : UnitsStay p s1 s8 := ((h6.setFld ..).ite h6).foldl fun _ _ h => h.retireDue ..
    have h10 : UnitsStay p s1 s10 := ((h8.activateWindows p).ite h8).foldl fun _ _ h => h.onBay ..
    have last : UnitsStay p s1 (s10.actBoundary p) := h10.actBoundary (h10.idle idle)
    exact .inr ((((last.events ((EventsOnly.refl _).refreshGrid p)).refreshPower p).setFld ..).cores)

theorem cores_scrub (s : State) (p : Pen) : (s.scrub p).cores = SMap.keep (fun k => decide (k / 256 ≠ p)) (s.dropJob p).cores := by
  unfold State.scrub
  extract_lets +onlyGivenNames s1 s2
  have h2 : UnitsStay p s1 s2 := (UnitsStay.refl s1).foldl fun _ _ h => (h.onPort ..).onBay ..
  exact (h2.foldl fun _ _ h => h.setReg ..).cores

theorem find_keep_of_kept {β : Type} {keep : Nat → Bool} (m : SMap β) {k : Nat} (h : keep k = true) : (SMap.keep keep m).find k = m.find k := by
  induction m with
  | nil => rfl
  | cons a m ih =>
    rw [SMap.keep, List.filter_cons]
    by_cases here : a.1 = k
    · rw [if_pos (by rw [here]; exact h), SMap.find, SMap.find, if_pos here, if_pos here]
    · rw [SMap.find, if_neg here]
      split
      · exact (if_neg here).trans ih
      · exact ih

theorem core_scrub_self (s : State) {k : Nat} (h : k / 256 = p) : (s.scrub p).core k = {} := by
  rw [State.core, cores_scrub, SMap.get, find_keep_of_not _ (decide_eq_false (not_not_intro h))]
  rfl

theorem core_scrub_other (s : State) {k : Nat} (h : k / 256 ≠ p) : (s.scrub p).core k = s.core k := by
  rw [State.core, cores_scrub, SMap.get, find_keep_of_kept _ (decide_eq_true h)]
  obtain same | kept := cores_dropJob s p
  · rw [same]
    rfl
  · rw [kept, find_keep_of_kept _ (decide_eq_true h)]
    rfl

theorem exec_scrubDone (dying : (s.pen p).teardownCause ≠ none) (stage : s.penSt p = penScrubbing) :
    exec (.scrubDone p) s = .next (((s.scrub p).setPenSt p penErasing).refreshCut.refreshPower) := by
  simp only [exec, execScrubDone]
  exact if_neg (by rw [Option.isSome_iff_ne_none.2 dying, decide_eq_true stage]; decide)

/-- An event of a teardown out of its turn changes nothing. -/
theorem not_turn {stage : Nat} (out : ¬ (s.pen p).teardownCause ≠ none ∨ s.penSt p ≠ stage) :
    (!((s.pen p).teardownCause.isSome && decide (s.penSt p = stage))) = true := by
  obtain alive | other := out
  · rw [not_not.1 alive]
    rfl
  · rw [decide_eq_false other, Bool.and_false]
    rfl

/-! ### The crypto-erase -/

/-- The bays of a list read as undefined data (R313). -/
def State.erasedBays (s : State) (bs : List Nat) : State := bs.foldl State.eraseBay s

/-- A bay's counts and the lines of its stack are those of another state. -/
def BaySame (b : Nat) (s t : State) : Prop := t.bay b = s.bay b ∧ ∀ a, a / stackSpan = b → SMap.find t.hbm a = SMap.find s.hbm a

theorem hbm_eraseBay (s : State) (b : Nat) : (s.eraseBay b).hbm = SMap.keep (fun a => decide (a / stackSpan ≠ b)) s.hbm := rfl

theorem baySame_eraseBay {b c : Nat} (ne : b ≠ c) (s : State) : BaySame b s (s.eraseBay c) :=
  ⟨State.bay_setBay_ne _ _ _ _ ne, fun a ha => by rw [hbm_eraseBay, find_keep_of_kept _ (decide_eq_true (ha.trans_ne ne))]⟩

theorem erasedBays_other {bs : List Nat} {b : Nat} (h : b ∉ bs) (s : State) : BaySame b s (State.erasedBays s bs) :=
  List.foldlRecOn (motive := BaySame b s) bs _ ⟨rfl, fun _ _ => rfl⟩ fun t ht c hc =>
    have step := baySame_eraseBay (b := b) (c := c) (fun e => h (e ▸ hc)) t
    ⟨step.1.trans ht.1, fun a ha => (step.2 a ha).trans (ht.2 a ha)⟩

theorem eraseBay_self (s : State) (b : Nat) :
    ((s.eraseBay b).bay b).erases = (s.bay b).erases + 1 ∧ ∀ a, a / stackSpan = b → SMap.find (s.eraseBay b).hbm a = none :=
  ⟨congrArg Machine.Bay.erases (State.bay_setBay_self ..), fun a ha => by
    rw [hbm_eraseBay, find_keep_of_not _ (decide_eq_false (not_not_intro ha))]⟩

theorem erasedBays_self {bs : List Nat} (nodup : bs.Nodup) {b : Nat} (h : b ∈ bs) (s : State) :
    ((State.erasedBays s bs).bay b).erases = (s.bay b).erases + 1 ∧ ∀ a, a / stackSpan = b → SMap.find (State.erasedBays s bs).hbm a = none := by
  induction bs generalizing s with
  | nil => cases h
  | cons c cs ih =>
    obtain ⟨fresh, rest⟩ := List.nodup_cons.1 nodup
    by_cases here : b = c
    · subst here
      obtain ⟨count, lines⟩ := eraseBay_self s b
      obtain ⟨bay, kept⟩ := erasedBays_other fresh (s.eraseBay b)
      exact ⟨(congrArg Machine.Bay.erases bay).trans count, fun a ha => (kept a ha).trans (lines a ha)⟩
    · obtain ⟨count, lines⟩ := ih rest ((List.mem_cons.1 h).resolve_left here) (s.eraseBay c)
      exact ⟨count.trans (congrArg (fun x => x.erases + 1) (State.bay_setBay_ne _ _ _ _ here)), lines⟩

theorem erasedBays_frame (bs : List Nat) (s : State) : State.erasedBays s bs = { s with
    hbm := (State.erasedBays s bs).hbm, poison := (State.erasedBays s bs).poison, badLines := (State.erasedBays s bs).badLines
    bays := (State.erasedBays s bs).bays } :=
  List.foldlRecOn (motive := fun t : State => t = { s with hbm := t.hbm, poison := t.poison, badLines := t.badLines, bays := t.bays }) bs _ rfl
    fun t ht b _ => by rw [ht]; rfl

/-! ### What the end and the creation of a pen change -/

/-- `t` differs from `s` only in pens, registers, events, power and the values drawn. -/
structure LayoutFrame (s t : State) : Prop where
  frame : t = { s with regs := t.regs, fresh := t.fresh, pens := t.pens, evq := t.evq, evLost := t.evLost, power := t.power }

theorem LayoutFrame.refl (s : State) : LayoutFrame s s := ⟨rfl⟩

theorem LayoutFrame.trans (h : LayoutFrame s₀ s) (h' : LayoutFrame s t) : LayoutFrame s₀ t := ⟨by rw [h'.frame, h.frame]⟩

theorem LayoutFrame.ite {c : Prop} [Decidable c] (h : LayoutFrame s₀ s) (h' : LayoutFrame s₀ t) : LayoutFrame s₀ (if c then s else t) := by
  split
  · exact h
  · exact h'

theorem LayoutFrame.foldl {α : Type} {l : List α} {f : State → α → State} (h : LayoutFrame s₀ s)
    (hf : ∀ s a, LayoutFrame s₀ s → LayoutFrame s₀ (f s a)) : LayoutFrame s₀ (l.foldl f s) :=
  List.foldlRecOn (motive := LayoutFrame s₀) l f h fun s hs a _ => hf s a hs

theorem LayoutFrame.events (h : LayoutFrame s₀ s) (h' : EventsOnly s t) : LayoutFrame s₀ t := h.trans ⟨by rw [h'.frame]⟩

theorem LayoutFrame.setReg (h : LayoutFrame s₀ s) (n : RegName) (x : Word64) (ix fn : Nat) : LayoutFrame s₀ (s.setReg n x ix fn) := h.trans ⟨rfl⟩

theorem LayoutFrame.setFld (h : LayoutFrame s₀ s) (n : RegName) (lo w v ix fn : Nat) : LayoutFrame s₀ (s.setFld n lo w v ix fn) := h.setReg ..

theorem LayoutFrame.setFree (h : LayoutFrame s₀ s) (n : RegName) (lo w ix : Nat) : LayoutFrame s₀ (s.setFree n lo w ix) := h.trans ⟨rfl⟩

theorem LayoutFrame.setPen (h : LayoutFrame s₀ s) (q : Nat) (x : PenS) : LayoutFrame s₀ (s.setPen q x) := h.trans ⟨rfl⟩

theorem LayoutFrame.setSite (h : LayoutFrame s₀ s) (n st la lb yoke : Nat) : LayoutFrame s₀ (s.setSite n st la lb yoke) :=
  (((h.setFld ..).setFld ..).setFld ..).setFld ..

theorem LayoutFrame.refreshPower (h : LayoutFrame s₀ s) (boundary : Nat) : LayoutFrame s₀ (s.refreshPower boundary) := by
  refine LayoutFrame.foldl (LayoutFrame.setFld (LayoutFrame.setFld ?_ ..) ..) fun t i ht => ht.setReg ..
  split
  · exact h.trans ⟨rfl⟩
  · split
    · exact h.trans ⟨rfl⟩
    · exact h

theorem LayoutFrame.drawWide (h : LayoutFrame s₀ s) (n : Nat) : LayoutFrame s₀ (State.drawWide n s).2 :=
  h.trans ⟨by rw [drawWide_frame]⟩

theorem eventsOnly_claimSites (s : State) (q : Nat) : EventsOnly s (s.claimSites q) := by
  unfold State.claimSites
  refine List.foldlRecOn (motive := EventsOnly s) _ _ (.refl s) fun t ht n _ => ?_
  have named := ht.setFld .coreSiteState 4 4 q n 0
  exact ((((named.setFld ..).setFld ..).setFld ..).setFld ..).ite named

theorem eventsOnly_releaseSites (s : State) (q : Nat) : EventsOnly s (s.releaseSites q) := by
  unfold State.releaseSites
  refine List.foldlRecOn (motive := EventsOnly s) _ _ (.refl s) fun t ht n _ => ?_
  have named := ht.setFld .coreSiteState 4 4 0 n 0
  exact ((((named.setFld ..).setFld ..).setFld ..).setFld ..).ite named

theorem LayoutFrame.dropPen (h : LayoutFrame s₀ s) (q st : Nat) : LayoutFrame s₀ (s.dropPen q st) := by
  unfold State.dropPen
  exact LayoutFrame.refreshPower (LayoutFrame.setReg (LayoutFrame.setReg (LayoutFrame.setFld (LayoutFrame.setFld (LayoutFrame.setFld
    (LayoutFrame.setFld ((h.events (eventsOnly_releaseSites s q)).setPen ..) ..) ..) ..) ..) ..) ..) _

/-- The state in which a new pen is known: its keys drawn and its number shown (R580). -/
def State.penMade (s : State) (p : Pen) (conf : Bool) (bays : BitVec 12) : State :=
  let s := (s.generate true).generate false
  let k := s.drawWide 8
  let d := k.2.drawWide 6
  d.2.setPen p { present := true, confidential := conf, bays := bays, memKey := BitVec.ofNat 512 k.1, importPriv := d.1 % (n384 - 1) + 1 }

/-- The state in which the registers show a new pen. -/
def State.penShown (s : State) (p : Nat) (conf : Bool) (bays : BitVec 12) : State :=
  let s := ((s.setFld .hifFunc 4 1 (bitIf conf 0) 0 p).setPenSt p penReady).setFld .penState 3 1 (bitIf conf 0) (p - 1)
  let s := (s.setFld .penState 8 12 bays.toNat (p - 1)).bump .penState 32 16 (p - 1)
  (((s.claimSites p).refreshGrid p).refreshCut).postBoth p 288 0 [ef p, ef bays.toNat]

theorem createPen_eq (s : State) (p : Pen) (conf : Bool) (bays : BitVec 12) :
    s.createPen p conf bays = State.penShown (State.penMade s p conf bays) p conf bays := rfl

theorem eventsOnly_penShown (s : State) (p : Pen) (conf : Bool) (bays : BitVec 12) : EventsOnly s (State.penShown s p conf bays) := by
  unfold State.penShown
  extract_lets +onlyGivenNames s1 s2
  have h2 : EventsOnly s s2 := (((((EventsOnly.refl s).setFld ..).setFld ..).setFld ..).setFld ..).bump ..
  exact (EventsOnly.setReg ((h2.trans (eventsOnly_claimSites s2 p)).refreshGrid p) ..).postBoth ..

theorem pen_penShown (s : State) (p : Pen) (conf : Bool) (bays : BitVec 12) (q : Nat) : (State.penShown s p conf bays).pen q = s.pen q := by
  rw [State.pen, (eventsOnly_penShown s p conf bays).frame]
  rfl

theorem LayoutFrame.createPen (h : LayoutFrame s₀ s) (q : Pen) (conf : Bool) (bays : BitVec 12) :
    LayoutFrame s₀ (s.createPen q conf bays) := by
  rw [createPen_eq]
  refine LayoutFrame.events ?_ (eventsOnly_penShown ..)
  unfold State.penMade
  exact ((((h.setFld ..).setFld ..).drawWide 8).drawWide 6).setPen ..

theorem pen_penMade (s : State) (p : Pen) (conf : Bool) (bays : BitVec 12) : ∃ key priv,
    (State.penMade s p conf bays).pen p = { present := true, confidential := conf, bays := bays, memKey := key, importPriv := priv } := by
  unfold State.penMade
  dsimp only
  rw [State.pen_setPen_self]
  generalize BitVec.ofNat 512 _ = key
  generalize _ + 1 = priv
  exact ⟨key, priv, rfl⟩

/-- A pen is created present, with its bays and its confidentiality, and otherwise as at reset. -/
theorem pen_createPen (s : State) (p : Pen) (conf : Bool) (bays : BitVec 12) : ∃ key priv,
    (s.createPen p conf bays).pen p = { present := true, confidential := conf, bays := bays, memKey := key, importPriv := priv } := by
  have made := pen_penMade s p conf bays
  rwa [createPen_eq, pen_penShown]

/-! ### Registers that the end and the creation of a pen leave alone -/

theorem SameRegs.refreshCut (h : SameRegs K s₀ s) (hk : ¬ K 0x300000) : SameRegs K s₀ s.refreshCut := h.setReg _ _ _ _ hk

theorem mem_penSites_lt {n : Nat} (h : n ∈ s.penSites p) : n < 168 := by
  rw [State.penSites, List.mem_flatMap] at h
  obtain ⟨b, hb, hn⟩ := h
  have low := List.mem_range.1 (List.mem_filter.1 hb).1
  rw [baySites, List.mem_map] at hn
  obtain ⟨i, hi, rfl⟩ := hn
  have := List.mem_range.1 hi
  omega

theorem SameRegs.claimSites (h : SameRegs K s₀ s) (sites : ∀ n, n < 168 → ¬ K (RegName.key .coreSiteState 0 n)) :
    SameRegs K s₀ (s.claimSites p) := by
  unfold State.claimSites
  refine h.foldl fun t n hn ht => ?_
  have site := sites n (mem_penSites_lt hn)
  have named := ht.setFld .coreSiteState 4 4 p n 0 site
  exact (named.setSite _ _ _ _ site).ite named

theorem SameRegs.releaseSites (h : SameRegs K s₀ s) (sites : ∀ n, n < 168 → ¬ K (RegName.key .coreSiteState 0 n)) :
    SameRegs K s₀ (s.releaseSites p) := by
  unfold State.releaseSites
  refine h.foldl fun t n hn ht => ?_
  have site := sites n (mem_penSites_lt hn)
  have named := ht.setFld .coreSiteState 4 4 0 n 0 site
  exact (named.setSite _ _ _ _ site).ite named

theorem key_penState (fn ix : Nat) : RegName.key .penState fn ix = 0xB00000 + 8 * ix := rfl

/-- The registers that a teardown asks: is the device locked, is the generator ready. -/
def AskedKey (k : Nat) : Prop := k = RegName.key .secTamper 0 0 ∨ k = RegName.key .rngStatus 0 0

theorem askedKey_eq {k : Nat} (h : AskedKey k) : k = 0xA00010 ∨ k = 0x700000 := h

theorem not_asked {k : Nat} (h : k < 0x700000 ∨ 0x700000 < k ∧ k < 0xA00010 ∨ 0xA00010 < k) : ¬ AskedKey k := fun asked => by
  have := askedKey_eq asked
  omega

theorem not_asked_posts (fn : Nat) : ¬ AskedKey (RegName.key .hifPenStat 0 fn) := not_asked (by rw [key_hifPenStat]; omega)

theorem not_asked_penState (ix : Nat) : ¬ AskedKey (RegName.key .penState 0 ix) := not_asked (by rw [key_penState]; omega)

theorem not_asked_site {n : Nat} (hn : n < 168) : ¬ AskedKey (RegName.key .coreSiteState 0 n) := not_asked (by rw [key_coreSiteState]; omega)

theorem not_power_of_asked {k : Nat} (power : PowerKey k) : ¬ AskedKey k := fun asked =>
  not_powerKey_of_lt (by have := askedKey_eq asked; omega) power

theorem asked_locked (h : SameRegs AskedKey s t) : t.locked = s.locked := by
  rw [State.locked, h.fld .secTamper 7 1 0 0 (.inl rfl), ← State.locked]

theorem asked_drbgReady (h : SameRegs AskedKey s t) : t.drbgReady = s.drbgReady := by
  rw [State.drbgReady, h.fld .rngStatus 2 1 0 0 (.inr rfl), ← State.drbgReady]

/-- What the registers show of a pen that is gone, at its functions and its state. -/
def State.goneNamed (s : State) (p st : Nat) : State :=
  (((s.setFld .hifFunc 4 1 0 0 p).setPenSt p st).setFld .penState 3 1 0 (p - 1)).setFld .penState 8 12 0 (p - 1)

/-- What they show at its grid and at the die cut. -/
def State.gridGone (s : State) (p : Nat) : State := (s.resetReg .corePenGrid (p - 1) 0).refreshCut

theorem dropPen_eq (s : State) (p st : Nat) :
    s.dropPen p st = (State.gridGone (State.goneNamed ((s.releaseSites p).setPen p {}) p st) p).refreshPower := rfl

theorem pens_refreshPower (s : State) (boundary : Nat) : (s.refreshPower boundary).pens = s.pens := by
  rw [((TestFrame.refl s).refreshPower boundary).frame]

theorem pens_gridGone (s : State) (p : Nat) : (State.gridGone s p).pens = s.pens := rfl

theorem pens_goneNamed (s : State) (p st : Nat) : (State.goneNamed s p st).pens = s.pens := by
  have named : EventsOnly s (State.goneNamed s p st) := ((((EventsOnly.refl s).setFld ..).setFld ..).setFld ..).setFld ..
  rw [named.frame]

theorem pen_of_pens (h : t.pens = s.pens) (q : Nat) : t.pen q = s.pen q := by rw [State.pen, h, ← State.pen]

theorem pen_dropPen (s : State) (p st : Nat) : (s.dropPen p st).pen p = {} := by
  have pens : (s.dropPen p st).pens = ((s.releaseSites p).setPen p {}).pens := by
    rw [dropPen_eq, pens_refreshPower, pens_gridGone, pens_goneNamed]
  rw [pen_of_pens pens, State.pen_setPen_self]

theorem sameRegs_gridShown (s : State) {p : Nat} (high : p ≤ 12) :
    SameRegs (fun k => k = RegName.key .penState 0 (p - 1)) s (State.gridGone s p).refreshPower := by
  have key : RegName.key .penState 0 (p - 1) = 0xB00000 + 8 * (p - 1) := key_penState ..
  have grid : RegName.key .corePenGrid 0 (p - 1) = 0x200600 + 8 * (p - 1) := rfl
  refine ((((SameRegs.refl s).setReg .corePenGrid _ (p - 1) 0 ?_).refreshCut ?_).refreshPower 0 fun k power here => ?_)
  · omega
  · omega
  · exact not_powerKey_of_lt (by omega) power

theorem penSt_dropPen (s : State) {p st : Nat} (high : p ≤ 12) (small : st < 2 ^ 3) : (s.dropPen p st).penSt p = st := by
  rw [dropPen_eq]
  refine ((sameRegs_gridShown _ high).fld .penState 0 3 (p - 1) 0 rfl).trans ?_
  unfold State.goneNamed
  rw [fld_setFld_beside _ _ _ _ _ (by decide), fld_setFld_beside _ _ _ _ _ (by decide)]
  exact penSt_setPenSt _ _ small

theorem asked_dropPen (h : SameRegs AskedKey s₀ s) {p : Nat} (high : p ≤ 12) (st : Nat) : SameRegs AskedKey s₀ (s.dropPen p st) := by
  have func : ¬ AskedKey (RegName.key .hifFunc p 0) := not_asked (by show _ ∨ _ ∨ 0xA00010 < 0xC00000 + p * 2 ^ 26; omega)
  have grid : ¬ AskedKey (RegName.key .corePenGrid 0 (p - 1)) := not_asked (by show 0x200600 + 8 * (p - 1) < 0x700000 ∨ _; omega)
  have state := not_asked_penState (p - 1)
  have gone : SameRegs AskedKey s₀ ((s.releaseSites p).setPen p {}) := (h.releaseSites (p := p) fun n hn => not_asked_site hn).of_regs
    (State.setPen_regs ..)
  have named : SameRegs AskedKey s₀ (State.goneNamed ((s.releaseSites p).setPen p {}) p st) :=
    (((gone.setFld _ _ _ _ _ _ func).setFld _ _ _ _ _ _ state).setFld _ _ _ _ _ _ state).setFld _ _ _ _ _ _ state
  rw [dropPen_eq]
  exact ((named.setReg _ _ _ _ grid).refreshCut (not_asked (.inl (by decide)))).refreshPower 0 fun _ => not_power_of_asked

theorem penSt_penShown (s : State) {p : Nat} (high : p ≤ 12) (conf : Bool) (bays : BitVec 12) :
    (State.penShown s p conf bays).penSt p = penReady := by
  have key : RegName.key .penState 0 (p - 1) = 0xB00000 + 8 * (p - 1) := key_penState ..
  unfold State.penShown
  extract_lets +onlyGivenNames s1 s2
  have last : SameRegs (fun k => k = RegName.key .penState 0 (p - 1)) s2
      ((((s2.claimSites p).refreshGrid p).refreshCut).postBoth p 288 0 [ef p, ef bays.toNat]) := by
    refine ((((SameRegs.refl s2).claimSites fun n hn => ?_).refreshGrid fun k grid => ?_).refreshCut ?_).postBoth _ _ _ _ fun fn hfn => ?_
    · rw [key_coreSiteState]
      omega
    · obtain rfl | rfl | ⟨fn, _, rfl⟩ := grid
      · show ¬ 0x200600 + 8 * (p - 1) = _
        omega
      · show ¬ 0x300100 + 8 * (p - 1) = _
        omega
      · rw [key_hifPenStat]
        omega
    · omega
    · rw [key_hifPenStat]
      omega
  refine (last.fld .penState 0 3 (p - 1) 0 rfl).trans ?_
  unfold s2 s1
  rw [fld_bump_beside (by decide), fld_setFld_beside _ _ _ _ _ (by decide), fld_setFld_beside _ _ _ _ _ (by decide)]
  exact penSt_setPenSt _ _ (by decide)

/-- What reading as undefined data and the last report of a teardown leave (R578, R610). -/
def State.erased (s : State) (p : Nat) (cause : Nat) : State :=
  let s := State.erasedBays s (s.baysOf p)
  let s := ((s.setFree .penTeardownLast 0 16 (p - 1)).setFree .penTeardownLast 16 16 (p - 1)).setFree .penTeardownLast 32 16 (p - 1)
  let s := (s.setFld .penTeardownLast 48 8 cause (p - 1)).setFld .penTeardownLast 63 1 1 (p - 1)
  ((s.bump .penState 48 16 (p - 1)).setFld .hifPenReset 0 1 0 (p - 1)).post 0 289 0 [ef p, ef cause]

theorem layoutFrame_erased (s : State) (p : Pen) (cause : Nat) : LayoutFrame (State.erasedBays s (s.baysOf p)) (State.erased s p cause) := by
  unfold State.erased
  extract_lets +onlyGivenNames s1 s2 s3
  have h3 : LayoutFrame s1 s3 := (((((LayoutFrame.refl s1).setFree ..).setFree ..).setFree ..).setFld ..).setFld ..
  exact LayoutFrame.events ((h3.setFld ..).setFld ..) ((EventsOnly.refl _).post ..)

theorem asked_erased (s : State) (p cause : Nat) : SameRegs AskedKey s (State.erased s p cause) := by
  have last : ¬ AskedKey (RegName.key .penTeardownLast 0 (p - 1)) := not_asked (by show _ ∨ _ ∨ 0xA00010 < 0xB00080 + 8 * (p - 1); omega)
  have reset : ¬ AskedKey (RegName.key .hifPenReset 0 (p - 1)) := not_asked (by show _ ∨ _ ∨ 0xA00010 < 0xC00180 + 8 * (p - 1); omega)
  have erased : SameRegs AskedKey s (State.erasedBays s (s.baysOf p)) := (SameRegs.refl s).of_regs (by rw [erasedBays_frame])
  have free {t : State} (lo w : Nat) (h : SameRegs AskedKey s t) : SameRegs AskedKey s (t.setFree .penTeardownLast lo w (p - 1)) :=
    SameRegs.setFld (s := (t.drawNat w).2) (h.of_regs rfl) .penTeardownLast lo w _ (p - 1) 0 last
  exact (((((free 32 16 (free 16 16 (free 0 16 erased))).setFld _ _ _ _ _ _ last).setFld _ _ _ _ _ _ last).bump _ _ _ _ _ _
    (not_asked_penState _)).setFld _ _ _ _ _ _ reset).post _ _ _ _ (not_asked_posts 0)

/-- What becomes of pen `p` of `s` once it is gone in `t` (R574, R610): nothing, a new pen, or a pen that waits. -/
def State.followed (s t : State) (p : Pen) : State :=
  let e := (s.pen p).next.getD (true, (s.pen p).confidential, (s.pen p).bays)
  if t.locked || !e.1 then t
  else if (s.pen p).next.isNone && t.drbgReady then t.createPen p e.2.1 e.2.2
  else t.onPen p (fun y => { y with createPending := true, next := some e })

/-- The state in which the pen is gone. -/
def State.goneAfter (s : State) (p : Pen) (cause : Nat) : State :=
  (State.erased s p cause).dropPen p (if (State.erased s p cause).locked then penLocked else penAbsent)

theorem next_ite_ite {c d : Prop} [Decidable c] [Decidable d] (x y z : State) :
    (if c then .next x else if d then .next y else .next z : Out) = .next (if c then x else if d then y else z) := by
  split
  · rfl
  · split
    · rfl
    · rfl

theorem exec_cryptoEraseDone {cause : Nat} (hc : (s.pen p).teardownCause = some cause) (stage : s.penSt p = penErasing) :
    exec (.cryptoEraseDone p) s = .next (State.followed s (State.goneAfter s p cause) p) := by
  simp only [exec, execCryptoEraseDone]
  rw [hc]
  dsimp only
  rw [if_neg (not_not_intro stage)]
  exact next_ite_ite ..

theorem goneAfter_shows (s : State) {p : Pen} (cause : Nat) (high : p ≤ 12) :
    (State.goneAfter s p cause).locked = s.locked ∧ (State.goneAfter s p cause).drbgReady = s.drbgReady ∧
    (State.goneAfter s p cause).pen p = {} ∧ (State.goneAfter s p cause).penSt p = if s.locked then penLocked else penAbsent := by
  have asked := asked_erased s p cause
  have gone := asked_dropPen asked high (if (State.erased s p cause).locked then penLocked else penAbsent)
  refine ⟨asked_locked gone, asked_drbgReady gone, pen_dropPen .., ?_⟩
  rw [← asked_locked asked]
  refine penSt_dropPen _ high ?_
  split
  · decide
  · decide

theorem LayoutFrame.followed (h : LayoutFrame s₀ t) (s : State) (p : Pen) : LayoutFrame s₀ (State.followed s t p) :=
  h.ite ((h.createPen ..).ite (h.setPen ..))

theorem penSt_createPen (s : State) {p : Nat} (high : p ≤ 12) (conf : Bool) (bays : BitVec 12) : (s.createPen p conf bays).penSt p = penReady := by
  rw [createPen_eq, penSt_penShown _ high]

theorem bay_followed (s : State) (p : Pen) (cause b : Nat) :
    (b ∈ s.baysOf p → ((State.followed s (State.goneAfter s p cause) p).bay b).erases = (s.bay b).erases + 1 ∧
      ∀ a, a / stackSpan = b → SMap.find (State.followed s (State.goneAfter s p cause) p).hbm a = none) ∧
    (b ∉ s.baysOf p → (State.followed s (State.goneAfter s p cause) p).bay b = s.bay b ∧
      ∀ a, a / stackSpan = b → SMap.find (State.followed s (State.goneAfter s p cause) p).hbm a = SMap.find s.hbm a) := by
  have follows : LayoutFrame (State.erasedBays s (s.baysOf p)) (State.followed s (State.goneAfter s p cause) p) :=
    ((layoutFrame_erased s p cause).dropPen p _).followed s p
  have frame := follows.frame
  have bay : (State.followed s (State.goneAfter s p cause) p).bay b = (State.erasedBays s (s.baysOf p)).bay b := by
    rw [State.bay, frame]
    rfl
  have hbm : (State.followed s (State.goneAfter s p cause) p).hbm = (State.erasedBays s (s.baysOf p)).hbm := by
    rw [frame]
  rw [bay, hbm]
  exact ⟨fun here => erasedBays_self (nodup_baysOf s p) here s, fun other => erasedBays_other other s⟩

theorem cryptoErase_part (s : State) {p : Pen} (high : p ≤ 12) (cause : Nat) (hc : (s.pen p).teardownCause = some cause)
    (stage : s.penSt p = penErasing) : ∃ t, exec (.cryptoEraseDone p) s = .next t ∧
      (∀ b, b < 12 → (b ∈ s.baysOf p → (t.bay b).erases = (s.bay b).erases + 1 ∧ ∀ a, a / stackSpan = b → SMap.find t.hbm a = none) ∧
        (b ∉ s.baysOf p → t.bay b = s.bay b ∧ ∀ a, a / stackSpan = b → SMap.find t.hbm a = SMap.find s.hbm a)) ∧
      (∀ e, (s.pen p).next = some e → e.1 = true → s.locked = false →
        (t.pen p).present = false ∧ (t.pen p).createPending = true ∧ (t.pen p).next = some e ∧ t.penSt p = penAbsent) ∧
      (∀ e, (s.pen p).next = some e → e.1 = false → s.locked = false → t.pen p = {} ∧ t.penSt p = penAbsent) ∧
      (s.locked = true → t.pen p = {} ∧ t.penSt p = penLocked) ∧
      (s.locked = false → (s.pen p).next = none → s.drbgReady = true →
        (t.pen p).present = true ∧ (t.pen p).bays = (s.pen p).bays ∧ (t.pen p).confidential = (s.pen p).confidential ∧
        (t.pen p).teardownCause = none ∧ t.penSt p = penReady) := by
  refine ⟨_, exec_cryptoEraseDone hc stage, fun b _ => bay_followed s p cause b, ?_⟩
  obtain ⟨locked, ready, pen, state⟩ := goneAfter_shows s cause high
  revert locked ready pen state
  generalize State.goneAfter s p cause = t
  intro locked ready pen state
  refine ⟨fun e he present free => ?_, fun e he absent free => ?_, fun lost => ?_, fun free none seeded => ?_⟩
  · have waits : State.followed s t p = t.onPen p (fun y => { y with createPending := true, next := some e }) := by
      unfold State.followed
      dsimp only
      rw [he, Option.getD_some, locked, free, present, if_neg (by decide)]
      exact if_neg (by rw [Option.isNone_some, Bool.false_and]; decide)
    rw [waits, pen_onPen_self, pen]
    refine ⟨rfl, rfl, rfl, ?_⟩
    rw [free] at state
    exact state
  · have ends : State.followed s t p = t := by
      unfold State.followed
      dsimp only
      exact if_pos (by rw [he, Option.getD_some, absent, Bool.not_false, Bool.or_true])
    rw [ends]
    rw [free] at state
    exact ⟨pen, state⟩
  · have ends : State.followed s t p = t := by
      unfold State.followed
      dsimp only
      exact if_pos (by rw [locked, lost, Bool.true_or])
    rw [ends]
    rw [lost] at state
    exact ⟨pen, state⟩
  · have anew : State.followed s t p = t.createPen p (s.pen p).confidential (s.pen p).bays := by
      unfold State.followed
      dsimp only
      rw [none, Option.getD_none, locked, free, ready, seeded]
      exact (if_neg Bool.false_ne_true).trans (if_pos rfl)
    obtain ⟨key, priv, made⟩ := pen_createPen t p (s.pen p).confidential (s.pen p).bays
    rw [anew, made]
    exact ⟨rfl, rfl, rfl, rfl, penSt_createPen t high ..⟩

/-! ### Creation -/

theorem exec_penCreate {e : Bool × Bool × BitVec 12} (he : (s.pen p).next = some e) : exec (.penCreate p) s =
    if (s.pen p).createPending && !(s.pen p).present && !s.locked && s.drbgReady && s.atReady &&
        (List.range 12).all (fun b => decide (s.penOfBay b = 0) || !e.2.2.getLsbD b) &&
        (List.range 12).all (fun i => (s.pen (i + 1)).next.isNone || (s.pen (i + 1)).teardownCause.isNone)
    then .next (s.createPen p e.2.1 e.2.2) else .next s := by
  simp only [exec, execPenCreate]
  rw [he]
  rfl

theorem quiet_iff (s : State) : (List.range 12).all (fun i => (s.pen (i + 1)).next.isNone || (s.pen (i + 1)).teardownCause.isNone) = true ↔
    ∀ p, 1 ≤ p → p ≤ 12 → (s.pen p).next = none ∨ (s.pen p).teardownCause = none := by
  simp only [List.all_eq_true, List.mem_range, Bool.or_eq_true, Option.isNone_iff_eq_none]
  refine ⟨fun h p low high => ?_, fun h i hi => h (i + 1) (by omega) (by omega)⟩
  have pen := h (p - 1) (by omega)
  rwa [Nat.sub_add_cancel low] at pen

theorem penCreate_part (s : State) {p : Pen} (high : p ≤ 12) (e : Bool × Bool × BitVec 12) (he : (s.pen p).next = some e) :
    let ready := (s.pen p).createPending = true ∧ (s.pen p).present = false ∧ s.locked = false ∧ s.drbgReady = true ∧ s.atReady = true ∧
      (∀ b, b < 12 → s.penOfBay b = 0 ∨ e.2.2.getLsbD b = false) ∧ (∀ p, 1 ≤ p → p ≤ 12 → (s.pen p).next = none ∨ (s.pen p).teardownCause = none)
    let t := s.createPen p e.2.1 e.2.2
    (ready → exec (.penCreate p) s = .next t ∧ (t.pen p).present = true ∧ (t.pen p).bays = e.2.2 ∧
      (t.pen p).confidential = e.2.1 ∧ (t.pen p).active = [] ∧ t.penSt p = penReady) ∧
    (¬ ready → exec (.penCreate p) s = .next s) := by
  intro ready t
  have asks : ((s.pen p).createPending && !(s.pen p).present && !s.locked && s.drbgReady && s.atReady &&
      (List.range 12).all (fun b => decide (s.penOfBay b = 0) || !e.2.2.getLsbD b) &&
      (List.range 12).all (fun i => (s.pen (i + 1)).next.isNone || (s.pen (i + 1)).teardownCause.isNone)) = true ↔ ready := by
    rw [Bool.and_eq_true, quiet_iff]
    simp only [ready, Bool.and_eq_true, List.all_eq_true, List.mem_range, Bool.or_eq_true, decide_eq_true_eq, Bool.not_eq_true', and_assoc]
  rw [exec_penCreate he]
  refine ⟨fun go => ?_, fun stay => if_neg fun h => stay (asks.1 h)⟩
  obtain ⟨key, priv, made⟩ := pen_createPen s p e.2.1 e.2.2
  refine ⟨if_pos (asks.2 go), ?_⟩
  unfold t
  rw [made]
  exact ⟨rfl, rfl, rfl, rfl, penSt_createPen s high ..⟩

end

/-- Settles O51. -/
theorem penTeardownInOrder : Obligations.PenTeardownInOrder := by
  unfold Obligations.PenTeardownInOrder
  intro s fn p low high dying
  refine ⟨fun guest other => ?_, exec_penReset_of_gone, fun present alive => (penReset_part s fn present (not_not.1 alive) low).1,
    fun present alive waits => ?_, fun present alive cause => ⟨teardown_of_alive present (not_not.1 alive) cause,
      fun idle => penSt_teardown present (not_not.1 alive) idle cause⟩,
    quiesce_part s, fun dies stage => ⟨exec_scrubDone dies stage, fun k => core_scrub_self s, fun k => core_scrub_other s⟩,
    cryptoErase_part s high, fun out => ?_, fun out => ?_, fun out => ?_, penCreate_part s high, fun none => ?_⟩
  · simp only [exec, execPenReset]
    exact if_pos ⟨guest, other⟩
  · obtain ⟨own, host⟩ := (penReset_part s fn present (not_not.1 alive) low).2 waits
    exact ⟨own, host, arbLost_shows s⟩
  · simp only [exec, execTeardownQuiesceDone]
    exact if_pos (not_turn out)
  · simp only [exec, execScrubDone]
    exact if_pos (not_turn out)
  · simp only [exec, execCryptoEraseDone]
    split
    · rfl
    next cause hc =>
      have stage := out.resolve_left (not_not_intro (show (s.pen p).teardownCause ≠ none by rw [hc]; exact Option.some_ne_none _))
      exact if_pos stage
  · simp only [exec, execPenCreate]
    rw [none]

end Sys2Proof.Proofs
end

section
/-!
PROOF. The commands of a ring: what serves the one that is to start next, how a data command moves its next part, and each command's
result or refusal.
-/

namespace Sys2Proof.Proofs

open Sys2Proof Sys2Proof.Machine Sys2Proof.Claims

section

variable {s : State} {ring : Ring} {i : Nat} {c : Inflight} {r : Nat}

/-! ### Serving a command -/

/-- The command that finishes notes its result at its place, and every other one keeps. -/
theorem finishCmd_inflight (s : State) (r i st : Nat) (pl : List Byte) {k : Nat} (hk : k < (s.ring r).inflight.length) :
    ((s.finishCmd r i st pl).ring r).inflight[k]? =
      ((s.ring r).inflight[k]?).map (fun c => if k = i then { c with done := some (st, pl) } else c) := by
  have place : ((s.ring r).inflight.zip (List.range (s.ring r).inflight.length))[k]? = some ((s.ring r).inflight[k], k) :=
    List.getElem?_zip_eq_some.2 ⟨List.getElem?_eq_getElem hk, List.getElem?_range hk⟩
  rw [State.finishCmd, State.onRing, State.ring_setRing_self, List.getElem?_map, place, List.getElem?_eq_getElem hk]
  rfl

theorem serve_of_next (next : s.nextCmd r = some (i, c)) {op : Nat} (hop : c.opcode = op) (f : Inflight → State → State × Nat × List Byte) :
    s.serve r op f = .next ((f c s).1.finishCmd r i (f c s).2.1 (f c s).2.2) := by
  unfold State.serve
  rw [next]
  exact if_pos hop

/-- A command whose work gives `x` is finished with it. -/
theorem serve_eq (next : s.nextCmd r = some (i, c)) {op : Nat} (hop : c.opcode = op) {f : Inflight → State → State × Nat × List Byte} {t : State}
    {st : Nat} {pl : List Byte} (work : f c s = (t, st, pl)) : s.serve r op f = .next (t.finishCmd r i st pl) := by
  rw [serve_of_next next hop, work]

theorem withJob_some {j : Job} (hj : s.job c.pen = some j) (f : Job → State × Nat × List Byte) : withJob c s f = f j := by
  rw [withJob, hj]

theorem withJob_none (idle : s.job c.pen = none) (f : Job → State × Nat × List Byte) : withJob c s f = (s, rsNoJob, []) := by
  rw [withJob, idle]
  rfl

/-! ### Moving data -/

/-- The state of the round in which a data command moves its next part. -/
def State.partRound (s : State) (c : Inflight) (dir : Nat) : State :=
  if (c.len - c.moved ≠ 0 ∧ roundPart (s.bytesLeft c.fn dir) (c.len - c.moved) = 0) ∧ s.roundOver = true then { s with hifUsed := [] } else s

theorem roundFor_part (s : State) (c : Inflight) (dir : Nat) :
    s.roundFor (decide (c.len - c.moved ≠ 0 ∧ roundPart (s.bytesLeft c.fn dir) (c.len - c.moved) = 0)) = State.partRound s c dir := by
  unfold State.roundFor State.partRound
  exact if_congr (by rw [Bool.and_eq_true, decide_eq_true_eq]) rfl rfl

theorem partRound_frame (s : State) (c : Inflight) (dir : Nat) : State.partRound s c dir = { s with hifUsed := (State.partRound s c dir).hifUsed } := by
  unfold State.partRound
  split
  · rfl
  · rfl

theorem job_partRound (s : State) (c : Inflight) (dir p : Nat) : (State.partRound s c dir).job p = s.job p := by
  rw [partRound_frame]
  rfl

theorem hostPlace_partRound (s : State) (c : Inflight) (dir off : Nat) : (State.partRound s c dir).hostPlace c off = s.hostPlace c off := by
  rw [partRound_frame]
  rfl

/-- A data command whose instruction is `moveData` with `f` moves its next part with what `f` gives in the round. -/
theorem movesPart_of_moveData (next : s.nextCmd ring.val = some (i, c)) {instr : Instr} {op dir : Nat} (hdir : opDir op = dir)
    {f : Inflight → Nat → Nat → State → State × Nat} {g : State → Nat → State × Nat} (run : exec instr s = s.moveData ring.val op f)
    (same : ∀ n, f c c.moved n (State.partRound s c dir) = g (State.partRound s c dir) n) : MovesPart s ring i c instr op dir g := by
  intro hop
  subst hdir
  dsimp only
  rw [run, State.moveData, next]
  dsimp only
  rw [if_neg (not_not_intro hop), roundFor_part]
  have round : (if (c.len - c.moved ≠ 0 ∧ roundPart (s.bytesLeft c.fn (opDir op)) (c.len - c.moved) = 0) ∧ s.roundOver = true
      then { s with hifUsed := [] } else s) = State.partRound s c (opDir op) := rfl
  rw [round, same]
  refine ⟨fun none some => if_pos ⟨none, some⟩, fun moves => ?_⟩
  rw [if_neg moves]
  refine ⟨fun ends => if_pos ends, fun well more => if_neg fun h => ?_⟩
  exact h.elim (absurd well) more

theorem dmaH2d_moves (next : s.nextCmd ring.val = some (i, c)) :
    MovesPart s ring i c (.dmaH2d ring) 1 dirIn (fun t n =>
      if n = 0 then (t, rsOk)
      else if s.confFn c.fn then
        State.bounceIn c.pen ring.val (s.hostPlace c c.moved) (fun o => c.word 0x18 + c.moved + o) n
          (fun t o => State.dmaPut c t (c.moved + o)) (n / 4096 + 1) t 0
      else (State.dmaPut c t c.moved (t.hostRead (s.hostPlace c c.moved) n), rsOk)) := by
  refine movesPart_of_moveData next rfl (by rw [exec, execDmaH2d]) fun n => ?_
  have conf : (State.partRound s c (opDir 1)).confFn c.fn = s.confFn c.fn := by
    rw [partRound_frame]
    rfl
  rw [hostPlace_partRound, conf]

theorem dmaD2h_moves (next : s.nextCmd ring.val = some (i, c)) :
    MovesPart s ring i c (.dmaD2h ring) 2 dirOut (fun t n =>
      (t.noteVa c.pen (c.word 0x18 + c.moved) n).toHost c.fn ring.val (s.hostPlace c c.moved) (some (c.word 0x18 + c.moved))
        (t.vaRead c.pen (c.word 0x18 + c.moved) n)) := by
  refine movesPart_of_moveData next rfl (by rw [exec, execDmaD2h]) fun n => ?_
  dsimp only
  rw [hostPlace_partRound]

theorem journalExport_moves (next : s.nextCmd ring.val = some (i, c)) {j : Job} (hj : s.job c.pen = some j)
    (inside : c.word 0x18 + c.len ≤ regionSize j.journal) :
    MovesPart s ring i c (.journalExport ring) 16 dirOut (fun t n =>
      (t.noteRegion j.journal (c.word 0x18 + c.moved) n).toHost c.fn ring.val (s.hostPlace c c.moved) none
        (t.regionRead j.journal (c.word 0x18 + c.moved) n)) := by
  refine movesPart_of_moveData next rfl (by rw [exec, execJournalExport]) fun n => ?_
  rw [job_partRound, hj, hostPlace_partRound]
  exact if_neg (Nat.not_lt.2 inside)

/-- What a round that still has 4 KiB for a function gives it of a rest. -/
theorem roundPart_ne_zero {left rest : Nat} (some : rest ≠ 0) (room : 4096 ≤ left) : roundPart left rest ≠ 0 := by
  unfold roundPart
  split
  · exact some
  · omega

theorem journalExport_outside (next : s.nextCmd ring.val = some (i, c)) {j : Job} (hj : s.job c.pen = some j) (hop : c.opcode = 16)
    (some : c.len ≠ 0) (new : c.moved = 0) (outside : regionSize j.journal < c.word 0x18 + c.len) (room : 4096 ≤ s.bytesLeft c.fn dirOut) :
    ∃ t : State, exec (.journalExport ring) s = .next (t.finishCmd ring.val i rsLength []) ∧ t.hostMem = s.hostMem := by
  have rest : c.len - c.moved ≠ 0 := by omega
  have part := roundPart_ne_zero rest room
  have round : State.partRound s c dirOut = s := if_neg fun h => part h.1.2
  have moves : MovesPart s ring i c (.journalExport ring) 16 dirOut (fun t _ => (t, rsLength)) := by
    refine movesPart_of_moveData next rfl (by rw [exec, execJournalExport]) fun n => ?_
    rw [job_partRound, hj]
    exact if_pos outside
  have refused := ((moves hop).2 fun h => ?_).1 (.inl (show rsLength ≠ rsOk by decide))
  · change exec (.journalExport ring) s = .next (((State.partRound s c dirOut).noteBytes c.fn dirOut _).finishCmd ring.val i rsLength []) at refused
    rw [round] at refused
    exact ⟨_, refused, rfl⟩
  · change roundPart ((State.partRound s c dirOut).bytesLeft c.fn dirOut) (c.len - c.moved) = 0 ∧ _ at h
    rw [round] at h
    exact part h.1

/-! ### Loads and the job's commands -/

/-- What a load gives: its first refusal, or the job placed and installed. -/
def State.loadWork (c : Inflight) (s : State) : State × Nat × List Byte :=
  match s.loadCheck c.pen c.params with
  | some e => (s, e.status, failPayload e)
  | none => s.loadPlace c.pen c.params

theorem exec_jobLoad (s : State) (ring : Ring) : exec (.jobLoad ring) s = s.serve ring.val 3 (fun c s => State.loadWork c s.ensureMode) := rfl

theorem jobLoad_part (next : s.nextCmd ring.val = some (i, c)) (hop : c.opcode = 3) :
    let s0 := s.ensureMode
    (∀ e, s0.loadCheck c.pen c.params = some e → exec (.jobLoad ring) s = .next (s0.finishCmd ring.val i e.status (failPayload e))) ∧
    (s0.loadCheck c.pen c.params = none →
      let x := s0.loadIn c.params
      let j := s0.loadJob c.pen c.params x
      (∀ t e, (s0.setJob c.pen (some j)).place c.pen = (t, some e) →
        exec (.jobLoad ring) s = .next (s0.finishCmd ring.val i e.status (failPayload e))) ∧
      (∀ t, (s0.setJob c.pen (some j)).place c.pen = (t, none) →
        let q := t.install c.pen c.params x j
        exec (.jobLoad ring) s = .next (q.1.finishCmd ring.val i q.2.1 q.2.2) ∧ q.2.1 = rsOk)) := by
  intro s0
  refine ⟨fun e fails => ?_, fun passes => ?_⟩
  · rw [exec_jobLoad]
    exact serve_eq next hop (show State.loadWork c s0 = _ by rw [State.loadWork, fails])
  · intro x j
    refine ⟨fun t e full => ?_, fun t placed => ⟨?_, rfl⟩⟩
    · rw [exec_jobLoad]
      exact serve_eq next hop (show State.loadWork c s0 = _ by rw [State.loadWork, passes]; dsimp only; rw [State.loadPlace, full])
    · rw [exec_jobLoad]
      exact serve_eq next hop (show State.loadWork c s0 = _ by rw [State.loadWork, passes]; dsimp only; rw [State.loadPlace, placed])

theorem seedSet_part (next : s.nextCmd ring.val = some (i, c)) {j : Job} (hj : s.job c.pen = some j) (hop : c.opcode = 7) :
    let sealed_ := s.fld .devMode 0 1 = 1 ∧ c.aux % 2 = 1 ∧ firstT0 j = true
    (sealed_ → exec (.seedSet ring) s = .next (s.finishCmd ring.val i rsSealed [])) ∧
    (¬ sealed_ → t0Passed j (c.word 0x18) = true → exec (.seedSet ring) s = .next (s.finishCmd ring.val i rsSeedLate [])) ∧
    (¬ sealed_ → t0Passed j (c.word 0x18) = false →
      let e : SeedEntry := { first := c.word 0x18, seed := BitVec.ofNat 64 (c.word 0x10), drawn := decide (c.aux % 2 = 1) }
      let s1 := s.onJob c.pen (fun j => { j with seeds := j.seeds.filter (fun x => decide (x.first ≠ c.word 0x18)) ++ [e] })
      exec (.seedSet ring) s = .next ((s1.seedRegs c.pen (s1.stepOf c.pen)).finishCmd ring.val i rsOk [])) := by
  intro sealed_
  have asks : (s.fld .devMode 0 1 = 1 ∧ decide (c.aux % 2 = 1) = true ∧ firstT0 j = true) ↔ sealed_ := by rw [decide_eq_true_eq]
  simp only [exec, execSeedSet]
  refine ⟨fun kept => serve_eq next hop ?_, fun free late => serve_eq next hop ?_, fun free early => serve_eq next hop ?_⟩
  · rw [withJob_some hj]
    exact if_pos (asks.2 kept)
  · rw [withJob_some hj]
    exact (if_neg fun h => free (asks.1 h)).trans (if_pos late)
  · rw [withJob_some hj]
    exact (if_neg fun h => free (asks.1 h)).trans (if_neg (Bool.eq_false_iff.1 early))

theorem yokeCheck_reserved (next : s.nextCmd ring.val = some (i, c)) (hop : c.opcode = 9) (bad : ∃ b ∈ c.body.take 12, 64 ≤ b.toNat) :
    exec (.yokeCheck ring) s = .next (s.finishCmd ring.val i rsReserved []) := by
  simp only [exec, execYokeCheck]
  refine serve_eq next hop (if_pos ?_)
  obtain ⟨b, hb, high⟩ := bad
  exact List.any_eq_true.2 ⟨b, hb, decide_eq_true high⟩

/-- A yoke check whose reserved bits are zero asks the job. -/
theorem exec_yokeCheck (next : s.nextCmd ring.val = some (i, c)) (hop : c.opcode = 9) (clean : ∀ b ∈ c.body.take 12, b.toNat < 64)
    {x : State × Nat × List Byte} (asks : withJob c s (fun j =>
      if (yokePairs c.body).any (fun l => isWide j l || decide (j.rows ≤ l / 12)) then plain s rsYokeConflict
      else plain (s.onJob c.pen (fun j => { j with yokeCheckNext := some (yokePairs c.body) })) rsOk) = x) :
    exec (.yokeCheck ring) s = .next (x.1.finishCmd ring.val i x.2.1 x.2.2) := by
  simp only [exec, execYokeCheck]
  refine serve_eq next hop ((if_neg fun h => ?_).trans asks)
  obtain ⟨b, hb, high⟩ := List.any_eq_true.1 h
  exact absurd (of_decide_eq_true high) (Nat.not_le.2 (clean b hb))

theorem yokeCheck_part (next : s.nextCmd ring.val = some (i, c)) {j : Job} (hj : s.job c.pen = some j) (hop : c.opcode = 9)
    (clean : ∀ b ∈ c.body.take 12, b.toNat < 64) :
    ((∃ l ∈ yokePairs c.body, isWide j l = true ∨ j.rows ≤ l / 12) →
      exec (.yokeCheck ring) s = .next (s.finishCmd ring.val i rsYokeConflict [])) ∧
    ((∀ l ∈ yokePairs c.body, isWide j l = false ∧ l / 12 < j.rows) → exec (.yokeCheck ring) s =
      .next ((s.onJob c.pen (fun j => { j with yokeCheckNext := some (yokePairs c.body) })).finishCmd ring.val i rsOk [])) := by
  have conflict : (yokePairs c.body).any (fun l => isWide j l || decide (j.rows ≤ l / 12)) = true ↔
      ∃ l ∈ yokePairs c.body, isWide j l = true ∨ j.rows ≤ l / 12 := by
    simp only [List.any_eq_true, Bool.or_eq_true, decide_eq_true_eq]
  refine ⟨fun bad => ?_, fun good => ?_⟩
  · exact exec_yokeCheck next hop clean ((withJob_some hj _).trans (if_pos (conflict.2 bad)))
  · refine exec_yokeCheck next hop clean ((withJob_some hj _).trans (if_neg fun h => ?_))
    obtain ⟨l, hl, wide | outside⟩ := conflict.1 h
    · exact absurd wide (Bool.eq_false_iff.1 (good l hl).1)
    · exact absurd outside (Nat.not_le.2 (good l hl).2)

theorem seedDraw_part (next : s.nextCmd ring.val = some (i, c)) (hop : c.opcode = 8) :
    let sealed_ := s.fld .devMode 0 1 = 1 ∧ firstT0 (s.jobD c.pen) = true
    (sealed_ → exec (.seedDraw ring) s = .next (s.finishCmd ring.val i rsSealed [])) ∧
    (¬ sealed_ → s.replayMode c.pen = true → exec (.seedDraw ring) s = .next (s.finishCmd ring.val i rsReplay [])) ∧
    (¬ sealed_ → s.replayMode c.pen = false → s.drbgReady = false → exec (.seedDraw ring) s = .next (s.finishCmd ring.val i rsEntropy [])) ∧
    (¬ sealed_ → s.replayMode c.pen = false → s.drbgReady = true →
      let s1 := (s.generate true).bump .rngHealth 48 16
      exec (.seedDraw ring) s =
        .next (({ s1 with fresh := s1.fresh + 1 } : State).finishCmd ring.val i rsOk (le 8 (Config.freeBits s1.fresh).toNat))) := by
  simp only [exec, execSeedDraw]
  refine ⟨fun kept => serve_eq next hop (if_pos kept), fun free replays => serve_eq next hop ?_, fun free fresh dry => serve_eq next hop ?_,
    fun free fresh ready => serve_eq next hop ?_⟩
  · exact (if_neg free).trans (if_pos replays)
  · exact (if_neg free).trans ((if_neg (Bool.eq_false_iff.1 fresh)).trans (if_pos (by rw [dry]; rfl)))
  · exact (if_neg free).trans ((if_neg (Bool.eq_false_iff.1 fresh)).trans (if_neg (by rw [ready]; decide)))

end

/-- Settles O46. -/
theorem ringCommandsTakeEffect : Obligations.RingCommandsTakeEffect := by
  unfold Obligations.RingCommandsTakeEffect
  refine ⟨fun s r i st pl k hk => finishCmd_inflight s r i st pl hk, fun s ring i c next => ⟨fun hop => ?_, dmaH2d_moves next,
    dmaD2h_moves next, fun j hj inside => journalExport_moves next hj inside, fun t a v bs plain => if_neg (Bool.eq_false_iff.1 plain),
    fun t off bs => rfl, jobLoad_part next, fun j hj => ⟨fun hop stopped => ?_, fun hop runs => ?_, fun hop runs => ?_, fun hop ended => ?_,
      fun hop => ?_, seedSet_part next hj, yokeCheck_part next hj, journalExport_outside next hj⟩, yokeCheck_reserved next,
    fun idle => ⟨fun hop => ?_, fun hop => ?_, fun hop => ?_, fun hop => ?_, fun hop clean => ?_⟩, seedDraw_part next⟩⟩
  · simp only [exec, execCmdNop]
    exact serve_eq next hop rfl
  · simp only [exec, execJobUnload]
    exact serve_eq next hop ((withJob_some hj _).trans (if_neg stopped))
  · simp only [exec, execJobUnload]
    exact serve_eq next hop ((withJob_some hj _).trans (if_pos runs))
  · simp only [exec, execJobAbort]
    exact serve_eq next hop ((withJob_some hj _).trans (congrArg (plain · rsOk) (if_neg runs)))
  · simp only [exec, execJobAbort]
    exact serve_eq next hop ((withJob_some hj _).trans (congrArg (plain · rsOk) (if_pos ended)))
  · simp only [exec, execStepRelease]
    exact serve_eq next hop (withJob_some hj _)
  · simp only [exec, execJobUnload]
    exact serve_eq next hop (withJob_none idle _)
  · simp only [exec, execJobAbort]
    exact serve_eq next hop (withJob_none idle _)
  · simp only [exec, execStepRelease]
    exact serve_eq next hop (withJob_none idle _)
  · simp only [exec, execSeedSet]
    exact serve_eq next hop (withJob_none idle _)
  · exact exec_yokeCheck next hop clean (withJob_none idle _)

end Sys2Proof.Proofs
end

section
/-!
PROOF. Snapshots, checkpoints, restores and imports: each command's work as it is served, and its refusals in their order.
-/

namespace Sys2Proof.Proofs

open Sys2Proof Sys2Proof.Machine Sys2Proof.Claims

section

variable {s : State} {ring : Ring} {i : Nat} {c : Inflight} {j : Job}

/-! ### Snapshots and the arming of a checkpoint -/

theorem snapshot_part (next : s.nextCmd ring.val = some (i, c)) (hj : s.job c.pen = some j) (hop : c.opcode = 10) :
    (sweepBegun j (c.word 0x10) = true → exec (.snapshot ring) s = .next (s.finishCmd ring.val i rsSnapLate [])) ∧
    (sweepBegun j (c.word 0x10) = false →
      let a : SnapArm := { step := c.word 0x10, va := c.word 0x18, peer := if c.aux % 2 = 1 then some (c.word 0x20 % 65536) else none }
      exec (.snapshot ring) s = .next (((s.onJob c.pen (fun j => { j with snap := some a })).setReg .updSnap
        (BitVec.ofNat 64 (1 + c.word 0x10 % 2 ^ 56 * 2 ^ 8)) (c.pen - 1)).finishCmd ring.val i rsOk [])) := by
  refine ⟨fun late => ?_, fun early => ?_⟩
  · rw [exec, execSnapshot]
    exact serve_eq next hop ((withJob_some hj _).trans (if_pos late))
  · rw [exec, execSnapshot]
    exact serve_eq next hop ((withJob_some hj _).trans (if_neg (Bool.eq_false_iff.1 early)))

/-- What a CKPT_ARM arms. -/
def armOf (ring : Ring) (c : Inflight) : CkptArm :=
  { step := c.word 0x18, buddy := decide (c.aux % 2 = 1), buddyDev := fieldAt c.body 0x10 2, dedup := fieldAt c.body 0x12 1
    narrow := decide (c.aux / 2 % 2 = 1), ring := ring.val, buffers := bufferList c.params }

/-- The state in which a checkpoint is armed. -/
def State.armed (s : State) (ring : Ring) (c : Inflight) : State :=
  ((((s.onJob c.pen (fun j => { j with ckpt := some (armOf ring c) })).setFld .updCkpt 0 2 1 (c.pen - 1)).setFld .updCkpt 2 1
    (if decide (c.aux % 2 = 1) then 1 else 0) (c.pen - 1)).setFld .updCkpt 3 1 (if decide (c.aux / 2 % 2 = 1) then 1 else 0)
    (c.pen - 1)).setFld .updCkpt 8 56 (c.word 0x18) (c.pen - 1)

/-- Another checkpoint of the job is under way. -/
def ckptBusy (j : Job) (step : Nat) : Prop := j.ckptRun ≠ none ∨ ∃ a, j.ckpt = some a ∧ a.step ≠ step

theorem ckptBusy_iff (j : Job) (step : Nat) :
    (j.ckptRun.isSome || (match j.ckpt with | some a => decide (a.step ≠ step) | none => false)) = true ↔ ckptBusy j step := by
  rw [ckptBusy, Bool.or_eq_true, Option.isSome_iff_ne_none]
  refine or_congr_right ?_
  cases j.ckpt with
  | none => exact ⟨fun h => absurd h Bool.false_ne_true, fun ⟨a, ha, _⟩ => nomatch ha⟩
  | some a => exact ⟨fun h => ⟨a, rfl, of_decide_eq_true h⟩, fun ⟨b, hb, ne⟩ => by cases hb; exact decide_eq_true ne⟩

theorem ckptArm_part (next : s.nextCmd ring.val = some (i, c)) (hj : s.job c.pen = some j) (hop : c.opcode = 11) :
    let ended := s.fld .updJob 0 2 (c.pen - 1) = 3
    (ended → exec (.ckptArm ring) s = .next (s.finishCmd ring.val i (rsCkpt 3) [])) ∧
    (¬ ended → wordGone j (c.word 0x18) = true → exec (.ckptArm ring) s = .next (s.finishCmd ring.val i (rsCkpt 1) [])) ∧
    (¬ ended → wordGone j (c.word 0x18) = false → ckptBusy j (c.word 0x18) →
      exec (.ckptArm ring) s = .next (s.finishCmd ring.val i (rsCkpt 2) [])) ∧
    (¬ ended → wordGone j (c.word 0x18) = false → ¬ ckptBusy j (c.word 0x18) →
      exec (.ckptArm ring) s = .next ((State.armed s ring c).finishCmd ring.val i rsOk [])) := by
  intro ended
  refine ⟨fun over_ => ?_, fun open_ gone => ?_, fun open_ here busy => ?_, fun open_ here free => ?_⟩
  · rw [exec, execCkptArm]
    exact serve_eq next hop ((withJob_some hj _).trans (if_pos over_))
  · rw [exec, execCkptArm]
    exact serve_eq next hop ((withJob_some hj _).trans ((if_neg open_).trans (if_pos gone)))
  · rw [exec, execCkptArm]
    exact serve_eq next hop ((withJob_some hj _).trans ((if_neg open_).trans ((if_neg (Bool.eq_false_iff.1 here)).trans
      (if_pos ((ckptBusy_iff ..).2 busy)))))
  · rw [exec, execCkptArm]
    exact serve_eq next hop ((withJob_some hj _).trans ((if_neg open_).trans ((if_neg (Bool.eq_false_iff.1 here)).trans
      (if_neg fun h => free ((ckptBusy_iff ..).1 h)))))

theorem armed_frame (s : State) (ring : Ring) (c : Inflight) :
    State.armed s ring c = { s with regs := (State.armed s ring c).regs, pens := (State.armed s ring c).pens } ∧
    (State.armed s ring c).pens = (s.onJob c.pen (fun j => { j with ckpt := some (armOf ring c) })).pens := by
  have shown : EventsOnly (s.onJob c.pen (fun j => { j with ckpt := some (armOf ring c) })) (State.armed s ring c) :=
    ((((EventsOnly.refl _).setFld ..).setFld ..).setFld ..).setFld ..
  refine ⟨rfl, ?_⟩
  rw [shown.frame]

theorem armed_shows (s : State) (ring : Ring) (c : Inflight) (hj : s.job c.pen = some j) :
    State.armed s ring c = { s with regs := (State.armed s ring c).regs, pens := (State.armed s ring c).pens } ∧
    (∀ p, p ≠ c.pen → (State.armed s ring c).pen p = s.pen p) ∧
    (State.armed s ring c).job c.pen = some { j with ckpt := some (armOf ring c) } ∧
    (State.armed s ring c).fld .updCkpt 0 2 (c.pen - 1) = 1 ∧ (State.armed s ring c).fld .updCkpt 2 1 (c.pen - 1) = c.aux % 2 ∧
    (State.armed s ring c).fld .updCkpt 3 1 (c.pen - 1) = c.aux / 2 % 2 ∧
    (State.armed s ring c).fld .updCkpt 8 56 (c.pen - 1) = c.word 0x18 % 2 ^ 56 := by
  obtain ⟨frame, pens⟩ := armed_frame s ring c
  have bit (n : Nat) : (if decide (n % 2 = 1) = true then 1 else 0) = n % 2 := by
    by_cases odd : n % 2 = 1
    · rw [decide_eq_true odd, odd]
      rfl
    · rw [decide_eq_false odd, if_neg Bool.false_ne_true]
      omega
  have two : ∀ n, n % 2 < 2 ^ 1 := fun n => Nat.mod_lt _ (by decide)
  refine ⟨frame, fun p hp => ?_, ?_, ?_, ?_, ?_, fld_setFld_self _ _ _ _ _ (by decide)⟩
  · rw [pen_of_pens pens, State.onJob, pen_onPen_ne _ _ hp]
  · rw [State.job, pen_of_pens pens, ← State.job, job_onJob_self hj]
  · unfold State.armed
    rw [fld_setFld_beside _ _ _ _ _ (by decide), fld_setFld_beside _ _ _ _ _ (by decide), fld_setFld_beside _ _ _ _ _ (by decide),
      fld_setFld_of_lt _ _ _ _ (by decide) (by decide)]
  · unfold State.armed
    rw [fld_setFld_beside _ _ _ _ _ (by decide), fld_setFld_beside _ _ _ _ _ (by decide), bit, fld_setFld_of_lt _ _ _ _ (by decide) (two _)]
  · unfold State.armed
    rw [fld_setFld_beside _ _ _ _ _ (by decide), bit, bit, fld_setFld_of_lt _ _ _ _ (by decide) (two _)]

/-! ### Receiving a buddy's shard -/

/-- A window of a pen reaches the addresses of the buddy region. -/
def reachesBuddy (x : PenS) : Prop := ∃ kv ∈ x.active, (winEntry kv.2).valid = true ∧ 2 ^ 47 < (winEntry kv.2).lo + (winEntry kv.2).span

theorem reachesBuddy_iff (x : PenS) :
    x.active.any (fun kv => (winEntry kv.2).valid && decide (2 ^ 47 < (winEntry kv.2).lo + (winEntry kv.2).span)) = true ↔ reachesBuddy x := by
  simp only [reachesBuddy, List.any_eq_true, Bool.and_eq_true, decide_eq_true_eq]

theorem buddyReceive_part (next : s.nextCmd ring.val = some (i, c)) (hj : s.job c.pen = some j) (hop : c.opcode = 12) :
    (j.buddy = none → exec (.buddyReceive ring) s = .next (s.finishCmd ring.val i (rsCkpt 6) [])) ∧
    (j.buddy ≠ none → reachesBuddy (s.pen c.pen) → exec (.buddyReceive ring) s = .next (s.finishCmd ring.val i (rsCkpt 8) [])) ∧
    (j.buddy ≠ none → ¬ reachesBuddy (s.pen c.pen) → exec (.buddyReceive ring) s =
      .next (((s.onJob c.pen (fun j => { j with buddyFrom := some (fieldAt c.body 0 2) })).setFld .updCkpt 4 1 1 (c.pen - 1)).finishCmd
        ring.val i rsOk [])) := by
  have named (h : j.buddy ≠ none) : ¬ j.buddy.isNone = true := fun e => h (Option.isNone_iff_eq_none.1 e)
  refine ⟨fun none => ?_, fun some reaches => ?_, fun some apart => ?_⟩
  · rw [exec, execBuddyReceive]
    exact serve_eq next hop ((withJob_some hj _).trans (if_pos (Option.isNone_iff_eq_none.2 none)))
  · rw [exec, execBuddyReceive]
    exact serve_eq next hop ((withJob_some hj _).trans ((if_neg (named some)).trans (if_pos ((reachesBuddy_iff _).2 reaches))))
  · rw [exec, execBuddyReceive]
    exact serve_eq next hop ((withJob_some hj _).trans ((if_neg (named some)).trans (if_neg fun h => apart ((reachesBuddy_iff _).1 h))))

/-! ### Restores -/

/-- What the file of a restore gives once it is read (R560, R562): its first refusal, or the entries written. -/
def State.restoreWork (s : State) (p : Pen) (j : Job) (src : List (Byte × Bool)) : State × Nat × List Byte :=
  let bs := src.map Prod.fst
  let uses := fileUses j.plan bs
  if !fileSealed bs then plain s (rsCkpt 10)
  else if uses.any (fun et => !formatFits (fileNarrow bs) et.1 et.2) then plain s (rsCkpt 11)
  else match uses.foldl addCount (some (j.restore.getD {}).counts) with
    | none => plain s (rsCkpt 12)
    | some counts =>
      match uses.findSome? (s.restoreCause p) with
      | some k => plain s (if k = causeWindowMiss then rsWindowMiss else rsWindowPerm)
      | none =>
        let t := (uses.foldl (fun s et => s.restoreEntry p src et) s).onJob p (fun y =>
          { y with restore := some ((j.restore.getD {}).addFile bs counts) })
        plain (t.setFld .updCkpt 0 2 3 (p - 1)) rsOk

/-- A restore of a bank that exists, before the first T0, reads its source and works on what it finds. -/
theorem exec_restore (next : s.nextCmd ring.val = some (i, c)) (hj : s.job c.pen = some j) (hop : c.opcode = 13) (low : c.aux ≤ 2)
    (before : firstT0 j = false) {s1 : State} {src : List (Byte × Bool)} (read : s.restoreSource c ring.val j = (s1, .ok src))
    {t : State} {st : Nat} (work : State.restoreWork s1 c.pen j src = (t, st, [])) :
    exec (.restore ring) s = .next (t.finishCmd ring.val i st []) := by
  rw [exec, execRestore]
  refine serve_eq next hop ((if_neg (Nat.not_lt.2 low)).trans ((withJob_some hj _).trans ((if_neg (Bool.eq_false_iff.1 before)).trans ?_)))
  rw [read]
  exact work

theorem misfit_iff (uses : List (FileRec × TensorRec)) (narrow : Bool) : uses.any (fun et => !formatFits narrow et.1 et.2) = true ↔
    ¬ ∀ et ∈ uses, formatFits narrow et.1 et.2 = true := by
  simp only [List.any_eq_true, Bool.not_eq_true', not_forall, Bool.not_eq_true, exists_prop]

theorem restoreWork_cases (s : State) (p : Pen) (j : Job) (src : List (Byte × Bool)) :
    let bs := src.map Prod.fst
    let uses := fileUses j.plan bs
    let fits := ∀ et ∈ uses, formatFits (fileNarrow bs) et.1 et.2 = true
    let sum := uses.foldl addCount (some (j.restore.getD {}).counts)
    (fileSealed bs = false → State.restoreWork s p j src = (s, rsCkpt 10, [])) ∧
    (fileSealed bs = true → ¬ fits → State.restoreWork s p j src = (s, rsCkpt 11, [])) ∧
    (fileSealed bs = true → fits → sum = none → State.restoreWork s p j src = (s, rsCkpt 12, [])) ∧
    (∀ counts k, fileSealed bs = true → fits → sum = some counts → uses.findSome? (s.restoreCause p) = some k →
      State.restoreWork s p j src = (s, if k = 1 then rsWindowMiss else rsWindowPerm, [])) ∧
    (∀ counts, fileSealed bs = true → fits → sum = some counts → uses.findSome? (s.restoreCause p) = none →
      State.restoreWork s p j src = ((((uses.foldl (fun s et => s.restoreEntry p src et) s).onJob p (fun j' =>
        { j' with restore := some ((j.restore.getD {}).addFile bs counts) })).setFld .updCkpt 0 2 3 (p - 1)), rsOk, [])) := by
  intro bs uses fits sum
  have sealed_ (h : fileSealed bs = true) : ¬ (!fileSealed bs) = true := by
    rw [h]
    decide
  have fitting (h : fits) : ¬ uses.any (fun et => !formatFits (fileNarrow bs) et.1 et.2) = true := fun e => (misfit_iff ..).1 e h
  unfold State.restoreWork
  dsimp only
  refine ⟨fun torn => if_pos (by rw [torn]; rfl), fun whole misfit => ?_, fun whole fit over_ => ?_, fun counts k whole fit added cause => ?_,
    fun counts whole fit added free => ?_⟩
  · exact (if_neg (sealed_ whole)).trans (if_pos ((misfit_iff ..).2 misfit))
  · rw [if_neg (sealed_ whole), if_neg (fitting fit), show List.foldl addCount _ _ = none from over_]
    rfl
  · rw [if_neg (sealed_ whole), if_neg (fitting fit), show List.foldl addCount _ _ = some counts from added]
    dsimp only
    rw [show List.findSome? (s.restoreCause p) _ = some k from cause]
    rfl
  · rw [if_neg (sealed_ whole), if_neg (fitting fit), show List.foldl addCount _ _ = some counts from added]
    dsimp only
    rw [show List.findSome? (s.restoreCause p) _ = none from free]
    rfl

theorem restore_part (next : s.nextCmd ring.val = some (i, c)) (hj : s.job c.pen = some j) (hop : c.opcode = 13) (low : c.aux ≤ 2) :
    (firstT0 j = true → exec (.restore ring) s = .next (s.finishCmd ring.val i (rsCkpt 9) [])) ∧
    (firstT0 j = false → ∀ s1,
      (∀ e, s.restoreSource c ring.val j = (s1, .error e) → exec (.restore ring) s = .next (s1.finishCmd ring.val i e [])) ∧
      (∀ src, s.restoreSource c ring.val j = (s1, .ok src) →
        let bs := src.map Prod.fst
        let uses := fileUses j.plan bs
        let fits := ∀ et ∈ uses, formatFits (fileNarrow bs) et.1 et.2 = true
        let sum := uses.foldl addCount (some (j.restore.getD {}).counts)
        (fileSealed bs = false → exec (.restore ring) s = .next (s1.finishCmd ring.val i (rsCkpt 10) [])) ∧
        (fileSealed bs = true → ¬ fits → exec (.restore ring) s = .next (s1.finishCmd ring.val i (rsCkpt 11) [])) ∧
        (fileSealed bs = true → fits → sum = none → exec (.restore ring) s = .next (s1.finishCmd ring.val i (rsCkpt 12) [])) ∧
        (∀ counts k, fileSealed bs = true → fits → sum = some counts → uses.findSome? (s1.restoreCause c.pen) = some k →
          exec (.restore ring) s = .next (s1.finishCmd ring.val i (if k = 1 then rsWindowMiss else rsWindowPerm) [])) ∧
        (∀ counts, fileSealed bs = true → fits → sum = some counts → uses.findSome? (s1.restoreCause c.pen) = none →
          let s2 := uses.foldl (fun s et => s.restoreEntry c.pen src et) s1
          let s3 := s2.onJob c.pen (fun j' => { j' with restore := some ((j.restore.getD {}).addFile bs counts) })
          exec (.restore ring) s = .next ((s3.setFld .updCkpt 0 2 3 (c.pen - 1)).finishCmd ring.val i rsOk [])))) := by
  refine ⟨fun late => ?_, fun before s1 => ⟨fun e fails => ?_, fun src read => ?_⟩⟩
  · rw [exec, execRestore]
    exact serve_eq next hop ((if_neg (Nat.not_lt.2 low)).trans ((withJob_some hj _).trans (if_pos late)))
  · rw [exec, execRestore]
    refine serve_eq next hop ((if_neg (Nat.not_lt.2 low)).trans ((withJob_some hj _).trans ((if_neg (Bool.eq_false_iff.1 before)).trans ?_)))
    rw [fails]
    rfl
  · have gives {t : State} {st : Nat} := exec_restore (t := t) (st := st) next hj hop low before read
    obtain ⟨torn, misfit, full, cause, done⟩ := restoreWork_cases s1 c.pen j src
    exact ⟨fun h => gives (torn h), fun h h' => gives (misfit h h'), fun h h' h'' => gives (full h h' h''),
      fun counts k h h' h'' hk => gives (cause counts k h h' h'' hk), fun counts h h' h'' hk => gives (done counts h h' h'' hk)⟩

/-! ### The end of a restore -/

/-- An element of a bank that the files restored do not cover. -/
def restoreShort (j : Job) : Prop := ∃ k t, (k, t) ∈ (List.range j.plan.recs.length).zip j.plan.recs ∧ t.isMetric = false ∧
  SMap.get (fun _ => 0) (j.restore.getD {}).counts k ≠ t.elems

theorem restoreShort_iff (j : Job) : (j.plan.recs.zip (List.range j.plan.recs.length)).any (fun ti =>
    !ti.1.isMetric && decide (SMap.get (fun _ => 0) (j.restore.getD {}).counts ti.2 ≠ ti.1.elems)) = true ↔ restoreShort j := by
  have swap (k : Nat) (t : TensorRec) :
      (t, k) ∈ j.plan.recs.zip (List.range j.plan.recs.length) ↔ (k, t) ∈ (List.range j.plan.recs.length).zip j.plan.recs := by
    rw [← List.zip_swap (List.range j.plan.recs.length) j.plan.recs, List.mem_map]
    exact ⟨fun ⟨x, hx, e⟩ => by cases e; exact hx, fun h => ⟨(k, t), h, rfl⟩⟩
  rw [List.any_eq_true]
  refine ⟨fun ⟨⟨t, k⟩, mem, missing⟩ => ?_, fun ⟨k, t, mem, state, missing⟩ => ⟨(t, k), (swap k t).2 mem, ?_⟩⟩
  · rw [Bool.and_eq_true, Bool.not_eq_true', decide_eq_true_eq] at missing
    exact ⟨k, t, (swap k t).1 mem, missing⟩
  · rw [Bool.and_eq_true, Bool.not_eq_true', decide_eq_true_eq]
    exact ⟨state, missing⟩

/-- The digest of one parity of every rank, `w` the own. -/
def peerSum (peers : List Word64) (k : Nat) (w : Word64) : Word64 :=
  ((peers.zip (List.range peers.length)).filter (fun q => decide (q.2 % 2 = k))).foldl (fun a q => a ^^^ q.1) w

/-- The fingerprint of what was restored is not the file's. -/
def restoreWrong (s : State) (p : Pen) (j : Job) (peers : List Word64) : Prop :=
  (peerSum peers 0 (s.bankDigests p j.plan).1).toNat ≠ fieldAt (j.restore.getD {}).stateFp 0 8 ∨
    ((j.restore.getD {}).narrow = false ∧ (peerSum peers 1 (s.bankDigests p j.plan).2).toNat ≠ fieldAt (j.restore.getD {}).stateFp 8 8)

theorem restoreFinish_part (next : s.nextCmd ring.val = some (i, c)) (hj : s.job c.pen = some j) (hop : c.opcode = 14) (peers : List Word64) :
    let x := j.restore.getD {}
    let mixed := x.mixed = true ∨ x.nextStep ≠ j.plan.startStep
    let other := fit 32 j.startFp ≠ (if x.narrow then x.ckptId else x.stateFp)
    (firstT0 j = true → exec (.restoreFinish ring peers) s = .next (s.finishCmd ring.val i (rsCkpt 9) [])) ∧
    (firstT0 j = false → restoreShort j → exec (.restoreFinish ring peers) s = .next (s.finishCmd ring.val i (rsCkpt 13) [])) ∧
    (firstT0 j = false → ¬ restoreShort j → mixed → exec (.restoreFinish ring peers) s = .next (s.finishCmd ring.val i (rsCkpt 14) [])) ∧
    (firstT0 j = false → ¬ restoreShort j → ¬ mixed → other →
      exec (.restoreFinish ring peers) s = .next (s.finishCmd ring.val i (rsCkpt 15) [])) ∧
    (firstT0 j = false → ¬ restoreShort j → ¬ mixed → ¬ other → restoreWrong s c.pen j peers →
      exec (.restoreFinish ring peers) s = .next (s.finishCmd ring.val i (rsCkpt 16) [])) ∧
    (firstT0 j = false → ¬ restoreShort j → ¬ mixed → ¬ other → ¬ restoreWrong s c.pen j peers →
      let s1 := s.onJob c.pen (fun j => { j with restore := none, lineage := if x.narrow then some x.stateFp else j.lineage })
      exec (.restoreFinish ring peers) s = .next ((((s1.setFld .updJob 2 1 0 (c.pen - 1)).setFld .updCkpt 0 2 0 (c.pen - 1)).postPen c.pen 274
        x.nextStep [ef x.nextStep, .d x.ckptId, ef (bitIf x.narrow 0)]).finishCmd ring.val i rsOk [])) := by
  intro x mixed other
  have wrong : ((peerSum peers 0 (s.bankDigests c.pen j.plan).1).toNat ≠ fieldAt x.stateFp 0 8 ∨
      ((!x.narrow) = true ∧ (peerSum peers 1 (s.bankDigests c.pen j.plan).2).toNat ≠ fieldAt x.stateFp 8 8)) ↔ restoreWrong s c.pen j peers := by
    rw [restoreWrong, Bool.not_eq_true']
  refine ⟨fun late => ?_, fun before short => ?_, fun before whole mix => ?_, fun before whole pure_ diff => ?_,
    fun before whole pure_ same bad => ?_, fun before whole pure_ same good => ?_⟩
  · rw [exec, execRestoreFinish]
    exact serve_eq next hop ((withJob_some hj _).trans (if_pos late))
  · rw [exec, execRestoreFinish]
    exact serve_eq next hop ((withJob_some hj _).trans ((if_neg (Bool.eq_false_iff.1 before)).trans (if_pos ((restoreShort_iff j).2 short))))
  · rw [exec, execRestoreFinish]
    exact serve_eq next hop ((withJob_some hj _).trans ((if_neg (Bool.eq_false_iff.1 before)).trans
      ((if_neg fun h => whole ((restoreShort_iff j).1 h)).trans (if_pos mix))))
  · rw [exec, execRestoreFinish]
    exact serve_eq next hop ((withJob_some hj _).trans ((if_neg (Bool.eq_false_iff.1 before)).trans
      ((if_neg fun h => whole ((restoreShort_iff j).1 h)).trans ((if_neg pure_).trans (if_pos diff)))))
  · rw [exec, execRestoreFinish]
    exact serve_eq next hop ((withJob_some hj _).trans ((if_neg (Bool.eq_false_iff.1 before)).trans
      ((if_neg fun h => whole ((restoreShort_iff j).1 h)).trans ((if_neg pure_).trans ((if_neg same).trans (if_pos (wrong.2 bad)))))))
  · rw [exec, execRestoreFinish]
    exact serve_eq next hop ((withJob_some hj _).trans ((if_neg (Bool.eq_false_iff.1 before)).trans
      ((if_neg fun h => whole ((restoreShort_iff j).1 h)).trans ((if_neg pure_).trans ((if_neg same).trans (if_neg fun h => good (wrong.1 h)))))))

/-! ### The writing of a checkpoint -/

/-- What a rank's buddy region holds of one checkpoint: half of it. -/
def buddyHalf (j : Job) : Nat := match j.buddy with | some r => regionSize r / 2 | none => 0

/-- What a checkpoint may write: the half of a buddy's region, or its buffers. -/
def ckptRoom (j : Job) (a : CkptArm) : Nat := if a.buddy then buddyHalf j else (a.buffers.map Prod.snd).sum

/-- The state in which a checkpoint's shard is made and its divergent copies reported. -/
def State.shardNoted (s : State) (p : Pen) (j : Job) (a : CkptArm) (peers : List DedupTuple) : State :=
  let f := s.shardFile p a peers
  let s1 := (j.plan.recs.zip (List.range j.plan.recs.length)).foldl (fun s ti => s.noteSaved p (s.fld .updJob 2 1 (p - 1)) ti) s
  let s2 := f.2.diverged.foldl (fun s d => s.postPen p 273 a.step (ef d.1 :: d.2.map ef)) s1
  if f.2.diverged.isEmpty then s2 else s2.setFld .updCkptStat 8 1 1 (p - 1)

/-- The run of a checkpoint whose shard is made. -/
def ckptRunOf (s : State) (p : Pen) (j : Job) (a : CkptArm) (peers : List DedupTuple) : CkptRun :=
  let f := s.shardFile p a peers
  { arm := a, ckptId := ckptIdOf (a.step + 1) j.startFp a.narrow, status := if f.2.diverged.isEmpty then 0 else 5
    bytes := f.1.length, dataRecords := f.2.dataRecords }

/-- The state in which the bytes of a shard are given to its buffers or to the buddy. -/
def State.shardSent (s : State) (p : Pen) (j : Job) (a : CkptArm) (peers : List DedupTuple) : State :=
  let f := s.shardFile p a peers
  let t := State.shardNoted s p j a peers
  if a.buddy then
    let va := 2 ^ 47 + j.buddySlot * ckptRoom j a
    let bs := f.1.zip (List.replicate (f.1.length - f.2.data.length) false ++ f.2.bad)
    (t.remoteWrite p a.buddyDev (va + 4096) (bs.drop 4096)).remoteWrite p a.buddyDev va (bs.take 4096)
  else State.toBuffers p a.ring a.buffers t f.1

/-- The state in which the run of a checkpoint is noted. -/
def State.ckptRuns (s : State) (p : Pen) (run : CkptRun) (slot : Nat → Nat) : State :=
  (s.onJob p (fun j => { j with ckptRun := some run, buddySlot := slot j.buddySlot })).setFld .updCkpt 0 2 2 (p - 1)

theorem exec_ckptWrite {p : Pen} {a : CkptArm} {peers : List DedupTuple} (hj : s.job p = some j) (due : ckptDue j = some a) :
    exec (.ckptWrite p peers) s =
      if carries j then .next (s.ckptEnd p a 4 0 [] 0)
      else if !dedupReady j a peers then .next s
      else if ckptRoom j a < (s.shardFile p a peers).1.length then .next (s.ckptEnd p a 6 0 [] 0)
      else .next (State.ckptRuns (State.shardSent s p j a peers) p (ckptRunOf s p j a peers) (fun n => if a.buddy then 1 - n else n)) := by
  rw [exec, execCkptWrite, hj]
  dsimp only
  rw [due]
  rfl

theorem ckptWrite_part (s : State) (p : Pen) (j : Job) (peers : List DedupTuple) (hj : s.job p = some j) (a : CkptArm)
    (due : ckptDue j = some a) (carried : carries j = false) (ready : dedupReady j a peers = true) :
    (ckptRoom j a < (s.shardFile p a peers).1.length → exec (.ckptWrite p peers) s = .next (s.ckptEnd p a 6 0 [] 0)) ∧
    ((s.shardFile p a peers).1.length ≤ ckptRoom j a → exec (.ckptWrite p peers) s =
      .next (State.ckptRuns (State.shardSent s p j a peers) p (ckptRunOf s p j a peers) (fun n => if a.buddy then 1 - n else n))) := by
  rw [exec_ckptWrite hj due, if_neg (Bool.eq_false_iff.1 carried), if_neg (by rw [ready]; decide)]
  exact ⟨fun full => if_pos full, fun room => if_neg (Nat.not_lt.2 room)⟩

theorem isEmpty_congr {α β : Type} (l : List α) (x y : β) [Decidable (l = [])] : (if l.isEmpty then x else y) = if l = [] then x else y :=
  if_congr List.isEmpty_iff rfl rfl

theorem shardNoted_eq (s : State) (p : Pen) (j : Job) (a : CkptArm) (peers : List DedupTuple) : State.shardNoted s p j a peers =
    let f := s.shardFile p a peers
    let s1 := (j.plan.recs.zip (List.range j.plan.recs.length)).foldl (fun s ti => s.noteSaved p (s.fld .updJob 2 1 (p - 1)) ti) s
    let s2 := f.2.diverged.foldl (fun s d => s.postPen p 273 a.step (ef d.1 :: d.2.map ef)) s1
    if f.2.diverged = [] then s2 else s2.setFld .updCkptStat 8 1 1 (p - 1) := isEmpty_congr ..

theorem ckptRunOf_eq (s : State) (p : Pen) (j : Job) (a : CkptArm) (peers : List DedupTuple) : ckptRunOf s p j a peers =
    let f := s.shardFile p a peers
    { arm := a, ckptId := ckptIdOf (a.step + 1) j.startFp a.narrow, status := if f.2.diverged = [] then 0 else 5
      bytes := f.1.length, dataRecords := f.2.dataRecords } := by
  unfold ckptRunOf
  dsimp only
  rw [isEmpty_congr]

theorem shardSent_of_buffers {p : Pen} {a : CkptArm} (direct : a.buddy = false) (peers : List DedupTuple) : State.shardSent s p j a peers =
    State.toBuffers p a.ring a.buffers (State.shardNoted s p j a peers) (s.shardFile p a peers).1 :=
  if_neg (Bool.eq_false_iff.1 direct)

theorem shardSent_of_buddy {p : Pen} {a : CkptArm} (mirrored : a.buddy = true) (peers : List DedupTuple) : State.shardSent s p j a peers =
    let f := s.shardFile p a peers
    let bs := f.1.zip (List.replicate (f.1.length - f.2.data.length) false ++ f.2.bad)
    let va := 2 ^ 47 + j.buddySlot * buddyHalf j
    ((State.shardNoted s p j a peers).remoteWrite p a.buddyDev (va + 4096) (bs.drop 4096)).remoteWrite p a.buddyDev va (bs.take 4096) := by
  have room : ckptRoom j a = buddyHalf j := if_pos mirrored
  rw [← room]
  exact if_pos mirrored

theorem ckptComplete_part (s : State) (p : Pen) (j : Job) (hj : s.job p = some j) (r : CkptRun) (hr : j.ckptRun = some r) :
    (r.arm.buddy = false ∨ drained j = true →
      exec (.ckptComplete p) s = .next (s.ckptEnd p r.arm r.status r.bytes r.ckptId r.dataRecords)) ∧
    (r.arm.buddy = true → drained j = false →
      exec (.ckptBuddyTimeout p) s = .next (s.ckptEnd p r.arm 7 r.bytes r.ckptId r.dataRecords)) := by
  refine ⟨fun performed => ?_, fun buddy silent => ?_⟩
  · rw [exec, execCkptComplete, hj]
    dsimp only
    rw [hr]
    dsimp only
    rw [whenOk, if_pos (by rwa [Bool.or_eq_true, Bool.not_eq_true'])]
  · rw [exec, execCkptBuddyTimeout, hj]
    dsimp only
    rw [hr]
    dsimp only
    rw [whenOk, if_pos (by rw [buddy, silent]; rfl)]

/-! ### Commands without a job, and test packs -/

theorem noJob_part (next : s.nextCmd ring.val = some (i, c)) (idle : s.job c.pen = none) (x : Instr)
    (form : (c.opcode = 10 ∧ x = .snapshot ring) ∨ (c.opcode = 11 ∧ x = .ckptArm ring) ∨ (c.opcode = 12 ∧ x = .buddyReceive ring) ∨
      (c.opcode = 13 ∧ c.aux ≤ 2 ∧ x = .restore ring) ∨ (c.opcode = 14 ∧ ∃ peers, x = .restoreFinish ring peers) ∨
      (c.opcode = 15 ∧ ∃ first, x = .ledgerImport ring first)) : exec x s = .next (s.finishCmd ring.val i rsNoJob []) := by
  obtain ⟨hop, rfl⟩ | ⟨hop, rfl⟩ | ⟨hop, rfl⟩ | ⟨hop, low, rfl⟩ | ⟨hop, peers, rfl⟩ | ⟨hop, first, rfl⟩ := form
  · rw [exec, execSnapshot]
    exact serve_eq next hop (withJob_none idle _)
  · rw [exec, execCkptArm]
    exact serve_eq next hop (withJob_none idle _)
  · rw [exec, execBuddyReceive]
    exact serve_eq next hop (withJob_none idle _)
  · rw [exec, execRestore]
    exact serve_eq next hop ((if_neg (Nat.not_lt.2 low)).trans (withJob_none idle _))
  · rw [exec, execRestoreFinish]
    exact serve_eq next hop (withJob_none idle _)
  · rw [exec, execLedgerImport]
    exact serve_eq next hop (withJob_none idle _)

theorem exec_ftpLoad (next : s.nextCmd ring.val = some (i, c)) (hop : c.opcode = 17) : exec (.ftpLoad ring) s =
    .next ((if s.ftpStatus c.params = rsOk then s.takePack c.params else s).finishCmd ring.val i (s.ftpStatus c.params) []) := by
  rw [exec, execFtpLoad]
  exact serve_eq next hop rfl

theorem ledgerImport_part (next : s.nextCmd ring.val = some (i, c)) (hj : s.job c.pen = some j) (hop : c.opcode = 15) (first : List (List Byte)) :
    let r := importAll first (c.params.length / 16 + 1) j c.params
    exec (.ledgerImport ring first) s = .next ((((s.setJob c.pen (some r.1)).importedReg c.pen).replayReg).finishCmd ring.val i r.2 []) := by
  rw [exec, execLedgerImport]
  exact serve_eq next hop (withJob_some hj _)

end

/-- Settles O47. -/
theorem checkpointCommandsTakeEffect : Obligations.CheckpointCommandsTakeEffect := by
  unfold Obligations.CheckpointCommandsTakeEffect
  refine ⟨fun s ring i c j next hj => ⟨fun hop => (snapshot_part next hj hop).1, fun hop => (snapshot_part next hj hop).2, fun hop => ?_,
      buddyReceive_part next hj, restore_part next hj, fun peers hop => restoreFinish_part next hj hop peers,
      fun first hop => ledgerImport_part next hj hop first⟩,
    fun s ring i c next => ⟨fun hop high => ?_, noJob_part next, fun hop good => ?_, fun hop bad => ?_⟩,
    fun s p j peers hj => ⟨fun a due carried => ?_, fun a due carried wait => ?_, fun a due carried ready => ?_, ckptComplete_part s p j hj⟩⟩
  · obtain ⟨ended, gone, busy, arms⟩ := ckptArm_part next hj hop
    exact ⟨ended, gone, busy, fun open_ here free => ⟨_, arms open_ here free, armed_shows s ring c hj⟩⟩
  · rw [exec, execRestore]
    exact serve_eq next hop (if_pos high)
  · rw [exec_ftpLoad next hop, if_pos good, good]
  · rw [exec_ftpLoad next hop, if_neg bad]
  · rw [exec_ckptWrite hj due, if_pos carried]
  · rw [exec_ckptWrite hj due, if_neg (Bool.eq_false_iff.1 carried)]
    exact if_pos (by rw [wait]; rfl)
  · obtain ⟨full, runs⟩ := ckptWrite_part s p j peers hj a due carried ready
    exact ⟨full, fun room => ⟨fun direct => (runs room).trans (by rw [shardSent_of_buffers direct, ckptRunOf_eq, shardNoted_eq]; rfl),
      fun mirrored => (runs room).trans (by rw [shardSent_of_buddy mirrored, ckptRunOf_eq, shardNoted_eq]; rfl)⟩⟩

end Sys2Proof.Proofs
end

section
/-!
PROOF. Register accesses: which entry an access reaches, which bits a write stores and clears, and the actions of the entries that have
their own.
-/

namespace Sys2Proof.Proofs

open Sys2Proof Sys2Proof.Machine Sys2Proof.Claims

section

variable {s : State} {fn : Func} {off len : Nat} {v : Word64} {n : RegName} {ix lo bits : Nat}

/-! ### Accesses that no register takes -/

theorem undefAccess_shows (s : State) (off : Nat) :
    (s.undefAccess off).fld .errUndefAccess 0 32 = min (s.fld .errUndefAccess 0 32 + 1) (2 ^ 32 - 1) ∧
    (s.undefAccess off).fld .errUndefAccess 32 26 = off % 2 ^ 26 ∧ (s.undefAccess off).fld .errUndefAccess 63 1 = 1 := by
  unfold State.undefAccess
  refine ⟨?_, ?_, fld_setFld_of_lt _ _ _ _ (by decide) (by decide)⟩
  · rw [fld_setFld_beside _ _ _ _ _ (by decide), fld_setFld_beside _ _ _ _ _ (by decide), fld_bump_self (by decide), Nat.min_comm]
  · rw [fld_setFld_beside _ _ _ _ _ (by decide), fld_setFld_self _ _ _ _ _ (by decide), Nat.mod_mod]

theorem undefined_part (s : State) (fn : Func) (v : Word64) (nowhere : regReach off len = none) :
    exec (.registerWrite fn off len v) s = .next (s.undefAccess off) ∧ exec (.rwkWrite fn off len v) s = .next (s.undefAccess off) ∧
    exec (.undefinedOffsetAccess fn off len) s = .next { s.undefAccess off with lastRead := zeros len } ∧
    s.bar0Read fn.val off len = zeros len := by
  refine ⟨?_, ?_, ?_, ?_⟩
  · rw [exec, execRegisterWrite, nowhere]
  · rw [exec, execRwkWrite, nowhere]
  · rw [exec, execUndefinedOffsetAccess, nowhere]
    rfl
  · rw [State.bar0Read, nowhere]

theorem undefinedOffsetAccess_of_reached (reached : regReach off len ≠ none) : exec (.undefinedOffsetAccess fn off len) s = .next s := by
  rw [exec, execUndefinedOffsetAccess, whenOk, if_neg fun h => reached (Option.isNone_iff_eq_none.1 h)]

/-! ### What a write stores -/

theorem covered_iff (lo bits i : Nat) : (decide (lo ≤ i) && decide (i - lo < bits)) = decide (lo ≤ i ∧ i < lo + bits) := by
  rw [Bool.eq_iff_iff, Bool.and_eq_true, decide_eq_true_eq, decide_eq_true_eq, decide_eq_true_eq]
  omega

theorem getLsbD_coverMask {i : Nat} (hi : i < 64) : (coverMask lo bits).getLsbD i = decide (lo ≤ i ∧ i < lo + bits) := by
  rw [coverMask, getLsbD_maskOf_field lo bits hi, covered_iff]

theorem getLsbD_coverBits {i : Nat} (hi : i < 64) :
    (coverBits lo bits v).getLsbD i = (decide (lo ≤ i ∧ i < lo + bits) && v.getLsbD (i - lo)) := by
  rw [coverBits, BitVec.getLsbD_ofNat, Nat.testBit_mul_two_pow, Nat.testBit_mod_two_pow, decide_eq_true hi, Bool.true_and, ← Bool.and_assoc,
    covered_iff]
  rfl

/-- A write stores the stored bits that it covers, clears those that it covers with a one, and keeps the others. -/
theorem getLsbD_writeInto (n : RegName) (old v : Word64) {lo bits i : Nat} (hi : i < 64) : (writeInto n old lo bits v).getLsbD i =
    if lo ≤ i ∧ i < lo + bits then
      (((if n.row.rw.getLsbD i then v.getLsbD (i - lo) else old.getLsbD i)) && !(v.getLsbD (i - lo) && n.row.w1c.getLsbD i))
    else old.getLsbD i := by
  simp only [writeInto, BitVec.getLsbD_and, BitVec.getLsbD_or, BitVec.getLsbD_not, getLsbD_coverMask hi, getLsbD_coverBits hi, decide_eq_true hi,
    Bool.true_and]
  by_cases covered : lo ≤ i ∧ i < lo + bits
  · rw [if_pos covered, decide_eq_true covered]
    cases n.row.rw.getLsbD i <;> simp
  · rw [if_neg covered, decide_eq_false covered]
    simp

/-- A write whose bits are all within a function's reach leaves what it stores. -/
theorem plainWrite_of_whole (all : writeMask fn.val n = BitVec.allOnes 64) (s : State) (ix lo bits : Nat) (v : Word64) :
    s.plainWrite fn.val n ix lo bits v = (s.setReg n (writeInto n (s.reg n ix fn.val) lo bits v) ix fn.val).refreshPins := by
  unfold State.plainWrite
  dsimp only
  rw [all, BitVec.not_allOnes, BitVec.and_zero, BitVec.zero_or, BitVec.and_allOnes]

theorem writeMask_host (n : RegName) : writeMask 0 n = BitVec.allOnes 64 := if_pos rfl

/-- The registers whose bits every function that reaches them writes whole. -/
theorem writeMask_of_other (netCtr : n ≠ .netCtrSel) (winAddr : n ≠ .hbmWinAddr) (bar4 : n ≠ .hifBar4Sel) (cfg : n ≠ .hifPenCfg) (f : Nat) :
    writeMask f n = BitVec.allOnes 64 := by
  unfold writeMask
  split
  · rfl
  · split
    · exact absurd rfl netCtr
    · exact absurd rfl winAddr
    · exact absurd rfl bar4
    · exact absurd rfl cfg
    · rfl

/-! ### The entries that a write reaches -/

theorem sees_of_writes (h : s.writes fn.val n ix = true) : s.sees fn.val n ix = true := by
  rw [State.writes, Bool.and_eq_true, Bool.and_eq_true] at h
  exact h.1.1

theorem exec_registerWrite_of_acts (reach : regReach off len = some (n, ix, lo, bits)) (acts : s.writeActs fn.val n ix = true) :
    exec (.registerWrite fn off len v) s = .next (s.writeEntry fn n ix lo bits v) := by
  rw [exec, execRegisterWrite, reach]
  dsimp only
  rw [whenOk, if_pos acts]

theorem exec_registerWrite (reach : regReach off len = some (n, ix, lo, bits)) (writes : s.writes fn.val n ix = true) :
    exec (.registerWrite fn off len v) s = .next (s.writeEntry fn n ix lo bits v) :=
  exec_registerWrite_of_acts reach (by rw [State.writeActs, writes, Bool.true_or])

theorem exec_registerWrite_of_hidden (reach : regReach off len = some (n, ix, lo, bits)) (writes : s.writes fn.val n ix = false)
    (plain : n ≠ .hbmWinData1 ∨ s.sees fn.val n ix = false) : exec (.registerWrite fn off len v) s = .next s := by
  rw [exec, execRegisterWrite, reach]
  dsimp only
  rw [whenOk, if_neg]
  rw [State.writeActs, writes, Bool.false_or, Bool.and_eq_true, decide_eq_true_eq]
  exact fun h => plain.elim (· h.1) fun unseen => Bool.eq_false_iff.1 unseen h.2

/-- A register that persists is written by its policy. -/
theorem writeEntry_of_rwk (persists : n.row.rwk = true) (s : State) (fn : Func) (ix lo bits : Nat) (v : Word64) :
    s.writeEntry fn n ix lo bits v = s.rwkBy n ix (writeInto n (s.reg n ix fn.val) lo bits v) := by
  unfold State.writeEntry
  dsimp only
  split
  case h_14 => exact if_pos persists
  all_goals exact absurd persists (by decide)

/-- A register without an action that does not persist is written plainly. -/
theorem writeEntry_of_plain (plain : n ∈ ([.devFntabAddr, .injSel, .hifAuthAddr, .keepAddr, .coreFaultLast, .netCtrSel, .hbmWinAddr, .hifBar4Sel,
    .hifPenCfg] : List RegName)) (s : State) (fn : Func) (ix lo bits : Nat) (v : Word64) :
    s.writeEntry fn n ix lo bits v = s.plainWrite fn.val n ix lo bits v := by
  have stays : n.row.rwk = false := by
    revert n
    decide
  unfold State.writeEntry
  dsimp only
  split
  case h_14 => exact if_neg (Bool.eq_false_iff.1 stays)
  all_goals exact absurd plain (by decide)

theorem exec_rwkWrite_of_reach (reach : regReach off len = some (n, ix, lo, bits)) (s : State) (fn : Func) (v : Word64) :
    exec (.rwkWrite fn off len v) s = .next (if n.row.rwk && s.writes fn.val n ix then s.rwkBy n ix (writeInto n (s.reg n ix) lo bits v) else s) := by
  rw [exec, execRwkWrite, reach]
  rfl

theorem rwk_part (reach : regReach off len = some (n, ix, lo, bits)) (s : State) (fn : Func) (v : Word64) (writes : s.writes fn.val n ix = true)
    (persists : n.row.rwk = true) :
    (s.orderOnReg n ix = true → exec (.registerWrite fn off len v) s = .next (s.arbLost 1 0) ∧
      exec (.rwkWrite fn off len v) s = .next (s.arbLost 1 0)) ∧
    (s.orderOnReg n ix = false →
      exec (.registerWrite fn off len v) s = .next (s.writeRwk n ix (writeInto n (s.reg n ix fn.val) lo bits v)) ∧
      exec (.rwkWrite fn off len v) s = .next (s.writeRwk n ix (writeInto n (s.reg n ix) lo bits v))) := by
  rw [exec_registerWrite reach writes, writeEntry_of_rwk persists, exec_rwkWrite_of_reach reach, persists, writes, Bool.true_and, if_pos rfl,
    State.rwkBy, State.rwkBy]
  refine ⟨fun waits => ?_, fun free => ?_⟩
  · rw [if_pos waits, if_pos waits]
    exact ⟨rfl, rfl⟩
  · rw [if_neg (Bool.eq_false_iff.1 free), if_neg (Bool.eq_false_iff.1 free)]
    exact ⟨rfl, rfl⟩

/-! ### Entries with an action -/

/-- What an action leaves, where it answers a next state. -/
theorem next_after {t : State} {o : Out} (answers : Answers t o) (s : State) : (.next (after s o) : Out) = o := by
  obtain ⟨u, rfl, _⟩ := answers
  rfl

theorem next_ite_after {t : State} {o : Out} (answers : Answers t o) (c : Prop) [Decidable c] (s : State) :
    (.next (if c then after s o else s) : Out) = if c then o else .next s := by
  split
  · exact next_after answers s
  · rfl

theorem action_part (reach : regReach off len = some (n, ix, lo, bits)) (s : State) (fn : Func) (v : Word64) (writes : s.writes fn.val n ix = true) :
    let w := exec (.registerWrite fn off len v) s
    let one (b : Nat) : Prop := writesOne lo bits v b = true
    let x := writeInto n (s.reg n ix fn.val) lo bits v
    (n = .hbmWinCtl → w = if writesOne lo bits v 0 then exec (.windowCommit fn) s else .next s) ∧
    (n = .injCtl → one 0 → ¬ one 1 → w = exec (.injArm fn) s) ∧ (n = .injCtl → ¬ one 0 → one 1 → w = exec (.injCancel fn) s) ∧
    (n = .hifPenReset → w = if writesOne lo bits v 0 then exec (.penReset fn (ix + 1)) s else .next s) ∧
    (n = .mgtReset → w = if writesOne lo bits v 0 then exec (.computeReset fn) s else .next s) ∧
    (n = .pwrState → w = if writesOne lo bits v 2 then exec (.keepRequest fn) s else .next s) ∧
    (n = .hifAuthCtl → one 32 → w = exec .authMailboxGo (s.plainWrite fn.val n ix lo bits v)) ∧
    (n = .hifRingCmdBase ∨ n = .hifRingCplBase →
      w = if s.ringOn ix then .next s else .next (s.setReg n x ix fn.val).refreshPins) := by
  dsimp only
  rw [exec_registerWrite reach writes]
  refine ⟨?_, ?_, ?_, ?_, ?_, ?_, ?_, ?_⟩
  · rintro rfl
    exact next_ite_after (Keeps.refl s).execWindowCommit ..
  · rintro rfl arm stay
    have armed : s.writeEntry fn .injCtl ix lo bits v = after s (execInjArm fn s) := (if_neg stay).trans (if_pos arm)
    rw [armed]
    exact next_after (Keeps.refl s).execInjArm s
  · rintro rfl stay cancel
    have cancelled : s.writeEntry fn .injCtl ix lo bits v = after s (execInjCancel fn s) := by
      refine (if_pos cancel).trans ?_
      rw [if_neg stay]
    rw [cancelled]
    exact next_after (Keeps.refl s).execInjCancel s
  · rintro rfl
    exact next_ite_after (Keeps.refl s).execPenReset ..
  · rintro rfl
    exact next_ite_after (Keeps.refl s).execComputeReset ..
  · rintro rfl
    exact next_ite_after (Keeps.refl s).execKeepRequest ..
  · rintro rfl go
    have gone : s.writeEntry fn .hifAuthCtl ix lo bits v =
        after (s.plainWrite fn.val .hifAuthCtl ix lo bits v) (execAuthMailboxGo (s.plainWrite fn.val .hifAuthCtl ix lo bits v)) := if_pos go
    rw [gone]
    exact next_after (Keeps.refl _).execAuthMailboxGo _
  · rintro (rfl | rfl)
    · refine (apply_ite Host.Outcome.next (s.ringOn ix = true) s (s.plainWrite fn.val .hifRingCmdBase ix lo bits v)).trans ?_
      rw [plainWrite_of_whole (writeMask_of_other (by decide) (by decide) (by decide) (by decide) _)]
    · refine (apply_ite Host.Outcome.next (s.ringOn ix = true) s (s.plainWrite fn.val .hifRingCplBase ix lo bits v)).trans ?_
      rw [plainWrite_of_whole (writeMask_of_other (by decide) (by decide) (by decide) (by decide) _)]

/-! ### Plain writes, the window data and reads -/

theorem plain_part (reach : regReach off len = some (n, ix, lo, bits)) (s : State) (fn : Func) (v : Word64) (writes : s.writes fn.val n ix = true) :
    (n ∈ ([.devFntabAddr, .injSel, .hifAuthAddr, .keepAddr, .coreFaultLast] : List RegName) → exec (.registerWrite fn off len v) s =
      .next ((s.setReg n (writeInto n (s.reg n ix fn.val) lo bits v) ix fn.val).refreshPins)) ∧
    (n = .netCtrSel ∨ n = .hbmWinAddr ∨ n = .hifBar4Sel ∨ n = .hifPenCfg →
      exec (.registerWrite fn off len v) s = .next (s.plainWrite fn.val n ix lo bits v) ∧
      (fn.val = 0 → s.plainWrite fn.val n ix lo bits v =
        (s.setReg n (writeInto n (s.reg n ix fn.val) lo bits v) ix fn.val).refreshPins)) := by
  rw [exec_registerWrite reach writes]
  refine ⟨fun whole => ?_, fun masked => ⟨?_, fun host => ?_⟩⟩
  · have mask : writeMask fn.val n = BitVec.allOnes 64 := by
      refine writeMask_of_other ?_ ?_ ?_ ?_ _
      all_goals
        rintro rfl
        exact absurd whole (by decide)
    rw [writeEntry_of_plain (List.mem_append_left [.netCtrSel, .hbmWinAddr, .hifBar4Sel, .hifPenCfg] whole), plainWrite_of_whole mask]
  · have named : n ∈ ([.netCtrSel, .hbmWinAddr, .hifBar4Sel, .hifPenCfg] : List RegName) := by
      simp only [List.mem_cons, List.not_mem_nil, or_false]
      exact masked
    rw [writeEntry_of_plain (List.mem_append_right [.devFntabAddr, .injSel, .hifAuthAddr, .keepAddr, .coreFaultLast] named)]
  · rw [plainWrite_of_whole (by rw [host]; exact writeMask_host n)]

theorem winData_part (reach : regReach off len = some (.hbmWinData1, ix, lo, bits)) (s : State) (fn : Func) (v : Word64)
    (seen : s.sees fn.val .hbmWinData1 ix = true) : exec (.registerWrite fn off len v) s =
      exec (.winDataAccess fn ⟨true, if bits = 64 then .whole else if lo = 0 then .low else .high⟩ (.write v)) s := by
  rw [exec_registerWrite_of_acts reach (by rw [State.writeActs, seen]; exact Bool.or_true _)]
  have acted : s.writeEntry fn .hbmWinData1 ix lo bits v =
      after s (execWinDataAccess fn ⟨true, if bits = 64 then .whole else if lo = 0 then .low else .high⟩ (.write v) s) := rfl
  rw [acted]
  exact next_after (Keeps.refl s).execWinDataAccess s

theorem reached_part (s : State) (fn : Func) (off len : Nat) (v : Word64) (n : RegName) (ix lo bits : Nat)
    (reach : regReach off len = some (n, ix, lo, bits)) :
    let w := exec (.registerWrite fn off len v) s
    (s.writes fn.val n ix = false → n ≠ .hbmWinData1 → w = .next s) ∧
    (s.sees fn.val n ix = false → w = .next s) ∧
    (n.row.rwk = false ∨ s.writes fn.val n ix = false → exec (.rwkWrite fn off len v) s = .next s) := by
  refine ⟨fun kept other => exec_registerWrite_of_hidden reach kept (.inl other), fun unseen => ?_, fun kept => ?_⟩
  · have hidden : s.writes fn.val n ix = false := Bool.eq_false_iff.2 fun h => Bool.eq_false_iff.1 unseen (sees_of_writes h)
    exact exec_registerWrite_of_hidden reach hidden (.inr unseen)
  · rw [exec_rwkWrite_of_reach reach, if_neg]
    rw [Bool.and_eq_true]
    exact fun h => kept.elim (fun plain => Bool.eq_false_iff.1 plain h.1) fun hidden => Bool.eq_false_iff.1 hidden h.2

theorem bar0Read_of_reach (reach : regReach off len = some (n, ix, lo, bits)) (s : State) (f : Nat) :
    s.bar0Read f off len = le len (if s.sees f n ix then getBits (s.regValue f n ix) lo bits else 0) := by
  rw [State.bar0Read, reach]

/-! ### Rows of their own -/

theorem writeRwk_part (s : State) (n : RegName) (ix : Nat) (x : Word64) (k : Nat) (hk : rwkWord n ix = some k) :
    (s.worn k = false → s.writeRwk n ix x = { s with keepQ := s.keepQ ++ [(k, x)], regs := (s.setReg n x ix).regs }) ∧
    (s.worn k = true → s.writeRwk n ix x = { s with keepQ := s.keepQ ++ [(k, x)] }) := by
  unfold State.writeRwk
  rw [hk]
  exact ⟨fun good => if_neg (Bool.eq_false_iff.1 good), fun worn => if_pos worn⟩

theorem journalAck_part (s : State) (fn : Func) (pen : Pen) (v : BitVec 32) :
    (fn.val = pen → 1 ≤ pen → ∃ t, exec (.journalAck fn pen v) s = .next t ∧ t = { s with regs := t.regs } ∧
      t.fld .updJrnAck 0 32 (pen - 1) = min v.toNat (s.fld .updJournal 0 32 (pen - 1))) ∧
    (fn.val ≠ pen ∨ pen = 0 → exec (.journalAck fn pen v) s = .next s) := by
  rw [exec, execJournalAck, whenOk]
  refine ⟨fun own some => ⟨_, congrArg Host.Outcome.next (if_pos ?_), rfl, ?_⟩, fun other => ?_⟩
  · rw [decide_eq_true own, decide_eq_true some]
    rfl
  · exact fld_setFld_of_lt _ _ _ _ (by decide) (Nat.lt_of_le_of_lt (Nat.min_le_left ..) v.isLt)
  · rw [if_neg]
    rw [Bool.and_eq_true, decide_eq_true_eq, decide_eq_true_eq]
    exact fun h => other.elim (· h.1) fun none => absurd h.2 (by rw [none]; decide)

/-- The half or whole of a word that a read answers, low byte first. -/
theorem partRead_cases (part : RegPart) (x : Word64) :
    partRead part x = if part = .whole then le 8 x.toNat else if part = .low then le 4 (x.toNat % 2 ^ 32) else le 4 (x.toNat / 2 ^ 32) := by
  have small : x.toNat / 2 ^ 32 < 2 ^ 32 := Nat.div_lt_of_lt_mul x.isLt
  cases part with
  | whole => exact congrArg (le 8) ((congrArg (· % 2 ^ 64) (Nat.div_one x.toNat)).trans (Nat.mod_eq_of_lt x.isLt))
  | low => exact congrArg (le 4) (congrArg (· % 2 ^ 32) (Nat.div_one x.toNat))
  | high => exact congrArg (le 4) (Nat.mod_eq_of_lt small)

theorem fntabRead_part (s : State) (fn : Func) (part : RegPart) :
    (fn.val ≠ 0 → exec (.fntabRead ⟨fn, part⟩) s = .next { s with lastRead := zeros (if part = .whole then 8 else 4) }) ∧
    (fn.val = 0 →
      (s.fld .devFntabAddr 31 1 = 0 → exec (.fntabRead ⟨fn, part⟩) s = .next { s with lastRead := partRead part s.fntabWord }) ∧
      (s.fld .devFntabAddr 31 1 = 1 →
        ∃ t, exec (.fntabRead ⟨fn, part⟩) s = .next t ∧ t = { s with regs := t.regs, lastRead := partRead part s.fntabWord } ∧
          t.fld .devFntabAddr 8 16 = min 0xFFFF (s.fld .devFntabAddr 8 16 + 1) ∧
          t.fld .devFntabAddr 0 4 = s.fld .devFntabAddr 0 4 ∧ t.fld .devFntabAddr 31 1 = 1)) := by
  rw [exec, execFntabRead]
  refine ⟨fun guest => ?_, fun host => ?_⟩
  · rw [if_pos guest]
    cases part with
    | whole => rfl
    | low => rfl
    | high => rfl
  · rw [if_neg (not_not_intro host)]
    refine ⟨fun stays => ?_, fun steps => ⟨_, congrArg Host.Outcome.next (if_pos steps), rfl, ?_, ?_, ?_⟩⟩
    · dsimp only
      rw [if_neg (by rw [stays]; decide)]
    · exact fld_setFld_of_lt _ _ _ _ (by decide) (Nat.lt_of_le_of_lt (Nat.min_le_left ..) (by decide))
    · exact fld_setFld_beside _ _ _ _ _ (by decide)
    · exact (fld_setFld_beside _ _ _ _ _ (by decide)).trans steps

end

/-- Settles O56. -/
theorem registerAccessesReachTheirFields : Obligations.RegisterAccessesReachTheirFields := by
  unfold Obligations.RegisterAccessesReachTheirFields
  refine ⟨fun s fn off len v => ⟨fun nowhere => ?_, undefinedOffsetAccess_of_reached, fun n ix lo bits reach => ?_⟩,
    fun n old v lo bits i _ hi => getLsbD_writeInto n old v hi, writeRwk_part, journalAck_part, fun s fn part => ?_⟩
  · obtain ⟨write, rwk, undefined, read⟩ := undefined_part s fn v nowhere
    obtain ⟨count, last, valid⟩ := undefAccess_shows s off
    exact ⟨write, rwk, undefined, count, last, valid, read⟩
  · obtain ⟨hidden, unseen, kept⟩ := reached_part s fn off len v n ix lo bits reach
    exact ⟨hidden, unseen, kept, rwk_part reach s fn v, fun writes => (plain_part reach s fn v writes).1,
      fun writes => (plain_part reach s fn v writes).2, action_part reach s fn v,
      fun seen data => by subst data; exact winData_part reach s fn v seen, bar0Read_of_reach reach s fn.val⟩
  · obtain ⟨guest, host⟩ := fntabRead_part s fn part
    rw [partRead_cases] at host
    exact ⟨guest, host⟩

end Sys2Proof.Proofs
end

section
/-!
PROOF. The commands of a mover: the start and its checks, the reads into the window, the writes of units and of crested groups, gates and
attached signals.
-/

namespace Sys2Proof.Proofs

open Sys2Proof Sys2Proof.Machine Sys2Proof.Claims

/-! ### The bytes of a mover in the scratchpad (R206, R208) -/

/-- What a store of a mover leaves: bytes within the scratchpad hold, and everything beyond the range keeps. -/
structure MoverStored (c c' : Core) (a : Nat) (w : List WinByte) : Prop where
  only : SpadOnly c c'
  outside : ∀ x, x < a ∨ a + w.length ≤ x → c'.spadByte x = c.spadByte x
  inside : a + w.length ≤ (if c.cfg.wide then 2 ^ 24 else 2 ^ 23) → ∀ i, i < w.length → c'.spadByte (a + i) = (w.map WinByte.val).getD i 0#8
  lines : ∀ l, 64 * l + 64 ≤ a ∨ a + w.length ≤ 64 * l → c'.lineBad l = c.lineBad l ∧ c'.lineTag l = c.lineTag l

/-- The core with the part of a mover's bytes that lies in one line. -/
def storePiece (c : Core) (p : Nat × List WinByte) : Core :=
  if p.1 + p.2.length ≤ (if c.cfg.wide then 2 ^ 24 else 2 ^ 23) then
    c.spadWriteLine p.1 (p.2.map WinByte.val) (p.2.any WinByte.bad) (p.2.findSome? WinByte.tag)
  else c

theorem spadOnly_cfg {c c' : Core} (h : SpadOnly c c') : c'.cfg = c.cfg := by
  unfold SpadOnly at h
  rw [h]

theorem moverStored_refl (c : Core) (a : Nat) : MoverStored c c a [] :=
  ⟨spadOnly_refl c, fun _ _ => rfl, fun _ i h => absurd h (by simp), fun _ _ => ⟨rfl, rfl⟩⟩

/-- A piece within one line: only the marks of that line change. -/
theorem moverStored_storePiece (c : Core) {a : Nat} {w : List WinByte} (some_ : w ≠ []) (_ : a % 64 + w.length ≤ 64) :
    MoverStored c (storePiece c (a, w)) a w := by
  by_cases within : a + w.length ≤ (if c.cfg.wide then 2 ^ 24 else 2 ^ 23)
  · rw [storePiece, if_pos within]
    have stored := spadStored_spadWriteLine c a (w.map WinByte.val) (w.any WinByte.bad) (w.findSome? WinByte.tag)
    refine ⟨stored.only, fun x hx => stored.outside x (by rwa [List.length_map]),
      fun _ i hi => stored.inside i (by rwa [List.length_map]), fun l hl => ?_⟩
    have := List.length_pos_iff.2 some_
    have other : l ≠ a / 64 := by omega
    exact ⟨SMap.get_set_ne _ _ _ _ _ other, SMap.get_set_ne _ _ _ _ _ other⟩
  · rw [storePiece, if_neg within]
    exact ⟨spadOnly_refl c, fun _ _ => rfl, fun inside => absurd inside within, fun _ _ => ⟨rfl, rfl⟩⟩

theorem MoverStored.append {c c₁ c₂ : Core} {a : Nat} {v w : List WinByte} (h₁ : MoverStored c c₁ a v)
    (h₂ : MoverStored c₁ c₂ (a + v.length) w) : MoverStored c c₂ a (v ++ w) := by
  have limit : (if c₁.cfg.wide then 2 ^ 24 else 2 ^ 23) = if c.cfg.wide then 2 ^ 24 else 2 ^ 23 := by rw [spadOnly_cfg h₁.only]
  refine ⟨spadOnly_trans h₁.only h₂.only, fun x hx => ?_, fun within i hi => ?_, fun l hl => ?_⟩
  · rw [List.length_append] at hx
    rw [h₂.outside x (by omega), h₁.outside x (by omega)]
  · rw [List.length_append] at within hi
    rw [List.map_append]
    by_cases first : i < v.length
    · rw [h₂.outside _ (.inl (by omega)), h₁.inside (by omega) i first, List.getD_append _ _ _ _ (by rwa [List.length_map])]
    · rw [show a + i = a + v.length + (i - v.length) by omega, h₂.inside (by rw [limit]; omega) _ (by omega),
        List.getD_append_right _ _ _ _ (by rw [List.length_map]; omega), List.length_map]
  · rw [List.length_append] at hl
    obtain ⟨bad₂, tag₂⟩ := h₂.lines l (by omega)
    obtain ⟨bad₁, tag₁⟩ := h₁.lines l (by omega)
    exact ⟨bad₂.trans bad₁, tag₂.trans tag₁⟩

theorem moverStored_pieces (n : Nat) (c : Core) (a : Nat) (w : List WinByte) (h : w.length ≠ 0 → a % 64 + w.length ≤ 64 * n) :
    MoverStored c ((linePiecesAux n a w).foldl storePiece c) a w := by
  induction n generalizing c a w with
  | zero =>
    obtain rfl : w = [] := List.length_eq_zero_iff.1 (by by_contra some_; have := h some_; omega)
    exact moverStored_refl c a
  | succ n ih =>
    by_cases done : w = []
    · subst done
      exact moverStored_refl c a
    · rw [linePiecesAux, if_neg (by simpa using done), List.foldl_cons]
      have len : (w.take (64 - a % 64)).length = min (64 - a % 64) w.length := List.length_take
      have pos := List.length_pos_iff.2 done
      have piece := moverStored_storePiece c (a := a) (w := w.take (64 - a % 64))
        (List.length_pos_iff.1 (by rw [len]; omega)) (by rw [len]; omega)
      rcases Nat.le_total w.length (64 - a % 64) with short | long
      · rw [List.take_of_length_le short] at piece ⊢
        rw [List.drop_of_length_le short]
        have none_ : linePiecesAux n (a + (64 - a % 64)) ([] : List WinByte) = [] := by
          cases n <;> rfl
        rw [none_]
        exact piece
      · have rest := ih (storePiece c (a, w.take (64 - a % 64))) (a + (64 - a % 64)) (w.drop (64 - a % 64))
          (by rw [List.length_drop]; omega)
        have whole := piece.append (w := w.drop (64 - a % 64)) (by rw [len, Nat.min_eq_left long]; exact rest)
        rwa [List.take_append_drop] at whole

theorem moverStored_moverStore (c : Core) (a : Nat) (w : List WinByte) : MoverStored c (c.moverStore a w) a w :=
  moverStored_pieces _ c a w (by omega)

/-! ### A run and its core -/

theorem finishRun_of_done (c : Core) (m k : Nat) {r : MovRun} (total : r.written = r.total) (held : r.held = []) (sigs : r.sigs = []) :
    c.finishRun m k r =
      { (c.setMover m { c.mover m with running := (c.mover m).running.eraseIdx k }) with movDone := c.movDone + 1 } := by
  rw [Core.finishRun, if_pos ⟨total, by rw [held]; rfl, by rw [sigs]; rfl⟩]

theorem finishRun_of_left (c : Core) (m k : Nat) {r : MovRun} (left : r.written ≠ r.total ∨ r.held ≠ [] ∨ r.sigs ≠ []) :
    c.finishRun m k r = c.setMover m { c.mover m with running := (c.mover m).running.set k r } := by
  rw [Core.finishRun, if_neg]
  rintro ⟨total, held, sigs⟩
  rcases left with h | h | h
  · exact h total
  · exact h (List.isEmpty_iff.1 held)
  · exact h (List.isEmpty_iff.1 sigs)

/-! ### The start of a command (R197 to R205) -/

section
variable {s : State} {u : CoreRef} {m : MoverIx} {cmd : MovCmd} {rest : List MovCmd}
  (queue : ((s.core (refKey u)).mover m.val).queue = cmd :: rest) (squashing : ((s.core (refKey u)).mover m.val).squashing = false)
  (on : s.moverOn u = true) (waits : (s.core (refKey u)).movWaits cmd = false)
  (ahead : ∀ r ∈ ((s.core (refKey u)).mover m.val).running.getLast?, r.reads = r.srcTotal)

include queue squashing on waits ahead

theorem exec_moverCommandStart_of_cause {k : Nat} (cause : s.movStartCause u (s.core (refKey u)) cmd = some k) :
    exec (.moverCommandStart u m) s = .next (s.progFault u.pen u.logical cmd.bundle 3 k) := by
  simp only [exec, execMoverCommandStart, queue, on, squashing, waits, cause, whenOk]
  refine congrArg Host.Outcome.next (if_pos ?_)
  split
  next => rfl
  next r last => simpa using ahead r last

theorem exec_moverCommandStart_of_some (cause : s.movStartCause u (s.core (refKey u)) cmd = none)
    (moves : ((s.core (refKey u)).dstWalk cmd).1.total ≠ 0) :
    exec (.moverCommandStart u m) s = .next (s.setCore (refKey u) ((s.core (refKey u)).setMover m.val
      { (s.core (refKey u)).mover m.val with queue := rest, running := ((s.core (refKey u)).mover m.val).running ++
        [{ cmd := cmd, srcTotal := (descOf ((s.core (refKey u)).rf.dGet cmd.dsrc)).total,
           total := ((s.core (refKey u)).dstWalk cmd).1.total, out := s.newOut u cmd }] })) := by
  simp only [exec, execMoverCommandStart, queue, on, squashing, waits, cause, whenOk]
  refine congrArg Host.Outcome.next ((if_pos ?_).trans ?_)
  · split
    next => rfl
    next r last => simpa using ahead r last
  · unfold Core.dstWalk at moves ⊢
    cases kind : cmd.kind <;> rw [kind] at moves <;> exact if_neg moves

theorem exec_moverCommandStart_of_none (cause : s.movStartCause u (s.core (refKey u)) cmd = none)
    (nothing : ((s.core (refKey u)).dstWalk cmd).1.total = 0) :
    exec (.moverCommandStart u m) s = .next ((s.setCore (refKey u) { ((s.core (refKey u)).setMover m.val
      { (s.core (refKey u)).mover m.val with queue := rest }) with movDone := (s.core (refKey u)).movDone + 1 }).doneAtOnce
        u cmd (s.newOut u cmd)) := by
  simp only [exec, execMoverCommandStart, queue, on, squashing, waits, cause, whenOk]
  refine congrArg Host.Outcome.next ((if_pos ?_).trans ?_)
  · split
    next => rfl
    next r last => simpa using ahead r last
  · unfold Core.dstWalk at nothing
    cases kind : cmd.kind <;> rw [kind] at nothing <;> exact if_pos nothing

end

/-! ### Reads into the window (R205, R206, R208) -/

theorem find_of_first {pre post : List MovRun} {r : MovRun} (done : ∀ q ∈ pre, q.srcTotal ≤ q.reads) (reads : r.reads < r.srcTotal) :
    (pre ++ r :: post).find? (fun r => decide (r.reads < r.srcTotal)) = some r := by
  rw [List.find?_append, List.find?_eq_none.2 fun q hq => by have := done q hq; simp; omega, List.find?_cons_of_pos (by simpa using reads)]
  rfl

theorem replaceReader_of_first (f : MovRun → MovRun) {pre post : List MovRun} {r : MovRun} (done : ∀ q ∈ pre, q.srcTotal ≤ q.reads)
    (reads : r.reads < r.srcTotal) : replaceReader f (pre ++ r :: post) = pre ++ f r :: post := by
  induction pre with
  | nil => exact if_pos reads
  | cons q pre ih =>
    obtain ⟨first, later⟩ := List.forall_mem_cons.1 done
    rw [List.cons_append, replaceReader, if_neg (by omega), ih later]
    rfl

theorem take_of_fresh {r : MovRun} (w : List WinByte) {q : Nat} (fresh : r.cmd.kind ≠ .cmax ∨ r.reads % q = 0) :
    r.take w q = { r with reads := r.reads + 1, window := r.window ++ [w] } := by
  have : (decide (r.cmd.kind = .cmax) && decide (r.reads % q ≠ 0)) = false := by
    rcases fresh with h | h <;> simp [h]
  simp only [MovRun.take, this, Bool.false_eq_true, if_false]

theorem take_of_fold {r : MovRun} (w : List WinByte) {q : Nat} (kind : r.cmd.kind = .cmax) (later : r.reads % q ≠ 0) :
    r.take w q = { r with
      reads := r.reads + 1, window := r.window.dropLast ++ [List.zipWith maxByte (r.window.getLast?.getD w) w] } := by
  simp only [MovRun.take, kind, later, ne_eq, not_false_eq_true, decide_true, Bool.and_self, if_true]

theorem moverByte_spad (s : State) (pen : Nat) (c : Core) (a : Nat) :
    s.moverByte pen c 0 a = { val := c.spadByte a, bad := c.lineBad (a / 64), tag := none } :=
  if_pos rfl

theorem moverByte_of_ok {s : State} {pen va d : Nat} (c : Core) (ok : s.translate pen false va = .ok d) :
    s.moverByte pen c 1 va = { val := s.devByte d, bad := s.devPoison d, tag := none } := by
  rw [State.moverByte, if_neg (by decide), ok]

theorem moverByte_of_error {s : State} {pen va k : Nat} (c : Core) (error : s.translate pen false va = .error k) :
    s.moverByte pen c 1 va = { val := 0#8, bad := false, tag := some { cause := k, va := va } } := by
  rw [State.moverByte, if_neg (by decide), error]

theorem tag_spadUnit (c : Core) (a n : Nat) : (spadUnit c a n).findSome? WinByte.tag = none :=
  List.findSome?_eq_none_iff.2 fun x hx => by
    obtain ⟨i, -, rfl⟩ := List.mem_map.1 hx
    rfl

/-- A core whose mover has made a read: its runs, and the cause of the last failed translation (R206). -/
def afterRead (c : Core) (m : Nat) (runs : List MovRun) (cause : Nat) : Core :=
  { (c.setMover m { c.mover m with running := runs }) with movLastCause := cause }

theorem afterRead_of_same (c : Core) (m : Nat) (runs : List MovRun) :
    afterRead c m runs c.movLastCause = c.setMover m { c.mover m with running := runs } := rfl

/-- The crest cache after an access to the line of a translated address (R213). -/
def touchAt (place : Except Nat Nat) (s : State) : State :=
  match place with
  | .ok p => s.touchCrest (p / 64)
  | .error _ => s

/-- The cause that a unit leaves: that of its first tagged byte, else the one before. -/
def causeAfter (c : Core) (w : List WinByte) : Nat :=
  match w.findSome? WinByte.tag with
  | some t => t.cause
  | none => c.movLastCause

section
variable {s : State} {u : CoreRef} {m : MoverIx} {pre post : List MovRun} {r : MovRun}
  (running : ((s.core (refKey u)).mover m.val).running = pre ++ r :: post) (done : ∀ q ∈ pre, q.srcTotal ≤ q.reads)
  (reads : r.reads < r.srcTotal) (on : s.moverOn u = true)
  (fits : (s.core (refKey u)).windowLines (pre ++ { r with reads := r.reads + 1 } :: post) ≤ 64)
  (small : windowBytes (pre ++ { r with reads := r.reads + 1 } :: post) ≤ 4096)

include running done reads on fits small

theorem exec_moverReadReturn_of_spad (space : ctlSrc r.cmd.ctl = 0) {a : Nat}
    (here : walkAddr (descOf ((s.core (refKey u)).rf.dGet r.cmd.dsrc)) r.cmd.srcBase r.reads = a)
    (clean : (s.core (refKey u)).rangeTag a r.cmd.unit = none) :
    exec (.moverReadReturn u m) s = .next (s.setCore (refKey u) (afterRead (s.core (refKey u)) m.val
      (pre ++ r.take (spadUnit (s.core (refKey u)) a r.cmd.unit)
        (innerBound (descOf ((s.core (refKey u)).rf.dGet r.cmd.dsrc))) :: post) (s.core (refKey u)).movLastCause)) := by
  have unit : (List.range r.cmd.unit).map (fun i => s.moverByte u.pen (s.core (refKey u)) 0 (a + i)) =
      spadUnit (s.core (refKey u)) a r.cmd.unit :=
    List.map_congr_left fun i _ => moverByte_spad ..
  have notDev : ¬ (0 : Nat) = spaceDev := by decide
  simp only [exec, execMoverReadReturn, running, find_of_first done reads, replaceReader_of_first _ done reads, on, fits, small, space,
    here, spaceSpad, if_true, clean, notDev, if_false, and_false, unit, tag_spadUnit, decide_true, Bool.and_self, Bool.not_true,
    Bool.false_eq_true]
  rfl

theorem exec_moverReadReturn_of_tag (space : ctlSrc r.cmd.ctl = 0) {t : FaultTag}
    (tag : (s.core (refKey u)).rangeTag
      (walkAddr (descOf ((s.core (refKey u)).rf.dGet r.cmd.dsrc)) r.cmd.srcBase r.reads) r.cmd.unit = some t) :
    exec (.moverReadReturn u m) s = .next (s.progFault u.pen u.logical r.cmd.bundle 3 38 [ef t.cause, ef t.va]) := by
  simp only [exec, execMoverReadReturn, running, find_of_first done reads, replaceReader_of_first _ done reads, on, fits, small, space,
    spaceSpad, if_true, tag, decide_true, Bool.and_self, Bool.not_true, Bool.false_eq_true, if_false]
  rfl

theorem exec_moverReadReturn_of_dev (space : ctlSrc r.cmd.ctl = 1) {a : Nat}
    (here : walkAddr (descOf ((s.core (refKey u)).rf.dGet r.cmd.dsrc)) r.cmd.srcBase r.reads = a)
    (own : s.moverCross u r.cmd (s.accessBays u.pen false a r.cmd.unit) = none) {w : List WinByte}
    (unit : (List.range r.cmd.unit).map (fun i => s.moverByte u.pen (s.core (refKey u)) 1 (a + i)) = w) :
    exec (.moverReadReturn u m) s = .next ((if r.cmd.kind = .cmax then
        touchAt (s.translate u.pen false a) (s.noteVa u.pen a r.cmd.unit) else s.noteVa u.pen a r.cmd.unit).setCore
      (refKey u) (afterRead (s.core (refKey u)) m.val
      (pre ++ r.take w (innerBound (descOf ((s.core (refKey u)).rf.dGet r.cmd.dsrc))) :: post) (causeAfter (s.core (refKey u)) w))) := by
  have notSpad : ¬ (1 : Nat) = spaceSpad := by decide
  simp only [exec, execMoverReadReturn, running, find_of_first done reads, replaceReader_of_first _ done reads, on, fits, small, space,
    here, spaceDev, if_true, own, notSpad, if_false, and_true, unit, decide_true, Bool.and_self, Bool.not_true, Bool.false_eq_true]
  rfl

end

/-! ### Writes of units (R203, R206, R208, R281) -/

theorem hold_of_plain {m : MovCmd} (h : m.crestSlot = none) : m.crestSlot.isSome = false := by
  rw [h]
  rfl

theorem tag_of_clean {w : List WinByte} (clean : ∀ x ∈ w, x.tag = none) : w.findSome? WinByte.tag = none :=
  List.findSome?_eq_none_iff.2 clean

section
variable (s : State) (u : CoreRef) (m k : Nat) (c : Core) {r : MovRun} (pos : Nat) {w : List WinByte}

/-- The signals that go with the unit at a position (R201). -/
def sigsFrom (c : Core) (u : CoreRef) (r : MovRun) (pos : Nat) : List PendSig :=
  (sigsAt r.cmd (c.dstWalk r.cmd).1 r.total pos).map (fun g =>
    { pos := pos, owner := u.logical, ctr := g.2.1, add := g.2.2, isDone := g.1 })

/-- The address of the unit at a position. -/
def placeOf (c : Core) (r : MovRun) (pos : Nat) : Nat := walkAddr (c.dstWalk r.cmd).1 (c.dstWalk r.cmd).2 pos

theorem writeUnit_of_spad (plain : r.cmd.crestSlot = none) (space : ctlDst r.cmd.ctl = 0)
    (may : r.cmd.kind = .xfer ∨ ∀ x ∈ w, x.tag = none) :
    s.writeUnit u m k c r pos w = s.setCore (refKey u)
      ((c.moverStore (placeOf c r pos) w).finishRun m k { r with sigs := r.sigs ++ sigsFrom c u r pos }) := by
  unfold State.writeUnit
  simp only [hold_of_plain plain, space, spaceSpad]
  cases tag : w.findSome? WinByte.tag with
  | none => rfl
  | some t =>
    have kind : r.cmd.kind = .xfer := may.resolve_right fun clean => by
      rw [tag_of_clean clean] at tag
      cases tag
    exact if_pos ⟨kind, rfl, trivial⟩

theorem writeUnit_of_tag {t : FaultTag} (tag : w.findSome? WinByte.tag = some t)
    (consumed : ¬ (r.cmd.kind = .xfer ∧ r.cmd.crestSlot = none ∧ ctlDst r.cmd.ctl = 0)) :
    s.writeUnit u m k c r pos w = s.progFault u.pen u.logical r.cmd.bundle 3 38 [ef t.cause, ef t.va] := by
  unfold State.writeUnit
  simp only [tag]
  refine if_neg fun ⟨kind, plain, space⟩ => consumed ⟨kind, ?_, space⟩
  cases slot : r.cmd.crestSlot with
  | none => rfl
  | some d => simp [slot] at plain

variable (clean : ∀ x ∈ w, x.tag = none)
include clean

theorem writeUnit_of_held (held : r.cmd.crestSlot ≠ none) :
    s.writeUnit u m k c r pos w = s.setCore (refKey u) (c.finishRun m k
      { r with sigs := r.sigs ++ sigsFrom c u r pos, held := r.held ++ heldOf pos (placeOf c r pos) w }) := by
  have hold : r.cmd.crestSlot.isSome = true := Option.isSome_iff_ne_none.2 held
  unfold State.writeUnit
  simp only [tag_of_clean clean, hold]
  rfl

theorem writeUnit_of_dev (plain : r.cmd.crestSlot = none) (space : ctlDst r.cmd.ctl = 1)
    (ok : s.writeTag u.pen (placeOf c r pos) w.length = none)
    (own : s.moverCross u r.cmd (s.accessBays u.pen true (placeOf c r pos) w.length) = none) :
    s.writeUnit u m k c r pos w = (s.moverDev u.pen (placeOf c r pos) w).setCore (refKey u)
      (c.finishRun m k { r with sigs := r.sigs ++ sigsFrom c u r pos }) := by
  unfold placeOf at ok own
  unfold State.writeUnit
  simp only [tag_of_clean clean, hold_of_plain plain, space, ok, own]
  rfl

theorem writeUnit_of_peer (plain : r.cmd.crestSlot = none) (space : ctlDst r.cmd.ctl = 2) (silent : sigsFrom c u r pos = []) :
    s.writeUnit u m k c r pos w = (s.setCore (refKey u) (c.finishRun m k r)).sendPacket u.pen u.logical (ctlTarget r.cmd.ctl)
      (.spad (placeOf c r pos) (w.map (fun x => (x.val, x.bad)))) none := by
  unfold sigsFrom at silent
  unfold State.writeUnit
  simp only [tag_of_clean clean, hold_of_plain plain, space, silent]
  rfl

theorem writeUnit_of_peer_signals (plain : r.cmd.crestSlot = none) (space : ctlDst r.cmd.ctl = 2) (signals : sigsFrom c u r pos ≠ []) :
    s.writeUnit u m k c r pos w = s.setCore (refKey u) (c.finishRun m k
      { r with sigs := r.sigs ++ sigsFrom c u r pos, peer := some (placeOf c r pos, w) }) := by
  have some_ : ¬ (sigsFrom c u r pos).isEmpty = true := fun h => signals (List.isEmpty_iff.1 h)
  unfold State.writeUnit
  simp only [tag_of_clean clean, hold_of_plain plain, space]
  exact if_neg some_

theorem writeUnit_of_remote (plain : r.cmd.crestSlot = none) (space : 3 ≤ ctlDst r.cmd.ctl)
    (own : s.moverCross u r.cmd [routePrimary (routeOf (s.jobD u.pen) (ctlDevice r.cmd.ctl))] = none)
    {q : State × OutMsg} (sent : State.remoteLines u r.cmd
      (decide ((pos + 1) % blockLen (c.dstWalk r.cmd).1 (sigBlkOrd r.cmd.sig) = 0)) (decide (pos + 1 = r.total))
      ((chunks 64 w).map (fun l => (l.map WinByte.val, l.any WinByte.bad))) (placeOf c r pos) s r.out = q) :
    s.writeUnit u m k c r pos w = q.1.setCore (refKey u)
      (c.finishRun m k { r with out := q.2, sigs := (sigsFrom c u r pos).filter PendSig.isDone }) := by
  subst sent
  have notSpad : ¬ ctlDst r.cmd.ctl = spaceSpad := by unfold spaceSpad; omega
  have notDev : ¬ ctlDst r.cmd.ctl = spaceDev := by unfold spaceDev; omega
  have notPeer : ¬ ctlDst r.cmd.ctl = spacePeer := by unfold spacePeer; omega
  unfold State.writeUnit
  simp only [tag_of_clean clean, hold_of_plain plain, notSpad, notDev, notPeer, own]
  rfl

end

section
variable {s : State} {u : CoreRef} {m : MoverIx} {k : Nat} {r : MovRun} {w : List WinByte} {ws : List (List WinByte)} {b : Nat}
  (run : ((s.core (refKey u)).mover m.val).running[k]? = some r) (runs : s.coreRuns u = true) (peer : r.peer = none)
  (left : r.written < r.total) (ready : r.per * (r.written + 1) ≤ r.reads) (window : r.window = w :: ws)
  (block : r.written / blockLen ((s.core (refKey u)).dstWalk r.cmd).1 (sigBlkOrd r.cmd.sig) = b)

/-- The gate of a block lets its units pass (R202). -/
def GateOpen (c : Core) (r : MovRun) (b : Nat) : Prop :=
  ctlGated r.cmd.ctl = false ∨ b < r.opened ∨ ctlGbase r.cmd.ctl + b ≤ ((c.counter (ctlGateCtr r.cmd.ctl)).toNat : Int)

theorem gateOpen_iff (c : Core) (r : MovRun) (b : Nat) :
    GateOpen c r b ↔ ¬ (ctlGated r.cmd.ctl = true ∧ r.opened ≤ b ∧ (!c.gateOk r.cmd b) = true) := by
  rw [Bool.not_eq_true', Core.gateOk, decide_eq_false_iff_not, GateOpen]
  cases ctlGated r.cmd.ctl
  · simp
  · simp only [Bool.true_eq_false, false_or, true_and]
    omega

include run runs peer left ready window block

theorem exec_moverUnitWrite_of_closed (closed : ¬ GateOpen (s.core (refKey u)) r b) :
    exec (.moverUnitWrite u ⟨m, k⟩) s = .next (s.setCore (refKey u) ((s.core (refKey u)).setMover m.val
      { (s.core (refKey u)).mover m.val with running := ((s.core (refKey u)).mover m.val).running.set k { r with gated := true } })) := by
  have shut := not_not.1 (mt (gateOpen_iff ..).2 closed)
  simp only [exec, execMoverUnitWrite, run, runs, peer, left, ready, window, block, if_pos shut]
  rfl

theorem exec_moverUnitWrite_of_open (open_ : GateOpen (s.core (refKey u)) r b) :
    exec (.moverUnitWrite u ⟨m, k⟩) s =
      .next (s.writeUnit u m.val k (s.core (refKey u)) (unitTaken r ws b) r.written w) := by
  have pass := (gateOpen_iff ..).1 open_
  simp only [exec, execMoverUnitWrite, run, runs, peer, left, ready, window, block, if_neg pass]
  rw [unitTaken, peer]
  rfl

end

/-! ### Gates, attached signals and crested groups (R201, R202, R211) -/

section
variable {s : State} {u : CoreRef} {m : MoverIx} {k : Nat} {r : MovRun}
  (run : ((s.core (refKey u)).mover m.val).running[k]? = some r) (runs : s.coreRuns u = true)

include run runs

theorem exec_moverGateOpen_of_due (gated : r.gated = true) {b : Nat}
    (block : r.written / blockLen ((s.core (refKey u)).dstWalk r.cmd).1 (sigBlkOrd r.cmd.sig) = b)
    (due : ctlGbase r.cmd.ctl + b ≤ (((s.core (refKey u)).counter (ctlGateCtr r.cmd.ctl)).toNat : Int)) :
    exec (.moverGateOpen u ⟨m, k⟩) s = .next (s.setCore (refKey u) ((s.core (refKey u)).setMover m.val
      { (s.core (refKey u)).mover m.val with running :=
        ((s.core (refKey u)).mover m.val).running.set k { r with gated := false, opened := max r.opened (b + 1) } })) := by
  have ok : (s.core (refKey u)).gateOk r.cmd b = true := decide_eq_true due
  simp only [exec, execMoverGateOpen, run, runs, gated, block, ok]
  rfl

theorem exec_attachedSignalApply_of_due {g : PendSig} {gs : List PendSig} (sigs : r.sigs = g :: gs)
    (covered : ∀ h ∈ r.held, g.pos < h.pos) :
    exec (.attachedSignalApply u ⟨m, k⟩) s = .next
      ((s.setCore (refKey u) ((s.core (refKey u)).finishRun m.val k { r with sigs := gs, peer := none })).applyAttached u
        (s.core (refKey u)) r g) := by
  have all : r.held.all (fun h => decide (g.pos < h.pos)) = true := List.all_eq_true.2 fun h hh => decide_eq_true (covered h hh)
  simp only [exec, execAttachedSignalApply, run, runs, sigs, all]
  rfl

end

theorem linePieces_byte {α : Type} (a : Nat) (x : α) : linePieces a [x] = [(a, [x])] := by
  have short : [x].length ≤ 64 - a % 64 := by
    rw [List.length_singleton]
    omega
  rw [linePieces, linePiecesAux, if_neg (by simp)]
  dsimp only
  rw [List.take_of_length_le short, List.drop_of_length_le short]
  rfl

theorem writeTag_byte {s : State} {pen ca p : Nat} (ok : s.translate pen true ca = .ok p) : s.writeTag pen ca 1 = none := by
  rw [State.writeTag, show List.range 1 = [0] from rfl, linePieces_byte, List.findSome?_cons, ok]
  rfl

section
variable {s : State} {u : CoreRef} {m : MoverIx} {k : Nat} {r : MovRun} {d : DSlot} {g : Nat × Nat} {x : CrestCtx}
  (run : ((s.core (refKey u)).mover m.val).running[k]? = some r) (runs : s.coreRuns u = true) (slot : r.cmd.crestSlot = some d)
  (ctx : crestCtxOf ((s.core (refKey u)).rf.dGet d) = x) (whole : (s.core (refKey u)).wholeGroup x r = some g)

/-- The crest byte of a group's bytes (R96). -/
def crestByte (x : CrestCtx) (w : List WinByte) : WinByte :=
  { val := bytesCrest ((Fmt.ofCode x.fmtCode).getD .fp32) (w.map WinByte.val), bad := w.any WinByte.bad, tag := none }

/-- The run without the bytes of a group. -/
def withoutGroup (x : CrestCtx) (g : Nat × Nat) (r : MovRun) : MovRun :=
  { r with held := r.held.filter (fun h => decide (x.groupAt h.addr ≠ g)) }

include run runs slot ctx whole

theorem exec_crestedGroupWrite_of_spad (kind : r.cmd.kind = .xfer) (space : ctlDst r.cmd.ctl = 0) :
    exec (.crestedGroupWrite u ⟨m, k⟩) s = .next (s.setCore (refKey u)
      ((((s.core (refKey u)).moverStore (x.groupRange g).1 (groupBytes r (x.groupRange g))).moverStore (x.crestAddr g.1 g.2)
        [crestByte x (groupBytes r (x.groupRange g))]).finishRun m.val k (withoutGroup x g r))) := by
  simp only [exec, execCrestedGroupWrite, run, runs, slot, ctx, whole, kind, space]
  rfl

theorem exec_crestedGroupWrite_of_scan (kind : r.cmd.kind ≠ .xfer) (space : ctlSrc r.cmd.ctl = 0) :
    exec (.crestedGroupWrite u ⟨m, k⟩) s = .next (s.setCore (refKey u)
      (((s.core (refKey u)).moverStore (x.crestAddr g.1 g.2) [crestByte x (groupBytes r (x.groupRange g))]).finishRun m.val k
        (withoutGroup x g r))) := by
  have scan := decide_eq_true kind
  simp only [exec, execCrestedGroupWrite, run, runs, slot, ctx, whole, scan, space]
  rfl

variable {p : Nat} (ok : s.translate u.pen true (x.crestAddr g.1 g.2) = .ok p)

include ok

theorem exec_crestedGroupWrite_of_dev (kind : r.cmd.kind = .xfer) (space : ctlDst r.cmd.ctl = 1)
    (all : s.writeTag u.pen (x.groupRange g).1 (x.groupRange g).2 = none)
    (own : s.moverCross u r.cmd (s.accessBays u.pen true (x.groupRange g).1 (x.groupRange g).2 ++
      s.accessBays u.pen true (x.crestAddr g.1 g.2) 1) = none) :
    exec (.crestedGroupWrite u ⟨m, k⟩) s = .next ((((s.moverDev u.pen (x.groupRange g).1 (groupBytes r (x.groupRange g))).moverDev u.pen
      (x.crestAddr g.1 g.2) [crestByte x (groupBytes r (x.groupRange g))]).touchCrest (p / 64)).setCore (refKey u)
        ((s.core (refKey u)).finishRun m.val k (withoutGroup x g r))) := by
  have none_ := writeTag_byte ok
  simp only [exec, execCrestedGroupWrite, run, runs, slot, ctx, whole, kind, space, spaceSpad, all, none_, ok, ne_eq, not_true_eq_false, decide_false,
    Bool.false_eq_true, if_false, own, Nat.succ_ne_zero]
  rfl

theorem exec_crestedGroupWrite_of_dev_scan (kind : r.cmd.kind ≠ .xfer) (space : ctlSrc r.cmd.ctl = 1)
    (own : s.moverCross u r.cmd (s.accessBays u.pen true (x.crestAddr g.1 g.2) 1) = none) :
    exec (.crestedGroupWrite u ⟨m, k⟩) s = .next (((s.moverDev u.pen
      (x.crestAddr g.1 g.2) [crestByte x (groupBytes r (x.groupRange g))]).touchCrest (p / 64)).setCore (refKey u)
        ((s.core (refKey u)).finishRun m.val k (withoutGroup x g r))) := by
  have none_ := writeTag_byte ok
  have scan := decide_eq_true kind
  simp only [exec, execCrestedGroupWrite, run, runs, slot, ctx, whole, scan, space, spaceSpad, none_, ok, if_true, List.nil_append, own]
  rfl

end

/-! ### Signals of a command (R201, R273, R357) -/

/-- The destination space as a command's signals see it; a crest scan's signals are applied at the issuing core. -/
def signalSpace (m : MovCmd) : Nat :=
  match m.kind with
  | .crest _ => 0
  | _ => ctlDst m.ctl

theorem doneAtOnce_eq (s : State) (u : CoreRef) (cmd : MovCmd) (o : OutMsg) : s.doneAtOnce u cmd o =
    if signalSpace cmd = 3 then s.remoteLast u cmd o false
    else if !sigDoneEn cmd.sig then s
    else if signalSpace cmd = 2 then
      s.sendPacket u.pen u.logical (ctlTarget cmd.ctl) .signal (some (sigDoneCtr cmd.sig, sigDoneAdd cmd.sig))
    else s.applySignal u.pen u.logical (sigDoneCtr cmd.sig) (sigDoneAdd cmd.sig) := by
  unfold State.doneAtOnce signalSpace
  cases cmd.kind <;> rfl

/-- What a PEER signal travels with: the unit held for it, else nothing (R273, R281). -/
def peerBody (r : MovRun) : PktBody :=
  match r.peer with
  | some x => .spad x.1 (x.2.map (fun b => (b.val, b.bad)))
  | none => .signal

theorem applyAttached_eq (s : State) (u : CoreRef) (c : Core) (r : MovRun) (g : PendSig) : s.applyAttached u c r g =
    if signalSpace r.cmd = 2 then
      s.sendPacket u.pen u.logical (ctlTarget r.cmd.ctl) (peerBody r) (some (g.ctr, g.add))
    else if signalSpace r.cmd = 3 then
      s.remoteLast u r.cmd r.out (sigBlkEn r.cmd.sig && decide (r.total % blockLen (c.dstWalk r.cmd).1 (sigBlkOrd r.cmd.sig) = 0))
    else s.applySignal u.pen g.owner g.ctr g.add := by
  unfold State.applyAttached signalSpace peerBody
  dsimp only
  cases r.peer <;> cases r.cmd.kind <;> rfl

/-- Settles O23. -/
theorem moverCommandsRun : Obligations.MoverCommandsRun := by
  unfold Obligations.MoverCommandsRun
  refine ⟨?start, ?atOnce, ?read, ?take, ?byte, ?write, ?events, ?finish, ?store⟩
  case start =>
    intro s u m cmd rest
    dsimp only
    intro queue squashing on waits ahead
    exact ⟨fun k cause => exec_moverCommandStart_of_cause queue squashing on waits ahead cause,
      fun cause => ⟨fun moves => exec_moverCommandStart_of_some queue squashing on waits ahead cause (by omega),
        fun nothing => exec_moverCommandStart_of_none queue squashing on waits ahead cause nothing⟩⟩
  case atOnce =>
    intro s u cmd o
    change (signalSpace cmd = 3 → _) ∧ (signalSpace cmd ≠ 3 → _) ∧ (signalSpace cmd = 2 → _) ∧ (signalSpace cmd < 2 → _)
    rw [doneAtOnce_eq]
    refine ⟨fun remote => if_pos remote, fun other off => ?_, fun peer on => ?_, fun near on => ?_⟩
    · rw [if_neg other, off]
      rfl
    · rw [if_neg (by omega), on, if_pos peer]
      rfl
    · rw [if_neg (by omega), on, if_neg (by omega : ¬ signalSpace cmd = 2)]
      rfl
  case read =>
    intro s u m pre post r
    dsimp only
    intro running done reads on fits small
    refine ⟨fun space => ⟨fun clean => ?_, fun t tag => ?_⟩, fun space own => ?_⟩
    · exact exec_moverReadReturn_of_spad running done reads on fits small space rfl clean
    · exact exec_moverReadReturn_of_tag running done reads on fits small space tag
    · refine (exec_moverReadReturn_of_dev running done reads on fits small space rfl own rfl).trans ?_
      refine congrArg Host.Outcome.next (congrArg (State.setCore · _ _) ?_)
      unfold MovCmd.srcBase
      generalize s.translate u.pen false _ = place
      cases r.cmd.kind <;> cases place <;> rfl
  case take => exact fun r w q => ⟨take_of_fresh w, take_of_fold w⟩
  case byte => exact fun s pen c va => ⟨fun d => moverByte_of_ok c, fun k => moverByte_of_error c⟩
  case write =>
    intro s u m k r w ws
    dsimp only
    intro run runs peer left ready window
    refine ⟨exec_moverUnitWrite_of_closed run runs peer left ready window rfl, fun open_ => ?_⟩
    rw [exec_moverUnitWrite_of_open run runs peer left ready window rfl open_]
    refine ⟨fun plain space may => ?_, fun t tag consumed => ?_, fun clean => ⟨fun held => ?_, fun plain space ok own => ?_,
      fun plain space => ⟨fun silent => ?_, fun signals => ?_⟩, fun plain space own => ?_⟩⟩
    · exact congrArg Host.Outcome.next (writeUnit_of_spad s u m.val k (s.core (refKey u)) r.written plain space may)
    · exact congrArg Host.Outcome.next (writeUnit_of_tag s u m.val k (s.core (refKey u)) r.written tag consumed)
    · exact congrArg Host.Outcome.next (writeUnit_of_held s u m.val k (s.core (refKey u)) r.written clean held)
    · exact congrArg Host.Outcome.next (writeUnit_of_dev s u m.val k (s.core (refKey u)) r.written clean plain space ok own)
    · exact congrArg Host.Outcome.next (writeUnit_of_peer s u m.val k (s.core (refKey u)) r.written clean plain space silent)
    · exact congrArg Host.Outcome.next (writeUnit_of_peer_signals s u m.val k (s.core (refKey u)) r.written clean plain space signals)
    · exact congrArg Host.Outcome.next
        (writeUnit_of_remote s u m.val k (s.core (refKey u)) (r := unitTaken r ws _) r.written clean plain space own rfl)
  case events =>
    intro s u m k r
    dsimp only
    intro run runs
    refine ⟨fun gated => exec_moverGateOpen_of_due run runs gated rfl, fun g gs sigs covered => ?_, fun d g slot whole => ?_⟩
    · rw [exec_attachedSignalApply_of_due run runs sigs covered]
      change (signalSpace r.cmd < 2 → _) ∧ (signalSpace r.cmd = 2 → _) ∧ (signalSpace r.cmd = 3 → _)
      refine ⟨fun near => ?_, fun peer => ?_, fun remote => ?_⟩ <;> refine congrArg Host.Outcome.next ((applyAttached_eq ..).trans ?_)
      · exact (if_neg (by omega : ¬ signalSpace r.cmd = 2)).trans (if_neg (by omega : ¬ signalSpace r.cmd = 3))
      · exact if_pos peer
      · exact (if_neg (by omega : ¬ signalSpace r.cmd = 2)).trans (if_pos remote)
    · exact ⟨exec_crestedGroupWrite_of_spad run runs slot rfl whole, exec_crestedGroupWrite_of_scan run runs slot rfl whole,
        fun kind space p all ok own => exec_crestedGroupWrite_of_dev run runs slot rfl whole ok kind space all own,
        fun kind space p ok own => exec_crestedGroupWrite_of_dev_scan run runs slot rfl whole ok kind space own⟩
  case finish =>
    exact fun c m k r => ⟨finishRun_of_done c m k, finishRun_of_left c m k⟩
  case store =>
    intro c a w
    have stored := moverStored_moverStore c a w
    exact ⟨stored.only, stored.outside, stored.inside, stored.lines⟩

end Sys2Proof.Proofs
end
